-- ==== Sys2Proof/Word.lean ====
section
/-! DEFINITION. The word types every other file uses. -/

namespace Sys2Proof

/-- One byte as the manual numbers it, bit 0 least significant (R7). -/
abbrev Byte := BitVec 8

/-- One 64-bit register word (R543). -/
abbrev Word := BitVec 64

/-- One 32-byte lane item (R64); byte 0 is bits 7:0 (R7). -/
abbrev Item := BitVec 256

end Sys2Proof
end

