-- ==== Sys2Proof/Syntax.lean ====
section
/-! DEFINITION. The commands of the LN-9640: one constructor of `Instr` for each row of
spec/opcode_table.json, with the operands its rule names. A command is an act from outside (a
register access, a message, a pin event, a packet) or one step that an engine of the module takes;
what the outside delivers with the act (fetched bytes, a peer's answer, a sensor value) is an operand. -/

namespace Sys2Proof

/-- A partition number, 0 to 63 (R27). -/
abbrev Part := Fin 64
/-- A block number, 0 to 79 (R188). -/
abbrev Blk := Fin 80
/-- A fabric port, 0 to 17 (R323). -/
abbrev PortNo := Fin 18
/-- A lane number, 0 to 4,095 (Table 02-8). -/
abbrev LaneNo := Fin 4096
/-- A completion counter number, 0 to 65,535 (R31). -/
abbrev CtrNo := Fin 65536
/-- A function of port A: 0 the PF, n + 1 the VF of partition n (Table 12-2). -/
abbrev Fn := Fin 65

/-- An operand of a scalar instruction: a scalar register or a constant. -/
inductive ScalarArg where
  | reg (r : Fin 32)
  | imm (v : Word)
  deriving DecidableEq, Repr

/-- The operations of the Scalar class (Table 06-4). -/
inductive ScalarOp where
  | add | and | or | xor | shl | shr | cmpEq | cmpLt | cmpLe | mul
  deriving DecidableEq, Repr

/-- An instruction of the Scalar or Branch class (Table 06-4): a branch goes to an engine section offset, where
its condition register, if it has one, is not zero; a counted loop counts its register down and goes back while
it is not zero. -/
inductive ScalarInstr where
  | op (k : ScalarOp) (dst : Fin 32) (a b : ScalarArg)
  | branch (cond : Option (Fin 32)) (target : BitVec 32)
  | loop (count : Fin 32) (target : BitVec 32)
  deriving DecidableEq, Repr

/-- Who makes a register access (R545, R399, R221, R191): a stitch core with the scalar instructions that it executed
since its command before. -/
inductive Src where
  | host (fn : Fn)
  | mgmt
  | cobbler (p : Part) (b : Blk)
  | core (b : Blk) (c : Fin 1024) (pre : List ScalarInstr)
  deriving DecidableEq, Repr

/-- The path a management message arrived by (Table 12-5): a link of the management Ethernet (R393), I3C at the dynamic
address that the tray controller has assigned (R394), a RELAY packet of another module, which counts as a management link
(R401), the host mailbox, or DOE. -/
inductive MPath where
  | ethernet (link : Fin 2)
  | i3c (address : BitVec 7)
  | relay (device : Nat)
  | mailbox
  | doe
  deriving DecidableEq, Repr

/-- The header of a management request (Table 12-4), the path it came by and the session it came in,
if any; `received` counts the payload bytes that arrived. -/
structure MHdr where
  path : MPath
  session : Option Nat
  seq : BitVec 32
  rsn : BitVec 32
  length : Nat
  received : Nat
  deriving DecidableEq, Repr

/-- The two ways into the pattern loader (R42, R399). -/
inductive Via where
  | bar0 (fn : Fn)
  | mgmt (m : MHdr)
  deriving DecidableEq, Repr

/-- The service message header of Table 05-1. -/
structure SvcHdr where
  op : Byte
  status : Byte
  reply : Bool
  discard : Bool
  partner : Bool
  handoffSeq : Nat
  tag : BitVec 48
  fromDevice : Nat
  fromPartition : Nat
  handle : Word
  handle2 : Word
  posA : Nat
  posB : Nat
  value : Word
  msgId : Nat
  epoch : Nat
  deriving DecidableEq, Repr

/-- Who writes an item to a lane (R70). -/
inductive LaneWriter where
  | transport
  | awl
  | core (b : Blk) (c : Fin 1024)
  | cobbler (p : Part) (b : Blk)
  | host
  deriving DecidableEq, Repr

/-- A write offered to a lane: its writer, whether more offers to the lane follow in the same cycle (R66,
R70), and the scalar instructions that a core executed since its command before. -/
structure LaneOffer where
  who : LaneWriter
  more : Bool
  pre : List ScalarInstr := []
  deriving DecidableEq, Repr

/-- Who reads a lane: an engine of the module, a stitch core into a vector register, with the scalar instructions that
it executed since its command before, a Cobbler core (R191, R221). -/
inductive LaneReader where
  | engine
  | core (b : Blk) (c : Fin 1024) (dst : Fin 16) (pre : List ScalarInstr)
  | cobbler (p : Part) (b : Blk)
  deriving DecidableEq, Repr

/-- A read offered to a lane, and whether more offers to the lane follow in the same cycle (R66). -/
structure LaneTake where
  lane : LaneNo
  who : LaneReader
  more : Bool
  deriving DecidableEq, Repr

/-- Who adds to a counter or sets it (R84, R191, R221): a stitch core with the scalar instructions that it executed
since its command before. -/
inductive CtrAgent where
  | engine
  | core (b : Blk) (c : Fin 1024) (pre : List ScalarInstr)
  | cobbler (p : Part) (b : Blk)
  deriving DecidableEq, Repr

/-- A counter and the agent that acts on it. -/
structure CtrRef where
  ctr : CtrNo
  who : CtrAgent
  deriving DecidableEq, Repr

/-- Who waits on a counter (R85): the host at a wait slot of a partition, or a stitch core, with the scalar
instructions that it executed since its command before. -/
inductive Waiter where
  | host (p : Part)
  | core (b : Blk) (c : Fin 1024) (pre : List ScalarInstr)
  deriving DecidableEq, Repr

/-- What a wait names (R85): a host's wait slot, or the counter and threshold of a core's Counter wait. -/
inductive WaitOn where
  | slot (n : Fin 8)
  | counter (ctr : CtrNo) (threshold : BitVec 63)
  deriving DecidableEq, Repr

/-- What the code of the 32-byte words that a transfer read found (R316 to R318): nothing, or the partition
range offset of a word with an error and whether the error was correctable. -/
abbrev Found := Option (Word × Bool)

/-- Where the patrol scrub reads a word (R319): in a partition's range, or in a channel where no region lies. -/
inductive PatrolAt where
  | range (p : Part)
  | hbm (channel : Fin 384)
  | ddr (channel : Fin 16)
  deriving DecidableEq, Repr

/-- A stitch core with the scalar instructions that it executed since its command before, and what the code of
the bench words that its instruction reads was found to hold. -/
structure CoreRun where
  core : Fin 1024
  pre : List ScalarInstr
  found : Found
  deriving DecidableEq, Repr

/-- A block, and what the code of the words that its command reads was found to hold. -/
structure BlkRead where
  b : Blk
  found : Found
  deriving DecidableEq, Repr

/-- A partition, and what the code of the words that its command reads was found to hold. -/
structure PartRead where
  p : Part
  found : Found
  deriving DecidableEq, Repr

/-- How the sweep's rewriting of a page ends (R446): whether a write reached the page meanwhile, what the words that it read
were found to hold, and whether the drive that holds the page completed it. -/
structure SweepRead where
  written : Bool
  found : Found
  driveOk : Bool
  deriving DecidableEq, Repr

/-- A 64-byte line (address / 64), and what the code of its words was found to hold. -/
structure LineRead where
  line : Nat
  found : Found
  deriving DecidableEq, Repr

/-- How one outstanding request of an Awl ended (R100, R104): acknowledged, with what its source words were
found to hold, read data of a remote source, or failed with a code of Table 03-15. -/
inductive ReqEnd where
  | acked (found : Found)
  | data (bytes : List Byte)
  | failed (code : Byte)
  deriving DecidableEq, Repr

/-- How a run ends (R201): every core executed End, the first fault of a core, or STOP. -/
inductive RunEnd where
  | clean
  | fault (core : Fin 1024) (at_ : BitVec 32) (code : Byte)
  | stopped
  deriving DecidableEq, Repr

/-- One operand format of a MAC instruction (Table 06-10). -/
inductive MacFmt where
  | e4m3 | e5m2 | mxfp6 | mxint8 | int8 | mxfp4 | int4 | lk4 | lv6 | bf16 | fp16 | fp32
  deriving DecidableEq, Repr

/-- The operations of the Vector class (Table 06-4). -/
inductive VecOp where
  | add | mul | fma | max | min | cmpEq | cmpLt | cmpLe
  | toFp16 | toBf16 | toE4m3 | toE5m2 | toInt8 | toInt4
  | fromFp16 | fromBf16 | fromE4m3 | fromE5m2 | fromInt8 | fromInt4
  deriving DecidableEq, Repr

/-- The operations of the Vector special class (R554). -/
inductive SpecialOp where
  | exp2 | rcp | rsqrt
  deriving DecidableEq, Repr

/-- The operations of the Compact class (Table 06-4): LK4 and LV6 encode and decode, and
rotate-and-quantize of a query head; the head dimension is 64, 128 or 256. -/
inductive CompactOp where
  | lk4Encode | lk4Decode | lv6Encode | lv6Decode | rotateQuery
  deriving DecidableEq, Repr

/-- A grid neighbour (Table 06-1, R191). -/
inductive Dir where
  | north | south | west | east
  deriving DecidableEq, Repr

/-- A Cobbler core access (R221, R367). -/
inductive CobAcc where
  | load (addr : Word) (len : Nat) (found : Found)
  | store (addr : Word) (bytes : List Byte)
  | remoteLoad (device : Nat) (addr : Word) (len : Nat)
  | remoteStore (device : Nat) (addr : Word) (bytes : List Byte)
  deriving DecidableEq, Repr

/-- One stream's result of a step (R257, R283): the draft tokens offered, the tokens the main model
yielded at each fed position, whether a token is the model's end of output, and the fallback token. -/
structure StreamOut where
  tag : BitVec 48
  drafts : List (BitVec 32)
  tokens : List (BitVec 32)
  ends : List Bool
  fallback : Option (BitVec 32)
  fallbackEnds : Bool
  deriving DecidableEq, Repr

/-- One 64-byte link unit with its two block header bits (Table 10-1); byte 0 is bits 7:0. -/
structure LinkUnit where
  first : Bool
  second : Bool
  bits : BitVec 512
  deriving DecidableEq, Repr

/-- One received codeword of 10 units (R325, R328). -/
inductive Codeword where
  | good (corrected : Bool) (units : List LinkUnit)
  | uncorrectable
  deriving DecidableEq, Repr

/-- A HELLO unit (Table 10-7), and for an echo reply the loop time in ns it measures (R341). -/
structure HelloUnit where
  echoRequest : Bool
  echoReply : Bool
  device : BitVec 16
  port : Byte
  state : Byte
  serial : Word
  stamp : BitVec 32
  loopNs : Nat
  deriving DecidableEq, Repr

/-- The transport header of a received packet (Table 11-1) with the sender of its link header. -/
structure XtHdr where
  device : Nat
  srcPart : Nat
  destPart : Nat
  mapEpoch : Nat
  psn : BitVec 32
  session : BitVec 32
  ce : Bool
  deriving DecidableEq, Repr

/-- The operation fields of a MESSAGE packet (Table 11-3). -/
structure MsgFields where
  number : BitVec 32
  offset : Nat
  total : Nat
  destEndpoint : Nat
  srcEndpoint : Nat
  immediate : Word
  deriving DecidableEq, Repr

/-- An ACK packet (Tables 11-1, 11-3). -/
structure AckFields where
  device : Nat
  cls : Fin 3
  session : BitVec 32
  cum : BitVec 32
  bitmap : Word
  status : Byte
  errPsn : BitVec 32
  ceEcho : Bool
  deriving DecidableEq, Repr

/-- Where in a 128-byte slot of a BAR2 page an access falls: on one of its aligned 64-bit words, or it is not an aligned
64-bit access (R389). -/
inductive SlotWord where
  | aligned (w : Fin 16)
  | other
  deriving DecidableEq, Repr

/-- A host access through BAR4 (R388). -/
inductive Bar4Acc where
  | read (len : Nat) (found : Found)
  | write (bytes : List Byte)
  deriving DecidableEq, Repr

/-- One PCIe function met when port B is enumerated (R391, R392). -/
structure PciFunction where
  classCode : BitVec 24
  serial : List Byte
  lba4096 : Bool
  mdtsOk : Bool
  writeCache : Bool
  deriving DecidableEq, Repr

/-- One entry of a composition map (Table 12-7). -/
structure MapEntry where
  device : Nat
  partition : Nat
  role : Nat
  partner : Nat
  deriving DecidableEq, Repr

/-- One DIMM as the SPD hub and training give it (R293, Table 16-17). -/
structure Dimm where
  capacityGiB : Nat
  rate : Nat
  ecc : Bool
  manufacturer : BitVec 16
  serial : BitVec 32
  part : List Byte
  deriving DecidableEq, Repr

/-- A unit watched by the health monitor (Table 15-3). -/
inductive HealthUnit where
  | block (b : Blk)
  | stack (s : Fin 12)
  | ddr (n : Fin 16)
  | port (p : PortNo)
  | die (d : Fin 4)
  deriving DecidableEq, Repr

/-- Why the fast limiter acts (R470). -/
inductive FastCause where
  | estimate
  | comparator
  deriving DecidableEq, Repr

/-- What an instruction asks of the internal units that an unlock opens (Table 13-14): that it reaches them at all, or, of a
full unlock, to halt a block's units or let them go on, or one access to a register or to memory. -/
inductive DebugAcc where
  | select
  | halt (b : Blk) (on : Bool)
  | readReg (offset : BitVec 26)
  | writeReg (offset : BitVec 26) (value : Word)
  | readMem (offset : Word) (len : Nat)
  | writeMem (offset : Word) (bytes : List Byte)
  deriving DecidableEq, Repr

/-- What the TAP is asked (R454): of internal units, those of a partition or the module's own. -/
inductive TapInstr where
  | bypass | idcode | samplePreload | extest | clamp | internal (p : Option Part) (acc : DebugAcc)
  deriving DecidableEq, Repr

/-- One access through the flash pins of the debug connector (R430). -/
inductive FlashAcc where
  | read (kind : Fin 4) (copy : Fin 2) (offset len : Nat)
  | write (kind : Fin 4) (copy : Fin 2) (offset : Nat) (bytes : List Byte)
  deriving DecidableEq, Repr

/-- The commands, in the order of spec/opcode_table.json. -/
inductive Instr where
  -- 02 patterns
  | patBegin (via : Via) (part : Byte)
  | patChunk (via : Via) (offset length : BitVec 32) (bytes : List Byte)
  | chunkDone (fetched : Option (List Byte))
  | patCommit (via : Via) (part : Byte)
  | commitFlashDone (ok : Bool)
  | patConfirm (via : Via) (part : Byte) (arg : Word)
  | confirmRecordDone (ok : Bool)
  | confirmExpired (part : Byte)
  | patAbort (via : Via) (part : Byte)
  | patOpen (via : Via) (part : Byte)
  | patStop (via : Via) (part : Byte)
  | stopDrain (p : Part)
  -- 03 lanes, counters, Awls
  | laneWrite (lane : LaneNo) (item : Item) (writer : LaneOffer)
  | laneRead (lane : LaneTake)
  | staleTimer (lane : LaneNo)
  | hostSlotWrite (fn : Fn) (slot : Fin 512) (word : SlotWord) (value : Word)
  | hostSlotRead (fn : Fn) (slot : Fin 512) (word : SlotWord)
  | laneControlWrite (src : Src) (lane : LaneNo) (value : Word)
  | outputBacklogDrain (p : Part)
  | counterAdd (ctr : CtrRef) (amount : BitVec 63) (status : Byte)
  | counterSet (ctr : CtrRef) (value : Word) (adds : List (BitVec 63))
  | ctrAddWrite (src : Src) (p : Part) (value : Word)
  | ctrValueWrite (src : Src) (p : Part) (value : Word)
  | ctrWaitArm (src : Src) (p : Part) (slot : Fin 8) (value : Word)
  | counterWaitRelease (p : Waiter) (slot : WaitOn)
  | awlTailWrite (src : Src) (b : Blk) (awl : Fin 8) (value : Word)
  | awlRingWrite (src : Src) (b : Blk) (awl : Fin 8) (size : Bool) (value : Word)
  | move (b : Blk) (awl : Fin 8)
  | fill (b : Blk) (awl : Fin 8)
  | tack (b : Blk) (awl : Fin 8)
  | awlWaitRelease (b : Blk) (awl : Fin 8)
  | awlRequestDone (b : Blk) (awl : Fin 8) (index : BitVec 32) (req : Nat) (result : ReqEnd)
  | awlDescriptorComplete (b : Blk) (awl : Fin 8) (index : BitVec 32)
  | awlFlush (src : Src) (b : Blk) (awl : Fin 8) (value : Word)
  -- 08 admission
  | admissionItemTaken (p : Part) (lane : LaneNo)
  | signpostWalkDone (p : Part) (tag : BitVec 48) (stamp : Word) (buckets : List (Option (List Byte)))
  | tollgateRefill (customer : Fin 4096)
  | prefixCopyCheck (p : Part) (tag : BitVec 48) (copied : Bool) (entry : Option (List Byte))
  -- 05 service messages
  | openLast (p : Part) (h : SvcHdr)
  | openPartner (p : Part) (h : SvcHdr) (senderLength : Nat)
  | commit (p : Part) (h : SvcHdr)
  | commitHeldResume (p : Part) (slot : Nat)
  | release (p : Part) (h : SvcHdr)
  | transfer (p : Part) (h : SvcHdr)
  | query (p : Part) (h : SvcHdr) (payload : List Byte)
  | queryChunksDone (p : PartRead) (fromDevice fromPartition msgId : Nat)
  | handoff (p : Part) (h : SvcHdr) (record : List Byte)
  | cancel (p : Part) (h : SvcHdr)
  | grow (p : Part) (h : SvcHdr)
  | serviceReply (p : Part) (h : SvcHdr) (payload : List Byte)
  | grantReceived (p : Part) (h : SvcHdr) (payload : List Byte) (source : Option (List Byte))
  | transferReply (p : Part) (h : SvcHdr)
  | handoffReply (p : Part) (h : SvcHdr)
  | serviceTimeout (p : Part) (msgId : Nat)
  | handoffNextDue (p : Part) (tag : BitVec 48)
  | lastGrowthCopyDone (p : PartRead) (slot : Nat) (code : Byte)
  | lastOldFootprintFree (p : Part) (slot : Nat)
  | lastPromotionDone (p : PartRead) (slot : Nat) (code : Byte)
  | lastTtlCheck (p : Part)
  | lastTierMoveDone (p : PartRead) (slot : Nat) (code : Byte)
  | lastRebuild (p : Part)
  | cancelSubmit (src : Src) (p : Part) (slot : Fin 8) (value : Word)
  | forwardingExpire (p : Part) (tag : BitVec 48)
  -- 07, 08 steps
  | stepBoundary (p : Part)
  | stepCommit (p : Part) (results : List StreamOut)
  | queryWaitExpire (p : Part) (tag : BitVec 48) (layer : Nat)
  | firstDueExpire (p : Part) (tag : BitVec 48)
  | contextSwapIn (p : Part)
  | ctxBlockExpire (p : Part)
  | swapInDone (p : PartRead) (model : Byte) (code : Byte)
  | roundaboutSelect (r : Fin 16)
  | sendMessage (r : Fin 16)
  | sendRelease (r : Fin 16)
  | crossingEntryStart (list : Fin 64)
  | alignInEdge
  | align (fromDevice : Nat) (count : BitVec 32)
  -- 06 engine
  | engLaunch (src : Src) (b : Blk) (value : Word)
  | engStop (src : Src) (b : Blk) (value : Word)
  | engineRunEnd (b : Blk) (how : RunEnd) (cycles : Nat)
  | mac (b : Blk) (core : CoreRun) (acc : Fin 8) (fa fb : MacFmt) (va vb : Fin 16) (scales : List Byte)
  | vectorSpecial (b : Blk) (core : CoreRun) (op : SpecialOp) (dst src : Fin 16)
  | compact (b : Blk) (core : CoreRun) (op : CompactOp) (head : Fin 3) (srcOff dstOff : Nat)
  | benchLoad (b : Blk) (core : CoreRun) (dst : Fin 16) (off : Nat) (len : Nat)
  | exchange (b : Blk) (core : CoreRun) (dir : Dir) (srcOff dstOff : Nat)
  | barrier (b : Blk) (core : CoreRun)
  | barrierRelease (b : Blk)
  | endRun (b : Blk) (core : CoreRun)
  | cobblerAccessFault (p : Part) (b : Blk) (addr : Word)
  -- 07 attention
  | attnTailWrite (src : Src) (b : Blk) (value : Word)
  | attend (b : BlkRead)
  | attendComplete (b : Blk) (index : BitVec 32)
  | attnFlush (src : Src) (b : Blk) (value : Word)
  -- 09 memory
  | migTailWrite (src : Src) (p : Part) (value : Word)
  | movePages (p : Part)
  | pageMoveDone (p : PartRead) (page : Nat) (written : Bool)
  | migrationEntryDone (p : Part)
  | nvmeCompletion (drive : Fin 8) (cmd : Nat) (ok : Bool) (status : Word) (data : List Byte)
  | nvTimeout (drive : Fin 8) (cmd : Nat)
  | nvMappingWrite (src : Src) (p : Part) (reg : Fin 3) (nv : Bool) (entry : Fin 16) (value : Word)
  | patrolScrub (p : PatrolAt) (off : Word) (correctable : Bool) (passEnds : Bool)
  -- 10 links
  | serdesGroupWake (g : Fin 9)
  | trainingDone (port : PortNo) (reversed : Bool)
  | trainingTimeout (port : PortNo)
  | hello (port : PortNo) (u : HelloUnit)
  | helloTimer (port : PortNo)
  | helloMissing (port : PortNo)
  | downRetrain (port : PortNo)
  | codewordReceived (port : PortNo) (cw : Codeword)
  | credit (port : PortNo) (freed : List (BitVec 32))
  | creditTimer (port : PortNo)
  | sync (port : PortNo) (sent : List (BitVec 32))
  | syncTimer (port : PortNo)
  | packetHeader (port : Option PortNo)
  | packetDelivered (packet : List Byte)
  | portTransmit (port : PortNo)
  | retrain (src : Src) (port : PortNo) (value : Word)
  | disable (src : Src) (port : PortNo) (value : Word)
  | fpCreditsWrite (src : Src) (port : PortNo) (hi : Bool) (value : Word)
  | routeWrite (src : Src) (bank : Fin 2) (dest : BitVec 16) (value : Word)
  | fabBankWrite (src : Src) (bank : Fin 2) (value : Word)
  | fabCurrentWrite (src : Src) (value : Word)
  | fabDeviceWrite (src : Src) (value : Word)
  -- 11 transport
  | read (x : XtHdr) (addr : Word) (length : Nat)
  | write (x : XtHdr) (addr : Word) (length : Nat) (bytes : List Byte)
  | atomic (x : XtHdr) (addr : Word) (aop size : Byte) (operand compare : Word)
  | squareLineFill (line : LineRead)
  | message (x : XtHdr) (m : MsgFields) (bytes : List Byte)
  | readData (x : XtHdr) (status : Byte) (bytes : List Byte)
  | atomicData (x : XtHdr) (status : Byte) (old : Word)
  | ack (a : AckFields)
  | ackTimer (device : Nat) (cls : Fin 3)
  | resendTimer (device : Nat) (cls : Fin 3) (psn : BitVec 32)
  | targetTimeout (device : Nat)
  | peerContextFree (device : Nat)
  | kerbsideFetchDone (p : Part) (ep : Nat)
  | epEmptyExpire (p : Part) (ep : Nat)
  | enable (src : Src) (p : Part) (ep : BitVec 16)
  | epDisable (src : Src) (p : Part) (ep : BitVec 16)
  | epFlush (src : Src) (p : Part) (ep : BitVec 16)
  | srqTailWrite (src : Src) (p : Part) (q : Fin 16) (value : Word)
  | clear (src : Src) (value : Word)
  | cobblerFence (b : Blk) (device : Nat)
  -- 12 host and management
  | hostBar4Access (fn : Fn) (offset : Nat) (acc : Bar4Acc)
  | perst (low : Bool)
  | functionLevelReset (fn : Fn)
  | rescan (src : Src) (value : Word) (found : List PciFunction)
  | send (fn : Fn) (value : Word)
  | identify (m : MHdr)
  | readReg (m : MHdr) (offset : BitVec 32) (count : Nat)
  | writeReg (m : MHdr) (offset : BitVec 32) (values : List Word)
  | mapInstall (m : MHdr) (comp epoch total first : Nat) (entries : List MapEntry)
  | mapSwitch (m : MHdr) (comp epoch : Nat)
  | mapRetire (m : MHdr) (comp epoch : Nat)
  | mapRead (m : MHdr) (comp epoch first : Nat)
  | eventsRead (m : MHdr) (seq : Nat)
  | eventsAck (m : MHdr) (seq : Nat)
  | noticeRead (m : MHdr)
  | telemetrySet (m : MHdr) (period : Nat)
  | telemetry
  | alignSet (m : MHdr) (source : Byte) (fromDevice : Nat) (targets : List Nat)
  | reset (m : MHdr)
  | relay (m : MHdr) (device : Nat) (bytes : List Byte)
  -- 13 trust
  | report (m : MHdr) (scope : Byte) (nonce : List Byte)
  | endorsement (m : MHdr)
  | slotWrite (m : MHdr) (slot : Nat) (counter : Word) (key signature : List Byte)
  | policySet (m : MHdr) (counter : Word) (value : Word) (signature : List Byte)
  | reclaim (m : MHdr)
  | fwStage (m : MHdr) (kind : Nat) (offset : Nat) (bytes : List Byte)
  | bind (m : MHdr) (record : List Byte) (signature : List Byte)
  | verifyWeights (m : MHdr) (part model : Byte)
  | verifyWeightsDone (p : Part) (model : Byte)
  | keyRotate (m : MHdr) (part : Byte)
  | sweepPageDone (p : Part) (page : Nat) (read : SweepRead)
  | keyRetire (m : MHdr) (part : Byte) (force : Bool)
  | generationRetired (p : Part)
  | signatureDone (flashOk : Bool)
  | getVersion (m : MHdr)
  | getCapabilities (m : MHdr)
  | negotiateAlgorithms (m : MHdr)
  | challenge (m : MHdr) (nonce : List Byte)
  | keyExchange (m : MHdr) (requesterKey signature : List Byte)
  | heartbeat (m : MHdr)
  | keyUpdate (m : MHdr)
  | endSession (m : MHdr)
  | chunkSend (m : MHdr) (handle chunk : Nat) (last : Bool) (bytes : List Byte)
  | chunkGet (m : MHdr) (handle chunk : Nat)
  | scrubDone (p : Part)
  | dbgChallenge
  | dbgToken (token signature : List Byte)
  | dbgLock
  -- 14 power
  | clockLoopTick (tMax tMaxDistrict inlet outlet : Nat)
  | powerEstimateTick (raw inputW voltage10mV : Nat) (parts : List (Nat × Nat))
  | calibrationTick (measured raw : Nat)
  | fastLimit (cause : FastCause)
  | fastLimitClear
  | startGrant (riseOk : Bool)
  | blockOffTimer (b : Blk)
  | blockWakeDone (b : Blk)
  | blkHintWrite (src : Src) (b : Blk) (value : Word)
  | blkArriveRead (src : Src) (b : Blk)
  | blkPeerDelayWrite (src : Src) (b : Blk) (value : Word)
  | followExpire (p : Part)
  | cutEntry (coolantLowUs : Nat) (junction : Nat)
  | resume (src : Src) (value : Word) (coolantHighUs : Nat) (junction : Nat)
  -- 15 recovery
  | doubtCheck (unit : HealthUnit) (mgmtFaulty dataFaulty : Bool)
  | quiesce (src : Src) (p : Part) (value : Word)
  | quiesced (p : Part)
  | leaseExpire
  | selftestDone (failed : List HealthUnit)
  | graceExpire
  | leaseRenew (m : MHdr)
  | fence (m : MHdr)
  | reinstate (m : MHdr) (device : Nat) (boot : BitVec 32)
  | standIn (m : MHdr) (device : Nat)
  | teardown (m : MHdr) (comp : Nat)
  | doubtRelease (m : MHdr) (unitKind action : Byte) (unit : BitVec 16)
  -- 16, 17 sequences, pins and control space
  | inputPowerArrive (milliVolts : Nat) (pwrGood coolantOk resetN : Bool)
  | keptEntry
  | bootMemoryStart (dimms : List (Option Dimm)) (stackIds : List (List Byte))
  | verifiedEntry
  | pwrGoodFall (samples : Nat)
  | inputVoltageFault (milliVolts : Nat) (heldUs : Nat)
  | powerDownDone (pwrGood : Bool)
  | moduleResetN (high : Bool) (samples : Nat)
  | cabPresent (g : Fin 9) (high : Bool)
  | cabOvercurrent (g : Fin 9) (milliAmps : Nat)
  | modReset (src : Src) (value : Word)
  | intEnableWrite (src : Src) (value : Word)
  | registerWrite (src : Src) (offset : BitVec 26) (width : Nat) (value : Word)
  | vector (b : Blk) (core : CoreRun) (op : VecOp) (dst a1 a2 a3 : Fin 16)
  | benchStore (b : Blk) (core : CoreRun) (src : Fin 16) (off : Nat) (len : Nat)
  | cobblerLoadStore (p : Part) (b : Blk) (acc : CobAcc)
  | overvoltageHoldExpire (milliVolts : Nat) (below58Us : Nat)
  | nvmeDriveFailed (drive : Fin 8) (status : Word)
  | pcieLinkTrain (portB : Bool) (up : Bool) (rate : Fin 7) (width : Nat)
  | mgmtLinkChange (link : Fin 2) (up : Bool)
  | cabResetRelease (g : Fin 9)
  | portBPerstRelease
  | tapInstruction (t : TapInstr)
  | debugFlashAccess (acc : FlashAcc)
  deriving DecidableEq, Repr

end Sys2Proof
end

