-- ==== Sys2Proof/Config.lean ====
section
/-! DEFINITION. What one module fixes for its whole life, and the free values. Every constant here is
opaque: nothing can evaluate it, so a claim holds whatever it is (notes/assumptions/4.md). -/

namespace Sys2Proof.Config

/-- The module serial, 64 bits (R539). -/
opaque serial : Word
/-- Cold-plate code: true for CP2 (0x02), false for CP1 (0x01) (R1, Table 17-4). -/
opaque coldPlateTwoPhase : Bool
/-- MFG_YEAR and MFG_WEEK of MOD_INFO (Table 17-4). -/
opaque mfgYear : Byte
opaque mfgWeek : Byte
/-- The vendor identifier that MGMT_VENDOR reads (R396). -/
opaque vendor : BitVec 32
/-- Fused identity of compute die n, 0 to 19, and I/O die n, 20 to 23 (R541): 16 bytes. -/
opaque dieId : Nat → BitVec 128
/-- IDENTITY_KEY and Shanapor's signature over it (R432): its bytes by index. -/
opaque identityKey : Nat → Byte
opaque endorsement : Nat → Byte
/-- The byte that copy `copy` of firmware image KIND `kind` was made with at an offset (R428). -/
opaque fwImageByte : (kind copy offset : Nat) → Byte
/-- The SHAKE256 digest of the firmware signer's key that the fuses hold, by index (R422). -/
opaque fwKeyDigest : (i : Nat) → Byte
/-- Byte `i` of the key pair of generation `gen` of a partition, made when `n` free values had been taken: the random bit
generator's (R443). -/
opaque dataKey : (part gen n i : Nat) → Byte

/-- What a vector max or min does where IEEE 754 editions differ: a NaN beside a number gives NaN (true)
or the number; of zeros of opposite sign the first (true) or the second is taken. -/
opaque maxNanIsNan : Bool
opaque maxTakesFirst : (a b : BitVec 32) → Bool
/-- The lane value that a vector compare writes for false and for true. -/
opaque compareLane : Bool → BitVec 32
/-- What a NaN becomes in a conversion to INT8 or INT4, as a code of `bits` bits. -/
opaque nanToInt : (bits : Nat) → Nat
/-- The word that a scalar compare writes for false and for true, and whether it compares signed. -/
opaque compareWord : Bool → Word
opaque compareSigned : Bool
/-- What a shift of a scalar by 64 or more gives, left or right, by its operands. -/
opaque shiftBeyond : (left : Bool) → (a b : Word) → Word
/-- The bytes of a destination register that a conversion to elements of `width` bits leaves unstated, by
the source register. -/
opaque convRest : (width : Nat) → (src : BitVec 512) → (i : Nat) → Byte
/-- What the registers and accumulators of core `core` hold at the start of a run, but s0, s1 and s2: the same at every
run (R215). -/
opaque startScalar : (core r : Nat) → Word
opaque startVector : (core v : Nat) → BitVec 512
opaque startAcc : (core i : Nat) → BitVec 32
/-- Requests beyond the first that the Squares hold before they accept no more (R366). -/
opaque squareRoom : Nat
/-- Byte `i` of the OUT words of an EMPTY partial, by the bytes of its query head. -/
opaque emptyOut : (query : List Byte) → (i : Nat) → Byte
/-- The mantissa of a NaN in a conversion to BF16 or FP16, by mantissa width. -/
opaque nanPayload : (bits : Nat) → Nat

/-- Free value number `n` as one byte, 64 bits, or bytes by index. -/
opaque freeByte : (n i : Nat) → Byte
opaque freeWord : Nat → Word
opaque freeNat : Nat → Nat
opaque freeBool : Nat → Bool

end Sys2Proof.Config
end

