-- ==== Sys2Proof/Machine/State.lean ====
section
/-! DEFINITION. The state of one LN-9640 as plain data, and the state right after reset.
Numbers that the manual only counts with are `Nat`; words that software reads and writes whole, and
fields cut out of them, are bit vectors or are narrowed where they are written (Machine/Regs.lean).
A map keyed by a number is a list of pairs in rising key order; an absent key stands for the
structure's default values, which are its reset values. -/

namespace Sys2Proof.Machine

/-- A finite map: pairs of key and value, keys strictly rising (its operations: Machine/Ops.lean). -/
abbrev KMap (α : Type) := List (Nat × α)

/-- Why the machine stops with a fault. -/
inductive Fault where
  /-- Raised by INPUT_VOLTAGE_FAULT and CUT_ENTRY on an input voltage or a junction temperature beyond
  Table 16-9: under such stress the manual makes no statement about the module (R528). Safe. -/
  | beyondAbsoluteMaxima
  deriving DecidableEq, Repr

/-- Why a command has no meaning. -/
inductive Refusal where
  /-- Raised by an arm of Dispatch whose command has no meaning yet. Safe. -/
  | notModelled (mnemonic : String)
  deriving DecidableEq, Repr

/-! ### What the module puts on its boundary -/

/-- A transport packet built by this module (Tables 10-3, 11-1, 11-3). -/
structure TxPacket where
  dest : Nat
  cls : Nat
  op : Nat
  status : Byte := 0
  srcPart : Nat := 0
  destPart : Nat := 0
  mapEpoch : Nat := 0
  psn : BitVec 32 := 0
  session : BitVec 32 := 0
  /-- The 32 bytes of Table 11-3 from packet offset 0x20. -/
  fields : List Byte := []
  payload : List Byte := []
  pinned : Bool := false
  flow : Nat := 0
  ceEcho : Bool := false
  deriving DecidableEq, Repr

/-- Output pins and sideband signals of the module (Tables 16-4, 16-6, 16-7). -/
inductive Pin where
  | trayAlertN
  | cab3v3 (g : Nat)
  | cabResetN (g : Nat)
  | perstB
  deriving DecidableEq, Repr

/-- An admin command to a drive on port B (Table 09-3): Identify, or the I/O queue pair of a partition. -/
inductive NvmeAdmin where
  | identify
  | smartLog
  | createQueue (p : Nat)
  | deleteQueue (p : Nat)
  deriving DecidableEq, Repr

/-- What an event on the trace port is about, by its number: a lane, a counter, an Awl, or the commands of a block (Table
13-14). -/
inductive TraceUnit where
  | lane
  | counter
  | awl
  | command
  deriving DecidableEq, Repr

/-- An event on the trace port: its unit and an offset, and no data (Table 13-14). -/
structure TraceEvent where
  unit : TraceUnit
  number : Nat
  offset : Nat
  deriving DecidableEq, Repr

/-- One thing the module has put on its boundary. -/
inductive Emit where
  | msix (fn vector : Nat) (address : Word) (data : BitVec 32)
  | readValue (fn : Nat) (value : Word)
  | hostRead (addr len : Nat)
  | readBytes (fn : Nat) (bytes : List Byte)
  | unsupported (fn : Nat)
  | completerAbort (fn : Nat)
  | mgmtReply (m : MHdr) (command : Nat) (status : Byte) (payload : List Byte)
  | trustReply (m : MHdr) (op : Nat) (status : Byte) (payload : List Byte)
  | spdmReply (m : MHdr) (request : Nat) (ok : Bool) (payload : List Byte)
  | notice (path : MPath) (command seq : Nat) (payload : List Byte)
  | service (toDevice toPart : Nat) (h : SvcHdr) (payload : List Byte)
  | packet (p : TxPacket)
  | forwarded (port : Nat) (bytes : List Byte)
  | localDelivery (bytes : List Byte)
  | hello (port : Nat) (u : HelloUnit)
  | creditUnit (port : Nat) (freed : List (BitVec 32))
  | syncUnit (port : Nat) (sent : List (BitVec 32))
  | class0 (dest kind : Nat) (count : BitVec 32) (bytes : List Byte)
  | relayed (m : MHdr) (bytes : List Byte)
  | portB (firstBus lastBus windowGiB : Nat) (enabled : List (List Byte))
  | nvme (drive cmd opcode nsid : Nat) (lba : Nat) (bytes : List Byte) (blocks : Nat)
  | nvmeAdmin (drive : Nat) (c : NvmeAdmin)
  | pin (p : Pin) (high : Bool)
  | tap (accepted : Bool) (bytes : List Byte)
  | flash (bytes : List Byte)
  | alignSent (device : Nat) (delayNs : Nat)
  | cobblerData (block : Nat) (code : Byte) (bytes : List Byte)
  | cobblerFenced (block : Nat)
  deriving DecidableEq, Repr

/-! ### The pattern (02) -/

/-- Module piece (Table 02-4). -/
structure ModulePiece where
  ports : Nat
  lease : Nat
  grace : Nat
  powerCap : Nat
  ramp : Nat
  flags : Nat
  spareGroup : Nat
  deriving DecidableEq, Repr

/-- Partition piece (Table 02-5); masks are numbers read by `Nat.testBit`. -/
structure PartPiece where
  role : Nat
  tenant : Nat
  insoleMax : Nat
  mirror : Nat
  ddrMask : Nat
  tail : Nat
  powerCap : Nat
  blockMask : Nat
  hbmMask : Nat
  modelMask : Nat
  deriving DecidableEq, Repr

/-- Model piece (Table 02-6). -/
structure ModelPiece where
  owner : Nat
  model : Nat
  format : Nat
  draft : Nat
  fallback : Nat
  draftMax : Nat
  layers : Nat
  kvHeads : Nat
  head : Nat
  weightBytes : Nat
  digest : List Byte
  deriving DecidableEq, Repr

/-- Last classes piece (Table 02-7). -/
structure LastClasses where
  keyFormat : Nat
  valueFormat : Nat
  capacities : List Nat
  deriving DecidableEq, Repr

/-- One lane entry (Table 02-8) with its owner. -/
structure LaneEntry where
  owner : Nat
  lane : Nat
  kind : Nat
  stale : Nat
  vector : Nat
  deriving DecidableEq, Repr

/-- Counters piece (R31). -/
structure CounterRange where
  owner : Nat
  first : Nat
  count : Nat
  deriving DecidableEq, Repr

/-- Roundabout queue entry (Table 02-9). -/
structure RaQueue where
  queue : Nat
  lane : Nat
  parent : Nat
  quantum : Nat
  deriving DecidableEq, Repr

/-- Roundabout piece (R32). -/
structure RaPiece where
  owner : Nat
  number : Nat
  queues : List RaQueue
  deriving DecidableEq, Repr

/-- Tollgate entry (Table 02-10) with its owner. -/
structure TollEntry where
  owner : Nat
  customer : Nat
  mode : Nat
  depth : Nat
  refill : Nat
  interval : Nat
  deriving DecidableEq, Repr

/-- Crossing list entry (Table 08-5). -/
structure XEntry where
  duration : Nat
  opens : Nat
  signal : Bool
  counter : Nat
  deriving DecidableEq, Repr

/-- Crossing list piece (R34). -/
structure XPiece where
  owner : Nat
  list : Nat
  align : Nat
  entries : List XEntry
  deriving DecidableEq, Repr

/-- Placement entry (Table 02-11) with its owner. -/
structure PlaceEntry where
  owner : Nat
  tier : Nat
  use : Nat
  model : Nat
  pinned : Bool
  start : Nat
  length : Nat
  deriving DecidableEq, Repr

/-- Program piece (R36). -/
structure ProgPiece where
  owner : Nat
  slot : Nat
  length : Nat
  digest : List Byte
  image : List Byte
  deriving DecidableEq, Repr

/-- A pattern: the header fields that outlive the load, and its pieces (02). -/
structure Pattern where
  serial : Nat := 0
  window : Nat := 0
  target : Nat := 255
  totalLength : Nat := 0
  baseDigest : List Byte := []
  bodyDigest : List Byte := []
  module : Option ModulePiece := none
  parts : KMap PartPiece := []
  models : List ModelPiece := []
  /-- Model pieces that a partial pattern dropped or altered, as each other partition that names them goes on
  with them until it is restructured itself (R63). -/
  heldModels : List (Nat × ModelPiece) := []
  lastClasses : Option LastClasses := none
  lanes : List LaneEntry := []
  counters : List CounterRange := []
  roundabouts : List RaPiece := []
  tollgates : List TollEntry := []
  crossings : List XPiece := []
  placements : List PlaceEntry := []
  programs : List ProgPiece := []
  deriving DecidableEq, Repr

/-- A chunk accepted and not yet fetched (R45); the management path brings its bytes with it. -/
structure Chunk where
  offset : Nat
  length : Nat
  bytes : Option (List Byte)
  deriving DecidableEq, Repr

/-- A retained image: its bytes, SERIAL and, once confirmed, the confirm count (R53, R54). -/
structure Kept where
  image : List Byte
  serial : Nat
  count : Nat
  deriving DecidableEq, Repr

/-- The confirmed and the trial partial pattern of one partition kept with a slot (R61). -/
structure KeptPartial where
  confirmed : Option Kept := none
  trial : Option Kept := none
  deriving DecidableEq, Repr

/-- A retained pattern slot (Table 02-17): STATE 0 empty, 1 trial, 2 confirmed, 3 unreadable. -/
structure Slot where
  state : Nat := 0
  kept : Option Kept := none
  running : Bool := false
  partials : KMap KeptPartial := []
  /-- Partial floors of the slot's full pattern (R41). -/
  floors : KMap Nat := []
  deriving DecidableEq, Repr

/-- A pattern on trial (R52): its window in local ms, counted from the accepted OPEN. -/
structure Trial where
  serial : Nat
  window : Nat
  openedAt : Option Nat := none
  expired : Bool := false
  deriving DecidableEq, Repr

/-- PAT_EVENTS (Table 02-18). -/
structure PatEvents where
  chunkDone : Bool := false
  restoredOlder : Bool := false
  confirmExpired : Bool := false
  failed : Bool := false
  committed : Bool := false
  deriving DecidableEq, Repr

/-- The pattern loader (02 R42). -/
structure Loader where
  arg : Word := 0
  chunkAddr : Word := 0
  receiving : Bool := false
  target : Nat := 255
  staged : List Byte := []
  chunks : List Chunk := []
  status : Nat := 0
  faultPiece : Nat := 0
  faultOffset : Nat := 0
  /-- The image that passed validation and whose retained write is under way (R47). -/
  committing : Option Pattern := none
  waitingScrub : Bool := false
  /-- The CONFIRM whose flash record is being written: its PARTITION, and the partial image it confirms
  (R53, R61). -/
  confirming : Option Nat := none
  confirmImage : Option Kept := none
  /-- Accepted CONFIRMs whose records follow, oldest first. -/
  confirmWaiting : List (Nat × Option Kept) := []
  events : PatEvents := {}
  slotA : Slot := {}
  slotB : Slot := {}
  confirmCount : Nat := 0
  serialFloor : Nat := 0
  fullTrial : Option Trial := none
  partialTrials : KMap Trial := []
  deriving DecidableEq, Repr

/-! ### Lanes, counters, Awls (03) -/

/-- A Lane FIFO (R64) with its pattern entry and registers (Tables 03-5 to 03-7). -/
structure Lane where
  owner : Nat := 255
  kind : Nat := 0
  stale : Nat := 0
  vector : Nat := 255
  items : List Item := []
  /-- Items and reads offered in one cycle and not yet taken: they wait at the lane port (R66, R70). -/
  portWrites : List (LaneWriter × Item) := []
  portReads : List LaneReader := []
  staleBit : Bool := false
  overrun : Bool := false
  intStale : Bool := false
  intOverrun : Bool := false
  intArm : Bool := false
  drops : Nat := 0
  /-- Local counter value at the latest restart of the stale-tail timer (R71). -/
  restart : Nat := 0
  fired : Bool := false
  deriving DecidableEq, Repr

/-- The two host slots of a doorbell slot (R79). -/
structure HostSlot where
  words : KMap Word := []
  captured : Option Item := none
  /-- The captured item has been removed from the lane. -/
  taken : Bool := false
  deriving DecidableEq, Repr

/-- A completion counter (R83). -/
structure Counter where
  owner : Nat := 255
  value : Nat := 0
  fault : Bool := false
  deriving DecidableEq, Repr

/-- A host wait slot (Table 03-9). -/
structure WaitSlot where
  armed : Bool := false
  vector : Nat := 0
  counter : Nat := 0
  threshold : Nat := 0
  /-- FAULT as the latest release reported it (R85). -/
  faultSeen : Bool := false
  deriving DecidableEq, Repr

/-- A descriptor of Table 03-10, or of Table 04-8 where OPCODE is TACK (`dst` then holds INDEX,
`length` ROW_BYTES, `dstLimit` ROWS, `rows` the low and `srcStride` the high half of WINDOW_BASE, and
`dstStride` WINDOW_UNITS). -/
structure Descriptor where
  opcode : Nat
  transform : Nat
  flags : Nat
  doneLane : Nat
  device : Nat
  src : Nat
  dst : Nat
  length : Nat
  dstLimit : Nat
  rows : Nat
  srcStride : Nat
  dstStride : Nat
  waitCounter : Nat
  signalCounter : Nat
  waitValue : Nat
  tag : Word
  deriving DecidableEq, Repr

/-- Where a request goes, as it was issued (R299): to memory of this module, over the fabric, to a drive,
from a drive to memory of this module, or, as a Flush, to a namespace of a drive (Table 09-3). -/
inductive ReqWay where
  | own
  | remote
  | nvWrite
  | nvRead
  | flush (drive nsid : Nat)
  deriving DecidableEq, Repr

/-- One request of a started descriptor (R100): `row` of the descriptor, bytes `off` to `off + len` of
the row's output (of the source row, for a read of a remote source). -/
structure AwlReq where
  id : Nat
  read : Bool
  row : Nat
  off : Nat
  len : Nat
  way : ReqWay := .own
  /-- The generations under which it decrypts (R447). -/
  gens : List Nat := []
  deriving DecidableEq, Repr

/-- Who put a descriptor into a ring: a program, or the holder's firmware, for the prefill of a request (R158),
for a flush (R172) or for a prefix copy (Table 08-2). -/
inductive MoveOwner where
  | program
  | prefill (tag : BitVec 48)
  | flush (tag : BitVec 48)
  | prefixCopy (tag : BitVec 48)
  deriving DecidableEq, Repr

/-- A descriptor in progress (R99 to R104). -/
structure AwlJob where
  index : BitVec 32
  desc : Descriptor
  issue : List AwlReq := []
  outstanding : List AwlReq := []
  /-- Source bytes that remote reads have brought: row, offset in the row, bytes. -/
  fetched : List (Nat × Nat × List Byte) := []
  /-- TACK: the index table as read after the wait; none for SKIP (R140, R141). -/
  table : List (Option Nat) := []
  /-- TACK: bytes acknowledged of each row (R142). -/
  rowDone : KMap Nat := []
  status : Byte := 0
  detail : Nat := 0
  doneBytes : Nat := 0
  /-- The drives, each with its namespace, whose write cache holds bytes of the descriptor: a Flush to each
  ends it (Table 09-3). -/
  cached : List (Nat × Nat) := []
  owner : MoveOwner := .program
  deriving DecidableEq, Repr

/-- An Awl and its registers (Tables 03-16, 03-17). -/
structure Awl where
  base : Nat := 0
  size : Nat := 4
  tail : BitVec 32 := 0
  head : BitVec 32 := 0
  tailError : Bool := false
  lastFail : Byte := 0
  flushing : Bool := false
  done : Nat := 0
  /-- The entries of the ring that the holder's firmware put there, by their count: whose they are, and the
  descriptor. -/
  owned : KMap (MoveOwner × Descriptor) := []
  /-- The checked descriptor that waits on its counter (R99). -/
  waiting : Option AwlJob := none
  jobs : List AwlJob := []
  deriving DecidableEq, Repr

/-! ### Engines and attention (06, 07) -/

/-- One stitch core (Table 06-2); its bench is in memory. -/
structure Core where
  scalars : KMap Word := []
  vectors : KMap (BitVec 512) := []
  /-- Accumulator elements, keyed by tile x 64 + row x 8 + column. -/
  acc : KMap (BitVec 32) := []
  sat : Bool := false
  nanSeen : Bool := false
  ended : Bool := false
  atBarrier : Bool := false
  /-- Engine section offset of the next instruction (R194). -/
  pc : BitVec 32 := 0
  /-- The counter and threshold of a wait that stops the core, and the FAULT its latest release reported
  (R85). -/
  wait : Option (Nat × Nat) := none
  faultSeen : Bool := false
  /-- The core number, once a run has begun: what it has not written since reads as Config.startScalar and its like
  have it, and zero before any run. -/
  began : Option Nat := none
  deriving DecidableEq, Repr

/-- The engine registers of a block (Tables 06-5 to 06-7) and its run. -/
structure Engine where
  arg : Word := 0
  faultCore : Nat := 0
  launchRefused : Bool := false
  faultCode : Byte := 0
  slot : Nat := 0
  entry : Nat := 0
  state : Nat := 0
  cycles : Nat := 0
  faultAt : BitVec 32 := 0
  signal : Bool := false
  signalCounter : Nat := 0
  bound : Nat := 0
  /-- Code with which a run that is stopping will end (R201). -/
  stopCode : Byte := 0
  /-- The instruction store, and the slot whose engine section it holds (R200). -/
  store : List Byte := []
  loaded : Option Nat := none
  deriving DecidableEq, Repr

/-- An attention command (Table 07-1). -/
structure AttnCmd where
  opcode : Nat
  formats : Nat
  flags : Nat
  kvHeads : Nat
  group : Nat
  queries : Nat
  scale : BitVec 32
  query : Nat
  kvBase : Nat
  ring : Nat
  origin : Nat
  start : Nat
  end_ : Nat
  qpos : Nat
  outLimit : Nat
  out : Nat
  inn : Nat
  waitCounter : Nat
  signalCounter : Nat
  waitValue : Nat
  tag : Word
  deriving DecidableEq, Repr

/-- An attention command in progress with the status it will complete with. -/
structure AttnJob where
  index : BitVec 32
  cmd : AttnCmd
  status : Byte := 0
  /-- Its wait on its counter has been released (R85). -/
  released : Bool := false
  /-- The generations under which it decrypts (R447). -/
  gens : List Nat := []
  deriving DecidableEq, Repr

/-- The attention ring of a block (Tables 07-3, 07-4). -/
structure Attn where
  base : Nat := 0
  size : Nat := 4
  tail : BitVec 32 := 0
  head : BitVec 32 := 0
  tailError : Bool := false
  lastFail : Byte := 0
  failTag : Word := 0
  done : Nat := 0
  flushing : Bool := false
  /-- The checked command that waits on its counter, on an engine run or on its block's wake. -/
  waiting : Option AttnJob := none
  jobs : List AttnJob := []
  deriving DecidableEq, Repr

/-- Power state of a block (R462) and what it waits for. -/
structure BlockPower where
  state : Nat := 2
  gatedSince : Nat := 0
  waking : Bool := false
  startAsked : Bool := false
  deriving DecidableEq, Repr

/-- A block: engine, attention ring, power. -/
structure Block where
  eng : Engine := {}
  attn : Attn := {}
  pwr : BlockPower := {}
  /-- Partition context of the block's Cobbler core: 0 idle, 1 running, 2 stopped (R219, R221). -/
  cobbler : Nat := 0
  /-- Since when the checks of R492 have found the block in RUN and completing nothing (Table 15-3). -/
  stallSince : Option Nat := none
  /-- A full unlock of the debug connector holds its units halted (Table 13-14). -/
  halted : Bool := false
  deriving DecidableEq, Repr

/-! ### Requests and Lasts (04, 05, 07, 08) -/

/-- A request record (Table 04-1). -/
structure Record where
  phase : Nat := 0
  model : Nat := 0
  fallback : Bool := false
  cancel : Bool := false
  onMirror : Bool := false
  newLast : Bool := false
  atLimit : Bool := false
  customer : Nat := 0
  tag : BitVec 48 := 0
  holderDevice : Nat := 0
  holderPartition : Nat := 0
  last : Word := 0
  mirror : Word := 0xFFFF_FFFF_FFFF_FFFF
  seq : Nat := 0
  length : Nat := 0
  tailOrigin : Nat := 0
  tailBase : Nat := 0
  promptTokens : Nat := 0
  prefixTokens : Nat := 0
  prompt : Nat := 0
  tail : Word := 0xFFFF_FFFF_FFFF_FFFF
  firstDue : Nat := 0xFFFF_FFFF_FFFF_FFFF
  nextDue : Nat := 0xFFFF_FFFF_FFFF_FFFF
  nextLimit : Nat := 0
  outputCount : Nat := 0
  lastToken : BitVec 32 := 0xFFFF_FFFF
  step : Nat := 0
  draftLen : Nat := 0
  rejectRun : Nat := 0
  draftPause : Nat := 0
  fallbackCount : Nat := 0
  epoch : Nat := 0
  handoffSeq : Nat := 0
  chainHash : List Byte := []
  runtime : List Byte := []
  deriving DecidableEq, Repr

/-- A prefix copy in progress (Table 08-2): source handle and the entry noted at step 2. -/
structure PrefixCopy where
  source : Word
  base : Nat
  cls : Nat
  accepted : Bool
  /-- The entry of step 2 has been noted. -/
  noted : Bool
  tier : Nat := 0
  /-- The MOVEs of step 3 that have not completed, and whether one of them has failed. -/
  moves : Nat := 0
  failed : Bool := false
  deriving DecidableEq, Repr

/-- A COMMIT that waits until the writes to its copy have completed: the copy's handle, FROM and TO (R159,
R172). `failed` says that a write of a prefill to the copy has failed and is to be made again first. -/
structure CommitDue where
  copy : Word
  lo : Nat
  hi : Nat
  failed : Bool := false
  deriving DecidableEq, Repr

/-- What a holder keeps beside a record until the request ends: the walk, the grant, the hand-off and
the COMMITs and cancels under way. -/
structure Live where
  req : Record
  walking : Bool := false
  walkMatch : Nat := 0
  walkNode : Option Nat := none
  walkLast : Word := 0
  walkTable : Option Nat := none
  walkStamp : Word := 0
  /-- Bucket reads of the walk not yet sent (R267). -/
  walkLeft : List Nat := []
  /-- REFS of the matched node is raised (R266). -/
  nodeHeld : Bool := false
  charged : Bool := false
  granted : Bool := false
  held : Bool := false
  /-- Capacity and BASE of each copy as the grant, or the latest GROW reply, gives them. -/
  capacity : Nat := 0
  base : Word := 0
  mirrorCapacity : Nat := 0
  mirrorBase : Word := 0xFFFF_FFFF_FFFF_FFFF
  copy : Option PrefixCopy := none
  /-- FROM and TO of COMMITs begun and not yet answered, for the primary and the mirror; those of them that
  wait for the writes to their copy are also in `due`. -/
  commitsPrimary : List (Nat × Nat) := []
  commitsMirror : List (Nat × Nat) := []
  due : List CommitDue := []
  /-- End of the flush that waits for GROW replies. -/
  flushTo : Option Nat := none
  /-- The copies whose GROW or RELEASE reply is awaited. -/
  awaits : List Word := []
  /-- Copies that were lost (R182). -/
  lost : List Word := []
  /-- RELEASE waits until writes in progress have completed; its DISCARD (R179). -/
  releaseDue : Option Bool := none
  finalCode : Byte := 0
  finalToken : Option (BitVec 32) := none
  finalNoToken : Bool := false
  releasing : Bool := false
  cancelSlots : List Nat := []
  cancelMsgs : List SvcHdr := []
  /-- The target that HANDOFF was sent to last, and its MSG_ID (R163). -/
  handoffTo : Option Nat := none
  handoffId : Nat := 0
  /-- The Last is being released out of PHASE 0x03: a holder that RELEASE finds has accepted the hand-off
  (R169). -/
  handing : Bool := false
  unfed : List (BitVec 32) := []
  inBatch : Bool := false
  marked : Bool := false
  left : Bool := false
  /-- The request has ended and its final item waits for its place in the output lane (R69, R170). -/
  ended : Bool := false
  /-- Prompt tokens that the chunks of a combined partition have prefilled (R287). -/
  filled : Nat := 0
  /-- What the step in flight takes: prompt tokens in PHASE 0x01, else draft tokens (R255, R287). -/
  stepTake : Nat := 0
  deriving DecidableEq, Repr

/-- A record taken from a HANDOFF whose TRANSFERs are not all answered (R165): the partition is not its holder
yet. `ready` says that they are, so that the next step boundary accepts it (R167). -/
structure Taking where
  req : Record
  h : SvcHdr
  ready : Bool := false
  deriving DecidableEq, Repr

/-- A Last directory entry (Table 04-6). -/
structure DirEntry where
  state : Nat := 0
  cls : Nat := 0
  tier : Nat := 0
  isMirror : Bool := false
  reuse : Nat := 0
  waiters : Nat := 0
  base : Nat := 0
  length : Nat := 0
  readers : Nat := 0
  holderTag : BitVec 48 := 0
  holderDevice : Nat := 0
  partner : Word := 0xFFFF_FFFF_FFFF_FFFF
  idleSince : Nat := 0
  holderPartition : Nat := 0
  layers : Nat := 0
  kvHeads : Nat := 0
  head : Nat := 0
  model : Nat := 0
  deriving DecidableEq, Repr

/-- A growth, promotion, tier move or recovery of a Last under way (R129, R156, R310, R185). -/
structure LastJob where
  /-- 0 growth for GROW, 1 growth for OPEN, 2 promotion, 3 downward move, 4 recovery from the partner, 5 asking
  the partner whether it holds the Last. -/
  kind : Nat
  newBase : Nat
  newCls : Nat
  newTier : Nat
  size : Nat
  /-- The GROW or OPEN that waits. -/
  waiting : Option SvcHdr := none
  /-- LENGTH of the sender's copy, where the OPEN has PARTNER set (R155). -/
  peer : Nat := 0
  /-- A move to or from NVMe: the commands not yet sent, as offset from BASE and length, the first code with which
  one has failed, and the drives, each with its namespace, whose write cache is to be flushed (R301, R310). -/
  nv : List (Nat × Nat) := []
  nvCode : Byte := 0
  cached : List (Nat × Nat) := []
  /-- The copy has met an uncorrectable word in its source (R313). -/
  sourceBad : Bool := false
  deriving DecidableEq, Repr

/-- What a service request that waits for idle Lasts to move down is about to do (R311). -/
inductive RoomFor where
  | alloc
  | promote (slot : Nat)
  | grow (slot need kind : Nat)
  | partner (slot : Nat)
  | recover (slot reuse cls length : Nat)
  deriving DecidableEq, Repr

/-- A request that waits for the downward move of slot `moving`, the moves that it may still cause in HBM and
in DDR5, and LENGTH of its sender's copy (R311). -/
structure RoomWait where
  h : SvcHdr
  what : RoomFor
  moving : Nat
  left : Nat × Nat
  peer : Nat := 0
  deriving DecidableEq, Repr

/-- A service message arriving at endpoint 0: its sender, its bytes so far by offset (R144, R374). -/
structure SvcIn where
  device : Nat
  part : Nat
  number : BitVec 32
  total : Nat
  got : List (Nat × List Byte) := []
  deriving DecidableEq, Repr

/-- An old footprint kept until the reads that began before the switch have ended (R129 step 5). -/
structure OldFootprint where
  slot : Nat
  base : Nat
  size : Nat
  readers : Nat
  deriving DecidableEq, Repr

/-- A QUERY in service (R247). -/
structure QueryJob where
  h : SvcHdr
  payload : List Byte
  slot : Nat
  /-- MSG_ID of the stripe forwarded to the partner and its reply, once there (R248, R249). -/
  stripe : Option Nat := none
  stripeReply : Option (List Byte) := none
  stripeFailed : Bool := false
  striped : Bool := false
  /-- BASE and CLASS as the read began (R130). -/
  base : Nat := 0
  cls : Nat := 0
  /-- The generations under which it decrypts (R447). -/
  gens : List Nat := []
  deriving DecidableEq, Repr

/-- A service request sent and not yet answered (R147, R149). -/
structure SvcSent where
  h : SvcHdr
  toDevice : Nat
  toPart : Nat
  sentAt : Nat
  payload : List Byte := []
  /-- A forwarded CANCEL: the slots and the CANCEL requests that its reply completes (R181). -/
  slots : List Nat := []
  msgs : List SvcHdr := []
  /-- A QUERY whose stream has left its step, or whose step is replayed: its reply is discarded (R282). -/
  stale : Bool := false
  deriving DecidableEq, Repr

/-- A service reply given, kept for R148. -/
structure SvcAnswer where
  h : SvcHdr
  payload : List Byte
  at_ : Nat
  deriving DecidableEq, Repr

/-- A forwarding entry (R181). -/
structure Forward where
  tag : BitVec 48
  device : Nat
  partition : Nat
  at_ : Nat
  deriving DecidableEq, Repr

/-- HO_TARGET(i) (Table 05-11) with the moment its last reply reported no free tail (R162). -/
structure HoTarget where
  valid : Bool := false
  partition : Nat := 0
  device : Nat := 0
  fullAt : Option Nat := none
  deriving DecidableEq, Repr

/-- A cancel slot (Table 05-12). -/
structure CancelSlot where
  armed : Bool := false
  vector : Nat := 0
  status : Byte := 0
  tag : BitVec 48 := 0
  deriving DecidableEq, Repr

/-- The Last service and the service of endpoint 0 of one partition (05). -/
structure PLast where
  dir : KMap DirEntry := []
  waiting : KMap (List SvcHdr) := []
  heldCommits : KMap (List SvcHdr) := []
  /-- GROWs that wait for a growth or a move of their Last to end. -/
  heldGrows : KMap (List SvcHdr) := []
  /-- OPENs with PARTNER set that wait for a growth or a move to end, each with LENGTH of its sender's copy
  (R155). -/
  partnerWaiting : KMap (List (SvcHdr × Nat)) := []
  jobs : KMap LastJob := []
  /-- Requests that wait for room (R311). -/
  room : List RoomWait := []
  olds : List OldFootprint := []
  queries : List QueryJob := []
  arriving : List SvcIn := []
  received : List SvcHdr := []
  answers : List SvcAnswer := []
  sent : KMap SvcSent := []
  partnerLost : Bool := false
  /-- OPEN requests that wait for their partner's grant, by the MSG_ID of the partner OPEN, each with its
  slot. -/
  partnerOpens : KMap (Nat × SvcHdr) := []
  ttlHbm : Nat := 300
  ttlDdr : Nat := 3600
  ttlNvme : Nat := 86400
  lastCheck : Nat := 0
  /-- The partition has begun as a stand-in, and none of its partners has been lost since (R186). -/
  standIn : Bool := false
  newcomer : Bool := false
  /-- Layer planes that are taken from the partner, by the MSG_ID of the probe for each: slot and layer (R184). -/
  repairs : KMap (Nat × Nat) := []
  /-- The rebuilding of a partner (R186): whether it has begun, the next slot to look at, the map epoch it belongs
  to, the slots in flight, those that an OPEN or a COMMIT has brought up, and the OPENs sent for it by MSG_ID, each
  with its slot. -/
  rebuildOn : Bool := false
  rebuildNext : Nat := 0
  rebuildEpoch : Nat := 0
  rebuilding : List Nat := []
  brought : List Nat := []
  bringUps : KMap Nat := []
  hoTimeout : Nat := 2000
  targets : KMap HoTarget := []
  lastTarget : Option Nat := none
  forwards : List Forward := []
  cancels : KMap CancelSlot := []
  stripeMin : Nat := 0
  served : Nat := 0
  striped : Nat := 0
  stripeLocal : Nat := 0
  deriving DecidableEq, Repr

/-- A step of a partition in flight (07, 08, R496). -/
structure StepRun where
  start : Nat
  streams : List (BitVec 48)
  code : Byte := 0
  failed : Bool := false
  /-- The step is to run again once the partition is quiesced (R497). -/
  replay : Bool := false
  deriving DecidableEq, Repr

/-- A context of a swappable model (R288). -/
structure Ctx where
  slot : Option Nat := none
  swapping : Option Nat := none
  lastRun : Nat := 0
  runnableSince : Option Nat := none
  forcedIn : Bool := false
  deriving DecidableEq, Repr

/-- Deadline and context registers as written; a value applies from the next step boundary (Table 08-7). -/
structure DlWritten where
  queryWait : Nat := 0
  firstEnd : Bool := false
  worstCase : Bool := false
  wcFirst : Nat := 0
  ctxBlockMin : Nat := 2000
  deriving DecidableEq, Repr

/-- A token item that waits to be written; `mine` says that it belongs to a live request, and not to one that
was not taken in (R69, R115). -/
structure OutItem where
  item : Item
  mine : Bool
  deriving DecidableEq, Repr

/-- A node to be inserted into a prefix table, its LINK still without its parent; `update` says that only BLOCKS
of a head node is to be written (R269). -/
structure InsNode where
  bytes : List Byte
  update : Bool
  deriving DecidableEq, Repr

/-- A node being claimed by a compare-and-swap: its index, its bytes 0x10 to 0x13 as they were read, and, where
it is a victim, the node that it names as parent (R269). -/
structure NodeClaim where
  node : Nat
  word : Nat
  parent : Option Nat
  deriving DecidableEq, Repr

/-- Insertions that follow one another in a prefix table: the table's SP_TABLE entry, the nodes left, the node
index of the block before, and the node being claimed (R269). -/
structure Insert where
  id : Nat
  table : Nat
  nodes : List InsNode
  parent : Option Nat := none
  claiming : Option NodeClaim := none
  deriving DecidableEq, Repr

/-- The holder, admission, deadline, speculation and context state of one partition (07, 08). -/
structure PHold where
  lives : List Live := []
  /-- HANDOFF requests that wait for the step boundary, their records with NEXT_DUE as counter value (R15,
  R165), and the records being taken. -/
  handoffs : List (SvcHdr × Record) := []
  taking : List Taking := []
  /-- Descriptors of the holder that wait for a place in a ring. -/
  moves : List (MoveOwner × Descriptor) := []
  backlog : List OutItem := []
  /-- The latest step of a combined partition decoded, so that a chunk of prefill is next (R287). -/
  chunkNext : Bool := false
  inserts : List Insert := []
  insertSeq : Nat := 0
  step : Option StepRun := none
  durations : List Nat := []
  reserve : Nat := 0
  spTable : KMap Word := []
  spBase : KMap Word := []
  spDirectory : KMap Word := []
  walks : Nat := 0
  insertDropped : Nat := 0
  margin : Nat := 1000
  fallbackEst : Nat := 1000
  queryWait : Nat := 0
  firstEnd : Bool := false
  worstCase : Bool := false
  noFallback : Bool := false
  wcStep : Nat := 0
  wcFirst : Nat := 0
  boundExceeded : Bool := false
  fallbackTokens : Nat := 0
  missed : Nat := 0
  combinedChunk : Nat := 512
  ctxBlockMin : Nat := 2000
  forced : Nat := 0
  blockedSince : Option Nat := none
  ctxs : KMap Ctx := []
  specOff : Bool := false
  written : DlWritten := {}
  drafted : Nat := 0
  accepted : Nat := 0
  deriving DecidableEq, Repr

/-! ### Schedulers (08) -/

/-- A request in a shaping hold: partition, tag and charge (R272). -/
structure HeldReq where
  part : Nat
  tag : BitVec 48
  charge : Nat
  deriving DecidableEq, Repr

/-- A Tollgate (R270 to R275). -/
structure Toll where
  owner : Nat := 255
  mode : Nat := 0
  level : Int := 0
  depth : Nat := 0
  refill : Nat := 0
  interval : Nat := 1
  sDepth : Nat := 0
  sRefill : Nat := 0
  sInterval : Nat := 1
  pending : Bool := false
  lastRefill : Nat := 0
  hold : List HeldReq := []
  deriving DecidableEq, Repr

/-- A Roundabout member: a queue, or the own lane of a queue that is a parent (R276). -/
structure RaMember where
  deficit : Nat := 0
  fresh : Bool := false
  quantum : Nat := 0
  staged : Option Nat := none
  deriving DecidableEq, Repr

/-- A message in progress of a Roundabout (R370): packet offsets not yet sent and sent but not yet
acknowledged, and the bytes sent. -/
structure MsgSend where
  item : Item
  part : Nat
  number : BitVec 32
  todo : List Nat
  outstanding : List Nat := []
  sent : Nat := 0
  status : Byte := 0
  deriving DecidableEq, Repr

/-- A Roundabout (R276, Table 08-4): members keyed by queue, or 65,536 + queue for a parent's own
lane; active lists keyed by parent queue, 65,535 for the root. -/
structure Roundabout where
  owner : Nat := 255
  queues : List RaQueue := []
  members : KMap RaMember := []
  active : KMap (List Nat) := []
  shape : Nat := 0
  shapeOn : Bool := false
  selected : Option Item := none
  sending : List MsgSend := []
  deriving DecidableEq, Repr

/-- A Crossing list (R278 to R280). -/
structure Crossing where
  owner : Nat := 255
  align : Nat := 0
  entries : List XEntry := []
  offset : Nat := 0
  running : Bool := false
  current : Nat := 0
  alignments : Nat := 0
  /-- An alignment has been received and entry 0 has not started yet. -/
  restart : Bool := false
  deriving DecidableEq, Repr

/-! ### Memory (09) -/

/-- A migration entry (Table 09-4). -/
structure MigEntry where
  op : Nat
  tier : Nat
  flags : Nat
  pages : Nat
  start : Nat
  waitCounter : Nat
  signalCounter : Nat
  waitValue : Nat
  deriving DecidableEq, Repr

/-- A migration entry in progress: pages still to move, restarts of the page being copied (R307). -/
structure MigJob where
  entry : MigEntry
  left : List Nat
  restarts : Nat := 0
  status : Byte := 0
  waiting : Bool := false
  /-- The page being copied has taken its page of the destination pool (R307 step 1). -/
  taken : Bool := false
  deriving DecidableEq, Repr

/-- An NVMe command outstanding for an Awl request (R302). -/
structure NvCmd where
  id : Nat
  drive : Nat
  awl : Nat
  index : BitVec 32
  req : Nat
  write : Bool
  part : Nat
  addr : Nat
  len : Nat
  sentAt : Nat
  nsid : Nat := 0
  flush : Bool := false
  /-- The slot whose move the command belongs to, where no Awl request waits for it (R310). -/
  last : Option Nat := none
  /-- The partition range offset of the bytes on the drive. -/
  off : Nat := 0
  /-- A Write: the blank pages whose rest it fills; no other command reaches them meanwhile (R444). -/
  fill : List Nat := []
  /-- A Read: the generation of each of its pages, and the number that made its key (R443, R447). -/
  keys : List (Nat × Nat × Nat) := []
  deriving DecidableEq, Repr

/-- The memory registers of one partition (Table 09-7). -/
structure PMem where
  base : Nat := 0
  size : Nat := 4
  tail : BitVec 32 := 0
  head : BitVec 32 := 0
  tailError : Bool := false
  lastFail : Byte := 0
  failAt : Nat := 0
  job : Option MigJob := none
  /-- The partition quiesces: later entries wait (R497). -/
  held : Bool := false
  /-- Pages that lie in the tier their placement does not name: page number, tier. -/
  pageTier : KMap Nat := []
  nvTimeout : Nat := 500000
  nbLocal : KMap Word := []
  nbLender : KMap Word := []
  nbOffset : KMap Word := []
  nvLocal : KMap Word := []
  nvDrive : KMap Word := []
  nvLba : KMap Word := []
  nvOverlap : BitVec 8 := 0
  deriving DecidableEq, Repr

/-- Correctable and uncorrectable word counts of a channel (Table 09-9). -/
structure Ecc where
  corrected : Nat := 0
  uncorrectable : Nat := 0
  deriving DecidableEq, Repr

/-- A drive on port B (Table 09-9, R392). -/
structure Drive where
  state : Nat := 0
  cache : Bool := false
  serial : List Byte := []
  deriving DecidableEq, Repr

/-! ### Fabric (10, 11) -/

/-- Per-VL credit counts of a port (R335, R336). -/
structure VlCounts where
  sent : BitVec 32 := 0
  peerFreed : BitVec 32 := 0
  freed : BitVec 32 := 0
  received : BitVec 32 := 0
  deriving DecidableEq, Repr

/-- A packet waiting at an output port: input (0 to 17 a port, 18 the module's own), its bytes. -/
structure Queued where
  input : Nat
  /-- The VL by which it arrived, whose buffer it holds. -/
  vlIn : Nat
  bytes : List Byte
  /-- The routing entry whose candidates it has (R343). -/
  entry : Word := 0
  /-- Its input still receives it: what has not come is zeros here. -/
  coming : Bool := false
  /-- It lost a unit while it was forwarded, and its buffer is freed already (R328). -/
  lost : Bool := false
  deriving DecidableEq, Repr

/-- What the choice at its header has made of the packet that a port is receiving (R343). -/
inductive RxFate where
  | unread
  | here
  | forwarded
  | dropped
  deriving DecidableEq, Repr

/-- A fabric port (Tables 10-10, 10-11). -/
structure Port where
  state : Nat := 0
  laneReversed : Bool := false
  retrains : Nat := 0
  neighbourChanged : Bool := false
  looped : Bool := false
  duplicate : Bool := false
  disable : Bool := false
  credits : List Nat := [1024, 1024, 1024, 1024, 1024, 1024, 1024, 1024]
  nbSerial : Word := 0
  nbDevice : BitVec 16 := 0
  nbPort : Byte := 0
  helloAt : Option Nat := none
  helloSentAt : Option Nat := none
  loops : List Nat := []
  /-- An echo has come back since the port last entered HELLO from TRAINING: FP_LOOP is measured (Table 10-6). -/
  echoed : Bool := false
  corrected : Nat := 0
  uncorrectable : Nat := 0
  uncorrAt : List Nat := []
  rxPackets : Nat := 0
  rxControls : Nat := 0
  txUnits : Nat := 0
  rxUnits : Nat := 0
  vls : KMap VlCounts := []
  creditAt : Nat := 0
  creditChanged : Bool := false
  /-- When the latest CREDIT unit arrived (Table 15-3). -/
  creditRxAt : Nat := 0
  syncAt : Nat := 0
  enteredAt : Nat := 0
  /-- Units of the packet being received, and whether payload is being discarded (R328). -/
  rxUnitsNow : List (BitVec 512) := []
  rxFate : RxFate := .unread
  discarding : Bool := false
  rxQueue : List (List Byte) := []
  txQueue : List Queued := []
  turn : Nat := 18
  /-- The port has been UP since it last entered TRAINING. -/
  reached : Bool := false
  deriving DecidableEq, Repr

/-- FAB_BANK(b) and its routing entries (Tables 10-8, 10-12). -/
structure Bank where
  epoch : Nat := 0
  valid : Bool := false
  clash : Bool := false
  routes : KMap Word := []
  deriving DecidableEq, Repr

/-- A packet sent and not yet acknowledged (R359, R360). -/
structure Unacked where
  pkt : TxPacket
  firstAt : Nat
  lastAt : Nat
  interval : Nat
  skipped : Nat := 0
  /-- What waits on it: 0 nothing, 1 an Awl request, 2 a message, 3 a Cobbler load. -/
  owner : Nat := 0
  ownerA : Nat := 0
  ownerB : Nat := 0
  ownerC : Nat := 0
  deriving DecidableEq, Repr

/-- Send and receive state of one class towards one peer (R355 to R359). -/
structure Session where
  started : Bool := false
  window : Nat := 256
  nextPsn : BitVec 32 := 0
  session : BitVec 32 := 0
  unacked : List Unacked := []
  waiting : List Unacked := []
  halvedAt : Option Nat := none
  rxStarted : Bool := false
  rxSession : BitVec 32 := 0
  rxCum : BitVec 32 := 0
  /-- Class 2: the PSN that the Squares are to be given next (R356). -/
  rxNext : BitVec 32 := 0
  handled : List (BitVec 32) := []
  failedPsns : List (BitVec 32) := []
  unreported : Nat := 0
  unreportedAt : Option Nat := none
  ceSeen : Bool := false
  /-- MAP_EPOCH, DEST_PARTITION and SRC_PARTITION of the request handled last, which the next ACK carries back (Table
  11-1, R410). -/
  ackEpoch : Nat := 0
  ackFrom : Nat := 0
  ackTo : Nat := 0
  deriving DecidableEq, Repr

/-- A peer context (R354). -/
structure Peer where
  lost : Bool := false
  inUse : Bool := false
  c1 : Session := {}
  c2 : Session := {}
  atomics : List (BitVec 32 × Word) := []
  /-- READ and ATOMIC requests sent whose data has not come (R356, R359). -/
  awaiting : List Unacked := []
  lastRx : Nat := 0
  deriving DecidableEq, Repr

/-- A class-2 request held in the reorder store or waiting at its Square (R356, R366). -/
inductive Req2 where
  | read (x : XtHdr) (addr : Word) (length : Nat)
  | write (x : XtHdr) (addr : Word) (length : Nat) (bytes : List Byte)
  | atomic (x : XtHdr) (addr : Word) (aop size : Byte) (operand compare : Word)
  deriving DecidableEq, Repr

/-- A class-2 request delivered to the home Squares: the lines (address / 64) still to be applied, and
the bytes read so far by offset (R364, R366). -/
structure HomeJob where
  req : Req2
  lines : List Nat
  got : List (Nat × List Byte) := []
  status : Byte := 0
  arrivedAt : Nat := 0
  /-- The request repeats one handled before (R357). -/
  again : Bool := false
  /-- The generations under which it decrypts (R447). -/
  gens : List Nat := []
  deriving DecidableEq, Repr

/-- An endpoint context on chip (Table 11-5). -/
structure Endpoint where
  state : Nat := 0
  kind : Nat := 0
  srq : Nat := 0
  error : Byte := 0
  noticeLane : Nat := 0
  itemLane : Nat := 0
  counter : Nat := 0
  signal : Bool := false
  received : Nat := 0
  sent : Nat := 0
  emptySince : Option Nat := none
  used : Nat := 0
  deriving DecidableEq, Repr

/-- A shared receive queue (Table 11-7). -/
structure Srq where
  base : Nat := 0
  size : Nat := 4
  tail : BitVec 32 := 0
  head : BitVec 32 := 0
  /-- Buffers kept for reuse: offset, length, cookie (R379). -/
  kept : List (Nat × Nat × BitVec 32) := []
  deriving DecidableEq, Repr

/-- A reassembly entry (R374). -/
structure Reasm where
  device : Nat
  srcPart : Nat
  number : BitVec 32
  endpoint : Nat
  srcEndpoint : Nat
  buffer : Nat
  size : Nat
  cookie : BitVec 32
  total : Nat
  count : Nat
  refused : Bool
  immediate : Word
  /-- Offsets of the packets that a refused message has counted: a duplicate counts once (R374). -/
  counted : List Nat := []
  deriving DecidableEq, Repr

/-- A packet parked in Kerbside (R377). -/
structure Parked where
  x : XtHdr
  m : MsgFields
  bytes : List Byte
  deriving DecidableEq, Repr

/-- The transport registers of one partition (Table 11-7). -/
structure PXt where
  tableBase : Nat := 0
  epCount : Nat := 1
  cmdCode : Byte := 0
  emptyLimit : Nat := 10000
  kerbDiscards : Nat := 0
  reasmDiscards : Nat := 0
  raDiscards : Nat := 0
  msgDiscards : Nat := 0
  eps : KMap Endpoint := []
  /-- Endpoints whose STATE is not 0, on chip or not. -/
  enabled : List Nat := []
  clock : Nat := 0
  srqs : KMap Srq := []
  reasm : List Reasm := []
  parked : List Parked := []
  fetches : List Nat := []
  /-- Endpoints whose context fetch waits for a request slot of Awl 7 (R100, R377). -/
  fetchWait : List Nat := []
  deriving DecidableEq, Repr

/-- The module's fabric and transport registers (Tables 10-12, 11-9). -/
structure Fabric where
  device : BitVec 16 := 0xFFFF
  bank0 : Bank := {}
  bank1 : Bank := {}
  current : Bool := false
  hopLimit : Nat := 16
  hopWeight : Nat := 64
  markUnits : Nat := 512
  uncorrLimit : Nat := 8
  dropHops : Nat := 0
  dropBank : Nat := 0
  dropEntry : Nat := 0
  dropCheck : Nat := 0
  rto : Nat := 16
  targetTimeout : Nat := 2000
  windowInit : Nat := 256
  peerSelect : Nat := 0
  dropPeer : Nat := 0
  dropReorder : Nat := 0
  dropOp : Nat := 0
  lostCount : Nat := 0
  ports : KMap Port := []
  peers : KMap Peer := []
  reorder : List Req2 := []
  /-- Lines (address / 64) present in a combining buffer, oldest first, and the requests that the Squares
  have accepted and not yet applied whole, in order of arrival. -/
  lines : List Nat := []
  home : List HomeJob := []
  msgNumbers : KMap (BitVec 32) := []
  ownTx : List (List Byte) := []
  fences : List (Nat × Nat × BitVec 32) := []
  deriving DecidableEq, Repr

/-! ### Host ports and management (12) -/

/-- The registers of one PCIe function that the model holds: configuration enabled, MSI-X entries
(word 0 address, word 1 data and mask) and pending bits (Table 12-3, R386). -/
structure Function where
  configured : Bool := false
  msix : KMap Word := []
  pending : BitVec 32 := 0
  deriving DecidableEq, Repr

/-- An event record (Table 12-9). -/
structure EventRec where
  seq : Nat
  boot : Nat
  kind : Nat
  part : Nat := 255
  comp : Nat := 0
  time : Nat
  epoch : Nat := 0
  tenant : Nat := 255
  state : Nat := 0
  count : Nat := 0
  deriving DecidableEq, Repr

/-- A stored management reply (R397). -/
structure StoredReply where
  session : Option Nat
  path : MPath
  seq : BitVec 32
  at_ : Nat
  emit : Emit
  deriving DecidableEq, Repr

/-- A composition map under one epoch (R405). -/
structure CompMap where
  epoch : Nat
  entries : List MapEntry
  deriving DecidableEq, Repr

/-- A composition on this module (R405, R406). -/
structure Comp where
  current : Option CompMap := none
  previous : Option CompMap := none
  /-- Maps made live and not yet switched to. -/
  next : List CompMap := []
  /-- The install in progress: epoch, TOTAL, entries by index. -/
  install : Option (Nat × Nat × KMap MapEntry) := none
  deriving DecidableEq, Repr

/-- An SPDM session (R435). -/
structure SpdmSession where
  id : Nat
  path : MPath
  slot : Nat
  generation : Nat := 0
  deriving DecidableEq, Repr

/-- A chunked SPDM transfer (R426): request bytes gathered, or the large response being read. -/
structure ChunkXfer where
  path : MPath
  session : Option Nat
  handle : Nat
  next : Nat
  bytes : List Byte
  /-- A long response being read, not a long request being gathered. -/
  response : Bool := false
  deriving DecidableEq, Repr

/-- Host ports, management path, compositions and events (12). -/
structure Mgmt where
  boot : Nat := 0
  linkA : Bool := false
  rateA : Nat := 0
  widthA : Nat := 0
  linkB : Bool := false
  rateB : Nat := 0
  widthB : Nat := 0
  functions : KMap Function := []
  perstAlow : Bool := false
  perstBhigh : Bool := false
  pbBusy : Bool := false
  /-- The enumeration that runs is one that RESCAN asked for (R392). -/
  pbRescan : Bool := false
  pbExtra : Bool := false
  pbFound : Nat := 0
  drives : KMap Drive := []
  mgmt0 : Bool := false
  mgmt1 : Bool := false
  i3cAddress : Nat := 0
  mbxBusy : Bool := false
  mbxReady : Bool := false
  mbxRequest : KMap Word := []
  mbxReply : KMap Word := []
  replies : List StoredReply := []
  noticeCount : Nat := 0
  noticeQueue : List (Nat × List Byte) := []
  noticeSession : Option Nat := none
  /-- The link by which the notices to that session leave. -/
  noticeVia : MPath := .ethernet 0
  /-- Requests relayed to other modules, oldest first, with the time, whose replies go back by the way they came (R401). -/
  relays : List (Nat × MHdr × Nat) := []
  telemetryMs : Nat := 0
  telemetryAt : Nat := 0
  alignSource : Bool := false
  alignFrom : Nat := 0
  alignTargets : List Nat := []
  alignEdges : Nat := 0
  alignAt : Option Nat := none
  comps : KMap Comp := []
  events : List EventRec := []
  eventSeq : Nat := 0
  eventsLost : Nat := 0
  nextMsgId : Nat := 0
  deriving DecidableEq, Repr

/-! ### Trust (13) -/

/-- What has been written over one copy of a firmware image in module flash, from its first byte (R428);
nothing for the image the module was made with. -/
structure FwCopy where
  bytes : List Byte := []
  deriving DecidableEq, Repr

/-- An operation that waits for an identity signature (R434): its message header, what it is
(0 REPORT, 1 CHALLENGE, 2 KEY_EXCHANGE), the bytes signed, and for KEY_EXCHANGE the matched slot. -/
structure SigJob where
  m : MHdr
  kind : Nat
  body : List Byte
  slot : Nat := 0
  deriving DecidableEq, Repr

/-- A binding record held (Table 13-9). -/
structure Binding where
  digest : List Byte
  serials : List Nat
  deriving DecidableEq, Repr

/-- A debug record (R456, Table 13-8). -/
structure DebugRec where
  level : Nat
  boot : Nat
  digest : List Byte
  deriving DecidableEq, Repr

/-- An unlock in force (R455, R458). -/
structure Unlock where
  level : Nat
  scope : Word
  module : Bool
  deriving DecidableEq, Repr

/-- The Perger controller's keys, policy, firmware, identity, sessions and debug state (13). -/
structure Trust where
  slots : KMap (List Byte) := []
  slotCounter : Nat := 0
  bindRequired : Bool := false
  copies : KMap FwCopy := []
  /-- The boot ROM and firmware of this entry to Kept have run (R429 steps 2 to 5). -/
  booted : Bool := false
  bootedB : List Nat := []
  bootFault : Bool := false
  fwSvn : KMap Nat := []
  bootedSvn : KMap Nat := []
  fwDigest : List Byte := []
  identLimit : Nat := 0
  identNext : Nat := 0
  sigQueue : List SigJob := []
  sessions : List SpdmSession := []
  chunks : List ChunkXfer := []
  bindings : List Binding := []
  hashing : List (Nat × Nat × MHdr) := []
  /-- The RECLAIM whose scrubs are not over (R425). -/
  reclaim : Option MHdr := none
  scrubPending : BitVec 32 := 0
  /-- Since when the module scrubs the resources that were marked at its latest boot or reset, and which of those
  marks stand for that scrub (R429 step 6, R453). -/
  scrubFrom : Nat := 0
  bootScrub : BitVec 32 := 0
  nonce : Option (List Byte) := none
  unlocks : List Unlock := []
  moduleDebug : List DebugRec := []
  debugCount : Nat := 0
  debugRefused : Nat := 0
  tapExternal : Bool := false
  deriving DecidableEq, Repr

/-- The trust state of one partition (13, Table 13-12). -/
structure PTrust where
  newest : Nat := 0
  older : Nat := 0
  olderRetired : Bool := false
  sweeping : Bool := false
  forced : Bool := false
  sweepShare : Nat := 10
  stuck : Nat := 0
  /-- Pages that the sweep could not rewrite and has passed (R446). -/
  stuckPages : List Nat := []
  /-- The keys that are held: generation, and how many free values had been taken when its pair was made (R443). -/
  keys : KMap Nat := []
  /-- Pages of the partition range that carry a tag: page number, generation (R444). -/
  tags : KMap Nat := []
  /-- The page that the sweep is rewriting, and how often a write has made it start again (R446). -/
  sweepAt : Nat := 0
  sweepRestarts : Nat := 0
  verified : List Nat := []
  /-- Models whose last verification gave 2 (digest differs) or 3 (not bound). -/
  verifyFail : KMap Nat := []
  scrubStep : Nat := 0
  /-- When the scrub started (Table 13-10). -/
  scrubAt : Nat := 0
  scrubTo : Nat := 3
  /-- The partition was given resources still marked in SCRUB_PENDING after a reset (R453). -/
  owed : Bool := false
  /-- Blocks, HBM and DDR5 channels that partial patterns for this partition released and whose scrub has not
  ended (R60, R450). -/
  freedBlocks : Nat := 0
  freedHbm : Nat := 0
  freedDdr : Nat := 0
  /-- The latest 16 debug records, and how many were written since the last scrub (R456, Table 13-7). -/
  debugRecs : List DebugRec := []
  debugTotal : Nat := 0
  deriving DecidableEq, Repr

/-! ### Power, faults and recovery (14, 15), sequences (16), control space (17) -/

/-- The power state of one partition (14). -/
structure PPower where
  clock : Nat := 1750
  hint : Nat := 0
  peerDelay : Nat := 0
  follow : Option Nat := none
  followAt : Nat := 0
  offAfter : Nat := 0
  stepPeriod : Nat := 0
  arriveAt : Option Nat := none
  estimate : Nat := 0
  average : Nat := 0
  /-- The latest 10 us estimates, oldest first, at most 100. -/
  samples : List Nat := []
  /-- The ceiling in force, as the latest tick of R467 took it. -/
  ceiling : Nat := 1750
  slow : Bool := false
  deriving DecidableEq, Repr

/-- The module's power and clock registers (Tables 14-8 to 14-10). -/
structure Power where
  estimate : Nat := 0
  average : Nat := 0
  /-- The latest 10 us estimates, oldest first, at most 100. -/
  samples : List Nat := []
  measured : Nat := 0
  voltage : Nat := 0
  gain : Nat := 10000
  calLimit : Bool := false
  override : Nat := 0
  diDt : Nat := 40
  causesSeen : BitVec 4 := 0
  overcurrent : Bool := false
  fastLimit : Bool := false
  fastClearAt : Option Nat := none
  /-- The local microsecond from which the clock loop's next tick is due (R467). -/
  loopNext : Nat := 0
  tMax : Nat := 0
  tDistrict : Nat := 0
  inlet : Nat := 0
  outlet : Nat := 0
  cutCause : Nat := 0
  cutRefused : Bool := false
  /-- The local microsecond at which COOLANT_OK was last seen low, or a junction at 85 C or more (R483). -/
  coolLowAt : Nat := 0
  /-- Module state that Cut interrupted (R483, R532). -/
  cutFrom : Nat := 0
  hbmOn : BitVec 12 := 0
  ddrOn : BitVec 4 := 0
  serdesOn : BitVec 9 := 0
  pcieAOn : Bool := false
  pcieBOn : Bool := false
  diesOn : BitVec 4 := 0
  deriving DecidableEq, Repr

/-- A fault record (Table 15-2). -/
structure FaultRec where
  seq : Nat
  boot : Nat
  cls : Nat
  code : Byte
  part : Nat
  unitKind : Nat
  unit : Nat
  count : Nat
  time : Nat
  address : Nat
  detail : Nat
  tag : Word
  deriving DecidableEq, Repr

/-- The fault log, health maps, lease and fence (15, Tables 15-12 to 15-15). -/
structure Faults where
  log : List FaultRec := []
  seq : Nat := 0
  select : Nat := 0
  overwritten : Nat := 0
  leaseRunning : Bool := false
  leaseAt : Nat := 0
  savedDevice : BitVec 16 := 0xFFFF
  stoodIn : BitVec 16 := 0xFFFF
  fencePending : Bool := false
  fenceCause : Nat := 0
  graceExpired : Bool := false
  fencedAt : Nat := 0
  /-- The state of each partition as the module entered Fenced. -/
  codesAtFence : KMap Nat := []
  diesFailed : Nat := 0
  blocksFailed : Nat := 0
  stacksFailed : Nat := 0
  channelsFailed : Nat := 0
  selfPass : Bool := false
  selfDone : Bool := false
  selfRunning : Bool := false
  rsn : BitVec 32 := 0
  rsnCommand : Nat := 0
  rsnPayload : List Nat := []
  rsnReply : Option Emit := none
  watchdog : Nat := 100000
  uncorrLimit : Nat := 64
  /-- When uncorrectable words of each HBM stack and DDR5 channel were met in the latest 1,000,000 us, keyed
  by stack, or 16 + channel (Table 15-3). -/
  uncorrAt : KMap (List Nat) := []
  /-- Since when the checks of R492 have found an access to a stack or channel with no completion, keyed alike
  (Table 15-3). -/
  accessSince : KMap Nat := []
  doubt : List HealthUnit := []
  retired : List HealthUnit := []
  deriving DecidableEq, Repr

/-- The fault registers of one partition (Tables 15-9 to 15-11). -/
structure PFault where
  newFault : Bool := false
  lastCode : Byte := 0
  replayRun : Nat := 0
  quiesced : Bool := false
  quiescing : Bool := false
  seq : Nat := 0
  replays : Nat := 0
  replayLimit : Nat := 3
  faultInt : Bool := false
  faultVector : Nat := 0
  deriving DecidableEq, Repr

/-- One partition: its state code (Table 17-3) and the state of each chapter. -/
structure PartState where
  code : Nat := 255
  /-- STOP has been accepted and its drain is not over (R58). -/
  stopping : Bool := false
  insole : Bool := true
  ctrSelect : Nat := 0
  waits : KMap WaitSlot := []
  hostSlots : KMap HostSlot := []
  hostWindow : Nat := 0
  last : PLast := {}
  hold : PHold := {}
  mem : PMem := {}
  xt : PXt := {}
  trust : PTrust := {}
  power : PPower := {}
  fault : PFault := {}
  deriving DecidableEq, Repr

/-- A fabric cage (R523). -/
structure Cage where
  presentN : Bool := true
  power : Bool := false
  powerAt : Nat := 0
  resetReleased : Bool := false
  latched : Bool := false
  deriving DecidableEq, Repr

/-- Input power and pins (16). -/
structure Sled where
  inputOn : Bool := true
  railsGood : Bool := true
  pwrGood : Bool := true
  coolantOk : Bool := true
  resetN : Bool := true
  poweringDown : Bool := false
  /-- The power-down was started by MODULE_RESET_N (R534). -/
  forReset : Bool := false
  overvoltage : Bool := false
  /-- The local microsecond at which the input was last seen at 58 V or more after an overvoltage (R530). -/
  overAt : Nat := 0
  /-- Since when the input has been reported below 47 V, or above 60 V (R530). -/
  underSince : Option Nat := none
  overSince : Option Nat := none
  trayAlertN : Bool := true
  cages : KMap Cage := []
  /-- Port B's REFCLK runs since this counter value (R525). -/
  refclkB : Option Nat := none
  trained : Bool := false
  dimms : List (Option Dimm) := []
  stackIds : List (List Byte) := []
  deriving DecidableEq, Repr

/-- The module global registers (Tables 17-4 to 17-7). -/
structure ModRegs where
  state : Nat := 1
  previous : Nat := 0
  resetting : Bool := false
  intEventLog : Bool := false
  intAccess : Bool := false
  intState : Bool := false
  intFault : Bool := false
  intEnable : BitVec 11 := 0
  intRoute0 : Word := 0
  intRoute1 : Word := 0
  accessCount : Nat := 0
  accessFn : Nat := 0
  accessOffset : Nat := 0
  scrubPeriod : Nat := 24
  scrubOff : Bool := false
  scrubPasses : Nat := 0
  /-- Counter value from which the next patrol pass runs (R319). -/
  scrubFrom : Nat := 0
  deriving DecidableEq, Repr

/-- The state of the block. -/
structure State where
  /-- The commands that wait, first in, first out (the model's own field). -/
  pending : List Instr := []
  /-- What the module has put on its boundary, oldest first (the model's own field). -/
  out : List Emit := []
  /-- How many free values have been taken (the model's own field). -/
  draws : Nat := 0
  /-- The local microsecond counter (R5). -/
  now : Nat := 0
  sled : Sled := {}
  regs : ModRegs := {}
  loader : Loader := {}
  /-- The committed pattern with its applied partial patterns (R18). -/
  pattern : Option Pattern := none
  /-- The partial pattern applied to each partition: BODY_DIGEST, TOTAL_LENGTH, SERIAL. -/
  partials : KMap (List Byte × Nat × Nat) := []
  parts : KMap PartState := []
  lanes : KMap Lane := []
  counters : KMap Counter := []
  awls : KMap Awl := []
  blocks : KMap Block := []
  cores : KMap Core := []
  tolls : KMap Toll := []
  roundabouts : KMap Roundabout := []
  crossings : KMap Crossing := []
  /-- Bytes of the partition ranges and benches that are not zero, addresses rising. -/
  mem : List Host.Cell := []
  /-- Uncorrectable 32-byte words: address / 32, rising (R318). -/
  badWords : List Nat := []
  hbmEcc : KMap Ecc := []
  ddrEcc : KMap Ecc := []
  nvCmds : List NvCmd := []
  fab : Fabric := {}
  mgmt : Mgmt := {}
  trust : Trust := {}
  power : Power := {}
  faults : Faults := {}
  /-- What the trace port has streamed, oldest first (the model's own field; Table 13-14). -/
  trace : List TraceEvent := []
  deriving DecidableEq, Repr

/-- The machine right after reset: the module has just entered Kept for the first time since
manufacture, with input power present and its pins high (R531, R533 step 3; notes/assumptions/1.md). -/
def State.reset : State :=
  { mgmt := { boot := 1, eventSeq := 1,
              events := [{ seq := 1, boot := 1, kind := 6, time := 0, state := 1 }] } }

end Sys2Proof.Machine
end

