-- ==== Sys2Proof/Machine/Ops.lean ====
section
/-! DEFINITION. The named operations over maps, bytes and the state that every meaning is built from:
maps keyed by number, boundary outputs, interrupts, events, notices, fault records, counters, lanes. -/

namespace Sys2Proof.Machine

/-- A command that ends in a next state. -/
abbrev Out := Host.Outcome State Fault Refusal

/-! ### Maps -/

/-- The value under a key. -/
def KMap.find {α : Type} : KMap α → Nat → Option α
  | [], _ => none
  | (j, v) :: r, k => if j = k then some v else KMap.find r k

/-- The value under a key, or the one an absent key stands for. -/
def KMap.at {α : Type} (m : KMap α) (k : Nat) (d : α) : α := (m.find k).getD d

/-- Put a value under a key, keeping the keys rising. -/
def KMap.put {α : Type} : KMap α → Nat → α → KMap α
  | [], k, v => [(k, v)]
  | (j, w) :: r, k, v =>
    if k < j then (k, v) :: (j, w) :: r
    else if j = k then (k, v) :: r
    else (j, w) :: KMap.put r k v

/-- Remove a key. -/
def KMap.del {α : Type} : KMap α → Nat → KMap α
  | [], _ => []
  | (j, w) :: r, k => if j = k then KMap.del r k else (j, w) :: KMap.del r k

/-- True when a key is present. -/
def KMap.has {α : Type} (m : KMap α) (k : Nat) : Bool := (m.find k).isSome

/-- The keys of a map strictly rise. -/
def KMap.sorted {α : Type} : KMap α → Bool
  | [] => true
  | [_] => true
  | (j, _) :: (k, w) :: r => decide (j < k) && KMap.sorted ((k, w) :: r)

/-- Apply a function to every value. -/
def KMap.mapVals {α β : Type} (m : KMap α) (f : Nat → α → β) : KMap β := m.map fun kv => (kv.1, f kv.1 kv.2)

/-! ### Numbers and bytes -/

/-- `n` little-endian bytes of a number (R7). -/
def leBytes : Nat → Nat → List Byte
  | 0, _ => []
  | n + 1, v => BitVec.ofNat 8 v :: leBytes n (v / 256)

/-- The number that little-endian bytes spell (R7). -/
def leNat : List Byte → Nat
  | [] => 0
  | b :: r => b.toNat + 256 * leNat r

/-- `len` bytes from offset `off`; bytes beyond the end are missing. -/
def slice (bs : List Byte) (off len : Nat) : List Byte := (bs.drop off).take len

/-- A little-endian field of `len` bytes at offset `off`. -/
def fld (bs : List Byte) (off len : Nat) : Nat := leNat (slice bs off len)

/-- Bits `lo` to `lo + n - 1` of a number. -/
def bitsOf (v lo n : Nat) : Nat := (v / 2 ^ lo) % 2 ^ n

/-- One bit as a number. -/
def bit (b : Bool) : Nat := if b then 1 else 0

/-- Addition that stops at a limit. -/
def satAdd (limit a b : Nat) : Nat := min limit (a + b)

/-- Distance from `b` forward to `a` among 32-bit counts. -/
def dist32 (a b : BitVec 32) : Nat := (a - b).toNat

/-- An item from its bytes. -/
def itemOf (bs : List Byte) : Item := BitVec.ofNat 256 (leNat bs)

/-- A field of an item: `len` bytes at offset `off`. -/
def itemFld (it : Item) (off len : Nat) : Nat := bitsOf it.toNat (8 * off) (8 * len)

/-- The 32 bytes of an item. -/
def itemBytes (it : Item) : List Byte := leBytes 32 it.toNat

/-- The 512 bits or 64 bytes of a bit vector as bytes. -/
def bytesOf512 (v : BitVec 512) : List Byte := leBytes 64 v.toNat

/-- Bytes made up to a length with zeros. -/
def padTo (n : Nat) (bs : List Byte) : List Byte := bs ++ List.replicate (n - bs.length) 0

/-- The numbers from `lo` to `lo + n - 1`. -/
def upFrom (lo n : Nat) : List Nat := (List.range n).map (lo + ·)

/-- The set bits of a mask below `n`, rising. -/
def maskBits (m n : Nat) : List Nat := (List.range n).filter m.testBit

/-- Insert by a key, after those with an equal key. -/
def insertOn {α : Type} (f : α → Nat) (x : α) : List α → List α
  | [] => [x]
  | y :: r => if f x < f y then x :: y :: r else y :: insertOn f x r

/-- Sort by a key, keeping the order of equal keys. -/
def sortOn {α : Type} (f : α → Nat) (l : List α) : List α := l.foldl (fun r x => insertOn f x r) []

/-! ### Parts of the state -/

def State.part (s : State) (p : Nat) : PartState := s.parts.at p {}
def State.setPart (s : State) (p : Nat) (x : PartState) : State := { s with parts := s.parts.put p x }
def State.modPart (s : State) (p : Nat) (f : PartState → PartState) : State := s.setPart p (f (s.part p))

def State.lane (s : State) (n : Nat) : Lane := s.lanes.at n {}
def State.setLane (s : State) (n : Nat) (x : Lane) : State := { s with lanes := s.lanes.put n x }

def State.counter (s : State) (n : Nat) : Counter := s.counters.at n {}
def State.setCounter (s : State) (n : Nat) (x : Counter) : State := { s with counters := s.counters.put n x }

def State.awl (s : State) (n : Nat) : Awl := s.awls.at n {}
def State.setAwl (s : State) (n : Nat) (x : Awl) : State := { s with awls := s.awls.put n x }

def State.block (s : State) (b : Nat) : Block := s.blocks.at b {}
def State.setBlock (s : State) (b : Nat) (x : Block) : State := { s with blocks := s.blocks.put b x }
def State.setEng (s : State) (b : Nat) (x : Engine) : State := s.setBlock b { s.block b with eng := x }
def State.setAttn (s : State) (b : Nat) (x : Attn) : State := s.setBlock b { s.block b with attn := x }
def State.setPwr (s : State) (b : Nat) (x : BlockPower) : State := s.setBlock b { s.block b with pwr := x }

/-- The key of core `c` of block `b`. -/
def coreKey (b c : Nat) : Nat := 1024 * b + c
def State.core (s : State) (b c : Nat) : Core := s.cores.at (coreKey b c) {}
def State.setCore (s : State) (b c : Nat) (x : Core) : State := { s with cores := s.cores.put (coreKey b c) x }

def State.toll (s : State) (n : Nat) : Toll := s.tolls.at n {}
def State.setToll (s : State) (n : Nat) (x : Toll) : State := { s with tolls := s.tolls.put n x }
def State.roundabout (s : State) (n : Nat) : Roundabout := s.roundabouts.at n {}
def State.setRoundabout (s : State) (n : Nat) (x : Roundabout) : State :=
  { s with roundabouts := s.roundabouts.put n x }
def State.crossing (s : State) (n : Nat) : Crossing := s.crossings.at n {}
def State.setCrossing (s : State) (n : Nat) (x : Crossing) : State := { s with crossings := s.crossings.put n x }

def State.port (s : State) (n : Nat) : Port := s.fab.ports.at n {}
def State.setPort (s : State) (n : Nat) (x : Port) : State :=
  { s with fab := { s.fab with ports := s.fab.ports.put n x } }
def State.peer (s : State) (d : Nat) : Peer := s.fab.peers.at d {}
def State.setPeer (s : State) (d : Nat) (x : Peer) : State :=
  { s with fab := { s.fab with peers := s.fab.peers.put d x } }

def State.bank (s : State) (b : Bool) : Bank := if b then s.fab.bank1 else s.fab.bank0
def State.setBank (s : State) (b : Bool) (x : Bank) : State :=
  { s with fab := if b then { s.fab with bank1 := x } else { s.fab with bank0 := x } }

def State.drive (s : State) (d : Nat) : Drive := s.mgmt.drives.at d {}
def State.setDrive (s : State) (d : Nat) (x : Drive) : State :=
  { s with mgmt := { s.mgmt with drives := s.mgmt.drives.put d x } }

def State.setPLast (s : State) (p : Nat) (x : PLast) : State := s.setPart p { s.part p with last := x }
def State.setHold (s : State) (p : Nat) (x : PHold) : State := s.setPart p { s.part p with hold := x }
def State.setPMem (s : State) (p : Nat) (x : PMem) : State := s.setPart p { s.part p with mem := x }
def State.setXt (s : State) (p : Nat) (x : PXt) : State := s.setPart p { s.part p with xt := x }
def State.setTrust (s : State) (p : Nat) (x : PTrust) : State := s.setPart p { s.part p with trust := x }
def State.setPower (s : State) (p : Nat) (x : PPower) : State := s.setPart p { s.part p with power := x }
def State.setPFault (s : State) (p : Nat) (x : PFault) : State := s.setPart p { s.part p with fault := x }

def State.modPLast (s : State) (p : Nat) (f : PLast → PLast) : State := s.setPLast p (f (s.part p).last)
def State.modHold (s : State) (p : Nat) (f : PHold → PHold) : State := s.setHold p (f (s.part p).hold)
def State.modPMem (s : State) (p : Nat) (f : PMem → PMem) : State := s.setPMem p (f (s.part p).mem)
def State.modXt (s : State) (p : Nat) (f : PXt → PXt) : State := s.setXt p (f (s.part p).xt)
def State.modPTrust (s : State) (p : Nat) (f : PTrust → PTrust) : State := s.setTrust p (f (s.part p).trust)
def State.modPPower (s : State) (p : Nat) (f : PPower → PPower) : State := s.setPower p (f (s.part p).power)
def State.modPFault (s : State) (p : Nat) (f : PFault → PFault) : State := s.setPFault p (f (s.part p).fault)

def State.modMgmt (s : State) (f : Mgmt → Mgmt) : State := { s with mgmt := f s.mgmt }
def State.modFab (s : State) (f : Fabric → Fabric) : State := { s with fab := f s.fab }
def State.modRegs (s : State) (f : ModRegs → ModRegs) : State := { s with regs := f s.regs }
def State.modLoader (s : State) (f : Loader → Loader) : State := { s with loader := f s.loader }
def State.modPow (s : State) (f : Power → Power) : State := { s with power := f s.power }
def State.modFlt (s : State) (f : Faults → Faults) : State := { s with faults := f s.faults }
def State.modTrust (s : State) (f : Trust → Trust) : State := { s with trust := f s.trust }
def State.modSled (s : State) (f : Sled → Sled) : State := { s with sled := f s.sled }

/-- The state code of partition `p` (Table 17-3): 0xFF when the committed pattern does not define it. -/
def State.code (s : State) (p : Nat) : Nat := (s.part p).code

/-- The Partition piece of `p` in the committed pattern. -/
def State.piece (s : State) (p : Nat) : Option PartPiece := s.pattern.bind fun pt => pt.parts.find p

/-- The Module piece of the committed pattern. -/
def State.modulePiece (s : State) : Option ModulePiece := s.pattern.bind fun pt => pt.module

/-- The partition that owns block `b` by BLOCK_MASK. -/
def State.blockOwner (s : State) (b : Nat) : Option Nat :=
  match s.pattern with
  | none => none
  | some pt => (pt.parts.find? fun kv => kv.2.blockMask.testBit b).map (·.1)

/-- The blocks of partition `p`, rising. -/
def State.blocksOf (s : State) (p : Nat) : List Nat :=
  match s.piece p with
  | none => []
  | some x => maskBits x.blockMask 80

/-- The HBM channels of partition `p`, rising. -/
def State.hbmOf (s : State) (p : Nat) : List Nat :=
  match s.piece p with
  | none => []
  | some x => maskBits x.hbmMask 384

/-- The DDR5 channels of partition `p`, rising. -/
def State.ddrOf (s : State) (p : Nat) : List Nat :=
  match s.piece p with
  | none => []
  | some x => maskBits x.ddrMask 16

/-- The placement regions of partition `p`. -/
def State.regions (s : State) (p : Nat) : List PlaceEntry :=
  match s.pattern with
  | none => []
  | some pt => pt.placements.filter fun e => decide (e.owner = p)

/-- The piece of a model as partition `p` runs it: the one kept for it where a partial pattern for another
partition changed it since, else the one in the pattern (R28, R63). -/
def Pattern.modelFor (pt : Pattern) (p m : Nat) : Option ModelPiece :=
  match pt.heldModels.find? fun x => decide (x.1 = p ∧ x.2.model = m) with
  | some x => some x.2
  | none => pt.models.find? fun x => decide (x.model = m)

/-- A model piece by number, for partition `p`. -/
def State.model (s : State) (p m : Nat) : Option ModelPiece := s.pattern.bind fun pt => pt.modelFor p m

/-- The committed pattern does not define partition `p`, which may be Held all the same after a partial load
for it failed (R43, R49). -/
def State.undefinedPart (s : State) (p : Nat) : Bool :=
  decide (s.code p = 255) || (decide (s.code p = 4) && (s.piece p).isNone)

/-- The module state code (Table 17-3). -/
def State.modState (s : State) : Nat := s.regs.state

/-! ### Boundary, free values -/

/-- Put one thing on the module's boundary. -/
def State.emit (s : State) (e : Emit) : State := { s with out := s.out ++ [e] }

/-- Take one free value: its number, and the state that has counted it. -/
def State.draw (s : State) : Nat × State := (s.draws, { s with draws := s.draws + 1 })

/-! ### Interrupts (R386, R389, R549, R550) -/

/-- MSI-X entry `v` is masked, as PCI Express has every entry after a reset; and the message that it names (Table 12-3,
notes/assumptions/10.md). -/
def Function.masked (f : Function) (v : Nat) : Bool := (f.msix.at (2 * v + 1) (BitVec.ofNat 64 (2 ^ 32))).toNat.testBit 32
def Function.message (f : Function) (fn v : Nat) : Emit :=
  .msix fn v (f.msix.at (2 * v) 0) ((f.msix.at (2 * v + 1) 0).setWidth 32)

/-- Raise MSI-X vector `v` of function `fn`: no message while the partition of a VF is Scrubbing or not
defined (R452, R387); a masked entry keeps its pending bit (Table 12-3). -/
def raiseVector (s : State) (fn v : Nat) : State :=
  if fn ≠ 0 ∧ (s.code (fn - 1) = 8 ∨ s.code (fn - 1) = 255) then s
  else
    let f := s.mgmt.functions.at fn {}
    if f.masked v then
      s.modMgmt fun m => { m with
        functions := m.functions.put fn { f with pending := f.pending ||| BitVec.ofNat 32 (2 ^ v) } }
    else s.emit (f.message fn v)

/-- Raise vector `v` of partition `p`'s own VF table (R387). -/
def raisePart (s : State) (p v : Nat) : State := raiseVector s (p + 1) v

/-- DOUBT_MAP is not zero (Table 15-12). -/
def doubtAny (s : State) : Bool := !s.faults.doubt.isEmpty

/-- PAT_EVENTS as a register value (Table 02-18). -/
def patEventsWord (e : PatEvents) : Nat :=
  bit e.committed + 2 * bit e.failed + 4 * bit e.confirmExpired + 8 * bit e.restoredOlder + 16 * bit e.chunkDone

/-- INT_STATUS (Table 17-6): the W1C bits held, the RO bits summed up from other registers. -/
def intStatus (s : State) : Nat :=
  bit (patEventsWord s.loader.events ≠ 0)
  + 2 * bit s.regs.intFault
  + 4 * bit (s.fab.ports.any fun kv => kv.2.neighbourChanged || kv.2.looped || kv.2.duplicate)
  + 8 * bit (s.power.causesSeen ≠ 0)
  + 16 * bit (doubtAny s)
  + 32 * bit (s.regs.state = 6)
  + 64 * bit s.mgmt.mbxReady
  + 128 * bit ((s.mgmt.drives.any fun kv => kv.2.state = 2) || s.mgmt.pbExtra)
  + 256 * bit s.regs.intState
  + 512 * bit s.regs.intAccess
  + 1024 * bit s.regs.intEventLog

/-- The PF vector that INT_ROUTE gives source `k` (Table 17-4). -/
def intVector (s : State) (k : Nat) : Nat :=
  bitsOf (if k < 8 then s.regs.intRoute0 else s.regs.intRoute1).toNat (8 * (k % 8)) 5

/-- Raise the PF vector of each source of a list whose INT_ENABLE bit is set. -/
def raiseSources : State → List Nat → State
  | s, [] => s
  | s, k :: r =>
    raiseSources (if s.regs.intEnable.toNat.testBit k then raiseVector s 0 (intVector s k) else s) r

/-- Raise the vector of every enabled source whose INT_STATUS bit went from 0 in `old` to 1 in `s`
(R550). -/
def raiseRisen (old s : State) : State :=
  raiseSources s ((List.range 11).filter fun k => (intStatus s).testBit k && !(intStatus old).testBit k)

/-- Apply a change of the state and raise the interrupts it causes (R550). -/
def State.upd (s : State) (f : State → State) : State := raiseRisen s (f s)

/-! ### Units in Doubt and retired (R493) -/

/-- A unit is in Doubt or retired. -/
def unitSuspect (s : State) (u : HealthUnit) : Bool := s.faults.doubt.contains u || s.faults.retired.contains u

/-- No unit is in Doubt or retired. -/
def allTrusted (s : State) : Bool := s.faults.doubt.isEmpty && s.faults.retired.isEmpty

/-- Block `b` is in Doubt or retired. -/
def blockSuspect (s : State) (b : Nat) : Bool := unitSuspect s (.block (Fin.ofNat 80 b))

/-- Channel `ch` of a tier, or the stack or I/O die it stands on, is in Doubt or retired (R292, R293,
Table 15-4). -/
def channelSuspect (s : State) (tier ch : Nat) : Bool :=
  !allTrusted s &&
    (if tier = 2 then unitSuspect s (.ddr (Fin.ofNat 16 ch)) || unitSuspect s (.die (Fin.ofNat 4 (ch / 4)))
      else unitSuspect s (.stack (Fin.ofNat 12 (ch / 32))) || unitSuspect s (.die (Fin.ofNat 4 (ch / 96))))

/-! ### Paths (R393, R394, R401) -/

/-- The message came over the management Ethernet, by either link, or by a RELAY packet, which counts as one. -/
def overEthernet : MPath → Bool
  | .ethernet _ => true
  | .relay _ => true
  | .i3c _ => false
  | .mailbox => false
  | .doe => false

/-- The message came over I3C. -/
def overI3c : MPath → Bool
  | .i3c _ => true
  | .ethernet _ => false
  | .relay _ => false
  | .mailbox => false
  | .doe => false

/-- Two messages came by one path, the management Ethernet being one whichever link they took (R393). -/
def samePath (a b : MPath) : Bool :=
  (overEthernet a && overEthernet b) || (overI3c a && overI3c b) || decide (a = b)

/-- A message over I3C comes to the dynamic address that the tray controller has assigned, which the module takes from it
(R394). -/
def noteAddress (s : State) (m : MHdr) : State :=
  match m.path with
  | .i3c a => s.modMgmt fun g => { g with i3cAddress := a.toNat }
  | _ => s

/-! ### Notices, events, fault records (R398, R414, R415, R487 to R491) -/

/-- TRAY_ALERT_N is low while a notice for the tray controller is queued, under BOOT_FAULT, and in Cut
(R394, R430, Table 14-5). -/
def trayUpdate (s : State) : State :=
  let low : Bool := decide (s.regs.state ≠ 0)
    && (!s.mgmt.noticeQueue.isEmpty || s.trust.bootFault || decide (s.regs.state = 9))
  if low = s.sled.trayAlertN then
    (s.modSled fun x => { x with trayAlertN := !low }).emit (.pin .trayAlertN (!low))
  else s

/-- Who is told of a notice: the session on the management Ethernet that last sent TELEMETRY_SET, and
for a notice of path I the queue of 64 for NOTICE_READ, the oldest dropped when it is full (R398). -/
def sendNotice (s : State) (i3c : Bool) (command : Nat) (payload : List Byte) : State :=
  let n := s.mgmt.noticeCount + 1
  let whole := leBytes 2 command ++ [2, 0] ++ leBytes 4 n ++ leBytes 4 0 ++ leBytes 2 payload.length
    ++ leBytes 2 0 ++ payload
  let q := if i3c then
      (if s.mgmt.noticeQueue.length < 64 then s.mgmt.noticeQueue else s.mgmt.noticeQueue.drop 1)
        ++ [(command, whole)]
    else s.mgmt.noticeQueue
  let s := trayUpdate (s.modMgmt fun m => { m with noticeCount := n, noticeQueue := q })
  if s.mgmt.noticeSession.isSome then s.emit (.notice s.mgmt.noticeVia command n payload) else s

/-- The 32 bytes of an event record (Table 12-9). -/
def eventBytes (e : EventRec) : List Byte :=
  leBytes 8 e.seq ++ leBytes 4 e.boot ++ leBytes 1 e.kind ++ leBytes 1 e.part ++ leBytes 2 e.comp
  ++ leBytes 8 e.time ++ leBytes 2 e.epoch ++ leBytes 1 e.tenant ++ leBytes 1 e.state ++ leBytes 4 e.count

/-- Write one record to the retained event log and send its notice; a full log counts it instead
(R415). EVENT_LOG of INT_STATUS rises when the log comes to hold 1,024 records. -/
def keepEvent (s : State) (e : EventRec) : State :=
  if s.mgmt.events.length < 1024 then
    let e := { e with seq := s.mgmt.eventSeq + 1, boot := s.mgmt.boot, time := s.now }
    let fills := decide (s.mgmt.events.length = 1023)
    let s := s.upd fun s =>
      (s.modMgmt fun m => { m with eventSeq := e.seq, events := m.events ++ [e] }).modRegs fun r =>
        { r with intEventLog := r.intEventLog || fills }
    sendNotice s false 0x8002 (eventBytes e)
  else s.modMgmt fun m => { m with eventsLost := m.eventsLost + 1 }

/-- Record a composition event (R414), after the OVERFLOW record that tells of records not kept. -/
def recordEvent (s : State) (kind part comp epoch tenant state : Nat) : State :=
  let s := if s.mgmt.eventsLost ≠ 0 ∧ s.mgmt.events.length < 1024 then
      let n := s.mgmt.eventsLost
      keepEvent (s.modMgmt fun m => { m with eventsLost := 0 })
        { seq := 0, boot := 0, kind := 7, time := 0, state := s.regs.state, count := n }
    else s
  keepEvent s { seq := 0, boot := 0, kind := kind, part := part, comp := comp, time := 0, epoch := epoch,
                tenant := tenant, state := state }

/-- TENANT of a partition, 0xFF where the pattern does not define it. -/
def State.tenant (s : State) (p : Nat) : Nat := ((s.piece p).map (·.tenant)).getD 255

/-- The device number under which composition maps name this module: in Fenced, where FAB_DEVICE is cleared and the maps
are kept, the one it had (R500, R501). -/
def mapDevice (s : State) : Nat :=
  if s.fab.device = 0xFFFF ∧ s.faults.codesAtFence ≠ [] then s.faults.savedDevice.toNat else s.fab.device.toNat

/-- The composition partition `p` belongs to on this module, by CURRENT or, while it drains, PREVIOUS; 0 for none. -/
def compOf (s : State) (p : Nat) : Nat :=
  let names := fun (m : CompMap) => m.entries.any fun e => decide (e.device = mapDevice s ∧ e.partition = p)
  match s.mgmt.comps.find? fun kv => kv.2.current.any names with
  | some kv => kv.1
  | none => ((s.mgmt.comps.find? fun kv => kv.2.previous.any names).map (·.1)).getD 0

/-- Give partition `p` a state code, recording OPENED and CLOSED (Table 12-10). -/
def setCode (s : State) (p c : Nat) : State :=
  let old := s.code p
  let s := s.modPart p fun x => { x with code := c }
  if old ≠ 5 ∧ c = 5 then recordEvent s 4 p (compOf s p) 0 (s.tenant p) c
  else if old = 5 ∧ c ≠ 5 then recordEvent s 5 p (compOf s p) 0 (s.tenant p) c
  else s

/-- The module enters a state (Table 17-5): PREVIOUS takes the old one and STATE of INT_STATUS is set. -/
def setModState (s : State) (c : Nat) : State :=
  if s.regs.state = c then s
  else s.upd fun s => s.modRegs fun r => { r with state := c, previous := r.state, intState := true }

/-- The 64 bytes of a fault record (Table 15-2). -/
def faultBytes (r : FaultRec) : List Byte :=
  leBytes 8 r.seq ++ leBytes 4 r.boot ++ leBytes 1 r.cls ++ [r.code] ++ leBytes 1 r.part
  ++ leBytes 1 r.unitKind ++ leBytes 2 r.unit ++ leBytes 2 0 ++ leBytes 4 r.count ++ leBytes 8 r.time
  ++ leBytes 8 r.address ++ leBytes 8 r.detail ++ leBytes 8 r.tag.toNat ++ leBytes 8 0

/-- Two records describe one fault (R489). -/
def sameFault (a b : FaultRec) : Bool :=
  decide (a.cls = b.cls ∧ a.part = b.part ∧ a.unitKind = b.unitKind ∧ a.unit = b.unit ∧ a.address = b.address)

/-- Classes whose records are also queued for the tray controller (Table 15-1). -/
def faultForTray (cls : Nat) : Bool := decide (cls = 3 ∨ cls = 4 ∨ cls = 7 ∨ cls = 8)

/-- Add 1 to the COUNT of the newest record that matches, among the latest 16 of the last 1,000 us. -/
def mergeFault (log : List FaultRec) (r : FaultRec) (now : Nat) : Option (List FaultRec) :=
  let n := log.length
  match ((List.range n).reverse.take 16).find? fun i =>
      match log[i]? with
      | some x => sameFault x r && decide (now ≤ x.time + 1000)
      | none => false with
  | none => none
  | some i => some (log.modify i fun x => { x with count := satAdd 0xFFFF_FFFF x.count 1 })

/-- Tell of a new record: notices, NEW_FAULT and PART_FAULT_SEQ, or the module's FAULT interrupt
(R491). -/
def tellFault (s : State) (r : FaultRec) : State :=
  let s := sendNotice s (faultForTray r.cls) 0x8004 (faultBytes r)
  if r.part = 255 then s.upd fun s => s.modRegs fun x => { x with intFault := true }
  else
    let f := (s.part r.part).fault
    let s := s.setPFault r.part { f with newFault := true, seq := r.seq }
    if f.faultInt then raisePart s r.part f.faultVector else s

/-- Write a fault record or merge it into a recent one (R488 to R491). -/
def faultRecord (s : State) (cls : Nat) (code : Byte) (part unitKind unit address detail : Nat)
    (tag : Word) : State :=
  let r : FaultRec :=
    { seq := s.faults.seq + 1, boot := s.mgmt.boot, cls := cls, code := code, part := part,
      unitKind := unitKind, unit := unit, count := 1, time := s.now, address := address, detail := detail,
      tag := tag }
  match mergeFault s.faults.log r s.now with
  | some log => s.modFlt fun f => { f with log := log }
  | none =>
    let full := s.faults.log.length ≥ 1024
    let s := s.modFlt fun f => { f with
      seq := r.seq
      log := (if full then f.log.drop 1 else f.log) ++ [r]
      overwritten := if full then f.overwritten + 1 else f.overwritten }
    tellFault s r

/-! ### Lane FIFOs (R64 to R82) -/

/-- Raise the interrupt of a lane on its VECTOR, if it has one (R81). -/
def raiseLane (s : State) (l : Lane) : State := if l.vector < 32 then raisePart s l.owner l.vector else s

/-- Raise the armed interrupt of lane `n` while LEVEL is above zero; the module clears INT_ARM as it raises
it, and without a vector raises nothing (R81, Table 03-7). -/
def laneArmed (s : State) (n : Nat) : State :=
  let l := s.lane n
  if l.intArm ∧ l.items ≠ [] ∧ l.vector < 32 then raiseLane (s.setLane n { l with intArm := false }) l else s

/-- Key of the list of root members, and of the own-lane member of a queue that is a parent (R276). -/
def raRoot : Nat := 0xFFFF
def raOwn (q : Nat) : Nat := 0x1_0000 + q

/-- Queue `q` of a Roundabout is a parent. -/
def Roundabout.isParent (r : Roundabout) (q : Nat) : Bool := r.queues.any fun x => decide (x.parent = q)

/-- The key of the parent list of a queue. -/
def Roundabout.parentOf (r : Roundabout) (q : Nat) : Nat :=
  ((r.queues.find? fun x => decide (x.queue = q)).map (·.parent)).getD raRoot

/-- A member that was not backlogged joins the tail of its parent's active list, and so up the tree
(R276). -/
def raJoin : Nat → Roundabout → (list member : Nat) → Roundabout
  | 0, r, _, _ => r
  | fuel + 1, r, list, m =>
    let a := r.active.at list []
    if a.contains m then r
    else
      let r := { r with
        active := r.active.put list (a ++ [m])
        members := r.members.put m { r.members.at m {} with deficit := 0, fresh := true } }
      if list = raRoot then r else raJoin fuel r (r.parentOf list) list

/-- An item arrives on lane `n`, which was empty: the queue that the lane feeds is backlogged (R276). -/
def raArrive (s : State) (n : Nat) : State :=
  match s.roundabouts.find? fun kv => kv.2.queues.any fun q => decide (q.lane = n) with
  | none => s
  | some (k, r) =>
    match r.queues.find? fun q => decide (q.lane = n) with
    | none => s
    | some q =>
      s.setRoundabout k (if r.isParent q.queue then raJoin (r.queues.length + 1) r q.queue (raOwn q.queue)
        else raJoin (r.queues.length + 1) r q.parent q.queue)

/-- An unlock of the debug connector has the events of partition `p` traced (Table 13-14). -/
def traced (s : State) (p : Nat) : Bool :=
  s.trust.unlocks.any fun u => decide (1 ≤ u.level) && u.scope.toNat.testBit p

/-- An event of partition `p`: on the trace port, while its scope is unlocked (Table 13-14). Which moments of an operation are
its events is not said: those in which it takes effect here (DESIGN CHOICE, notes/assumptions/62.md). -/
def traceEvent (s : State) (p : Nat) (unit : TraceUnit) (number offset : Nat) : State :=
  if traced s p then { s with trace := s.trace ++ [{ unit := unit, number := number, offset := offset }] } else s

/-- Write an item to lane `n`: placed at stage LEVEL, or ignored with OVERRUN at LEVEL 16 (R65, R68). -/
def lanePush (s : State) (n : Nat) (it : Item) : State :=
  match s.lanes.find n with
  | none => s
  | some l =>
    let s := traceEvent s l.owner .lane n l.items.length
    if l.items.length < 16 then
      let l' := { l with items := l.items ++ [it],
                         restart := if l.items = [] then s.now else l.restart,
                         fired := if l.items = [] then false else l.fired }
      let s := if l.items = [] then raArrive s n else s
      laneArmed (s.setLane n l') n
    else
      let s := s.setLane n { l with overrun := true, drops := satAdd 0xFFFF_FFFF l.drops 1 }
      if l.intOverrun ∧ ¬ l.overrun then raiseLane s l else s

/-- An engine of the module gives an item to lane `n`: it enters at once, but behind what waits at the lane port
in this cycle (R66, R70). -/
def laneGive (s : State) (n : Nat) (who : LaneWriter) (it : Item) : State :=
  let l := s.lane n
  if l.portWrites = [] ∧ l.portReads = [] then lanePush s n it
  else s.setLane n { l with portWrites := l.portWrites ++ [(who, it)] }

/-- Lane `n` has room for one more item: those that wait at its port count against its 16 (R68, R69). -/
def laneFree (s : State) (n : Nat) : Bool :=
  decide ((s.lane n).items.length + (s.lane n).portWrites.length < 16)

/-- The idle item of lane `n` (R67). -/
def idleItem (n : Nat) : Item := itemOf (0 :: leBytes 2 n)

/-- A full lane has room again: the endpoints that wait for it are starved no more (R376). -/
def laneDrained (s : State) (n : Nat) (l : Lane) : State :=
  if l.items.length < 16 then s
  else s.modXt l.owner fun y => { y with eps := y.eps.mapVals fun _ e =>
    if e.kind = 1 ∧ e.itemLane = n then { e with emptySince := none } else e }

/-- Read lane `n`: the head item, or the idle item from an empty lane, which changes nothing (R65, R67,
R71). -/
def lanePop (s : State) (n : Nat) : Item × State :=
  let l := s.lane n
  match l.items with
  | [] => (idleItem n, s)
  | it :: r =>
    (it, laneDrained ((traceEvent s l.owner .lane n 0).setLane n { l with items := r, restart := s.now, fired := false }) n l)

/-- Lane `n` is defined and belongs to partition `p`. -/
def State.ownsLane (s : State) (p n : Nat) : Bool :=
  match s.lanes.find n with
  | none => false
  | some l => decide (l.owner = p)

/-- The lanes of partition `p` of one KIND, rising. -/
def State.lanesOfKind (s : State) (p kind : Nat) : List Nat :=
  (s.lanes.filter fun kv => decide (kv.2.owner = p ∧ kv.2.kind = kind)).map (·.1)

/-! ### Completion counters (R83 to R88) -/

/-- The largest VALUE of a counter (R84). -/
def ctrMax : Nat := 0x7FFF_FFFF_FFFF_FFFF

/-- Add to a counter, which stops at its largest VALUE; a failed operation also sets FAULT (R84, R87). -/
def ctrAdd (s : State) (c amount : Nat) (failed : Bool) : State :=
  match s.counters.find c with
  | none => s
  | some k => (traceEvent s k.owner .counter c 0).setCounter c
      { k with value := satAdd ctrMax k.value amount, fault := k.fault || failed }

/-- Set both fields of a counter (R84). -/
def ctrSet (s : State) (c : Nat) (v : Word) : State :=
  match s.counters.find c with
  | none => s
  | some k => (traceEvent s k.owner .counter c 0).setCounter c
      { k with value := v.toNat % 2 ^ 63, fault := v.toNat.testBit 63 }

/-- A wait on counter `c` with a threshold is released (R85). -/
def ctrMet (s : State) (c threshold : Nat) : Bool :=
  let k := s.counter c
  decide (threshold ≤ k.value) || k.fault

/-- Counter `c` is defined and belongs to partition `p`. -/
def State.ownsCtr (s : State) (p c : Nat) : Bool :=
  match s.counters.find c with
  | none => false
  | some k => decide (k.owner = p)

/-- A code that a completion may report: 0x10 to 0xFF are reserved (R11, R110). A command that brings one
from outside changes nothing. -/
def codeDefined (c : Byte) : Bool := decide (c.toNat ≤ 0x0F)

/-! ### Steps in flight (R496) -/

/-- An operation of the partition's step reports a code: the first other than 0x08 stands (R496). Codes
0x00, 0x01, 0x09 and 0x0A fail no step. -/
def noteStep (s : State) (p : Nat) (c : Byte) : State :=
  if c = 0 ∨ c = 1 ∨ c = 9 ∨ c = 0x0A then s
  else s.modHold p fun h => { h with step := h.step.map fun x =>
    { x with failed := true, code := if x.code = 0 ∨ (x.code = 8 ∧ c ≠ 8) then c else x.code } }

end Sys2Proof.Machine
end

