-- ==== Sys2Proof/Machine/Access.lean ====
section
/-! DEFINITION. Who may reach a register (17 R543 to R546, 06 R197 and R221, 12 R387 and R399). -/

namespace Sys2Proof.Machine

/-- Record an access under R543 or R545 in ACCESS_LOG (Table 17-7). -/
def logAccess (s : State) (fn off : Nat) : State :=
  s.upd fun s => s.modRegs fun r =>
    { r with accessCount := satAdd 0xFF_FFFF r.accessCount 1, accessFn := fn, accessOffset := off,
             intAccess := true }

/-- Partition windows, block windows and the scheduler block answer in this module state (R546). -/
def windowsAnswer (s : State) : Bool :=
  decide (s.regs.state = 3 ∨ s.regs.state = 5 ∨ s.regs.state = 6 ∨ s.regs.state = 7)

/-- The partition context of the Cobbler core of block `b` of partition `p` runs (R219). -/
def cobblerRuns (s : State) (p b : Nat) : Bool :=
  decide (s.code p = 5 ∧ (s.block b).cobbler = 1 ∧ s.blockOwner b = some p) && !(s.block b).halted

/-- Some Cobbler core of partition `p` runs its partition context. -/
def anyCobbler (s : State) (p : Nat) : Bool := (s.blocksOf p).any (cobblerRuns s p)

/-- Stop the partition context of one Cobbler core for a disallowed access (R221): an ACCESS fault record
of the partition with code 0x0D. A context that does not run makes no access. -/
def cobblerStop (s : State) (p b : Nat) : State :=
  if cobblerRuns s p b then
    faultRecord (s.setBlock b { s.block b with cobbler := 2 }) 2 0x0D p 1 b 0 0 0
  else s

/-- An access that a Cobbler core makes to a lane or counter that its partition does not own stops its partition context
(R221); any other's changes nothing. -/
def notOwned (s : State) : Src → State
  | .cobbler p b => cobblerStop s p.val b.val
  | _ => s

/-- A Cobbler core's partition context reaches the lane and counter registers of its partition, and the engine, Awl,
attention and power registers of its blocks, and no other register (R221, R234, R484): Tables 03-5, 03-8, 03-16, 06-5,
07-3 and 14-6. -/
def cobblerReach (off : Nat) : Bool :=
  if 0x0200_0000 ≤ off then
    let w := off % 0x2_0000
    decide (w < 0x30 ∨ (0x1_0000 ≤ w ∧ w < 0x1_0200) ∨ (0x1_8000 ≤ w ∧ w < 0x1_8040) ∨ (0x1_C000 ≤ w ∧ w < 0x1_C020))
  else if 0x0100_0000 ≤ off then
    let w := off % 0x4_0000
    decide ((0x1_0000 ≤ w ∧ w < 0x3_0018) ∨ (0x3_0040 ≤ w ∧ w < 0x3_00C0))
  else false

/-- The trust registers of a partition window answer in every partition state (R452, R459). -/
def trustOff (off : Nat) : Bool :=
  decide (0x0100_0000 ≤ off ∧ off < 0x0200_0000 ∧ 0x3_E000 ≤ off % 0x4_0000 ∧ off % 0x4_0000 < 0x3_F000)

/-- A partition's registers answer a function at this offset: not while it is being scrubbed, but for its
trust registers (R452). -/
def partAnswers (s : State) (p off : Nat) : Bool := decide (s.code p ≠ 8) || trustOff off

/-- Whether an access to a register of partition `owner` at BAR0 offset `off` is admitted, and the state
with what a refused one leaves: a VF access to another partition's register, or to one no partition owns,
is recorded (R545); a Cobbler core's stops its partition context (R221). A stitch core reaches no register but
an AWL_TAIL of its own block (R191), which AWL_TAIL_WRITE admits before it comes here. -/
def portGate (s : State) (src : Src) (owner : Option Nat) (off : Nat) : Bool × State :=
  if windowsAnswer s = false then (false, s)
  else match src with
    | .mgmt => (false, s)
    | .core .. => (false, s)
    | .cobbler p b =>
      if !cobblerRuns s p b then (false, s)
      else if owner = some p.val ∧ cobblerReach off then (true, s)
      else (false, cobblerStop s p b)
    | .host fn =>
      if fn.val = 0 then
        match owner with
        | none => (false, s)
        | some p => (partAnswers s p off, s)
      else if s.undefinedPart (fn.val - 1) then (false, s)
      else if owner = some (fn.val - 1) then (partAnswers s (fn.val - 1) off, s)
      else (false, logAccess s fn.val off)

/-- Apply a write to a register of partition `owner` when the access is admitted. -/
def guarded (s : State) (src : Src) (owner : Option Nat) (off : Nat) (f : State → State) : State :=
  let (ok, s) := portGate s src owner off
  if ok then f s else s

/-- A partition that the committed pattern defines. -/
def State.defined (s : State) (p : Nat) : Option Nat := if s.undefinedPart p then none else some p

/-- BAR0 offset of a register of partition window `p` (Table 17-1). -/
def partOff (p off : Nat) : Nat := 0x0100_0000 + p * 0x4_0000 + off
/-- BAR0 offset of a register of block window `b` (Table 17-1). -/
def blockOff (b off : Nat) : Nat := 0x0200_0000 + b * 0x2_0000 + off

/-- Write a register of partition window `p` at window offset `off`. -/
def partWrite (s : State) (src : Src) (p off : Nat) (f : State → State) : State :=
  guarded s src (s.defined p) (partOff p off) f

/-- Write a register of block window `b` at window offset `off`. -/
def blockWrite (s : State) (src : Src) (b off : Nat) (f : State → State) : State :=
  guarded s src (s.blockOwner b) (blockOff b off) f

/-- While the module is Held, the PF reaches only the blocks that R50 names: module global, pattern loader,
Perger mailbox, fault and telemetry. -/
def heldAnswers (off : Nat) : Bool := decide (off < 0x2_0000 ∨ (0x3_0000 ≤ off ∧ off < 0x5_0000))

/-- Port A takes memory requests of a function: it is down while the module is Dark or Cut, a VF without a
defined partition answers Unsupported Request (R387), and Held leaves the PF alone (R50). -/
def fnAnswers (s : State) (fn off : Nat) : Bool :=
  decide (s.regs.state ≠ 0 ∧ s.regs.state ≠ 9)
    && (if fn = 0 then decide (s.regs.state ≠ 4) || heldAnswers off
        else decide (s.regs.state ≠ 4) && !s.undefinedPart (fn - 1))

/-- Write a register of a module-global or PF-only block at BAR0 offset `off`: the PF and WRITE_REG write it
(R544, R399); a write by a VF is ignored and recorded (R545); a Cobbler core's stops its partition context
(R221). -/
def globalWrite (s : State) (src : Src) (off : Nat) (f : State → State) : State :=
  match src with
  | .mgmt => f s
  | .host fn => if !fnAnswers s fn.val off then s else if fn.val = 0 then f s else logAccess s fn.val off
  | .cobbler p b => if windowsAnswer s then cobblerStop s p b else s
  | .core .. => s

end Sys2Proof.Machine
end

