-- ==== Sys2Proof/Machine/Aes.lean ====
section
/-! DEFINITION. AES-256-XTS (FIPS 197, IEEE 1619), the cipher of stored bytes (13 R443). A block is its 16 bytes in the
order of the standard: byte 4c + r is row r of column c. -/

namespace Sys2Proof.Machine

/-- A product by x in the field of AES. -/
def aesDouble (a : Byte) : Byte := (a <<< 1) ^^^ (if a.getLsbD 7 then 0x1B else 0)

/-- A product in the field, over the bits of the second factor from bit `7 - n` up. -/
def aesMulFrom : (n : Nat) → Byte → Byte → Byte
  | 0, _, _ => 0
  | n + 1, a, b => (if b.getLsbD (7 - n) then a else 0) ^^^ aesMulFrom n (aesDouble a) b

def aesMul (a b : Byte) : Byte := aesMulFrom 8 a b

/-- The inverse in the field, zero for zero: the 254th power. -/
def aesInverse (a : Byte) : Byte :=
  let sq := fun x => aesMul x x
  let a3 := aesMul (sq a) a
  let a15 := aesMul (sq (sq a3)) a3
  let a127 := aesMul (sq (aesMul (sq (sq a15)) a3)) a
  sq a127

/-- A byte turned left. -/
def turned (a : Byte) (n : Nat) : Byte := a.rotateLeft n

/-- The substitution box and its inverse. -/
def aesBox (a : Byte) : Byte :=
  let b := aesInverse a
  b ^^^ turned b 1 ^^^ turned b 2 ^^^ turned b 3 ^^^ turned b 4 ^^^ 0x63

def aesUnbox (a : Byte) : Byte := aesInverse (turned a 1 ^^^ turned a 3 ^^^ turned a 6 ^^^ 0x05)

/-- Exclusive or of two blocks. -/
def xorBlock (a b : List Byte) : List Byte := List.zipWith (· ^^^ ·) a b

/-- Rows move left by their number (`enc`), or right. -/
def aesShift (enc : Bool) (b : List Byte) : List Byte :=
  (List.range 16).map fun i =>
    let r := i % 4
    b.getD ((i + (if enc then 4 * r else 4 * (4 - r))) % 16) 0

/-- The column product with a row of factors that turns with each row. -/
def aesMix (f : List Byte) (b : List Byte) : List Byte :=
  (List.range 16).map fun i =>
    (List.range 4).foldl (fun x k => x ^^^ aesMul (f.getD ((k + 4 - i % 4) % 4) 0) (b.getD (i / 4 * 4 + k) 0)) 0

/-- The words of the key schedule after the first eight, the latest first. -/
def aesWords : (n i : Nat) → (rcon : Byte) → List (List Byte) → List (List Byte)
  | 0, _, _, ws => ws
  | n + 1, i, rcon, ws =>
    let last := ws.headD []
    let back := ws.getD 7 []
    let t := if i % 8 = 0 then xorBlock ((last.drop 1 ++ last.take 1).map aesBox) [rcon, 0, 0, 0]
      else if i % 8 = 4 then last.map aesBox else last
    aesWords n (i + 1) (if i % 8 = 0 then aesDouble rcon else rcon) (xorBlock back t :: ws)

/-- The 15 round keys of a 32-byte key. -/
def aesKeys (key : List Byte) : List (List Byte) :=
  let ws := (aesWords 52 8 1 ((List.range 8).map fun i => slice key (4 * i) 4).reverse).reverse
  (List.range 15).map fun r => (slice4 ws r).flatten
where
  slice4 (ws : List (List Byte)) (r : Nat) : List (List Byte) := (ws.drop (4 * r)).take 4

/-- Encrypt one block under round keys. -/
def aesEncrypt (keys : List (List Byte)) (b : List Byte) : List Byte :=
  match keys with
  | [] => b
  | k :: ks =>
    let last := ks.getLastD []
    let b := (ks.dropLast).foldl (fun b k => xorBlock (aesMix [2, 3, 1, 1] (aesShift true (b.map aesBox))) k) (xorBlock b k)
    xorBlock (aesShift true (b.map aesBox)) last

/-- Decrypt one block under round keys. -/
def aesDecrypt (keys : List (List Byte)) (b : List Byte) : List Byte :=
  match keys.reverse with
  | [] => b
  | k :: ks =>
    let last := ks.getLastD []
    let b := (ks.dropLast).foldl (fun b k => aesMix [14, 11, 13, 9] (xorBlock ((aesShift false b).map aesUnbox) k)) (xorBlock b k)
    xorBlock ((aesShift false b).map aesUnbox) last

/-- A tweak times x in the field of XTS: its bytes are a number, the lowest first. -/
def xtsDouble (t : List Byte) : List Byte :=
  let n := leNat t
  leBytes 16 ((2 * n % 2 ^ 128) ^^^ (if 2 ^ 127 ≤ n then 0x87 else 0))

/-- The blocks of a data unit, each under its tweak. -/
def xtsBlocks (crypt : List Byte → List Byte) : (n : Nat) → (tweak bs : List Byte) → List Byte
  | 0, _, _ => []
  | n + 1, t, bs => xorBlock (crypt (xorBlock (bs.take 16) t)) t ++ xtsBlocks crypt n (xtsDouble t) (bs.drop 16)

/-- Encrypt or decrypt a data unit of 32 bytes under a pair of 32-byte keys, the data key first, with a tweak. -/
def xts (enc : Bool) (key tweak bs : List Byte) : List Byte :=
  let keys := aesKeys (key.take 32)
  xtsBlocks (if enc then aesEncrypt keys else aesDecrypt keys) 2 (aesEncrypt (aesKeys (key.drop 32)) tweak) bs

end Sys2Proof.Machine
end

