-- ==== Sys2Proof/Machine/Arith.lean ====
section
/-! DEFINITION. The number formats and the arithmetic of 06: exact values, one rounding, LK4 and LV6. -/

namespace Sys2Proof.Machine

/-! ### Exact values -/

/-- A value met in arithmetic: NaN, an infinity, or (-1)^neg x m x 2^e exactly, zero keeping its sign. -/
inductive Num where
  | nan
  | inf (neg : Bool)
  | val (neg : Bool) (m : Nat) (e : Int)
  deriving DecidableEq, Repr

def Num.zero : Num := .val false 0 0

/-- A signed integer times a power of two. -/
def Num.ofInt (i e : Int) : Num := .val (decide (i < 0)) i.natAbs e

/-- 2 to a non-negative integer power, 1 for a negative one. -/
def pow2 (k : Int) : Nat := 2 ^ k.toNat

/-- Bring m x 2^e to a smaller or equal exponent. -/
def alignTo (m : Nat) (e lo : Int) : Nat := m * pow2 (e - lo)

/-- The signed mantissa of a value at exponent `lo`, which must not exceed its own. -/
def signedAt (neg : Bool) (m : Nat) (e lo : Int) : Int :=
  if neg then -(alignTo m e lo : Int) else (alignTo m e lo : Int)

/-- Exact addition with IEEE 754 infinities and signs of zero. -/
def Num.add : Num → Num → Num
  | .nan, _ => .nan
  | _, .nan => .nan
  | .inf a, .inf b => if a = b then .inf a else .nan
  | .inf a, .val .. => .inf a
  | .val .., .inf b => .inf b
  | .val a m e, .val b n f =>
    let lo := min e f
    let t := signedAt a m e lo + signedAt b n f lo
    if t = 0 then .val (a && b && decide (m = 0 ∧ n = 0)) 0 0 else .ofInt t lo

/-- Exact multiplication with IEEE 754 infinities. -/
def Num.mul : Num → Num → Num
  | .nan, _ => .nan
  | _, .nan => .nan
  | .inf a, .inf b => .inf (a != b)
  | .inf a, .val b n _ => if n = 0 then .nan else .inf (a != b)
  | .val a m _, .inf b => if m = 0 then .nan else .inf (a != b)
  | .val a m e, .val b n f => .val (a != b) (m * n) (e + f)

def Num.sum (l : List Num) : Num :=
  match l with
  | [] => .zero
  | x :: r => r.foldl Num.add x

def Num.isNan : Num → Bool
  | .nan => true
  | _ => false

def Num.isFinite : Num → Bool
  | .val .. => true
  | _ => false

def Num.isZero : Num → Bool
  | .val _ m _ => decide (m = 0)
  | _ => false

/-- |a| < |b| of two finite values. -/
def magLt (m : Nat) (e : Int) (n : Nat) (f : Int) : Bool :=
  decide (alignTo m e (min e f) < alignTo n f (min e f))

/-- a < b of two values that are not NaN. -/
def Num.lt : Num → Num → Bool
  | .inf a, .inf b => a && !b
  | .inf a, .val .. => a
  | .val .., .inf b => !b
  | .val a m e, .val b n f =>
    decide (signedAt a m e (min e f) < signedAt b n f (min e f))
  | _, _ => false

/-! ### Rounding -/

/-- n / d to the nearest integer, ties to even. -/
def rneDiv (n d : Nat) : Nat :=
  let t := n / d
  let r := n % d
  if d < 2 * r ∨ (2 * r = d ∧ t % 2 = 1) then t + 1 else t

/-- m x 2^e as a multiple of 2^q, to the nearest, ties to even. -/
def rneAt (m : Nat) (e q : Int) : Nat :=
  if q ≤ e then m * pow2 (e - q)
  else if (q - e).toNat > m.log2 + 2 then 0
  else rneDiv m (pow2 (q - e))

/-- A binary format of Table 06-9: exponent and mantissa widths, bias; `sat` for the FP8 forms. -/
structure FFmt where
  eb : Nat
  mb : Nat
  bias : Nat
  deriving DecidableEq, Repr

def fmtFp32 : FFmt := { eb := 8, mb := 23, bias := 127 }
def fmtBf16 : FFmt := { eb := 8, mb := 7, bias := 127 }
def fmtFp16 : FFmt := { eb := 5, mb := 10, bias := 15 }
def fmtE5m2 : FFmt := { eb := 5, mb := 2, bias := 15 }
def fmtE4m3 : FFmt := { eb := 4, mb := 3, bias := 7 }
def fmtE2m1 : FFmt := { eb := 2, mb := 1, bias := 1 }
def fmtE2m3 : FFmt := { eb := 2, mb := 3, bias := 1 }

/-- The exponent of a format's subnormal quantum. -/
def FFmt.qmin (f : FFmt) : Int := 1 - (f.bias : Int) - (f.mb : Int)

/-- Sign, exponent and mantissa bits to a value, every encoding finite (R203). -/
def FFmt.finite (f : FFmt) (bits : Nat) : Num :=
  let neg := bits.testBit (f.eb + f.mb)
  let ex := bitsOf bits f.mb f.eb
  let mt := bitsOf bits 0 f.mb
  if ex = 0 then .val neg mt f.qmin else .val neg (2 ^ f.mb + mt) (f.qmin + ex - 1)

/-- Decode a format with infinities and NaNs at exponent all ones (FP32, BF16, FP16, E5M2). -/
def FFmt.decodeIeee (f : FFmt) (bits : Nat) : Num :=
  let ex := bitsOf bits f.mb f.eb
  if ex = 2 ^ f.eb - 1 then
    if bitsOf bits 0 f.mb = 0 then .inf (bits.testBit (f.eb + f.mb)) else .nan
  else f.finite bits

/-- An FP32 operand: a subnormal is read as zero of its sign (R214). -/
def fp32Val (b : BitVec 32) : Num :=
  if bitsOf b.toNat 23 8 = 0 then .val (b.toNat.testBit 31) 0 0 else fmtFp32.decodeIeee b.toNat

def bf16Val (b : Nat) : Num := fmtBf16.decodeIeee b
def fp16Val (b : Nat) : Num := fmtFp16.decodeIeee b
def e5m2Val (b : Nat) : Num := fmtE5m2.decodeIeee b
/-- FP8 E4M3: NaN at 0x7F and 0xFF only (Table 06-9). -/
def e4m3Val (b : Nat) : Num := if b % 128 = 127 then .nan else fmtE4m3.finite b

/-- Magnitude code of m x 2^e rounded to a format, as if its exponents had no end. -/
def FFmt.magCode (f : FFmt) (m : Nat) (e : Int) : Nat :=
  if m = 0 then 0
  else
    let q := max (e + (m.log2 : Int) - f.mb) f.qmin
    rneAt m e q + (q - f.qmin).toNat * 2 ^ f.mb

/-- Put a sign on a magnitude code. -/
def FFmt.signed (f : FFmt) (neg : Bool) (code : Nat) : Nat := code + bit neg * 2 ^ (f.eb + f.mb)

/-- The code of infinity in a format that has one. -/
def FFmt.infCode (f : FFmt) : Nat := (2 ^ f.eb - 1) * 2 ^ f.mb

/-- Round to a format whose overflow is infinity (FP32 before R214, BF16, FP16), NaN code given. -/
def FFmt.encodeIeee (f : FFmt) (nan : Nat) : Num → Nat
  | .nan => nan
  | .inf s => f.signed s f.infCode
  | .val s m e => f.signed s (min f.infCode (f.magCode m e))

/-- Round to FP32: the NaN is 0x7FC0_0000 and a subnormal result is zero of its sign (R214). -/
def fp32Of (x : Num) : BitVec 32 :=
  let c := fmtFp32.encodeIeee 0x7FC0_0000 x
  BitVec.ofNat 32 (if bitsOf c 23 8 = 0 then c / 2 ^ 31 * 2 ^ 31 else c)

/-- A NaN code of a format with infinities; the manual fixes no payload for BF16 and FP16. -/
def FFmt.openNan (f : FFmt) : Nat := f.infCode + 1 + Config.nanPayload f.mb % (2 ^ f.mb - 1)

def bf16Of (x : Num) : Nat := fmtBf16.encodeIeee fmtBf16.openNan x
def fp16Of (x : Num) : Nat := fmtFp16.encodeIeee fmtFp16.openNan x

/-- Round to FP8 E4M3: overflow and infinity give 448 of the sign, NaN gives 0x7F (R216). -/
def e4m3Of : Num → Nat
  | .nan => 0x7F
  | .inf s => fmtE4m3.signed s 0x7E
  | .val s m e => fmtE4m3.signed s (min 0x7E (fmtE4m3.magCode m e))

/-- Round to FP8 E5M2: finite overflow gives 57,344, infinity stays, NaN gives 0x7E (R216). -/
def e5m2Of : Num → Nat
  | .nan => 0x7E
  | .inf s => fmtE5m2.signed s 0x7C
  | .val s m e => fmtE5m2.signed s (min 0x7B (fmtE5m2.magCode m e))

/-- The value of an FP32 code rounded from `x`, for the next step of a computation. -/
def roundFp32 (x : Num) : Num := fp32Val (fp32Of x)

/-- A finite value to the nearest integer, ties to even. -/
def rneInt : Num → Int
  | .val s m e => let r := rneAt m e 0; if s then -(r : Int) else r
  | _ => 0

/-- Saturate an integer to `bits` bits of two's complement; the second part tells that it saturated. -/
def satInt (bits : Nat) (i : Int) : Int × Bool :=
  let hi : Int := 2 ^ (bits - 1) - 1
  let lo : Int := -(2 ^ (bits - 1))
  if hi < i then (hi, true) else if i < lo then (lo, true) else (i, false)

/-- Two's complement code of an integer. -/
def codeOfInt (bits : Nat) (i : Int) : Nat := (i % 2 ^ bits).toNat

/-- The integer of a two's complement code. -/
def intOfCode (bits c : Nat) : Int := if 2 ^ (bits - 1) ≤ c then (c : Int) - 2 ^ bits else c

/-- Convert to INT8 or INT4 (R216): the code and whether it saturated. -/
def intOf (bits : Nat) : Num → Nat × Bool
  | .nan => (Config.nanToInt bits % 2 ^ bits, true)
  | .inf s => (codeOfInt bits (satInt bits (if s then -(2 ^ bits) else 2 ^ bits)).1, true)
  | x => let r := satInt bits (rneInt x); (codeOfInt bits r.1, r.2)

/-! ### Square roots, exp2 -/

/-- Bits of the integer square root, from bit `fuel - 1` down. -/
def isqrtGo (n : Nat) : Nat → Nat → Nat
  | 0, r => r
  | k + 1, r => isqrtGo n k (if (r + 2 ^ k) * (r + 2 ^ k) ≤ n then r + 2 ^ k else r)

/-- Integer square root, rounded down. -/
def isqrt (n : Nat) : Nat := isqrtGo n (n.log2 / 2 + 1) 0

/-- A positive value known only from below: one further bit stands for what lies beyond `m` (the
mantissa has many more bits than any format, so one rounding of it is the rounding of the value). -/
def stickyVal (neg : Bool) (m : Nat) (e : Int) (exact : Bool) : Num :=
  .val neg (2 * m + bit (!exact)) (e - 1)

/-- Divide by the square root of a head dimension 64, 128 or 256 (R205). -/
def divSqrt (d : Nat) : Num → Num
  | .val s m e =>
    if d = 64 then .val s m (e - 3)
    else if d = 256 then .val s m (e - 4)
    else if m = 0 then .val s 0 0
    else stickyVal s (isqrt (m * m * 2 ^ 129)) (e - 4 - 64) false
  | x => x

/-- 1 / x of a finite non-zero value. -/
def recipVal (s : Bool) (m : Nat) (e : Int) : Num :=
  let n := 2 ^ (m.log2 + 80)
  stickyVal s (n / m) (-e - (m.log2 + 80)) (n % m = 0)

/-- 1 / sqrt x of a finite positive value. -/
def rsqrtVal (m : Nat) (e : Int) : Num :=
  let m := if e % 2 = 0 then m else 2 * m
  let e := if e % 2 = 0 then e else e - 1
  let k := m.log2 + 80
  let r := isqrt (2 ^ (2 * k) / m)
  stickyVal false r (-(e / 2) - k) (r * r * m = 2 ^ (2 * k))

/-- floor of ln 2 times 2^256. -/
def ln2Fixed : Nat := 80260960185991308862233904206310070533990667611589946606122867505419956976171

/-- The series of e^t at 256 fraction bits: the terms from number `n` on, the latest being `term`. -/
def expSeries (t : Nat) : Nat → Nat → Nat → Nat → Nat
  | 0, _, _, acc => acc
  | fuel + 1, n, term, acc =>
    let term := term * t / 2 ^ 256 / n
    expSeries t fuel (n + 1) term (acc + term)

/-- 2^(f / 2^256) at 256 fraction bits, for f below 2^256. -/
def exp2Frac (f : Nat) : Nat := expSeries (f * ln2Fixed / 2 ^ 256) 64 1 (2 ^ 256) (2 ^ 256)

/-- 2 to a finite value whose magnitude is below 2^20. -/
def exp2Val (s : Bool) (m : Nat) (e : Int) : Num :=
  let t := signedAt s m e (-256)
  let whole := t / 2 ^ 256
  let frac := (t % 2 ^ 256).toNat
  if e < -256 then .val false (2 ^ 256) (-256)
  else stickyVal false (exp2Frac frac) (whole - 256) (frac = 0)

/-- exp2 of an FP32 value (R554). -/
def exp2Fp (x : Num) : BitVec 32 :=
  match x with
  | .nan => fp32Of .nan
  | .inf s => if s then 0 else fp32Of (.inf false)
  | .val s m e =>
    if m = 0 then fp32Of (.val false 1 0)
    else if 12 < e + m.log2 then (if s then 0 else fp32Of (.inf false))
    else fp32Of (exp2Val s m e)

/-- Reciprocal of an FP32 value (R554). -/
def rcpFp (x : Num) : BitVec 32 :=
  match x with
  | .nan => fp32Of .nan
  | .inf s => fp32Of (.val s 0 0)
  | .val s m e => if m = 0 then fp32Of (.inf s) else fp32Of (recipVal s m e)

/-- Reciprocal square root of an FP32 value (R554). -/
def rsqrtFp (x : Num) : BitVec 32 :=
  match x with
  | .nan => fp32Of .nan
  | .inf s => if s then fp32Of .nan else 0
  | .val s m e =>
    if m = 0 then fp32Of (.inf s) else if s then fp32Of .nan else fp32Of (rsqrtVal m e)

/-! ### LK4 (R205 to R207) -/

/-- The head dimension that a HEAD code names (Table 02-6). -/
def headDim (h : Nat) : Nat := 64 * 2 ^ h

/-- The parity of the one bits of a number below 256. -/
def parity8 (n : Nat) : Bool := (List.range 8).foldl (fun p i => p != n.testBit i) false

/-- Row `i` of the Sylvester matrix applied to a head: the exact sum of +-x_j (R205). -/
def rotateRow (x : List Num) (i : Nat) : Num :=
  Num.sum (x.mapIdx fun j v => if parity8 (i &&& j) then v.mul (.val true 1 0) else v)

/-- R x with each element exact until `fin` rounds it (R205). -/
def rotateHead (d : Nat) (x : List Num) (fin : Num → α) : List α :=
  (List.range d).map fun i => fin (divSqrt d (rotateRow x i))

/-- The larger magnitude of two finite values, as mantissa and exponent. -/
def magMax (a : Nat × Int) : Num → Nat × Int
  | .val _ m e => if magLt a.1 a.2 m e then (m, e) else a
  | _ => a

/-- amax of a block of finite values. -/
def amax (ys : List Num) : Nat × Int := ys.foldl magMax (0, 0)

/-- ceil(log2(m x 2^x / 7)) for m above zero: 7 x 2^e just reaches it. -/
def ceilLog7 (m : Nat) (x : Int) : Int :=
  if 4 * m ≤ 7 * 2 ^ m.log2 then x + m.log2 - 2 else x + m.log2 - 1

/-- ceil(log2(m x 2^x / 127)) for m above zero. -/
def ceilLog127 (m : Nat) (x : Int) : Int :=
  if 64 * m ≤ 127 * 2 ^ m.log2 then x + m.log2 - 6 else x + m.log2 - 5

/-- RNE(y / 2^e) of a finite value. -/
def codeAt (e : Int) (y : Num) : Int :=
  match y with
  | .val s m x => rneInt (.val s m (x - e))
  | _ => 0

/-- Two 4-bit codes in one byte, the first in bits 3:0 (R207). -/
def packNibbles : List Int → List Byte
  | a :: b :: r => BitVec.ofNat 8 (codeOfInt 4 a + 16 * codeOfInt 4 b) :: packNibbles r
  | _ => []

/-- One LK4 block of 64 rotated elements (R206 steps 3 to 5). -/
def lk4Block (ys : List Num) : List Byte :=
  let a := amax ys
  if a.1 = 0 then List.replicate 33 0
  else
    let e := max (-127) (ceilLog7 a.1 a.2)
    BitVec.ofNat 8 (e + 127).toNat :: packNibbles (ys.map (codeAt e))

/-- Encode a key head of D elements into LK4 (R206). -/
def lk4Encode (d : Nat) (x : List Num) : List Byte :=
  let y := rotateHead d x roundFp32
  if x.all Num.isFinite && y.all Num.isFinite then
    (List.range (d / 64)).flatMap fun j => lk4Block ((y.drop (64 * j)).take 64)
  else (List.range (d / 64)).flatMap fun _ => 0xFF :: List.replicate 32 0

/-- The scale byte and the 64 codes of LK4 block `j` of a head. -/
def lk4Codes (bs : List Byte) (j : Nat) : Nat × List Int :=
  (fld bs (33 * j) 1, (List.range 64).map fun i =>
    intOfCode 4 (bitsOf (fld bs (33 * j + 1 + i / 2) 1) (4 * (i % 2)) 4))

/-- The rotated values that an LK4 head holds (R207). -/
def lk4Values (d : Nat) (bs : List Byte) : List Num :=
  (List.range (d / 64)).flatMap fun j =>
    let c := lk4Codes bs j
    c.2.map fun q => if c.1 = 0xFF then .nan else .ofInt q ((c.1 : Int) - 127)

/-- Decode an LK4 head to FP8 E4M3 with the rotation undone (R207). -/
def lk4Decode (d : Nat) (bs : List Byte) : List Byte :=
  rotateHead d (lk4Values d bs) fun v => BitVec.ofNat 8 (e4m3Of v)

/-! ### LV6 (R208 to R210) -/

/-- RNE(m x 2^e / (n x 2^f)) for n above zero, as a magnitude. -/
def rneQuot (m : Nat) (e : Int) (n : Nat) (f : Int) : Nat :=
  rneDiv (alignTo m e (min e f)) (alignTo n f (min e f))

/-- The smallest positive E4M3 code whose value is at or above m x 2^e / 2, 0x7E where none is. -/
def lv6Scale (m : Nat) (e : Int) : Nat :=
  match (upFrom 1 0x7E).find? fun c =>
      match e4m3Val c with
      | .val _ n f => !magLt n f m (e - 1)
      | _ => false with
  | some c => c
  | none => 0x7E

/-- One level of an LV6 block under a scale (R208). -/
def lv6Level (scale : Nat) (x : Num) : Int :=
  match x, e4m3Val scale with
  | .inf s, _ => if s then -2 else 2
  | .val s m e, .val _ n f => let r : Int := min 2 (rneQuot m e n f); if s then -r else r
  | _, _ => 0

/-- The scale and the 32 levels of a block of values (R208). -/
def lv6Quant (xs : List Num) : Nat × List Int :=
  if xs.any Num.isNan then (0x7F, List.replicate 32 0)
  else
    let a := amax xs
    if xs.any (fun x => !x.isFinite) then (0x7E, xs.map (lv6Level 0x7E))
    else if a.1 = 0 then (0, List.replicate 32 0)
    else let s := lv6Scale a.1 a.2; (s, xs.map (lv6Level s))

/-- The 83 bits of an LV6 block (R209). -/
def lv6Pack (b : Nat × List Int) : Nat :=
  let l := fun i => ((b.2.getD i 0) + 2).toNat
  b.1 + ((List.range 10).foldl (fun n g =>
      n + (l (3 * g) + 5 * l (3 * g + 1) + 25 * l (3 * g + 2)) * 2 ^ (8 + 7 * g)) 0)
    + (l 30 + 5 * l 31) * 2 ^ 78

/-- The 32 values of an 83-bit LV6 block (R209). -/
def lv6Values (bits : Nat) : List Num :=
  let scale := bitsOf bits 0 7
  (List.range 32).map fun i =>
    let g := bitsOf bits (if i < 30 then 8 + 7 * (i / 3) else 78) (if i < 30 then 7 else 5)
    let bad := if i < 30 then decide (125 ≤ g) else decide (25 ≤ g)
    if scale = 0x7F then .nan
    else if bad then .zero
    else
      let l : Int := (g / 5 ^ (if i < 30 then i % 3 else i - 30) % 5 : Nat) - 2
      (Num.ofInt l 0).mul (e4m3Val scale)

/-- Bytes of a row of m LV6 blocks (R210). -/
def lv6RowLen (m : Nat) : Nat := (83 * m + 7) / 8

/-- The number of LV6 blocks whose row is `len` bytes, if there is one (R210). -/
def lv6Count (len : Nat) : Option Nat :=
  let m := 8 * len / 83
  if lv6RowLen m = len then some m else none

/-- Encode a row of values, 32 to a block, into a bit-packed LV6 row (R210). -/
def lv6Row (m : Nat) (xs : List Num) : List Byte :=
  leBytes (lv6RowLen m) ((List.range m).foldl
    (fun n j => n + lv6Pack (lv6Quant ((xs.drop (32 * j)).take 32)) * 2 ^ (83 * j)) 0)

/-- Decode a bit-packed LV6 row of m blocks (R210). -/
def lv6RowValues (m : Nat) (bs : List Byte) : List Num :=
  let n := leNat bs
  (List.range m).flatMap fun j => lv6Values (bitsOf n (83 * j) 83)

/-! ### Awl transforms (Table 03-12) -/

/-- The tiles of a matrix of `rows` rows of `len` bytes: byte `k` of the tiled span is this byte of the
row-major matrix (R314). -/
def tileIndex (len k : Nat) : Nat :=
  let tile := k / 64
  let perRow := len / 8
  (8 * (tile / perRow) + k % 64 / 8) * len + 8 * (tile % perRow) + k % 8

/-- LENGTH is a whole number of input units of a transform (R98, R210, Table 03-12). -/
def wholeUnits (transform head rows len : Nat) : Bool :=
  match transform with
  | 0 => true
  | 1 => decide (len % headDim head = 0)
  | 2 => decide (len % 32 = 0)
  | 3 => decide (len % (33 * (headDim head / 64)) = 0)
  | 4 => (lv6Count len).isSome
  | 5 => decide (len % 2 = 0)
  | 6 => true
  | 7 => decide (len % 8 = 0 ∧ rows % 8 = 0)
  | _ => false

/-- The output row length of a transform (R94). -/
def outLen (transform head len : Nat) : Nat :=
  match transform with
  | 1 => len / headDim head * (33 * (headDim head / 64))
  | 2 => lv6RowLen (len / 32)
  | 3 => len / (33 * (headDim head / 64)) * headDim head
  | 4 => 32 * (lv6Count len).getD 0
  | 5 => len / 2
  | 6 => 2 * len
  | _ => len

/-- Cut bytes into units of `n` bytes, `k` of them. -/
def units (n k : Nat) (bs : List Byte) : List (List Byte) := (List.range k).map fun i => slice bs (n * i) n

/-- Convert one source row (R94; transform 0x07 regroups whole matrices and is not made row by row). -/
def convertRow (transform head : Nat) (bs : List Byte) : List Byte :=
  let len := bs.length
  let d := headDim head
  match transform with
  | 1 => (units d (len / d) bs).flatMap fun u => lk4Encode d (u.map fun b => e4m3Val b.toNat)
  | 2 => lv6Row (len / 32) (bs.map fun b => e4m3Val b.toNat)
  | 3 => (units (33 * (d / 64)) (len / (33 * (d / 64))) bs).flatMap (lk4Decode d)
  | 4 => (lv6RowValues ((lv6Count len).getD 0) bs).map fun v => BitVec.ofNat 8 (e4m3Of v)
  | 5 => (units 2 (len / 2) bs).map fun u => BitVec.ofNat 8 (e4m3Of (bf16Val (leNat u)))
  | 6 => bs.flatMap fun b => leBytes 2 (bf16Of (e4m3Val b.toNat))
  | _ => bs

/-! ### Scores on compressed keys (R217) -/

/-- A BF16 query head rotated and quantized: for each block of 64 the exponent and the INT8 codes;
none where the score is NaN (R217 steps 1, 2 and 4). -/
def quantQuery (d : Nat) (q : List Num) : Option (List (Int × List Int)) :=
  let y := rotateHead d q roundFp32
  if q.all Num.isFinite && y.all Num.isFinite then
    some ((List.range (d / 64)).map fun j =>
      let ys := (y.drop (64 * j)).take 64
      let a := amax ys
      if a.1 = 0 then (0, List.replicate 64 0)
      else let e := ceilLog127 a.1 a.2; (e, ys.map (codeAt e)))
  else none

/-- The score of a quantized query head against an LK4 key head, as FP32 (R217 steps 3 and 4). -/
def lk4Score (d : Nat) (q : Option (List (Int × List Int))) (key : List Byte) : BitVec 32 :=
  match q with
  | none => fp32Of .nan
  | some qs =>
    let terms := (List.range (d / 64)).map fun j =>
      let k := lk4Codes key j
      let qb := qs.getD j (0, [])
      if k.1 = 0xFF then Num.nan
      else roundFp32 (.ofInt ((List.zipWith (· * ·) qb.2 k.2).foldl (· + ·) 0) (qb.1 + k.1 - 127))
    match terms with
    | [] => 0
    | t :: r => fp32Of (r.foldl (fun a b => roundFp32 (a.add b)) t)

end Sys2Proof.Machine
end

