-- ==== Sys2Proof/Machine/Mem.lean ====
section
/-! DEFINITION. Memory: the partition ranges and benches as one list of bytes in canonical form, what
an access may reach, page tags, uncorrectable words, and ring entries (09, 13 R443 to R449). -/

namespace Sys2Proof.Machine

/-! ### Bytes -/

/-- The canonical form: addresses strictly rise and no listed byte is zero; an unlisted byte reads zero
(R444, R451, R463). -/
def Memory.wf (m : List Host.Cell) : Bool := KMap.sorted m && m.all fun c => c.2 != 0

/-- One byte. -/
def memByte (m : List Host.Cell) (k : Nat) : Byte := (KMap.find m k).getD 0

/-- Write one byte, keeping the canonical form. -/
def memPut (m : List Host.Cell) (k : Nat) (b : Byte) : List Host.Cell :=
  if b = 0 then KMap.del m k else KMap.put m k b

/-- Write bytes from key `k` on, but those whose key `skip` holds back. -/
def memPuts (skip : Nat → Bool) : List Host.Cell → Nat → List Byte → List Host.Cell
  | m, _, [] => m
  | m, k, b :: r => memPuts skip (if skip k then m else memPut m k b) (k + 1) r

/-- Bytes from key `k` on. -/
def memGet (m : List Host.Cell) (k : Nat) : Nat → List Byte
  | 0 => []
  | n + 1 => memByte m k :: memGet m (k + 1) n

/-- Zero every byte whose key lies in `lo` to `hi - 1`. -/
def memZero (m : List Host.Cell) (lo hi : Nat) : List Host.Cell :=
  m.filter fun c => decide (c.1 < lo ∨ hi ≤ c.1)

/-! ### Addresses (R295, R349) -/

/-- Where the bench window of a partition range begins (R295). -/
def benchBase : Nat := 0xF000_0000_0000

/-- The key of partition range offset `off` of partition `p`: the remote-line address of R349, or the
bench's own key, which is the same for every partition that sees the bench (R295). -/
def memKey (p off : Nat) : Nat :=
  if off < benchBase then p * 2 ^ 48 + off else 2 ^ 54 + (off - benchBase)

/-- The key of byte `off` of the bench of core `c` of block `b`. -/
def benchKey (b c off : Nat) : Nat := 2 ^ 54 + b * 2 ^ 28 + c * 2 ^ 18 + off

/-- Size of a bench (Table 06-2). -/
def benchSize : Nat := 0x3_0000

/-- The partition range offset of byte `off` of the bench of core `c` of block `b` (R295). -/
def benchOff (b c off : Nat) : Nat := benchBase + b * 0x1000_0000 + c * 0x4_0000 + off

/-- The placement region of `p` that holds an offset. -/
def regionAt (s : State) (p off : Nat) : Option PlaceEntry :=
  (s.regions p).find? fun e => decide (e.start ≤ off ∧ off < e.start + e.length)

/-- End of the bench that holds an offset of the bench window, when `p` owns its block. -/
def benchEnd (s : State) (p off : Nat) : Option Nat :=
  let x := off - benchBase
  let b := x / 0x1000_0000
  let c := x / 0x4_0000 % 1024
  let e := x % 0x4_0000
  if benchBase ≤ off ∧ s.blockOwner b = some p ∧ x % 0x1000_0000 < 1024 * 0x4_0000 ∧ e < benchSize then
    some (benchOff b c benchSize)
  else none

/-- End of the run of reachable bytes that starts at `off`: a region that `ok` admits, or a bench. -/
def extentEnd (s : State) (p : Nat) (ok : PlaceEntry → Bool) (bench : Bool) (off : Nat) : Option Nat :=
  if off < benchBase then
    match regionAt s p off with
    | some e => if ok e then some (e.start + e.length) else none
    | none => none
  else if bench then benchEnd s p off else none

/-- Every offset from `lo` to `hi - 1` is reachable; `fuel` bounds how many regions it may cross. -/
def coveredGo (next : Nat → Option Nat) : Nat → Nat → Nat → Bool
  | 0, lo, hi => decide (hi ≤ lo)
  | fuel + 1, lo, hi =>
    if hi ≤ lo then true
    else match next lo with
      | none => false
      | some e => if e ≤ lo then false else coveredGo next fuel e hi

/-- The bytes `off` to `off + len - 1` of the range of `p` lie in regions that `ok` admits, or, where
`bench` says so, in benches that `p` owns (R295, R296). -/
def inRange (s : State) (p : Nat) (ok : PlaceEntry → Bool) (bench : Bool) (off len : Nat) : Bool :=
  coveredGo (extentEnd s p ok bench) ((s.regions p).length + 2) off (off + len)

/-- HBM and DDR5 regions. -/
def onSled (e : PlaceEntry) : Bool := decide (e.tier = 1 ∨ e.tier = 2)
/-- HBM and DDR5 regions that an agent of the partition may write: not the program images (R37). -/
def onSledW (e : PlaceEntry) : Bool := onSled e && decide (e.use ≠ 5)

/-! ### Tiers and channels (R293, R294, R303) -/

/-- The tier that a page of a region lies in now: migration may have moved it (R303). -/
def tierOf (s : State) (p off : Nat) : Nat :=
  match (s.part p).mem.pageTier.find (off / 65536) with
  | some t => t
  | none => ((regionAt s p off).map (·.tier)).getD 0

/-- The channel that holds an offset: 256-byte lines interleave over the owner's channels (R294). -/
def channelOf (s : State) (p off : Nat) : Nat :=
  let start := ((regionAt s p off).map (·.start)).getD 0
  let chans := if tierOf s p off = 2 then s.ddrOf p else s.hbmOf p
  chans.getD ((off - start) / 256 % max 1 chans.length) 0

/-- The channel of an offset is in Doubt or retired: every access to its lines completes with 0x04
(Table 15-4). -/
def suspectAt (s : State) (p off : Nat) : Bool :=
  !allTrusted s && decide (off < benchBase) && channelSuspect s (tierOf s p off) (channelOf s p off)

/-- The first offset of a span whose channel is in Doubt or retired. -/
def suspectIn (s : State) (p off len : Nat) : Option Nat :=
  if allTrusted s ∨ len = 0 then none
  else ((upFrom (off / 256) ((off + len - 1) / 256 + 1 - off / 256)).find? fun l => suspectAt s p (l * 256)).map
    fun l => Nat.max off (l * 256)

/-- A partition with these registers has a VALID NV_LOCAL entry on a drive. -/
def usesDrive (m : PMem) (d : Nat) : Bool :=
  (List.range 8).any fun i =>
    (m.nvLocal.at i 0).toNat.testBit 63 && decide ((m.nvDrive.at i 0).toNat % 8 = d)

/-- A DIMM that the module accepts: ECC, 32 to 256 GiB, 6,400 to 8,800 MT/s (R293). -/
def dimmOk (d : Dimm) : Bool :=
  d.ecc && decide (32 ≤ d.capacityGiB ∧ d.capacityGiB ≤ 256 ∧ 6400 ≤ d.rate ∧ d.rate ≤ 8800)

/-- The accepted DIMM of a socket. -/
def dimmAt (s : State) (n : Nat) : Option Dimm := ((s.sled.dimms.getD n none).filter dimmOk)

/-- Bytes of one share of DDR5 channel `n` under a pattern (R293). -/
def ddrShare (s : State) (pt : Pattern) (n : Nat) : Nat :=
  let k := (pt.parts.filter fun kv => kv.2.ddrMask.testBit n).length
  (((dimmAt s n).map (·.capacityGiB)).getD 0 * 2 ^ 30 / max 1 k) / 65536 * 65536

/-- Capacity of partition `p` in HBM (1) or DDR5 (2) under a pattern (R292, R293). -/
def tierCapacity (s : State) (pt : Pattern) (p tier : Nat) : Nat :=
  match pt.parts.find p with
  | none => 0
  | some x =>
    if tier = 1 then (maskBits x.hbmMask 384).length * (3 * 2 ^ 29)
    else ((maskBits x.ddrMask 16).map (ddrShare s pt)).foldl (· + ·) 0

/-! ### Pending scrubs (R451, R453) -/

/-- How long the scrub of a resource takes, in microseconds, as SCRUB_PENDING numbers it (R451, Table 13-13). -/
def scrubTime (s : State) (k : Nat) : Nat :=
  if k < 16 then 1_610_612_736 / 76_875
  else match dimmAt s (k - 16) with
    | none => 0
    | some d => d.capacityGiB * 2 ^ 30 / (8 * max 1 d.rate)

/-- SCRUB_PENDING: the marks held, without those that the scrub begun at boot has ended by now. That scrub takes
the time that R451 gives (DESIGN CHOICE, notes/assumptions/39.md). -/
def scrubMarks (s : State) : BitVec 32 :=
  let t := s.trust
  (maskBits t.bootScrub.toNat 32).foldl (fun m k =>
    if t.scrubFrom + scrubTime s k ≤ s.now then m &&& ~~~(BitVec.ofNat 32 (2 ^ k)) else m) t.scrubPending

/-! ### Page tags (R444 to R449) -/

/-- Generation `g` of a partition is live. -/
def PTrust.live (t : PTrust) (g : Nat) : Bool :=
  decide (g ≠ 0 ∧ (g = t.newest ∨ (g = t.older ∧ ¬ t.olderRetired)))

/-- The page of an offset carries the tag of a retired generation (R448, R449). -/
def retiredPage (s : State) (p off : Nat) : Bool :=
  let t := (s.part p).trust
  let g := t.tags.at (off / 65536) 0
  decide (off < benchBase) && decide (g ≠ 0) && !t.live g

/-- The pages that bytes `off` to `off + len - 1` touch. -/
def pagesOf (off len : Nat) : List Nat :=
  if len = 0 then [] else upFrom (off / 65536) ((off + len - 1) / 65536 + 1 - off / 65536)

/-- Some page of the bytes is retired, other than a page that `covers` says is written whole. -/
def meetsRetired (s : State) (p off len : Nat) (covers : Nat → Bool) : Bool :=
  (pagesOf off len).any fun g => retiredPage s p (g * 65536) && !covers g

/-- The newest generation, generation 1 when the partition has none yet, its key pair made when `n` free values had been
taken (R443, R445). -/
def PTrust.withKey (t : PTrust) (n : Nat) : PTrust :=
  if t.newest = 0 then { t with newest := 1, keys := t.keys.put 1 n } else t

/-- The generations that tag the pages of a span: those under which a read of it decrypts (R447). -/
def spanGens (s : State) (p off len : Nat) : List Nat :=
  (((pagesOf off len).filter fun g => decide (g * 65536 < benchBase)).map fun g =>
    (s.part p).trust.tags.at g 0).eraseDups.filter (· ≠ 0)

/-- The page of an offset is blank (R444). -/
def blankPage (s : State) (p off : Nat) : Bool := decide ((s.part p).trust.tags.at (off / 65536) 0 = 0)

/-- A write tags each blank or retired page it touches with the newest generation (R444, R449). -/
def tagPages (t : PTrust) : List Nat → PTrust
  | [] => t
  | g :: r =>
    tagPages (if t.live (t.tags.at g 0) then t else { t with tags := t.tags.put g t.newest }) r

/-! ### Uncorrectable words (R316 to R320) -/

/-- The words (key / 32) of bytes from key `k`. -/
def wordsOf (k len : Nat) : List Nat :=
  if len = 0 then [] else upFrom (k / 32) ((k + len - 1) / 32 + 1 - k / 32)

/-- The uncorrectable words among bytes from key `k`. -/
def badIn (s : State) (k len : Nat) : List Nat := (wordsOf k len).filter fun w => s.badWords.contains w

/-- A write of `len` bytes from key `k` covers word `w` whole. -/
def coversWord (k len w : Nat) : Bool := decide (k ≤ 32 * w ∧ 32 * w + 32 ≤ k + len)

/-- Add a word to those that are uncorrectable, keeping them rising. -/
def addBad (l : List Nat) (w : Nat) : List Nat := if l.contains w then l else insertOn id w l

/-- Count a corrected word of channel `ch` of a tier (R317, Table 09-9). -/
def countFixed (s : State) (tier ch : Nat) : State :=
  if tier = 2 then
    let e := s.ddrEcc.at ch {}
    { s with ddrEcc := s.ddrEcc.put ch { e with corrected := satAdd 0xFFFF_FFFF e.corrected 1 } }
  else
    let e := s.hbmEcc.at ch {}
    { s with hbmEcc := s.hbmEcc.put ch { e with corrected := satAdd 0xFFFF_FFFF e.corrected 1 } }

/-- Count an uncorrectable word of channel `ch` of a tier (Table 09-9), and note when it was met (Table 15-3). -/
def countLost (s : State) (tier ch : Nat) : State :=
  let key := if tier = 2 then 16 + ch else ch / 32
  let late := ((s.faults.uncorrAt.at key []).filter fun t => decide (s.now < t + 1000000)) ++ [s.now]
  let s := s.modFlt fun f => { f with uncorrAt := f.uncorrAt.put key late }
  if tier = 2 then
    let e := s.ddrEcc.at ch {}
    { s with ddrEcc := s.ddrEcc.put ch { e with uncorrectable := satAdd 0xFFFF e.uncorrectable 1 } }
  else
    let e := s.hbmEcc.at ch {}
    { s with hbmEcc := s.hbmEcc.put ch { e with uncorrectable := satAdd 0xFFFF e.uncorrectable 1 } }

/-- A transfer that reads bytes `off` to `off + len - 1` of the range of `p` finds a word in error (R316): one
that is correctable is corrected and, outside the benches, counted (R317); another is uncorrectable from now
on (R318). A word outside those bytes, or one found bad before, changes nothing. -/
def eccMet (s : State) (p off len : Nat) (found : Found) : State :=
  match found with
  | none => s
  | some (word, ok) =>
    let a := word.toNat / 32 * 32
    let w := memKey p a / 32
    if len = 0 ∨ off + len ≤ a ∨ a + 32 ≤ off ∨ s.badWords.contains w then s
    else if !ok then { s with badWords := addBad s.badWords w }
    else if benchBase ≤ a then s
    else countFixed s (tierOf s p a) (channelOf s p a)

/-- The same for the bytes of several runs. -/
def eccMetIn (s : State) (p : Nat) (spans : List (Nat × Nat)) (found : Found) : State :=
  spans.foldl (fun s x => eccMet s p x.1 x.2 found) s

/-- Count and report an uncorrectable word of the range of `p` at offset `off` (R320, Table 09-9), with the
completion code it caused. -/
def badWordFault (s : State) (p off : Nat) (tag : Word) (code : Byte := 4) : State :=
  if benchBase ≤ off then
    faultRecord s 1 code p 1 ((off - benchBase) / 0x1000_0000) off 0 tag
  else
    let tier := tierOf s p off
    let ch := channelOf s p off
    faultRecord (countLost s tier ch) 1 code p (if tier = 2 then 3 else 2) (if tier = 2 then ch else ch / 32) off
      (tier + ch * 2 ^ 16) tag

/-- Report each uncorrectable word, and the first line in Doubt, that a transfer of bytes from `off`
met. -/
def badWordFaults (s : State) (p off len : Nat) (tag : Word) : State :=
  let s := match suspectIn s p off len with
    | none => s
    | some o =>
      let tier := tierOf s p o
      let ch := channelOf s p o
      faultRecord s 1 4 p (if tier = 2 then 3 else 2) (if tier = 2 then ch else ch / 32) o
        (tier + ch * 2 ^ 16) tag
  (badIn s (memKey p off) len).foldl (fun s w => badWordFault s p (off + 32 * w - memKey p off) tag) s

/-! ### Transfers -/

/-- The bytes of the range of `p` from `off`. -/
def loadBytes (s : State) (p off len : Nat) : List Byte := memGet s.mem (memKey p off) len

/-- The lower of two offsets, where there is one. -/
def lowest (a b : Option Nat) : Option Nat :=
  match a, b with
  | some x, some y => some (min x y)
  | some x, none => some x
  | none, y => y

/-- The offset of the first byte, among those from `off`, of a word (key / 32). -/
def wordStart (p off w : Nat) : Nat := Nat.max off (off + 32 * w - memKey p off)

/-- How a read of reachable bytes fails, with the offset of the first byte that fails: 0x05 on a retired page
(R449), else 0x04 on an uncorrectable word or a channel in Doubt (R318, Table 15-4). Where a span meets both
codes the manual gives no order: the page is looked at first (DESIGN CHOICE, notes/assumptions/56.md). -/
def readFailure (s : State) (p off len : Nat) : Option (Byte × Nat) :=
  match (pagesOf off len).find? fun g => retiredPage s p (g * 65536) with
  | some g => some (5, Nat.max off (g * 65536))
  | none =>
    (lowest ((badIn s (memKey p off) len).head?.map (wordStart p off)) (suspectIn s p off len)).map fun a => (4, a)

/-- The code with which a read of reachable bytes ends, 0x00 when nothing fails: a retired page is looked at
before an uncorrectable word (DESIGN CHOICE, notes/assumptions/56.md). -/
def readCode (s : State) (p off len : Nat) : Byte := ((readFailure s p off len).map (·.1)).getD 0

/-- Read bytes: the code, the bytes, and the state with the fault records the read wrote. -/
def transferRead (s : State) (p off len : Nat) (tag : Word) : Byte × List Byte × State :=
  let c := readCode s p off len
  (c, loadBytes s p off len, if c = 4 then badWordFaults s p off len tag else s)

/-- A write of `len` bytes from `off` into a weights region ends the verification of its model (R442). -/
def PTrust.unverify (t : PTrust) (s : State) (p off len : Nat) : PTrust :=
  let hit := ((s.regions p).filter fun e =>
    decide (e.use = 1 ∧ off < e.start + e.length ∧ e.start < off + len)).map (·.model)
  { t with verified := t.verified.filter fun m => !hit.contains m }

/-- Store bytes of the range of `p` with no check but that an uncorrectable word which they do not cover
whole keeps its bytes and its mark (R318), a covered one is healed, and a channel in Doubt keeps its bytes and
marks (Table 15-4). A write into a weights region ends the verification of its model (R442). -/
def storeRaw (s : State) (p off : Nat) (bs : List Byte) : State :=
  let k := memKey p off
  let n := bs.length
  let held := fun a => (s.badWords.contains (a / 32) && !coversWord k n (a / 32)) || suspectAt s p (off + (a - k))
  let s := { s with
    mem := memPuts held s.mem k bs
    badWords := s.badWords.filter fun w => !coversWord k n w || suspectAt s p (off + (32 * w - k)) }
  if off < benchBase then
    s.modPTrust p fun t => (tagPages (t.withKey s.draws) (pagesOf off n)).unverify s p off n
  else s

/-- How a write of reachable bytes fails, with the offset of the first byte that fails (R318, R449). -/
def writeFailure (s : State) (p off len : Nat) (covers : Nat → Bool) : Option (Byte × Nat) :=
  match (pagesOf off len).find? fun g => retiredPage s p (g * 65536) && !covers g with
  | some g => some (5, Nat.max off (g * 65536))
  | none =>
    let part := (badIn s (memKey p off) len).find? fun w => !coversWord (memKey p off) len w
    (lowest (part.map (wordStart p off)) (suspectIn s p off len)).map fun a => (4, a)

/-- The code with which a write of reachable bytes ends (R318, R449). -/
def writeCode (s : State) (p off len : Nat) (covers : Nat → Bool) : Byte :=
  ((writeFailure s p off len covers).map (·.1)).getD 0

/-- Write bytes: the code, and the state; 0x05 writes nothing, 0x04 all but the bad words. -/
def transferWrite (s : State) (p off : Nat) (bs : List Byte) (covers : Nat → Bool) (tag : Word) :
    Byte × State :=
  let c := writeCode s p off bs.length covers
  if c = 5 then (5, s)
  else
    let s' := storeRaw s p off bs
    (c, if c = 4 then badWordFaults s' p off bs.length tag else s')

/-! ### Rings (R90 to R92) -/

/-- Entries handed over and not yet taken of a ring of 2^size entries would exceed it (R90). -/
def ringOverfull (tail head : BitVec 32) (size : Nat) : Bool := decide (2 ^ size < dist32 tail head)

/-- The entry of `bytes` bytes that the head of a ring names. -/
def ringOff (base size bytes : Nat) (head : BitVec 32) : Nat := base + head.toNat % 2 ^ size * bytes

/-- Read a ring entry: its bytes, or the code of an entry that cannot be read (R92), and the state with
the fault record of an uncorrectable word. -/
def ringRead (s : State) (p base size bytes : Nat) (head : BitVec 32) : Byte × List Byte × State :=
  let off := ringOff base size bytes head
  if inRange s p onSled false off bytes then transferRead s p off bytes 0 else (0x0D, [], s)

end Sys2Proof.Machine
end

