-- ==== Sys2Proof/Machine/XtOps.lean ====
section
/-! DEFINITION. The Xanin transport's shared operations: packets, sessions, sending, and the map checks
(10 R329 and R330, 11 R349 to R361, 12 R410 and R411). -/

namespace Sys2Proof.Machine

/-! ### Packets -/

/-- One bit of the reflected Castagnoli polynomial (R330). -/
def crcBit (c : BitVec 32) : BitVec 32 :=
  if c.getLsbD 0 then (c >>> 1) ^^^ 0x82F63B78#32 else c >>> 1

/-- One byte of the CRC. -/
def crcByte (c : BitVec 32) (b : Byte) : BitVec 32 :=
  crcBit (crcBit (crcBit (crcBit (crcBit (crcBit (crcBit (crcBit (c ^^^ b.setWidth 32))))))))

/-- CRC-32C of bytes (R330). -/
def crc32c (bs : List Byte) : BitVec 32 := (bs.foldl crcByte 0xFFFF_FFFF#32) ^^^ 0xFFFF_FFFF#32

/-- Replace the bytes from `off` on. -/
def patch (bs : List Byte) (off : Nat) (new : List Byte) : List Byte :=
  bs.take off ++ new ++ bs.drop (off + new.length)

/-- CHECK of a packet: the fields that change on the way are taken as zero (R330). -/
def packetCheck (bs : List Byte) : BitVec 32 :=
  crc32c (patch (patch (patch bs 4 [0, 0]) 7 [0]) 12 [0, 0, 0, 0])

/-- The packet's length in units of 64 bytes. -/
def packetUnits (payload : Nat) : Nat := 1 + (payload + 63) / 64

/-- The bytes of a packet this module originates (Tables 10-3, 11-1, R330, R332, R351). -/
def packetBytes (s : State) (p : TxPacket) : List Byte :=
  let units := packetUnits p.payload.length
  let epoch := (s.bank s.fab.current).epoch
  let link := leBytes 2 p.dest ++ leBytes 2 s.fab.device.toNat ++ leBytes 1 (2 * p.cls)
    ++ leBytes 1 s.fab.hopLimit ++ leBytes 1 units ++ leBytes 1 (2 * bit p.pinned) ++ leBytes 2 epoch
    ++ leBytes 2 p.flow ++ leBytes 4 0
  let xt := leBytes 1 p.op ++ leBytes 1 (bit p.ceEcho) ++ [p.status] ++ leBytes 1 p.srcPart
    ++ leBytes 1 p.destPart ++ [0] ++ leBytes 2 p.mapEpoch ++ leBytes 4 p.psn.toNat
    ++ leBytes 4 p.session.toNat
  let bs := padTo (64 * units) (padTo 64 (link ++ xt ++ p.fields) ++ p.payload)
  patch bs 12 (leBytes 4 (packetCheck bs).toNat)

/-- The bytes of a class-0 packet (Tables 10-3, 12-8, R404): RELAY data follows the first unit. -/
def class0Bytes (s : State) (dest : Nat) (pinned : Bool) (kind count : Nat) (data : List Byte) : List Byte :=
  let units := packetUnits data.length
  let link := leBytes 2 dest ++ leBytes 2 s.fab.device.toNat ++ leBytes 1 0 ++ leBytes 1 s.fab.hopLimit
    ++ leBytes 1 units ++ leBytes 1 (2 * bit pinned) ++ leBytes 2 (s.bank s.fab.current).epoch
    ++ leBytes 2 0 ++ leBytes 4 0
  let body := leBytes 1 kind ++ [0] ++ leBytes 2 data.length ++ leBytes 4 count
  let bs := padTo (64 * units) (padTo 64 (link ++ body) ++ data)
  patch bs 12 (leBytes 4 (packetCheck bs).toNat)

/-- Originate a class-0 packet, unless FAB_DEVICE is unassigned (R342, R404). -/
def originate0 (s : State) (dest : Nat) (pinned : Bool) (kind count : Nat) (data : List Byte) : State :=
  if s.fab.device = 0xFFFF then s
  else s.modFab fun f => { f with ownTx := f.ownTx ++ [class0Bytes s dest pinned kind count data] }

/-- Hand a packet to the module's own entry of the router (R343); with FAB_DEVICE unassigned the module
originates none (R342). -/
def originate (s : State) (p : TxPacket) : State :=
  if s.fab.device = 0xFFFF then s
  else s.modFab fun f => { f with ownTx := f.ownTx ++ [packetBytes s p] }

/-! ### Maps -/

/-- A map names a device with a partition. -/
def mapNames (m : CompMap) (device part : Nat) : Bool :=
  m.entries.any fun e => decide (e.device = device ∧ e.partition = part)

/-- The live maps of a composition. -/
def Comp.live (c : Comp) : List CompMap :=
  c.current.toList ++ c.previous.toList ++ c.next

/-- The live map of epoch `e` that names this device with partition `p` (R411). -/
def liveMapFor (s : State) (p e : Nat) : Option CompMap :=
  ((s.mgmt.comps.flatMap fun kv => kv.2.live).find? fun m =>
    decide (m.epoch = e) && mapNames m s.fab.device.toNat p)

/-- The map whose epoch partition `p` stamps: CURRENT, or PREVIOUS while it drains (R410). -/
def ownMap (s : State) (p : Nat) : Option CompMap :=
  let inMap := fun m => mapNames m (mapDevice s) p
  match (s.mgmt.comps.filterMap fun kv => kv.2.current).find? inMap with
  | some m => some m
  | none => (s.mgmt.comps.filterMap fun kv => kv.2.previous).find? inMap

/-- The epoch partition `p` stamps on what it sends unasked (R410). -/
def stampEpoch (s : State) (p : Nat) : Nat := ((ownMap s p).map (·.epoch)).getD 0

/-- Steps 2 to 4 of R363 for a packet to partition `p`: state, map epoch, sender. -/
def mapCheck (s : State) (p epoch device srcPart : Nat) : Byte :=
  if s.code p ≠ 5 then (if s.code p = 8 then 0x0E else 0x0D)
  else match liveMapFor s p epoch with
    | none => 6
    | some m => if mapNames m device srcPart then 0 else 0x0D

/-! ### Sessions, sending side (R354, R355, R359, R360) -/

def Peer.sess (p : Peer) (cls : Nat) : Session := if cls = 1 then p.c1 else p.c2
def Peer.setSess (p : Peer) (cls : Nat) (x : Session) : Peer :=
  if cls = 1 then { p with c1 := x } else { p with c2 := x }

/-- Peer contexts in use (R354). -/
def contextsUsed (s : State) : Nat := (s.fab.peers.filter fun kv => kv.2.inUse).length

/-- DEVICE of a send item (Table 11-4). -/
def sendDevice (it : Item) : Nat := itemFld it 2 2

/-- An operation to a device has not ended: a packet waits or is unacknowledged, a request awaits its data, a message
has packets left, or a service request awaits its reply (R354). -/
def peerBusy (s : State) (d : Nat) : Bool :=
  let p := s.peer d
  !(p.c1.unacked.isEmpty && p.c2.unacked.isEmpty && p.c1.waiting.isEmpty && p.c2.waiting.isEmpty && p.awaiting.isEmpty)
    || (List.range 16).any (fun r => (s.roundabout r).sending.any fun m => decide (sendDevice m.item = d))
    || s.parts.any fun kv => kv.2.last.sent.any fun x => decide (x.2.toDevice = d)

/-- The context of a device can be freed (R354). -/
def peerIdle (s : State) (d : Nat) : Bool :=
  let p := s.peer d
  p.inUse && decide (p.lastRx + s.fab.targetTimeout + 1000 < s.now) && !peerBusy s d

/-- Free the context of a device; its sessions end with it, and LOST stays. -/
def freeContext (s : State) (d : Nat) : State := s.setPeer d { lost := (s.peer d).lost }

/-- Have a peer context for a device, if there is one or one can be had: where all are in use, one that can be freed is
freed for it (R354). -/
def withContext (s : State) (d : Nat) : Option State :=
  let take := fun (s : State) => s.setPeer d { s.peer d with inUse := true, lastRx := s.now }
  if (s.peer d).inUse then some s
  else if contextsUsed s < 8192 then some (take s)
  else ((s.fab.peers.map (·.1)).find? (peerIdle s)).map fun e => take (freeContext s e)

/-- An ATOMIC may not be sent: 64 are unanswered towards the device (R359). -/
def atomicsFull (p : Peer) : Bool :=
  decide (64 ≤ (p.awaiting.filter fun u => decide (u.pkt.op = 3)).length)

/-- The session numbers a packet, sends it and keeps it until it is acknowledged (R355, R360). -/
def sendNow (s : State) (d cls : Nat) (u : Unacked) : State :=
  let p := s.peer d
  let x := p.sess cls
  let x := if x.started then x
    else { x with started := true, nextPsn := BitVec.ofNat 32 s.now, session := BitVec.ofNat 32 s.now,
                  window := s.fab.windowInit }
  let u := { u with pkt := { u.pkt with psn := x.nextPsn, session := x.session }, firstAt := s.now,
                    lastAt := s.now, interval := s.fab.rto }
  let x := { x with nextPsn := x.nextPsn + 1, unacked := x.unacked ++ [u] }
  let p := p.setSess cls x
  let p := if u.pkt.op = 1 ∨ u.pkt.op = 3 then { p with awaiting := p.awaiting ++ [u] } else p
  originate (s.setPeer d p) u.pkt

/-- Send waiting packets of a class while the window has room (R359). -/
def sendWaiting (d cls : Nat) : Nat → State → State
  | 0, s => s
  | fuel + 1, s =>
    let p := s.peer d
    let x := p.sess cls
    match x.waiting with
    | [] => s
    | u :: r =>
      if (if x.started then x.window else s.fab.windowInit) ≤ x.unacked.length
          ∨ (u.pkt.op = 3 ∧ atomicsFull p) ∨ p.inUse = false then s
      else sendWaiting d cls fuel (sendNow (s.setPeer d (p.setSess cls { x with waiting := r })) d cls u)

/-- An operation towards device `d` completes with 0x03 at once and sends nothing: the device is LOST
(R381), or FAB_DEVICE is not assigned (R342). -/
def unreachable (s : State) (d : Nat) : Bool := decide (s.fab.device = 0xFFFF) || (s.peer d).lost

/-- Offer a packet to the transport; none when the operation completes with 0x03 at once. -/
def xtSubmit (s : State) (d cls : Nat) (u : Unacked) : Option State :=
  if unreachable s d then none
  else
    let s := (withContext s d).getD s
    let p := s.peer d
    let x := p.sess cls
    let s := s.setPeer d (p.setSess cls { x with waiting := x.waiting ++ [u] })
    some (sendWaiting d cls (x.waiting.length + 1) s)

/-- A packet not yet numbered, with what waits on it. -/
def unsent (pkt : TxPacket) (owner a b c : Nat) : Unacked :=
  { pkt := pkt, firstAt := 0, lastAt := 0, interval := 0, owner := owner, ownerA := a, ownerB := b,
    ownerC := c }

/-- The first request of a remote-line operation to a remote-line address (R349, Table 11-3). -/
def lineRequest (s : State) (p op d : Nat) (addr : Nat) (fields payload : List Byte) : TxPacket :=
  { dest := d, cls := 2, op := op, srcPart := p, destPart := bitsOf addr 48 6, mapEpoch := stampEpoch s p,
    fields := leBytes 8 (bitsOf addr 0 48) ++ fields, payload := payload }

/-! ### Sessions, receiving side (R355 to R358) -/

/-- PSN `a` lies before `b` in their session. -/
def psnBefore (a b : BitVec 32) : Bool := decide (0 < dist32 b a ∧ dist32 b a < 2 ^ 31)

/-- A PSN has been handled (R357). -/
def Session.seen (x : Session) (psn : BitVec 32) : Bool := psnBefore psn x.rxCum || x.handled.contains psn

/-- Raise CUM over the handled PSNs that follow it. -/
def raiseCum : Nat → Session → Session
  | 0, x => x
  | fuel + 1, x =>
    if x.handled.contains x.rxCum then
      raiseCum fuel { x with rxCum := x.rxCum + 1, handled := x.handled.filter (· ≠ x.rxCum) }
    else x

/-- Mark a PSN handled, with its failed bit (R357); bits older than CUM - 1,024 are forgotten. -/
def Session.mark (x : Session) (psn : BitVec 32) (failed : Bool) : Session :=
  let x := { x with
    handled := if x.seen psn then x.handled else psn :: x.handled
    failedPsns := (if failed then [psn] else []) ++ x.failedPsns.filter (· ≠ psn) }
  let x := raiseCum (x.handled.length + 1) x
  { x with failedPsns := x.failedPsns.filter fun q => decide (dist32 x.rxCum q ≤ 1024) || !psnBefore q x.rxCum }

/-- BITMAP of an ACK: bit i tells of PSN CUM + 1 + i (Table 11-3). -/
def Session.ackBitmap (x : Session) : Nat :=
  (List.range 64).foldl (fun n i =>
    n + bit (x.handled.contains (x.rxCum + 1 + BitVec.ofNat 32 i)) * 2 ^ i) 0

/-- Send an ACK of a class to a device, under the map epoch of the request handled last (R358, R410, Table 11-3). -/
def sendAck (s : State) (d cls : Nat) (status : Byte) (errPsn : BitVec 32) : State :=
  let p := s.peer d
  let x := p.sess cls
  let pkt : TxPacket :=
    { dest := d, cls := 3, op := 0x12, status := status, srcPart := x.ackFrom, destPart := x.ackTo,
      mapEpoch := x.ackEpoch, session := x.rxSession, ceEcho := x.ceSeen,
      fields := leBytes 4 x.rxCum.toNat ++ leBytes 4 cls ++ leBytes 8 x.ackBitmap ++ leBytes 4 errPsn.toNat }
  originate (s.setPeer d (p.setSess cls { x with unreported := 0, unreportedAt := none, ceSeen := false })) pkt

/-- A request has been handled: count it, and send the ACK when 16 are unreported, or at once for a
duplicate or a non-zero status (R358). CE of a packet that was handled before is not echoed: the ACK does not newly cover
it. -/
def reportHandled (s : State) (x : XtHdr) (cls : Nat) (status : Byte) (dup : Bool) : State :=
  let p := s.peer x.device
  let y := (p.sess cls).mark x.psn (status != 0)
  let y := { y with unreported := y.unreported + 1, unreportedAt := y.unreportedAt.orElse fun _ => some s.now,
                    ceSeen := y.ceSeen || (x.ce && !dup), ackEpoch := x.mapEpoch, ackFrom := x.destPart,
                    ackTo := x.srcPart }
  let s := s.setPeer x.device (p.setSess cls y)
  if dup ∨ status ≠ 0 ∨ 16 ≤ y.unreported then
    sendAck s x.device cls status (if status = 0 then 0 else x.psn)
  else s

/-- A packet from a device arrives: its context, the quiet period beginning again; none when no context can be had
(R354). -/
def heard (s : State) (d : Nat) : Option State :=
  (withContext s d).map fun s => s.setPeer d { s.peer d with lastRx := s.now }

/-- A packet from a device with no context is discarded and counted (R354). -/
def dropNoPeer (s : State) : State := s.modFab fun f => { f with dropPeer := satAdd 0xFFFF f.dropPeer 1 }

/-- What a class-1 session that ends leaves in Kerbside is discarded with its receive state (R355, R377). -/
def dropParked (s : State) (d : Nat) : State :=
  { s with parts := s.parts.mapVals fun _ y =>
      { y with xt := { y.xt with parked := y.xt.parked.filter fun k => decide (k.x.device ≠ d) } } }

/-- A request arrives from a device: its context and, when SESSION differs, a fresh receive state (R354,
R355); none when no context can be had. -/
def rxContext (s : State) (x : XtHdr) (cls : Nat) : Option State :=
  match heard s x.device with
  | none => none
  | some s =>
    let p := s.peer x.device
    let y := p.sess cls
    if y.rxStarted ∧ y.rxSession = x.session then some s
    else
      let y := { y with rxStarted := true, rxSession := x.session, rxCum := x.session,
                        rxNext := x.session, handled := [],
                        failedPsns := [], unreported := 0, unreportedAt := none, ceSeen := false }
      let p := p.setSess cls y
      let p := if cls = 2 then { p with atomics := [] } else p
      let same := fun r => match r with
        | Req2.read h .. => decide (h.device = x.device)
        | Req2.write h .. => decide (h.device = x.device)
        | Req2.atomic h .. => decide (h.device = x.device)
      let s := s.setPeer x.device p
      some (if cls = 2 then s.modFab fun f => { f with reorder := f.reorder.filter fun r => !same r }
        else dropParked s x.device)

end Sys2Proof.Machine
end

