-- ==== Sys2Proof/Machine/Operands.lean ====
section
/-! DEFINITION. The operand forms: descriptors, ring entries, items and the places an address names. -/

namespace Sys2Proof.Machine

/-! ### Awl descriptors (Tables 03-10, 03-11, 04-8) -/

/-- Decode the 64 bytes of a descriptor (Table 03-10). -/
def descOf (bs : List Byte) : Descriptor :=
  { opcode := fld bs 0 1, transform := fld bs 1 1, flags := fld bs 2 2, doneLane := fld bs 4 2,
    device := fld bs 6 2, src := fld bs 8 8, dst := fld bs 0x10 8, length := fld bs 0x18 4,
    dstLimit := fld bs 0x1C 4, rows := fld bs 0x20 4, srcStride := fld bs 0x24 4,
    dstStride := fld bs 0x28 4, waitCounter := fld bs 0x2C 2, signalCounter := fld bs 0x2E 2,
    waitValue := fld bs 0x30 8 % 2 ^ 63, tag := BitVec.ofNat 64 (fld bs 0x38 8) }

/-- The 64 bytes of a descriptor (Table 03-10). -/
def descBytes (d : Descriptor) : List Byte :=
  leBytes 1 d.opcode ++ leBytes 1 d.transform ++ leBytes 2 d.flags ++ leBytes 2 d.doneLane ++ leBytes 2 d.device
  ++ leBytes 8 d.src ++ leBytes 8 d.dst ++ leBytes 4 d.length ++ leBytes 4 d.dstLimit ++ leBytes 4 d.rows
  ++ leBytes 4 d.srcStride ++ leBytes 4 d.dstStride ++ leBytes 2 d.waitCounter ++ leBytes 2 d.signalCounter
  ++ leBytes 8 d.waitValue ++ leBytes 8 d.tag.toNat

def Descriptor.waits (d : Descriptor) : Bool := d.flags.testBit 0
def Descriptor.signals (d : Descriptor) : Bool := d.flags.testBit 1
def Descriptor.item (d : Descriptor) : Bool := d.flags.testBit 2
def Descriptor.ordered (d : Descriptor) : Bool := d.flags.testBit 3
def Descriptor.remoteSrc (d : Descriptor) : Bool := d.flags.testBit 4
def Descriptor.remoteDst (d : Descriptor) : Bool := d.flags.testBit 5
def Descriptor.head (d : Descriptor) : Nat := bitsOf d.flags 6 2

/-- TACK fields (Table 04-8). -/
def Descriptor.rowBytes (d : Descriptor) : Nat := d.length
def Descriptor.tackRows (d : Descriptor) : Nat := d.dstLimit
def Descriptor.indexAt (d : Descriptor) : Nat := d.dst
def Descriptor.windowBase (d : Descriptor) : Nat := d.rows + d.srcStride * 2 ^ 32
def Descriptor.windowBytes (d : Descriptor) : Nat := d.dstStride * 65536

/-- The transform that converts: FILL and TACK have none. -/
def Descriptor.form (d : Descriptor) : Nat := if d.opcode = 1 then d.transform else 0

/-- Nothing to move: LENGTH 0 or ROWS 0 (R97, R142). -/
def Descriptor.empty (d : Descriptor) : Bool :=
  if d.opcode = 3 then decide (d.rowBytes = 0 ∨ d.tackRows = 0) else decide (d.length = 0 ∨ d.rows = 0)

/-- Output rows: transform 0x07 writes its whole matrix as one contiguous span (R314). -/
def Descriptor.outRows (d : Descriptor) : Nat := if d.form = 7 then 1 else d.rows

/-- Bytes of one output row (R94). -/
def Descriptor.outLen (d : Descriptor) : Nat :=
  if d.opcode = 2 then d.length
  else if d.form = 7 then d.length * d.rows
  else Machine.outLen d.form d.head d.length

/-- The destination span (R96). -/
def Descriptor.dstSpan (d : Descriptor) : Nat :=
  if d.empty then 0
  else if d.form = 7 then d.outLen else (d.rows - 1) * d.dstStride + d.outLen

/-- Where output row `r` and source row `r` start. -/
def Descriptor.dstRow (d : Descriptor) (r : Nat) : Nat := d.dst + r * d.dstStride
def Descriptor.srcRow (d : Descriptor) (r : Nat) : Nat :=
  if d.opcode = 3 then d.src + r * d.rowBytes else d.src + r * d.srcStride

/-- The pieces of `len` bytes from address `a`, at most `max` bytes each, none crossing a multiple of
`max`: offset and length of each (R100). -/
def pieces (max a len : Nat) : List (Nat × Nat) :=
  if len = 0 then []
  else (List.range ((a + len - 1) / max + 1 - a / max)).map fun i =>
    let lo := Nat.max a ((a / max + i) * max)
    let hi := min (a + len) ((a / max + i + 1) * max)
    (lo - a, hi - lo)

/-! ### Places (R295 to R298) -/

/-- What holds the byte an address names. -/
inductive Place where
  /-- HBM, DDR5 or a bench of this module, at an offset of the partition's range. -/
  | own
  /-- A remote line: device and remote-line address. -/
  | remote (device addr : Nat)
  /-- An NVMe region: drive, namespace and the byte offset in it. -/
  | nvme (drive nsid byte : Nat)
  /-- A neighbour or NVMe region with no mapping. -/
  | unmapped
  deriving DecidableEq, Repr

/-- Entry `i` of a map of NB or NV registers that is VALID with this START (R297, R298). -/
def mapEntryAt (locals : KMap Word) (n start : Nat) : Option Nat :=
  (List.range n).find? fun i =>
    let v := (locals.at i 0).toNat
    v.testBit 63 && decide (bitsOf v 16 32 * 65536 = start)

/-- The place of offset `off` of the range of `p`. -/
def placeOf (s : State) (p off : Nat) : Place :=
  match regionAt s p off with
  | none => .own
  | some e =>
    let m := (s.part p).mem
    if e.tier = 3 then
      match mapEntryAt m.nbLocal 16 e.start with
      | none => .unmapped
      | some i =>
        let l := (m.nbLender.at i 0).toNat
        .remote (bitsOf l 0 16)
          (bitsOf l 16 6 * 2 ^ 48 + (bitsOf (m.nbOffset.at i 0).toNat 16 32 * 65536 + (off - e.start)))
    else if e.tier = 4 then
      match mapEntryAt m.nvLocal 8 e.start with
      | none => .unmapped
      | some i =>
        let d := (m.nvDrive.at i 0).toNat
        .nvme (bitsOf d 0 3) (bitsOf d 32 32) ((m.nvLba.at i 0).toNat * 4096 + (off - e.start))
    else .own

def Place.isNvme : Place → Bool
  | .nvme .. => true
  | _ => false
def Place.isRemote : Place → Bool
  | .remote .. => true
  | _ => false

/-- The offsets within bytes from `addr` at which a placement region starts or ends. -/
def regionCuts (s : State) (p addr len : Nat) : List Nat :=
  ((s.regions p).flatMap fun e => [e.start, e.start + e.length]).filterMap fun a =>
    if addr < a ∧ a < addr + len then some (a - addr) else none

/-- Cut the span that holds an offset in two there: spans are offset and length. -/
def cutAt (l : List (Nat × Nat)) (o : Nat) : List (Nat × Nat) :=
  l.flatMap fun x => if x.1 < o ∧ o < x.1 + x.2 then [(x.1, o - x.1), (o, x.1 + x.2 - o)] else [x]

/-- The runs of bytes from `addr` each of which lies in one place. -/
def runsOf (s : State) (p : Nat) (remote : Bool) (addr len : Nat) : List (Nat × Nat) :=
  if len = 0 then [] else if remote then [(0, len)] else (regionCuts s p addr len).foldl cutAt [(0, len)]

/-- Where a descriptor reads or writes at an address: the REMOTE flag makes it a remote-line address. -/
def sideOf (s : State) (p : Nat) (remote : Bool) (device addr : Nat) : Place :=
  if remote then .remote device addr else placeOf s p addr

/-! ### Attention commands and migration entries (Tables 07-1, 09-4) -/

/-- Decode the 32 bytes of a migration entry (Table 09-4). -/
def migOf (bs : List Byte) : MigEntry :=
  { op := fld bs 0 1, tier := fld bs 1 1, flags := fld bs 2 2, pages := fld bs 4 4, start := fld bs 8 8,
    waitCounter := fld bs 0x10 2, signalCounter := fld bs 0x12 2, waitValue := fld bs 0x18 8 % 2 ^ 63 }

/-! ### Items (Tables 03-4, 03-14, 11-6) -/

/-- The Awl completion item (Table 03-14). -/
def awlItem (n : Nat) (j : AwlJob) : Item :=
  itemOf (leBytes 1 3 ++ [j.status] ++ leBytes 2 n ++ leBytes 4 j.index.toNat ++ leBytes 8 j.desc.tag.toNat
    ++ leBytes 8 j.doneBytes ++ leBytes 8 j.detail)

/-- The token item (Table 03-4). -/
def tokenItem (status : Byte) (final noToken : Bool) (tag : BitVec 48) (position token : Nat) : Item :=
  itemOf (leBytes 1 2 ++ [status] ++ leBytes 1 (bit final + 2 * bit noToken) ++ [0] ++ leBytes 6 tag.toNat
    ++ leBytes 2 0 ++ leBytes 4 position ++ leBytes 4 token)

/-- The receive or send notice item (Table 11-6). -/
def noticeItem (status : Byte) (sendDone : Bool) (peerPart endpoint device peerEp length cookie : Nat)
    (immediate : Word) : Item :=
  itemOf (leBytes 1 4 ++ [status] ++ leBytes 1 (bit sendDone) ++ leBytes 1 peerPart ++ leBytes 2 endpoint
    ++ leBytes 2 device ++ leBytes 2 peerEp ++ leBytes 2 0 ++ leBytes 4 length ++ leBytes 4 cookie
    ++ leBytes 4 0 ++ leBytes 8 immediate.toNat)

end Sys2Proof.Machine
end

