-- ==== Sys2Proof/Machine/AttnMath.lean ====
section
/-! DEFINITION. The arithmetic of attention: chunks, scores, the partial of a head, merging, final
outputs, and the partial record (07 R229, R236 to R242, R556). -/

namespace Sys2Proof.Machine

/-- The partial of one query head (Table 07-6); OUT of an EMPTY partial holds whatever it holds. -/
structure Partial where
  max : BitVec 32
  sum : BitVec 32
  keys : Nat
  isEmpty : Bool
  isNan : Bool
  out : List (BitVec 32)
  deriving DecidableEq, Repr

/-- The FP32 NaN of R214 and minus infinity. -/
def nan32 : BitVec 32 := 0x7FC0_0000
def negInf32 : BitVec 32 := 0xFF80_0000

/-- An EMPTY partial of `d` elements: MAX minus infinity, SUM and KEYS 0; its OUT words are a free value of
the bytes of its query head, so that equal inputs give equal partials (R226). -/
def emptyPartial (d : Nat) (query : List Byte) : Partial :=
  { max := negInf32, sum := 0, keys := 0, isEmpty := true, isNan := false
    out := (List.range d).map fun i =>
      BitVec.ofNat 32 (leNat ((List.range 4).map fun k => Config.emptyOut query (4 * i + k))) }

/-- A NAN partial (R240). -/
def nanPartial (d keys : Nat) : Partial :=
  { max := nan32, sum := nan32, keys := keys, isEmpty := false, isNan := true, out := List.replicate d nan32 }

/-- FP32 difference. -/
def sub32 (a b : BitVec 32) : Num :=
  roundFp32 ((fp32Val a).add (match fp32Val b with
    | .nan => .nan
    | .inf s => .inf !s
    | .val s m e => .val (!s) m e))

/-- One rounding of a x b + c. -/
def fma32 (a b : BitVec 32) (c : Num) : BitVec 32 := fp32Of (((fp32Val a).mul (fp32Val b)).add c)

/-- The larger of two FP32 values. -/
def max32 (a b : BitVec 32) : BitVec 32 :=
  if (fp32Val a).isNan then (if Config.maxNanIsNan then nan32 else b)
  else if (fp32Val b).isNan then (if Config.maxNanIsNan then nan32 else a)
  else if (fp32Val a).lt (fp32Val b) then b
  else if (fp32Val b).lt (fp32Val a) then a
  else if Config.maxTakesFirst a b then a else b

/-- One level of a pairwise tree: 0 with 1, 2 with 3, each sum rounded to FP32 (R237, R238). -/
def pairUp : List Num → List Num
  | a :: b :: r => roundFp32 (a.add b) :: pairUp r
  | l => l

/-- A pairwise tree of 2^n leaves; a short list pads with zeros. -/
def treeLevels : Nat → List Num → Num
  | 0, l => l.headD .zero
  | n + 1, l => treeLevels n (pairUp l)

def treeSum (n : Nat) (l : List Num) : Num := treeLevels n (l ++ List.replicate (2 ^ n - l.length) .zero)

/-- SCALE, with 0 for log2(e) / sqrt D rounded to FP32 (Table 07-1). -/
def scaleOf (scale : BitVec 32) (head : Nat) : BitVec 32 :=
  if scale ≠ 0 then scale
  else match head with
    | 0 => 0x3E38_AA3B
    | 1 => 0x3E02_93EE
    | _ => 0x3DB8_AA3B

/-- Formats and shape of the keys and values that a computation reads. -/
structure KvShape where
  compact : Bool
  heads : Nat
  head : Nat
  deriving DecidableEq, Repr

def KvShape.dim (k : KvShape) : Nat := headDim k.head
/-- Bytes of the key part of a unit (R211, R121). -/
def KvShape.keyLen (k : KvShape) : Nat :=
  if k.compact then 33 * k.heads * (k.dim / 64) else k.heads * k.dim
/-- The unit size U (R211, R229). -/
def KvShape.unit (k : KvShape) : Nat :=
  k.keyLen + (if k.compact then lv6RowLen (k.heads * k.dim / 32) else k.heads * k.dim)

/-- The key bytes of KV head `h` in a unit. -/
def KvShape.keyOf (k : KvShape) (u : List Byte) (h : Nat) : List Byte :=
  let n := if k.compact then 33 * (k.dim / 64) else k.dim
  slice u (n * h) n

/-- The value elements of KV head `h` in a unit. -/
def KvShape.valueOf (k : KvShape) (u : List Byte) (h : Nat) : List Num :=
  let v := u.drop k.keyLen
  if k.compact then ((lv6RowValues (k.heads * k.dim / 32) v).drop (k.dim * h)).take k.dim
  else (slice v (k.dim * h) k.dim).map fun b => e4m3Val b.toNat

/-- The raw score of a BF16 query head against a key head (R237, R217). -/
def rawScore (k : KvShape) (q : List Num) (rot : Option (List (Int × List Int))) (key : List Byte) : BitVec 32 :=
  if k.compact then lk4Score k.dim rot key
  else fp32Of (treeSum (6 + k.head) (List.zipWith (fun a b => a.mul (e4m3Val b.toNat)) q key))

/-- The weight of a position (R238). -/
def weight (x mNew : BitVec 32) : Num := bf16Val (bf16Of (fp32Val (exp2Fp (sub32 x mNew))))

/-- Take one group into the state of a head (R238); `none` is a masked position. A masked position's
value is not met. A NaN score or value marks the head NAN (R240) and goes where the arithmetic takes it. -/
def groupStep (d : Nat) (st : Partial) (xs : List (Option (BitVec 32 × List Num))) : Partial :=
  let met := xs.filterMap id
  match met with
  | [] => st
  | (x0, _) :: r =>
    let gm := r.foldl (fun m x => max32 m x.1) x0
    let mNew := if st.isEmpty then gm else max32 st.max gm
    let a := if st.isEmpty then 0 else exp2Fp (sub32 st.max mNew)
    let w := xs.map fun
      | none => (Num.zero, [])
      | some x => (weight x.1 mNew, x.2)
    let gs := treeSum 6 (w.map (·.1))
    let go := fun i => treeSum 6 (w.map fun x => x.1.mul (x.2.getD i .zero))
    { max := mNew, sum := fma32 a st.sum gs, keys := st.keys + met.length, isEmpty := false
      isNan := st.isNan || met.any fun x => (fp32Val x.1).isNan || x.2.any Num.isNan
      out := (List.range d).map fun i =>
        if (fp32Val a).isZero then fp32Of (go i) else fma32 a (st.out.getD i 0) (go i) }

/-- Merge two partials of one query head (R240). -/
def mergePartial (d : Nat) (a b : Partial) : Partial :=
  if b.isEmpty then a
  else if a.isEmpty then b
  else if a.isNan ∨ b.isNan then nanPartial d (a.keys + b.keys)
  else
    let m := max32 a.max b.max
    let aA := exp2Fp (sub32 a.max m)
    let aB := exp2Fp (sub32 b.max m)
    let scaled := fun v => roundFp32 ((fp32Val aB).mul (fp32Val v))
    let fma := fun v w => fp32Of (((fp32Val aA).mul (fp32Val v)).add (scaled w))
    { max := m, sum := fma a.sum b.sum, keys := a.keys + b.keys, isEmpty := false, isNan := false
      out := (List.range d).map fun i => fma (a.out.getD i 0) (b.out.getD i 0) }

/-- What one query head meets: its elements, and where keys and values stand. -/
structure HeadJob where
  shape : KvShape
  scale : BitVec 32
  /-- KV head. -/
  kv : Nat
  query : List Num
  /-- Positions above this one are masked (CAUSAL). -/
  last : Option Nat
  /-- The unit of a position. -/
  unit : Nat → List Byte

/-- The score and values of one position, none where it is masked (R237). -/
def HeadJob.meet (j : HeadJob) (rot : Option (List (Int × List Int))) (pos : Nat) :
    Option (BitVec 32 × List Num) :=
  if (match j.last with | some l => decide (l < pos) | none => false) then none
  else
    let u := j.unit pos
    let s := rawScore j.shape j.query rot (j.shape.keyOf u j.kv)
    some (fp32Of ((fp32Val s).mul (fp32Val (scaleOf j.scale j.shape.head))), j.shape.valueOf u j.kv)

/-- The partial of one chunk: `len` positions from `pos` (R236, R238). -/
def HeadJob.chunk (j : HeadJob) (e : Partial) (pos len : Nat) : Partial :=
  let rot := if j.shape.compact then quantQuery j.shape.dim j.query else none
  (List.range ((len + 63) / 64)).foldl (fun st g =>
    groupStep j.shape.dim st ((upFrom (pos + 64 * g) (min 64 (len - 64 * g))).map (j.meet rot))) e

/-- The chunks of a range of positions: first position and length of each (R236). -/
def chunksOf (start end_ : Nat) : List (Nat × Nat) :=
  (pieces 1024 start (end_ - start)).map fun x => (start + x.1, x.2)

/-- The left fold of a range's chunks onto a first partial (R241); `e` is EMPTY. -/
def HeadJob.fold (j : HeadJob) (first e : Partial) (start end_ : Nat) : Partial :=
  (chunksOf start end_).foldl (fun a c => mergePartial j.shape.dim a (j.chunk e c.1 c.2)) first

/-- The BF16 output of a head (R242). -/
def finalHead (d : Nat) (p : Partial) : List Byte :=
  if p.isEmpty then List.replicate (2 * d) 0
  else if p.isNan then (List.range d).flatMap fun _ => leBytes 2 0x7FC0
  else
    let r := fp32Val (rcpFp (fp32Val p.sum))
    (List.range d).flatMap fun i => leBytes 2 (bf16Of ((fp32Val (p.out.getD i 0)).mul r))

/-! ### The partial record (R239) -/

/-- Bytes of a head entry and of a record. -/
def entryLen (d : Nat) : Nat := 16 + 4 * d
def recordLen (d heads : Nat) : Nat := 64 + heads * entryLen d

/-- A head entry (Table 07-6). -/
def entryBytes (p : Partial) : List Byte :=
  leBytes 4 p.max.toNat ++ leBytes 4 p.sum.toNat ++ leBytes 4 p.keys
    ++ leBytes 4 (bit p.isEmpty + 2 * bit p.isNan) ++ p.out.flatMap fun x => leBytes 4 x.toNat

/-- Read a head entry. -/
def entryOf (d : Nat) (bs : List Byte) : Partial :=
  { max := BitVec.ofNat 32 (fld bs 0 4), sum := BitVec.ofNat 32 (fld bs 4 4), keys := fld bs 8 4
    isEmpty := (fld bs 12 4).testBit 0, isNan := (fld bs 12 4).testBit 1
    out := (List.range d).map fun i => BitVec.ofNat 32 (fld bs (16 + 4 * i) 4) }

/-- Head entry `j` of the record that starts at byte `at_`. -/
def recordEntry (bs : List Byte) (at_ d j : Nat) : Partial :=
  entryOf d (slice bs (at_ + 64 + j * entryLen d) (entryLen d))

/-- A whole record (Tables 07-5, 07-6). -/
def partialRecord (index kvHeads group head start end_ chunk : Nat) (striped : Bool) (ps : List Partial) :
    List Byte :=
  leBytes 2 index ++ leBytes 1 kvHeads ++ leBytes 1 group ++ leBytes 1 head
    ++ leBytes 1 (bit (ps.all (·.isEmpty)) + 2 * bit (ps.any (·.isNan)) + 4 * bit striped) ++ leBytes 2 0
    ++ leBytes 4 start ++ leBytes 4 end_ ++ leBytes 4 chunk ++ List.replicate 44 0
    ++ ps.flatMap entryBytes

/-- CHUNK of a folded record. -/
def foldedChunk : Nat := 0xFFFF_FFFF

end Sys2Proof.Machine
end

