-- ==== Sys2Proof/Machine/LastOps.lean ====
section
/-! DEFINITION. Service messages, the Last directory, footprints, and the shared acts of the Last service
(04 R116 to R133, 05 R144 to R160, R185; 09 R310 to R313). -/

namespace Sys2Proof.Machine

/-! ### Holders and handles -/

def allOnes64 : Word := 0xFFFF_FFFF_FFFF_FFFF

/-- A holder value (Table 05-2). -/
def holderValue (device part : Nat) : Word := BitVec.ofNat 64 (device % 65536 + part * 65536)

/-- Fields of a Last handle (Table 04-4). -/
def handleDevice (h : Word) : Nat := bitsOf h.toNat 48 16
def handlePart (h : Word) : Nat := bitsOf h.toNat 42 6
def handleReuse (h : Word) : Nat := bitsOf h.toNat 24 16
def handleSlot (h : Word) : Nat := bitsOf h.toNat 0 24

/-- Make a handle. -/
def mkHandle (device part reuse slot : Nat) : Word :=
  BitVec.ofNat 64 (device * 2 ^ 48 + part * 2 ^ 42 + reuse * 2 ^ 24 + slot)

/-- An allocation handle (R117). -/
def isAllocation (h : Word) : Bool :=
  decide (handleSlot h = 0xFF_FFFF ∧ handleReuse h = 0xFFFF ∧ bitsOf h.toNat 40 2 = 0)

/-- Role codes (Table 02-5). -/
def State.role (s : State) (p : Nat) : Nat := ((s.piece p).map (·.role)).getD 255
def isCache (s : State) (p : Nat) : Bool := decide (s.role p = 2)

/-! ### Messages (R145 to R149) -/

/-- The reply to a request: OP, MSG_ID, TAG, HANDLE and the epoch of the request (R147, R410). -/
def replyHdr (s : State) (p : Nat) (h : SvcHdr) (status : Byte) : SvcHdr :=
  { h with status := status, reply := true, discard := false, partner := false
           handoffSeq := if isCache s p then 0 else h.handoffSeq
           fromDevice := s.fab.device.toNat, fromPartition := p, handle2 := allOnes64
           posA := 0, posB := 0, value := 0 }

/-- The same request of the same sender (R148). -/
def sameRequest (a b : SvcHdr) : Bool :=
  decide (a.fromDevice = b.fromDevice ∧ a.fromPartition = b.fromPartition ∧ a.msgId = b.msgId)

/-- The 64 bytes of a service header (Table 05-1). -/
def svcHdrBytes (h : SvcHdr) : List Byte :=
  [h.op, h.status] ++ leBytes 1 (bit h.reply + 2 * bit h.discard + 4 * bit h.partner) ++ [0]
    ++ leBytes 2 h.handoffSeq ++ leBytes 6 h.tag.toNat ++ leBytes 2 h.fromDevice ++ leBytes 1 h.fromPartition ++ [0]
    ++ leBytes 8 h.handle.toNat ++ leBytes 8 h.handle2.toNat ++ leBytes 4 h.posA ++ leBytes 4 h.posB
    ++ leBytes 8 h.value.toNat ++ leBytes 8 h.msgId ++ leBytes 2 h.epoch ++ leBytes 6 0

/-- A service header from its bytes. -/
def svcHdrOf (b : List Byte) : SvcHdr :=
  let f := fld b 2 1
  { op := BitVec.ofNat 8 (fld b 0 1), status := BitVec.ofNat 8 (fld b 1 1), reply := f.testBit 0
    discard := f.testBit 1, partner := f.testBit 2, handoffSeq := fld b 4 2, tag := BitVec.ofNat 48 (fld b 6 6)
    fromDevice := fld b 0xC 2, fromPartition := fld b 0xE 1 % 64, handle := BitVec.ofNat 64 (fld b 0x10 8)
    handle2 := BitVec.ofNat 64 (fld b 0x18 8), posA := fld b 0x20 4, posB := fld b 0x24 4
    value := BitVec.ofNat 64 (fld b 0x28 8), msgId := fld b 0x30 8, epoch := fld b 0x38 2 }

/-- A packet of a service message: class 1, to endpoint 0, under the epoch of its header (R144, R410). -/
def svcPacket (p d q : Nat) (h : SvcHdr) (number : BitVec 32) (body : List Byte) (off : Nat) : TxPacket :=
  { dest := d, cls := 1, op := 8, srcPart := p, destPart := q, mapEpoch := h.epoch
    fields := leBytes 4 number.toNat ++ leBytes 4 off ++ leBytes 4 body.length ++ leBytes 12 0
    payload := slice body off 4096 }

/-- A service message goes out to partition `q` of device `d`: it is noted on the boundary as decoded, and the
transport gets its packets (R144, R145). The failure of a packet of a request that `waits` ends that request. -/
def svcPost (s : State) (p d q : Nat) (h : SvcHdr) (payload : List Byte) (waits : Bool) : State :=
  if unreachable s d then s
  else
    let s := s.emit (.service d q h payload)
    let body := svcHdrBytes h ++ payload
    let number := s.fab.msgNumbers.at d 0
    let s := s.modFab fun f => { f with msgNumbers := f.msgNumbers.put d (number + 1) }
    (List.range ((body.length + 4095) / 4096)).foldl (fun s i =>
      (xtSubmit s d 1 (unsent (svcPacket p d q h number body (4096 * i)) (if waits then 4 else 0) p h.msgId 0)).getD s) s

/-- Send the one reply to a request and keep it for 100,000 us (R147, R148). -/
def svcReply (s : State) (p : Nat) (h r : SvcHdr) (payload : List Byte) : State :=
  let s := s.modPLast p fun l => { l with
    received := l.received.filter fun x => !sameRequest x h
    answers := (l.answers.filter fun a => decide (s.now ≤ a.at_ + 100000) && !sameRequest a.h h)
      ++ [{ h := { r with fromDevice := h.fromDevice, fromPartition := h.fromPartition }, payload := payload,
            at_ := s.now }] }
  svcPost s p h.fromDevice h.fromPartition r payload false

/-- Answer with a code and nothing else. -/
def svcCode (s : State) (p : Nat) (h : SvcHdr) (c : Byte) : State := svcReply s p h (replyHdr s p h c) []

/-- OP is one of Table 05-2. -/
def opDefined (op : Byte) : Bool := decide (1 ≤ op.toNat ∧ op.toNat ≤ 8)

/-- A request arrives at partition `p`: a repeated one is answered again or discarded (R148); one whose
OP is not defined, or not served by the role, is answered 0x0B (R146). The operation served is `op`'s. A module without
a device number is delivered none (R342). -/
def svcReceive (s : State) (p : Nat) (h : SvcHdr) (op : Byte) (serves : Bool) (f : State → State) : State :=
  if s.fab.device = 0xFFFF ∨ s.code p ≠ 5 ∨ h.reply ∨ (h.op ≠ op ∧ opDefined h.op) then s
  else
    let l := (s.part p).last
    match l.answers.find? fun a => sameRequest a.h h && decide (s.now ≤ a.at_ + 100000) with
    | some a => svcPost s p h.fromDevice h.fromPartition
        { a.h with fromDevice := s.fab.device.toNat, fromPartition := p } a.payload false
    | none =>
      if l.received.any (sameRequest h) then s
      else
        let s := s.modPLast p fun l => { l with received := l.received ++ [h] }
        if serves ∧ h.op = op then f s else svcCode s p h 0x0B

/-- A request header of this partition. -/
def requestHdr (s : State) (p : Nat) (op : Byte) (tag : BitVec 48) (handle : Word) : SvcHdr :=
  { op := op, status := 0, reply := false, discard := false, partner := false, handoffSeq := 0, tag := tag
    fromDevice := s.fab.device.toNat, fromPartition := p, handle := handle, handle2 := allOnes64
    posA := 0, posB := 0, value := 0, msgId := 0, epoch := stampEpoch s p }

/-- Send a request with the next MSG_ID, and remember it until its reply or HO_TIMEOUT (R149). -/
def svcSend (s : State) (p toDevice toPart : Nat) (h : SvcHdr) (payload : List Byte) : Nat × State :=
  let id := s.mgmt.nextMsgId + 1
  let h := { h with msgId := id }
  let s := s.modMgmt fun m => { m with nextMsgId := id }
  let s := s.modPLast p fun l => { l with
    sent := l.sent.put id { h := h, toDevice := toDevice, toPart := toPart, sentAt := s.now, payload := payload } }
  (id, if unreachable s toDevice then s else svcPost s p toDevice toPart h payload true)

/-! ### Shapes, classes, the directory (R119 to R127) -/

/-- The Last classes piece. -/
def State.lastClasses (s : State) : Option LastClasses := s.pattern.bind (·.lastClasses)

/-- Lasts are kept in the compact form. -/
def compactLasts (s : State) : Bool := decide ((s.lastClasses.map (·.keyFormat)).getD 0 = 1)

/-- L_max (R132's heading; R133). -/
def lMax (s : State) : Nat :=
  match s.lastClasses with
  | none => 262144
  | some c => c.capacities.foldl max 0

/-- CAPACITY of a class. -/
def capOf (s : State) (c : Nat) : Nat := ((s.lastClasses.map (·.capacities)).getD []).getD c 0

/-- The smallest class whose capacity is at least `n`. -/
def classFor (s : State) (n : Nat) : Option Nat :=
  ((s.lastClasses.map (·.capacities)).getD []).findIdx? fun c => decide (n ≤ c)

/-- The shape a Last's entry records, as bytes per token per layer U (R121). -/
def unitOf (s : State) (kvHeads head : Nat) : Nat :=
  { compact := compactLasts s, heads := kvHeads, head := head : KvShape }.unit

/-- A footprint (R122). -/
def footprint (s : State) (cls layers kvHeads head : Nat) : Nat :=
  (capOf s cls * layers * unitOf s kvHeads head + 65535) / 65536 * 65536

def DirEntry.size (s : State) (e : DirEntry) : Nat := footprint s e.cls e.layers e.kvHeads e.head
def DirEntry.unit (s : State) (e : DirEntry) : Nat := unitOf s e.kvHeads e.head

/-- The USE 0x03 regions of a partition in a tier, lowest START first. -/
def lastRegions (s : State) (p tier : Nat) : List (Nat × Nat) :=
  let r := ((s.regions p).filter fun e => decide (e.tier = tier ∧ e.use = 3)).map fun e => (e.start, e.length)
  sortOn (·.1) r

/-- The slot count and the offset of the directory; none where there is no directory (R123, R124). -/
def directory (s : State) (p : Nat) : Option (Nat × Nat) :=
  match lastRegions s p 1, s.lastClasses with
  | (start, _) :: _, some _ =>
    let total := (((s.regions p).filter fun e => decide (e.use = 3)).map (·.length)).foldl (· + ·) 0
    some (min 16777215 (total / max 65536 (footprint s 0 1 1 0)), start)
  | _, _ => none

/-- A directory entry. -/
def dirAt (s : State) (p slot : Nat) : DirEntry := (s.part p).last.dir.at slot {}

/-- The 64 bytes of a directory entry (Table 04-6). -/
def dirBytes (e : DirEntry) : List Byte :=
  leBytes 1 e.state ++ leBytes 1 e.cls ++ leBytes 1 e.tier ++ leBytes 1 (bit e.isMirror) ++ leBytes 2 e.reuse
    ++ leBytes 2 e.waiters ++ leBytes 8 e.base ++ leBytes 4 e.length ++ leBytes 4 e.readers
    ++ leBytes 6 e.holderTag.toNat ++ leBytes 2 e.holderDevice ++ leBytes 8 e.partner.toNat
    ++ leBytes 8 e.idleSince ++ leBytes 1 e.holderPartition ++ leBytes 1 e.layers ++ leBytes 1 e.kvHeads
    ++ leBytes 1 e.head ++ leBytes 1 e.model ++ leBytes 11 0

/-- Write a directory entry: the service's copy, and the bytes that software reads (R125). -/
def setDir (s : State) (p slot : Nat) (e : DirEntry) : State :=
  let s := s.modPLast p fun l => { l with dir := l.dir.put slot e }
  match directory s p with
  | none => s
  | some (_, base) => storeRaw s p (base + 64 * slot) (dirBytes e)

def modDir (s : State) (p slot : Nat) (f : DirEntry → DirEntry) : State := setDir s p slot (f (dirAt s p slot))

/-- A partition that stands in for a lost member begins with every slot in STATE 5 (R186). -/
def standInDir (s : State) (p : Nat) : State :=
  match directory s p with
  | none => s
  | some (n, _) => (List.range n).foldl (fun s k => setDir s p k { state := 5, idleSince := s.now }) s

/-- Spans of a partition's range that Lasts, growth targets and old footprints occupy. -/
def usedSpans (s : State) (p : Nat) : List (Nat × Nat) :=
  let l := (s.part p).last
  let lasts := (l.dir.filter fun kv => decide (kv.2.state ≠ 0 ∧ kv.2.state ≠ 5)).map fun kv => (kv.2.base, kv.2.size s)
  let jobs := l.jobs.map fun kv => (kv.2.newBase, kv.2.size)
  let olds := l.olds.map fun o => (o.base, o.size)
  let dir := match directory s p with
    | none => []
    | some (n, base) => [(base, (64 * n + 65535) / 65536 * 65536)]
  sortOn (·.1) (lasts ++ jobs ++ olds ++ dir)

/-- The lowest offset from `lo` where `size` bytes fit below `hi` between used spans in rising order. -/
def gapIn (size hi : Nat) : List (Nat × Nat) → Nat → Option Nat
  | [], lo => if lo + size ≤ hi then some lo else none
  | (b, n) :: r, lo =>
    if b + n ≤ lo then gapIn size hi r lo
    else if lo + size ≤ b then (if lo + size ≤ hi then some lo else none)
    else gapIn size hi r (max lo (b + n))

/-- The lowest-addressed run of `size` bytes in the USE 0x03 regions of a tier (R126). -/
def findRun (s : State) (p tier size : Nat) : Option Nat :=
  let used := usedSpans s p
  (lastRegions s p tier).findSome? fun r => gapIn size (r.1 + r.2) used r.1

/-- The pair partner of a partition that keeps factor 2: device and partition (R150, R413). -/
def partnerOf (s : State) (p : Nat) : Option (Nat × Nat) :=
  match s.piece p, ownMap s p with
  | some pc, some m =>
    if pc.role = 2 ∧ pc.mirror = 2 then
      match m.entries.find? fun e => decide (e.device = s.fab.device.toNat ∧ e.partition = p) with
      | none => none
      | some e => (m.entries[e.partner]?).map fun q => (q.device, q.partition)
    else none
  | _, _ => none

/-- The partition allocates even slots of its pair (R151). -/
def evenMember (s : State) (p : Nat) (q : Nat × Nat) : Bool :=
  decide (s.fab.device.toNat < q.1 ∨ (s.fab.device.toNat = q.1 ∧ p < q.2))

/-- The lowest free slot of the partition's own parity below its slot count (R154 step 1). -/
def freeSlot (s : State) (p count : Nat) : Option Nat :=
  let par := match partnerOf s p with
    | none => none
    | some q => some (if evenMember s p q then 0 else 1)
  let l := (s.part p).last
  let ok := fun n => decide ((dirAt s p n).state = 0 ∧ n < count)
    && (match par with | none => true | some k => decide (n % 2 = k))
  -- Unlisted slots are free: one more slot than twice the entries listed is enough to look at.
  (List.range (2 * l.dir.length + 2)).find? ok

/-- Slot `n` is one of those that the other member allocates: its Last here is a mirror (R151). -/
def mirrorHere (s : State) (p n : Nat) : Bool :=
  match partnerOf s p with
  | none => false
  | some q => decide (n % 2 ≠ if evenMember s p q then 0 else 1)

/-- The handle of slot `n` here. -/
def ownHandle (s : State) (p n : Nat) : Word := mkHandle s.fab.device.toNat p (dirAt s p n).reuse n

/-- The handle of the other copy at factor 2, all ones else (R151). -/
def mirrorHandle (s : State) (p n reuse : Nat) : Word :=
  match partnerOf s p with
  | none => allOnes64
  | some q => mkHandle q.1 q.2 reuse n

/-! ### Copies and room (R129, R130, R310, R311, R313) -/

/-- Free bytes stand for contents that another unit holds and no operand brings. -/
def freeBytes (n len : Nat) : List Byte := (List.range len).map (Config.freeByte n)

/-- The pages that a write of `len` bytes from `off` covers whole (R449). -/
def coversWhole (off len g : Nat) : Bool := decide (off ≤ g * 65536 ∧ (g + 1) * 65536 ≤ off + len)

/-- Copy `len` bytes of one layer plane of a Last within HBM and DDR5; the code of a read or of a write that fails,
and whether an uncorrectable word of the source is why. -/
def copyPlane (s : State) (p src dst len : Nat) : Byte × Bool × State :=
  let c := readCode s p src len
  if c ≠ 0 then (c, decide (badIn s (memKey p src) len ≠ []), if c = 4 then badWordFaults s p src len 0 else s)
  else
    let w := transferWrite s p dst (loadBytes s p src len) (coversWhole dst len) 0
    (w.1, false, w.2)

/-- Copy the first LENGTH positions of every plane of slot `n` to a new footprint (Table 04-7, R310). -/
def copyLast (s : State) (p n newBase newCls : Nat) : Byte × Bool × State :=
  let e := dirAt s p n
  let u := e.unit s
  if e.length = 0 then (0, false, s)
  else (List.range e.layers).foldl (fun r l =>
    if r.1 ≠ 0 then r
    else copyPlane r.2.2 p (e.base + l * capOf s e.cls * u) (newBase + l * capOf s newCls * u) (e.length * u))
    (0, false, s)

/-- The spans, from BASE, that a move with one side on NVMe copies: a plane's bytes rounded out to 4,096
(R310). -/
def moveSpans (s : State) (e : DirEntry) : List (Nat × Nat) :=
  let u := e.unit s
  (List.range e.layers).map fun l =>
    let off := l * capOf s e.cls * u
    let lo := off / 4096 * 4096
    (lo, (off + e.length * u + 4095) / 4096 * 4096 - lo)

/-- The next free NVMe command number. -/
def nextCmd (s : State) : Nat := (s.nvCmds.map (·.id)).foldl max 0 + 1

/-- The I/O queue pair of a partition on a drive holds 256 commands (Table 09-3). -/
def nvQueueFull (s : State) (p drive : Nat) : Bool :=
  decide (256 ≤ (s.nvCmds.filter fun c => decide (c.part = p ∧ c.drive = drive)).length)

/-! ### Bytes on the drives (R301, R443, R444, R449) -/

/-- The key pair of a generation of partition `p`, by the number that made it. -/
def dataKey (p : Nat) (k : Nat × Nat) : List Byte := (List.range 64).map (Config.dataKey p k.1 k.2)

/-- The tweak of a word: its number in the partition range, then the partition (R443; the order of the two is a DESIGN
CHOICE, notes/assumptions/62.md). -/
def wordTweak (p off : Nat) : List Byte := leBytes 8 (off / 32) ++ leBytes 8 p

/-- Encrypt or decrypt whole words from offset `off` of the range of `p`, each under the key that `keyOf` gives its page
(R443). -/
def cryptWords (enc : Bool) (p : Nat) (keyOf : Nat → Nat × Nat) (off : Nat) (bs : List Byte) : List Byte :=
  (List.range ((bs.length + 31) / 32)).flatMap fun i =>
    xts enc (dataKey p (keyOf ((off + 32 * i) / 65536))) (wordTweak p (off + 32 * i)) (slice bs (32 * i) 32)

/-- The generation of a page and the number that made its key. -/
def PTrust.pageKey (t : PTrust) (page : Nat) : Nat × Nat := (t.tags.at page 0, t.keys.at (t.tags.at page 0) 0)

/-- A Write that fills the rest of one of these pages is outstanding (R444). -/
def nvFilling (s : State) (p off len : Nat) : Bool :=
  s.nvCmds.any fun c => decide (c.part = p) && (pagesOf off len).any c.fill.contains

/-- The bytes that a Write of `len` bytes from `off` carries: those of a blank page whole (R444). -/
def nvSpan4 (s : State) (p off len : Nat) : Nat × Nat :=
  let top := off + len - 1
  (if blankPage s p off then off / 65536 * 65536 else off,
    if blankPage s p top then (top / 65536 + 1) * 65536 else off + len)

/-- Send an NVMe command with the next number; `byte` is where its bytes begin on the namespace. A Write fills the rest of
each blank page with zeros, tags its pages and carries encrypted bytes (R301, R442 to R444, R449). -/
def nvSend (s : State) (c : NvCmd) (byte : Nat) (bytes : List Byte) : State :=
  let c := { c with id := nextCmd s, sentAt := s.now }
  let put := fun (s : State) (c : NvCmd) => { s with nvCmds := s.nvCmds ++ [c] }
  let t := (s.part c.part).trust
  let n := bytes.length
  if c.flush then (put s c).emit (.nvme c.drive c.id 0 c.nsid 0 [] 0)
  else if c.write then
    let pages := pagesOf c.off n
    let x := nvSpan4 s c.part c.off n
    let t' := (tagPages (t.withKey s.draws) pages).unverify s c.part c.off n
    let bs := List.replicate (c.off - x.1) 0 ++ bytes ++ List.replicate (x.2 - (c.off + n)) 0
    let fill := pages.filter fun g => blankPage s c.part (g * 65536) && !coversWhole c.off n g
    (put (s.setTrust c.part t') { c with fill := fill }).emit
      (.nvme c.drive c.id 1 c.nsid ((byte - (c.off - x.1)) / 4096) (cryptWords true c.part t'.pageKey x.1 bs) (bs.length / 4096))
  else
    (put s { c with keys := (pagesOf c.off c.len).map fun g => (g, t.pageKey g) }).emit
      (.nvme c.drive c.id 2 c.nsid (byte / 4096) [] (c.len / 4096))

/-- The bytes that a Read has brought, decrypted under the keys of its issue (R443, R447). -/
def NvCmd.plain (c : NvCmd) (bs : List Byte) : List Byte :=
  cryptWords false c.part (fun g => ((c.keys.find? fun k => decide (k.1 = g)).map (·.2)).getD (0, 0)) c.off
    (padTo c.len (bs.take c.len))

/-- A copy of slot `n` begins. -/
def putJob (s : State) (p n : Nat) (j : LastJob) : State :=
  s.modPLast p fun l => { l with jobs := l.jobs.put n j }

/-- Remove the job of a slot; NVMe commands of it that are outstanding end without it. -/
def endJob (s : State) (p n : Nat) : State :=
  let off := fun (c : NvCmd) => if c.part = p ∧ c.last = some n then { c with last := some (2 ^ 24) } else c
  let s := { s with nvCmds := s.nvCmds.map off }
  s.modPLast p fun l => { l with jobs := l.jobs.del n }

/-- Free a slot: REUSE rises modulo 65,535 (Table 04-6). -/
def freeLast (s : State) (p n : Nat) : State :=
  let e := dirAt s p n
  setDir (endJob s p n) p n { reuse := (e.reuse + 1) % 65535 }

/-- An NVMe command of a move of slot `n` fails with a code: no further one is sent (R104, R302). -/
def LastJob.fails (j : LastJob) (c : Byte) : LastJob :=
  { j with nv := [], cached := [], nvCode := if j.nvCode = 0 then c else j.nvCode }

/-- Send one NVMe command of the move of slot `n` between `own` and offset `off` of an NVMe region (R301): Write carries
the bytes. -/
def lastCmd (s : State) (p n drive nsid byte own off len : Nat) (write flush : Bool) : State :=
  nvSend s { id := 0, drive := drive, awl := 0, index := 0, req := 0, write := write, part := p, addr := own, len := len,
             sentAt := 0, nsid := nsid, flush := flush, last := some n, off := off } byte
    (if write then loadBytes s p own len else [])

/-- The code with which the next command of a move fails before it is sent: a source here that cannot be read, or a retired
page of the region on the drive, which a Write may cover whole (R318, R449). -/
def lastCmdCode (s : State) (p own far len : Nat) (write : Bool) : Byte :=
  if meetsRetired s p far len (fun g => write && coversWhole far len g) then 5
  else if write then readCode s p own len else 0

/-- Send the NVMe commands of the move of slot `n`, in order, while the queue of the drive has room (R301, R310). -/
def lastSend (p n : Nat) : Nat → State → State
  | 0, s => s
  | fuel + 1, s =>
    match (s.part p).last.jobs.find n with
    | none => s
    | some j =>
      let e := dirAt s p n
      let write := decide (j.newTier = 4)
      match j.nv with
      | [] => s
      | (off, len) :: r =>
        let own := (if write then e.base else j.newBase) + off
        let far := (if write then j.newBase else e.base) + off
        match placeOf s p far with
        | .nvme drive nsid byte =>
          let c := lastCmdCode s p own far len write
          if !write ∧ blankPage s p far then
            let w := transferWrite s p own (List.replicate len 0) (coversWhole own len) 0
            if w.1 = 0 then lastSend p n fuel (putJob w.2 p n { j with nv := r }) else putJob w.2 p n (j.fails w.1)
          else if (s.drive drive).state ≠ 1 then putJob s p n (j.fails 3)
          else if nvQueueFull s p drive || nvFilling s p far len then s
          else if c ≠ 0 then
            putJob (if c = 4 then badWordFaults s p own len 0 else s) p n
              { j.fails c with sourceBad := decide (badIn s (memKey p own) len ≠ []) }
          else
            let cached := if write ∧ (s.drive drive).cache ∧ (drive, nsid) ∉ j.cached then j.cached ++ [(drive, nsid)]
              else j.cached
            lastSend p n fuel (lastCmd (putJob s p n { j with nv := r, cached := cached }) p n drive nsid byte own far len write false)
        | _ => putJob s p n (j.fails 0x0B)

/-- NVMe commands of the move of slot `n` are outstanding. -/
def lastOpen (s : State) (p n : Nat) : Bool := s.nvCmds.any fun c => decide (c.part = p ∧ c.last = some n)

/-- The move of slot `n` goes on: its commands, and after the last write the Flush of each drive whose volatile write
cache holds bytes of it (Table 09-3). -/
def lastNext (s : State) (p n : Nat) : State :=
  let s := lastSend p n ((((s.part p).last.jobs.find n).map (·.nv.length)).getD 0) s
  match (s.part p).last.jobs.find n with
  | none => s
  | some j =>
    if j.nv = [] ∧ j.cached ≠ [] ∧ !lastOpen s p n then
      j.cached.foldl (fun s x => lastCmd s p n x.1 x.2 0 0 0 0 false true) (putJob s p n { j with cached := [] })
    else s

/-- A move of slot `n` with one side on NVMe begins: one Write for each 128 KiB of each span, or one Read for each page of
it, as a blank page is not read (R301, R310, R444). -/
def lastNvme (s : State) (p n nv : Nat) : State :=
  let e := dirAt s p n
  let most := if ((s.part p).last.jobs.find n).any fun j => decide (j.newTier = 4) then 131072 else 65536
  let spans := (moveSpans s e).flatMap fun x => (pieces most (nv + x.1) x.2).map fun y => (x.1 + y.1, y.2)
  lastNext (s.modPLast p fun l => { l with jobs := l.jobs.mapVals fun k j => if k = n then { j with nv := spans } else j }) p n

/-- The move of slot `n` still waits for its NVMe commands. -/
def lastWaits (s : State) (p n : Nat) (j : LastJob) : Bool := !j.nv.isEmpty || !j.cached.isEmpty || lastOpen s p n

/-- The slot that a request which waits for room is about. -/
def RoomFor.slot : RoomFor → Option Nat
  | .alloc => none
  | .promote n => some n
  | .grow n .. => some n
  | .partner n => some n
  | .recover n .. => some n

/-- An OPEN is under way on slot `n`, or a copy of it, or a request for it that waits for room. -/
def slotBusy (s : State) (p n : Nat) : Bool :=
  let l := (s.part p).last
  l.jobs.has n || l.partnerOpens.any (fun kv => decide (kv.2.1 = n)) || l.rebuilding.contains n
    || l.room.any fun w => decide (w.what.slot = some n)

/-- The idle Lasts of a tier but slot `but`, oldest IDLE_SINCE first. -/
def idleIn (s : State) (p tier : Nat) (but : Option Nat) : List Nat :=
  (sortOn (fun kv => kv.2.idleSince)
    ((s.part p).last.dir.filter fun kv => decide (kv.2.state = 2 ∧ kv.2.tier = tier ∧ but ≠ some kv.1)
      && !slotBusy s p kv.1)).map (·.1)

/-- The tier below: DDR5 below HBM, NVMe below DDR5. -/
def tierBelow (tier : Nat) : Nat := if tier = 1 then 2 else 4

/-- The oldest idle Last of a tier that the tier below has a run for, and that run. -/
def idleToMove (s : State) (p tier : Nat) (but : Option Nat) : Option (Nat × Nat) :=
  (idleIn s p tier but).findSome? fun n =>
    (findRun s p (tierBelow tier) ((dirAt s p n).size s)).map fun b => (n, b)

/-- What looking for a run gives: a run, an idle Last to move down first, or neither. -/
inductive Room where
  | found (tier base : Nat)
  | move (tier slot base : Nat)
  | none
  deriving DecidableEq, Repr

/-- Which tiers a request may take, and whether it may move idle DDR5 Lasts to NVMe (R311). -/
structure RoomAsk where
  hbm : Bool
  ddr : Bool
  ddrMoves : Bool
  deriving DecidableEq, Repr

/-- Look for a run of `size` bytes in HBM, or else in DDR5; where none fits, an idle Last moves down first,
while the request may still cause moves (R126, R311). -/
def seekRoom (s : State) (p : Nat) (a : RoomAsk) (size : Nat) (left : Nat × Nat) (but : Option Nat) : Room :=
  match (if a.hbm then findRun s p 1 size else none), (if a.hbm ∧ 0 < left.1 then idleToMove s p 1 but else none) with
  | some b, _ => .found 1 b
  | none, some x => .move 1 x.1 x.2
  | none, none =>
    match (if a.ddr then findRun s p 2 size else none),
        (if a.ddr ∧ a.ddrMoves ∧ 0 < left.2 then idleToMove s p 2 but else none) with
    | some b, _ => .found 2 b
    | none, some x => .move 2 x.1 x.2
    | none, none => .none

/-- The moves that a request may cause at first (R311). -/
def roomMoves : Nat × Nat := (16, 16)

/-- An idle Last begins to move down a tier (R310 steps 1 to 3). -/
def startDown (s : State) (p n tier base : Nat) : State :=
  let e := dirAt s p n
  let s := putJob (setDir s p n { e with state := 4 }) p n
    { kind := 3, newBase := base, newCls := e.cls, newTier := tier, size := e.size s }
  if tier = 4 then lastNvme s p n base else s

/-- An idle Last begins to move down for a request, which waits (R311). -/
def waitForRoom (s : State) (p : Nat) (h : SvcHdr) (what : RoomFor) (peer : Nat) (left : Nat × Nat)
    (tier n base : Nat) : State :=
  let left := if tier = 1 then (left.1 - 1, left.2) else (left.1, left.2 - 1)
  (startDown s p n (tierBelow tier) base).modPLast p fun l => { l with
    room := l.room ++ [{ h := h, what := what, moving := n, left := left, peer := peer }] }

/-- The bytes of positions `lo` to `hi - 1` of layer `l` of the other copy of slot `n`: those of the partner
where it is a partition of this module, else free, as no operand brings them (R155, R185). -/
def otherBytes (s : State) (p n l lo hi : Nat) : List Byte × State :=
  match partnerOf s p with
  | none => (freeBytes s.draws ((hi - lo) * (dirAt s p n).unit s), s.draw.2)
  | some q =>
    if q.1 = s.fab.device.toNat then
      let e := dirAt s q.2 n
      let u := e.unit s
      (loadBytes s q.2 (e.base + l * capOf s e.cls * u + lo * u) ((hi - lo) * u), s)
    else (freeBytes s.draws ((hi - lo) * (dirAt s p n).unit s), s.draw.2)

/-- Take layer `l` of positions `lo` to `hi - 1` from the other copy. -/
def takePlane (s : State) (p n l lo hi : Nat) : State :=
  let e := dirAt s p n
  let u := e.unit s
  let r := otherBytes s p n l lo hi
  storeRaw r.2 p (e.base + l * capOf s e.cls * u + lo * u) r.1

/-- Take positions `lo` to `hi - 1` of every plane from the other copy (R155, R185). -/
def takePositions (s : State) (p n lo hi : Nat) : State :=
  (List.range (dirAt s p n).layers).foldl (fun s l => takePlane s p n l lo hi) s

/-- The copy takes the positions that it lacks of the `length` that the other one has (R155). -/
def levelTo (s : State) (p n length : Nat) : State :=
  let e := dirAt s p n
  if e.length < length then modDir (takePositions s p n e.length length) p n fun e => { e with length := length }
  else s

end Sys2Proof.Machine
end

