-- ==== Sys2Proof/Machine/Shake.lean ====
section
/-! DEFINITION. SHAKE256 (FIPS 202), the digest of the manual (02 R23, 08 R264). The state is a list of 25
lanes, lane x + 5y. The constants of iota and the turns of rho come from the standard's own generators. -/

namespace Sys2Proof.Machine

/-- A step of the generator of iota's bits: the 8-bit register of x^8 + x^6 + x^5 + x^4 + 1. -/
def iotaNext (r : Nat) : Nat := if r < 128 then 2 * r else (2 * r) ^^^ 0x171

/-- The constant of a round from the register, and the register after it: bit 2^j - 1 is the register's low
bit after j steps, for j 0 to 6. -/
def iotaWord : (j r : Nat) → Word × Nat
  | 0, r => (0, r)
  | j + 1, r =>
    let rest := iotaWord j (iotaNext r)
    (rest.1 ||| BitVec.ofNat 64 ((r % 2) * 2 ^ (2 ^ (6 - j) - 1)), rest.2)

/-- The walk of rho from lane (x, y), the `t`-th of it: which lane is turned by how much. -/
def rhoWalk : (left x y t : Nat) → List (Nat × Nat)
  | 0, _, _, _ => []
  | n + 1, x, y, t => (x + 5 * y, (t + 1) * (t + 2) / 2 % 64) :: rhoWalk n y ((2 * x + 3 * y) % 5) (t + 1)

/-- The turn of each lane; lane 0 is not on the walk. -/
def rhoTurn (i : Nat) : Nat := (((rhoWalk 24 1 0 0).find? fun e => e.1 == i).map (·.2)).getD 0

/-- The turns of lanes 0 to 24. -/
def rhoTurns : List Nat := (List.range 25).map rhoTurn

/-- Parity of column x. -/
def column (a : List Word) (x : Nat) : Word :=
  ((List.range 5).map fun y => a.getD (x % 5 + 5 * y) 0).foldl (· ^^^ ·) 0

/-- theta, then rho: every lane meets its neighbour columns' parities and is turned. -/
def thetaRho (a : List Word) : List Word :=
  let parities := (List.range 5).map (column a)
  let mixed := (List.range 5).map fun x =>
    parities.getD ((x + 4) % 5) 0 ^^^ (parities.getD ((x + 1) % 5) 0).rotateLeft 1
  (List.range 25).map fun i => (a.getD i 0 ^^^ mixed.getD (i % 5) 0).rotateLeft (rhoTurns.getD i 0)

/-- pi: lane (x, y) comes from lane (x + 3y, x). -/
def piLanes (a : List Word) : List Word :=
  (List.range 25).map fun i => a.getD ((i % 5 + 3 * (i / 5)) % 5 + 5 * (i % 5)) 0

/-- chi within row y of the lanes. -/
def chiRow (row : List Word) : List Word :=
  (List.range 5).map fun x => row.getD x 0 ^^^ (~~~ row.getD ((x + 1) % 5) 0 &&& row.getD ((x + 2) % 5) 0)

/-- One round with its constant. -/
def shakeRound (a : List Word) (k : Word) : List Word :=
  let p := piLanes (thetaRho a)
  match (List.range 5).flatMap fun y => chiRow ((p.drop (5 * y)).take 5) with
  | w :: rest => (w ^^^ k) :: rest
  | [] => []

/-- `n` rounds from a register of iota. -/
def shakeRounds : (n r : Nat) → List Word → List Word
  | 0, _, a => a
  | n + 1, r, a =>
    let k := iotaWord 7 r
    shakeRounds n k.2 (shakeRound a k.1)

/-- Take in one block of 136 bytes and permute. -/
def absorb (a : List Word) (blk : List Byte) : List Word :=
  shakeRounds 24 1 ((List.range 25).map fun i =>
    a.getD i 0 ^^^ (if i < 17 then BitVec.ofNat 64 (fld blk (8 * i) 8) else 0))

/-- Absorb whole blocks; `n` counts them. -/
def absorbAll : Nat → List Byte → List Word → List Word
  | 0, _, a => a
  | n + 1, bs, a => absorbAll n (bs.drop 136) (absorb a (bs.take 136))

/-- Padding of SHAKE: 0x1F, zeros, and the last bit of the block. -/
def shakePad (bs : List Byte) : List Byte :=
  let n := 136 - bs.length % 136
  if n = 1 then bs ++ [0x9F] else bs ++ [0x1F] ++ List.replicate (n - 2) 0 ++ [0x80]

/-- The first `len` bytes of SHAKE256, `len` at most 136. -/
def shake256 (bs : List Byte) (len : Nat) : List Byte :=
  let p := shakePad bs
  let a := absorbAll (p.length / 136) p (List.replicate 25 0)
  (a.flatMap fun w => leBytes 8 w.toNat).take len

end Sys2Proof.Machine
end

