-- ==== Sys2Proof/Machine/Walks.lean ====
section
/-! DEFINITION. The prefix tables: their keys, their nodes, the walkers' remote-line accesses, and where a node
is inserted (08 R264 to R269). -/

namespace Sys2Proof.Machine

/-! ### Tables and accesses (R265, Table 08-7) -/

/-- A prefix table as its SP_TABLE entry gives it: device, partition, offset of the table, log2 of its
buckets, offset of the partition's Last directory. -/
structure SpTable where
  device : Nat
  part : Nat
  base : Nat
  log2 : Nat
  dirBase : Nat
  deriving DecidableEq, Repr

def spTableAt (s : State) (p i : Nat) : SpTable :=
  let h := (s.part p).hold
  let v := (h.spTable.at i 0).toNat
  { device := bitsOf v 0 16, part := bitsOf v 16 6, log2 := bitsOf v 32 5
    base := bitsOf (h.spBase.at i 0).toNat 8 40 * 256, dirBase := bitsOf (h.spDirectory.at i 0).toNat 6 42 * 64 }

/-- The table of the cache partition that a handle names: the lowest valid entry. -/
def spTableFor (s : State) (p : Nat) (handle : Word) : Option Nat :=
  (List.range 16).find? fun i =>
    let v := ((s.part p).hold.spTable.at i 0).toNat
    v.testBit 63 && decide (bitsOf v 0 16 = handleDevice handle ∧ bitsOf v 16 8 = handlePart handle)

/-- What a walker's access is for, and so who gets its answer: nobody, a bucket of a walk, a bucket read for an
insertion, the claim of a node. -/
inductive WalkFor where
  | none
  | walk (tag : BitVec 48)
  | look (insert : Nat)
  | claim (insert : Nat)
  deriving DecidableEq, Repr

def WalkFor.owner : WalkFor → Nat
  | .none => 0
  | .walk _ => 5
  | .look _ => 6
  | .claim _ => 7

def WalkFor.key : WalkFor → Nat
  | .none => 0
  | .walk tag => tag.toNat
  | .look n => n
  | .claim n => n

/-- Send one remote-line request of a walker; none towards a device that is LOST. -/
def walkerSend (s : State) (p : Nat) (t : SpTable) (op off : Nat) (fields payload : List Byte) (f : WalkFor) :
    Option State :=
  xtSubmit s t.device 2 (unsent (lineRequest s p op t.device (t.part * 2 ^ 48 + off) fields payload) f.owner p f.key 0)

/-- A walker's load. -/
def walkerRead (s : State) (p : Nat) (t : SpTable) (off len : Nat) (f : WalkFor) : Option State :=
  walkerSend s p t 1 off (leBytes 2 len) [] f

/-- The fields of an ATOMIC (Table 11-3): fetch-and-add 0, compare-and-swap 2. -/
def atomicFields (op size value expected : Nat) : List Byte :=
  leBytes 1 op ++ leBytes 1 size ++ leBytes 6 0 ++ leBytes 8 value ++ leBytes 8 expected

/-- A walker's fetch-and-add. -/
def walkerAdd (s : State) (p : Nat) (t : SpTable) (off size : Nat) (v : Nat) : State :=
  (walkerSend s p t 3 off (atomicFields 0 size (v % 2 ^ (8 * size)) 0) [] .none).getD s

/-- A walker's write. -/
def walkerWrite (s : State) (p : Nat) (t : SpTable) (off : Nat) (bs : List Byte) : State :=
  (walkerSend s p t 2 off (leBytes 2 bs.length) bs .none).getD s

/-! ### Keys (R264) -/

/-- H_k from H_(k-1) and the 256 bytes of block k. -/
def blockKey (prev : List Byte) (tenant model : Nat) (tokens : List Byte) : List Byte :=
  shake256 (prev ++ leBytes 1 tenant ++ leBytes 1 model ++ tokens) 16

/-- The key of a Last's head node. -/
def headKey (tenant model : Nat) (handle : Word) : List Byte :=
  shake256 (List.replicate 16 0xFF ++ leBytes 1 tenant ++ leBytes 1 model ++ leBytes 8 handle.toNat) 16

/-- The keys of the next `n` blocks of a prompt, from block `k` on. -/
def blockKeys (s : State) (p : Nat) (r : Record) : Nat → List Byte → Nat → List (List Byte)
  | 0, _, _ => []
  | n + 1, prev, k =>
    let key := blockKey prev (s.tenant p) r.model (loadBytes s p (r.prompt + 256 * k) 256)
    key :: blockKeys s p r n key (k + 1)

/-- The keys of the first `n` blocks of a prompt, in order. -/
def promptKeys (s : State) (p : Nat) (r : Record) (n : Nat) : List (List Byte) :=
  blockKeys s p r n (List.replicate 16 0) 0

/-- Blocks that a walk of an allocation looks up (R266). -/
def jMax (tokens : Nat) : Nat := (tokens - 1) / 64

/-! ### Buckets and nodes (Table 08-1) -/

/-- The bucket of a key, where it lies, and where a node lies (R265). -/
def bucketOf (t : SpTable) (key : List Byte) : Nat := fld key 0 8 % 2 ^ t.log2
def bucketOff (t : SpTable) (b : Nat) : Nat := t.base + 256 + 256 * b
def nodeOff (t : SpTable) (idx : Nat) : Nat := t.base + 256 + 64 * idx

/-- Node `n` of a bucket. -/
def nodeAt (bucket : List Byte) (n : Nat) : List Byte := slice bucket (64 * n) 64

def nodeKey (b : List Byte) : List Byte := slice b 0 16
def nodeKind (b : List Byte) : Nat := fld b 0x10 1
def nodeUsed (b : List Byte) : Nat := fld b 0x28 8

/-- The node that a block node names as its parent; a head node names none. -/
def nodeParent (b : List Byte) : Option Nat :=
  let n := fld b 0x30 4
  if nodeKind b = 2 ∨ n = 0xFFFF_FFFF then none else some n

/-- The lowest node of a bucket with this KIND and key and the request's MODEL and TENANT. -/
def findNode (bucket key : List Byte) (kind model tenant : Nat) : Option Nat :=
  (List.range 4).find? fun n =>
    let b := nodeAt bucket n
    decide (nodeKind b = kind ∧ nodeKey b = key ∧ fld b 0x11 1 = model ∧ fld b 0x12 1 = tenant)

/-- A node of the prefix table. -/
def nodeBytes (key : List Byte) (kind model tenant refs : Nat) (last : Word) (blocks depth : Nat) (used : Word)
    (link : List Byte) : List Byte :=
  key ++ leBytes 1 kind ++ leBytes 1 model ++ leBytes 1 tenant ++ [0] ++ leBytes 4 refs ++ leBytes 8 last.toNat
    ++ leBytes 4 blocks ++ leBytes 4 depth ++ leBytes 8 used.toNat ++ padTo 16 link

/-- A block node with its parent written into LINK. -/
def withParent (b : List Byte) (parent : Option Nat) : List Byte :=
  if nodeKind b = 2 then b else patch b 0x30 (leBytes 4 (parent.getD 0xFFFF_FFFF))

/-- REFS of a node falls (R266, R268). -/
def lowerNode (s : State) (p : Nat) (t : SpTable) (node : Nat) : State :=
  walkerAdd s p t (nodeOff t node + 0x14) 4 (2 ^ 32 - 1)

/-- KIND 3 is written into a node whose copy failed its check (R268). -/
def killNode (s : State) (p : Nat) (t : SpTable) (node : Nat) : State :=
  walkerWrite s p t (nodeOff t node + 0x10) [3]

/-! ### Inserting (R269) -/

/-- A node may be evicted: a block node without references and children, or a head node without references. -/
def evictable (b : List Byte) : Bool :=
  (decide (nodeKind b = 1 ∧ fld b 0x34 4 = 0) || decide (nodeKind b = 2)) && decide (fld b 0x14 4 = 0)

/-- What a bucket does with a node of a key: it holds the key already, or node `n` of it can be claimed, or it
takes no node. -/
inductive NodePlace where
  | kept (n : Nat)
  | claim (n : Nat)
  | dropped
  deriving DecidableEq, Repr

/-- The node of the bucket that takes a key: one with an equal key, else the first free one, else the first of
KIND 3, else the evictable one with the lowest USED. -/
def placeFor (bucket key : List Byte) : NodePlace :=
  let four := List.range 4
  let kind := fun n => nodeKind (nodeAt bucket n)
  match four.find? fun n => decide (nodeKey (nodeAt bucket n) = key ∧ (kind n = 1 ∨ kind n = 2)) with
  | some n => .kept n
  | none =>
    match (four.find? fun n => decide (kind n = 0)).orElse fun _ => four.find? fun n => decide (kind n = 3) with
    | some n => .claim n
    | none =>
      match sortOn (fun n => nodeUsed (nodeAt bucket n)) (four.filter fun n => evictable (nodeAt bucket n)) with
      | n :: _ => .claim n
      | [] => .dropped

/-- The insertion with a number. -/
def insertOf (s : State) (p id : Nat) : Option Insert := (s.part p).hold.inserts.find? fun x => decide (x.id = id)

def modInsert (s : State) (p : Nat) (x : Insert) : State :=
  s.modHold p fun h => { h with inserts := h.inserts.map fun y => if y.id = x.id then x else y }

/-- An insertion is over. -/
def dropInsert (s : State) (p id : Nat) : State :=
  if (s.part p).hold.inserts.any fun x => decide (x.id = id) then
    s.modHold p fun h => { h with inserts := h.inserts.filter fun x => decide (x.id ≠ id) }
  else s

/-- Read the bucket of the node that is next; towards a device that is LOST the insertions end. -/
def insertLook (s : State) (p : Nat) (x : Insert) : State :=
  match x.nodes with
  | [] => dropInsert s p x.id
  | n :: _ =>
    let t := spTableAt s p x.table
    let s := modInsert s p { x with claiming := none }
    (walkerRead s p t (bucketOff t (bucketOf t (nodeKey n.bytes))) 256 (.look x.id)).getD (dropInsert s p x.id)

/-- Go on with the node after the first, whose place is known or which has none. -/
def insertNext (s : State) (p : Nat) (x : Insert) (at_ : Option Nat) : State :=
  insertLook s p { x with nodes := x.nodes.drop 1, parent := at_ }

/-- Begin insertions into table `table`. -/
def insertStart (s : State) (p table : Nat) (nodes : List InsNode) (parent : Option Nat) : State :=
  let id := (s.part p).hold.insertSeq + 1
  let x : Insert := { id := id, table := table, nodes := nodes, parent := parent }
  insertLook (s.modHold p fun h => { h with insertSeq := id, inserts := h.inserts ++ [x] }) p x

/-- The bucket that an insertion looked at has been read. -/
def insertRead (s : State) (p : Nat) (x : Insert) (bucket : List Byte) : State :=
  match x.nodes with
  | [] => dropInsert s p x.id
  | n :: _ =>
    let t := spTableAt s p x.table
    let b := 4 * bucketOf t (nodeKey n.bytes)
    match placeFor bucket (nodeKey n.bytes) with
    | .kept k =>
      let s := if nodeKind n.bytes = 2 then walkerWrite s p t (nodeOff t (b + k) + 0x20) (slice n.bytes 0x20 4) else s
      insertNext s p x (some (b + k))
    | .claim k =>
      if n.update then insertNext s p x none
      else
        let old := nodeAt bucket k
        let c : NodeClaim := { node := b + k, word := fld old 0x10 4, parent := if nodeKind old = 0 then none else nodeParent old }
        let f := atomicFields 2 4 (fld n.bytes 0x10 4) c.word
        let s := modInsert s p { x with claiming := some c }
        (walkerSend s p t 3 (nodeOff t (b + k) + 0x10) f [] (.claim x.id)).getD (dropInsert s p x.id)
    | .dropped =>
      if n.update then insertNext s p x none
      else insertNext (s.modHold p fun h => { h with insertDropped := satAdd 0xFFFF_FFFF h.insertDropped 1 }) p x none

/-- The compare-and-swap of a claim has brought the word that was there: the node is written, its parent has one
child more and the victim's parent one less; a node that another walker took in between is looked for again. -/
def insertClaimed (s : State) (p : Nat) (x : Insert) (old : Nat) : State :=
  match x.nodes, x.claiming with
  | n :: _, some c =>
    let t := spTableAt s p x.table
    if old % 2 ^ 32 ≠ c.word then insertLook s p x
    else
      let children := fun (s : State) (q : Option Nat) (v : Nat) => match q with
        | none => s
        | some k => walkerAdd s p t (nodeOff t k + 0x34) 4 v
      let s := children s c.parent (2 ^ 32 - 1)
      let s := walkerWrite s p t (nodeOff t c.node) (withParent n.bytes x.parent)
      insertNext (children s (if nodeKind n.bytes = 2 then none else x.parent) 1) p x (some c.node)
  | _, _ => s

/-- The bucket read of insertion `id` has been answered; a load that failed ends the insertions (DESIGN CHOICE,
notes/assumptions/57.md). -/
def insertData (s : State) (p id : Nat) (status : Byte) (bucket : List Byte) : State :=
  match insertOf s p id with
  | none => s
  | some x => if status = 0 then insertRead s p x bucket else dropInsert s p id

/-- The compare-and-swap of insertion `id` has been answered. -/
def claimData (s : State) (p id : Nat) (status : Byte) (old : Word) : State :=
  match insertOf s p id with
  | none => s
  | some x => if status = 0 then insertClaimed s p x old.toNat else dropInsert s p id

end Sys2Proof.Machine
end

