-- ==== Sys2Proof/Machine/Holder.lean ====
section
/-! DEFINITION. The holder: request records, token items, finishing a request, cancels, OPENs, COMMITs,
flushes and hand-offs (04 R111 to R137, 05 R158 to R184, 03 R69). The keys and values of a prefill, of a flush and
of a prefix copy travel by MOVE descriptors that the holder's firmware puts into an Awl ring. -/

namespace Sys2Proof.Machine

/-! ### Records (Table 04-1) -/

def allOnes32 : Nat := 0xFFFF_FFFF

/-- The 256 bytes of a record. -/
def recordBytes (r : Record) : List Byte :=
  padTo 0x80 (
    leBytes 1 1 ++ leBytes 1 r.phase ++ leBytes 1 r.model
    ++ leBytes 1 (bit r.fallback + 2 * bit r.cancel + 4 * bit r.onMirror + 8 * bit r.newLast + 16 * bit r.atLimit)
    ++ leBytes 2 r.customer ++ leBytes 6 r.tag.toNat ++ leBytes 2 r.holderDevice ++ leBytes 1 r.holderPartition
    ++ [0] ++ leBytes 8 r.last.toNat ++ leBytes 8 r.mirror.toNat ++ leBytes 4 r.seq ++ leBytes 4 r.length
    ++ leBytes 4 r.tailOrigin ++ leBytes 4 r.tailBase ++ leBytes 4 r.promptTokens ++ leBytes 4 r.prefixTokens
    ++ leBytes 8 r.prompt ++ leBytes 8 r.tail.toNat ++ leBytes 8 r.firstDue ++ leBytes 8 r.nextDue
    ++ leBytes 4 r.nextLimit ++ leBytes 4 r.outputCount ++ leBytes 4 r.lastToken.toNat ++ leBytes 4 r.step
    ++ leBytes 1 r.draftLen ++ leBytes 1 r.rejectRun ++ leBytes 1 r.draftPause ++ [0]
    ++ leBytes 4 r.fallbackCount ++ leBytes 2 r.epoch ++ leBytes 2 r.handoffSeq)
  ++ padTo 64 (r.chainHash.take 16) ++ padTo 64 (r.runtime.take 64)

/-- A record from its bytes. -/
def recordOf (b : List Byte) : Record :=
  let f := fld b 3 1
  { phase := fld b 1 1, model := fld b 2 1, fallback := f.testBit 0, cancel := f.testBit 1
    onMirror := f.testBit 2, newLast := f.testBit 3, atLimit := f.testBit 4, customer := fld b 4 2
    tag := BitVec.ofNat 48 (fld b 6 6), holderDevice := fld b 0xC 2, holderPartition := fld b 0xE 1
    last := BitVec.ofNat 64 (fld b 0x10 8), mirror := BitVec.ofNat 64 (fld b 0x18 8), seq := fld b 0x20 4
    length := fld b 0x24 4, tailOrigin := fld b 0x28 4, tailBase := fld b 0x2C 4, promptTokens := fld b 0x30 4
    prefixTokens := fld b 0x34 4, prompt := fld b 0x38 6, tail := BitVec.ofNat 64 (fld b 0x40 8)
    firstDue := fld b 0x48 8, nextDue := fld b 0x50 8, nextLimit := fld b 0x58 4, outputCount := fld b 0x5C 4
    lastToken := BitVec.ofNat 32 (fld b 0x60 4), step := fld b 0x64 4, draftLen := fld b 0x68 1
    rejectRun := fld b 0x69 1, draftPause := fld b 0x6A 1, fallbackCount := fld b 0x6C 4, epoch := fld b 0x70 2
    handoffSeq := fld b 0x72 2, chainHash := slice b 0x80 16, runtime := slice b 0xC0 64 }

/-! ### Live requests -/

/-- The record of a tag, an ended request's among them: its final item may still wait for the lane (R69). -/
def recOf (s : State) (p : Nat) (tag : BitVec 48) : Option Live :=
  (s.part p).hold.lives.find? fun l => decide (l.req.tag = tag)

/-- The live request of a tag. -/
def liveOf (s : State) (p : Nat) (tag : BitVec 48) : Option Live := (recOf s p tag).filter fun l => !l.ended

/-- The live requests of a partition. -/
def livesOf (s : State) (p : Nat) : List Live := (s.part p).hold.lives.filter fun l => !l.ended

/-- Change the record of a tag. -/
def modLive (s : State) (p : Nat) (tag : BitVec 48) (f : Live → Live) : State :=
  s.modHold p fun h => { h with lives := h.lives.map fun l => if l.req.tag = tag then f l else l }

def modReq (s : State) (p : Nat) (tag : BitVec 48) (f : Record → Record) : State :=
  modLive s p tag fun l => { l with req := f l.req }

/-- Free the record of a tag. -/
def dropLive (s : State) (p : Nat) (tag : BitVec 48) : State :=
  s.modHold p fun h => { h with lives := h.lives.filter fun l => decide (l.req.tag ≠ tag) }

/-- True when LAST was asked for by an allocation handle. -/
def Live.allocated (l : Live) : Bool := isAllocation l.req.last || l.req.newLast

/-- The copies the request writes: their handles, the primary's first (R182). -/
def Live.copies (l : Live) : List Word :=
  (if l.req.onMirror then [] else [l.req.last]) ++ (if l.req.mirror = allOnes64 then [] else [l.req.mirror])

/-- The handle the holder reads. -/
def Live.readHandle (l : Live) : Word := if l.req.onMirror then l.req.mirror else l.req.last

/-- Capacity and BASE of a copy, as far as the holder knows them. -/
def Live.capacityAt (l : Live) (handle : Word) : Nat := if handle = l.req.last then l.capacity else l.mirrorCapacity
def Live.baseAt (l : Live) (handle : Word) : Nat := (if handle = l.req.last then l.base else l.mirrorBase).toNat

/-- Send a service request for a live request to the partition that a handle names. -/
def askCopy (s : State) (p : Nat) (l : Live) (op : Byte) (handle : Word) (posA posB : Nat) (value : Word) : State :=
  let h := { requestHdr s p op l.req.tag handle with
    handoffSeq := l.req.handoffSeq, posA := posA, posB := posB, value := value }
  (svcSend s p (handleDevice handle) (handlePart handle) h []).2

/-! ### Token items (R16, R69, R76) -/

/-- The output lane of a partition: its lowest lane of KIND output. The spec gives no choice among several
(DESIGN CHOICE, notes/assumptions/49.md). -/
def outputLane (s : State) (p : Nat) : Option Nat := (s.lanesOfKind p 2).head?

/-- TAG of a token item. -/
def itemTag (it : Item) : BitVec 48 := BitVec.ofNat 48 (itemFld it 4 6)

/-- An item of a request has been written to the output lane: NEXT_DUE starts again (R263), and a request whose
final item it is has its record freed (R111, R170). -/
def itemEmitted (s : State) (p : Nat) (x : OutItem) : State :=
  let tag := itemTag x.item
  if !x.mine then s
  else if (itemFld x.item 2 1).testBit 0 then dropLive s p tag
  else modReq s p tag fun r => { r with
    nextDue := if r.nextLimit = 0 then 0xFFFF_FFFF_FFFF_FFFF else s.now + r.nextLimit }

/-- The writer that the holder of a partition is to a lane: a Cobbler core (R70). -/
def holderWriter (p : Nat) : LaneWriter := .cobbler (Fin.ofNat 64 p) 0

/-- Write an item to the output lane while it holds fewer than 16, behind every item that waits; else it
waits in the output backlog (R69). -/
def emitItem (s : State) (p : Nat) (x : OutItem) : State :=
  match outputLane s p with
  | some n =>
    if (s.part p).hold.backlog = [] ∧ laneFree s n then itemEmitted (laneGive s n (holderWriter p) x.item) p x
    else s.modHold p fun h => { h with backlog := h.backlog ++ [x] }
  | none => s.modHold p fun h => { h with backlog := h.backlog ++ [x] }

/-- A request has an item in the output backlog. -/
def backlogged (s : State) (p : Nat) (tag : BitVec 48) : Bool :=
  (s.part p).hold.backlog.any fun x => x.mine && decide (itemTag x.item = tag)

/-- The one item that answers a request item not taken in (R262, R77, R115). -/
def refuseItem (s : State) (p : Nat) (tag : BitVec 48) (c : Byte) : State :=
  emitItem s p { item := tokenItem c true true tag 0 0, mine := false }

/-- An item of a live request. -/
def liveItem (s : State) (p : Nat) (it : Item) : State := emitItem s p { item := it, mine := true }

/-! ### Cancels (R178 to R181) -/

/-- Complete a cancel slot: its code, ARMED clear, VECTOR raised (Table 05-12). -/
def cancelDone (s : State) (p slot : Nat) (c : Byte) : State :=
  let x := (s.part p).last.cancels.at slot {}
  let s := s.modPLast p fun l => { l with cancels := l.cancels.put slot { x with armed := false, status := c } }
  if x.armed then raisePart s p x.vector else s

/-- Complete cancel slots and CANCEL requests with one code. -/
def cancelsEnd (s : State) (p : Nat) (slots : List Nat) (msgs : List SvcHdr) (c : Byte) : State :=
  msgs.foldl (fun s h => svcCode s p h c) (slots.foldl (fun s k => cancelDone s p k c) s)

/-- The code of the cancels of a request that has ended: 0x00 where the cancel ended it (R179). -/
def Live.cancelCode (l : Live) : Byte := if l.finalNoToken ∧ l.finalCode = 0 then 0 else 1

/-! ### Ending a request (R174, R179) -/

/-- The request whose descriptor the holder's firmware made. -/
def MoveOwner.tag : MoveOwner → Option (BitVec 48)
  | .program => none
  | .prefill t => some t
  | .flush t => some t
  | .prefixCopy t => some t

/-- The descriptors of the holder for a request that are in no ring yet are given up. -/
def dropMoves (s : State) (p : Nat) (tag : BitVec 48) : State :=
  s.modHold p fun h => { h with moves := h.moves.filter fun m => decide (m.1.tag ≠ some tag) }

/-- A discarded walk lowers REFS of the node it held (R266). -/
def lowerRefs (s : State) (p : Nat) (l : Live) : State :=
  match l.walkTable, l.walkNode with
  | some i, some n => if l.nodeHeld then lowerNode s p (spTableAt s p i) n else s
  | _, _ => s

/-- Emit the final item; the record stays, in PHASE 0x05, until the item is in the lane (R69, R170). A request
ends once (R180). -/
def finalItem (s : State) (p : Nat) (tag : BitVec 48) : State :=
  match liveOf s p tag with
  | none => s
  | some l =>
    let s := cancelsEnd (dropMoves (lowerRefs s p l) p tag) p l.cancelSlots l.cancelMsgs l.cancelCode
    let s := modLive s p tag fun l => { l with
      ended := true, inBatch := false, nodeHeld := false, walking := false, copy := none, cancelSlots := []
      cancelMsgs := [] }
    liveItem s p (tokenItem l.finalCode true l.finalNoToken tag l.req.outputCount
      (if l.finalNoToken then 0 else (l.finalToken.map (·.toNat)).getD 0))

/-- A request that ends gives up its place in a shaping hold (R272). -/
def leaveHold (s : State) (p : Nat) (tag : BitVec 48) : State :=
  match liveOf s p tag with
  | none => s
  | some l =>
    if l.held then { s with tolls := s.tolls.mapVals fun _ t => { t with
      hold := t.hold.filter fun x => decide (x.part ≠ p ∨ x.tag ≠ tag) } }
    else s

/-- A record enters PHASE 0x05: one that had no tail yet takes position fields that R113 allows. -/
def Record.finish (r : Record) : Record :=
  if r.phase = 4 ∨ r.phase = 5 then { r with phase := 5 }
  else { r with phase := 5, seq := r.length, tailOrigin := r.length, tailBase := r.length }

/-- End a request at once with a final item that carries NO_TOKEN and a code. -/
def endNow (s : State) (p : Nat) (tag : BitVec 48) (c : Byte) : State :=
  finalItem (modLive (leaveHold s p tag) p tag fun l => { l with
    req := l.req.finish, finalCode := c, finalNoToken := true }) p tag

/-! ### Writes of the holder (R135, R158, R172) -/

/-- The layers and the Last unit of a model; the module's own Last classes piece gives the form, as the one of the
cache partition's module does at the copy (R152, notes/assumptions/28.md). -/
def lastShape (s : State) (p m : Nat) : Nat × KvShape :=
  match s.model p m with
  | none => (0, { compact := false, heads := 0, head := 0 })
  | some x => (x.layers, { compact := compactLasts s, heads := x.kvHeads, head := x.head })

/-- The descriptors handed over to an Awl that have not completed. -/
def awlDescs (s : State) (p : Nat) (a : Awl) : List Descriptor :=
  (a.jobs ++ a.waiting.toList).map (·.desc) ++ (List.range (dist32 a.tail a.head)).map fun i =>
    descOf (loadBytes s p (ringOff a.base a.size 64 (a.head + BitVec.ofNat 32 i)) 64)

/-- The descriptors of a partition that have not completed, the holder's own among them. -/
def openDescs (s : State) (p : Nat) : List Descriptor :=
  (s.part p).hold.moves.map (·.2)
    ++ (s.blocksOf p).flatMap fun b => (List.range 8).flatMap fun a => awlDescs s p (s.awl (8 * b + a))

/-- A descriptor writes to a copy of a request: the positions from its first byte's to its last byte's, within a
layer plane. -/
def writesTo (s : State) (p : Nat) (l : Live) (handle : Word) (d : Descriptor) : Option (Nat × Nat) :=
  let sh := lastShape s p l.req.model
  let u := sh.2.unit
  let plane := l.capacityAt handle * u
  let base := l.baseAt handle
  if d.remoteDst ∧ (d.opcode = 1 ∨ d.opcode = 2) ∧ d.device = handleDevice handle ∧ base ≤ d.dst
      ∧ d.dst < base + sh.1 * plane then
    let off := (d.dst - base) % plane
    some (off / u, (off + d.dstSpan + u - 1) / u)
  else none

/-- A write of positions `lo` to `hi - 1` of a copy has not completed. -/
def writesOpen (s : State) (p : Nat) (l : Live) (handle : Word) (lo hi : Nat) : Bool :=
  (openDescs s p).any fun d => match writesTo s p l handle d with
    | none => false
    | some x => decide (x.1 < hi ∧ lo < x.2)

/-- The descriptors of an Awl that run, and those of its ring that the holder's firmware put there: they cannot be
taken back (R90). -/
def Awl.bound (a : Awl) : List (MoveOwner × Descriptor) :=
  a.jobs.map (fun j => (j.owner, j.desc)) ++ a.waiting.toList.map (fun j => (j.owner, j.desc)) ++ a.owned.map (·.2)

/-- A write to a copy of a request is in progress (R179). -/
def writing (s : State) (p : Nat) (l : Live) : Bool :=
  (s.blocksOf p).any fun b => (List.range 8).any fun a => (s.awl (8 * b + a)).bound.any fun j =>
    l.copies.any fun c => (writesTo s p l c j.2).isSome

/-- A descriptor of this maker has not completed. -/
def makerOpen (s : State) (p : Nat) (o : MoveOwner) : Bool :=
  ((s.part p).hold.moves.any fun m => decide (m.1 = o))
    || (s.blocksOf p).any fun b => (List.range 8).any fun a => (s.awl (8 * b + a)).bound.any fun j => decide (j.1 = o)

/-- Send RELEASE to every copy. -/
def sendReleases (s : State) (p : Nat) (tag : BitVec 48) (discard : Bool) : State :=
  match liveOf s p tag with
  | none => s
  | some l =>
    let s := modLive s p tag fun l => { l with releaseDue := none, awaits := l.copies }
    l.copies.foldl (fun s c =>
      let h := { requestHdr s p 3 tag c with
        handoffSeq := l.req.handoffSeq, posA := l.req.length, discard := discard }
      (svcSend s p (handleDevice c) (handlePart c) h []).2) s

/-- Release every copy, with DISCARD where nothing was committed; the final item follows the replies
(R174, R179). Writes in progress end first; with no copy left to release the item follows at once. -/
def releaseCopies (s : State) (p : Nat) (tag : BitVec 48) (discard : Bool) : State :=
  match liveOf s p tag with
  | none => s
  | some l =>
    if l.granted = false ∨ l.copies = [] then finalItem s p tag
    else
      let s := modLive (dropMoves s p tag) p tag fun l => { l with
        releasing := true, due := [], flushTo := none, awaits := [], inBatch := false }
      if writing s p l then modLive s p tag fun l => { l with releaseDue := some discard }
      else sendReleases s p tag discard

/-- End a request whose work stops here: its Last is released as it stands. A request that is finishing keeps
the final token that it was about to emit, and its item carries the code (R131, R174; DESIGN CHOICE,
notes/assumptions/28.md). A request that is being released already ends as it was going to (R180). -/
def endWith (s : State) (p : Nat) (tag : BitVec 48) (c : Byte) (discard : Bool) : State :=
  match liveOf s p tag with
  | none => s
  | some l =>
    if l.releasing then s
    else releaseCopies (modLive s p tag fun l => { l with
      req := l.req.finish, handing := decide (l.req.phase = 3), finalCode := c
      finalNoToken := if l.req.phase = 5 then l.finalNoToken else true }) p tag discard

/-- End a request before its COMMIT: a request not yet charged ends at once; one whose OPEN is under way
ends when the OPEN is answered; else its Last is released with DISCARD (R179, R285). -/
def endEarly (s : State) (p : Nat) (tag : BitVec 48) (c : Byte) : State :=
  match liveOf s p tag with
  | none => s
  | some l =>
    if l.releasing then s
    else if !l.charged then endNow s p tag c
    else if !l.granted then
      modLive s p tag fun l => { l with
        req := l.req.finish, finalCode := c, finalNoToken := true, releasing := true }
    else endWith s p tag c true

/-! ### Tails (R135, R165) -/

/-- Tail window W (Table 02-5). -/
def tailWindow (s : State) (p : Nat) : Nat :=
  let w := ((s.piece p).map (·.tail)).getD 0
  if w = 0 then 4096 else w

/-- The FP8 unit P of a model's tail: 2 x H x D bytes. -/
def tailUnit (s : State) (p m : Nat) : Nat :=
  match s.model p m with
  | none => 0
  | some x => 2 * x.kvHeads * headDim x.head

/-- Bytes of a tail of a model: W x LAYERS x P. -/
def tailSize (s : State) (p m : Nat) : Nat := tailWindow s p * (lastShape s p m).1 * tailUnit s p m

/-- The slot of a position: (p - TAIL_ORIGIN) mod W. -/
def tailSlot (s : State) (p : Nat) (r : Record) (pos : Nat) : Nat := (pos - r.tailOrigin) % tailWindow s p

/-- Where the unit of a position lies in layer `l` of a record's tail: layer l starts at l x W x P. -/
def tailOff (s : State) (p : Nat) (r : Record) (l pos : Nat) : Nat :=
  let u := tailUnit s p r.model
  r.tail.toNat + l * tailWindow s p * u + tailSlot s p r pos * u

/-- The runs of positions `lo` to `hi - 1` whose slots follow one another: `hi - lo` is at most W. -/
def tailRuns (s : State) (p : Nat) (r : Record) (lo hi : Nat) : List (Nat × Nat) :=
  let wrap := lo + (tailWindow s p - tailSlot s p r lo)
  if hi ≤ wrap then [(lo, hi)] else [(lo, wrap), (wrap, hi)]

/-- The two MOVEs that write the keys and the values of positions `pos` to `pos + rows - 1` of one layer to a copy:
their FP8 rows, keys before values, lie from `src` on, `stride` bytes apart (R158, R172, Tables 05-3 and 05-7). -/
def rowMoves (s : State) (p : Nat) (l : Live) (handle : Word) (layer pos rows src stride : Nat) : List Descriptor :=
  let sh := (lastShape s p l.req.model).2
  let half := tailUnit s p l.req.model / 2
  let dst := l.baseAt handle + layer * l.capacityAt handle * sh.unit + pos * sh.unit
  let d : Descriptor :=
    { opcode := 1, transform := if sh.compact then 1 else 0, flags := 0x20 + (if sh.compact then 0x40 * sh.head else 0)
      doneLane := 0, device := handleDevice handle, src := src, dst := dst, length := half
      dstLimit := rows * sh.unit, rows := rows, srcStride := stride, dstStride := sh.unit, waitCounter := 0
      signalCounter := 0, waitValue := 0, tag := (l.req.tag.setWidth 64) }
  [d, { d with
    transform := if sh.compact then 2 else 0, flags := 0x20, src := src + half, dst := dst + sh.keyLen
    dstLimit := rows * sh.unit - sh.keyLen }]

/-- The MOVEs of a run of tail positions of one layer to a copy (R172). -/
def flushMoves (s : State) (p : Nat) (l : Live) (handle : Word) (layer : Nat) (run : Nat × Nat) : List Descriptor :=
  rowMoves s p l handle layer run.1 (run.2 - run.1) (tailOff s p l.req layer run.1) (tailUnit s p l.req.model)

/-- The MOVEs of a flush of positions `lo` to `hi - 1` to a copy. -/
def segmentMoves (s : State) (p : Nat) (l : Live) (handle : Word) (lo hi : Nat) : List Descriptor :=
  (List.range (lastShape s p l.req.model).1).flatMap fun layer =>
    (tailRuns s p l.req lo hi).flatMap (flushMoves s p l handle layer)

/-- Bytes from one padded row of a prefill to the next (Table 05-3). -/
def rowStride (s : State) (p m : Nat) : Nat := (tailUnit s p m + 2047) / 2048 * 2048

/-- Where the padded rows of a prefill start: half way into the activation region, the rows of the step's streams one
after another, each layer's over the layer's before (DESIGN CHOICE, notes/assumptions/28.md). -/
def prefillRows (s : State) (p : Nat) : Nat :=
  (((s.regions p).find? fun e => decide (e.use = 4)).map fun e => e.start + e.length / 131072 * 65536).getD 0

/-- The MOVEs of a prefill of `rows` tokens from position `pos` to some copies: two per layer and copy, of padded rows
from row `row` on (R158). -/
def prefillMoves (s : State) (p : Nat) (l : Live) (copies : List Word) (pos rows row : Nat) : List Descriptor :=
  let stride := rowStride s p l.req.model
  if rows = 0 then []
  else (List.range (lastShape s p l.req.model).1).flatMap fun layer => copies.flatMap fun c =>
    rowMoves s p l c layer pos rows (prefillRows s p + row * stride) stride

/-- The holder's firmware has descriptors for a ring. -/
def queueMoves (s : State) (p : Nat) (o : MoveOwner) (ds : List Descriptor) : State :=
  s.modHold p fun h => { h with moves := h.moves ++ ds.map fun d => (o, d) }

/-- Spans of tails in use or reserved, rising. -/
def usedTails (s : State) (p : Nat) : List (Nat × Nat) :=
  let h := (s.part p).hold
  sortOn (·.1) (((h.lives.map (·.req) ++ h.taking.map (·.req)).filter fun r => decide (r.tail ≠ allOnes64)).map fun r =>
    (r.tail.toNat, tailSize s p r.model))

/-- The HBM regions of USE tails. -/
def tailRegions (s : State) (p : Nat) : List (Nat × Nat) :=
  let r := ((s.regions p).filter fun e => decide (e.tier = 1 ∧ e.use = 2)).map fun e => (e.start, e.length)
  sortOn (·.1) r

/-- The lowest free tail of a model. -/
def freeTail (s : State) (p m : Nat) : Option Nat :=
  let n := tailSize s p m
  if n = 0 then none
  else (tailRegions s p).findSome? fun r => gapIn n (r.1 + r.2) (usedTails s p) r.1

/-- How many tails of `size` bytes fit between used spans from `lo` to `hi`. -/
def tailsIn (size hi : Nat) : List (Nat × Nat) → Nat → Nat
  | [], lo => (hi - lo) / size
  | (b, n) :: r, lo =>
    if b + n ≤ lo then tailsIn size hi r lo
    else (min b hi - lo) / size + tailsIn size hi r (max lo (b + n))

/-- The count of free tails of a model. -/
def freeTails (s : State) (p m : Nat) : Nat :=
  let n := tailSize s p m
  if n = 0 then 0
  else ((tailRegions s p).map fun r => tailsIn n (r.1 + r.2) (usedTails s p) r.1).foldl (· + ·) 0

/-! ### COMMIT, GROW and flushes (R159, R172 to R174) -/

/-- A COMMIT of positions is begun for every copy; each is sent once the writes to its copy have completed. -/
def beginCommits (s : State) (p : Nat) (tag : BitVec 48) (lo hi : Nat) : State :=
  modLive s p tag fun l => { l with
    due := l.due ++ l.copies.map fun c => { copy := c, lo := lo, hi := hi }
    commitsPrimary := if l.req.onMirror then l.commitsPrimary else l.commitsPrimary ++ [(lo, hi)]
    commitsMirror := if l.req.mirror = allOnes64 then l.commitsMirror else l.commitsMirror ++ [(lo, hi)] }

/-- The positions of COMMITs begun and not yet answered. -/
def Live.commits (l : Live) : List (Nat × Nat) := l.commitsPrimary ++ l.commitsMirror

/-- The end of the latest flush begun. -/
def Live.flushedTo (l : Live) : Nat := l.commits.foldl (fun m x => max m x.2) l.req.length

/-- COMMITs of how many segments are outstanding. -/
def Live.outstanding (l : Live) : Nat := max l.commitsPrimary.length l.commitsMirror.length

/-- Send the COMMITs whose writes have completed: PHASE 0x01 ends, and SEQ passes the prompt, when a prefill's are
sent to every copy (R159, R170, R172, Table 05-6). -/
def sendDue (s : State) (p : Nat) (tag : BitVec 48) : State :=
  match liveOf s p tag with
  | none => s
  | some l =>
    let go := l.due.filter fun x => !x.failed && !writesOpen s p l x.copy x.lo x.hi
    let s := go.foldl (fun s x => askCopy s p l 2 x.copy x.lo x.hi 0) s
    modLive s p tag fun l =>
      let left := l.due.filter fun x => !go.contains x
      { l with
        due := left
        req := if l.req.phase = 1 ∧ l.due ≠ [] ∧ left = [] then
            { l.req with phase := 2, seq := l.req.length + l.req.promptTokens } else l.req }

/-- The copies whose capacity lies below a position that a flush ends at. -/
def Live.shortOf (l : Live) (hi : Nat) : List Word := l.copies.filter fun c => decide (l.capacityAt c < hi)

/-- Ask the copies that are short to grow before positions up to `hi` are written (R173). -/
def sendGrow (s : State) (p : Nat) (tag : BitVec 48) (hi : Nat) : State :=
  match liveOf s p tag with
  | none => s
  | some l =>
    let s := modLive s p tag fun l => { l with flushTo := some hi, awaits := l.shortOf hi }
    (l.shortOf hi).foldl (fun s c => askCopy s p l 8 c hi 0 0) s

/-- Start the flushes that are due: full segments of 64 while fewer than four COMMITs are outstanding, or,
in PHASE 0x05, the whole tail (R136, R172, R174). A GROW waits for the writes of the flushes before it, whose
BASE it changes. -/
def flushTail : Nat → State → Nat → BitVec 48 → State
  | 0, s, _, _ => s
  | fuel + 1, s, p, tag =>
    match liveOf s p tag with
    | none => s
    | some l =>
      let lo := l.flushedTo
      let hi := if l.req.phase = 5 then l.req.seq else lo + 64
      if ¬ (l.req.phase = 4 ∨ l.req.phase = 5) ∨ l.flushTo.isSome ∨ l.releasing ∨ l.req.seq < hi ∨ hi ≤ lo
          ∨ 4 ≤ l.outstanding then s
      else if l.shortOf hi ≠ [] then (if l.due = [] then sendGrow s p tag hi else s)
      else
        let moves := l.copies.flatMap fun c => segmentMoves s p l c lo hi
        flushTail fuel (beginCommits (queueMoves s p (.flush tag) moves) p tag lo hi) p tag

/-- Send RELEASE once a finishing request is durable whole (R174 steps 3 and 4). -/
def releaseIfDurable (s : State) (p : Nat) (tag : BitVec 48) : State :=
  match liveOf s p tag with
  | none => s
  | some l =>
    if l.req.phase = 5 ∧ l.releasing = false ∧ l.outstanding = 0 ∧ l.flushTo.isNone ∧ l.req.seq ≤ l.req.length
    then releaseCopies s p tag false else s

/-- The holder goes on with a request's tail: flushes, COMMITs, RELEASE. -/
def flushOn (s : State) (p : Nat) (tag : BitVec 48) : State :=
  releaseIfDurable (sendDue (flushTail 8 (sendDue s p tag) p tag) p tag) p tag

/-- A request finishes after its final token or a cancel: PHASE 0x05, flush, COMMIT, RELEASE (R174). -/
def finishRequest (s : State) (p : Nat) (tag : BitVec 48) (c : Byte) (token : Option (BitVec 32)) : State :=
  let s := modLive s p tag fun l => { l with
    req := l.req.finish, finalCode := c, finalToken := token, finalNoToken := token.isNone, inBatch := false }
  flushOn s p tag

/-! ### OPEN (R262 step 6, R183) -/

/-- The shape of a model as an OPEN carries it (R120). -/
def shapeWord (s : State) (p m : Nat) : Word :=
  match s.model p m with
  | none => 0
  | some x => BitVec.ofNat 64 (x.layers + x.kvHeads * 2 ^ 8 + x.head * 2 ^ 16 + m * 2 ^ 24)

/-- Send OPEN for a request. -/
def sendOpen (s : State) (p : Nat) (tag : BitVec 48) (handle : Word) : State :=
  match liveOf s p tag with
  | none => s
  | some l => askCopy s p l 1 handle l.req.promptTokens 0 (shapeWord s p l.req.model)

/-- Written values of the deadline and context registers apply (Table 08-7). -/
def PHold.boundary (h : PHold) : PHold := { h with
  queryWait := h.written.queryWait, firstEnd := h.written.firstEnd, worstCase := h.written.worstCase
  wcFirst := h.written.wcFirst, ctxBlockMin := h.written.ctxBlockMin }

/-- Step 6 of R262: in worst-case mode a request that cannot meet FIRST_DUE ends as FIRST_END lays down,
without an OPEN (R286); else OPEN is sent. -/
def chargeTaken (s : State) (p : Nat) (tag : BitVec 48) : State :=
  match liveOf s p tag with
  | none => s
  | some l =>
    let h := (s.part p).hold
    let s := modLive s p tag fun l => { l with charged := true, held := false }
    if h.worstCase ∧ l.req.firstDue < s.now + h.wcFirst then endNow s p tag 0x0A
    else sendOpen s p tag l.req.last

/-! ### Hand-off (R162 to R168) -/

/-- The remaining duration to a counter value, 0 once it has passed (R15); all ones stays. -/
def remaining (s : State) (due : Nat) : Nat :=
  if due = 0xFFFF_FFFF_FFFF_FFFF then due else due - s.now

/-- A carried duration as a value of this module's counter (R15). -/
def fromRemaining (s : State) (left : Nat) : Nat :=
  if left = 0xFFFF_FFFF_FFFF_FFFF then left else s.now + left

/-- A target may be asked: valid, and it did not report zero free tails within the last 1,000 us (R162). -/
def HoTarget.open_ (t : HoTarget) (now : Nat) : Bool :=
  t.valid && !(match t.fullAt with | some at_ => decide (now ≤ at_ + 1000) | none => false)

/-- The targets that may be asked, in index order starting after `last`, which comes last (R162). -/
def handoffTargets (s : State) (p : Nat) (last : Option Nat) : List (Nat × HoTarget) :=
  let l := (s.part p).last
  let first := match last with
    | none => 0
    | some k => k + 1
  ((List.range 16).map fun i => ((first + i) % 16, l.targets.at ((first + i) % 16) {})).filter fun x => x.2.open_ s.now

/-- Remember a HANDOFF that is sent to a target under MSG_ID `id`, and send it. -/
def postHandoff (s : State) (p : Nat) (l : Live) (t : HoTarget) (id : Nat) : State :=
  let r := { l.req with phase := 3, firstDue := 0, nextDue := remaining s l.req.nextDue }
  let h := { requestHdr s p 6 l.req.tag l.req.last with handoffSeq := l.req.handoffSeq, msgId := id }
  let body := recordBytes r
  let x : SvcSent := { h := h, toDevice := t.device, toPart := t.partition, sentAt := s.now, payload := body }
  let s := s.modPLast p fun l => { l with sent := l.sent.put id x }
  if unreachable s t.device then s else svcPost s p t.device t.partition h body true

/-- Send HANDOFF to target `i`: another target than the one before raises HANDOFF_SEQ and takes a new MSG_ID, the
same keeps both (R163, R164). -/
def sendHandoff (s : State) (p : Nat) (tag : BitVec 48) (i : Nat) (t : HoTarget) : State :=
  match liveOf s p tag with
  | none => s
  | some l =>
    if l.handoffTo = some i then postHandoff s p l t l.handoffId
    else
      let id := s.mgmt.nextMsgId + 1
      let l := { l with
        handoffTo := some i, handoffId := id
        req := { l.req with handoffSeq := if l.handoffTo = none then l.req.handoffSeq else (l.req.handoffSeq + 1) % 65536 } }
      postHandoff (modLive (s.modMgmt fun m => { m with nextMsgId := id }) p tag fun _ => l) p l t id

/-- Turn to the next target; with none to turn to the request waits (R168). -/
def nextTarget (s : State) (p : Nat) (tag : BitVec 48) : State :=
  match liveOf s p tag with
  | none => s
  | some l =>
    match handoffTargets s p (l.handoffTo.orElse fun _ => (s.part p).last.lastTarget) with
    | [] => s
    | (i, t) :: _ => sendHandoff s p tag i t

/-- A HANDOFF of a request is outstanding. -/
def handoffSent (s : State) (p : Nat) (tag : BitVec 48) : Bool :=
  (s.part p).last.sent.any fun kv => decide (kv.2.h.op = 6 ∧ kv.2.h.tag = tag)

/-- Keep a forwarding entry, the oldest of 4,096 giving way (R181). -/
def addForward (s : State) (p : Nat) (tag : BitVec 48) (device part : Nat) : State :=
  s.modPLast p fun l =>
    let f := l.forwards.filter fun x => decide (x.tag ≠ tag)
    { l with forwards := (if f.length < 4096 then f else f.drop 1)
        ++ [{ tag := tag, device := device, partition := part, at_ := s.now }] }

/-- Send a cancel to the new holder of a request that was handed off: its slots and messages wait on the
reply (R179, R181). -/
def forwardCancel (s : State) (p : Nat) (tag : BitVec 48) (device part : Nat) (slots : List Nat)
    (msgs : List SvcHdr) : State :=
  let x := svcSend s p device part (requestHdr s p 7 tag allOnes64) []
  x.2.modPLast p fun l => { l with
    sent := l.sent.mapVals fun k v => if k = x.1 then { v with slots := slots, msgs := msgs } else v }

/-! ### Joining the batch (R167, R253, R254) -/

/-- Whether the main model of a record drafts here, and its DRAFT_MAX (R253). -/
def draftMaxOf (s : State) (p m : Nat) : Nat :=
  match s.model p m with
  | none => 0
  | some x => if x.draft = 255 ∨ (s.part p).hold.specOff ∨ ¬ (s.role p = 1 ∨ s.role p = 3) then 0 else x.draftMax

/-- DRAFT_MAX of the model's piece (R254). -/
def pieceDraftMax (s : State) (p m : Nat) : Nat := ((s.model p m).map (·.draftMax)).getD 0

/-- A request as it stands when it joins the batch. -/
def Live.joined (s : State) (p : Nat) (l : Live) : Live := { l with
  req := { l.req with phase := 4, draftLen := pieceDraftMax s p l.req.model, rejectRun := 0, draftPause := 0 }
  inBatch := true }

/-- The request joins the batch (R167, R254). -/
def joinBatch (s : State) (p : Nat) (tag : BitVec 48) : State := modLive s p tag (Live.joined s p)

end Sys2Proof.Machine
end

