-- ==== Sys2Proof/Machine/Contexts.lean ====
section
/-! DEFINITION. Which requests can start a step or a prefill chunk, and the contexts of swappable models: what is
runnable and what is blocked (04 R137, 07 R255, 08 R281, R284, R288 to R290). -/

namespace Sys2Proof.Machine

/-! ### Streams and prefills that can start -/

/-- A prefill has yielded token 0 and has not committed (R161). -/
def Live.prefilled (l : Live) : Bool :=
  decide ((l.req.phase = 1 ∨ l.req.phase = 2) ∧ l.req.step ≠ 0 ∧ l.req.outputCount = 0)

/-- A prefill has not yielded token 0. -/
def Live.prefilling (l : Live) : Bool := decide ((l.req.phase = 1 ∨ l.req.phase = 2) ∧ l.req.step = 0)

/-- A request can start a prefill chunk: granted, walk and copy done. -/
def prefillReady (l : Live) : Bool :=
  l.prefilling && l.granted && !l.walking && l.copy.isNone && !l.releasing

/-- The record once `n` more positions have slots: durable segments are given up for them (R137). -/
def tailRoom (w : Nat) (r : Record) (n : Nat) : Nat → Record
  | 0 => r
  | fuel + 1 =>
    if r.seq + n - r.tailBase ≤ w ∨ r.length < r.tailBase + 64 then r
    else tailRoom w { r with tailBase := r.tailBase + 64 } n fuel

/-- The tail slots that are free, those of durable segments among them (R137, R255). -/
def freeSlots (w : Nat) (r : Record) : Nat := w - (r.seq - (r.tailBase + (r.length - r.tailBase) / 64 * 64))

/-- The tokens that a step feeds a stream beside its drafts: the unfed ones and LAST_TOKEN; a request whose
final token is known feeds the others only (R284). -/
def Live.feeds (l : Live) : Nat := l.unfed.length + (if l.finalToken.isSome then 0 else 1)

/-- A stream of the batch can be fed (R69, R134, R137). -/
def canFeed (s : State) (p : Nat) (l : Live) : Bool :=
  decide (l.req.phase = 4 ∧ l.req.tail ≠ allOnes64 ∧ l.feeds ≤ freeSlots (tailWindow s p) l.req
    ∧ l.req.seq + l.feeds ≤ lMax s)
    && l.inBatch && !backlogged s p l.req.tag

/-- A QUERY of a request's step awaits its reply. -/
def queryOpen (s : State) (p : Nat) (tag : BitVec 48) : Bool :=
  (s.part p).last.sent.any fun kv => decide (kv.2.h.op = 5 ∧ kv.2.h.tag = tag) && !kv.2.stale

/-- STEP_EST (R281). -/
def stepEst (h : PHold) : Nat := if h.worstCase then h.wcStep else h.durations.foldl max 0

/-- A stream is marked for fallback in the coming step (R281). -/
def marks (s : State) (p : Nat) (l : Live) : Bool :=
  let h := (s.part p).hold
  let fb : Nat := ((s.model p l.req.model).map (·.fallback)).getD 255
  decide (l.req.phase = 4 ∧ fb ≠ 255 ∧ l.unfed.length + 1 < 8
    ∧ l.req.nextDue ≠ 0xFFFF_FFFF_FFFF_FFFF ∧ l.req.nextDue < s.now + 2 * stepEst h + h.fallbackEst + h.margin)
    && !h.noFallback && l.finalToken.isNone && l.inBatch && !backlogged s p l.req.tag

/-! ### Models and slots -/

/-- A model's weights are swappable on a partition: in a DDR5 weights region that is not pinned, and in no
HBM region (08, Contexts and resident models). -/
def swappable (s : State) (p m : Nat) : Bool :=
  (s.regions p).any (fun e => decide (e.tier = 2 ∧ e.use = 1 ∧ e.model = m) && !e.pinned)
    && !(s.regions p).any fun e => decide (e.tier = 1 ∧ e.use = 1 ∧ e.model = m)

/-- The swap slots of a partition: index and length of its HBM weights regions without a model. -/
def swapSlots (s : State) (p : Nat) : List (Nat × Nat) :=
  (((s.regions p).filter fun e => decide (e.tier = 1 ∧ e.use = 1 ∧ e.model = 255)).map (·.length)).zipIdx.map
    fun x => (x.2, x.1)

/-- A swappable model whose weights fit no slot (R288). -/
def fitsNoSlot (s : State) (p m : Nat) : Bool :=
  swappable s p m && (match s.model p m with
    | none => false
    | some x => (swapSlots s p).all fun y => decide (y.2 < x.weightBytes))

/-- The context of a model is resident, or the model needs no slot. -/
def residentModel (s : State) (p m : Nat) : Bool :=
  !swappable s p m || (((s.part p).hold.ctxs.at m {}).slot).isSome

/-- The models of requests admitted. -/
def admittedModels (s : State) (p : Nat) : List Nat := (livesOf s p).map (·.req.model)

/-! ### Runnable and blocked (R288) -/

/-- What a request can start: a step or a prefill chunk, where it is not in a step that awaits a QUERY reply. -/
def canStart (s : State) (p : Nat) (l : Live) : Bool :=
  (prefillReady l || canFeed s p l) && !queryOpen s p l.req.tag

/-- Some admitted request of a model can start a step or a prefill chunk. -/
def runnableModel (s : State) (p m : Nat) : Bool :=
  (livesOf s p).any fun l => decide (l.req.model = m) && canStart s p l

/-- An OPEN on a Last handle, which may wait in order of arrival until another holder releases the Last: nothing
bounds its reply (R17, R290), while its target can be reached (DESIGN CHOICE, notes/assumptions/28.md). -/
def queues (x : SvcSent) : Bool := decide (x.h.op = 1) && !x.h.partner && !isAllocation x.h.handle

/-- The requests of a kind that a live request awaits replies to: OPEN (whose GRANT may follow a promotion),
COMMIT, HANDOFF, QUERY (R288). -/
def awaited (s : State) (p : Nat) (tag : BitVec 48) : List SvcSent :=
  ((s.part p).last.sent.map (·.2)).filter fun x => decide (x.h.tag = tag) && !x.stale
    && [(1 : Byte), 2, 5, 6].contains x.h.op

/-- A context is blocked: resident, with requests each of which waits on a GRANT, a promotion, a COMMIT, a
hand-off reply or a QUERY reply (R288). -/
def blockedModel (s : State) (p m : Nat) : Bool :=
  let mine := (livesOf s p).filter fun l => decide (l.req.model = m)
  (((s.part p).hold.ctxs.at m {}).slot).isSome && !mine.isEmpty
    && mine.all fun l => !canStart s p l && !(awaited s p l.req.tag).isEmpty

/-- The swapped runnable context that became runnable first. -/
def oldestSwapped (s : State) (p : Nat) : Option Nat :=
  let c := (s.part p).hold.ctxs.filter fun kv =>
    kv.2.slot.isNone && kv.2.swapping.isNone && kv.2.runnableSince.isSome
  ((sortOn (fun kv => kv.2.runnableSince.getD 0) c).head?).map (·.1)

/-- The context in a slot. -/
def inSlot (s : State) (p k : Nat) : Option Nat :=
  ((s.part p).hold.ctxs.find? fun kv => decide (kv.2.slot = some k ∨ kv.2.swapping = some k)).map (·.1)

/-- The slots that fit a model, smallest first. -/
def fittingSlots (s : State) (p m : Nat) : List Nat :=
  let w := ((s.model p m).map (·.weightBytes)).getD 0
  (sortOn (·.2) ((swapSlots s p).filter fun x => decide (w ≤ x.2))).map (·.1)

/-- Every slot that fits the oldest swapped runnable context holds a blocked context (R290). -/
def allBlocked (s : State) (p : Nat) : Bool :=
  match oldestSwapped s p with
  | none => false
  | some m =>
    let f := fittingSlots s p m
    !f.isEmpty && f.all fun k => match inSlot s p k with
      | none => false
      | some n => blockedModel s p n

/-- The contexts of a partition, each with the moment since when it has been runnable. -/
def ctxsNow (s : State) (p : Nat) : KMap Ctx :=
  let models := ((admittedModels s p).filter (swappable s p)).eraseDups
  (models.foldl (fun c m => if c.has m then c else c.put m {}) (s.part p).hold.ctxs).mapVals fun m c =>
    { c with runnableSince := if runnableModel s p m then c.runnableSince.orElse fun _ => some s.now else none }

/-- Bring the record of what is runnable and blocked up to date (R289, R290). -/
def refreshCtxs (s : State) (p : Nat) : State :=
  let s := s.modHold p fun h => { h with ctxs := ctxsNow s p }
  s.modHold p fun h => { h with
    blockedSince := if allBlocked s p then h.blockedSince.orElse fun _ => some s.now else none }

end Sys2Proof.Machine
end

