-- ==== Sys2Proof/Machine/Admission.lean ====
section
/-! DEFINITION. Taking a request in: admission items, Tollgates, Signpost walks and the prefix copy (08 R262
to R275, 05 R182 and R183). -/

namespace Sys2Proof.Machine

/-! ### Admission (R262, R263) -/

/-- The customer check of R270 fails: the partition owns Tollgates and none for the customer, or a Roundabout of
it shapes with the customer's. -/
def customerRefused (s : State) (p c : Nat) : Bool :=
  if (s.toll c).owner ≠ p then s.tolls.any fun kv => decide (kv.2.owner = p)
  else s.tolls.has c && s.roundabouts.any fun kv => decide (kv.2.owner = p ∧ kv.2.shape = c) && kv.2.shapeOn

/-- A Tollgate charges: proceeds, waits, or refuses (R272). -/
inductive Charge where
  | go (level : Int)
  | hold
  | police
  deriving DecidableEq, Repr

def tollCharge (t : Toll) (charge : Nat) : Charge :=
  if t.mode = 0 then
    if (charge : Int) ≤ t.level then .go (t.level - charge)
    else if t.depth < charge ∨ 256 ≤ t.hold.length then .police
    else .hold
  else if t.mode = 1 then (if (charge : Int) ≤ t.level then .go (t.level - charge) else .police)
  else if 0 < t.level then .go (t.level - charge)
  else .police

/-- Charge a request against its customer's Tollgate (R270, R272). -/
def takeCharge (s : State) (p : Nat) (tag : BitVec 48) (r : Record) : State :=
  let c := r.customer % 4096
  let t := s.toll c
  if t.owner ≠ p then chargeTaken s p tag
  else
    let charge := r.promptTokens + (s.part p).hold.reserve
    match tollCharge t charge with
    | .go level => chargeTaken (s.setToll c { t with level := level }) p tag
    | .police => endNow s p tag 9
    | .hold =>
      let s := s.setToll c { t with hold := t.hold ++ [{ part := p, tag := tag, charge := charge }] }
      modLive s p tag fun l => { l with held := true }

/-- Read a bucket for a walk; a read that cannot be made ends the walk's reads. -/
def walkRead (s : State) (p : Nat) (tag : BitVec 48) (t : SpTable) (b : Nat) : State :=
  (walkerRead s p t (bucketOff t b) 256 (.walk tag)).getD (modLive s p tag fun l => { l with walkLeft := [] })

/-- A bucket read of a walk has ended: the next one is sent; a read that failed ends the walk's reads (R266,
R267). -/
def walkNext (s : State) (p : Nat) (tag : BitVec 48) (ok : Bool) : State :=
  match liveOf s p tag with
  | none => s
  | some l =>
    match (if l.walking then l.walkTable else none), l.walkLeft with
    | some i, b :: r =>
      if ok then walkRead (modLive s p tag fun l => { l with walkLeft := r }) p tag (spTableAt s p i) b
      else modLive s p tag fun l => { l with walkLeft := [] }
    | _, _ => s

/-- Start the walk of a request: its stamp and its bucket reads, of which at most 64 are outstanding (R265 to
R267). Without a valid table it matches nothing at once. -/
def startWalk (s : State) (p : Nat) (tag : BitVec 48) (r : Record) : State :=
  match spTableFor s p r.last with
  | none => s
  | some i =>
    let t := spTableAt s p i
    let keys := if isAllocation r.last then promptKeys s p r (jMax r.promptTokens)
      else [headKey (s.tenant p) r.model r.last]
    let buckets := keys.map (bucketOf t)
    let s := s.modHold p fun h => { h with walks := satAdd 0xFFFF_FFFF h.walks 1 }
    let s := modLive s p tag fun l => { l with
      walking := true, walkTable := some i, walkLeft := buckets.drop 64 }
    (buckets.take 64).foldl (fun s b => walkRead s p tag t b) (walkerAdd s p t t.base 8 1)

/-- The record of a request item (R111, R263). RUNTIME is the software's: its first bytes are open. -/
def newRecord (s : State) (p : Nat) (it : Item) : Record :=
  let first := itemFld it 0x1B 3
  { phase := 0, model := itemFld it 1 1, customer := itemFld it 2 2 % 4096, tag := BitVec.ofNat 48 (itemFld it 4 6)
    holderDevice := s.fab.device.toNat, holderPartition := p, last := BitVec.ofNat 64 (itemFld it 0xA 8)
    promptTokens := itemFld it 0x18 3, prompt := itemFld it 0x12 6
    firstDue := if first = 0 then 0xFFFF_FFFF_FFFF_FFFF else s.now + first
    nextLimit := itemFld it 0x1E 2, chainHash := List.replicate 16 0, runtime := freeBytes s.draws 64 }

/-- Take in the item at the head of an admission lane (R262); a model that is not verified counts as not
set (R442). -/
def admitItem (s : State) (p : Nat) (it : Item) : State :=
  let tag := itemTag it
  let model := itemFld it 1 1
  let mask := ((s.piece p).map (·.modelMask)).getD 0
  if itemFld it 0x18 3 = 0 then refuseItem s p tag 0
  else if mask.testBit model = false ∨ (s.part p).trust.verified.contains model = false then refuseItem s p tag 0x0B
  else if (recOf s p tag).isSome then refuseItem s p tag 0x0B
  else if customerRefused s p (itemFld it 2 2 % 4096) then refuseItem s p tag 0x0B
  else if fitsNoSlot s p model then refuseItem s p tag 0x0B
  else
    let r := newRecord s p it
    let s := s.draw.2.modHold p fun h => { h with lives := h.lives ++ [{ req := r }] }
    takeCharge (startWalk s p tag r) p tag r

/-- A partition reads its admission lanes: not once STOP has closed them (R58), nor while the module is in
Doubt (R494), nor with no block but those in Doubt or retired (Table 15-4). A closed lane is one that is not read:
items can still be written to it (DESIGN CHOICE, notes/assumptions/59.md). -/
def readsLanes (s : State) (p : Nat) : Bool :=
  decide (s.code p = 5 ∧ s.regs.state = 5) && !(s.part p).stopping && (s.blocksOf p).any fun b => !blockSuspect s b

/-- ADMISSION_ITEM_TAKEN (R262, R263, R272). -/
def execAdmissionItemTaken (p : Part) (lane : LaneNo) (s : State) : Out :=
  let l := s.lane lane.val
  if readsLanes s p.val ∧ l.owner = p.val ∧ l.kind = 1 then
    match l.items with
    | it :: _ => .next (if itemFld it 0 1 = 1 then refreshCtxs (admitItem (lanePop s lane.val).2 p.val it) p.val else s)
    | [] => .next s
  else .next s

/-! ### Refills (R273, R274) -/

/-- Serve a shaping hold in arrival order while its head's charge is covered. A request that has ended
meanwhile gives up its place. -/
def serveHold (c : Nat) : List HeldReq → State → State
  | [], s => s
  | h :: r, s =>
    let t := s.toll c
    match liveOf s h.part h.tag with
    | none => serveHold c r (s.setToll c { t with hold := t.hold.drop 1 })
    | some _ =>
      if (h.charge : Int) ≤ t.level then
        serveHold c r (chargeTaken (s.setToll c { t with hold := t.hold.drop 1, level := t.level - h.charge }) h.part h.tag)
      else s

/-- A Tollgate after the refill of this moment. -/
def refilled (t : Toll) (now : Nat) : Toll :=
  let t := if t.pending then
      { t with depth := t.sDepth, refill := t.sRefill, interval := t.sInterval, pending := false }
    else t
  { t with level := min (t.depth : Int) (t.level + t.refill), lastRefill := now }

/-- TOLLGATE_REFILL: every INTERVAL. -/
def execTollgateRefill (customer : Fin 4096) (s : State) : Out :=
  match s.tolls.find customer.val with
  | none => .next s
  | some t =>
    let due := t.lastRefill + t.interval
    if s.now < due ∨ s.code t.owner ≠ 5 then .next s
    else
      let s := s.setToll customer.val (refilled t due)
      .next (refreshCtxs (serveHold customer.val t.hold s) t.owner)

/-! ### The prefix copy (R154, R268) -/

/-- A directory entry as its bytes give it can be copied from: REUSE, and STATE 1 or 2. -/
def sourceOk (bs : List Byte) (reuse : Nat) : Bool :=
  decide (fld bs 4 2 = reuse ∧ (fld bs 0 1 = 1 ∨ fld bs 0 1 = 2))

/-- Load the directory entry of the source of a prefix copy (Table 08-2 steps 1 and 4). -/
def loadSource (s : State) (p : Nat) (l : Live) (source : Word) : State :=
  match l.walkTable with
  | none => s
  | some i =>
    let t := spTableAt s p i
    (walkerRead s p t (t.dirBase + 64 * handleSlot source) 64 .none).getD s

/-- The MOVEs of a prefix copy, one after another: per layer into the start of the activation region, and from
there to every copy granted (Table 08-2 step 3). -/
def copyMoves (s : State) (p : Nat) (l : Live) (c : PrefixCopy) : List Descriptor :=
  let sh := lastShape s p l.req.model
  let u := sh.2.unit
  let len := 64 * l.walkMatch * u
  let act := ((s.regions p).find? fun e => decide (e.use = 4)).map (·.start)
  let d := fun (flags device src dst : Nat) =>
    ({ opcode := 1, transform := 0, flags := 8 + flags, doneLane := 0, device := device, src := src, dst := dst
       length := len, dstLimit := len, rows := 1, srcStride := 0, dstStride := 0, waitCounter := 0
       signalCounter := 0, waitValue := 0, tag := l.req.tag.setWidth 64 } : Descriptor)
  match act with
  | none => []
  | some a => (List.range sh.1).flatMap fun layer =>
    d 0x10 (handleDevice c.source) (handlePart c.source * 2 ^ 48 + c.base + layer * capOf s c.cls * u) a
      :: l.copies.map fun h => d 0x20 (handleDevice h) a (l.baseAt h + layer * l.capacityAt h * u)

/-- A prefix copy is over: where its check failed the held node is marked dead and the prefix counts for nothing;
either way REFS of the node falls. -/
def copyEnds (s : State) (p : Nat) (tag : BitVec 48) (ok : Bool) : State :=
  match liveOf s p tag with
  | none => s
  | some l =>
    let s := match ok, l.walkTable, l.walkNode with
      | false, some i, some n => killNode s p (spTableAt s p i) n
      | _, _, _ => s
    modLive (lowerRefs s p l) p tag fun l => { l with
      copy := none, nodeHeld := false, walkNode := if ok then l.walkNode else none
      walkMatch := if ok then l.walkMatch else 0, filled := if ok then 64 * l.walkMatch else 0
      req := if ok then l.req
        else { l.req with prefixTokens := 0, chainHash := List.replicate 16 0 } }

/-- Step 2 of Table 08-2: the source's entry is accepted and noted, and the MOVEs begin, or the check has
failed. -/
def noteSource (s : State) (p : Nat) (tag : BitVec 48) (entry : Option (List Byte)) : State :=
  match liveOf s p tag with
  | none => s
  | some l =>
    match l.copy, entry with
    | some c, some bs =>
      let c := { c with noted := true, accepted := true, base := fld bs 8 8, cls := fld bs 1 1, tier := fld bs 2 1 }
      let moves := copyMoves s p l c
      if !sourceOk bs (handleReuse c.source) || moves.isEmpty then copyEnds s p tag false
      else
        queueMoves (modLive s p tag fun l => { l with copy := some { c with moves := moves.length } }) p (.prefixCopy tag) moves
    | some _, none => copyEnds s p tag false
    | none, _ => s

/-- The match and the grant are both there: the source's entry is loaded, or is at hand already. -/
def beginCopy (s : State) (p : Nat) (tag : BitVec 48) (entry : Option (List Byte)) : State :=
  match liveOf s p tag with
  | none => s
  | some l =>
    let c : PrefixCopy := { source := l.walkLast, base := 0, cls := 0, accepted := false, noted := false }
    let s := loadSource (modLive s p tag fun l => { l with copy := some c }) p l c.source
    if entry.isSome then noteSource s p tag entry else s

/-- Step 4 of Table 08-2: the entry loaded again decides. -/
def checkCopy (s : State) (p : Nat) (tag : BitVec 48) (c : PrefixCopy) (copied : Bool)
    (entry : Option (List Byte)) : State :=
  let same := match entry with
    | none => false
    | some bs => sourceOk bs (handleReuse c.source) && decide (fld bs 8 8 = c.base ∧ fld bs 1 1 = c.cls)
  copyEnds s p tag (copied && !c.failed && same)

/-! ### The end of a walk (R266) -/

/-- The nodes that blocks 0, 1, ... match: bucket reads beside the keys; a failed read ends the walk. -/
def matchedNodes (t : SpTable) (model tenant : Nat) : List (List Byte) → List (Option (List Byte)) → List (Nat × Word)
  | key :: ks, some b :: bs =>
    match findNode b key 1 model tenant with
    | none => []
    | some n => (4 * bucketOf t key + n, BitVec.ofNat 64 (fld (nodeAt b n) 0x18 8))
        :: matchedNodes t model tenant ks bs
  | _, _ => []

/-- The walk of an allocation: REFS of the held node and USED of the matched ones; the prefix copy begins where
the grant is there. -/
def walkMatched (s : State) (p : Nat) (l : Live) (t : SpTable) (stamp : Word) (buckets : List (Option (List Byte))) :
    State :=
  let r := l.req
  let keys := promptKeys s p r (jMax r.promptTokens)
  let m := matchedNodes t r.model (s.tenant p) keys buckets
  match m.getLast? with
  | none => s
  | some (node, last) =>
    let s := walkerAdd s p t (nodeOff t node + 0x14) 4 1
    let s := m.foldl (fun s x => walkerWrite s p t (nodeOff t x.1 + 0x28) (leBytes 8 stamp.toNat)) s
    let s := modLive s p r.tag fun l => { l with
      walkMatch := m.length, walkNode := some node, walkLast := last, nodeHeld := true
      req := { l.req with prefixTokens := 64 * m.length, chainHash := keys.getD (m.length - 1) [] } }
    if l.granted then beginCopy s p r.tag none else s

/-- The walk for a Last handle: what its head node reports. -/
def walkHead (s : State) (p : Nat) (l : Live) (buckets : List (Option (List Byte))) : State :=
  let key := headKey (s.tenant p) l.req.model l.req.last
  match buckets.head? with
  | some (some b) =>
    match findNode b key 2 l.req.model (s.tenant p) with
    | none => s
    | some n =>
      let x := nodeAt b n
      modReq s p l.req.tag fun r => { r with prefixTokens := 64 * fld x 0x20 4, chainHash := slice x 0x30 16 }
  | _ => s

/-- SIGNPOST_WALK_DONE (R266): the walk reports. The walk of a request that has ended, or is ending, is
discarded. -/
def execSignpostWalkDone (p : Part) (tag : BitVec 48) (stamp : Word) (buckets : List (Option (List Byte)))
    (s : State) : Out :=
  match liveOf s p.val tag with
  | none => .next s
  | some l =>
    match (if l.walking then l.walkTable else none) with
    | none => .next s
    | some i =>
      let t := spTableAt s p.val i
      let s := modLive s p.val tag fun l => { l with walking := false, walkStamp := stamp, walkLeft := [] }
      .next (refreshCtxs (if l.releasing then s
        else if l.allocated then walkMatched s p.val l t stamp buckets
        else walkHead s p.val l buckets) p.val)

/-! ### The GRANT (R154, R183) -/

/-- The OPEN a request sent has answered 0x00: the record takes the grant (Table 05-6 step 3). An OPEN granted by
the partner puts the request on its mirror (R183). The grant gives one class capacity, which both copies are taken
to have until a GROW says otherwise (DESIGN CHOICE, notes/assumptions/28.md). -/
def Live.withGrant (l : Live) (asked : Word) (h : SvcHdr) (payload : List Byte) : Live :=
  let onPartner := decide (asked ≠ l.req.last)
  let req := { l.req with
    phase := if l.req.phase = 5 then 5 else 1
    epoch := h.epoch, seq := h.posA, length := h.posA
    last := if onPartner then l.req.last else h.handle
    mirror := if onPartner then h.handle else h.handle2
    onMirror := onPartner, newLast := l.req.newLast || isAllocation l.req.last }
  { l with
    granted := true, capacity := h.posB, mirrorCapacity := h.posB, base := h.value
    mirrorBase := if onPartner then h.value else BitVec.ofNat 64 (fld payload 0 8)
    req := if l.req.phase = 5 then { req with tailOrigin := h.posA, tailBase := h.posA } else req }

/-- The grant is taken; with a match of the walk the prefix copy begins. -/
def takeGrant (s : State) (p : Nat) (l : Live) (asked : Word) (h : SvcHdr) (payload : List Byte)
    (source : Option (List Byte)) : State :=
  let s := modLive s p l.req.tag fun l => l.withGrant asked h payload
  if isAllocation l.req.last ∧ l.walkMatch ≠ 0 ∧ !l.releasing then beginCopy s p l.req.tag source else s

/-- The partner handle of a handle, by the pair its partition forms in this partition's map (R151, R183). -/
def partnerHandle (s : State) (p : Nat) (handle : Word) : Option Word :=
  match ownMap s p with
  | none => none
  | some m =>
    match m.entries.find? fun e => decide (e.device = handleDevice handle ∧ e.partition = handlePart handle) with
    | none => none
    | some e => (m.entries[e.partner]?).map fun q =>
        mkHandle q.device q.partition (handleReuse handle) (handleSlot handle)

/-- The OPEN a request sent has completed with a code: towards the partner once where the copy is lost
(R183), else the request ends. -/
def openRefused (s : State) (p : Nat) (l : Live) (asked : Word) (c : Byte) : State :=
  match (if c = 3 ∧ asked = l.req.last ∧ !isAllocation asked then partnerHandle s p asked else none) with
  | some h => sendOpen s p l.req.tag h
  | none => endNow s p l.req.tag c

/-! ### Inserting (R269) -/

/-- After the prefill of an allocation commits: block nodes and the head node. -/
def insertPrefix (s : State) (p : Nat) (tag : BitVec 48) : State :=
  match liveOf s p tag with
  | none => s
  | some l =>
    match (if l.req.newLast then l.walkTable else none) with
    | none => s
    | some i =>
      let r := l.req
      let tenant := s.tenant p
      let j := l.walkMatch
      let keys := (promptKeys s p r (r.promptTokens / 64)).drop j
      let blocks := keys.zipIdx.map fun x => nodeBytes x.1 1 r.model tenant 0 r.last 0 (j + x.2) l.walkStamp []
      let head := nodeBytes (headKey tenant r.model r.last) 2 r.model tenant 0 r.last (r.length / 64) j l.walkStamp
        r.chainHash
      insertStart s p i ((blocks ++ [head]).map fun b => { bytes := b, update := false })
        (if j = 0 then none else l.walkNode)

/-- A RELEASE was answered 0x00: BLOCKS of the head node, if the node is still there. -/
def updateHead (s : State) (p : Nat) (l : Live) : State :=
  match spTableFor s p l.req.last with
  | none => s
  | some i =>
    let r := l.req
    let tenant := s.tenant p
    let head := nodeBytes (headKey tenant r.model r.last) 2 r.model tenant 0 r.last (r.length / 64) 0 0 []
    insertStart s p i [{ bytes := head, update := true }] none

end Sys2Proof.Machine
end

