-- ==== Sys2Proof/Machine/EngineOps.lean ====
section
/-! DEFINITION. Program images, stitch cores and their registers, and how a run ends (02 R37, 06 R188 to
R202). -/

namespace Sys2Proof.Machine

/-! ### Program images (R37, R194) -/

/-- Round up to a multiple. -/
def roundUp (n k : Nat) : Nat := (n + k - 1) / k * k

/-- The USE 0x05 regions of an owner in ascending START. -/
def progRegions (pl : List PlaceEntry) (owner : Nat) : List (Nat × Nat) :=
  let r := (pl.filter fun e => decide (e.owner = owner ∧ e.use = 5)).map fun e => (e.start, e.length)
  sortOn (·.1) r

/-- The Program pieces of an owner in ascending SLOT. -/
def progPieces (pr : List ProgPiece) (owner : Nat) : List ProgPiece :=
  sortOn (·.slot) (pr.filter fun x => decide (x.owner = owner))

/-- Place images of the given lengths: each at the first 64 KiB boundary at or after the end of the one
before it, in the first region from there on that holds it whole; none when some image fits no region
(R37). -/
def placeImages : Nat → List (Nat × Nat) → Nat → List Nat → Option (List Nat)
  | _, _, _, [] => some []
  | 0, _, _, _ :: _ => none
  | _, [], _, _ :: _ => none
  | fuel + 1, (start, len) :: rs, used, n :: ns =>
    if used + n ≤ len then
      (placeImages fuel ((start, len) :: rs) (roundUp (used + n) 65536) ns).map fun l => (start + used) :: l
    else placeImages fuel rs 0 (n :: ns)

/-- Where each Program piece of a partition lies in its range: the piece and its offset. -/
def programsOf (pl : List PlaceEntry) (pr : List ProgPiece) (owner : Nat) : Option (List (ProgPiece × Nat)) :=
  let ps := progPieces pr owner
  (placeImages (ps.length + (progRegions pl owner).length) (progRegions pl owner) 0 (ps.map (·.length))).map fun offs => ps.zip offs

/-- The Program piece of a slot of partition `p` with the offset of its image. -/
def programAt (s : State) (p slot : Nat) : Option (ProgPiece × Nat) :=
  match s.pattern with
  | none => none
  | some pt => ((programsOf pt.placements pt.programs p).getD []).find? fun x => decide (x.1.slot = slot)

/-- The header of a program image (Table 06-3). -/
structure ImageHeader where
  magic : Nat
  version : Nat
  entries : Nat
  benchStatic : Nat
  engOff : Nat
  engLen : Nat
  cobOff : Nat
  cobLen : Nat
  deriving DecidableEq, Repr

def imageHeader (bs : List Byte) : ImageHeader :=
  { magic := fld bs 0 4, version := fld bs 4 2, entries := fld bs 6 2, benchStatic := fld bs 8 4,
    engOff := fld bs 0x10 8, engLen := fld bs 0x18 8, cobOff := fld bs 0x20 8, cobLen := fld bs 0x28 8 }

/-- The checks of R199 on an image and an entry. -/
def imageOk (h : ImageHeader) (length entry : Nat) : Bool :=
  decide (h.magic = 0x4C515243 ∧ h.version = 1 ∧ entry < h.entries ∧ h.engLen ≤ 1048576
    ∧ h.engOff + h.engLen ≤ length ∧ (h.cobOff = 0 ∨ h.cobOff + h.cobLen ≤ length) ∧ h.benchStatic ≤ 196608)

/-- The engine section offset of an entry's first instruction, and Craquel's bound on a run from it (R194). -/
def entryFirst (s : State) (p off entry : Nat) : BitVec 32 :=
  BitVec.ofNat 32 (leNat (loadBytes s p (off + 0x40 + 8 * entry) 4))
def entryBoundAt (s : State) (p off entry : Nat) : Nat := leNat (loadBytes s p (off + 0x40 + 8 * entry + 4) 4)

/-- Slot 0 of a partition has a Cobbler section (R219). -/
def hasCobbler (s : State) (p : Nat) : Bool :=
  match programAt s p 0 with
  | none => false
  | some (x, _) => let h := imageHeader x.image; decide (h.cobOff ≠ 0 ∧ h.cobLen ≠ 0)

/-! ### Core registers (Table 06-2) -/

def Core.vec (c : Core) (v : Nat) : BitVec 512 :=
  c.vectors.at v ((c.began.map fun k => Config.startVector k v).getD 0)
def Core.setVec (c : Core) (v : Nat) (x : BitVec 512) : Core := { c with vectors := c.vectors.put v x }
def Core.accAt (c : Core) (t r k : Nat) : BitVec 32 :=
  let i := t * 64 + r * 8 + k
  c.acc.at i ((c.began.map fun n => Config.startAcc n i).getD 0)

/-- Element `i` of `w` bits of a vector register. -/
def elem (v : BitVec 512) (w i : Nat) : Nat := bitsOf v.toNat (w * i) w

/-- Pack elements of `w` bits from bit 0. -/
def packElems (w : Nat) : List Nat → Nat
  | [] => 0
  | x :: r => x % 2 ^ w + 2 ^ w * packElems w r

/-! ### Scalar and Branch instructions (Tables 06-2, 06-4) -/

/-- A scalar register; s0 reads as zero. -/
def Core.scalar (c : Core) (r : Nat) : Word :=
  if r = 0 then 0 else c.scalars.at r ((c.began.map fun k => Config.startScalar k r).getD 0)
def Core.setScalar (c : Core) (r : Nat) (v : Word) : Core :=
  if r = 0 then c else { c with scalars := c.scalars.put r v }

/-- The value of an operand of a scalar instruction. -/
def Core.scalarArg (c : Core) : ScalarArg → Word
  | .reg r => c.scalar r.val
  | .imm v => v

/-- The result of a scalar operation; a shift by 64 or more is a free value of its operands. -/
def scalarResult (k : ScalarOp) (a b : Word) : Word :=
  let less := if Config.compareSigned then a.slt b else a.ult b
  match k with
  | .add => a + b
  | .and => a &&& b
  | .or => a ||| b
  | .xor => a ^^^ b
  | .shl => if b.toNat < 64 then a <<< b.toNat else Config.shiftBeyond true a b
  | .shr => if b.toNat < 64 then a >>> b.toNat else Config.shiftBeyond false a b
  | .cmpEq => Config.compareWord (decide (a = b))
  | .cmpLt => Config.compareWord less
  | .cmpLe => Config.compareWord (less || decide (a = b))
  | .mul => a * b

/-- The core goes to an engine section offset, or on to the next 64-bit instruction word (R194). -/
def Core.goTo (c : Core) (taken : Bool) (target : BitVec 32) : Core :=
  { c with pc := if taken then target else c.pc + 8 }

/-- One Scalar or Branch instruction (Table 06-4). -/
def runScalar (c : Core) : ScalarInstr → Core
  | .op k dst a b => (c.setScalar dst.val (scalarResult k (c.scalarArg a) (c.scalarArg b))).goTo false 0
  | .branch cond target => c.goTo ((cond.map fun r => decide (c.scalar r.val ≠ 0)).getD true) target
  | .loop count target =>
    let n := c.scalar count.val - 1
    (c.setScalar count.val n).goTo (decide (n ≠ 0)) target

/-- The core executes: its block runs and has its start grant (R472), the run is in progress, it has
neither ended nor stopped at a barrier or at a wait (R85, R201). -/
def coreRuns (s : State) (b c : Nat) : Bool :=
  let k := s.block b
  decide (k.eng.state = 1 ∧ k.pwr.state = 0) && !k.halted && !k.pwr.startAsked && !(s.core b c).ended && !(s.core b c).atBarrier
    && (s.core b c).wait.isNone

/-- A fault of a core stops the run: the first fault is kept, and every core stops (R201). -/
def coreFault (s : State) (b c : Nat) (code : Byte) : State :=
  let e := (s.block b).eng
  s.setEng b { e with state := 2, faultCore := c, faultAt := (s.core b c).pc, stopCode := code }

/-- Run one instruction of a core that executes, after the scalar instructions before it; any other command
for the core changes nothing. The core goes on to the next instruction unless this one faults. -/
def onCore (s : State) (b c : Nat) (pre : List ScalarInstr) (f : State → Core → State) : State :=
  if coreRuns s b c then
    let k := pre.foldl runScalar (s.core b c)
    let s := f (s.setCore b c k) k
    if (s.block b).eng.state = 1 then s.setCore b c ((s.core b c).goTo false 0) else s
  else s

/-- Run an instruction of a core on a lane or counter that its partition must own (R191, R201). -/
def onOwned (s : State) (b c : Nat) (pre : List ScalarInstr) (owned : Nat → Bool) (f : State → Core → State) : State :=
  onCore s b c pre fun s k => if (s.blockOwner b).any owned then f s k else coreFault s b c 0x0D

/-- Set every core of a block for the start of a run (Table 06-2): s1 takes ENG_ARG, s2 the core number,
the sticky flags clear, and each core starts at the entry's first instruction (R194). What the other registers hold is
not stated, and no trace of an earlier run, as results are the same at each (R215): free values by core and register
(DESIGN CHOICE, notes/assumptions/20.md). -/
def startCores (s : State) (b : Nat) (first : BitVec 32) : State :=
  let arg := (s.block b).eng.arg
  let lo := s.cores.filter fun kv => decide (kv.1 < 1024 * b)
  let hi := s.cores.filter fun kv => decide (1024 * b + 1024 ≤ kv.1)
  let fresh := (List.range 1024).map fun c =>
    (coreKey b c, ({ scalars := [(1, arg), (2, BitVec.ofNat 64 c)], pc := first, began := some c } : Core))
  { s with cores := lo ++ fresh ++ hi }

/-- Every core of a block satisfies a condition. -/
def allCores (s : State) (b : Nat) (f : Core → Bool) : Bool := (List.range 1024).all fun c => f (s.core b c)

/-- A run ends with a code, 0x00 for a clean end: STATE, FAULT_CODE, and the SIGNAL add (R201). -/
def runEnds (s : State) (p b : Nat) (code : Byte) : State :=
  let e := (s.block b).eng
  let s := noteStep ((traceEvent s p .command b 0).setEng b { e with state := if code = 0 then 0 else 3, faultCode := code }) p code
  if e.signal ∧ s.ownsCtr p e.signalCounter then ctrAdd s e.signalCounter 1 (code != 0) else s

/-- Zero the benches of a block: every byte, and the uncorrectable words with them (R463). -/
def zeroBenches (s : State) (b : Nat) : State :=
  let lo := benchKey b 0 0
  let hi := benchKey (b + 1) 0 0
  { s with mem := memZero s.mem lo hi
           badWords := s.badWords.filter fun w => decide (w < lo / 32 ∨ hi / 32 ≤ w) }

/-- Ask the start arbiter to start the stitch cores of a block (R202 step 5, R472). -/
def askStart (s : State) (b : Nat) : State := s.setPwr b { (s.block b).pwr with startAsked := true }

/-- Ask the start arbiter to wake a block that does not run (R463, R472). -/
def wakeBlock (s : State) (b : Nat) : State :=
  let w := (s.block b).pwr
  if w.state = 0 then s else s.setPwr b { w with startAsked := true }

end Sys2Proof.Machine
end

