-- ==== Sys2Proof/Machine/Square.lean ====
section
/-! DEFINITION. The meanings of the remote-line requests at their home: checks, order, Squares, answers
(11 R356, R357, R362 to R366; 05 R157). -/

namespace Sys2Proof.Machine

/-! ### Requests -/

def Req2.hdr : Req2 → XtHdr
  | .read x .. => x
  | .write x .. => x
  | .atomic x .. => x

def Req2.addr : Req2 → Nat
  | .read _ a _ => a.toNat
  | .write _ a .. => a.toNat
  | .atomic _ a .. => a.toNat

def Req2.len : Req2 → Nat
  | .read _ _ n => n
  | .write _ _ n _ => n
  | .atomic _ _ _ n .. => n.toNat

/-- The request is a WRITE, which decrypts nothing. -/
def Req2.isWrite : Req2 → Bool
  | .write .. => true
  | _ => false

/-- The request writes its span. -/
def Req2.writes : Req2 → Bool
  | .read .. => false
  | _ => true

/-- The 64-byte lines of a span of partition `p`, as key / 64. -/
def linesOf (p off len : Nat) : List Nat :=
  let k := memKey p off
  if len = 0 then [] else upFrom (k / 64) ((k + len - 1) / 64 + 1 - k / 64)

/-! ### Checks (R157, R363) -/

/-- Step 1 of R363. -/
def Req2.defined (r : Req2) : Bool :=
  decide (r.addr < 2 ^ 48) && (match r with
    | .read _ _ n => decide (1 ≤ n ∧ n ≤ 256)
    | .write _ _ n _ => decide (1 ≤ n ∧ n ≤ 256)
    | .atomic _ a op n .. => decide (op.toNat ≤ 2 ∧ (n = 4 ∨ n = 8) ∧ a.toNat % n.toNat = 0))

/-- A write of byte `off` into the footprint of a Last is accepted from its holder (R157). -/
def lastByteOk (s : State) (e : DirEntry) (x : XtHdr) (off : Nat) : Bool :=
  let plane := capOf s e.cls * e.unit s
  let pos := (off - e.base) % plane / max 1 (e.unit s)
  decide (e.state = 1 ∧ e.holderDevice = x.device ∧ e.holderPartition = x.srcPart
    ∧ (off - e.base) / max 1 plane < e.layers ∧ e.length ≤ pos)

/-- No byte of a write meets a Last that does not accept it (R157). -/
def lastsAccept (s : State) (p : Nat) (x : XtHdr) (off len : Nat) : Bool :=
  (s.part p).last.dir.all fun kv =>
    let e := kv.2
    let top := e.base + e.size s
    decide (e.state = 0 ∨ e.state = 5 ∨ off + len ≤ e.base ∨ top ≤ off)
      || (List.range len).all fun i => decide (off + i < e.base ∨ top ≤ off + i) || lastByteOk s e x (off + i)

/-- The checks of R363 in order; a write's uncorrectable words are met word by word (R318). -/
def homeCheck (s : State) (r : Req2) : Byte :=
  let x := r.hdr
  let p := x.destPart
  let m := mapCheck s p x.mapEpoch x.device x.srcPart
  if !r.defined then 0x0B
  else if m ≠ 0 then m
  else if !inRange s p (if r.writes then onSledW else onSled) false r.addr r.len then 0x0D
  else if r.writes && !lastsAccept s p x r.addr r.len then 0x0D
  else match r with
    | .write .. => if meetsRetired s p r.addr r.len (fun _ => false) then 5 else 0
    | _ => readCode s p r.addr r.len

/-! ### Answers (R357, R365, Table 11-3) -/

/-- The response packet of a request. -/
def response (x : XtHdr) (op : Nat) (status : Byte) (fields payload : List Byte) : TxPacket :=
  { dest := x.device, cls := 3, op := op, status := status, srcPart := x.destPart, destPart := x.srcPart,
    mapEpoch := x.mapEpoch, psn := x.psn, session := x.session, fields := fields, payload := payload }

/-- Send the data of a READ or the old value of an ATOMIC. -/
def answerData (s : State) (r : Req2) (c : Byte) (data : List Byte) : State :=
  match r with
  | .read x .. =>
    let d := if c = 0 then data else []
    originate s (response x 0x10 c (leBytes 8 0 ++ leBytes 2 d.length) d)
  | .atomic x .. => originate s (response x 0x11 c (leBytes 16 0 ++ padTo 8 (if c = 0 then data else [])) [])
  | .write .. => s

/-- Keep the result of an ATOMIC among the last 64 (R365). -/
def keepAtomic (s : State) (x : XtHdr) (data : List Byte) : State :=
  let p := s.peer x.device
  let l := (p.atomics.filter fun a => decide (a.1 ≠ x.psn)) ++ [(x.psn, BitVec.ofNat 64 (leNat data))]
  s.setPeer x.device { p with atomics := l.drop (l.length - 64) }

/-- A request has been applied whole, or has failed: the answer, and while its session lasts the result kept and the
acknowledgement (R355 to R358, R365). -/
def homeEnd (s : State) (j : HomeJob) : State :=
  let x := j.req.hdr
  let data := (sortOn (·.1) j.got).flatMap (·.2)
  let same := decide ((s.peer x.device).c2.rxSession = x.session)
  let s := match j.req with
    | .atomic .. => if same ∧ j.status = 0 then keepAtomic s x data else s
    | _ => s
  let s := answerData s j.req j.status data
  if same then reportHandled s x 2 j.status j.again else s

/-! ### Applying (R364) -/

/-- The new value of an ATOMIC of `n` bytes (Table 11-3). -/
def atomicNew (op : Byte) (n old operand compare : Nat) : Nat :=
  let m := 2 ^ (8 * n)
  if op = 0 then (old + operand) % m
  else if op = 1 then operand % m
  else if old = compare % m then operand % m else old

/-- The first failure of a request at its lines stands (R364). -/
def HomeJob.fail (j : HomeJob) (c : Byte) : HomeJob := if j.status = 0 then { j with status := c } else j

/-- Apply a request to one of its lines. A word may have been found bad, and a Last may have been released,
since the request was accepted: the line fails then (R157, R175, R318). -/
def applyLine (s : State) (j : HomeJob) (line : Nat) : State × HomeJob :=
  let p := j.req.hdr.destPart
  let base := memKey p 0
  let lo := Nat.max j.req.addr (line * 64 - base)
  let hi := min (j.req.addr + j.req.len) (line * 64 + 64 - base)
  let j := { j with lines := j.lines.filter (· ≠ line) }
  match j.req with
  | .read .. =>
    let r := transferRead s p lo (hi - lo) 0
    if r.1 ≠ 0 then (r.2.2, j.fail r.1) else (s, { j with got := j.got ++ [(lo, r.2.1)] })
  | .write x _ _ bytes =>
    if !lastsAccept s p x lo (hi - lo) then (s, j.fail 0x0D)
    else
      let r := transferWrite s p lo (padTo (hi - lo) (slice bytes (lo - j.req.addr) (hi - lo))) (fun _ => false) 0
      (r.2, j.fail r.1)
  | .atomic _ _ op n operand compare =>
    let r := transferRead s p lo (hi - lo) 0
    if r.1 ≠ 0 then (r.2.2, j.fail r.1)
    else
    let old := loadBytes s p j.req.addr n.toNat
    let v := atomicNew op n.toNat (leNat old) operand.toNat compare.toNat
    (storeRaw s p j.req.addr (leBytes n.toNat v), { j with got := [(0, old)] })

/-- The channel that a line belongs to. -/
def lineChannel (s : State) (line : Nat) : Nat × Nat :=
  let k := line * 64
  let p := k / 2 ^ 48
  (tierOf s p (k % 2 ^ 48), channelOf s p (k % 2 ^ 48))

/-- Put a line into its channel's combining buffer of 64 lines, the oldest of the channel leaving (R362). -/
def addLine (s : State) (line : Nat) : State :=
  let ch := lineChannel s line
  let same := s.fab.lines.filter fun l => decide (lineChannel s l = ch)
  let gone := if same.length < 64 then none else same.head?
  s.modFab fun f => { f with lines := (f.lines.filter fun l => decide (some l ≠ gone)) ++ [line] }

/-- Apply a filled line to the requests that wait for it, in order of arrival (R364, R366). -/
def serveLine (line : Nat) : List HomeJob → State → List HomeJob × State
  | [], s => ([], s)
  | j :: r, s =>
    if j.lines.contains line then
      let q := applyLine s j line
      let rest := serveLine line r (if q.2.lines = [] then homeEnd q.1 q.2 else q.1)
      (if q.2.lines = [] then rest.1 else q.2 :: rest.1, rest.2)
    else
      let rest := serveLine line r s
      (j :: rest.1, rest.2)

/-- A line that some accepted request waits for. -/
def lineWaited (s : State) (line : Nat) : Bool := s.fab.home.any fun j => j.lines.contains line

/-- Fill a line and apply it to the requests that wait for it (R364, R366). -/
def fillLine (s : State) (line : Nat) : State :=
  let s := addLine s line
  let r := serveLine line s.fab.home (s.modFab fun f => { f with home := [] })
  r.2.modFab fun f => { f with home := r.1 ++ f.home }

/-- Fill the waited-for lines that `pick` names, in the order in which requests reached them. -/
def fillWaited (s : State) (pick : Nat → Bool) : State :=
  (((s.fab.home.flatMap (·.lines)).filter pick).foldl (fun s l => if lineWaited s l then fillLine s l else s)) s

/-- What any agent of this module does to the memory of partition `p` follows every request accepted before it for the
same lines (R362, R364): those are applied first. -/
def settlePart (s : State) (p : Nat) : State := fillWaited s fun l => decide (l * 64 / 2 ^ 48 = p)

/-- An access of an agent of this module to a span of partition `p` passes the Squares of its lines, behind the requests
accepted before it, and leaves the lines in their buffers (R362, R364). -/
def passSquares (s : State) (p off len : Nat) : State :=
  if !inRange s p onSled false off len then s
  else
    let ls := linesOf p off len
    ls.foldl (fun s l => if s.fab.lines.contains l then s else addLine s l) (fillWaited s ls.contains)

/-- A read and a write of an agent of this module, through the Squares. -/
def homeRead (s : State) (p off len : Nat) (tag : Word) : Byte × List Byte × State :=
  transferRead (passSquares s p off len) p off len tag

def homeWrite (s : State) (p off : Nat) (bs : List Byte) (covers : Nat → Bool) (tag : Word) : Byte × State :=
  transferWrite (passSquares s p off bs.length) p off bs covers tag

/-- Apply a request to those of its lines that the buffers hold. -/
def applyPresent (s : State) (j : HomeJob) : State × HomeJob :=
  (j.lines.filter fun l => s.fab.lines.contains l).foldl (fun r l => applyLine r.1 r.2 l) (s, j)

/-- Give a request to the home Squares: its checks, then its lines. -/
def toSquares (s : State) (r : Req2) (again : Bool) : State :=
  let c := homeCheck s r
  if c ≠ 0 then
    let s := if c = 4 then badWordFaults s r.hdr.destPart r.addr r.len 0 else s
    homeEnd s { req := r, lines := [], status := c, again := again }
  else
    let q := applyPresent s { req := r, lines := linesOf r.hdr.destPart r.addr r.len,
                              again := again, arrivedAt := s.now
                              gens := if r.isWrite then [] else spanGens s r.hdr.destPart r.addr r.len }
    if q.2.lines = [] then homeEnd q.1 q.2
    else q.1.modFab fun f => { f with home := f.home ++ [q.2] }

/-! ### Order (R356, R357) -/

/-- Give the Squares every request that is next in PSN order. -/
def deliverOrdered (d : Nat) : Nat → State → State
  | 0, s => s
  | fuel + 1, s =>
    let p := s.peer d
    match s.fab.reorder.find? fun r => decide (r.hdr.device = d ∧ r.hdr.psn = p.c2.rxNext) with
    | none => s
    | some r =>
      let s := s.setPeer d { p with c2 := { p.c2 with rxNext := p.c2.rxNext + 1 } }
      let s := s.modFab fun f => { f with
        reorder := f.reorder.filter fun q => !decide (q.hdr.device = d ∧ q.hdr.psn = r.hdr.psn) }
      deliverOrdered d fuel (toSquares s r false)

/-- A request of this PSN and session waits at its Square. -/
def atSquare (s : State) (x : XtHdr) : Bool :=
  s.fab.home.any fun j => decide (j.req.hdr.device = x.device ∧ j.req.hdr.psn = x.psn ∧ j.req.hdr.session = x.session)

/-- A duplicate of a request that has been handled (R357). While an earlier duplicate waits at its Square, whose answer
serves this one too, no further one is given to it (R365). -/
def repeatRequest (s : State) (r : Req2) : State :=
  let x := r.hdr
  let p := s.peer x.device
  if atSquare s x then s
  else if p.c2.failedPsns.contains x.psn then toSquares s r true
  else match r with
    | .read .. => toSquares s r true
    | .write .. => reportHandled s x 2 0 true
    | .atomic .. =>
      let s := match p.atomics.find? fun a => decide (a.1 = x.psn) with
        | none => s
        | some a => answerData s r 0 (leBytes 8 a.2.toNat)
      reportHandled s x 2 0 true

/-- A class-2 request arrives (R354 to R357); a module without a device number is delivered none (R342). One whose original
still waits at its Square is not given to it again. -/
def arrive2 (s : State) (r : Req2) : State :=
  let x := r.hdr
  if s.fab.device = 0xFFFF then s
  else match rxContext s x 2 with
  | none => dropNoPeer s
  | some s =>
    let y := (s.peer x.device).c2
    let held := s.fab.reorder.any fun q => decide (q.hdr.device = x.device ∧ q.hdr.psn = x.psn)
    if psnBefore x.psn y.rxNext then (if y.seen x.psn then repeatRequest s r else s)
    else if x.psn = y.rxNext then
      let s := s.setPeer x.device { s.peer x.device with c2 := { y with rxNext := y.rxNext + 1 } }
      deliverOrdered x.device (s.fab.reorder.length + 1) (toSquares s r false)
    else if held then s
    else if 4096 ≤ s.fab.reorder.length then
      s.modFab fun f => { f with dropReorder := satAdd 0xFFFF f.dropReorder 1 }
    else s.modFab fun f => { f with reorder := f.reorder ++ [r] }

/-- A packet of undefined length is discarded and counted (R352). -/
def dropLength (s : State) : State := s.modFab fun f => { f with dropOp := satAdd 0xFFFF f.dropOp 1 }

/-! ### Meanings -/

/-- READ (R356, R363 to R366). -/
def execRead (x : XtHdr) (addr : Word) (length : Nat) (s : State) : Out :=
  .next (arrive2 s (.read x addr length))

/-- WRITE (R352, R356, R363 to R366, R157). -/
def execWrite (x : XtHdr) (addr : Word) (length : Nat) (bytes : List Byte) (s : State) : Out :=
  .next (if s.fab.device = 0xFFFF then s
    else if bytes.length = length then arrive2 s (.write x addr length bytes) else dropLength s)

/-- ATOMIC (R356, R363 to R366). -/
def execAtomic (x : XtHdr) (addr : Word) (aop size : Byte) (operand compare : Word) (s : State) : Out :=
  .next (arrive2 s (.atomic x addr aop size operand compare))

/-- SQUARE_LINE_FILL (R317, R318, R364, R366): a line that some accepted request waits for. -/
def execSquareLineFill (line : LineRead) (s : State) : Out :=
  let found := line.found
  let line := line.line
  if s.fab.lines.contains line ∨ lineWaited s line = false then .next s
  else
    let k := line * 64
    .next (fillLine (eccMet s (k / 2 ^ 48) (k % 2 ^ 48) 64 found) line)

/-- The Squares accept a further request: what they hold beyond the first is the implementation's (R366). -/
def squaresFull (s : State) : Bool := !decide (s.fab.home.length ≤ Config.squareRoom)

end Sys2Proof.Machine
end

