-- ==== Sys2Proof/Machine/Attn.lean ====
section
/-! DEFINITION. The attention ring of a block and its commands (07 R223 to R235). -/

namespace Sys2Proof.Machine

/-- Decode the 128 bytes of an attention command (Table 07-1). -/
def attnOf (bs : List Byte) : AttnCmd :=
  { opcode := fld bs 0 1, formats := fld bs 1 1, flags := fld bs 2 2, kvHeads := fld bs 4 1
    group := fld bs 5 1, queries := fld bs 8 4, scale := BitVec.ofNat 32 (fld bs 0xC 4)
    query := fld bs 0x10 8, kvBase := fld bs 0x18 8, ring := fld bs 0x20 4, origin := fld bs 0x24 4
    start := fld bs 0x28 4, end_ := fld bs 0x2C 4, qpos := fld bs 0x30 4, outLimit := fld bs 0x34 4
    out := fld bs 0x38 8, inn := fld bs 0x40 8, waitCounter := fld bs 0x48 2
    signalCounter := fld bs 0x4A 2, waitValue := fld bs 0x50 8 % 2 ^ 63
    tag := BitVec.ofNat 64 (fld bs 0x58 8) }

/-! FLAGS of Table 07-2. -/
def AttnCmd.waits (c : AttnCmd) : Bool := c.flags.testBit 0
def AttnCmd.signals (c : AttnCmd) : Bool := c.flags.testBit 1
def AttnCmd.causal (c : AttnCmd) : Bool := c.flags.testBit 3
def AttnCmd.accumulate (c : AttnCmd) : Bool := c.flags.testBit 4
def AttnCmd.final (c : AttnCmd) : Bool := c.flags.testBit 5
def AttnCmd.head (c : AttnCmd) : Nat := bitsOf c.flags 6 2

def AttnCmd.shape (c : AttnCmd) : KvShape :=
  { compact := decide (c.formats = 0x11), heads := c.kvHeads, head := c.head }
/-- Query heads H x G, and the head dimension. -/
def AttnCmd.heads (c : AttnCmd) : Nat := c.kvHeads * c.group
def AttnCmd.dim (c : AttnCmd) : Nat := headDim c.head

/-- Spans of the operands (R229, R230). -/
def AttnCmd.querySpan (c : AttnCmd) : Nat := c.queries * c.heads * 2 * c.dim
def AttnCmd.recordSpan (c : AttnCmd) : Nat := c.queries * recordLen c.dim c.heads
def AttnCmd.outSpan (c : AttnCmd) : Nat := if c.final then c.querySpan else c.recordSpan
def AttnCmd.keySpan (c : AttnCmd) : Nat :=
  (if c.ring ≠ 0 then c.ring else c.end_ - c.origin) * c.shape.unit

/-- Where the unit of a key position lies (R229). -/
def AttnCmd.unitAt (c : AttnCmd) (pos : Nat) : Nat :=
  c.kvBase + (if c.ring ≠ 0 then (pos - c.origin) % c.ring else pos - c.origin) * c.shape.unit

/-- The code with which a command completes at its turn, 0x00 when it may go on (R230). -/
def attnCheck (s : State) (p : Nat) (c : AttnCmd) : Byte :=
  if ¬ (c.opcode = 1 ∧ (c.formats = 0x11 ∨ c.formats = 0x22) ∧ c.head ≠ 3
      ∧ c.flags.testBit 2 = false ∧ bitsOf c.flags 8 8 = 0
      ∧ 1 ≤ c.kvHeads ∧ c.kvHeads ≤ 16 ∧ 1 ≤ c.group ∧ c.group ≤ 16 ∧ c.queries ≤ 4096
      ∧ c.start ≤ c.end_) then 0x0B
  else if !((!c.waits || s.ownsCtr p c.waitCounter) && (!c.signals || s.ownsCtr p c.signalCounter)
      && inRange s p onSled false c.query c.querySpan
      && (!c.accumulate || inRange s p onSled false c.inn c.recordSpan)
      && inRange s p onSledW false c.out c.outSpan
      && inRange s p onSled false c.kvBase c.keySpan) then 0x0D
  else if c.outLimit < c.outSpan ∨ c.start < c.origin ∨ (c.ring ≠ 0 ∧ c.ring < c.end_ - c.start) then 2
  else 0

/-! ### Computing -/

/-- The spans a command reads, in order: queries, IN, the units of its positions. -/
def attnReads (c : AttnCmd) : List (Nat × Nat) :=
  (c.query, c.querySpan) :: (if c.accumulate then [(c.inn, c.recordSpan)] else [])
    ++ (if c.queries = 0 then [] else
      (List.range (c.end_ - c.start)).map fun i => (c.unitAt (c.start + i), c.shape.unit))

/-- The bytes of query head `j` of token `i`. -/
def headBytes (s : State) (p : Nat) (c : AttnCmd) (i j : Nat) : List Byte :=
  loadBytes s p (c.query + (i * c.heads + j) * 2 * c.dim) (2 * c.dim)

/-- Query head `j` of token `i`. -/
def queryHead (s : State) (p : Nat) (c : AttnCmd) (i j : Nat) : List Num :=
  (units 2 c.dim (headBytes s p c i j)).map fun u => bf16Val (leNat u)

/-- What query head `j` of token `i` meets. -/
def attnHead (s : State) (p : Nat) (c : AttnCmd) (i j : Nat) : HeadJob :=
  { shape := c.shape, scale := c.scale, kv := j / c.group, query := queryHead s p c i j
    last := if c.causal then some (c.qpos + i) else none
    unit := fun pos => loadBytes s p (c.unitAt pos) c.shape.unit }

/-- The command's own contribution to query head `j` of token `i`, folded onto the IN partial if there is
one. -/
def ownPartial (s : State) (p : Nat) (c : AttnCmd) (i j : Nat) (first : Option Partial) : Partial :=
  let e := emptyPartial c.dim (headBytes s p c i j)
  (attnHead s p c i j).fold (first.getD e) e c.start c.end_

/-- The IN record's entry for query head `j` of token `i`. -/
def inPartial (s : State) (p : Nat) (c : AttnCmd) (i j : Nat) : Option Partial :=
  if c.accumulate then
    some (recordEntry (loadBytes s p (c.inn + i * recordLen c.dim c.heads) (recordLen c.dim c.heads)) 0 c.dim j)
  else none

/-- Every position of the command is masked for token `i`, or there is none (R556). -/
def ownEmpty (c : AttnCmd) (i : Nat) : Bool :=
  decide (c.start = c.end_) || (c.causal && decide (c.qpos + i < c.start))

/-- START and END of record `i` (R556). -/
def recordRange (s : State) (p : Nat) (c : AttnCmd) (i : Nat) : Nat × Nat :=
  if c.accumulate then
    let h := loadBytes s p (c.inn + i * recordLen c.dim c.heads) 16
    if (fld h 5 1).testBit 0 then (c.start, c.end_)
    else if ownEmpty c i then (fld h 8 4, fld h 12 4)
    else (min c.start (fld h 8 4), max c.end_ (fld h 12 4))
  else (c.start, c.end_)

/-- The output bytes of a command (R229, R239, R242, R556). -/
def attnOutput (s : State) (p : Nat) (c : AttnCmd) : List Byte :=
  (List.range c.queries).flatMap fun i =>
    let ps := (List.range c.heads).map fun j => ownPartial s p c i j (inPartial s p c i j)
    if c.final then ps.flatMap (finalHead c.dim)
    else
      let r := recordRange s p c i
      partialRecord i c.kvHeads c.group c.head r.1 r.2 foldedChunk false ps

/-- The bench bytes that a fused command leaves undefined: 0x2_0000 to 0x2_FFFF of every core (R225). -/
def spoilBenches (s : State) (b : Nat) : State :=
  let n := s.draws
  (List.range 1024).foldl (fun s c =>
    benchSpoil s b c ((List.range 65536).map fun i => Config.freeByte n (65536 * c + i))) s.draw.2
where
  benchSpoil (s : State) (b c : Nat) (bs : List Byte) : State := storeRaw s 0 (benchOff b c 0x2_0000) bs

/-- Read, compute and write: the status of the command and the state after it (R232); `found` is what the
words it reads were found to hold. A failed command's OUT span holds free bytes. Its accesses follow every remote request
accepted before (R364). -/
def attnCompute (s : State) (p : Nat) (c : AttnCmd) (found : Found) : Byte × State :=
  let s := settlePart s p
  let n := s.draws
  let s := eccMetIn s p (attnReads c) found
  match (attnReads c).find? fun x => decide (readCode s p x.1 x.2 ≠ 0) with
  | some x =>
    let r := transferRead s.draw.2 p x.1 x.2 c.tag
    (r.1, (transferWrite r.2.2 p c.out ((List.range c.outSpan).map (Config.freeByte n)) (fun _ => false) c.tag).2)
  | none => transferWrite s.draw.2 p c.out (attnOutput s p c) (fun _ => false) c.tag

/-! ### Turns -/

/-- A command completes: ATTN_DONE, LAST_FAIL and ATTN_FAIL_TAG, then the SIGNAL add (R232). -/
def attnComplete (s : State) (b p : Nat) (j : AttnJob) : State :=
  let a := (s.block b).attn
  let bad := j.status != 0
  let s := (traceEvent s p .command b j.index.toNat).setAttn b { a with
    done := satAdd (2 ^ 64 - 1) a.done 1
    lastFail := if bad then j.status else a.lastFail
    failTag := if bad then j.cmd.tag else a.failTag }
  let s := noteStep s p j.status
  if j.cmd.signals ∧ s.ownsCtr p j.cmd.signalCounter then ctrAdd s j.cmd.signalCounter 1 bad else s

/-- An entry that cannot be read is consumed (R92). -/
def attnUnreadable (s : State) (b : Nat) (c : Byte) : State :=
  let a := (s.block b).attn
  s.setAttn b { a with head := a.head + 1, done := satAdd (2 ^ 64 - 1) a.done 1, lastFail := c }

/-- The block computes with its stitch cores (R223). -/
def fusedAt (s : State) (p : Nat) : Bool := !(s.part p).insole

/-- Start a command whose checks have passed, or leave it waiting: on its counter, then on its block's
wake (R463), then, when fused, on the engine run in progress (R225). The wait on the counter ends once: FAULT
counts at the moment of that release (R85, R227). -/
def attnStart (s : State) (b p : Nat) (j : AttnJob) (found : Found) : State :=
  let hold := fun (s : State) (j : AttnJob) => s.setAttn b { (s.block b).attn with waiting := some j }
  let c := j.cmd
  let waits := c.waits && !j.released
  let j' := { j with released := true }
  if blockSuspect s b then attnComplete s b p { j with status := 8 }
  else if waits ∧ !ctrMet s c.waitCounter c.waitValue then hold s j
  else if waits ∧ (s.counter c.waitCounter).fault then attnComplete s b p { j with status := 8 }
  else if (s.block b).pwr.state ≠ 0 then hold (wakeBlock s b) j'
  else if fusedAt s p ∧ (s.block b).eng.state ≠ 0 ∧ (s.block b).eng.state ≠ 3 then hold s j'
  else
    let r := if c.queries = 0 then (0, s) else attnCompute s p c found
    let gens := if c.queries = 0 then [] else ((attnReads c).flatMap fun x => spanGens s p x.1 x.2).eraseDups
    let s := if fusedAt s p then spoilBenches r.2 b else r.2
    let a := (s.block b).attn
    s.setAttn b { a with jobs := a.jobs ++ [{ j' with status := r.1, gens := gens }] }

/-- The partition whose attention commands block `b` runs. -/
def attnPart (s : State) (b : Nat) : Option Nat :=
  match s.blockOwner b with
  | none => none
  | some p => if s.code p = 5 ∧ (s.regs.state = 5 ∨ s.regs.state = 7) then some p else none

/-- The command that waits, or the one at the head of the ring, has its turn (R227, R230). -/
def attnTurn (s : State) (b p : Nat) (found : Found) : State :=
  let a := (s.block b).attn
  if 4 ≤ a.jobs.length ∨ (s.block b).halted then s
  else match a.waiting with
    | some j => attnStart (s.setAttn b { a with waiting := none }) b p j found
    | none =>
      if a.head = a.tail then s
      else
        let s := settlePart s p
        let r := ringRead s p a.base a.size 128 a.head
        if r.1 ≠ 0 then attnUnreadable r.2.2 b r.1
        else
          let j : AttnJob := { index := a.head, cmd := attnOf r.2.1 }
          let s := s.setAttn b { a with head := a.head + 1 }
          let c := attnCheck s p j.cmd
          if c ≠ 0 then attnComplete s b p { j with status := c } else attnStart s b p j found

/-- A command in progress ends: after a fused one the benches' top bytes are undefined, whatever was moved
into them while it ran (R225). -/
def attnEnds (s : State) (b p : Nat) (j : AttnJob) : State :=
  attnComplete (if fusedAt s p then spoilBenches s b else s) b p j

/-- Complete with a code every command in progress or waiting (R500). -/
def attnKillAll (s : State) (b p : Nat) (c : Byte) : State :=
  let a := (s.block b).attn
  let all := a.jobs ++ a.waiting.toList
  let s := s.setAttn b { a with jobs := [], waiting := none }
  let s := if fusedAt s p ∧ a.jobs ≠ [] then spoilBenches s b else s
  all.foldl (fun s j => attnComplete s b p { j with status := if j.status = 0 then c else j.status }) s

/-- Complete with a code every command handed over and not yet read, in ring order. -/
def attnFlushRing (b p : Nat) (c : Byte) : Nat → State → State
  | 0, s => s
  | fuel + 1, s =>
    let a := (s.block b).attn
    if a.head = a.tail then s
    else
      let r := ringRead s p a.base a.size 128 a.head
      let s := if r.1 ≠ 0 then attnUnreadable r.2.2 b r.1
        else attnComplete (s.setAttn b { a with head := a.head + 1 }) b p
          { index := a.head, cmd := attnOf r.2.1, status := c }
      attnFlushRing b p c fuel s

/-- Complete with a code every command that has not started (R235). -/
def attnFlushAll (s : State) (b p : Nat) (c : Byte) : State :=
  let a := (s.block b).attn
  let s := match a.waiting with
    | none => s
    | some j => attnComplete (s.setAttn b { a with waiting := none }) b p { j with status := c }
  attnFlushRing b p c (dist32 a.tail a.head) s

/-- Write ATTN_TAIL (R90, R227). -/
def attnSetTail (s : State) (b : Nat) (t : BitVec 32) : State :=
  let a := (s.block b).attn
  s.setAttn b (if ringOverfull t a.head a.size then { a with tailError := true } else { a with tail := t })

/-! ### Meanings -/

/-- ATTN_TAIL_WRITE (R90, R227). -/
def execAttnTailWrite (src : Src) (b : Blk) (value : Word) (s : State) : Out :=
  .next (blockWrite s src b.val 0x1_8010 fun s => attnSetTail s b.val (value.setWidth 32))

/-- ATTEND (R227 to R232). -/
def execAttend (b : BlkRead) (s : State) : Out :=
  match attnPart s b.b.val with
  | none => .next s
  | some p => .next (attnTurn s b.b.val p b.found)

/-- ATTEND_COMPLETE (R232): a command in progress completes. -/
def execAttendComplete (b : Blk) (index : BitVec 32) (s : State) : Out :=
  let a := (s.block b.val).attn
  match attnPart s b.val, a.jobs.find? fun j => decide (j.index = index) with
  | some p, some j =>
    .next (attnEnds (s.setAttn b.val { a with jobs := a.jobs.filter fun x => decide (x.index ≠ index) })
      b.val p j)
  | _, _ => .next s

/-- ATTN_FLUSH (R235). -/
def execAttnFlush (src : Src) (b : Blk) (value : Word) (s : State) : Out :=
  .next (blockWrite s src b.val 0x1_8028 fun s =>
    match s.blockOwner b.val with
    | none => s
    | some p => if value.toNat.testBit 0 then attnFlushAll s b.val p 8 else s)

end Sys2Proof.Machine
end

