-- ==== Sys2Proof/Machine/Lasts.lean ====
section
/-! DEFINITION. The meanings of the Last service's commands at a cache partition: OPEN, COMMIT, RELEASE,
TRANSFER, GROW, and the copies, moves and aging of Lasts (04 R123 to R133, 05 R154 to R177, R185, R186, 09
R310 to R313). -/

namespace Sys2Proof.Machine

/-! ### Shapes and entries -/

/-- The shape that VALUE of an OPEN carries: LAYERS, H, HEAD code, model; none where it is undefined
(R120). -/
def shapeOf (v : Word) : Option (Nat × Nat × Nat × Nat) :=
  let n := v.toNat
  let layers := bitsOf n 0 8
  let h := bitsOf n 8 8
  let d := bitsOf n 16 2
  if 1 ≤ layers ∧ 1 ≤ h ∧ h ≤ 16 ∧ d ≠ 3 ∧ bitsOf n 18 6 = 0 ∧ bitsOf n 32 32 = 0 then
    some (layers, h, d, bitsOf n 24 8)
  else none

/-- The entry has the shape that an OPEN carries. -/
def sameShape (e : DirEntry) (v : Word) : Bool :=
  match shapeOf v with
  | none => false
  | some (l, h, d, _) => decide (e.layers = l ∧ e.kvHeads = h ∧ e.head = d)

/-- The entry a handle names is there: REUSE equal, not free, not STATE 5 (R118, R185). -/
def liveHandle (s : State) (p : Nat) (h : Word) : Bool :=
  let e := dirAt s p (handleSlot h)
  decide (e.state ≠ 0 ∧ e.state ≠ 5 ∧ e.reuse = handleReuse h)

/-- The sender of a request is the holder that the entry names. -/
def fromHolder (e : DirEntry) (h : SvcHdr) : Bool :=
  decide ((e.state = 1 ∨ e.state = 3 ∨ e.state = 4) ∧ e.holderDevice = h.fromDevice
    ∧ e.holderPartition = h.fromPartition ∧ e.holderTag = h.tag)

/-- The holder an entry names. -/
def holderOf (e : DirEntry) : Word := holderValue e.holderDevice e.holderPartition

/-- The remote-line address of an offset of partition `p` (R349). -/
def lineAddress (p off : Nat) : Word := BitVec.ofNat 64 (p * 2 ^ 48 + off)

/-! ### Granting (R154 to R156) -/

/-- Step 9: name the holder and send the GRANT; `mirror` is the mirror's BASE as its grant gave it. -/
def openGrant (s : State) (p n : Nat) (h : SvcHdr) (mirror : Word) : State :=
  let e := dirAt s p n
  let dev := if h.partner then bitsOf h.handle2.toNat 0 16 else h.fromDevice
  let part := if h.partner then bitsOf h.handle2.toNat 16 8 else h.fromPartition
  let m := mirrorHandle s p n e.reuse
  let e := { e with state := 1, holderTag := h.tag, holderDevice := dev, holderPartition := part, partner := m }
  let s := setDir s p n e
  let r := { replyHdr s p h 0 with
    handle := ownHandle s p n, handle2 := if h.partner then allOnes64 else m, posA := e.length
    posB := capOf s e.cls, value := lineAddress p e.base }
  svcReply s p h r (leBytes 8 mirror.toNat)

/-- Ask the partner for its grant of slot `n` under OPEN `h` (R154 step 8). -/
def askPartner (s : State) (p n reuse : Nat) (h : SvcHdr) (q : Nat × Nat) : State :=
  let r := { requestHdr s p 1 h.tag (mkHandle q.1 q.2 reuse n) with
    partner := true, handle2 := holderValue h.fromDevice h.fromPartition, posA := h.posA, value := h.value }
  let x := svcSend s p q.1 q.2 r []
  x.2.modPLast p fun l => { l with partnerOpens := l.partnerOpens.put x.1 (n, h) }

/-- Steps 8 and 9 of R154; the copy of a partner first takes the positions it lacks of `peer` (R155). -/
def openStep8 (s : State) (p n : Nat) (h : SvcHdr) (peer : Nat) : State :=
  match (if h.partner then none else partnerOf s p) with
  | none => openGrant (levelTo s p n peer) p n h allOnes64
  | some q => askPartner s p n (dirAt s p n).reuse h q

/-- Start a growth of slot `n` for OPEN or GROW `h` so that it covers `need` positions; the code when no
run fits or no class is large enough (R128, R129, R131). -/
def startGrowth (s : State) (p n need kind : Nat) (h : SvcHdr) (peer : Nat) (left : Nat × Nat) : State × Option Byte :=
  let e := dirAt s p n
  match classFor s need with
  | none => (s, some 2)
  | some c =>
    let size := footprint s c e.layers e.kvHeads e.head
    match seekRoom s p { hbm := decide (e.tier = 1), ddr := true, ddrMoves := true } size left (some n) with
    | .none => (s, some 0x0B)
    | .move t m b => (waitForRoom s p h (.grow n need kind) peer left t m b, none)
    | .found tier base =>
      (putJob (setDir s p n { e with state := 3 }) p n
        { kind := kind, newBase := base, newCls := c, newTier := tier, size := size, waiting := some h, peer := peer },
        none)

/-- Step 7: grow when LENGTH + POS_A exceeds the class capacity. -/
def openStep7 (s : State) (p n : Nat) (h : SvcHdr) (left : Nat × Nat) (peer : Nat) : State × Option Byte :=
  let e := dirAt s p n
  let need := max e.length peer + h.posA
  if capOf s e.cls < need then startGrowth s p n need 1 h peer left
  else (openStep8 s p n h peer, none)

/-- Step 6: promote a Last that is not in HBM (R156). Idle Lasts move from HBM to make room, and none from
DDR5 (R311). -/
def openStep6 (s : State) (p n : Nat) (h : SvcHdr) (left : Nat × Nat) (peer : Nat) : State × Option Byte :=
  let e := dirAt s p n
  if e.state = 5 then (s, some 0x0C)
  else if e.tier = 1 then openStep7 s p n h left peer
  else match seekRoom s p { hbm := true, ddr := decide (e.tier = 4), ddrMoves := false } (e.size s) left (some n) with
    | .move t m b => (waitForRoom s p h (.promote n) peer left t m b, none)
    | .none => if e.tier = 4 then (s, some 0x0B) else openStep7 s p n h left peer
    | .found tier base =>
      let s := putJob (setDir s p n { e with state := 4 }) p n
        { kind := 2, newBase := base, newCls := e.cls, newTier := tier, size := e.size s, waiting := some h, peer := peer }
      (if e.tier = 4 then lastNvme s p n e.base else s, none)

/-- Factor 2 is kept and the partner is lost (R153, R154 step 4). -/
def lonely (s : State) (p : Nat) : Bool := (partnerOf s p).isSome && (s.part p).last.partnerLost

/-- Ask the partner whether it holds slot `n` with this REUSE, these heads and at least `length` positions, without
changing anything there: a forwarded QUERY of no queries on a layer (R245). The spec does not say how a member learns
what its partner holds (DESIGN CHOICE, notes/assumptions/28.md). -/
def probe (s : State) (p n : Nat) (tag : BitVec 48) (reuse layer length heads head : Nat) (q : Nat × Nat) : Nat × State :=
  let r := { requestHdr s p 5 tag (mkHandle q.1 q.2 reuse n) with posA := layer, posB := length }
  svcSend s p q.1 q.2 r (leBytes 1 heads ++ leBytes 1 1 ++ leBytes 1 head ++ leBytes 1 1 ++ leBytes 60 0)

/-- Ask the partner for the Last that OPEN `h` names (R185). -/
def probePartner (s : State) (p n : Nat) (h : SvcHdr) (q : Nat × Nat) (sh : Nat × Nat × Nat × Nat) : State :=
  let x := probe s p n h.tag (handleReuse h.handle) 0 0 sh.2.1 sh.2.2.1 q
  x.2.modPLast p fun l => { l with partnerOpens := l.partnerOpens.put x.1 (n, h) }

/-- An OPEN on a STATE 5 entry: what the partner holds decides (R185). A shape that is not defined changes
nothing (R120). -/
def openLost (s : State) (p n : Nat) (h : SvcHdr) : State × Option Byte :=
  match shapeOf h.value, partnerOf s p with
  | none, _ => (s, some 0x0B)
  | _, none => (s, some 0x0C)
  | some sh, some q =>
    if lonely s p then (s, some 0x0C)
    else
      let j : LastJob := { kind := 5, newBase := 0, newCls := 0, newTier := 0, size := 0, waiting := some h }
      (probePartner (putJob s p n j) p n h q sh, none)

/-- An OPEN whose turn has come goes on at step 6 with the Last that the slot holds by then: a lost one is asked for
first, and another one than it names, or one of another shape, ends it (R118, R120, R185). -/
def openResume (s : State) (p n : Nat) (h : SvcHdr) : State × Option Byte :=
  let e := dirAt s p n
  if e.state = 5 then openLost s p n h
  else if e.state = 0 ∨ e.reuse ≠ handleReuse h.handle then (s, some 0x0C)
  else if !sameShape e h.value then (s, some 0x0B)
  else openStep6 s p n h roomMoves 0

/-- The first OPEN that waits for slot `n`, taken out of its queue. -/
def popWaiting (s : State) (p n : Nat) : Option (SvcHdr × State) :=
  match (s.part p).last.waiting.at n [] with
  | [] => none
  | h :: r =>
    let s := s.modPLast p fun l => { l with waiting := if r = [] then l.waiting.del n else l.waiting.put n r }
    some (h, modDir s p n fun e => { e with waiters := r.length })

/-- Nobody holds slot `n`: STATE 2 from now on (R175); a lost Last stays lost. -/
def makeIdle (s : State) (p n : Nat) : State :=
  modDir s p n fun e => { e with
    state := if e.state = 5 then 5 else 2
    holderTag := 0, holderDevice := 0, holderPartition := 0
    idleSince := if e.state = 5 then e.idleSince else s.now }

/-- End an OPEN that has reached a code, leaving no holder behind, and let the next one go on; `fuel`
bounds how many waiting OPENs may end in turn (R154). -/
def openFail : Nat → State → Nat → Nat → SvcHdr → Byte → State
  | fuel, s, p, n, h, c =>
    let s := svcCode s p h c
    if isAllocation h.handle then freeLast s p n
    else match fuel with
      | 0 => makeIdle s p n
      | fuel + 1 =>
        match popWaiting s p n with
        | none => makeIdle s p n
        | some (h', s) =>
          match openResume s p n h' with
          | (s, none) => s
          | (s, some c) => openFail fuel s p n h' c

/-- OPENs that wait for slot `n`. -/
def waitersOf (s : State) (p n : Nat) : Nat := ((s.part p).last.waiting.at n []).length

/-- End an OPEN with a code. -/
def openEnds (s : State) (p n : Nat) (h : SvcHdr) (c : Byte) : State := openFail (waitersOf s p n) s p n h c

/-- Carry on with an OPEN whose step has answered. -/
def openWith (p n : Nat) (h : SvcHdr) (r : State × Option Byte) : State :=
  match r.2 with
  | none => r.1
  | some c => openEnds r.1 p n h c

/-- The Last of slot `n` is released: to the first OPEN that waits, or to nobody (R175). -/
def passOn (s : State) (p n : Nat) : State :=
  match popWaiting s p n with
  | none => makeIdle s p n
  | some (h, s) => openWith p n h (openResume s p n h)

/-- Queue an OPEN on slot `n` (step 5). -/
def queueOpen (s : State) (p n : Nat) (h : SvcHdr) : State :=
  let q := (s.part p).last.waiting.at n [] ++ [h]
  let s := s.modPLast p fun l => { l with waiting := l.waiting.put n q }
  modDir s p n fun e => { e with waiters := q.length }

/-- Give up a downward move; the source stays (R312). -/
def abandonMove (s : State) (p n : Nat) : State :=
  modDir (endJob s p n) p n fun e => { e with state := 2 }

/-- Make the entry of a new Last: shape, class, place, LENGTH 0 (R127). -/
def newLast (s : State) (p n reuse cls tier base : Nat) (shape : Nat × Nat × Nat × Nat) : State :=
  setDir s p n
    { state := 2, cls := cls, tier := tier, isMirror := mirrorHere s p n, reuse := reuse, base := base
      waiters := waitersOf s p n, idleSince := s.now, layers := shape.1, kvHeads := shape.2.1, head := shape.2.2.1
      model := shape.2.2.2, partner := mirrorHandle s p n reuse }

/-- What an allocation may take (R126, R311). -/
def allocAsk : RoomAsk := { hbm := true, ddr := true, ddrMoves := true }

/-- Steps 1 to 5 of R154 for an allocation. A Last that is allocated in DDR5 has just found no room in HBM, so
step 6 is done with it. -/
def openNew (s : State) (p count : Nat) (h : SvcHdr) (left : Nat × Nat) : State :=
  if lMax s < h.posA then svcCode s p h 2
  else match shapeOf h.value, freeSlot s p count, classFor s h.posA with
    | some sh, some n, some c =>
      match seekRoom s p allocAsk (footprint s c sh.1 sh.2.1 sh.2.2.1) left none with
      | .none => svcCode s p h 0x0B
      | .move t m b => waitForRoom s p h .alloc 0 left t m b
      | .found tier base =>
        let s := newLast s p n (dirAt s p n).reuse c tier base sh
        if lonely s p then openEnds s p n h 3 else openWith p n h (openStep7 s p n h left 0)
    | _, _, _ => svcCode s p h 0x0B

/-- VALUE of an OPEN for the shape of an entry (R120). -/
def heldShape (e : DirEntry) : Word :=
  BitVec.ofNat 64 (e.layers + e.kvHeads * 2 ^ 8 + e.head * 2 ^ 16 + e.model * 2 ^ 24)

/-- The requests under way on slot `n` or waiting for it, each with LENGTH of its sender's copy, and the state
without them and without the slot's copy. -/
def takeOpens (s : State) (p n : Nat) : List (SvcHdr × Nat) × State :=
  let l := (s.part p).last
  let opens := (match l.jobs.find n with | some j => j.waiting.toList.map (fun h => (h, j.peer)) | none => [])
    ++ (l.partnerOpens.filter fun kv => decide (kv.2.1 = n)).map (fun kv => (kv.2.2, 0))
    ++ (l.room.filter fun w => decide (w.what.slot = some n)).map (fun w => (w.h, w.peer))
    ++ (l.waiting.at n []).map (fun h => (h, 0))
  (opens.eraseDups, (endJob s p n).modPLast p fun l => { l with
    waiting := l.waiting.del n
    partnerOpens := l.partnerOpens.filter fun kv => decide (kv.2.1 ≠ n)
    room := l.room.filter fun w => decide (w.what.slot ≠ some n) })

/-- Another Last takes slot `n`: the OPENs here that name its REUSE wait for it, the others end with 0x0C (R118). -/
def dropOpens (s : State) (p n reuse : Nat) : State :=
  let x := takeOpens s p n
  x.1.foldl (fun s o =>
    if handleReuse o.1.handle = reuse ∧ !o.1.partner ∧ !isAllocation o.1.handle then queueOpen s p n o.1
    else svcCode s p o.1 0x0C) x.2

/-- The GROWs of slot `n` not yet answered: waiting for a growth to end, for room, or under way. -/
def openGrows (s : State) (p n : Nat) : List SvcHdr :=
  let l := (s.part p).last
  l.heldGrows.at n []
    ++ (l.room.filter fun w => match w.what with | .grow k _ 0 => decide (k = n) | _ => false).map (·.h)
    ++ (match l.jobs.find n with | some j => if j.kind = 0 then j.waiting.toList else [] | none => [])

/-- The answer to a COMMIT: POS_A is LENGTH after it. -/
def commitAnswer (s : State) (p n : Nat) (h : SvcHdr) (c : Byte) : State :=
  svcReply s p h { replyHdr s p h c with posA := (dirAt s p n).length } []

/-- Answer every held COMMIT, and every GROW still under way, with a code (R175, R185). -/
def dropHeld (s : State) (p n : Nat) (c : Byte) : State :=
  let held := (s.part p).last.heldCommits.at n []
  let grows := openGrows s p n
  let s := held.foldl (fun s h => commitAnswer s p n h c) s
  let s := grows.foldl (fun s h => svcCode s p h c) s
  s.modPLast p fun l => { l with
    heldCommits := l.heldCommits.del n
    heldGrows := l.heldGrows.del n
    room := l.room.filter fun w => match w.what with | .grow k _ 0 => decide (k ≠ n) | _ => true
    jobs := match l.jobs.find n with | some j => if j.kind = 0 then l.jobs.del n else l.jobs | none => l.jobs }

/-- The partner's copy of slot `n` cannot be made: what waits for it ends as well (R155). -/
def partnerRefused (s : State) (p n : Nat) (h : SvcHdr) (c : Byte) : State :=
  (takeOpens s p n).1.foldl (fun s o => svcCode s p o.1 0x0C) (svcCode (takeOpens s p n).2 p h c)

/-- Take over or make the partner's copy of slot `n` (R155); `peer` is LENGTH of the sender's copy. -/
def partnerSlot (s : State) (p n count : Nat) (h : SvcHdr) (peer : Nat) (left : Nat × Nat) : State :=
  let e := dirAt s p n
  if count ≤ n then svcCode s p h 0x0B
  else match shapeOf h.value with
    | none => svcCode s p h 0x0B
    | some sh =>
      if e.state = 3 ∨ e.state = 4 then
        s.modPLast p fun l => { l with partnerWaiting := l.partnerWaiting.put n (l.partnerWaiting.at n [] ++ [(h, peer)]) }
      else if e.state ≠ 0 ∧ e.state ≠ 5 ∧ e.reuse = handleReuse h.handle then
        if !sameShape e h.value then svcCode s p h 0x0B
        else openWith p n h (openStep6 s p n h left peer)
      else
        let s := if e.state = 0 then s
          else freeLast (dropOpens (dropHeld s p n 0x0C) p n (handleReuse h.handle)) p n
        match classFor s (peer + h.posA) with
        | none => partnerRefused s p n h 2
        | some c =>
          match seekRoom s p allocAsk (footprint s c sh.1 sh.2.1 sh.2.2.1) left none with
          | .none => partnerRefused s p n h 0x0B
          | .move t m b => waitForRoom s p h (.partner n) peer left t m b
          | .found tier base =>
            openWith p n h (openStep7 (newLast s p n (handleReuse h.handle) c tier base sh) p n h left peer)

/-- The copy of a STATE 5 entry is made from the partner's: REUSE, LENGTH, CLASS and every position; then R154
goes on from step 3 (R185). -/
def recoverLast (s : State) (p n : Nat) (h : SvcHdr) (reuse cls length : Nat) (left : Nat × Nat) : State :=
  match shapeOf h.value with
  | none => openEnds s p n h 0x0B
  | some sh =>
    match seekRoom s p allocAsk (footprint s cls sh.1 sh.2.1 sh.2.2.1) left (some n) with
    | .none => openEnds s p n h 0x0B
    | .move t m b => waitForRoom s p h (.recover n reuse cls length) 0 left t m b
    | .found tier base =>
      let s := levelTo (newLast s p n reuse cls tier base sh) p n length
      if lMax s < length + h.posA then openEnds s p n h 2 else openWith p n h (openStep7 s p n h left 0)

/-- A rebuild of the partner begins again at slot 0 (R186). -/
def PLast.rebuildAgain (l : PLast) (epoch : Nat) : PLast :=
  { l with rebuildOn := false, rebuildNext := 0, rebuildEpoch := epoch, rebuilding := [], brought := [], bringUps := [] }

/-- What has been brought up belongs to the map epoch of now (R186). -/
def rebuildNow (s : State) (p : Nat) : State :=
  let ep := stampEpoch s p
  if (s.part p).last.rebuildEpoch = ep then s else s.modPLast p fun l => l.rebuildAgain ep

/-- OPEN with PARTNER set at partition `p` (R155). A slot that the partner opens here is brought up (R186). -/
def serveOpenPartner (p : Nat) (h : SvcHdr) (senderLength : Nat) (s : State) : State :=
  svcReceive s p h 1 (isCache s p) fun s =>
    match directory s p with
    | none => svcCode s p h 0x0B
    | some (count, _) =>
      let n := handleSlot h.handle
      let s := (rebuildNow s p).modPLast p fun l => { l with brought := if l.brought.contains n then l.brought else n :: l.brought }
      partnerSlot s p n count h senderLength roomMoves

/-- OPEN_PARTNER (R155). `senderLength` is the LENGTH of the sender's copy, which the copies compare. -/
def execOpenPartner (p : Part) (h : SvcHdr) (senderLength : Nat) (s : State) : Out :=
  .next (if h.partner then serveOpenPartner p.val h senderLength s else s)

/-- The partner has answered whether it holds the Last that OPEN `h` on a STATE 5 entry names (R185). -/
def probeAnswered (s : State) (p n : Nat) (h : SvcHdr) (c : Byte) : State :=
  let s := endJob s p n
  match partnerOf s p with
  | none => openEnds s p n h 0x0C
  | some q =>
    if c = 0 then
      let j : LastJob := { kind := 4, newBase := 0, newCls := 0, newTier := 0, size := 0, waiting := some h }
      askPartner (putJob s p n j) p n (handleReuse h.handle) h q
    else openEnds s p n h (if c = 0x0B then 0x0B else 0x0C)

/-- The partner's GRANT to OPEN `h` on slot `n`: the copies take missing positions from one another, and the
OPEN is granted; on a STATE 5 entry the partner's copy is taken whole (R154 step 8, R155, R185). A refusal ends
the OPEN with the partner's code; a STATE 5 entry whose partner is lost cannot be recovered (R154 step 2). -/
def partnerGrant (s : State) (p n : Nat) (h r : SvcHdr) (c : Byte) : State :=
  match (s.part p).last.jobs.find n with
  | some _ =>
    let s := endJob s p n
    if c ≠ 0 then openEnds s p n h (if c = 3 then 0x0C else c)
    else match classFor s r.posB with
      | none => openEnds s p n h 0x0C
      | some cls => recoverLast s p n h (handleReuse r.handle) cls r.posA roomMoves
  | none =>
    let e := dirAt s p n
    if c ≠ 0 then openEnds s p n h c
    else
      let need := max e.length r.posA + h.posA
      if capOf s e.cls < need then openWith p n h (startGrowth s p n need 1 h 0 roomMoves)
      else openGrant (levelTo s p n r.posA) p n h r.value

/-! ### COMMIT (R160) -/

/-- The reply to a COMMIT, or none while it is held. -/
def commitTry (s : State) (p n : Nat) (h : SvcHdr) : Option State :=
  let e := dirAt s p n
  if e.state = 3 ∨ e.state = 4 then none
  else if capOf s e.cls < h.posB then some (commitAnswer s p n h 2)
  else if h.posB ≤ e.length then some (commitAnswer s p n h 0)
  else if h.posA ≤ e.length then some (commitAnswer (setDir s p n { e with length := h.posB }) p n h 0)
  else none

/-- COMMITs held because their FROM lies above LENGTH. -/
def heldAbove (s : State) (p n : Nat) : Nat :=
  (((s.part p).last.heldCommits.at n []).filter fun h => decide ((dirAt s p n).length < h.posA)).length

/-- The partner being rebuilt gets slot `n` by an OPEN with PARTNER set (R155, R186). -/
def sendBringUp (s : State) (p n : Nat) (tag : BitVec 48) (holder : Word) (q : Nat × Nat) : State :=
  let e := dirAt s p n
  let r := { requestHdr s p 1 tag (mkHandle q.1 q.2 e.reuse n) with
    partner := true, handle2 := holder, value := heldShape e }
  let x := svcSend s p q.1 q.2 r []
  x.2.modPLast p fun l => { l with bringUps := l.bringUps.put x.1 n }

/-- A rebuild of the partner is under way in the present map (R186). -/
def rebuildRuns (s : State) (p : Nat) : Bool :=
  let l := (s.part p).last
  decide (l.rebuildEpoch = stampEpoch s p) && l.rebuildOn && !l.partnerLost

/-- A slot in STATE 1 is brought up in the partner being rebuilt at its next COMMIT (R186). -/
def bringUp (s : State) (p n : Nat) : State :=
  let l := (s.part p).last
  let e := dirAt s p n
  match partnerOf s p with
  | none => s
  | some q =>
    if rebuildRuns s p ∧ e.state = 1 ∧ !l.brought.contains n then
      sendBringUp (s.modPLast p fun l => { l with brought := n :: l.brought }) p n e.holderTag (holderOf e) q
    else s

/-- COMMIT at partition `p`. While the Last grows or moves every COMMIT waits; else a fifth above LENGTH is
refused. -/
def serveCommit (p : Nat) (h : SvcHdr) (s : State) : State :=
  svcReceive s p h 2 (isCache s p) fun s =>
    let n := handleSlot h.handle
    let e := dirAt s p n
    if !liveHandle s p h.handle then svcCode s p h 0x0C
    else if !fromHolder e h then commitAnswer s p n h 0x0D
    else match commitTry s p n h with
      | some s => bringUp s p n
      | none =>
        if ¬ (e.state = 3 ∨ e.state = 4) ∧ 4 ≤ heldAbove s p n then commitAnswer s p n h 0x0B
        else s.modPLast p fun l => { l with heldCommits := l.heldCommits.put n (l.heldCommits.at n [] ++ [h]) }

/-- COMMIT. -/
def execCommit (p : Part) (h : SvcHdr) (s : State) : Out := .next (serveCommit p.val h s)

/-- Handle the held COMMITs of a slot again, in arrival order; `kept` are held on, of which a fifth above
LENGTH is refused once the entry is STATE 1 (R160). -/
def resumeCommits (p n : Nat) : List SvcHdr → List SvcHdr → State → List SvcHdr × State
  | [], kept, s => (kept, s)
  | h :: r, kept, s =>
    let e := dirAt s p n
    match commitTry s p n h with
    | some s => resumeCommits p n r kept s
    | none =>
      if ¬ (e.state = 3 ∨ e.state = 4) ∧ 4 ≤ (kept.filter fun k => decide (e.length < k.posA)).length then
        resumeCommits p n r kept (commitAnswer s p n h 0x0B)
      else resumeCommits p n r (kept ++ [h]) s

/-- COMMIT_HELD_RESUME. -/
def execCommitHeldResume (p : Part) (slot : Nat) (s : State) : Out :=
  let x := resumeCommits p.val slot ((s.part p.val).last.heldCommits.at slot []) [] s
  .next (if ((s.part p.val).last.heldCommits.at slot []) = [] then s
    else bringUp (x.2.modPLast p.val fun l => { l with
      heldCommits := if x.1 = [] then l.heldCommits.del slot else l.heldCommits.put slot x.1 }) p.val slot)

/-! ### RELEASE, TRANSFER, GROW (R166, R169, R173, R175) -/

/-- Every OPEN with PARTNER set that waited for slot `n` goes on (R155). -/
def resumePartners (s : State) (p n : Nat) : State :=
  match directory s p with
  | none => s
  | some (count, _) =>
    let q := (s.part p).last.partnerWaiting.at n []
    q.foldl (fun s x => partnerSlot s p n count x.1 x.2 roomMoves)
      (s.modPLast p fun l => { l with partnerWaiting := l.partnerWaiting.del n })

/-- The hold of a slot ends: held COMMITs are refused and the Last is passed on (R175). -/
def endHold (s : State) (p n : Nat) : State :=
  let s := modDir (dropHeld s p n 0x0B) p n fun e => { e with
    state := if e.state = 5 then 5 else 2, holderTag := 0, holderDevice := 0, holderPartition := 0 }
  resumePartners (passOn s p n) p n

/-- RELEASE at partition `p`. Bytes at or above LENGTH are no part of the Last from then on, and a write that
waits is checked again (R157). VALUE of the answer 0x00 is 0: no holder is left to name (DESIGN CHOICE,
notes/assumptions/28.md). -/
def serveRelease (p : Nat) (h : SvcHdr) (s : State) : State :=
  svcReceive s p h 3 (isCache s p) fun s =>
    let n := handleSlot h.handle
    let e := dirAt s p n
    if !liveHandle s p h.handle then svcCode s p h 0x0C
    else if !fromHolder e h then
      svcReply s p h { replyHdr s p h 0x0B with posA := e.length, value := holderOf e } []
    else
      let s := svcReply s p h { replyHdr s p h 0 with posA := e.length } []
      endHold s p n

/-- RELEASE (R169, R175). VALUE of a RELEASE answered 0x00 is 0 (DESIGN CHOICE, notes/assumptions/28.md). -/
def execRelease (p : Part) (h : SvcHdr) (s : State) : Out := .next (serveRelease p.val h s)

/-- TRANSFER at partition `p`. An entry without a holder names nobody: its HOLDER_TAG is zero (Table 04-6). -/
def serveTransfer (p : Nat) (h : SvcHdr) (s : State) : State :=
  svcReceive s p h 4 (isCache s p) fun s =>
    let n := handleSlot h.handle
    let e := dirAt s p n
    let me := holderValue h.fromDevice h.fromPartition
    if !liveHandle s p h.handle then svcCode s p h 0x0C
    else if e.state = 1 ∧ e.holderTag = h.tag ∧ holderOf e = h.value then
      let s := setDir s p n { e with holderDevice := h.fromDevice, holderPartition := h.fromPartition }
      svcReply s p h { replyHdr s p h 0 with value := me } []
    else if holderOf e = me ∧ e.holderTag ≠ 0 then
      svcReply s p h { replyHdr s p h 0 with value := me } []
    else svcReply s p h { replyHdr s p h 0x0B with value := holderOf e } []

/-- TRANSFER. -/
def execTransfer (p : Part) (h : SvcHdr) (s : State) : Out := .next (serveTransfer p.val h s)

/-- The reply to a GROW. -/
def growReply (s : State) (p n : Nat) (h : SvcHdr) (c : Byte) : State :=
  let e := dirAt s p n
  if c ≠ 0 then svcCode s p h c
  else svcReply s p h { replyHdr s p h 0 with posB := capOf s e.cls, value := lineAddress p e.base } (leBytes 8 0)

/-- Carry on with a GROW, or with an OPEN, whose growth has begun, or has failed with a code. -/
def growWith (p n kind : Nat) (h : SvcHdr) (r : State × Option Byte) : State :=
  match r.2 with
  | none => r.1
  | some c => if kind = 0 then growReply r.1 p n h c else openEnds r.1 p n h c

/-- Handle a GROW whose handle is live (R173, R128). While the Last grows or moves, or looks for room, it
waits. -/
def growTry (s : State) (p n : Nat) (h : SvcHdr) : State :=
  let e := dirAt s p n
  if !fromHolder e h then svcCode s p h 0x0D
  else if lMax s < h.posA then svcCode s p h 2
  else if h.posA ≤ capOf s e.cls then growReply s p n h 0
  else if e.state ≠ 1 ∨ slotBusy s p n then
    s.modPLast p fun l => { l with heldGrows := l.heldGrows.put n (l.heldGrows.at n [] ++ [h]) }
  else growWith p n 0 h (startGrowth s p n h.posA 0 h 0 roomMoves)

/-- GROW at partition `p`. -/
def serveGrow (p : Nat) (h : SvcHdr) (s : State) : State :=
  svcReceive s p h 8 (isCache s p) fun s =>
    if !liveHandle s p h.handle then svcCode s p h 0x0C else growTry s p (handleSlot h.handle) h

/-- GROW. -/
def execGrow (p : Part) (h : SvcHdr) (s : State) : Out := .next (serveGrow p.val h s)

/-- What waited for a growth or a move of slot `n` goes on: OPENs with PARTNER set, then GROWs (R155, R173). -/
def resumeSlot (s : State) (p n : Nat) : State :=
  let s := resumePartners s p n
  let q := (s.part p).last.heldGrows.at n []
  q.foldl (fun s h => growTry s p n h) (s.modPLast p fun l => { l with heldGrows := l.heldGrows.del n })

/-- A request that waited for room looks again (R311). -/
def roomRetry (s : State) (p : Nat) (w : RoomWait) : State :=
  let again := fun (f : Nat → State) => match directory s p with
    | none => svcCode s p w.h 0x0B
    | some (count, _) => f count
  match w.what with
  | .alloc => again fun count => openNew s p count w.h w.left
  | .promote n => openWith p n w.h (openStep6 s p n w.h w.left w.peer)
  | .grow n need kind => growWith p n kind w.h (startGrowth s p n need kind w.h w.peer w.left)
  | .partner n => again fun count => partnerSlot s p n count w.h w.peer w.left
  | .recover n reuse cls length => recoverLast s p n w.h reuse cls length w.left

/-- The requests that waited for the downward move of slot `n` look again. -/
def resumeRoom (s : State) (p n : Nat) : State :=
  let l := (s.part p).last
  let mine := l.room.filter fun w => decide (w.moving = n)
  mine.foldl (fun s w => roomRetry s p w) (s.modPLast p fun l => { l with
    room := l.room.filter fun w => decide (w.moving ≠ n) })

/-! ### OPEN with a Last handle (R154, R185) -/

/-- Steps 2 to 5 of R154 for a Last handle. -/
def openOld (s : State) (p : Nat) (h : SvcHdr) : State :=
  let n := handleSlot h.handle
  let e := dirAt s p n
  if e.state = 5 then
    if slotBusy s p n ∧ (shapeOf h.value).isSome ∧ (partnerOf s p).isSome ∧ !lonely s p then queueOpen s p n h
    else
      let r := openLost s p n h
      match r.2 with
      | none => r.1
      | some c => svcCode r.1 p h c
  else if e.state = 0 ∨ e.reuse ≠ handleReuse h.handle then svcCode s p h 0x0C
  else if !sameShape e h.value then svcCode s p h 0x0B
  else if lMax s < e.length + h.posA then svcCode s p h 2
  else if lonely s p then svcCode s p h 3
  else match (s.part p).last.jobs.find n with
    | some j =>
      if j.kind = 3 then
        resumeRoom (resumeSlot (openWith p n h (openStep6 (abandonMove s p n) p n h roomMoves 0)) p n) p n
      else queueOpen s p n h
    | none =>
      if e.state ≠ 2 ∨ slotBusy s p n then queueOpen s p n h else openWith p n h (openStep6 s p n h roomMoves 0)

/-- OPEN at partition `p` (R154). -/
def serveOpen (p : Nat) (h : SvcHdr) (s : State) : State :=
  svcReceive s p h 1 (isCache s p) fun s =>
    match directory s p with
    | none => svcCode s p h 0x0B
    | some (count, _) => if isAllocation h.handle then openNew s p count h roomMoves else openOld s p h

/-- OPEN (R154). An OPEN with PARTNER set is OPEN_PARTNER's. -/
def execOpenLast (p : Part) (h : SvcHdr) (s : State) : Out := .next (if h.partner then s else serveOpen p.val h s)

/-! ### Copies that end (R129, R131, R156, R310, R313) -/

/-- The Last of slot `n` is lost: STATE 5, the slot stays reserved (R184, R313). What it held back is answered 0x0C,
and the OPENs that waited for it are OPENs on a STATE 5 entry (R185). -/
def loseLast (s : State) (p n : Nat) : State :=
  let s := modDir s p n fun e => { e with
    state := 5, holderTag := 0, holderDevice := 0, holderPartition := 0, waiters := 0, idleSince := s.now }
  let x := takeOpens (dropHeld s p n 0x0C) p n
  let count := ((directory s p).map (·.1)).getD 0
  let s := x.1.foldl (fun s o =>
    if o.1.partner then partnerSlot s p n count o.1 o.2 roomMoves
    else if isAllocation o.1.handle then svcCode s p o.1 0x0C
    else openOld s p o.1) x.2
  resumeRoom (resumeSlot s p n) p n

/-- The result of a job's copies: a failure reported, or met while the bytes are copied; and whether an uncorrectable
word of the source is why. -/
def jobCopy (s : State) (p n : Nat) (j : LastJob) (code : Byte) : Byte × Bool × State :=
  let nvme := decide (j.newTier = 4 ∨ (dirAt s p n).tier = 4)
  if code ≠ 0 then (code, decide (code = 4) && !nvme, s)
  else if j.nvCode ≠ 0 then (j.nvCode, j.sourceBad, s)
  else if nvme then (0, false, s)
  else copyLast s p n j.newBase j.newCls

/-- The bytes that a copy of slot `n` reads: the first LENGTH positions of every plane. -/
def copyReads (s : State) (p n : Nat) : List (Nat × Nat) :=
  let e := dirAt s p n
  let u := e.unit s
  (List.range e.layers).map fun l => (e.base + l * capOf s e.cls * u, e.length * u)

/-- A copy of slot `n` has read its source, behind every remote request accepted before (R364), and found a word in
error (R317, R318); on NVMe there is none. -/
def copyMet (s : State) (r : PartRead) (n : Nat) : State :=
  let s := settlePart s r.p.val
  if (dirAt s r.p.val n).tier = 4 then s else eccMetIn s r.p.val (copyReads s r.p.val n) r.found

/-- LAST_GROWTH_COPY_DONE: steps 3 to 5 of Table 04-7. -/
def execLastGrowthCopyDone (read : PartRead) (slot : Nat) (code : Byte) (s : State) : Out :=
  let p := read.p
  match (s.part p.val).last.jobs.find slot with
  | none => .next s
  | some j =>
    if 2 ≤ j.kind ∨ !codeDefined code then .next s
    else
      let e := dirAt s p.val slot
      let r := jobCopy (copyMet s read slot) p.val slot j code
      let s := endJob r.2.2 p.val slot
      let back := if j.kind = 0 then 1 else 2
      let s := if r.1 ≠ 0 then setDir s p.val slot { e with state := back }
        else
          let s := setDir s p.val slot { e with state := back, base := j.newBase, cls := j.newCls, tier := j.newTier }
          s.modPLast p.val fun l => { l with
            olds := l.olds ++ [{
              slot := slot, base := e.base, size := e.size s
              readers := (l.queries.filter fun q => decide (q.slot = slot ∧ q.base = e.base)).length }] }
      match j.waiting with
      | none => .next (resumeSlot s p.val slot)
      | some h =>
        .next (resumeSlot (if j.kind = 0 then growReply s p.val slot h r.1
          else if r.1 ≠ 0 then openEnds s p.val slot h r.1
          else openStep8 s p.val slot h j.peer) p.val slot)

/-- LAST_OLD_FOOTPRINT_FREE: step 5 of Table 04-7, once the reads that began before the switch have ended. -/
def execLastOldFootprintFree (p : Part) (slot : Nat) (s : State) : Out :=
  .next (s.modPLast p.val fun l => { l with
    olds := l.olds.filter fun o => decide (o.slot ≠ slot ∨ o.readers ≠ 0) })

/-- A move of slot `n` ends (R310 step 4): with code 0 the entry names the destination; a failure leaves the Last where
it was, and one for an uncorrectable word of its source loses it (R313). -/
def moveEnds (s : State) (p n : Nat) (j : LastJob) (c : Byte) (bad : Bool) : State :=
  let e := dirAt s p n
  let s := endJob s p n
  if c = 0 then setDir s p n { e with state := 2, base := j.newBase, tier := j.newTier }
  else if bad then loseLast s p n
  else setDir s p n { e with state := 2 }

/-- LAST_PROMOTION_DONE (R156, R310). -/
def execLastPromotionDone (read : PartRead) (slot : Nat) (code : Byte) (s : State) : Out :=
  let p := read.p
  match (s.part p.val).last.jobs.find slot with
  | none => .next s
  | some j =>
    if j.kind ≠ 2 ∨ !codeDefined code ∨ lastWaits s p.val slot j then .next s
    else
      let r := jobCopy (copyMet s read slot) p.val slot j code
      let s := moveEnds r.2.2 p.val slot j r.1 r.2.1
      match j.waiting with
      | none => .next (resumeSlot s p.val slot)
      | some h =>
        .next (resumeSlot (if r.2.1 then svcCode s p.val h r.1
          else if r.1 ≠ 0 then openEnds s p.val slot h r.1
          else openWith p.val slot h (openStep7 s p.val slot h roomMoves j.peer)) p.val slot)

/-- LAST_TIER_MOVE_DONE (R310, R313): a downward move ends, and what waited for it or for room goes on. -/
def execLastTierMoveDone (read : PartRead) (slot : Nat) (code : Byte) (s : State) : Out :=
  let p := read.p
  match (s.part p.val).last.jobs.find slot with
  | none => .next s
  | some j =>
    if j.kind ≠ 3 ∨ !codeDefined code ∨ lastWaits s p.val slot j then .next s
    else
      let r := jobCopy (copyMet s read slot) p.val slot j code
      .next (resumeRoom (resumeSlot (moveEnds r.2.2 p.val slot j r.1 r.2.1) p.val slot) p.val slot)

/-! ### Aging and rebuilding (R176, R177, R185, R186) -/

/-- The three times of R176 in us; a tier without a region of USE 0x03 is passed with zero time. -/
def ttlOf (s : State) (p : Nat) : Nat × Nat × Nat :=
  let l := (s.part p).last
  let t := fun tier v => if lastRegions s p tier = [] then 0 else v * 1000000
  (t 1 l.ttlHbm, t 2 l.ttlDdr, t 4 l.ttlNvme)

/-- Age one Last: freed past every threshold, moved down past its tier's. -/
def ageLast (s : State) (p n : Nat) : State :=
  let e := dirAt s p n
  let t := ttlOf s p
  let age := s.now - e.idleSince
  if (e.state ≠ 2 ∧ e.state ≠ 5) ∨ slotBusy s p n then s
  else if t.1 + t.2.1 + t.2.2 ≤ age then freeLast s p n
  else if e.state = 5 then s
  else
    let target := if t.1 + t.2.1 ≤ age then 4 else if t.1 ≤ age then 2 else e.tier
    if target ≤ e.tier then s
    else match findRun s p target (e.size s) with
      | none => s
      | some b => startDown s p n target b

/-- LAST_TTL_CHECK: every 1,000,000 us. -/
def execLastTtlCheck (p : Part) (s : State) : Out :=
  let l := (s.part p.val).last
  if s.code p.val ≠ 5 ∨ !isCache s p.val ∨ s.now < l.lastCheck + 1000000 then .next s
  else
    let s := s.modPLast p.val fun l => { l with lastCheck := s.now }
    .next ((l.dir.map (·.1)).foldl (fun s n => ageLast s p.val n) s)

/-- The next slot in STATE 2 that the partner being rebuilt has not got (R186). -/
def nextRebuild (s : State) (p : Nat) : Option Nat :=
  let l := (s.part p).last
  ((l.dir.filter fun kv => decide (l.rebuildNext ≤ kv.1 ∧ kv.2.state = 2) && !l.brought.contains kv.1
    && !slotBusy s p kv.1).head?).map (·.1)

/-- LAST_REBUILD: the next slot in STATE 2 is copied to the partner while fewer than eight copies are in flight.
R186 does not say by what messages: the newcomer makes its copy on an OPEN with PARTNER set, as R155 says, which
names this partition as holder, and a RELEASE makes it idle (DESIGN CHOICE, notes/assumptions/28.md). -/
def execLastRebuild (p : Part) (s : State) : Out :=
  match partnerOf s p.val with
  | none => .next s
  | some q =>
    if s.code p.val ≠ 5 ∨ (s.part p.val).last.partnerLost ∨ (s.part p.val).last.newcomer then .next s
    else
      let s := (rebuildNow s p.val).modPLast p.val fun l => { l with rebuildOn := true }
      if 8 ≤ (s.part p.val).last.rebuilding.length then .next s
      else match nextRebuild s p.val with
      | none => .next s
      | some n =>
        let s := s.modPLast p.val fun l => { l with rebuildNext := n + 1, rebuilding := l.rebuilding ++ [n] }
        .next (sendBringUp s p.val n 0 (holderValue s.fab.device.toNat p.val) q)

/-- A copy in flight to the partner ends; an OPEN that waited for its slot goes on. -/
def rebuildEnds (s : State) (p n : Nat) : State :=
  let s := s.modPLast p fun l => { l with rebuilding := l.rebuilding.filter (· ≠ n) }
  if (dirAt s p n).state = 2 ∧ waitersOf s p n ≠ 0 then passOn s p n else s

/-- The partner has answered a message of the rebuilding of slot `n`: the OPEN of a copy is followed by its
RELEASE (R186). -/
def bringUpAnswered (s : State) (p n : Nat) (x : SvcSent) (c : Byte) : State :=
  let s := if c = 0 then s else s.modPLast p fun l => { l with brought := l.brought.filter (· ≠ n) }
  if !(s.part p).last.rebuilding.contains n then s
  else if x.h.op = 1 ∧ c = 0 then
    let r := { requestHdr s p 3 0 x.h.handle with posA := (dirAt s p n).length }
    let y := svcSend (s.modPLast p fun l => { l with brought := n :: l.brought }) p x.toDevice x.toPart r []
    y.2.modPLast p fun l => { l with bringUps := l.bringUps.put y.1 n }
  else rebuildEnds s p n

/-- The member becomes partner-lost, or its partner has answered (R153); what was copied to a lost partner is
copied again to the one that takes its place (R186). -/
def notePartner (s : State) (p : Nat) (lost : Bool) : State :=
  let s := s.modPLast p fun l => { l with partnerLost := lost, newcomer := l.newcomer && !lost }
  if lost then
    let slots := (s.part p).last.rebuilding
    slots.foldl (fun s n => rebuildEnds s p n) (s.modPLast p fun l => l.rebuildAgain l.rebuildEpoch)
  else s

end Sys2Proof.Machine
end

