-- ==== Sys2Proof/Machine/Query.lean ====
section
/-! DEFINITION. Attention at the cache: QUERY, its stripe over the pair, and its fold (07 R243 to R250, 05
R171 and R184). -/

namespace Sys2Proof.Machine

/-- The header of a QUERY payload (Table 07-7) with Q of the service header. -/
structure QueryShape where
  kvHeads : Nat
  group : Nat
  head : Nat
  flags : Nat
  start : Nat
  scale : BitVec 32
  queries : Nat
  deriving DecidableEq, Repr

def queryShape (h : SvcHdr) (payload : List Byte) : QueryShape :=
  { kvHeads := fld payload 0 1, group := fld payload 1 1, head := fld payload 2 1, flags := fld payload 3 1
    start := fld payload 4 4, scale := BitVec.ofNat 32 (fld payload 8 4), queries := bitsOf h.value.toNat 0 16 }

def QueryShape.forwarded (q : QueryShape) : Bool := q.flags.testBit 0
def QueryShape.noStripe (q : QueryShape) : Bool := q.flags.testBit 1
def QueryShape.heads (q : QueryShape) : Nat := q.kvHeads * q.group
def QueryShape.dim (q : QueryShape) : Nat := headDim q.head

/-- The code of the first check of R245 that fails, 0x00 when all pass. -/
def queryCheck (s : State) (p : Nat) (h : SvcHdr) (q : QueryShape) (len : Nat) : Byte :=
  let e := dirAt s p (handleSlot h.handle)
  let u := e.unit s
  let c := capOf s e.cls
  if ¬ (1 ≤ q.kvHeads ∧ q.kvHeads ≤ 16 ∧ 1 ≤ q.group ∧ q.group ≤ 16 ∧ q.head ≤ 2 ∧ bitsOf q.flags 2 6 = 0
      ∧ q.start ≤ h.posB ∧ len = 64 + q.queries * q.heads * 2 * q.dim) then 0x0B
  else if !liveHandle s p h.handle then 0x0C
  else if !(fromHolder e h || (q.forwarded && decide (partnerOf s p = some (h.fromDevice, h.fromPartition)))) then 0x0D
  else if e.length < h.posB then 2
  else if q.kvHeads ≠ e.kvHeads ∨ q.head ≠ e.head then 0x0B
  else if e.layers ≤ h.posA ∨ c * e.layers * u < (h.posA * c + h.posB) * u then 2
  else 0

/-- Answer a QUERY and count it. -/
def queryAnswer (s : State) (p : Nat) (h : SvcHdr) (c : Byte) (payload : List Byte) : State :=
  let s := s.modPLast p fun l => { l with served := l.served + 1 }
  svcReply s p h (replyHdr s p h c) payload

/-- The chunks of a range that form the upper stripe begin at this number (R248). -/
def upperFrom (n : Nat) : Nat := (n + 1) / 2

/-- Send the upper stripe to the partner when R248 holds: its MSG_ID. -/
def sendStripe (s : State) (p : Nat) (h : SvcHdr) (q : QueryShape) (payload : List Byte) : Option Nat × State :=
  let l := (s.part p).last
  let chunks := chunksOf q.start h.posB
  match partnerOf s p, chunks[upperFrom chunks.length]? with
  | some m, some (first, _) =>
    if l.stripeMin = 0 ∨ h.posB - q.start < l.stripeMin ∨ l.partnerLost ∨ q.forwarded ∨ q.noStripe then (none, s)
    else
      let n := handleSlot h.handle
      let r := { requestHdr s p 5 h.tag (mkHandle m.1 m.2 (handleReuse h.handle) n) with
        posA := h.posA, posB := h.posB, value := h.value }
      let body := payload.take 3 ++ leBytes 1 (q.flags + 1) ++ leBytes 4 first ++ slice payload 8 4 ++ leBytes 52 0
        ++ payload.drop 64
      let x := svcSend s p m.1 m.2 r body
      (some x.1, x.2.modPLast p fun l => { l with striped := l.striped + 1 })
  | _, _ => (none, s)

/-- QUERY at partition `p` (R245 to R248): checks, READERS raised, the stripe sent. How the chunks of the range
are given to the blocks is the service's own choice (R247): they are computed when QUERY_CHUNKS_DONE says so. -/
def serveQuery (p : Nat) (h : SvcHdr) (payload : List Byte) (s : State) : State :=
  svcReceive s p h 5 (isCache s p) fun s =>
    let q := queryShape h payload
    let c := queryCheck s p h q payload.length
    if c ≠ 0 ∨ q.queries = 0 then queryAnswer s p h c []
    else
      let n := handleSlot h.handle
      let e := dirAt s p n
      let s := setDir s p n { e with readers := e.readers + 1 }
      let r := sendStripe s p h q payload
      let job : QueryJob :=
        { h := h, payload := payload, slot := n, stripe := r.1, striped := r.1.isSome, base := e.base, cls := e.cls
          gens := spanGens s p (e.base + (h.posA * capOf s e.cls + q.start) * e.unit s) ((h.posB - q.start) * e.unit s) }
      r.2.modPLast p fun l => { l with queries := l.queries ++ [job] }

/-- QUERY. -/
def execQuery (p : Part) (h : SvcHdr) (payload : List Byte) (s : State) : Out := .next (serveQuery p.val h payload s)

/-- The bytes of query head `j` of token `i` of a QUERY. -/
def queryBytes (job : QueryJob) (q : QueryShape) (i j : Nat) : List Byte :=
  slice job.payload (64 + (i * q.heads + j) * 2 * q.dim) (2 * q.dim)

/-- What query head `j` of token `i` of a QUERY meets. -/
def queryJobHead (s : State) (p : Nat) (job : QueryJob) (q : QueryShape) (i j : Nat) : HeadJob :=
  let shape : KvShape := { compact := compactLasts s, heads := q.kvHeads, head := q.head }
  let plane := job.base + job.h.posA * capOf s job.cls * shape.unit
  { shape := shape, scale := q.scale, kv := j / q.group, last := none
    query := (units 2 q.dim (queryBytes job q i j)).map fun u => bf16Val (leNat u)
    unit := fun pos => loadBytes s p (plane + pos * shape.unit) shape.unit }

/-- The partial of chunk `c` of the range for one head: computed here, or out of the partner's records. -/
def chunkPartial (s : State) (p : Nat) (job : QueryJob) (q : QueryShape) (i j c : Nat)
    (chunk : Nat × Nat) (count : Nat) : Partial :=
  let up := upperFrom count
  match (if job.stripeFailed ∨ c < up then none else job.stripeReply) with
  | some bs => recordEntry bs ((i * (count - up) + (c - up)) * recordLen q.dim q.heads) q.dim j
  | none => (queryJobHead s p job q i j).chunk (emptyPartial q.dim (queryBytes job q i j)) chunk.1 chunk.2

/-- The reply payload of a QUERY (R244). -/
def queryPayload (s : State) (p : Nat) (job : QueryJob) (q : QueryShape) : List Byte :=
  let chunks := chunksOf q.start job.h.posB
  let parts := fun i j => (chunks.zipIdx).map fun c => chunkPartial s p job q i j c.2 c.1 chunks.length
  let heads := List.range q.heads
  (List.range q.queries).flatMap fun i =>
    if q.forwarded then
      (chunks.zipIdx).flatMap fun c =>
        partialRecord i q.kvHeads q.group q.head c.1.1 (c.1.1 + c.1.2) c.2 false
          (heads.map fun j => chunkPartial s p job q i j c.2 c.1 chunks.length)
    else
      partialRecord i q.kvHeads q.group q.head q.start job.h.posB foldedChunk job.striped
        (heads.map fun j => (parts i j).foldl (mergePartial q.dim) (emptyPartial q.dim (queryBytes job q i j)))

/-- READERS falls; a read that began on an old footprint also leaves that one (Table 04-7 step 5). -/
def lowerReaders (s : State) (p : Nat) (job : QueryJob) : State :=
  let s := modDir s p job.slot fun e => { e with readers := e.readers - 1 }
  s.modPLast p fun l => { l with olds := l.olds.map fun o =>
    if o.slot = job.slot ∧ o.base = job.base then { o with readers := o.readers - 1 } else o }

/-- A plane of slot `n` is being taken from the partner: no QUERY on the Last is served meanwhile (R184). -/
def repairing (s : State) (p n : Nat) : Bool := (s.part p).last.repairs.any fun kv => decide (kv.2.1 = n)

/-- A QUERY met an uncorrectable word: with a partner that holds the Last the plane is taken from it, without one the
Last is lost (R184). The partner is asked first whether it has every position. -/
def planeLost (s : State) (p : Nat) (job : QueryJob) : State :=
  let e := dirAt s p job.slot
  match partnerOf s p with
  | some q =>
    if (s.part p).last.partnerLost then loseLast s p job.slot
    else
      let x := probe s p job.slot 0 e.reuse job.h.posA e.length e.kvHeads e.head q
      x.2.modPLast p fun l => { l with repairs := l.repairs.put x.1 (job.slot, job.h.posA) }
  | none => loseLast s p job.slot

/-- The partner has answered the probe `x` for layer `layer` of slot `n` (R184). -/
def repairAnswered (s : State) (p n layer : Nat) (x : SvcHdr) (c : Byte) : State :=
  let e := dirAt s p n
  if e.state = 0 ∨ e.state = 5 ∨ e.reuse ≠ handleReuse x.handle then s
  else if c = 0 then takePlane s p n layer 0 x.posB
  else loseLast s p n

/-- QUERY_CHUNKS_DONE (R247, R249). -/
def execQueryChunksDone (read : PartRead) (fromDevice fromPartition msgId : Nat) (s : State) : Out :=
  let p := read.p
  let mine := fun (j : QueryJob) =>
    decide (j.h.fromDevice = fromDevice ∧ j.h.fromPartition = fromPartition ∧ j.h.msgId = msgId)
  match (s.part p.val).last.queries.find? mine with
  | none => .next s
  | some job =>
    if (job.stripe.isSome ∧ job.stripeReply.isNone ∧ !job.stripeFailed) ∨ repairing s p.val job.slot then .next s
    else
      let q := queryShape job.h job.payload
      let shape : KvShape := { compact := compactLasts s, heads := q.kvHeads, head := q.head }
      let plane := job.base + job.h.posA * capOf s job.cls * shape.unit
      let top := if job.stripeReply.isSome ∧ !job.stripeFailed then
          let cs := chunksOf q.start job.h.posB
          ((cs[upperFrom cs.length]?).map (·.1)).getD job.h.posB
        else job.h.posB
      let at_ := plane + q.start * shape.unit
      let len := (top - q.start) * shape.unit
      let r := homeRead (eccMet s p.val at_ len read.found) p.val at_ len 0
      let body := if r.1 = 0 then queryPayload r.2.2 p.val job q else []
      let s := r.2.2.modPLast p.val fun l => { l with queries := l.queries.filter fun j => !mine j }
      let s := queryAnswer (lowerReaders s p.val job) p.val job.h r.1 body
      .next (if r.1 = 4 then planeLost s p.val job else s)

/-- The forwarded QUERY sent as message `id` has ended (R249). -/
def stripeEnds (s : State) (p id : Nat) (c : Byte) (payload : List Byte) : State :=
  let want := fun (j : QueryJob) =>
    let q := queryShape j.h j.payload
    let k := (chunksOf q.start j.h.posB).length
    q.queries * (k - upperFrom k) * recordLen q.dim q.heads
  match (s.part p).last.queries.find? fun j => decide (j.stripe = some id) with
  | none => s
  | some job =>
    let ok := decide (c = 0 ∧ payload.length = want job)
    s.modPLast p fun l => { l with
      stripeLocal := if ok then l.stripeLocal else l.stripeLocal + 1
      queries := l.queries.map fun j =>
        if j.stripe = some id then
          (if ok then { j with stripeReply := some payload } else { j with stripeFailed := true })
        else j }

end Sys2Proof.Machine
end

