-- ==== Sys2Proof/Machine/Replies.lean ====
section
/-! DEFINITION. What a sender does with the reply to a service message, or with its absence, with the end of a
write to a Last, and with cancels (05 R147 to R187, 12 R412). -/

namespace Sys2Proof.Machine

/-! ### COMMITs answered and token 0 (R160, R161, R170, R174) -/

/-- Positions become durable when every copy has answered their COMMIT: LENGTH reaches the lowest FROM that is
still outstanding, or the end of what was begun. A prefill's LENGTH is set as it commits (R161). -/
def settle (old new : Live) : Live :=
  let durable := match new.commits with
    | [] => old.flushedTo
    | x :: r => r.foldl (fun m y => min m y.1) x.1
  if new.req.phase ≤ 2 then new else { new with req := { new.req with length := max new.req.length durable } }

/-- Token 0 is in the lane: the request ends where it was cancelled, is handed off, or joins the batch (R69, R170,
R179). -/
def afterToken0 (s : State) (p : Nat) (tag : BitVec 48) : State :=
  match liveOf s p tag with
  | none => s
  | some l =>
    if l.req.cancel then finishRequest s p tag 0 none
    else if s.role p = 0 then nextTarget (modReq s p tag fun r => { r with phase := 3 }) p tag
    else joinBatch s p tag

/-- After a prefill commits: a final token finishes the request, at L_max with 0x02; else token 0 leaves, and what
follows waits until it is in the lane (R69, R134, R161). -/
def prefillCommit (s : State) (p : Nat) (tag : BitVec 48) : State :=
  match liveOf s p tag with
  | none => s
  | some l =>
    let s := insertPrefix s p tag
    let t0 := l.req.lastToken
    if lMax s ≤ l.req.seq then finishRequest (modReq s p tag fun r => { r with atLimit := true }) p tag 2 (some t0)
    else if l.finalToken.isSome then finishRequest s p tag 0 (some t0)
    else
      let s := modReq s p tag fun r => { r with outputCount := 1, tailOrigin := r.seq, tailBase := r.seq }
      let s := liveItem s p (tokenItem 0 false false tag 0 t0.toNat)
      if backlogged s p tag then s else afterToken0 s p tag

/-- What follows when COMMITs have been answered. -/
def commitProgress (s : State) (p : Nat) (tag : BitVec 48) : State :=
  match liveOf s p tag with
  | none => s
  | some l =>
    if l.prefilled ∧ l.commits = [] ∧ l.due = [] then prefillCommit (modReq s p tag fun r => { r with length := r.seq }) p tag
    else flushOn s p tag

/-! ### Copies lost (R182, R184) -/

/-- Codes with which a copy, or a target, counts as lost (R184, Table 15-5). -/
def isLost (c : Byte) : Bool := decide (c = 3 ∨ c = 7 ∨ c = 0x0E)

/-- A GROW or RELEASE of a copy is not awaited any more. -/
def Live.unawait (l : Live) (handle : Word) : Live := { l with awaits := l.awaits.filter fun c => decide (c ≠ handle) }

/-- A request without the copy that is lost: the survivor alone decides durability. -/
def Live.without (l : Live) (handle : Word) : Live :=
  let l := { l.unawait handle with
    due := l.due.filter fun x => decide (x.copy ≠ handle), lost := l.lost ++ [handle] }
  if handle = l.req.mirror then { l with commitsMirror := [], req := { l.req with mirror := allOnes64 } }
  else { l with commitsPrimary := [], req := { l.req with onMirror := true } }

/-- The COMMITs that are outstanding to a copy: begun, and sent. -/
def Live.sentTo (l : Live) (handle : Word) : List (Nat × Nat) :=
  (if handle = l.req.mirror then l.commitsMirror else l.commitsPrimary).filter fun x =>
    !l.due.any fun d => decide (d.copy = handle ∧ d.lo = x.1 ∧ d.hi = x.2)

/-- COMMITs to a copy are begun once more; like every COMMIT they wait for the writes to that copy (R160). -/
def Live.commitTo (l : Live) (handle : Word) (xs : List (Nat × Nat)) : Live :=
  let l := { l with due := l.due ++ xs.map fun (x : Nat × Nat) => ({ copy := handle, lo := x.1, hi := x.2 } : CommitDue) }
  if handle = l.req.mirror then { l with commitsMirror := l.commitsMirror ++ xs }
  else { l with commitsPrimary := l.commitsPrimary ++ xs }

/-- The replies to GROW are all there: flushes go on. -/
def growDone (s : State) (p : Nat) (tag : BitVec 48) : State :=
  match liveOf s p tag with
  | none => s
  | some l =>
    if l.flushTo.isSome ∧ l.awaits = [] then flushOn (modLive s p tag fun l => { l with flushTo := none }) p tag
    else s

/-- A copy of the Last is lost: the COMMITs outstanding to it go to the survivor and the holder goes on with that
one, or the request ends with 0x0C when there is none (R182, R184). A record in PHASE 0x03 is settled by the
TRANSFERs alone (R13). -/
def copyLost (s : State) (p : Nat) (tag : BitVec 48) (handle : Word) : State :=
  match liveOf s p tag with
  | none => s
  | some l =>
    if l.releasing ∨ l.req.phase = 3 ∨ !l.copies.contains handle then s
    else match l.copies.filter fun c => decide (c ≠ handle) with
      | [] => endNow s p tag 0x0C
      | other :: _ =>
        let s := modLive s p tag fun l => settle l ((l.without handle).commitTo other (l.sentTo handle))
        growDone (commitProgress s p tag) p tag

/-- A copy was lost to an operation of a request that decodes: the step that met it is replayed (R184). -/
def lostInStep (s : State) (p : Nat) (tag : BitVec 48) (handle : Word) : State :=
  let decodes := match liveOf s p tag with
    | none => false
    | some l => decide (l.req.phase = 4 ∨ l.req.phase = 5) && l.copies.contains handle
  let s := copyLost s p tag handle
  if decodes then noteStep s p 3 else s

/-! ### COMMIT, GROW, RELEASE answered -/

/-- A COMMIT sent to a copy is answered. -/
def commitAnswered (s : State) (p : Nat) (q : SvcHdr) (c : Byte) : State :=
  match liveOf s p q.tag with
  | none => s
  | some l =>
    if !l.copies.contains q.handle then s
    else if c = 0 then
      let x := (q.posA, q.posB)
      let s := modLive s p q.tag fun l => settle l (
        if q.handle = l.req.mirror then { l with commitsMirror := l.commitsMirror.erase x }
        else { l with commitsPrimary := l.commitsPrimary.erase x })
      if l.releasing then s else commitProgress s p q.tag
    else if isLost c then lostInStep s p q.tag q.handle
    else endWith s p q.tag c false

/-- A GROW sent to a copy is answered (R173). -/
def growAnswered (s : State) (p : Nat) (q r : SvcHdr) (c : Byte) : State :=
  match liveOf s p q.tag with
  | none => s
  | some l =>
    if l.releasing ∨ !l.awaits.contains q.handle then s
    else if isLost c then lostInStep s p q.tag q.handle
    else if c ≠ 0 then endWith s p q.tag c false
    else growDone (modLive s p q.tag fun l =>
      let l := l.unawait q.handle
      if q.handle = l.req.mirror then { l with mirrorCapacity := r.posB, mirrorBase := r.value }
      else { l with capacity := r.posB, base := r.value }) p q.tag

/-- The request was accepted by another holder: its record is freed, a forwarding entry kept, and cancels
taken meanwhile follow it (R168, R169, R179). -/
def handedTo (s : State) (p : Nat) (tag : BitVec 48) (holder : Word) : State :=
  match liveOf s p tag with
  | none => s
  | some l =>
    let dev := bitsOf holder.toNat 0 16
    let part := bitsOf holder.toNat 16 8
    let s := addForward (dropLive s p tag) p tag dev part
    if l.cancelSlots = [] ∧ l.cancelMsgs = [] then s
    else forwardCancel s p tag dev part l.cancelSlots l.cancelMsgs

/-- A request whose RELEASE was answered with a code: one that did not find the copy counts it as lost; with no
copy left, and on any other code, the final item carries it (R174, Table 05-9). -/
def Live.released (l : Live) (handle : Word) (c : Byte) : Live :=
  let bad := decide (c ≠ 0) && (!isLost c || decide (l.copies.length ≤ 1))
  let l := if isLost c ∧ 2 ≤ l.copies.length then l.without handle else l.unawait handle
  { l with
    finalCode := if bad ∧ l.finalCode = 0 then (if isLost c then 0x0C else c) else l.finalCode
    finalNoToken := l.finalNoToken || (bad && isLost c) }

/-- A RELEASE sent to a copy is answered (R168, R169, R174, R269). A holder that it names while the request was
being handed off has accepted it. -/
def releaseAnswered (s : State) (p : Nat) (q r : SvcHdr) (c : Byte) : State :=
  match liveOf s p q.tag with
  | none => s
  | some l =>
    if !l.releasing ∨ !l.awaits.contains q.handle then s
    else if c = 0x0B ∧ l.handing then handedTo s p q.tag r.value
    else
      let s := if c = 0 then updateHead s p l else s
      let s := modLive s p q.tag fun l => l.released q.handle c
      match liveOf s p q.tag with
      | none => s
      | some l => if l.awaits = [] then finalItem s p q.tag else s

/-- A RELEASE that waited for writes in progress is sent (R179). -/
def releaseOn (s : State) (p : Nat) (tag : BitVec 48) : State :=
  match liveOf s p tag with
  | none => s
  | some l =>
    match l.releaseDue with
    | none => s
    | some discard => if writing s p l then s else sendReleases s p tag discard

/-! ### Writes that end (R103, R158, R159, R172, R184) -/

/-- The live requests, each with the copy, that a descriptor writes to, lost copies among them. -/
def writtenCopies (s : State) (p : Nat) (d : Descriptor) : List (BitVec 48 × Word) :=
  (livesOf s p).flatMap fun l => ((l.copies ++ l.lost).filter fun c => (writesTo s p l c d).isSome).map fun c => (l.req.tag, c)

/-- A descriptor of a flush that was stopped with 0x08 is issued again (Table 15-5). -/
def flushAgain (s : State) (p : Nat) (tag : BitVec 48) (d : Descriptor) : State :=
  match liveOf s p tag with
  | none => s
  | some l => if l.releasing then s else s.modHold p fun h => { h with moves := (.flush tag, d) :: h.moves }

/-- A MOVE of a prefix copy has ended; after the last the source's entry is loaded again (Table 08-2). -/
def copyMoved (s : State) (p : Nat) (tag : BitVec 48) (c : Byte) : State :=
  match liveOf s p tag with
  | none => s
  | some l =>
    match l.copy with
    | none => s
    | some x =>
      let s := modLive s p tag fun l => { l with
        copy := some { x with moves := x.moves - 1, failed := x.failed || decide (c ≠ 0) } }
      if x.moves ≤ 1 then loadSource s p l x.source else s

/-- A write of a prefill to a copy has failed: the copy's COMMIT waits until the replay has made it again (R159,
R184). -/
def prefillFailed (s : State) (p : Nat) (x : BitVec 48 × Word) : State :=
  modLive s p x.1 fun l =>
    if l.req.phase = 1 then { l with due := l.due.map fun d => { d with failed := d.failed || decide (d.copy = x.2) } } else l

/-- A descriptor has completed with a code: a copy that it could not reach is lost, without failing the step of a
prefill; a flush that fails otherwise ends its request; the failure of a prefill's or a program's is the step's. Then
COMMITs and RELEASEs that waited for it go out. -/
def writeEnded (s : State) (p : Nat) (owner : MoveOwner) (d : Descriptor) (c : Byte) : State :=
  let copies := writtenCopies s p d
  let s := if isLost c ∧ copies ≠ [] then copies.foldl (fun s x => lostInStep s p x.1 x.2) s
    else match owner with
      | .prefixCopy _ => s
      | .flush tag => if c = 0 ∨ c = 0x0F ∨ isLost c then s else if c = 8 then flushAgain s p tag d else endWith s p tag c false
      | _ => if c = 0 then s else copies.foldl (fun s x => prefillFailed s p x) (noteStep s p c)
  let s := match owner with
    | .prefixCopy tag => copyMoved s p tag c
    | _ => s
  copies.foldl (fun s x => releaseOn (if c = 0 ∨ isLost c then flushOn s p x.1 else s) p x.1) s

/-! ### Hand-offs being taken (R165 to R167, R184) -/

/-- The record being taken under a tag. -/
def takingOf (s : State) (p : Nat) (tag : BitVec 48) : Option Taking :=
  (s.part p).hold.taking.find? fun k => decide (k.req.tag = tag)

def modTaking (s : State) (p : Nat) (tag : BitVec 48) (f : Taking → Taking) : State :=
  s.modHold p fun h => { h with taking := h.taking.map fun k => if k.req.tag = tag then f k else k }

def dropTaking (s : State) (p : Nat) (tag : BitVec 48) : State :=
  s.modHold p fun h => { h with taking := h.taking.filter fun k => decide (k.req.tag ≠ tag) }

/-- Answer the HANDOFF of a record that is being taken, and forget it. -/
def takingEnds (s : State) (p : Nat) (k : Taking) (c : Byte) (holder : Word) : State :=
  let s := dropTaking s p k.req.tag
  svcReply s p k.h { replyHdr s p k.h c with posA := freeTails s p k.req.model, value := holder } []

/-- Every TRANSFER has answered 0x00: the record, the reply, the batch (R167). A request that is live here already
is answered only. Capacity and BASE of its copies, which no message has told this partition, start at 0, so that the
first flush sends GROW to every copy (DESIGN CHOICE, notes/assumptions/28.md). -/
def takingAccepted (s : State) (p : Nat) (k : Taking) : State :=
  let l : Live :=
    { req := { k.req with holderDevice := s.fab.device.toNat, holderPartition := p }, charged := true, granted := true }
  let s := if (recOf s p k.req.tag).isSome then s
    else s.modHold p fun h => { h with lives := h.lives ++ [l.joined s p] }
  takingEnds s p k 0 (holderValue s.fab.device.toNat p)

/-- The record is accepted at a step boundary: at once where no step runs (R167). -/
def takingReady (s : State) (p : Nat) (tag : BitVec 48) : State :=
  match takingOf s p tag with
  | none => s
  | some k =>
    if (s.part p).hold.step.isSome then modTaking s p tag fun k => { k with ready := true }
    else takingAccepted s p k

/-- Send TRANSFER for a record to a copy, naming the sender of the HANDOFF as expected holder (R165). -/
def sendTransfer (s : State) (p : Nat) (k : Taking) (handle : Word) : State :=
  askCopy s p { req := k.req } 4 handle 0 0 (holderValue k.h.fromDevice k.h.fromPartition)

/-- A TRANSFER is answered (R165 to R167, R184). -/
def transferAnswered (s : State) (p : Nat) (q r : SvcHdr) (c : Byte) : State :=
  match takingOf s p q.tag with
  | none => s
  | some k =>
    let both := decide (k.req.mirror ≠ allOnes64) && !k.req.onMirror
    if k.ready then s
    else if c = 0 then
      if both ∧ q.handle = k.req.last then sendTransfer s p k k.req.mirror else takingReady s p q.tag
    else if isLost c ∨ c = 0x0C then
      if !both then takingEnds s p k 0x0C 0
      else if q.handle = k.req.mirror then
        takingReady (modTaking s p q.tag fun k => { k with req := { k.req with mirror := allOnes64 } }) p q.tag
      else sendTransfer (modTaking s p q.tag fun k => { k with req := { k.req with onMirror := true } }) p k k.req.mirror
    else if c = 0x0B then takingEnds s p k 0 r.value
    else takingEnds s p k c 0

/-! ### Hand-offs sent (R162, R168, R179) -/

/-- What a HANDOFF reply says of the target's free tails; a message without a reply says nothing (R162). -/
def noteTarget (s : State) (p : Nat) (target : Option Nat) (r : SvcHdr) : State :=
  match target with
  | none => s
  | some i =>
    if !r.reply then s
    else s.modPLast p fun x => { x with
      targets := x.targets.put i { x.targets.at i {} with fullAt := if r.posA = 0 then some s.now else none } }

/-- A HANDOFF is answered (R168, R179). -/
def handoffAnswered (s : State) (p : Nat) (q r : SvcHdr) (c : Byte) : State :=
  match liveOf s p q.tag with
  | none => s
  | some l =>
    let s := noteTarget s p l.handoffTo r
    if l.req.phase ≠ 3 ∨ l.releasing then s
    else if c = 0 then
      handedTo (s.modPLast p fun x => { x with lastTarget := l.handoffTo }) p q.tag r.value
    else if c = 0x0C then endNow s p q.tag 0x0C
    else if l.req.cancel then endWith s p q.tag 0 true
    else nextTarget s p q.tag

/-! ### QUERY replies (R171, R184, R282, Table 15-5) -/

/-- A request ends with a code where its work stands: before its COMMIT with DISCARD (R179, R184). -/
def endRunning (s : State) (p : Nat) (tag : BitVec 48) (c : Byte) : State :=
  match liveOf s p tag with
  | none => s
  | some l => if l.req.phase ≤ 1 then endEarly s p tag c else endWith s p tag c false

/-- A holder's QUERY has ended. One whose stream has left its step is discarded, unless no reply came at all; in PHASE
0x03, and while the request is being released, none changes anything (R13, R180). -/
def queryAnswered (s : State) (p : Nat) (x : SvcSent) (c : Byte) : State :=
  match liveOf s p x.h.tag with
  | none => s
  | some l =>
    let tag := x.h.tag
    if l.releasing ∨ l.req.phase = 3 then s
    else if isLost c then lostInStep (if l.prefilling then noteStep s p 3 else s) p tag x.h.handle
    else if c = 0 ∨ x.stale then s
    else if c = 4 then
      match l.copies.filter fun h => decide (h ≠ x.h.handle) with
      | h :: _ => (svcSend s p (handleDevice h) (handlePart h) { x.h with handle := h } x.payload).2
      | [] => endRunning s p tag 0x0C
    else if c = 5 ∨ c = 0x0C then noteStep (endRunning s p tag c) p c
    else noteStep s p c

/-! ### Outcomes of messages (R147, R149, R153, R412) -/

/-- A request of this partition's service may be sent again under CURRENT (R412). -/
def reResolves (s : State) (p : Nat) (x : SvcSent) : Option Nat :=
  match (s.mgmt.comps.filterMap fun kv => kv.2.current).find? fun m => mapNames m s.fab.device.toNat p with
  | none => none
  | some m =>
    if mapNames m x.toDevice x.toPart ∧ 1 ≤ (m.epoch + 65536 - x.h.epoch) % 65536
        ∧ (m.epoch + 65536 - x.h.epoch) % 65536 ≤ 32767 then some m.epoch
    else none

/-- Send a request again with a new MSG_ID; what waits on the old one waits on the new one. -/
def resendAs (s : State) (p id : Nat) (x : SvcSent) (epoch : Nat) : State :=
  let r := svcSend s p x.toDevice x.toPart { x.h with epoch := epoch } x.payload
  let move := fun (m : KMap Nat) => match m.find id with
    | none => m
    | some v => (m.del id).put r.1 v
  let s := r.2.modPLast p fun l => { l with
    partnerOpens := match l.partnerOpens.find id with
      | none => l.partnerOpens
      | some v => (l.partnerOpens.del id).put r.1 v
    bringUps := move l.bringUps
    repairs := match l.repairs.find id with
      | none => l.repairs
      | some v => (l.repairs.del id).put r.1 v
    queries := l.queries.map fun j => if j.stripe = some id then { j with stripe := some r.1 } else j
    sent := l.sent.mapVals fun k v => if k = r.1 then { v with slots := x.slots, msgs := x.msgs, stale := x.stale } else v }
  modTaking (modLive s p x.h.tag fun l => { l with
    req := { l.req with epoch := epoch }, handoffId := if l.handoffId = id then r.1 else l.handoffId }) p x.h.tag fun k =>
    { k with req := { k.req with epoch := epoch } }

/-- The message goes to the pair partner on the service's own behalf. -/
def toPartner (x : SvcSent) : Bool :=
  decide (x.h.op = 1) && x.h.partner || decide (x.h.op = 5) && (fld x.payload 3 1).testBit 0

/-- A message to the partner has ended: an OPEN or a probe for an OPEN here, a copy of the rebuilding, or a stripe
of a QUERY (R154, R185, R186, R249). -/
def partnerAnswered (s : State) (p id : Nat) (x : SvcSent) (r : SvcHdr) (c : Byte) (payload : List Byte) : State :=
  let s := notePartner s p (decide (c = 3))
  let l := (s.part p).last
  match l.repairs.find id, l.partnerOpens.find id, l.bringUps.find id with
  | some k, _, _ => repairAnswered (s.modPLast p fun l => { l with repairs := l.repairs.del id }) p k.1 k.2 x.h c
  | none, some (n, h), _ =>
    let s := s.modPLast p fun l => { l with partnerOpens := l.partnerOpens.del id }
    if x.h.op = 5 then probeAnswered s p n h c else partnerGrant s p n h r c
  | none, none, some n => bringUpAnswered (s.modPLast p fun l => { l with bringUps := l.bringUps.del id }) p n x c
  | none, none, none => stripeEnds s p id c payload

/-- The OPEN of a request has ended. -/
def openAnswered (s : State) (p : Nat) (x : SvcSent) (r : SvcHdr) (c : Byte) (payload : List Byte)
    (source : Option (List Byte)) : State :=
  match liveOf s p x.h.tag with
  | none => s
  | some l =>
    if l.granted then s
    else if c = 0 then
      let s := takeGrant s p l x.h.handle r payload source
      if l.releasing then releaseCopies s p x.h.tag true else s
    else if l.releasing then finalItem s p x.h.tag
    else openRefused s p l x.h.handle c

/-- A request has ended with a code: `r` is its reply's header, the request's own where there is none. -/
def svcOutcome (s : State) (p id : Nat) (x : SvcSent) (r : SvcHdr) (c : Byte) (payload : List Byte)
    (source : Option (List Byte)) : State :=
  if toPartner x then partnerAnswered s p id x r c payload
  else match x.h.op.toNat with
  | 1 => openAnswered s p x r c payload source
  | 2 => commitAnswered s p x.h c
  | 3 =>
    match (s.part p).last.bringUps.find id with
    | some n => bringUpAnswered ((notePartner s p (decide (c = 3))).modPLast p fun l => { l with
        bringUps := l.bringUps.del id }) p n x c
    | none => releaseAnswered s p x.h r c
  | 4 => transferAnswered s p x.h r c
  | 5 => queryAnswered s p x c
  | 6 => handoffAnswered s p x.h r c
  | 7 => cancelsEnd s p x.slots x.msgs c
  | 8 => growAnswered s p x.h r c
  | _ => s

/-- A sent request is answered, or fails, with a code: 0x06 re-resolves or counts as 0x03 (R412). -/
def svcEnds (s : State) (p id : Nat) (x : SvcSent) (r : SvcHdr) (c : Byte) (payload : List Byte)
    (source : Option (List Byte)) : State :=
  let s := s.modPLast p fun l => { l with sent := l.sent.del id }
  if c = 6 then
    match reResolves s p x with
    | some e => resendAs s p id x e
    | none => svcOutcome s p id x r 3 payload source
  else svcOutcome s p id x r c payload source

/-- A reply arrives: matched by MSG_ID, discarded when nothing waits for it (R147, R149); a module without a device
number is delivered none (R342). -/
def svcReplied (s : State) (p : Nat) (h : SvcHdr) (payload : List Byte) (source : Option (List Byte)) : State :=
  if s.fab.device = 0xFFFF ∨ !h.reply ∨ s.code p ≠ 5 ∨ !codeDefined h.status then s
  else match (s.part p).last.sent.find h.msgId with
    | none => s
    | some x => if x.h.op ≠ h.op then s else svcEnds s p h.msgId x h h.status payload source

/-- A packet of a sent request has failed with a code (R144, R361). -/
def svcFailed (s : State) (p id : Nat) (c : Byte) : State :=
  match (s.part p).last.sent.find id with
  | none => s
  | some x => svcEnds s p id x x.h c [] none

/-! ### Cancels (R178 to R181) -/

/-- A cancel takes effect at a step boundary, by the request's PHASE (R179); in PHASE 0x02 it waits for the commit,
and in PHASE 0x03 for the reply to a HANDOFF that is outstanding. In PHASE 0x01 with COMMIT sent to one copy and not
yet to the other it releases with DISCARD too (DESIGN CHOICE, notes/assumptions/28.md). -/
def takeCancel (s : State) (p : Nat) (tag : BitVec 48) : State :=
  match liveOf s p tag with
  | none => s
  | some l =>
    if !l.req.cancel then s
    else if l.req.phase ≤ 1 then endEarly s p tag 0
    else if l.req.phase = 4 then finishRequest s p tag 0 none
    else if l.req.phase = 3 ∧ !handoffSent s p tag then endWith s p tag 0 true
    else s

/-- Submit a cancel of a tag: it completes a slot or a CANCEL request (R178, R181). -/
def submitCancel (s : State) (p : Nat) (tag : BitVec 48) (slots : List Nat) (msgs : List SvcHdr) : State :=
  match recOf s p tag with
  | some l =>
    if l.ended then cancelsEnd s p slots msgs l.cancelCode
    else
      let s := modLive s p tag fun l => { l with
        cancelSlots := l.cancelSlots ++ slots, cancelMsgs := l.cancelMsgs ++ msgs
        req := if l.req.phase < 5 then { l.req with cancel := true } else l.req }
      if (s.part p).hold.step.isNone ∧ !l.req.cancel then takeCancel s p tag else s
  | none =>
    match (s.part p).last.forwards.find? fun f => decide (f.tag = tag) with
    | some f => forwardCancel s p tag f.device f.partition slots msgs
    | none => cancelsEnd s p slots msgs 1

end Sys2Proof.Machine
end

