-- ==== Sys2Proof/Machine/Awls.lean ====
section
/-! DEFINITION. The Awls: rings, descriptors, requests, completion, and TACK (03 R89 to R108, 04 R135 and
R140 to R143, 09 R296 to R302). -/

namespace Sys2Proof.Machine

/-- The partition that an Awl serves (R89), while it is Open and the module runs work. -/
def awlPart (s : State) (n : Nat) : Option Nat :=
  match s.blockOwner (n / 8) with
  | none => none
  | some p => if s.code p = 5 ∧ (s.regs.state = 5 ∨ s.regs.state = 7) then some p else none

/-! ### Checks (R98, R141) -/

/-- The counters and the lane that FLAGS use belong to the partition (R98 check 2). -/
def ownsUsed (s : State) (p : Nat) (d : Descriptor) : Bool :=
  (!d.waits || s.ownsCtr p d.waitCounter) && (!d.signals || s.ownsCtr p d.signalCounter)
    && (!d.item || s.ownsLane p d.doneLane)

/-- A side of a MOVE or FILL row lies where its Awl may reach (R98 check 2, R295, R349). -/
def rowInRange (s : State) (p : Nat) (remote write : Bool) (addr len : Nat) : Bool :=
  if remote then decide (addr + len ≤ 2 ^ 54 ∧ bitsOf addr 0 48 + len ≤ 2 ^ 48)
  else inRange s p (fun e => !write || decide (e.use ≠ 5)) true addr len

/-- The places of source row `r`, run by run. -/
def srcPlaces (s : State) (p : Nat) (d : Descriptor) (r : Nat) : List Place :=
  (runsOf s p d.remoteSrc (d.srcRow r) d.length).map fun x => sideOf s p d.remoteSrc d.device (d.srcRow r + x.1)

/-- The places of output row `r`, run by run. -/
def dstPlaces (s : State) (p : Nat) (d : Descriptor) (r : Nat) : List Place :=
  (runsOf s p d.remoteDst (d.dstRow r) d.outLen).map fun x => sideOf s p d.remoteDst d.device (d.dstRow r + x.1)

/-- The rules for rows that touch neighbour and NVMe regions, in every byte of every row (R296 to R298). -/
def tierRulesHold (s : State) (p : Nat) (d : Descriptor) : Bool :=
  let src := if d.opcode = 2 then [] else (List.range d.rows).flatMap (srcPlaces s p d)
  let dst := (List.range d.outRows).flatMap (dstPlaces s p d)
  let onOwn := fun (a len : Nat) => inRange s p onSled false a len
  if (src ++ dst).contains .unmapped then false
  else if (src ++ dst).any Place.isNvme then
    decide (d.opcode = 1 ∧ d.transform = 0 ∧ d.rows = 1 ∧ d.src % 4096 = 0 ∧ d.dst % 4096 = 0
        ∧ d.length % 4096 = 0)
      && (if src.any Place.isNvme then !d.remoteDst && onOwn d.dst d.length
        else !d.remoteSrc && onOwn d.src d.length)
  else true

/-- Check 1 of R98 and, for TACK, of R141. -/
def descCheck1 (s : State) (p : Nat) (d : Descriptor) : Bool :=
  if d.opcode = 1 then
    decide (d.transform ≤ 7) && (decide (d.transform ≠ 1 ∧ d.transform ≠ 3) || decide (d.head ≠ 3))
      && !(d.remoteSrc && d.remoteDst) && wholeUnits d.transform d.head d.rows d.length
      && (decide (d.transform ≠ 7) || decide (d.dstStride = d.length)) && (d.empty || tierRulesHold s p d)
  else if d.opcode = 2 then !(d.remoteSrc && d.remoteDst) && (d.empty || tierRulesHold s p d)
  else if d.opcode = 3 then
    decide (bitsOf d.flags 4 4 = 0 ∧ d.rowBytes ≤ 65536 ∧ d.tackRows ≤ 4096)
  else false

/-- The spans of check 2 of R98 and R141. -/
def spansInRange (s : State) (p : Nat) (d : Descriptor) : Bool :=
  if d.empty then true
  else if d.opcode = 3 then
    inRange s p onSled false d.src (d.tackRows * d.rowBytes)
      && inRange s p onSled false d.indexAt (d.tackRows * 8)
      && inRange s p onSledW false d.windowBase d.windowBytes
  else
    (decide (d.opcode = 2) || (List.range d.rows).all fun r =>
        rowInRange s p d.remoteSrc false (d.srcRow r) d.length)
      && (List.range d.outRows).all fun r => rowInRange s p d.remoteDst true (d.dstRow r) d.outLen

/-- The code with which a descriptor completes at its turn, 0x00 when it may go on (R98, R141). -/
def descCheck (s : State) (p : Nat) (d : Descriptor) : Byte :=
  if !descCheck1 s p d then 0x0B
  else if !(ownsUsed s p d && spansInRange s p d) then 0x0D
  else if decide (d.opcode ≠ 3) && decide (d.dstLimit < d.dstSpan) then 2
  else 0

/-! ### Completion (R87, R92, R103, R108) -/

/-- A descriptor completes: AWL_DONE and LAST_FAIL, then the SIGNAL add, then the item (R103). Counters
and lanes the partition does not own are left alone. A step in flight and the holder learn of the end (R496,
R159). -/
def awlComplete (s : State) (n p : Nat) (j : AwlJob) : State :=
  let a := s.awl n
  let s := (traceEvent s p .awl n j.index.toNat).setAwl n { a with
    done := satAdd (2 ^ 64 - 1) a.done 1
    lastFail := if j.status = 0 then a.lastFail else j.status }
  let s := if j.desc.signals ∧ s.ownsCtr p j.desc.signalCounter then
      ctrAdd s j.desc.signalCounter 1 (j.status != 0) else s
  let s := if j.desc.item ∧ s.ownsLane p j.desc.doneLane then laneGive s j.desc.doneLane .awl (awlItem n j) else s
  writeEnded s p j.owner j.desc j.status

/-- An Awl moves past the entry at the head of its ring (R92). -/
def Awl.advance (a : Awl) : Awl := { a with head := a.head + 1, owned := a.owned.del a.head.toNat }

/-- Who put the entry at the head of an Awl's ring there. -/
def Awl.maker (a : Awl) : MoveOwner := ((a.owned.find a.head.toNat).map (·.1)).getD .program

/-- An entry that cannot be read is consumed: its code stands in LAST_FAIL (R92). The holder learns it of an entry of
its own. -/
def awlUnreadable (s : State) (n p : Nat) (c : Byte) : State :=
  let a := s.awl n
  let s := s.setAwl n { a.advance with done := satAdd (2 ^ 64 - 1) a.done 1, lastFail := c }
  match a.owned.find a.head.toNat with
  | none => s
  | some x => writeEnded s p x.1 x.2 c

/-- The requests outstanding of an Awl (Table 03-17). -/
def Awl.outstanding (a : Awl) : Nat := (a.jobs.map fun j => j.outstanding.length).foldl (· + ·) 0

/-- Replace the job with an index. -/
def Awl.setJob (a : Awl) (j : AwlJob) : Awl :=
  { a with jobs := a.jobs.map fun x => if x.index = j.index then j else x }

def Awl.job (a : Awl) (index : BitVec 32) : Option AwlJob := a.jobs.find? fun j => decide (j.index = index)

/-- The first failure of a started descriptor: no further request is issued (R104). -/
def AwlJob.fail (j : AwlJob) (c : Byte) (detail : Nat) : AwlJob :=
  if j.status = 0 then { j with status := c, detail := detail, issue := [] } else { j with issue := [] }

/-! ### Source rows and output rows (R94, R314) -/

/-- Where byte `off` of source row `r` lies. -/
def srcPlace (s : State) (p : Nat) (d : Descriptor) (r off : Nat) : Place :=
  sideOf s p d.remoteSrc d.device (d.srcRow r + off)

/-- Where byte `off` of output row `r` lies. -/
def dstPlace (s : State) (p : Nat) (d : Descriptor) (r off : Nat) : Place :=
  sideOf s p d.remoteDst d.device (d.dstRow r + off)

/-- The fetched piece of source row `r` that holds byte `i` of it. -/
def fetchedAt (j : AwlJob) (r i : Nat) : Option (Nat × Nat × List Byte) :=
  j.fetched.find? fun x => decide (x.1 = r ∧ x.2.1 ≤ i ∧ i < x.2.1 + x.2.2.length)

/-- Every remote read of source row `r` has brought its data. -/
def rowFetched (j : AwlJob) (r : Nat) : Bool :=
  !(j.issue ++ j.outstanding).any fun q => q.read && decide (q.row = r)

/-- The bytes of source row `r`: those that remote reads have brought, over those of this module. -/
def sourceRow (s : State) (p : Nat) (j : AwlJob) (r : Nat) : List Byte :=
  let own := loadBytes s p (j.desc.srcRow r) j.desc.length
  if j.fetched = [] then own
  else own.zipIdx.map fun b => match fetchedAt j r b.2 with
    | some x => x.2.2.getD (b.2 - x.2.1) 0
    | none => b.1

/-- The source rows that output row `r` is made from. -/
def rowsFor (d : Descriptor) (r : Nat) : List Nat := if d.form = 7 then List.range d.rows else [r]

/-- The pattern of a FILL repeated from its row's start (R93). -/
def fillBytes (d : Descriptor) (off len : Nat) : List Byte :=
  let pat := leBytes 8 d.src
  (List.range len).map fun i => pat.getD ((off + i) % 8) 0

/-- Bytes `off` to `off + len - 1` of output row `r`. -/
def outBytes (s : State) (p : Nat) (j : AwlJob) (r off len : Nat) : List Byte :=
  let d := j.desc
  if d.opcode = 2 then fillBytes d off len
  else if d.form = 7 then
    let m := (rowsFor d r).flatMap (sourceRow s p j)
    (List.range len).map fun i => m.getD (tileIndex d.length (off + i)) 0
  else slice (convertRow d.form d.head (sourceRow s p j r)) off len

/-- The source bytes on this module that a piece of an output row is read from: offset and length. A
conversion reads its whole row. -/
def sourceSpans (d : Descriptor) (r off len : Nat) : List (Nat × Nat) :=
  if d.opcode = 2 then []
  else if d.opcode = 1 ∧ d.form = 0 then [(d.srcRow r + off, len)]
  else if d.opcode = 3 then [(d.srcRow r + off, len)]
  else (rowsFor d r).map fun q => (d.srcRow q, d.length)

/-- The runs of source spans that lie on this module. -/
def ownSpans (s : State) (p : Nat) (d : Descriptor) (spans : List (Nat × Nat)) : List (Nat × Nat) :=
  if d.remoteSrc then []
  else spans.flatMap fun x => ((runsOf s p false x.1 x.2).filter fun y => decide (placeOf s p (x.1 + y.1) = .own)).map
    fun y => (x.1 + y.1, y.2)

/-- The first read that fails among source spans on this module: code and offset in the source span (R108). An
uncorrectable word is named by its first byte in the span (DESIGN CHOICE, notes/assumptions/56.md). -/
def sourceFailure (s : State) (p : Nat) (d : Descriptor) (spans : List (Nat × Nat)) : Option (Byte × Nat) :=
  ((ownSpans s p d spans).findSome? fun x => readFailure s p x.1 x.2).map fun c => (c.1, c.2 - d.src)

/-- The fault records of the uncorrectable words that source spans meet, when code `c` says that they do
(R320). -/
def sourceFaults (s : State) (p : Nat) (d : Descriptor) (spans : List (Nat × Nat)) (c : Byte) : State :=
  if c = 4 then (ownSpans s p d spans).foldl (fun s x => badWordFaults s p x.1 x.2 d.tag) s else s

/-! ### Splitting and issuing (R100, R101) -/

/-- A request's number in its descriptor. -/
def reqId (read : Bool) (row off : Nat) : Nat := (row * 2 ^ 32 + off) * 2 + bit read

def mkReq (read : Bool) (row : Nat) (x : Nat × Nat) : AwlReq :=
  { id := reqId read row x.1, read := read, row := row, off := x.1, len := x.2 }

/-- A descriptor copies its source bytes unchanged. -/
def Descriptor.copies (d : Descriptor) : Bool := decide (d.opcode = 1 ∧ d.form = 0)

/-- The runs of output row `r` that change neither their destination's region nor, where bytes are copied
unchanged, their source's. -/
def rowRuns (s : State) (p : Nat) (d : Descriptor) (r : Nat) : List (Nat × Nat) :=
  let dst := if d.remoteDst then [] else regionCuts s p (d.dstRow r) d.outLen
  let src := if d.copies && !d.remoteSrc then regionCuts s p (d.srcRow r) d.outLen else []
  (dst ++ src).foldl cutAt [(0, d.outLen)]

/-- The writes of output row `r`, split at 256-byte boundaries of the destination (R100). -/
def rowWrites (s : State) (p : Nat) (d : Descriptor) (r : Nat) : List AwlReq :=
  (rowRuns s p d r).flatMap fun x =>
    (pieces 256 (d.dstRow r + x.1) x.2).map fun y => mkReq false r (x.1 + y.1, y.2)

/-- Some bytes of source row `r` come by remote reads. -/
def remoteRow (s : State) (p : Nat) (d : Descriptor) (r : Nat) : Bool :=
  decide (d.opcode = 1) && (srcPlaces s p d r).any Place.isRemote

/-- The reads of the remote bytes of source row `r`, split at 256-byte boundaries of the remote-line offset
(R100). -/
def rowReads (s : State) (p : Nat) (d : Descriptor) (r : Nat) : List AwlReq :=
  (runsOf s p d.remoteSrc (d.srcRow r) d.length).flatMap fun x =>
    match srcPlace s p d r x.1 with
    | .remote _ addr => (pieces 256 addr x.2).map fun y => mkReq true r (x.1 + y.1, y.2)
    | _ => []

/-- The first requests of a started MOVE or FILL: reads of remote rows, writes of the rows whose source
is here. -/
def firstRequests (s : State) (p : Nat) (d : Descriptor) : List AwlReq :=
  (List.range d.outRows).flatMap fun r =>
    let far := (rowsFor d r).filter (remoteRow s p d)
    if far = [] then rowWrites s p d r else far.flatMap (rowReads s p d)

/-- The requests of a TACK whose index table has been read. -/
def tackRequests (d : Descriptor) (table : List (Option Nat)) : List AwlReq :=
  (List.range table.length).flatMap fun r =>
    match table.getD r none with
    | none => []
    | some dst => (pieces 256 dst d.rowBytes).map (mkReq false r)

/-- The destination of a request's first byte. -/
def reqDst (j : AwlJob) (q : AwlReq) : Nat :=
  if j.desc.opcode = 3 then (j.table.getD q.row none).getD 0 + q.off else j.desc.dstRow q.row + q.off

/-- Bytes of output row `q.row` that a write request carries. -/
def reqBytes (s : State) (p : Nat) (j : AwlJob) (q : AwlReq) : List Byte :=
  if j.desc.opcode = 3 then loadBytes s p (j.desc.srcRow q.row + q.off) q.len
  else outBytes s p j q.row q.off q.len

/-- Wake the block of a bench that a request touches, unless it runs (R463). -/
def wakeFor (s : State) (off : Nat) : State :=
  if off < benchBase then s
  else
    let b := (off - benchBase) / 0x1000_0000
    let w := (s.block b).pwr
    if w.state = 0 then s else s.setPwr b { w with waking := true }

/-- A bench that a request touches is powered (R463). -/
def benchReady (s : State) (off : Nat) : Bool :=
  decide (off < benchBase) || decide ((s.block ((off - benchBase) / 0x1000_0000)).pwr.state ≠ 2)

/-- Send an NVMe command for Awl requests, `q` standing for all their bytes, which lie at `off` of the range on the drive
(R301, R302). -/
def sendNvme (s : State) (n p : Nat) (j : AwlJob) (q : AwlReq) (write flush : Bool)
    (drive nsid byte addr off : Nat) (bytes : List Byte) : State :=
  nvSend s { id := 0, drive := drive, awl := n, index := j.index, req := q.id, write := write, part := p, addr := addr,
             len := q.len, sentAt := 0, nsid := nsid, flush := flush, off := off } byte bytes

/-- The pages that a descriptor writes whole (R449). -/
def coversPage (d : Descriptor) (g : Nat) : Bool :=
  decide (d.opcode ≠ 3 ∧ (d.outRows = 1 ∨ d.dstStride = d.outLen) ∧ d.dst ≤ g * 65536
    ∧ (g + 1) * 65536 ≤ d.dst + d.dstSpan)

/-- The requests from the front of a list that one NVMe command carries: they follow one another in a row, within
128 KiB of the destination (Table 09-3, R100). -/
def nvGroup (d : Descriptor) : List AwlReq → List AwlReq
  | [] => []
  | [q] => [q]
  | q :: r :: rest =>
    if r.row = q.row ∧ r.off = q.off + q.len ∧ (d.dstRow r.row + r.off) % 131072 ≠ 0 then q :: nvGroup d (r :: rest)
    else [q]

/-- What issuing a request gives: the state, the code with which the request fails at once, 0x00 when it is
outstanding, the DETAIL of that failure (R108), and the way it went. -/
structure Issued where
  state : State
  code : Byte := 0
  detail : Nat := 0
  way : ReqWay := .own

/-- DETAIL of a failure at byte `off` of source row `row`, and of output row `row` (R108). -/
def srcDetail (d : Descriptor) (row off : Nat) : Nat := d.srcRow row + off - d.src
def dstDetail (d : Descriptor) (row off : Nat) : Nat :=
  if d.opcode = 3 then row * d.rowBytes + off else d.dstRow row + off - d.dst

/-- Hand a remote-line packet of a request to the transport; 0x03 towards a LOST device (R381). -/
def issueRemote (s : State) (n : Nat) (j : AwlJob) (q : AwlReq) (device : Nat) (pkt : TxPacket)
    (detail : Nat) : Issued :=
  match xtSubmit s device 2 (unsent pkt 1 n j.index.toNat q.id) with
  | some s => { state := s, way := .remote }
  | none => { state := s, code := 3, detail := detail }

/-- Issue a read of a remote source (R100). Its mapping may have gone since the checks (R297, R299). -/
def issueRead (s : State) (n p : Nat) (j : AwlJob) (q : AwlReq) : Issued :=
  let at_ := srcDetail j.desc q.row q.off
  match srcPlace s p j.desc q.row q.off with
  | .remote dev addr => issueRemote s n j q dev (lineRequest s p 1 dev addr (leBytes 2 q.len) []) at_
  | _ => { state := s, code := 0x0B, detail := at_ }

/-- The memory of this module that a request reads passes its Squares (R362, R364). -/
def passSpans (s : State) (p : Nat) (d : Descriptor) (spans : List (Nat × Nat)) : State :=
  (ownSpans s p d spans).foldl (fun s x => passSquares s p x.1 x.2) s

/-- The source of a write request is read as it is issued when the bytes leave the module: `go` issues it
unless that read fails. -/
def readSource (s : State) (p : Nat) (d : Descriptor) (q : AwlReq) (go : State → Issued) : Issued :=
  let spans := sourceSpans d q.row q.off q.len
  let s := passSpans s p d spans
  match sourceFailure s p d spans with
  | some (c, at_) => { state := sourceFaults s p d spans c, code := c, detail := at_ }
  | none => go s

/-- Issue a write to memory of this module, whose bytes may come from a drive (R298, R301). -/
def issueOwn (s : State) (n p : Nat) (j : AwlJob) (q : AwlReq) : Issued :=
  let d := j.desc
  let dst := reqDst j q
  let s := wakeFor s dst
  let s := if d.opcode = 1 ∧ !d.remoteSrc then wakeFor s (d.srcRow q.row) else s
  if !d.copies || (fetchedAt j q.row q.off).isSome then { state := s }
  else
    let at_ := srcDetail d q.row q.off
    match srcPlace s p d q.row q.off with
    | .nvme drive nsid byte =>
      let far := d.srcRow q.row + q.off
      if blankPage s p far then { state := s }  -- zeros, with no command (R444)
      else if retiredPage s p far then { state := s, code := 5, detail := at_ }
      else if (s.drive drive).state ≠ 1 then { state := s, code := 3, detail := at_ }
      else { state := sendNvme s n p j q false false drive nsid byte dst far [], way := .nvRead }
    | .unmapped => { state := s, code := 0x0B, detail := at_ }
    | _ => { state := s }

/-- Issue one request (R100, R297 to R302). -/
def issueOne (s : State) (n p : Nat) (j : AwlJob) (q : AwlReq) : Issued :=
  let d := j.desc
  let at_ := dstDetail d q.row q.off
  match q.way with
  | .flush drive nsid =>
    if (s.drive drive).state ≠ 1 then { state := s, code := 3, detail := at_ }
    else { state := sendNvme s n p j q false true drive nsid 0 0 0 [], way := q.way }
  | _ =>
  if q.read then issueRead s n p j q
  else if d.opcode = 3 then issueOwn s n p j q
  else match dstPlace s p d q.row q.off with
    | .remote dev addr => readSource s p d q fun s =>
      issueRemote s n j q dev (lineRequest s p 2 dev addr (leBytes 2 q.len) (reqBytes s p j q)) at_
    | .nvme drive nsid byte =>
      let far := reqDst j q
      if retiredPage s p far && !coversPage d (far / 65536) then { state := s, code := 5, detail := at_ }
      else if (s.drive drive).state ≠ 1 then { state := s, code := 3, detail := at_ }
      else readSource s p d q fun s =>
        { state := sendNvme s n p j q true false drive nsid byte far far (reqBytes s p j q), way := .nvWrite }
    | .unmapped => { state := s, code := 0x0B, detail := at_ }
    | .own => issueOwn s n p j q

/-- The drive that a request of a descriptor reads or writes, and where its bytes lie in the range: none for what is read of
a blank page (R444). -/
def reqDrive (s : State) (p : Nat) (d : Descriptor) (q : AwlReq) : Option (Nat × Nat) :=
  match q.way with
  | .flush drive _ => some (drive, 0)
  | _ =>
  if q.read ∨ d.opcode = 3 then none
  else match dstPlace s p d q.row q.off, srcPlace s p d q.row q.off with
    | .nvme drive .., _ => some (drive, d.dstRow q.row + q.off)
    | _, .nvme drive .. =>
      let far := d.srcRow q.row + q.off
      if d.copies && !blankPage s p far then some (drive, far) else none
    | _, _ => none

/-- Two requests may go in one NVMe command: they meet one drive, and pages that are both retired or neither. -/
def oneCommand (s : State) (p : Nat) (d : Descriptor) (q r : AwlReq) : Bool :=
  match reqDrive s p d q, reqDrive s p d r with
  | some x, some y => decide (x.1 = y.1) && (retiredPage s p x.2 == retiredPage s p y.2)
  | _, _ => false

/-- The Awl on which a partition fetches endpoint contexts: Awl 7 of its lowest-numbered block (R377). -/
def fetchAwl (s : State) (p : Nat) : Option Nat := (s.blocksOf p).head?.map fun b => 8 * b + 7

/-- Request slots of an Awl in use: its requests outstanding and the context fetches on it (R100). -/
def slotsUsed (s : State) (n p : Nat) : Nat :=
  (s.awl n).outstanding + (if fetchAwl s p = some n then (s.part p).xt.fetches.length else 0)

/-- Context fetches that wait take free slots of Awl 7, at most 64 of its 512 (R100, R377). A slot that comes
free goes to a waiting fetch first (DESIGN CHOICE, notes/assumptions/30.md). -/
def grantFetches (p : Nat) : Nat → State → State
  | 0, s => s
  | fuel + 1, s =>
    let x := (s.part p).xt
    match x.fetchWait, fetchAwl s p with
    | ep :: rest, some n =>
      if 64 ≤ x.fetches.length ∨ 512 ≤ slotsUsed s n p then s
      else grantFetches p fuel (s.modXt p fun y => { y with fetches := y.fetches ++ [ep], fetchWait := rest })
    | _, _ => s

/-- The requests that issue together, at the front of a descriptor's: those of one NVMe command, else one. -/
def issueGroup (s : State) (p : Nat) (j : AwlJob) : List AwlReq :=
  match j.issue with
  | [] => []
  | q :: r =>
    match q.way with
    | .own => nvGroup j.desc (q :: r.takeWhile (oneCommand s p j.desc q))
    | _ => [q]

/-- The generations under which an issued request decrypts, till it ends (R447): what leaves the module was read as it was
issued. -/
def reqGens (s : State) (p : Nat) (d : Descriptor) (q : AwlReq) (way : ReqWay) : List Nat :=
  if q.read then []
  else match way with
    | .nvRead => spanGens s p (d.srcRow q.row + q.off) q.len
    | .own => ((ownSpans s p d (sourceSpans d q.row q.off q.len)).flatMap fun x => spanGens s p x.1 x.2).eraseDups
    | _ => []

/-- Requests that follow one another in a row, as one. -/
def joined (q : AwlReq) (l : List AwlReq) : AwlReq := { q with len := (l.map (·.len)).foldl (· + ·) 0 }

/-- Issue requests of an Awl, in ring order, while 512 slots are enough for them and the queue of a drive
has room (R100, Table 09-3). -/
def awlIssue (n p : Nat) : Nat → State → State
  | 0, s => s
  | fuel + 1, s =>
    match (s.awl n).jobs.find? fun j => !j.issue.isEmpty with
    | none => s
    | some j =>
      match issueGroup s p j with
      | [] => s
      | q :: r =>
        let all := joined q (q :: r)
        let waits := (reqDrive s p j.desc q).any fun x => nvQueueFull s p x.1 || nvFilling s p x.2 all.len
        if 512 < slotsUsed s n p + 1 + r.length ∨ waits then s
        else
          let x := issueOne s n p j all
          let rest := j.issue.drop (r.length + 1)
          let j' := if x.code = 0 then
              { j with issue := rest, outstanding := j.outstanding ++ (q :: r).map fun y =>
                { y with way := x.way, gens := reqGens s p j.desc y x.way } }
            else { j with issue := rest }.fail x.code x.detail
          awlIssue n p fuel (x.state.setAwl n ((x.state.awl n).setJob j'))

/-! ### Starting (R99, R102, R141) -/

/-- Read the index table of a TACK and check its entries (R141 check 3). -/
def tackStart (s : State) (p : Nat) (j : AwlJob) : State × AwlJob :=
  let s := settlePart s p
  let d := j.desc
  let span := d.tackRows * 8
  let c := if d.empty then 0 else readCode s p d.indexAt span
  if c ≠ 0 then
    let bad := ((readFailure s p d.indexAt span).map fun x => x.2 - d.indexAt).getD 0
    let s := if c = 4 then badWordFaults s p d.indexAt span d.tag else s
    (s, { j with status := c, detail := 2 ^ 63 + bad / 8 * 8 })
  else
    let table := (List.range (if d.empty then 0 else d.tackRows)).map fun i =>
      let e := leNat (loadBytes s p (d.indexAt + 8 * i) 8)
      if e.testBit 63 then none else some (e % 2 ^ 63)
    let ok := table.all fun
      | none => true
      | some o => decide (d.windowBase ≤ o ∧ o + d.rowBytes ≤ d.windowBase + d.windowBytes)
    if ok then (s, { j with table := table, issue := tackRequests d table })
    else (s, { j with status := 2 })

/-- A descriptor starts: it is in progress and its requests begin to issue (R99, R100). A TACK whose
index table fails completes at once (R141). -/
def awlStart (s : State) (n p : Nat) (j : AwlJob) : State :=
  let r := if j.desc.opcode = 3 then tackStart s p j
    else (s, { j with issue := if j.desc.empty then [] else firstRequests s p j.desc })
  let s := r.1
  let j := r.2
  if j.status ≠ 0 then awlComplete s n p j
  else
    let a := s.awl n
    awlIssue n p 512 (s.setAwl n { a with jobs := a.jobs ++ [j] })

/-- The descriptor at the head of an Awl's ring has its turn (R92, R97 to R99): with opcode `want`, or
unreadable, or with an opcode that is not defined. A block in Doubt or retired is looked at before the checks of
R98 (DESIGN CHOICE, notes/assumptions/56.md). -/
def awlTurn (s : State) (n want : Nat) : State :=
  match awlPart s n with
  | none => s
  | some p =>
    let a := s.awl n
    if a.head = a.tail ∨ a.waiting.isSome ∨ 64 ≤ a.jobs.length ∨ (s.block (n / 8)).halted then s
    else
      let s := settlePart s p
      let (c, bs, s') := ringRead s p a.base a.size 64 a.head
      if c ≠ 0 then awlUnreadable s' n p c
      else
        let d := descOf bs
        if (d.opcode ≠ want ∧ 1 ≤ d.opcode ∧ d.opcode ≤ 3) ∨ (d.ordered ∧ a.jobs ≠ []) then s
        else
          let j : AwlJob := { index := a.head, desc := d, owner := a.maker }
          let s := s.setAwl n a.advance
          let c := if blockSuspect s (n / 8) then 8 else descCheck s p d  -- the block first: notes/assumptions/56.md
          if c ≠ 0 then awlComplete s n p { j with status := c }
          else if d.waits then
            if (s.counter d.waitCounter).fault then awlComplete s n p { j with status := 8 }
            else if ctrMet s d.waitCounter d.waitValue then awlStart s n p j
            else s.setAwl n { s.awl n with waiting := some j }
          else awlStart s n p j

/-! ### The holder's own descriptors (R158, R172, R268) -/

/-- The Awl into whose ring the holder's firmware puts its descriptors: Awl 1 of the lowest block that runs (DESIGN
CHOICE, notes/assumptions/28.md). -/
def moveAwl (s : State) (p : Nat) : Option Nat :=
  ((s.blocksOf p).find? fun b => !blockSuspect s b).map fun b => 8 * b + 1

/-- The regions in which the holder's firmware takes a ring to lie: general and activations, in HBM and DDR5 (DESIGN
CHOICE, notes/assumptions/28.md). -/
def ringRegion (e : PlaceEntry) : Bool := onSled e && decide (e.use = 0 ∨ e.use = 4)

/-- The next entry of an Awl's ring is free and can be written. -/
def ringReady (s : State) (p : Nat) (a : Awl) : Bool :=
  let at_ := ringOff a.base a.size 64 a.tail
  decide (dist32 a.tail a.head < 2 ^ a.size) && inRange s p ringRegion false at_ 64
    && decide (writeCode s p at_ 64 (fun _ => false) = 0)

/-- The holder's firmware writes its descriptors, in order, into the ring and raises AWL_TAIL, while the ring has room
and the partition does not quiesce (R89 to R91, R497). -/
def postMoves (p : Nat) : Nat → State → State
  | 0, s => s
  | fuel + 1, s =>
    match (s.part p).hold.moves, moveAwl s p with
    | (owner, d) :: r, some n =>
      let a := s.awl n
      if awlPart s n ≠ some p ∨ (s.part p).fault.quiescing ∨ !ringReady s p a then s
      else
        let s := storeRaw s p (ringOff a.base a.size 64 a.tail) (descBytes d)
        postMoves p fuel ((s.modHold p fun h => { h with moves := r }).setAwl n { a with
          tail := a.tail + 1, owned := a.owned.put a.tail.toNat (owner, d) })
    | _, _ => s

/-- The holder goes on after an event: its descriptors are queued, and what is runnable is seen anew (R289, R290). -/
def holderOn (s : State) (p : Nat) : State := refreshCtxs (postMoves p (s.part p).hold.moves.length s) p

/-! ### Requests ending (R100, R104) -/

/-- Bytes acknowledged: for a TACK, ROW_BYTES once a row is whole (R142). -/
def AwlJob.credit (j : AwlJob) (q : AwlReq) : AwlJob :=
  if j.desc.opcode = 3 then
    let n := j.rowDone.at q.row 0 + q.len
    { j with rowDone := j.rowDone.put q.row n,
             doneBytes := j.doneBytes + (if n = j.desc.rowBytes then n else 0) }
  else { j with doneBytes := j.doneBytes + q.len }

/-- A local write of a request is carried out: the state and the job after it. `bytes` are those that a drive
brought. -/
def localWrite (s : State) (p : Nat) (j : AwlJob) (q : AwlReq) (bytes : Option (List Byte)) : State × AwlJob :=
  let d := j.desc
  let dst := reqDst j q
  let spans := if bytes.isSome then [] else sourceSpans d q.row q.off q.len
  let s := passSpans s p d spans
  match sourceFailure s p d spans with
  | some (c, at_) => (sourceFaults s p d spans c, j.fail c at_)
  | none =>
    let bs := bytes.getD (reqBytes s p j q)
    let s := passSquares s p dst bs.length
    let r := transferWrite s p dst bs (coversPage d) d.tag
    match writeFailure s p dst bs.length (coversPage d) with
    | none => (r.2, j.credit q)
    | some (c, a) => (r.2, j.fail c (dstDetail d q.row (q.off + (a - dst))))

/-- The writes that follow once the rows they come from have been fetched. -/
def writesAfter (s : State) (p : Nat) (j : AwlJob) (row : Nat) : List AwlReq :=
  let d := j.desc
  let r := if d.form = 7 then 0 else row
  if (rowsFor d r).all fun q => !remoteRow s p d q || rowFetched j q then rowWrites s p d r else []

/-- The bytes of this module that carrying out a request reads: offset and length of each run. -/
def reqSource (s : State) (p : Nat) (j : AwlJob) (q : AwlReq) : List (Nat × Nat) :=
  if q.read ∨ q.way ≠ .own then [] else ownSpans s p j.desc (sourceSpans j.desc q.row q.off q.len)

/-- DETAIL of a request that something outside failed: in the source span for a read, and where memory of
this module is read for it, else in the destination span (R108). A Flush that fails is named by the write it followed
(DESIGN CHOICE, notes/assumptions/24.md). -/
def failedAt (s : State) (p : Nat) (j : AwlJob) (q : AwlReq) : Nat :=
  if q.read ∨ q.way = .nvRead then srcDetail j.desc q.row q.off
  else match reqSource s p j q with
    | x :: _ => x.1 - j.desc.src
    | [] => dstDetail j.desc q.row q.off

/-- One outstanding request of a descriptor, already taken off its list, ends: the state and the job. Data
that answers no read, and a read that brings none, are no end of a request. -/
def reqEnds (s : State) (p : Nat) (j : AwlJob) (q : AwlReq) (result : ReqEnd) : Option (State × AwlJob) :=
  let d := j.desc
  match result with
  | .failed c =>
    if c = 0 ∨ !codeDefined c then none
    else
      let at_ := ((reqSource s p j q).head?.map (·.1)).getD (reqDst j q)
      some (if c = 4 ∧ q.way = .own then badWordFault s p at_ d.tag else s, j.fail c (failedAt s p j q))
  | .data bytes =>
    if q.read then
      let j := { j with fetched := j.fetched ++ [(q.row, q.off, bytes.take q.len)] }
      some (s, if j.status = 0 then { j with issue := j.issue ++ writesAfter s p j q.row } else j)
    else if q.way = .nvRead then some (localWrite s p j q (some (padTo q.len (bytes.take q.len))))
    else none
  | .acked found =>
    if q.read ∨ q.way = .nvRead then none
    -- The source of a write that leaves the module was read when it was sent: a word that was corrected counts (R317).
    else if q.way ≠ .own then
      some (if found.any (·.2) then eccMetIn s p (ownSpans s p d (sourceSpans d q.row q.off q.len)) found else s, j.credit q)
    else if !benchReady s (reqDst j q) then none
    else
      let s := eccMetIn s p (reqSource s p j q) found
      some (localWrite s p j q none)

/-- One outstanding request of a descriptor ends. -/
def reqEnd (s : State) (n p : Nat) (index : BitVec 32) (req : Nat) (result : ReqEnd) : Option State :=
  match (s.awl n).job index with
  | none => none
  | some j =>
    match j.outstanding.find? fun q => decide (q.id = req) with
    | none => none
    | some q =>
      let j0 := { j with outstanding := j.outstanding.filter fun x => decide (x.id ≠ req) }
      (reqEnds s p j0 q result).map fun r => r.1.setAwl n ((r.1.awl n).setJob r.2)

/-- Once the writes of a descriptor that has not failed are over, a Flush goes to each drive whose volatile write cache
holds bytes of it (Table 09-3); a descriptor that has failed sends none (R104; DESIGN CHOICE,
notes/assumptions/24.md). `q` is the write that ended last. -/
def AwlJob.flushes (j : AwlJob) (q : AwlReq) : AwlJob :=
  if j.status = 0 ∧ j.issue = [] ∧ j.outstanding = [] then
    { j with
      cached := []
      issue := j.cached.map fun x => { q with id := 2 ^ 128 + x.1 * 2 ^ 32 + x.2, len := 0, way := .flush x.1 x.2 } }
  else j

/-- The slots that came free are taken again (R100). -/
def slotsFree (s : State) (n p : Nat) : State := awlIssue n p 512 (grantFetches p 64 s)

/-- One outstanding request of a descriptor ends (R100, R104): its slot comes free. -/
def awlReqEnd (s : State) (n p : Nat) (index : BitVec 32) (req : Nat) (result : ReqEnd) : State :=
  match reqEnd s n p index req result with
  | none => s
  | some s => slotsFree s n p

/-- Complete one job, wherever it is, with a code (R104, R106, R500). -/
def awlKillAll (s : State) (n p : Nat) (c : Byte) : State :=
  let a := s.awl n
  let all := a.jobs ++ a.waiting.toList
  let s := s.setAwl n { a with jobs := [], waiting := none }
  all.foldl (fun s j => awlComplete s n p { j with status := if j.status = 0 then c else j.status }) s

/-- Complete with a code every descriptor handed over and not yet read, in ring order (R106). -/
def awlFlushRing (n p : Nat) (c : Byte) : Nat → State → State
  | 0, s => s
  | fuel + 1, s =>
    let a := s.awl n
    if a.head = a.tail then s
    else
      let r := ringRead s p a.base a.size 64 a.head
      let s := if r.1 ≠ 0 then awlUnreadable r.2.2 n p r.1
        else awlComplete (s.setAwl n a.advance) n p
          { index := a.head, desc := descOf r.2.1, status := c, owner := a.maker }
      awlFlushRing n p c fuel s

/-- Complete with a code every descriptor of an Awl that has not started (R106). The flush is done with them,
so that STATE does not stay 3 while descriptors already in progress run on, and an entry that cannot be read
completes as R92 says and not with the code (DESIGN CHOICE, notes/assumptions/56.md). -/
def awlFlushAll (s : State) (n p : Nat) (c : Byte) : State :=
  let a := s.awl n
  let s := match a.waiting with
    | none => s
    | some j => awlComplete (s.setAwl n { a with waiting := none }) n p { j with status := c }
  awlFlushRing n p c (dist32 a.tail a.head) s

/-- Hand descriptors to an Awl, or refuse a TAIL that overfills its ring (R90). An entry of the holder's firmware that
a lower TAIL takes out of the ring waits for its place again. -/
def awlSetTail (s : State) (n : Nat) (t : BitVec 32) : State :=
  let a := s.awl n
  if ringOverfull t a.head a.size then s.setAwl n { a with tailError := true }
  else
    let out := a.owned.filter fun kv => decide (dist32 t a.head ≤ dist32 (BitVec.ofNat 32 kv.1) a.head)
    let s := s.setAwl n { a with tail := t, owned := a.owned.filter fun kv => !out.contains kv }
    match out, s.blockOwner (n / 8) with
    | x :: r, some p => s.modHold p fun h => { h with moves := (x :: r).map (·.2) ++ h.moves }
    | _, _ => s

/-! ### Meanings -/

/-- AWL_TAIL_WRITE (R90, R191): a stitch core writes the Awls of its own block, and faults on another
(R201). -/
def execAwlTailWrite (src : Src) (b : Blk) (awl : Fin 8) (value : Word) (s : State) : Out :=
  let set := fun s => awlSetTail s (8 * b.val + awl.val) (value.setWidth 32)
  .next (match src with
    | .core k c pre => onOwned s k.val c.val pre (fun _ => decide (k = b)) fun s _ => set s
    | _ => blockWrite s src b.val (0x1_0010 + 0x40 * awl.val) set)

/-- AWL_RING_WRITE (R90, Table 03-16): base or size, while the Awl is empty and idle. -/
def execAwlRingWrite (src : Src) (b : Blk) (awl : Fin 8) (size : Bool) (value : Word) (s : State) : Out :=
  let n := 8 * b.val + awl.val
  .next (blockWrite s src b.val (0x1_0000 + 0x40 * awl.val + 8 * bit size) fun s =>
    let a := s.awl n
    let v := bitsOf value.toNat 0 5
    if a.head ≠ a.tail ∨ a.jobs ≠ [] then s
    else if size then (if 4 ≤ v ∧ v ≤ 16 then s.setAwl n { a with size := v } else s)
    else s.setAwl n { a with base := value.toNat / 64 * 64 })

/-- MOVE (R94, R98 to R100). -/
def execMove (b : Blk) (awl : Fin 8) (s : State) : Out := .next (awlTurn s (8 * b.val + awl.val) 1)

/-- FILL (R93, R98 to R100). -/
def execFill (b : Blk) (awl : Fin 8) (s : State) : Out := .next (awlTurn s (8 * b.val + awl.val) 2)

/-- TACK (R140 to R142). -/
def execTack (b : Blk) (awl : Fin 8) (s : State) : Out := .next (awlTurn s (8 * b.val + awl.val) 3)

/-- AWL_WAIT_RELEASE (R85, R102). -/
def execAwlWaitRelease (b : Blk) (awl : Fin 8) (s : State) : Out :=
  let n := 8 * b.val + awl.val
  match awlPart s n, (s.awl n).waiting with
  | some p, some j =>
    if ctrMet s j.desc.waitCounter j.desc.waitValue then
      let s := s.setAwl n { s.awl n with waiting := none }
      .next (if (s.counter j.desc.waitCounter).fault ∨ blockSuspect s b.val then awlComplete s n p { j with status := 8 }
        else awlStart s n p j)
    else .next s
  | _, _ => .next s

/-- AWL_REQUEST_DONE (R100, R104). -/
def execAwlRequestDone (b : Blk) (awl : Fin 8) (index : BitVec 32) (req : Nat) (result : ReqEnd)
    (s : State) : Out :=
  let n := 8 * b.val + awl.val
  match awlPart s n with
  | none => .next s
  | some p => .next (awlReqEnd s n p index req result)

/-- AWL_DESCRIPTOR_COMPLETE (R103): every request has ended. -/
def execAwlDescriptorComplete (b : Blk) (awl : Fin 8) (index : BitVec 32) (s : State) : Out :=
  let n := 8 * b.val + awl.val
  let a := s.awl n
  match awlPart s n, a.job index with
  | some p, some j =>
    if j.issue = [] ∧ j.outstanding = [] then
      .next (holderOn (awlComplete (s.setAwl n { a with jobs := a.jobs.filter fun x => decide (x.index ≠ index) }) n p j) p)
    else .next s
  | _, _ => .next s

/-- AWL_FLUSH (R106). -/
def execAwlFlush (src : Src) (b : Blk) (awl : Fin 8) (value : Word) (s : State) : Out :=
  .next (blockWrite s src b.val (0x1_0028 + 0x40 * awl.val) fun s =>
    let n := 8 * b.val + awl.val
    match s.blockOwner b.val with
    | none => s
    | some p => if value.toNat.testBit 0 then awlFlushAll s n p 8 else s)

end Sys2Proof.Machine
end

