-- ==== Sys2Proof/Machine/Engine.lean ====
section
/-! DEFINITION. The meanings of the engine, stitch core and Cobbler core commands (06 R190 to R221, R554;
11 R367). Where an engine instruction's operands lie in its registers the manual leaves to the Craquel
image format; notes/assumptions/20.md says where this model takes them from. -/

namespace Sys2Proof.Machine

/-! ### Launch and end of a run -/

/-- ENG_STATUS reads STATE 1 while a fused attention command runs on the block's cores (R225). -/
def fusedBusy (s : State) (b : Nat) : Bool :=
  match s.blockOwner b with
  | none => false
  | some p => !(s.part p).insole && !(s.block b).attn.jobs.isEmpty

/-- The code of a launch that fails its checks, 0x00 when it may start (R199). R199 and R201 give none for a header or
an entry that cannot be read: 0x04, but 0x05 where the entry lies on a retired page, as for an engine section (DESIGN
CHOICE, notes/assumptions/20.md). -/
def launchCheck (s : State) (p slot entry : Nat) (signal : Bool) (counter : Nat) : Byte :=
  match programAt s p slot with
  | none => 0x0B
  | some (x, off) =>
    let n := min x.length 64
    if readCode s p off n ≠ 0 then 4
    else if !imageOk (imageHeader (loadBytes s p off n)) x.length entry then 0x0B
    else if signal && !s.ownsCtr p counter then 0x0D
    else readCode s p (off + 0x40 + 8 * entry) 8

/-- The fault records of the uncorrectable words that the header or the entry of an image holds (R320). -/
def launchFaults (s : State) (p slot entry : Nat) : State :=
  match programAt s p slot with
  | none => s
  | some (x, off) =>
    let n := min x.length 64
    if readCode s p off n = 4 then badWordFaults s p off n 0
    else badWordFaults s p (off + 0x40 + 8 * entry) 8 0

/-- Copy the engine section of a slot into the instruction store, unless the store holds it (R200): the code,
0x04 where the copy meets an uncorrectable word, and the state. -/
def copySection (s : State) (p b slot : Nat) : Byte × State :=
  let e := (s.block b).eng
  match programAt s p slot with
  | none => (0x0B, s)
  | some (x, off) =>
    if e.loaded = some slot then (0, s)
    else
      let h := imageHeader (loadBytes s p off (min x.length 64))
      let r := homeRead s p (off + h.engOff) h.engLen 0
      if r.1 ≠ 0 then (r.1, r.2.2.setEng b { e with loaded := none })
      else (0, r.2.2.setEng b { e with store := r.2.1, loaded := some slot })

/-- Image offset of the Program piece of a slot. -/
def imageOff (s : State) (p slot : Nat) : Nat := ((programAt s p slot).map (·.2)).getD 0

/-- Start a run on a block of partition `p`, or end it at once when its launch fails (R198 to R201). -/
def launch (s : State) (p b : Nat) (v : Nat) : State :=
  let e := (s.block b).eng
  if (e.state ≠ 0 ∧ e.state ≠ 3) ∨ s.code p ≠ 5 ∨ fusedBusy s b then
    s.setEng b { e with launchRefused := true }
  else
    let slot := bitsOf v 0 8
    let entry := bitsOf v 8 8
    let sig := v.testBit 32
    let ctr := bitsOf v 48 16
    let e := { e with state := 1, slot := slot, entry := entry, cycles := 0, signal := sig,
                      signalCounter := ctr, bound := entryBoundAt s p (imageOff s p slot) entry, stopCode := 0 }
    let s := s.modPFault p fun f => { f with quiesced := false }
    let s := s.modPMem p fun m => { m with held := m.held && (s.part p).fault.quiescing }
    let s := s.setEng b e
    let c := if blockSuspect s b then 8 else launchCheck s p slot entry sig ctr
    if c ≠ 0 then runEnds (if c = 4 then launchFaults s p slot entry else s) p b c
    else
      let r := copySection s p b slot
      if r.1 ≠ 0 then runEnds r.2 p b r.1
      else askStart (startCores r.2 b (entryFirst s p (imageOff s p slot) entry)) b

/-- ENG_LAUNCH (R198 to R202). -/
def execEngLaunch (src : Src) (b : Blk) (value : Word) (s : State) : Out :=
  .next (blockWrite s src b.val 0 fun s =>
    match s.blockOwner b.val with
    | none => s
    | some p => launch s p b.val value.toNat)

/-- ENG_STOP (R201): the run is stopping until its end. -/
def execEngStop (src : Src) (b : Blk) (value : Word) (s : State) : Out :=
  .next (blockWrite s src b.val 0x18 fun s =>
    let e := (s.block b.val).eng
    if value.toNat.testBit 0 ∧ e.state = 1 then s.setEng b.val { e with state := 2, stopCode := 8 } else s)

/-- ENG_CYCLES of a run that ends, and BOUND_EXCEEDED of its partition (R286). -/
def countCycles (s : State) (p b cycles : Nat) : State :=
  let e := (s.block b).eng
  let s := s.setEng b { e with cycles := min cycles (2 ^ 64 - 1) }
  if e.bound ≠ 0 ∧ e.bound < cycles then s.modHold p fun h => { h with boundExceeded := true } else s

/-- The codes with which a core's fault ends a run (R201). -/
def runFaultCode (c : Byte) : Bool := decide (c = 4 ∨ c = 0x0B ∨ c = 0x0D)

/-- ENGINE_RUN_END (R201, R286): a clean end needs every core to have executed End; a fault that the run's
instructions have already met stands as they left it. -/
def execEngineRunEnd (b : Blk) (how : RunEnd) (cycles : Nat) (s : State) : Out :=
  match s.blockOwner b.val with
  | none => .next s
  | some p =>
    let e := (s.block b.val).eng
    let fin := fun (s : State) (c : Byte) => runEnds (countCycles s p b.val cycles) p b.val c
    if e.state = 2 then .next (fin s e.stopCode)
    else if e.state = 1 then
      match how with
      | .clean => .next (if allCores s b.val (·.ended) then fin s 0 else s)
      | .fault core a code =>
        if !runFaultCode code then .next s
        else .next (fin (s.setEng b.val { e with faultCore := core.val, faultAt := a }) code)
      | .stopped => .next s
    else .next s

/-! ### MAC (R212 to R214) -/

/-- The scale of an MX element: E8M0, NaN at 0xFF (R204). -/
def mxScale (b : Byte) : Num := if b = 0xFF then .nan else .val false 1 ((b.toNat : Int) - 127)

/-- A format whose products go to an INT32 accumulator (Table 06-10). -/
def macIsInt : MacFmt → Bool
  | .int8 | .int4 | .lk4 => true
  | _ => false

/-- Element `i` of an integer operand. -/
def macInt (f : MacFmt) (v : BitVec 512) (i : Nat) : Int :=
  match f with
  | .int8 => intOfCode 8 (elem v 8 i)
  | _ => intOfCode 4 (elem v 4 i)

/-- Element `i` of a floating operand with its block's scale. -/
def macNum (f : MacFmt) (v : BitVec 512) (i : Nat) (scale : Byte) : Num :=
  match f with
  | .e4m3 => e4m3Val (elem v 8 i)
  | .e5m2 => e5m2Val (elem v 8 i)
  | .mxfp6 => (fmtE2m3.finite (elem v 6 i)).mul (mxScale scale)
  | .mxint8 => (Num.ofInt (intOfCode 8 (elem v 8 i)) (-6)).mul (mxScale scale)
  | .mxfp4 => (fmtE2m1.finite (elem v 4 i)).mul (mxScale scale)
  | .bf16 => bf16Val (elem v 16 i)
  | .fp16 => fp16Val (elem v 16 i)
  | .fp32 => fp32Val (BitVec.ofNat 32 (elem v 32 i))
  | .lv6 => (lv6Values (elem v 83 0)).getD i .zero
  | _ => .zero

/-- The pairs of operands that a MAC takes: LV6 against BF16 and the LK4 pairing against INT8 (Table 06-10), and any two
other integer formats, or floating formats but FP32: R212 has operations that mix two formats and lists not every
pairing (DESIGN CHOICE, notes/assumptions/20.md). -/
def macPair (a b : MacFmt) : Bool :=
  match a, b with
  | .lk4, .int8 => true
  | .lk4, _ => false
  | _, .lk4 => false
  | .lv6, .bf16 => true
  | .lv6, _ => false
  | _, .lv6 => false
  | .fp32, _ => false
  | _, .fp32 => false
  | a, b => macIsInt a == macIsInt b

/-- Products that one element of the tile receives: two for the 4-bit pairings (R213, Table 06-10). -/
def macRank (a b : MacFmt) : Nat :=
  match a, b with
  | .mxfp4, .mxfp4 => 2
  | .int4, .int4 => 2
  | .lk4, .int8 => 2
  | _, _ => 1

/-- The new value of tile element (r, k), and whether it saturated (R213). -/
def macElem (fa fb : MacFmt) (va vb : BitVec 512) (scales : List Byte) (acc : BitVec 32) (r k : Nat) :
    BitVec 32 × Bool :=
  let n := macRank fa fb
  if macIsInt fa then
    let t := ((List.range n).map fun i => macInt fa va (n * r + i) * macInt fb vb (n * k + i)).foldl (· + ·) acc.toInt
    let x := satInt 32 t
    (BitVec.ofInt 32 x.1, x.2)
  else
    let ps := (List.range n).map fun i =>
      (macNum fa va (n * r + i) (scales.getD r 127)).mul (macNum fb vb (n * k + i) (scales.getD (8 + k) 127))
    (fp32Of (Num.sum (fp32Val acc :: ps)), false)

/-- The FP32 NaN that arithmetic writes (R214). -/
def isNan32 (x : BitVec 32) : Bool := x == 0x7FC0_0000#32

/-- MAC (R213): a pairing that `macPair` does not take is an undefined instruction (R201). -/
def execMac (b : Blk) (core : CoreRun) (acc : Fin 8) (fa fb : MacFmt) (va vb : Fin 16)
    (scales : List Byte) (s : State) : Out :=
  .next (onCore s b.val core.core.val core.pre fun s c =>
    if !macPair fa fb then coreFault s b.val core.core.val 0x0B
    else
      let new := (List.range 64).map fun i =>
        macElem fa fb (c.vec va.val) (c.vec vb.val) scales (c.accAt acc.val (i / 8) (i % 8)) (i / 8) (i % 8)
      let tile := new.zipIdx.foldl (fun m x => m.put (acc.val * 64 + x.2) x.1.1) c.acc
      s.setCore b.val core.core.val { c with
        acc := tile
        sat := c.sat || new.any (·.2)
        nanSeen := c.nanSeen || (!macIsInt fa && new.any fun x => isNan32 x.1) })

/-! ### Vector instructions (R214, R216, R554) -/

/-- Lane `i` of a vector register. -/
def laneOf (v : BitVec 512) (i : Nat) : BitVec 32 := BitVec.ofNat 32 (elem v 32 i)

/-- Max or min of two lanes; what the editions of IEEE 754 differ in is open. -/
def maxMin (mx : Bool) (a b : BitVec 32) : BitVec 32 :=
  let x := fp32Val a
  let y := fp32Val b
  if x.isNan ∨ y.isNan then
    if (x.isNan && y.isNan) || Config.maxNanIsNan then fp32Of .nan else if x.isNan then fp32Of y else fp32Of x
  else if x.lt y then fp32Of (if mx then y else x)
  else if y.lt x then fp32Of (if mx then x else y)
  else if Config.maxTakesFirst a b then fp32Of x else fp32Of y

/-- A compare of two lanes: false where either is NaN. -/
def compareLanes (op : VecOp) (a b : BitVec 32) : Bool :=
  let x := fp32Val a
  let y := fp32Val b
  if x.isNan ∨ y.isNan then false
  else match op with
    | .cmpEq => !x.lt y && !y.lt x
    | .cmpLt => x.lt y
    | _ => !y.lt x

/-- Width in bits of the format a conversion goes to or comes from. -/
def convWidth : VecOp → Nat
  | .toFp16 | .toBf16 | .fromFp16 | .fromBf16 => 16
  | .toE4m3 | .toE5m2 | .toInt8 | .fromE4m3 | .fromE5m2 | .fromInt8 => 8
  | .toInt4 | .fromInt4 => 4
  | _ => 32

/-- A conversion out of FP32: the code and whether it saturated (R216). -/
def convTo (op : VecOp) (x : Num) : Nat × Bool :=
  match op with
  | .toFp16 => (fp16Of x, false)
  | .toBf16 => (bf16Of x, false)
  | .toE4m3 => (e4m3Of x, false)
  | .toE5m2 => (e5m2Of x, false)
  | .toInt8 => intOf 8 x
  | _ => intOf 4 x

/-- A conversion into FP32, which is exact (R216). -/
def convFrom (op : VecOp) (c : Nat) : BitVec 32 :=
  fp32Of (match op with
    | .fromFp16 => fp16Val c
    | .fromBf16 => bf16Val c
    | .fromE4m3 => e4m3Val c
    | .fromE5m2 => e5m2Val c
    | .fromInt8 => Num.ofInt (intOfCode 8 c) 0
    | _ => Num.ofInt (intOfCode 4 c) 0)

/-- The 512 bits of 16 lanes. -/
def ofLanes (l : List (BitVec 32)) : BitVec 512 := BitVec.ofNat 512 (packElems 32 (l.map (·.toNat)))

/-- The result of a Vector instruction, and whether a conversion saturated. The bytes of the destination
that a narrowing conversion does not fill are a free value of its source, the same at each run (R215). -/
def vecResult (op : VecOp) (a1 a2 a3 : BitVec 512) : BitVec 512 × Bool :=
  let x := fun i => fp32Val (laneOf a1 i)
  let y := fun i => fp32Val (laneOf a2 i)
  let z := fun i => fp32Val (laneOf a3 i)
  let lanes := fun (f : Nat → BitVec 32) => (ofLanes ((List.range 16).map f), false)
  match op with
  | .add => lanes fun i => fp32Of ((x i).add (y i))
  | .mul => lanes fun i => fp32Of ((x i).mul (y i))
  | .fma => lanes fun i => fp32Of (((x i).mul (y i)).add (z i))
  | .max => lanes fun i => maxMin true (laneOf a1 i) (laneOf a2 i)
  | .min => lanes fun i => maxMin false (laneOf a1 i) (laneOf a2 i)
  | .cmpEq | .cmpLt | .cmpLe => lanes fun i => Config.compareLane (compareLanes op (laneOf a1 i) (laneOf a2 i))
  | .toFp16 | .toBf16 | .toE4m3 | .toE5m2 | .toInt8 | .toInt4 =>
    let w := convWidth op
    let cs := (List.range 16).map fun i => convTo op (x i)
    let low := packElems w (cs.map (·.1))
    let rest := leNat ((List.range (64 - 2 * w)).map (Config.convRest w a1))
    (BitVec.ofNat 512 (low + rest * 2 ^ (16 * w)), cs.any (·.2))
  | _ => lanes fun i => convFrom op (elem a1 (convWidth op) i)

/-- A conversion to a narrower format. -/
def vecNarrows : VecOp → Bool
  | .toFp16 | .toBf16 | .toE4m3 | .toE5m2 | .toInt8 | .toInt4 => true
  | _ => false

/-- An operation whose lanes are FP32 results. -/
def vecIsFp : VecOp → Bool
  | .cmpEq | .cmpLt | .cmpLe => false
  | op => !vecNarrows op

/-- VECTOR (R214, R216). NAN_SEEN is set by a NaN in an FP32 result of a MAC, Vector or Vector special instruction, and
not by compares, narrowing conversions or Compact: Table 06-2 says only that it is sticky (DESIGN CHOICE,
notes/assumptions/20.md). -/
def execVector (b : Blk) (core : CoreRun) (op : VecOp) (dst a1 a2 a3 : Fin 16) (s : State) : Out :=
  .next (onCore s b.val core.core.val core.pre fun s c =>
    let r := vecResult op (c.vec a1.val) (c.vec a2.val) (c.vec a3.val)
    let nan := vecIsFp op && (List.range 16).any fun i => isNan32 (laneOf r.1 i)
    s.setCore b.val core.core.val { c.setVec dst.val r.1 with sat := c.sat || r.2, nanSeen := c.nanSeen || nan })

/-- One lane of a Vector special instruction (R554). -/
def specialLane (op : SpecialOp) (x : Num) : BitVec 32 :=
  match op with
  | .exp2 => exp2Fp x
  | .rcp => rcpFp x
  | .rsqrt => rsqrtFp x

/-- VECTOR_SPECIAL (R554): lanes 0 to 7. -/
def execVectorSpecial (b : Blk) (core : CoreRun) (op : SpecialOp) (dst src : Fin 16)
    (s : State) : Out :=
  .next (onCore s b.val core.core.val core.pre fun s c =>
    let new := (List.range 8).map fun i => specialLane op (fp32Val (laneOf (c.vec src.val) i))
    let old := (List.range 8).map fun i => laneOf (c.vec dst.val) (8 + i)
    s.setCore b.val core.core.val { c.setVec dst.val (ofLanes (new ++ old)) with
      nanSeen := c.nanSeen || new.any isNan32 })

/-! ### Bench, Compact, exchange (R191, R192, R206 to R211, R217) -/

/-- Bytes of a core's bench. -/
def benchBytes (s : State) (b c off len : Nat) : List Byte := memGet s.mem (benchKey b c off) len

/-- The code of a bench access of a core: 0x0D past the bench, 0x04 on an uncorrectable word that a load
reads or a store covers in part (R192, R201, R318). -/
def benchCode (s : State) (b c off len : Nat) (store : Bool) : Byte :=
  if benchSize < off + len then 0x0D
  else if (badIn s (benchKey b c off) len).any fun w => !store || !coversWord (benchKey b c off) len w then 4
  else 0

/-- A core's bench access ends its run with a code: an uncorrectable word that it met writes its fault record
(R201, R320). -/
def benchFault (s : State) (b c t off len : Nat) (code : Byte) : State :=
  let s := if code = 4 then
      badWordFaults s ((s.blockOwner b).getD 255) (benchOff b t off) len 0 else s
  coreFault s b c code

/-- Store bytes into a core's bench. -/
def benchPut (s : State) (b c off : Nat) (bs : List Byte) : State := storeRaw s 0 (benchOff b c off) bs

/-- BENCH_LOAD (R192): the first `len` bytes of the register take the bench's bytes. -/
def execBenchLoad (b : Blk) (core : CoreRun) (dst : Fin 16) (off : Nat) (len : Nat)
    (s : State) : Out :=
  .next (onCore s b.val core.core.val core.pre fun s c =>
    let n := min len 64
    let s := eccMet s ((s.blockOwner b.val).getD 255) (benchOff b.val core.core.val off) n core.found
    let code := benchCode s b.val core.core.val off n false
    if code ≠ 0 then benchFault s b.val core.core.val core.core.val off n code
    else
      let bs := benchBytes s b.val core.core.val off n ++ (bytesOf512 (c.vec dst.val)).drop n
      s.setCore b.val core.core.val (c.setVec dst.val (BitVec.ofNat 512 (leNat bs))))

/-- BENCH_STORE (R196, R201). -/
def execBenchStore (b : Blk) (core : CoreRun) (src : Fin 16) (off : Nat) (len : Nat)
    (s : State) : Out :=
  .next (onCore s b.val core.core.val core.pre fun s c =>
    let n := min len 64
    let code := benchCode s b.val core.core.val off n true
    let s := if code = 0x0D then s
      else benchPut s b.val core.core.val off ((bytesOf512 (c.vec src.val)).take n)
    if code ≠ 0 then benchFault s b.val core.core.val core.core.val off n code else s)

/-- Bytes that a Compact operation reads and the bytes it gives. -/
def compactSpan (op : CompactOp) (head : Nat) : Nat :=
  let d := headDim head
  match op with
  | .lk4Encode | .lv6Encode | .rotateQuery => 2 * d
  | .lk4Decode => 33 * (d / 64)
  | .lv6Decode => lv6RowLen (d / 32)

/-- BF16 elements of bytes. -/
def bf16s (bs : List Byte) : List Num := (units 2 (bs.length / 2) bs).map fun u => bf16Val (leNat u)

/-- The result of a Compact operation (R206 to R210, R217 steps 1 and 2). -/
def compactResult (op : CompactOp) (head : Nat) (bs : List Byte) : List Byte :=
  let d := headDim head
  match op with
  | .lk4Encode => lk4Encode d (bf16s bs)
  | .lk4Decode => lk4Decode d bs
  | .lv6Encode => lv6Row (d / 32) (bf16s bs)
  | .lv6Decode => (lv6RowValues (d / 32) bs).map fun v => BitVec.ofNat 8 (e4m3Of v)
  | .rotateQuery =>
    match quantQuery d (bf16s bs) with
    | none => (List.range (d / 64)).flatMap fun _ => leBytes 2 0x7FFF ++ List.replicate 64 0
    | some qs => qs.flatMap fun q =>
        leBytes 2 (codeOfInt 16 q.1) ++ q.2.map fun c => BitVec.ofNat 8 (codeOfInt 8 c)

/-- COMPACT (R206 to R211, R217): a head or row from the bench to the bench. -/
def execCompact (b : Blk) (core : CoreRun) (op : CompactOp) (head : Fin 3)
    (srcOff dstOff : Nat) (s : State) : Out :=
  .next (onCore s b.val core.core.val core.pre fun s _ =>
    let n := compactSpan op head.val
    let s := eccMet s ((s.blockOwner b.val).getD 255) (benchOff b.val core.core.val srcOff) n core.found
    let code := benchCode s b.val core.core.val srcOff n false
    if code ≠ 0 then benchFault s b.val core.core.val core.core.val srcOff n code
    else
      let r := compactResult op head.val (benchBytes s b.val core.core.val srcOff n)
      let code := benchCode s b.val core.core.val dstOff r.length true
      let s := if code = 0x0D then s else benchPut s b.val core.core.val dstOff r
      if code ≠ 0 then benchFault s b.val core.core.val core.core.val dstOff r.length code else s)

/-- The neighbour of core `c` on the 32 x 32 grid of its block (Table 06-1). -/
def neighbour (c : Nat) : Dir → Option Nat
  | .north => if c < 32 then none else some (c - 32)
  | .south => if c < 992 then some (c + 32) else none
  | .west => if c % 32 = 0 then none else some (c - 1)
  | .east => if c % 32 = 31 then none else some (c + 1)

/-- EXCHANGE (R191, Table 06-4): 32 bytes to a neighbour's bench; at the grid's edge there is no
neighbour and the instruction is not defined. -/
def execExchange (b : Blk) (core : CoreRun) (dir : Dir) (srcOff dstOff : Nat)
    (s : State) : Out :=
  .next (onCore s b.val core.core.val core.pre fun s _ =>
    match neighbour core.core.val dir with
    | none => coreFault s b.val core.core.val 0x0B
    | some t =>
      let s := eccMet s ((s.blockOwner b.val).getD 255) (benchOff b.val core.core.val srcOff) 32 core.found
      let c1 := benchCode s b.val core.core.val srcOff 32 false
      let c2 := benchCode s b.val t dstOff 32 true
      if c1 ≠ 0 then benchFault s b.val core.core.val core.core.val srcOff 32 c1
      else
        let s := if c2 = 0x0D then s else benchPut s b.val t dstOff (benchBytes s b.val core.core.val srcOff 32)
        if c2 ≠ 0 then benchFault s b.val core.core.val t dstOff 32 c2 else s)

/-! ### Barrier and End (R201, R202) -/

/-- BARRIER: the core stops until every core of the run has arrived. -/
def execBarrier (b : Blk) (core : CoreRun) (s : State) : Out :=
  .next (onCore s b.val core.core.val core.pre fun s c => s.setCore b.val core.core.val { c with atBarrier := true })

/-- BARRIER_RELEASE: every core of the run is at the barrier, and goes on. -/
def execBarrierRelease (b : Blk) (s : State) : Out :=
  if (s.block b.val).eng.state = 1 ∧ allCores s b.val (·.atBarrier) then
    .next { s with cores := s.cores.mapVals fun k c =>
      if 1024 * b.val ≤ k ∧ k < 1024 * b.val + 1024 then { c with atBarrier := false } else c }
  else .next s

/-- END: the core's part of the run is over. -/
def execEndRun (b : Blk) (core : CoreRun) (s : State) : Out :=
  .next (onCore s b.val core.core.val core.pre fun s c => s.setCore b.val core.core.val { c with ended := true })

/-! ### Cobbler cores (R219 to R221, R367) -/

/-- COBBLER_ACCESS_FAULT (R221). -/
def execCobblerAccessFault (p : Part) (b : Blk) (_addr : Word) (s : State) : Out :=
  .next (cobblerStop s p.val b.val)

/-- A remote-line operation of a Cobbler core: owner 3 waits for its data, owner 0 is posted (R367). -/
def cobblerRemote (s : State) (p b device addr op owner : Nat) (len : Nat) (bytes : List Byte) : State :=
  if 2 ^ 54 < addr + len ∨ len = 0 ∨ 256 < len then cobblerStop s p b
  else
    let pkt := lineRequest s p op device addr (leBytes 2 len) bytes
    match xtSubmit s device 2 (unsent pkt owner b 0 0) with
    | some s => s
    | none => if owner = 3 then s.emit (.cobblerData b 3 []) else s

/-- A load by a Cobbler core of bytes that lie in one place, or of several regions on this module (R296, R297). -/
def cobblerLoad (s : State) (p b addr len : Nat) (found : Found) : State :=
  match placeOf s p addr with
  | .remote dev a => cobblerRemote s p b dev a 1 3 len []
  | .own =>
    let r := homeRead (eccMet s p addr len found) p addr len 0
    r.2.2.emit (.cobblerData b r.1 (if r.1 = 0 then r.2.1 else []))
  | _ => s.emit (.cobblerData b 0x0B [])

/-- A store by a Cobbler core, likewise. -/
def cobblerStore (s : State) (p b addr : Nat) (bytes : List Byte) : State :=
  match placeOf s p addr with
  | .remote dev a => cobblerRemote s p b dev a 2 0 bytes.length bytes
  | .own =>
    let r := homeWrite s p addr bytes (fun _ => false) 0
    if r.1 = 0 then r.2 else r.2.emit (.cobblerData b r.1 [])
  | _ => s.emit (.cobblerData b 0x0B [])

/-- The runs of bytes of a Cobbler core's access, each in one place; one run where all lie on this module. An access
that crosses into another place is made run by run (R297; DESIGN CHOICE, notes/assumptions/20.md). -/
def spansOf (s : State) (p addr len : Nat) : List (Nat × Nat) :=
  let runs := runsOf s p false addr len
  if runs.all fun x => decide (placeOf s p (addr + x.1) = .own) then [(0, len)] else runs

/-- COBBLER_LOAD_STORE (R221, R296, R367): HBM, DDR5 and neighbour regions; anything else stops the
context. -/
def execCobblerLoadStore (p : Part) (b : Blk) (acc : CobAcc) (s : State) : Out :=
  if !cobblerRuns s p.val b.val then .next s
  else
    let own := fun e => onSled e || decide (e.tier = 3)
    match acc with
    | .load addr len found =>
      if !inRange s p.val own false addr.toNat len then .next (cobblerStop s p.val b.val)
      else .next ((spansOf s p.val addr.toNat len).foldl (fun s x =>
        cobblerLoad s p.val b.val (addr.toNat + x.1) x.2 found) s)
    | .store addr bytes =>
      if !inRange s p.val (fun e => own e && decide (e.use ≠ 5)) false addr.toNat bytes.length then
        .next (cobblerStop s p.val b.val)
      else .next ((spansOf s p.val addr.toNat bytes.length).foldl (fun s x =>
        cobblerStore s p.val b.val (addr.toNat + x.1) (slice bytes x.1 x.2)) s)
    | .remoteLoad device addr len => .next (cobblerRemote s p.val b.val device addr.toNat 1 3 len [])
    | .remoteStore device addr bytes =>
      .next (cobblerRemote s p.val b.val device addr.toNat 2 0 bytes.length bytes)

end Sys2Proof.Machine
end

