-- ==== Sys2Proof/Machine/Lanes.lean ====
section
/-! DEFINITION. The meanings of the lane and counter commands (03 R64 to R88, 12 R389 and R390). -/

namespace Sys2Proof.Machine

/-! ### Lanes -/

/-- The order in which a lane takes the writers of one cycle (R70). -/
def writerRank : LaneWriter → Nat
  | .transport => 0
  | .awl => 1
  | .core .. => 2
  | .cobbler .. => 2
  | .host => 3

/-- The item that a lane takes next of those offered, and the ones that wait on: of one rank, the one offered
first, so that each writer's items enter in the order it issued them (R70). -/
def takeOffer (l : List (LaneWriter × Item)) : Option (Item × List (LaneWriter × Item)) :=
  match sortOn (fun x => writerRank x.1) l with
  | [] => none
  | x :: r => some (x.2, r)

/-- What a read returns goes to its reader: to the low half of a core's vector register, to a Cobbler core,
or on with the engine that reads. -/
def deliverItem (s : State) (it : Item) : LaneReader → State
  | .engine => s
  | .core b c dst _ =>
    let k := s.core b.val c.val
    let old := bytesOf512 (k.vec dst.val)
    s.setCore b.val c.val (k.setVec dst.val (BitVec.ofNat 512 (leNat (itemBytes it ++ old.drop 32))))
  | .cobbler _ b => s.emit (.cobblerData b.val 0 (itemBytes it))

/-- One cycle of a lane: it serves one read, and then takes one write (R66, R70). -/
def laneCycle (s : State) (n : Nat) : State :=
  let l := s.lane n
  let s := match l.portReads with
    | [] => s
    | r :: rest =>
      let x := lanePop (s.setLane n { l with portReads := rest }) n
      deliverItem x.2 x.1 r
  match takeOffer l.portWrites with
  | none => s
  | some (it, rest) => lanePush (s.setLane n { s.lane n with portWrites := rest }) n it

/-- Cycles of a lane until nothing waits at its port. -/
def laneCycles (n : Nat) : Nat → State → State
  | 0, s => s
  | fuel + 1, s =>
    if (s.lane n).portReads = [] ∧ (s.lane n).portWrites = [] then s else laneCycles n fuel (laneCycle s n)

/-- What is offered to a lane waits at its port while `more` offers of the same cycle follow, and then the lane
runs its cycles. A lane that the pattern does not define takes nothing. -/
def laneOffer (s : State) (n : Nat) (more : Bool) (f : Lane → Lane) : State :=
  match s.lanes.find n with
  | none => s
  | some l =>
    let l := f l
    let s := s.setLane n l
    if more then s else laneCycles n (l.portReads.length + l.portWrites.length) s

/-- Run an access of a Cobbler core's partition context to a lane or counter that its partition must own
(R221). -/
def onCobbler (s : State) (p b : Nat) (owned : Bool) (f : State → State) : State :=
  if !cobblerRuns s p b then s else if owned then f s else cobblerStop s p b

/-- LANE_WRITE (R65, R66, R68, R70, R81, R201, R221). -/
def execLaneWrite (lane : LaneNo) (item : Item) (writer : LaneOffer) (s : State) : Out :=
  let offer := fun s => laneOffer s lane.val writer.more fun l =>
    { l with portWrites := l.portWrites ++ [(writer.who, item)] }
  .next (match writer.who with
    | .core b c => onOwned s b.val c.val writer.pre (fun p => s.ownsLane p lane.val) fun s _ => offer s
    | .cobbler p b => onCobbler s p.val b.val (s.ownsLane p.val lane.val) offer
    | _ => offer s)

/-- LANE_READ (R65 to R67, R201, R221). -/
def execLaneRead (lane : LaneTake) (s : State) : Out :=
  let n := lane.lane.val
  let offer := fun s => laneOffer s n lane.more fun l => { l with portReads := l.portReads ++ [lane.who] }
  .next (match lane.who with
    | .core b c _ pre => onOwned s b.val c.val pre (fun p => s.ownsLane p n) fun s _ => offer s
    | .cobbler p b => onCobbler s p.val b.val (s.ownsLane p.val n) offer
    | .engine => offer s)

/-- The stale-tail timer of a lane is due: LEVEL above zero, STALE set in the pattern, no read for STALE
microseconds, and not fired since the latest restart (R71). -/
def staleDue (s : State) (l : Lane) : Bool :=
  decide (l.stale ≠ 0) && !l.items.isEmpty && !l.fired && decide (l.restart + l.stale ≤ s.now)

/-- STALE_TIMER (R71, R81). -/
def execStaleTimer (lane : LaneNo) (s : State) : Out :=
  let l := s.lane lane.val
  if staleDue s l then
    let s := s.setLane lane.val { l with staleBit := true, fired := true }
    .next (if l.intStale ∧ ¬ l.staleBit then raiseLane s l else s)
  else .next s

/-- The lane behind doorbell slot `k` of partition `p`: its k-th lane of KIND admission or output (R389). -/
def slotLane (s : State) (p k : Nat) : Option Nat :=
  ((s.lanes.filter fun kv => decide (kv.2.owner = p ∧ (kv.2.kind = 1 ∨ kv.2.kind = 2))).map (·.1))[k]?

/-- The BAR2 page of a function answers: of a VF, its partition is defined and not Scrubbing; and the module is not Held
(R387, R452, R50), nor Dark or Cut, where port A is down (R531, R481). -/
def pageAnswers (s : State) (fn : Nat) : Bool :=
  decide (s.regs.state ≠ 0 ∧ s.regs.state ≠ 4 ∧ s.regs.state ≠ 9)
    && (decide (fn = 0) || (!s.undefinedPart (fn - 1) && decide (s.code (fn - 1) ≠ 8)))

/-- What a 64-bit word of a BAR2 page is (Table 12-3): a word of a write slot or a read slot of a partition, LEVEL, a word
of the MSI-X table, the pending bits, or reserved. The PF has the table and the pending bits alone (Table 12-2). -/
inductive PageWord where
  | writeSlot (k word : Nat)
  | readSlot (k word : Nat)
  | level (k : Nat)
  | msix (i : Nat)
  | pending
  | reserved
  deriving DecidableEq, Repr

def pageWord (fn slot w : Nat) : PageWord :=
  if 384 ≤ slot ∧ slot < 388 then .msix (16 * (slot - 384) + w)
  else if slot = 416 ∧ w = 0 then .pending
  else if fn = 0 ∨ 256 ≤ slot then .reserved
  else if w < 4 then .writeSlot slot w
  else if w < 8 then .readSlot slot (w - 4)
  else if w = 8 then .level slot
  else .reserved

/-- A write of word `word` of a write slot; the fourth word commits the item (R79, R390). -/
def slotPut (s : State) (p k word : Nat) (value : Word) : State :=
  match slotLane s p k with
  | none => s
  | some n =>
    if (s.lane n).kind ≠ 1 then s
    else
      let h := (s.part p).hostSlots.at k {}
      let words := h.words.put word value
      let s := s.modPart p fun x => { x with hostSlots := x.hostSlots.put k { h with words := words } }
      if word = 3 then laneGive s n .host (itemOf ((List.range 4).flatMap fun i => leBytes 8 (words.at i 0).toNat))
      else s

/-- A write of a word of the MSI-X table of a function: an entry unmasked with its pending bit set sends its message, as
PCI Express has it (R386, notes/assumptions/10.md). -/
def msixPut (s : State) (fn i : Nat) (value : Word) : State :=
  let f := s.mgmt.functions.at fn {}
  let v := if i % 2 = 0 then value else BitVec.ofNat 64 (value.toNat % 2 ^ 33)
  let f := { f with msix := f.msix.put i v }
  let send := decide (i % 2 = 1) && !f.masked (i / 2) && f.pending.getLsbD (i / 2)
  let f := if send then { f with pending := f.pending &&& ~~~BitVec.ofNat 32 (2 ^ (i / 2)) } else f
  let s := s.modMgmt fun m => { m with functions := m.functions.put fn f }
  if send then s.emit (f.message fn (i / 2)) else s

/-- HOST_SLOT_WRITE (R79, R386, R387, R389, R390): an aligned 64-bit write of a function's BAR2 page; any other is
dropped. What is read only, or reserved, keeps its value. -/
def execHostSlotWrite (fn : Fn) (slot : Fin 512) (word : SlotWord) (value : Word) (s : State) : Out :=
  match word with
  | .other => .next s
  | .aligned w =>
    if pageAnswers s fn.val = false then .next s
    else match pageWord fn.val slot.val w.val with
      | .writeSlot k i => .next (slotPut s (fn.val - 1) k i value)
      | .msix i => .next (msixPut s fn.val i value)
      | _ => .next s

/-- The value of word `w` of an item. -/
def itemWord (it : Item) (w : Nat) : Word := BitVec.ofNat 64 (itemFld it (8 * w) 8)

/-- A read of word `word` of a read slot of a partition: word 0 captures the head, word 3 removes the captured item, if it
is still there (R79); zero where the lane is none that the host reads (R390). -/
def slotTake (s : State) (p k word : Nat) : Word × State :=
  match slotLane s p k with
  | none => (0, s)
  | some n =>
    if (s.lane n).kind ≠ 2 then (0, s)
    else
      let h := (s.part p).hostSlots.at k {}
      let h := if word = 0 then
          { h with captured := some ((s.lane n).items.headD (idleItem n)), taken := false }
        else h
      let it := h.captured.getD 0
      let removes := decide (word = 3) && !h.taken && decide (it ≠ idleItem n)
        && decide ((s.lane n).items.head? = h.captured)
      let s := if removes then (lanePop s n).2 else s
      let s := s.modPart p fun x =>
        { x with hostSlots := x.hostSlots.put k { h with taken := h.taken || removes } }
      (itemWord it word, s)

/-- What an aligned 64-bit read of a BAR2 page reads, and the state it leaves (Table 12-3). A write slot reads zero
(DESIGN CHOICE, notes/assumptions/10.md). -/
def pageRead (s : State) (fn : Nat) : PageWord → Word × State
  | .readSlot k i => slotTake s (fn - 1) k i
  | .level k => ((((slotLane s (fn - 1) k).map fun n => BitVec.ofNat 64 (s.lane n).items.length)).getD 0, s)
  | .msix i =>
    ((s.mgmt.functions.at fn {}).msix.at i (if i % 2 = 1 then BitVec.ofNat 64 (2 ^ 32) else 0), s)
  | .pending => ((s.mgmt.functions.at fn {}).pending.setWidth 64, s)
  | .writeSlot .. => (0, s)
  | .reserved => (0, s)

/-- HOST_SLOT_READ (R79, R386, R387, R389, R390): an aligned 64-bit read of a function's BAR2 page; any other is answered
Unsupported Request. While port A is down nothing answers (R481, R531). -/
def execHostSlotRead (fn : Fn) (slot : Fin 512) (word : SlotWord) (s : State) : Out :=
  if s.regs.state = 0 ∨ s.regs.state = 9 then .next s
  else if fn.val ≠ 0 ∧ s.code (fn.val - 1) = 8 ∧ s.regs.state ≠ 4 then .next (s.emit (.completerAbort fn.val))
  else if pageAnswers s fn.val = false then .next (s.emit (.unsupported fn.val))
  else match word with
    | .other => .next (s.emit (.unsupported fn.val))
    | .aligned w =>
      let r := pageRead s fn.val (pageWord fn.val slot.val w.val)
      .next (r.2.emit (.readValue fn.val r.1))

/-- Write LANE_CONTROL of a lane the partition owns (Table 03-7, R81). -/
def laneControl (s : State) (n : Nat) (v : Word) : State :=
  let l := s.lane n
  let l := { l with intArm := v.toNat.testBit 0, intOverrun := v.toNat.testBit 1, intStale := v.toNat.testBit 2 }
  laneArmed (s.setLane n l) n

/-- LANE_CONTROL_WRITE (R80, R81): a lane that the accessing partition does not own ignores writes. -/
def execLaneControlWrite (src : Src) (lane : LaneNo) (value : Word) (s : State) : Out :=
  match s.lanes.find lane.val with
  | none =>
    .next (match src with
      | .cobbler q _ => partWrite s src q (0x1_0008 + 0x20 * lane.val) fun s => notOwned s src
      | _ => s)
  | some l =>
    let p := match src with
      | .host fn => if fn.val = 0 then l.owner else fn.val - 1
      | .cobbler q _ => q
      | _ => l.owner
    .next (partWrite s src p (0x1_0008 + 0x20 * lane.val) fun s =>
      if l.owner = p then laneControl s lane.val value else notOwned s src)

/-! ### Counters -/

/-- The items that a writer has offered to lanes enter them: the lanes at whose ports one waits run their cycles. -/
def portsPass (s : State) (who : LaneWriter) : State :=
  ((s.lanes.filter fun kv => kv.2.portWrites.any fun x => decide (x.1 = who)).map (·.1)).foldl (fun s n =>
    laneCycles n ((s.lane n).portReads.length + (s.lane n).portWrites.length) s) s

/-- An add or set reaches a counter from its agent: a core or a Cobbler core must run and its partition own
the counter (R191, R201, R221). It is applied after every lane write that the core issued before it (R196). -/
def byAgent (s : State) (ctr : CtrRef) (f : State → State) : State :=
  let n := ctr.ctr.val
  match ctr.who with
  | .engine => f s
  | .core b c pre => onOwned s b.val c.val pre (fun p => s.ownsCtr p n) fun s _ => f (portsPass s (.core b c))
  | .cobbler p b => onCobbler s p.val b.val (s.ownsCtr p.val n) fun s => f (portsPass s (.cobbler p b))

/-- COUNTER_ADD (R84, R87): an agent's add for an operation that finished with `status`. -/
def execCounterAdd (ctr : CtrRef) (amount : BitVec 63) (status : Byte) (s : State) : Out :=
  .next (byAgent s ctr fun s => ctrAdd s ctr.ctr.val amount.toNat (status != 0))

/-- COUNTER_SET (R84): adds that arrive in the same cycle are applied after the set. -/
def execCounterSet (ctr : CtrRef) (value : Word) (adds : List (BitVec 63)) (s : State) : Out :=
  .next (byAgent s ctr fun s =>
    adds.foldl (fun s a => ctrAdd s ctr.ctr.val a.toNat false) (ctrSet s ctr.ctr.val value))

/-- CTR_ADD_WRITE (R88). -/
def execCtrAddWrite (src : Src) (p : Part) (value : Word) (s : State) : Out :=
  .next (partWrite s src p.val 0x3_0010 fun s =>
    let c := (s.part p.val).ctrSelect
    if s.ownsCtr p.val c then ctrAdd s c (value.toNat % 2 ^ 63) false else notOwned s src)

/-- CTR_VALUE_WRITE (R88). -/
def execCtrValueWrite (src : Src) (p : Part) (value : Word) (s : State) : Out :=
  .next (partWrite s src p.val 0x3_0008 fun s =>
    let c := (s.part p.val).ctrSelect
    if s.ownsCtr p.val c then ctrSet s c value else notOwned s src)

/-- CTR_WAIT_ARM (R88, Table 03-9): the fields take the written values; ARMED only over an owned counter. -/
def execCtrWaitArm (src : Src) (p : Part) (slot : Fin 8) (value : Word) (s : State) : Out :=
  .next (partWrite s src p.val (0x3_0040 + 0x10 * slot.val) fun s =>
    let v := value.toNat
    let c := bitsOf v 0 16
    s.modPart p.val fun x =>
      let w := x.waits.at slot.val {}
      let w := { w with armed := v.testBit 31 && s.ownsCtr p.val c, vector := bitsOf v 24 5, counter := c }
      { x with waits := x.waits.put slot.val w })

/-- The wait of a host slot is released: ARMED clears, the release reports FAULT, and VECTOR is raised (R85,
Table 03-9). -/
def hostWait (s : State) (p slot : Nat) : State :=
  let w := (s.part p).waits.at slot {}
  if w.armed ∧ ctrMet s w.counter w.threshold then
    let w' := { w with armed := false, faultSeen := (s.counter w.counter).fault }
    raisePart (s.modPart p fun x => { x with waits := x.waits.put slot w' }) p w.vector
  else s

/-- A stitch core's Counter wait (R85, R191, Table 06-4): it stops the core until the counter releases it,
and the release reports FAULT. The same command begins the wait and tries it again. -/
def coreWait (s : State) (b c n threshold : Nat) (pre : List ScalarInstr) : State :=
  let again := decide ((s.core b c).wait = some (n, threshold))
  let s := if again then s.setCore b c { s.core b c with wait := none } else s
  onOwned s b c (if again then [] else pre) (fun p => s.ownsCtr p n) fun s k =>
    if ctrMet s n threshold then s.setCore b c { k with faultSeen := (s.counter n).fault }
    else s.setCore b c { k with wait := some (n, threshold), pc := k.pc - 8 }

/-- COUNTER_WAIT_RELEASE (R85). -/
def execCounterWaitRelease (p : Waiter) (slot : WaitOn) (s : State) : Out :=
  match p, slot with
  | .host p, .slot n => .next (hostWait s p.val n.val)
  | .core b c pre, .counter n threshold => .next (coreWait s b.val c.val n.val threshold.toNat pre)
  | _, _ => .next s

end Sys2Proof.Machine
end

