-- ==== Sys2Proof/Machine/Endpoints.lean ====
section
/-! DEFINITION. Endpoints, notices and messages in progress (11 R368 to R380). -/

namespace Sys2Proof.Machine

/-! ### Endpoint contexts (Table 11-5) -/

/-- Partition range offset of the context of endpoint `n` (R371). -/
def epAddr (s : State) (p n : Nat) : Nat := (s.part p).xt.tableBase + 64 * n

/-- Decode an endpoint context (Table 11-5). -/
def epOfBytes (bs : List Byte) : Endpoint :=
  { state := fld bs 0 1, kind := fld bs 1 1, srq := fld bs 2 1 % 16, error := BitVec.ofNat 8 (fld bs 3 1),
    noticeLane := fld bs 4 2, itemLane := fld bs 6 2, counter := fld bs 8 2,
    signal := (fld bs 10 2).testBit 0, received := fld bs 0x10 8, sent := fld bs 0x18 8 }

/-- The context of endpoint `n` in the table. -/
def epInTable (s : State) (p n : Nat) : Endpoint := epOfBytes (loadBytes s p (epAddr s p n) 64)

/-- The context of endpoint `n`, on chip or in the table; an endpoint not enabled reads STATE 0. -/
def epOf (s : State) (p n : Nat) : Endpoint :=
  let x := (s.part p).xt
  match x.eps.find n with
  | some e => e
  | none =>
    let e := epInTable s p n
    if x.enabled.contains n then e else { e with state := 0 }

/-- Write the fields that the module writes back to the table (R372). -/
def epWriteBack (s : State) (p n : Nat) (e : Endpoint) : State :=
  let a := epAddr s p n
  let s := storeRaw s p a (leBytes 1 e.state)
  let s := storeRaw s p (a + 3) [e.error]
  storeRaw s p (a + 0x10) (leBytes 8 e.received ++ leBytes 8 e.sent)

/-- Change the context of an endpoint wherever it is. -/
def modEp (s : State) (p n : Nat) (f : Endpoint → Endpoint) : State :=
  match (s.part p).xt.eps.find n with
  | some e => s.modXt p fun x => { x with eps := x.eps.put n (f e) }
  | none => epWriteBack s p n (f (epOf s p n))

/-- The endpoint whose context leaves the on-chip store: the least recently used without an open
reassembly entry; endpoint 0 stays (R377). -/
def epVictim (x : PXt) : Option Nat :=
  ((sortOn (fun kv : Nat × Endpoint => kv.2.used) (x.eps.filter fun kv =>
    decide (kv.1 ≠ 0) && !x.reasm.any fun r => decide (r.endpoint = kv.1))).head?).map (·.1)

/-- Put a context in the on-chip store, displacing one when 1,024 are there (R377). -/
def epInstall (s : State) (p n : Nat) (e : Endpoint) : State :=
  let x := (s.part p).xt
  let s := if x.eps.has n ∨ (x.eps.filter fun kv => decide (kv.1 ≠ 0)).length < 1023 then s
    else match epVictim x with
      | none => s
      | some v =>
        let s := epWriteBack s p v (x.eps.at v {})
        s.modXt p fun x => { x with eps := x.eps.del v }
  s.modXt p fun x =>
    { x with eps := x.eps.put n { e with used := x.clock + 1, emptySince := none }, clock := x.clock + 1 }

/-- An endpoint is disabled: its context leaves the on-chip store with STATE 0. -/
def epRemove (s : State) (p n : Nat) : State :=
  let e := { epOf s p n with state := 0 }
  let s := epWriteBack s p n e
  s.modXt p fun x => { x with eps := x.eps.del n, enabled := x.enabled.filter (· ≠ n) }

/-- A shared receive queue has a buffer again: the endpoints that wait for one are starved no more (R376). -/
def srqFed (s : State) (p q : Nat) : State :=
  s.modXt p fun y => { y with eps := y.eps.mapVals fun _ e =>
    if e.kind = 0 ∧ e.srq = q then { e with emptySince := none } else e }

/-- Free the open reassembly entries of an endpoint; their buffers are kept for reuse (R379). -/
def epFreeEntries (s : State) (p n : Nat) : State :=
  let x := (s.part p).xt
  let gone := x.reasm.filter fun r => decide (r.endpoint = n)
  let q := (epOf s p n).srq
  let back := if (epOf s p n).kind = 0 then
      (gone.filter fun r => !r.refused).map fun r => (r.buffer, r.size, r.cookie)
    else []
  let s := s.modXt p fun x => { x with
    reasm := x.reasm.filter fun r => decide (r.endpoint ≠ n)
    srqs := if back = [] then x.srqs
      else x.srqs.put q { x.srqs.at q {} with kept := (x.srqs.at q {}).kept ++ back } }
  if back = [] then s else srqFed s p q

/-- An endpoint enters error (R376, R378, R379). -/
def epError (s : State) (p n : Nat) (code : Byte) : State :=
  let s := epFreeEntries s p n
  modEp s p n fun e => { e with state := 2, error := code, emptySince := none }

/-! ### Notices (Table 11-6) -/

/-- Write a notice to the endpoint's NOTICE_LANE, then add to COUNTER when SIGNAL is set (R375). -/
def notify (s : State) (p n : Nat) (status : Byte) (it : Item) : State :=
  let e := epOf s p n
  let s := if s.ownsLane p e.noticeLane then laneGive s e.noticeLane .transport it else s
  if e.signal ∧ s.ownsCtr p e.counter then ctrAdd s e.counter 1 (status != 0) else s

/-! ### Send items (Table 11-4) -/

def sendKind (it : Item) : Nat := itemFld it 1 1
def sendPart (it : Item) : Nat := itemFld it 4 1 % 64
def sendPinned (it : Item) : Bool := (itemFld it 5 1).testBit 0
def sendTo (it : Item) : Nat := itemFld it 6 2
def sendFrom (it : Item) : Nat := itemFld it 8 2
def sendSource (it : Item) : Nat := itemFld it 0x0A 6
def sendLength (it : Item) : Nat := itemFld it 0x10 4
def sendTag (it : Item) : BitVec 32 := BitVec.ofNat 32 (itemFld it 0x14 4)
def sendImm (it : Item) : Word := BitVec.ofNat 64 (itemFld it 0x18 8)

/-- The cost of an item to a Roundabout (R368, R369): 32 at least for a RELEASE, for a MESSAGE without
bytes and for an item of another TYPE. -/
def sendCost (it : Item) : Nat :=
  if itemFld it 0 1 ≠ 5 then 32
  else if sendKind it = 2 then Nat.max 32 (sendLength it)
  else if sendKind it = 1 then (if sendLength it = 0 then 32 else sendLength it)
  else 32

/-! ### Sends in progress (R370) -/

/-- A send of partition `p` completes: SENT and the notice with SEND_DONE (R375). -/
def sendDone (s : State) (p : Nat) (it : Item) (status : Byte) (sent : Nat) : State :=
  let n := sendFrom it
  let s := modEp s p n fun e => { e with sent := e.sent + 1 }
  notify s p n status (noticeItem status true (sendPart it) n (sendDevice it) (sendTo it) sent (sendTag it).toNat
    (sendImm it))

/-- Two entries are one message. -/
def sameSend (a b : MsgSend) : Bool := decide (a.number = b.number ∧ sendDevice a.item = sendDevice b.item)

/-- The messages in progress of a Roundabout but one. -/
def sendsBut (x : Roundabout) (m : MsgSend) : List MsgSend := x.sending.filter fun y => !sameSend y m

/-- Change the message in progress with a number. -/
def modSend (s : State) (r : Nat) (m : MsgSend) : State :=
  let x := s.roundabout r
  s.setRoundabout r { x with sending := x.sending.map fun y => if sameSend y m then m else y }

/-- Complete a message whose packets are all acknowledged. -/
def sendSettle (s : State) (r : Nat) (m : MsgSend) : State :=
  if m.todo = [] ∧ m.outstanding = [] then
    let x := s.roundabout r
    let s := s.setRoundabout r { x with sending := sendsBut x m }
    sendDone s m.part m.item m.status m.sent
  else modSend s r m

/-- Bytes of the packet at an offset of a message. -/
def packetLen (it : Item) (off : Nat) : Nat := min 4096 (sendLength it - off)

/-- The bytes of the packet at an offset of a message, read from its source (R360). -/
def messagePayload (s : State) (p : Nat) (it : Item) (off : Nat) : List Byte :=
  loadBytes s p (sendSource it + off) (packetLen it off)

/-- The MESSAGE packet at an offset of a message (R353, Table 11-3, Table 11-4). -/
def messagePacket (s : State) (m : MsgSend) (off : Nat) : TxPacket :=
  let it := m.item
  { dest := sendDevice it, cls := 1, op := 8, srcPart := m.part, destPart := sendPart it,
    mapEpoch := stampEpoch s m.part, pinned := sendPinned it, flow := if sendPinned it then sendFrom it else 0,
    fields := leBytes 4 m.number.toNat ++ leBytes 4 off ++ leBytes 4 (sendLength it)
      ++ leBytes 2 (sendTo it) ++ leBytes 2 (sendFrom it) ++ leBytes 8 (sendImm it).toNat,
    payload := messagePayload s m.part it off }

/-- The first non-zero STATUS stands (R370). -/
def MsgSend.noteStatus (m : MsgSend) (c : Byte) : MsgSend := if m.status = 0 then { m with status := c } else m

/-- The session towards a device has room for a further class-1 packet (R354, R359). -/
def windowRoom (s : State) (d : Nat) : Bool :=
  let p := s.peer d
  let x := p.c1
  decide (x.unacked.length + x.waiting.length < (if x.started then x.window else s.fab.windowInit))
    && (withContext s d).isSome

/-- A message may go on: towards an unreachable device it completes (R381), else its endpoint is not in error (R379)
and the window has room. -/
def sendReady (s : State) (m : MsgSend) : Bool :=
  decide (m.todo ≠ []) && (unreachable s (sendDevice m.item)
    || (decide ((epOf s m.part (sendFrom m.item)).state ≠ 2) && windowRoom s (sendDevice m.item)))

/-- Send one packet of a message: towards an unreachable device the packets left complete with 0x03; one
whose source cannot be read completes with that code. -/
def sendOne (s : State) (r : Nat) (m : MsgSend) : State :=
  match m.todo with
  | [] => s
  | off :: rest =>
    if unreachable s (sendDevice m.item) then sendSettle s r ({ m with todo := [] }.noteStatus 3)
    else
      let len := packetLen m.item off
      let a := sendSource m.item + off
      let s := passSquares s m.part a len
      let c := readCode s m.part a len
      if c ≠ 0 then
        let s := if c = 4 then badWordFaults s m.part a len 0 else s
        sendSettle s r ({ m with todo := rest }.noteStatus c)
      else
        let m' := { m with todo := rest, outstanding := m.outstanding ++ [off], sent := m.sent + len }
        match xtSubmit s (sendDevice m.item) 1
            (unsent (messagePacket s m off) 2 r m.number.toNat off) with
        | none => s
        | some s => modSend s r m'

/-- Interleave the packets of a Roundabout's messages one at a time while they can be sent (R370). -/
def sendPump (r : Nat) : Nat → State → State
  | 0, s => s
  | fuel + 1, s =>
    let x := s.roundabout r
    match x.sending.find? (sendReady s) with
    | none => s
    | some m =>
      let others := sendsBut x m
      sendPump r fuel (sendOne (s.setRoundabout r { x with sending := others ++ [m] }) r m)

/-- Packets that the messages of a Roundabout have still to send. -/
def sendLeft (s : State) (r : Nat) : Nat :=
  ((s.roundabout r).sending.map fun m => m.todo.length).foldl (· + ·) 0

/-- Let every Roundabout send what it can. -/
def sendPumps (s : State) : State :=
  (List.range 16).foldl (fun s r => sendPump r (sendLeft s r) s) s

/-- A packet of a message ends with a code (R359, R370, R381). -/
def messagePacketEnd (s : State) (r device : Nat) (number : BitVec 32) (off : Nat) (c : Byte) : State :=
  match (s.roundabout r).sending.find? fun m => decide (m.number = number ∧ sendDevice m.item = device) with
  | none => s
  | some m =>
    if m.outstanding.contains off then
      sendSettle s r ({ m with outstanding := m.outstanding.filter (· ≠ off) }.noteStatus c)
    else s

/-- Complete with a code every send in progress of partition `p` that `pick` names, whatever its packets have met (R380,
R509, Table 11-8). -/
def endSends (s : State) (p : Nat) (c : Byte) (pick : Item → Bool) : State :=
  (List.range 16).foldl (fun s r =>
    let x := s.roundabout r
    let gone := x.sending.filter fun m => decide (m.part = p) && pick m.item
    let rest := x.sending.filter fun m => !(decide (m.part = p) && pick m.item)
    let s := s.setRoundabout r { x with sending := rest }
    gone.foldl (fun s m => sendDone s p m.item c m.sent) s) s

end Sys2Proof.Machine
end

