-- ==== Sys2Proof/Machine/Sched.lean ====
section
/-! DEFINITION. The meanings of the scheduler commands: Roundabouts, sends, Crossing lists and alignment
(08 R276 to R280, 11 R368 to R370, 12 R403, 16 R521). -/

namespace Sys2Proof.Machine

/-! ### Deficit round robin (R276, R277) -/

/-- The lane of the queue behind a member that serves a lane. -/
def Roundabout.laneOf (r : Roundabout) (member : Nat) : Nat :=
  ((r.queues.find? fun x => decide (x.queue = member % 0x1_0000)).map (·.lane)).getD 0xFFFF

/-- A fresh member is topped up; a staged quantum takes effect then (R277). -/
def RaMember.topUp (m : RaMember) : RaMember :=
  if m.fresh then
    let q := m.staged.getD m.quantum
    { deficit := m.deficit + q, fresh := false, quantum := q, staged := none }
  else m

/-- `select(n)` of R276 over the items that each lane holds: the item, its lane, and the Roundabout after
it; none when nothing is backlogged. What a parent would give is found by the same function, and the
parent's members keep what that search changed only when the item is taken. -/
def raSelect (items : Nat → List Item) : Nat → Roundabout → Nat → Option (Item × Nat × Roundabout)
  | 0, _, _ => none
  | fuel + 1, r, n =>
    match r.active.at n [] with
    | [] => none
    | x :: rest =>
      let m := (r.members.at x {}).topUp
      let r := { r with members := r.members.put x m }
      let leaf := decide (0x1_0000 ≤ x) || !r.isParent x
      let lane := r.laneOf x
      let got := if leaf then (items lane).head?.map fun it => (it, lane, r) else raSelect items fuel r x
      match got with
      | none =>
        raSelect items fuel { r with
          active := r.active.put n rest
          members := r.members.put x { m with deficit := 0 } } n
      | some (it, l, r') =>
        if sendCost it ≤ m.deficit then
          let m' := { r'.members.at x {} with deficit := m.deficit - sendCost it }
          let still := if leaf then decide (2 ≤ (items lane).length) else !(r'.active.at x []).isEmpty
          let r'' := if still then { r' with members := r'.members.put x m' }
            else { r' with
              active := r'.active.put n ((r'.active.at n []).filter (· ≠ x))
              members := r'.members.put x { m' with deficit := 0 } }
          some (it, l, r'')
        else
          raSelect items fuel { r with
            active := r.active.put n (rest ++ [x])
            members := r.members.put x { m with fresh := true } } n

/-- Some entry of some list names Roundabout `r` (R279). -/
def gateNamed (s : State) (r : Nat) : Bool :=
  s.crossings.any fun kv => kv.2.entries.any fun e => e.opens.testBit r

/-- The gate of Roundabout `r` is open (R279). -/
def gateOpen (s : State) (r : Nat) : Bool :=
  !gateNamed s r || s.crossings.any fun kv =>
    kv.2.running && ((kv.2.entries[kv.2.current]?).map fun e => e.opens.testBit r).getD false

/-- The partition that owns a Roundabout runs: it is Open, and so is the module, or it is in Doubt. -/
def raRuns (s : State) (r : Nat) : Bool :=
  s.roundabouts.has r && decide (s.code (s.roundabout r).owner = 5 ∧ (s.regs.state = 5 ∨ s.regs.state = 7))

/-- Bound on the rounds of one selection: the largest item over the smallest quantum, at every member. -/
def raFuel : Nat := 2 ^ 48

/-- Select the next item of a Roundabout. -/
def raServe (s : State) (r : Nat) : State :=
  let x := s.roundabout r
  match raSelect (fun n => (s.lane n).items) raFuel x raRoot with
  | none => s
  | some (it, lane, x') =>
    let units := (sendCost it + 63) / 64
    let toll := s.toll x.shape
    if x.shapeOn ∧ toll.level < (units : Int) then s
    else
      let s := if x.shapeOn then s.setToll x.shape { toll with level := toll.level - units } else s
      let s := (lanePop s lane).2
      let known := decide (itemFld it 0 1 = 5 ∧ (sendKind it = 1 ∨ sendKind it = 2))
      if known then s.setRoundabout r { x' with selected := some it }
      else (s.setRoundabout r x').modXt x.owner fun y =>
        { y with raDiscards := satAdd 0xFFFF y.raDiscards 1 }

/-- ROUNDABOUT_SELECT (R276, R277, R279, R368). The item stays selected until SEND_MESSAGE or
SEND_RELEASE has taken it. -/
def execRoundaboutSelect (r : Fin 16) (s : State) : Out :=
  if raRuns s r.val ∧ (s.roundabout r.val).selected = none ∧ gateOpen s r.val then .next (raServe s r.val)
  else .next s

/-! ### Sends (R369, R370) -/

/-- Take the selected item of a Roundabout. -/
def raTake (s : State) (r : Nat) : State := s.setRoundabout r { s.roundabout r with selected := none }

/-- SEND_MESSAGE (R353, R370, R379): the checks, then the packets. Endpoint 0, which no ENABLE makes ready, is the
service's and sends no items (DESIGN CHOICE, notes/assumptions/31.md). -/
def execSendMessage (r : Fin 16) (s : State) : Out :=
  let x := s.roundabout r.val
  match x.selected with
  | none => .next s
  | some it =>
    let p := x.owner
    let n := sendFrom it
    if sendKind it ≠ 1 ∨ raRuns s r.val = false then .next s
    else if (s.part p).xt.epCount ≤ n ∨ n = 0 ∨ (epOf s p n).state = 0 then
      .next ((raTake s r.val).modXt p fun y => { y with msgDiscards := satAdd 0xFFFF y.msgDiscards 1 })
    else if (epOf s p n).state ≠ 1 then .next (sendDone (raTake s r.val) p it 7 0)
    else if inRange s p onSled false (sendSource it) (sendLength it) = false then
      .next (sendDone (raTake s r.val) p it 0x0D 0)
    else if sendLength it = 0 then .next (sendDone (raTake s r.val) p it 0 0)
    else if 8 ≤ x.sending.length then .next s
    else
      let d := sendDevice it
      let num := s.fab.msgNumbers.at d 0
      let s := s.modFab fun f => { f with msgNumbers := f.msgNumbers.put d (num + 1) }
      let offs := (List.range ((sendLength it + 4095) / 4096)).map (· * 4096)
      let m : MsgSend := { item := it, part := p, number := num, todo := offs }
      let s := s.setRoundabout r.val { x with selected := none, sending := x.sending ++ [m] }
      .next (sendPump r.val (sendLeft s r.val) s)

/-- SEND_RELEASE (R369). -/
def execSendRelease (r : Fin 16) (s : State) : Out :=
  let x := s.roundabout r.val
  match x.selected with
  | none => .next s
  | some it =>
    if sendKind it ≠ 2 ∨ raRuns s r.val = false then .next s
    else
      let s := raTake s r.val
      let n := sendDevice it
      .next (if n < 640 ∧ s.blockOwner (n / 8) = some x.owner then
        awlSetTail s n (BitVec.ofNat 32 (sendSource it)) else s)

/-! ### Crossing lists (R278 to R280) -/

/-- Start entry `e` of a list: its gates and its SIGNAL (Table 08-5). -/
def startEntry (s : State) (list e : Nat) : State :=
  let x := s.crossing list
  let s := s.setCrossing list { x with running := true, current := e, restart := false }
  match x.entries[e]? with
  | none => s
  | some y => if y.signal ∧ s.ownsCtr x.owner y.counter then ctrAdd s y.counter 1 false else s

/-- CROSSING_ENTRY_START (R279, R280): entry 0 after an alignment, else the entry after the current one. -/
def execCrossingEntryStart (list : Fin 64) (s : State) : Out :=
  let x := s.crossing list.val
  if s.code x.owner ≠ 5 ∨ x.entries = [] then .next s
  else if x.restart then .next (startEntry s list.val 0)
  else if x.running then .next (startEntry s list.val ((x.current + 1) % x.entries.length))
  else .next s

/-- The lists with an ALIGN code receive an alignment; entry 0 starts XL_OFFSET cycles later, and the
current entry runs until then (R280). -/
def alignLists (s : State) (align : Nat) : State :=
  { s with crossings := s.crossings.mapVals fun _ x =>
      if x.align = align ∧ s.code x.owner = 5 then
        { x with restart := true, alignments := satAdd 0xFFFF_FFFF x.alignments 1 }
      else x }

/-- One ALIGN packet to each target, the i-th 200 + 10i ns after the edge (R403). -/
def sendAligns (s : State) : Nat → List Nat → State
  | _, [] => s
  | i, d :: r =>
    let s := originate0 s d true 1 s.mgmt.alignEdges []
    sendAligns (if s.fab.device = 0xFFFF then s else s.emit (.alignSent d (200 + 10 * i))) (i + 1) r

/-- ALIGN_IN_EDGE (R280, R403, R521): an edge less than 10 us after the previous accepted one is
ignored. -/
def execAlignInEdge (s : State) : Out :=
  let late := match s.mgmt.alignAt with
    | none => true
    | some t => decide (t + 10 ≤ s.now)
  if s.regs.state = 0 ∨ late = false then .next s
  else
    let s := s.modMgmt fun m => { m with alignAt := some s.now, alignEdges := (m.alignEdges + 1) % 2 ^ 32 }
    let s := alignLists s 0
    .next (if s.mgmt.alignSource then sendAligns s 0 s.mgmt.alignTargets else s)

/-- ALIGN (R280, R403): delivered only when its SRC equals FROM. -/
def execAlign (fromDevice : Nat) (_count : BitVec 32) (s : State) : Out :=
  .next (if fromDevice = s.mgmt.alignFrom then alignLists s 1 else s)

end Sys2Proof.Machine
end

