-- ==== Sys2Proof/Machine/Services.lean ====
section
/-! DEFINITION. The meanings of the holder's commands: replies and their absence, the prefix copy's check, cancels,
and the output backlog (03 R69, 05 R147 to R187, 08 R268). -/

namespace Sys2Proof.Machine

/-! ### Replies (R147 to R149, R154, R167, R168) -/

/-- SERVICE_REPLY (R147). -/
def execServiceReply (p : Part) (h : SvcHdr) (payload : List Byte) (s : State) : Out :=
  .next (holderOn (svcReplied s p.val h payload none) p.val)

/-- GRANT_RECEIVED (R154, R170, R268): `source` is the directory entry of a prefix copy's source, where its load has
been answered by then. -/
def execGrantReceived (p : Part) (h : SvcHdr) (payload : List Byte) (source : Option (List Byte)) (s : State) : Out :=
  .next (if h.op = 1 then holderOn (svcReplied s p.val h payload source) p.val else s)

/-- TRANSFER_REPLY (R167). -/
def execTransferReply (p : Part) (h : SvcHdr) (s : State) : Out :=
  .next (if h.op = 4 then holderOn (svcReplied s p.val h [] none) p.val else s)

/-- HANDOFF_REPLY (R168). -/
def execHandoffReply (p : Part) (h : SvcHdr) (s : State) : Out :=
  .next (if h.op = 6 then holderOn (svcReplied s p.val h [] none) p.val else s)

/-- SERVICE_TIMEOUT (R149); at once towards a device that is LOST, or with FAB_DEVICE unassigned (R342,
R381). HO_TIMEOUT does not end the wait of an OPEN that the cache partition may have queued behind another holder
(R17, R290; DESIGN CHOICE, notes/assumptions/28.md). -/
def execServiceTimeout (p : Part) (msgId : Nat) (s : State) : Out :=
  let l := (s.part p.val).last
  match l.sent.find msgId with
  | none => .next s
  | some x =>
    if (s.now < x.sentAt + l.hoTimeout ∨ queues x) ∧ unreachable s x.toDevice = false then .next s
    else .next (holderOn (svcFailed s p.val msgId 3) p.val)

/-- HANDOFF_NEXT_DUE (R168): a request that was cancelled meanwhile ends as in PHASE 0x00 (R179). -/
def execHandoffNextDue (p : Part) (tag : BitVec 48) (s : State) : Out :=
  match liveOf s p.val tag with
  | none => .next s
  | some l =>
    if l.req.phase = 3 ∧ l.releasing = false ∧ l.req.nextDue < s.now then
      .next (holderOn (endWith s p.val tag (if l.req.cancel then 0 else 0x0B) l.req.cancel) p.val)
    else .next s

/-- FORWARDING_EXPIRE (R181): 2,000,000 us. -/
def execForwardingExpire (p : Part) (tag : BitVec 48) (s : State) : Out :=
  .next (s.modPLast p.val fun l => { l with
    forwards := l.forwards.filter fun f => decide (f.tag ≠ tag) || decide (s.now < f.at_ + 2000000) })

/-! ### The prefix copy (R268) -/

/-- PREFIX_COPY_CHECK (Table 08-2): the source's entry has been loaded. Before it is noted this is step 2; once the
MOVEs have completed it is step 4. -/
def execPrefixCopyCheck (p : Part) (tag : BitVec 48) (copied : Bool) (entry : Option (List Byte)) (s : State) : Out :=
  match (liveOf s p.val tag).bind (·.copy) with
  | none => .next s
  | some c =>
    if !c.noted then .next (holderOn (noteSource s p.val tag entry) p.val)
    else if c.moves ≠ 0 then .next s
    else .next (holderOn (checkCopy s p.val tag c copied entry) p.val)

/-! ### Cancels (R178 to R181) -/

/-- CANCEL at partition `p` (R146, R181). -/
def serveCancel (p : Nat) (h : SvcHdr) (s : State) : State :=
  svcReceive s p h 7 true fun s => submitCancel s p h.tag [] [h]

/-- CANCEL. -/
def execCancel (p : Part) (h : SvcHdr) (s : State) : Out := .next (holderOn (serveCancel p.val h s) p.val)

/-- CANCEL_SUBMIT (R178, Table 05-12). -/
def execCancelSubmit (src : Src) (p : Part) (slot : Fin 8) (value : Word) (s : State) : Out :=
  .next (partWrite s src p.val (0x3_8100 + 0x10 * slot.val) fun s =>
    let x := (s.part p.val).last.cancels.at slot.val {}
    if x.armed then s
    else
      let arm := value.toNat.testBit 31
      let s := s.modPLast p.val fun l => { l with
        cancels := l.cancels.put slot.val { x with armed := arm, vector := bitsOf value.toNat 24 5 } }
      if arm then holderOn (submitCancel s p.val x.tag [slot.val] []) p.val else s)

/-! ### The output backlog (R69) -/

/-- The item at the front of the backlog enters the lane; a request whose token 0 it was goes on. -/
def drainBacklog (s : State) (p n : Nat) (x : OutItem) (r : List OutItem) : State :=
  let tag := itemTag x.item
  let s := itemEmitted (laneGive (s.modHold p fun h => { h with backlog := r }) n (holderWriter p) x.item) p x
  match liveOf s p tag with
  | none => s
  | some l =>
    if x.mine ∧ l.req.phase = 2 ∧ l.req.outputCount ≠ 0 ∧ !backlogged s p tag then afterToken0 s p tag else s

/-- OUTPUT_BACKLOG_DRAIN. -/
def execOutputBacklogDrain (p : Part) (s : State) : Out :=
  match (s.part p.val).hold.backlog, outputLane s p.val with
  | x :: r, some n =>
    if laneFree s n then .next (holderOn (drainBacklog s p.val n x r) p.val) else .next s
  | _, _ => .next s

end Sys2Proof.Machine
end

