-- ==== Sys2Proof/Machine/Steps.lean ====
section
/-! DEFINITION. The steps of a partition: boundaries, speculation, deadlines, failure and replay, hand-offs
taken, and swapped contexts (05 R165, 07 R252 to R261, 08 R281 to R290, 15 R496 and R497). -/

namespace Sys2Proof.Machine

/-! ### Quiescing and failed steps (R496, R497) -/

/-- Begin to quiesce: runs stop, Awl and attention rings flush, later migration entries wait (R497). -/
def startQuiesce (s : State) (p : Nat) : State :=
  let s := (s.blocksOf p).foldl (fun s b =>
    let e := (s.block b).eng
    let s := if e.state = 1 then s.setEng b { e with state := 2, stopCode := 8 } else s
    let s := attnFlushAll s b p 8
    (List.range 8).foldl (fun s a => awlFlushAll s (8 * b + a) p 8) s) s
  let s := s.modPMem p fun m => { m with held := true }
  s.modPFault p fun f => { f with quiescing := true, quiesced := false }

/-- Every request of the step in flight ends with a code. One that is finishing already ends as it was going to
(R180). -/
def endStep (s : State) (p : Nat) (c : Byte) : State :=
  match (s.part p).hold.step with
  | none => s
  | some st =>
    let s := s.modHold p fun h => { h with step := none }
    st.streams.foldl (fun s tag =>
      match liveOf s p tag with
      | none => s
      | some l => if l.req.phase ≤ 4 then endRunning s p tag c else s) s

/-- The QUERYs of some streams that are outstanding answer a step no more: their replies are discarded. -/
def staleQueries (s : State) (p : Nat) (mine : BitVec 48 → Bool) : State :=
  s.modPLast p fun l => { l with
    sent := l.sent.mapVals fun _ x => { x with stale := x.stale || (decide (x.h.op = 5) && mine x.h.tag) } }

/-- The action of Table 15-5 on a step that failed with a code. A replay waits until the partition is quiesced
(R497). -/
def stepFails (s : State) (p : Nat) (st : StepRun) (c : Byte) : State :=
  let f := (s.part p).fault
  let s := s.setPFault p { f with lastCode := c, replayRun := f.replayRun + 1 }
  if c = 0x0F then s.modHold p fun h => { h with step := none }
  else if c = 2 ∨ c = 0x0B ∨ c = 0x0D then endStep s p c
  else if f.replayLimit ≤ f.replayRun + 1 then endStep (s.modPFault p fun f => { f with replayRun := 0 }) p c
  else
    let s := s.modPFault p fun f => { f with replays := satAdd 0xFFFF_FFFF f.replays 1 }
    let left := st.streams.filter fun tag => (liveOf s p tag).any fun l => l.prefilling || decide (l.req.phase = 4)
    let s := s.modHold p fun h => { h with step := some { start := s.now, streams := left, replay := true } }
    startQuiesce (staleQueries s p left.contains) p

/-! ### Contexts (R288 to R290) -/

/-- Put a model into a slot: what the slot held is evicted. -/
def swapInto (s : State) (p m k : Nat) (forced : Bool) : State :=
  let old := inSlot s p k
  s.modHold p fun h => { h with
    ctxs := h.ctxs.mapVals fun n c =>
      if n = m then { c with swapping := some k, forcedIn := forced }
      else if some n = old then { c with slot := none, swapping := none } else c }

/-- CONTEXT_SWAP_IN (R289). -/
def execContextSwapIn (p : Part) (s : State) : Out :=
  if s.code p.val ≠ 5 then .next s
  else
    let s := refreshCtxs s p.val
    match oldestSwapped s p.val with
    | none => .next s
    | some m =>
      let size := fun k => (((swapSlots s p.val).find? fun x => decide (x.1 = k)).map (·.2)).getD 0
      let idle := (fittingSlots s p.val m).filter fun k => match inSlot s p.val k with
        | none => true
        | some n => !(admittedModels s p.val).contains n
      match idle with
      | [] => .next s
      | k0 :: _ =>
        let same := idle.filter fun k => decide (size k = size k0)
        let age := fun k => match inSlot s p.val k with
          | none => 0
          | some n => ((s.part p.val).hold.ctxs.at n {}).lastRun + 1
        .next (swapInto s p.val m (((sortOn age same).head?).getD k0) false)

/-- The remaining bound of what a request waits on: HO_TIMEOUT bounds a reply (R149), but not that to an OPEN which
may wait behind another holder (R17), and a request goes on with the last of them; none where nothing bounds it
(R290). -/
def waitBound (s : State) (p : Nat) (tag : BitVec 48) : Option Nat :=
  let l := awaited s p tag
  if l.any queues then none
  else match l.map fun x => x.sentAt + (s.part p).last.hoTimeout - s.now with
    | [] => none
    | t :: r => some (r.foldl max t)

/-- The expected wait of a context: the shortest of its requests' (R290). -/
def expectedWait (s : State) (p m : Nat) : Nat :=
  (((livesOf s p).filter fun l => decide (l.req.model = m)).map fun l =>
    (waitBound s p l.req.tag).getD (2 ^ 64)).foldl min (2 ^ 64)

/-- CTX_BLOCK_EXPIRE (R290). -/
def execCtxBlockExpire (p : Part) (s : State) : Out :=
  let s := if s.code p.val = 5 then refreshCtxs s p.val else s
  let h := (s.part p.val).hold
  match oldestSwapped s p.val, h.blockedSince with
  | some m, some t =>
    if s.now < t + h.ctxBlockMin then .next s
    else
      let cand := (fittingSlots s p.val m).filterMap fun k => match inSlot s p.val k with
        | none => none
        | some n => if (h.ctxs.at n {}).forcedIn then none else some (n, k)
      let best := sortOn (fun x => 2 ^ 64 - expectedWait s p.val x.1) (sortOn (·.1) cand)
      match best with
      | [] => .next s
      | (_, k) :: _ =>
        let s := swapInto s p.val m k true
        .next (s.modHold p.val fun h => { h with forced := satAdd 0xFFFF_FFFF h.forced 1, blockedSince := none })
  | _, _ => .next s

/-- The offset of swap slot `k`. -/
def slotOff (s : State) (p k : Nat) : Nat :=
  ((((s.regions p).filter fun e => decide (e.tier = 1 ∧ e.use = 1 ∧ e.model = 255)).map (·.start))[k]?).getD 0

/-- SWAP_IN_DONE (R288): the MOVE from the DDR5 region has ended. -/
def execSwapInDone (read : PartRead) (model : Byte) (code : Byte) (s : State) : Out :=
  let p := read.p
  let m := model.toNat
  let c := (s.part p.val).hold.ctxs.at m {}
  match c.swapping with
  | none => .next s
  | some k =>
    let from_ := (s.regions p.val).find? fun e => decide (e.tier = 2 ∧ e.use = 1 ∧ e.model = m)
    let len := ((s.model p.val m).map (·.weightBytes)).getD 0
    let put := fun (s : State) (ok : Bool) => s.modHold p.val fun h => { h with
      ctxs := h.ctxs.put m { c with swapping := none, slot := if ok then some k else none } }
    match from_ with
    | none => .next (put s false)
    | some e =>
      if !codeDefined code then .next s
      else if code ≠ 0 then .next (put s false)
      else
        let r := homeRead (eccMet s p.val e.start len read.found) p.val e.start len 0
        if r.1 ≠ 0 then .next (put r.2.2 false)
        else
          let old := (s.part p.val).trust.verified
          let w := homeWrite r.2.2 p.val (slotOff s p.val k) r.2.1 (coversWhole (slotOff s p.val k) len) 0
          -- A swap-in from a verified region leaves what was verified verified (R442).
          let s := if old.contains m then w.2.modPTrust p.val fun t => { t with verified := old } else w.2
          .next (put s (decide (w.1 = 0)))

/-! ### Hand-offs taken (R165) -/

/-- Take or refuse a HANDOFF at a step boundary: the tail is reserved and TRANSFER goes to the copy that is read. A
model whose weights fit no slot is refused as at admission (R288). FIRST_DUE, which the payload carries as zero and
R167 does not name, becomes all ones (DESIGN CHOICE, notes/assumptions/28.md). -/
def takeHandoff (s : State) (p : Nat) (h : SvcHdr) (r : Record) : State :=
  let mask := ((s.piece p).map (·.modelMask)).getD 0
  match (if mask.testBit r.model ∧ !fitsNoSlot s p r.model then freeTail s p r.model else none) with
  | none => svcReply s p h { replyHdr s p h 0x0B with posA := freeTails s p r.model } []
  | some t =>
    let k : Taking := { req := { r with tail := BitVec.ofNat 64 t, firstDue := 0xFFFF_FFFF_FFFF_FFFF }, h := h }
    let s := s.modHold p fun x => { x with taking := x.taking ++ [k] }
    sendTransfer s p k (if r.onMirror then r.mirror else r.last)

/-- A HANDOFF has its turn at a step boundary; while another of the same tag is being taken it waits. -/
def handoffTurn (s : State) (p : Nat) (x : SvcHdr × Record) : State :=
  if (takingOf s p x.2.tag).isSome then s.modHold p fun h => { h with handoffs := h.handoffs ++ [x] }
  else takeHandoff s p x.1 x.2

/-- HANDOFF at partition `p` (R146, R165): taken at a step boundary only. NEXT_DUE becomes a value of this module's
counter on arrival (R15, R164). -/
def serveHandoff (p : Nat) (h : SvcHdr) (record : List Byte) (s : State) : State :=
  svcReceive s p h 6 (decide (s.role p = 1)) fun s =>
    let r := recordOf record
    let x := (h, { r with nextDue := fromRemaining s r.nextDue })
    if (s.part p).hold.step.isSome then s.modHold p fun y => { y with handoffs := y.handoffs ++ [x] }
    else handoffTurn s p x

/-- HANDOFF. -/
def execHandoff (p : Part) (h : SvcHdr) (record : List Byte) (s : State) : Out :=
  .next (holderOn (serveHandoff p.val h record s) p.val)

/-! ### The step boundary (R171, R179, R255, R281, R287) -/

/-- The longest draft a stream may take in a step (R253, R255, R284). -/
def draftLimit (s : State) (p : Nat) (l : Live) : Nat :=
  if draftMaxOf s p l.req.model = 0 ∨ 0 < l.req.draftPause ∨ l.unfed ≠ [] ∨ l.finalToken.isSome ∨ l.marked then 0
  else min l.req.draftLen (min (lMax s - l.req.seq - 1) (freeSlots (tailWindow s p) l.req - 1))

/-- The counts of queries that the QUERYs of a layer carry: Q has 16 bits, so that more than 65,535 queries travel in
several QUERYs (DESIGN CHOICE, notes/assumptions/28.md). -/
def queryCounts : Nat → Nat → List Nat
  | 0, _ => []
  | fuel + 1, q => if q ≤ 65535 then [q] else 65535 :: queryCounts fuel (q - 65535)

/-- Send the QUERYs of a stream for every layer. The query vectors are what the engine computes, and the
group size the program's: free bytes. -/
def sendQueries (s : State) (p : Nat) (l : Live) : State :=
  match s.model p l.req.model with
  | none => s
  | some m =>
    let prefill := l.prefilling
    let posB := if prefill then l.req.length else l.req.tailBase
    let g := 1 + Config.freeNat s.draws % 16
    let h := l.readHandle
    let counts := queryCounts 260 (if prefill then l.stepTake else l.feeds + l.stepTake)
    ((List.range m.layers).flatMap fun layer => counts.map fun q => (layer, q)).foldl (fun s x =>
      let body := leBytes 1 m.kvHeads ++ leBytes 1 g ++ leBytes 1 m.head ++ [0] ++ leBytes 4 0
        ++ freeBytes s.draws 4 ++ leBytes 52 0 ++ (freeBytes s.draws (4 + x.2 * m.kvHeads * g * 2 * headDim m.head)).drop 4
      let r := { requestHdr s p 5 l.req.tag h with
        handoffSeq := l.req.handoffSeq, posA := x.1, posB := posB, value := BitVec.ofNat 64 x.2 }
      (svcSend s.draw.2 p (handleDevice h) (handlePart h) r body).2) s.draw.2

/-- The streams of the coming step. A marked stream needs its main model no more than the fallback model needs it
(R281); every other stream needs its model resident. A prompt partition prefills every ready request; a combined one
decodes and then prefills a chunk of the oldest ready request, turn by turn, with COMBINED_CHUNK 0 only while its
batch is empty (R287). -/
def stepStreams (s : State) (p : Nat) : List Live :=
  let h := (s.part p).hold
  let ok := fun (l : Live) => residentModel s p l.req.model
  let decode := (livesOf s p).filter fun l => marks s p l || (canFeed s p l && ok l)
  let fill := (livesOf s p).filter fun l => prefillReady l && ok l
  if s.role p ≠ 3 then decode ++ fill
  else
    let chunk := if h.combinedChunk = 0 ∧ (livesOf s p).any (·.inBatch) then [] else fill.take 1
    if decode = [] ∨ (h.chunkNext ∧ chunk ≠ []) then chunk else decode

/-- The prompt tokens that a step prefills: all that are left beyond a copied prefix, at a combined partition at
most COMBINED_CHUNK, where 0 sets no limit (R268, R287). -/
def fillOf (s : State) (p : Nat) (l : Live) : Nat :=
  let left := l.req.promptTokens - l.filled
  let c := (s.part p).hold.combinedChunk
  if s.role p = 3 ∧ c ≠ 0 then min c left else left

/-- A chunk of a prefill goes to the copies (R158, R159): with the last chunk the COMMITs are begun, and once they are
the copies that a write has failed to reach are written again. -/
def writePrefill (s : State) (p : Nat) (l : Live) (row : Nat) : State :=
  let tag := l.req.tag
  let last := decide (l.req.promptTokens ≤ l.filled + l.stepTake)
  let begun := decide (l.due ≠ [])
  let copies := if begun then (l.due.filter (·.failed)).map (·.copy) else l.copies
  let s := if last && !begun then beginCommits s p tag l.req.length (l.req.length + l.req.promptTokens)
    else modLive s p tag fun l => { l with due := l.due.map fun d => { d with failed := false } }
  sendDue (queueMoves s p (.prefill tag) (prefillMoves s p l copies (l.req.length + l.filled) l.stepTake row)) p tag

/-- A stream of a step runs: a prefill's keys and values are written and its QUERYs sent; `row` counts the padded rows
of the streams before it. -/
def runStream (s : State) (p : Nat) (l : Live) (row : Nat) : State :=
  if l.marked then s else sendQueries (if l.req.phase = 1 then writePrefill s p l row else s) p l

/-- The padded rows that a stream takes. -/
def Live.rows (l : Live) : Nat := if l.req.phase = 1 then l.stepTake else 0

/-- The streams of a step run, one after another. -/
def runStreams (p : Nat) : Nat → List Live → State → State
  | _, [], s => s
  | row, l :: r, s => runStreams p (row + l.rows) r (runStream s p l row)

/-- A stream as it enters the step. -/
def Live.entered (s : State) (p : Nat) (l : Live) : Live :=
  let l := { l with marked := marks s p l, left := false }
  let l := { l with
    stepTake := if l.req.phase = 1 then fillOf s p l else if l.req.phase = 2 then l.stepTake else draftLimit s p l }
  let w := tailWindow s p
  { l with req := if l.marked ∨ l.req.phase ≠ 4 then l.req else tailRoom w l.req (l.feeds + l.stepTake) (w / 64 + 1) }

/-- The streams enter the step. -/
def enterSteps (s : State) (p : Nat) (st : List Live) : State :=
  let ls := st.map (Live.entered s p)
  runStreams p 0 ls (ls.foldl (fun s l => modLive s p l.req.tag fun _ => l) s)

/-- A request of the batch that has no tail takes a free one. -/
def giveTail (s : State) (p : Nat) (l : Live) : State :=
  match (if l.inBatch ∧ l.req.tail = allOnes64 then freeTail s p l.req.model else none) with
  | none => s
  | some t => modReq s p l.req.tag fun r => { r with tail := BitVec.ofNat 64 t }

/-- A request that is handed off and has no HANDOFF outstanding turns to a target again (R168). -/
def retryHandoff (s : State) (p : Nat) (l : Live) : State :=
  if l.req.phase = 3 ∧ !l.releasing ∧ !handoffSent s p l.req.tag then nextTarget s p l.req.tag else s

/-- What happens between two steps: hand-offs, cancels, tails (R165, R167, R179). -/
def betweenSteps (s : State) (p : Nat) : State :=
  let h := (s.part p).hold
  let s := s.modHold p fun h => { h.boundary with handoffs := [] }
  let s := (h.taking.filter (·.ready)).foldl (fun s k => takingAccepted s p k) s
  let s := h.handoffs.foldl (fun s x => handoffTurn s p x) s
  let s := ((livesOf s p).map (·.req.tag)).foldl (fun s tag => takeCancel s p tag) s
  let s := (livesOf s p).foldl (fun s l => retryHandoff s p l) s
  holderOn ((livesOf s p).foldl (fun s l => giveTail s p l) s) p

/-- STEP_BOUNDARY (R165, R179, R281). -/
def execStepBoundary (p : Part) (s : State) : Out :=
  if s.code p.val ≠ 5 ∨ ¬ (s.regs.state = 5 ∨ s.regs.state = 7) ∨ (s.part p.val).hold.step.isSome
      ∨ (s.part p.val).stopping then .next s
  else
    let s := betweenSteps s p.val
    let st := stepStreams s p.val
    if st = [] then .next s
    else
      let s := enterSteps s p.val st
      let models := st.map (·.req.model)
      .next (holderOn (s.modHold p.val fun h => { h with
        step := some { start := s.now, streams := st.map (·.req.tag) }
        chunkNext := decide (s.role p.val = 3) && st.any fun l => decide (l.req.phase = 4)
        ctxs := h.ctxs.mapVals fun m c => if models.contains m then { c with lastRun := s.now } else c }) p.val)

/-! ### The step's commit (R257 to R259, R283 to R285) -/

/-- Draft tokens accepted: the longest prefix that the main model agrees with (R257). -/
def acceptedCount : List (BitVec 32) → List (BitVec 32) → Nat
  | d :: ds, t :: ts => if d = t then 1 + acceptedCount ds ts else 0
  | _, _ => 0

/-- The draft state after a step with `k` drafts of which `a` were accepted (R259). -/
def adjustDraft (maxLen k a : Nat) (r : Record) : Record :=
  if 0 < r.draftPause then
    let n := r.draftPause - 1
    { r with draftPause := n, draftLen := if n = 0 then 1 else r.draftLen }
  else if k = 0 then r
  else if a = k then { r with rejectRun := 0, draftLen := if r.draftLen < maxLen then r.draftLen + 1 else r.draftLen }
  else if 0 < a then { r with rejectRun := 0 }
  else if r.rejectRun + 1 < 4 then { r with rejectRun := r.rejectRun + 1 }
  else { r with rejectRun := 0, draftLen := r.draftLen / 2, draftPause := if r.draftLen / 2 = 0 then 64 else r.draftPause }

/-- Count a token committed after its NEXT_DUE (R285). -/
def countMissed (s : State) (p : Nat) (r : Record) : State :=
  if r.nextDue < s.now then s.modHold p fun h => { h with missed := satAdd 0xFFFF_FFFF h.missed 1 } else s

/-- Emit token items at the positions from `pos` on. -/
def emitTokens (p : Nat) (tag : BitVec 48) : Nat → List (BitVec 32) → State → State
  | _, [], s => s
  | pos, t :: r, s => emitTokens p tag (pos + 1) r (liveItem s p (tokenItem 0 false false tag pos t.toNat))

/-- A prefill has yielded token 0; it commits when every copy has answered COMMIT (R161, Table 05-6 step 5). -/
def prefillDone (s : State) (p : Nat) (l : Live) (t : BitVec 32) (ends : Bool) : State :=
  let tag := l.req.tag
  commitProgress (modLive s p tag fun l => { l with
    finalToken := if ends then some t else none
    req := { l.req with lastToken := t, step := l.req.step + 1 } }) p tag

/-- The writes of a stream's prefill in the step are not over: its COMMITs come before token 0 (Table 05-5). -/
def prefillWaits (s : State) (p : Nat) (tag : BitVec 48) : Bool :=
  (liveOf s p tag).any fun l =>
    decide (l.req.phase = 1) && !l.left && !l.releasing && (!l.due.isEmpty || makerOpen s p (.prefill tag))

/-- A marked stream takes its token from the fallback model (R283, R284). A token whose own position would be L_max
could never be fed: it is the request's last, with 0x02 (R134). -/
def commitFallback (s : State) (p : Nat) (l : Live) (t : BitVec 32) (ends : Bool) : State :=
  let tag := l.req.tag
  let limit := decide (lMax s ≤ l.req.seq + l.unfed.length + 1)
  let final := limit || ends
  let s := countMissed s p l.req
  let s := s.modHold p fun h => { h with fallbackTokens := satAdd 0xFFFF_FFFF h.fallbackTokens 1 }
  let s := modLive s p tag fun l => { l with
    unfed := l.unfed ++ [l.req.lastToken]
    finalToken := if final then some t else none
    finalCode := if limit then 2 else if ends then 0x0A else l.finalCode
    req := { adjustDraft 0 0 0 l.req with
      lastToken := t, fallback := true, fallbackCount := l.req.fallbackCount + 1, step := l.req.step + 1
      atLimit := l.req.atLimit || limit
      outputCount := if final then l.req.outputCount else l.req.outputCount + 1 } }
  if final then s else liveItem s p (tokenItem 0x0A false false tag l.req.outputCount t.toNat)

/-- A stream takes the main model's tokens (R257 to R259, R134, R136). -/
def commitMain (s : State) (p : Nat) (l : Live) (r : StreamOut) : State :=
  let tag := l.req.tag
  let u := l.unfed.length
  let ts := r.tokens.drop u
  let es := r.ends.drop u
  let drafts := r.drafts.take l.stepTake
  let k := drafts.length
  let a := min (acceptedCount drafts ts) (ts.length - 1)
  let room := lMax s - l.req.seq - u
  let run := (ts.take (a + 1)).take room
  let cut := match (List.range run.length).find? fun i => es.getD i false with
    | none => run
    | some i => run.take (i + 1)
  match cut.getLast? with
  | none => s
  | some t =>
    let seq := l.req.seq + u + cut.length
    let limit := decide (lMax s ≤ seq)
    let ended := es.getD (cut.length - 1) false
    let final := limit || ended
    let items := if final then cut.dropLast else cut
    let s := countMissed s p l.req
    let s := s.modHold p fun h => { h with drafted := h.drafted + k, accepted := h.accepted + a }
    let s := modLive s p tag fun l => { l with
      unfed := []
      req := { adjustDraft (pieceDraftMax s p l.req.model) k a l.req with
        seq := seq, lastToken := t, outputCount := l.req.outputCount + items.length, step := l.req.step + 1
        fallback := false, atLimit := l.req.atLimit || limit } }
    let s := emitTokens p tag l.req.outputCount items s
    if final then finishRequest s p tag (if limit then 2 else 0) (some t) else flushOn s p tag

/-- One stream's part of a step commits. -/
def commitStream (s : State) (p : Nat) (r : StreamOut) : State :=
  match liveOf s p r.tag with
  | none => s
  | some l =>
    if l.left ∨ l.releasing then s
    else if l.prefilling then
      if s.role p = 3 ∧ l.filled + l.stepTake < l.req.promptTokens then
        modLive s p r.tag fun l => { l with filled := l.filled + l.stepTake }
      else match r.tokens with
      | [] => s
      | t :: _ => prefillDone s p l t (r.ends.headD false)
    else if l.req.phase ≠ 4 then s
    else if l.marked then
      match r.fallback with
      | none => s
      | some t => commitFallback s p l t r.fallbackEnds
    else match l.finalToken with
      | some t =>
        let s := modLive s p r.tag fun l => { l with
          unfed := [], req := { l.req with seq := l.req.seq + l.unfed.length, step := l.req.step + 1 } }
        finishRequest s p r.tag l.finalCode (some t)
      | none => commitMain s p l r

/-- STEP_COMMIT: the step in flight commits for every stream, or fails (R257, R496). A step that waits for the
quiescing before its replay, or for the writes of a prefill, has nothing to commit yet. -/
def execStepCommit (p : Part) (results : List StreamOut) (s : State) : Out :=
  match (s.part p.val).hold.step with
  | none => .next s
  | some st =>
    if s.code p.val ≠ 5 ∨ st.replay then .next s
    else if st.failed then .next (holderOn (stepFails s p.val st st.code) p.val)
    else if st.streams.any (prefillWaits s p.val) then .next s
    else
      let mine := results.filter fun r => st.streams.contains r.tag
      let models := st.streams.filterMap fun tag => (liveOf s p.val tag).map (·.req.model)
      let s := s.modHold p.val fun h => { h with
        step := none
        durations := (h.durations ++ [s.now - st.start]).drop (h.durations.length + 1 - 16)
        ctxs := h.ctxs.mapVals fun m c => if models.contains m then { c with forcedIn := false } else c }
      let s := s.modPFault p.val fun f => { f with replayRun := 0 }
      .next (holderOn (mine.foldl (fun s r => commitStream s p.val r) s) p.val)

/-! ### Expiries (R282, R285) -/

/-- A QUERY of a stream's step that awaits its reply. -/
def streamQuery (tag : BitVec 48) (x : SvcSent) : Bool :=
  decide (x.h.op = 5 ∧ x.h.tag = tag) && !toPartner x && !x.stale

/-- QUERY_WAIT_EXPIRE (R282): the wait counts from the layer's last QUERY. The replies that come later are
discarded; a reply that never comes still ends as R149 says. -/
def execQueryWaitExpire (p : Part) (tag : BitVec 48) (layer : Nat) (s : State) : Out :=
  let h := (s.part p.val).hold
  let missing := ((s.part p.val).last.sent.map (·.2)).filter fun x => streamQuery tag x && decide (x.h.posA = layer)
  let sentAt := (missing.map (·.sentAt)).foldl max 0
  let inStep := h.step.any fun st => st.streams.contains tag
  if h.queryWait ≠ 0 ∧ inStep ∧ (liveOf s p.val tag).isSome ∧ missing ≠ [] ∧ sentAt + h.queryWait ≤ s.now then
    .next (holderOn (modLive (staleQueries s p.val (decide <| · = tag)) p.val tag fun l => { l with left := true }) p.val)
  else .next s

/-- FIRST_DUE_EXPIRE (R285). -/
def execFirstDueExpire (p : Part) (tag : BitVec 48) (s : State) : Out :=
  match liveOf s p.val tag with
  | none => .next s
  | some l =>
    if l.req.phase ≤ 2 ∧ l.req.firstDue < s.now ∧ (s.part p.val).hold.firstEnd ∧ !l.releasing then
      .next (holderOn (endEarly s p.val tag 0x0A) p.val)
    else .next s

end Sys2Proof.Machine
end

