-- ==== Sys2Proof/Machine/Transport.lean ====
section
/-! DEFINITION. The meanings of the transport commands but the remote-line requests: messages, responses,
acknowledgement, resending, lost targets, endpoints and fences (11 R354 to R361, R367, R371 to R384). -/

namespace Sys2Proof.Machine

/-! ### Receiving messages (R374 to R379) -/

/-- The next buffer in the ring of a shared receive queue, and the state: entries that cannot be read are
consumed, and the message takes the entry after them (R92, R373). -/
def srqNext (p q : Nat) : Nat → State → Option (Nat × Nat × BitVec 32) × State
  | 0, s => (none, s)
  | fuel + 1, s =>
    let x := (s.part p).xt.srqs.at q {}
    if x.head = x.tail then (none, s)
    else
      let s := settlePart s p
      let r := ringRead s p x.base x.size 16 x.head
      if r.1 = 0 then (some (fld r.2.1 0 8, fld r.2.1 8 4, BitVec.ofNat 32 (fld r.2.1 12 4)), s)
      else srqNext p q fuel (r.2.2.modXt p fun y => { y with srqs := y.srqs.put q { x with head := x.head + 1 } })

/-- The head buffer of a shared receive queue: kept for reuse, or next in the ring (R373, R379). -/
def srqHead (s : State) (p q : Nat) : Option (Nat × Nat × BitVec 32) × State :=
  let x := (s.part p).xt.srqs.at q {}
  match x.kept with
  | b :: _ => (some b, s)
  | [] => srqNext p q (dist32 x.tail x.head) s

/-- Take the head buffer. -/
def srqTake (s : State) (p q : Nat) : State :=
  let x := (s.part p).xt.srqs.at q {}
  let x := match x.kept with
    | _ :: r => { x with kept := r }
    | [] => { x with head := x.head + 1 }
  s.modXt p fun y => { y with srqs := y.srqs.put q x }

/-- The endpoint finds no buffer or a full ITEM_LANE: the packet gets no ACK (R376). -/
def epStarved (s : State) (p n : Nat) : State :=
  modEp s p n fun e => { e with emptySince := e.emptySince.orElse fun _ => some s.now }

/-- The endpoint is served. -/
def epServed (s : State) (p n : Nat) : State :=
  s.modXt p fun x =>
    match x.eps.find n with
    | none => x
    | some e => { x with
        clock := x.clock + 1
        eps := x.eps.put n { e with used := x.clock + 1, emptySince := none } }

/-- The reassembly entry of a packet. -/
def sameMsg (x : XtHdr) (m : MsgFields) (r : Reasm) : Bool :=
  decide (r.device = x.device ∧ r.srcPart = x.srcPart ∧ r.number = m.number)

/-- Answer a message packet with a code; it then counts as handled (R356). -/
def answerMsg (s : State) (x : XtHdr) (again : Bool) (c : Byte) : State := reportHandled s x 1 c again

/-- Put a reassembly entry back, or free it when it is done. -/
def putReasm (s : State) (p : Nat) (x : XtHdr) (m : MsgFields) (e : Option Reasm) : State :=
  s.modXt p fun y => { y with reasm := (y.reasm.filter fun r => !sameMsg x m r) ++ e.toList }

/-- A message has been delivered: RECEIVED, the notice, the counter (R375). -/
def msgComplete (s : State) (p : Nat) (x : XtHdr) (m : MsgFields) (cookie : BitVec 32) : State :=
  let n := m.destEndpoint
  let s := modEp s p n fun e => { e with received := e.received + 1 }
  notify s p n 0 (noticeItem 0 false x.srcPart n x.device m.srcEndpoint m.total cookie.toNat m.immediate)

/-- Steps 4 and 5 of R374 for a packet whose message has an entry; one of a refused message counts once, so that the
entry goes with the last of them. -/
def msgPlace (s : State) (p : Nat) (x : XtHdr) (m : MsgFields) (bytes : List Byte) (again : Bool)
    (r : Reasm) : State :=
  if r.refused then
    let n := if r.counted.contains m.offset then r.count else r.count + bytes.length
    answerMsg (putReasm s p x m (if r.total ≤ n then none
      else some { r with count := n, counted := m.offset :: r.counted })) x again 2
  else if m.total ≠ r.total then answerMsg s x again 0x0B
  else
    let a := r.buffer + m.offset
    let w := if inRange s p onSledW false a bytes.length then homeWrite s p a bytes (fun _ => false) 0
      else (0x0D, s)
    if w.1 ≠ 0 then answerMsg w.2 x again w.1
    else
      let n := r.count + bytes.length
      let s := if r.total ≤ n then msgComplete (putReasm w.2 p x m none) p x m r.cookie
        else putReasm w.2 p x m (some { r with count := n })
      answerMsg s x again 0

/-- Step 3 of R374: take an entry, with a buffer for KIND 0x00. -/
def msgOpen (s : State) (p : Nat) (x : XtHdr) (m : MsgFields) (bytes : List Byte) (again : Bool)
    (e : Endpoint) : State :=
  if 64 ≤ (s.part p).xt.reasm.length + (s.part p).last.arriving.length then
    s.modXt p fun y => { y with reasmDiscards := satAdd 0xFFFF y.reasmDiscards 1 }
  else if e.kind = 1 then
    if m.total ≠ 32 then answerMsg s x again 2
    else if !s.ownsLane p e.itemLane then answerMsg s x again 0x0D
    else if !laneFree s e.itemLane then epStarved s p m.destEndpoint
    else
      let s := laneGive s e.itemLane .transport (itemOf bytes)
      answerMsg (msgComplete (epServed s p m.destEndpoint) p x m 0) x again 0
  else
    let h := srqHead s p e.srq
    match h.1 with
    | none => epStarved h.2 p m.destEndpoint
    | some (buffer, size, cookie) =>
      let refused := decide (size < m.total)
      let r : Reasm := { device := x.device, srcPart := x.srcPart, number := m.number,
                         endpoint := m.destEndpoint, srcEndpoint := m.srcEndpoint, buffer := buffer, size := size,
                         cookie := cookie, total := m.total, count := 0, refused := refused,
                         immediate := m.immediate }
      let s := if refused then h.2 else srqTake h.2 p e.srq
      let s := epServed s p m.destEndpoint
      msgPlace (putReasm s p x m (some r)) p x m bytes again r

/-! ### Endpoint 0 (R144 to R148) -/

/-- LENGTH of the copy of the sender of an OPEN with PARTNER set, which no field of the message carries: the entry's
where the sender is a partition of this module, else a free value (notes/assumptions/28.md). -/
def senderLength (s : State) (h : SvcHdr) : Nat × State :=
  if h.fromDevice = s.fab.device.toNat then ((dirAt s h.fromPartition (handleSlot h.handle)).length, s)
  else (Config.freeNat s.draws % 2 ^ 32, s.draw.2)

/-- A service message has arrived whole at endpoint 0 of partition `p`: a reply, or a request of Table 05-2, any
other OP being answered 0x0B (R145 to R147). -/
def svcArrive (s : State) (p : Nat) (bytes : List Byte) : State :=
  let h := svcHdrOf bytes
  let payload := bytes.drop 64
  if h.reply then svcReplied s p h payload none
  else match h.op.toNat with
  | 1 => if h.partner then let l := senderLength s h; serveOpenPartner p h l.1 l.2 else serveOpen p h s
  | 2 => serveCommit p h s
  | 3 => serveRelease p h s
  | 4 => serveTransfer p h s
  | 5 => serveQuery p h payload s
  | 6 => serveHandoff p h payload s
  | 7 => serveCancel p h s
  | 8 => serveGrow p h s
  | _ => svcReceive s p h 0 false id

/-- The message of a service message's packet. -/
def sameSvc (x : XtHdr) (m : MsgFields) (r : SvcIn) : Bool :=
  decide (r.device = x.device ∧ r.part = x.srcPart ∧ r.number = m.number)

/-- The bytes of a message whose packets have all arrived. -/
def SvcIn.bytes (r : SvcIn) : List Byte := (sortOn (·.1) r.got).flatMap (·.2)

/-- Change the context of endpoint 0, which stays on chip (R377). -/
def modEp0 (s : State) (p : Nat) (f : Endpoint → Endpoint) : State :=
  s.modXt p fun x => { x with eps := match x.eps.find 0 with
    | none => x.eps
    | some e => x.eps.put 0 (f e) }

/-- A packet for endpoint 0: its message is gathered in a reassembly entry and handed to the service when it is whole
(R144, R374). What is shorter than a header is no message. -/
def svcPlace (s : State) (p : Nat) (x : XtHdr) (m : MsgFields) (bytes : List Byte) (again : Bool) (r : SvcIn) : State :=
  if m.total ≠ r.total then answerMsg s x again 0x0B
  else
    let r := { r with got := r.got ++ [(m.offset, bytes)] }
    let whole := decide (r.total ≤ ((r.got.map fun g => g.2.length).foldl (· + ·) 0))
    let s := s.modPLast p fun l => { l with
      arriving := (l.arriving.filter fun r => !sameSvc x m r) ++ (if whole then [] else [r]) }
    let s := answerMsg s x again 0
    let s := if whole then modEp0 s p fun e => { e with received := e.received + 1 } else s
    if whole ∧ 64 ≤ r.total then holderOn (svcArrive s p r.bytes) p else s

/-- Handle a packet for endpoint 0. -/
def svcHandle (s : State) (p : Nat) (x : XtHdr) (m : MsgFields) (bytes : List Byte) (again : Bool) : State :=
  let l := (s.part p).last
  match l.arriving.find? (sameSvc x m) with
  | some r => svcPlace s p x m bytes again r
  | none =>
    if 64 ≤ (s.part p).xt.reasm.length + l.arriving.length then
      s.modXt p fun y => { y with reasmDiscards := satAdd 0xFFFF y.reasmDiscards 1 }
    else svcPlace s p x m bytes again { device := x.device, part := x.srcPart, number := m.number, total := m.total }

/-- Handle a MESSAGE packet for its endpoint (R374). -/
def msgHandle (s : State) (p : Nat) (x : XtHdr) (m : MsgFields) (bytes : List Byte) (again : Bool) : State :=
  let n := m.destEndpoint
  let e := epOf s p n
  let t := (s.part p).xt
  if n = 0 then svcHandle s p x m bytes again
  else if t.epCount ≤ n ∨ e.state ≠ 1 then answerMsg s x again 7
  else if !t.eps.has n then
    if 32 ≤ t.parked.length then
      s.modXt p fun y => { y with kerbDiscards := satAdd 0xFFFF y.kerbDiscards 1 }
    else grantFetches p 64 (s.modXt p fun y => { y with
      parked := y.parked ++ [{ x := x, m := m, bytes := bytes }]
      fetchWait := if y.fetches.contains n ∨ y.fetchWait.contains n then y.fetchWait else y.fetchWait ++ [n] })
  else match t.reasm.find? (sameMsg x m) with
    | some r => msgPlace (epServed s p n) p x m bytes again r
    | none => msgOpen s p x m bytes again e

/-- Bytes that a MESSAGE packet at this offset carries (R353). -/
def msgLengthOk (m : MsgFields) (bytes : List Byte) : Bool :=
  decide (m.offset % 4096 = 0 ∧ (m.offset < m.total ∨ (m.total = 0 ∧ m.offset = 0))
    ∧ bytes.length = min 4096 (m.total - m.offset))

/-- A packet whose PSN has not been handled, or has failed, is handled; another is acknowledged again
(R357). -/
def msgArrive (s : State) (x : XtHdr) (m : MsgFields) (bytes : List Byte) : State :=
  let y := (s.peer x.device).c1
  let again := y.seen x.psn
  if again ∧ !y.failedPsns.contains x.psn then reportHandled s x 1 0 true
  else
    let c := mapCheck s x.destPart x.mapEpoch x.device x.srcPart
    if c ≠ 0 then answerMsg s x again c else msgHandle s x.destPart x m bytes again

/-- MESSAGE (R342, R352, R354 to R358, R374 to R379). -/
def execMessage (x : XtHdr) (m : MsgFields) (bytes : List Byte) (s : State) : Out :=
  if s.fab.device = 0xFFFF then .next s
  else if !msgLengthOk m bytes then .next (dropLength s)
  else match rxContext s x 1 with
    | none => .next (dropNoPeer s)
    | some s => .next (msgArrive s x m bytes)

/-- Handle the parked packets of an endpoint in order of arrival (R377). -/
def unpark (s : State) (p n : Nat) : State :=
  let mine := (s.part p).xt.parked.filter fun k => decide (k.m.destEndpoint = n)
  let s := s.modXt p fun y => { y with parked := y.parked.filter fun k => decide (k.m.destEndpoint ≠ n) }
  mine.foldl (fun s k => msgArrive s k.x k.m k.bytes) s

/-- KERBSIDE_FETCH_DONE (R377, R378): a context that cannot be read puts the endpoint in error. -/
def execKerbsideFetchDone (p : Part) (ep : Nat) (s : State) : Out :=
  let x := (s.part p.val).xt
  if !x.fetches.contains ep then .next s
  else
    let s := grantFetches p.val 64 ((settlePart s p.val).modXt p.val fun y => { y with fetches := y.fetches.filter (· ≠ ep) })
    let a := epAddr s p.val ep
    let c := if inRange s p.val onSled false a 64 then readCode s p.val a 64 else 0x0D
    let e := epInTable s p.val ep
    let s := if c = 4 then badWordFaults s p.val a 64 0 else s
    let s := if !x.enabled.contains ep then s
      else epInstall s p.val ep (if c = 0 then e else { e with state := 2, error := c })
    .next (unpark s p.val ep)

/-- The endpoint finds no buffer still, or its lane is still full. -/
def stillStarved (s : State) (p : Nat) (e : Endpoint) : Bool :=
  if e.kind = 1 then decide (16 ≤ (s.lane e.itemLane).items.length)
  else
    let q := (s.part p).xt.srqs.at e.srq {}
    q.kept.isEmpty && decide (q.head = q.tail)

/-- EP_EMPTY_EXPIRE (R376). -/
def execEpEmptyExpire (p : Part) (ep : Nat) (s : State) : Out :=
  let x := (s.part p.val).xt
  match x.eps.find ep with
  | none => .next s
  | some e =>
    match e.emptySince with
    | none => .next s
    | some t =>
      if t + x.emptyLimit ≤ s.now ∧ e.state = 1 ∧ stillStarved s p.val e then .next (epError s p.val ep 7)
      else .next s

/-! ### The sending side (R359 to R361, R367, R381) -/

/-- The fences whose PSNs are all acknowledged complete (R367). -/
def settleFences (s : State) : State :=
  let open_ := fun (f : Nat × Nat × BitVec 32) =>
    (s.peer f.2.1).c2.unacked.any fun u => psnBefore u.pkt.psn f.2.2
  let done := s.fab.fences.filter fun f => !open_ f
  let s := s.modFab fun x => { x with fences := x.fences.filter open_ }
  done.foldl (fun s f => s.emit (.cobblerFenced f.1)) s

/-- A packet's operation ends with a code: the acknowledgement of a WRITE, a posted store or a message
packet completes it; a READ waits for its data unless it failed (R100, R367, R370). A service request fails with its
packet, but for a packet that was only stopped here: its reply stays awaited (R149). -/
def packetEnd (s : State) (device : Nat) (u : Unacked) (c : Byte) : State :=
  if u.owner = 1 then
    match awlPart s u.ownerA with
    | none => s
    | some p =>
      let i := BitVec.ofNat 32 u.ownerB
      if c ≠ 0 then awlReqEnd s u.ownerA p i u.ownerC (.failed c)
      else if u.pkt.op = 1 then s
      else awlReqEnd s u.ownerA p i u.ownerC (.acked none)
  else if u.owner = 2 then messagePacketEnd s u.ownerA device (BitVec.ofNat 32 u.ownerB) u.ownerC c
  else if c = 0 then s
  else match u.owner with
  | 3 => s.emit (.cobblerData u.ownerA c [])
  | 4 => if c = 8 ∨ c = 0x0F then s else holderOn (svcFailed s u.ownerA u.ownerB c) u.ownerA
  | 5 => walkNext s u.ownerA (BitVec.ofNat 48 u.ownerB) false
  | 6 => dropInsert s u.ownerA u.ownerB
  | 7 => dropInsert s u.ownerA u.ownerB
  | _ => s

/-- The service messages that have ended with some packets, none of theirs being left: each counts in SENT of its
endpoint 0 (Table 11-5). -/
def svcSentOut (s : State) (d : Nat) (ended : List Unacked) : State :=
  let x := (s.peer d).c1
  let key := fun (u : Unacked) => (u.pkt.srcPart, leNat (slice u.pkt.fields 0 4))
  let mine := fun (l : List Unacked) => (l.filter fun u => decide (u.pkt.op = 8 ∧ u.owner ≠ 2)).map key
  let left := mine (x.unacked ++ x.waiting)
  ((mine ended).eraseDups.filter fun k => !left.contains k).foldl
    (fun s k => modEp0 s k.1 fun e => { e with sent := e.sent + 1 }) s

/-- Everything that a freed window lets through (R359, R370). -/
def pump (s : State) (d cls : Nat) : State :=
  let s := sendWaiting d cls (((s.peer d).sess cls).waiting.length) s
  settleFences (sendPumps s)

/-- A PSN is covered by an ACK (R361, Table 11-3). -/
def ackCovers (a : AckFields) (psn : BitVec 32) : Bool :=
  psnBefore psn a.cum || decide (a.status ≠ 0 ∧ a.errPsn = psn)
    || (let i := dist32 psn (a.cum + 1)
        decide (i < 64) && a.bitmap.toNat.testBit i)

/-- The highest PSN that an ACK covers, that of ERR_PSN among them, lies after `psn`. -/
def coversLater (a : AckFields) (psn : BitVec 32) : Bool :=
  (decide (a.status ≠ 0) && psnBefore psn a.errPsn)
    || (List.range 64).any (fun i => a.bitmap.toNat.testBit i && psnBefore psn (a.cum + 1 + BitVec.ofNat 32 i))
    || psnBefore psn (a.cum - 1)

/-- The window after an ACK (R359). -/
def windowAfter (s : State) (x : Session) (ce : Bool) : Session :=
  if ce then
    let ok := match x.halvedAt with
      | none => true
      | some t => decide (t + 10 ≤ s.now)
    if ok then { x with window := max 4 (x.window / 2), halvedAt := some s.now } else x
  else { x with window := min 1024 (x.window + 1) }

/-- A resend reads its payload again from the source, of a message or of a WRITE of an Awl (R360): the packet and the
state; none where the source can no longer be read, which is noted as any read that fails (R318; DESIGN CHOICE,
notes/assumptions/31.md: nothing is sent then, and the packet's next interval runs). -/
def refreshPacket (s : State) (device : Nat) (u : Unacked) : Option TxPacket × State :=
  if u.owner = 2 then
    match (s.roundabout u.ownerA).sending.find? fun m =>
        decide (m.number = BitVec.ofNat 32 u.ownerB ∧ sendDevice m.item = device) with
    | none => (some u.pkt, s)
    | some m =>
      let r := homeRead s m.part (sendSource m.item + u.ownerC) (packetLen m.item u.ownerC) 0
      (if r.1 = 0 then some { u.pkt with payload := r.2.1 } else none, r.2.2)
  else if u.owner = 1 ∧ u.pkt.op = 2 then
    match awlPart s u.ownerA, (s.awl u.ownerA).job (BitVec.ofNat 32 u.ownerB) with
    | some p, some j =>
      match j.outstanding.find? fun q => decide (q.id = u.ownerC) with
      | none => (some u.pkt, s)
      | some q =>
        let spans := sourceSpans j.desc q.row q.off q.len
        let s := passSpans s p j.desc spans
        match sourceFailure s p j.desc spans with
        | some (c, at_) =>
          (none, (sourceFaults s p j.desc spans c).setAwl u.ownerA
            (((sourceFaults s p j.desc spans c).awl u.ownerA).setJob (j.fail c at_)))
        | none => (some { u.pkt with payload := reqBytes s p j q }, s)
    | _, _ => (some u.pkt, s)
  else (some u.pkt, s)

/-- Resend one packet; its interval doubles, up to 1,024 us (R360). -/
def resend (s : State) (d cls : Nat) (psn : BitVec 32) : State :=
  let p := s.peer d
  let x := p.sess cls
  match x.unacked.find? fun u => decide (u.pkt.psn = psn) with
  | none => s
  | some u =>
    let u' := { u with lastAt := s.now, interval := min 1024 (2 * u.interval), skipped := 0 }
    let l := x.unacked.map fun y => if y.pkt.psn = psn then u' else y
    let r := refreshPacket (s.setPeer d (p.setSess cls { x with unacked := l })) d u
    match r.1 with
    | none => r.2
    | some pkt => originate r.2 pkt

/-- An ACK that newly covers packets: they complete, the window moves, packets twice passed over are
resent (R359 to R361). -/
def ackArrive (s : State) (a : AckFields) : State :=
  let cls := a.cls.val
  let p := s.peer a.device
  let x := p.sess cls
  let covered := x.unacked.filter fun u => ackCovers a u.pkt.psn
  if !x.started ∨ x.session ≠ a.session ∨ covered = [] then s
  else
    let left := (x.unacked.filter fun u => !ackCovers a u.pkt.psn).map fun u =>
      if coversLater a u.pkt.psn then { u with skipped := u.skipped + 1 } else u
    let again := (left.filter fun u => decide (2 ≤ u.skipped)).map (·.pkt.psn)
    let answeredYet := fun (u : Unacked) => (u.pkt.op = 1 ∨ u.pkt.op = 3) ∧
      !p.awaiting.any fun w => decide (w.pkt.psn = u.pkt.psn ∧ w.pkt.session = u.pkt.session)
    let code := fun (u : Unacked) =>
      if a.status ≠ 0 ∧ a.errPsn = u.pkt.psn ∧ ¬ answeredYet u then a.status else 0
    let failed := (covered.filter fun u => decide (code u ≠ 0)).map (·.pkt.psn)
    let x := windowAfter s { x with unacked := left } a.ceEcho
    let p := p.setSess cls x
    let p := { p with awaiting := p.awaiting.filter fun u => !(decide (cls = 2) && failed.contains u.pkt.psn) }
    let s := svcSentOut (s.setPeer a.device p) a.device covered
    let s := covered.foldl (fun s u => packetEnd s a.device u (code u)) s
    let s := again.foldl (fun s q => resend s a.device cls q) s
    pump s a.device cls

/-- ACK (R359 to R361). -/
def execAck (a : AckFields) (s : State) : Out :=
  if s.fab.device = 0xFFFF ∨ a.cls.val = 0 ∨ !codeDefined a.status then .next s
  else match heard s a.device with
    | none => .next (dropNoPeer s)
    | some s => .next (ackArrive s a)

/-- The request that a response answers. -/
def answered (s : State) (x : XtHdr) (op : Nat) : Option Unacked :=
  (s.peer x.device).awaiting.find? fun u =>
    decide (u.pkt.psn = x.psn ∧ u.pkt.session = x.session ∧ u.pkt.op = op)

/-- A response takes its request off those that await data. -/
def takeAnswer (s : State) (x : XtHdr) : State :=
  let p := s.peer x.device
  s.setPeer x.device { p with awaiting := p.awaiting.filter fun u => decide (u.pkt.psn ≠ x.psn) }

/-- A response arrives (R342, R354): the peer is heard of, and `f` goes on with the request that it answers, if there is
one. -/
def onResponse (s : State) (x : XtHdr) (op : Nat) (f : State → Unacked → Out) : Out :=
  if s.fab.device = 0xFFFF then .next s
  else match heard s x.device with
    | none => .next (dropNoPeer s)
    | some s => match answered s x op with
      | none => .next s
      | some u => f s u

/-- READ_DATA (R352 to R354, R356): the data of a READ, or its code. -/
def execReadData (x : XtHdr) (status : Byte) (bytes : List Byte) (s : State) : Out :=
  onResponse s x 1 fun s u =>
    let want := leNat (slice u.pkt.fields 8 2)
    if !codeDefined status then .next s
    else if (status = 0 ∧ bytes.length ≠ want) ∨ (status ≠ 0 ∧ bytes ≠ []) then .next (dropLength s)
    else
      let s := takeAnswer s x
      let s :=
        if u.owner = 1 then
          match awlPart s u.ownerA with
          | none => s
          | some p => awlReqEnd s u.ownerA p (BitVec.ofNat 32 u.ownerB) u.ownerC
              (if status = 0 then .data bytes else .failed status)
        else match u.owner with
        | 3 => s.emit (.cobblerData u.ownerA status bytes)
        | 5 => walkNext s u.ownerA (BitVec.ofNat 48 u.ownerB) (status = 0)
        | 6 => insertData s u.ownerA u.ownerB status bytes
        | _ => s
      .next (pump s x.device 2)

/-- ATOMIC_DATA (R353, R354, R356, R359): the answer of an ATOMIC; a waiting one may follow. -/
def execAtomicData (x : XtHdr) (status : Byte) (old : Word) (s : State) : Out :=
  onResponse s x 3 fun s u =>
    if !codeDefined status then .next s
    else
    let s := takeAnswer s x
    let s := match u.owner with
      | 3 => s.emit (.cobblerData u.ownerA status (if status = 0 then leBytes 8 old.toNat else []))
      | 7 => claimData s u.ownerA u.ownerB status old
      | _ => s
    .next (pump s x.device 2)

/-- ACK_TIMER (R358): due 1 us after the first handled packet not yet reported. -/
def execAckTimer (device : Nat) (cls : Fin 3) (s : State) : Out :=
  let x := (s.peer device).sess cls.val
  match x.unreportedAt with
  | none => .next s
  | some _ =>
    if cls.val = 0 ∨ x.unreported = 0 then .next s
    else .next (sendAck s device cls.val 0 0)

/-- RESEND_TIMER (R360). -/
def execResendTimer (device : Nat) (cls : Fin 3) (psn : BitVec 32) (s : State) : Out :=
  let p := s.peer device
  match (p.sess cls.val).unacked.find? fun u => decide (u.pkt.psn = psn) with
  | none => .next s
  | some u =>
    if cls.val = 0 ∨ p.lost ∨ s.now < u.lastAt + u.interval then .next s
    else .next (resend s device cls.val psn)

/-- A context with nothing outstanding. -/
def Peer.drained (p : Peer) : Peer := { p with
  awaiting := [], c1 := { p.c1 with unacked := [], waiting := [] }, c2 := { p.c2 with unacked := [], waiting := [] } }

/-- Every operation outstanding to a device completes with 0x03, its context being `left` from then on (R381). -/
def failPeer (s : State) (d : Nat) (left : Peer) : State :=
  let p := s.peer d
  let notData := fun (u : Unacked) => decide (u.pkt.op ≠ 1 ∧ u.pkt.op ≠ 3)
  let ends := p.c1.unacked ++ p.c1.waiting ++ p.c2.unacked.filter notData ++ p.awaiting ++ p.c2.waiting
  let s := svcSentOut (s.setPeer d left) d (p.c1.unacked ++ p.c1.waiting)
  let s := ends.foldl (fun s u => packetEnd s d u 3) s
  settleFences (sendPumps s)

/-- TARGET_TIMEOUT (R381, Table 15-1): the device is LOST. -/
def execTargetTimeout (device : Nat) (s : State) : Out :=
  let p := s.peer device
  let due := (p.c1.unacked ++ p.c2.unacked).any fun u => decide (u.firstAt + s.fab.targetTimeout ≤ s.now)
  if p.lost ∨ due = false then .next s
  else
    let s := s.modFab fun f => { f with lostCount := satAdd 0xFFFF f.lostCount 1 }
    .next (faultRecord (failPeer s device { p.drained with lost := true }) 6 3 255 7 device 0 0 0)

/-- Sends that wait for a peer context get one, in device order (R354). -/
def giveContexts (s : State) : State :=
  let wants := (s.fab.peers.filter fun kv =>
    !kv.2.inUse && (!kv.2.c1.waiting.isEmpty || !kv.2.c2.waiting.isEmpty)).map (·.1)
  sendPumps (wants.foldl (fun s d =>
    match withContext s d with
    | none => s
    | some s => pump (pump s d 1) d 2) s)

/-- PEER_CONTEXT_FREE (R354). -/
def execPeerContextFree (device : Nat) (s : State) : Out :=
  if peerIdle s device then .next (giveContexts (freeContext s device)) else .next s

/-- CLEAR of XT_PEER_CONTROL ends the device's sessions; what is sent in answer to that begins new ones (R381,
Table 11-9). -/
def clearPeer (s : State) (d : Nat) : State := failPeer s d {}

/-- Write XT_PEER_CONTROL: CLEAR acts on the selected device (Table 11-9). -/
def clearPut (value : Word) (s : State) : State :=
  if value.toNat.testBit 0 then clearPeer s s.fab.peerSelect else s

/-- CLEAR (R381, R384, R399). -/
def execClear (src : Src) (value : Word) (s : State) : Out :=
  .next (globalWrite s src 0x31_0028 (clearPut value))

/-- COBBLER_FENCE (R367). -/
def execCobblerFence (b : Blk) (device : Nat) (s : State) : Out :=
  match s.blockOwner b.val with
  | none => .next s
  | some p =>
    if !cobblerRuns s p b.val then .next s
    else
      let next := (s.peer device).c2.nextPsn
      .next (settleFences (s.modFab fun f => { f with fences := f.fences ++ [(b.val, device, next)] }))

/-! ### Endpoint commands (R372, R380, R383, Table 11-8) -/

/-- Note the code of an EP_COMMAND (Table 11-7). -/
def epCode (s : State) (p : Nat) (c : Byte) : State := s.modXt p fun x => { x with cmdCode := c }

/-- The checks of an EP_COMMAND: the number, and the states it is taken from. Endpoint 0 is the firmware's
(R371), so every command on it is refused. -/
def epCheck (s : State) (p n : Nat) (from_ : List Nat) : Byte :=
  if (s.part p).xt.epCount ≤ n then 0x0D
  else if n = 0 ∨ !from_.contains (epOf s p n).state then 0x0B
  else 0

/-- ENABLE (R372): the context is read from the table. -/
def execEnable (src : Src) (p : Part) (ep : BitVec 16) (s : State) : Out :=
  .next (partWrite s src p.val 0x3_C010 fun s =>
    let n := ep.toNat
    let c := epCheck s p.val n [0]
    if c ≠ 0 then epCode s p.val c
    else
      let a := epAddr s p.val n
      if !inRange s p.val onSledW false a 64 then epCode s p.val 0x0D
      else
        let c := readCode s p.val a 64
        let s := if c = 4 then badWordFaults s p.val a 64 0 else s
        let s := epInstall s p.val n (if c = 0 then { epInTable s p.val n with state := 1, error := 0 }
          else { epInTable s p.val n with state := 2, error := c })
        epCode (s.modXt p.val fun x => { x with enabled := n :: x.enabled }) p.val 0)

/-- DISABLE: sends in progress complete 0x08 (Table 11-8). -/
def execEpDisable (src : Src) (p : Part) (ep : BitVec 16) (s : State) : Out :=
  .next (partWrite s src p.val 0x3_C010 fun s =>
    let n := ep.toNat
    let c := epCheck s p.val n [1, 2]
    if c ≠ 0 then epCode s p.val c
    else
      let s := endSends s p.val 8 fun it => decide (sendFrom it = n)
      epCode (epRemove (epFreeEntries s p.val n) p.val n) p.val 0)

/-- FLUSH (R380): STATE 3 while the notices are written, then STATE 0. -/
def execEpFlush (src : Src) (p : Part) (ep : BitVec 16) (s : State) : Out :=
  .next (partWrite s src p.val 0x3_C010 fun s =>
    let n := ep.toNat
    let c := epCheck s p.val n [2]
    if c ≠ 0 then epCode s p.val c
    else
      let s := modEp s p.val n fun e => { e with state := 3 }
      let s := endSends s p.val 8 fun it => decide (sendFrom it = n)
      epCode (epRemove s p.val n) p.val 0)

/-- SRQ_TAIL_WRITE (R90, R373): a TAIL that overfills the ring is refused. -/
def execSrqTailWrite (src : Src) (p : Part) (q : Fin 16) (value : Word) (s : State) : Out :=
  .next (partWrite s src p.val (0x3_C110 + 0x20 * q.val) fun s =>
    let x := (s.part p.val).xt.srqs.at q.val {}
    let t : BitVec 32 := value.setWidth 32
    if ringOverfull t x.head x.size then s
    else
      let s := s.modXt p.val fun y => { y with srqs := y.srqs.put q.val { x with tail := t } }
      if t = x.head then s else srqFed s p.val q.val)

end Sys2Proof.Machine
end

