-- ==== Sys2Proof/Machine/Links.lean ====
section
/-! DEFINITION. The meanings of the link and routing commands (10 R323 to R348, 11 R351 and R352, 12 R404). -/

namespace Sys2Proof.Machine

/-! ### Ports and groups (R323, R338, R339; 16 R523) -/

/-- PORTS of the Module piece enables the port (R323). With no committed pattern every port is enabled (DESIGN CHOICE,
notes/assumptions/58.md). -/
def portInPieces (s : State) (p : Nat) : Bool :=
  match s.modulePiece with
  | none => true
  | some m => m.ports.testBit p

/-- The Module piece, or an overcurrent, does not hold the port OFF (R323, R523; Table 10-5). -/
def portAllowed (s : State) (p : Nat) : Bool := portInPieces s p && !(s.sled.cages.at (p / 2) {}).latched

/-- PORTS enables one of the ports of SerDes group `g` (R323). -/
def groupWanted (s : State) (g : Nat) : Bool := portInPieces s (2 * g) || portInPieces s (2 * g + 1)

/-- The port is enabled: allowed, and DISABLE is 0. -/
def portEnabled (s : State) (p : Nat) : Bool := portAllowed s p && !(s.port p).disable

/-- A port in Doubt or retired acts as DOWN and does not retrain (Table 15-4). -/
def portSuspect (s : State) (p : Nat) : Bool := unitSuspect s (.port (Fin.ofNat 18 p))

/-- SerDes group `g` is powered. -/
def groupOn (s : State) (g : Nat) : Bool := s.power.serdesOn.toNat.testBit g

/-- A cage has CAB_3V3 while its group is powered and a plug is seated, unless it drew too much (R523). -/
def cageUpdate (s : State) (g : Nat) : State :=
  let c := s.sled.cages.at g {}
  let want := groupOn s g && !c.presentN && !c.latched
  if want = c.power then s
  else
    let c' : Cage := { c with power := want, powerAt := s.now, resetReleased := false }
    let s := (s.modSled fun x => { x with cages := x.cages.put g c' }).emit (.pin (.cab3v3 g) want)
    if c.resetReleased then s.emit (.pin (.cabResetN g) false) else s

/-- Switch the power of a SerDes group. -/
def setGroup (s : State) (g : Nat) (on : Bool) : State :=
  let m := s.power.serdesOn
  let bitG : BitVec 9 := BitVec.ofNat 9 (2 ^ g)
  cageUpdate (s.modPow fun p => { p with serdesOn := if on then m ||| bitG else m &&& ~~~bitG }) g

/-- FP_STATUS (Table 10-11). -/
def fpStatus (x : Port) : Nat :=
  x.state + 8 * bit x.laneReversed + 2 ^ 16 * x.retrains + 2 ^ 32 * bit x.neighbourChanged
    + 2 ^ 33 * bit x.looped + 2 ^ 34 * bit x.duplicate

/-- Set a port, raising INT_STATUS FABRIC and sending the FABRIC notice when a flag becomes 1 (R342,
Table 12-5, Table 17-6). -/
def setPortFlags (s : State) (p : Nat) (x : Port) : State :=
  let o := s.port p
  let rises := (x.neighbourChanged && !o.neighbourChanged) || (x.looped && !o.looped)
    || (x.duplicate && !o.duplicate)
  let s := s.upd fun s => s.setPort p x
  if rises then sendNotice s false 0x8003 (leBytes 8 p ++ leBytes 8 (fpStatus x)) else s

/-! ### Packets on the link -/

def packetDest (bs : List Byte) : Nat := fld bs 0 2
def packetSrc (bs : List Byte) : Nat := fld bs 2 2
def packetVl (bs : List Byte) : Nat := fld bs 4 1 % 8
def packetHops (bs : List Byte) : Nat := fld bs 5 1
def packetLength (bs : List Byte) : Nat := bs.length / 64
def packetPinned (bs : List Byte) : Bool := (fld bs 7 1).testBit 1
def packetEpoch (bs : List Byte) : Nat := fld bs 8 2
def packetFlow (bs : List Byte) : Nat := fld bs 10 2

/-- Change the counts of a VL of a port. -/
def modVl (s : State) (p v : Nat) (f : VlCounts → VlCounts) : State :=
  let x := s.port p
  s.setPort p { x with vls := x.vls.put v (f (x.vls.at v {})) }

/-- A packet leaves the receive buffer of input `i`: its units are freed (R335). Input 18 is the module's
own transmit. -/
def freeUnits (s : State) (i vl units : Nat) : State :=
  if 18 ≤ i ∨ units = 0 then s
  else
    let s := modVl s i vl fun c => { c with freed := c.freed + BitVec.ofNat 32 units }
    s.setPort i { s.port i with creditChanged := true }

/-- The FREED counts of VLs 0 to 7. -/
def freedCounts (x : Port) : List (BitVec 32) := (List.range 8).map fun v => (x.vls.at v {}).freed
def sentCounts (x : Port) : List (BitVec 32) := (List.range 8).map fun v => (x.vls.at v {}).sent

/-- A control unit leaves: FP_TX_UNITS counts it (Table 10-10). -/
def unitSent (s : State) (p : Nat) (e : Emit) : State :=
  let x := s.port p
  (s.setPort p { x with txUnits := satAdd (2 ^ 64 - 1) x.txUnits 1 }).emit e

/-- Send a CREDIT unit (R335). -/
def sendCredit (s : State) (p : Nat) : State :=
  let x := s.port p
  unitSent (s.setPort p { x with creditAt := s.now, creditChanged := false }) p (.creditUnit p (freedCounts x))

/-! ### Routing (R333, R334, R343 to R345) -/

/-- The backlog queued for an output port and VL, in units. -/
def backlog (s : State) (p vl : Nat) : Nat :=
  (((s.port p).txQueue.filter fun q => decide (packetVl q.bytes = vl)).map fun q => packetLength q.bytes).foldl (· + ·) 0

/-- Candidate `i` of a routing entry (Table 10-8). -/
def candidate (w : Word) (i : Nat) : Nat := bitsOf w.toNat (12 * i) 12
def candPort (c : Nat) : Nat := c % 32
def candEscalates (c : Nat) : Bool := c.testBit 5
def candCost (c : Nat) : Nat := bitsOf c 6 6

/-- A candidate is usable: its port is UP, trusted, and not the arrival port (R343 step 5). -/
def usable (s : State) (input c : Nat) : Bool :=
  decide (candPort c < 18 ∧ candPort c ≠ input ∧ (s.port (candPort c)).state = 4) && !portSuspect s (candPort c)

/-- The output VL of a packet by a candidate: a forwarder escalates (R333). -/
def outputVl (input : Nat) (bs : List Byte) (c : Nat) : Nat :=
  let v := packetVl bs
  if input < 18 ∧ candEscalates c then v / 2 * 2 + 1 else v

/-- The score of a candidate (R343 step 6). -/
def score (s : State) (input : Nat) (bs : List Byte) (c : Nat) : Nat :=
  backlog s (candPort c) (outputVl input bs c) + candCost c * s.fab.hopWeight

/-- The candidate with the lowest score, the lower index on a tie. -/
def bestCand (f : Nat → Nat) : List Nat → Option Nat
  | [] => none
  | c :: r =>
    match bestCand f r with
    | none => some c
    | some d => if f c ≤ f d then some c else some d

/-- Choose a candidate of an entry for a packet; none when no candidate is usable (R343 steps 5, 6). -/
def choose (s : State) (input : Nat) (bs : List Byte) (entry : Word) : Option Nat :=
  let n := bitsOf entry.toNat 60 2 + 1
  let cands := (List.range n).map (candidate entry)
  if packetPinned bs then
    let k := (packetSrc bs + packetFlow bs) % n
    (cands.drop k ++ cands.take k).find? (usable s input)
  else bestCand (score s input bs) (cands.filter (usable s input))

/-- The routing entry for a packet: the bank of its PATH_EPOCH, and the entry for its DEST (R343 steps 3,
4); `none` within counts under the bank or the entry. -/
def routeEntry (s : State) (bs : List Byte) : Option (Option Word) :=
  let b := [false, true].find? fun b => (s.bank b).valid && decide ((s.bank b).epoch = packetEpoch bs)
  match b with
  | none => none
  | some b =>
    let w := (s.bank b).routes.at (packetDest bs) 0
    some (if w.toNat.testBit 63 then some w else none)

/-- Count a dropped packet under its cause: 0 HOPS, 1 bank, 2 entry or candidate (R344, FAB_DROPS). -/
def countDrop (s : State) (cause : Nat) : State :=
  s.modFab fun f =>
    if cause = 0 then { f with dropHops := satAdd 0xFFFF f.dropHops 1 }
    else if cause = 1 then { f with dropBank := satAdd 0xFFFF f.dropBank 1 }
    else { f with dropEntry := satAdd 0xFFFF f.dropEntry 1 }

/-- Drop a packet, freeing its buffer and counting the cause. -/
def dropPacket (s : State) (input : Nat) (bs : List Byte) (cause : Nat) : State :=
  countDrop (freeUnits s input (packetVl bs) (packetLength bs)) cause

/-- Queue a packet for the output port of a candidate, with the VL and CE of this choice (R333, R334); the module's
own packets are not changed. -/
def queueOn (s : State) (q : Queued) (c : Nat) : State :=
  let vl := outputVl q.input q.bytes c
  let mark := decide (s.fab.markUnits ≤ backlog s (candPort c) vl)
  let bs := q.bytes
  let out := if 18 ≤ q.input then bs
    else patch (patch bs 4 (leBytes 1 vl)) 7
      (leBytes 1 (if mark ∧ !(fld bs 7 1).testBit 0 then fld bs 7 1 + 1 else fld bs 7 1))
  let x := s.port (candPort c)
  s.setPort (candPort c) { x with txQueue := x.txQueue ++ [{ q with bytes := out }] }

/-- A packet as it is queued for an output by routing entry `w`: a forwarder lowers HOPS (R330, R343). The VL it
arrived by stays noted beside it. -/
def queuedOf (input : Nat) (bs : List Byte) (w : Word) (coming : Bool) : Queued :=
  { input := input, vlIn := packetVl bs, entry := w, coming := coming
    bytes := if 18 ≤ input then bs else patch bs 5 (leBytes 1 (packetHops bs - 1)) }

/-- What R343 makes of a header: its DEST is this module, it is dropped for a cause or without one, or the packet goes on
by a candidate of a routing entry. -/
inductive Routed where
  | here
  | gone (cause : Option Nat)
  | onward (entry : Word) (cand : Nat)
  deriving DecidableEq, Repr

/-- The choice for a packet that arrives by an input, or of the module's own (R342, R343). -/
def routeOf (s : State) (input : Nat) (bs : List Byte) : Routed :=
  if s.fab.device = 0xFFFF then .gone none
  else if packetDest bs = s.fab.device.toNat then .here
  else if input < 18 ∧ packetHops bs = 0 then .gone (some 0)
  else match routeEntry s bs with
    | none => .gone (some 1)
    | some none => .gone (some 2)
    | some (some w) =>
      match choose s input bs w with
      | none => .gone (some 2)
      | some c => .onward w c

/-- A packet queued for a port that went DOWN repeats steps 5 and 6 with the entry it has (R340, R343). One that is
still arriving keeps its buffer until it has all come. -/
def reoffer (s : State) (q : Queued) : State :=
  match choose s q.input q.bytes q.entry with
  | none => if q.coming ∨ q.lost then countDrop s 2 else dropPacket s q.input (patch q.bytes 4 (leBytes 1 q.vlIn)) 2
  | some c => queueOn s q c

/-- A packet that is there whole is handled by its header (R342, R343). -/
def routePacket (s : State) (input : Nat) (bs : List Byte) : State :=
  let free := freeUnits s input (packetVl bs) (packetLength bs)
  match routeOf s input bs with
  | .here => free.emit (.localDelivery bs)
  | .gone none => free
  | .gone (some c) => countDrop free c
  | .onward w c => queueOn s (queuedOf input bs w false) c

/-! ### Leaving UP (R340) -/

/-- A port stops: the packets in its receive buffer go, those queued for other ports among them, and those
queued for it are offered to routing again. -/
def stopPort (s : State) (p : Nat) (x : Port) : State :=
  let q := (s.port p).txQueue
  let s := s.setPort p { x with
    txQueue := [], rxQueue := [], rxUnitsNow := [], rxFate := .unread, discarding := false, vls := [] }
  let s := s.modFab fun f => { f with ports := f.ports.mapVals fun _ y =>
    { y with txQueue := y.txQueue.filter fun e => decide (e.input ≠ p) } }
  (q.filter fun e => decide (e.input ≠ p)).foldl reoffer s

/-- A port enters DOWN (R340, Table 15-1). -/
def goDown (s : State) (p : Nat) : State :=
  let x := s.port p
  let x := { x with state := 5, enteredAt := s.now, retrains := satAdd 255 x.retrains 1, uncorrAt := [] }
  let s := stopPort s p x
  faultRecord s 5 0 255 4 p 0 (fpStatus (s.port p) % 2 ^ 32) 0

/-- A port enters TRAINING (Table 10-6). -/
def enterTraining (s : State) (p : Nat) : State :=
  if portSuspect s p then s
  else s.setPort p { s.port p with state := 2, enteredAt := s.now, reached := false }

/-- A port is put OFF (Table 10-5). -/
def portOff (s : State) (p : Nat) : State :=
  stopPort s p { s.port p with state := 0, enteredAt := s.now, reached := false }

/-- The state an enabled port takes in this module state: IDLE_ONLY while Verified, Patterned or Held,
bring-up while Open or later, OFF otherwise (R338, R339). -/
def portRest (s : State) (p : Nat) : State :=
  let m := s.regs.state
  if !portEnabled s p ∨ !groupOn s (p / 2) then (if (s.port p).state = 0 then s else portOff s p)
  else if m = 2 ∨ m = 3 ∨ m = 4 then
    (if (s.port p).state = 1 then s else stopPort s p { s.port p with state := 1, enteredAt := s.now })
  else if m = 5 ∨ m = 6 ∨ m = 7 then (if (s.port p).state ≤ 1 then enterTraining s p else s)
  else if (s.port p).state = 0 then s else portOff s p

/-! ### Link units (R326 to R328, R335, R336, R341) -/

/-- FREED counts reported by the peer (R335). -/
def creditArrive (s : State) (p : Nat) (freed : List (BitVec 32)) : State :=
  let s := s.setPort p { s.port p with creditRxAt := s.now }
  (List.range 8).foldl (fun s v => modVl s p v fun c => { c with peerFreed := freed.getD v c.peerFreed }) s

/-- SENT counts of the peer: what was lost is credited back (R336). -/
def syncArrive (s : State) (p : Nat) (sent : List (BitVec 32)) : State :=
  let s' := (List.range 8).foldl (fun s v => modVl s p v fun c =>
    let d := sent.getD v c.received - c.received
    { c with received := c.received + d, freed := c.freed + d }) s
  let x := s'.port p
  s'.setPort p { x with creditChanged := x.creditChanged || decide (freedCounts x ≠ freedCounts (s.port p)) }

/-- This module's HELLO unit. -/
def ownHello (s : State) (p : Nat) (request reply : Bool) (stamp : BitVec 32) : HelloUnit :=
  { echoRequest := request, echoReply := reply, device := s.fab.device, port := BitVec.ofNat 8 p,
    state := BitVec.ofNat 8 s.regs.state, serial := Config.serial, stamp := stamp, loopNs := 0 }

/-- A HELLO arrives (R340, R341). -/
def helloArrive (s : State) (p : Nat) (u : HelloUnit) : State :=
  let o := s.port p
  if o.state ≠ 3 ∧ o.state ≠ 4 then s
  else
    let looped := decide (u.serial = Config.serial)
    let dup := decide (u.device ≠ 0xFFFF ∧ u.device = s.fab.device)
    let fails := looped || dup
    let changed := decide (o.nbSerial ≠ u.serial ∨ o.nbDevice ≠ u.device ∨ o.nbPort ≠ u.port)
    let loops := if u.echoReply then (o.loops ++ [u.loopNs]) else o.loops
    let x := { o with
      nbSerial := u.serial
      nbDevice := u.device
      nbPort := u.port
      helloAt := some s.now
      neighbourChanged := o.neighbourChanged || changed
      looped := looped || (o.looped && fails)
      duplicate := dup || (o.duplicate && fails)
      echoed := o.echoed || u.echoReply
      loops := loops.drop (loops.length - 16) }
    let s := setPortFlags s p x
    let s := if u.echoRequest then unitSent s p (.hello p (ownHello s p false true u.stamp)) else s
    if o.state = 4 ∧ o.nbSerial ≠ u.serial then goDown s p
    else if fails then s.setPort p { s.port p with state := 3 }
    else if o.state = 3 ∧ o.helloSentAt.isSome ∧ x.echoed then
      sendCredit (s.setPort p { s.port p with state := 4, reached := true }) p
    else s

/-- Eight 32-bit counts from byte 4 of a control unit (Table 10-2). -/
def unitCounts (bs : List Byte) : List (BitVec 32) :=
  (List.range 8).map fun v => BitVec.ofNat 32 (fld bs (4 + 4 * v) 4)

/-- A HELLO unit from its bytes (Table 10-7); the loop time of an echo reply is the difference of this
port's clock and STAMP, a free value here. -/
def helloOf (s : State) (bs : List Byte) : HelloUnit :=
  { echoRequest := (fld bs 1 1).testBit 0, echoReply := (fld bs 1 1).testBit 1,
    device := BitVec.ofNat 16 (fld bs 2 2), port := BitVec.ofNat 8 (fld bs 4 1),
    state := BitVec.ofNat 8 (fld bs 5 1), serial := BitVec.ofNat 64 (fld bs 8 8),
    stamp := BitVec.ofNat 32 (fld bs 0x10 4), loopNs := Config.freeNat s.draws }

/-- A packet of input `p` that is being forwarded has come, or has lost a unit: the payload that came is put in its place,
and what did not come stays zero (R328). -/
def endComing (s : State) (p : Nat) (payload : List Byte) (lost : Bool) : State :=
  s.modFab fun f => { f with ports := f.ports.mapVals fun _ y => { y with txQueue := y.txQueue.map fun (q : Queued) =>
    if q.input = p ∧ q.coming then { q with bytes := patch q.bytes 64 payload, coming := false, lost := lost } else q } }

/-- A packet of input `p` that is still arriving stands in some queue. -/
def isComing (s : State) (p : Nat) : Bool :=
  s.fab.ports.any fun kv => kv.2.txQueue.any fun q => decide (q.input = p) && q.coming

/-- The packet being received has lost a unit: it is discarded and its buffer freed, and one that is being forwarded goes
on with zeros (R328). -/
def loseRx (s : State) (p : Nat) (discarding : Bool) : State :=
  let x := s.port p
  match x.rxUnitsNow with
  | [] => s.setPort p { x with discarding := discarding }
  | h :: r =>
    let s := s.setPort p { x with
      discarding := discarding
      rxUnitsNow := []
      rxFate := .unread
      rxPackets := satAdd 0xFFFF_FFFF x.rxPackets 1 }
    freeUnits (endComing s p (r.flatMap bytesOf512) true) p (packetVl (bytesOf512 h)) x.rxUnitsNow.length

/-- The packet being received has all its units: it joins the receive queue, or ends as the choice at its header has it
(R343). -/
def rxComplete (s : State) (p : Nat) : State :=
  let x := s.port p
  match x.rxUnitsNow with
  | [] => s
  | h :: r =>
    if fld (bytesOf512 h) 6 1 ≤ x.rxUnitsNow.length then
      let bs := x.rxUnitsNow.flatMap bytesOf512
      let s := s.setPort p { x with rxUnitsNow := [], rxFate := .unread }
      let free := freeUnits s p (packetVl bs) (packetLength bs)
      match x.rxFate with
      | .unread => s.setPort p { s.port p with rxQueue := x.rxQueue ++ [bs] }
      | .here => free.emit (.localDelivery bs)
      | .dropped => free
      | .forwarded => if isComing s p then endComing s p (r.flatMap bytesOf512) false else free
    else s

/-- A class-2 packet for this module, which a Square that accepts no more leaves in its port's receive buffer, its credits
withheld (R366). -/
def heldBack (s : State) (bs : List Byte) : Bool :=
  squaresFull s && decide (packetVl bs / 2 = 2 ∧ s.fab.device ≠ 0xFFFF ∧ packetDest bs = s.fab.device.toNat)

/-- The header of the packet that a port is receiving is handled before the rest has come (R343). -/
def routeComing (s : State) (p : Nat) : State :=
  let x := s.port p
  match x.rxUnitsNow, x.rxFate with
  | h :: r, .unread =>
    let bs := padTo (64 * fld (bytesOf512 h) 6 1) ((h :: r).flatMap bytesOf512)
    if heldBack s bs then s else
    let fate := fun (s : State) (f : RxFate) => s.setPort p { s.port p with rxFate := f }
    match routeOf s p bs with
    | .here => fate s .here
    | .gone none => fate s .dropped
    | .gone (some c) => fate (countDrop s c) .dropped
    | .onward w c => fate (queueOn s (queuedOf p bs w true) c) .forwarded
  | _, _ => s

/-- A control unit (R327). -/
def controlUnit (s : State) (p : Nat) (bs : List Byte) : State :=
  let code := fld bs 0 1
  let s := loseRx s p false
  if code = 0 then s
  else if code = 1 then creditArrive s p (unitCounts bs)
  else if code = 2 then syncArrive s p (unitCounts bs)
  else if code = 3 then helloArrive s.draw.2 p (helloOf s bs)
  else s.setPort p { s.port p with rxControls := satAdd 0xFFFF_FFFF (s.port p).rxControls 1 }

/-- One received unit: its header bits give its kind (R326 to R328, Table 10-1). -/
def unitArrive (s : State) (p : Nat) (u : LinkUnit) : State :=
  let s := s.setPort p { s.port p with rxUnits := satAdd (2 ^ 64 - 1) (s.port p).rxUnits 1 }
  let b := u.bits
  match u.first, u.second with
  | true, true => loseRx s p true
  | false, true => controlUnit s p (bytesOf512 b)
  | true, false =>
    let s := loseRx s p false
    let s := modVl s p (packetVl (bytesOf512 b)) fun c => { c with received := c.received + 1 }
    rxComplete (s.setPort p { s.port p with rxUnitsNow := [b], rxFate := .unread }) p
  | false, false =>
    let x := s.port p
    match x.rxUnitsNow with
    | [] => s
    | h :: _ =>
      if x.discarding then s
      else
        let s := modVl s p (packetVl (bytesOf512 h)) fun c => { c with received := c.received + 1 }
        rxComplete (s.setPort p { s.port p with rxUnitsNow := x.rxUnitsNow ++ [b] }) p

/-! ### Meanings: bring-up and link state -/

/-- SERDES_GROUP_WAKE (Table 10-6 step 1): the group is powered and its enabled ports train. -/
def execSerdesGroupWake (g : Fin 9) (s : State) : Out :=
  let m := s.regs.state
  let ports := [2 * g.val, 2 * g.val + 1]
  if (m = 5 ∨ m = 6 ∨ m = 7) ∧ groupWanted s g.val then
    let s := setGroup s g.val true
    .next (ports.foldl portRest s)
  else .next s

/-- TRAINING_DONE (Table 10-6 steps 2, 3): the port enters HELLO with its counts at zero. -/
def execTrainingDone (port : PortNo) (reversed : Bool) (s : State) : Out :=
  let p := port.val
  let x := s.port p
  if x.state = 2 then
    .next (s.setPort p { x with
      state := 3
      laneReversed := reversed
      vls := []
      helloAt := none
      helloSentAt := none
      echoed := false
      creditChanged := false })
  else .next s

/-- TRAINING_TIMEOUT (R339): not UP within 12,000 us of entering TRAINING. -/
def execTrainingTimeout (port : PortNo) (s : State) : Out :=
  let x := s.port port.val
  if (x.state = 2 ∨ x.state = 3) ∧ x.reached = false ∧ x.enteredAt + 12000 ≤ s.now then
    .next (goDown s port.val)
  else .next s

/-- HELLO (R340, R341). -/
def execHello (port : PortNo) (u : HelloUnit) (s : State) : Out := .next (helloArrive s port.val u)

/-- HELLO_TIMER (R341): a HELLO every 100 us, here always with ECHO_REQUEST. -/
def execHelloTimer (port : PortNo) (s : State) : Out :=
  let p := port.val
  let x := s.port p
  let due : Bool := match x.helloSentAt with
    | none => true
    | some t => decide (t + 100 ≤ s.now)
  if (x.state = 3 ∨ x.state = 4) ∧ due then
    let d := s.draw
    let s := d.2.setPort p { x with helloSentAt := some s.now }
    .next (unitSent s p (.hello p (ownHello s p true false ((Config.freeWord d.1).setWidth 32))))
  else .next s

/-- HELLO_MISSING (R340): three HELLO periods without one. -/
def execHelloMissing (port : PortNo) (s : State) : Out :=
  let x := s.port port.val
  match x.helloAt with
  | none => .next s
  | some t => if x.state = 4 ∧ t + 300 ≤ s.now then .next (goDown s port.val) else .next s

/-- DOWN_RETRAIN (R340): back to TRAINING after 100 us. -/
def execDownRetrain (port : PortNo) (s : State) : Out :=
  let x := s.port port.val
  if x.state = 5 ∧ x.enteredAt + 100 ≤ s.now ∧ portEnabled s port.val then .next (enterTraining s port.val)
  else .next s

/-- CODEWORD_RECEIVED (R325 to R328, R340). -/
def execCodewordReceived (port : PortNo) (cw : Codeword) (s : State) : Out :=
  let p := port.val
  let x := s.port p
  if x.state ≠ 3 ∧ x.state ≠ 4 then .next s
  else match cw with
    | .good corrected units =>
      let s := if corrected then s.setPort p { x with corrected := satAdd 0xFFFF_FFFF x.corrected 1 } else s
      .next (units.foldl (fun s u => if (s.port p).state = 3 ∨ (s.port p).state = 4 then unitArrive s p u else s) s)
    | .uncorrectable =>
      let recent := (x.uncorrAt.filter fun t => decide (s.now < t + 1000)) ++ [s.now]
      let s := s.setPort p { x with uncorrectable := satAdd 0xFFFF_FFFF x.uncorrectable 1, uncorrAt := recent }
      let s := loseRx s p true
      .next (if x.state = 4 ∧ s.fab.uncorrLimit ≤ recent.length then goDown s p else s)

/-- CREDIT (R335). -/
def execCredit (port : PortNo) (freed : List (BitVec 32)) (s : State) : Out :=
  let x := s.port port.val
  .next (if x.state = 3 ∨ x.state = 4 then creditArrive s port.val freed else s)

/-- CREDIT_TIMER (R335): within 500 ns of a change of FREED, and at least every 10 us. -/
def execCreditTimer (port : PortNo) (s : State) : Out :=
  let x := s.port port.val
  if x.state = 4 ∧ (x.creditChanged ∨ x.creditAt + 10 ≤ s.now) then .next (sendCredit s port.val) else .next s

/-- SYNC (R336). -/
def execSync (port : PortNo) (sent : List (BitVec 32)) (s : State) : Out :=
  let x := s.port port.val
  .next (if x.state = 3 ∨ x.state = 4 then syncArrive s port.val sent else s)

/-- SYNC_TIMER (R336): every 64 us. -/
def execSyncTimer (port : PortNo) (s : State) : Out :=
  let p := port.val
  let x := s.port p
  if x.state = 4 ∧ x.syncAt + 64 ≤ s.now then
    .next (unitSent (s.setPort p { x with syncAt := s.now }) p (.syncUnit p (sentCounts x)))
  else .next s

/-! ### Meanings: packets -/

/-- Remove the first entry equal to one. -/
def eraseFirst {α : Type} [DecidableEq α] (e : α) : List α → List α
  | [] => []
  | y :: r => if y = e then r else y :: eraseFirst e r

/-- The packet is not held back, and none of its VL waits before it in a receive queue. -/
def mayGo (s : State) (q : List (List Byte)) (bs : List Byte) : Bool :=
  !heldBack s bs && decide ((q.find? fun y => decide (packetVl y = packetVl bs)) = some bs)

/-- A packet of a receive queue has the VL of the packet that the port is receiving. -/
def comingBehind (x : Port) (bs : List Byte) : Bool :=
  match x.rxUnitsNow with
  | [] => true
  | h :: _ => decide (packetVl (bytesOf512 h) = packetVl bs)

/-- PACKET_HEADER (R343): the next packet of a port's receive buffer, or the one that it is receiving, or of the module's
own transmit. A packet that the Squares cannot accept waits, and those behind it in its VL (R366). -/
def execPacketHeader (port : Option PortNo) (s : State) : Out :=
  match port with
  | none =>
    match s.fab.ownTx with
    | [] => .next s
    | b :: r => .next (routePacket (s.modFab fun f => { f with ownTx := r }) 18 b)
  | some p =>
    let x := s.port p.val
    if x.state ≠ 4 then .next s
    else match x.rxQueue.find? (mayGo s x.rxQueue) with
    | some b => .next (routePacket (s.setPort p.val { x with rxQueue := eraseFirst b x.rxQueue }) p.val b)
    | none => .next (if x.rxQueue.any (comingBehind x) then s else routeComing s p.val)

/-- The transport header of a packet with its sender (Tables 10-3, 11-1). -/
def xtHdrOf (bs : List Byte) : XtHdr :=
  { device := packetSrc bs, srcPart := fld bs 0x13 1, destPart := fld bs 0x14 1, mapEpoch := fld bs 0x16 2,
    psn := BitVec.ofNat 32 (fld bs 0x18 4), session := BitVec.ofNat 32 (fld bs 0x1C 4),
    ce := (fld bs 7 1).testBit 0 }

/-- UNITS that Table 11-2 gives a packet, none for an OP that is not listed or of another class. -/
def unitsOf (bs : List Byte) : Option Nat :=
  let op := fld bs 0x10 1
  let len := fld bs 0x28 2
  let status := fld bs 0x12 1
  let cls := packetVl bs / 2
  if op = 1 ∧ cls = 2 then some 1
  else if op = 2 ∧ cls = 2 then some (packetUnits len)
  else if op = 3 ∧ cls = 2 then some 1
  else if op = 8 ∧ cls = 1 then some (packetUnits (min 4096 (fld bs 0x28 4 - fld bs 0x24 4)))
  else if op = 0x10 ∧ cls = 3 then some (if status = 0 then packetUnits len else 1)
  else if op = 0x11 ∧ cls = 3 then some 1
  else if op = 0x12 ∧ cls = 3 then some 1
  else none

/-- Hand a transport packet to the meaning of its OP (Tables 11-2, 11-3). -/
def transportPacket (s : State) (bs : List Byte) : Out :=
  let x := xtHdrOf bs
  let op := fld bs 0x10 1
  let addr : Word := BitVec.ofNat 64 (fld bs 0x20 8)
  let len := fld bs 0x28 2
  let w := fun (o n : Nat) => BitVec.ofNat 64 (fld bs o n)
  if op = 1 then .next (arrive2 s (.read x addr len))
  else if op = 2 then .next (arrive2 s (.write x addr len (slice bs 0x40 len)))
  else if op = 3 then
    .next (arrive2 s (.atomic x addr (BitVec.ofNat 8 (fld bs 0x28 1)) (BitVec.ofNat 8 (fld bs 0x29 1))
      (w 0x30 8) (w 0x38 8)))
  else if op = 8 then
    let m : MsgFields := { number := BitVec.ofNat 32 (fld bs 0x20 4), offset := fld bs 0x24 4,
                           total := fld bs 0x28 4, destEndpoint := fld bs 0x2C 2, srcEndpoint := fld bs 0x2E 2,
                           immediate := w 0x30 8 }
    execMessage x m (slice bs 0x40 (min 4096 (m.total - m.offset))) s
  else if op = 0x10 then
    execReadData x (BitVec.ofNat 8 (fld bs 0x12 1)) (if fld bs 0x12 1 = 0 then slice bs 0x40 len else []) s
  else if op = 0x11 then execAtomicData x (BitVec.ofNat 8 (fld bs 0x12 1)) (w 0x30 8) s
  else
    execAck { device := packetSrc bs, cls := Fin.ofNat 3 (fld bs 0x24 1), session := x.session,
              cum := BitVec.ofNat 32 (fld bs 0x20 4), bitmap := w 0x28 8,
              status := BitVec.ofNat 8 (fld bs 0x12 1), errPsn := BitVec.ofNat 32 (fld bs 0x30 4),
              ceEcho := (fld bs 0x11 1).testBit 0 } s

/-- The VL of a port has credit for a packet (R335). -/
def hasCredit (x : Port) (vl units : Nat) : Bool :=
  let c := x.vls.at vl {}
  decide (dist32 c.sent c.peerFreed + units ≤ x.credits.getD vl 0)

/-- The first packet of an input that its VL's order and credit let go. -/
def firstReady (x : Port) (q : List Queued) (input : Nat) : Option Queued :=
  let mine := q.filter fun e => decide (e.input = input)
  mine.find? fun e =>
    let v := packetVl e.bytes
    hasCredit x v (packetLength e.bytes) && !e.coming
      && decide ((mine.find? fun y => decide (packetVl y.bytes = v)) = some e)

/-- The next packet that a port sends: class 0 first, then the inputs in turn (R337). -/
def nextTx (x : Port) : Option Queued :=
  let zero := x.txQueue.filter fun e => decide (packetVl e.bytes / 2 = 0)
  match zero.find? fun e => decide (firstReady x zero e.input = some e) with
  | some e => some e
  | none => ((List.range 19).map fun i => (x.turn + 1 + i) % 19).findSome? (firstReady x x.txQueue)

/-- PORT_TRANSMIT (R331, R335, R337): one packet leaves. -/
def execPortTransmit (port : PortNo) (s : State) : Out :=
  let p := port.val
  let x := s.port p
  if x.state ≠ 4 then .next s
  else match nextTx x with
    | none => .next s
    | some e =>
      let units := packetLength e.bytes
      let v := packetVl e.bytes
      let s := s.setPort p { x with
        txQueue := eraseFirst e x.txQueue
        turn := if v / 2 = 0 then x.turn else e.input
        txUnits := satAdd (2 ^ 64 - 1) x.txUnits units }
      let s := modVl s p v fun c => { c with sent := c.sent + BitVec.ofNat 32 units }
      .next ((if e.lost then s else freeUnits s e.input e.vlIn units).emit (.forwarded p e.bytes))

/-! ### Meanings: registers -/

/-- BAR0 offset of a register of port `p` (Table 17-1). -/
def fpOff (p off : Nat) : Nat := 0x10_0000 + 0x8000 * p + off

/-- Write FP_CONTROL: DISABLE takes its bit, and RETRAIN sends an UP port DOWN (Table 10-10). -/
def fpControl (value : Word) (p : Nat) (s : State) : State :=
  let dis := value.toNat.testBit 0
  let s := s.setPort p { s.port p with disable := dis }
  if dis then (if (s.port p).state = 0 then s else portOff s p)
  else if (s.port p).state = 0 then portRest s p
  else if value.toNat.testBit 1 ∧ (s.port p).state = 4 then goDown s p
  else s

/-- RETRAIN (R340, Table 10-10). -/
def execRetrain (src : Src) (port : PortNo) (value : Word) (s : State) : Out :=
  .next (globalWrite s src (fpOff port.val 8) (fpControl value port.val))

/-- DISABLE of FP_CONTROL (R338, Table 10-10). -/
def execDisable (src : Src) (port : PortNo) (value : Word) (s : State) : Out :=
  .next (globalWrite s src (fpOff port.val 8) (fpControl value port.val))

/-- Write FP_CREDITS_LO or FP_CREDITS_HI (Table 10-10). -/
def fpCredits (hi : Bool) (value : Word) (p : Nat) (s : State) : State :=
  let x := s.port p
  let four := (List.range 4).map fun v => bitsOf value.toNat (16 * v) 16
  let all := if hi then x.credits.take 4 ++ four else four ++ x.credits.drop 4
  if (all.all fun c => decide (128 ≤ c)) ∧ all.foldl (· + ·) 0 ≤ 8192 ∧ x.state ≤ 1 then
    s.setPort p { x with credits := all }
  else s

/-- FP_CREDITS_WRITE (Table 10-10). -/
def execFpCreditsWrite (src : Src) (port : PortNo) (hi : Bool) (value : Word) (s : State) : Out :=
  .next (globalWrite s src (fpOff port.val (if hi then 0x18 else 0x10)) (fpCredits hi value port.val))

/-- Write one routing entry; reserved bits read as zero (Table 10-8). -/
def routePut (b : Bool) (dest : Nat) (value : Word) (s : State) : State :=
  let x := s.bank b
  s.setBank b { x with routes := x.routes.put dest (value &&& 0xB000_FFFF_FFFF_FFFF) }

/-- ROUTE_WRITE (R345): one atomic entry. -/
def execRouteWrite (src : Src) (bank : Fin 2) (dest : BitVec 16) (value : Word) (s : State) : Out :=
  .next (globalWrite s src (0x20_0000 + 0x8_0000 * bank.val + 8 * dest.toNat)
    (routePut (decide (bank.val = 1)) dest.toNat value))

/-- Write FAB_BANK: two VALID banks of one EPOCH are refused (R345, Table 10-12). -/
def bankPut (b : Bool) (value : Word) (s : State) : State :=
  let x := s.bank b
  let o := s.bank !b
  let epoch := bitsOf value.toNat 0 16
  let valid := value.toNat.testBit 63
  if valid ∧ o.valid ∧ o.epoch = epoch then s.setBank b { x with clash := true }
  else s.setBank b { x with epoch := epoch, valid := valid, clash := x.clash && !value.toNat.testBit 62 }

/-- FAB_BANK_WRITE (R345). -/
def execFabBankWrite (src : Src) (bank : Fin 2) (value : Word) (s : State) : Out :=
  .next (globalWrite s src (0x30_0008 + 8 * bank.val) (bankPut (decide (bank.val = 1)) value))

/-- Write FAB_CURRENT (Table 10-12). -/
def currentPut (value : Word) (s : State) : State := s.modFab fun f => { f with current := value.toNat.testBit 0 }

/-- FAB_CURRENT_WRITE (R345, R346). -/
def execFabCurrentWrite (src : Src) (value : Word) (s : State) : Out :=
  .next (globalWrite s src 0x30_0018 (currentPut value))

/-- Write FAB_DEVICE (Table 10-12). -/
def devicePut (value : Word) (s : State) : State := s.modFab fun f => { f with device := value.setWidth 16 }

/-- FAB_DEVICE_WRITE (R342). -/
def execFabDeviceWrite (src : Src) (value : Word) (s : State) : Out :=
  .next (globalWrite s src 0x30_0000 (devicePut value))

end Sys2Proof.Machine
end

