-- ==== Sys2Proof/Machine/Power.lean ====
section
/-! DEFINITION. The meanings of the power and clock commands (14 R461 to R480, R484). -/

namespace Sys2Proof.Machine

/-! ### Caps, ceilings and delays (R467, R471, R475, R479) -/

/-- Largest block clock in MHz. -/
def clockMax : Nat := 1750

/-- The cap in force: the smaller of POWER_CAP and a non-zero OVERRIDE (R467); 6,000 W with no pattern
(R466). -/
def capInForce (s : State) : Nat :=
  let m := (s.modulePiece.map (·.powerCap)).getD 6000
  if s.power.override = 0 then m else min m s.power.override

/-- The ceiling that BLK_HINT asks for (R471). -/
def hintCeiling (w : PPower) : Nat := if w.hint = 0 then clockMax else w.hint

/-- The ceiling that the next tick of R467 takes. -/
def nextCeiling (w : PPower) : Nat := min (hintCeiling w) (w.follow.getD clockMax)

/-- Round a frequency down to a 25 MHz step. -/
def stepDown (f : Nat) : Nat := f / 25 * 25

/-- Partition `p` is slow: Open, below its ceiling for the module cap, the temperature, or the fast
limiter (R475). -/
def partSlow (s : State) (p : Nat) : Bool :=
  let w := (s.part p).power
  decide (s.code p = 5) && (s.power.fastLimit || (w.slow && decide (w.clock < w.ceiling)))

/-- The expected delay d = P (ceiling / f - 1) of a slow partition, rounded down; the fast limiter halves
f (R470, R475). -/
def partDelay (s : State) (p : Nat) : Nat :=
  let w := (s.part p).power
  let k := if s.power.fastLimit then 2 else 1
  if partSlow s p then min (2 ^ 31 - 1) (w.stepPeriod * (k * w.ceiling - w.clock) / max 1 w.clock) else 0

/-- The largest d over the partitions (R478). -/
def largestDelay (s : State) : Nat := (s.parts.map fun kv => partDelay s kv.1).foldl max 0

/-- Some partition is slow. -/
def anySlow (s : State) : Bool := s.parts.any fun kv => partSlow s kv.1

/-- Bits 3:0 of PWR_THROTTLE (Table 14-9). -/
def throttleLive (s : State) : Nat :=
  bit (capInForce s < s.power.average) + 2 * bit (100 ≤ s.power.tMax) + 4 * bit s.power.fastLimit
    + 8 * bit s.power.overcurrent

/-- CAUSES_SEEN keeps every bit that has been 1 (Table 14-9). -/
def noteCauses (s : State) : State :=
  s.upd fun s => s.modPow fun w => { w with causesSeen := w.causesSeen ||| BitVec.ofNat 4 (throttleLive s) }

/-! ### Ticks -/

/-- One partition's clock at a tick (R467, R475). -/
def clockStep (s : State) (hot : Bool) (p : Nat) : State :=
  let w := (s.part p).power
  let cap := ((s.piece p).map (·.powerCap)).getD 0
  let c := nextCeiling w
  let f :=
    if hot ∨ (0 < cap ∧ cap < w.average) then w.clock - 25
    else if (cap = 0 ∨ 100 * w.average < 98 * cap) ∧ 100 * s.power.average < 98 * capInForce s then w.clock + 25
    else w.clock
  let f := min (max f 700) c
  s.setPower p { w with clock := f, ceiling := c, slow := decide (f < c) && (hot || w.slow) }

/-- The Open partitions. -/
def openParts (s : State) : List Nat := (s.parts.filter fun kv => decide (kv.2.code = 5)).map (·.1)

/-- CLOCK_LOOP_TICK (R467): the highest junction temperature, its district, and the coolant temperatures; the loop
takes its step every 10 local microseconds (R5), and rests while the fast limiter divides the clocks (R470). -/
def execClockLoopTick (tMax tMaxDistrict inlet outlet : Nat) (s : State) : Out :=
  let s := s.modPow fun w =>
    { w with tMax := tMax, tDistrict := tMaxDistrict, inlet := inlet, outlet := outlet
             coolLowAt := if 85 ≤ tMax then s.now else w.coolLowAt }
  let s := noteCauses s
  if s.power.fastLimit ∨ s.now < s.power.loopNext then .next s
  else
    let s := s.modPow fun w => { w with loopNext := s.now + 10 }
    let hot := decide (capInForce s < s.power.average ∨ 100 ≤ tMax)
    .next ((openParts s).foldl (fun s p => clockStep s hot p) s)

/-- Add a 10 us estimate to the latest 100. -/
def addSample (l : List Nat) (x : Nat) : List Nat := (l ++ [x]).drop (l.length + 1 - 100)

/-- The 1 ms rolling average (R466): the mean of the estimates at hand. -/
def meanOf (l : List Nat) : Nat := l.foldl (· + ·) 0 / max 1 l.length

/-- POWER_ESTIMATE_TICK (R468, R469): the estimate is K times the raw estimate, for the module and for each
partition's own domains. -/
def execPowerEstimateTick (raw inputW voltage10mV : Nat) (parts : List (Nat × Nat)) (s : State) : Out :=
  let e := s.power.gain * raw / 10000
  let l := addSample s.power.samples e
  let s := s.modPow fun w => { w with
    estimate := e
    samples := l
    average := meanOf l
    measured := inputW
    voltage := voltage10mV
    fastClearAt := if w.fastLimit ∧ e < 7000 then w.fastClearAt.orElse fun _ => some s.now else none }
  let s := parts.foldl (fun s x => s.modPPower x.1 fun w =>
    let e := s.power.gain * x.2 / 10000
    let l := addSample w.samples e
    { w with estimate := e, samples := l, average := meanOf l }) s
  .next (noteCauses s)

/-- PWR_CAL (Table 14-8). -/
def pwrCalWord (s : State) : Nat := s.power.gain + 2 ^ 16 * bit s.power.calLimit

/-- CALIBRATION_TICK (R468): K is the ratio of measured to raw power, limited to 0.9 to 1.1. The ratio to a
raw power of zero is not stated: a free value within the limits. -/
def execCalibrationTick (measured raw : Nat) (s : State) : Out :=
  let d := s.draw
  let s := if raw = 0 then d.2 else s
  let k := if raw = 0 then 9000 + Config.freeNat d.1 % 2001 else min 11000 (max 9000 (measured * 10000 / raw))
  let limit := decide (k = 9000 ∨ k = 11000)
  let rises := limit && !s.power.calLimit
  let s := s.modPow fun w => { w with gain := k, calLimit := limit }
  .next (if rises then faultRecord s 8 0 255 9 0 0 (pwrCalWord s) 0 else s)

/-! ### The fast limiter (R470) -/

/-- FAST_LIMIT (R470): the estimate reached 7,000 W, or the busbar comparator tripped. The clocks divide by
2; the comparator's condition is taken as a moment. -/
def execFastLimit (cause : FastCause) (s : State) : Out :=
  let comparator : Bool := cause == .comparator
  if !comparator ∧ s.power.estimate < 7000 then .next s
  else
    .next (noteCauses (s.modPow fun w => { w with
      fastLimit := true
      overcurrent := w.overcurrent || comparator
      fastClearAt := if w.estimate < 7000 then some s.now else none }))

/-- FAST_LIMIT_CLEAR (R470): the divide goes 100 us after the condition cleared; the loop carries on from
the halved frequency rounded down to a step. -/
def execFastLimitClear (s : State) : Out :=
  match s.power.fastClearAt with
  | none => .next s
  | some t =>
    if !s.power.fastLimit ∨ s.now < t + 100 then .next s
    else
      let s := s.modPow fun w => { w with fastLimit := false, overcurrent := false, fastClearAt := none }
      .next ((openParts s).foldl (fun s p => s.modPPower p fun w =>
        let f := min (max (stepDown (w.clock / 2)) 700) w.ceiling
        { w with clock := f, slow := w.slow || decide (f < w.ceiling) }) s)

/-! ### Blocks (R462, R463, R465, R472, R473) -/

/-- A block has a run, an attention command, or an Awl descriptor (R462). -/
def blockWorks (s : State) (b : Nat) : Bool :=
  let k := s.block b
  decide (k.eng.state = 1 ∨ k.eng.state = 2 ∨ k.attn.head ≠ k.attn.tail) || k.attn.waiting.isSome
    || !k.attn.jobs.isEmpty
    || (List.range 8).any fun a =>
      let w := s.awl (8 * b + a)
      decide (w.head ≠ w.tail) || w.waiting.isSome || !w.jobs.isEmpty

/-- The block belongs to an Open partition: the one that owns it. -/
def openOwner (s : State) (b : Nat) : Option Nat :=
  match s.blockOwner b with
  | none => none
  | some p => if s.code p = 5 then some p else none

/-- A block waits for the start arbiter: to start or wake, or, with no work, to be clock-gated (R472,
R473). -/
def wantsGrant (s : State) (b : Nat) : Bool :=
  let w := (s.block b).pwr
  (openOwner s b).isSome && (w.startAsked || (decide (w.state = 0) && !blockWorks s b))

/-- START_GRANT (R472, R473): the arbiter grants the lowest-numbered waiting block, unless the rise of the
input current defers the grant. Whether the Cobbler core has work while its partition context runs is the
image's, a free value. -/
def execStartGrant (riseOk : Bool) (s : State) : Out :=
  if !riseOk ∨ s.regs.state = 9 then .next s
  else match (List.range 80).find? (wantsGrant s) with
    | none => .next s
    | some b =>
      let w := (s.block b).pwr
      if w.startAsked then
        .next (s.setPwr b { w with startAsked := false, waking := w.waking || decide (w.state ≠ 0) })
      else
        let p := (s.blockOwner b).getD 0
        let busy : Bool := cobblerRuns s p b && Config.freeBool s.draws
        let s := if cobblerRuns s p b then s.draw.2 else s
        .next (if busy then s else s.setPwr b { w with state := 1, gatedSince := s.now })

/-- BLOCK_OFF_TIMER (R462). -/
def execBlockOffTimer (b : Blk) (s : State) : Out :=
  match openOwner s b.val with
  | none => .next s
  | some p =>
    let w := (s.block b.val).pwr
    let t := (s.part p).power.offAfter
    let kept : Bool := decide ((s.blocksOf p).head? = some b.val ∨ cobblerRuns s p b.val ∨ t = 0)
    if w.state = 1 ∧ !kept ∧ !w.waking ∧ !w.startAsked ∧ !blockWorks s b.val ∧ w.gatedSince + t ≤ s.now then
      let s := zeroBenches (s.setPwr b.val { w with state := 2 }) b.val
      .next { s with cores := s.cores.filter fun kv => decide (kv.1 / 1024 ≠ b.val) }
    else .next s

/-- BLOCK_WAKE_DONE (R463, R465): the block is in RUN; one that was OFF has its benches zero. -/
def execBlockWakeDone (b : Blk) (s : State) : Out :=
  let w := (s.block b.val).pwr
  if w.waking then
    let s := if w.state = 2 then zeroBenches s b.val else s
    .next (s.setPwr b.val { w with state := 0, waking := false })
  else .next s

/-! ### Block power registers (R471, R476, R479, Table 14-6) -/

/-- BLK_HINT_WRITE (R471). -/
def execBlkHintWrite (src : Src) (b : Blk) (value : Word) (s : State) : Out :=
  let v := bitsOf value.toNat 0 11
  .next (blockWrite s src b.val 0x1_C008 fun s =>
    match s.blockOwner b.val with
    | none => s
    | some p => if v = 0 ∨ (700 ≤ v ∧ v ≤ 1750) then s.modPPower p fun w => { w with hint := v } else s)

/-- The word that BLK_ARRIVE reads (R476). -/
def arriveWord (s : State) (p : Nat) : Word :=
  BitVec.ofNat 64 (2 ^ 63 * bit (partSlow s p) + 2 ^ 32 * partDelay s p)

/-- A read counts unless it comes within 10 us of the previous counted one; STEP_PERIOD is the interval of
the latest two (R476). -/
def countArrive (s : State) (p : Nat) : State :=
  s.modPPower p fun w => match w.arriveAt with
    | none => { w with arriveAt := some s.now }
    | some t =>
      if s.now < t + 10 then w
      else { w with arriveAt := some s.now, stepPeriod := min (2 ^ 32 - 1) (s.now - t) }

/-- The value of a register read goes to who reads it. -/
def readBack (s : State) (src : Src) (v : Word) : State :=
  match src with
  | .host fn => s.emit (.readValue fn.val v)
  | .cobbler _ b => s.emit (.cobblerData b.val 0 (leBytes 8 v.toNat))
  | .core .. => s
  | .mgmt => s

/-- BLK_ARRIVE_READ (R476); a refused read gives zero (R545). -/
def execBlkArriveRead (src : Src) (b : Blk) (s : State) : Out :=
  let r := portGate s src (s.blockOwner b.val) (blockOff b.val 0x1_C010)
  match r.1, s.blockOwner b.val with
  | true, some p =>
    let s := countArrive r.2 p
    .next (readBack s src (arriveWord s p))
  | _, _ => .next (readBack r.2 src 0)

/-- FOLLOW of the Module piece (Table 02-4). -/
def followSet (s : State) : Bool := (s.modulePiece.map fun m => m.flags.testBit 0).getD false

/-- BLK_PEER_DELAY_WRITE (R479): a delay D sets the follow ceiling to ceiling x P / (P + D). -/
def execBlkPeerDelayWrite (src : Src) (b : Blk) (value : Word) (s : State) : Out :=
  let d := bitsOf value.toNat 0 31
  .next (blockWrite s src b.val 0x1_C018 fun s =>
    match s.blockOwner b.val with
    | none => s
    | some p => s.modPPower p fun w =>
      let per := w.stepPeriod
      let c := if !followSet s ∨ d = 0 ∨ per = 0 then none
        else some (max 700 (stepDown (hintCeiling w * per / (per + d))))
      { w with peerDelay := d, follow := c, followAt := s.now })

/-- FOLLOW_EXPIRE (R479): no write for 4 P removes the follow ceiling. -/
def execFollowExpire (p : Part) (s : State) : Out :=
  let w := (s.part p.val).power
  if w.follow.isSome ∧ w.followAt + 4 * w.stepPeriod ≤ s.now then
    .next (s.setPower p.val { w with follow := none })
  else .next s

end Sys2Proof.Machine
end

