-- ==== Sys2Proof/Machine/Tiers.lean ====
section
/-! DEFINITION. The meanings of the memory tier commands: migration, NVMe and the patrol scrub
(09 R297 to R309, R316 to R322). -/

namespace Sys2Proof.Machine

/-! ### Migration (R303 to R309) -/

/-- The partition runs migration entries: it is Open, and so is the module, or it is in Doubt. -/
def partRuns (s : State) (p : Nat) : Bool := decide (s.code p = 5 ∧ (s.regs.state = 5 ∨ s.regs.state = 7))

/-- Pages of the regions of `p` placed in a tier. -/
def placedPages (s : State) (p tier : Nat) : Nat :=
  ((s.regions p).map fun e => if e.tier = tier then e.length else 0).foldl (· + ·) 0 / 65536

/-- Free pages of the pool of `p` in a tier: the page that the copy in progress has taken is not among them
(R304, R307). -/
def poolFree (s : State) (p tier : Nat) : Nat :=
  match s.pattern with
  | none => 0
  | some pt =>
    let moved := (s.part p).mem.pageTier
    let here := (moved.filter fun kv => decide (kv.2 = tier)).length
    let away := (moved.filter fun kv =>
      decide (kv.2 ≠ tier ∧ ((regionAt s p (kv.1 * 65536)).map (·.tier)).getD 0 = tier)).length
    let taken := bit ((s.part p).mem.job.any fun j => j.taken && decide (j.entry.tier = tier))
    tierCapacity s pt p tier / 65536 + away - placedPages s p tier - here - taken

/-- A page may migrate (R37, R303). -/
def mayMigrate (s : State) (p page : Nat) : Bool :=
  match regionAt s p (page * 65536) with
  | none => false
  | some e => decide (e.tier = 1 ∨ e.tier = 2) && !e.pinned && decide (e.use ≠ 3 ∧ e.use ≠ 5)

/-- The pages of an entry. -/
def MigEntry.span (e : MigEntry) : List Nat := upFrom (e.start / 65536) e.pages

/-- The checks of R306. START that is no multiple of 64 KiB is not a defined value. -/
def migCheck (s : State) (p : Nat) (e : MigEntry) : Byte :=
  let waits := e.flags.testBit 0
  let signals := e.flags.testBit 1
  if e.op ≠ 1 ∨ (e.tier ≠ 1 ∧ e.tier ≠ 2) ∨ 4 ≤ e.flags ∨ e.start % 65536 ≠ 0 then 0x0B
  else if (waits && !s.ownsCtr p e.waitCounter) || (signals && !s.ownsCtr p e.signalCounter)
      || !inRange s p (fun _ => true) false e.start (e.pages * 65536) then 0x0D
  else if !e.span.all (mayMigrate s p) then 0x0B
  else 0

/-- An entry completes: LAST_FAIL and the SIGNAL add (R308, R309, Table 09-8). -/
def migComplete (s : State) (p : Nat) (e : MigEntry) (c : Byte) : State :=
  let s := s.modPMem p fun m => { m with job := none, lastFail := if c = 0 then m.lastFail else c }
  let s := noteStep s p c
  if e.flags.testBit 1 ∧ s.ownsCtr p e.signalCounter then ctrAdd s e.signalCounter 1 (c != 0) else s

/-- The pages that an entry still has to move: a page already in TIER is skipped (R306). -/
def pagesToMove (s : State) (p : Nat) (e : MigEntry) : List Nat :=
  e.span.filter fun g => decide (tierOf s p (g * 65536) ≠ e.tier)

/-- The entry ends at a page that cannot be moved (R308). -/
def migFail (s : State) (p : Nat) (j : MigJob) (page : Nat) (c : Byte) : State :=
  s.modPMem p fun m => { m with
    job := some { j with left := [], status := c, taken := false }, failAt := page * 65536 }

/-- The next page of an entry takes its page of the destination pool and its copy begins; with an empty pool
the entry ends there (R307 step 1, R308). -/
def beginPage (s : State) (p : Nat) (j : MigJob) : State :=
  match j.left with
  | [] => s.modPMem p fun m => { m with job := some j }
  | page :: _ =>
    if poolFree s p j.entry.tier = 0 then migFail s p j page 0x0B
    else s.modPMem p fun m => { m with job := some { j with taken := true } }

/-- An entry whose checks have passed starts copying, or waits on its counter. -/
def migStart (s : State) (p : Nat) (e : MigEntry) : State :=
  let waits := e.flags.testBit 0
  if waits ∧ !ctrMet s e.waitCounter e.waitValue then
    s.modPMem p fun m => { m with job := some { entry := e, left := [], waiting := true } }
  else if waits ∧ (s.counter e.waitCounter).fault then migComplete s p e 8
  else beginPage (s.modPMem p fun m => { m with job := none }) p { entry := e, left := pagesToMove s p e }

/-- MIG_TAIL_WRITE (R90, R305). -/
def execMigTailWrite (src : Src) (p : Part) (value : Word) (s : State) : Out :=
  .next (partWrite s src p.val 0x3_B010 fun s => s.modPMem p.val fun m =>
    let t : BitVec 32 := value.setWidth 32
    if ringOverfull t m.head m.size then { m with tailError := true } else { m with tail := t })

/-- MOVE_PAGES (R92, R305, R306): the entry at the head of the ring has its turn, or the one that waits on
its counter is released. -/
def execMovePages (p : Part) (s : State) : Out :=
  let m := (s.part p.val).mem
  if !partRuns s p.val then .next s
  else match m.job with
    | some j => .next (if j.waiting then migStart s p.val j.entry else s)
    | none =>
      if m.head = m.tail ∨ m.held then .next s
      else
        let r := ringRead (settlePart s p.val) p.val m.base m.size 32 m.head
        let s := r.2.2.modPMem p.val fun m => { m with head := m.head + 1 }
        if r.1 ≠ 0 then .next (s.modPMem p.val fun m => { m with lastFail := r.1 })
        else
          let e := migOf r.2.1
          let c := migCheck s p.val e
          .next (if c ≠ 0 then migComplete s p.val e c else migStart s p.val e)

/-- Record that a page lies in a tier now. -/
def placePage (s : State) (p page tier : Nat) : State :=
  s.modPMem p fun m => { m with
    pageTier := if ((regionAt s p (page * 65536)).map (·.tier)).getD 0 = tier then m.pageTier.del page
      else m.pageTier.put page tier }

/-- PAGE_MOVE_DONE (R304, R307, R308): the copy of a page ends; `written` says that a write reached the
page meanwhile, which starts its copy again at most three times. -/
def execPageMoveDone (read : PartRead) (page : Nat) (written : Bool) (s : State) : Out :=
  let p := read.p
  match (s.part p.val).mem.job with
  | none => .next s
  | some j =>
    if j.waiting ∨ j.left.head? ≠ some page ∨ !partRuns s p.val then .next s
    else if written ∧ j.restarts < 3 then
      .next (s.modPMem p.val fun m => { m with job := some { j with restarts := j.restarts + 1 } })
    else
      let a := page * 65536
      let s := eccMet (settlePart s p.val) p.val a 65536 read.found
      let moved := placePage s p.val page j.entry.tier
      if badIn s (memKey p.val a) 65536 ≠ [] ∨ suspectIn s p.val a 65536 ≠ none then
        .next (migFail (badWordFaults s p.val a 65536 0) p.val j page 4)
      else if suspectIn moved p.val a 65536 ≠ none then .next (migFail s p.val j page 4)
      else
        let s := moved.modPMem p.val fun m => { m with job := none }
        .next (beginPage s p.val { j with left := j.left.drop 1, restarts := 0, taken := false })

/-- MIGRATION_ENTRY_DONE (R308, R309). -/
def execMigrationEntryDone (p : Part) (s : State) : Out :=
  match (s.part p.val).mem.job with
  | none => .next s
  | some j => if j.waiting ∨ j.left ≠ [] then .next s else .next (migComplete s p.val j.entry j.status)

/-! ### NVMe (R299, R301, R302) -/

/-- Requests of a partition, and moves of its Lasts, that waited for a place in a drive's queue go on
(Table 09-3). -/
def resumeQueues (s : State) (p : Nat) : State :=
  let s := ((s.part p).last.jobs.map (·.1)).foldl (fun s n => lastNext s p n) s
  ((s.blocksOf p).flatMap fun b => upFrom (8 * b) 8).foldl (fun s n =>
    if (s.awl n).jobs.any fun j => !j.issue.isEmpty then awlIssue n p 512 s else s) s

/-- The requests that an NVMe command carries. -/
def nvReqs (s : State) (c : NvCmd) : List AwlReq :=
  match (s.awl c.awl).job c.index with
  | none => []
  | some j =>
    match j.outstanding.find? fun q => decide (q.id = c.req) with
    | none => []
    | some q =>
      if c.flush then [q]
      else j.outstanding.filter fun x => decide (x.row = q.row ∧ x.way = q.way ∧ q.off ≤ x.off ∧ x.off < q.off + c.len)

/-- What ends one request of a command whose first request lies at `off`: data comes in pieces. -/
def reqPart (r : ReqEnd) (off : Nat) (q : AwlReq) : ReqEnd :=
  match r with
  | .data bs => .data (slice bs (q.off - off) q.len)
  | _ => r

/-- The write cache of a drive holds bytes of a descriptor, whose Flush follows its last write. -/
def noteCached (s : State) (c : NvCmd) (q : AwlReq) : State :=
  match (s.awl c.awl).job c.index with
  | none => s
  | some j =>
    let j := if c.write ∧ (s.drive c.drive).cache ∧ (c.drive, c.nsid) ∉ j.cached then
        { j with cached := j.cached ++ [(c.drive, c.nsid)] } else j
    s.setAwl c.awl ((s.awl c.awl).setJob (j.flushes q))

/-- An NVMe command of a move of slot `n` ends: a Read brings the bytes of its span (R310, R318). -/
def lastCmdEnds (s : State) (c : NvCmd) (n : Nat) (r : ReqEnd) : State :=
  match (s.part c.part).last.jobs.find n with
  | none => s
  | some j =>
    match r with
    | .failed code => putJob s c.part n (j.fails code)
    | .data bs =>
      let w := homeWrite s c.part c.addr bs (coversWhole c.addr c.len) 0
      if w.1 = 0 then w.2 else putJob w.2 c.part n (j.fails w.1)
    | .acked _ => s

/-- An NVMe command ends: its Awl requests, or its part of a Last's move, end with it. -/
def nvEnd (s : State) (c : NvCmd) (r : ReqEnd) : State :=
  let s := { s with nvCmds := s.nvCmds.filter fun x => decide (x.id ≠ c.id) }
  match c.last with
  | some n => resumeQueues (lastCmdEnds s c n r) c.part
  | none =>
  match awlPart s c.awl, nvReqs s c with
  | some p, q :: qs =>
    let s := (q :: qs).foldl (fun s x => (reqEnd s c.awl p c.index x.id (reqPart r q.off x)).getD s) s
    resumeQueues (slotsFree (if c.flush then s else noteCached s c ((q :: qs).getLast?.getD q)) c.awl p) p
  | _, _ => s

/-- The command outstanding at a drive with a number. -/
def nvCmd (s : State) (drive cmd : Nat) : Option NvCmd :=
  s.nvCmds.find? fun c => decide (c.id = cmd ∧ c.drive = drive)

/-- NVME_COMPLETION (R301, R302): with a volatile write cache the writes of a MOVE are followed by a
Flush, and the MOVE completes with it. -/
def execNvmeCompletion (drive : Fin 8) (cmd : Nat) (ok : Bool) (_status : Word) (data : List Byte)
    (s : State) : Out :=
  match nvCmd s drive.val cmd with
  | none => .next s
  | some c =>
    if !ok then .next (nvEnd s c (.failed 4))
    else .next (nvEnd s c (if c.write ∨ c.flush then .acked none else .data (c.plain data)))

/-- NV_TIMEOUT (R302): no completion within NV_TIMEOUT, or the drive's STATE is not 1. -/
def execNvTimeout (drive : Fin 8) (cmd : Nat) (s : State) : Out :=
  match nvCmd s drive.val cmd with
  | none => .next s
  | some c =>
    if c.sentAt + (s.part c.part).mem.nvTimeout ≤ s.now ∨ (s.drive drive.val).state ≠ 1 then
      .next (nvEnd s c (.failed 3))
    else .next s

/-- A drive reaches STATE 2: a DRIVE record (Table 15-1), and its outstanding commands end as R302 lays
down. -/
def driveFails (s : State) (d status : Nat) : State :=
  let gone := s.nvCmds.filter fun c => decide (c.drive = d)
  let s := s.upd fun s => s.setDrive d { s.drive d with state := 2 }
  let s := faultRecord s 9 3 255 8 d 0 status 0
  gone.foldl (fun s c => nvEnd s c (.failed 3)) s

/-- NVME_DRIVE_FAILED (R392, Table 15-1): the drive disappears or cannot be used. -/
def execNvmeDriveFailed (drive : Fin 8) (status : Word) (s : State) : Out :=
  if (s.drive drive.val).state ≠ 1 then .next s else .next (driveFails s drive.val status.toNat)

/-! ### Neighbour and NVMe mappings (R297 to R299, Table 09-7) -/

/-- The LBAs that NVMe entry `i` of a partition names: namespace key, first and end; none while it is not
VALID or no region has its START. -/
def nvSpan (s : State) (p : Nat) (m : PMem) (i : Nat) : Option (Nat × Nat × Nat) :=
  let l := (m.nvLocal.at i 0).toNat
  if !l.testBit 63 then none
  else match (s.regions p).find? fun e => decide (e.tier = 4 ∧ e.start = bitsOf l 16 32 * 65536) with
    | none => none
    | some e =>
      let d := (m.nvDrive.at i 0).toNat
      let lba := (m.nvLba.at i 0).toNat
      some (bitsOf d 0 3 + 8 * bitsOf d 32 32, lba, lba + e.length / 4096)

/-- Entry `i` of partition `p`, with registers `m`, overlaps another VALID entry of the module. -/
def nvOverlaps (s : State) (p i : Nat) (m : PMem) : Bool :=
  match nvSpan s p m i with
  | none => false
  | some (k, lo, hi) =>
    let meets := fun (x : Option (Nat × Nat × Nat)) => match x with
      | none => false
      | some (k', lo', hi') => decide (k = k' ∧ lo < hi' ∧ lo' < hi)
    ((List.range 8).any fun j => decide (j ≠ i) && meets (nvSpan s p m j))
      || s.parts.any fun kv => decide (kv.1 ≠ p) && (List.range 8).any fun j => meets (nvSpan s kv.1 kv.2.mem j)

/-- Keep the defined bits of a mapping register (R8, Table 09-7). -/
def mapMask (nv : Bool) (reg : Nat) (v : Nat) : Word :=
  BitVec.ofNat 64 (if reg = 0 then bitsOf v 63 1 * 2 ^ 63 + bitsOf v 16 32 * 65536
    else if nv then (if reg = 1 then bitsOf v 0 3 + bitsOf v 32 32 * 2 ^ 32 else v)
    else if reg = 1 then bitsOf v 0 24 else bitsOf v 16 32 * 65536)

/-- A mapping register takes a value. -/
def putMap (m : PMem) (nv : Bool) (reg i : Nat) (v : Word) : PMem :=
  if nv then
    if reg = 0 then { m with nvLocal := m.nvLocal.put i v }
    else if reg = 1 then { m with nvDrive := m.nvDrive.put i v }
    else { m with nvLba := m.nvLba.put i v }
  else if reg = 0 then { m with nbLocal := m.nbLocal.put i v }
  else if reg = 1 then { m with nbLender := m.nbLender.put i v }
  else { m with nbOffset := m.nbOffset.put i v }

/-- Offset of a mapping register in the partition window. -/
def mapOff (nv : Bool) (reg i : Nat) : Nat := (if nv then 0x3_B200 else 0x3_B040) + 0x18 * i + 8 * reg

/-- The queue pairs of partition `p` on ready drives follow its NV_LOCAL entries (Table 09-3). -/
def queuesFollow (s : State) (p : Nat) (old new : PMem) : State :=
  (List.range 8).foldl (fun s d =>
    if (s.drive d).state ≠ 1 ∨ usesDrive old d = usesDrive new d then s
    else s.emit (.nvmeAdmin d (if usesDrive new d then .createQueue p else .deleteQueue p))) s

/-- Write a mapping register: an overlap is ignored and sets OVERLAP (R299). -/
def writeMap (s : State) (p : Nat) (nv : Bool) (reg i : Nat) (value : Word) : State :=
  let m := (s.part p).mem
  let m' := putMap m nv reg i (mapMask nv reg value.toNat)
  if nv ∧ nvOverlaps s p i m' then s.setPMem p { m with nvOverlap := m.nvOverlap ||| BitVec.ofNat 8 (2 ^ i) }
  else queuesFollow (s.setPMem p m') p m m'

/-- NV_MAPPING_WRITE (R299). -/
def execNvMappingWrite (src : Src) (p : Part) (reg : Fin 3) (nv : Bool) (entry : Fin 16) (value : Word)
    (s : State) : Out :=
  if nv ∧ 8 ≤ entry.val then .next s
  else .next (partWrite s src p.val (mapOff nv reg.val entry.val) fun s =>
    writeMap s p.val nv reg.val entry.val value)

/-! ### Patrol scrub (R317, R319, R320) -/

/-- The channel of a tier has power (R319, R465). -/
def channelOn (s : State) (tier ch : Nat) : Bool :=
  if tier = 2 then s.power.ddrOn.getLsbD (ch / 4) else s.power.hbmOn.getLsbD (ch / 32)

/-- The patrol finds a word of a region correctable or not; it skips blank pages (R317, R319, R320, R444). -/
def patrolPlaced (s : State) (p off : Nat) (ok : Bool) : State :=
  let a := off / 32 * 32
  let tier := tierOf s p a
  let ch := channelOf s p a
  if !inRange s p onSled false a 32 || blankPage s p a || suspectAt s p a || !channelOn s tier ch then s
  else if ok then countFixed s tier ch
  else badWordFault { s with badWords := addBad s.badWords (memKey p a / 32) } p a 0 0

/-- The patrol finds a word where no region lies: no partition range offset names it, and the one that its
record gives is a free value. -/
def patrolUnplaced (s : State) (tier ch : Nat) (ok : Bool) : State :=
  if !channelOn s tier ch || channelSuspect s tier ch then s
  else if ok then countFixed s tier ch
  else
    let s' := countLost s.draw.2 tier ch
    faultRecord s' 1 0 255 (if tier = 2 then 3 else 2) (if tier = 2 then ch else ch / 32)
      (Config.freeNat s.draws % 2 ^ 64) (tier + ch * 2 ^ 16) 0

/-- Local microseconds of a patrol period (Table 09-9). -/
def patrolPeriod (s : State) : Nat := Nat.max 1 s.regs.scrubPeriod * 3600000000

/-- PATROL_SCRUB (R317, R319, R320): the patrol finds a word in error, and may end its pass. One pass runs in
each period; a period begins at each multiple of its length. -/
def execPatrolScrub (p : PatrolAt) (off : Word) (correctable passEnds : Bool) (s : State) : Out :=
  if s.regs.scrubOff ∨ s.now < s.regs.scrubFrom then .next s
  else
    let s := match p with
      | .range p => patrolPlaced s p.val off.toNat correctable
      | .hbm ch => patrolUnplaced s 1 ch.val correctable
      | .ddr ch => patrolUnplaced s 2 ch.val correctable
    .next (if passEnds then s.modRegs fun r => { r with
        scrubPasses := satAdd 0xFFFF_FFFF r.scrubPasses 1
        scrubFrom := (s.now / patrolPeriod s + 1) * patrolPeriod s } else s)

end Sys2Proof.Machine
end

