-- ==== Sys2Proof/Machine/Lifecycle.lean ====
section
/-! DEFINITION. What becomes of partitions and of the module as a whole: structures given and taken, entry
to Open, scrubbing, the module reset, entry to Fenced (02, 13 R450 to R453, 15 R500, 17 R551 to R553). -/

namespace Sys2Proof.Machine

/-! ### Stopping work -/

/-- Complete with a code every run, attention command, Awl descriptor, migration entry and send in progress
in partition `p`, with FAULT on their counters (R483, Table 15-6). -/
def killWork (s : State) (p : Nat) (c : Byte) : State :=
  let s := (s.blocksOf p).foldl (fun s b =>
    let e := (s.block b).eng
    let s := if e.state = 1 ∨ e.state = 2 then runEnds s p b c else s
    let s := attnKillAll s b p c
    (List.range 8).foldl (fun s a => awlKillAll s (8 * b + a) p c) s) s
  let s := match (s.part p).mem.job with
    | none => s
    | some j => migComplete s p j.entry c
  let s := { s with nvCmds := s.nvCmds.filter fun x => decide (x.part ≠ p) }
  endSends s p c fun _ => true

/-- Complete with a code every packet of a kind that waits for an answer, and forget it. -/
def killSome (s : State) (c : Byte) (pick : TxPacket → Bool) : State :=
  settleFences ((s.fab.peers.map (·.1)).foldl (fun s d =>
    let p := s.peer d
    let ends := (p.c1.unacked ++ p.c1.waiting ++ p.c2.unacked ++ p.awaiting ++ p.c2.waiting).filter fun u => pick u.pkt
    let keep := fun (l : List Unacked) => l.filter fun u => !pick u.pkt
    let s := s.setPeer d { p with
      awaiting := keep p.awaiting
      c1 := { p.c1 with unacked := keep p.c1.unacked, waiting := keep p.c1.waiting }
      c2 := { p.c2 with unacked := keep p.c2.unacked, waiting := keep p.c2.waiting } }
    ends.foldl (fun s u => packetEnd s d u c) s) s)

/-- Complete with a code every packet that waits for an answer. -/
def killPackets (s : State) (c : Byte) : State := killSome s c fun _ => true

/-- Flush the lanes of partition `p`: each request item yields a token item with FINAL, NO_TOKEN and 0x08 on the
output lane; `all` says that any other item is discarded (R78), as STOP does and RESUME after a Cut does not (R483). -/
def flushLanes (s : State) (p : Nat) (all : Bool) : State :=
  let asks := ((s.lanes.filter fun kv => decide (kv.2.owner = p)).flatMap fun kv => kv.2.items).filter fun it =>
    decide (itemFld it 0 1 = 1)
  let s := { s with lanes := s.lanes.mapVals fun _ l =>
    if l.owner = p then { l with items := l.items.filter fun it => !all && decide (itemFld it 0 1 ≠ 1) } else l }
  asks.foldl (fun s it => refuseItem s p (itemTag it) 8) s

/-! ### Structures of a partition (R18) -/

/-- A Roundabout as its piece gives it (R32, R276). -/
def freshRoundabout (x : RaPiece) : Roundabout :=
  let par := fun (q : RaQueue) => x.queues.any fun y => decide (y.parent = q.queue)
  { owner := x.owner, queues := x.queues
    members := x.queues.foldl (fun m q =>
      let m := m.put q.queue { quantum := q.quantum }
      if par q then m.put (raOwn q.queue) { quantum := q.quantum } else m) [] }

/-- A Tollgate as its entry gives it, its bucket full (R33). -/
def freshToll (now : Nat) (e : TollEntry) : Toll :=
  { owner := e.owner, mode := e.mode, level := e.depth, depth := e.depth, refill := e.refill
    interval := e.interval, sDepth := e.depth, sRefill := e.refill, sInterval := e.interval, lastRefill := now }

/-- The counters of a list of ranges. -/
def putCounters (m : KMap Counter) (owner first : Nat) : Nat → KMap Counter
  | 0 => m
  | n + 1 => (putCounters m owner first n).put (first + n) { owner := owner }

/-- Give partition `p` the lanes, counters, Tollgates, Roundabouts and lists of a pattern. -/
def installPart (s : State) (pt : Pattern) (p : Nat) : State :=
  let s := { s with
    lanes := (pt.lanes.filter fun e => decide (e.owner = p)).foldl (fun m e =>
      m.put e.lane { owner := p, kind := e.kind, stale := e.stale, vector := e.vector }) s.lanes
    counters := (pt.counters.filter fun e => decide (e.owner = p)).foldl (fun m e =>
      putCounters m p e.first e.count) s.counters }
  let s := (pt.tollgates.filter fun e => decide (e.owner = p)).foldl (fun s e => s.setToll e.customer (freshToll s.now e)) s
  let s := (pt.roundabouts.filter fun e => decide (e.owner = p)).foldl (fun s e =>
    s.setRoundabout e.number (freshRoundabout e)) s
  (pt.crossings.filter fun e => decide (e.owner = p)).foldl (fun s e =>
    s.setCrossing e.list { owner := p, align := e.align, entries := e.entries }) s

/-- Take from partition `p` its lanes, counters and schedulers. -/
def removePart (s : State) (p : Nat) : State :=
  { s with
    lanes := s.lanes.filter fun kv => decide (kv.2.owner ≠ p)
    counters := s.counters.filter fun kv => decide (kv.2.owner ≠ p)
    tolls := s.tolls.filter fun kv => decide (kv.2.owner ≠ p)
    roundabouts := s.roundabouts.filter fun kv => decide (kv.2.owner ≠ p)
    crossings := s.crossings.filter fun kv => decide (kv.2.owner ≠ p) }

/-- The registers of a block, and its cores, as a wake from OFF leaves them: unpowered until then. -/
def clearBlock (s : State) (b : Nat) : State :=
  let s := zeroBenches s b
  { s with
    blocks := s.blocks.del b
    cores := s.cores.filter fun kv => decide (kv.1 / 1024 ≠ b)
    awls := s.awls.filter fun kv => decide (kv.1 / 8 ≠ b) }

/-- The HBM stacks and DDR5 channels of two masks, as SCRUB_PENDING numbers them (Table 13-13). -/
def channelBits (hbm ddr : Nat) : List Nat :=
  ((maskBits hbm 384).map (· / 32)).eraseDups ++ (maskBits ddr 16).map (16 + ·)

/-- Those of a Partition piece. -/
def scrubBits (x : PartPiece) : List Nat := channelBits x.hbmMask x.ddrMask

/-- Set SCRUB_PENDING for the channels of two masks: they wait for a scrub of their partition. -/
def markChannels (s : State) (hbm ddr : Nat) : State :=
  let bits := (channelBits hbm ddr).foldl (fun m k => m ||| BitVec.ofNat 32 (2 ^ k)) 0#32
  s.modTrust fun t => { t with scrubPending := scrubMarks s ||| bits, bootScrub := t.bootScrub &&& ~~~bits }

/-- The resources that are still marked are scrubbed whole from now on (R429 step 6, R453). -/
def startPending (s : State) : State :=
  s.modTrust fun t => { t with scrubPending := scrubMarks s, bootScrub := scrubMarks s, scrubFrom := s.now }

/-- Set SCRUB_PENDING for the resources of a piece. -/
def markScrub (s : State) (x : PartPiece) : State := markChannels s x.hbmMask x.ddrMask

/-- The partition holds a resource that is marked in SCRUB_PENDING. -/
def holdsMarked (s : State) (x : PartPiece) : Bool := (scrubBits x).any (scrubMarks s).toNat.testBit

/-! ### Entry to Patterned (R37) -/

/-- Write the program images of partition `p` into its USE 0x05 regions (R37). -/
def writeImages (s : State) (p : Nat) : State :=
  match s.pattern with
  | none => s
  | some pt => ((programsOf pt.placements pt.programs p).getD []).foldl (fun s x => storeRaw s p x.2 x.1.image) s

/-- Partition `p` enters Patterned. -/
def enterPatterned (s : State) (p : Nat) : State :=
  writeImages (setCode (s.modPart p fun x => { x with stopping := false }) p 3) p

/-! ### Scrubbing (R450 to R453) -/

/-- What Scrubbing leaves of the trust state of a partition: the debug records until step 6, and what it released
and is still being scrubbed (R450, R456). -/
def PTrust.scrubbed (t : PTrust) (now next : Nat) : PTrust :=
  { scrubStep := 3, scrubAt := now, scrubTo := next, debugRecs := t.debugRecs, debugTotal := t.debugTotal
    freedBlocks := t.freedBlocks, freedHbm := t.freedHbm, freedDdr := t.freedDdr }

/-- The packets of partition `p` that the transport has not numbered go, and those on their way lose what waits on them: a
lost one is sent again with its own bytes, so that no session that others share is broken, and its answer reaches no one
(R421, R452; DESIGN CHOICE, notes/assumptions/39.md). Its fences go as well. -/
def orphanPackets (s : State) (p : Nat) : State :=
  let others := fun (l : List Unacked) => l.filter fun u => decide (u.pkt.srcPart ≠ p)
  let orphan := fun (l : List Unacked) => l.map fun u => if u.pkt.srcPart = p then { u with owner := 0 } else u
  s.modFab fun f => { f with
    fences := f.fences.filter fun x => decide (s.blockOwner x.1 ≠ some p)
    peers := f.peers.mapVals fun _ y => { y with
      awaiting := orphan y.awaiting
      c1 := { y.c1 with unacked := orphan y.c1.unacked, waiting := others y.c1.waiting }
      c2 := { y.c2 with unacked := orphan y.c2.unacked, waiting := others y.c2.waiting } } }

/-- The class-2 requests to partition `p` that wait at their Squares are answered 0x0E (R452). -/
def refuseHome (s : State) (p : Nat) : State :=
  let mine := fun (j : HomeJob) => decide (j.req.hdr.destPart = p)
  (s.fab.home.filter mine).foldl (fun s j => homeEnd s (j.fail 0x0E))
    (s.modFab fun f => { f with home := f.home.filter fun j => !mine j })

/-- Partition `p` enters Scrubbing, steps 1 and 2 of Table 13-10: its keys, tags, lanes, counters,
schedulers and registers are reset; the debug records stay until step 6. `next` is the state it takes
afterwards. -/
def startScrub (s : State) (p next : Nat) : State :=
  match s.piece p with
  | none => s
  | some x =>
    let s := markScrub (setCode (refuseHome (orphanPackets s p) p).draw.2 p 8) x
    let s := s.modTrust fun t => { t with unlocks := t.unlocks.map fun u =>
      { u with scope := u.scope &&& ~~~(BitVec.ofNat 64 (2 ^ p)) } }
    let s := removePart s p
    let s := match s.pattern with
      | none => s
      | some pt => installPart s pt p
    let s := (s.blocksOf p).foldl clearBlock s
    let s := { s with nvCmds := s.nvCmds.filter fun c => decide (c.part ≠ p) }
    s.setPart p { code := 8
                  trust := (s.part p).trust.scrubbed s.now next }

/-- Memory of partition `p` reads zero: every byte and every uncorrectable word goes. -/
def zeroMemory (s : State) (p : Nat) : State :=
  { s with
    mem := memZero s.mem (p * 2 ^ 48) ((p + 1) * 2 ^ 48)
    badWords := s.badWords.filter fun w => decide (w < p * 2 ^ 43 ∨ (p + 1) * 2 ^ 43 ≤ w) }

/-- The channels that a partition released and that are still being scrubbed. -/
def PTrust.freedBits (t : PTrust) : List Nat := channelBits t.freedHbm t.freedDdr

/-- A partition other than `p` that still has to be scrubbed, or what it released, holds resource `k`. -/
def othersOwe (s : State) (p k : Nat) : Bool :=
  s.parts.any fun kv => decide (kv.1 ≠ p) && (kv.2.trust.freedBits.contains k
    || ((kv.2.trust.owed || decide (kv.2.code = 8)) && match s.piece kv.1 with
      | none => false
      | some x => (scrubBits x).contains k))

/-- The scrub of what partition `p` released ends (R60, R450). -/
def finishFreed (s : State) (p : Nat) : State :=
  let owes := fun (k : Nat) => othersOwe s p k || ((decide (s.code p = 8) || (s.part p).trust.owed) && match s.piece p with
    | none => false
    | some x => (scrubBits x).contains k)
  let bits := (s.part p).trust.freedBits.filter fun k => !owes k
  (s.modTrust fun t => { t with
    scrubPending := bits.foldl (fun m k => m &&& ~~~(BitVec.ofNat 32 (2 ^ k))) (scrubMarks s) }).modPTrust p fun t =>
      { t with freedBlocks := 0, freedHbm := 0, freedDdr := 0 }

/-- Steps 3 to 6 of Table 13-10: memory and benches are zero, the marks and the debug records go, the
partition is Patterned. -/
def finishScrub (s : State) (p : Nat) : State :=
  let s := (s.blocksOf p).foldl clearBlock (zeroMemory s p)
  let s := s.modPTrust p fun t => { t with scrubStep := 0, owed := false, debugRecs := [], debugTotal := 0 }
  let bits := match s.piece p with
    | none => []
    | some x => (scrubBits x).filter fun k => !othersOwe s p k
  let s := s.modTrust fun t => { t with
    scrubPending := bits.foldl (fun m k => m &&& ~~~(BitVec.ofNat 32 (2 ^ k))) (scrubMarks s) }
  enterPatterned s p

/-! ### Entry to Open -/

/-- Every endpoint of partition `p` is disabled and its transport registers take their values at entry to
Open (R383); endpoint 0, which the firmware configures, is ready for the service and stays on chip (R371, R377;
DESIGN CHOICE, notes/assumptions/31.md: it is not among the endpoints that hold EP_TABLE_BASE and EP_COUNT fixed). -/
def resetEndpoints (s : State) (p : Nat) : State :=
  let s := (s.part p).xt.enabled.foldl (fun s n => epRemove s p n) s
  s.modXt p fun x => { x with eps := [(0, { state := 1 })], enabled := [], srqs := [], reasm := [], parked := [], fetches := [], fetchWait := [] }

/-- The registers that chapters reset at entry to Open: lanes (R82), counters (R83), Awls (R109), attention
rings (R234), Tollgates (R33, R273), migration (R321), transport (R383), faults (R512); the engine is fixed
(R223), the clock starts at its ceiling (R467), blocks are GATED, and a key generation is there (R445).
Request records stay, as a Cut leaves them: the holder frees one only after its final item (R111). -/
def resetAtOpen (s : State) (p : Nat) : State :=
  let s := { s with
    lanes := s.lanes.mapVals fun _ l =>
      if l.owner = p then { owner := p, kind := l.kind, stale := l.stale, vector := l.vector } else l
    counters := s.counters.mapVals fun _ c => if c.owner = p then { owner := p } else c
    tolls := s.tolls.mapVals fun _ t =>
      if t.owner = p then { t with level := t.depth, lastRefill := s.now, hold := [] } else t
    roundabouts := s.roundabouts.mapVals fun _ r =>
      if r.owner = p then
        { r with active := [], selected := none, sending := [],
                 members := r.members.mapVals fun _ m => { m with deficit := 0, fresh := false } }
      else r
    crossings := s.crossings.mapVals fun _ x =>
      if x.owner = p then { x with running := false, restart := false } else x
    nvCmds := s.nvCmds.filter fun c => decide (c.part ≠ p) }
  let cob := hasCobbler s p
  let s := (s.blocksOf p).foldl (fun s b =>
    let s := if (s.block b).pwr.state = 2 then clearBlock s b
      else { s with awls := s.awls.filter fun kv => decide (kv.1 / 8 ≠ b) }
    s.setBlock b { pwr := { state := 1, gatedSince := s.now }, cobbler := bit cob }) s
  let s := resetEndpoints s p
  let n := (s.blocksOf p).length
  let most := ((s.piece p).map (·.insoleMax)).getD 0
  let lend := decide (s.faults.stoodIn ≠ 0xFFFF) && isCache s p && !(s.part p).last.standIn
  let s := if lend then standInDir s p else s
  s.modPart p fun x => { x with
    stopping := false
    insole := decide (n ≤ if most = 0 then 8 else most)
    hostSlots := []
    last := { x.last with
      served := 0
      striped := 0
      stripeLocal := 0
      standIn := x.last.standIn || lend
      newcomer := x.last.newcomer || lend }
    hold := { x.hold with step := none, blockedSince := none }
    mem := { x.mem with base := 0, size := 4, tail := 0, head := 0, tailError := false, lastFail := 0,
                        failAt := 0, job := none, held := false }
    trust := x.trust.withKey s.draws
    power := { x.power with clock := nextCeiling x.power, ceiling := nextCeiling x.power, slow := false }
    fault := { replayLimit := x.fault.replayLimit, faultInt := x.fault.faultInt, faultVector := x.fault.faultVector } }

/-- Partition `p`, Patterned, enters Open, or Scrubbing first while a resource that it was given is still marked
(R62, R453). -/
def openPart (s : State) (p : Nat) : State :=
  if (s.part p).trust.owed && (s.piece p).any (holdsMarked s) then startScrub s p 5
  else setCode ((resetAtOpen s p).modPTrust p fun t => { t with owed := false }) p 5

/-! ### Power domains and ports (R19, R323, R339, R461) -/

/-- A mask of numbers. -/
def maskOf (l : List Nat) : Nat := l.eraseDups.foldl (fun m k => m + 2 ^ k) 0

/-- Port B's power domain goes on, its reference clock with it, or off, its PERST_N low with it (R525). -/
def setPortB (s : State) (on : Bool) : State :=
  if on = s.power.pcieBOn then s
  else
    let s := s.modPow fun w => { w with pcieBOn := on }
    let s := s.modSled fun x => { x with refclkB := if on then some s.now else none }
    if s.mgmt.perstBhigh ∧ !on then
      (s.modMgmt fun m => { m with perstBhigh := false, linkB := false, rateB := 0, widthB := 0 }).emit (.pin .perstB false)
    else s

/-- The HBM, DDR5 and PCIe domains that the committed pattern needs are on, the others off (Table 14-1). -/
def domainsOpen (s : State) : State :=
  match s.pattern with
  | none => s
  | some pt =>
    let hbm := maskOf (pt.parts.flatMap fun kv => (maskBits kv.2.hbmMask 384).map (· / 32))
    let ddr := maskOf (pt.parts.flatMap fun kv => (maskBits kv.2.ddrMask 16).map (· / 4))
    let s := s.modPow fun w => { w with hbmOn := BitVec.ofNat 12 hbm, ddrOn := BitVec.ofNat 4 ddr, pcieAOn := true }
    setPortB s (pt.placements.any fun e => decide (e.tier = 4))

/-- SerDes groups and ports take the power and the state that this module state gives them: while Open a
group without an enabled port goes off, and one that was off waits for SERDES_GROUP_WAKE (R323, R339). -/
def portsRest (s : State) : State :=
  let m := s.regs.state
  let s := (List.range 9).foldl (fun s g =>
    let want := groupWanted s g
    let on := if m = 2 ∨ m = 3 ∨ m = 4 then want
      else if m = 5 ∨ m = 6 ∨ m = 7 then want && groupOn s g
      else false
    if on = groupOn s g then s else setGroup s g on) s
  (List.range 18).foldl portRest s

/-- An I/O die is in Doubt (R494, R495). -/
def dieInDoubt (s : State) : Bool := s.faults.doubt.any fun u => match u with
  | .die _ => true
  | _ => false

/-- An enumeration of port B starts, which is not one that RESCAN asks for (R391, R392). -/
def enumerateAtOpen (s : State) : State := s.modMgmt fun m => { m with pbBusy := s.power.pcieBOn, pbRescan := false }

/-- The module enters Open, or Doubt when an I/O die is in Doubt; port B is enumerated at the entry (R391). -/
def enterOpenState (s : State) : State := enumerateAtOpen (setModState s (if dieInDoubt s then 7 else 5))

/-- The lease restarts from LEASE (R498). -/
def restartLease (s : State) : State := s.modFlt fun f => { f with leaseRunning := true, leaseAt := s.now }

/-- The module enters Open: domains, every Patterned partition, ports, lease (Table 02-19 step 6). -/
def openModule (s : State) : State :=
  let s := domainsOpen (enterOpenState s)
  let s := ((s.parts.filter fun kv => decide (kv.2.code = 3)).map (·.1)).foldl openPart s
  portsRest (restartLease s)

/-! ### Compositions (R407, R409, R414) -/

/-- The partitions of this module that a map names. -/
def namedHere (s : State) (m : CompMap) : List Nat :=
  ((m.entries.filter fun e => decide (e.device = mapDevice s)).map (·.partition)).eraseDups

/-- The partitions of this module that the live maps of a composition name. -/
def compParts (s : State) (c : Comp) : List Nat :=
  (c.live.flatMap (namedHere s)).eraseDups

/-- The partitions that CURRENT or PREVIOUS names belong to the composition (R410). -/
def members (s : State) (c : Comp) : List Nat :=
  ((c.current.toList ++ c.previous.toList).flatMap (namedHere s)).eraseDups

/-- Remove every live map of a composition, with a LEFT event for each partition that belonged to it. -/
def dissolve (s : State) (comp : Nat) : State :=
  let c := s.mgmt.comps.at comp {}
  let gone := members s c
  let epoch := (c.current.map (·.epoch)).getD 0
  let s := s.modMgmt fun m => { m with comps := m.comps.del comp }
  gone.foldl (fun s p => recordEvent s 2 p comp epoch (s.tenant p) (s.code p)) s

/-- Devices that a removed map names and no map left of its composition does. -/
def devicesGone (gone : CompMap) (left : List CompMap) : List Nat :=
  ((gone.entries.map (·.device)).eraseDups).filter fun d => !left.any fun m => m.entries.any fun e => decide (e.device = d)

/-- The holds of a cache partition by holders on these devices end (Table 05-9, R175). -/
def endHolds (devices : List Nat) (s : State) (p : Nat) : State :=
  let held := (s.part p).last.dir.filter fun kv =>
    decide (kv.2.state = 1 ∨ ((kv.2.state = 3 ∨ kv.2.state = 4) ∧ kv.2.holderTag ≠ 0))
      && devices.contains kv.2.holderDevice
  held.foldl (fun (s : State) (kv : Nat × DirEntry) => endHold s p kv.1) s

/-- What the removal of a map does to the holds of the cache partitions that it named here. -/
def holdersLeave (s : State) (gone : CompMap) (left : List CompMap) : State :=
  ((namedHere s gone).filter (isCache s)).foldl (endHolds (devicesGone gone left)) s

/-! ### The module reset (R551 to R553) -/

/-- The module reset, whole (Table 17-8): FAB_DEVICE takes `device`. A write of module flash that is under
way completes through `flash`. -/
def moduleReset (s : State) (device : BitVec 16) (flash : State → State) : State :=
  let s := flash s
  let s := (s.mgmt.comps.map (·.1)).foldl dissolve s
  let s := (s.parts.map (·.1)).foldl (fun s p => if s.code p = 5 then setCode s p 0xFF else s) s
  let s := match s.pattern with
    | none => s
    | some pt => pt.parts.foldl (fun (s : State) (kv : Nat × PartPiece) => markScrub s kv.2) s
  let s := { s with
    pattern := none, partials := [], parts := [], lanes := [], counters := [], awls := [], blocks := []
    cores := [], tolls := [], roundabouts := [], crossings := [], mem := [], badWords := [], nvCmds := [] }
  let s := s.modLoader fun l => { l with
    receiving := false
    staged := []
    chunks := []
    status := 0
    committing := none
    waitingScrub := false
    confirming := none
    confirmImage := none
    confirmWaiting := []
    fullTrial := none
    partialTrials := []
    slotA := { l.slotA with running := false }
    slotB := { l.slotB with running := false } }
  let s := killPackets s 8
  let s := s.modFab fun f => { f with
    device := device
    bank0 := {}
    bank1 := {}
    current := false
    reorder := []
    lines := []
    home := []
    ownTx := []
    fences := [] }
  let s := s.modFlt fun f => { f with
    leaseRunning := false, fencePending := false, codesAtFence := [], selfRunning := false }
  let s := s.modTrust fun t => { t with hashing := [], reclaim := none }
  portsRest (setPortB (trayUpdate (setModState (startPending s) 2)) false)

/-! ### Entry to Fenced (R500, Table 15-6) -/

/-- SELFTEST (Table 15-14). -/
def selftestWord (s : State) : Nat :=
  let f := s.faults
  bit f.selfDone + 2 * bit f.selfPass + 2 ^ 7 * f.channelsFailed + 2 ^ 12 * f.stacksFailed
    + 2 ^ 16 * f.blocksFailed + 2 ^ 24 * f.diesFailed

/-- Write a FENCE record (Table 15-1). -/
def fenceRecord (s : State) : State := faultRecord s 7 8 255 9 0 0 (selftestWord s) 0

/-- The module enters Fenced: FAB_DEVICE is saved and cleared, work ends with 0x08, every partition is
Fenced, blocks are GATED, the self-test starts. -/
def fencedEntry (s : State) (cause : Nat) : State :=
  let ps := s.parts.filter fun kv => decide (kv.2.code ≠ 255)
  let s := s.modFlt fun f => { f with
    fenceCause := cause
    savedDevice := s.fab.device
    fencedAt := s.now
    fencePending := false
    leaseRunning := false
    codesAtFence := ps.map fun kv => (kv.1, kv.2.code)
    selfDone := false
    selfPass := false
    selfRunning := true }
  let s := s.modFab fun f => { f with device := 0xFFFF }
  let s := ps.foldl (fun s kv => noteStep (killWork s kv.1 8) kv.1 8) s
  let s := killPackets s 8
  let s := { s with blocks := s.blocks.mapVals fun _ b =>
    { b with pwr := if b.pwr.state = 0 then { state := 1, gatedSince := s.now } else b.pwr } }
  let s := ps.foldl (fun s kv => setCode s kv.1 6) s
  fenceRecord (portsRest (setModState s 6))

end Sys2Proof.Machine
end

