-- ==== Sys2Proof/Machine/MgmtOps.lean ====
section
/-! DEFINITION. How a management request is checked and answered (12 R393 to R400), and the recovery
sequence numbers (15 R506 to R508). -/

namespace Sys2Proof.Machine

/-! ### Sessions -/

/-- The open SPDM session that a request came in. -/
def sessionOf (s : State) (m : MHdr) : Option SpdmSession :=
  m.session.bind fun id => s.trust.sessions.find? fun x => decide (x.id = id) && samePath x.path m.path

/-- The request came in a session of this key slot. -/
def inSession (s : State) (m : MHdr) (slot : Nat) : Bool :=
  match sessionOf s m with
  | none => false
  | some x => decide (x.slot = slot)

/-- A class C command is accepted: over Ethernet in a fabric-manager session, and over I3C, where Table 12-5
lists that path, in a tray-controller session (R395). -/
def controlOk (s : State) (m : MHdr) (tray : Bool) : Bool :=
  (overEthernet m.path && inSession s m 8) || (tray && overI3c m.path && inSession s m 9)

/-! ### Replies -/

/-- A management message: the header of Table 12-4 and its payload. -/
def mgmtBytes (command flags : Nat) (status : Byte) (seq rsn : BitVec 32) (payload : List Byte) : List Byte :=
  leBytes 2 command ++ leBytes 1 flags ++ [status] ++ leBytes 4 seq.toNat ++ leBytes 4 rsn.toNat
    ++ leBytes 2 payload.length ++ leBytes 2 0 ++ payload

/-- The words of MBX_REPLY that hold a message (Table 12-11). -/
def replyWords (bs : List Byte) : KMap Word :=
  ((List.range ((bs.length + 7) / 8)).filter (· < 512)).map fun w => (w, BitVec.ofNat 64 (fld bs (8 * w) 8))

/-- A reply appears in MBX_REPLY, with REPLY_READY set (R400). -/
def mailboxReply (s : State) (bs : List Byte) : State :=
  s.upd fun s => s.modMgmt fun x => { x with mbxReply := replyWords bs, mbxReady := true, mbxBusy := false }

/-- An MCTP message of a type with its body; a management message is of the vendor-defined type, with the vendor
identifier before its header (R396; the type codes are PRESUMED, notes/assumptions/61.md). -/
def mctpVendor (body : List Byte) : List Byte := 0x7F :: leBytes 4 Config.vendor.toNat ++ body
def mctpSpdm (body : List Byte) : List Byte := 0x05 :: body

/-- The header of an SPDM response to a request, or of ERROR with its code, and what follows (SPDM 1.3, PRESUMED,
notes/assumptions/61.md): VERSION is under version 1.0 and ALGORITHMS counts its four structures. -/
def spdmMessage (request : Nat) (ok : Bool) (payload : List Byte) : List Byte :=
  if ok then [if request = 0x84 then 0x10 else 0x13] ++ leBytes 1 (request - 0x80) ++ [if request = 0xE3 then 4 else 0, 0]
      ++ payload
  else [0x13, 0x7F] ++ padTo 2 payload

/-- StandardID IANA and VendorID in a vendor-defined message (R426). -/
def vendorId : List Byte := leBytes 2 3 ++ [4] ++ leBytes 4 Config.vendor.toNat

/-- VENDOR_DEFINED_RESPONSE with a vendor payload (R426). -/
def vendorResponse (payload : List Byte) : List Byte :=
  [0x13, 0x7E, 0, 0] ++ vendorId ++ leBytes 2 payload.length ++ payload

/-- Keep a response longer than one message for CHUNK_GET (R426). -/
def keepLong (s : State) (m : MHdr) (bs : List Byte) : State :=
  if bs.length ≤ 4080 then s
  else s.modTrust fun t => { t with
    chunks := (t.chunks.filter fun c => !(c.response && samePath c.path m.path && decide (c.session = m.session)))
      ++ [{ path := m.path, session := m.session, handle := 0, next := 0, bytes := bs, response := true }] }

/-- Send a reply by the way its request came (R393, R400, R401). One that returns to another module outside a session
leaves as a RELAY packet; inside one its bytes are the session's, and it is noted on the boundary as decoded. -/
def deliver (s : State) (e : Emit) : State :=
  let send := fun (m : MHdr) (mctp body : List Byte) =>
    match m.path, m.session with
    | .mailbox, _ => mailboxReply s body
    | .relay d, none => originate0 s d false 2 0 mctp
    | _, _ => s.emit e
  match e with
  | .mgmtReply m command status payload =>
    let bs := mgmtBytes command 1 status m.seq m.rsn payload
    send m (mctpVendor bs) bs
  | .trustReply m _ _ payload => send m (mctpSpdm (vendorResponse payload)) (vendorResponse payload)
  | .spdmReply m request ok payload => send m (mctpSpdm (spdmMessage request ok payload)) (spdmMessage request ok payload)
  | _ => s.emit e

/-- How long a reply is kept for a repeated SEQ (R397). -/
def replyLife : Nat := 10_000_000

/-- A stored reply goes out by the link on which its request came again (R393). -/
def Emit.under (e : Emit) (m : MHdr) : Emit :=
  match e with
  | .mgmtReply _ command status payload => .mgmtReply m command status payload
  | e => e

/-- The reply already given to this SEQ in this session (R397). -/
def storedReply (s : State) (m : MHdr) : Option Emit :=
  if m.session.isNone then none
  else (s.mgmt.replies.find? fun r =>
    decide (r.session = m.session ∧ r.seq = m.seq ∧ s.now ≤ r.at_ + replyLife) && samePath r.path m.path).map
      fun r => r.emit.under m

/-- Answer a management request and, in a session, keep the reply. -/
def answer (s : State) (m : MHdr) (command : Nat) (status : Byte) (payload : List Byte) : State :=
  let e := Emit.mgmtReply m command status payload
  let s := if m.session.isNone then s
    else s.modMgmt fun x => { x with
      replies := (x.replies.filter fun r =>
          decide (s.now ≤ r.at_ + replyLife ∧ ¬(r.session = m.session ∧ samePath r.path m.path ∧ r.seq = m.seq)))
        ++ [{ session := m.session, path := m.path, seq := m.seq, at_ := s.now, emit := e }] }
  deliver s e

/-- What a handler answers: status, payload, and the state it leaves. -/
abbrev Handled := Byte × List Byte × State

/-- A status with no payload. -/
def plain (c : Byte) (s : State) : Handled := (c, [], s)

/-- The Perger controller takes messages from this path in this state: none while Dark (R531), but RESET, which
is refused, during power-down (R553), by the mailbox only after SEND (R400), and under BOOT_FAULT only IDENTIFY
over I3C (R430). DOE carries no management message (Table 13-6). -/
def mgmtHears (s : State) (m : MHdr) (command : Nat) : Bool :=
  (decide (s.regs.state ≠ 0) || (s.sled.poweringDown && decide (command = 0x60))) && decide (m.path ≠ .doe) && (decide (m.path ≠ .mailbox) || s.mgmt.mbxBusy)
    && (!s.trust.bootFault || (decide (command = 1) && overI3c m.path))

/-- Handle a management request: a repeated SEQ gets the stored reply, a command not allowed 0x0D, a LENGTH
that fits neither the bytes received nor the command 0x02; otherwise `f` acts and answers (R395, R397). -/
def mgmtRequest (s : State) (m : MHdr) (command : Nat) (allowed : Bool) (len : Option Nat)
    (f : State → Handled) : State :=
  if !mgmtHears s m command then s
  else
    let s := noteAddress s m
    match storedReply s m with
    | some e => deliver s e
    | none =>
      if !allowed then answer s m command 0x0D []
      else if m.length ≠ m.received ∨ len.any (fun n => decide (n ≠ m.length)) then answer s m command 2 []
      else
        let r := f s
        answer r.2.2 m command r.1 r.2.1

/-- A class Q command, accepted on any path (R395). -/
def query (s : State) (m : MHdr) (command : Nat) (len : Option Nat) (f : State → Handled) : State :=
  mgmtRequest s m command true len f

/-- A class C command; `tray` where Table 12-5 lists I3C. -/
def control (s : State) (m : MHdr) (command : Nat) (tray : Bool) (len : Option Nat) (f : State → Handled) :
    State :=
  mgmtRequest s m command (controlOk s m tray) len f

/-! ### Recovery commands -/

/-- RSN `x` is newer than `y` (R507). -/
def rsnNewer (x y : BitVec 32) : Bool := decide (1 ≤ dist32 x y ∧ dist32 x y < 2 ^ 31)

/-- Handle a recovery command by its RSN (R507): `f` answers a status and whether the command took effect,
which writes a RECOVERY record (Table 15-1). A stored reply goes out again under the header that asks. -/
def recovery (s : State) (m : MHdr) (command : Nat) (payload : List Nat) (len : Nat)
    (f : State → Byte × Bool × State) : State :=
  control s m command false (some len) fun s =>
    let t := s.faults
    if m.rsn = 0 then plain 0x0B s
    else if rsnNewer m.rsn t.rsn then
      let r := f s
      let s := r.2.2.modFlt fun x => { x with
        rsn := m.rsn
        rsnCommand := command
        rsnPayload := payload
        rsnReply := some (.mgmtReply m command r.1 []) }
      plain r.1 (if r.2.1 then faultRecord s 0x0A 0 255 9 0 0 (m.rsn.toNat + command * 2 ^ 32) 0 else s)
    else if m.rsn = t.rsn ∧ command = t.rsnCommand ∧ payload = t.rsnPayload then
      match t.rsnReply with
      | some (.mgmtReply _ _ c _) => plain c s
      | _ => plain 0x0B s
    else plain 0x0B s

/-! ### Trust operations (R426, R427) -/

/-- Answer a trust operation; a long response is kept whole for CHUNK_GET (R426). -/
def trustAnswer (s : State) (m : MHdr) (op : Nat) (c : Byte) (payload : List Byte) : State :=
  let bs := leBytes 1 op ++ [c] ++ leBytes 2 0 ++ leBytes 4 payload.length ++ payload
  deliver (keepLong s m (vendorResponse bs)) (.trustReply m op c bs)

/-- The Perger controller takes SPDM messages from this path. -/
def spdmHears (s : State) (m : MHdr) : Bool :=
  decide (s.regs.state ≠ 0) && !s.trust.bootFault && (decide (m.path ≠ .mailbox) || s.mgmt.mbxBusy)

/-- Handle a trust operation: one on a path or in a session that Table 13-4 does not list is answered 0x0D;
`f` answers, or none where the answer comes later. -/
def trustOp (s : State) (m : MHdr) (op : Nat) (allowed : Bool) (f : State → Option (Byte × List Byte) × State) :
    State :=
  if !spdmHears s m then s
  else
  let s := noteAddress s m
  if !allowed then trustAnswer s m op 0x0D []
  else if m.length ≠ m.received then trustAnswer s m op 2 []
  else match f s with
    | (none, s) => s
    | (some r, s) => trustAnswer s m op r.1 r.2

/-- Answer an SPDM request. -/
def spdmAnswer (s : State) (m : MHdr) (request : Nat) (ok : Bool) (payload : List Byte) : State :=
  deliver s (.spdmReply m request ok payload)

end Sys2Proof.Machine
end

