-- ==== Sys2Proof/Machine/Xmss.lean ====
section
/-! DEFINITION. Verification of an XMSS-SHAKE256_20_256 signature (02 R23, 13 R422): RFC 8391 with SHAKE256 of
256 bits, n 32, w 16, height 20. Numbers inside it are big-endian, as the RFC writes them. -/

namespace Sys2Proof.Machine

/-- A number as `n` bytes, the most significant first. -/
def beBytes (n v : Nat) : List Byte := (leBytes n v).reverse

/-- A number from its bytes, the most significant first. -/
def beNat (bs : List Byte) : Nat := leNat bs.reverse

/-- A keyed hash of the RFC: its number in 32 bytes, the key, the message. -/
def xmssHash (kind : Nat) (key m : List Byte) : List Byte := shake256 (beBytes 32 kind ++ key ++ m) 32

/-- An address of the hash address scheme: layer and tree are zero, then the type, three words of the type, and
keyAndMask. -/
def xmssAddr (type a b c mask : Nat) : List Byte :=
  List.replicate 12 0 ++ beBytes 4 type ++ beBytes 4 a ++ beBytes 4 b ++ beBytes 4 c ++ beBytes 4 mask

/-- PRF with the seed at an address. -/
def xmssPrf (seed : List Byte) (addr : List Byte) : List Byte := xmssHash 3 seed addr

/-- Exclusive or of two strings of bytes. -/
def xorBytes (a b : List Byte) : List Byte := List.zipWith (· ^^^ ·) a b

/-- `n` steps of a WOTS+ chain from position `at_` (F of the RFC). -/
def chainUp (seed : List Byte) (leaf chain : Nat) : (n at_ : Nat) → List Byte → List Byte
  | 0, _, x => x
  | n + 1, at_, x =>
    let key := xmssPrf seed (xmssAddr 0 leaf chain at_ 0)
    let mask := xmssPrf seed (xmssAddr 0 leaf chain at_ 1)
    chainUp seed leaf chain n (at_ + 1) (xmssHash 0 key (xorBytes x mask))

/-- Two nodes joined at an address of a type (RAND_HASH of the RFC). -/
def joinNodes (seed : List Byte) (type a height index : Nat) (l r : List Byte) : List Byte :=
  let p := fun (mask : Nat) => xmssPrf seed (xmssAddr type a height index mask)
  xmssHash 1 (p 0) (xorBytes l (p 1) ++ xorBytes r (p 2))

/-- The base-16 digits of a message digest and its checksum: 64 and 3 of them. -/
def wotsDigits (digest : List Byte) : List Nat :=
  let d := digest.flatMap fun b => [b.toNat / 16, b.toNat % 16]
  let sum := (d.map fun x => 15 - x).foldl (· + ·) 0
  d ++ [sum / 256 % 16, sum / 16 % 16, sum % 16]

/-- One level of an L-tree: neighbours are joined, an odd last node goes up as it is. -/
def ltreeLevel (seed : List Byte) (leaf height : Nat) : (index : Nat) → List (List Byte) → List (List Byte)
  | i, l :: r :: rest => joinNodes seed 1 leaf height i l r :: ltreeLevel seed leaf height (i + 1) rest
  | _, rest => rest

/-- The root of an L-tree after `n` levels from a height. -/
def ltreeRoot (seed : List Byte) (leaf : Nat) : (n height : Nat) → List (List Byte) → List Byte
  | 0, _, l => l.headD []
  | n + 1, height, l => ltreeRoot seed leaf n (height + 1) (ltreeLevel seed leaf height 0 l)

/-- The root that a leaf and its authentication path give. -/
def pathRoot (seed : List Byte) : (height index : Nat) → (node : List Byte) → (path : List (List Byte)) → List Byte
  | _, _, node, [] => node
  | h, i, node, a :: rest =>
    let up := if i % 2 = 0 then joinNodes seed 2 0 h (i / 2) node a else joinNodes seed 2 0 h (i / 2) a node
    pathRoot seed (h + 1) (i / 2) up rest

/-- `n` strings of 32 bytes. -/
def nodesOf (bs : List Byte) (n : Nat) : List (List Byte) := (List.range n).map fun k => slice bs (32 * k) 32

/-- The 67 ends of the WOTS+ chains that a signature's values lead to. -/
def wotsEnds (seed digest values : List Byte) (leaf : Nat) : List (List Byte) :=
  (((wotsDigits digest).zip (nodesOf values 67)).zip (List.range 67)).map fun x =>
    chainUp seed leaf x.2 (15 - x.1.1) x.1.1 x.1.2

/-- The OID of XMSS-SHAKE256_20_256. -/
def xmssOid : Nat := 0x12

/-- A 2,820-byte signature over a digest verifies with a 68-byte key: OID, root and seed (R23, R422). -/
def xmssVerify (key digest signature : List Byte) : Bool :=
  let root := slice key 4 32
  let seed := slice key 36 32
  let index := beNat (slice signature 0 4)
  let m := shake256 (beBytes 32 2 ++ slice signature 4 32 ++ root ++ beBytes 32 index ++ digest) 32
  let ends := wotsEnds seed m (slice signature 36 2144) index
  let leaf := ltreeRoot seed index 7 0 ends
  decide (key.length = 68 ∧ beNat (slice key 0 4) = xmssOid ∧ signature.length = 2820 ∧ index < 2 ^ 20)
    && pathRoot seed 0 index leaf (nodesOf (signature.drop 2180) 20) == root

end Sys2Proof.Machine
end

