-- ==== Sys2Proof/Machine/PatternImage.lean ====
section
/-! DEFINITION. Pattern images: the walk over header and pieces, their fields, and the four stages of
validation (02 R20 to R41). A check names a code of Table 02-12 and the piece and field that PAT_FAULT
names; the first that fails is the one reported. -/

namespace Sys2Proof.Machine

/-! ### Checks -/

/-- One check of a stage (R38): its code, piece index (0xFFFF the header), byte offset, and its outcome. -/
structure Check where
  code : Nat
  piece : Nat
  off : Nat
  ok : Bool
  deriving DecidableEq, Repr

/-- The first check that fails. -/
def firstFail (l : List Check) : Option Check := l.find? fun c => !c.ok

/-- A piece as it lies in the image: index, offset, and bytes. A piece whose TYPE or LENGTH breaks the walk
is the last one. -/
structure RawPiece where
  index : Nat
  pos : Nat
  bytes : List Byte
  lengthOk : Bool
  deriving DecidableEq, Repr

def RawPiece.f (r : RawPiece) (off len : Nat) : Nat := fld r.bytes off len
def RawPiece.type (r : RawPiece) : Nat := r.f 0 2
def RawPiece.owner (r : RawPiece) : Nat := r.f 8 1

/-- A check on the field at `off` of a piece. -/
def RawPiece.check (r : RawPiece) (code off : Nat) (ok : Bool) : Check := ⟨code, r.index, r.pos + off, ok⟩

/-- A field lies in its range (0x15). -/
def RawPiece.range (r : RawPiece) (off len lo hi : Nat) : Check :=
  r.check 0x15 off (decide (lo ≤ r.f off len ∧ r.f off len ≤ hi))

/-- The entries of a piece: offsets within it. -/
def entryOffs (first size n : Nat) : List Nat := (List.range n).map fun k => first + size * k

/-- Where COUNT or N stands, and the size of an entry, for the pieces with entries (R30 to R35). -/
def entryShape (type : Nat) : Option (Nat × Nat × Nat) :=
  if type = 5 then some (0x10, 2, 16)
  else if type = 7 then some (0x12, 2, 16)
  else if type = 8 then some (0x10, 2, 32)
  else if type = 9 then some (0x11, 1, 16)
  else if type = 0x0A then some (0x10, 2, 32)
  else none

/-- The offsets of the entries of a piece. -/
def RawPiece.entries (r : RawPiece) : List Nat :=
  match entryShape r.type with
  | none => []
  | some (at_, len, size) => entryOffs 0x20 size (r.f at_ len)

/-- The length that a piece's own layout gives (R24). -/
def layoutLength (r : List Byte) (type : Nat) : Nat :=
  if type = 1 then 48
  else if type = 2 then 128
  else if type = 3 then 64
  else if type = 4 then 96
  else if type = 6 then 32
  else if type = 0x0B then 64 + (fld r 0x18 8 + 15) / 16 * 16
  else match entryShape type with
    | none => 0
    | some (at_, len, size) => 32 + size * fld r at_ len

/-- A TYPE of Table 02-3. -/
def typeOk (t : Nat) : Bool := decide (1 ≤ t ∧ t ≤ 0x0B)

/-- Walk the pieces from `pos` up to the signature block at `sig` (R24): `rest` are the bytes from `pos`. -/
def walkPieces (sig : Nat) : Nat → Nat → Nat → List Byte → List RawPiece
  | 0, _, _, _ => []
  | fuel + 1, idx, pos, rest =>
    if sig ≤ pos then []
    else
      let n := fld rest 4 4
      let t := fld rest 0 2
      let ok := decide (n % 16 = 0 ∧ 32 ≤ n ∧ pos + n ≤ sig ∧ n = layoutLength rest t)
      if typeOk t && ok then
        { index := idx, pos := pos, bytes := rest.take n, lengthOk := true }
          :: walkPieces sig fuel (idx + 1) (pos + n) (rest.drop n)
      else [{ index := idx, pos := pos, bytes := rest.take 32, lengthOk := ok }]

/-! ### Header (Table 02-1) -/

def imageTotal (bs : List Byte) : Nat := fld bs 8 4
def imageTarget (bs : List Byte) : Nat := fld bs 7 1
def imageSerial (bs : List Byte) : Nat := fld bs 0x10 8
def imageWindow (bs : List Byte) : Nat := fld bs 0x18 4
def imageSigner (bs : List Byte) : Nat := fld bs 0x1C 1
def imageBase (bs : List Byte) : List Byte := slice bs 0x20 32
def imageBody (bs : List Byte) : List Byte := slice bs 0x40 32

/-- Size of the signature block (R20). -/
def sigBlock : Nat := 2832
/-- Where the signature block begins. -/
def sigStart (bs : List Byte) : Nat := imageTotal bs - sigBlock

/-- The limit of R20 for a load of target `t`, 0xFF for a full pattern. -/
def imageLimit (t : Nat) : Nat := if t = 255 then 0x200_0000 else 0x8_0000

/-- The pieces of an image. A signature block that reaches into the header leaves a piece that overruns it. -/
def imagePieces (bs : List Byte) : List RawPiece :=
  if sigStart bs < 128 then [{ index := 0, pos := 128, bytes := slice bs 128 32, lengthOk := false }]
  else walkPieces (sigStart bs) (bs.length / 32 + 1) 0 128 (bs.drop 128)

/-- The structure checks of the header for a load of target `t` (R21, R43). -/
def headerChecks (bs : List Byte) (t : Nat) : List Check :=
  let full := decide (t = 255)
  let c := fun (code off : Nat) (ok : Bool) => (⟨code, 0xFFFF, off, ok⟩ : Check)
  [ c 0x10 0 (slice bs 0 4 == [0x4C, 0x4E, 0x50, 0x54]),
    c 0x10 4 (fld bs 4 2 == 1),
    c 0x10 6 (fld bs 6 1 == if full then 1 else 2),
    c 0x10 7 (imageTarget bs == t),
    c 0x11 8 (decide (imageTotal bs ≤ imageLimit t ∧ imageTotal bs % 16 = 0 ∧ imageTotal bs = bs.length)),
    c 0x15 0x0C (fld bs 0x0C 2 != 0),
    c 0x10 0x0E (fld bs 0x0E 2 == 0xB1),
    c 0x15 0x18 (decide (10000 ≤ imageWindow bs ∧ imageWindow bs ≤ 86400000)),
    c 0x15 0x1C (decide (imageSigner bs ≤ 7)),
    c 0x15 0x20 (!full || imageBase bs == List.replicate 32 0) ]

/-! ### Structure stage (R24 to R36) -/

/-- Roles 0x01 and 0x03 have tails. -/
def hasTail (role : Nat) : Bool := decide (role = 1 ∨ role = 3)

def moduleChecks (r : RawPiece) : List Check :=
  [r.range 0x14 4 1000 60000, r.range 0x18 4 0 3600, r.range 0x1C 4 1000 6000, r.range 0x20 4 0 20000]

def partChecks (r : RawPiece) : List Check :=
  let role := r.f 0x10 1
  let cache := decide (role = 2)
  let tail := r.f 0x18 4
  [ r.range 0x10 1 0 3, r.range 0x11 1 0 63, r.range 0x12 1 0 80,
    if cache then r.range 0x13 1 1 2 else r.range 0x13 1 0 0,
    r.check 0x15 0x18 (if hasTail role then decide (tail % 64 = 0 ∧ tail ≤ 262144) else tail == 0) ]

def modelChecks (r : RawPiece) : List Check :=
  [r.range 0x11 1 1 5, r.range 0x14 1 0 8, r.range 0x15 1 1 255, r.range 0x16 1 1 16, r.range 0x17 1 0 2]

/-- Last classes (R29): capacities rise strictly; a mixed pair of formats fails too (R119). -/
def classChecks (r : RawPiece) : List Check :=
  let n := r.f 0x10 1
  let cap := fun k => r.f (0x20 + 4 * k) 4
  [ r.range 0x10 1 1 16, r.range 0x11 1 1 2, r.range 0x12 1 1 2,
    r.check 0x15 0x12 (r.f 0x11 1 == r.f 0x12 1) ]
  ++ (List.range 16).map fun k => r.check 0x15 (0x20 + 4 * k)
      (if k < n then decide (cap k % 64 = 0 ∧ cap k ≤ 262144 ∧ (k = 0 ∨ cap (k - 1) < cap k))
        else cap k == 0)

def laneChecks (r : RawPiece) : List Check :=
  r.entries.flatMap fun o =>
    [ r.range o 2 0 4095, r.range (o + 2) 1 0 3,
      r.check 0x15 (o + 8) (decide (r.f (o + 8) 1 ≤ 31 ∨ r.f (o + 8) 1 = 255)) ]

def counterChecks (r : RawPiece) : List Check :=
  [r.check 0x15 0x14 (decide (r.f 0x10 4 + r.f 0x14 4 ≤ 65536))]

def roundaboutChecks (r : RawPiece) : List Check :=
  let n := r.f 0x12 2
  [r.range 0x10 1 0 15, r.range 0x12 2 1 1024]
  ++ r.entries.flatMap fun o => [r.check 0x15 o (decide (r.f o 2 < n)), r.range (o + 8) 4 64 1048576]

def tollChecks (r : RawPiece) : List Check :=
  r.entries.flatMap fun o =>
    [r.range o 2 0 4095, r.range (o + 2) 1 0 2, r.range (o + 0x18) 4 1 0xFFFF_FFFF]

def crossingChecks (r : RawPiece) : List Check :=
  [r.range 0x10 1 0 63, r.range 0x11 1 1 64, r.range 0x12 1 0 1]
  ++ r.entries.map fun o => r.range o 4 100 0xFFFF_FFFF

/-- Placement (R35): a region lies below the bench window (R295), which START shows first. -/
def placementChecks (r : RawPiece) : List Check :=
  r.entries.flatMap fun o =>
    let start := r.f (o + 8) 8
    let len := r.f (o + 0x10) 8
    [ r.range o 1 1 4, r.range (o + 1) 1 0 5,
      r.check 0x15 (o + 2) (r.f (o + 1) 1 == 1 || r.f (o + 2) 1 == 255),
      r.check 0x15 (o + 8) (decide (start % 65536 = 0 ∧ start + len ≤ 0xF000_0000_0000)),
      r.check 0x15 (o + 0x10) (decide (len % 65536 = 0 ∧ 65536 ≤ len)) ]

/-- The checks on the fields of a piece's body. -/
def bodyChecks (r : RawPiece) : List Check :=
  match r.type with
  | 1 => moduleChecks r
  | 2 => partChecks r
  | 3 => modelChecks r
  | 4 => classChecks r
  | 5 => laneChecks r
  | 6 => counterChecks r
  | 7 => roundaboutChecks r
  | 8 => tollChecks r
  | 9 => crossingChecks r
  | 0x0A => placementChecks r
  | _ => []

/-- The structure checks of one piece, header fields first. -/
def pieceChecks (r : RawPiece) : List Check :=
  let wide := decide (r.type = 1 ∨ r.type = 4)
  [ r.check 0x14 0 (typeOk r.type), r.check 0x13 4 r.lengthOk,
    r.check 0x15 8 (if wide then r.owner == 255 else decide (r.owner ≤ 63)) ]
  ++ bodyChecks r

/-- How many pieces of a type there are. -/
def countType (ps : List RawPiece) (t : Nat) : Nat := (ps.filter fun r => decide (r.type = t)).length

/-- Two Partition pieces of one owner. -/
def partTwice : List RawPiece → Bool
  | [] => false
  | r :: rest => (decide (r.type = 2) && rest.any fun x => decide (x.type = 2 ∧ x.owner = r.owner)) || partTwice rest

/-- The counts of Table 02-3 hold. -/
def countsOk (full : Bool) (ps : List RawPiece) : Bool :=
  let n := countType ps
  if full then decide (n 1 = 1 ∧ n 3 ≤ 256 ∧ n 4 ≤ 1 ∧ n 7 ≤ 16 ∧ n 9 ≤ 64) && !partTwice ps
  else decide (n 1 = 0 ∧ n 2 = 1 ∧ n 4 = 0)

/-- The structure stage. -/
def structureChecks (bs : List Byte) (t : Nat) (ps : List RawPiece) : List Check :=
  headerChecks bs t ++ ps.flatMap pieceChecks
  ++ [⟨0x13, 0xFFFF, 0x0C, ps.length == fld bs 0x0C 2⟩, ⟨0x14, 0xFFFF, 0x0C, countsOk (decide (t = 255)) ps⟩]

/-! ### The pattern that the pieces spell -/

/-- A mask of `n` bytes. -/
def readModule (r : RawPiece) : ModulePiece :=
  { ports := r.f 0x10 4, lease := r.f 0x14 4, grace := r.f 0x18 4, powerCap := r.f 0x1C 4, ramp := r.f 0x20 4
    flags := r.f 0x24 4 % 8, spareGroup := r.f 0x28 2 }

def readPart (r : RawPiece) : PartPiece :=
  { role := r.f 0x10 1, tenant := r.f 0x11 1, insoleMax := r.f 0x12 1, mirror := r.f 0x13 1
    ddrMask := r.f 0x14 2, tail := r.f 0x18 4, powerCap := r.f 0x1C 4
    blockMask := r.f 0x20 16 % 2 ^ 80, hbmMask := r.f 0x30 48, modelMask := r.f 0x60 32 }

def readModel (r : RawPiece) : ModelPiece :=
  { owner := r.owner, model := r.f 0x10 1, format := r.f 0x11 1, draft := r.f 0x12 1, fallback := r.f 0x13 1
    draftMax := r.f 0x14 1, layers := r.f 0x15 1, kvHeads := r.f 0x16 1, head := r.f 0x17 1
    weightBytes := r.f 0x18 8, digest := slice r.bytes 0x20 32 }

def readClasses (r : RawPiece) : LastClasses :=
  { keyFormat := r.f 0x11 1, valueFormat := r.f 0x12 1
    capacities := (List.range (r.f 0x10 1)).map fun k => r.f (0x20 + 4 * k) 4 }

def readLanes (r : RawPiece) : List LaneEntry :=
  r.entries.map fun o =>
    { owner := r.owner, lane := r.f o 2, kind := r.f (o + 2) 1, stale := r.f (o + 4) 4, vector := r.f (o + 8) 1 }

def readRoundabout (r : RawPiece) : RaPiece :=
  { owner := r.owner, number := r.f 0x10 1
    queues := r.entries.map fun o =>
      { queue := r.f o 2, lane := r.f (o + 2) 2, parent := r.f (o + 4) 2, quantum := r.f (o + 8) 4 } }

def readTolls (r : RawPiece) : List TollEntry :=
  r.entries.map fun o =>
    { owner := r.owner, customer := r.f o 2, mode := r.f (o + 2) 1, depth := r.f (o + 8) 8
      refill := r.f (o + 0x10) 8, interval := r.f (o + 0x18) 4 }

def readCrossing (r : RawPiece) : XPiece :=
  { owner := r.owner, list := r.f 0x10 1, align := r.f 0x12 1
    entries := r.entries.map fun o =>
      { duration := r.f o 4, opens := r.f (o + 4) 2, signal := (r.f (o + 6) 1).testBit 0, counter := r.f (o + 8) 2 } }

def readPlaces (r : RawPiece) : List PlaceEntry :=
  r.entries.map fun o =>
    { owner := r.owner, tier := r.f o 1, use := r.f (o + 1) 1, model := r.f (o + 2) 1
      pinned := (r.f (o + 3) 1).testBit 0, start := r.f (o + 8) 8, length := r.f (o + 0x10) 8 }

def readProgram (r : RawPiece) : ProgPiece :=
  { owner := r.owner, slot := r.f 0x10 1, length := r.f 0x18 8, digest := slice r.bytes 0x20 32
    image := slice r.bytes 0x40 (r.f 0x18 8) }

/-- The pieces of one type. -/
def ofType (ps : List RawPiece) (t : Nat) : List RawPiece := ps.filter fun r => decide (r.type = t)

/-- The pattern of an image. -/
def patternOf (bs : List Byte) (ps : List RawPiece) : Pattern :=
  { serial := imageSerial bs, window := imageWindow bs, target := imageTarget bs, totalLength := imageTotal bs
    baseDigest := imageBase bs, bodyDigest := imageBody bs
    module := ((ofType ps 1).map readModule).head?
    parts := (ofType ps 2).foldl (fun m r => m.put r.owner (readPart r)) []
    models := (ofType ps 3).map readModel
    lastClasses := ((ofType ps 4).map readClasses).head?
    lanes := (ofType ps 5).flatMap readLanes
    counters := (ofType ps 6).map fun r => { owner := r.owner, first := r.f 0x10 4, count := r.f 0x14 4 }
    roundabouts := (ofType ps 7).map readRoundabout
    tollgates := (ofType ps 8).flatMap readTolls
    crossings := (ofType ps 9).map readCrossing
    placements := (ofType ps 0x0A).flatMap readPlaces
    programs := (ofType ps 0x0B).map readProgram }

/-- What a pattern defines for partitions other than `t`. -/
def withoutPart (pt : Pattern) (t : Nat) : Pattern :=
  { pt with
    parts := pt.parts.del t
    models := pt.models.filter fun x => decide (x.owner ≠ t)
    lanes := pt.lanes.filter fun x => decide (x.owner ≠ t)
    counters := pt.counters.filter fun x => decide (x.owner ≠ t)
    roundabouts := pt.roundabouts.filter fun x => decide (x.owner ≠ t)
    tollgates := pt.tollgates.filter fun x => decide (x.owner ≠ t)
    crossings := pt.crossings.filter fun x => decide (x.owner ≠ t)
    placements := pt.placements.filter fun x => decide (x.owner ≠ t)
    programs := pt.programs.filter fun x => decide (x.owner ≠ t) }

/-- The Model pieces that other partitions than `t` name and go on with when partition `t` is restructured to
`n`: those that the new pattern no longer has as they run them (R63). -/
def modelsHeld (base n : Pattern) (t : Nat) : List (Nat × ModelPiece) :=
  (base.parts.filter fun kv => decide (kv.1 ≠ t)).flatMap fun kv =>
    (maskBits kv.2.modelMask 256).filterMap fun m =>
      let old := base.modelFor kv.1 m
      let new := ((base.models.filter fun x => decide (x.owner ≠ t)) ++ n.models).find? fun x => decide (x.model = m)
      if old = new then none else old.map fun x => (kv.1, x)

/-- A running pattern with the partial pattern `n` for partition `t` applied to it (R59, R63). -/
def applyPartial (base n : Pattern) (t : Nat) : Pattern :=
  let b := withoutPart base t
  { b with
    parts := n.parts.foldl (fun m kv => m.put kv.1 kv.2) b.parts
    models := b.models ++ n.models
    heldModels := modelsHeld base n t
    lanes := b.lanes ++ n.lanes
    counters := b.counters ++ n.counters
    roundabouts := b.roundabouts ++ n.roundabouts
    tollgates := b.tollgates ++ n.tollgates
    crossings := b.crossings ++ n.crossings
    placements := b.placements ++ n.placements
    programs := b.programs ++ n.programs }

/-! ### Cross-reference stage -/

/-- Walk a list with the elements before each. -/
def withBefore {α : Type} : List α → List α → List (List α × α)
  | _, [] => []
  | before, x :: r => (before, x) :: withBefore (before ++ [x]) r

/-- What the later stages need: the load's target, what stands outside the image (for a partial pattern the
running pattern without its target), what the target held, and the whole pattern that would run. -/
structure Ctxt where
  target : Nat
  held : Option PartPiece
  base : Pattern
  whole : Pattern
  deriving DecidableEq, Repr

/-- DRAFT and FALLBACK of a model, where not 0xFF. -/
def helpers (m : ModelPiece) : List Nat := [m.draft, m.fallback].filter (· ≠ 255)

/-- A mask that names a model also names its draft and fallback (R28). -/
def maskServes (mask : Nat) (m : ModelPiece) : Bool := !mask.testBit m.model || (helpers m).all mask.testBit

def definesModel (k : Ctxt) (m : Nat) : Bool := k.whole.models.any fun x => decide (x.model = m)

/-- MODEL_MASK of a Partition piece: each bit names a model, the models found before it have their draft and
fallback in the mask, and with a partial pattern every mask of the other partitions still names models. -/
def xrefPart (k : Ctxt) (before : List RawPiece) (r : RawPiece) : List Check :=
  let mask := r.f 0x60 32
  let earlier := k.base.models ++ (ofType before 3).map readModel
  let others := k.base.parts.all fun kv => (maskBits kv.2.modelMask 256).all (definesModel k)
  [r.check 0x20 0x60 ((maskBits mask 256).all (definesModel k) && earlier.all (maskServes mask) && others)]

/-- DRAFT and FALLBACK of a Model piece name models, and the masks found before it that name the model also
name them. -/
def xrefModel (k : Ctxt) (before : List RawPiece) (r : RawPiece) : List Check :=
  let m := r.f 0x10 1
  let masks := k.base.parts.map (·.2.modelMask) ++ (ofType before 2).map fun x => x.f 0x60 32
  [0x12, 0x13].map fun o =>
    let v := r.f o 1
    r.check 0x20 o (v == 255 || (definesModel k v && masks.all fun w => !w.testBit m || w.testBit v))

/-- The owner of a lane, as the entries of a list give it. -/
def laneOwner (l : List LaneEntry) (n : Nat) : Option Nat := (l.find? fun e => decide (e.lane = n)).map (·.owner)

/-- The lane entries of a Lanes piece: a Roundabout queue found before must not feed on another's lane. -/
def xrefLanes (before : List RawPiece) (r : RawPiece) : List Check :=
  let fed := (ofType before 7).flatMap fun x => (readRoundabout x).queues.map fun q => (q.lane, x.owner)
  r.entries.map fun o => r.check 0x21 o (fed.all fun q => q.1 != r.f o 2 || q.2 == r.owner)

/-- LANE and PARENT of a Roundabout's queues. -/
def xrefRoundabout (k : Ctxt) (before : List RawPiece) (r : RawPiece) : List Check :=
  let queues := (readRoundabout r).queues.map (·.queue)
  let known := k.base.lanes ++ (ofType before 5).flatMap readLanes
  r.entries.flatMap fun o =>
    let lane := r.f (o + 2) 2
    let parent := r.f (o + 4) 2
    [ r.check 0x20 (o + 2) ((laneOwner k.whole.lanes lane).isSome),
      r.check 0x21 (o + 2) (match laneOwner known lane with
        | none => true
        | some w => w == r.owner),
      r.check 0x20 (o + 4) (parent == 0xFFFF || queues.contains parent) ]

/-- OPEN bits of a Crossing list name Roundabouts of its owner (R278). -/
def xrefCrossing (k : Ctxt) (r : RawPiece) : List Check :=
  let own := (k.whole.roundabouts.filter fun x => decide (x.owner = r.owner)).map (·.number)
  r.entries.map fun o => r.check 0x20 (o + 4) ((maskBits (r.f (o + 4) 2) 16).all own.contains)

/-- MODEL of a weights region names a model; 0xFF in HBM names a swap slot (08, Contexts and resident
models). -/
def xrefPlacement (k : Ctxt) (r : RawPiece) : List Check :=
  r.entries.map fun o =>
    let m := r.f (o + 2) 1
    r.check 0x20 (o + 2) (r.f (o + 1) 1 != 1 || definesModel k m || (m == 255 && r.f o 1 == 1))

/-- The cross-reference checks of one piece. -/
def xrefPiece (k : Ctxt) (before : List RawPiece) (r : RawPiece) : List Check :=
  let wide := decide (r.type = 1 ∨ r.type = 4)
  [ r.check 0x20 8 (wide || k.whole.parts.has r.owner),
    r.check 0x22 8 (k.target == 255 || r.owner == k.target) ]
  ++ match r.type with
    | 2 => xrefPart k before r
    | 3 => xrefModel k before r
    | 5 => xrefLanes before r
    | 7 => xrefRoundabout k before r
    | 9 => xrefCrossing k r
    | 0x0A => xrefPlacement k r
    | _ => []

/-- Following parents from `q` among a list of queues comes back to `start`. -/
def parentLoops (qs : List RaQueue) (start : Nat) : Nat → Nat → Bool
  | 0, _ => false
  | fuel + 1, q =>
    if q = start then true
    else match qs.find? fun x => decide (x.queue = q) with
      | none => false
      | some x => parentLoops qs start fuel x.parent

/-- No queue of a Roundabout closes a cycle with those before it. -/
def cycleChecks (r : RawPiece) : List Check :=
  (withBefore [] ((readRoundabout r).queues.zip r.entries)).map fun x =>
    let qs := (x.1 ++ [x.2]).map (·.1)
    r.check 0x21 (x.2.2 + 4) (!parentLoops qs x.2.1.queue (qs.length + 1) x.2.1.parent)

/-- The cross-reference stage. `stopped`: the target of a partial pattern is stopped; `digest`: BODY_DIGEST of
the running full pattern. -/
def xrefChecks (bs : List Byte) (k : Ctxt) (stopped : Bool) (digest : Option (List Byte)) (ps : List RawPiece) :
    List Check :=
  let full := decide (k.target = 255)
  [ ⟨0x22, 0xFFFF, 7, full || stopped⟩, ⟨0x22, 0xFFFF, 0x20, full || digest == some (imageBase bs)⟩ ]
  ++ (withBefore [] ps).flatMap (fun x => xrefPiece k x.1 x.2)
  ++ (ofType ps 7).flatMap cycleChecks

/-! ### Resource-sum stage -/

/-- The total LENGTH of regions in a tier. -/
def tierTotal (l : List PlaceEntry) (tier : Nat) : Nat :=
  ((l.filter fun e => decide (e.tier = tier)).map (·.length)).foldl (· + ·) 0

/-- The placement entries of a list of pieces that belong to one owner. -/
def placesOf (ps : List RawPiece) (owner : Nat) : List PlaceEntry :=
  ((ofType ps 0x0A).flatMap readPlaces).filter fun e => decide (e.owner = owner)

/-- The partitions that the walk has met, with those outside the image: their channels as capacities count them
(R293, R38). -/
def knownParts (k : Ctxt) (met : List RawPiece) : Pattern :=
  { parts := (ofType met 2).foldl (fun m r => m.put r.owner (readPart r)) k.base.parts }

/-- The regions that the walk has met fit the capacity of their owner in a tier, for every owner whose channels
are known (R35, R38). -/
def regionsFit (cap : Pattern → Nat → Nat → Nat) (k : Ctxt) (met : List RawPiece) (tier : Nat) : Bool :=
  let known := knownParts k met
  known.parts.all fun kv => decide (tierTotal
    ((k.base.placements.filter fun e => decide (e.owner = kv.1)) ++ placesOf met kv.1) tier ≤ cap known kv.1 tier)

/-- A Partition piece's DDR5 channels stand in no other tenant's mask, its blocks and HBM channels in no
other partition's, it has some of each, and the regions found before it fit the channels of their owners, whose
shares of a DDR5 channel it may make smaller (R35, R38, R293). A partial pattern takes no DDR5 channel that
another partition holds (R59). -/
def sumPart (cap : Pattern → Nat → Nat → Nat) (k : Ctxt) (before : List RawPiece) (r : RawPiece) : List Check :=
  let x := readPart r
  let others := k.base.parts.map (·.2) ++ (ofType before 2).map readPart
  let kept := (k.held.map (·.ddrMask)).getD 0
  let taken := x.ddrMask ^^^ (x.ddrMask &&& kept)
  [ r.check 0x30 0x14 (k.base.parts.all fun kv => kv.2.ddrMask &&& taken == 0),
    r.check 0x32 0x14 (others.all fun y => y.tenant == x.tenant || y.ddrMask &&& x.ddrMask == 0),
    r.check 0x33 0x14 (regionsFit cap k (before ++ [r]) 2),
    r.check 0x30 0x20 (others.all fun y => y.blockMask &&& x.blockMask == 0),
    r.check 0x33 0x20 (x.blockMask != 0),
    r.check 0x30 0x30 (others.all fun y => y.hbmMask &&& x.hbmMask == 0),
    r.check 0x33 0x30 (x.hbmMask != 0),
    r.check 0x33 0x30 (regionsFit cap k (before ++ [r]) 1) ]

/-- Entries that repeat a number: those of a list before them. -/
def repeats (l : List Nat) (seen : List Nat) : List Bool :=
  match l with
  | [] => []
  | x :: r => seen.contains x :: repeats r (x :: seen)

/-- No entry repeats a number that stands before it. -/
def sumOnce (r : RawPiece) (numbers offs seen : List Nat) : List Check :=
  (offs.zip (repeats numbers seen)).map fun x => r.check 0x30 x.1 (!x.2)

/-- Two ranges meet. -/
def meets (a n b m : Nat) : Bool := decide (a < b + m ∧ b < a + n ∧ n ≠ 0 ∧ m ≠ 0)

/-- The regions of USE 0x05 among a list. -/
def imageRegions (l : List PlaceEntry) : Nat := (l.filter fun e => decide (e.use = 5)).length

/-- Regions of USE 0x05 of the piece's owner stand in later pieces: those that count are not all in `before` and
in the piece itself. -/
def laterImages (k : Ctxt) (before : List RawPiece) (r : RawPiece) : Bool :=
  let here := if r.type = 0x0A then readPlaces r else []
  let outside := imageRegions (k.base.placements.filter fun e => decide (e.owner = r.owner))
  decide (outside + imageRegions (placesOf before r.owner) + imageRegions here
    < imageRegions (k.whole.placements.filter fun e => decide (e.owner = r.owner)))

/-- Placement entries of one owner do not overlap, and fit the capacity of their tier and hold the weights
where the Partition and the Model piece stand before them; with the last region of USE 0x05 the images found before
it have their places (R35, R37, R38). -/
def sumPlacement (cap : Pattern → Nat → Nat → Nat) (k : Ctxt) (before : List RawPiece) (r : RawPiece) : List Check :=
  let mine := placesOf before r.owner
  let known := knownParts k before
  let models := k.base.models ++ (ofType before 3).map readModel
  (withBefore [] ((readPlaces r).zip r.entries)).flatMap fun x =>
    let had := mine ++ x.1.map (·.1)
    let e := x.2.1
    let o := x.2.2
    let need := ((models.find? fun m => decide (m.model = e.model)).map (·.weightBytes)).getD 0
    let images := ((ofType before 0x0B).map readProgram).filter fun g => decide (g.owner = r.owner)
    let last := decide (e.use = 5) && !((readPlaces r).drop (x.1.length + 1)).any (fun y => y.use == 5)
      && !laterImages k before r
    [ r.check 0x30 (o + 8) (had.all fun y => !meets e.start e.length y.start y.length),
      r.check 0x33 (o + 0x10)
        (!known.parts.has r.owner || decide (2 < e.tier) || decide (tierTotal (had ++ [e]) e.tier ≤ cap known r.owner e.tier)),
      r.check 0x33 (o + 0x10) (e.use != 1 || decide (need ≤ e.length)),
      r.check 0x33 (o + 0x10) (!last || (programsOf k.whole.placements images r.owner).isSome) ]

/-- A Model piece's number is new, and the weights regions found before it hold its weights (R35, R38). -/
def sumModel (k : Ctxt) (before : List RawPiece) (r : RawPiece) : List Check :=
  let m := r.f 0x10 1
  let placed := k.base.placements ++ (ofType before 0x0A).flatMap readPlaces
  sumOnce r [m] [0x10] (k.base.models.map (·.model) ++ (ofType before 3).map fun x => x.f 0x10 1)
  ++ [r.check 0x33 0x18 (placed.all fun e => e.use != 1 || e.model != m || decide (r.f 0x18 8 ≤ e.length))]

/-- A Program piece's slot is new, and its image and those found before it have their places in the regions of USE
0x05, where all of these stand before it (R37, R38). -/
def sumProgram (k : Ctxt) (before : List RawPiece) (r : RawPiece) : List Check :=
  let slot := r.f 0x10 1
  let seen := ((ofType before 0x0B).filter fun x => decide (x.owner = r.owner)).map fun x => x.f 0x10 1
  let upTo := ((ofType before 0x0B ++ [r]).map readProgram).filter fun x => decide (x.owner = r.owner)
  [ r.check 0x30 0x10 (!seen.contains slot),
    r.check 0x33 0x18 (laterImages k before r || (programsOf k.whole.placements upTo r.owner).isSome) ]

/-- The resource-sum checks of one piece. -/
def sumPiece (cap : Pattern → Nat → Nat → Nat) (k : Ctxt) (before : List RawPiece) (r : RawPiece) : List Check :=
  match r.type with
  | 2 => sumPart cap k before r
  | 3 => sumModel k before r
  | 5 => sumOnce r ((readLanes r).map (·.lane)) r.entries
      ((k.base.lanes ++ (ofType before 5).flatMap readLanes).map (·.lane))
  | 6 =>
    let had := k.base.counters.map (fun c => (c.first, c.count)) ++ (ofType before 6).map fun x => (x.f 0x10 4, x.f 0x14 4)
    [r.check 0x30 0x10 (had.all fun y => !meets (r.f 0x10 4) (r.f 0x14 4) y.1 y.2)]
  | 7 => sumOnce r [r.f 0x10 1] [0x10] (k.base.roundabouts.map (·.number) ++ (ofType before 7).map fun x => x.f 0x10 1)
  | 8 => sumOnce r ((readTolls r).map (·.customer)) r.entries
      ((k.base.tollgates ++ (ofType before 8).flatMap readTolls).map (·.customer))
  | 9 => sumOnce r [r.f 0x10 1] [0x10] (k.base.crossings.map (·.list) ++ (ofType before 9).map fun x => x.f 0x10 1)
  | 0x0A => sumPlacement cap k before r
  | 0x0B => sumProgram k before r
  | _ => []

/-- What a piece adds to the totals of check 0x31: the field it is found at, the amount, the limit. -/
def totalOf (r : RawPiece) : Nat × Nat :=
  match r.type with
  | 5 => (r.entries.length, 4096)
  | 6 => (r.f 0x14 4, 65536)
  | 7 => (1, 16)
  | 8 => (r.entries.length, 4096)
  | 9 => (1, 64)
  | _ => (0, 0)

/-- What stands outside the image of the kind that a TYPE counts. -/
def baseTotal (b : Pattern) (type : Nat) : Nat :=
  if type = 5 then b.lanes.length
  else if type = 6 then (b.counters.map (·.count)).foldl (· + ·) 0
  else if type = 7 then b.roundabouts.length
  else if type = 8 then b.tollgates.length
  else if type = 9 then b.crossings.length
  else 0

/-- The totals over the module (0x31). The field that PAT_FAULT names beside the piece is the first of its own
layout, offset 0x10, for every type (DESIGN CHOICE, notes/assumptions/59.md). -/
def totalChecks (k : Ctxt) (ps : List RawPiece) : List Check :=
  (withBefore [] ps).map fun x =>
    let t := x.2.type
    let sum := ((ofType (x.1 ++ [x.2]) t).map fun r => (totalOf r).1).foldl (· + ·) (baseTotal k.base t)
    x.2.check 0x31 0x10 (decide (sum ≤ (totalOf x.2).2) || !(decide (5 ≤ t ∧ t ≤ 9)))

/-- The sum of the partition caps (0x34). -/
def capChecks (k : Ctxt) (ps : List RawPiece) : List Check :=
  let limit := (k.whole.module.map (·.powerCap)).getD 0
  let had := (k.base.parts.map (·.2.powerCap)).foldl (· + ·) 0
  (withBefore [] (ofType ps 2)).map fun x =>
    let sum := ((x.1 ++ [x.2]).map fun r => r.f 0x1C 4).foldl (· + ·) had
    x.2.check 0x34 0x1C (decide (sum ≤ limit))

/-- The resource-sum stage; `cap` gives a partition's capacity in a tier under the partitions met. -/
def sumChecks (cap : Pattern → Nat → Nat → Nat) (k : Ctxt) (ps : List RawPiece) : List Check :=
  (withBefore [] ps).flatMap (fun x => sumPiece cap k x.1 x.2) ++ totalChecks k ps ++ capChecks k ps

/-! ### Signature stage (R22, R23, R38, R41) -/

/-- BODY_DIGEST as R22 computes it. -/
def bodyDigest (bs : List Byte) : List Byte :=
  let b := bs.take (sigStart bs)
  shake256 (b.take 0x40 ++ List.replicate (min 32 (b.length - 0x40)) 0 ++ b.drop 0x60) 32

/-- The signature stage: the keys of the slots, and the lowest SERIAL that passes; none where check 0x43 is
not made (R55). -/
def signatureChecks (bs : List Byte) (key : List Byte) (floor : Option Nat) (ps : List RawPiece) : List Check :=
  let at_ := sigStart bs
  [⟨0x40, 0xFFFF, 0x40, bodyDigest bs == imageBody bs⟩]
  ++ (ofType ps 0x0B).map (fun r => r.check 0x40 0x20 (shake256 (readProgram r).image 32 == (readProgram r).digest))
  ++ [ ⟨0x42, 0xFFFF, 0x1C, !key.isEmpty⟩,
       ⟨0x41, 0xFFFF, at_, xmssVerify key (imageBody bs) (slice bs at_ 2820)⟩,
       ⟨0x43, 0xFFFF, 0x10, match floor with
         | none => true
         | some f => decide (f ≤ imageSerial bs)⟩ ]

end Sys2Proof.Machine
end

