-- ==== Sys2Proof/Machine/Patterns.lean ====
section
/-! DEFINITION. The pattern loader: loading, validation, commit, open, confirm, stop and restoration
(02 R42 to R63, R399). -/

namespace Sys2Proof.Machine

/-! ### The loader's registers -/

/-- RECEIVED (Table 02-16). -/
def Loader.received (l : Loader) : Nat := l.staged.length

/-- A commit runs (R47). -/
def Loader.busy (l : Loader) : Bool := l.committing.isSome || l.waitingScrub

/-- PAT_STATUS (Table 02-16). -/
def patStatusWord (s : State) : Nat :=
  s.loader.received * 2 ^ 32 + s.loader.target * 2 ^ 16 + s.loader.status

/-- Set STATUS. -/
def setStatus (s : State) (c : Nat) : State := s.modLoader fun l => { l with status := c }

/-- A loader command through its BAR0 register at `off`, or through PATTERN, which answers PAT_STATUS
(R42, R399). Its payload is 16 bytes before the image bytes of a CHUNK, 4,080 less 4,064 (R396, R398). -/
def viaLoader (s : State) (via : Via) (off : Nat) (f : State → State) : State :=
  match via with
  | .bar0 fn => globalWrite s (.host fn) (0x1_0000 + off) f
  | .mgmt m => control s m 0x10 true (some 16) fun s =>
    let s := f s
    (0, leBytes 8 (patStatusWord s), s)

/-! ### Slots (R54) -/

def getSlot (l : Loader) (b : Bool) : Slot := if b then l.slotB else l.slotA
def putSlot (l : Loader) (b : Bool) (x : Slot) : Loader := if b then { l with slotB := x } else { l with slotA := x }

/-- SERIAL of a slot, 0 where nothing is kept. -/
def Slot.serial (x : Slot) : Nat := (x.kept.map (·.serial)).getD 0
def Slot.count (x : Slot) : Nat := (x.kept.map (·.count)).getD 0

/-- BODY_DIGEST of the image a slot keeps. -/
def Slot.digest (x : Slot) : List Byte := (x.kept.map fun k => imageBody k.image).getD []

/-- Slot `a` comes before slot `b` as the newest confirmed: a higher SERIAL, or an equal one confirmed
later. -/
def newerSlot (a b : Slot) : Bool := decide (b.serial < a.serial ∨ (a.serial = b.serial ∧ b.count < a.count))

/-- The confirmed slots, the newest first; true is slot B. -/
def confirmedSlots (l : Loader) : List Bool :=
  match decide (l.slotA.state = 2), decide (l.slotB.state = 2) with
  | false, false => []
  | true, false => [false]
  | false, true => [true]
  | true, true => if newerSlot l.slotB l.slotA then [true, false] else [false, true]

/-- The slot that a full commit writes. -/
def writeSlot (l : Loader) : Bool :=
  match (confirmedSlots l).head? with
  | some b => !b
  | none =>
    if l.slotA.state = 1 then false
    else if l.slotB.state = 1 then true
    else if l.slotA.state = 3 then false
    else decide (l.slotB.state = 3)

/-- The slot of the running full pattern. -/
def runningSlot (l : Loader) : Option Bool :=
  if l.slotA.running then some false else if l.slotB.running then some true else none

/-- PAT_PARTIAL_FLOOR of partition `p` (R41). -/
def partialFloor (l : Loader) (p : Nat) : Nat :=
  ((runningSlot l).map fun b => (getSlot l b).floors.at p 0).getD 0

/-- Partial floors that a full image with this BODY_DIGEST starts with: those kept for the same digest. -/
def floorsFor (l : Loader) (digest : List Byte) : KMap Nat :=
  if l.slotA.digest == digest then l.slotA.floors
  else if l.slotB.digest == digest then l.slotB.floors
  else []

/-! ### Failure (R49) -/

/-- The load ends with a failure code: FAILED is set, and the module or the target partition, be it defined or
not, is Held.
PAT_FAULT names a piece and a field where a check gives them. -/
def loadFailed (s : State) (code : Nat) (at_ : Option (Nat × Nat)) : State :=
  let t := s.loader.target
  let s := s.upd fun s => s.modLoader fun l => { l with
    receiving := false
    chunks := []
    committing := none
    waitingScrub := false
    status := code
    faultPiece := (at_.map (·.1)).getD l.faultPiece
    faultOffset := (at_.map (·.2)).getD l.faultOffset
    events := { l.events with failed := true } }
  if t = 255 then portsRest (setModState s 4) else setCode s t 4

/-! ### BEGIN, chunks, ABORT (R43 to R45, R48) -/

/-- Partition `p` may be restructured: Patterned, Held or not defined. -/
def partStopped (s : State) (p : Nat) : Bool := decide (s.code p = 3 ∨ s.code p = 4 ∨ s.code p = 255)

/-- BEGIN. -/
def beginLoad (part : Nat) (s : State) : State :=
  let ok := if part = 255 then decide (s.regs.state = 2 ∨ s.regs.state = 4) else decide (part < 64) && partStopped s part
  if s.loader.busy then s
  else if !ok then setStatus s 7
  else s.modLoader fun l => { l with receiving := true, target := part, staged := [], chunks := [], status := 1 }

/-- PAT_BEGIN (R43, R44, R47). -/
def execPatBegin (via : Via) (part : Byte) (s : State) : Out :=
  .next (viaLoader s via 0 (beginLoad part.toNat))

/-- The next offset of the load (R45). -/
def Loader.nextOffset (l : Loader) : Nat := l.received + (l.chunks.map (·.length)).foldl (· + ·) 0

/-- TOTAL_LENGTH has been received. -/
def Loader.knowsTotal (l : Loader) : Bool := decide (12 ≤ l.received)

/-- A chunk is accepted (R45); a LENGTH outside the range of Table 02-15 is not (DESIGN CHOICE,
notes/assumptions/58.md). -/
def chunkOk (l : Loader) (offset length : Nat) : Bool :=
  decide (1 ≤ length ∧ length ≤ 1048576 ∧ offset = l.nextOffset ∧ offset + length ≤ imageLimit l.target)
    && (!l.knowsTotal || decide (offset + length ≤ imageTotal l.staged))

/-- The first chunk's bytes are there: RECEIVED rises, and TOTAL_LENGTH is checked as it arrives. -/
def takeChunk (s : State) (bs : List Byte) : State :=
  let knew := s.loader.knowsTotal
  let s := s.modLoader fun l => { l with staged := l.staged ++ bs, chunks := l.chunks.drop 1 }
  let l := s.loader
  let t := imageTotal l.staged
  if !knew ∧ l.knowsTotal ∧ (imageLimit l.target < t ∨ t % 16 ≠ 0 ∨ t < l.nextOffset) then
    loadFailed s 0x11 (some (0xFFFF, 8))
  else s

/-- Chunks whose bytes came with them are taken once those before them are. -/
def drainChunks : Nat → State → State
  | 0, s => s
  | fuel + 1, s =>
    match s.loader.chunks with
    | { bytes := some bs, .. } :: _ => drainChunks fuel (takeChunk s bs)
    | _ => s

/-- PAT_CHUNK: `bytes` comes with the management path; by BAR0 the fetch starts, from PAT_CHUNK_ADDR in host
memory (R45, Table 02-13). -/
def chunkWrite (offset length : Nat) (bytes : Option (List Byte)) (s : State) : State :=
  let l := s.loader
  if l.busy then s
  else if !l.receiving then setStatus s 7
  else if !chunkOk l offset length then loadFailed s 0x11 none
  else
    let s := s.modLoader fun l => { l with chunks := l.chunks ++ [{ offset := offset, length := length, bytes := bytes }] }
    let s := if bytes.isNone then s.emit (.hostRead (l.chunkAddr.toNat / 64 * 64) length) else s
    drainChunks s.loader.chunks.length s

/-- PAT_CHUNK (R45, R47): a PATTERN message holds at most 4,064 image bytes. -/
def execPatChunk (via : Via) (offset length : BitVec 32) (bytes : List Byte) (s : State) : Out :=
  match via with
  | .bar0 _ => .next (viaLoader s via 0x18 (chunkWrite offset.toNat length.toNat none))
  | .mgmt m => .next (control s m 0x10 true (some (16 + bytes.length)) fun s =>
      if 4064 < bytes.length then plain 2 s
      else
        let s := chunkWrite offset.toNat bytes.length (some bytes) s
        (0, leBytes 8 (patStatusWord s), s))

/-- CHUNK_DONE (R45): the fetch of the oldest chunk has finished, or failed. -/
def execChunkDone (fetched : Option (List Byte)) (s : State) : Out :=
  match s.loader.chunks with
  | { length := n, bytes := none, .. } :: _ =>
    match fetched.filter fun bs => decide (bs.length = n) with
    | none => .next (loadFailed s 0x11 none)
    | some bs =>
      let s := s.upd fun s => s.modLoader fun l => { l with events := { l.events with chunkDone := true } }
      let s := takeChunk s bs
      .next (drainChunks s.loader.chunks.length s)
  | _ => .next s

/-- ABORT. -/
def abortLoad (s : State) : State :=
  if s.loader.busy then s
  else s.modLoader fun l => { l with receiving := false, staged := [], chunks := [], status := 0 }

/-- PAT_ABORT (R47, R48). -/
def execPatAbort (via : Via) (_part : Byte) (s : State) : Out := .next (viaLoader s via 0 abortLoad)

/-! ### Validation (R38 to R41) -/

/-- The four stages on an image for target `t`: the first failing check, if any, and the pattern. -/
def validate (s : State) (bs : List Byte) (t : Nat) (stopped : Bool) (floor : Option Nat) :
    Option Check × Pattern :=
  let ps := imagePieces bs
  let n := patternOf bs ps
  match firstFail (structureChecks bs t ps) with
  | some c => (some c, n)
  | none =>
    let running := s.pattern.getD {}
    let k : Ctxt := if t = 255 then { target := t, held := none, base := {}, whole := n }
      else { target := t, held := running.parts.find t, base := withoutPart running t, whole := applyPartial running n t }
    match firstFail (xrefChecks bs k stopped (s.pattern.map (·.bodyDigest)) ps) with
    | some c => (some c, n)
    | none =>
      match firstFail (sumChecks (tierCapacity s) k ps) with
      | some c => (some c, n)
      | none => (firstFail (signatureChecks bs (s.trust.slots.at (imageSigner bs) []) floor ps), n)

/-- The blocks, HBM and DDR5 channels being scrubbed: a partition's own, and those it released (R60, R450). -/
def inScrub (s : State) (p : Nat) : Nat × Nat × Nat :=
  let t := (s.part p).trust
  let own := if s.code p = 8 then s.piece p else none
  (t.freedBlocks ||| (own.map (·.blockMask)).getD 0, t.freedHbm ||| (own.map (·.hbmMask)).getD 0,
    t.freedDdr ||| (own.map (·.ddrMask)).getD 0)

/-- The image assigns a resource that is being scrubbed (R450). -/
def meetsScrub (s : State) (bs : List Byte) : Bool :=
  let mine := (ofType (imagePieces bs) 2).map readPart
  s.parts.any fun kv =>
    let y := inScrub s kv.1
    mine.any fun x => x.blockMask &&& y.1 != 0 || x.hbmMask &&& y.2.1 != 0 || x.ddrMask &&& y.2.2 != 0

/-! ### COMMIT (R46, R47, R51) -/

/-- Validation runs and, where it passes, the retained write starts; a partial load that assigns a resource
still being scrubbed waits first. -/
def runCommit (s : State) : State :=
  let l := s.loader
  let t := l.target
  let s := s.modLoader fun l => { l with receiving := false, status := 2, waitingScrub := true }
  if t ≠ 255 ∧ meetsScrub s l.staged then s
  else
    let floor := if t = 255 then l.serialFloor else max l.serialFloor (partialFloor l t)
    match validate s l.staged t (partStopped s t) (some floor) with
    | (some c, _) => loadFailed s c.code (some (c.piece, c.off))
    | (none, n) => s.modLoader fun l => { l with waitingScrub := false, committing := some n }

/-- COMMIT. -/
def commitLoad (s : State) : State :=
  let l := s.loader
  if l.busy then s
  else if !l.receiving then setStatus s 7
  else if !l.knowsTotal ∨ l.received ≠ imageTotal l.staged then setStatus s 5
  else runCommit s

/-- PAT_COMMIT (R38 to R41, R46, R47, R49). -/
def execPatCommit (via : Via) (_part : Byte) (s : State) : Out := .next (viaLoader s via 0 commitLoad)

/-- A commit that waited for a scrub goes on once no resource it assigns is being scrubbed (R450). -/
def resumeCommit (s : State) : State := if s.loader.waitingScrub then runCommit s else s

/-! ### Commit takes effect (R51, R59 to R61) -/

/-- Partition `p` of the committed pattern enters Patterned for the first time. -/
def newPart (s : State) (pt : Pattern) (p : Nat) : State :=
  let marked := match pt.parts.find p with
    | none => false
    | some x => holdsMarked s x
  enterPatterned (s.setPart p { code := 255, trust := { owed := marked } }) p

/-- A full pattern is committed: every partition is Patterned, and the queue pairs of those before are deleted. -/
def installFull (s : State) (n : Pattern) : State :=
  let s := s.parts.foldl (fun (s : State) kv => queuesFollow s kv.1 kv.2.mem {}) s
  let s := { s with pattern := some n, partials := [] }
  let s := n.parts.foldl (fun (s : State) (kv : Nat × PartPiece) => installPart s n kv.1) s
  n.parts.foldl (fun (s : State) (kv : Nat × PartPiece) => newPart s n kv.1) s

/-- What a mask holds and another does not. -/
def maskLeft (a b : Nat) : Nat := a ^^^ (a &&& b)

/-- The bytes of partition `p` that lie in HBM or DDR5 channels of these masks become zero, and their words good:
lines interleave as the pattern in force lays them (R60, R294). So do the bytes where no region lies any longer:
which channel they lie in is lost with the region (DESIGN CHOICE, notes/assumptions/38.md). -/
def zeroChannels (s : State) (p hbm ddr : Nat) : State :=
  let gone := fun (key : Nat) =>
    let off := key - p * 2 ^ 48
    decide (p * 2 ^ 48 ≤ key ∧ off < benchBase)
      && match regionAt s p off with
        | none => true
        | some r => onSled r && (if tierOf s p off = 2 then ddr else hbm).testBit (channelOf s p off)
  { s with
    mem := s.mem.filter fun c => !gone c.1
    badWords := s.badWords.filter fun w => !gone (32 * w) }

/-- What partition `p` releases by a partial pattern is scrubbed: its blocks at once, its channels until
SCRUB_DONE names the partition. Its bytes in a DDR5 channel that others go on holding are zeroed with them
(R60, R450, notes/assumptions/38.md). -/
def releaseParts (s : State) (p : Nat) (was now : Option PartPiece) : State :=
  let left := fun (f : PartPiece → Nat) => maskLeft ((was.map f).getD 0) ((now.map f).getD 0)
  let blocks := left (·.blockMask)
  let hbm := left (·.hbmMask)
  let given := left (·.ddrMask)
  let free := (maskBits given 16).filter fun n =>
    !(s.pattern.any fun pt => pt.parts.any fun kv => kv.1 != p && kv.2.ddrMask.testBit n)
  let ddr := (free.map (2 ^ ·)).foldl (· + ·) 0
  let s := (maskBits blocks 80).foldl clearBlock s
  let s := if hbm = 0 ∧ given = 0 then s else zeroChannels s p hbm given
  if hbm = 0 ∧ ddr = 0 then s
  else (markChannels s hbm ddr).modPTrust p fun t => { t with
    freedBlocks := t.freedBlocks ||| blocks, freedHbm := t.freedHbm ||| hbm, freedDdr := t.freedDdr ||| ddr }

/-- A model stays verified across a restructuring that changes neither its piece nor its weights (R442). -/
def keepVerified (old new : Pattern) (p m : Nat) : Bool :=
  let weights := fun (x : Pattern) => x.placements.filter fun e => decide (e.owner = p ∧ e.use = 1 ∧ e.model = m)
  decide ((old.models.filter fun x => decide (x.model = m)) = new.models.filter fun x => decide (x.model = m))
    && decide (weights old = weights new)

/-- The pages that stay migrated across a restructuring: those that may still migrate (R303), and that lie outside the
tier their placement names (R304). -/
def keepMoved (s : State) (p : Nat) (m : KMap Nat) : KMap Nat :=
  m.filter fun kv => mayMigrate s p kv.1 && decide ((regionAt s p (kv.1 * 65536)).any fun e => decide (e.tier ≠ kv.2))

/-- A partial pattern is committed: its target is restructured, through Scrubbing where TENANT changes (R59,
R60, R63). What the target held and holds no more is scrubbed. -/
def installPartial (s : State) (n : Pattern) (t : Nat) : State :=
  match s.pattern with
  | none => s
  | some old =>
    let new := applyPartial old n t
    let was := old.parts.find t
    let now := new.parts.find t
    let changed := match was, now with
      | some a, some b => decide (a.tenant ≠ b.tenant)
      | _, _ => false
    let s := releaseParts (removePart s t) t was now
    let s := { s with pattern := some new, partials := s.partials.put t (n.bodyDigest, n.totalLength, n.serial) }
    let s := installPart s new t
    let s := if s.regs.state = 5 ∨ s.regs.state = 7 then domainsOpen s else s
    match was with
    | none => newPart s new t
    | some _ =>
      let marked := (now.map (holdsMarked s)).getD false
      let mem := (s.part t).mem
      let kept := { mem with nbLocal := [], nbLender := [], nbOffset := [], nvLocal := [], nvDrive := [], nvLba := []
                             nvOverlap := 0, pageTier := keepMoved s t mem.pageTier }
      let s := (queuesFollow s t mem kept).modPart t fun x => { x with
        hostWindow := 0
        mem := kept
        trust := { x.trust with owed := x.trust.owed || marked
                                verified := x.trust.verified.filter (keepVerified old new t)
                                verifyFail := x.trust.verifyFail.filter fun kv => keepVerified old new t kv.1 } }
      if changed then startScrub s t 3 else enterPatterned s t

/-- The slot `b` runs, the other does not. -/
def runSlot (l : Loader) (b : Bool) : Loader :=
  { l with slotA := { l.slotA with running := !b }, slotB := { l.slotB with running := b } }

/-- The commit ends well: STATUS 0x03 and COMMITTED. -/
def committedStatus (s : State) : State :=
  s.upd fun s => s.modLoader fun l => { l with
    committing := none, status := 3, events := { l.events with committed := true } }

/-- The slot of a full commit takes the image as a trial, or is unreadable where the write failed. -/
def slotWritten (l : Loader) (n : Pattern) (ok : Bool) : Loader :=
  let b := writeSlot l
  let image : Kept := { image := l.staged, serial := n.serial, count := 0 }
  let x : Slot := if ok then { state := 1, kept := some image, floors := floorsFor l n.bodyDigest } else { state := 3 }
  putSlot l b x

/-- The retained write of a partial image is kept with the slot of the running pattern (R61). -/
def partialWritten (l : Loader) (n : Pattern) (t : Nat) : Loader :=
  match runningSlot l with
  | none => l
  | some b =>
    let x := getSlot l b
    let k := x.partials.at t {}
    let image : Kept := { image := l.staged, serial := n.serial, count := 0 }
    putSlot l b { x with partials := x.partials.put t { k with trial := some image } }

/-- COMMIT_FLASH_DONE (R51 steps 4 and 5, R59 to R61): in Cut and before Verified nothing is written. -/
def execCommitFlashDone (ok : Bool) (s : State) : Out :=
  match s.loader.committing with
  | none => .next s
  | some n =>
    let t := s.loader.target
    if s.regs.state ≤ 1 ∨ s.regs.state = 9 then .next s
    else if t = 255 then
      let b := writeSlot s.loader
      let s := s.modLoader fun l => slotWritten l n ok
      if !ok then .next (loadFailed s 0x50 none)
      else
        let s := s.modLoader fun l => { runSlot l b with
          fullTrial := some { serial := n.serial, window := n.window }, partialTrials := [] }
        .next (portsRest (setModState (committedStatus (installFull s n)) 3))
    else if !ok then .next (loadFailed s 0x50 none)
    else
      let s := s.modLoader fun l => { partialWritten l n t with
        partialTrials := l.partialTrials.put t { serial := n.serial, window := n.window } }
      .next (installPartial (committedStatus s) n t)

/-! ### CONFIRM (R52, R53, R61) -/

/-- When a trial's window runs out. -/
def Trial.ends (t : Trial) : Option Nat := t.openedAt.map (· + 1000 * t.window)

/-- The trial that CONFIRM for `part` is about. -/
def trialOf (l : Loader) (part : Nat) : Option Trial := if part = 255 then l.fullTrial else l.partialTrials.find part

/-- CONFIRM is accepted: a trial that has opened, its window running, its SERIAL named. -/
def confirmOk (s : State) (part : Nat) : Bool :=
  match trialOf s.loader part with
  | none => false
  | some t => !t.expired && decide (s.loader.arg.toNat = t.serial)
    && match t.ends with
      | none => false
      | some e => decide (s.now < e)

/-- The partial image on trial for a partition; none for the full pattern. -/
def trialImage (l : Loader) (part : Nat) : Option Kept :=
  if part = 255 then none else (runningSlot l).bind fun b => ((getSlot l b).partials.at part {}).trial

/-- This trial's CONFIRM has been accepted already. -/
def confirmAsked (l : Loader) (part : Nat) (image : Option Kept) : Bool :=
  (decide (l.confirming = some part) && decide (l.confirmImage = image)) || l.confirmWaiting.contains (part, image)

/-- CONFIRM: its flash record starts, or follows those before it. -/
def confirmLoad (part : Nat) (s : State) : State :=
  if !confirmOk s part then setStatus s 6
  else
    let image := trialImage s.loader part
    if confirmAsked s.loader part image then s
    else if s.loader.confirming.isSome then
      s.modLoader fun l => { l with confirmWaiting := l.confirmWaiting ++ [(part, image)] }
    else s.modLoader fun l => { l with confirming := some part, confirmImage := image }

/-- PAT_CONFIRM (R52, R61): BAR0 takes the SERIAL from PAT_ARG, PATTERN brings it as ARG. -/
def execPatConfirm (via : Via) (part : Byte) (arg : Word) (s : State) : Out :=
  match via with
  | .bar0 _ => .next (viaLoader s via 0 (confirmLoad part.toNat))
  | .mgmt _ => .next (viaLoader s via 0 fun s => confirmLoad part.toNat (s.modLoader fun l => { l with arg := arg }))

/-- A full confirm takes effect: slot STATE 2, serial floor, the partial floors of another digest are zero,
and the firmware floors rise (R41, R431). -/
def confirmFull (s : State) : State :=
  match runningSlot s.loader with
  | none => s
  | some b =>
    let s := s.modLoader fun l =>
      let x := getSlot l b
      let o := getSlot l !b
      let l := putSlot l b { x with state := 2, kept := x.kept.map fun k => { k with count := l.confirmCount + 1 } }
      let l := putSlot l (!b) { o with floors := if o.digest == x.digest then o.floors else [] }
      { l with confirmCount := l.confirmCount + 1, serialFloor := x.serial, fullTrial := none, status := 4 }
    s.modTrust fun t => { t with
      fwSvn := t.bootedSvn.foldl (fun m kv => m.put kv.1 (max (m.at kv.1 0) kv.2)) t.fwSvn }

/-- A partial confirm takes effect for the image that CONFIRM was about; a newer one on trial stays so. The floor
rises with both slots where they keep the same full pattern (R41, R61). -/
def confirmPartial (s : State) (p : Nat) (image : Kept) : State :=
  match runningSlot s.loader with
  | none => s
  | some b => s.modLoader fun l =>
    let x := getSlot l b
    let o := getSlot l !b
    let k := x.partials.at p {}
    let still := decide (k.trial = some image)
    let l := putSlot l b { x with
      partials := x.partials.put p { confirmed := some image, trial := if still then none else k.trial }
      floors := x.floors.put p image.serial }
    let l := putSlot l (!b) { o with
      floors := if o.digest == x.digest then o.floors.put p image.serial else o.floors }
    { l with partialTrials := if still then l.partialTrials.del p else l.partialTrials, status := 4 }

/-- The next accepted CONFIRM's record starts. -/
def nextConfirm (l : Loader) : Loader :=
  match l.confirmWaiting with
  | [] => { l with confirming := none, confirmImage := none }
  | (p, k) :: r => { l with confirming := some p, confirmImage := k, confirmWaiting := r }

/-- The confirm record is complete. -/
def confirmDone (s : State) : State :=
  match s.loader.confirming with
  | none => s
  | some part =>
    let image := s.loader.confirmImage
    let s := s.modLoader nextConfirm
    if part = 255 then confirmFull s
    else match image with
      | none => s
      | some k => confirmPartial s part k

/-- CONFIRM_RECORD_DONE (R51 step 9, R53): a record that is not written leaves the trial. -/
def execConfirmRecordDone (ok : Bool) (s : State) : Out :=
  .next (if ok then confirmDone s else s.modLoader nextConfirm)

/-- CONFIRM_EXPIRED (R52): the window of the trial for `part` runs out. -/
def execConfirmExpired (part : Byte) (s : State) : Out :=
  let p := part.toNat
  match trialOf s.loader p with
  | none => .next s
  | some t =>
    let due : Bool := match t.ends with
      | none => false
      | some e => decide (e ≤ s.now)
    if due && !t.expired && !confirmAsked s.loader p (trialImage s.loader p) then
      let t := { t with expired := true }
      .next (s.upd fun s => s.modLoader fun l => { l with
        events := { l.events with confirmExpired := true }
        fullTrial := if p = 255 then some t else l.fullTrial
        partialTrials := if p = 255 then l.partialTrials else l.partialTrials.put p t })
    else .next s

/-- PAT_CONFIRM_LEFT (R52, R62). A trial whose window has run out counts with 0 left (DESIGN CHOICE,
notes/assumptions/58.md). -/
def confirmLeft (s : State) : Nat :=
  let left := fun (t : Trial) =>
    if t.expired then 0
    else match t.ends with
      | none => t.window
      | some e => (e - s.now) / 1000
  match s.loader.fullTrial with
  | some t => left t
  | none =>
    match s.loader.partialTrials.map fun kv => left kv.2 with
    | [] => 0
    | x :: r => r.foldl min x

/-! ### OPEN and STOP (R58, R62) -/

/-- The window of the trial for `part` starts at the accepted OPEN. An OPEN of the whole module starts that of the
full trial alone, not of a partial committed while the module was Patterned (DESIGN CHOICE,
notes/assumptions/59.md). -/
def startWindow (s : State) (part : Nat) : State :=
  s.modLoader fun l =>
    let go := fun (t : Trial) => if t.openedAt.isNone then { t with openedAt := some s.now } else t
    if part = 255 then { l with fullTrial := l.fullTrial.map go }
    else { l with partialTrials := l.partialTrials.mapVals fun k t => if k = part then go t else t }

/-- OPEN. -/
def openLoad (part : Nat) (s : State) : State :=
  if part = 255 then
    if s.regs.state = 3 then openModule (startWindow s 255) else setStatus s 7
  else if s.regs.state = 5 ∧ part < 64 ∧ s.code part = 3 then openPart (startWindow s part) part
  else setStatus s 7

/-- PAT_OPEN (R51 steps 6 and 7, R52, R62). -/
def execPatOpen (via : Via) (part : Byte) (s : State) : Out := .next (viaLoader s via 0 (openLoad part.toNat))

/-- STOP. -/
def stopLoad (part : Nat) (s : State) : State :=
  if part < 64 ∧ s.code part = 5 then s.modPart part fun x => { x with stopping := true } else setStatus s 7

/-- PAT_STOP (R58). -/
def execPatStop (via : Via) (part : Byte) (s : State) : Out := .next (viaLoader s via 0 (stopLoad part.toNat))

/-- A record whose hand-off is being settled is freed without an item: its copies may have taken the target as their
holder already, and then only the target ends the request (R12, R13; DESIGN CHOICE, notes/assumptions/28.md). -/
def forgetHanded (s : State) (p : Nat) (l : Live) : State :=
  dropLive (cancelsEnd s p l.cancelSlots l.cancelMsgs 8) p l.req.tag

/-- Every request that the holder still has ends with a final item that carries NO_TOKEN and 0x08 (R76,
Table 03-15); what it was about to take from others is forgotten (R12). -/
def endLives (s : State) (p : Nat) : State :=
  ((livesOf s p).foldl (fun s l =>
    if l.req.phase = 3 ∧ l.handoffTo.isSome then forgetHanded s p l else endNow s p l.req.tag 8) s).modHold p fun h => { h with
    handoffs := [], taking := [], moves := [], inserts := [] }

/-- STOP_DRAIN (R58): the step in flight has ended; queued items complete with 0x08, live requests end with
it, and the partition is Patterned. -/
def execStopDrain (p : Part) (s : State) : Out :=
  let x := s.part p.val
  if x.stopping ∧ x.code = 5 ∧ x.hold.step.isNone then .next (enterPatterned (endLives (flushLanes s p.val true) p.val) p.val)
  else .next s

/-! ### Flash at a module reset, and restoration (R55 to R57, R551) -/

/-- A module flash write that is under way completes: the trial's image, or the confirm record. -/
def finishFlash (s : State) : State :=
  let s := confirmDone s
  match s.loader.committing with
  | none => s
  | some n => if s.loader.target = 255 then s.modLoader fun l => slotWritten l n true else s

/-- Apply one confirmed partial of the restored slot: a BASE_DIGEST that differs leaves it out, a failing
check leaves its partition Held. -/
def restorePartial (s : State) (t : Nat) (k : Kept) : State :=
  match validate s k.image t true none with
  | (none, n) => installPartial s n t
  | (some c, _) => if c.code = 0x22 ∧ c.off = 0x20 then s else setCode s t 4

/-- Try the confirmed slots in order, `older` from the second on. When every slot fails the module is Held
with the last failure's code (R56). -/
def restoreFrom : List Bool → Bool → Nat → State → State
  | [], _, code, s => portsRest (setModState (setStatus s code) 4)
  | b :: r, older, code, s =>
    match (getSlot s.loader b).kept with
    | none => restoreFrom r true code s
    | some k =>
      match validate s k.image 255 true none with
      | (some c, _) => restoreFrom r true c.code (s.modLoader fun l => { l with
          faultPiece := c.piece, faultOffset := c.off })
      | (none, n) =>
        let s := s.upd fun s => s.modLoader fun l => { runSlot l b with
          events := { l.events with restoredOlder := l.events.restoredOlder || older } }
        let s := installFull s n
        let kept := (getSlot s.loader b).partials.filterMap fun kv => kv.2.confirmed.map fun k => (kv.1, k)
        let s := kept.foldl (fun s x => restorePartial s x.1 x.2) s
        let s := portsRest (setModState s 3)
        let auto := (s.modulePiece.map fun m => m.flags.testBit 1).getD false
        if auto then openModule s else s

/-- Restoration in Verified (Table 02-20): with no confirmed slot the module stays Verified. -/
def restore (s : State) : State :=
  match confirmedSlots s.loader with
  | [] => s
  | l => restoreFrom l false s.loader.status s

end Sys2Proof.Machine
end

