-- ==== Sys2Proof/Machine/Recovery.lean ====
section
/-! DEFINITION. The meanings of Cut, Doubt, quiescing, lease, fencing and the recovery commands (14 R481 to
R483, 15 R492 to R511). -/

namespace Sys2Proof.Machine

/-- The partitions that the committed pattern defines. -/
def definedParts (s : State) : List Nat := (s.parts.filter fun kv => !s.undefinedPart kv.1).map (·.1)

/-! ### Cut (R481 to R483, R532) -/

/-- Cut can be entered: from the start of memory training on, and not once power-down runs (R532, R536). -/
def canCut (s : State) : Bool :=
  (decide (s.regs.state ≠ 0 ∧ s.regs.state ≠ 1 ∧ s.regs.state ≠ 9) || (decide (s.regs.state = 1) && s.sled.trained))
    && !s.sled.poweringDown

/-- The module enters Cut (Table 14-5). A scrub that was under way is owed. -/
def enterCut (s : State) (cause : Nat) : State :=
  let s := s.modPow fun w => { w with
    cutCause := cause, cutFrom := s.regs.state, pcieAOn := false, coolLowAt := s.now }
  let s := (definedParts s).foldl (fun s p =>
    let s := if s.code p = 8 then s.modPTrust p fun t => { t with owed := true } else s
    setCode s p 9) s
  let s := (s.blocks.map (·.1)).foldl zeroBenches s
  let s := { s with blocks := s.blocks.mapVals fun _ b => { b with pwr := {} } }
  let s := s.modMgmt fun m => { m with linkA := false, rateA := 0, widthA := 0 }
  let s := s.modFlt fun f => { f with leaseRunning := false }
  let s := portsRest (trayUpdate (setPortB (setModState s 9) false))
  faultRecord s 8 8 255 9 0 0 (bitsOf cause 0 2 + 4 * bit s.power.cutRefused) 0

/-- CUT_ENTRY (R481): COOLANT_OK low for 5 us, or a junction at 115 degrees C or more; beyond 125 the manual
states nothing (R528). -/
def execCutEntry (coolantLowUs : Nat) (junction : Nat) (s : State) : Out :=
  if 125 < junction then .fault .beyondAbsoluteMaxima
  else if canCut s ∧ 5 ≤ coolantLowUs then .next (enterCut s 1)
  else if canCut s ∧ 115 ≤ junction then .next (enterCut s 2)
  else .next s

/-- A scrub that Cut broke off is owed: its marks stand, and it runs again before the partition opens (R453). -/
def scrubBroken (s : State) (p : Nat) : State :=
  if s.code p = 8 then s.modPTrust p fun t => { t with scrubStep := 0, owed := true } else s

/-- RESUME: what Cut left unfinished completes with 0x08, and the module takes the state that R483 gives. -/
def leaveCut (s : State) : State :=
  let s := s.modPow fun w => { w with cutRefused := false, pcieAOn := true }
  let ps := definedParts s
  let s := ps.foldl (fun s p => flushLanes (noteStep (killWork s p 8) p 8) p false) s
  let s := killPackets s 8
  let back := s.power.cutFrom
  if s.faults.fencePending then
    trayUpdate (fencedEntry (ps.foldl (fun s p => setCode (scrubBroken s p) p 3) s) 1)
  else if back = 1 ∨ back = 2 ∨ back = 4 then
    let s := trayUpdate (portsRest (setModState s back))
    if back = 2 then restore s else s
  else trayUpdate (portsRest (setModState (ps.foldl (fun s p => enterPatterned (scrubBroken s p) p) s) 3))

/-- COOLANT_OK has been high for the latest `highUs` microseconds, and the hottest junction is at
`junction`. -/
def coolSeen (highUs junction : Nat) (s : State) : State :=
  s.modPow fun w => { w with
    coolLowAt := if 85 ≤ junction then s.now else Nat.max w.coolLowAt (s.now - highUs) }

/-- Write PWR_CUT (Table 14-10): RESUME, its wait counted on the local counter (R5, R483). -/
def cutPut (value : Word) (s : State) : State :=
  if !value.toNat.testBit 8 ∨ s.regs.state ≠ 9 then s
  else if s.power.coolLowAt + 1_000_000 ≤ s.now then leaveCut s
  else s.modPow fun w => { w with cutRefused := true }

/-- RESUME (R483). -/
def execResume (src : Src) (value : Word) (coolantHighUs : Nat) (junction : Nat) (s : State) : Out :=
  let s := coolSeen coolantHighUs junction s
  .next (globalWrite s src 0x2_0038 (cutPut value))

/-! ### Doubt (R492 to R495) -/

/-- UNIT_KIND and UNIT of a fault record (Table 15-2). -/
def unitNumbers : HealthUnit → Nat × Nat
  | .block b => (1, b.val)
  | .stack n => (2, n.val)
  | .ddr n => (3, n.val)
  | .port p => (4, p.val)
  | .die d => (6, d.val)

/-- The code that work at such a unit completes with (Table 15-4). -/
def unitCode : HealthUnit → Byte
  | .block _ => 8
  | .port _ => 0
  | _ => 4

/-- The partition that a unit's record names: the owner of a block. -/
def unitPart (s : State) : HealthUnit → Nat
  | .block b => (s.blockOwner b.val).getD 255
  | _ => 255

/-- Write a UNIT or DOUBT record; `by_` has bit 0 for the data path and bit 1 for the management path. -/
def unitRecord (s : State) (cls : Nat) (u : HealthUnit) (by_ : Nat) : State :=
  let k := unitNumbers u
  faultRecord s cls (unitCode u) (unitPart s u) k.1 k.2 0 by_ 0

/-- Retire a unit; it is no longer in Doubt. -/
def retireUnit (s : State) (u : HealthUnit) : State :=
  s.upd fun s => s.modFlt fun f => { f with
    doubt := f.doubt.erase u, retired := if f.retired.contains u then f.retired else f.retired ++ [u] }

/-- The module is in Doubt while an I/O die is, and Open otherwise (R494, R495). -/
def doubtState (s : State) : State :=
  if s.regs.state = 5 ∧ dieInDoubt s then setModState s 7
  else if s.regs.state = 7 ∧ !dieInDoubt s then enumerateAtOpen (setModState s 5)
  else s

/-- A block in RUN whose cores do not all wait on a counter (Table 15-3). -/
def blockBusy (s : State) (b : Nat) : Bool :=
  decide ((s.block b).pwr.state = 0) && !allCores s b (·.wait.isSome)

/-- An access to a stack, or to 16 + a channel, is found with no completion, or none is. -/
def noteAccess (s : State) (key : Nat) (still : Bool) : State :=
  s.modFlt fun f => { f with
    accessSince := if still then f.accessSince.put key (f.accessSince.at key s.now) else f.accessSince.del key }

/-- What a check finds of a unit's progress: `still` says that a block has completed nothing since the check before, or
that an access to a stack or channel has no completion. -/
def noteStall (s : State) (u : HealthUnit) (still : Bool) : State :=
  match u with
  | .block b =>
    let k := s.block b.val
    s.setBlock b.val { k with
      stallSince := if still && blockBusy s b.val then some (k.stallSince.getD s.now) else none }
  | .stack n => noteAccess s n.val still
  | .ddr n => noteAccess s (16 + n.val) still
  | _ => s

/-- The management path finds a unit faulty (Table 15-3): what it reports of a block counts while the block is
not OFF, a port's loss of signal while the port is UP. -/
def mgmtFinds (s : State) (u : HealthUnit) (reported : Bool) : Bool :=
  reported && match u with
    | .block b => decide ((s.block b.val).pwr.state ≠ 2)
    | .port p => decide ((s.port p.val).state = 4)
    | _ => true

/-- Uncorrectable words of a stack, or of 16 + a channel, in the latest 1,000,000 us. -/
def uncorrRecent (s : State) (key : Nat) : Nat :=
  ((s.faults.uncorrAt.at key []).filter fun t => decide (s.now < t + 1_000_000)).length

/-- The I/O die of an HBM or DDR5 line. -/
def lineDie (s : State) (line : Nat) : Nat :=
  let ch := lineChannel s line
  if ch.1 = 2 then ch.2 / 4 else ch.2 / 96

/-- An access to a stack, or to 16 + a channel, has had no completion for 10 us (Table 15-3). -/
def accessLate (s : State) (key : Nat) : Bool := (s.faults.accessSince.find key).any fun t => decide (t + 10 ≤ s.now)

/-- The data path finds a unit faulty (Table 15-3), its windows counted on the local counter (R5). What is
reported is a block's standstill, an access to a stack or channel with no completion, the backlog of a port,
a request unapplied at a Square of a die; `noteStall` has noted since when. -/
def dataFinds (s : State) (u : HealthUnit) (reported : Bool) : Bool :=
  match u with
  | .block b => (s.block b.val).stallSince.any fun t => decide (t + s.faults.watchdog ≤ s.now)
  | .stack n => decide (s.faults.uncorrLimit < uncorrRecent s n.val) || accessLate s n.val
  | .ddr n => decide (s.faults.uncorrLimit < uncorrRecent s (16 + n.val)) || accessLate s (16 + n.val)
  | .port p =>
    let x := s.port p.val
    reported && decide (x.state = 4 ∧ Nat.max x.enteredAt x.creditRxAt + 1000 ≤ s.now)
  | .die d =>
    reported && s.fab.home.any fun j => decide (j.arrivedAt + 100 ≤ s.now) &&
      j.lines.any fun l => decide (l * 64 % 2 ^ 48 < benchBase ∧ lineDie s l = d.val)

/-- DOUBT_CHECK (R492): exactly one path puts a unit in Doubt, both retire it at once. -/
def execDoubtCheck (unit : HealthUnit) (mgmtFaulty dataFaulty : Bool) (s : State) : Out :=
  let s := if s.regs.state = 0 then s else noteStall s unit dataFaulty
  let by_ := bit (dataFinds s unit dataFaulty) + 2 * bit (mgmtFinds s unit mgmtFaulty)
  if s.regs.state = 0 ∨ s.faults.retired.contains unit ∨ by_ = 0 then .next s
  else if by_ = 3 then .next (doubtState (unitRecord (retireUnit s unit) 3 unit 3))
  else if s.faults.doubt.contains unit then .next s
  else
    let s := s.upd fun s => s.modFlt fun f => { f with doubt := f.doubt ++ [unit] }
    .next (doubtState (unitRecord s 4 unit by_))

/-- The unit that UNIT_KIND and UNIT of DOUBT_RELEASE name, when it is in Doubt. -/
def doubtNamed (s : State) (kind unit : Nat) : Option HealthUnit :=
  s.faults.doubt.find? fun u => decide (unitNumbers u = (kind, unit))

/-- DOUBT_RELEASE (R495): ACTION 0 returns the unit to service, ACTION 1 retires it. -/
def execDoubtRelease (m : MHdr) (unitKind action : Byte) (unit : BitVec 16) (s : State) : Out :=
  .next (recovery s m 0x55 [unitKind.toNat, action.toNat, unit.toNat] 4 fun s =>
    match doubtNamed s unitKind.toNat unit.toNat with
    | none => (0, false, s)
    | some u =>
      if action = 0 then
        (0, true, doubtState (s.upd fun s => s.modFlt fun f => { f with doubt := f.doubt.erase u }))
      else if action = 1 then (0, true, doubtState (retireUnit s u))
      else (0x0B, false, s))

/-! ### Quiescing (R497) -/

/-- Write PART_FAULT_CONTROL (Table 15-11). -/
def faultControlPut (p : Nat) (value : Word) (s : State) : State :=
  let v := value.toNat
  let limit := bitsOf v 16 4
  let s := s.modPFault p fun f => { f with
    replayLimit := if limit = 0 then f.replayLimit else limit
    faultInt := v.testBit 15
    faultVector := bitsOf v 8 5 }
  if v.testBit 0 then startQuiesce s p else s

/-- QUIESCE (R497). -/
def execQuiesce (src : Src) (p : Part) (value : Word) (s : State) : Out :=
  .next (partWrite s src p.val 0x3_7008 (faultControlPut p.val value))

/-- Every Awl and attention ring of partition `p` reads STATE 0, no run and no migration entry is in
progress. -/
def partIdle (s : State) (p : Nat) : Bool :=
  (s.part p).mem.job.isNone && (s.blocksOf p).all fun b =>
    let x := s.block b
    decide (x.eng.state ≠ 1 ∧ x.eng.state ≠ 2) && x.attn.waiting.isNone && x.attn.jobs.isEmpty && !x.attn.flushing
      && (List.range 8).all fun a =>
        let w := s.awl (8 * b + a)
        w.waiting.isNone && w.jobs.isEmpty && !w.flushing

/-- A step that was to be replayed runs again: its streams write what a prefill has failed to write and send their
QUERYs once more (R158, R171, R497). -/
def replayStep (s : State) (p : Nat) : State :=
  match (s.part p).hold.step with
  | none => s
  | some st =>
    if !st.replay then s
    else
      let s := s.modHold p fun h => { h with step := some { start := s.now, streams := st.streams } }
      let ls := (st.streams.filterMap (liveOf s p)).map fun l => { l with left := false }
      runStreams p 0 ls (ls.foldl (fun s l => modLive s p l.req.tag fun _ => l) s)

/-- QUIESCED (R497): migration entries go on, and the step that failed runs again. -/
def execQuiesced (p : Part) (s : State) : Out :=
  if (s.part p.val).fault.quiescing ∧ partIdle s p.val then
    let s := s.modPFault p.val fun f => { f with quiesced := true, quiescing := false }
    .next (holderOn (replayStep (s.modPMem p.val fun m => { m with held := false }) p.val) p.val)
  else .next s

/-! ### Lease and fence (R498 to R504) -/

/-- LEASE of the Module piece in local microseconds. -/
def leaseUs (s : State) : Nat := 1000 * (s.modulePiece.map (·.lease)).getD 0

/-- The lease has run out. -/
def leaseOver (s : State) : Bool :=
  s.faults.leaseRunning && decide (s.regs.state = 5 ∨ s.regs.state = 7) && decide (s.faults.leaseAt + leaseUs s ≤ s.now)

/-- Local milliseconds left in the lease. -/
def leaseLeft (s : State) : Nat := if s.faults.leaseRunning then (s.faults.leaseAt + leaseUs s - s.now) / 1000 else 0

/-- LEASE_EXPIRE (R498, R500). -/
def execLeaseExpire (s : State) : Out := .next (if leaseOver s then fencedEntry s 2 else s)

/-- LEASE_RENEW (R498): 0x0B while Fenced, or at or after the moment of expiry. -/
def execLeaseRenew (m : MHdr) (s : State) : Out :=
  .next (control s m 0x50 false (some 0) fun s =>
    if s.regs.state = 6 ∨ leaseOver s then plain 0x0B s
    else
      let left := leBytes 4 (leaseLeft s)
      (0, left, if s.regs.state = 5 ∨ s.regs.state = 7 then restartLease s else s))

/-- FENCE (R500, R508): recorded in Cut. Before Verified there is nothing to fence. -/
def execFence (m : MHdr) (s : State) : Out :=
  .next (recovery s m 0x51 [] 0 fun s =>
    if s.regs.state = 6 then (0, false, s)
    else if s.regs.state = 1 then (0x0B, false, s)
    else if s.regs.state = 9 then (0, true, s.modFlt fun f => { f with fencePending := true })
    else (0, true, fencedEntry s 1))

/-- GRACE has passed in Fenced: GRACE_EXPIRED, a FENCE record and the module reset (R503). -/
def graceOut (s : State) : State :=
  let s := s.modFlt fun f => { f with graceExpired := true }
  moduleReset (fenceRecord s) 0xFFFF finishFlash

/-- GRACE_EXPIRE (R503). -/
def execGraceExpire (s : State) : Out :=
  match s.modulePiece with
  | none => .next s
  | some m =>
    if s.regs.state = 6 ∧ s.faults.fencedAt + 1_000_000 * m.grace ≤ s.now ∧ (m.grace ≠ 0 ∨ s.faults.selfDone) then
      .next (graceOut s)
    else .next s

/-- SELFTEST_DONE (R502): failing units are retired; the benches are left zero. A GRACE of 0 ends here. -/
def execSelftestDone (failed : List HealthUnit) (s : State) : Out :=
  if s.regs.state ≠ 6 ∨ !s.faults.selfRunning then .next s
  else
    let bad := (failed.filter fun u => match u with
      | .port _ => false
      | _ => true).eraseDups
    let count := fun (k : Nat) => (bad.filter fun u => decide ((unitNumbers u).1 = k)).length
    let s := (List.range 80).foldl zeroBenches s
    let s := bad.foldl (fun s u => unitRecord (retireUnit s u) 3 u 0) s
    let s := s.modFlt fun f => { f with
      selfRunning := false
      selfDone := true
      selfPass := bad.isEmpty
      blocksFailed := count 1
      stacksFailed := count 2
      channelsFailed := count 3
      diesFailed := count 6 }
    let s := fenceRecord s
    .next (if (s.modulePiece.map (·.grace)) = some 0 then graceOut s else s)

/-- The step that entry to Fenced stopped is replayed (R496, R504). -/
def replayStopped (s : State) (p : Nat) : State :=
  match (s.part p).hold.step with
  | none => s
  | some st => if s.code p = 5 ∧ st.failed then stepFails s p st st.code else s

/-- REINSTATE takes effect: FAB_DEVICE, every partition as it was, the replay, the lease, the state the module
was fenced from where that had no pattern. -/
def reinstateNow (s : State) (device : Nat) : State :=
  let back := s.regs.previous
  let codes := s.faults.codesAtFence
  let s := s.modFab fun f => { f with device := BitVec.ofNat 16 device }
  let s := s.modFlt fun f => { f with codesAtFence := [] }
  let s := codes.foldl (fun (s : State) (kv : Nat × Nat) => setCode s kv.1 kv.2) s
  if back = 2 ∨ back = 4 then portsRest (setModState s back)
  else
    let s := codes.foldl (fun (s : State) (kv : Nat × Nat) => replayStopped s kv.1) s
    portsRest (restartLease (enterOpenState s))

/-- REINSTATE (R504, R508). -/
def execReinstate (m : MHdr) (device : Nat) (boot : BitVec 32) (s : State) : Out :=
  .next (recovery s m 0x52 [device, boot.toNat] 8 fun s =>
    if (s.regs.state = 5 ∨ s.regs.state = 7) ∧ s.fab.device.toNat = device then (0, false, s)
    else if s.regs.state ≠ 6 ∨ boot.toNat ≠ s.mgmt.boot ∨ s.faults.graceExpired then (0x0C, false, s)
    else if s.faults.savedDevice.toNat ≠ device ∨ !s.faults.selfDone then (0x0B, false, s)
    else (0, true, reinstateNow s device))

/-! ### Spares and teardown (R509 to R511) -/

/-- STAND_IN (R510, R511). -/
def execStandIn (m : MHdr) (device : Nat) (s : State) : Out :=
  .next (recovery s m 0x53 [device] 2 fun s =>
    let spare := (s.modulePiece.map fun x => x.flags.testBit 2).getD false
    if s.faults.stoodIn.toNat = device then (0, false, s)
    else if !spare ∨ s.regs.state ≠ 5 ∨ definedParts s ≠ [] then (0x0B, false, s)
    else
      let s := moduleReset s (BitVec.ofNat 16 device) finishFlash
      (0, true, s.modFlt fun f => { f with stoodIn := BitVec.ofNat 16 device }))

/-- Steps 1 and 2 of R509 in one partition: operations complete with 0x0F, requests end with it. -/
def tearPart (s : State) (p : Nat) : State :=
  let s := killWork s p 0x0F
  let s := (s.blocksOf p).foldl (fun s b =>
    (List.range 8).foldl (fun s a => awlFlushAll s (8 * b + a) p 0x0F) (attnFlushAll s b p 0x0F)) s
  let s := killSome s 0x0F fun k => decide (k.srcPart = p ∧ k.cls ≠ 3)
  let s := s.modHold p fun h => { h with step := none, handoffs := [], taking := [], moves := [], inserts := [] }
  (livesOf s p).foldl (fun s l =>
    if l.req.phase ≤ 1 then endEarly s p l.req.tag 0x0F else endWith s p l.req.tag 0x0F true) s

/-- TEARDOWN (R509). -/
def execTeardown (m : MHdr) (comp : Nat) (s : State) : Out :=
  .next (recovery s m 0x54 [comp] 2 fun s =>
    let c := s.mgmt.comps.at comp {}
    if c.live = [] then (0, false, s)
    else
      let s := dissolve ((compParts s c).foldl tearPart s) comp
      (0, true, c.live.foldl (fun s m => holdersLeave s m []) s))

end Sys2Proof.Machine
end

