-- ==== Sys2Proof/Machine/Trust.lean ====
section
/-! DEFINITION. The meanings of the trust operations, SPDM requests, key generations, scrubs and operator
debug (13 R422 to R458). -/

namespace Sys2Proof.Machine

/-! ### Keys and policy (R422 to R424) -/

/-- The key in a slot; an empty one is the empty list. -/
def slotKey (s : State) (n : Nat) : List Byte := s.trust.slots.at n []

/-- Put a key in a slot; a key of zeros empties it. -/
def putKey (s : State) (n : Nat) (key : List Byte) : State :=
  s.modTrust fun t => { t with slots := if key.all (· == 0) then t.slots.del n else t.slots.put n key }

/-- The module serial as 8 bytes. -/
def serialBytes : List Byte := leBytes 8 Config.serial.toNat

/-- An owner signature covers SHAKE256 over SERIAL, OP, COUNTER and the new value (R424). -/
def ownerSigned (s : State) (op : Nat) (counter : Word) (value signature : List Byte) : Bool :=
  let key := slotKey s 12
  !key.isEmpty && decide (s.trust.slotCounter < counter.toNat)
    && xmssVerify key (shake256 (serialBytes ++ leBytes 1 op ++ leBytes 8 counter.toNat ++ value) 32) signature

/-- A fabric-manager or tray-controller session. -/
def managed (s : State) (m : MHdr) : Bool :=
  (overEthernet m.path && inSession s m 8) || (overI3c m.path && inSession s m 9)

/-- SLOT_WRITE (R423, R424): slot 12 while it is empty is written without a signature, over I3C alone. -/
def execSlotWrite (m : MHdr) (slot : Nat) (counter : Word) (key signature : List Byte) (s : State) : Out :=
  let first := decide (slot = 12) && overI3c m.path && (slotKey s 12).isEmpty
  .next (trustOp s m 3 (first || managed s m) fun s =>
    if key.length ≠ 68 then (some (2, []), s)
    else if first then (some (0, []), putKey s 12 key)
    else if 12 < slot ∨ !ownerSigned s 3 counter key signature then (some (0x0B, []), s)
    else (some (0, []), (putKey s slot key).modTrust fun t => { t with slotCounter := counter.toNat }))

/-- POLICY_SET (R424, R439). -/
def execPolicySet (m : MHdr) (counter : Word) (value : Word) (signature : List Byte) (s : State) : Out :=
  .next (trustOp s m 4 (managed s m) fun s =>
    if !ownerSigned s 4 counter (leBytes 8 value.toNat) signature then (some (0x0B, []), s)
    else (some (0, []), s.modTrust fun t => { t with
      bindRequired := value.toNat.testBit 0, slotCounter := counter.toNat }))

/-! ### Scrubs and RECLAIM (R425, R450 to R453) -/

/-- Steps 2 to 5 of RECLAIM, and its answer. A pattern whose retained write is under way goes with the
slots. -/
def finishReclaim (s : State) (m : MHdr) : State :=
  let s := s.modTrust fun t => { t with slots := [], bindRequired := false, bindings := [], reclaim := none }
  let s := s.modLoader fun l => { l with
    slotA := {}, slotB := {}, serialFloor := 0, committing := none, confirming := none, confirmImage := none, confirmWaiting := [] }
  trustAnswer (moduleReset s 0xFFFF finishFlash) m 5 0 []

/-- No partition is being scrubbed. -/
def noScrub (s : State) : Bool := s.parts.all fun kv => decide (kv.2.code ≠ 8)

/-- RECLAIM goes on once every partition is scrubbed. -/
def reclaimNext (s : State) : State :=
  match s.trust.reclaim with
  | none => s
  | some m => if noScrub s then finishReclaim s m else s

/-- RECLAIM (R425): in Cut, in Kept and during power-down, where R553 refuses the reset, it is refused. -/
def execReclaim (m : MHdr) (s : State) : Out :=
  .next (trustOp s m 5 (overI3c m.path && inSession s m 9) fun s =>
    if s.regs.state ≤ 1 ∨ s.regs.state = 9 ∨ s.sled.poweringDown ∨ s.trust.reclaim.isSome then (some (0x0B, []), s)
    else
      let ps := (s.parts.filter fun kv => decide (kv.2.code ≠ 255 ∧ kv.2.code ≠ 8)).map (·.1)
      let s := ps.foldl (fun s p => startScrub s p 3) s
      (none, reclaimNext (s.modTrust fun t => { t with reclaim := some m })))

/-- SCRUB_DONE (R451, R453): the channels of partition `p`, and those it released, are zero. -/
def execScrubDone (p : Part) (s : State) : Out :=
  let x := s.part p.val
  let s := finishFreed s p.val
  if x.code ≠ 8 then .next (resumeCommit s)
  else
    let s := finishScrub s p.val
    let s := if x.trust.scrubTo = 5 ∧ (s.regs.state = 5 ∨ s.regs.state = 7) then openPart s p.val else s
    .next (reclaimNext (resumeCommit s))

/-! ### Firmware and weights (R428, R440, R441) -/

/-- Bytes of copy `copy` of firmware KIND `kind` with `bs` written at an offset. -/
def fwWrite (s : State) (kind copy off : Nat) (bs : List Byte) : State :=
  let had := (s.trust.copies.at (2 * kind + copy) {}).bytes
  let n := max had.length (off + bs.length)
  let whole := (had ++ (List.range (n - had.length)).map fun i => Config.fwImageByte kind copy (had.length + i))
  s.modTrust fun t => { t with
    copies := t.copies.put (2 * kind + copy) { bytes := whole.take off ++ bs ++ whole.drop (off + bs.length) } }

/-- FW_STAGE (R428): the copy that did not boot is written. -/
def execFwStage (m : MHdr) (kind : Nat) (offset : Nat) (bytes : List Byte) (s : State) : Out :=
  .next (trustOp s m 6 (overEthernet m.path && inSession s m 8) fun s =>
    if kind = 0 ∨ 4 < kind then (some (0x0B, []), s)
    else (some (0, []), fwWrite s kind (if s.trust.bootedB.contains kind then 0 else 1) offset bytes))

/-- Numbers that rise strictly. -/
def rising : List Nat → Bool
  | [] => true
  | [_] => true
  | a :: b :: r => decide (a < b) && rising (b :: r)

/-- BIND (R441): on any path. -/
def execBind (m : MHdr) (record : List Byte) (signature : List Byte) (s : State) : Out :=
  .next (trustOp s m 7 true fun s =>
    let n := fld record 6 2
    let serials := (List.range n).map fun k => fld record (0x30 + 8 * k) 8
    let signer := fld record 8 1
    let digest := slice record 0x10 32
    let held := s.trust.bindings.filter fun b => b.digest != digest
    if record.length ≠ 0x30 + 8 * n then (some (2, []), s)
    else if slice record 0 6 != [0x4C, 0x4E, 0x57, 0x42, 1, 0] ∨ 7 < signer ∨ (slotKey s signer).isEmpty
        ∨ !xmssVerify (slotKey s signer) (shake256 record 32) signature
        ∨ n = 0 ∨ 4096 < n ∨ !rising serials ∨ 256 ≤ held.length then (some (0x0B, []), s)
    else (some (0, []), s.modTrust fun t => { t with
      bindings := held ++ [{ digest := digest, serials := serials }] }))

/-- The weights region of a model in partition `p`. -/
def weightsOf (s : State) (p model : Nat) : Option PlaceEntry :=
  (s.regions p).find? fun e => decide (e.use = 1 ∧ e.model = model)

/-- VERIFY_WEIGHTS (R440): from the host mailbox or in a fabric-manager session. -/
def execVerifyWeights (m : MHdr) (part model : Byte) (s : State) : Out :=
  let p := part.toNat
  let ok := decide (m.path = .mailbox) || (overEthernet m.path && inSession s m 8)
  .next (trustOp s m 8 ok fun s =>
    let set := (s.piece p).any fun x => x.modelMask.testBit model.toNat
    if s.code p = 255 ∨ !set ∨ (weightsOf s p model.toNat).isNone then (some (0x0B, []), s)
    else if s.code p = 8 then (some (0x0E, []), s)
    else (none, s.modTrust fun t => { t with hashing := t.hashing ++ [(p, model.toNat, m)] }))

/-- The result of a hash that is done: the read's code, or 0 and verified 1, differing 2, not bound 3. A tier
beyond HBM and DDR5 gives bytes that nothing here fixes. -/
def verifyResult (s : State) (p model : Nat) : Byte × Nat × State :=
  match s.model p model, weightsOf s p model with
  | some w, some e =>
    let d := s.draw
    let r := if onSled e then homeRead s p e.start w.weightBytes 0 else (0, freeBytes d.1 w.weightBytes, d.2)
    if r.1 ≠ 0 then (r.1, 0, r.2.2)
    else if shake256 r.2.1 32 != w.digest then (0, 2, r.2.2)
    else if s.trust.bindRequired && !(s.trust.bindings.any fun b =>
        b.digest == w.digest && b.serials.contains Config.serial.toNat) then (0, 3, r.2.2)
    else (0, 1, r.2.2)
  | _, _ => (0x0B, 0, s)

/-- VERIFY_WEIGHTS_DONE (R440, R442). -/
def execVerifyWeightsDone (p : Part) (model : Byte) (s : State) : Out :=
  let n := model.toNat
  match s.trust.hashing.find? fun h => decide (h.1 = p.val ∧ h.2.1 = n) with
  | none => .next s
  | some h =>
    let s := s.modTrust fun t => { t with hashing := t.hashing.erase h }
    if s.code p.val = 8 ∨ s.code p.val = 255 then .next (trustAnswer s h.2.2 8 (if s.code p.val = 8 then 0x0E else 0x0B) [])
    else
      let r := verifyResult s p.val n
      let s := if r.1 ≠ 0 then r.2.2
        else r.2.2.modPTrust p.val fun t => { t with
          verified := if r.2.1 = 1 then insertOn id n (t.verified.erase n) else t.verified.erase n
          verifyFail := if r.2.1 = 1 then t.verifyFail.del n else t.verifyFail.put n r.2.1 }
      .next (trustAnswer s h.2.2 8 r.1 (if r.1 ≠ 0 then [] else leBytes 1 r.2.1))

/-! ### Key generations (R445 to R449) -/

/-- An older generation is live. -/
def PTrust.twoLive (t : PTrust) : Bool := decide (t.older ≠ 0) && !t.olderRetired

/-- The pages that carry the older generation's tag. -/
def PTrust.olderPages (t : PTrust) : List Nat :=
  if t.older = 0 then [] else (t.tags.filter fun kv => decide (kv.2 = t.older)).map (·.1)

/-- READERS of the older generation (R447): the QUERYs, Awl requests, attention commands, remote-line requests and moves
of Lasts in progress that read under it, as their pages were tagged when they were issued. A host read is delivered by the
command that makes it. -/
def keyReaders (s : State) (p : Nat) : Nat :=
  let g := (s.part p).trust.older
  let under := fun (l : List (List Nat)) => (l.filter fun x => x.contains g).length
  if g = 0 then 0
  else
    let blocks := s.blocksOf p
    under ((s.part p).last.queries.map (·.gens))
      + under (blocks.flatMap fun b => (upFrom (8 * b) 8).flatMap fun n => (s.awl n).jobs.flatMap fun j => j.outstanding.map (·.gens))
      + under (blocks.flatMap fun b => (s.block b).attn.jobs.map (·.gens))
      + under ((s.fab.home.filter fun j => decide (j.req.hdr.destPart = p)).map (·.gens))
      + under ((s.nvCmds.filter fun c => decide (c.part = p) && c.last.isSome).map fun c => c.keys.map fun k => k.2.1)

/-- KEY_ROTATE and KEY_RETIRE act on a partition that the pattern defines and that is not being scrubbed. -/
def onPart (s : State) (p : Nat) (f : State → Option (Byte × List Byte) × State) :
    Option (Byte × List Byte) × State :=
  if s.code p = 255 then (some (0x0B, []), s) else if s.code p = 8 then (some (0x0E, []), s) else f s

/-- KEY_ROTATE (R445, R446): in a host or fabric-manager session. -/
def execKeyRotate (m : MHdr) (part : Byte) (s : State) : Out :=
  let p := part.toNat
  let ok := inSession s m 10 || (overEthernet m.path && inSession s m 8)
  .next (trustOp s m 9 ok fun s => onPart s p fun s =>
    let t := (s.part p).trust
    if t.twoLive then (some (0x0B, []), s)
    else (some (0, []), s.draw.2.setTrust p { t with
      older := t.newest
      newest := t.newest % 255 + 1
      keys := t.keys.put (t.newest % 255 + 1) s.draws
      olderRetired := false
      sweeping := decide (t.newest ≠ 0)
      forced := false
      stuck := 0
      stuckPages := [] }))

/-- The sweep cannot rewrite a page: an uncorrectable word or a channel in Doubt in HBM and DDR5, or a drive that has failed
or that failed one of the page's commands (R446). -/
def sweepStuck (s : State) (p page : Nat) (driveOk : Bool) : Bool :=
  let a := page * 65536
  match placeOf s p a with
  | .own => decide (badIn s (memKey p a) 65536 ≠ [] ∨ suspectIn s p a 65536 ≠ none)
  | .nvme drive .. => decide ((s.drive drive).state ≠ 1) || !driveOk
  | _ => true

/-- The sweep has begun a page again this often. -/
def PTrust.restartsAt (t : PTrust) (page : Nat) : Nat := if t.sweepAt = page then t.sweepRestarts else 0

/-- SWEEP_PAGE_DONE (R446): a page that was written meanwhile is begun again, at most three times (R307); else it is rewritten
under the newest generation, or counts in SWEEP_STUCK and is passed. -/
def execSweepPageDone (p : Part) (page : Nat) (read : SweepRead) (s : State) : Out :=
  let t := (s.part p.val).trust
  if !t.sweeping ∨ t.older = 0 ∨ t.tags.at page 0 ≠ t.older ∨ t.stuckPages.contains page then .next s
  else if read.written ∧ t.restartsAt page < 3 then
    .next (s.setTrust p.val { t with sweepAt := page, sweepRestarts := t.restartsAt page + 1 })
  else
    let a := page * 65536
    let s := settlePart s p.val
    let s := if placeOf s p.val a = .own then badWordFaults (eccMet s p.val a 65536 read.found) p.val a 65536 0 else s
    let t := { (s.part p.val).trust with sweepAt := 0, sweepRestarts := 0 }
    let t := if sweepStuck s p.val page read.driveOk then
        { t with stuck := satAdd 0xFFFF_FFFF t.stuck 1, stuckPages := page :: t.stuckPages }
      else { t with tags := t.tags.put page t.newest }
    .next (s.setTrust p.val { t with sweeping := t.olderPages.any fun g => !t.stuckPages.contains g })

/-- KEY_RETIRE (R448): without FORCE the manual gives it no effect, and it is refused. -/
def execKeyRetire (m : MHdr) (part : Byte) (force : Bool) (s : State) : Out :=
  let p := part.toNat
  .next (trustOp s m 0x0A (overEthernet m.path && inSession s m 8) fun s => onPart s p fun s =>
    let t := (s.part p).trust
    if !force ∨ !t.twoLive then (some (0x0B, []), s)
    else (some (0, []), s.setTrust p { t with sweeping := false, forced := true }))

/-- GENERATION_RETIRED (R447, R448): no page is left to sweep, or KEY_RETIRE forces it, and READERS is zero; its key is
destroyed. -/
def execGenerationRetired (p : Part) (s : State) : Out :=
  let t := (s.part p.val).trust
  if t.twoLive ∧ (t.forced ∨ t.olderPages = []) ∧ keyReaders s p.val = 0 then
    let t := { t with keys := t.keys.del t.older, sweeping := false }
    .next (s.setTrust p.val (if t.olderPages = [] then { t with older := 0, olderRetired := false }
      else { t with olderRetired := true }))
  else .next s

/-! ### Identity signatures and the attestation report (R432 to R438) -/

/-- Bytes of a signature by the identity key: its 5-byte index as RFC 8391 writes it, and the rest free. -/
def identitySignature (n i : Nat) : List Byte := (leBytes 5 i).reverse ++ (List.range 9888).map (Config.freeByte n)

/-- Signatures left: IDENT_LEFT (R433). -/
def identLeft (s : State) : Nat :=
  let i := s.trust.identNext
  if i < s.trust.identLimit ∨ i + 4096 ≤ 2 ^ 40 then 2 ^ 40 - i else 0

/-- IDENTITY_KEY (R432). -/
def identityKey : List Byte := (List.range 68).map Config.identityKey

/-- Wait for a signature (R434): the 65th request is answered Busy. -/
def queueSignature (s : State) (j : SigJob) : Option State :=
  if s.trust.sigQueue.length < 64 then some (s.modTrust fun t => { t with sigQueue := t.sigQueue ++ [j] }) else none

/-- SPDM request and error codes (SPDM 1.3). -/
def spdmChallenge : Nat := 0x83
def spdmKeyExchange : Nat := 0xE4
def spdmVendor : Nat := 0xFE
def errBusy : List Byte := [3]
def errInvalid : List Byte := [1]
def errSessions : List Byte := [0x0A]

/-- A report entry (Table 13-8). -/
def reportEntry (kind index status owner boot length : Nat) (digest : List Byte) : List Byte :=
  leBytes 1 kind ++ leBytes 1 index ++ leBytes 1 status ++ leBytes 1 owner ++ leBytes 4 boot ++ leBytes 8 length
    ++ padTo 32 digest

/-- Debug records as entries, in ascending record number. -/
def debugEntries (l : List DebugRec) (owner : Nat) : List (List Byte) :=
  l.mapIdx fun k d => reportEntry 4 k d.level owner d.boot 0 d.digest

/-- The entries of a report (R437); a partition that is not defined, or is being scrubbed, has none (R436,
R452). -/
def reportEntries (s : State) (scope : Nat) : List (List Byte) :=
  match s.pattern with
  | none => if scope = 255 then debugEntries s.trust.moduleDebug 255 else []
  | some pt =>
    if scope = 255 then
      (s.partials.map fun kv => reportEntry 3 kv.1 0 kv.1 0 kv.2.2.1 kv.2.1) ++ debugEntries s.trust.moduleDebug 255
    else match s.piece scope with
      | none => []
      | some x =>
        if s.code scope = 255 ∨ s.code scope = 8 then []
        else
          let t := (s.part scope).trust
          let progs := sortOn (·.slot) (pt.programs.filter fun g => decide (g.owner = scope))
          let models := (maskBits x.modelMask 256).filterMap (pt.modelFor scope)
          (progs.map fun g => reportEntry 1 g.slot 0 scope 0 g.length g.digest)
            ++ (models.map fun g => reportEntry 2 g.model
                (if t.verified.contains g.model then 1 else t.verifyFail.at g.model 0) scope 0 g.weightBytes g.digest)
            ++ debugEntries t.debugRecs scope

/-- The report's body (Table 13-7). -/
def reportBody (s : State) (scope : Nat) (nonce : List Byte) : List Byte :=
  let es := reportEntries s scope
  let t := (s.part scope).trust
  let whole := decide (scope = 255)
  let traced := if whole then !s.trust.moduleDebug.isEmpty else !t.debugRecs.isEmpty
  let flags := bit traced + 2 * bit s.loader.fullTrial.isSome + 4 * bit s.trust.bindRequired
    + 8 * bit (identLeft s < 2 ^ 20)
  [0x4C, 0x4E, 0x41, 0x54] ++ leBytes 2 1 ++ leBytes 1 scope ++ leBytes 1 flags ++ serialBytes ++ nonce
    ++ leBytes 4 s.mgmt.boot ++ leBytes 1 (if whole then s.regs.state else s.code scope)
    ++ leBytes 1 (if whole then 255 else s.tenant scope) ++ leBytes 1 (if whole then 0 else t.newest)
    ++ leBytes 1 (min 255 (if whole then s.trust.debugCount else t.debugTotal)) ++ leBytes 8 s.now
    ++ padTo 32 s.trust.fwDigest ++ padTo 32 ((s.pattern.map (·.bodyDigest)).getD [])
    ++ padTo 32 (if whole then [] else (s.partials.at scope ([], 0, 0)).1)
    ++ leBytes 2 es.length ++ leBytes 2 0
    ++ (upFrom 1 4).flatMap (fun k => leBytes 2 (s.trust.bootedSvn.at k 0))
    ++ leBytes 4 (256 + 48 * es.length) ++ identityKey ++ List.replicate 12 0 ++ es.flatten

/-- REPORT (R436, R438): it waits for its identity signature. -/
def execReport (m : MHdr) (scope : Byte) (nonce : List Byte) (s : State) : Out :=
  .next (trustOp s m 1 true fun s =>
    if nonce.length ≠ 32 then (some (2, []), s)
    else match queueSignature s { m := m, kind := 0, body := scope :: nonce } with
      | some s => (none, s)
      | none => (none, spdmAnswer s m spdmVendor false errBusy))

/-- ENDORSEMENT (R432). -/
def execEndorsement (m : MHdr) (s : State) : Out :=
  .next (trustOp s m 2 true fun s => (some (0, identityKey ++ (List.range 2820).map Config.endorsement), s))

/-- The lowest session number not in use. -/
def freeSession (s : State) : Nat :=
  ((upFrom 1 5).find? fun k => !(s.trust.sessions.any fun x => decide (x.id = k))).getD 5

/-- The operation at the front of the queue gets a signature, or none; a report's fields are those of
`sampled`, before the index was reserved (R438). -/
def signed (sampled s : State) (j : SigJob) (signature : Option (List Byte)) : State :=
  match j.kind, signature with
  | 0, some g =>
    let bs := reportBody sampled ((j.body.headD 0).toNat) (j.body.drop 1) ++ g
    trustAnswer s j.m 1 0 bs
  | 0, none => trustAnswer s j.m 1 0x0B []
  | 1, some g => spdmAnswer s j.m spdmChallenge true g
  | 1, none => spdmAnswer s j.m spdmChallenge false [0x0B]
  | _, some g =>
    if 4 ≤ s.trust.sessions.length then spdmAnswer s j.m spdmKeyExchange false errSessions
    else
      let id := freeSession s
      let s := s.modTrust fun t => { t with sessions := t.sessions ++ [{ id := id, path := j.m.path, slot := j.slot }] }
      spdmAnswer s j.m spdmKeyExchange true (leBytes 4 id ++ g)
  | _, none => spdmAnswer s j.m spdmKeyExchange false [0x0B]

/-- SIGNATURE_DONE (R433, R434): index i is signed with once, after a reservation in flash when i has reached
IDENT_LIMIT. -/
def execSignatureDone (flashOk : Bool) (s : State) : Out :=
  match s.trust.sigQueue with
  | [] => .next s
  | j :: rest =>
    let s := s.modTrust fun t => { t with sigQueue := rest }
    let i := s.trust.identNext
    let reserved := decide (i < s.trust.identLimit)
    if !reserved && (decide (2 ^ 40 < i + 4096) || !flashOk) then .next (signed s s j none)
    else
      let d := s.draw
      let t := d.2.modTrust fun t => { t with
        identLimit := if reserved then t.identLimit else i + 4096, identNext := i + 1 }
      .next (signed s t j (some (identitySignature d.1 i)))

/-! ### SPDM (R426, R435) -/

/-- Answer an SPDM request when the Perger controller hears it. -/
def spdm (s : State) (m : MHdr) (f : State → State) : State := if spdmHears s m then f (noteAddress s m) else s

/-- GET_VERSION: one version, SPDM 1.3. -/
def execGetVersion (m : MHdr) (s : State) : Out :=
  .next (spdm s m fun s => spdmAnswer s m 0x84 true (leBytes 2 0x0100 ++ leBytes 2 0x1300))

/-- The capability flags for Table 13-6, by the bits of SPDM 1.3 (PRESUMED, notes/assumptions/61.md): CHAL, ENCRYPT, MAC,
MUT_AUTH, KEY_EX, HBEAT, KEY_UPD, PUB_KEY_ID and CHUNK; no certificates, no measurements, no pre-shared keys. -/
def capabilityFlags : Nat := [2, 6, 7, 8, 9, 13, 14, 16, 17].foldl (fun n k => n + 2 ^ k) 0

/-- GET_CAPABILITIES: the flags; the timing exponent and the two sizes are free, as the manual gives none. -/
def execGetCapabilities (m : MHdr) (s : State) : Out :=
  .next (spdm s m fun s =>
    let free := freeBytes s.draws 9
    spdmAnswer s.draw.2 m 0xE1 true ([0] ++ free.take 1 ++ [0, 0] ++ leBytes 4 capabilityFlags ++ free.drop 1))

/-- The ALGORITHMS response for Table 13-6, by the layout of SPDM 1.3 (PRESUMED, notes/assumptions/61.md): SHA3-384,
secp384r1, AES-256-GCM, and one extended algorithm for the responder's and one for the requester's signature, whose
identifiers under the vendor's registry are free. -/
def algorithms (n : Nat) : List Byte :=
  let ext := fun (k : Nat) => slice (freeBytes n 6) (3 * k) 1 ++ [0] ++ slice (freeBytes n 6) (3 * k + 1) 2
  let body := [0, 0] ++ leBytes 4 0 ++ leBytes 4 0 ++ leBytes 4 0x10 ++ List.replicate 12 0 ++ [1, 0] ++ [0, 0] ++ ext 0
    ++ ([2, 0x20] ++ leBytes 2 0x10) ++ ([3, 0x20] ++ leBytes 2 0x02) ++ ([4, 0x21] ++ leBytes 2 0 ++ ext 1)
    ++ ([5, 0x20] ++ leBytes 2 0x01)
  leBytes 2 (body.length + 6) ++ body

/-- NEGOTIATE_ALGORITHMS (Table 13-6). -/
def execNegotiateAlgorithms (m : MHdr) (s : State) : Out :=
  .next (spdm s m fun s => spdmAnswer s.draw.2 m 0xE3 true (algorithms s.draws))

/-- CHALLENGE spends one identity signature. -/
def execChallenge (m : MHdr) (nonce : List Byte) (s : State) : Out :=
  .next (spdm s m fun s =>
    match queueSignature s { m := m, kind := 1, body := nonce } with
    | some s => s
    | none => spdmAnswer s m spdmChallenge false errBusy)

/-- The key slot of a path (R395, Table 13-3). -/
def pathSlot : MPath → Nat
  | .ethernet _ => 8
  | .relay _ => 8
  | .i3c _ => 9
  | .mailbox => 10
  | .doe => 10

/-- KEY_EXCHANGE: the requester's key must be the one in its path's slot and its signature must verify over
the exchange, whose digest the SPDM standard fixes and nothing here does; at most 4 sessions. -/
def execKeyExchange (m : MHdr) (requesterKey signature : List Byte) (s : State) : Out :=
  .next (spdm s m fun s =>
    let slot := pathSlot m.path
    let d := s.draw
    let s := d.2
    if (slotKey s slot).isEmpty ∨ slotKey s slot ≠ requesterKey
        ∨ !xmssVerify requesterKey (freeBytes d.1 48) signature then
      spdmAnswer s m spdmKeyExchange false errInvalid
    else if 4 ≤ s.trust.sessions.length then spdmAnswer s m spdmKeyExchange false errSessions
    else match queueSignature s { m := m, kind := 2, body := requesterKey, slot := slot } with
      | some s => s
      | none => spdmAnswer s m spdmKeyExchange false errBusy)

/-- A request that only an open session may make. -/
def withinSession (s : State) (m : MHdr) (request : Nat) (f : SpdmSession → State → State) : State :=
  spdm s m fun s =>
    match sessionOf s m with
    | none => spdmAnswer s m request false errInvalid
    | some x => spdmAnswer (f x s) m request true []

/-- HEARTBEAT. -/
def execHeartbeat (m : MHdr) (s : State) : Out := .next (withinSession s m 0xE8 fun _ s => s)

/-- KEY_UPDATE: the session's keys move to their next generation. -/
def execKeyUpdate (m : MHdr) (s : State) : Out :=
  .next (withinSession s m 0xE9 fun x s => s.modTrust fun t => { t with
    sessions := t.sessions.map fun y => if y = x then { y with generation := y.generation + 1 } else y })

/-- END_SESSION: notices stop where it was their session (R398). -/
def execEndSession (m : MHdr) (s : State) : Out :=
  .next (withinSession s m 0xEC fun x s =>
    let s := s.modTrust fun t => { t with sessions := t.sessions.filter fun y => decide (y ≠ x) }
    s.modMgmt fun g => { g with noticeSession := if g.noticeSession = some x.id then none else g.noticeSession })

/-- A transfer is this one. -/
def sameXfer (c : ChunkXfer) (m : MHdr) (handle : Nat) (response : Bool) : Bool :=
  samePath c.path m.path && decide (c.session = m.session ∧ c.handle = handle ∧ c.response = response)

/-- The bytes of the payload that each operation of Table 13-4 has, where their number is fixed; the widths are a DESIGN CHOICE
(notes/assumptions/61.md). -/
def trustLength (op : Nat) : Option Nat :=
  if op = 1 then some 33 else if op = 2 ∨ op = 5 then some 0 else if op = 3 then some 2897 else if op = 4 then some 2836
  else if op = 8 ∨ op = 0x0A then some 2 else if op = 9 then some 1 else none

/-- The state that a register command leaves. -/
def after (s : State) (o : Out) : State :=
  match o with
  | .next t => t
  | _ => s

/-- Run the trust operation of a vendor payload: its header, then what follows (R426, Table 13-4). -/
def trustRun (m : MHdr) (vendor : List Byte) (s : State) : State :=
  let op := fld vendor 0 1
  let b := vendor.drop 8
  let fits := (trustLength op).all fun n => decide (n = b.length)
  let m := { m with received := b.length, length := if fits then fld vendor 4 4 else b.length + 1 }
  let p : Byte := b.headD 0
  if op = 1 then after s (execReport m p (b.drop 1) s)
  else if op = 2 then after s (execEndorsement m s)
  else if op = 3 then after s (execSlotWrite m p.toNat (BitVec.ofNat 64 (fld b 1 8)) (slice b 9 68) (b.drop 77) s)
  else if op = 4 then after s (execPolicySet m (BitVec.ofNat 64 (fld b 0 8)) (BitVec.ofNat 64 (fld b 8 8)) (b.drop 16) s)
  else if op = 5 then after s (execReclaim m s)
  else if op = 6 then after s (execFwStage m p.toNat (fld b 1 4) (b.drop 5) s)
  else if op = 7 then after s (execBind m (b.take (b.length - 2820)) (b.drop (b.length - 2820)) s)
  else if op = 8 then after s (execVerifyWeights m p (b.getD 1 0) s)
  else if op = 9 then after s (execKeyRotate m p s)
  else if op = 0x0A then after s (execKeyRetire m p (decide (b.getD 1 0 ≠ 0)) s)
  else trustOp s m op true fun s => (some (0x0B, []), s)

/-- A whole request of SPDM is a vendor-defined one under MGMT_VENDOR (R426). -/
def vendorRequest (bs : List Byte) : Bool :=
  decide (fld bs 1 1 = spdmVendor) && slice bs 4 7 == vendorId

/-- CHUNK_SEND (R426): chunks of one request come in order from chunk 0; with the last one the request is whole, and a trust
operation in it runs, its response standing for the acknowledgement (DESIGN CHOICE, notes/assumptions/61.md). -/
def execChunkSend (m : MHdr) (handle chunk : Nat) (last : Bool) (bytes : List Byte) (s : State) : Out :=
  .next (spdm s m fun s =>
    let had := s.trust.chunks.find? fun c => sameXfer c m handle false
    let at_ := if chunk = 0 then 0 else (had.map (·.next)).getD 0
    if chunk ≠ at_ then spdmAnswer s m 0x85 false errInvalid
    else
      let before := if chunk = 0 then [] else (had.map (·.bytes)).getD []
      let rest := s.trust.chunks.filter fun c => !sameXfer c m handle false
      let x : ChunkXfer := { path := m.path, session := m.session, handle := handle, next := chunk + 1, bytes := before ++ bytes }
      let s := s.modTrust fun t => { t with chunks := if last then rest else rest ++ [x] }
      if last ∧ vendorRequest x.bytes then trustRun m (x.bytes.drop 13) s else spdmAnswer s m 0x85 true [])

/-- Bytes of one chunk of a long response. -/
def chunkBytes : Nat := 4064

/-- CHUNK_GET (R426): chunks of the long response are read in order. -/
def execChunkGet (m : MHdr) (handle chunk : Nat) (s : State) : Out :=
  .next (spdm s m fun s =>
    match s.trust.chunks.find? fun c => sameXfer c m handle true with
    | none => spdmAnswer s m 0x86 false errInvalid
    | some c =>
      if chunk ≠ c.next then spdmAnswer s m 0x86 false errInvalid
      else
        let rest := s.trust.chunks.filter fun c => !sameXfer c m handle true
        let end_ := decide (c.bytes.length ≤ chunkBytes * (chunk + 1))
        let s := s.modTrust fun t => { t with chunks := if end_ then rest else rest ++ [{ c with next := chunk + 1 }] }
        spdmAnswer s m 0x86 true (slice c.bytes (chunkBytes * chunk) chunkBytes))

/-! ### Operator debug (R454 to R458) -/

/-- DBG_CHALLENGE: a fresh nonce. -/
def execDbgChallenge (s : State) : Out :=
  if s.regs.state = 0 then .next s
  else
    let d := s.draw
    let n := freeBytes d.1 32
    .next ((d.2.modTrust fun t => { t with nonce := some n }).emit (.tap true n))

/-- A debug token is accepted (R455, Table 13-14). -/
def tokenOk (s : State) (token signature : List Byte) : Bool :=
  let level := fld token 0x18 1
  decide (token.length = 64) && slice token 0 4 == [0x4C, 0x4E, 0x44, 0x42] && slice token 4 8 == serialBytes
    && decide (fld token 0x0C 4 = s.mgmt.boot) && decide (s.trust.nonce = some (slice token 0x20 32))
    && decide (level = 1 ∨ level = 2) && !(slotKey s 11).isEmpty
    && xmssVerify (slotKey s 11) (shake256 token 32) signature

/-- Write a debug record to partition `p`, at most 16 (R456). -/
def debugRecord (s : State) (p : Nat) (r : DebugRec) : State :=
  s.modPTrust p fun t => { t with
    debugRecs := (t.debugRecs ++ [r]).drop (t.debugRecs.length - 15), debugTotal := t.debugTotal + 1 }

/-- DBG_TOKEN (R455, R456). -/
def execDbgToken (token signature : List Byte) (s : State) : Out :=
  if s.regs.state = 0 then .next s
  else if !tokenOk s token signature then
    .next ((s.modTrust fun t => { t with debugRefused := satAdd 0xFFFF_FFFF t.debugRefused 1 }).emit (.tap false []))
  else
    let module := (fld token 0x19 1).testBit 0
    let scope : Word := if module then BitVec.allOnes 64 else BitVec.ofNat 64 (fld token 0x10 8)
    let r : DebugRec := { level := fld token 0x18 1, boot := s.mgmt.boot, digest := shake256 token 32 }
    let s := s.modTrust fun t => { t with
      debugCount := satAdd 0xFFFF_FFFF t.debugCount 1
      unlocks := t.unlocks ++ [{ level := r.level, scope := scope, module := module }]
      moduleDebug := if module then t.moduleDebug ++ [r] else t.moduleDebug }
    let ps := (s.parts.filter fun kv => scope.toNat.testBit kv.1 && decide (kv.2.code ≠ 255)).map (·.1)
    .next ((ps.foldl (fun s p => debugRecord s p r) s).emit (.tap true []))

/-- DBG_LOCK (R458): every unlock ends, and what a full one held halted goes on. -/
def execDbgLock (s : State) : Out :=
  if s.regs.state = 0 then .next s
  else .next (({ s with blocks := s.blocks.mapVals fun _ b => { b with halted := false } }.modTrust fun t =>
    { t with unlocks := [] }).emit (.tap true []))

end Sys2Proof.Machine
end

