-- ==== Sys2Proof/Machine/Flags.lean ====
section
/-! DEFINITION. What every register reads: status words, flags and counts, by BAR0 offset (02 to 17, the
register tables; 16 Tables 16-14 to 16-17; 17 R542 and R549). -/

namespace Sys2Proof.Machine

/-- A register value from a number. -/
def wordOf (n : Nat) : Word := BitVec.ofNat 64 n

/-- A count that stops at all ones of `bits` bits. -/
def topped (bits n : Nat) : Nat := min (2 ^ bits - 1) n

/-- The index of an entry of `size` bytes in an array from `base` with `count` entries, and the offset in
it. -/
def entryAt (off base size count : Nat) : Option (Nat × Nat) :=
  if base ≤ off ∧ off < base + size * count then some ((off - base) / size, (off - base) % size) else none

/-! ### Identity (16 R539 to R541) -/

/-- A die entry (Table 16-15): districts 0 to 19, then I/O dies 0 to 3. -/
def dieEntry (n : Nat) : List Byte :=
  let fuses := leBytes 16 (Config.dieId n).toNat
  (if n < 20 then [1, BitVec.ofNat 8 n] else [2, BitVec.ofNat 8 (n - 20)]) ++ slice fuses 2 11 ++ [0, 0, 0]

/-- Stack and DIMM fields can be read: memory training has ended (R541). -/
def identityRead (s : State) : Bool :=
  decide (s.regs.state ≠ 0 ∧ s.regs.state ≠ 1) && !decide (s.regs.state = 9 ∧ s.power.cutFrom = 1)

/-- A stack entry (Table 16-16); `id` is the manufacturer and the 24 bytes that the stack answered, nothing
from a stack that did not answer. -/
def stackEntry (n : Nat) (id : List Byte) : List Byte :=
  if id.isEmpty then padTo 32 (leBytes 1 n)
  else leBytes 1 n ++ [16] ++ padTo 2 (id.take 2) ++ leBytes 4 48 ++ padTo 24 (slice id 2 24)

/-- A DIMM entry (Table 16-17). -/
def dimmEntry (n : Nat) (d : Option Dimm) : List Byte :=
  match d with
  | none => padTo 32 (leBytes 1 n)
  | some x =>
    let ok := dimmOk x
    leBytes 1 n ++ [if ok then 1 else 2] ++ leBytes 2 x.manufacturer.toNat ++ leBytes 4 x.serial.toNat
      ++ leBytes 2 (if ok then x.capacityGiB else 0) ++ leBytes 2 (if ok then x.rate else 0)
      ++ padTo 20 (x.part.take 20)

/-- ORDERING of Table 16-14: "LN-9640-H48-CP1" or "LN-9640-H48-CP2", padded with zeros. -/
def ordering : List Byte :=
  [0x4C, 0x4E, 0x2D, 0x39, 0x36, 0x34, 0x30, 0x2D, 0x48, 0x34, 0x38, 0x2D, 0x43, 0x50,
    if Config.coldPlateTwoPhase then 0x32 else 0x31, 0]

/-- COLD_PLATE (Table 16-14). -/
def coldPlate : Byte := if Config.coldPlateTwoPhase then 2 else 1

/-- The 1,344 bytes of the identity reply (R540). -/
def identityBytes (s : State) : List Byte :=
  let ready := identityRead s
  serialBytes ++ ordering ++ leBytes 2 0xB1 ++ [coldPlate] ++ leBytes 1 s.regs.state
    ++ leBytes 2 s.fab.device.toNat ++ leBytes 2 0 ++ leBytes 4 s.mgmt.boot ++ [Config.mfgYear, Config.mfgWeek]
    ++ [24, 12, 16] ++ leBytes 23 0
    ++ (List.range 24).flatMap dieEntry
    ++ (if ready then (List.range 12).flatMap fun n => stackEntry n (s.sled.stackIds.getD n []) else leBytes 384 0)
    ++ (if ready then (List.range 16).flatMap fun n => dimmEntry n (s.sled.dimms.getD n none) else leBytes 512 0)

/-! ### Module global (Tables 17-4 to 17-7) -/

/-- MOD_INFO. -/
def modInfo : Nat :=
  0xB1 + 2 ^ 16 * coldPlate.toNat + 2 ^ 32 * Config.mfgYear.toNat + 2 ^ 40 * Config.mfgWeek.toNat

/-- MOD_STATE (Table 17-5). -/
def modStateWord (s : State) : Nat := s.regs.state + 2 ^ 8 * s.regs.previous + 2 ^ 16 * bit s.regs.resetting

/-- PART_STATE(i). -/
def partStates (s : State) (i : Nat) : Nat :=
  leNat ((List.range 8).map fun k => BitVec.ofNat 8 (s.code (8 * i + k)))

/-- ACCESS_LOG (Table 17-7). -/
def accessLog (s : State) : Nat := s.regs.accessOffset + 2 ^ 26 * s.regs.accessFn + 2 ^ 40 * s.regs.accessCount

def readGlobal (s : State) (off : Nat) : Nat :=
  if off = 0 then Config.serial.toNat
  else if off = 0x08 then modInfo
  else if off = 0x10 then modStateWord s
  else if 0x20 ≤ off ∧ off < 0x60 then partStates s ((off - 0x20) / 8)
  else if off = 0x60 then intStatus s
  else if off = 0x68 then s.regs.intEnable.toNat
  else if off = 0x70 then s.regs.intRoute0.toNat
  else if off = 0x78 then s.regs.intRoute1.toNat
  else if off = 0x80 then accessLog s
  else if 0x100 ≤ off ∧ off < 0x100 + 1344 then fld (identityBytes s) (off - 0x100) 8
  else 0

/-! ### Pattern loader (Tables 02-13 to 02-18) -/

/-- PAT_SLOT_A_STATE and PAT_SLOT_B_STATE (Table 02-17). -/
def slotWord (x : Slot) : Nat :=
  x.state + 4 * bit x.running + 2 ^ 8 * (x.partials.filter fun kv => kv.2.confirmed.isSome).length

/-- SERIAL of the running full pattern. -/
def runningSerial (s : State) : Nat := (s.pattern.map (·.serial)).getD 0

def readLoader (s : State) (off : Nat) : Nat :=
  let l := s.loader
  if off = 0x08 then l.arg.toNat
  else if off = 0x10 then l.chunkAddr.toNat
  else if off = 0x20 then patStatusWord s
  else if off = 0x28 then l.faultOffset % 2 ^ 32 + 2 ^ 32 * l.faultPiece
  else if off = 0x30 then runningSerial s
  else if off = 0x38 then topped 32 (confirmLeft s)
  else if off = 0x40 then l.slotA.serial
  else if off = 0x48 then slotWord l.slotA
  else if off = 0x50 then l.slotB.serial
  else if off = 0x58 then slotWord l.slotB
  else if off = 0x60 then l.serialFloor
  else if off = 0x68 then patEventsWord l.events
  else match entryAt off 0x100 8 64 with
    | some (n, _) => partialFloor l n
    | none => 0

/-! ### Power and clocks (Tables 14-8 to 14-10) -/

/-- PWR_THROTTLE (Table 14-9). -/
def throttleWord (s : State) : Nat :=
  throttleLive s + 16 * topped 27 (largestDelay s) + 2 ^ 31 * bit (anySlow s) + 2 ^ 36 * s.power.causesSeen.toNat

/-- Block `b` is powered. -/
def blockOn (s : State) (b : Nat) : Bool := decide ((s.block b).pwr.state ≠ 2)

/-- PWR_BLOCKS_ON: `n` blocks from `lo`. -/
def blocksOn (s : State) (lo n : Nat) : Nat := maskOf ((List.range n).filter fun k => blockOn s (lo + k))

/-- PWR_DOMAINS. -/
def domainsWord (s : State) : Nat :=
  let w := s.power
  w.hbmOn.toNat + 2 ^ 16 * w.ddrOn.toNat + 2 ^ 24 * w.serdesOn.toNat + 2 ^ 40 * bit w.pcieAOn + 2 ^ 41 * bit w.pcieBOn
    + 2 ^ 48 * w.diesOn.toNat

def readPower (s : State) (off : Nat) : Nat :=
  let w := s.power
  if off = 0x00 then s.now
  else if off = 0x08 then topped 16 w.estimate + 2 ^ 16 * topped 16 w.average + 2 ^ 32 * topped 16 w.measured
    + 2 ^ 48 * topped 16 w.voltage
  else if off = 0x10 then pwrCalWord s
  else if off = 0x18 then w.override + 2 ^ 16 * capInForce s
  else if off = 0x20 then w.diDt
  else if off = 0x28 then throttleWord s
  else if off = 0x30 then topped 8 w.tMax + 2 ^ 8 * topped 8 w.tDistrict + 2 ^ 16 * topped 8 w.inlet + 2 ^ 24 * topped 8 w.outlet
  else if off = 0x38 then w.cutCause + 4 * bit w.cutRefused
  else if off = 0x40 then blocksOn s 0 64
  else if off = 0x48 then blocksOn s 64 16
  else if off = 0x50 then domainsWord s
  else 0

/-! ### Perger mailbox, management and trust (Tables 12-11, 13-13) -/

/-- A session of this key slot is open. -/
def sessionOpen (s : State) (slot : Nat) : Bool := s.trust.sessions.any fun x => decide (x.slot = slot)

/-- Rate, width and DEGRADED of a PCIe link: it trained below x16 at 64 GT/s (R385). -/
def degraded (up : Bool) (rate width : Nat) : Bool := up && decide (rate < 6 ∨ width < 16)

/-- HOST_LINK. -/
def hostLink (s : State) : Nat :=
  let m := s.mgmt
  m.rateA + 2 ^ 4 * m.widthA + 2 ^ 10 * bit (degraded m.linkA m.rateA m.widthA)
    + 2 ^ 16 * m.rateB + 2 ^ 20 * m.widthB + 2 ^ 26 * bit (degraded m.linkB m.rateB m.widthB)

/-- FW_SVN (R431). -/
def fwSvnWord (s : State) : Nat :=
  (List.range 4).foldl (fun n k => n + 2 ^ (16 * k) * (s.trust.fwSvn.at (k + 1) 0 % 2 ^ 16)) 0

def readPerger (s : State) (off : Nat) : Nat :=
  let m := s.mgmt
  let t := s.trust
  if off = 0x08 then bit m.mbxBusy + 2 * bit m.mbxReady
  else if off = 0x10 then bit m.mgmt0 + 2 * bit m.mgmt1 + 4 * bit (sessionOpen s 8) + 8 * bit (sessionOpen s 9)
    + 2 ^ 8 * (m.i3cAddress % 128)
  else if off = 0x18 then m.boot
  else if off = 0x20 then m.eventSeq + 2 ^ 48 * m.events.length
  else if off = 0x28 then Config.vendor.toNat
  else if off = 0x30 then hostLink s
  else if off = 0x40 then bit m.pbBusy + 2 * bit m.pbExtra + 2 ^ 8 * topped 8 m.pbFound
  else if off = 0x3000 then bit t.bootFault + 2 ^ 8 * maskOf (t.bootedB.map (· - 1))
  else if off = 0x3008 then fwSvnWord s
  else if off = 0x3010 then maskOf (t.slots.map (·.1))
  else if off = 0x3018 then t.slotCounter
  else if off = 0x3020 then t.identLimit
  else if off = 0x3028 then identLeft s
  else if off = 0x3030 then bit t.bindRequired
  else if off = 0x3038 then topped 32 t.debugCount + 2 ^ 32 * topped 32 t.debugRefused
  else if off = 0x3040 then (scrubMarks s).toNat
  else if off = 0x3048 then t.bindings.length
  else match entryAt off 0x1000 8 512, entryAt off 0x2000 8 512 with
    | some (w, _), _ => (m.mbxRequest.at w 0).toNat
    | _, some (w, _) => (m.mbxReply.at w 0).toNat
    | _, _ => 0

/-! ### Fault and telemetry (Tables 15-12 to 15-15) -/

/-- Bit number of a unit over the words of Table 15-15. -/
def unitBit : HealthUnit → Nat
  | .block b => b.val
  | .stack n => 64 + 16 + n.val
  | .ddr n => 64 + 28 + n.val
  | .port p => 64 + 44 + p.val
  | .die d => 128 + d.val

/-- Word `w` of DOUBT_MAP or RETIRED_MAP. -/
def unitMap (l : List HealthUnit) (w : Nat) : Nat := bitsOf (maskOf (l.map unitBit)) (64 * w) 64

/-- GRACE_LEFT in seconds. -/
def graceLeft (s : State) : Nat :=
  if s.regs.state = 6 then
    (s.faults.fencedAt + 1_000_000 * (s.modulePiece.map (·.grace)).getD 0 - s.now) / 1_000_000
  else 0

/-- FENCE_STATUS (Table 15-13). -/
def fenceStatus (s : State) : Nat :=
  let f := s.faults
  bit (s.regs.state = 6) + 2 * bit f.graceExpired + 4 * f.fenceCause + 16 * bit f.fencePending
    + 2 ^ 16 * f.stoodIn.toNat + 2 ^ 32 * f.savedDevice.toNat + 2 ^ 48 * topped 12 (graceLeft s)

/-- FLT_RECORD(w): zero for a SEQ that the log does not hold (R490). -/
def selectedRecord (s : State) (w : Nat) : Nat :=
  match s.faults.log.find? fun r => decide (r.seq = s.faults.select) with
  | none => 0
  | some r => fld (faultBytes r) (8 * w) 8

def readFaults (s : State) (off : Nat) : Nat :=
  let f := s.faults
  if off = 0x00 then f.seq
  else if off = 0x08 then f.select
  else if off = 0x10 then topped 32 f.overwritten
  else if off = 0x18 then topped 32 (leaseLeft s) + 2 ^ 32 * bit f.leaseRunning
  else if off = 0x20 then fenceStatus s
  else if off = 0x28 then selftestWord s
  else if off = 0x30 then f.rsn.toNat + 2 ^ 32 * f.rsnCommand
  else if off = 0x38 then f.watchdog
  else if off = 0x40 then f.uncorrLimit
  else if 0x48 ≤ off ∧ off < 0x60 then unitMap f.doubt ((off - 0x48) / 8)
  else if 0x60 ≤ off ∧ off < 0x78 then unitMap f.retired ((off - 0x60) / 8)
  else if 0x100 ≤ off ∧ off < 0x140 then selectedRecord s ((off - 0x100) / 8)
  else 0

/-! ### Fabric ports, routing, module transport (Tables 10-8, 10-10 to 10-12, 11-9) -/

/-- Credit shares of four VLs. -/
def shares (x : Port) (lo : Nat) : Nat :=
  (List.range 4).foldl (fun n v => n + 2 ^ (16 * v) * (x.credits.getD (lo + v) 0 % 2 ^ 16)) 0

/-- PRESENT: a HELLO arrived within three periods (Table 10-10). -/
def neighbourPresent (s : State) (x : Port) : Bool :=
  match x.helloAt with
  | none => false
  | some t => decide (s.now ≤ t + 300)

def readPort (s : State) (p off : Nat) : Nat :=
  let x := s.port p
  if off = 0x00 then fpStatus x
  else if off = 0x08 then bit x.disable
  else if off = 0x10 then shares x 0
  else if off = 0x18 then shares x 4
  else if off = 0x20 then x.nbSerial.toNat
  else if off = 0x28 then x.nbDevice.toNat + 2 ^ 16 * x.nbPort.toNat + 2 ^ 24 * bit (neighbourPresent s x)
  else if off = 0x30 then topped 32 (meanOf x.loops)
  else if off = 0x38 then topped 32 x.corrected + 2 ^ 32 * topped 32 x.uncorrectable
  else if off = 0x40 then topped 32 x.rxPackets + 2 ^ 32 * topped 32 x.rxControls
  else if off = 0x48 then x.txUnits
  else if off = 0x50 then x.rxUnits
  else 0

/-- FAB_BANK(b) (Table 10-12). -/
def bankWord (x : Bank) : Nat := x.epoch + 2 ^ 62 * bit x.clash + 2 ^ 63 * bit x.valid

/-- XT_PEER: the peer context of the selected device (Table 11-9). A class that has sent nothing shows the window that its
session starts at (R355, R359), and a device without a context zeros (DESIGN CHOICE, notes/assumptions/31.md). -/
def peerWord (s : State) : Nat :=
  let p := s.peer s.fab.peerSelect
  let window := fun (x : Session) => if x.started then x.window else if p.inUse then s.fab.windowInit else 0
  bit p.inUse + 2 * bit p.lost + 2 ^ 16 * topped 11 (window p.c1) + 2 ^ 32 * topped 11 (window p.c2)
    + 2 ^ 48 * topped 11 p.c2.unacked.length

def readRouting (s : State) (off : Nat) : Nat :=
  let f := s.fab
  if off < 0x10_0000 then ((s.bank (decide (0x8_0000 ≤ off))).routes.at (off % 0x8_0000 / 8) 0).toNat
  else if off = 0x10_0000 then f.device.toNat
  else if off = 0x10_0008 then bankWord f.bank0
  else if off = 0x10_0010 then bankWord f.bank1
  else if off = 0x10_0018 then bit f.current
  else if off = 0x10_0020 then f.hopLimit
  else if off = 0x10_0028 then f.hopWeight
  else if off = 0x10_0030 then f.markUnits
  else if off = 0x10_0038 then f.uncorrLimit
  else if off = 0x10_0040 then topped 16 f.dropHops + 2 ^ 16 * topped 16 f.dropBank + 2 ^ 32 * topped 16 f.dropEntry
    + 2 ^ 48 * topped 16 f.dropCheck
  else if off = 0x11_0000 then f.rto
  else if off = 0x11_0008 then f.targetTimeout
  else if off = 0x11_0010 then f.windowInit
  else if off = 0x11_0018 then f.peerSelect
  else if off = 0x11_0020 then peerWord s
  else if off = 0x11_0030 then topped 16 f.dropPeer + 2 ^ 16 * topped 16 f.dropReorder + 2 ^ 32 * topped 16 f.dropOp
    + 2 ^ 48 * topped 16 f.lostCount
  else if off = 0x11_0038 then f.reorder.length
  else 0

/-! ### Memory tiers (Table 09-9) -/

/-- HBM_ECC and DDR_ECC. -/
def eccWord (e : Ecc) : Nat := topped 32 e.corrected + 2 ^ 32 * topped 16 e.uncorrectable

/-- DDR_DIMM(n): an empty socket reads REFUSED once the DIMMs have been read (R293, R541). -/
def dimmWord (s : State) (n : Nat) : Nat :=
  let d := s.sled.dimms.getD n none
  let ok := dimmAt s n
  (ok.map (·.capacityGiB)).getD 0 + 2 ^ 16 * (ok.map (·.rate)).getD 0 + 2 ^ 32 * bit ((d.map (·.ecc)).getD false)
    + 2 ^ 33 * bit (s.sled.trained && ok.isNone)

/-- I/O queue pairs on a drive: one for each partition with a VALID NV_LOCAL entry on it (Table 09-3). -/
def queuePairs (s : State) (d : Nat) : Nat := (s.parts.filter fun kv => usesDrive kv.2.mem d).length

def readMemory (s : State) (off : Nat) : Nat :=
  if off < 0xC00 then eccWord (s.hbmEcc.at (off / 8) {})
  else if 0x1000 ≤ off ∧ off < 0x1080 then eccWord (s.ddrEcc.at ((off - 0x1000) / 8) {})
  else if 0x1080 ≤ off ∧ off < 0x1100 then dimmWord s ((off - 0x1080) / 8)
  else if off = 0x2000 then s.regs.scrubPeriod + 2 ^ 8 * bit s.regs.scrubOff
  else if off = 0x2008 then topped 32 s.regs.scrubPasses
  else if 0x3000 ≤ off ∧ off < 0x3040 then
    let d := s.drive ((off - 0x3000) / 8)
    d.state + 2 ^ 8 * topped 8 (queuePairs s ((off - 0x3000) / 8)) + 2 ^ 16 * bit d.cache
  else 0

/-! ### Schedulers (Tables 08-3 to 08-6) -/

/-- Tollgate `n`. -/
def readToll (s : State) (n off : Nat) : Nat :=
  let t := s.toll n
  if off = 0 then (BitVec.ofInt 64 t.level).toNat
  else if off = 8 then t.sDepth
  else if off = 0x10 then t.sRefill
  else t.sInterval + 2 ^ 32 * t.mode + 2 ^ 40 * bit t.pending + 2 ^ 48 * t.hold.length

/-- Deficit and BACKLOGGED of queue `q`; of its own lane when it is a parent (Table 08-4). -/
def deficitWord (r : Roundabout) (q : Nat) : Nat :=
  let m := if r.isParent q then raOwn q else q
  (r.members.at m {}).deficit % 2 ^ 32 + 2 ^ 32 * bit (r.active.any fun kv => kv.2.contains m)

/-- The two words of a Crossing entry (Table 08-5). -/
def crossingWord (e : XEntry) (hi : Bool) : Nat :=
  if hi then e.counter else e.duration + 2 ^ 32 * e.opens + 2 ^ 48 * bit e.signal

def readSchedulers (s : State) (off : Nat) : Nat :=
  match entryAt off 0 0x20 4096, entryAt off 0x2_0000 0x4000 16, entryAt off 0x6_0000 8 16,
      entryAt off 0x7_0000 0x400 64, entryAt off 0x8_0000 0x10 64 with
  | some (n, o), _, _, _, _ => if s.tolls.has n then readToll s n o else 0
  | _, some (r, o), _, _, _ =>
    let x := s.roundabout r
    let q := o / 16
    if !x.queues.any fun e => decide (e.queue = q) then 0
    else if o % 16 = 0 then ((x.members.at q {}).staged.getD (x.members.at q {}).quantum)
    else deficitWord x q
  | _, _, some (r, _), _, _ =>
    let x := s.roundabout r
    if s.roundabouts.has r then x.shape + 2 ^ 15 * bit x.shapeOn + 2 ^ 16 * bit (gateNamed s r) + 2 ^ 17 * bit (gateOpen s r)
    else 0
  | _, _, _, some (n, o), _ =>
    match (s.crossing n).entries[o / 16]? with
    | none => 0
    | some e => crossingWord e (decide (o % 16 = 8))
  | _, _, _, _, some (n, o) =>
    let x := s.crossing n
    if o = 0 then x.offset else bit x.running + 2 ^ 8 * x.current + 2 ^ 32 * topped 32 x.alignments
  | _, _, _, _, _ => 0

/-! ### Partition windows -/

/-- Lane registers (Tables 03-5 to 03-7): zero for a lane that the partition does not own (R80). KIND of LANE_STATUS
shows the pattern's KIND from entry to Open on, where R82 has the register zero (DESIGN CHOICE,
notes/assumptions/60.md). -/
def readLane (s : State) (p n off : Nat) : Nat :=
  let l := s.lane n
  if !s.ownsLane p n then 0
  else if off = 0 then l.items.length + 2 ^ 16 * bit l.overrun + 2 ^ 17 * bit l.staleBit + 2 ^ 24 * l.kind
  else if off = 8 then bit l.intArm + 2 * bit l.intOverrun + 4 * bit l.intStale
  else if off = 0x10 then l.drops
  else if l.items.isEmpty then 0 else topped 32 (s.now - l.restart)

/-- Counter access registers (Tables 03-8, 03-9). -/
def readCounters (s : State) (p off : Nat) : Nat :=
  let x := s.part p
  if off = 0 then x.ctrSelect
  else if off = 8 then
    let k := s.counter x.ctrSelect
    if s.ownsCtr p x.ctrSelect then k.value + 2 ^ 63 * bit k.fault else 0
  else match entryAt off 0x40 0x10 8 with
    | none => 0
    | some (n, o) =>
      let w := x.waits.at n {}
      if o = 8 then w.threshold else w.counter + 2 ^ 24 * w.vector + 2 ^ 31 * bit w.armed

/-- The partition holds a unit of a list. -/
def holdsUnit (s : State) (p : Nat) (l : List HealthUnit) : Bool :=
  l.any fun u => match u with
    | .block b => decide (s.blockOwner b.val = some p)
    | .stack n => (s.hbmOf p).any fun c => decide (c / 32 = n.val)
    | .ddr n => (s.ddrOf p).contains n.val
    | _ => false

/-- PART_FAULT_STATUS (Table 15-10). -/
def partFaultStatus (s : State) (p : Nat) : Nat :=
  let f := (s.part p).fault
  bit f.quiesced + 2 * bit (holdsUnit s p s.faults.doubt) + 4 * bit (holdsUnit s p s.faults.retired)
    + 2 ^ 16 * topped 4 f.replayRun + 2 ^ 24 * f.lastCode.toNat + 2 ^ 32 * bit f.newFault

def readPartFault (s : State) (p off : Nat) : Nat :=
  let f := (s.part p).fault
  if off = 0 then partFaultStatus s p
  else if off = 8 then 2 ^ 8 * f.faultVector + 2 ^ 15 * bit f.faultInt + 2 ^ 16 * f.replayLimit
  else if off = 0x10 then f.seq
  else if off = 0x18 then topped 32 f.replays
  else 0

/-- Hand-off and Last service registers (Tables 05-10 to 05-12). -/
def readHandoff (s : State) (p off : Nat) : Nat :=
  let l := (s.part p).last
  let cache := fun (n : Nat) => if isCache s p then n else 0
  if off = 0x80 then l.hoTimeout
  else if off = 0x88 then cache l.ttlHbm
  else if off = 0x90 then cache l.ttlDdr
  else if off = 0x98 then cache l.ttlNvme
  else if off = 0xA0 then
    cache (bit l.partnerLost + 2 ^ 32 * topped 24 (l.dir.filter fun kv => decide (1 ≤ kv.2.state)).length)
  else match entryAt off 0 8 16, entryAt off 0x100 0x10 8 with
    | some (i, _), _ =>
      let t := l.targets.at i {}
      t.device + 2 ^ 16 * t.partition + 2 ^ 63 * bit t.valid
    | _, some (k, o) =>
      let c := l.cancels.at k {}
      if o = 8 then c.tag.toNat else c.status.toNat + 2 ^ 24 * c.vector + 2 ^ 31 * bit c.armed
    | _, _ => 0

/-- Attention service registers (Tables 07-8, 07-9). -/
def readService (s : State) (p off : Nat) : Nat :=
  let l := (s.part p).last
  let h := (s.part p).hold
  if off = 0 then (if isCache s p then l.stripeMin else 0)
  else if off = 8 then l.served
  else if off = 0x10 then l.striped
  else if off = 0x18 then l.stripeLocal
  else if off = 0x20 then bit h.specOff
  else if off = 0x28 then h.drafted
  else if off = 0x30 then h.accepted
  else 0

/-- Contexts of `p` that are resident, and that are swapped and runnable (R288). -/
def residentCount (s : State) (p : Nat) : Nat := ((s.part p).hold.ctxs.filter fun kv => kv.2.slot.isSome).length
def swappedCount (s : State) (p : Nat) : Nat :=
  ((s.part p).hold.ctxs.filter fun kv => kv.2.slot.isNone && kv.2.runnableSince.isSome).length

/-- Admission and scheduling registers (Table 08-7). -/
def readAdmission (s : State) (p off : Nat) : Nat :=
  let h := (s.part p).hold
  if off = 0x180 then topped 32 h.walks + 2 ^ 32 * topped 32 h.insertDropped
  else if off = 0x188 then h.reserve
  else if off = 0x190 then h.margin
  else if off = 0x198 then h.fallbackEst
  else if off = 0x1A0 then h.written.queryWait
  else if off = 0x1A8 then bit h.written.firstEnd + 2 * bit h.written.worstCase + 4 * bit h.noFallback
  else if off = 0x1B0 then h.wcStep + 2 ^ 32 * h.written.wcFirst
  else if off = 0x1B8 then topped 32 (stepEst h) + 2 ^ 32 * bit h.boundExceeded
  else if off = 0x1C0 then topped 32 h.fallbackTokens + 2 ^ 32 * topped 32 h.missed
  else if off = 0x1C8 then h.combinedChunk
  else if off = 0x1D0 then h.written.ctxBlockMin
  else if off = 0x1D8 then topped 8 (residentCount s p) + 2 ^ 8 * topped 8 (swappedCount s p) + 2 ^ 16 * topped 32 h.forced
  else match entryAt off 0 0x18 16 with
    | none => 0
    | some (i, o) =>
      if o = 0 then (h.spTable.at i 0).toNat else if o = 8 then (h.spBase.at i 0).toNat else (h.spDirectory.at i 0).toNat

/-- MIG_STATUS (Table 09-8). -/
def migStatus (m : PMem) : Nat :=
  2 ^ 10 * (match m.job with
    | none => 0
    | some j => if j.waiting then 2 else 1) + 2 ^ 24 * m.lastFail.toNat + 2 ^ 32 * bit m.tailError

/-- Partition memory registers (Table 09-7). -/
def readPartMemory (s : State) (p off : Nat) : Nat :=
  let m := (s.part p).mem
  if off = 0 then m.base
  else if off = 8 then m.size
  else if off = 0x10 then m.tail.toNat
  else if off = 0x18 then m.head.toNat
  else if off = 0x20 then migStatus m
  else if off = 0x28 then m.failAt
  else if off = 0x30 then topped 32 (poolFree s p 1) + 2 ^ 32 * topped 32 (poolFree s p 2)
  else if off = 0x38 then m.nvTimeout
  else if off = 0x2C0 then m.nvOverlap.toNat
  else match entryAt off 0x40 0x18 16, entryAt off 0x200 0x18 8 with
    | some (i, o), _ =>
      ((if o = 0 then m.nbLocal else if o = 8 then m.nbLender else m.nbOffset).at i 0).toNat
    | _, some (i, o) => ((if o = 0 then m.nvLocal else if o = 8 then m.nvDrive else m.nvLba).at i 0).toNat
    | _, _ => 0

/-- Partition transport registers (Table 11-7). -/
def readTransport (s : State) (p off : Nat) : Nat :=
  let x := (s.part p).xt
  if off = 0 then x.tableBase
  else if off = 8 then x.epCount
  else if off = 0x18 then x.cmdCode.toNat
  else if off = 0x20 then x.emptyLimit
  else if off = 0x28 then topped 16 x.kerbDiscards + 2 ^ 16 * topped 16 x.reasmDiscards + 2 ^ 32 * topped 16 x.raDiscards
    + 2 ^ 48 * topped 16 x.msgDiscards
  else if off = 0x30 then topped 6 x.parked.length + 2 ^ 8 * topped 7 x.fetches.length
  else match entryAt off 0x100 0x20 16 with
    | none => 0
    | some (q, o) =>
      let r := x.srqs.at q {}
      if o = 0 then r.base else if o = 8 then r.size else if o = 0x10 then r.tail.toNat else r.head.toNat

/-- The live epoch of the composition of `p` that it does not stamp. -/
def otherEpoch (s : State) (p : Nat) : Nat :=
  match s.mgmt.comps.find? fun kv => kv.2.live.any fun m => mapNames m (mapDevice s) p with
  | none => 0
  | some kv => (((kv.2.live.map (·.epoch)).filter fun e => decide (e ≠ stampEpoch s p)).head?).getD 0

/-- The composition that a live map of this module gives `p`. -/
def heldBy (s : State) (p : Nat) : Option (Nat × Comp) :=
  s.mgmt.comps.find? fun kv => (kv.2.current.toList ++ kv.2.previous.toList).any fun m => mapNames m (mapDevice s) p

/-- COMP_STATUS (Table 12-12): DRAINING while the epoch stamped is PREVIOUS's (R410). -/
def compStatus (s : State) (p : Nat) : Nat :=
  match heldBy s p with
  | none => 0
  | some (n, c) =>
    let inCurrent := c.current.any fun m => mapNames m (mapDevice s) p
    n + 2 ^ 16 * stampEpoch s p + 2 ^ 32 * otherEpoch s p + 2 ^ 48 * bit (!inCurrent)

/-- HBM and DDR5 channels that a scrub still has to zero (Table 13-12): all of a tier's are written at once from
the end of step 3, each for the time that R451 gives (DESIGN CHOICE, notes/assumptions/39.md). -/
def channelsLeft (s : State) (p : Nat) : Nat × Nat :=
  let t := (s.part p).trust
  let left := fun (k : Nat) => decide (s.now < t.scrubAt + 1000 + scrubTime s k)
  if t.scrubStep = 0 then (0, 0)
  else (((s.hbmOf p).filter fun c => left (c / 32)).length, ((s.ddrOf p).filter fun c => left (16 + c)).length)

/-- The step of Table 13-10 that the scrub of partition `p` is in. -/
def scrubStepNow (s : State) (p : Nat) : Nat :=
  let t := (s.part p).trust
  let c := channelsLeft s p
  if t.scrubStep = 0 ∨ s.now < t.scrubAt + 1000 then t.scrubStep
  else if c.1 ≠ 0 then 4 else if c.2 ≠ 0 then 5 else 6

/-- Partition trust registers (Table 13-12). -/
def readPartTrust (s : State) (p off : Nat) : Nat :=
  let t := (s.part p).trust
  if off = 0 then t.newest % 256 + 2 ^ 8 * (t.older % 256) + 2 ^ 16 * bit t.sweeping + 2 ^ 17 * bit t.forced
    + 2 ^ 32 * topped 32 t.olderPages.length
  else if off = 8 then topped 32 (keyReaders s p)
  else if off = 0x10 then t.sweepShare
  else if off = 0x18 then topped 32 t.stuck
  else if 0x20 ≤ off ∧ off < 0x40 then bitsOf (maskOf t.verified) (64 * ((off - 0x20) / 8)) 64
  else if off = 0x40 then
    let c := channelsLeft s p
    bit (s.code p = 8) + 2 * scrubStepNow s p + 2 ^ 16 * topped 9 c.1 + 2 ^ 32 * topped 5 c.2
  else if off = 0x48 then
    bit (!t.debugRecs.isEmpty) + 2 * bit (s.trust.unlocks.any fun u => decide (u.level = 2) && u.scope.toNat.testBit p)
      + 2 ^ 8 * topped 5 t.debugRecs.length
  else 0

/-- Partition power registers (Table 14-7). -/
def readPartPower (s : State) (p off : Nat) : Nat :=
  let w := (s.part p).power
  if off = 0 then topped 16 w.estimate + 2 ^ 16 * topped 16 w.average + 2 ^ 32 * ((s.piece p).map (·.powerCap)).getD 0
  else if off = 8 then w.offAfter
  else if off = 0x10 then w.stepPeriod
  else if off = 0x18 then w.clock + 2 ^ 16 * w.ceiling + 2 ^ 32 * bit (partSlow s p) + 2 ^ 33 * bit w.follow.isSome
  else 0

def readPartition (s : State) (p off : Nat) : Nat :=
  match entryAt off 0x1_0000 0x20 4096 with
  | some (n, o) => readLane s p n o
  | none =>
    let o := off % 0x1000
    if 0x3_0000 ≤ off ∧ off < 0x3_1000 then readCounters s p o
    else if off < 0x3_7000 then 0
    else if off < 0x3_8000 then readPartFault s p o
    else if off < 0x3_9000 then readHandoff s p o
    else if off < 0x3_A000 then readService s p o
    else if off < 0x3_B000 then readAdmission s p o
    else if off < 0x3_C000 then readPartMemory s p o
    else if off < 0x3_D000 then readTransport s p o
    else if off = 0x3_D000 then (s.part p).hostWindow
    else if off = 0x3_D008 then compStatus s p
    else if off < 0x3_E000 then 0
    else if off < 0x3_F000 then readPartTrust s p o
    else readPartPower s p o

/-! ### Block windows -/

/-- ENG_STATUS (Table 06-7): STATE reads 1 while a fused attention command runs (R225). -/
def engStatus (s : State) (b : Nat) : Nat :=
  let e := (s.block b).eng
  (if fusedBusy s b then 1 else e.state) + 2 ^ 8 * e.entry + 2 ^ 16 * e.slot + 2 ^ 24 * e.faultCode.toNat
    + 2 ^ 32 * bit e.launchRefused + 2 ^ 38 * e.faultCore

def readEngine (s : State) (b off : Nat) : Nat :=
  let e := (s.block b).eng
  if off = 8 then e.arg.toNat
  else if off = 0x10 then engStatus s b
  else if off = 0x20 then e.cycles
  else if off = 0x28 then e.faultAt.toNat
  else 0

/-- Context fetches on Awl `a` of block `b`: they run on Awl 7 of a partition's lowest-numbered block (R377). -/
def fetchesOn (s : State) (b a : Nat) : Nat :=
  match s.blockOwner b with
  | none => 0
  | some p => if a = 7 ∧ (s.blocksOf p).head? = some b then (s.part p).xt.fetches.length else 0

/-- AWL_STATUS (Table 03-17): a context fetch on the Awl is one of its outstanding requests (R100). -/
def awlStatus (a : Awl) (fetches : Nat) : Nat :=
  let out := (a.jobs.map fun j => j.outstanding.length).foldl (· + ·) 0 + fetches
  let st := if a.flushing then 3 else if a.waiting.isSome then 2 else if a.jobs.isEmpty ∧ a.head = a.tail then 0 else 1
  topped 10 out + 2 ^ 10 * st + 2 ^ 16 * topped 7 a.jobs.length + 2 ^ 24 * a.lastFail.toNat + 2 ^ 32 * bit a.tailError

def readAwl (a : Awl) (fetches off : Nat) : Nat :=
  if off = 0 then a.base
  else if off = 8 then a.size
  else if off = 0x10 then a.tail.toNat
  else if off = 0x18 then a.head.toNat
  else if off = 0x20 then awlStatus a fetches
  else if off = 0x30 then a.done
  else 0

/-- ATTN_STATUS (Table 07-4). -/
def attnStatus (s : State) (b : Nat) : Nat :=
  let a := (s.block b).attn
  let fused := ((s.blockOwner b).map (fusedAt s)).getD false
  let st := if a.flushing then 3 else if a.waiting.isSome then 2 else if a.jobs.isEmpty ∧ a.head = a.tail then 0 else 1
  2 ^ 10 * st + 2 ^ 12 * bit fused + 2 ^ 16 * topped 3 a.jobs.length + 2 ^ 24 * a.lastFail.toNat + 2 ^ 32 * bit a.tailError

def readAttn (s : State) (b off : Nat) : Nat :=
  let a := (s.block b).attn
  if off = 0 then a.base
  else if off = 8 then a.size
  else if off = 0x10 then a.tail.toNat
  else if off = 0x18 then a.head.toNat
  else if off = 0x20 then attnStatus s b
  else if off = 0x30 then a.done
  else if off = 0x38 then a.failTag.toNat
  else 0

/-- Block power registers (Table 14-6). -/
def readBlockPower (s : State) (b off : Nat) : Nat :=
  let owner := (s.blockOwner b).getD 0
  let w := (s.part owner).power
  if off = 0 then (s.block b).pwr.state + 2 ^ 16 * (if s.power.fastLimit then w.clock / 2 else w.clock)
  else if off = 8 then w.hint
  else if off = 0x10 then (arriveWord s owner).toNat
  else if off = 0x18 then w.peerDelay
  else 0

def readBlock (s : State) (b off : Nat) : Nat :=
  if off < 0x1_0000 then readEngine s b off
  else if off < 0x1_0200 then readAwl (s.awl (8 * b + (off - 0x1_0000) / 0x40)) (fetchesOn s b ((off - 0x1_0000) / 0x40)) (off % 0x40)
  else if 0x1_8000 ≤ off ∧ off < 0x1_C000 then readAttn s b (off - 0x1_8000)
  else if 0x1_C000 ≤ off then readBlockPower s b (off - 0x1_C000)
  else 0

/-! ### The whole control space (Table 17-1) -/

/-- What an aligned 64-bit read of a BAR0 offset reads, access rules apart: zero where no chapter names a
register (R542). -/
def registerValue (s : State) (off : Nat) : Nat :=
  if off < 0x1_0000 then readGlobal s off
  else if off < 0x2_0000 then readLoader s (off - 0x1_0000)
  else if off < 0x3_0000 then readPower s (off - 0x2_0000)
  else if off < 0x4_0000 then readPerger s (off - 0x3_0000)
  else if off < 0x5_0000 then readFaults s (off - 0x4_0000)
  else if 0x10_0000 ≤ off ∧ off < 0x19_0000 then readPort s ((off - 0x10_0000) / 0x8000) (off % 0x8000)
  else if 0x20_0000 ≤ off ∧ off < 0x40_0000 then readRouting s (off - 0x20_0000)
  else if 0x40_0000 ≤ off ∧ off < 0x80_0000 then readMemory s (off - 0x40_0000)
  else if 0x80_0000 ≤ off ∧ off < 0x100_0000 then readSchedulers s (off - 0x80_0000)
  else if 0x100_0000 ≤ off ∧ off < 0x200_0000 then readPartition s ((off - 0x100_0000) / 0x4_0000) (off % 0x4_0000)
  else if 0x200_0000 ≤ off ∧ off < 0x2A0_0000 then readBlock s ((off - 0x200_0000) / 0x2_0000) (off % 0x2_0000)
  else 0

/-- The partition that owns the register at a BAR0 offset from the scheduler block on (Table 17-1, R545). -/
def offOwner (s : State) (off : Nat) : Option Nat :=
  if off < 0x100_0000 then
    let o := off - 0x80_0000
    match entryAt o 0 0x20 4096, entryAt o 0x2_0000 0x4000 16, entryAt o 0x6_0000 8 16,
        entryAt o 0x7_0000 0x400 64, entryAt o 0x8_0000 0x10 64 with
    | some (n, _), _, _, _, _ => (s.tolls.find n).map (·.owner)
    | _, some (r, _), _, _, _ => (s.roundabouts.find r).map (·.owner)
    | _, _, some (r, _), _, _ => (s.roundabouts.find r).map (·.owner)
    | _, _, _, some (n, _), _ => (s.crossings.find n).map (·.owner)
    | _, _, _, _, some (n, _) => (s.crossings.find n).map (·.owner)
    | _, _, _, _, _ => none
  else if off < 0x200_0000 then s.defined ((off - 0x100_0000) / 0x4_0000)
  else s.blockOwner ((off - 0x200_0000) / 0x2_0000)

/-- MOD_SERIAL, MOD_INFO, MOD_STATE, PART_STATE and ID_IMAGE, which answer reads from every VF (R544). -/
def vfReads (off : Nat) : Bool := decide (off ≤ 0x10 ∨ (0x20 ≤ off ∧ off < 0x60) ∨ (0x100 ≤ off ∧ off < 0x100 + 1344))

/-- A read of BAR0 through a function of port A, as it answers (R50, R387, R418, R452, R543 to R546): the pattern loader,
the mailbox and every other module-global register read as zero to a VF, but for those of `vfReads`. No row of the command
list is such a read: what reads change something is BLK_ARRIVE_READ. -/
def hostRead (s : State) (fn : Fn) (off : Nat) : State :=
  if s.regs.state = 0 ∨ s.regs.state = 9 then s
  else if !fnAnswers s fn.val off then s.emit (.unsupported fn.val)
  else if off % 8 ≠ 0 then (logAccess s fn.val off).emit (.unsupported fn.val)
  else if 0x80_0000 ≤ off then
    let g := portGate s (.host fn) (offOwner s off) off
    g.2.emit (.readValue fn.val (BitVec.ofNat 64 (if g.1 then registerValue g.2 off else 0)))
  else if fn.val = 0 ∨ vfReads off then s.emit (.readValue fn.val (BitVec.ofNat 64 (registerValue s off)))
  else (logAccess s fn.val off).emit (.readValue fn.val 0)

end Sys2Proof.Machine
end

