-- ==== Sys2Proof/Machine/Regs.lean ====
section
/-! DEFINITION. The control space: what a write of each register does, and the meanings of the register
commands that no other chapter's commands cover (17 R542 to R553). -/

namespace Sys2Proof.Machine

/-- A field of `n` bits takes a value within bounds; a value outside them is ignored. -/
def within (lo hi v old : Nat) : Nat := if lo ≤ v ∧ v ≤ hi then v else old

/-! ### Module global (Tables 17-4 to 17-6, R550 to R553) -/

/-- The module reset is refused in Cut, in Kept and during power-down (R553); Dark answers nothing. -/
def resetRefused (s : State) : Bool := decide (s.regs.state ≤ 1 ∨ s.regs.state = 9) || s.sled.poweringDown

/-- Write MOD_RESET: the key requests the module reset (R551). -/
def modResetPut (value : Word) (s : State) : State :=
  if bitsOf value.toNat 0 16 = 0x9640 ∧ !resetRefused s then moduleReset s 0xFFFF finishFlash else s

/-- MOD_RESET (R551, R553). -/
def execModReset (src : Src) (value : Word) (s : State) : Out := .next (globalWrite s src 0x18 (modResetPut value))

/-- Write INT_ENABLE: each source that it enables anew raises its vector while its INT_STATUS bit is 1
(R550). -/
def intEnablePut (value : Word) (s : State) : State :=
  let new : BitVec 11 := value.setWidth 11
  let rises := (List.range 11).filter fun k =>
    new.toNat.testBit k && !s.regs.intEnable.toNat.testBit k && (intStatus s).testBit k
  raiseSources (s.modRegs fun r => { r with intEnable := new }) rises

/-- INT_ENABLE_WRITE (R550). -/
def execIntEnableWrite (src : Src) (value : Word) (s : State) : Out :=
  .next (globalWrite s src 0x68 (intEnablePut value))

/-- INT_ROUTE keeps bits 4:0 of each byte (Table 17-4). -/
def routeMask : Word := 0x1F1F_1F1F_1F1F_1F1F

def putGlobal (off : Nat) (value : Word) (s : State) : State :=
  let v := value.toNat
  if off = 0x18 then modResetPut value s
  else if off = 0x60 then s.modRegs fun r => { r with
    intFault := r.intFault && !v.testBit 1
    intState := r.intState && !v.testBit 8
    intAccess := r.intAccess && !v.testBit 9
    intEventLog := r.intEventLog && !v.testBit 10 }
  else if off = 0x68 then intEnablePut value s
  else if off = 0x70 then s.modRegs fun r => { r with intRoute0 := value &&& routeMask }
  else if off = 0x78 then s.modRegs fun r => { r with intRoute1 := value &&& routeMask }
  else s

/-! ### Pattern loader (Tables 02-13 to 02-15, 02-18) -/

/-- Write PAT_COMMAND: other values of CMD are ignored (Table 02-14). -/
def commandPut (cmd part : Nat) (s : State) : State :=
  if cmd = 1 then beginLoad part s
  else if cmd = 2 then commitLoad s
  else if cmd = 3 then confirmLoad part s
  else if cmd = 4 then abortLoad s
  else if cmd = 5 then openLoad part s
  else if cmd = 6 then stopLoad part s
  else s

def putLoader (off : Nat) (value : Word) (s : State) : State :=
  let v := value.toNat
  if off = 0x00 then commandPut (bitsOf v 0 8) (bitsOf v 8 8) s
  else if off = 0x08 then s.modLoader fun l => { l with arg := value }
  else if off = 0x10 then s.modLoader fun l => { l with chunkAddr := wordOf (v / 64 * 64) }
  else if off = 0x18 then chunkWrite (bitsOf v 0 32) (bitsOf v 32 32) none s
  else if off = 0x68 then s.modLoader fun l => { l with events := {
    committed := l.events.committed && !v.testBit 0
    failed := l.events.failed && !v.testBit 1
    confirmExpired := l.events.confirmExpired && !v.testBit 2
    restoredOlder := l.events.restoredOlder && !v.testBit 3
    chunkDone := l.events.chunkDone && !v.testBit 4 } }
  else s

/-! ### Power and clocks (Tables 14-8 to 14-10) -/

def putPower (off : Nat) (value : Word) (s : State) : State :=
  let v := value.toNat
  if off = 0x18 then s.modPow fun w =>
    let o := bitsOf v 0 13
    { w with override := if o = 0 ∨ (1000 ≤ o ∧ o ≤ 6000) then o else w.override }
  else if off = 0x20 then s.modPow fun w => { w with diDt := within 10 40 (bitsOf v 0 6) w.diDt }
  else if off = 0x28 then
    noteCauses (s.modPow fun w => { w with causesSeen := w.causesSeen &&& ~~~BitVec.ofNat 4 (bitsOf v 36 4) })
  else if off = 0x38 then cutPut value s
  else s

/-! ### Perger mailbox and port B (Table 12-11) -/

/-- Write MBX_DOORBELL: SEND hands the request over; one is not taken while another is being handled (R400). -/
def sendPut (value : Word) (s : State) : State :=
  if value.toNat.testBit 0 ∧ !s.mgmt.mbxBusy then
    s.modMgmt fun m => { m with mbxBusy := true, mbxReady := false }
  else s

/-- Write PB_CONTROL: RESCAN starts an enumeration while port B has power (R391). -/
def rescanPut (value : Word) (s : State) : State :=
  if value.toNat.testBit 0 ∧ s.power.pcieBOn then s.modMgmt fun m => { m with pbBusy := true, pbRescan := true } else s

def putPerger (off : Nat) (value : Word) (s : State) : State :=
  if off = 0 then sendPut value s
  else if off = 0x38 then rescanPut value s
  else match entryAt off 0x1000 8 512 with
    | some (w, _) => s.modMgmt fun m => { m with mbxRequest := m.mbxRequest.put w value }
    | none => s

/-! ### Fault and telemetry (Tables 15-12, 15-13) -/

def putFaults (off : Nat) (value : Word) (s : State) : State :=
  let v := value.toNat
  if off = 0x08 then s.modFlt fun f => { f with select := v }
  else if off = 0x20 then s.modFlt fun f => { f with graceExpired := f.graceExpired && !v.testBit 1 }
  else if off = 0x38 then s.modFlt fun f => { f with watchdog := within 1000 10_000_000 (bitsOf v 0 32) f.watchdog }
  else if off = 0x40 then s.modFlt fun f => { f with uncorrLimit := within 1 65535 (bitsOf v 0 16) f.uncorrLimit }
  else s

/-! ### Fabric ports, routing, module transport, memory tiers (Tables 10-10 to 10-12, 11-9, 09-9) -/

def putPort (p off : Nat) (value : Word) (s : State) : State :=
  if off = 0x00 then
    s.setPort p { s.port p with neighbourChanged := (s.port p).neighbourChanged && !value.toNat.testBit 32 }
  else if off = 0x08 then fpControl value p s
  else if off = 0x10 then fpCredits false value p s
  else if off = 0x18 then fpCredits true value p s
  else s

def putRouting (off : Nat) (value : Word) (s : State) : State :=
  let v := value.toNat
  if off < 0x10_0000 then routePut (decide (0x8_0000 ≤ off)) (off % 0x8_0000 / 8) value s
  else if off = 0x10_0000 then devicePut value s
  else if off = 0x10_0008 then bankPut false value s
  else if off = 0x10_0010 then bankPut true value s
  else if off = 0x10_0018 then currentPut value s
  else if off = 0x10_0020 then s.modFab fun f => { f with hopLimit := within 1 255 (bitsOf v 0 8) f.hopLimit }
  else if off = 0x10_0028 then s.modFab fun f => { f with hopWeight := bitsOf v 0 16 }
  else if off = 0x10_0030 then s.modFab fun f => { f with markUnits := bitsOf v 0 16 }
  else if off = 0x10_0038 then s.modFab fun f => { f with uncorrLimit := within 1 65535 (bitsOf v 0 16) f.uncorrLimit }
  else if off = 0x11_0000 then s.modFab fun f => { f with rto := within 1 1000 (bitsOf v 0 16) f.rto }
  else if off = 0x11_0008 then
    s.modFab fun f => { f with targetTimeout := within 100 1_000_000 (bitsOf v 0 32) f.targetTimeout }
  else if off = 0x11_0010 then s.modFab fun f => { f with windowInit := within 4 1024 (bitsOf v 0 11) f.windowInit }
  else if off = 0x11_0018 then s.modFab fun f => { f with peerSelect := bitsOf v 0 16 }
  else if off = 0x11_0028 then clearPut value s
  else s

def putMemory (off : Nat) (value : Word) (s : State) : State :=
  let v := value.toNat
  if off = 0x2000 then s.modRegs fun r => { r with
    scrubPeriod := within 1 168 (bitsOf v 0 8) r.scrubPeriod, scrubOff := v.testBit 8 }
  else s

/-! ### Schedulers (Tables 08-3, 08-4, 08-6) -/

/-- A Tollgate register: the value is staged for the next refill (R274). -/
def putToll (n off : Nat) (value : Word) (s : State) : State :=
  let t := s.toll n
  let v := value.toNat
  if off = 8 then s.setToll n { t with sDepth := v, pending := true }
  else if off = 0x10 then s.setToll n { t with sRefill := v, pending := true }
  else if off = 0x18 ∧ bitsOf v 0 32 ≠ 0 then s.setToll n { t with sInterval := bitsOf v 0 32, pending := true }
  else s

/-- RA_QUANTUM of a queue: staged for its next top-up (R277). -/
def putQuantum (r q : Nat) (value : Word) (s : State) : State :=
  let x := s.roundabout r
  let v := bitsOf value.toNat 0 32
  if (x.queues.any fun e => decide (e.queue = q)) ∧ 64 ≤ v ∧ v ≤ 1048576 then
    let stage := fun (m : KMap RaMember) (k : Nat) => if m.has k then m.put k { m.at k {} with staged := some v } else m
    s.setRoundabout r { x with members := stage (stage x.members q) (raOwn q) }
  else s

/-- RA_CONTROL. -/
def putRaControl (r : Nat) (value : Word) (s : State) : State :=
  let v := value.toNat
  s.setRoundabout r { s.roundabout r with shape := bitsOf v 0 12, shapeOn := v.testBit 15 }

/-- The owner of what an entry of a map belongs to. -/
def ownerIn {α : Type} (m : KMap α) (n : Nat) (owner : α → Nat) : Option Nat := (m.find n).map owner

def putSchedulers (src : Src) (off : Nat) (value : Word) (s : State) : State :=
  let at_ := 0x80_0000 + off
  match entryAt off 0 0x20 4096, entryAt off 0x2_0000 0x4000 16, entryAt off 0x6_0000 8 16, entryAt off 0x8_0000 0x10 64 with
  | some (n, o), _, _, _ => guarded s src (ownerIn s.tolls n (·.owner)) at_ (putToll n o value)
  | _, some (r, o), _, _ =>
    guarded s src (ownerIn s.roundabouts r (·.owner)) at_ fun s => if o % 16 = 0 then putQuantum r (o / 16) value s else s
  | _, _, some (r, _), _ => guarded s src (ownerIn s.roundabouts r (·.owner)) at_ (putRaControl r value)
  | _, _, _, some (n, o) =>
    guarded s src (ownerIn s.crossings n (·.owner)) at_ fun s =>
      if o = 0 then s.setCrossing n { s.crossing n with offset := bitsOf value.toNat 0 32 } else s
  | _, _, _, _ => notOwned s src

/-! ### Partition windows -/

/-- Lane registers (Tables 03-5 to 03-7, R80). -/
def putLane (p n off : Nat) (value : Word) (s : State) : State :=
  let v := value.toNat
  if !s.ownsLane p n then s
  else if off = 0 then
    let l := s.lane n
    s.setLane n { l with staleBit := l.staleBit && !v.testBit 17, overrun := l.overrun && !v.testBit 16 }
  else if off = 8 then laneControl s n value
  else s

/-- Counter access registers with no row of their own (Tables 03-8, 03-9). -/
def putCtrRegs (p off : Nat) (value : Word) (s : State) : State :=
  let v := value.toNat
  if off = 0 then s.modPart p fun x => { x with ctrSelect := bitsOf v 0 16 }
  else match entryAt off 0x40 0x10 8 with
    | some (n, 8) => s.modPart p fun x =>
      { x with waits := x.waits.put n { x.waits.at n {} with threshold := bitsOf v 0 63 } }
    | _ => s

/-- Hand-off and Last service registers (Tables 05-10 to 05-12). -/
def putHandoff (p off : Nat) (value : Word) (s : State) : State :=
  let v := value.toNat
  let sec := bitsOf v 0 32
  s.modPLast p fun l =>
    if off = 0x80 then { l with hoTimeout := within 100 50000 sec l.hoTimeout }
    else if off = 0x88 then { l with ttlHbm := sec }
    else if off = 0x90 then { l with ttlDdr := sec }
    else if off = 0x98 then { l with ttlNvme := sec }
    else match entryAt off 0 8 16, entryAt off 0x100 0x10 8 with
      | some (i, _), _ =>
        let t : HoTarget := { valid := v.testBit 63, partition := bitsOf v 16 8, device := bitsOf v 0 16 }
        { l with targets := l.targets.put i t }
      | _, some (k, 8) => { l with cancels := l.cancels.put k { l.cancels.at k {} with tag := value.setWidth 48 } }
      | _, _ => l

/-- Attention service registers: ATTN_STRIPE_MIN is the cache role's (R250), SPEC_CONTROL holds from the next
step boundary (R261). -/
def putService (p off : Nat) (value : Word) (s : State) : State :=
  if off = 0 then (if isCache s p then s.modPLast p fun l => { l with stripeMin := bitsOf value.toNat 0 32 } else s)
  else if off = 0x20 then s.modHold p fun h => { h with specOff := value.toNat.testBit 0 }
  else s

/-- Admission and scheduling registers (Table 08-7). With no step in flight the partition stands at a step
boundary. -/
def putAdmission (p off : Nat) (value : Word) (s : State) : State :=
  let v := value.toNat
  let lo := bitsOf v 0 32
  s.modHold p fun h => (fun h : PHold => if h.step.isNone then h.boundary else h) <|
    if off = 0x188 then { h with reserve := lo }
    else if off = 0x190 then { h with margin := lo }
    else if off = 0x198 then { h with fallbackEst := lo }
    else if off = 0x1A0 then { h with written := { h.written with queryWait := lo } }
    else if off = 0x1A8 then { h with
      noFallback := v.testBit 2
      written := { h.written with firstEnd := v.testBit 0, worstCase := v.testBit 1 } }
    else if off = 0x1B0 then { h with wcStep := lo, written := { h.written with wcFirst := bitsOf v 32 32 } }
    else if off = 0x1B8 then { h with boundExceeded := h.boundExceeded && !v.testBit 32 }
    else if off = 0x1C8 then { h with combinedChunk := lo }
    else if off = 0x1D0 then { h with written := { h.written with ctxBlockMin := lo } }
    else match entryAt off 0 0x18 16 with
      | some (i, 0) => { h with spTable := h.spTable.put i (value &&& 0x8000_001F_00FF_FFFF) }
      | some (i, 8) => { h with spBase := h.spBase.put i (value &&& 0x0000_FFFF_FFFF_FF00) }
      | some (i, 16) => { h with spDirectory := h.spDirectory.put i (value &&& 0x0000_FFFF_FFFF_FFC0) }
      | _ => h

/-- Partition memory registers (Table 09-7): the ring's base and size change only while it is empty and idle
(R90, R305). -/
def putPartMemory (p off : Nat) (value : Word) (s : State) : State :=
  let v := value.toNat
  let idle := decide ((s.part p).mem.head = (s.part p).mem.tail) && (s.part p).mem.job.isNone
  if off = 0 ∧ idle then s.modPMem p fun m => { m with base := v / 64 * 64 }
  else if off = 8 ∧ idle then s.modPMem p fun m => { m with size := within 4 12 (bitsOf v 0 4) m.size }
  else if off = 0x20 then s.modPMem p fun m => { m with tailError := m.tailError && !v.testBit 32 }
  else if off = 0x38 then s.modPMem p fun m => { m with nvTimeout := within 1000 10_000_000 (bitsOf v 0 32) m.nvTimeout }
  else if off = 0x2C0 then s.modPMem p fun m => { m with nvOverlap := m.nvOverlap &&& ~~~(value.setWidth 8) }
  else match entryAt off 0x40 0x18 16, entryAt off 0x200 0x18 8 with
    | some (i, o), _ => writeMap s p false (o / 8) i value
    | _, some (i, o) => writeMap s p true (o / 8) i value
    | _, _ => s

/-- Partition transport registers (Table 11-7, R383). -/
def putTransport (p off : Nat) (value : Word) (s : State) : State :=
  let v := value.toNat
  s.modXt p fun x =>
    if off = 0 ∧ x.enabled.isEmpty then { x with tableBase := v % 2 ^ 48 / 64 * 64 }
    else if off = 8 ∧ x.enabled.isEmpty then { x with epCount := within 1 65536 (bitsOf v 0 17) x.epCount }
    else if off = 0x20 then { x with emptyLimit := within 100 10_000_000 (bitsOf v 0 32) x.emptyLimit }
    else match entryAt off 0x100 0x20 16 with
      | none => x
      | some (q, o) =>
        let r := x.srqs.at q {}
        if r.head ≠ r.tail then x
        else if o = 0 then { x with srqs := x.srqs.put q { r with base := v % 2 ^ 48 / 16 * 16 } }
        else if o = 8 then { x with srqs := x.srqs.put q { r with size := within 4 12 (bitsOf v 0 4) r.size } }
        else x

/-- Registers of a partition window that have no row of their own. -/
def putPartition (p off : Nat) (value : Word) (s : State) : State :=
  let v := value.toNat
  match entryAt off 0x1_0000 0x20 4096 with
  | some (n, o) => putLane p n o value s
  | none =>
    let o := off % 0x1000
    if 0x3_0000 ≤ off ∧ off < 0x3_1000 then putCtrRegs p o value s
    else if off = 0x3_7000 then s.modPFault p fun f => { f with newFault := f.newFault && !v.testBit 32 }
    else if off = 0x3_7008 then faultControlPut p value s
    else if 0x3_8000 ≤ off ∧ off < 0x3_9000 then putHandoff p o value s
    else if 0x3_9000 ≤ off ∧ off < 0x3_A000 then putService p o value s
    else if 0x3_A000 ≤ off ∧ off < 0x3_B000 then putAdmission p o value s
    else if 0x3_B000 ≤ off ∧ off < 0x3_C000 then putPartMemory p o value s
    else if 0x3_C000 ≤ off ∧ off < 0x3_D000 then putTransport p o value s
    else if off = 0x3_D000 then s.modPart p fun x => { x with hostWindow := bitsOf v 30 18 * 2 ^ 30 }
    else if off = 0x3_E010 then s.modPTrust p fun t => { t with sweepShare := within 1 50 (bitsOf v 0 6) t.sweepShare }
    else if off = 0x3_F008 then s.modPPower p fun w => { w with offAfter := bitsOf v 0 32 }
    else s

/-- A write in a partition window: a register that has a row of its own acts as that row. -/
def writePartition (src : Src) (p : Part) (off : Nat) (value : Word) (s : State) : State :=
  let rest := partWrite s src p.val off fun s =>
    if (entryAt off 0x1_0000 0x20 4096).any fun x => !s.ownsLane p.val x.1 then notOwned s src
    else putPartition p.val off value s
  if off = 0x3_0008 then after s (execCtrValueWrite src p value s)
  else if off = 0x3_0010 then after s (execCtrAddWrite src p value s)
  else if off = 0x3_B010 then after s (execMigTailWrite src p value s)
  else if off = 0x3_C010 then
    let ep : BitVec 16 := value.setWidth 16
    match bitsOf value.toNat 16 4 with
    | 1 => after s (execEnable src p ep s)
    | 2 => after s (execEpDisable src p ep s)
    | 3 => after s (execEpFlush src p ep s)
    | _ => rest
  else match entryAt off 0x3_0040 0x10 8, entryAt off 0x3_8100 0x10 8, entryAt off 0x3_C100 0x20 16 with
    | some (k, 0), _, _ => after s (execCtrWaitArm src p (Fin.ofNat 8 k) value s)
    | _, some (k, 0), _ => after s (execCancelSubmit src p (Fin.ofNat 8 k) value s)
    | _, _, some (q, 16) => after s (execSrqTailWrite src p (Fin.ofNat 16 q) value s)
    | _, _, _ => rest

/-! ### Block windows -/

/-- Attention ring registers with no row of their own (Tables 07-3, 07-4, R227). -/
def putAttn (b off : Nat) (value : Word) (s : State) : State :=
  let a := (s.block b).attn
  let v := value.toNat
  let idle := decide (a.head = a.tail) && a.jobs.isEmpty
  if off = 0 ∧ idle then s.setAttn b { a with base := v / 128 * 128 }
  else if off = 8 ∧ idle then s.setAttn b { a with size := within 4 12 (bitsOf v 0 4) a.size }
  else if off = 0x20 then s.setAttn b { a with tailError := a.tailError && !v.testBit 32 }
  else s

/-- Registers of a block window that have no row of their own. -/
def putBlock (b off : Nat) (value : Word) (s : State) : State :=
  let v := value.toNat
  let e := (s.block b).eng
  if off = 8 then s.setEng b { e with arg := value }
  else if off = 0x10 then s.setEng b { e with launchRefused := e.launchRefused && !v.testBit 32 }
  else if 0x1_8000 ≤ off ∧ off < 0x1_C000 then putAttn b (off - 0x1_8000) value s
  else match entryAt off 0x1_0000 0x40 8 with
    | some (a, 0x20) =>
      let w := s.awl (8 * b + a)
      s.setAwl (8 * b + a) { w with tailError := w.tailError && !v.testBit 32 }
    | _ => s

/-- A write in a block window: a register that has a row of its own acts as that row. -/
def writeBlock (src : Src) (b : Blk) (off : Nat) (value : Word) (s : State) : State :=
  let rest := blockWrite s src b.val off (putBlock b.val off value)
  if off = 0 then after s (execEngLaunch src b value s)
  else if off = 0x18 then after s (execEngStop src b value s)
  else if off = 0x1_8010 then after s (execAttnTailWrite src b value s)
  else if off = 0x1_8028 then after s (execAttnFlush src b value s)
  else if off = 0x1_C008 then after s (execBlkHintWrite src b value s)
  else if off = 0x1_C018 then after s (execBlkPeerDelayWrite src b value s)
  else match entryAt off 0x1_0000 0x40 8 with
    | some (a, 0) => after s (execAwlRingWrite src b (Fin.ofNat 8 a) false value s)
    | some (a, 8) => after s (execAwlRingWrite src b (Fin.ofNat 8 a) true value s)
    | some (a, 16) => after s (execAwlTailWrite src b (Fin.ofNat 8 a) value s)
    | some (a, 0x28) => after s (execAwlFlush src b (Fin.ofNat 8 a) value s)
    | _ => rest

/-! ### The whole control space -/

/-- An aligned 64-bit write of a BAR0 offset, under the access rules of its block (Table 17-1). -/
def registerPut (s : State) (src : Src) (off : Nat) (value : Word) : State :=
  if off < 0x1_0000 then globalWrite s src off (putGlobal off value)
  else if off < 0x2_0000 then globalWrite s src off (putLoader (off - 0x1_0000) value)
  else if off < 0x3_0000 then globalWrite s src off (putPower (off - 0x2_0000) value)
  else if off < 0x4_0000 then globalWrite s src off (putPerger (off - 0x3_0000) value)
  else if off < 0x5_0000 then globalWrite s src off (putFaults (off - 0x4_0000) value)
  else if 0x10_0000 ≤ off ∧ off < 0x19_0000 then
    globalWrite s src off (putPort ((off - 0x10_0000) / 0x8000) (off % 0x8000) value)
  else if 0x20_0000 ≤ off ∧ off < 0x40_0000 then globalWrite s src off (putRouting (off - 0x20_0000) value)
  else if 0x40_0000 ≤ off ∧ off < 0x80_0000 then globalWrite s src off (putMemory (off - 0x40_0000) value)
  else if 0x80_0000 ≤ off ∧ off < 0x100_0000 then putSchedulers src (off - 0x80_0000) value s
  else if 0x100_0000 ≤ off ∧ off < 0x200_0000 then
    writePartition src (Fin.ofNat 64 ((off - 0x100_0000) / 0x4_0000)) (off % 0x4_0000) value s
  else if 0x200_0000 ≤ off ∧ off < 0x2A0_0000 then
    writeBlock src (Fin.ofNat 80 ((off - 0x200_0000) / 0x2_0000)) (off % 0x2_0000) value s
  else notOwned s src

/-- An access that is not an aligned 64-bit one is dropped and recorded (R543); a Cobbler core's counts as made
by its partition's function, and a stitch core makes none. -/
def misaligned (s : State) (src : Src) (off : Nat) : State :=
  match src with
  | .host fn => if fnAnswers s fn.val off then logAccess s fn.val off else s
  | .mgmt => logAccess s 0 off
  | .cobbler p b => if cobblerRuns s p b then logAccess s (p.val + 1) off else s
  | .core .. => s

end Sys2Proof.Machine
end

