-- ==== Sys2Proof/Machine/Management.lean ====
section
/-! DEFINITION. The meanings of the host port and management commands: BAR4, PERST_N, port B, the mailbox,
identity, register access, composition maps, events, notices, telemetry, alignment, relay (12 R385 to R416). -/

namespace Sys2Proof.Machine

/-! ### Port A (R386 to R388, R525) -/

/-- A read through BAR4 that a partition answers: HBM and DDR5 only (Table 09-2); a word that cannot be
corrected, or a retired page, gives Completer Abort (R388, R449). -/
def bar4Read (s : State) (fn p a len : Nat) : State :=
  if !inRange s p onSled false a len then s.emit (.unsupported fn)
  else
    let r := homeRead s p a len 0
    if r.1 = 0 then r.2.2.emit (.readBytes fn r.2.1) else r.2.2.emit (.completerAbort fn)

/-- A write through BAR4: what it cannot reach is dropped. -/
def bar4Write (s : State) (p a : Nat) (bytes : List Byte) : State :=
  if inRange s p onSledW false a bytes.length then (homeWrite s p a bytes (fun _ => false) 0).2 else s

/-- Put a completion on port A where the access is a read; a refused write is dropped. -/
def refuseRead (s : State) (acc : Bar4Acc) (e : Emit) : State :=
  match acc with
  | .read .. => s.emit e
  | .write _ => s

/-- HOST_BAR4_ACCESS (R50, R387, R388, R452): offset x reaches START + x of the partition range. The PF has no
BAR4. -/
def execHostBar4Access (fn : Fn) (offset : Nat) (acc : Bar4Acc) (s : State) : Out :=
  let p := fn.val - 1
  if fn.val = 0 ∨ !fnAnswers s fn.val 0 then .next (refuseRead s acc (.unsupported fn.val))
  else if s.code p = 8 then .next (refuseRead s acc (.completerAbort fn.val))
  else
    let a := (s.part p).hostWindow + offset
    match acc with
    | .read len found => .next (bar4Read (eccMet s p a len found) fn.val p a len)
    | .write bytes => .next (bar4Write s p a bytes)

/-- PERST (R525): low resets port A's link, every function's configuration and every MSI-X table. -/
def execPerst (low : Bool) (s : State) : Out :=
  if s.regs.state = 0 then .next s
  else .next (s.modMgmt fun m =>
    if low then { m with perstAlow := true, linkA := false, rateA := 0, widthA := 0, functions := [] }
    else { m with perstAlow := false })

/-- FUNCTION_LEVEL_RESET (R386): the function's configuration and MSI-X state. -/
def execFunctionLevelReset (fn : Fn) (s : State) : Out :=
  if s.regs.state = 0 ∨ s.regs.state = 9 then .next s
  else .next (s.modMgmt fun m => { m with functions := m.functions.del fn.val })

/-! ### Port B (R391, R392) -/

/-- Class code of an NVMe function. -/
def nvmeClass : BitVec 24 := 0x010802

/-- A namespace format and a transfer size that the module uses (Table 09-3). -/
def formatOk (f : PciFunction) : Bool := f.lba4096 && f.mdtsOk

/-- The number of the drive with a serial number. -/
def driveOf (s : State) (serial : List Byte) : Option Nat :=
  (s.mgmt.drives.find? fun kv => kv.2.serial == serial).map (·.1)

/-- The lowest drive number not taken. -/
def freeDrive (s : State) : Option Nat := (List.range 8).find? fun d => !s.mgmt.drives.has d

/-- The I/O queue pairs of a drive that becomes ready (Table 09-3). -/
def createQueues (s : State) (d : Nat) : State :=
  (s.parts.filter fun kv => usesDrive kv.2.mem d).foldl (fun s kv => s.emit (.nvmeAdmin d (.createQueue kv.1))) s

/-- A drive is present: it is identified and reads STATE 1, with its queue pairs, or STATE 2 with a DRIVE
record where its format is not used. Its SMART log page is asked for with it: Table 09-3 has the command and no time
for it (DESIGN CHOICE, notes/assumptions/24.md). -/
def drivePresent (s : State) (d : Nat) (f : PciFunction) : State :=
  let old := s.drive d
  let s := (s.emit (.nvmeAdmin d .identify)).emit (.nvmeAdmin d .smartLog)
  let s := if formatOk f ∧ old.state ≠ 1 then createQueues s d else s
  let s := s.upd fun s => s.setDrive d
    { state := if formatOk f then 1 else old.state, cache := f.writeCache, serial := f.serial }
  if formatOk f ∨ old.state = 2 then s else driveFails s d 0

/-- One NVMe function of the enumeration. -/
def meetFunction (s : State) (f : PciFunction) : State :=
  match driveOf s f.serial with
  | some d => drivePresent s d f
  | none =>
    match freeDrive s with
    | some d => drivePresent s d f
    | none => s.upd fun s => s.modMgmt fun m => { m with pbExtra := true }

/-- A known drive is absent: it is failed, and one that has failed gives its number up to a RESCAN (R392). -/
def missDrive (s : State) (d : Nat) : State :=
  if (s.drive d).state = 1 then driveFails s d 0
  else if !s.mgmt.pbRescan then s
  else s.upd fun s => s.modMgmt fun m => { m with drives := m.drives.del d }

/-- One enumeration of port B: bus numbers 1 to 31, a 64 GiB window, the NVMe functions that have a number enabled and no
other (R391, R392). -/
def enumerate (s : State) (found : List PciFunction) : State :=
  let nvme := found.filter fun f => decide (f.classCode = nvmeClass)
  let absent := (s.mgmt.drives.filter fun kv => !nvme.any fun f => f.serial == kv.2.serial).map (·.1)
  let s := s.modMgmt fun m => { m with pbExtra := false, pbBusy := false, pbFound := nvme.length }
  let s := nvme.foldl meetFunction (absent.foldl missDrive s)
  let s := s.modMgmt fun m => { m with pbRescan := false }
  s.emit (.portB 1 31 64 ((nvme.filter fun f => (driveOf s f.serial).isSome).map (·.serial)))

/-- RESCAN (R391, R392): the enumeration that a write of PB_CONTROL asks for, or that the entry to Open
started, runs to its end. -/
def execRescan (src : Src) (value : Word) (found : List PciFunction) (s : State) : Out :=
  let s := globalWrite s src 0x3_0038 (rescanPut value) 
  .next (if s.mgmt.pbBusy ∧ s.power.pcieBOn then enumerate s found else s)

/-! ### Identity, registers (R399, R540)

The payloads of the commands to which Table 12-5 gives no layout are their fields in its order, at the widths of Table
12-7, with 4 bytes for a BAR0 offset, a count or a period and 8 for a value or a SEQ (DESIGN CHOICE,
notes/assumptions/61.md). -/

/-- IDENTIFY (R540). -/
def execIdentify (m : MHdr) (s : State) : Out :=
  .next (query s m 1 (some 0) fun s => (0, identityBytes s, s))

/-- The blocks that READ_REG and WRITE_REG reach (R399). -/
def regReach (off : Nat) : Bool :=
  decide (off < 0x1_0000 ∨ (0x2_0000 ≤ off ∧ off < 0x3_0000) ∨ (0x3_0010 ≤ off ∧ off < 0x3_1000)
    ∨ (0x3_3000 ≤ off ∧ off < 0x5_0000) ∨ (0x10_0000 ≤ off ∧ off < 0x19_0000) ∨ (0x20_0000 ≤ off ∧ off < 0x80_0000))

/-- The offsets of `n` consecutive registers. -/
def regOffsets (off n : Nat) : List Nat := (List.range n).map fun k => off + 8 * k

/-- READ_REG and WRITE_REG on `n` registers from `off`: 1 to 64, aligned, every one in a block they reach. -/
def onRegisters (s : State) (off n : Nat) (f : Handled) : Handled :=
  if n = 0 ∨ 64 < n then plain 2 s
  else if off % 8 ≠ 0 then plain 0x0D (misaligned s .mgmt off)
  else if (regOffsets off n).all regReach then f else plain 0x0D s

/-- READ_REG (R399). -/
def execReadReg (m : MHdr) (offset : BitVec 32) (count : Nat) (s : State) : Out :=
  .next (query s m 2 (some 8) fun s =>
    onRegisters s offset.toNat count
      (0, (regOffsets offset.toNat count).flatMap fun o => leBytes 8 (registerValue s o), s))

/-- WRITE_REG (R399). -/
def execWriteReg (m : MHdr) (offset : BitVec 32) (values : List Word) (s : State) : Out :=
  .next (control s m 3 false (some (8 + 8 * values.length)) fun s =>
    let put := ((regOffsets offset.toNat values.length).zip values).foldl
      (fun s x => registerPut s .mgmt x.1 x.2) s
    onRegisters s offset.toNat values.length (0, [], put))

/-! ### Compositions (R405 to R414) -/

/-- Epoch `a` is newer than epoch `b` (R405). -/
def epochNewer (a b : Nat) : Bool :=
  let d := (a + 65536 - b % 65536) % 65536
  decide (1 ≤ d ∧ d ≤ 32767)

/-- The fields of a MAP_INSTALL lie in the ranges of Table 12-7. -/
def installFields (comp epoch total first count : Nat) : Bool :=
  decide (1 ≤ comp ∧ comp ≤ 65535 ∧ 1 ≤ epoch ∧ epoch ≤ 65535 ∧ 1 ≤ total ∧ total ≤ 16384 ∧ 1 ≤ count ∧ count ≤ 508
    ∧ first + count ≤ total)

/-- The install in progress with one message's entries; FIRST 0, or another epoch or length, starts it again. -/
def gather (c : Comp) (epoch total first : Nat) (entries : List MapEntry) : KMap MapEntry :=
  let base := match c.install with
    | none => []
    | some (e, t, m) => if first ≠ 0 ∧ e = epoch ∧ t = total then m else []
  ((upFrom first entries.length).zip entries).foldl (fun m x => m.put x.1 x.2) base

/-- Every PARTNER is none, or names an entry that names it back (R407). -/
def partnersOk (l : List MapEntry) : Bool :=
  (l.zip (List.range l.length)).all fun x =>
    decide (x.1.partner = 0xFFFF) || ((l[x.1.partner]?).map (·.partner)) == some x.2

/-- Entries of every live map of the module. -/
def liveEntries (s : State) : Nat := ((s.mgmt.comps.flatMap fun kv => kv.2.live).map (·.entries.length)).foldl (· + ·) 0

/-- A complete install is refused (R407). -/
def installRefused (s : State) (comp : Nat) (n : CompMap) : Bool :=
  let c := s.mgmt.comps.at comp {}
  let here := n.entries.filter fun e => decide (e.device = mapDevice s)
  let heldElse := fun (p : Nat) => s.mgmt.comps.any fun kv => decide (kv.1 ≠ comp) && (compParts s kv.2).contains p
  decide (2 ≤ c.live.length)
    || (c.current.any fun m => !epochNewer n.epoch m.epoch)
    || (c.live.any fun m => decide (m.epoch = n.epoch))
    || (here.isEmpty && c.live.isEmpty)
    || (here.any fun e => heldElse e.partition || decide ((s.piece e.partition).map (·.role) ≠ some e.role))
    || !partnersOk n.entries
    || decide (65536 < liveEntries s + n.entries.length)

/-- MAP_INSTALL: the reply is LIVE, 1 once the map is live (R406). -/
def installMap (s : State) (comp epoch total first : Nat) (entries : List MapEntry) : Handled :=
  if !installFields comp epoch total first entries.length then plain 0x0B s
  else
    let c := s.mgmt.comps.at comp {}
    let got := gather c epoch total first entries
    let keep := fun (c : Comp) => s.modMgmt fun m => { m with comps := m.comps.put comp c }
    if got.length < total then (0, [0], keep { c with install := some (epoch, total, got) })
    else
      let n : CompMap := { epoch := epoch, entries := got.map (·.2) }
      if installRefused s comp n then plain 0x0B (keep { c with install := none })
      else (0, [1], keep { c with install := none, next := c.next ++ [n] })

/-- MAP_INSTALL (R406, R407). -/
def execMapInstall (m : MHdr) (comp epoch total first : Nat) (entries : List MapEntry) (s : State) : Out :=
  .next (control s m 0x20 false (some (16 + 8 * entries.length)) fun s => installMap s comp epoch total first entries)

/-- Every partition that a composition of this module holds by CURRENT or PREVIOUS. -/
def allMembers (s : State) : List Nat := s.mgmt.comps.flatMap fun kv => members s kv.2

/-- MAP_SWITCH: the live map that is not CURRENT becomes CURRENT, the former one PREVIOUS (R408). -/
def switchMap (s : State) (comp epoch : Nat) : Handled :=
  let c := s.mgmt.comps.at comp {}
  match (c.previous.toList ++ c.next).find? fun m => decide (m.epoch = epoch) with
  | none => plain 0x0B s
  | some n =>
    let before := allMembers s
    let c' : Comp := { c with
      current := some n
      previous := match c.current with
        | some o => some o
        | none => if c.previous = some n then none else c.previous
      next := c.next.filter fun m => decide (m.epoch ≠ epoch) }
    let s := s.modMgmt fun m => { m with comps := m.comps.put comp c' }
    let s := recordEvent s 3 255 comp epoch 255 s.regs.state
    let joined := (namedHere s n).filter fun p => !before.contains p
    plain 0 (joined.foldl (fun s p => recordEvent s 1 p comp epoch (s.tenant p) (s.code p)) s)

/-- MAP_SWITCH (R408, R414). -/
def execMapSwitch (m : MHdr) (comp epoch : Nat) (s : State) : Out :=
  .next (control s m 0x21 false (some 4) fun s => switchMap s comp epoch)

/-- MAP_RETIRE (R409). -/
def retireMap (s : State) (comp epoch : Nat) : Handled :=
  let c := s.mgmt.comps.at comp {}
  match c.previous, c.current with
  | some o, _ =>
    if o.epoch ≠ epoch then plain 0x0B s
    else
      let c' : Comp := { c with previous := none }
      let left := (members s c).filter fun p => !(members s c').contains p
      let s := s.modMgmt fun m => { m with comps := m.comps.put comp c' }
      let s := left.foldl (fun s p => recordEvent s 2 p comp epoch (s.tenant p) (s.code p)) s
      plain 0 (holdersLeave s o c'.live)
  | none, some o =>
    if o.epoch ≠ epoch then plain 0x0B s else plain 0 (holdersLeave (dissolve s comp) o [])
  | none, none => plain 0x0B s

/-- MAP_RETIRE (R409, R414). -/
def execMapRetire (m : MHdr) (comp epoch : Nat) (s : State) : Out :=
  .next (control s m 0x22 false (some 4) fun s => retireMap s comp epoch)

/-- The bytes of a map entry (Table 12-7). -/
def mapEntryBytes (e : MapEntry) : List Byte :=
  leBytes 2 e.device ++ leBytes 1 e.partition ++ leBytes 1 e.role ++ leBytes 2 e.partner ++ leBytes 2 0

/-- A live map from one entry on, at most 508 of them, as Table 12-7. -/
def mapBytes (comp first : Nat) (m : CompMap) : List Byte :=
  let l := (m.entries.drop first).take 508
  leBytes 2 comp ++ leBytes 2 m.epoch ++ leBytes 2 m.entries.length ++ leBytes 2 first ++ leBytes 2 l.length
    ++ leBytes 6 0 ++ l.flatMap mapEntryBytes

/-- MAP_READ (Table 12-5): an epoch that is not live is refused. -/
def execMapRead (m : MHdr) (comp epoch first : Nat) (s : State) : Out :=
  .next (query s m 0x23 (some 6) fun s =>
    match (s.mgmt.comps.at comp {}).live.find? fun x => decide (x.epoch = epoch) with
    | none => plain 0x0B s
    | some x => (0, mapBytes comp first x, s))

/-! ### Events and notices (R398, R414, R415) -/

/-- EVENTS_READ: up to 127 records from a SEQ. -/
def execEventsRead (m : MHdr) (seq : Nat) (s : State) : Out :=
  .next (query s m 0x30 (some 8) fun s =>
    (0, ((s.mgmt.events.filter fun e => decide (seq ≤ e.seq)).take 127).flatMap eventBytes, s))

/-- EVENTS_ACK: records up to a SEQ are freed; where records were not kept, an OVERFLOW is the first that the
space takes (R415). -/
def ackEvents (s : State) (seq : Nat) : State :=
  let s := s.modMgmt fun m => { m with events := m.events.filter fun e => decide (seq < e.seq) }
  let n := s.mgmt.eventsLost
  if n = 0 ∨ 1024 ≤ s.mgmt.events.length then s
  else keepEvent (s.modMgmt fun m => { m with eventsLost := 0 })
    { seq := 0, boot := 0, kind := 7, time := 0, state := s.regs.state, count := min n (2 ^ 32 - 1) }

/-- EVENTS_ACK (R415). -/
def execEventsAck (m : MHdr) (seq : Nat) (s : State) : Out :=
  .next (control s m 0x31 false (some 8) fun s => plain 0 (ackEvents s seq))

/-- NOTICE_READ (R394, R398): the oldest queued notice, an empty reply where there is none. -/
def execNoticeRead (m : MHdr) (s : State) : Out :=
  .next (query s m 0x32 (some 0) fun s =>
    match s.mgmt.noticeQueue with
    | [] => plain 0 s
    | x :: r => (0, x.2, trayUpdate (s.modMgmt fun g => { g with noticeQueue := r })))

/-! ### Telemetry, alignment, reset, relay (R401 to R403, R551) -/

/-- TELEMETRY_SET (R398, R402): over Ethernet its session gets the notices from then on. -/
def execTelemetrySet (m : MHdr) (period : Nat) (s : State) : Out :=
  .next (control s m 0x40 true (some 4) fun s =>
    if period ≠ 0 ∧ (period < 10 ∨ 60000 < period) then plain 0x0B s
    else plain 0 (s.modMgmt fun g => { g with
      telemetryMs := period
      telemetryAt := s.now
      noticeSession := if overEthernet m.path then m.session else g.noticeSession
      noticeVia := if overEthernet m.path then m.path else g.noticeVia }))

/-- Uncorrectable words of every channel. -/
def uncorrectableSum (s : State) : Nat :=
  ((s.hbmEcc ++ s.ddrEcc).map fun kv => kv.2.uncorrectable).foldl (· + ·) 0

/-- The telemetry report (Table 12-6). -/
def telemetryBytes (s : State) : List Byte :=
  leBytes 4 s.mgmt.boot ++ leBytes 4 0 ++ leBytes 8 s.now ++ leBytes 1 s.regs.state ++ leBytes 1 0
    ++ leBytes 2 s.fab.device.toNat ++ leBytes 4 s.power.estimate ++ leBytes 4 (capInForce s)
    ++ leBytes 4 (2 ^ 31 * bit (anySlow s) + topped 31 (largestDelay s)) ++ leBytes 8 s.mgmt.eventSeq
    ++ leBytes 4 (uncorrectableSum s) ++ leBytes 4 ((s.fab.ports.map fun kv => kv.2.retrains).foldl (· + ·) 0)
    ++ leBytes 16 0 ++ (List.range 64).map fun p => BitVec.ofNat 8 (s.code p)

/-- TELEMETRY (R402): a report is due once each period. -/
def execTelemetry (s : State) : Out :=
  let t := s.mgmt.telemetryMs
  if s.regs.state = 0 ∨ t = 0 ∨ s.now < s.mgmt.telemetryAt + 1000 * t then .next s
  else .next (sendNotice (s.modMgmt fun m => { m with telemetryAt := s.now }) true 0x8001 (telemetryBytes s))

/-- ALIGN_SET (R403). -/
def execAlignSet (m : MHdr) (source : Byte) (fromDevice : Nat) (targets : List Nat) (s : State) : Out :=
  .next (control s m 0x41 false (some (4 + 2 * targets.length)) fun s =>
    if 64 < targets.length then plain 0x0B s
    else plain 0 (s.modMgmt fun g => { g with
      alignSource := decide (source = 1), alignFrom := fromDevice, alignTargets := targets }))

/-- RESET (R551, R553). -/
def execReset (m : MHdr) (s : State) : Out :=
  .next (control s m 0x60 true (some 0) fun s =>
    if resetRefused s then plain 0x0B s else plain 0 (moduleReset s 0xFFFF finishFlash))

end Sys2Proof.Machine
end

