-- ==== Sys2Proof/Machine/Messages.lean ====
section
/-! DEFINITION. Management messages as bytes: the host mailbox, RELAY, and the packets delivered to this module (12 R396 to
R404; 10 R330, R342; 17 R543 to R547). -/

namespace Sys2Proof.Machine

/-! ### Messages (R396 to R398) -/

/-- The class C commands of Table 12-5, those of Faults, Fencing and Recovery among them. -/
def controlCommand (c : Nat) : Bool :=
  [3, 0x10, 0x20, 0x21, 0x22, 0x31, 0x40, 0x41, 0x50, 0x51, 0x52, 0x53, 0x54, 0x55, 0x60].contains c

/-- A request as its bytes give it: the header of Table 12-4 and the payload. -/
structure MgmtMsg where
  command : Nat
  flags : Nat
  device : Nat
  m : MHdr
  payload : List Byte
  deriving DecidableEq, Repr

/-- The message in bytes that came by a path outside any session. -/
def mgmtMsgOf (path : MPath) (bs : List Byte) : MgmtMsg :=
  { command := fld bs 0 2, flags := fld bs 2 1, device := fld bs 14 2, payload := bs.drop 16
    m := { path := path, session := none, seq := BitVec.ofNat 32 (fld bs 4 4), rsn := BitVec.ofNat 32 (fld bs 8 4),
           length := fld bs 12 2, received := bs.length - 16 } }

/-- Handle a request that came outside any session: a class Q command has its effect, a class C command is answered
0x0D (R395) and any other COMMAND 0x0B (R397). -/
def mgmtPlain (x : MgmtMsg) (s : State) : State :=
  let b := x.payload
  if x.command = 1 then after s (execIdentify x.m s)
  else if x.command = 2 then after s (execReadReg x.m (BitVec.ofNat 32 (fld b 0 4)) (fld b 4 4) s)
  else if x.command = 0x23 then after s (execMapRead x.m (fld b 0 2) (fld b 2 2) (fld b 4 2) s)
  else if x.command = 0x30 then after s (execEventsRead x.m (fld b 0 8) s)
  else if x.command = 0x32 then after s (execNoticeRead x.m s)
  else mgmtRequest s x.m x.command (!controlCommand x.command) none (plain 0x0B)

/-- A request for another device leaves as a class-0 RELAY packet, unchanged, and its reply is awaited (R401). -/
def relayOn (s : State) (m : MHdr) (device : Nat) (mctp : List Byte) : State :=
  if mctp.isEmpty ∨ 4096 < mctp.length then s
  else (originate0 s device false 2 0 mctp).modMgmt fun g => { g with
    relays := (g.relays.filter fun r => decide (s.now ≤ r.2.2 + replyLife)) ++ [(device, m, s.now)] }

/-- A management message in the clear, not a reply and not a notice: relayed, or handled (R397, R401). -/
def mgmtBytesIn (s : State) (path : MPath) (bs : List Byte) : State :=
  let x := mgmtMsgOf path bs
  if bs.length < 16 ∨ x.flags % 4 ≠ 0 ∨ !mgmtHears s x.m x.command then s
  else if x.flags.testBit 2 ∧ x.device ≠ s.fab.device.toNat then relayOn s x.m x.device (mctpVendor bs)
  else mgmtPlain x s

/-- The MCTP message is a management message in the clear: of the vendor-defined type, its vendor identifier in the next
four bytes (R396, notes/assumptions/61.md). Any other is SPDM or a secured message, which this model takes as decoded. -/
def mctpPlain (bs : List Byte) : Bool := decide (fld bs 0 1 % 128 = 0x7F)

/-! ### Relay (R401, Table 12-8) -/

/-- RELAY: a request with RELAY set. One for another device is relayed; one for this device is handled. -/
def execRelay (m : MHdr) (device : Nat) (bytes : List Byte) (s : State) : Out :=
  if !mgmtHears s m 0 then .next s
  else if device ≠ s.fab.device.toNat then .next (relayOn (noteAddress s m) m device bytes)
  else if mctpPlain bytes then .next (mgmtBytesIn s m.path (bytes.drop 5))
  else .next s

/-- The relayed request that a message from a device answers: of the same SEQ where the message is in the clear, else the
oldest (R401). -/
def relayed (s : State) (d : Nat) (bs : List Byte) : Option (Nat × MHdr × Nat) :=
  s.mgmt.relays.find? fun r => decide (r.1 = d ∧ s.now ≤ r.2.2 + replyLife)
    && (!mctpPlain bs || decide (fld bs 7 1 % 2 = 1 ∧ r.2.1.seq.toNat = fld bs 9 4))

/-- A RELAY packet from a device: the reply to a request relayed to it goes to the requester; a request is handled as if it
had come by a management link of this module, and a secured one is given to the Perger controller (R401). -/
def relayIn (s : State) (d : Nat) (bs : List Byte) (count : BitVec 32) : State :=
  match relayed s d bs with
  | some r =>
    let s := s.modMgmt fun g => { g with relays := g.relays.erase r }
    match r.2.1.path with
    | .mailbox => mailboxReply s (if mctpPlain bs then bs.drop 5 else bs.drop 1)
    | .relay e => originate0 s e false 2 0 bs
    | _ => s.emit (.relayed r.2.1 bs)
  | none => if mctpPlain bs then mgmtBytesIn s (.relay d) (bs.drop 5) else s.emit (.class0 d 2 count bs)

/-! ### The host mailbox (R400) -/

/-- The bytes of MBX_REQUEST. -/
def mailboxBytes (s : State) : List Byte := (List.range 512).flatMap fun w => leBytes 8 (s.mgmt.mbxRequest.at w 0).toNat

/-- A message in MBX_REQUEST is SPDM: its first byte is an SPDM version and its second a request code
(PRESUMED, notes/assumptions/61.md). -/
def spdmInBox (bs : List Byte) : Bool := decide (fld bs 0 1 / 16 = 1 ∧ 0x81 ≤ fld bs 1 1)

/-- Hand the message in MBX_REQUEST to the Perger controller: a management message, of 16 bytes and LENGTH more, is
handled, and one that asks for no reply leaves the mailbox free; SPDM follows as the decoded request (R400). -/
def mailboxSend (s : State) : State :=
  let bs := mailboxBytes s
  if spdmInBox bs then s
  else
    let s' := mgmtBytesIn s .mailbox (bs.take (16 + fld bs 12 2))
    if fld bs 2 1 % 4 ≠ 0 then s'.modMgmt fun g => { g with mbxBusy := false } else s'

/-- A write of MBX_DOORBELL through a function: only the PF reaches it. SEND of a free mailbox hands its message over. -/
def doorbellPut (fn : Fn) (value : Word) (s : State) : State :=
  let t := globalWrite s (.host fn) 0x3_0000 (sendPut value)
  if t.mgmt.mbxBusy ∧ !s.mgmt.mbxBusy then mailboxSend t else t

/-- SEND (R400). -/
def execSend (fn : Fn) (value : Word) (s : State) : Out := .next (doorbellPut fn value s)

/-- REGISTER_WRITE (R543 to R547): one aligned 64-bit write of the register at a BAR0 offset. -/
def execRegisterWrite (src : Src) (offset : BitVec 26) (width : Nat) (value : Word) (s : State) : Out :=
  if width ≠ 8 ∨ offset.toNat % 8 ≠ 0 then .next (misaligned s src offset.toNat)
  else match src with
    | .host fn =>
      .next (if offset.toNat = 0x3_0000 then doorbellPut fn value s else registerPut s src offset.toNat value)
    | _ => .next (registerPut s src offset.toNat value)

/-! ### Packets delivered (R330, R342, R352, R404) -/

/-- A class-0 packet: ALIGN to the Crossing lists, RELAY to the Perger controller, any other discarded
(R403, R404, Table 12-8). -/
def class0Packet (s : State) (bs : List Byte) : State :=
  let kind := fld bs 0x10 1
  let len := fld bs 0x12 2
  if kind = 1 ∧ packetLength bs = 1 then
    (if packetSrc bs = s.mgmt.alignFrom then alignLists s 1 else s)
  else if kind = 2 ∧ 1 ≤ len ∧ len ≤ 4096 ∧ packetLength bs = packetUnits len then
    relayIn s (packetSrc bs) (slice bs 0x40 len) (BitVec.ofNat 32 (fld bs 0x14 4))
  else s

/-- PACKET_DELIVERED (R330, R342, R352, R404): CHECK, then the transport or the class-0 handling. -/
def execPacketDelivered (packet : List Byte) (s : State) : Out :=
  if s.fab.device = 0xFFFF then .next s
  else if packetCheck packet ≠ BitVec.ofNat 32 (fld packet 12 4) then
    .next (s.modFab fun f => { f with dropCheck := satAdd 0xFFFF f.dropCheck 1 })
  else if packetVl packet / 2 = 0 then .next (class0Packet s packet)
  else if unitsOf packet = some (packetLength packet) then transportPacket s packet
  else .next (dropLength s)

end Sys2Proof.Machine
end

