-- ==== Sys2Proof/Machine/Sequences.lean ====
section
/-! DEFINITION. The meanings of the power sequences, boot, connector pins, PCIe and management links, and the
debug connector (13 R428 to R430 and R454, 16 R517 to R536). -/

namespace Sys2Proof.Machine

/-! ### Boot (R428 to R430, R433) -/

/-- What has been written over a firmware copy. -/
def fwWritten (s : State) (kind copy : Nat) : List Byte := (s.trust.copies.at (2 * kind + copy) {}).bytes

/-- Bytes of a firmware copy as module flash holds them. -/
def fwRead (s : State) (kind copy off len : Nat) : List Byte :=
  (upFrom off len).map fun i => (fwWritten s kind copy).getD i (Config.fwImageByte kind copy i)

/-- SVN of a firmware copy. -/
def copySvn (s : State) (kind copy : Nat) : Nat := leNat (fwRead s kind copy 6 2)

/-- The bytes of a copy before its signature: the header, the key and a body of LENGTH bytes. -/
def fwSignedLen (s : State) (kind copy : Nat) : Nat := 80 + leNat (fwRead s kind copy 8 4)

/-- The body of a copy. -/
def fwBody (s : State) (kind copy : Nat) : List Byte := fwRead s kind copy 80 (leNat (fwRead s kind copy 8 4))

/-- A firmware copy passes (R428). -/
def copyPasses (s : State) (kind copy : Nat) : Bool :=
  let key := fwRead s kind copy 12 68
  let n := fwSignedLen s kind copy
  fwRead s kind copy 0 4 == [0x4C, 0x4E, 0x46, 0x57] && fwRead s kind copy 4 1 == leBytes 1 kind
    && shake256 key 32 == (List.range 32).map Config.fwKeyDigest
    && xmssVerify key (shake256 (fwRead s kind copy 0 n) 32) (fwRead s kind copy n 2820)
    && decide (s.trust.fwSvn.at kind 0 ≤ copySvn s kind copy)

/-- The copies of a KIND in the order that boot tries them: the higher SVN first, copy A on a tie. -/
def copyOrder (s : State) (kind : Nat) : List Nat := if copySvn s kind 0 < copySvn s kind 1 then [1, 0] else [0, 1]

/-- The copy of a KIND that boots. -/
def bootCopy (s : State) (kind : Nat) : Option Nat := (copyOrder s kind).find? (copyPasses s kind)

/-- The firmware kinds (R428). -/
def fwKinds : List Nat := [1, 2, 3, 4]

/-- Steps 2 to 5 of Table 13-5: a KIND with no passing copy sets BOOT_FAULT (R430); the next identity index
becomes IDENT_LIMIT (R433). -/
def runBoot (s : State) : State :=
  let picks := fwKinds.map fun k => (k, bootCopy s k)
  let s := s.modTrust fun t => { t with
    booted := true
    bootFault := picks.any fun x => x.2.isNone
    bootedB := (picks.filter fun x => x.2 = some 1).map (·.1)
    bootedSvn := picks.filterMap fun x => x.2.map fun c => (x.1, copySvn s x.1 c)
    identNext := t.identLimit }
  trayUpdate s

/-- FW_DIGEST: SHAKE256 over the body digests of the booted images, in KIND order (Table 13-7). -/
def firmwareDigest (s : State) : List Byte :=
  shake256 (fwKinds.flatMap fun k =>
    let c := if s.trust.bootedB.contains k then 1 else 0
    shake256 (fwBody s k c) 32) 32

/-! ### Power-down (R535, R536) -/

/-- A retained slot after a loss of power: a running mark goes (R55). -/
def slotAtRest (x : Slot) : Slot := { x with running := false }

/-- Step 3 of Table 16-12: a confirm record completes, being one flash record; an image being written stays
unreadable (R53, R57). -/
def flashAtPowerDown (s : State) : State :=
  let s := confirmDone s
  match s.loader.committing with
  | none => s
  | some n => if s.loader.target = 255 then s.modLoader fun l => slotWritten l n false else s

/-- The retained part of the loader (R54, R61). -/
def loaderRetained (l : Loader) : Loader :=
  { slotA := slotAtRest l.slotA, slotB := slotAtRest l.slotB, confirmCount := l.confirmCount, serialFloor := l.serialFloor }

/-- The retained part of the trust state (R422, R424, R428, R431, R433, R441, R453, Table 13-13). -/
def trustRetained (t : Trust) : Trust :=
  { slots := t.slots, slotCounter := t.slotCounter, bindRequired := t.bindRequired, copies := t.copies
    fwSvn := t.fwSvn, identLimit := t.identLimit, bindings := t.bindings, scrubPending := t.scrubPending
    debugCount := t.debugCount, debugRefused := t.debugRefused }

/-- The retained part of the management state: MGMT_BOOT and the event log (R414, R415); pins stay as they
are. -/
def mgmtRetained (m : Mgmt) : Mgmt :=
  { boot := m.boot, events := m.events, eventSeq := m.eventSeq, eventsLost := m.eventsLost, perstAlow := m.perstAlow }

/-- The retained part of the fault state: the RSN and its reply (R506, R507) and SEQ (R488); the log stays with
the always-on domain (R490). -/
def faultsRetained (f : Faults) (keepLog : Bool) : Faults :=
  { seq := f.seq, log := if keepLog then f.log else [], rsn := f.rsn, rsnCommand := f.rsnCommand
    rsnPayload := f.rsnPayload, rsnReply := f.rsnReply }

/-- The sled's pins and cages with no power to the cages. -/
def sledAtRest (x : Sled) : Sled :=
  { x with
    trayAlertN := true, refclkB := none, trained := false, dimms := [], stackIds := []
    cages := x.cages.mapVals fun _ c => { presentN := c.presentN } }

/-- Everything that is not retained is lost; the module state is `c`. -/
def loseVolatile (s : State) (c : Nat) (keepLog : Bool) : State :=
  { pending := s.pending
    out := s.out
    trace := s.trace
    draws := s.draws
    sled := sledAtRest s.sled
    regs := { state := c }
    loader := loaderRetained s.loader
    mgmt := mgmtRetained s.mgmt
    trust := trustRetained { s.trust with scrubPending := scrubMarks s }
    faults := faultsRetained s.faults keepLog }

/-- The pins that the module drives return to rest. -/
def pinsDown (s : State) : State :=
  let s := if s.sled.trayAlertN then s else s.emit (.pin .trayAlertN true)
  let s := if s.mgmt.perstBhigh then s.emit (.pin .perstB false) else s
  s.sled.cages.foldl (fun (s : State) (kv : Nat × Cage) =>
    let s := if kv.2.power then s.emit (.pin (.cab3v3 kv.1) false) else s
    if kv.2.resetReleased then s.emit (.pin (.cabResetN kv.1) false) else s) s

/-- Power-down starts and runs its steps 1 to 4; its end is POWER_DOWN_DONE (Table 16-12). No CLOSED event is
recorded (R416). -/
def startPowerDown (s : State) (forReset : Bool) : State :=
  let s := loseVolatile (pinsDown (flashAtPowerDown s)) 0 true
  s.modSled fun x => { x with poweringDown := true, forReset := forReset }

/-- Power-down starts unless one runs or the module is Dark already. -/
def powerDown (s : State) (forReset : Bool) : State :=
  if s.regs.state = 0 then s else startPowerDown s forReset

/-! ### Entry to Kept (R531, R533, R534) -/

/-- The module enters Kept: the local counter starts at 0, MGMT_BOOT rises by 1, the KEPT event is recorded, and
boot runs. -/
def enterKept (s : State) : State :=
  let s := loseVolatile s 1 s.sled.forReset
  let s := { s with now := 0 }.modSled fun x => { x with
    poweringDown := false, forReset := false, underSince := none, overSince := none }
  let s := s.modMgmt fun m => { m with boot := (m.boot + 1) % 2 ^ 32 }
  runBoot (recordEvent s 6 255 0 0 255 1)

/-- The always-on rails are in regulation, PWR_GOOD and MODULE_RESET_N are high, and no overvoltage holds the
module Dark (R530, R531). -/
def keptAllowed (s : State) : Bool :=
  decide (s.regs.state = 0) && s.sled.inputOn && s.sled.railsGood && s.sled.pwrGood && s.sled.resetN
    && !s.sled.poweringDown && !s.sled.overvoltage

/-- KEPT_ENTRY (R531, R533): in a module that has entered Kept and not yet booted, boot runs. -/
def execKeptEntry (s : State) : Out :=
  if keptAllowed s then .next (enterKept s)
  else if s.regs.state = 1 ∧ !s.trust.booted then .next (runBoot s)
  else .next s

/-- INPUT_POWER_ARRIVE (R533): the voltage at the contacts of a Dark module reaches 46 V, with the levels of
PWR_GOOD, COOLANT_OK and MODULE_RESET_N. -/
def execInputPowerArrive (milliVolts : Nat) (pwrGood coolantOk resetN : Bool) (s : State) : Out :=
  if 66_000 < milliVolts then .fault .beyondAbsoluteMaxima
  else if s.regs.state ≠ 0 ∨ s.sled.poweringDown ∨ milliVolts < 46_000 then .next s
  else .next (s.modSled fun x => { x with
    inputOn := true, railsGood := true, pwrGood := pwrGood, coolantOk := coolantOk, resetN := resetN })

/-- BOOT_MEMORY_START (R429 step 6, R532): once PWR_GOOD and COOLANT_OK are high and every KIND has a passing
copy, the I/O dies are released, memory is trained, and the pending scrubs start. -/
def execBootMemoryStart (dimms : List (Option Dimm)) (stackIds : List (List Byte)) (s : State) : Out :=
  if s.regs.state ≠ 1 ∨ s.sled.trained ∨ !s.sled.pwrGood then .next s
  else
    let s := if s.trust.booted then s else runBoot s
    if s.trust.bootFault then .next s
    else
      let s := s.modSled fun x => { x with coolantOk := true, trained := true, dimms := dimms, stackIds := stackIds }
      .next (startPending (s.modPow fun w => { w with diesOn := 0xF, hbmOn := 0xFFF, ddrOn := 0xF }))

/-- VERIFIED_ENTRY (R429 step 7, Table 02-20): training completes, FW_DIGEST is fixed, port A has power, and
restoration runs. -/
def execVerifiedEntry (s : State) : Out :=
  if s.regs.state ≠ 1 ∨ !s.sled.trained then .next s
  else
    let s := s.modTrust fun t => { t with fwDigest := firmwareDigest s }
    let s := s.modPow fun w => { w with pcieAOn := true }
    .next (restore (portsRest (setModState s 2)))

/-! ### Input conditions and resets (R520, R530, R534 to R536) -/

/-- PWR_GOOD_FALL (R520, R535): low for 8 samples. -/
def execPwrGoodFall (samples : Nat) (s : State) : Out :=
  if samples < 8 then .next s
  else .next ((powerDown s false).modSled fun x => { x with pwrGood := false, forReset := x.forReset && x.poweringDown })

/-- The input voltage is reported with how long it has stood: since when it lies below 47 V, or above 60 V, on the
local counter (R5, R530). -/
def noteInput (s : State) (milliVolts heldUs : Nat) : State :=
  let since := fun (old : Option Nat) => some (Nat.min (old.getD s.now) (s.now - heldUs))
  s.modSled fun x => { x with
    underSince := if milliVolts < 47_000 then since x.underSince else none
    overSince := if 60_000 < milliVolts then since x.overSince else none }

/-- The input has lain outside a bound for `us` microseconds: by the counter since the first report of it, or by the
report itself, which reaches back beyond the counter's zero. -/
def inputFor (s : State) (since : Option Nat) (heldUs us : Nat) : Bool :=
  decide (us ≤ heldUs) || since.any fun t => decide (t + us ≤ s.now)

/-- INPUT_VOLTAGE_FAULT (R528, R530): beyond the absolute maxima the manual states nothing. -/
def execInputVoltageFault (milliVolts : Nat) (heldUs : Nat) (s : State) : Out :=
  let s := noteInput s milliVolts heldUs
  if 66_000 < milliVolts ∨ (62_000 < milliVolts ∧ 1000 < heldUs) then .fault .beyondAbsoluteMaxima
  else if 60_000 < milliVolts ∧ inputFor s s.sled.overSince heldUs 10 then
    let s := powerDown s false
    .next (s.modSled fun x => { x with
      overvoltage := true, overAt := s.now, forReset := x.forReset && x.poweringDown })
  else if milliVolts < 47_000 ∧ inputFor s s.sled.underSince heldUs 2 then
    .next ((powerDown s false).modSled fun x => { x with
      inputOn := x.inputOn && decide (46_000 ≤ milliVolts), forReset := x.forReset && x.poweringDown })
  else .next s

/-- POWER_DOWN_DONE (R534, R536): the module is Dark, or held by MODULE_RESET_N, or goes on at step 3 of
Table 16-11 where PWR_GOOD is high. -/
def execPowerDownDone (pwrGood : Bool) (s : State) : Out :=
  if !s.sled.poweringDown then .next s
  else
    let s := s.modSled fun x => { x with
      poweringDown := false, pwrGood := pwrGood, inputOn := x.inputOn || pwrGood, railsGood := true }
    .next (if keptAllowed s then enterKept s else s)

/-- MODULE_RESET_N (R520, R534): a level held for 20 samples. -/
def execModuleResetN (high : Bool) (samples : Nat) (s : State) : Out :=
  if samples < 20 then .next s
  else
    let s := (if high then s else powerDown s true).modSled fun x => { x with resetN := high }
    .next (if high && keptAllowed s then enterKept s else s)

/-- OVERVOLTAGE_HOLD_EXPIRE (R530): the input has stayed below 58 V for the latest `below58Us`
microseconds; the hold of 1,000,000 us is counted on the local counter (R5). -/
def execOvervoltageHoldExpire (milliVolts : Nat) (below58Us : Nat) (s : State) : Out :=
  if !s.sled.overvoltage ∨ s.regs.state ≠ 0 then .next s
  else
    let seen := if 58_000 ≤ milliVolts then s.now else Nat.max s.sled.overAt (s.now - below58Us)
    .next (s.modSled fun x => { x with
      overAt := seen, overvoltage := decide (s.now < seen + 1_000_000) })

/-! ### Fabric cages (R523) -/

/-- The two ports of a group take the state that their cage lets them have. -/
def cagePorts (s : State) (g : Nat) : State := portRest (portRest s (2 * g)) (2 * g + 1)

/-- CAB_PRESENT (R523): a cable removed lets the ports of an overloaded cage come back. -/
def execCabPresent (g : Fin 9) (high : Bool) (s : State) : Out :=
  let c := s.sled.cages.at g.val {}
  let c' : Cage := { c with presentN := high, latched := c.latched && !high }
  let s := s.modSled fun x => { x with cages := x.cages.put g.val c' }
  if s.regs.state = 0 then .next s
  else
    let s := cageUpdate s g.val
    .next (if c.latched ∧ high then cagePorts s g.val else s)

/-- CAB_OVERCURRENT (R523): more than 2.0 A. -/
def execCabOvercurrent (g : Fin 9) (milliAmps : Nat) (s : State) : Out :=
  let c := s.sled.cages.at g.val {}
  if milliAmps ≤ 2000 ∨ !c.power then .next s
  else
    let s := s.modSled fun x => { x with cages := x.cages.put g.val { c with latched := true } }
    .next (cagePorts (cageUpdate s g.val) g.val)

/-- CAB_RESET_RELEASE (R523): 100 us after CAB_3V3 is in regulation. -/
def execCabResetRelease (g : Fin 9) (s : State) : Out :=
  let c := s.sled.cages.at g.val {}
  if c.power ∧ !c.resetReleased ∧ c.powerAt + 100 ≤ s.now then
    .next ((s.modSled fun x => { x with cages := x.cages.put g.val { c with resetReleased := true } }).emit
      (.pin (.cabResetN g.val) true))
  else .next s

/-! ### PCIe and management links (R385, R393, R525) -/

/-- PORT_B_PERST_RELEASE (R525): 100 ms after REFCLK is stable. -/
def execPortBPerstRelease (s : State) : Out :=
  match s.sled.refclkB with
  | none => .next s
  | some t =>
    if t + 100_000 ≤ s.now ∧ !s.mgmt.perstBhigh then
      .next ((s.modMgmt fun m => { m with perstBhigh := true }).emit (.pin .perstB true))
    else .next s

/-- A rate and a width at which the ports train (R385). -/
def linkTrains (rate : Fin 7) (width : Nat) : Bool :=
  decide (1 ≤ rate.val) && decide (width = 16 ∨ width = 8 ∨ width = 4 ∨ width = 1)

/-- PCIE_LINK_TRAIN (R385, R391): a link comes up only while its port has power and PERST_N is high. -/
def execPcieLinkTrain (portB : Bool) (up : Bool) (rate : Fin 7) (width : Nat) (s : State) : Out :=
  let live := if portB then s.power.pcieBOn && s.mgmt.perstBhigh else s.power.pcieAOn && !s.mgmt.perstAlow
  let r := if up then rate.val else 0
  let w := if up then width else 0
  if up ∧ !(live && linkTrains rate width) then .next s
  else .next (s.modMgmt fun m =>
    if portB then { m with linkB := up, rateB := r, widthB := w }
    else { m with linkA := up, rateA := r, widthA := w })

/-- MGMT_LINK_CHANGE (R393). -/
def execMgmtLinkChange (link : Fin 2) (up : Bool) (s : State) : Out :=
  if s.regs.state = 0 then .next s
  else .next (s.modMgmt fun m => if link.val = 0 then { m with mgmt0 := up } else { m with mgmt1 := up })

/-! ### Debug connector (R430, R454, R455) -/

/-- An unlock of this level or above opens the internal units of a partition, or the module's (Table 13-14). -/
def unlocked (s : State) (p : Option Part) (level : Nat) : Bool :=
  s.trust.unlocks.any fun u => decide (level ≤ u.level) && match p with
    | some q => u.scope.toNat.testBit q.val
    | none => u.module

/-- The level that an access to internal units needs: halting them, and reading or writing registers and memory, the full
one (Table 13-14). -/
def debugLevel : DebugAcc → Nat
  | .select => 1
  | _ => 2

/-- What an instruction may reach under a scope: the blocks, the registers and the memory of the partition, or, under
MODULE, the registers of the module and every block. -/
def debugReach (s : State) (p : Option Part) (acc : DebugAcc) : Bool :=
  match p, acc with
  | _, .select => true
  | some q, .halt b _ => decide (s.blockOwner b.val = some q.val)
  | none, .halt .. => true
  | some q, .readReg off => off.toNat % 8 == 0 && decide (0x80_0000 ≤ off.toNat ∧ offOwner s off.toNat = some q.val)
  | some q, .writeReg off _ => off.toNat % 8 == 0 && decide (0x80_0000 ≤ off.toNat ∧ offOwner s off.toNat = some q.val)
  | none, .readReg off => off.toNat % 8 == 0
  | none, .writeReg off _ => off.toNat % 8 == 0
  | some q, .readMem off len => inRange s q.val onSled true off.toNat len
  | some q, .writeMem off bytes => inRange s q.val onSledW true off.toNat bytes.length
  | none, _ => false

/-- The TAP accepts an instruction (R454). -/
def tapAccepts (s : State) (i : TapInstr) : Bool :=
  match i with
  | .extest | .clamp => decide (s.regs.state = 1 ∨ s.regs.state = 2 ∨ s.regs.state = 4)
  | .internal p acc => unlocked s p (debugLevel acc) && debugReach s p acc
  | _ => true

/-- An instruction that drives the pins from the boundary register. -/
def tapDrives (i : TapInstr) : Bool :=
  match i with
  | .extest | .clamp => true
  | _ => false

/-- An access of a debugger to internal units, which it makes as the partition's own function or as the PF does (Table 13-14;
DESIGN CHOICE, notes/assumptions/62.md). -/
def debugAccess (p : Option Part) (acc : DebugAcc) (s : State) : State :=
  let fn : Fn := match p with
    | some q => q.succ
    | none => 0
  let own := ((p.map (·.val)).getD 0)
  match acc with
  | .select => s.emit (.tap true [])
  | .halt b on => (s.setBlock b.val { s.block b.val with halted := on }).emit (.tap true [])
  | .readReg off => s.emit (.tap true (leBytes 8 (registerValue s off.toNat)))
  | .writeReg off v => (registerPut s (.host fn) off.toNat v).emit (.tap true [])
  | .readMem off len =>
    let r := homeRead s own off.toNat len 0
    r.2.2.emit (.tap (r.1 = 0) (if r.1 = 0 then r.2.1 else []))
  | .writeMem off bytes =>
    let r := homeWrite s own off.toNat bytes (coversWhole off.toNat bytes.length) 0
    r.2.emit (.tap (r.1 = 0) [])

/-- TAP_INSTRUCTION (R454): IDCODE answers 32 bits that the manual does not give. -/
def execTapInstruction (i : TapInstr) (s : State) : Out :=
  if s.regs.state = 0 then .next s
  else if !tapAccepts s i then .next (s.emit (.tap false []))
  else
    let s := s.modTrust fun t => { t with tapExternal := tapDrives i }
    match i with
    | .idcode =>
      let d := s.draw
      .next (d.2.emit (.tap true (freeBytes d.1 4)))
    | .internal p acc => .next (debugAccess p acc s)
    | _ => .next (s.emit (.tap true []))

/-- DEBUG_FLASH_ACCESS (R430, R527): only while BOOT_FAULT is set. -/
def execDebugFlashAccess (acc : FlashAcc) (s : State) : Out :=
  if s.regs.state = 0 ∨ !s.trust.bootFault then .next s
  else match acc with
    | .read kind copy off len => .next (s.emit (.flash (fwRead s (kind.val + 1) copy.val off len)))
    | .write kind copy off bytes => .next (fwWrite s (kind.val + 1) copy.val off bytes)

end Sys2Proof.Machine
end

