-- ==== Sys2Proof/Machine/Dispatch.lean ====
section
/-! DEFINITION. The meaning of every command: one arm, one call. -/

namespace Sys2Proof.Machine

def exec (i : Instr) (s : State) : Host.Outcome State Fault Refusal :=
  match i with
  -- 02 patterns
  | .patBegin via part => Sys2Proof.Machine.execPatBegin via part s
  | .patChunk via offset length bytes => Sys2Proof.Machine.execPatChunk via offset length bytes s
  | .chunkDone fetched => Sys2Proof.Machine.execChunkDone fetched s
  | .patCommit via part => Sys2Proof.Machine.execPatCommit via part s
  | .commitFlashDone ok => Sys2Proof.Machine.execCommitFlashDone ok s
  | .patConfirm via part arg => Sys2Proof.Machine.execPatConfirm via part arg s
  | .confirmRecordDone ok => Sys2Proof.Machine.execConfirmRecordDone ok s
  | .confirmExpired part => Sys2Proof.Machine.execConfirmExpired part s
  | .patAbort via part => Sys2Proof.Machine.execPatAbort via part s
  | .patOpen via part => Sys2Proof.Machine.execPatOpen via part s
  | .patStop via part => Sys2Proof.Machine.execPatStop via part s
  | .stopDrain p => Sys2Proof.Machine.execStopDrain p s
  -- 03 lanes, counters, Awls
  | .laneWrite lane item writer => Sys2Proof.Machine.execLaneWrite lane item writer s
  | .laneRead lane => Sys2Proof.Machine.execLaneRead lane s
  | .staleTimer lane => Sys2Proof.Machine.execStaleTimer lane s
  | .hostSlotWrite fn slot word value => Sys2Proof.Machine.execHostSlotWrite fn slot word value s
  | .hostSlotRead fn slot word => Sys2Proof.Machine.execHostSlotRead fn slot word s
  | .laneControlWrite src lane value => Sys2Proof.Machine.execLaneControlWrite src lane value s
  | .outputBacklogDrain p => Sys2Proof.Machine.execOutputBacklogDrain p s
  | .counterAdd ctr amount status => Sys2Proof.Machine.execCounterAdd ctr amount status s
  | .counterSet ctr value adds => Sys2Proof.Machine.execCounterSet ctr value adds s
  | .ctrAddWrite src p value => Sys2Proof.Machine.execCtrAddWrite src p value s
  | .ctrValueWrite src p value => Sys2Proof.Machine.execCtrValueWrite src p value s
  | .ctrWaitArm src p slot value => Sys2Proof.Machine.execCtrWaitArm src p slot value s
  | .counterWaitRelease p slot => Sys2Proof.Machine.execCounterWaitRelease p slot s
  | .awlTailWrite src b awl value => Sys2Proof.Machine.execAwlTailWrite src b awl value s
  | .awlRingWrite src b awl size value => Sys2Proof.Machine.execAwlRingWrite src b awl size value s
  | .move b awl => Sys2Proof.Machine.execMove b awl s
  | .fill b awl => Sys2Proof.Machine.execFill b awl s
  | .tack b awl => Sys2Proof.Machine.execTack b awl s
  | .awlWaitRelease b awl => Sys2Proof.Machine.execAwlWaitRelease b awl s
  | .awlRequestDone b awl index req result => Sys2Proof.Machine.execAwlRequestDone b awl index req result s
  | .awlDescriptorComplete b awl index => Sys2Proof.Machine.execAwlDescriptorComplete b awl index s
  | .awlFlush src b awl value => Sys2Proof.Machine.execAwlFlush src b awl value s
  -- 08 admission
  | .admissionItemTaken p lane => Sys2Proof.Machine.execAdmissionItemTaken p lane s
  | .signpostWalkDone p tag stamp buckets => Sys2Proof.Machine.execSignpostWalkDone p tag stamp buckets s
  | .tollgateRefill customer => Sys2Proof.Machine.execTollgateRefill customer s
  | .prefixCopyCheck p tag copied entry => Sys2Proof.Machine.execPrefixCopyCheck p tag copied entry s
  -- 05 service messages
  | .openLast p h => Sys2Proof.Machine.execOpenLast p h s
  | .openPartner p h senderLength => Sys2Proof.Machine.execOpenPartner p h senderLength s
  | .commit p h => Sys2Proof.Machine.execCommit p h s
  | .commitHeldResume p slot => Sys2Proof.Machine.execCommitHeldResume p slot s
  | .release p h => Sys2Proof.Machine.execRelease p h s
  | .transfer p h => Sys2Proof.Machine.execTransfer p h s
  | .query p h payload => Sys2Proof.Machine.execQuery p h payload s
  | .queryChunksDone p fromDevice fromPartition msgId => Sys2Proof.Machine.execQueryChunksDone p fromDevice fromPartition msgId s
  | .handoff p h record => Sys2Proof.Machine.execHandoff p h record s
  | .cancel p h => Sys2Proof.Machine.execCancel p h s
  | .grow p h => Sys2Proof.Machine.execGrow p h s
  | .serviceReply p h payload => Sys2Proof.Machine.execServiceReply p h payload s
  | .grantReceived p h payload source => Sys2Proof.Machine.execGrantReceived p h payload source s
  | .transferReply p h => Sys2Proof.Machine.execTransferReply p h s
  | .handoffReply p h => Sys2Proof.Machine.execHandoffReply p h s
  | .serviceTimeout p msgId => Sys2Proof.Machine.execServiceTimeout p msgId s
  | .handoffNextDue p tag => Sys2Proof.Machine.execHandoffNextDue p tag s
  | .lastGrowthCopyDone p slot code => Sys2Proof.Machine.execLastGrowthCopyDone p slot code s
  | .lastOldFootprintFree p slot => Sys2Proof.Machine.execLastOldFootprintFree p slot s
  | .lastPromotionDone p slot code => Sys2Proof.Machine.execLastPromotionDone p slot code s
  | .lastTtlCheck p => Sys2Proof.Machine.execLastTtlCheck p s
  | .lastTierMoveDone p slot code => Sys2Proof.Machine.execLastTierMoveDone p slot code s
  | .lastRebuild p => Sys2Proof.Machine.execLastRebuild p s
  | .cancelSubmit src p slot value => Sys2Proof.Machine.execCancelSubmit src p slot value s
  | .forwardingExpire p tag => Sys2Proof.Machine.execForwardingExpire p tag s
  -- 07, 08 steps
  | .stepBoundary p => Sys2Proof.Machine.execStepBoundary p s
  | .stepCommit p results => Sys2Proof.Machine.execStepCommit p results s
  | .queryWaitExpire p tag layer => Sys2Proof.Machine.execQueryWaitExpire p tag layer s
  | .firstDueExpire p tag => Sys2Proof.Machine.execFirstDueExpire p tag s
  | .contextSwapIn p => Sys2Proof.Machine.execContextSwapIn p s
  | .ctxBlockExpire p => Sys2Proof.Machine.execCtxBlockExpire p s
  | .swapInDone p model code => Sys2Proof.Machine.execSwapInDone p model code s
  | .roundaboutSelect r => Sys2Proof.Machine.execRoundaboutSelect r s
  | .sendMessage r => Sys2Proof.Machine.execSendMessage r s
  | .sendRelease r => Sys2Proof.Machine.execSendRelease r s
  | .crossingEntryStart list => Sys2Proof.Machine.execCrossingEntryStart list s
  | .alignInEdge => Sys2Proof.Machine.execAlignInEdge s
  | .align fromDevice count => Sys2Proof.Machine.execAlign fromDevice count s
  -- 06 engine
  | .engLaunch src b value => Sys2Proof.Machine.execEngLaunch src b value s
  | .engStop src b value => Sys2Proof.Machine.execEngStop src b value s
  | .engineRunEnd b how cycles => Sys2Proof.Machine.execEngineRunEnd b how cycles s
  | .mac b core acc fa fb va vb scales => Sys2Proof.Machine.execMac b core acc fa fb va vb scales s
  | .vectorSpecial b core op dst src => Sys2Proof.Machine.execVectorSpecial b core op dst src s
  | .compact b core op head srcOff dstOff => Sys2Proof.Machine.execCompact b core op head srcOff dstOff s
  | .benchLoad b core dst off len => Sys2Proof.Machine.execBenchLoad b core dst off len s
  | .exchange b core dir srcOff dstOff => Sys2Proof.Machine.execExchange b core dir srcOff dstOff s
  | .barrier b core => Sys2Proof.Machine.execBarrier b core s
  | .barrierRelease b => Sys2Proof.Machine.execBarrierRelease b s
  | .endRun b core => Sys2Proof.Machine.execEndRun b core s
  | .cobblerAccessFault p b addr => Sys2Proof.Machine.execCobblerAccessFault p b addr s
  -- 07 attention
  | .attnTailWrite src b value => Sys2Proof.Machine.execAttnTailWrite src b value s
  | .attend b => Sys2Proof.Machine.execAttend b s
  | .attendComplete b index => Sys2Proof.Machine.execAttendComplete b index s
  | .attnFlush src b value => Sys2Proof.Machine.execAttnFlush src b value s
  -- 09 memory
  | .migTailWrite src p value => Sys2Proof.Machine.execMigTailWrite src p value s
  | .movePages p => Sys2Proof.Machine.execMovePages p s
  | .pageMoveDone p page written => Sys2Proof.Machine.execPageMoveDone p page written s
  | .migrationEntryDone p => Sys2Proof.Machine.execMigrationEntryDone p s
  | .nvmeCompletion drive cmd ok status data => Sys2Proof.Machine.execNvmeCompletion drive cmd ok status data s
  | .nvTimeout drive cmd => Sys2Proof.Machine.execNvTimeout drive cmd s
  | .nvMappingWrite src p reg nv entry value => Sys2Proof.Machine.execNvMappingWrite src p reg nv entry value s
  | .patrolScrub p off correctable passEnds => Sys2Proof.Machine.execPatrolScrub p off correctable passEnds s
  -- 10 links
  | .serdesGroupWake g => Sys2Proof.Machine.execSerdesGroupWake g s
  | .trainingDone port reversed => Sys2Proof.Machine.execTrainingDone port reversed s
  | .trainingTimeout port => Sys2Proof.Machine.execTrainingTimeout port s
  | .hello port u => Sys2Proof.Machine.execHello port u s
  | .helloTimer port => Sys2Proof.Machine.execHelloTimer port s
  | .helloMissing port => Sys2Proof.Machine.execHelloMissing port s
  | .downRetrain port => Sys2Proof.Machine.execDownRetrain port s
  | .codewordReceived port cw => Sys2Proof.Machine.execCodewordReceived port cw s
  | .credit port freed => Sys2Proof.Machine.execCredit port freed s
  | .creditTimer port => Sys2Proof.Machine.execCreditTimer port s
  | .sync port sent => Sys2Proof.Machine.execSync port sent s
  | .syncTimer port => Sys2Proof.Machine.execSyncTimer port s
  | .packetHeader port => Sys2Proof.Machine.execPacketHeader port s
  | .packetDelivered packet => Sys2Proof.Machine.execPacketDelivered packet s
  | .portTransmit port => Sys2Proof.Machine.execPortTransmit port s
  | .retrain src port value => Sys2Proof.Machine.execRetrain src port value s
  | .disable src port value => Sys2Proof.Machine.execDisable src port value s
  | .fpCreditsWrite src port hi value => Sys2Proof.Machine.execFpCreditsWrite src port hi value s
  | .routeWrite src bank dest value => Sys2Proof.Machine.execRouteWrite src bank dest value s
  | .fabBankWrite src bank value => Sys2Proof.Machine.execFabBankWrite src bank value s
  | .fabCurrentWrite src value => Sys2Proof.Machine.execFabCurrentWrite src value s
  | .fabDeviceWrite src value => Sys2Proof.Machine.execFabDeviceWrite src value s
  -- 11 transport
  | .read x addr length => Sys2Proof.Machine.execRead x addr length s
  | .write x addr length bytes => Sys2Proof.Machine.execWrite x addr length bytes s
  | .atomic x addr aop size operand compare => Sys2Proof.Machine.execAtomic x addr aop size operand compare s
  | .squareLineFill line => Sys2Proof.Machine.execSquareLineFill line s
  | .message x m bytes => Sys2Proof.Machine.execMessage x m bytes s
  | .readData x status bytes => Sys2Proof.Machine.execReadData x status bytes s
  | .atomicData x status old => Sys2Proof.Machine.execAtomicData x status old s
  | .ack a => Sys2Proof.Machine.execAck a s
  | .ackTimer device cls => Sys2Proof.Machine.execAckTimer device cls s
  | .resendTimer device cls psn => Sys2Proof.Machine.execResendTimer device cls psn s
  | .targetTimeout device => Sys2Proof.Machine.execTargetTimeout device s
  | .peerContextFree device => Sys2Proof.Machine.execPeerContextFree device s
  | .kerbsideFetchDone p ep => Sys2Proof.Machine.execKerbsideFetchDone p ep s
  | .epEmptyExpire p ep => Sys2Proof.Machine.execEpEmptyExpire p ep s
  | .enable src p ep => Sys2Proof.Machine.execEnable src p ep s
  | .epDisable src p ep => Sys2Proof.Machine.execEpDisable src p ep s
  | .epFlush src p ep => Sys2Proof.Machine.execEpFlush src p ep s
  | .srqTailWrite src p q value => Sys2Proof.Machine.execSrqTailWrite src p q value s
  | .clear src value => Sys2Proof.Machine.execClear src value s
  | .cobblerFence b device => Sys2Proof.Machine.execCobblerFence b device s
  -- 12 host and management
  | .hostBar4Access fn offset acc => Sys2Proof.Machine.execHostBar4Access fn offset acc s
  | .perst low => Sys2Proof.Machine.execPerst low s
  | .functionLevelReset fn => Sys2Proof.Machine.execFunctionLevelReset fn s
  | .rescan src value found => Sys2Proof.Machine.execRescan src value found s
  | .send fn value => Sys2Proof.Machine.execSend fn value s
  | .identify m => Sys2Proof.Machine.execIdentify m s
  | .readReg m offset count => Sys2Proof.Machine.execReadReg m offset count s
  | .writeReg m offset values => Sys2Proof.Machine.execWriteReg m offset values s
  | .mapInstall m comp epoch total first entries => Sys2Proof.Machine.execMapInstall m comp epoch total first entries s
  | .mapSwitch m comp epoch => Sys2Proof.Machine.execMapSwitch m comp epoch s
  | .mapRetire m comp epoch => Sys2Proof.Machine.execMapRetire m comp epoch s
  | .mapRead m comp epoch first => Sys2Proof.Machine.execMapRead m comp epoch first s
  | .eventsRead m seq => Sys2Proof.Machine.execEventsRead m seq s
  | .eventsAck m seq => Sys2Proof.Machine.execEventsAck m seq s
  | .noticeRead m => Sys2Proof.Machine.execNoticeRead m s
  | .telemetrySet m period => Sys2Proof.Machine.execTelemetrySet m period s
  | .telemetry => Sys2Proof.Machine.execTelemetry s
  | .alignSet m source fromDevice targets => Sys2Proof.Machine.execAlignSet m source fromDevice targets s
  | .reset m => Sys2Proof.Machine.execReset m s
  | .relay m device bytes => Sys2Proof.Machine.execRelay m device bytes s
  -- 13 trust
  | .report m scope nonce => Sys2Proof.Machine.execReport m scope nonce s
  | .endorsement m => Sys2Proof.Machine.execEndorsement m s
  | .slotWrite m slot counter key signature => Sys2Proof.Machine.execSlotWrite m slot counter key signature s
  | .policySet m counter value signature => Sys2Proof.Machine.execPolicySet m counter value signature s
  | .reclaim m => Sys2Proof.Machine.execReclaim m s
  | .fwStage m kind offset bytes => Sys2Proof.Machine.execFwStage m kind offset bytes s
  | .bind m record signature => Sys2Proof.Machine.execBind m record signature s
  | .verifyWeights m part model => Sys2Proof.Machine.execVerifyWeights m part model s
  | .verifyWeightsDone p model => Sys2Proof.Machine.execVerifyWeightsDone p model s
  | .keyRotate m part => Sys2Proof.Machine.execKeyRotate m part s
  | .sweepPageDone p page ok => Sys2Proof.Machine.execSweepPageDone p page ok s
  | .keyRetire m part force => Sys2Proof.Machine.execKeyRetire m part force s
  | .generationRetired p => Sys2Proof.Machine.execGenerationRetired p s
  | .signatureDone flashOk => Sys2Proof.Machine.execSignatureDone flashOk s
  | .getVersion m => Sys2Proof.Machine.execGetVersion m s
  | .getCapabilities m => Sys2Proof.Machine.execGetCapabilities m s
  | .negotiateAlgorithms m => Sys2Proof.Machine.execNegotiateAlgorithms m s
  | .challenge m nonce => Sys2Proof.Machine.execChallenge m nonce s
  | .keyExchange m requesterKey signature => Sys2Proof.Machine.execKeyExchange m requesterKey signature s
  | .heartbeat m => Sys2Proof.Machine.execHeartbeat m s
  | .keyUpdate m => Sys2Proof.Machine.execKeyUpdate m s
  | .endSession m => Sys2Proof.Machine.execEndSession m s
  | .chunkSend m handle chunk last bytes => Sys2Proof.Machine.execChunkSend m handle chunk last bytes s
  | .chunkGet m handle chunk => Sys2Proof.Machine.execChunkGet m handle chunk s
  | .scrubDone p => Sys2Proof.Machine.execScrubDone p s
  | .dbgChallenge => Sys2Proof.Machine.execDbgChallenge s
  | .dbgToken token signature => Sys2Proof.Machine.execDbgToken token signature s
  | .dbgLock => Sys2Proof.Machine.execDbgLock s
  -- 14 power
  | .clockLoopTick tMax tMaxDistrict inlet outlet => Sys2Proof.Machine.execClockLoopTick tMax tMaxDistrict inlet outlet s
  | .powerEstimateTick raw inputW voltage10mV parts => Sys2Proof.Machine.execPowerEstimateTick raw inputW voltage10mV parts s
  | .calibrationTick measured raw => Sys2Proof.Machine.execCalibrationTick measured raw s
  | .fastLimit cause => Sys2Proof.Machine.execFastLimit cause s
  | .fastLimitClear => Sys2Proof.Machine.execFastLimitClear s
  | .startGrant riseOk => Sys2Proof.Machine.execStartGrant riseOk s
  | .blockOffTimer b => Sys2Proof.Machine.execBlockOffTimer b s
  | .blockWakeDone b => Sys2Proof.Machine.execBlockWakeDone b s
  | .blkHintWrite src b value => Sys2Proof.Machine.execBlkHintWrite src b value s
  | .blkArriveRead src b => Sys2Proof.Machine.execBlkArriveRead src b s
  | .blkPeerDelayWrite src b value => Sys2Proof.Machine.execBlkPeerDelayWrite src b value s
  | .followExpire p => Sys2Proof.Machine.execFollowExpire p s
  | .cutEntry coolantLowUs junction => Sys2Proof.Machine.execCutEntry coolantLowUs junction s
  | .resume src value coolantHighUs junction => Sys2Proof.Machine.execResume src value coolantHighUs junction s
  -- 15 recovery
  | .doubtCheck unit mgmtFaulty dataFaulty => Sys2Proof.Machine.execDoubtCheck unit mgmtFaulty dataFaulty s
  | .quiesce src p value => Sys2Proof.Machine.execQuiesce src p value s
  | .quiesced p => Sys2Proof.Machine.execQuiesced p s
  | .leaseExpire => Sys2Proof.Machine.execLeaseExpire s
  | .selftestDone failed => Sys2Proof.Machine.execSelftestDone failed s
  | .graceExpire => Sys2Proof.Machine.execGraceExpire s
  | .leaseRenew m => Sys2Proof.Machine.execLeaseRenew m s
  | .fence m => Sys2Proof.Machine.execFence m s
  | .reinstate m device boot => Sys2Proof.Machine.execReinstate m device boot s
  | .standIn m device => Sys2Proof.Machine.execStandIn m device s
  | .teardown m comp => Sys2Proof.Machine.execTeardown m comp s
  | .doubtRelease m unitKind action unit => Sys2Proof.Machine.execDoubtRelease m unitKind action unit s
  -- 16, 17 sequences, pins and control space
  | .inputPowerArrive milliVolts pwrGood coolantOk resetN => Sys2Proof.Machine.execInputPowerArrive milliVolts pwrGood coolantOk resetN s
  | .keptEntry => Sys2Proof.Machine.execKeptEntry s
  | .bootMemoryStart dimms stackIds => Sys2Proof.Machine.execBootMemoryStart dimms stackIds s
  | .verifiedEntry => Sys2Proof.Machine.execVerifiedEntry s
  | .pwrGoodFall samples => Sys2Proof.Machine.execPwrGoodFall samples s
  | .inputVoltageFault milliVolts heldUs => Sys2Proof.Machine.execInputVoltageFault milliVolts heldUs s
  | .powerDownDone pwrGood => Sys2Proof.Machine.execPowerDownDone pwrGood s
  | .moduleResetN high samples => Sys2Proof.Machine.execModuleResetN high samples s
  | .cabPresent g high => Sys2Proof.Machine.execCabPresent g high s
  | .cabOvercurrent g milliAmps => Sys2Proof.Machine.execCabOvercurrent g milliAmps s
  | .modReset src value => Sys2Proof.Machine.execModReset src value s
  | .intEnableWrite src value => Sys2Proof.Machine.execIntEnableWrite src value s
  | .registerWrite src offset width value => Sys2Proof.Machine.execRegisterWrite src offset width value s
  | .vector b core op dst a1 a2 a3 => Sys2Proof.Machine.execVector b core op dst a1 a2 a3 s
  | .benchStore b core src off len => Sys2Proof.Machine.execBenchStore b core src off len s
  | .cobblerLoadStore p b acc => Sys2Proof.Machine.execCobblerLoadStore p b acc s
  | .overvoltageHoldExpire milliVolts below58Us => Sys2Proof.Machine.execOvervoltageHoldExpire milliVolts below58Us s
  | .nvmeDriveFailed drive status => Sys2Proof.Machine.execNvmeDriveFailed drive status s
  | .pcieLinkTrain portB up rate width => Sys2Proof.Machine.execPcieLinkTrain portB up rate width s
  | .mgmtLinkChange link up => Sys2Proof.Machine.execMgmtLinkChange link up s
  | .cabResetRelease g => Sys2Proof.Machine.execCabResetRelease g s
  | .portBPerstRelease => Sys2Proof.Machine.execPortBPerstRelease s
  | .tapInstruction t => Sys2Proof.Machine.execTapInstruction t s
  | .debugFlashAccess acc => Sys2Proof.Machine.execDebugFlashAccess acc s

end Sys2Proof.Machine
end

