-- ==== Sys2Proof/Machine/Tick.lean ====
section
/-! DEFINITION. What the passing of one microsecond does by itself. -/

namespace Sys2Proof.Machine

/-- One microsecond passes: the local counter counts from the entry to Kept (R5, R531). In Dark the one
interval that is measured is the hold after an overvoltage (R530). -/
def tick (s : State) : State :=
  if s.regs.state = 0 ∧ !s.sled.overvoltage then s else { s with now := s.now + 1 }

end Sys2Proof.Machine
end

