-- ==== Sys2Proof/Safety.lean ====
section
/-! DEFINITION. What a safe run keeps, and the conditions on a state in which a command completes, in the
terms the statements use. -/

namespace Sys2Proof.Machine

/-- Keys of a list of numbers strictly rise. -/
def risingKeys : List Nat → Bool
  | [] => true
  | [_] => true
  | a :: b :: r => decide (a < b) && risingKeys (b :: r)

/-- Memory is in its canonical form: addresses strictly rise and no listed byte is zero; the list of
uncorrectable words strictly rises. -/
def State.memOk (s : State) : Bool := Memory.wf s.mem && risingKeys s.badWords

/-- No lane holds more than 16 items (R64). -/
def State.lanesOk (s : State) : Bool := s.lanes.all fun kv => decide (kv.2.items.length ≤ 16)

/-- A host function that the registers of partition `p` answer: the windows answer in this module state
(R546), the partition is defined and not being scrubbed (R452), and the access comes by the PF or by the
partition's own VF (R544, R545). -/
abbrev hostReaches (s : State) (src : Src) (p : Part) : Prop :=
  windowsAnswer s = true ∧ s.undefinedPart p.val = false ∧ s.code p.val ≠ 8 ∧ (src = .host 0 ∨ src = .host p.succ)

/-- A host function that the registers of block `b` answer: those of the partition that owns it. -/
abbrev hostReachesBlock (s : State) (src : Src) (p : Part) (b : Blk) : Prop :=
  s.blockOwner b.val = some p.val ∧ hostReaches s src p

/-- A register outside the windows that the PF or the management path reaches (R544, R399). -/
abbrev globalReaches (s : State) (src : Src) (off : Nat) : Prop :=
  src = .mgmt ∨ src = .host 0 ∧ fnAnswers s 0 off = true

/-- A management request that its handler is given: it is heard, is no repeat, is allowed, and its LENGTH is
what arrived (R395, R397). -/
abbrev requestTaken (s : State) (m : MHdr) (command : Nat) (allowed : Bool) : Prop :=
  mgmtHears s m command = true ∧ storedReply s m = none ∧ allowed = true ∧ m.length = m.received

/-- A recovery command that takes effect once: its handler is given it, with its LENGTH, under an RSN newer than
the last (R506, R507). -/
abbrev recoveryTaken (s : State) (m : MHdr) (command len : Nat) : Prop :=
  requestTaken s m command (controlOk s m false) ∧ m.length = len ∧ m.rsn ≠ 0 ∧ rsnNewer m.rsn s.faults.rsn = true

/-- The last thing a request leaves is its reply `e`, by the way the request came (R395, R400, R401): in the mailbox as
`body`; to another module, outside a session, as a RELAY packet with the MCTP message `mctp`, which a module without a
device number does not send; else on the boundary. -/
def sentBack (t : State) (m : MHdr) (e : Emit) (mctp body : List Byte) : Prop :=
  match m.path, m.session with
  | .mailbox, _ => t.mgmt.mbxReady = true ∧ t.mgmt.mbxReply = replyWords body
  | .relay d, none => t.fab.device ≠ 0xFFFF → t.fab.ownTx.getLast? = some (class0Bytes t d false 2 0 mctp)
  | _, _ => t.out.getLast? = some e

/-- The last thing a management request leaves is its reply. -/
def answeredWith (t : State) (m : MHdr) (command : Nat) (c : Byte) (payload : List Byte) : Prop :=
  sentBack t m (.mgmtReply m command c payload) (mctpVendor (mgmtBytes command 1 c m.seq m.rsn payload))
    (mgmtBytes command 1 c m.seq m.rsn payload)

/-- A trust operation that its handler is given: it is heard, is allowed, and its LENGTH is what arrived
(R426, R427). -/
abbrev trustTaken (s : State) (m : MHdr) (allowed : Bool) : Prop :=
  spdmHears s m = true ∧ allowed = true ∧ m.length = m.received

/-- The header of a trust operation's answer, and its payload (Table 13-5). -/
def trustBytes (op : Nat) (c : Byte) (payload : List Byte) : List Byte :=
  leBytes 1 op ++ [c] ++ leBytes 2 0 ++ leBytes 4 payload.length ++ payload

/-- The last thing a trust operation leaves is its answer. -/
def trustAnswered (t : State) (m : MHdr) (op : Nat) (c : Byte) (payload : List Byte) : Prop :=
  sentBack t m (.trustReply m op c (trustBytes op c payload)) (mctpSpdm (vendorResponse (trustBytes op c payload)))
    (vendorResponse (trustBytes op c payload))

/-- The last thing an SPDM request leaves is its answer. -/
def spdmAnswered (t : State) (m : MHdr) (request : Nat) (ok : Bool) (payload : List Byte) : Prop :=
  sentBack t m (.spdmReply m request ok payload) (mctpSpdm (spdmMessage request ok payload)) (spdmMessage request ok payload)

/-- A pattern loader command that reaches the loader, by its register or by PATTERN with `image` bytes of an image
(R42, R399). -/
def loaderTakes (s : State) (via : Via) (off : Nat) (image : Nat := 0) : Bool :=
  match via with
  | .bar0 fn => decide (fn = 0) && fnAnswers s 0 (0x1_0000 + off)
  | .mgmt m => decide (requestTaken s m 0x10 (controlOk s m true) ∧ m.length = 16 + image)

/-- A request of operation `op` that partition `p` handles: the module has a device number and its sender is not LOST, the
partition is Open and the request is neither answered already nor in hand (R144, R146, R148, R342, R381). -/
abbrev serviceTaken (s : State) (p : Nat) (op : Byte) (h : SvcHdr) : Prop :=
  unreachable s h.fromDevice = false ∧ s.code p = 5 ∧ h.reply = false ∧ h.op = op ∧
  ((s.part p).last.answers.find? fun a => sameRequest a.h h && decide (s.now ≤ a.at_ + 100000)) = none ∧
  (s.part p).last.received.any (sameRequest h) = false

/-- The one thing put on the boundary between two states is a reply with code `c` to the service request `h`
of which `is` holds (R147). -/
def repliesThat (s t : State) (h : SvcHdr) (c : Byte) (is : SvcHdr → Prop) : Prop :=
  ∃ r payload, t.out = s.out ++ [.service h.fromDevice h.fromPartition r payload] ∧ r.op = h.op ∧
    r.msgId = h.msgId ∧ r.tag = h.tag ∧ r.handle = h.handle ∧ r.reply = true ∧ r.status = c ∧ is r

/-- The one thing put on the boundary between two states is a reply with code `c` to the service request `h`;
its HANDLE is left open, since a GRANT names the Last (R147). -/
def repliesWith (s t : State) (h : SvcHdr) (c : Byte) : Prop :=
  ∃ r payload, t.out = s.out ++ [.service h.fromDevice h.fromPartition r payload] ∧ r.op = h.op ∧
    r.msgId = h.msgId ∧ r.tag = h.tag ∧ r.reply = true ∧ r.status = c

/-- A core as the instruction of a command finds it: after the scalar instructions before that one. -/
def coreAt (s : State) (b : Blk) (r : CoreRun) : Core := r.pre.foldl runScalar (s.core b.val r.core.val)

/-- No core but one of block `b` changes. -/
def coresKept (s t : State) (b : Blk) (r : CoreRun) : Prop :=
  ∀ k x, x < 1024 → (k ≠ b.val ∨ x ≠ r.core.val) → t.core k x = s.core k x

/-- No uncorrectable word was found. -/
def foundFine (f : Found) : Bool := f.all (·.2)

/-- No byte of memory changes but those with keys `k` to `k + n - 1`. -/
def memKeptBut (s t : State) (k n : Nat) : Prop :=
  ∀ a, (a < k ∨ k + n ≤ a) → memByte t.mem a = memByte s.mem a

/-- No byte of memory changes but those of directory entry `n` of partition `p` (Table 04-6). -/
def memKeptButEntry (s t : State) (p n : Nat) : Prop :=
  match directory s p with
  | none => t.mem = s.mem
  | some (_, base) => memKeptBut s t (memKey p (base + 64 * n)) 64

/-- Model `m` is set in MODEL_MASK of partition `p` (Table 02-5). -/
def modelSet (s : State) (p m : Nat) : Bool :=
  match s.piece p with
  | none => false
  | some x => x.modelMask.testBit m

/-! ### What each command may change: the commands that the spec gives an effect on a kind of state -/

/-- Commands that may set the local microsecond counter: it starts at 0 at entry to Kept and is lost in Dark (R5,
R531, R533). -/
def mayMoveTime (c : Instr) : Bool :=
  match c with
  | .keptEntry .. | .pwrGoodFall .. | .inputVoltageFault .. | .powerDownDone .. | .moduleResetN .. => true
  | _ => false

/-- Commands that may commit, drop or restore a pattern (R46, R55, R551 and what leads to a module reset). -/
def mayChangePattern (c : Instr) : Bool :=
  match c with
  | .commitFlashDone .. | .writeReg .. | .reset .. | .reclaim .. | .chunkSend .. | .scrubDone ..
  | .resume .. | .selftestDone .. | .graceExpire .. | .standIn .. | .keptEntry .. | .verifiedEntry ..
  | .pwrGoodFall .. | .inputVoltageFault .. | .powerDownDone .. | .moduleResetN .. | .modReset ..
  | .registerWrite .. | .tapInstruction .. => true
  | _ => false

/-- Commands that may change the pattern loader or its retained slots (02). -/
def mayChangeLoader (c : Instr) : Bool :=
  match c with
  | .patBegin .. | .patChunk .. | .chunkDone .. | .patCommit .. | .commitFlashDone .. | .patConfirm ..
  | .confirmRecordDone .. | .confirmExpired .. | .patAbort .. | .patOpen .. | .patStop .. | .writeReg ..
  | .reset .. | .reclaim .. | .chunkSend .. | .scrubDone .. | .resume .. | .selftestDone ..
  | .graceExpire .. | .standIn .. | .keptEntry .. | .verifiedEntry .. | .pwrGoodFall ..
  | .inputVoltageFault .. | .powerDownDone .. | .moduleResetN .. | .modReset .. | .registerWrite ..
  | .tapInstruction .. => true
  | _ => false

/-- Commands that may change the keys, firmware, identity, sessions or debug state (13). -/
def mayChangeTrust (c : Instr) : Bool :=
  match c with
  | .commitFlashDone .. | .confirmRecordDone .. | .patOpen .. | .writeReg .. | .reset .. | .report ..
  | .endorsement .. | .slotWrite .. | .policySet .. | .reclaim .. | .fwStage .. | .bind ..
  | .verifyWeights .. | .verifyWeightsDone .. | .keyRotate .. | .keyRetire .. | .signatureDone ..
  | .challenge .. | .keyExchange .. | .keyUpdate .. | .endSession .. | .chunkSend .. | .chunkGet ..
  | .scrubDone .. | .dbgChallenge .. | .dbgToken .. | .dbgLock .. | .resume .. | .selftestDone ..
  | .graceExpire .. | .standIn .. | .keptEntry .. | .bootMemoryStart .. | .verifiedEntry ..
  | .pwrGoodFall .. | .inputVoltageFault .. | .powerDownDone .. | .moduleResetN .. | .modReset ..
  | .registerWrite .. | .tapInstruction .. | .debugFlashAccess .. => true
  | _ => false

/-- Commands that may change the module's power and clock registers or power domains (14). -/
def mayChangePower (c : Instr) : Bool :=
  match c with
  | .patChunk .. | .chunkDone .. | .patCommit .. | .commitFlashDone .. | .patOpen ..
  | .serdesGroupWake .. | .writeReg .. | .reset .. | .reclaim .. | .chunkSend .. | .scrubDone ..
  | .clockLoopTick .. | .powerEstimateTick .. | .calibrationTick .. | .fastLimit .. | .fastLimitClear ..
  | .cutEntry .. | .resume .. | .leaseExpire .. | .selftestDone .. | .graceExpire .. | .fence ..
  | .reinstate .. | .standIn .. | .keptEntry .. | .bootMemoryStart .. | .verifiedEntry ..
  | .pwrGoodFall .. | .inputVoltageFault .. | .powerDownDone .. | .moduleResetN .. | .modReset ..
  | .registerWrite .. | .tapInstruction .. => true
  | _ => false

/-- Commands that may change the registers of a stitch core (06). -/
def mayChangeCores (c : Instr) : Bool :=
  match c with
  | .commitFlashDone .. | .patOpen .. | .laneWrite .. | .laneRead .. | .counterAdd .. | .counterSet ..
  | .counterWaitRelease .. | .awlTailWrite .. | .engLaunch .. | .mac .. | .vectorSpecial ..
  | .compact .. | .benchLoad .. | .exchange .. | .barrier .. | .barrierRelease .. | .endRun ..
  | .writeReg .. | .reset .. | .reclaim .. | .chunkSend .. | .scrubDone .. | .blockOffTimer ..
  | .resume .. | .selftestDone .. | .graceExpire .. | .standIn .. | .keptEntry .. | .verifiedEntry ..
  | .pwrGoodFall .. | .inputVoltageFault .. | .powerDownDone .. | .moduleResetN .. | .modReset ..
  | .registerWrite .. | .vector .. | .benchStore .. | .tapInstruction .. => true
  | _ => false

/-- Commands that may write a byte of a partition range or a bench, or mark or heal an uncorrectable word. -/
def mayChangeMemory (c : Instr) : Bool :=
  match c with
  | .commitFlashDone .. | .patOpen .. | .stopDrain .. | .outputBacklogDrain .. | .move .. | .fill ..
  | .tack .. | .awlWaitRelease .. | .awlRequestDone .. | .awlDescriptorComplete .. | .prefixCopyCheck ..
  | .openLast .. | .openPartner .. | .commit .. | .commitHeldResume .. | .release .. | .transfer ..
  | .query .. | .queryChunksDone .. | .handoff .. | .cancel .. | .grow .. | .serviceReply ..
  | .grantReceived .. | .transferReply .. | .handoffReply .. | .serviceTimeout .. | .handoffNextDue ..
  | .lastGrowthCopyDone .. | .lastPromotionDone .. | .lastTtlCheck .. | .lastTierMoveDone ..
  | .cancelSubmit .. | .stepBoundary .. | .stepCommit .. | .queryWaitExpire .. | .firstDueExpire ..
  | .swapInDone .. | .sendMessage .. | .engLaunch .. | .compact .. | .benchLoad .. | .exchange ..
  | .attend .. | .attendComplete .. | .movePages .. | .pageMoveDone .. | .nvmeCompletion ..
  | .nvTimeout .. | .patrolScrub .. | .packetDelivered .. | .read .. | .write .. | .atomic ..
  | .squareLineFill .. | .message .. | .readData .. | .atomicData .. | .ack .. | .resendTimer ..
  | .targetTimeout .. | .peerContextFree .. | .kerbsideFetchDone .. | .epEmptyExpire .. | .enable ..
  | .epDisable .. | .epFlush .. | .clear .. | .hostBar4Access .. | .rescan .. | .writeReg ..
  | .mapRetire .. | .reset .. | .reclaim .. | .verifyWeightsDone .. | .sweepPageDone .. | .chunkSend ..
  | .scrubDone .. | .blockOffTimer .. | .blockWakeDone .. | .cutEntry .. | .resume .. | .quiesced ..
  | .leaseExpire .. | .selftestDone .. | .graceExpire .. | .fence .. | .standIn .. | .teardown ..
  | .keptEntry .. | .verifiedEntry .. | .pwrGoodFall .. | .inputVoltageFault .. | .powerDownDone ..
  | .moduleResetN .. | .modReset .. | .registerWrite .. | .benchStore .. | .cobblerLoadStore ..
  | .nvmeDriveFailed .. | .tapInstruction .. => true
  | _ => false

end Sys2Proof.Machine
end

