-- ==== Sys2Proof/Certificates/Slice0/Obligations.lean ====
section
/-! DEFINITION. The statements for the provers, each a `def Obligations.<Name> : Prop`. A statement that a
command completes has as its conclusion that `exec` answers a next state. -/

open Sys2Proof Sys2Proof.Machine


/-- One command is one step: with command `c` at the front of its queue, the block does `exec c` on the
state that holds the rest of the queue; with no command waiting one microsecond passes (the model's choice,
notes/assumptions/2.md). -/
def Obligations.StepTakesTheFrontCommand : Prop :=
  ∀ (c : Instr) (rest : List Instr) (s : State),
    step { s with pending := c :: rest } = exec c { s with pending := rest } ∧
    step { s with pending := [] } = .next (tick { s with pending := [] })

/-- R84, R87: an add raises VALUE by its amount up to the largest value and sets FAULT for an operation that
failed; a set replaces both fields, and adds of the same cycle come after it. No other counter, no lane and
no byte of memory changes. -/
def Obligations.CounterAddAndSet : Prop :=
  ∀ (c : CtrNo) (k : Counter) (s : State), s.counters.find c.val = some k →
    (∀ (a : BitVec 63) (st : Byte), ∃ t, exec (.counterAdd ⟨c, .engine⟩ a st) s = .next t ∧
      t.counter c.val = { owner := k.owner,
                          value := min 0x7FFF_FFFF_FFFF_FFFF (k.value + a.toNat),
                          fault := k.fault || (st != 0) } ∧
      (∀ n, n ≠ c.val → t.counter n = s.counter n) ∧ t.lanes = s.lanes ∧ t.parts = s.parts ∧ t.mem = s.mem) ∧
    (∀ (v : Word) (adds : List (BitVec 63)), ∃ t, exec (.counterSet ⟨c, .engine⟩ v adds) s = .next t ∧
      (t.counter c.val).value =
        (if adds = [] then v.toNat % 2 ^ 63
         else min 0x7FFF_FFFF_FFFF_FFFF (v.toNat % 2 ^ 63 + (adds.map (·.toNat)).sum)) ∧
      (t.counter c.val).fault = v.toNat.testBit 63 ∧ (t.counter c.val).owner = k.owner ∧
      (∀ n, n ≠ c.val → t.counter n = s.counter n) ∧ t.lanes = s.lanes ∧ t.parts = s.parts ∧ t.mem = s.mem)

/-- R85, R88, R191, R201, Table 03-9: the host adds to and sets the counter that CTR_SELECT names; a wait is
armed over an owned counter alone; an armed wait whose counter has reached its threshold, or is faulted, is
released: ARMED clears and the release reports FAULT. A stitch core's wait is released likewise, or stops
the core at its instruction; an add, a set or a wait of a core on a counter that its partition does not own
stops the run with 0x0D at its instruction and changes no counter (R197). -/
def Obligations.HostCountersAndWaits : Prop :=
  ∀ (src : Src) (p : Part) (s : State),
    (hostReaches s src p → s.ownsCtr p.val (s.part p.val).ctrSelect = true → ∀ v : Word,
      (∃ t, exec (.ctrAddWrite src p v) s = .next t ∧
        (t.counter (s.part p.val).ctrSelect).value =
          min 0x7FFF_FFFF_FFFF_FFFF ((s.counter (s.part p.val).ctrSelect).value + v.toNat % 2 ^ 63) ∧
        (t.counter (s.part p.val).ctrSelect).fault = (s.counter (s.part p.val).ctrSelect).fault ∧
        (∀ n, n ≠ (s.part p.val).ctrSelect → t.counter n = s.counter n) ∧ t.parts = s.parts ∧ t.mem = s.mem) ∧
      (∃ t, exec (.ctrValueWrite src p v) s = .next t ∧
        (t.counter (s.part p.val).ctrSelect).value = v.toNat % 2 ^ 63 ∧
        (t.counter (s.part p.val).ctrSelect).fault = v.toNat.testBit 63 ∧
        (∀ n, n ≠ (s.part p.val).ctrSelect → t.counter n = s.counter n) ∧ t.parts = s.parts ∧ t.mem = s.mem)) ∧
    (hostReaches s src p → s.ownsCtr p.val (s.part p.val).ctrSelect = false → ∀ v : Word,
      exec (.ctrAddWrite src p v) s = .next s ∧ exec (.ctrValueWrite src p v) s = .next s) ∧
    (hostReaches s src p → ∀ (i : Fin 8) (v : Word), ∃ t, exec (.ctrWaitArm src p i v) s = .next t ∧
      ((t.part p.val).waits.at i.val {}) =
        { armed := v.toNat.testBit 31 && s.ownsCtr p.val (v.toNat % 2 ^ 16),
          vector := v.toNat / 2 ^ 24 % 32, counter := v.toNat % 2 ^ 16,
          threshold := ((s.part p.val).waits.at i.val {}).threshold,
          faultSeen := ((s.part p.val).waits.at i.val {}).faultSeen } ∧
      t.counters = s.counters ∧ t.lanes = s.lanes ∧ t.mem = s.mem) ∧
    (∀ i : Fin 8, ((s.part p.val).waits.at i.val {}).armed = true →
      (((s.part p.val).waits.at i.val {}).threshold ≤ (s.counter ((s.part p.val).waits.at i.val {}).counter).value ∨
        (s.counter ((s.part p.val).waits.at i.val {}).counter).fault = true) →
      ∃ t, exec (.counterWaitRelease (.host p) (.slot i)) s = .next t ∧
        ((t.part p.val).waits.at i.val {}).armed = false ∧
        ((t.part p.val).waits.at i.val {}).faultSeen =
          (s.counter ((s.part p.val).waits.at i.val {}).counter).fault ∧
        t.counters = s.counters ∧ t.lanes = s.lanes ∧ t.mem = s.mem) ∧
    (∀ (b : Blk) (r : CoreRun) (n : CtrNo) (th : BitVec 63), coreRuns s b.val r.core.val = true →
      s.blockOwner b.val = some p.val →
      (s.ownsCtr p.val n.val = true →
        (∃ t, exec (.counterWaitRelease (.core b r.core r.pre) (.counter n th)) s = .next t ∧
        t.counters = s.counters ∧ t.lanes = s.lanes ∧ t.mem = s.mem ∧
        (if ctrMet s n.val th.toNat then
          (t.core b.val r.core.val).wait = none ∧ (t.core b.val r.core.val).pc = (coreAt s b r).pc + 8 ∧
            (t.core b.val r.core.val).faultSeen = (s.counter n.val).fault
        else (t.core b.val r.core.val).wait = some (n.val, th.toNat) ∧
          (t.core b.val r.core.val).pc = (coreAt s b r).pc)) ∧
        ((∀ m l, s.lanes.find m = some l → l.portWrites = []) → ∀ (a : BitVec 63) (st : Byte), ∃ t,
          exec (.counterAdd ⟨n, .core b r.core r.pre⟩ a st) s = .next t ∧
          (t.counter n.val).value = min 0x7FFF_FFFF_FFFF_FFFF ((s.counter n.val).value + a.toNat) ∧
          (t.counter n.val).fault = ((s.counter n.val).fault || (st != 0)) ∧
          (t.core b.val r.core.val).pc = (coreAt s b r).pc + 8 ∧ t.lanes = s.lanes ∧ t.mem = s.mem)) ∧
      (s.ownsCtr p.val n.val = false → ∀ (a : BitVec 63) (st : Byte) (v : Word), ∀ c : Instr,
        (c = .counterWaitRelease (.core b r.core r.pre) (.counter n th) ∨
          c = .counterAdd ⟨n, .core b r.core r.pre⟩ a st ∨ c = .counterSet ⟨n, .core b r.core r.pre⟩ v []) →
        ∃ t, exec c s = .next t ∧ (t.block b.val).eng.state = 2 ∧ (t.block b.val).eng.stopCode = 0x0D ∧
          (t.block b.val).eng.faultAt = (coreAt s b r).pc ∧ t.counters = s.counters ∧ t.lanes = s.lanes ∧ t.mem = s.mem))

/-- R65, R66, R67, R68, R70, R201: a write places its item last and a read takes the oldest item, the others
keeping their order; a write to a lane that holds 16 items is ignored but for OVERRUN and LANE_DROPS; a read
of an empty lane gives the idle item, which is the lane's number in bytes 1 and 2, and changes nothing. Of
two writers of one cycle Xanin comes before the host, and a read is served before a write of its cycle. A
core writes and reads the lanes of its partition; any other stops its run with 0x0D at that instruction
(R197). A read of a full lane makes room, and the endpoints that it feeds are starved no more (R376). No
other lane changes. -/
def Obligations.LaneItemsKeepTheirOrder : Prop :=
  ∀ (n : LaneNo) (s : State) (l : Lane), s.lanes.find n.val = some l → l.portReads = [] → l.portWrites = [] →
    (l.items.length < 16 → ∀ (it : Item) (w : LaneWriter), (w = .transport ∨ w = .awl ∨ w = .host) →
      ∃ t, exec (.laneWrite n it ⟨w, false, []⟩) s = .next t ∧
      (t.lane n.val).items = l.items ++ [it] ∧ (∀ m, m ≠ n.val → t.lane m = s.lane m) ∧
      t.counters = s.counters ∧ t.parts = s.parts ∧ t.mem = s.mem) ∧
    (16 ≤ l.items.length → ∀ (it : Item) (w : LaneWriter), (w = .transport ∨ w = .awl ∨ w = .host) →
      ∃ t, exec (.laneWrite n it ⟨w, false, []⟩) s = .next t ∧
      (t.lane n.val).items = l.items ∧ (t.lane n.val).overrun = true ∧
      (t.lane n.val).drops = min 0xFFFF_FFFF (l.drops + 1) ∧ (∀ m, m ≠ n.val → t.lane m = s.lane m)) ∧
    (∀ (it : Item) (r : List Item), l.items = it :: r → ∃ t, exec (.laneRead ⟨n, .engine, false⟩) s = .next t ∧
      (t.lane n.val).items = r ∧ (∀ m, m ≠ n.val → t.lane m = s.lane m) ∧
      t.counters = s.counters ∧ t.mem = s.mem ∧ t.out = s.out ∧
      (l.items.length < 16 → t.parts = s.parts) ∧
      (16 ≤ l.items.length → ∀ k e, (t.part l.owner).xt.eps.find k = some e → e.kind = 1 → e.itemLane = n.val →
        e.emptySince = none)) ∧
    (l.items = [] → lanePop s n.val = (idleItem n.val, s) ∧ (idleItem n.val).toNat = 256 * n.val ∧
      ∃ t, exec (.laneRead ⟨n, .engine, false⟩) s = .next t ∧ t.lane n.val = l ∧
        (∀ m, m ≠ n.val → t.lane m = s.lane m) ∧ t.counters = s.counters ∧ t.parts = s.parts ∧ t.mem = s.mem ∧
        t.out = s.out) ∧
    (l.items.length < 15 → ∀ x y : Item, ∃ u t, exec (.laneWrite n x ⟨.host, true, []⟩) s = .next u ∧
      exec (.laneWrite n y ⟨.transport, false, []⟩) u = .next t ∧ (t.lane n.val).items = l.items ++ [y, x]) ∧
    (∀ (it x : Item) (r : List Item), l.items = it :: r → l.items.length ≤ 16 →
      ∃ u t, exec (.laneRead ⟨n, .engine, true⟩) s = .next u ∧ exec (.laneWrite n x ⟨.awl, false, []⟩) u = .next t ∧
        (t.lane n.val).items = r ++ [x]) ∧
    (∀ (b : Blk) (c : CoreRun) (p : Part) (x : Item), coreRuns s b.val c.core.val = true →
      s.blockOwner b.val = some p.val →
      (l.owner = p.val → l.items.length < 16 →
        ∃ t, exec (.laneWrite n x ⟨.core b c.core, false, c.pre⟩) s = .next t ∧
        (t.lane n.val).items = l.items ++ [x] ∧ (t.core b.val c.core.val).pc = (coreAt s b c).pc + 8 ∧
        (∀ m, m ≠ n.val → t.lane m = s.lane m) ∧ t.counters = s.counters ∧ t.mem = s.mem) ∧
      (l.owner = p.val → ∀ (it : Item) (r : List Item) (d : Fin 16), l.items = it :: r →
        ∃ t, exec (.laneRead ⟨n, .core b c.core d c.pre, false⟩) s = .next t ∧ (t.lane n.val).items = r ∧
          (∀ m, m ≠ n.val → t.lane m = s.lane m) ∧ t.counters = s.counters ∧ t.mem = s.mem) ∧
      (l.owner ≠ p.val → ∀ i : Instr,
        (i = .laneWrite n x ⟨.core b c.core, false, c.pre⟩ ∨
          ∃ d, i = .laneRead ⟨n, .core b c.core d c.pre, false⟩) →
        ∃ t, exec i s = .next t ∧ t.lanes = s.lanes ∧ (t.block b.val).eng.state = 2 ∧
          (t.block b.val).eng.stopCode = 0x0D ∧ (t.block b.val).eng.faultAt = (coreAt s b c).pc ∧ t.counters = s.counters ∧ t.mem = s.mem))

/-- R71, R79, R80, R81: the stale-tail timer that is due sets STALE; the fourth word of a write slot commits
the four words last written as one item; the first word of a read slot captures the head and the fourth
removes it; a slot shows the lane's LEVEL, drops a write that is no aligned 64-bit access and does not
support such a read (R389); LANE_CONTROL takes the written bits, INT_ARM clearing at once over a lane that
holds items. -/
def Obligations.LaneTimerSlotsAndControl : Prop :=
  (∀ (n : LaneNo) (s : State) (l : Lane), s.lanes.find n.val = some l →
    l.stale ≠ 0 → l.items ≠ [] → l.fired = false → l.restart + l.stale ≤ s.now →
    ∃ t, exec (.staleTimer n) s = .next t ∧ (t.lane n.val).staleBit = true ∧ (t.lane n.val).fired = true ∧
      (t.lane n.val).items = l.items ∧ (∀ m, m ≠ n.val → t.lane m = s.lane m)) ∧
  (∀ (p : Part) (k : Fin 512) (n : Nat) (s : State) (l : Lane), pageAnswers s (p.val + 1) = true → k.val < 256 →
    slotLane s p.val k.val = some n → s.lanes.find n = some l → l.kind = 1 → l.portReads = [] → l.portWrites = [] →
    ∀ v : Word, exec (.hostSlotWrite p.succ k .other v) s = .next s ∧
    (∀ w : Fin 16, w.val < 3 → ∃ t, exec (.hostSlotWrite p.succ k (.aligned w) v) s = .next t ∧
      (((t.part p.val).hostSlots.at k.val {}).words.at w.val 0) = v ∧ t.lanes = s.lanes ∧
      t.counters = s.counters ∧ t.mem = s.mem) ∧
    (l.items.length < 16 → ∃ t, exec (.hostSlotWrite p.succ k (.aligned 3) v) s = .next t ∧
      (t.lane n).items = l.items ++ [itemOf
        (leBytes 8 (((s.part p.val).hostSlots.at k.val {}).words.at 0 0).toNat
         ++ leBytes 8 (((s.part p.val).hostSlots.at k.val {}).words.at 1 0).toNat
         ++ leBytes 8 (((s.part p.val).hostSlots.at k.val {}).words.at 2 0).toNat
         ++ leBytes 8 v.toNat)] ∧
      (∀ m, m ≠ n → t.lane m = s.lane m) ∧ t.counters = s.counters ∧ t.mem = s.mem)) ∧
  (∀ (p : Part) (k : Fin 512) (n : Nat) (s : State) (l : Lane), pageAnswers s (p.val + 1) = true → k.val < 256 →
    slotLane s p.val k.val = some n → s.lanes.find n = some l → l.kind = 2 →
    exec (.hostSlotRead p.succ k (.aligned 8)) s =
      .next (s.emit (.readValue (p.val + 1) (BitVec.ofNat 64 l.items.length))) ∧
    exec (.hostSlotRead p.succ k .other) s = .next (s.emit (.unsupported (p.val + 1))) ∧
    (∀ (it : Item) (r : List Item), l.items = it :: r →
      ∃ t, exec (.hostSlotRead p.succ k (.aligned 4)) s = .next t ∧
      ((t.part p.val).hostSlots.at k.val {}).captured = some it ∧
      t.out = s.out ++ [.readValue (p.val + 1) (itemWord it 0)] ∧ t.lanes = s.lanes ∧ t.mem = s.mem) ∧
    (∀ (it : Item) (r : List Item), l.items = it :: r → it ≠ idleItem n →
      ((s.part p.val).hostSlots.at k.val {}).captured = some it →
      ((s.part p.val).hostSlots.at k.val {}).taken = false →
      ∃ t, exec (.hostSlotRead p.succ k (.aligned 7)) s = .next t ∧ (t.lane n).items = r ∧
      t.out = s.out ++ [.readValue (p.val + 1) (itemWord it 3)] ∧
      (∀ m, m ≠ n → t.lane m = s.lane m) ∧ t.counters = s.counters ∧ t.mem = s.mem)) ∧
  (∀ (src : Src) (p : Part) (n : LaneNo) (v : Word) (s : State) (l : Lane), hostReaches s src p →
    s.lanes.find n.val = some l → l.owner = p.val →
    ∃ t, exec (.laneControlWrite src n v) s = .next t ∧
      (t.lane n.val).intOverrun = v.toNat.testBit 1 ∧ (t.lane n.val).intStale = v.toNat.testBit 2 ∧
      (t.lane n.val).intArm = (v.toNat.testBit 0 && (l.items.isEmpty || decide (32 ≤ l.vector))) ∧ (t.lane n.val).items = l.items ∧
      (∀ m, m ≠ n.val → t.lane m = s.lane m) ∧ t.counters = s.counters ∧ t.parts = s.parts ∧ t.mem = s.mem)

/-- R90, Table 03-16: TAIL takes a value that leaves at most the ring's size of descriptors in the ring and
is refused, with the error bit set, otherwise; base and size are taken while the Awl is empty and idle, and
ignored otherwise; descriptor k lies in entry k modulo the ring's size. No other Awl changes. -/
def Obligations.AwlRingRegisters : Prop :=
  ∀ (src : Src) (p : Part) (b : Blk) (i : Fin 8) (v : Word) (s : State), hostReachesBlock s src p b →
    (dist32 (v.setWidth 32) (s.awl (8 * b.val + i.val)).head ≤ 2 ^ (s.awl (8 * b.val + i.val)).size →
      (∃ t, exec (.awlTailWrite src b i v) s = .next t ∧ (t.awl (8 * b.val + i.val)).tail = v.setWidth 32 ∧
        (t.awl (8 * b.val + i.val)).head = (s.awl (8 * b.val + i.val)).head ∧
        (t.awl (8 * b.val + i.val)).tailError = (s.awl (8 * b.val + i.val)).tailError ∧
        (t.awl (8 * b.val + i.val)).jobs = (s.awl (8 * b.val + i.val)).jobs ∧
        (∀ m, m ≠ 8 * b.val + i.val → t.awl m = s.awl m) ∧ t.mem = s.mem) ∧
      ((s.awl (8 * b.val + i.val)).owned = [] → exec (.awlTailWrite src b i v) s =
        .next (s.setAwl (8 * b.val + i.val) { s.awl (8 * b.val + i.val) with tail := v.setWidth 32 }))) ∧
    (2 ^ (s.awl (8 * b.val + i.val)).size < dist32 (v.setWidth 32) (s.awl (8 * b.val + i.val)).head →
      exec (.awlTailWrite src b i v) s =
        .next (s.setAwl (8 * b.val + i.val) { s.awl (8 * b.val + i.val) with tailError := true })) ∧
    ((s.awl (8 * b.val + i.val)).head = (s.awl (8 * b.val + i.val)).tail →
      (s.awl (8 * b.val + i.val)).jobs = [] →
      exec (.awlRingWrite src b i false v) s =
        .next (s.setAwl (8 * b.val + i.val)
          { s.awl (8 * b.val + i.val) with base := v.toNat / 64 * 64 }) ∧
      (4 ≤ v.toNat % 32 → v.toNat % 32 ≤ 16 → exec (.awlRingWrite src b i true v) s =
        .next (s.setAwl (8 * b.val + i.val) { s.awl (8 * b.val + i.val) with size := v.toNat % 32 }))) ∧
    ((s.awl (8 * b.val + i.val)).head ≠ (s.awl (8 * b.val + i.val)).tail ∨
        (s.awl (8 * b.val + i.val)).jobs ≠ [] →
      ∀ size : Bool, exec (.awlRingWrite src b i size v) s = .next s) ∧
    (∀ (base size : Nat) (k : BitVec 32), ringOff base size 64 k = base + k.toNat % 2 ^ size * 64)

/-- R97 to R99, R102, R141: a MOVE, FILL or TACK at the head of its Awl's ring that passes its checks leaves
the ring; it is in progress at once when it waits on nothing (a TACK once its index table has been read
well), and waits when its counter has not reached its threshold. One that fails a check completes with that
check's code, counted and kept in LAST_FAIL. -/
def Obligations.AwlDescriptorsTakeTheirTurn : Prop :=
  ∀ (b : Blk) (i : Fin 8) (p : Nat) (s : State) (bs : List Byte) (op : Nat) (c : Instr),
    (op = 1 ∧ c = .move b i ∨ op = 2 ∧ c = .fill b i ∨ op = 3 ∧ c = .tack b i) →
    awlPart s (8 * b.val + i.val) = some p →
    (s.awl (8 * b.val + i.val)).head ≠ (s.awl (8 * b.val + i.val)).tail →
    (s.awl (8 * b.val + i.val)).waiting = none →
    (s.awl (8 * b.val + i.val)).jobs.length < 64 →
    (s.awl (8 * b.val + i.val)).job (s.awl (8 * b.val + i.val)).head = none →
    (ringRead s p (s.awl (8 * b.val + i.val)).base (s.awl (8 * b.val + i.val)).size 64
      (s.awl (8 * b.val + i.val)).head).1 = 0 →
    (ringRead s p (s.awl (8 * b.val + i.val)).base (s.awl (8 * b.val + i.val)).size 64
      (s.awl (8 * b.val + i.val)).head).2.1 = bs →
    (descOf bs).opcode = op →
    ((descOf bs).ordered = false ∨ (s.awl (8 * b.val + i.val)).jobs = []) →
    blockSuspect s b.val = false → (s.block b.val).halted = false → s.fab.home = [] →
    (descCheck s p (descOf bs) = 0 →
      ((descOf bs).waits = false ∨
        ((s.counter (descOf bs).waitCounter).fault = false ∧
         ctrMet s (descOf bs).waitCounter (descOf bs).waitValue = true)) →
      (op = 3 → (tackStart s p { index := (s.awl (8 * b.val + i.val)).head, desc := descOf bs }).2.status = 0) →
      ∃ t, exec c s = .next t ∧
        (t.awl (8 * b.val + i.val)).head = (s.awl (8 * b.val + i.val)).head + 1 ∧
        ∃ j ∈ (t.awl (8 * b.val + i.val)).jobs,
          j.index = (s.awl (8 * b.val + i.val)).head ∧ j.desc = descOf bs) ∧
    (descCheck s p (descOf bs) = 0 → (descOf bs).waits = true →
      (s.counter (descOf bs).waitCounter).fault = false →
      ctrMet s (descOf bs).waitCounter (descOf bs).waitValue = false →
      ∃ t, exec c s = .next t ∧
        (t.awl (8 * b.val + i.val)).head = (s.awl (8 * b.val + i.val)).head + 1 ∧
        ∃ j, (t.awl (8 * b.val + i.val)).waiting = some j ∧
          j.index = (s.awl (8 * b.val + i.val)).head ∧ j.desc = descOf bs ∧ j.status = 0) ∧
    (∀ code : Byte, descCheck s p (descOf bs) = code → code ≠ 0 →
      ∃ t, exec c s = .next t ∧
        (t.awl (8 * b.val + i.val)).head = (s.awl (8 * b.val + i.val)).head + 1 ∧
        (t.awl (8 * b.val + i.val)).lastFail = code ∧
        (t.awl (8 * b.val + i.val)).done = min (2 ^ 64 - 1) ((s.awl (8 * b.val + i.val)).done + 1) ∧
        (t.awl (8 * b.val + i.val)).jobs = (s.awl (8 * b.val + i.val)).jobs ∧
        ((s.part p).hold.lives = [] → t.mem = s.mem))

/-- R100, R102, R104, R103, R106: a wait that is met starts its descriptor, or completes it with 0x08 where
the counter is faulted; an acknowledged write leaves the outstanding requests with its bytes in memory,
counted as written, and a failed one stops the descriptor; a descriptor whose requests have all ended
completes; a flush completes every descriptor that has not started and leaves those in progress. -/
def Obligations.AwlDescriptorsEnd : Prop :=
  ∀ (b : Blk) (i : Fin 8) (p : Nat) (s : State),
    (∀ j : AwlJob, awlPart s (8 * b.val + i.val) = some p →
      (s.awl (8 * b.val + i.val)).waiting = some j → blockSuspect s b.val = false →
      ((s.counter j.desc.waitCounter).fault = true → ∃ t, exec (.awlWaitRelease b i) s = .next t ∧
        (t.awl (8 * b.val + i.val)).waiting = none ∧ (t.awl (8 * b.val + i.val)).lastFail = 8 ∧
        (t.awl (8 * b.val + i.val)).jobs = (s.awl (8 * b.val + i.val)).jobs) ∧
      ((s.counter j.desc.waitCounter).fault = false → ctrMet s j.desc.waitCounter j.desc.waitValue = true →
        j.desc.opcode ≠ 3 → j.status = 0 → (s.awl (8 * b.val + i.val)).job j.index = none →
        ∃ t, exec (.awlWaitRelease b i) s = .next t ∧ (t.awl (8 * b.val + i.val)).waiting = none ∧
        ∃ x ∈ (t.awl (8 * b.val + i.val)).jobs, x.index = j.index ∧ x.desc = j.desc)) ∧
    (∀ (j : AwlJob) (q : AwlReq) (c : Byte), awlPart s (8 * b.val + i.val) = some p →
      (s.awl (8 * b.val + i.val)).jobs = [j] → j.outstanding = [q] → j.issue = [] → j.status = 0 →
      (c ≠ 0 → codeDefined c = true → ∃ t, exec (.awlRequestDone b i j.index q.id (.failed c)) s = .next t ∧
        ∃ x, (t.awl (8 * b.val + i.val)).jobs = [x] ∧ x.index = j.index ∧ x.desc = j.desc ∧
          x.status = c ∧ x.outstanding = [] ∧ x.doneBytes = j.doneBytes ∧ t.mem = s.mem) ∧
      (∀ bs : List Byte, reqBytes s p { j with outstanding := [] } q = bs → j.desc.opcode ≠ 3 →
        q.read = false → q.way = .own → s.fab.home = [] → benchReady s (reqDst j q) = true →
        sourceFailure s p j.desc (sourceSpans j.desc q.row q.off q.len) = none →
        writeFailure s p (reqDst j q) bs.length (coversPage j.desc) = none →
        ∃ t, exec (.awlRequestDone b i j.index q.id (.acked none)) s = .next t ∧
          (∃ x, (t.awl (8 * b.val + i.val)).jobs = [x] ∧ x.index = j.index ∧ x.desc = j.desc ∧
            x.status = 0 ∧ x.outstanding = [] ∧ x.doneBytes = j.doneBytes + q.len) ∧
          memKeptBut s t (memKey p (reqDst j q)) bs.length ∧
          (s.badWords = [] → allTrusted s = true → ∀ (k : Nat) (h : k < bs.length),
            memByte t.mem (memKey p (reqDst j q) + k) = bs[k]))) ∧
    (∀ j : AwlJob, awlPart s (8 * b.val + i.val) = some p →
      (s.awl (8 * b.val + i.val)).job j.index = some j → j.issue = [] → j.outstanding = [] →
      (s.part p).hold.moves = [] → (s.part p).hold.lives = [] →
      ∃ t, exec (.awlDescriptorComplete b i j.index) s = .next t ∧
        (t.awl (8 * b.val + i.val)).job j.index = none ∧
        (t.awl (8 * b.val + i.val)).done = min (2 ^ 64 - 1) ((s.awl (8 * b.val + i.val)).done + 1) ∧
        (t.awl (8 * b.val + i.val)).lastFail =
          (if j.status = 0 then (s.awl (8 * b.val + i.val)).lastFail else j.status) ∧
        (j.desc.signals = true → s.ownsCtr p j.desc.signalCounter = true →
          (t.counter j.desc.signalCounter).value =
            min 0x7FFF_FFFF_FFFF_FFFF ((s.counter j.desc.signalCounter).value + 1) ∧
          (t.counter j.desc.signalCounter).fault =
            ((s.counter j.desc.signalCounter).fault || (j.status != 0))) ∧ t.mem = s.mem) ∧
    (∀ (q : Part) (src : Src) (v : Word), hostReachesBlock s src q b → v.toNat.testBit 0 = true →
      ∃ t, exec (.awlFlush src b i v) s = .next t ∧
        (t.awl (8 * b.val + i.val)).head = (s.awl (8 * b.val + i.val)).tail ∧
        (t.awl (8 * b.val + i.val)).tail = (s.awl (8 * b.val + i.val)).tail ∧
        (t.awl (8 * b.val + i.val)).waiting = none ∧
        (t.awl (8 * b.val + i.val)).jobs = (s.awl (8 * b.val + i.val)).jobs ∧
        ((s.part q.val).hold.lives = [] → t.mem = s.mem))

/-- R42 to R45, R48: BEGIN empties the staging and names its target; an accepted chunk waits for its bytes,
which are fetched from PAT_CHUNK_ADDR in host memory and then follow those received before; ABORT empties
the staging. By both ways into the loader. -/
def Obligations.PatternImagesAreLoaded : Prop :=
  ∀ (via : Via) (s : State), s.loader.busy = false →
    (loaderTakes s via 0 = true →
      (∀ part : Byte, (part = 255 ∧ (s.regs.state = 2 ∨ s.regs.state = 4) ∨
          part.toNat < 64 ∧ partStopped s part.toNat = true) →
        ∃ t, exec (.patBegin via part) s = .next t ∧ t.loader.receiving = true ∧
          t.loader.target = part.toNat ∧ t.loader.staged = [] ∧ t.loader.chunks = [] ∧ t.loader.status = 1 ∧
          t.loader.slotA = s.loader.slotA ∧ t.loader.slotB = s.loader.slotB ∧
          t.pattern = s.pattern ∧ t.parts = s.parts ∧ t.mem = s.mem) ∧
      (∀ part : Byte, ∃ t, exec (.patAbort via part) s = .next t ∧ t.loader.receiving = false ∧
          t.loader.staged = [] ∧ t.loader.chunks = [] ∧ t.loader.status = 0 ∧
          t.pattern = s.pattern ∧ t.parts = s.parts ∧ t.mem = s.mem)) ∧
    (s.loader.receiving = true → s.loader.chunks = [] →
      ∀ (off len : BitVec 32) (bytes : List Byte), loaderTakes s via 0x18 bytes.length = true →
      (∀ fn, via = .bar0 fn → chunkOk s.loader off.toNat len.toNat = true →
        ∃ t, exec (.patChunk via off len bytes) s = .next t ∧ t.loader.staged = s.loader.staged ∧
          t.loader.chunks = [{ offset := off.toNat, length := len.toNat, bytes := none }] ∧
          t.out = s.out ++ [.hostRead (s.loader.chunkAddr.toNat / 64 * 64) len.toNat] ∧
          t.pattern = s.pattern ∧ t.parts = s.parts ∧ t.mem = s.mem) ∧
      (∀ m, via = .mgmt m → bytes.length ≤ 4064 → chunkOk s.loader off.toNat bytes.length = true →
        s.loader.knowsTotal = true →
        ∃ t, exec (.patChunk via off len bytes) s = .next t ∧ t.loader.chunks = [] ∧
          t.loader.staged = s.loader.staged ++ bytes ∧
          t.pattern = s.pattern ∧ t.parts = s.parts ∧ t.mem = s.mem)) ∧
    (∀ (off : Nat) (bytes : List Byte), s.loader.knowsTotal = true →
      s.loader.chunks = [{ offset := off, length := bytes.length, bytes := none }] →
      ∃ t, exec (.chunkDone (some bytes)) s = .next t ∧ t.loader.chunks = [] ∧
        t.loader.staged = s.loader.staged ++ bytes ∧ t.loader.events.chunkDone = true ∧
        t.pattern = s.pattern ∧ t.parts = s.parts ∧ t.mem = s.mem)

/-- R46, R47, R49, R51: COMMIT of a whole image starts the retained write of the pattern that passes
validation, or ends the load with the code, piece and field of the first check that fails, FAILED set and
the module Held; the retained write of a full image makes that pattern the committed one, on trial, in the
slot that is written, and the module Patterned. The model's own readings that this rests on:
notes/assumptions/9.md, notes/assumptions/36.md. -/
def Obligations.PatternImagesAreCommitted : Prop :=
  (∀ (via : Via) (part : Byte) (s : State), s.loader.busy = false → loaderTakes s via 0 = true →
    s.loader.receiving = true → s.loader.knowsTotal = true → s.loader.received = imageTotal s.loader.staged →
    s.loader.target = 255 →
    ∃ t, exec (.patCommit via part) s = .next t ∧ t.loader.receiving = false ∧ t.pattern = s.pattern ∧
      t.mem = s.mem ∧
      match validate s s.loader.staged 255 (partStopped s 255) (some s.loader.serialFloor) with
      | (none, n) => t.loader.committing = some n ∧ t.loader.status = 2 ∧ t.regs.state = s.regs.state
      | (some c, _) => t.loader.committing = none ∧ t.loader.status = c.code ∧ t.loader.faultPiece = c.piece ∧
          t.loader.faultOffset = c.off ∧ t.loader.events.failed = true ∧ t.regs.state = 4) ∧
  (∀ (n : Pattern) (s : State), s.loader.committing = some n → s.loader.target = 255 →
    (s.regs.state = 2 ∨ s.regs.state = 4) →
    (∃ t, exec (.commitFlashDone true) s = .next t ∧ t.pattern = some n ∧ t.regs.state = 3 ∧
      t.loader.status = 3 ∧ t.loader.events.committed = true ∧ t.loader.committing = none ∧
      t.loader.fullTrial = some { serial := n.serial, window := n.window } ∧
      (getSlot t.loader (writeSlot s.loader)).state = 1 ∧
      (getSlot t.loader (writeSlot s.loader)).kept =
        some { image := s.loader.staged, serial := n.serial, count := 0 } ∧
      (getSlot t.loader !(writeSlot s.loader)).kept = (getSlot s.loader !(writeSlot s.loader)).kept) ∧
    (∃ t, exec (.commitFlashDone false) s = .next t ∧ t.pattern = s.pattern ∧ t.regs.state = 4 ∧
      t.loader.status = 0x50 ∧ t.loader.events.failed = true ∧
      (getSlot t.loader (writeSlot s.loader)).state = 3))

/-- R52, R53, R41: CONFIRM of a running trial under its SERIAL starts the confirm record; the record, once
written, makes the slot confirmed and its SERIAL the floor; a trial whose window has run out is expired and
sets its event bit. R58, R62, R51: OPEN of the module from Patterned gives it Open (Doubt while an I/O die
is in Doubt), starts the lease; OPEN of a partition gives it Open with its lanes empty; STOP of an Open
partition lets its step end, after which it is Patterned. -/
def Obligations.TrialsAreConfirmedAndPatternsOpen : Prop :=
  ((∀ (via : Via) (part : Byte) (arg : Word) (s : State), loaderTakes s via 0 = true →
     s.loader.confirming = none → s.loader.confirmWaiting = [] →
     confirmOk (match via with
       | .bar0 _ => s
       | .mgmt _ => s.modLoader fun l => { l with arg := arg }) part.toNat = true →
     ∃ t, exec (.patConfirm via part arg) s = .next t ∧ t.loader.confirming = some part.toNat ∧
       t.loader.status = s.loader.status ∧ t.pattern = s.pattern ∧ t.parts = s.parts ∧ t.mem = s.mem) ∧
   (∀ (b : Bool) (s : State), s.loader.confirming = some 255 → s.loader.confirmWaiting = [] →
     runningSlot s.loader = some b →
     ∃ t, exec (.confirmRecordDone true) s = .next t ∧ t.loader.confirming = none ∧
       (getSlot t.loader b).state = 2 ∧ t.loader.serialFloor = (getSlot s.loader b).serial ∧
       t.loader.fullTrial = none ∧ t.loader.status = 4 ∧
       t.loader.confirmCount = s.loader.confirmCount + 1 ∧
       t.pattern = s.pattern ∧ t.parts = s.parts ∧ t.mem = s.mem ∧ t.trust.slots = s.trust.slots) ∧
   (∀ (x : Trial) (at_ : Nat) (s : State), s.loader.fullTrial = some x → x.openedAt = some at_ →
     x.expired = false → at_ + 1000 * x.window ≤ s.now → s.loader.confirming = none → s.loader.confirmWaiting = [] →
     ∃ t, exec (.confirmExpired 255) s = .next t ∧ t.loader.fullTrial = some { x with expired := true } ∧
       t.loader.events.confirmExpired = true ∧ t.pattern = s.pattern ∧ t.parts = s.parts ∧ t.mem = s.mem)) ∧
  ((∀ (via : Via) (s : State), loaderTakes s via 0 = true → s.regs.state = 3 →
     ∃ t, exec (.patOpen via 255) s = .next t ∧ t.regs.state = (if dieInDoubt s then 7 else 5) ∧
       t.regs.previous = 3 ∧ t.faults.leaseRunning = true ∧ t.faults.leaseAt = s.now ∧
       t.pattern = s.pattern ∧ t.loader.status = s.loader.status) ∧
   (∀ (via : Via) (p : Part) (part : Byte) (s : State), part.toNat = p.val → loaderTakes s via 0 = true →
     s.regs.state = 5 →
     (s.code p.val = 3 → (s.part p.val).trust.owed = false →
       ∃ t, exec (.patOpen via part) s = .next t ∧ t.code p.val = 5 ∧
         (∀ n l, t.lanes.find n = some l → l.owner = p.val → l.items = []) ∧
         (∀ n k, t.counters.find n = some k → k.owner = p.val → k.value = 0 ∧ k.fault = false) ∧
         t.pattern = s.pattern) ∧
     (s.code p.val = 5 → ∃ t, exec (.patStop via part) s = .next t ∧ (t.part p.val).stopping = true ∧
         t.code p.val = 5 ∧ t.lanes = s.lanes ∧ t.counters = s.counters ∧ t.mem = s.mem)) ∧
   (∀ (p : Part) (s : State), (s.part p.val).stopping = true → s.code p.val = 5 →
     (s.part p.val).hold.step = none →
     ∃ t, exec (.stopDrain p) s = .next t ∧ t.code p.val = 3 ∧ (t.part p.val).stopping = false ∧
       t.pattern = s.pattern ∧ t.counters = s.counters))

/-- R160: COMMIT from the holder of a Last, while no partner is being rebuilt. In STATE 1, TO above the
class capacity is answered 0x02, TO at or below LENGTH 0x00; FROM at or below LENGTH below TO raises LENGTH
to TO in one entry write; FROM above LENGTH is held, the fifth such answered 0x0B. While the Last grows or
moves every COMMIT waits. From anyone else it is answered 0x0D. A held COMMIT whose FROM LENGTH has reached
is handled. -/
def Obligations.CommitRaisesLengthInOrder : Prop :=
  ∀ (p : Part) (h : SvcHdr) (s : State), isCache s p.val = true → rebuildRuns s p.val = false →
    (serviceTaken s p.val 2 h → liveHandle s p.val h.handle = true →
      (fromHolder (dirAt s p.val (handleSlot h.handle)) h = false →
        ∃ t, exec (.commit p h) s = .next t ∧ repliesWith s t h 0x0D ∧ t.mem = s.mem ∧
          ∀ n, dirAt t p.val n = dirAt s p.val n) ∧
      (fromHolder (dirAt s p.val (handleSlot h.handle)) h = true →
        ((dirAt s p.val (handleSlot h.handle)).state = 3 ∨ (dirAt s p.val (handleSlot h.handle)).state = 4) →
        ∃ t, exec (.commit p h) s = .next t ∧ t.out = s.out ∧ t.mem = s.mem ∧
          (t.part p.val).last.heldCommits.at (handleSlot h.handle) [] =
            (s.part p.val).last.heldCommits.at (handleSlot h.handle) [] ++ [h]) ∧
      (fromHolder (dirAt s p.val (handleSlot h.handle)) h = true →
        (dirAt s p.val (handleSlot h.handle)).state = 1 →
        (capOf s (dirAt s p.val (handleSlot h.handle)).cls < h.posB →
          ∃ t, exec (.commit p h) s = .next t ∧ repliesWith s t h 2 ∧ t.mem = s.mem ∧
            ∀ n, dirAt t p.val n = dirAt s p.val n) ∧
        (h.posB ≤ capOf s (dirAt s p.val (handleSlot h.handle)).cls →
          h.posB ≤ (dirAt s p.val (handleSlot h.handle)).length →
          ∃ t, exec (.commit p h) s = .next t ∧ repliesWith s t h 0 ∧ t.mem = s.mem ∧
            ∀ n, dirAt t p.val n = dirAt s p.val n) ∧
        (h.posB ≤ capOf s (dirAt s p.val (handleSlot h.handle)).cls →
          (dirAt s p.val (handleSlot h.handle)).length < h.posB →
          h.posA ≤ (dirAt s p.val (handleSlot h.handle)).length →
          ∃ t, exec (.commit p h) s = .next t ∧ repliesWith s t h 0 ∧
            dirAt t p.val (handleSlot h.handle) =
              { dirAt s p.val (handleSlot h.handle) with length := h.posB } ∧
            (∀ n, n ≠ handleSlot h.handle → dirAt t p.val n = dirAt s p.val n) ∧
            memKeptButEntry s t p.val (handleSlot h.handle)) ∧
        (h.posB ≤ capOf s (dirAt s p.val (handleSlot h.handle)).cls →
          (dirAt s p.val (handleSlot h.handle)).length < h.posA → h.posA < h.posB →
          (heldAbove s p.val (handleSlot h.handle) < 4 →
            ∃ t, exec (.commit p h) s = .next t ∧ t.out = s.out ∧ t.mem = s.mem ∧
              (t.part p.val).last.heldCommits.at (handleSlot h.handle) [] =
                (s.part p.val).last.heldCommits.at (handleSlot h.handle) [] ++ [h]) ∧
          (4 ≤ heldAbove s p.val (handleSlot h.handle) →
            ∃ t, exec (.commit p h) s = .next t ∧ repliesWith s t h 0x0B ∧ t.mem = s.mem)))) ∧
    (∀ n : Nat, (s.part p.val).last.heldCommits.at n [] = [h] → (dirAt s p.val n).state = 1 →
      unreachable s h.fromDevice = false → h.posB ≤ capOf s (dirAt s p.val n).cls → h.posA ≤ (dirAt s p.val n).length →
      (dirAt s p.val n).length < h.posB →
      ∃ t, exec (.commitHeldResume p n) s = .next t ∧ repliesWith s t h 0 ∧
        dirAt t p.val n = { dirAt s p.val n with length := h.posB } ∧
        (t.part p.val).last.heldCommits.at n [] = [] ∧ memKeptButEntry s t p.val n)

/-- R154 steps 1, 5, 6 and 9 at factor 1 with room in HBM: OPEN of an allocation handle takes the lowest
free slot, the smallest class that holds POS_A positions, and the lowest run of that size, with the sender
as its holder; OPEN of an idle Last in HBM with room in its class names the sender its holder. R155: so does
the partner's OPEN, for the holder that HANDLE2 names. The model's own readings that this rests on:
notes/assumptions/24.md. -/
def Obligations.OpenNamesTheHolder : Prop :=
  ∀ (p : Part) (h : SvcHdr) (s : State) (count dirBase : Nat), serviceTaken s p.val 1 h →
    isCache s p.val = true → directory s p.val = some (count, dirBase) →
    (h.partner = false → partnerOf s p.val = none →
      (∀ layers kvHeads head model n c base, isAllocation h.handle = true → h.posA ≤ lMax s →
        shapeOf h.value = some (layers, kvHeads, head, model) → freeSlot s p.val count = some n →
        (s.part p.val).last.waiting.at n [] = [] → classFor s h.posA = some c → findRun s p.val 1 (footprint s c layers kvHeads head) = some base →
        ∃ t, exec (.openLast p h) s = .next t ∧ repliesWith s t h 0 ∧
          dirAt t p.val n =
            { state := 1, cls := c, tier := 1, reuse := (dirAt s p.val n).reuse, base := base,
              holderTag := h.tag, holderDevice := h.fromDevice, holderPartition := h.fromPartition,
              idleSince := s.now, layers := layers, kvHeads := kvHeads, head := head, model := model } ∧
          (∀ m, m ≠ n → dirAt t p.val m = dirAt s p.val m) ∧ memKeptButEntry s t p.val n) ∧
      (isAllocation h.handle = false → liveHandle s p.val h.handle = true →
        sameShape (dirAt s p.val (handleSlot h.handle)) h.value = true →
        (dirAt s p.val (handleSlot h.handle)).length + h.posA ≤ lMax s →
        (dirAt s p.val (handleSlot h.handle)).state = 2 → slotBusy s p.val (handleSlot h.handle) = false →
        (dirAt s p.val (handleSlot h.handle)).tier = 1 →
        (dirAt s p.val (handleSlot h.handle)).length + h.posA ≤
          capOf s (dirAt s p.val (handleSlot h.handle)).cls →
        ∃ t, exec (.openLast p h) s = .next t ∧ repliesWith s t h 0 ∧
          dirAt t p.val (handleSlot h.handle) =
            { dirAt s p.val (handleSlot h.handle) with
              state := 1, holderTag := h.tag, holderDevice := h.fromDevice,
              holderPartition := h.fromPartition, partner := allOnes64 } ∧
          (∀ m, m ≠ handleSlot h.handle → dirAt t p.val m = dirAt s p.val m) ∧
          memKeptButEntry s t p.val (handleSlot h.handle))) ∧
    (∀ senderLength : Nat, h.partner = true → handleSlot h.handle < count → liveHandle s p.val h.handle = true →
      ((dirAt s p.val (handleSlot h.handle)).state = 1 ∨ (dirAt s p.val (handleSlot h.handle)).state = 2) →
      slotBusy s p.val (handleSlot h.handle) = false →
      sameShape (dirAt s p.val (handleSlot h.handle)) h.value = true →
      senderLength ≤ (dirAt s p.val (handleSlot h.handle)).length →
      (dirAt s p.val (handleSlot h.handle)).tier = 1 →
      (dirAt s p.val (handleSlot h.handle)).length + h.posA ≤
        capOf s (dirAt s p.val (handleSlot h.handle)).cls →
      ∃ t, exec (.openPartner p h senderLength) s = .next t ∧ repliesWith s t h 0 ∧
        (dirAt t p.val (handleSlot h.handle)).state = 1 ∧
        (dirAt t p.val (handleSlot h.handle)).holderTag = h.tag ∧
        (dirAt t p.val (handleSlot h.handle)).holderDevice = h.handle2.toNat % 65536 ∧
        (dirAt t p.val (handleSlot h.handle)).holderPartition = h.handle2.toNat / 65536 % 256 ∧
        (dirAt t p.val (handleSlot h.handle)).length = (dirAt s p.val (handleSlot h.handle)).length ∧
        (∀ m, m ≠ handleSlot h.handle → dirAt t p.val m = dirAt s p.val m) ∧
        memKeptButEntry s t p.val (handleSlot h.handle))

/-- R166, R169, R173, R175: RELEASE from the holder leaves an unwaited-for Last idle from now on, answered
with LENGTH, and from anyone else is answered 0x0B with the holder; TRANSFER from the expected holder names
the sender, from one already named is answered 0x00, and otherwise 0x0B with the holder and the entry
unchanged; GROW within the class capacity is answered at once with the capacity and BASE, and beyond it
starts a growth of the Last, STATE 3; one that comes while the Last grows waits. -/
def Obligations.ReleaseTransferAndGrow : Prop :=
  ∀ (p : Part) (h : SvcHdr) (s : State) (n : Nat) (e : DirEntry) (op : Byte), serviceTaken s p.val op h →
    isCache s p.val = true → n = handleSlot h.handle → e = dirAt s p.val n →
    liveHandle s p.val h.handle = true →
    (op = 3 → fromHolder e h = true → (s.part p.val).last.heldCommits.at n [] = [] →
      openGrows s p.val n = [] → (s.part p.val).last.partnerWaiting.at n [] = [] →
      (s.part p.val).last.jobs.find n = none → (s.part p.val).last.waiting.at n [] = [] →
      ∃ t, exec (.release p h) s = .next t ∧ repliesThat s t h 0 (fun r => r.posA = e.length) ∧
        dirAt t p.val n = { e with
          state := 2, holderTag := 0, holderDevice := 0, holderPartition := 0, idleSince := s.now } ∧
        (∀ m, m ≠ n → dirAt t p.val m = dirAt s p.val m) ∧ memKeptButEntry s t p.val n) ∧
    (op = 3 → fromHolder e h = false → ∃ t, exec (.release p h) s = .next t ∧
        repliesThat s t h 0x0B (fun r => r.value = holderOf e) ∧
        (∀ m, dirAt t p.val m = dirAt s p.val m) ∧ t.mem = s.mem) ∧
    (op = 4 → e.state = 1 → e.holderTag = h.tag → holderOf e = h.value →
      ∃ t, exec (.transfer p h) s = .next t ∧
        repliesThat s t h 0 (fun r => r.value = holderValue h.fromDevice h.fromPartition) ∧
        dirAt t p.val n = { e with holderDevice := h.fromDevice, holderPartition := h.fromPartition } ∧
        (∀ m, m ≠ n → dirAt t p.val m = dirAt s p.val m) ∧ memKeptButEntry s t p.val n) ∧
    (op = 4 → holderOf e ≠ h.value → holderOf e = holderValue h.fromDevice h.fromPartition → e.holderTag ≠ 0 →
      ∃ t, exec (.transfer p h) s = .next t ∧ repliesThat s t h 0 (fun r => r.value = holderOf e) ∧
        (∀ m, dirAt t p.val m = dirAt s p.val m) ∧ t.mem = s.mem) ∧
    (op = 4 → holderOf e ≠ h.value → holderOf e ≠ holderValue h.fromDevice h.fromPartition →
      ∃ t, exec (.transfer p h) s = .next t ∧ repliesThat s t h 0x0B (fun r => r.value = holderOf e) ∧
        (∀ m, dirAt t p.val m = dirAt s p.val m) ∧ t.mem = s.mem) ∧
    (op = 8 → fromHolder e h = true → h.posA ≤ lMax s → h.posA ≤ capOf s e.cls →
      ∃ t, exec (.grow p h) s = .next t ∧
        repliesThat s t h 0 (fun r => r.posB = capOf s e.cls ∧ r.value = lineAddress p.val e.base) ∧
        (∀ m, dirAt t p.val m = dirAt s p.val m) ∧ t.mem = s.mem) ∧
    (op = 8 → fromHolder e h = true → h.posA ≤ lMax s → capOf s e.cls < h.posA → e.state ≠ 1 →
      ∃ t, exec (.grow p h) s = .next t ∧ t.out = s.out ∧
        (t.part p.val).last.heldGrows.at n [] = (s.part p.val).last.heldGrows.at n [] ++ [h] ∧
        (∀ m, dirAt t p.val m = dirAt s p.val m) ∧ t.mem = s.mem) ∧
    (∀ c base, op = 8 → fromHolder e h = true → h.posA ≤ lMax s → capOf s e.cls < h.posA → e.tier = 1 →
      e.state = 1 → slotBusy s p.val n = false → classFor s h.posA = some c →
      findRun s p.val 1 (footprint s c e.layers e.kvHeads e.head) = some base →
      ∃ t, exec (.grow p h) s = .next t ∧ t.out = s.out ∧ dirAt t p.val n = { e with state := 3 } ∧
        (t.part p.val).last.jobs.find n = some
          { kind := 0, newBase := base, newCls := c, newTier := 1,
            size := footprint s c e.layers e.kvHeads e.head, waiting := some h } ∧
        (∀ m, m ≠ n → dirAt t p.val m = dirAt s p.val m) ∧ memKeptButEntry s t p.val n)

/-- R129, R131, R156, R310, R313: when a copy of a Last has ended well the entry names the new footprint,
and the growth, promotion or move is over; the old footprint of a growth is freed once no read that began
before is left; a growth that failed leaves the entry where it was and its GROW is answered with the code.
R176, R177, R186: at the check that is due, an idle Last past the sum of every threshold is freed and its
REUSE raised modulo 65,535. While the partner rebuilds, the next idle Last goes to it by an OPEN with
PARTNER set that names its slot, REUSE and shape, at most eight in flight (the messages are the model's
choice, notes/assumptions/28.md). -/
def Obligations.LastCopiesEndAndIdleLastsAge : Prop :=
  ((∀ (p : Part) (n : Nat) (s : State), ∃ t, exec (.lastOldFootprintFree p n) s = .next t ∧
     (∀ o, o ∈ (t.part p.val).last.olds ↔ o ∈ (s.part p.val).last.olds ∧ (o.slot ≠ n ∨ o.readers ≠ 0)) ∧
     (∀ m, dirAt t p.val m = dirAt s p.val m) ∧ t.mem = s.mem ∧ t.out = s.out) ∧
   ∀ (p : Part) (n : Nat) (s : State) (j : LastJob), (s.part p.val).last.jobs.find n = some j →
     (s.part p.val).last.partnerWaiting.at n [] = [] → (s.part p.val).last.heldGrows.at n [] = [] →
     s.fab.home = [] → (∀ h, j.waiting = some h → unreachable s h.fromDevice = false) →
     ((jobCopy s p.val n j 0).1 = 0 → lastWaits s p.val n j = false →
       (∀ h, j.kind = 0 → j.waiting = some h →
         ∃ t, exec (.lastGrowthCopyDone ⟨p, none⟩ n 0) s = .next t ∧ repliesWith s t h 0 ∧
           dirAt t p.val n = { dirAt s p.val n with
             state := 1, base := j.newBase, cls := j.newCls, tier := j.newTier } ∧
           (∀ m, m ≠ n → dirAt t p.val m = dirAt s p.val m)) ∧
       (∀ h, j.kind = 2 → j.waiting = some h → j.peer = 0 → h.partner = false → partnerOf s p.val = none →
         (dirAt s p.val n).length + h.posA ≤ capOf s (dirAt s p.val n).cls →
         ∃ t, exec (.lastPromotionDone ⟨p, none⟩ n 0) s = .next t ∧ repliesWith s t h 0 ∧
           (dirAt t p.val n).state = 1 ∧ (dirAt t p.val n).base = j.newBase ∧
           (dirAt t p.val n).tier = j.newTier ∧ (dirAt t p.val n).holderTag = h.tag ∧
           (∀ m, m ≠ n → dirAt t p.val m = dirAt s p.val m)) ∧
       (j.kind = 3 → (∀ w ∈ (s.part p.val).last.room, w.moving ≠ n) → ∃ t, exec (.lastTierMoveDone ⟨p, none⟩ n 0) s = .next t ∧ t.out = s.out ∧
           dirAt t p.val n = { dirAt s p.val n with state := 2, base := j.newBase, tier := j.newTier } ∧
           (∀ m, m ≠ n → dirAt t p.val m = dirAt s p.val m))) ∧
     (∀ (h : SvcHdr) (c : Byte) (found : Found), j.kind = 0 → j.waiting = some h → c ≠ 0 → codeDefined c = true →
       ∃ t, exec (.lastGrowthCopyDone ⟨p, found⟩ n c) s = .next t ∧ repliesWith s t h c ∧
         dirAt t p.val n = { dirAt s p.val n with state := 1 } ∧
         (∀ m, m ≠ n → dirAt t p.val m = dirAt s p.val m) ∧ memKeptButEntry s t p.val n)) ∧
  ((∀ (p : Part) (n : Nat) (e : DirEntry) (s : State), s.code p.val = 5 → isCache s p.val = true →
     (s.part p.val).last.lastCheck + 1000000 ≤ s.now →
     (s.part p.val).last.dir.find n = some e → e.state = 2 → slotBusy s p.val n = false →
     (ttlOf s p.val).1 + (ttlOf s p.val).2.1 + (ttlOf s p.val).2.2 ≤ s.now - e.idleSince →
     ∃ t, exec (.lastTtlCheck p) s = .next t ∧ (t.part p.val).last.lastCheck = s.now ∧
       dirAt t p.val n = { reuse := (e.reuse + 1) % 65535 }) ∧
   (∀ (p : Part) (q : Nat × Nat) (n : Nat) (e : DirEntry) (s : State), s.code p.val = 5 →
     partnerOf s p.val = some q → (s.part p.val).last.partnerLost = false → (s.part p.val).last.newcomer = false →
     (s.part p.val).last.rebuildEpoch = stampEpoch s p.val → (s.part p.val).last.rebuilding.length < 8 →
     nextRebuild s p.val = some n → e = dirAt s p.val n → unreachable s q.1 = false →
     ∃ t, exec (.lastRebuild p) s = .next t ∧ (t.part p.val).last.rebuildNext = n + 1 ∧
       (t.part p.val).last.rebuilding = (s.part p.val).last.rebuilding ++ [n] ∧ t.mem = s.mem ∧
       ∃ h : SvcHdr, t.out = s.out ++ [.service q.1 q.2 h []] ∧ h.op = 1 ∧ h.partner = true ∧
         h.handle = mkHandle q.1 q.2 e.reuse n ∧ h.value = heldShape e))

/-- R245 to R247, R249: a QUERY that passes its checks raises READERS of its Last and is in service until
its chunks are read; it is then answered, READERS falls and ATTN_SERVED counts it. One that fails a check is
answered with that check's code. The model's own readings that this rests on: notes/assumptions/26.md. -/
def Obligations.QueriesAreServed : Prop :=
  ∀ (p : Part) (s : State), isCache s p.val = true →
    (∀ (h : SvcHdr) (payload : List Byte), serviceTaken s p.val 5 h →
      (∀ c : Byte, queryCheck s p.val h (queryShape h payload) payload.length = c → c ≠ 0 →
        ∃ t, exec (.query p h payload) s = .next t ∧ repliesWith s t h c ∧ t.mem = s.mem ∧
          (t.part p.val).last.served = (s.part p.val).last.served + 1) ∧
      (queryCheck s p.val h (queryShape h payload) payload.length = 0 → (queryShape h payload).queries ≠ 0 →
        (s.part p.val).last.stripeMin = 0 →
        ∃ t, exec (.query p h payload) s = .next t ∧ t.out = s.out ∧
          dirAt t p.val (handleSlot h.handle) = { dirAt s p.val (handleSlot h.handle) with
            readers := (dirAt s p.val (handleSlot h.handle)).readers + 1 } ∧
          (∃ j, (t.part p.val).last.queries = (s.part p.val).last.queries ++ [j] ∧ j.h = h ∧
            j.payload = payload ∧ j.slot = handleSlot h.handle ∧ j.stripe = none) ∧
          memKeptButEntry s t p.val (handleSlot h.handle))) ∧
    (∀ job : QueryJob, (s.part p.val).last.queries = [job] → job.stripe = none → job.stripeReply = none →
      s.fab.home = [] → repairing s p.val job.slot = false → unreachable s job.h.fromDevice = false →
      readCode s p.val
        (job.base + job.h.posA * capOf s job.cls *
            ({ compact := compactLasts s, heads := (queryShape job.h job.payload).kvHeads,
               head := (queryShape job.h job.payload).head } : KvShape).unit
          + (queryShape job.h job.payload).start *
            ({ compact := compactLasts s, heads := (queryShape job.h job.payload).kvHeads,
               head := (queryShape job.h job.payload).head } : KvShape).unit)
        ((job.h.posB - (queryShape job.h job.payload).start) *
            ({ compact := compactLasts s, heads := (queryShape job.h job.payload).kvHeads,
               head := (queryShape job.h job.payload).head } : KvShape).unit) = 0 →
      ∃ t, exec (.queryChunksDone ⟨p, none⟩ job.h.fromDevice job.h.fromPartition job.h.msgId) s = .next t ∧
        repliesWith s t job.h 0 ∧ (t.part p.val).last.queries = [] ∧
        (dirAt t p.val job.slot).readers = (dirAt s p.val job.slot).readers - 1 ∧
        (t.part p.val).last.served = (s.part p.val).last.served + 1 ∧ memKeptButEntry s t p.val job.slot)

/-- R147, R154, R160, R161, R170: the reply to a request that still waits is taken once: a GRANT puts the
request in PHASE 0x01 with the copy's capacity, BASE and LENGTH; a COMMIT answered 0x00 by the one copy
makes its positions durable, which raises LENGTH. R178 to R181, R69: a cancel of a request in hand is noted
on it and waits for the step boundary while a step runs; one of a request whose final item only waits for
the lane, and one of a request that is neither held nor forwarded, complete at once. An item of the output
backlog is written to the output lane once that holds fewer than 16; a final item frees the record of its
request. The model's own readings that this rests on: notes/assumptions/27.md. -/
def Obligations.GrantsCancelsAndBacklog : Prop :=
  (∀ (p : Part) (h : SvcHdr) (x : SvcSent) (l : Live) (s : State), s.fab.device ≠ 0xFFFF → s.code p.val = 5 →
     h.reply = true → h.status = 0 → (s.part p.val).last.sent.find h.msgId = some x → x.h.op = h.op →
     liveOf s p.val x.h.tag = some l → (s.part p.val).hold.moves = [] →
     (∀ (payload : List Byte) (source : Option (List Byte)), h.op = 1 → x.h.partner = false →
       x.h.handle = l.req.last → l.req.phase = 0 → l.granted = false → l.releasing = false →
       (source = none ∨ l.walkMatch = 0) →
       ∃ t l', exec (.grantReceived p h payload source) s = .next t ∧ liveOf t p.val x.h.tag = some l' ∧
         l'.granted = true ∧ l'.capacity = h.posB ∧ l'.base = h.value ∧ l'.req.phase = 1 ∧
         l'.req.seq = h.posA ∧ l'.req.length = h.posA ∧ l'.req.last = h.handle ∧ l'.req.mirror = h.handle2 ∧
         l'.req.epoch = h.epoch ∧ (t.part p.val).last.sent = (s.part p.val).last.sent.del h.msgId ∧
         t.mem = s.mem ∧ t.lanes = s.lanes) ∧
     (∀ payload : List Byte, h.op = 2 → l.req.phase = 4 → l.req.mirror = allOnes64 →
       l.req.onMirror = false → x.h.handle = l.req.last → l.req.last ≠ allOnes64 →
       l.commitsPrimary = [(x.h.posA, x.h.posB)] → l.commitsMirror = [] → l.due = [] →
       l.req.seq < max l.req.length x.h.posB + 64 →
       ∃ t l', exec (.serviceReply p h payload) s = .next t ∧ liveOf t p.val x.h.tag = some l' ∧
         l'.req.length = max l.req.length x.h.posB ∧ l'.commitsPrimary = [] ∧
         t.mem = s.mem ∧ t.lanes = s.lanes)) ∧
  ((∀ (p : Part) (h : SvcHdr) (s : State), serviceTaken s p.val 7 h → (s.part p.val).hold.moves = [] →
     (∀ l, liveOf s p.val h.tag = some l → l.req.phase < 5 → (s.part p.val).hold.step ≠ none →
       ∃ t l', exec (.cancel p h) s = .next t ∧ t.out = s.out ∧ liveOf t p.val h.tag = some l' ∧
         l'.req.cancel = true ∧ l'.cancelMsgs = l.cancelMsgs ++ [h] ∧ l'.req.phase = l.req.phase ∧
         t.mem = s.mem) ∧
     (∀ l, recOf s p.val h.tag = some l → l.ended = true →
       ∃ t, exec (.cancel p h) s = .next t ∧ repliesWith s t h l.cancelCode ∧
         (t.part p.val).hold.lives = (s.part p.val).hold.lives ∧ t.mem = s.mem) ∧
     (recOf s p.val h.tag = none → ((s.part p.val).last.forwards.find? fun f => decide (f.tag = h.tag)) = none →
       ∃ t, exec (.cancel p h) s = .next t ∧ repliesWith s t h 1 ∧
         (t.part p.val).hold.lives = (s.part p.val).hold.lives ∧ t.mem = s.mem)) ∧
   (∀ (src : Src) (p : Part) (k : Fin 8) (v : Word) (c : CancelSlot) (s : State), hostReaches s src p →
     (s.part p.val).last.cancels.at k.val {} = c → c.armed = false → v.toNat.testBit 31 = true →
     (s.part p.val).hold.moves = [] →
     (∀ l, liveOf s p.val c.tag = some l → l.req.phase < 5 → (s.part p.val).hold.step ≠ none →
       ∃ t l', exec (.cancelSubmit src p k v) s = .next t ∧ liveOf t p.val c.tag = some l' ∧
         l'.req.cancel = true ∧ l'.cancelSlots = l.cancelSlots ++ [k.val] ∧
         ((t.part p.val).last.cancels.at k.val {}) = { c with armed := true, vector := v.toNat / 2 ^ 24 % 32 } ∧
         t.mem = s.mem) ∧
     (recOf s p.val c.tag = none →
       ((s.part p.val).last.forwards.find? fun f => decide (f.tag = c.tag)) = none →
       ∃ t, exec (.cancelSubmit src p k v) s = .next t ∧
         ((t.part p.val).last.cancels.at k.val {}) =
           { c with armed := false, status := 1, vector := v.toNat / 2 ^ 24 % 32 } ∧ t.mem = s.mem)) ∧
   (∀ (p : Part) (n : Nat) (x : OutItem) (r : List OutItem) (l : Lane) (s : State),
     (s.part p.val).hold.backlog = x :: r → outputLane s p.val = some n → s.lanes.find n = some l →
     l.portReads = [] → l.portWrites = [] → l.items.length < 16 → (s.part p.val).hold.moves = [] →
     (∀ y, liveOf s p.val (itemTag x.item) = some y → x.mine = true → y.req.phase ≠ 2) →
     ∃ t, exec (.outputBacklogDrain p) s = .next t ∧ (t.lane n).items = l.items ++ [x.item] ∧
       (t.part p.val).hold.backlog = r ∧ (∀ m, m ≠ n → t.lane m = s.lane m) ∧
       (x.mine = true → (itemFld x.item 2 1).testBit 0 = true → recOf t p.val (itemTag x.item) = none) ∧
       t.mem = s.mem))

/-- R149, R162 to R169, R181: the TRANSFER reply of the last copy lets the request join the batch at a step
boundary and answers its HANDOFF; the HANDOFF reply 0x00 frees the record and leaves a forwarding entry; a
request with no reply in HO_TIMEOUT counts as completed with 0x03; a request in PHASE 0x03 past NEXT_DUE is
released; a forwarding entry goes after 2,000,000 us; a HANDOFF waits for the step in flight, one of a model
the partition does not run is answered 0x0B, and one it can take has its tail reserved and asks for the
transfer of the Last. -/
def Obligations.HandOffsMoveRequests : Prop :=
  (∀ (p : Part) (h : SvcHdr) (x : SvcSent) (s : State), s.fab.device ≠ 0xFFFF → s.code p.val = 5 →
    h.reply = true → h.status = 0 → (s.part p.val).last.sent.find h.msgId = some x → x.h.op = h.op →
    (s.part p.val).hold.moves = [] →
    (∀ k : Taking, h.op = 4 → takingOf s p.val x.h.tag = some k → k.ready = false → k.req.mirror = allOnes64 →
      ((s.part p.val).hold.step = none → recOf s p.val x.h.tag = none → unreachable s k.h.fromDevice = false →
        ∃ t l', exec (.transferReply p h) s = .next t ∧
          repliesThat s t k.h 0 (fun r => r.value = holderValue s.fab.device.toNat p.val) ∧
          liveOf t p.val x.h.tag = some l' ∧ l'.inBatch = true ∧ l'.req.phase = 4 ∧
          l'.req.holderPartition = p.val ∧ l'.req.tail = k.req.tail ∧ takingOf t p.val x.h.tag = none ∧
          t.mem = s.mem) ∧
      ((s.part p.val).hold.step ≠ none →
        ∃ t, exec (.transferReply p h) s = .next t ∧ t.out = s.out ∧
          takingOf t p.val x.h.tag = some { k with ready := true } ∧
          (t.part p.val).hold.lives = (s.part p.val).hold.lives ∧ t.mem = s.mem)) ∧
    (∀ l : Live, h.op = 6 → liveOf s p.val x.h.tag = some l → l.req.phase = 3 → l.releasing = false →
      ∃ t, exec (.handoffReply p h) s = .next t ∧ liveOf t p.val x.h.tag = none ∧
        (∃ f ∈ (t.part p.val).last.forwards, f.tag = x.h.tag ∧ f.device = h.value.toNat % 65536 ∧
          f.partition = h.value.toNat / 65536 % 256 ∧ f.at_ = s.now) ∧
        (t.part p.val).last.lastTarget = l.handoffTo ∧ t.mem = s.mem)) ∧
  (∀ (p : Part) (id : Nat) (x : SvcSent) (s : State), (s.part p.val).last.sent.find id = some x →
    x.h.op = 7 → x.sentAt + (s.part p.val).last.hoTimeout ≤ s.now → (s.part p.val).hold.moves = [] →
    ∃ t, exec (.serviceTimeout p id) s = .next t ∧
      (t.part p.val).last.sent = (s.part p.val).last.sent.del id ∧
      (∀ k ∈ x.slots, ((t.part p.val).last.cancels.at k {}).status = 3 ∧
        ((t.part p.val).last.cancels.at k {}).armed = false) ∧ t.mem = s.mem) ∧
  (∀ (p : Part) (tag : BitVec 48) (l : Live) (s : State), liveOf s p.val tag = some l → l.req.phase = 3 →
    l.releasing = false → l.granted = true → l.copies ≠ [] → l.req.nextDue < s.now →
    (s.part p.val).hold.moves = [] →
    ∃ t l', exec (.handoffNextDue p tag) s = .next t ∧ liveOf t p.val tag = some l' ∧ l'.releasing = true ∧
      l'.req.phase = 5 ∧ l'.finalCode = (if l.req.cancel then 0 else 0x0B) ∧ l'.finalNoToken = true ∧
      t.mem = s.mem ∧ t.lanes = s.lanes) ∧
  (∀ (p : Part) (tag : BitVec 48) (s : State), ∃ t, exec (.forwardingExpire p tag) s = .next t ∧
    (∀ f, f ∈ (t.part p.val).last.forwards ↔
      f ∈ (s.part p.val).last.forwards ∧ (f.tag ≠ tag ∨ s.now < f.at_ + 2000000)) ∧
    t.out = s.out ∧ t.mem = s.mem) ∧
  (∀ (p : Part) (h : SvcHdr) (record : List Byte) (s : State), serviceTaken s p.val 6 h → s.role p.val = 1 →
    (s.part p.val).hold.moves = [] →
    ((s.part p.val).hold.step ≠ none →
      ∃ t r, exec (.handoff p h record) s = .next t ∧ t.out = s.out ∧
        (t.part p.val).hold.handoffs = (s.part p.val).hold.handoffs ++ [(h, r)] ∧
        r = { recordOf record with nextDue := fromRemaining s (recordOf record).nextDue } ∧ t.mem = s.mem) ∧
    ((s.part p.val).hold.step = none → takingOf s p.val (recordOf record).tag = none →
      (modelSet s p.val (recordOf record).model = false →
        ∃ t, exec (.handoff p h record) s = .next t ∧
          repliesThat s t h 0x0B (fun r => r.posA = freeTails s p.val (recordOf record).model) ∧
          (t.part p.val).hold.lives = (s.part p.val).hold.lives ∧ t.mem = s.mem) ∧
      (∀ a : Nat, modelSet s p.val (recordOf record).model = true →
        freeTail s p.val (recordOf record).model = some a → fitsNoSlot s p.val (recordOf record).model = false →
        ∃ t k, exec (.handoff p h record) s = .next t ∧
          takingOf t p.val (recordOf record).tag = some k ∧ k.h = h ∧ k.req.tail = BitVec.ofNat 64 a ∧
          k.req.nextDue = fromRemaining s (recordOf record).nextDue ∧
          (t.part p.val).hold.lives = (s.part p.val).hold.lives ∧
          (∃ id y, (t.part p.val).last.sent.find id = some y ∧ y.h.op = 4 ∧
            y.h.value = holderValue h.fromDevice h.fromPartition) ∧ t.mem = s.mem)))

/-- R262, R272 to R274: an admission item of a model that is not set is answered with one token item; one
that is taken in becomes a request in PHASE 0x00 and leaves the lane; the refill that is due adds REFILL up
to DEPTH and takes staged parameters. R266: a walk that ends holds its stamp. R268: the source of a prefix
copy is noted once its entry is accepted; while MOVEs are open nothing is decided; a prefix copy whose
source cannot be read or has changed is given up, the prefill starting at 0, and one that stands shortens
the prefill. -/
def Obligations.AdmissionAndWalks : Prop :=
  (∀ (p : Part) (n : LaneNo) (l : Lane) (it : Item) (r : List Item) (s : State), readsLanes s p.val = true →
    s.lanes.find n.val = some l → l.owner = p.val → l.kind = 1 → l.items = it :: r → itemFld it 0 1 = 1 →
    itemFld it 0x18 3 ≠ 0 →
    (∀ (o : Nat) (ol : Lane),
      modelSet s p.val (itemFld it 1 1) = false →
      outputLane s p.val = some o → o ≠ n.val → s.lanes.find o = some ol → ol.items = [] →
      ol.portReads = [] → ol.portWrites = [] → (s.part p.val).hold.backlog = [] →
      ∃ t, exec (.admissionItemTaken p n) s = .next t ∧ (t.lane n.val).items = r ∧
        (t.lane o).items = [tokenItem 0x0B true true (BitVec.ofNat 48 (itemFld it 4 6)) 0 0] ∧
        (t.part p.val).hold.lives = (s.part p.val).hold.lives ∧ t.mem = s.mem) ∧
    (modelSet s p.val (itemFld it 1 1) = true →
      (s.part p.val).trust.verified.contains (itemFld it 1 1) = true →
      recOf s p.val (BitVec.ofNat 48 (itemFld it 4 6)) = none →
      customerRefused s p.val (itemFld it 2 2 % 4096) = false → fitsNoSlot s p.val (itemFld it 1 1) = false →
      (s.part p.val).hold.worstCase = false → (s.toll (itemFld it 2 2 % 4096)).owner ≠ p.val →
      ∃ t x, exec (.admissionItemTaken p n) s = .next t ∧ (t.lane n.val).items = r ∧
        liveOf t p.val (BitVec.ofNat 48 (itemFld it 4 6)) = some x ∧ x.req.phase = 0 ∧ x.charged = true ∧
        x.req.model = itemFld it 1 1 ∧ x.req.promptTokens = itemFld it 0x18 3 ∧
        x.req.last = BitVec.ofNat 64 (itemFld it 0xA 8) ∧
        x.req.firstDue = (if itemFld it 0x1B 3 = 0 then 0xFFFF_FFFF_FFFF_FFFF else s.now + itemFld it 0x1B 3) ∧
        t.mem = s.mem) ∧
    (∀ level : Int, modelSet s p.val (itemFld it 1 1) = true →
      (s.part p.val).trust.verified.contains (itemFld it 1 1) = true →
      recOf s p.val (BitVec.ofNat 48 (itemFld it 4 6)) = none →
      customerRefused s p.val (itemFld it 2 2 % 4096) = false → fitsNoSlot s p.val (itemFld it 1 1) = false →
      (s.toll (itemFld it 2 2 % 4096)).owner = p.val →
      (s.part p.val).hold.worstCase = false →
      tollCharge (s.toll (itemFld it 2 2 % 4096)) (itemFld it 0x18 3 + (s.part p.val).hold.reserve) = .go level →
      ∃ t, exec (.admissionItemTaken p n) s = .next t ∧ (t.lane n.val).items = r ∧
        t.toll (itemFld it 2 2 % 4096) = { s.toll (itemFld it 2 2 % 4096) with level := level } ∧
        (∀ m, m ≠ itemFld it 2 2 % 4096 → t.toll m = s.toll m) ∧ t.mem = s.mem)) ∧
  (∀ (c : Fin 4096) (x : Toll) (s : State), s.tolls.find c.val = some x → x.lastRefill + x.interval ≤ s.now →
    s.code x.owner = 5 → x.hold = [] →
    ∃ t, exec (.tollgateRefill c) s = .next t ∧
      (t.toll c.val).level = min ((if x.pending then x.sDepth else x.depth : Nat) : Int)
        (x.level + (if x.pending then x.sRefill else x.refill : Nat)) ∧
      (t.toll c.val).lastRefill = x.lastRefill + x.interval ∧ (t.toll c.val).pending = false ∧
      (∀ m, m ≠ c.val → t.toll m = s.toll m) ∧ t.mem = s.mem ∧ t.lanes = s.lanes) ∧
  (∀ (p : Part) (tag : BitVec 48) (stamp : Word) (buckets : List (Option (List Byte))) (l : Live) (i : Nat)
    (s : State), liveOf s p.val tag = some l → l.walking = true → l.walkTable = some i →
    ∃ t x, exec (.signpostWalkDone p tag stamp buckets) s = .next t ∧ liveOf t p.val tag = some x ∧
      x.walking = false ∧ x.walkStamp = stamp ∧ x.req.phase = l.req.phase ∧ t.mem = s.mem) ∧
  (∀ (p : Part) (tag : BitVec 48) (l : Live) (c : PrefixCopy) (copied : Bool) (s : State),
    liveOf s p.val tag = some l → l.copy = some c → (s.part p.val).hold.moves = [] →
    ((c.noted = false ∨ c.moves = 0) →
      ∃ t x, exec (.prefixCopyCheck p tag copied none) s = .next t ∧ liveOf t p.val tag = some x ∧
        x.copy = none ∧ x.req.prefixTokens = 0 ∧ x.walkMatch = 0 ∧ x.filled = 0 ∧ t.mem = s.mem) ∧
    (∀ bs, c.noted = false → sourceOk bs (handleReuse c.source) = true →
      copyMoves s p.val l { c with base := fld bs 8 8, cls := fld bs 1 1 } ≠ [] → moveAwl s p.val = none →
      ∃ t x y, exec (.prefixCopyCheck p tag copied (some bs)) s = .next t ∧ liveOf t p.val tag = some x ∧
        x.copy = some y ∧ y.noted = true ∧ y.accepted = true ∧ y.base = fld bs 8 8 ∧ y.cls = fld bs 1 1 ∧
        y.tier = fld bs 2 1 ∧ y.moves = (t.part p.val).hold.moves.length ∧ t.mem = s.mem) ∧
    (∀ entry, c.noted = true → c.moves ≠ 0 → exec (.prefixCopyCheck p tag copied entry) s = .next s) ∧
    (∀ bs, c.noted = true → c.moves = 0 → c.failed = false → sourceOk bs (handleReuse c.source) = true →
      fld bs 8 8 = c.base → fld bs 1 1 = c.cls →
      ∃ t x, exec (.prefixCopyCheck p tag true (some bs)) s = .next t ∧ liveOf t p.val tag = some x ∧
        x.copy = none ∧ x.req.prefixTokens = l.req.prefixTokens ∧ x.walkMatch = l.walkMatch ∧
        x.filled = 64 * l.walkMatch ∧ t.mem = s.mem))

/-- R281, R171, R257, R287, R496: at a boundary with one request that can run, a step begins for it, a
prefill asking one QUERY per layer and beginning a COMMIT of the whole prompt for every copy (R158, R159);
the commit of a step takes the main model's token (SEQ, OUTPUT_COUNT, the token item) or, for a prefill, its
token 0, at a combined partition once every chunk of the prompt is prefilled. While writes of the prefill
are open there is nothing to commit, and token 0 leaves once every copy has answered COMMIT: the request
joins the batch then (R161, R170). A failed step with code 0x02, 0x0B or 0x0D ends. The model's own readings
that this rests on: notes/assumptions/26.md. -/
def Obligations.StepsBeginAndCommit : Prop :=
  (∀ (p : Part) (l : Live) (s : State), s.code p.val = 5 → (s.regs.state = 5 ∨ s.regs.state = 7) →
    (s.part p.val).hold.step = none → (s.part p.val).stopping = false → (s.part p.val).hold.handoffs = [] →
    (s.part p.val).hold.lives = [l] → l.ended = false → (s.part p.val).hold.taking = [] →
    (s.part p.val).hold.moves = [] → l.req.cancel = false → s.role p.val ≠ 3 →
    swappable s p.val l.req.model = false →
    ((prefillReady l = true ∨ canFeed s p.val l = true) →
      ∃ t, exec (.stepBoundary p) s = .next t ∧
        (t.part p.val).hold.step = some { start := s.now, streams := [l.req.tag] } ∧
        t.lanes = s.lanes ∧ (l.req.phase ≠ 1 ∨ moveAwl s p.val = none → t.mem = s.mem)) ∧
    (∀ m : ModelPiece, prefillReady l = true → s.model p.val l.req.model = some m →
      ∃ t, exec (.stepBoundary p) s = .next t ∧
        (∀ k, k < m.layers →
          ∃ id y, (t.part p.val).last.sent.find id = some y ∧ y.h.op = 5 ∧ y.h.tag = l.req.tag ∧ y.h.posA = k) ∧
        (l.req.phase = 1 → l.due = [] → ∀ c ∈ l.copies,
          (∃ l', liveOf t p.val l.req.tag = some l' ∧ ∃ d ∈ l'.due, d.copy = c ∧ d.lo = l.req.length ∧
            d.hi = l.req.length + l.req.promptTokens) ∨
          (∃ id y, (t.part p.val).last.sent.find id = some y ∧ y.h.op = 2 ∧ y.h.handle = c ∧
            y.h.posA = l.req.length ∧ y.h.posB = l.req.length + l.req.promptTokens)))) ∧
  (∀ (p : Part) (st : StepRun) (l : Live) (x : BitVec 32) (s : State), s.code p.val = 5 →
    (s.part p.val).hold.step = some st → st.failed = false → st.replay = false → st.streams = [l.req.tag] →
    liveOf s p.val l.req.tag = some l → l.left = false → l.releasing = false → (s.part p.val).hold.moves = [] →
    (l.req.phase = 1 → (l.due ≠ [] ∨ makerOpen s p.val (.prefill l.req.tag) = true) → ∀ r : List StreamOut,
      exec (.stepCommit p r) s = .next s) ∧
    (l.due = [] → makerOpen s p.val (.prefill l.req.tag) = false →
    (∀ (o : Nat) (ol : Lane), l.req.phase = 4 → l.marked = false → l.finalToken = none → l.unfed = [] →
      l.req.seq + 1 < lMax s → l.req.seq + 1 < l.flushedTo + 64 → outputLane s p.val = some o → s.lanes.find o = some ol → ol.items.length < 16 →
      ol.portReads = [] → ol.portWrites = [] → (s.part p.val).hold.backlog = [] →
      ∃ t l', exec (.stepCommit p [{ tag := l.req.tag, drafts := [], tokens := [x], ends := [false],
                                     fallback := none, fallbackEnds := false }]) s = .next t ∧
        (t.part p.val).hold.step = none ∧ liveOf t p.val l.req.tag = some l' ∧
        l'.req.seq = l.req.seq + 1 ∧ l'.req.lastToken = x ∧ l'.req.outputCount = l.req.outputCount + 1 ∧
        (t.lane o).items =
          ol.items ++ [tokenItem 0 false false l.req.tag l.req.outputCount x.toNat] ∧ t.mem = s.mem) ∧
    (l.prefilling = true → s.role p.val = 3 → l.filled + l.stepTake < l.req.promptTokens →
      ∃ t l', exec (.stepCommit p [{ tag := l.req.tag, drafts := [], tokens := [x], ends := [false],
                                     fallback := none, fallbackEnds := false }]) s = .next t ∧
        (t.part p.val).hold.step = none ∧ liveOf t p.val l.req.tag = some l' ∧
        l' = { l with filled := l.filled + l.stepTake } ∧ t.lanes = s.lanes ∧ t.mem = s.mem ∧ t.out = s.out) ∧
    (l.prefilling = true → (s.role p.val = 3 → l.req.promptTokens ≤ l.filled + l.stepTake) →
      (l.commits ≠ [] →
        ∃ t l', exec (.stepCommit p [{ tag := l.req.tag, drafts := [], tokens := [x], ends := [false],
                                       fallback := none, fallbackEnds := false }]) s = .next t ∧
          (t.part p.val).hold.step = none ∧ liveOf t p.val l.req.tag = some l' ∧ l'.req.phase = l.req.phase ∧
          l'.req.lastToken = x ∧ l'.commits = l.commits ∧ t.out = s.out ∧ t.lanes = s.lanes ∧ t.mem = s.mem) ∧
      (∀ (o : Nat) (ol : Lane), l.req.phase = 2 → l.commits = [] → l.req.outputCount = 0 → l.req.seq < lMax s →
        l.req.newLast = false → l.req.cancel = false → s.role p.val ≠ 0 → outputLane s p.val = some o →
        s.lanes.find o = some ol → ol.items.length < 16 → ol.portReads = [] → ol.portWrites = [] →
        (s.part p.val).hold.backlog = [] →
        ∃ t l', exec (.stepCommit p [{ tag := l.req.tag, drafts := [], tokens := [x], ends := [false],
                                       fallback := none, fallbackEnds := false }]) s = .next t ∧
          (t.part p.val).hold.step = none ∧ liveOf t p.val l.req.tag = some l' ∧ l'.req.phase = 4 ∧
          l'.inBatch = true ∧ l'.req.length = l.req.seq ∧ l'.req.lastToken = x ∧ l'.req.outputCount = 1 ∧
          (t.lane o).items = ol.items ++ [tokenItem 0 false false l.req.tag 0 x.toNat] ∧ t.mem = s.mem)))) ∧
  (∀ (p : Part) (st : StepRun) (s : State), s.code p.val = 5 → (s.part p.val).hold.step = some st →
    st.failed = true → st.replay = false → (s.part p.val).hold.moves = [] → (st.code = 2 ∨ st.code = 0x0B ∨ st.code = 0x0D) →
    ∃ t, exec (.stepCommit p []) s = .next t ∧ (t.part p.val).hold.step = none ∧
      (t.part p.val).fault.lastCode = st.code ∧ t.mem = s.mem)

/-- R282, R285, R288 to R290: a stream whose QUERYs of a layer have not all been answered in time leaves the
step; a request past FIRST_DUE that its partition ends early is released with 0x0A; a swapped runnable
context takes a slot that fits it and that no admitted request uses, or by force the slot of a context
blocked too long; it is resident once its weights are there. -/
def Obligations.DeadlinesAndContexts : Prop :=
  (∀ (p : Part) (tag : BitVec 48) (layer : Nat) (l : Live) (st : StepRun) (kv : Nat × SvcSent) (s : State),
    liveOf s p.val tag = some l → (s.part p.val).hold.step = some st → st.streams.contains tag = true →
    (s.part p.val).hold.queryWait ≠ 0 → (s.part p.val).hold.moves = [] →
    kv ∈ (s.part p.val).last.sent → streamQuery tag kv.2 = true → kv.2.h.posA = layer →
    (∀ y ∈ (s.part p.val).last.sent, streamQuery tag y.2 = true → y.2.h.posA = layer →
      y.2.sentAt + (s.part p.val).hold.queryWait ≤ s.now) →
    ∃ t l', exec (.queryWaitExpire p tag layer) s = .next t ∧ liveOf t p.val tag = some l' ∧ l'.left = true ∧
      l'.req = l.req ∧ (∀ y ∈ (t.part p.val).last.sent, streamQuery tag y.2 = false) ∧
      t.mem = s.mem ∧ t.out = s.out) ∧
  (∀ (p : Part) (tag : BitVec 48) (l : Live) (s : State), liveOf s p.val tag = some l → l.req.phase ≤ 2 →
    l.req.firstDue < s.now → (s.part p.val).hold.firstEnd = true → (s.part p.val).hold.moves = [] →
    l.releasing = false → l.charged = true →
    l.granted = true → l.copies ≠ [] →
    ∃ t l', exec (.firstDueExpire p tag) s = .next t ∧ liveOf t p.val tag = some l' ∧ l'.req.phase = 5 ∧
      l'.releasing = true ∧ l'.finalCode = 0x0A ∧ l'.finalNoToken = true ∧ t.mem = s.mem) ∧
  (∀ (p : Part) (m k : Nat) (s : State), s.code p.val = 5 → oldestSwapped (refreshCtxs s p.val) p.val = some m →
    (k ∈ fittingSlots (refreshCtxs s p.val) p.val m → inSlot (refreshCtxs s p.val) p.val k = none →
      ∃ t j, exec (.contextSwapIn p) s = .next t ∧ j ∈ fittingSlots s p.val m ∧
        ((t.part p.val).hold.ctxs.at m {}).swapping = some j ∧ t.mem = s.mem ∧ t.out = s.out) ∧
    (∀ a n : Nat, (refreshCtxs s p.val |>.part p.val).hold.blockedSince = some a →
      a + (s.part p.val).hold.ctxBlockMin ≤ s.now → k ∈ fittingSlots (refreshCtxs s p.val) p.val m →
      inSlot (refreshCtxs s p.val) p.val k = some n →
      ((refreshCtxs s p.val |>.part p.val).hold.ctxs.at n {}).forcedIn = false →
      ∃ t j, exec (.ctxBlockExpire p) s = .next t ∧ j ∈ fittingSlots s p.val m ∧
        ((t.part p.val).hold.ctxs.at m {}).swapping = some j ∧
        ((t.part p.val).hold.ctxs.at m {}).forcedIn = true ∧
        (t.part p.val).hold.forced = min 0xFFFF_FFFF ((s.part p.val).hold.forced + 1) ∧
        (t.part p.val).hold.blockedSince = none ∧ t.mem = s.mem ∧ t.out = s.out)) ∧
  (∀ (p : Part) (model : Byte) (k : Nat) (e : PlaceEntry) (s : State),
    ((s.part p.val).hold.ctxs.at model.toNat {}).swapping = some k →
    ((s.regions p.val).find? fun e => decide (e.tier = 2 ∧ e.use = 1 ∧ e.model = model.toNat)) = some e →
    s.fab.home = [] →
    readCode s p.val e.start (((s.model p.val model.toNat).map fun (x : ModelPiece) => x.weightBytes).getD 0) = 0 →
    writeCode s p.val (slotOff s p.val k) (((s.model p.val model.toNat).map fun (x : ModelPiece) => x.weightBytes).getD 0)
      (coversWhole (slotOff s p.val k) (((s.model p.val model.toNat).map fun (x : ModelPiece) => x.weightBytes).getD 0))
      = 0 →
    ∃ t, exec (.swapInDone ⟨p, none⟩ model 0) s = .next t ∧
      ((t.part p.val).hold.ctxs.at model.toNat {}).slot = some k ∧
      ((t.part p.val).hold.ctxs.at model.toNat {}).swapping = none ∧ t.out = s.out ∧
      memKeptBut s t (memKey p.val (slotOff s p.val k))
        (((s.model p.val model.toNat).map fun (x : ModelPiece) => x.weightBytes).getD 0))

/-- R276, R277, R368 to R370: the Roundabout takes the item that deficit round robin picks off its lane; a
message is numbered and begins, one of an endpoint that does not exist is discarded and counted; a release
hands descriptors to an Awl of its partition. The model's own readings that this rests on:
notes/assumptions/28.md, notes/assumptions/29.md. -/
def Obligations.RoundaboutsSelectAndSend : Prop :=
  ∀ (r : Fin 16) (s : State), raRuns s r.val = true →
    (∀ (it : Item) (n : Nat) (x : Roundabout), (s.roundabout r.val).selected = none → gateOpen s r.val = true →
      raSelect (fun k => (s.lane k).items) raFuel (s.roundabout r.val) raRoot = some (it, n, x) →
      (s.roundabout r.val).shapeOn = false →
      itemFld it 0 1 = 5 → (sendKind it = 1 ∨ sendKind it = 2) →
      ∃ t, exec (.roundaboutSelect r) s = .next t ∧ t.roundabout r.val = { x with selected := some it } ∧
        (t.lane n).items = (s.lane n).items.drop 1 ∧ (∀ m, m ≠ n → t.lane m = s.lane m) ∧ t.mem = s.mem) ∧
    (∀ it : Item, (s.roundabout r.val).selected = some it →
      (sendKind it = 1 →
        ((s.part (s.roundabout r.val).owner).xt.epCount ≤ sendFrom it →
          ∃ t, exec (.sendMessage r) s = .next t ∧ (t.roundabout r.val).selected = none ∧
            (t.part (s.roundabout r.val).owner).xt.msgDiscards =
              min 0xFFFF ((s.part (s.roundabout r.val).owner).xt.msgDiscards + 1) ∧
            t.lanes = s.lanes ∧ t.mem = s.mem) ∧
        (sendFrom it < (s.part (s.roundabout r.val).owner).xt.epCount →
          sendFrom it ≠ 0 → (epOf s (s.roundabout r.val).owner (sendFrom it)).state = 1 →
          inRange s (s.roundabout r.val).owner onSled false (sendSource it) (sendLength it) = true →
          sendLength it ≠ 0 → (s.roundabout r.val).sending.length < 8 →
          ∃ t, exec (.sendMessage r) s = .next t ∧ (t.roundabout r.val).selected = none ∧
            t.fab.msgNumbers.at (sendDevice it) 0 = s.fab.msgNumbers.at (sendDevice it) 0 + 1)) ∧
      (sendKind it = 2 → sendDevice it < 640 →
        s.blockOwner (sendDevice it / 8) = some (s.roundabout r.val).owner →
        ringOverfull (BitVec.ofNat 32 (sendSource it)) (s.awl (sendDevice it)).head (s.awl (sendDevice it)).size =
          false → (s.awl (sendDevice it)).owned = [] →
        ∃ t, exec (.sendRelease r) s = .next t ∧ (t.roundabout r.val).selected = none ∧
          t.awl (sendDevice it) = { s.awl (sendDevice it) with tail := BitVec.ofNat 32 (sendSource it) } ∧
          (∀ m, m ≠ sendDevice it → t.awl m = s.awl m) ∧ t.lanes = s.lanes ∧ t.mem = s.mem))

/-- R279, R280, R403, R521: a list that has been aligned starts entry 0, a running one the next entry in
turn, adding 1 to the entry's counter where it signals; an accepted edge of ALIGN_IN counts and aligns the
lists of ALIGN 0, an ALIGN packet of the configured sender those of ALIGN 1. The model's own readings that
this rests on: notes/assumptions/29.md. -/
def Obligations.CrossingListsRun : Prop :=
  (∀ (n : Fin 64) (x : Crossing) (s : State), s.crossings.find n.val = some x → s.code x.owner = 5 →
    x.entries ≠ [] →
    (x.restart = true → ∃ t, exec (.crossingEntryStart n) s = .next t ∧
      t.crossing n.val = { x with running := true, current := 0, restart := false } ∧
      (∀ m, m ≠ n.val → t.crossing m = s.crossing m) ∧ t.lanes = s.lanes ∧ t.mem = s.mem) ∧
    (x.restart = false → x.running = true → ∃ t, exec (.crossingEntryStart n) s = .next t ∧
      t.crossing n.val = { x with current := (x.current + 1) % x.entries.length } ∧
      (∀ y, x.entries[(x.current + 1) % x.entries.length]? = some y → y.signal = true →
        s.ownsCtr x.owner y.counter = true →
        (t.counter y.counter).value = min 0x7FFF_FFFF_FFFF_FFFF ((s.counter y.counter).value + 1)) ∧
      (∀ m, m ≠ n.val → t.crossing m = s.crossing m) ∧ t.lanes = s.lanes ∧ t.mem = s.mem)) ∧
  (∀ (n : Nat) (x : Crossing) (s : State), s.crossings.find n = some x → s.code x.owner = 5 →
    (x.align = 0 → s.regs.state ≠ 0 → (∀ a, s.mgmt.alignAt = some a → a + 10 ≤ s.now) →
      ∃ t, exec .alignInEdge s = .next t ∧ t.mgmt.alignAt = some s.now ∧
        t.mgmt.alignEdges = (s.mgmt.alignEdges + 1) % 2 ^ 32 ∧
        t.crossing n = { x with restart := true, alignments := min 0xFFFF_FFFF (x.alignments + 1) } ∧
        t.lanes = s.lanes ∧ t.mem = s.mem) ∧
    (∀ count : BitVec 32, x.align = 1 → ∃ t, exec (.align s.mgmt.alignFrom count) s = .next t ∧
        t.crossing n = { x with restart := true, alignments := min 0xFFFF_FFFF (x.alignments + 1) } ∧
        t.lanes = s.lanes ∧ t.mem = s.mem)) ∧
  (∀ (d : Nat) (count : BitVec 32) (s : State), d ≠ s.mgmt.alignFrom → exec (.align d count) s = .next s)

/-- R356, R362 to R365, R157: a class-2 request that is next in its session's order, passes the checks, and
whose lines are in the combining buffers is applied at once. A WRITE stores its bytes and nothing else; a
READ changes no byte and answers what the span holds; an ATOMIC stores the new value and answers the old
one. -/
def Obligations.RemoteRequestsAreAppliedInOrder : Prop :=
  ∀ (x : XtHdr) (addr : Word) (s : State), (s.peer x.device).inUse = true →
    (s.peer x.device).c2.rxStarted = true → (s.peer x.device).c2.rxSession = x.session →
    (s.peer x.device).c2.rxNext = x.psn → s.fab.reorder = [] → allTrusted s = true → s.fab.device ≠ 0xFFFF →
    (∀ (bytes : List Byte), homeCheck s (.write x addr bytes.length bytes) = 0 →
      badIn s (memKey x.destPart addr.toNat) bytes.length = [] →
      (∀ l ∈ linesOf x.destPart addr.toNat bytes.length, s.fab.lines.contains l = true) →
      ∃ t, exec (.write x addr bytes.length bytes) s = .next t ∧
        (∀ i, i < bytes.length → memByte t.mem (memKey x.destPart addr.toNat + i) = bytes.getD i 0) ∧
        memKeptBut s t (memKey x.destPart addr.toNat) bytes.length ∧
        (t.peer x.device).c2.rxNext = x.psn + 1 ∧ t.lanes = s.lanes ∧ t.counters = s.counters) ∧
    (∀ n : Nat, homeCheck s (.read x addr n) = 0 →
      (∀ l ∈ linesOf x.destPart addr.toNat n, s.fab.lines.contains l = true) →
      ∃ t, exec (.read x addr n) s = .next t ∧ t.mem = s.mem ∧
        packetBytes s (response x 0x10 0 (leBytes 8 0 ++ leBytes 2 n) (loadBytes s x.destPart addr.toNat n)) ∈
          t.fab.ownTx ∧
        (t.peer x.device).c2.rxNext = x.psn + 1 ∧ t.lanes = s.lanes ∧ t.counters = s.counters) ∧
    (∀ (aop size : Byte) (operand compare : Word), homeCheck s (.atomic x addr aop size operand compare) = 0 →
      (∀ l ∈ linesOf x.destPart addr.toNat size.toNat, s.fab.lines.contains l = true) →
      ∃ t, exec (.atomic x addr aop size operand compare) s = .next t ∧
        leNat (loadBytes t x.destPart addr.toNat size.toNat) =
          (let old := leNat (loadBytes s x.destPart addr.toNat size.toNat)
           let m := 2 ^ (8 * size.toNat)
           if aop = 0 then (old + operand.toNat) % m
           else if aop = 1 then operand.toNat % m
           else if old = compare.toNat % m then operand.toNat % m else old) ∧
        memKeptBut s t (memKey x.destPart addr.toNat) size.toNat ∧
        packetBytes s (response x 0x11 0
          (leBytes 16 0 ++ padTo 8 (loadBytes s x.destPart addr.toNat size.toNat)) []) ∈ t.fab.ownTx ∧
        (t.peer x.device).c2.rxNext = x.psn + 1 ∧ t.lanes = s.lanes ∧ t.counters = s.counters)

/-- R352, R356, R357, R364, R366: a request ahead of its session's order is held in the reorder store; a
WRITE whose payload is not of its LENGTH is discarded and counted; a line that a waiting request needs, once
filled, lies in the buffers, whatever its words were found to hold, and completes the request that waited
for it alone. R381, R354, R384, R367: a device that answers nothing for TARGET_TIMEOUT is LOST and what was
outstanding to it ends; CLEAR makes it reachable and, with nothing outstanding, leaves no session of it; a
context idle past the timeout is freed; a fence with nothing outstanding completes at once and otherwise
waits. The model's own readings that this rests on: notes/assumptions/30.md. -/
def Obligations.RemoteRequestsWaitAndPeersAreLost : Prop :=
  ((∀ (x : XtHdr) (addr : Word) (n : Nat) (s : State), (s.peer x.device).inUse = true →
     (s.peer x.device).c2.rxStarted = true → (s.peer x.device).c2.rxSession = x.session →
     psnBefore x.psn (s.peer x.device).c2.rxNext = false → x.psn ≠ (s.peer x.device).c2.rxNext →
     (s.fab.reorder.any fun q => decide (q.hdr.device = x.device ∧ q.hdr.psn = x.psn)) = false →
     s.fab.reorder.length < 4096 → s.fab.device ≠ 0xFFFF →
     ∃ t, exec (.read x addr n) s = .next t ∧ t.fab.reorder = s.fab.reorder ++ [.read x addr n] ∧
       t.mem = s.mem ∧ t.out = s.out) ∧
   (∀ (x : XtHdr) (addr : Word) (n : Nat) (bytes : List Byte) (s : State), bytes.length ≠ n → s.fab.device ≠ 0xFFFF →
     ∃ t, exec (.write x addr n bytes) s = .next t ∧ t.fab.dropOp = min 0xFFFF (s.fab.dropOp + 1) ∧
       t.mem = s.mem ∧ t.out = s.out) ∧
   (∀ (line : LineRead) (j : HomeJob) (s : State), s.fab.lines.contains line.line = false → s.fab.home = [j] →
     j.lines = [line.line] →
     ∃ t, exec (.squareLineFill line) s = .next t ∧ t.fab.lines.contains line.line = true ∧ t.fab.home = [] ∧
       t.lanes = s.lanes ∧ t.counters = s.counters)) ∧
  ((∀ (d : Nat) (u : Unacked) (s : State), (s.peer d).lost = false → u ∈ (s.peer d).c1.unacked ++ (s.peer d).c2.unacked →
     u.firstAt + s.fab.targetTimeout ≤ s.now →
     ∃ t, exec (.targetTimeout d) s = .next t ∧ (t.peer d).lost = true ∧ (t.peer d).c1.unacked = [] ∧
       (t.peer d).c2.unacked = [] ∧ t.fab.lostCount = min 0xFFFF (s.fab.lostCount + 1)) ∧
   (∀ (src : Src) (v : Word) (s : State), globalReaches s src 0x31_0028 →
     v.toNat.testBit 0 = true →
     ∃ t, exec (.clear src v) s = .next t ∧ (t.peer s.fab.peerSelect).lost = false ∧
       ((s.peer s.fab.peerSelect) = (s.peer s.fab.peerSelect).drained → (∀ kv ∈ s.roundabouts, kv.2.sending = []) →
         t.peer s.fab.peerSelect = {})) ∧
   (∀ (d : Nat) (s : State), (s.peer d).inUse = true → (s.peer d).c1.unacked = [] → (s.peer d).c2.unacked = [] →
     (s.peer d).c1.waiting = [] → (s.peer d).c2.waiting = [] → (s.peer d).awaiting = [] →
     (s.peer d).lastRx + s.fab.targetTimeout + 1000 < s.now → (∀ kv ∈ s.roundabouts, kv.2.sending = []) →
     (∀ kv ∈ s.fab.peers, kv.2.c1.waiting = [] ∧ kv.2.c2.waiting = []) →
     (∀ kv ∈ s.parts, kv.2.last.sent = []) →
     ∃ t, exec (.peerContextFree d) s = .next t ∧ t.peer d = { lost := (s.peer d).lost } ∧ t.mem = s.mem) ∧
   (∀ (b : Blk) (p : Part) (d : Nat) (s : State), cobblerRuns s p.val b.val = true →
     ((s.peer d).c2.unacked = [] → s.fab.fences = [] →
       ∃ t, exec (.cobblerFence b d) s = .next t ∧ t.out = s.out ++ [.cobblerFenced b.val] ∧
         t.fab.fences = [] ∧ t.mem = s.mem) ∧
     (∀ u ∈ (s.peer d).c2.unacked, psnBefore u.pkt.psn (s.peer d).c2.nextPsn = true →
       ∃ t, exec (.cobblerFence b d) s = .next t ∧
         (b.val, d, (s.peer d).c2.nextPsn) ∈ t.fab.fences ∧ t.mem = s.mem)))

/-- R374 to R376, R353: a MESSAGE packet for an enabled endpoint on chip whose PSN is new. Of an item
endpoint: its 32 bytes become an item of the item lane and RECEIVED counts it. Of a message in progress: its
bytes lie at their offset in the buffer and no other byte of memory changes. A packet of another length is
discarded and counted. R144: a first packet of several for endpoint 0 begins a service message of the
sender. The model's own readings that this rests on: notes/assumptions/28.md. -/
def Obligations.MessagesReachTheirEndpoint : Prop :=
  (∀ (x : XtHdr) (m : MsgFields) (bytes : List Byte) (s : State), msgLengthOk m bytes = false → s.fab.device ≠ 0xFFFF →
    ∃ t, exec (.message x m bytes) s = .next t ∧ t.fab.dropOp = min 0xFFFF (s.fab.dropOp + 1) ∧
      t.mem = s.mem ∧ t.lanes = s.lanes) ∧
  (∀ (x : XtHdr) (m : MsgFields) (bytes : List Byte) (e : Endpoint) (s : State), msgLengthOk m bytes = true →
    (s.peer x.device).inUse = true → (s.peer x.device).c1.rxStarted = true →
    (s.peer x.device).c1.rxSession = x.session → (s.peer x.device).c1.seen x.psn = false →
    mapCheck s x.destPart x.mapEpoch x.device x.srcPart = 0 →
    (s.part x.destPart).last.arriving = [] → s.fab.device ≠ 0xFFFF →
    (m.destEndpoint = 0 → (s.part x.destPart).xt.reasm = [] → bytes.length < m.total →
      ∃ t, exec (.message x m bytes) s = .next t ∧
        (t.part x.destPart).last.arriving = [{ device := x.device, part := x.srcPart, number := m.number,
                                               total := m.total, got := [(m.offset, bytes)] }] ∧
        t.out = s.out ∧ t.mem = s.mem ∧ t.lanes = s.lanes) ∧
    (m.destEndpoint ≠ 0 → m.destEndpoint < (s.part x.destPart).xt.epCount →
    (s.part x.destPart).xt.eps.find m.destEndpoint = some e → e.state = 1 →
    (∀ l : Lane, (s.part x.destPart).xt.reasm = [] → e.kind = 1 → m.total = 32 →
      s.lanes.find e.itemLane = some l → l.owner = x.destPart → l.items.length < 16 → e.noticeLane ≠ e.itemLane →
      l.portReads = [] → l.portWrites = [] →
      ∃ t, exec (.message x m bytes) s = .next t ∧
        (t.lane e.itemLane).items = l.items ++ [itemOf bytes] ∧
        ((t.part x.destPart).xt.eps.at m.destEndpoint {}).received = e.received + 1 ∧ t.mem = s.mem) ∧
    (∀ r : Reasm, (s.part x.destPart).xt.reasm = [r] → sameMsg x m r = true → r.refused = false →
      r.total = m.total → r.count + bytes.length < r.total →
      inRange s x.destPart onSledW false (r.buffer + m.offset) bytes.length = true →
      writeCode s x.destPart (r.buffer + m.offset) bytes.length (fun _ => false) = 0 →
      badIn s (memKey x.destPart (r.buffer + m.offset)) bytes.length = [] → allTrusted s = true →
      s.fab.home = [] →
      ∃ t, exec (.message x m bytes) s = .next t ∧
        (∀ i, i < bytes.length →
          memByte t.mem (memKey x.destPart (r.buffer + m.offset) + i) = bytes.getD i 0) ∧
        memKeptBut s t (memKey x.destPart (r.buffer + m.offset)) bytes.length ∧
        (t.part x.destPart).xt.reasm = [{ r with count := r.count + bytes.length }] ∧
        t.lanes = s.lanes ∧ t.counters = s.counters)))

/-- R359 to R361, R353, R367: an ACK that covers the one packet outstanding takes it off and widens the
window, or halves it on a congestion echo; the data of a READ or ATOMIC of a Cobbler core reaches that core.
R358: the timer sends the ACK that is owed. R360: a packet not acknowledged in its interval is sent again
and its interval doubles, up to 1,024 us (one with a message's or a WRITE's bytes reads them again first). -/
def Obligations.AcknowledgementsAndAnswers : Prop :=
  (∀ (a : AckFields) (u : Unacked) (s : State), a.cls = 1 ∨ a.cls = 2 → codeDefined a.status = true → s.fab.device ≠ 0xFFFF → (s.peer a.device).inUse = true →
    ((s.peer a.device).sess a.cls.val).started = true →
    ((s.peer a.device).sess a.cls.val).session = a.session →
    ((s.peer a.device).sess a.cls.val).unacked = [u] → ((s.peer a.device).sess a.cls.val).waiting = [] →
    ackCovers a u.pkt.psn = true → u.owner = 0 → (∀ kv ∈ s.roundabouts, kv.2.sending = []) →
    ∃ t, exec (.ack a) s = .next t ∧ ((t.peer a.device).sess a.cls.val).unacked = [] ∧
      ((t.peer a.device).sess a.cls.val).window =
        (if a.ceEcho then
           (if (∀ h, ((s.peer a.device).sess a.cls.val).halvedAt = some h → h + 10 ≤ s.now) then
             max 4 (((s.peer a.device).sess a.cls.val).window / 2)
            else ((s.peer a.device).sess a.cls.val).window)
         else min 1024 (((s.peer a.device).sess a.cls.val).window + 1)) ∧
      (t.peer a.device).lastRx = s.now ∧ t.mem = s.mem ∧ t.lanes = s.lanes) ∧
  (∀ (x : XtHdr) (u : Unacked) (s : State), u.owner = 3 → s.fab.device ≠ 0xFFFF →
    (s.peer x.device).inUse = true →
    (∀ bytes : List Byte, answered s x 1 = some u → bytes.length = leNat (slice u.pkt.fields 8 2) →
      ∃ t, exec (.readData x 0 bytes) s = .next t ∧ .cobblerData u.ownerA 0 bytes ∈ t.out) ∧
    (∀ old : Word, answered s x 3 = some u →
      ∃ t, exec (.atomicData x 0 old) s = .next t ∧ .cobblerData u.ownerA 0 (leBytes 8 old.toNat) ∈ t.out)) ∧
  (∀ (d a : Nat) (c : Fin 3) (s : State), c = 1 ∨ c = 2 → ((s.peer d).sess c.val).unreportedAt = some a →
    ((s.peer d).sess c.val).unreported ≠ 0 → s.fab.device ≠ 0xFFFF →
    ∃ t, exec (.ackTimer d c) s = .next t ∧ ((t.peer d).sess c.val).unreported = 0 ∧
      ((t.peer d).sess c.val).unreportedAt = none ∧ (∃ bs, t.fab.ownTx = s.fab.ownTx ++ [bs]) ∧
      t.mem = s.mem ∧ t.lanes = s.lanes) ∧
  (∀ (d : Nat) (c : Fin 3) (u : Unacked) (s : State), c = 1 ∨ c = 2 →
    ((s.peer d).sess c.val).unacked = [u] → (s.peer d).lost = false → u.lastAt + u.interval ≤ s.now →
    s.fab.device ≠ 0xFFFF → s.fab.home = [] →
    ∃ t, exec (.resendTimer d c u.pkt.psn) s = .next t ∧
      ((t.peer d).sess c.val).unacked =
        [{ u with lastAt := s.now, interval := min 1024 (2 * u.interval), skipped := 0 }] ∧
      (u.owner ≠ 1 → u.owner ≠ 2 → ∃ bs, t.fab.ownTx = s.fab.ownTx ++ [bs]) ∧ t.mem = s.mem ∧ t.lanes = s.lanes)

/-- R372, R373, R376, R377, R380, Tables 11-7 and 11-8: ENABLE takes a readable context on chip in STATE 1;
DISABLE and FLUSH leave the endpoint disabled; TAIL of a shared receive queue is taken unless it overfills
the ring; an endpoint without a buffer past the limit is in error with 0x07; a fetched context is on chip.
The model's own readings that this rests on: notes/assumptions/28.md. -/
def Obligations.EndpointCommands : Prop :=
  (∀ (src : Src) (p : Part) (ep : BitVec 16) (s : State), hostReaches s src p →
    (epCheck s p.val ep.toNat [0] = 0 → inRange s p.val onSledW false (epAddr s p.val ep.toNat) 64 = true →
      readCode s p.val (epAddr s p.val ep.toNat) 64 = 0 →
      ∃ t e, exec (.enable src p ep) s = .next t ∧ (t.part p.val).xt.eps.find ep.toNat = some e ∧ e.state = 1 ∧
        e.kind = (epInTable s p.val ep.toNat).kind ∧ (t.part p.val).xt.enabled.contains ep.toNat = true ∧
        (t.part p.val).xt.cmdCode = 0 ∧ t.lanes = s.lanes ∧ t.counters = s.counters) ∧
    (epCheck s p.val ep.toNat [1, 2] = 0 →
      ∃ t, exec (.epDisable src p ep) s = .next t ∧ (epOf t p.val ep.toNat).state = 0 ∧
        (t.part p.val).xt.enabled.contains ep.toNat = false ∧ (t.part p.val).xt.cmdCode = 0 ∧
        (∀ r ∈ (t.part p.val).xt.reasm, r.endpoint ≠ ep.toNat)) ∧
    (epCheck s p.val ep.toNat [2] = 0 →
      ∃ t, exec (.epFlush src p ep) s = .next t ∧ (epOf t p.val ep.toNat).state = 0 ∧
        (t.part p.val).xt.enabled.contains ep.toNat = false ∧ (t.part p.val).xt.cmdCode = 0)) ∧
  (∀ (src : Src) (p : Part) (q : Fin 16) (v : Word) (x : Srq) (s : State), hostReaches s src p →
    (s.part p.val).xt.srqs.at q.val {} = x →
    (ringOverfull (v.setWidth 32) x.head x.size = true → exec (.srqTailWrite src p q v) s = .next s) ∧
    (ringOverfull (v.setWidth 32) x.head x.size = false →
      ∃ t, exec (.srqTailWrite src p q v) s = .next t ∧
        (t.part p.val).xt.srqs.at q.val {} = { x with tail := v.setWidth 32 } ∧ t.mem = s.mem ∧
        t.lanes = s.lanes ∧ t.counters = s.counters)) ∧
  (∀ (p : Part) (n a : Nat) (e : Endpoint) (s : State), (s.part p.val).xt.eps.find n = some e →
    e.emptySince = some a → a + (s.part p.val).xt.emptyLimit ≤ s.now → e.state = 1 →
    stillStarved s p.val e = true →
    ∃ t x, exec (.epEmptyExpire p n) s = .next t ∧ (t.part p.val).xt.eps.find n = some x ∧ x.state = 2 ∧
      x.error = 7 ∧ t.lanes = s.lanes ∧ t.counters = s.counters) ∧
  (∀ (p : Part) (n : Nat) (s : State), (s.part p.val).xt.fetches.contains n = true →
    (s.part p.val).xt.enabled.contains n = true → (s.part p.val).xt.parked = [] →
    (s.part p.val).xt.fetchWait.contains n = false → s.fab.home = [] →
    inRange s p.val onSled false (epAddr s p.val n) 64 = true → readCode s p.val (epAddr s p.val n) 64 = 0 →
    ∃ t e, exec (.kerbsideFetchDone p n) s = .next t ∧ (t.part p.val).xt.eps.find n = some e ∧
      e.state = (epInTable s p.val n).state ∧ (t.part p.val).xt.fetches.contains n = false ∧
      t.lanes = s.lanes ∧ t.counters = s.counters)

/-- R198 to R202: a launch of an idle block that passes its checks starts a run: STATE 1, its SLOT, ENTRY
and signal, the engine section in the instruction store, and in every core s1 holds ENG_ARG and s2 the
core's number and execution begins at the entry's first instruction (R194), no register holding what an
earlier run left (R215; what the others hold is a free value, notes/assumptions/20.md); one that fails a
check, or whose copy of the engine section fails, ends at once with that code; one at a block that runs or
stops sets LAUNCH_REFUSED alone. STOP makes a run stopping. -/
def Obligations.EngineLaunchesAndStops : Prop :=
  ∀ (src : Src) (p : Part) (b : Blk) (v : Word) (s : State), hostReachesBlock s src p b →
    (((s.block b.val).eng.state = 1 ∨ (s.block b.val).eng.state = 2) →
      exec (.engLaunch src b v) s =
        .next (s.setEng b.val { (s.block b.val).eng with launchRefused := true })) ∧
    (((s.block b.val).eng.state = 0 ∨ (s.block b.val).eng.state = 3) → s.code p.val = 5 →
      fusedBusy s b.val = false → blockSuspect s b.val = false → s.fab.home = [] →
      (launchCheck s p.val (v.toNat % 256) (v.toNat / 256 % 256) (v.toNat.testBit 32) (v.toNat / 2 ^ 48) = 0 →
        (copySection s p.val b.val (v.toNat % 256)).1 = 0 →
        ∃ t, exec (.engLaunch src b v) s = .next t ∧ (t.block b.val).eng.state = 1 ∧
          (t.block b.val).eng.slot = v.toNat % 256 ∧ (t.block b.val).eng.entry = v.toNat / 256 % 256 ∧
          (t.block b.val).eng.cycles = 0 ∧ (t.block b.val).eng.signal = v.toNat.testBit 32 ∧
          (t.block b.val).eng.loaded = some (v.toNat % 256) ∧ (t.block b.val).pwr.startAsked = true ∧
          (∀ c, c < 1024 → (t.core b.val c).scalars.at 1 0 = (s.block b.val).eng.arg ∧
            (t.core b.val c).scalars.at 2 0 = BitVec.ofNat 64 c ∧ (t.core b.val c).ended = false ∧
            (t.core b.val c).wait = none ∧
            (t.core b.val c).pc =
              entryFirst s p.val (imageOff s p.val (v.toNat % 256)) (v.toNat / 256 % 256) ∧
            (t.core b.val c).sat = false ∧ (t.core b.val c).nanSeen = false ∧
            (∀ r, (t.core b.val c).vec r = Config.startVector c r) ∧
            (∀ r, 3 ≤ r → (t.core b.val c).scalar r = Config.startScalar c r)) ∧
          (∀ n, n ≠ b.val → t.block n = s.block n) ∧ t.mem = s.mem ∧ t.lanes = s.lanes ∧
          t.counters = s.counters) ∧
      (∀ code : Byte, (launchCheck s p.val (v.toNat % 256) (v.toNat / 256 % 256) (v.toNat.testBit 32)
            (v.toNat / 2 ^ 48) = code ∨
          launchCheck s p.val (v.toNat % 256) (v.toNat / 256 % 256) (v.toNat.testBit 32) (v.toNat / 2 ^ 48) = 0 ∧
            (copySection s p.val b.val (v.toNat % 256)).1 = code) → code ≠ 0 →
        ∃ t, exec (.engLaunch src b v) s = .next t ∧ (t.block b.val).eng.state = 3 ∧
          (t.block b.val).eng.faultCode = code ∧ t.cores = s.cores ∧
          (∀ n, n ≠ b.val → t.block n = s.block n) ∧ t.mem = s.mem ∧ t.lanes = s.lanes)) ∧
    ((s.block b.val).eng.state = 1 → v.toNat.testBit 0 = true →
      exec (.engStop src b v) s =
        .next (s.setEng b.val { (s.block b.val).eng with state := 2, stopCode := 8 })) ∧
    ((s.block b.val).eng.state ≠ 1 ∨ v.toNat.testBit 0 = false → exec (.engStop src b v) s = .next s)

/-- R201, R202: a run ends cleanly once every core has executed End, with code 0x00 and STATE 0, a faulted
one in STATE 3 with the fault's code (0x04, 0x0B or 0x0D) and core; its counter is signalled with FAULT by
its code. End and Barrier stop their core alone, and the barrier lets go of every core of the block at once. -/
def Obligations.RunsEndAndCoresMeet : Prop :=
  (∀ (b : Blk) (p n : Nat) (s : State), s.blockOwner b.val = some p → (s.block b.val).eng.state = 1 →
    (∀ c, c < 1024 → (s.core b.val c).ended = true) →
    ∃ t, exec (.engineRunEnd b .clean n) s = .next t ∧ (t.block b.val).eng.state = 0 ∧
      (t.block b.val).eng.faultCode = 0 ∧ (t.block b.val).eng.cycles = min n (2 ^ 64 - 1) ∧
      ((s.block b.val).eng.signal = true → s.ownsCtr p (s.block b.val).eng.signalCounter = true →
        t.counter (s.block b.val).eng.signalCounter =
          { s.counter (s.block b.val).eng.signalCounter with
            value := min 0x7FFF_FFFF_FFFF_FFFF ((s.counter (s.block b.val).eng.signalCounter).value + 1) }) ∧
      ((s.block b.val).eng.signal = false → t.counters = s.counters) ∧
      (∀ k, k ≠ b.val → t.block k = s.block k) ∧ t.cores = s.cores ∧ t.mem = s.mem ∧ t.lanes = s.lanes) ∧
  (∀ (b : Blk) (core : Fin 1024) (at_ : BitVec 32) (code : Byte) (p n : Nat) (s : State),
    s.blockOwner b.val = some p → (s.block b.val).eng.state = 1 → runFaultCode code = true →
    ∃ t, exec (.engineRunEnd b (.fault core at_ code) n) s = .next t ∧ (t.block b.val).eng.state = 3 ∧
      (t.block b.val).eng.faultCode = code ∧ (t.block b.val).eng.faultCore = core.val ∧
      (t.block b.val).eng.faultAt = at_ ∧
      ((s.block b.val).eng.signal = true → s.ownsCtr p (s.block b.val).eng.signalCounter = true →
        (t.counter (s.block b.val).eng.signalCounter).fault = true) ∧
      (∀ k, k ≠ b.val → t.block k = s.block k) ∧ t.cores = s.cores ∧ t.mem = s.mem ∧ t.lanes = s.lanes) ∧
  (∀ (b : Blk) (r : CoreRun) (s : State), coreRuns s b.val r.core.val = true →
    ∃ t u, exec (.endRun b r) s = .next t ∧ exec (.barrier b r) s = .next u ∧
      t.core b.val r.core.val = { coreAt s b r with ended := true, pc := (coreAt s b r).pc + 8 } ∧
      u.core b.val r.core.val = { coreAt s b r with atBarrier := true, pc := (coreAt s b r).pc + 8 } ∧
      coresKept s t b r ∧ coresKept s u b r ∧ t.blocks = s.blocks ∧ u.blocks = s.blocks ∧
      t.mem = s.mem ∧ u.mem = s.mem ∧ t.counters = s.counters ∧ u.counters = s.counters) ∧
  (∀ (b : Blk) (s : State), (s.block b.val).eng.state = 1 → (∀ c, c < 1024 → (s.core b.val c).atBarrier = true) →
    ∃ t, exec (.barrierRelease b) s = .next t ∧
      (∀ c, c < 1024 → t.core b.val c = { s.core b.val c with atBarrier := false }) ∧
      (∀ k c, k ≠ b.val → c < 1024 → t.core k c = s.core k c) ∧
      t.blocks = s.blocks ∧ t.mem = s.mem ∧ t.counters = s.counters)

/-- R213, R214, R216, R554: a MAC of two INT8 registers adds to element (r, k) of its tile the product of
element r of the first and element k of the second, saturating to INT32; a MAC of two BF16 registers rounds
the exact sum once to FP32. Vector add, multiply and fused multiply-add work lane by lane on 16 FP32 lanes,
each rounded once, the special class on lanes 0 to 7 alone. The core goes on to its next instruction; no
other register, no byte of memory and no other core changes. The operands are those that the scalar
instructions before left. The model's own readings that this rests on: notes/assumptions/20.md,
notes/assumptions/21.md. -/
def Obligations.CoresComputeLaneByLane : Prop :=
  ∀ (b : Blk) (c : CoreRun) (k : Core) (s : State), coreRuns s b.val c.core.val = true → coreAt s b c = k →
    (∀ (acc : Fin 8) (va vb : Fin 16) (scales : List Byte) (r q : Nat), r < 8 → q < 8 →
      (∃ t, exec (.mac b c acc .int8 .int8 va vb scales) s = .next t ∧
        (t.core b.val c.core.val).accAt acc.val r q = BitVec.ofInt 32 (satInt 32
          ((k.accAt acc.val r q).toInt +
            intOfCode 8 (elem (k.vec va.val) 8 r) *
            intOfCode 8 (elem (k.vec vb.val) 8 q))).1 ∧
        (∀ a, a < 8 → a ≠ acc.val → (t.core b.val c.core.val).accAt a r q = k.accAt a r q) ∧
        (t.core b.val c.core.val).vectors = k.vectors ∧
        (t.core b.val c.core.val).nanSeen = k.nanSeen ∧
        (t.core b.val c.core.val).pc = k.pc + 8 ∧ coresKept s t b c ∧ t.blocks = s.blocks ∧ t.mem = s.mem) ∧
      (∃ t, exec (.mac b c acc .bf16 .bf16 va vb scales) s = .next t ∧
        (t.core b.val c.core.val).accAt acc.val r q =
          fp32Of (Num.sum [fp32Val (k.accAt acc.val r q),
            (bf16Val (elem (k.vec va.val) 16 r)).mul
            (bf16Val (elem (k.vec vb.val) 16 q))]) ∧
        (t.core b.val c.core.val).vectors = k.vectors ∧
        (t.core b.val c.core.val).sat = k.sat ∧ t.blocks = s.blocks ∧ t.mem = s.mem) ∧
      (∃ t, exec (.mac b c acc .fp32 .fp32 va vb scales) s = .next t ∧ t.core b.val c.core.val = k ∧ coresKept s t b c ∧
        (t.block b.val).eng.state = 2 ∧ (t.block b.val).eng.stopCode = 0x0B ∧
        (t.block b.val).eng.faultCore = c.core.val ∧ (t.block b.val).eng.faultAt = k.pc ∧ t.mem = s.mem)) ∧
    (∀ (dst x y z : Fin 16) (i : Nat), i < 16 →
      ∃ t u w, exec (.vector b c .add dst x y z) s = .next t ∧ exec (.vector b c .mul dst x y z) s = .next u ∧
        exec (.vector b c .fma dst x y z) s = .next w ∧
        laneOf ((t.core b.val c.core.val).vec dst.val) i =
          fp32Of ((fp32Val (laneOf (k.vec x.val) i)).add
            (fp32Val (laneOf (k.vec y.val) i))) ∧
        laneOf ((u.core b.val c.core.val).vec dst.val) i =
          fp32Of ((fp32Val (laneOf (k.vec x.val) i)).mul
            (fp32Val (laneOf (k.vec y.val) i))) ∧
        laneOf ((w.core b.val c.core.val).vec dst.val) i =
          fp32Of (((fp32Val (laneOf (k.vec x.val) i)).mul
            (fp32Val (laneOf (k.vec y.val) i))).add
            (fp32Val (laneOf (k.vec z.val) i))) ∧
        (∀ r, r ≠ dst.val → (t.core b.val c.core.val).vec r = k.vec r) ∧
        (t.core b.val c.core.val).acc = k.acc ∧
        (t.core b.val c.core.val).pc = k.pc + 8 ∧ coresKept s t b c ∧ t.blocks = s.blocks ∧ t.mem = s.mem) ∧
    (∀ (op : VecOp) (dst x y z : Fin 16), vecNarrows op = true →
      ∃ t, exec (.vector b c op dst x y z) s = .next t ∧
        (∀ i, i < 16 → elem ((t.core b.val c.core.val).vec dst.val) (convWidth op) i =
          (convTo op (fp32Val (laneOf (k.vec x.val) i))).1 % 2 ^ convWidth op) ∧
        (∀ r, r ≠ dst.val → (t.core b.val c.core.val).vec r = k.vec r) ∧
        (t.core b.val c.core.val).acc = k.acc ∧ t.blocks = s.blocks ∧ t.mem = s.mem) ∧
    (∀ (op : SpecialOp) (dst x : Fin 16) (i : Nat), i < 16 →
      ∃ t, exec (.vectorSpecial b c op dst x) s = .next t ∧
        laneOf ((t.core b.val c.core.val).vec dst.val) i =
          (if i < 8 then specialLane op (fp32Val (laneOf (k.vec x.val) i))
           else laneOf (k.vec dst.val) i) ∧
        (∀ r, r ≠ dst.val → (t.core b.val c.core.val).vec r = k.vec r) ∧
        (t.core b.val c.core.val).acc = k.acc ∧ t.blocks = s.blocks ∧ t.mem = s.mem)

/-- R191, R192, R196, R206 to R210, R201: within the bench and away from uncorrectable words, Bench load
gives a register the bench's bytes, Bench store gives the bench the register's bytes, Compact writes the
converted head, and the exchange writes 32 bytes into the bench of the neighbour; past the bench's end the
core faults with 0x0D and stores nothing, and a load that finds an uncorrectable word faults with 0x04. No
other byte of memory changes. The model's own readings that this rests on: notes/assumptions/20.md. -/
def Obligations.CoresReachTheirBench : Prop :=
  ∀ (b : Blk) (r : CoreRun) (c : Nat) (k : Core) (s : State), r.core.val = c → coreRuns s b.val c = true →
    coreAt s b r = k →
    (∀ (dst : Fin 16) (off len : Nat), len ≤ 64 →
      (benchCode s b.val c off len false = 0 → foundFine r.found = true →
        ∃ t, exec (.benchLoad b r dst off len) s = .next t ∧
          (∀ i, i < len → elem ((t.core b.val c).vec dst.val) 8 i =
            (memByte s.mem (benchKey b.val c (off + i))).toNat) ∧
          (∀ x, x ≠ dst.val → (t.core b.val c).vec x = k.vec x) ∧ (t.core b.val c).pc = k.pc + 8 ∧
          coresKept s t b r ∧ t.blocks = s.blocks ∧ t.mem = s.mem) ∧
      (∀ w : Word, r.found = some (w, false) → 0 < len → off + len ≤ benchSize →
        w.toNat / 32 * 32 < benchOff b.val c off + len → benchOff b.val c off < w.toNat / 32 * 32 + 32 →
        ∃ t, exec (.benchLoad b r dst off len) s = .next t ∧ (t.block b.val).eng.state = 2 ∧
          (t.block b.val).eng.stopCode = 4 ∧ t.core b.val c = k ∧ t.mem = s.mem)) ∧
    (∀ (src : Fin 16) (off len : Nat), len ≤ 64 →
      (benchCode s b.val c off len true = 0 →
        ∃ t, exec (.benchStore b r src off len) s = .next t ∧
          (∀ i, i < len → (memByte t.mem (benchKey b.val c (off + i))).toNat = elem (k.vec src.val) 8 i) ∧
          memKeptBut s t (benchKey b.val c off) len ∧ t.core b.val c = { k with pc := k.pc + 8 } ∧
          coresKept s t b r ∧ t.blocks = s.blocks) ∧
      (benchSize < off + len →
        ∃ t u, exec (.benchStore b r src off len) s = .next t ∧ exec (.benchLoad b r src off len) s = .next u ∧
          t.mem = s.mem ∧ u.mem = s.mem ∧ t.core b.val c = k ∧ u.core b.val c = k ∧
          (t.block b.val).eng.state = 2 ∧ (t.block b.val).eng.stopCode = 0x0D ∧
          (u.block b.val).eng.state = 2 ∧ (u.block b.val).eng.stopCode = 0x0D)) ∧
    (∀ (op : CompactOp) (head : Fin 3) (a d : Nat),
      benchCode s b.val c a (compactSpan op head.val) false = 0 →
      (∀ bs : List Byte,
        compactResult op head.val (benchBytes s b.val c a (compactSpan op head.val)) = bs →
        benchCode s b.val c d bs.length true = 0 → foundFine r.found = true →
        ∃ t, exec (.compact b r op head a d) s = .next t ∧
          (∀ i, i < bs.length → memByte t.mem (benchKey b.val c (d + i)) = bs.getD i 0) ∧
          memKeptBut s t (benchKey b.val c d) bs.length ∧ t.core b.val c = { k with pc := k.pc + 8 } ∧
          coresKept s t b r ∧ t.blocks = s.blocks)) ∧
    (∀ (dir : Dir) (a d : Nat),
      (∀ n, neighbour c dir = some n → benchCode s b.val c a 32 false = 0 →
        benchCode s b.val n d 32 true = 0 → foundFine r.found = true →
        ∃ t, exec (.exchange b r dir a d) s = .next t ∧
          (∀ i, i < 32 → memByte t.mem (benchKey b.val n (d + i)) = memByte s.mem (benchKey b.val c (a + i))) ∧
          memKeptBut s t (benchKey b.val n d) 32 ∧ t.core b.val c = { k with pc := k.pc + 8 } ∧
          coresKept s t b r ∧ t.blocks = s.blocks) ∧
      (neighbour c dir = none →
        ∃ t, exec (.exchange b r dir a d) s = .next t ∧ (t.block b.val).eng.stopCode = 0x0B ∧
          t.mem = s.mem ∧ t.core b.val c = k))

/-- R221, R296, R367: a Cobbler core's store to HBM or DDR5 of its partition writes its bytes and nothing
else, its load gives it the bytes, or 0x04 where it finds an uncorrectable word; an access fault, or an
access outside its partition's regions, stops that core's partition context and stores nothing; a remote
load is kept in the class-2 session until it is answered. The model's own readings that this rests on:
notes/assumptions/41.md. -/
def Obligations.CobblerCoresReachTheirPartition : Prop :=
  ∀ (p : Part) (b : Blk) (s : State), cobblerRuns s p.val b.val = true →
    (∀ a : Word, ∃ t, exec (.cobblerAccessFault p b a) s = .next t ∧ (t.block b.val).cobbler = 2 ∧
      t.mem = s.mem ∧ t.lanes = s.lanes ∧ t.counters = s.counters ∧
      ∀ n, n ≠ b.val → t.block n = s.block n) ∧
    (∀ (a : Word) (n : Nat), inRange s p.val (fun e => onSled e || decide (e.tier = 3)) false a.toNat n = true →
      placeOf s p.val a.toNat = .own → (∀ i, i < n → placeOf s p.val (a.toNat + i) = .own) →
      readCode s p.val a.toNat n = 0 → s.fab.home = [] →
      (∃ t, exec (.cobblerLoadStore p b (.load a n none)) s = .next t ∧
        t.out = s.out ++ [.cobblerData b.val 0 (loadBytes s p.val a.toNat n)] ∧ t.mem = s.mem ∧
        t.parts = s.parts) ∧
      (∀ w : Word, 0 < n → a.toNat + n ≤ benchBase → w.toNat / 32 * 32 < a.toNat + n →
        a.toNat < w.toNat / 32 * 32 + 32 →
        ∃ t, exec (.cobblerLoadStore p b (.load a n (some (w, false)))) s = .next t ∧
          .cobblerData b.val 4 [] ∈ t.out ∧ t.mem = s.mem)) ∧
    (∀ (a : Word) (bytes : List Byte), bytes ≠ [] →
      (inRange s p.val (fun e => (onSled e || decide (e.tier = 3)) && decide (e.use ≠ 5)) false a.toNat
          bytes.length = true →
        (∀ i, i < bytes.length → placeOf s p.val (a.toNat + i) = .own) → s.fab.home = [] →
        writeCode s p.val a.toNat bytes.length (fun _ => false) = 0 →
        badIn s (memKey p.val a.toNat) bytes.length = [] → allTrusted s = true →
        ∃ t, exec (.cobblerLoadStore p b (.store a bytes)) s = .next t ∧
          (∀ i, i < bytes.length → memByte t.mem (memKey p.val a.toNat + i) = bytes.getD i 0) ∧
          memKeptBut s t (memKey p.val a.toNat) bytes.length ∧ t.out = s.out ∧ t.lanes = s.lanes) ∧
      (inRange s p.val (fun e => (onSled e || decide (e.tier = 3)) && decide (e.use ≠ 5)) false a.toNat
          bytes.length = false →
        ∃ t, exec (.cobblerLoadStore p b (.store a bytes)) s = .next t ∧ (t.block b.val).cobbler = 2 ∧
          t.mem = s.mem ∧ t.lanes = s.lanes)) ∧
    (∀ (d : Nat) (a : Word) (n : Nat), 0 < n → n ≤ 256 → a.toNat + n ≤ 2 ^ 54 →
      (unreachable s d = true → exec (.cobblerLoadStore p b (.remoteLoad d a n)) s =
        .next (s.emit (.cobblerData b.val 3 []))) ∧
      (unreachable s d = false → (s.peer d).c2.waiting = [] → (s.peer d).inUse = true →
        (s.peer d).c2.started = true → (s.peer d).c2.unacked.length < (s.peer d).c2.window →
        ∃ t u, exec (.cobblerLoadStore p b (.remoteLoad d a n)) s = .next t ∧
          (t.peer d).c2.unacked = (s.peer d).c2.unacked ++ [u] ∧ u.pkt.op = 1 ∧ u.owner = 3 ∧
          u.ownerA = b.val ∧ u.pkt.psn = (s.peer d).c2.nextPsn ∧
          (t.peer d).c2.nextPsn = (s.peer d).c2.nextPsn + 1 ∧ t.mem = s.mem ∧ t.lanes = s.lanes))

/-- R90, R227 to R232, R235, R556: a command at the head of an attention ring that passes its checks, waits
on nothing and finds its block awake runs: its output lies in the OUT span, no other byte of memory changes,
and it is in progress until it completes, which counts it and adds to its counter. One that fails a check
completes with that check's code. A flush completes what has not started. A command that the block's own
unit runs leaves the benches as they are; after a fused one their top bytes alone are undefined (R225). The
model's own readings that this rests on: notes/assumptions/22.md, notes/assumptions/23.md. -/
def Obligations.AttentionCommandsTakeTheirTurn : Prop :=
  (∀ (src : Src) (q : Part) (b : Blk) (v : Word) (s : State), hostReachesBlock s src q b →
    (dist32 (v.setWidth 32) (s.block b.val).attn.head ≤ 2 ^ (s.block b.val).attn.size →
      exec (.attnTailWrite src b v) s =
        .next (s.setAttn b.val { (s.block b.val).attn with tail := v.setWidth 32 })) ∧
    (2 ^ (s.block b.val).attn.size < dist32 (v.setWidth 32) (s.block b.val).attn.head →
      exec (.attnTailWrite src b v) s =
        .next (s.setAttn b.val { (s.block b.val).attn with tailError := true })) ∧
    (v.toNat.testBit 0 = true →
      ∃ t, exec (.attnFlush src b v) s = .next t ∧ (t.block b.val).attn.head = (s.block b.val).attn.tail ∧
        (t.block b.val).attn.tail = (s.block b.val).attn.tail ∧ (t.block b.val).attn.waiting = none ∧
        (t.block b.val).attn.jobs = (s.block b.val).attn.jobs ∧
        (∀ n, n ≠ b.val → t.block n = s.block n) ∧ t.mem = s.mem)) ∧
  (∀ (b : Blk) (r : BlkRead) (p : Nat) (bs : List Byte) (s : State), r.b = b → attnPart s b.val = some p →
    (s.block b.val).attn.jobs.length < 4 → (s.block b.val).attn.waiting = none → (s.block b.val).halted = false →
    s.fab.home = [] →
    (s.block b.val).attn.head ≠ (s.block b.val).attn.tail →
    (ringRead s p (s.block b.val).attn.base (s.block b.val).attn.size 128 (s.block b.val).attn.head).1 = 0 →
    (ringRead s p (s.block b.val).attn.base (s.block b.val).attn.size 128 (s.block b.val).attn.head).2.1 = bs →
    (∀ code : Byte, attnCheck s p (attnOf bs) = code → code ≠ 0 →
      ∃ t, exec (.attend r) s = .next t ∧
        (t.block b.val).attn.head = (s.block b.val).attn.head + 1 ∧ (t.block b.val).attn.lastFail = code ∧
        (t.block b.val).attn.failTag = (attnOf bs).tag ∧
        (t.block b.val).attn.done = min (2 ^ 64 - 1) ((s.block b.val).attn.done + 1) ∧
        (t.block b.val).attn.jobs = (s.block b.val).attn.jobs ∧
        (∀ n, n ≠ b.val → t.block n = s.block n) ∧ t.mem = s.mem) ∧
    (attnCheck s p (attnOf bs) = 0 → blockSuspect s b.val = false →
      ((attnOf bs).waits = true → ctrMet s (attnOf bs).waitCounter (attnOf bs).waitValue = false →
        ∃ t, exec (.attend r) s = .next t ∧
          (t.block b.val).attn.waiting = some { index := (s.block b.val).attn.head, cmd := attnOf bs } ∧
          (t.block b.val).attn.head = (s.block b.val).attn.head + 1 ∧ t.mem = s.mem) ∧
      (∀ out : List Byte, (attnOf bs).waits = false → (s.block b.val).pwr.state = 0 →
        (s.part p).insole = true → (attnOf bs).queries ≠ 0 →
        (∀ x ∈ attnReads (attnOf bs), readCode s p x.1 x.2 = 0) → foundFine r.found = true →
        attnOutput s p (attnOf bs) = out → badIn s (memKey p (attnOf bs).out) out.length = [] →
        writeCode s p (attnOf bs).out out.length (fun _ => false) = 0 → allTrusted s = true →
        ∃ t, exec (.attend r) s = .next t ∧
          (t.block b.val).attn.jobs = (s.block b.val).attn.jobs ++
            [{ index := (s.block b.val).attn.head, cmd := attnOf bs, status := 0, released := true,
               gens := ((attnReads (attnOf bs)).flatMap fun x => spanGens s p x.1 x.2).eraseDups }] ∧
          (t.block b.val).attn.head = (s.block b.val).attn.head + 1 ∧
          (∀ i, i < out.length → memByte t.mem (memKey p (attnOf bs).out + i) = out.getD i 0) ∧
          memKeptBut s t (memKey p (attnOf bs).out) out.length ∧
          (∀ n, n ≠ b.val → t.block n = s.block n) ∧ t.counters = s.counters ∧ t.lanes = s.lanes))) ∧
  (∀ (b : Blk) (p : Nat) (j : AttnJob) (s : State), attnPart s b.val = some p →
    (s.block b.val).attn.jobs = [j] →
    ∃ t, exec (.attendComplete b j.index) s = .next t ∧ (t.block b.val).attn.jobs = [] ∧
      (t.block b.val).attn.done = min (2 ^ 64 - 1) ((s.block b.val).attn.done + 1) ∧
      (t.block b.val).attn.lastFail = (if j.status = 0 then (s.block b.val).attn.lastFail else j.status) ∧
      (j.cmd.signals = true → s.ownsCtr p j.cmd.signalCounter = true →
        (t.counter j.cmd.signalCounter).value =
          min 0x7FFF_FFFF_FFFF_FFFF ((s.counter j.cmd.signalCounter).value + 1) ∧
        (t.counter j.cmd.signalCounter).fault = ((s.counter j.cmd.signalCounter).fault || (j.status != 0))) ∧
      ((s.part p).insole = true → t.mem = s.mem) ∧
      (∀ a, (a < benchKey b.val 0 0 ∨ benchKey b.val 1024 0 ≤ a) → memByte t.mem a = memByte s.mem a) ∧
      (∀ n, n ≠ b.val → t.block n = s.block n) ∧ t.lanes = s.lanes)

/-- R303 to R309: the migration entry at the head of its ring that passes its checks has its pages moved one
after another: each takes a page of the destination pool before its copy, an empty pool ending the entry
there with 0x0B; a page whose copy ends lies in TIER, the bytes it holds unchanged; one that a write reached
is copied again, at most three times. An entry with no page left completes. -/
def Obligations.MigrationMovesPages : Prop :=
  (∀ (src : Src) (p : Part) (v : Word) (s : State), hostReaches s src p →
    (dist32 (v.setWidth 32) (s.part p.val).mem.head ≤ 2 ^ (s.part p.val).mem.size →
      exec (.migTailWrite src p v) s =
        .next (s.setPMem p.val { (s.part p.val).mem with tail := v.setWidth 32 })) ∧
    (2 ^ (s.part p.val).mem.size < dist32 (v.setWidth 32) (s.part p.val).mem.head →
      exec (.migTailWrite src p v) s =
        .next (s.setPMem p.val { (s.part p.val).mem with tailError := true }))) ∧
  (∀ (p : Part) (bs : List Byte) (s : State), partRuns s p.val = true → (s.part p.val).mem.job = none →
    (s.part p.val).mem.head ≠ (s.part p.val).mem.tail → (s.part p.val).mem.held = false →
    s.fab.home = [] →
    (ringRead s p.val (s.part p.val).mem.base (s.part p.val).mem.size 32 (s.part p.val).mem.head).1 = 0 →
    (ringRead s p.val (s.part p.val).mem.base (s.part p.val).mem.size 32 (s.part p.val).mem.head).2.1 = bs →
    (migCheck s p.val (migOf bs) = 0 → (migOf bs).flags.testBit 0 = false →
      ∃ t, exec (.movePages p) s = .next t ∧
        (t.part p.val).mem.job = some
          (match pagesToMove s p.val (migOf bs) with
            | [] => { entry := migOf bs, left := [] }
            | page :: rest =>
              if poolFree s p.val (migOf bs).tier = 0 then { entry := migOf bs, left := [], status := 0x0B }
              else { entry := migOf bs, left := page :: rest, taken := true }) ∧
        (∀ page, (pagesToMove s p.val (migOf bs)).head? = some page → poolFree s p.val (migOf bs).tier = 0 →
          (t.part p.val).mem.failAt = page * 65536) ∧
        (t.part p.val).mem.head = (s.part p.val).mem.head + 1 ∧ t.mem = s.mem ∧ t.counters = s.counters ∧
        t.lanes = s.lanes) ∧
    (∀ code : Byte, migCheck s p.val (migOf bs) = code → code ≠ 0 →
      ∃ t, exec (.movePages p) s = .next t ∧ (t.part p.val).mem.job = none ∧
        (t.part p.val).mem.lastFail = code ∧ (t.part p.val).mem.head = (s.part p.val).mem.head + 1 ∧
        (t.part p.val).mem.pageTier = (s.part p.val).mem.pageTier ∧ t.mem = s.mem)) ∧
  (∀ (r : PartRead) (p : Part) (j : MigJob) (page : Nat) (rest : List Nat) (written : Bool) (s : State), r.p = p →
    (s.part p.val).mem.job = some j → j.waiting = false → j.left = page :: rest → partRuns s p.val = true →
    (written = true → j.restarts < 3 →
      exec (.pageMoveDone r page written) s =
        .next (s.setPMem p.val
          { (s.part p.val).mem with job := some { j with restarts := j.restarts + 1 } })) ∧
    (∀ u : State, u = (placePage s p.val page j.entry.tier).modPMem p.val (fun m => { m with job := none }) →
      (written = false ∨ 3 ≤ j.restarts) → allTrusted s = true → foundFine r.found = true → s.fab.home = [] →
      badIn s (memKey p.val (page * 65536)) 65536 = [] →
      ∃ t, exec (.pageMoveDone r page written) s = .next t ∧
        tierOf t p.val (page * 65536) = j.entry.tier ∧
        (∀ g, g ≠ page → tierOf t p.val (g * 65536) = tierOf s p.val (g * 65536)) ∧
        (t.part p.val).mem.job = some
          (match rest with
            | [] => { j with left := [], restarts := 0, taken := false }
            | q :: more =>
              if poolFree u p.val j.entry.tier = 0 then
                { j with left := [], restarts := 0, taken := false, status := 0x0B }
              else { j with left := q :: more, restarts := 0, taken := true }) ∧
        (∀ q, rest.head? = some q → poolFree u p.val j.entry.tier = 0 →
          (t.part p.val).mem.failAt = q * 65536) ∧ t.mem = s.mem ∧ t.counters = s.counters)) ∧
  (∀ (p : Part) (j : MigJob) (s : State), (s.part p.val).mem.job = some j → j.waiting = false → j.left = [] →
    ∃ t, exec (.migrationEntryDone p) s = .next t ∧ (t.part p.val).mem.job = none ∧
      (t.part p.val).mem.lastFail = (if j.status = 0 then (s.part p.val).mem.lastFail else j.status) ∧
      (j.entry.flags.testBit 1 = true → s.ownsCtr p.val j.entry.signalCounter = true →
        (t.counter j.entry.signalCounter).value =
          min 0x7FFF_FFFF_FFFF_FFFF ((s.counter j.entry.signalCounter).value + 1) ∧
        (t.counter j.entry.signalCounter).fault =
          ((s.counter j.entry.signalCounter).fault || (j.status != 0))) ∧
      (t.part p.val).mem.pageTier = (s.part p.val).mem.pageTier ∧ t.mem = s.mem ∧ t.lanes = s.lanes)

/-- R299, R301, R302, R317, R320, R392: an NVMe command that ends badly fails its request with 0x04, one
that does not end in NV_TIMEOUT with 0x03; with a volatile write cache the last write is followed by a
Flush. A drive that fails reaches STATE 2. A mapping register takes its defined bits, unless its region
would overlap another, which sets OVERLAP alone; the queue pairs on a ready drive follow (Table 09-3). The
patrol counts a corrected word and marks an uncorrectable one, in a region or outside all of them, and
changes no byte; it skips blank pages (R444). The model's own readings that this rests on:
notes/assumptions/44.md. -/
def Obligations.DrivesMappingsAndPatrol : Prop :=
  (∀ (d : Fin 8) (cmd p : Nat) (c : NvCmd) (j : AwlJob) (q : AwlReq) (s : State), nvCmd s d.val cmd = some c →
    awlPart s c.awl = some p → (s.awl c.awl).jobs = [j] → j.index = c.index → j.outstanding = [q] →
    q.id = c.req → j.status = 0 → (∀ n, ∀ x ∈ (s.awl n).jobs, x.issue = []) → c.last = none →
    (s.part c.part).last.jobs = [] → (0 < c.len ∨ c.flush = true) →
    (∀ (st : Word) (data : List Byte),
      (∃ t, exec (.nvmeCompletion d cmd false st data) s = .next t ∧
        t.nvCmds = s.nvCmds.filter (fun (x : NvCmd) => decide (x.id ≠ cmd)) ∧
        (∃ x, (t.awl c.awl).jobs = [x] ∧ x.index = j.index ∧ x.status = 4 ∧ x.outstanding = []) ∧
        t.mem = s.mem) ∧
      (c.write = true → c.flush = false → (s.drive d.val).cache = true → (s.drive d.val).state = 1 →
        q.read = false → q.way = .nvWrite → j.cached = [] → nvQueueFull s p d.val = false →
        (s.part p).xt.fetches.length ≤ 64 →
        ∃ t x k, exec (.nvmeCompletion d cmd true st data) s = .next t ∧
          t.nvCmds = (s.nvCmds.filter fun (x : NvCmd) => decide (x.id ≠ cmd)) ++ [k] ∧
          k.drive = d.val ∧ k.nsid = c.nsid ∧ k.flush = true ∧ .nvme d.val k.id 0 c.nsid 0 [] 0 ∈ t.out ∧
          (t.awl c.awl).jobs = [x] ∧ x.status = 0 ∧ x.outstanding.length = 1 ∧ t.mem = s.mem)) ∧
    ((c.sentAt + (s.part c.part).mem.nvTimeout ≤ s.now ∨ (s.drive d.val).state ≠ 1) →
      ∃ t, exec (.nvTimeout d cmd) s = .next t ∧ t.nvCmds = s.nvCmds.filter (fun (x : NvCmd) => decide (x.id ≠ cmd)) ∧
        (∃ x, (t.awl c.awl).jobs = [x] ∧ x.index = j.index ∧ x.status = 3 ∧ x.outstanding = []) ∧
        t.mem = s.mem)) ∧
  (∀ (d : Fin 8) (st : Word) (s : State),
    ((s.drive d.val).state = 1 → (∀ c ∈ s.nvCmds, c.drive ≠ d.val) →
      ∃ t, exec (.nvmeDriveFailed d st) s = .next t ∧ (t.drive d.val).state = 2 ∧
        (∀ n, n ≠ d.val → t.drive n = s.drive n) ∧ t.nvCmds = s.nvCmds ∧ t.awls = s.awls ∧ t.mem = s.mem) ∧
    ((s.drive d.val).state ≠ 1 → exec (.nvmeDriveFailed d st) s = .next s)) ∧
  (∀ (src : Src) (p : Part) (i : Fin 16) (v : Word) (s : State), hostReaches s src p →
    (∃ t, exec (.nvMappingWrite src p 0 false i v) s = .next t ∧
      (t.part p.val).mem.nbLocal.at i.val 0 = v &&& 0x8000_FFFF_FFFF_0000#64 ∧
      (∀ n, n ≠ i.val → (t.part p.val).mem.nbLocal.at n 0 = (s.part p.val).mem.nbLocal.at n 0) ∧
      (t.part p.val).mem.nvLocal = (s.part p.val).mem.nvLocal ∧ t.mem = s.mem) ∧
    (i.val < 8 →
      (nvOverlaps s p.val i.val
        (putMap (s.part p.val).mem true 0 i.val (v &&& 0x8000_FFFF_FFFF_0000#64)) = true →
        exec (.nvMappingWrite src p 0 true i v) s = .next (s.setPMem p.val { (s.part p.val).mem with
          nvOverlap := (s.part p.val).mem.nvOverlap ||| BitVec.ofNat 8 (2 ^ i.val) })) ∧
      (nvOverlaps s p.val i.val
        (putMap (s.part p.val).mem true 0 i.val (v &&& 0x8000_FFFF_FFFF_0000#64)) = false →
        ∃ t, exec (.nvMappingWrite src p 0 true i v) s = .next t ∧
          (t.part p.val).mem = putMap (s.part p.val).mem true 0 i.val (v &&& 0x8000_FFFF_FFFF_0000#64) ∧
          (∀ d, d < 8 → (s.drive d).state = 1 → usesDrive (s.part p.val).mem d = false →
            usesDrive (t.part p.val).mem d = true → .nvmeAdmin d (.createQueue p.val) ∈ t.out) ∧
          t.mem = s.mem))) ∧
  (∀ (ch : Fin 384) (a : Word) (ok ends : Bool) (s : State), s.regs.scrubOff = false →
    s.regs.scrubFrom ≤ s.now → channelOn s 1 ch.val = true → channelSuspect s 1 ch.val = false →
    ∃ t, exec (.patrolScrub (.hbm ch) a ok ends) s = .next t ∧ t.badWords = s.badWords ∧ t.mem = s.mem ∧
      t.ddrEcc = s.ddrEcc ∧
      (ok = true → (t.hbmEcc.at ch.val {}).corrected = min 0xFFFF_FFFF ((s.hbmEcc.at ch.val {}).corrected + 1)) ∧
      (ends = true → t.regs.scrubPasses = min 0xFFFF_FFFF (s.regs.scrubPasses + 1) ∧
        t.regs.scrubFrom = (s.now / patrolPeriod s + 1) * patrolPeriod s)) ∧
  (∀ (p : Part) (a : Word) (ends : Bool) (s : State), s.regs.scrubOff = false → s.regs.scrubFrom ≤ s.now →
    channelOn s (tierOf s p.val (a.toNat / 32 * 32)) (channelOf s p.val (a.toNat / 32 * 32)) = true →
    inRange s p.val onSled false (a.toNat / 32 * 32) 32 = true → suspectAt s p.val (a.toNat / 32 * 32) = false →
    blankPage s p.val (a.toNat / 32 * 32) = false →
    (∃ t, exec (.patrolScrub (.range p) a true ends) s = .next t ∧ t.badWords = s.badWords ∧ t.mem = s.mem ∧
      t.out = s.out ∧
      (tierOf s p.val (a.toNat / 32 * 32) ≠ 2 → t.ddrEcc = s.ddrEcc ∧
        (t.hbmEcc.at (channelOf s p.val (a.toNat / 32 * 32)) {}).corrected =
          min 0xFFFF_FFFF ((s.hbmEcc.at (channelOf s p.val (a.toNat / 32 * 32)) {}).corrected + 1))) ∧
    (∃ t, exec (.patrolScrub (.range p) a false ends) s = .next t ∧
      t.badWords.contains (memKey p.val (a.toNat / 32 * 32) / 32) = true ∧
      (∀ w, w ≠ memKey p.val (a.toNat / 32 * 32) / 32 → t.badWords.contains w = s.badWords.contains w) ∧
      t.mem = s.mem ∧
      t.regs.scrubPasses = (if ends then min 0xFFFF_FFFF (s.regs.scrubPasses + 1) else s.regs.scrubPasses))) ∧
  (∀ (p : Part) (a : Word) (ok ends : Bool) (s : State), blankPage s p.val (a.toNat / 32 * 32) = true →
    ∃ t, exec (.patrolScrub (.range p) a ok ends) s = .next t ∧ t.badWords = s.badWords ∧ t.mem = s.mem ∧
      t.hbmEcc = s.hbmEcc ∧ t.ddrEcc = s.ddrEcc)

/-- R338 to R341, Tables 10-5 and 10-6: a woken group powers its SerDes and its enabled ports train; a
trained port says HELLO; a good neighbour's HELLO brings it UP once a loop has been measured and this
module's own back through a loop does not; a port that is not UP in 12,000 us, hears nothing for 300 us or
meets another neighbour goes DOWN, and trains again 100 us later. The model's own readings that this rests
on: notes/assumptions/31.md. -/
def Obligations.LinksAreBroughtUp : Prop :=
  (∀ (g : Fin 9) (p : Nat) (s : State), (s.regs.state = 5 ∨ s.regs.state = 6 ∨ s.regs.state = 7) →
    (p = 2 * g.val ∨ p = 2 * g.val + 1) → portEnabled s p = true → portSuspect s p = false →
    (s.port p).state ≤ 1 →
    ∃ t, exec (.serdesGroupWake g) s = .next t ∧ (t.port p).state = 2 ∧ (t.port p).enteredAt = s.now ∧
      groupOn t g.val = true ∧ (∀ h, h < 9 → h ≠ g.val → groupOn t h = groupOn s h) ∧ t.mem = s.mem ∧
      t.lanes = s.lanes) ∧
  (∀ (p : PortNo) (s : State),
    ((s.port p.val).state = 2 → ∀ reversed : Bool, exec (.trainingDone p reversed) s =
      .next (s.setPort p.val { s.port p.val with
        state := 3, laneReversed := reversed, vls := [], helloAt := none, helloSentAt := none,
        echoed := false, creditChanged := false })) ∧
    ((s.port p.val).state = 2 ∨ (s.port p.val).state = 3 → (s.port p.val).reached = false →
      (s.port p.val).enteredAt + 12000 ≤ s.now →
      ∃ t, exec (.trainingTimeout p) s = .next t ∧ (t.port p.val).state = 5 ∧
        (t.port p.val).retrains = min 255 ((s.port p.val).retrains + 1) ∧ t.mem = s.mem ∧ t.lanes = s.lanes) ∧
    (∀ a, (s.port p.val).state = 4 → (s.port p.val).helloAt = some a → a + 300 ≤ s.now →
      ∃ t, exec (.helloMissing p) s = .next t ∧ (t.port p.val).state = 5 ∧
        (t.port p.val).retrains = min 255 ((s.port p.val).retrains + 1) ∧ t.mem = s.mem ∧ t.lanes = s.lanes) ∧
    ((s.port p.val).state = 5 → (s.port p.val).enteredAt + 100 ≤ s.now → portEnabled s p.val = true →
      portSuspect s p.val = false →
      exec (.downRetrain p) s = .next (s.setPort p.val { s.port p.val with
        state := 2, enteredAt := s.now, reached := false })) ∧
    ((s.port p.val).state = 3 ∨ (s.port p.val).state = 4 →
      (∀ a, (s.port p.val).helloSentAt = some a → a + 100 ≤ s.now) →
      ∃ t u, exec (.helloTimer p) s = .next t ∧ t.out = s.out ++ [.hello p.val u] ∧ u.echoRequest = true ∧
        u.device = s.fab.device ∧ u.serial = Config.serial ∧ u.state.toNat = s.regs.state % 256 ∧
        (t.port p.val).helloSentAt = some s.now ∧ (∀ n, n ≠ p.val → t.port n = s.port n) ∧ t.mem = s.mem)) ∧
  (∀ (p : PortNo) (u : HelloUnit) (s : State),
    ((s.port p.val).state = 3 → (s.port p.val).helloSentAt ≠ none → u.serial ≠ Config.serial →
      (u.device = 0xFFFF ∨ u.device ≠ s.fab.device) → (s.port p.val).echoed = true ∨ u.echoReply = true →
      ∃ t, exec (.hello p u) s = .next t ∧ (t.port p.val).state = 4 ∧ (t.port p.val).nbSerial = u.serial ∧
        (t.port p.val).nbDevice = u.device ∧ (t.port p.val).nbPort = u.port ∧
        (t.port p.val).helloAt = some s.now ∧ (∀ n, n ≠ p.val → t.port n = s.port n) ∧ t.mem = s.mem) ∧
    ((s.port p.val).state = 3 → (s.port p.val).echoed = false → u.echoReply = false →
      ∃ t, exec (.hello p u) s = .next t ∧ (t.port p.val).state = 3 ∧ (t.port p.val).nbSerial = u.serial ∧
        (∀ n, n ≠ p.val → t.port n = s.port n) ∧ t.mem = s.mem) ∧
    ((s.port p.val).state = 3 → u.serial = Config.serial →
      ∃ t, exec (.hello p u) s = .next t ∧ (t.port p.val).state = 3 ∧ (t.port p.val).looped = true ∧
        t.mem = s.mem) ∧
    ((s.port p.val).state = 4 → (s.port p.val).nbSerial ≠ u.serial →
      ∃ t, exec (.hello p u) s = .next t ∧ (t.port p.val).state = 5 ∧ t.mem = s.mem))

/-- R325 to R328, R335, R336, R340: an uncorrectable codeword is counted, ends the packet in reception, and
at FAB_UNCORR_LIMIT of them in 1,000 us the link goes DOWN; a packet of one unit joins the receive queue and
its VL counts the unit; FREED and SENT of the peer are taken per VL, a SENT ahead of what was received being
credited back; CREDIT and SYNC are sent when due. The model's own readings that this rests on:
notes/assumptions/31.md. -/
def Obligations.UnitsAndCreditsAreCounted : Prop :=
  ∀ (p : PortNo) (s : State), (s.port p.val).state = 4 →
    (((s.port p.val).uncorrAt.filter fun a => decide (s.now < a + 1000)).length + 1 < s.fab.uncorrLimit →
      ∃ t, exec (.codewordReceived p .uncorrectable) s = .next t ∧ (t.port p.val).state = 4 ∧
        (t.port p.val).uncorrectable = min 0xFFFF_FFFF ((s.port p.val).uncorrectable + 1) ∧
        (t.port p.val).rxUnitsNow = [] ∧ (t.port p.val).discarding = true ∧
        (t.port p.val).rxQueue = (s.port p.val).rxQueue ∧ t.mem = s.mem ∧ t.out = s.out) ∧
    (s.fab.uncorrLimit ≤ ((s.port p.val).uncorrAt.filter fun a => decide (s.now < a + 1000)).length + 1 →
      ∃ t, exec (.codewordReceived p .uncorrectable) s = .next t ∧ (t.port p.val).state = 5 ∧
        (t.port p.val).rxQueue = [] ∧ t.mem = s.mem) ∧
    (∀ (corrected : Bool) (b : BitVec 512), (s.port p.val).rxUnitsNow = [] → fld (bytesOf512 b) 6 1 ≤ 1 →
      ∃ t, exec (.codewordReceived p (.good corrected [{ first := true, second := false, bits := b }])) s = .next t ∧
        (t.port p.val).rxQueue = (s.port p.val).rxQueue ++ [bytesOf512 b] ∧ (t.port p.val).rxUnitsNow = [] ∧
        ((t.port p.val).vls.at (packetVl (bytesOf512 b)) {}).received =
          ((s.port p.val).vls.at (packetVl (bytesOf512 b)) {}).received + 1 ∧
        (∀ n, n ≠ p.val → t.port n = s.port n) ∧ t.mem = s.mem ∧ t.out = s.out) ∧
    (∀ counts : List (BitVec 32), counts.length = 8 →
      (∃ t, exec (.credit p counts) s = .next t ∧
        (∀ v, v < 8 → ((t.port p.val).vls.at v {}) =
          { (s.port p.val).vls.at v {} with peerFreed := counts.getD v 0 }) ∧
        (∀ n, n ≠ p.val → t.port n = s.port n) ∧ t.mem = s.mem) ∧
      (∃ t, exec (.sync p counts) s = .next t ∧
        (∀ v, v < 8 → ((t.port p.val).vls.at v {}).received = counts.getD v 0 ∧
          ((t.port p.val).vls.at v {}).freed = ((s.port p.val).vls.at v {}).freed +
            (counts.getD v 0 - ((s.port p.val).vls.at v {}).received)) ∧
        (∀ n, n ≠ p.val → t.port n = s.port n) ∧ t.mem = s.mem)) ∧
    ((s.port p.val).creditChanged = true ∨ (s.port p.val).creditAt + 10 ≤ s.now →
      ∃ t, exec (.creditTimer p) s = .next t ∧
        t.out = s.out ++ [.creditUnit p.val (freedCounts (s.port p.val))] ∧ (t.port p.val).creditAt = s.now ∧
        (t.port p.val).creditChanged = false ∧ (t.port p.val).vls = (s.port p.val).vls ∧
        (t.port p.val).txUnits = min (2 ^ 64 - 1) ((s.port p.val).txUnits + 1) ∧
        (∀ n, n ≠ p.val → t.port n = s.port n) ∧ t.mem = s.mem) ∧
    ((s.port p.val).syncAt + 64 ≤ s.now →
      ∃ t, exec (.syncTimer p) s = .next t ∧
        t.out = s.out ++ [.syncUnit p.val (sentCounts (s.port p.val))] ∧ (t.port p.val).syncAt = s.now ∧
        (t.port p.val).vls = (s.port p.val).vls ∧
        (t.port p.val).txUnits = min (2 ^ 64 - 1) ((s.port p.val).txUnits + 1) ∧
        (∀ n, n ≠ p.val → t.port n = s.port n) ∧ t.mem = s.mem)

/-- R330, R333, R335, R337, R342 to R344, R352, R404: PACKET_HEADER completes for every packet at the head
of a receive buffer: it is delivered when it is for this module, dropped and counted when its HOPS are used
up or no valid bank or entry routes it, and otherwise queued, with its HOPS lowered by 1, for the port that
routing chooses: with one candidate, whose port is UP, that port. PACKET_DELIVERED completes: a packet whose
CHECK is wrong is dropped and counted, a RELAY reaches the Perger controller (a request in the clear is
handled as one from a link of this module is, the answer to a relayed request goes to the requester, R401),
a READ, WRITE or ACK of its defined length has the effect of that command. PORT_TRANSMIT completes: an UP
port sends the packet that is next in turn, the only one it holds when there is credit for it. The model's
own readings that this rests on: notes/assumptions/31.md. -/
def Obligations.PacketsAreRouted : Prop :=
  (∀ (b : List Byte) (r : List (List Byte)) (s : State), s.fab.ownTx = b :: r → s.fab.device ≠ 0xFFFF →
    packetDest b = s.fab.device.toNat →
    exec (.packetHeader none) s =
      .next ((s.modFab fun f => { f with ownTx := r }).emit (.localDelivery b))) ∧
  (∀ (p : PortNo) (b : List Byte) (r : List (List Byte)) (s u : State), (s.port p.val).rxQueue = b :: r →
    (s.port p.val).state = 4 → s.fab.device ≠ 0xFFFF → heldBack s b = false → u = s.setPort p.val { s.port p.val with rxQueue := r } →
    (packetDest b = s.fab.device.toNat →
      ∃ t, exec (.packetHeader (some p)) s = .next t ∧ t.out = s.out ++ [.localDelivery b] ∧
        (t.port p.val).rxQueue = r ∧ t.mem = s.mem) ∧
    (packetDest b ≠ s.fab.device.toNat → packetHops b = 0 →
      ∃ t, exec (.packetHeader (some p)) s = .next t ∧ t.fab.dropHops = min 0xFFFF (s.fab.dropHops + 1) ∧
        (t.port p.val).rxQueue = r ∧ t.out = s.out ∧ t.mem = s.mem) ∧
    (packetDest b ≠ s.fab.device.toNat → packetHops b ≠ 0 →
      (routeEntry u b = none →
        ∃ t, exec (.packetHeader (some p)) s = .next t ∧ t.fab.dropBank = min 0xFFFF (s.fab.dropBank + 1) ∧
          t.out = s.out ∧ t.mem = s.mem) ∧
      (∀ (w : Word) (c : Nat), routeEntry u b = some (some w) → choose u p.val b w = some c → 16 ≤ b.length →
        ∃ t q, exec (.packetHeader (some p)) s = .next t ∧
          (t.port (candPort c)).txQueue = (u.port (candPort c)).txQueue ++ [q] ∧ q.input = p.val ∧
          packetDest q.bytes = packetDest b ∧ packetHops q.bytes = packetHops b - 1 ∧
          t.out = s.out ∧ t.mem = s.mem) ∧
      (∀ (w : Word) (o : Nat), (s.bank false).valid = true → (s.bank false).epoch = packetEpoch b →
        (s.bank false).routes.at (packetDest b) 0 = w → w.toNat.testBit 63 = true → w.toNat / 2 ^ 60 % 4 = 0 →
        o = w.toNat % 32 → o < 18 → o ≠ p.val → (s.port o).state = 4 → portSuspect s o = false → 16 ≤ b.length →
        ∃ t q, exec (.packetHeader (some p)) s = .next t ∧
          (t.port o).txQueue = (s.port o).txQueue ++ [q] ∧ q.input = p.val ∧
          packetDest q.bytes = packetDest b ∧ packetHops q.bytes = packetHops b - 1 ∧
          (t.port p.val).rxQueue = r ∧ t.out = s.out ∧ t.mem = s.mem))) ∧
  (∀ (b : List Byte) (s : State), s.fab.device ≠ 0xFFFF →
    (packetCheck b ≠ BitVec.ofNat 32 (fld b 12 4) →
      exec (.packetDelivered b) s =
        .next (s.modFab fun f => { f with dropCheck := min 0xFFFF (f.dropCheck + 1) })) ∧
    (packetCheck b = BitVec.ofNat 32 (fld b 12 4) → packetVl b / 2 = 0 → fld b 0x10 1 = 2 →
      1 ≤ fld b 0x12 2 → fld b 0x12 2 ≤ 4096 → packetLength b = packetUnits (fld b 0x12 2) →
      ∀ bs : List Byte, slice b 0x40 (fld b 0x12 2) = bs →
        (s.mgmt.relays = [] → mctpPlain bs = false → exec (.packetDelivered b) s = .next (s.emit
          (.class0 (packetSrc b) 2 (BitVec.ofNat 32 (fld b 0x14 4)) bs))) ∧
        (s.mgmt.relays = [] → mctpPlain bs = true → exec (.packetDelivered b) s =
          .next (mgmtBytesIn s (.relay (packetSrc b)) (bs.drop 5))) ∧
        (∀ (m : MHdr) (a : Nat), s.mgmt.relays = [(packetSrc b, m, a)] → s.now ≤ a + 10000000 →
          mctpPlain bs = false → m.path ≠ .mailbox → (∀ e, m.path ≠ .relay e) →
          exec (.packetDelivered b) s =
            .next ((s.modMgmt fun g => { g with relays := [] }).emit (.relayed m bs)))) ∧
    (packetCheck b = BitVec.ofNat 32 (fld b 12 4) →
      (packetVl b / 2 = 2 → fld b 0x10 1 = 1 → packetLength b = 1 →
        ∃ t, exec (.packetDelivered b) s = .next t ∧
          exec (.read (xtHdrOf b) (BitVec.ofNat 64 (fld b 0x20 8)) (fld b 0x28 2)) s = .next t) ∧
      (packetVl b / 2 = 2 → fld b 0x10 1 = 2 → packetLength b = packetUnits (fld b 0x28 2) →
        ∃ t, exec (.packetDelivered b) s = .next t ∧
          exec (.write (xtHdrOf b) (BitVec.ofNat 64 (fld b 0x20 8)) (fld b 0x28 2)
            (slice b 0x40 (fld b 0x28 2))) s = .next t) ∧
      (packetVl b / 2 = 3 → fld b 0x10 1 = 0x12 → packetLength b = 1 →
        ∃ t, exec (.packetDelivered b) s = .next t ∧
          exec (.ack { device := packetSrc b, cls := Fin.ofNat 3 (fld b 0x24 1),
                       session := BitVec.ofNat 32 (fld b 0x1C 4), cum := BitVec.ofNat 32 (fld b 0x20 4),
                       bitmap := BitVec.ofNat 64 (fld b 0x28 8), status := BitVec.ofNat 8 (fld b 0x12 1),
                       errPsn := BitVec.ofNat 32 (fld b 0x30 4),
                       ceEcho := (fld b 0x11 1).testBit 0 }) s = .next t))) ∧
  (∀ (p : PortNo) (e : Queued) (s : State), (s.port p.val).state = 4 →
    (nextTx (s.port p.val) = some e ∨
      (s.port p.val).txQueue = [e] ∧ e.input < 19 ∧ e.coming = false ∧
        dist32 ((s.port p.val).vls.at (packetVl e.bytes) {}).sent
            ((s.port p.val).vls.at (packetVl e.bytes) {}).peerFreed + packetLength e.bytes ≤
          (s.port p.val).credits.getD (packetVl e.bytes) 0) →
    ∃ t, exec (.portTransmit p) s = .next t ∧ t.out = s.out ++ [.forwarded p.val e.bytes] ∧
      (t.port p.val).txQueue = eraseFirst e (s.port p.val).txQueue ∧
      ((t.port p.val).vls.at (packetVl e.bytes) {}).sent =
        ((s.port p.val).vls.at (packetVl e.bytes) {}).sent + BitVec.ofNat 32 (packetLength e.bytes) ∧
      t.mem = s.mem ∧ t.lanes = s.lanes)

/-- R338, R342, R345, Tables 10-8, 10-10 and 10-12: DISABLE puts a port OFF, RETRAIN sends an UP port DOWN;
credits are taken while the port is OFF or IDLE_ONLY and they fit; a routing entry, FAB_CURRENT and
FAB_DEVICE take the written value; a bank that would be VALID under the EPOCH of the other VALID bank is
refused and sets CLASH alone. The model's own readings that this rests on: notes/assumptions/12.md. -/
def Obligations.FabricRegistersAreWritten : Prop :=
  (∀ (src : Src) (p : PortNo) (v : Word) (s : State), globalReaches s src (fpOff p.val 8) →
    (v.toNat.testBit 0 = true →
      ∃ t, exec (.disable src p v) s = .next t ∧ (t.port p.val).state = 0 ∧ (t.port p.val).disable = true ∧
        t.mem = s.mem ∧ t.lanes = s.lanes) ∧
    (v.toNat.testBit 0 = false → v.toNat.testBit 1 = true → (s.port p.val).state = 4 →
      ∃ t, exec (.retrain src p v) s = .next t ∧ (t.port p.val).state = 5 ∧
        (t.port p.val).retrains = min 255 ((s.port p.val).retrains + 1) ∧ t.mem = s.mem ∧ t.lanes = s.lanes)) ∧
  (∀ (src : Src) (p : PortNo) (v : Word) (all : List Nat) (s : State),
    globalReaches s src (fpOff p.val 0x18) →
    all = (s.port p.val).credits.take 4 ++
      [v.toNat % 65536, v.toNat / 65536 % 65536, v.toNat / 2 ^ 32 % 65536, v.toNat / 2 ^ 48] →
    ((∀ c ∈ all, 128 ≤ c) → all.sum ≤ 8192 → (s.port p.val).state ≤ 1 →
      exec (.fpCreditsWrite src p true v) s = .next (s.setPort p.val { s.port p.val with credits := all })) ∧
    ((∃ c ∈ all, c < 128) ∨ 8192 < all.sum ∨ 2 ≤ (s.port p.val).state →
      exec (.fpCreditsWrite src p true v) s = .next s)) ∧
  (∀ (src : Src) (b : Fin 2) (d : BitVec 16) (v : Word) (s : State),
    globalReaches s src (0x20_0000 + 0x8_0000 * b.val + 8 * d.toNat) →
    ∃ t, exec (.routeWrite src b d v) s = .next t ∧
      (t.bank (decide (b.val = 1))).routes.at d.toNat 0 = v &&& 0xB000_FFFF_FFFF_FFFF#64 ∧
      (∀ n, n ≠ d.toNat → (t.bank (decide (b.val = 1))).routes.at n 0 =
        (s.bank (decide (b.val = 1))).routes.at n 0) ∧
      t.bank (decide (b.val ≠ 1)) = s.bank (decide (b.val ≠ 1)) ∧ t.fab.device = s.fab.device ∧
      t.mem = s.mem) ∧
  (∀ (src : Src) (b : Fin 2) (v : Word) (s : State), globalReaches s src (0x30_0008 + 8 * b.val) →
    (v.toNat.testBit 63 = true → (s.bank (decide (b.val ≠ 1))).valid = true →
      (s.bank (decide (b.val ≠ 1))).epoch = v.toNat % 65536 →
      exec (.fabBankWrite src b v) s =
        .next (s.setBank (decide (b.val = 1)) { s.bank (decide (b.val = 1)) with clash := true })) ∧
    (v.toNat.testBit 63 = false ∨ (s.bank (decide (b.val ≠ 1))).valid = false ∨
        (s.bank (decide (b.val ≠ 1))).epoch ≠ v.toNat % 65536 →
      ∃ t, exec (.fabBankWrite src b v) s = .next t ∧
        (t.bank (decide (b.val = 1))).epoch = v.toNat % 65536 ∧
        (t.bank (decide (b.val = 1))).valid = v.toNat.testBit 63 ∧
        (t.bank (decide (b.val = 1))).routes = (s.bank (decide (b.val = 1))).routes ∧
        t.bank (decide (b.val ≠ 1)) = s.bank (decide (b.val ≠ 1)) ∧ t.mem = s.mem)) ∧
  (∀ (src : Src) (v : Word) (s : State),
    (globalReaches s src 0x30_0018 → exec (.fabCurrentWrite src v) s =
      .next (s.modFab fun f => { f with current := v.toNat.testBit 0 })) ∧
    (globalReaches s src 0x30_0000 → exec (.fabDeviceWrite src v) s =
      .next (s.modFab fun f => { f with device := v.setWidth 16 })))

/-- R386 to R388, R391, R392, R400, R525: a VF reads and writes HBM and DDR5 of its partition through BAR4
at START + x and changes no other byte, a read of an uncorrectable word being aborted, the PF has no BAR4; a
write of an MSI-X table entry changes that word, and one that unmasks a pending vector sends its message;
PERST_N low and a function-level reset clear MSI-X tables; an enumeration of port B gives the drive it finds
the lowest free number in STATE 1; SEND hands what MBX_REQUEST holds over: a management message is handled
as it stands there. The model's own readings that this rests on: notes/assumptions/10.md,
notes/assumptions/15.md, notes/assumptions/19.md. -/
def Obligations.HostPortsReachTheModule : Prop :=
  (∀ (p : Part) (off : Nat) (s : State), fnAnswers s (p.val + 1) 0 = true → s.code p.val ≠ 8 →
    s.fab.home = [] →
    (∀ n : Nat, inRange s p.val onSled false ((s.part p.val).hostWindow + off) n = true →
      readCode s p.val ((s.part p.val).hostWindow + off) n = 0 →
      (∃ t, exec (.hostBar4Access p.succ off (.read n none)) s = .next t ∧
        t.out = s.out ++ [.readBytes (p.val + 1) (loadBytes s p.val ((s.part p.val).hostWindow + off) n)] ∧
        t.mem = s.mem ∧ t.parts = s.parts ∧ t.mgmt = s.mgmt ∧ t.lanes = s.lanes) ∧
      ∀ w : Word, 0 < n → (s.part p.val).hostWindow + off + n ≤ benchBase →
        w.toNat / 32 * 32 < (s.part p.val).hostWindow + off + n →
        (s.part p.val).hostWindow + off < w.toNat / 32 * 32 + 32 →
        ∃ t, exec (.hostBar4Access p.succ off (.read n (some (w, false)))) s = .next t ∧
          t.out.getLast? = some (.completerAbort (p.val + 1)) ∧ t.mem = s.mem) ∧
    (∀ bytes : List Byte,
      (inRange s p.val onSledW false ((s.part p.val).hostWindow + off) bytes.length = true → allTrusted s = true →
        writeCode s p.val ((s.part p.val).hostWindow + off) bytes.length (fun _ => false) = 0 →
        badIn s (memKey p.val ((s.part p.val).hostWindow + off)) bytes.length = [] →
        ∃ t, exec (.hostBar4Access p.succ off (.write bytes)) s = .next t ∧
          (∀ i, i < bytes.length →
            memByte t.mem (memKey p.val ((s.part p.val).hostWindow + off) + i) = bytes.getD i 0) ∧
          memKeptBut s t (memKey p.val ((s.part p.val).hostWindow + off)) bytes.length ∧
          t.out = s.out ∧ t.lanes = s.lanes) ∧
      (inRange s p.val onSledW false ((s.part p.val).hostWindow + off) bytes.length = false →
        exec (.hostBar4Access p.succ off (.write bytes)) s = .next s))) ∧
  (∀ (off n : Nat) (found : Found) (bytes : List Byte) (s : State),
    exec (.hostBar4Access 0 off (.read n found)) s = .next (s.emit (.unsupported 0)) ∧
    exec (.hostBar4Access 0 off (.write bytes)) s = .next s) ∧
  (∀ s : State, s.regs.state ≠ 0 →
    ∃ t, exec (.perst true) s = .next t ∧ t.mgmt.functions = [] ∧ t.mgmt.linkA = false ∧
      t.mgmt.perstAlow = true ∧ t.parts = s.parts ∧ t.mem = s.mem) ∧
  (∀ (fn : Fn) (s : State), s.regs.state ≠ 0 → s.regs.state ≠ 9 →
    ∃ t, exec (.functionLevelReset fn) s = .next t ∧ t.mgmt.functions.find fn.val = none ∧
      (∀ n, n ≠ fn.val → t.mgmt.functions.find n = s.mgmt.functions.find n) ∧ t.parts = s.parts ∧
      t.mem = s.mem) ∧
  (∀ (fn : Fn) (slot : Fin 512) (w : Fin 16) (i : Nat) (v : Word) (f : Function) (s : State),
    pageAnswers s fn.val = true → pageWord fn.val slot.val w.val = .msix i → s.mgmt.functions.at fn.val {} = f →
    ∃ t, exec (.hostSlotWrite fn slot (.aligned w) v) s = .next t ∧
      (t.mgmt.functions.at fn.val {}).msix.at i 0 = (if i % 2 = 0 then v else BitVec.ofNat 64 (v.toNat % 2 ^ 33)) ∧
      (∀ k, k ≠ i → (t.mgmt.functions.at fn.val {}).msix.at k 0 = f.msix.at k 0) ∧
      t.out = s.out ++ (if i % 2 = 1 ∧ v.toNat.testBit 32 = false ∧ f.pending.getLsbD (i / 2) = true then
        [.msix fn.val (i / 2) (f.msix.at (i - 1) 0) (v.setWidth 32)] else []) ∧
      t.lanes = s.lanes ∧ t.parts = s.parts ∧ t.mem = s.mem) ∧
  (∀ (src : Src) (v : Word) (f : PciFunction) (s : State), globalReaches s src 0x3_0038 →
    v.toNat.testBit 0 = true → s.power.pcieBOn = true → s.mgmt.drives = [] → f.classCode = nvmeClass →
    formatOk f = true →
    ∃ t, exec (.rescan src v [f]) s = .next t ∧
      t.mgmt.drives = [(0, { state := 1, cache := f.writeCache, serial := f.serial })] ∧
      t.mgmt.pbFound = 1 ∧ t.mgmt.pbBusy = false ∧ t.parts = s.parts ∧ t.mem = s.mem) ∧
  (∀ (v : Word) (s : State), fnAnswers s 0 0x3_0000 = true → v.toNat.testBit 0 = true →
    (∀ u : State, s.mgmt.mbxBusy = false → u = s.modMgmt (fun m => { m with mbxBusy := true, mbxReady := false }) →
      (spdmInBox (mailboxBytes s) = true → exec (.send 0 v) s = .next u) ∧
      (spdmInBox (mailboxBytes s) = false → fld (mailboxBytes s) 2 1 % 4 = 0 → exec (.send 0 v) s =
        .next (mgmtBytesIn u .mailbox ((mailboxBytes s).take (16 + fld (mailboxBytes s) 12 2))))) ∧
    (s.mgmt.mbxBusy = true → exec (.send 0 v) s = .next s))

/-- R395 to R397, R399, R540: IDENTIFY answers the identity; READ_REG answers the registers from its offset
on and changes none of them; WRITE_REG writes what a register write at that offset writes; an offset outside
the blocks they reach is answered 0x0D and writes nothing. R543 to R547, R550 to R553: a register write that
is not an aligned 64-bit one is dropped and recorded; INT_ROUTE keeps 5 bits per source; a VF's write
outside its partition is dropped and recorded; INT_ENABLE raises the newly enabled sources that are set; the
key in MOD_RESET makes the module Verified. The model's own readings that this rests on:
notes/assumptions/12.md, notes/assumptions/14.md, notes/assumptions/15.md. -/
def Obligations.ManagementAndHostWriteRegisters : Prop :=
  (∀ (m : MHdr) (s : State),
     (requestTaken s m 1 true → m.length = 0 →
       ∃ t, exec (.identify m) s = .next t ∧ answeredWith t m 1 0 (identityBytes s) ∧ t.parts = s.parts ∧
         t.regs = s.regs ∧ t.mem = s.mem) ∧
     (∀ (off : BitVec 32) (n : Nat), requestTaken s m 2 true → m.length = 8 → 1 ≤ n → n ≤ 64 → off.toNat % 8 = 0 →
       ((regOffsets off.toNat n).all regReach = true →
         ∃ t, exec (.readReg m off n) s = .next t ∧
           answeredWith t m 2 0 ((regOffsets off.toNat n).flatMap fun o =>
             leBytes 8 (registerValue (noteAddress s m) o)) ∧
           t.parts = s.parts ∧ t.regs = s.regs ∧ t.fab = s.fab ∧ t.mem = s.mem) ∧
       ((regOffsets off.toNat n).all regReach = false →
         ∃ t, exec (.readReg m off n) s = .next t ∧ answeredWith t m 2 0x0D [] ∧ t.parts = s.parts ∧
           t.regs = s.regs ∧ t.mem = s.mem)) ∧
     (∀ (off : BitVec 32) (v : Word), requestTaken s m 3 (controlOk s m false) → m.length = 16 → off.toNat % 8 = 0 →
       (regReach off.toNat = true →
         ∃ t, exec (.writeReg m off [v]) s = .next t ∧ answeredWith t m 3 0 [] ∧
           t.regs = (registerPut s .mgmt off.toNat v).regs ∧ t.fab = (registerPut s .mgmt off.toNat v).fab ∧
           t.power = (registerPut s .mgmt off.toNat v).power ∧ t.parts = (registerPut s .mgmt off.toNat v).parts ∧
           t.mem = (registerPut s .mgmt off.toNat v).mem) ∧
       (regReach off.toNat = false →
         ∃ t, exec (.writeReg m off [v]) s = .next t ∧ answeredWith t m 3 0x0D [] ∧ t.regs = s.regs ∧
           t.fab = s.fab ∧ t.power = s.power ∧ t.parts = s.parts ∧ t.mem = s.mem))) ∧
  ((∀ (off : BitVec 26) (width : Nat) (v : Word) (s : State), fnAnswers s 0 off.toNat = true →
     (width ≠ 8 ∨ off.toNat % 8 ≠ 0 →
       ∃ t, exec (.registerWrite (.host 0) off width v) s = .next t ∧ t.regs.accessFn = 0 ∧
         t.regs.accessOffset = off.toNat ∧ t.regs.accessCount = min 0xFF_FFFF (s.regs.accessCount + 1) ∧
         t.parts = s.parts ∧ t.lanes = s.lanes ∧ t.mem = s.mem) ∧
     (off = 0x70 → width = 8 → exec (.registerWrite (.host 0) off width v) s =
       .next (s.modRegs fun r => { r with intRoute0 := v &&& 0x1F1F_1F1F_1F1F_1F1F#64 }))) ∧
   (∀ (p : Part) (off : BitVec 26) (v : Word) (s : State), fnAnswers s (p.val + 1) off.toNat = true →
     off.toNat % 8 = 0 → off.toNat < 0x5_0000 →
     ∃ t, exec (.registerWrite (.host p.succ) off 8 v) s = .next t ∧ t.regs.accessFn = p.val + 1 ∧
       t.regs.accessOffset = off.toNat ∧ t.regs.accessCount = min 0xFF_FFFF (s.regs.accessCount + 1) ∧
       t.parts = s.parts ∧ t.loader = s.loader ∧ t.power = s.power ∧ t.lanes = s.lanes ∧ t.mem = s.mem) ∧
   (∀ (src : Src) (v : Word) (s : State), globalReaches s src 0x68 →
     (∃ t, exec (.intEnableWrite src v) s = .next t ∧ t.regs.intEnable = v.setWidth 11 ∧
       t.parts = s.parts ∧ t.lanes = s.lanes ∧ t.mem = s.mem) ∧
     (s.regs.intEnable = 0 → (v.setWidth 11 : BitVec 11) = 1 → (intStatus s).testBit 0 = true →
       exec (.intEnableWrite src v) s =
         .next (raiseVector (s.modRegs fun r => { r with intEnable := 1 }) 0 (s.regs.intRoute0.toNat % 32)))) ∧
   (∀ (src : Src) (v : Word) (s : State), globalReaches s src 0x18 →
     (v.toNat % 65536 = 0x9640 → resetRefused s = false →
       ∃ t, exec (.modReset src v) s = .next t ∧ t.regs.state = 2 ∧ t.pattern = none ∧ t.parts = [] ∧
         t.lanes = [] ∧ t.mem = [] ∧ t.fab.device = 0xFFFF ∧ t.pending = s.pending) ∧
     (v.toNat % 65536 ≠ 0x9640 ∨ resetRefused s = true → exec (.modReset src v) s = .next s)))

/-- R405 to R409: the entries of a map are gathered until they are all there, the map then live unless a
check refuses it; MAP_SWITCH makes a live map CURRENT and the former one PREVIOUS; MAP_RETIRE removes
PREVIOUS; MAP_READ answers a live map. An epoch that is not live is answered 0x0B, and the maps stay. The
model's own readings that this rests on: notes/assumptions/17.md. -/
def Obligations.MapsAreInstalledSwitchedAndRetired : Prop :=
  ∀ (m : MHdr) (comp epoch : Nat) (s : State),
    (∀ (total first : Nat) (entries : List MapEntry), requestTaken s m 0x20 (controlOk s m false) →
      m.length = 16 + 8 * entries.length →
      installFields comp epoch total first entries.length = true →
      ((gather (s.mgmt.comps.at comp {}) epoch total first entries).length < total →
        ∃ t, exec (.mapInstall m comp epoch total first entries) s = .next t ∧ answeredWith t m 0x20 0 [0] ∧
          t.mgmt.comps.at comp {} = { s.mgmt.comps.at comp {} with
            install := some (epoch, total, gather (s.mgmt.comps.at comp {}) epoch total first entries) } ∧
          t.mem = s.mem) ∧
      (∀ n : CompMap, total ≤ (gather (s.mgmt.comps.at comp {}) epoch total first entries).length →
        n = { epoch := epoch,
              entries := (gather (s.mgmt.comps.at comp {}) epoch total first entries).map (·.2) } →
        (installRefused s comp n = false →
          ∃ t, exec (.mapInstall m comp epoch total first entries) s = .next t ∧ answeredWith t m 0x20 0 [1] ∧
            t.mgmt.comps.at comp {} = { s.mgmt.comps.at comp {} with
              install := none, next := (s.mgmt.comps.at comp {}).next ++ [n] } ∧ t.mem = s.mem) ∧
        (installRefused s comp n = true →
          ∃ t, exec (.mapInstall m comp epoch total first entries) s = .next t ∧ answeredWith t m 0x20 0x0B [] ∧
            (t.mgmt.comps.at comp {}).live = (s.mgmt.comps.at comp {}).live ∧ t.mem = s.mem))) ∧
    (requestTaken s m 0x21 (controlOk s m false) → m.length = 4 →
      (∀ n o : CompMap, (s.mgmt.comps.at comp {}).current = some o → (s.mgmt.comps.at comp {}).previous = none →
        (s.mgmt.comps.at comp {}).next = [n] → n.epoch = epoch →
        ∃ t, exec (.mapSwitch m comp epoch) s = .next t ∧ answeredWith t m 0x21 0 [] ∧
          (t.mgmt.comps.at comp {}).current = some n ∧ (t.mgmt.comps.at comp {}).previous = some o ∧
          (t.mgmt.comps.at comp {}).next = [] ∧ t.mem = s.mem) ∧
      ((∀ n ∈ (s.mgmt.comps.at comp {}).previous.toList ++ (s.mgmt.comps.at comp {}).next, n.epoch ≠ epoch) →
        ∃ t, exec (.mapSwitch m comp epoch) s = .next t ∧ answeredWith t m 0x21 0x0B [] ∧
          t.mgmt.comps = s.mgmt.comps ∧ t.mem = s.mem)) ∧
    (∀ o : CompMap, requestTaken s m 0x22 (controlOk s m false) → m.length = 4 → (s.mgmt.comps.at comp {}).previous = some o →
      (o.epoch = epoch →
        ∃ t, exec (.mapRetire m comp epoch) s = .next t ∧ answeredWith t m 0x22 0 [] ∧
          t.mgmt.comps.at comp {} = { s.mgmt.comps.at comp {} with previous := none }) ∧
      (o.epoch ≠ epoch →
        ∃ t, exec (.mapRetire m comp epoch) s = .next t ∧ answeredWith t m 0x22 0x0B [] ∧
          t.mgmt.comps = s.mgmt.comps ∧ t.mem = s.mem)) ∧
    (∀ (first : Nat) (x : CompMap), requestTaken s m 0x23 true → m.length = 6 → (s.mgmt.comps.at comp {}).live = [x] →
      x.epoch = epoch →
      ∃ t, exec (.mapRead m comp epoch first) s = .next t ∧ answeredWith t m 0x23 0 (mapBytes comp first x) ∧
        t.mgmt.comps = s.mgmt.comps ∧ t.mem = s.mem)

/-- R398, R401 to R403, R415, R551, R553: the event log is read and freed by SEQ; NOTICE_READ takes the
oldest notice for the tray controller; a telemetry period outside its range is answered 0x0B, and a report
goes out when it is due; ALIGN_SET names the sender of alignment; RELAY leaves as a packet, its reply
awaited. RESET makes the module Verified, with its pattern, structures and memory contents gone, unless the
module is in a state that refuses it. The model's own readings that this rests on: notes/assumptions/9.md,
notes/assumptions/18.md. -/
def Obligations.EventsTelemetryAlignmentAndReset : Prop :=
  (∀ (m : MHdr) (seq : Nat) (s : State),
    (requestTaken s m 0x30 true → m.length = 8 → ∃ t, exec (.eventsRead m seq) s = .next t ∧
      answeredWith t m 0x30 0
        (((s.mgmt.events.filter fun e => decide (seq ≤ e.seq)).take 127).flatMap eventBytes) ∧
      t.mgmt.events = s.mgmt.events ∧ t.mem = s.mem) ∧
    (requestTaken s m 0x31 (controlOk s m false) → m.length = 8 → s.mgmt.eventsLost = 0 →
      ∃ t, exec (.eventsAck m seq) s = .next t ∧ answeredWith t m 0x31 0 [] ∧
        t.mgmt.events = (s.mgmt.events.filter fun e => decide (seq < e.seq)) ∧
        t.mgmt.eventSeq = s.mgmt.eventSeq ∧ t.mem = s.mem)) ∧
  (∀ (m : MHdr) (x : Nat × List Byte) (r : List (Nat × List Byte)) (s : State), requestTaken s m 0x32 true →
    m.length = 0 → s.mgmt.noticeQueue = x :: r →
    ∃ t, exec (.noticeRead m) s = .next t ∧ answeredWith t m 0x32 0 x.2 ∧ t.mgmt.noticeQueue = r ∧
      t.mem = s.mem) ∧
  (∀ (m : MHdr) (period : Nat) (s : State), requestTaken s m 0x40 (controlOk s m true) → m.length = 4 →
    ((period = 0 ∨ 10 ≤ period ∧ period ≤ 60000) →
      ∃ t, exec (.telemetrySet m period) s = .next t ∧ answeredWith t m 0x40 0 [] ∧
        t.mgmt.telemetryMs = period ∧ t.mem = s.mem) ∧
    (period ≠ 0 → (period < 10 ∨ 60000 < period) →
      ∃ t, exec (.telemetrySet m period) s = .next t ∧ answeredWith t m 0x40 0x0B [] ∧
        t.mgmt.telemetryMs = s.mgmt.telemetryMs ∧ t.mem = s.mem)) ∧
  (∀ s : State, s.regs.state ≠ 0 → s.mgmt.telemetryMs ≠ 0 →
    s.mgmt.telemetryAt + 1000 * s.mgmt.telemetryMs ≤ s.now →
    ∃ t, exec .telemetry s = .next t ∧ t.mgmt.telemetryAt = s.now ∧ t.mgmt.noticeCount = s.mgmt.noticeCount + 1 ∧
      (s.mgmt.noticeSession ≠ none → ∃ bytes,
        t.out.getLast? = some (.notice s.mgmt.noticeVia 0x8001 (s.mgmt.noticeCount + 1) bytes)) ∧ t.mem = s.mem) ∧
  (∀ (m : MHdr) (source : Byte) (d : Nat) (targets : List Nat) (s : State),
    requestTaken s m 0x41 (controlOk s m false) → m.length = 4 + 2 * targets.length → targets.length ≤ 64 →
    ∃ t, exec (.alignSet m source d targets) s = .next t ∧ answeredWith t m 0x41 0 [] ∧
      t.mgmt.alignSource = (source == 1) ∧ t.mgmt.alignFrom = d ∧ t.mgmt.alignTargets = targets ∧
      t.mem = s.mem) ∧
  (∀ (m : MHdr) (s : State), requestTaken s m 0x60 (controlOk s m true) → m.length = 0 →
    (resetRefused s = false →
      ∃ t, exec (.reset m) s = .next t ∧ answeredWith t m 0x60 0 [] ∧ t.regs.state = 2 ∧ t.pattern = none ∧
        t.parts = [] ∧ t.lanes = [] ∧ t.counters = [] ∧ t.blocks = [] ∧ t.mem = [] ∧
        t.fab.device = 0xFFFF ∧ t.pending = s.pending) ∧
    (resetRefused s = true →
      ∃ t, exec (.reset m) s = .next t ∧ answeredWith t m 0x60 0x0B [] ∧ t.pattern = s.pattern ∧
        t.parts = s.parts ∧ t.mem = s.mem ∧ t.regs = s.regs)) ∧
  (∀ (m : MHdr) (d : Nat) (bytes : List Byte) (s : State), mgmtHears s m 0 = true →
    d ≠ s.fab.device.toNat → bytes ≠ [] → bytes.length ≤ 4096 → s.fab.device ≠ 0xFFFF →
    ∃ t, exec (.relay m d bytes) s = .next t ∧
      t.fab = { s.fab with ownTx := s.fab.ownTx ++ [class0Bytes s d false 2 0 bytes] } ∧
      t.mgmt.relays.getLast? = some (d, m, s.now) ∧ t.out = s.out ∧ t.parts = s.parts ∧ t.mem = s.mem)

/-- R422 to R424, R428, R439, R441: slot 12 while empty is written over I3C without a signature; every other
key and the policy change only under the owner's signature with a higher COUNTER, which is then
SLOT_COUNTER, and are answered 0x0B without one; FW_STAGE writes the copy that did not boot alone; a binding
is taken under a signer's signature alone. Nothing else of the trust state changes. The model's own readings
that this rests on: notes/assumptions/33.md, notes/assumptions/34.md. -/
def Obligations.OwnerKeysPolicyAndFirmware : Prop :=
  ∀ (m : MHdr) (s : State),
    (∀ (counter : Word) (key signature : List Byte), trustTaken s m true → overI3c m.path = true →
      slotKey s 12 = [] → key.length = 68 → key.all (· == 0) = false →
      ∃ t, exec (.slotWrite m 12 counter key signature) s = .next t ∧ trustAnswered t m 3 0 [] ∧
        slotKey t 12 = key ∧ (∀ n, n ≠ 12 → slotKey t n = slotKey s n) ∧
        t.trust.slotCounter = s.trust.slotCounter ∧ t.mem = s.mem) ∧
    (∀ (slot : Nat) (counter : Word) (key signature : List Byte), trustTaken s m (managed s m) →
      (slot ≠ 12 ∨ slotKey s 12 ≠ []) → key.length = 68 →
      ∃ t, exec (.slotWrite m slot counter key signature) s = .next t ∧ t.parts = s.parts ∧ t.mem = s.mem ∧
        (if slot ≤ 12 ∧ ownerSigned s 3 counter key signature = true then
          trustAnswered t m 3 0 [] ∧ slotKey t slot = (if key.all (· == 0) then [] else key) ∧
          (∀ n, n ≠ slot → slotKey t n = slotKey s n) ∧ t.trust.slotCounter = counter.toNat
         else trustAnswered t m 3 0x0B [] ∧ t.trust = s.trust)) ∧
    (∀ (counter value : Word) (signature : List Byte), trustTaken s m (managed s m) →
      ∃ t, exec (.policySet m counter value signature) s = .next t ∧ t.parts = s.parts ∧ t.mem = s.mem ∧
        (if ownerSigned s 4 counter (leBytes 8 value.toNat) signature = true then
          trustAnswered t m 4 0 [] ∧
          t.trust = { s.trust with bindRequired := value.toNat.testBit 0, slotCounter := counter.toNat }
         else trustAnswered t m 4 0x0B [] ∧ t.trust = s.trust)) ∧
    (∀ (kind off : Nat) (bytes : List Byte),
      trustTaken s m (overEthernet m.path && inSession s m 8) → 1 ≤ kind → kind ≤ 4 →
      ∃ t, exec (.fwStage m kind off bytes) s = .next t ∧ trustAnswered t m 6 0 [] ∧
        slice ((t.trust.copies.at (2 * kind + (if s.trust.bootedB.contains kind then 0 else 1)) {}).bytes) off
          bytes.length = bytes ∧
        (∀ k, k ≠ 2 * kind + (if s.trust.bootedB.contains kind then 0 else 1) →
          t.trust.copies.find k = s.trust.copies.find k) ∧
        t.trust.bootedB = s.trust.bootedB ∧ t.trust.fwDigest = s.trust.fwDigest ∧ t.mem = s.mem) ∧
    (∀ record signature : List Byte, trustTaken s m true → record.length = 0x30 + 8 * fld record 6 2 →
      slice record 0 6 = [0x4C, 0x4E, 0x57, 0x42, 1, 0] → fld record 8 1 ≤ 7 → 1 ≤ fld record 6 2 →
      fld record 6 2 ≤ 4096 →
      rising ((List.range (fld record 6 2)).map fun k => fld record (0x30 + 8 * k) 8) = true →
      s.trust.bindings = [] →
      ∃ t, exec (.bind m record signature) s = .next t ∧ t.mem = s.mem ∧
        (if slotKey s (fld record 8 1) ≠ [] ∧
            xmssVerify (slotKey s (fld record 8 1)) (shake256 record 32) signature = true then
          trustAnswered t m 7 0 [] ∧ t.trust.bindings =
            [{ digest := slice record 0x10 32,
               serials := ((List.range (fld record 6 2)).map fun k => fld record (0x30 + 8 * k) 8) }]
         else trustAnswered t m 7 0x0B [] ∧ t.trust = s.trust))

/-- R440, R442, R445 to R448: VERIFY_WEIGHTS waits for the hash of the model's weights, which verifies the
model when it is the DIGEST of its piece and fails it otherwise; KEY_ROTATE makes a new generation while one
is live, the sweep rewrites the pages of the older one, KEY_RETIRE needs FORCE, and the older generation is
retired when no page or reader of it is left. Page tags and generations change in no other way. The model's
own readings that this rests on: notes/assumptions/34.md. -/
def Obligations.WeightsAndGenerations : Prop :=
  (∀ (m : MHdr) (part model : Byte) (s : State),
    trustTaken s m (decide (m.path = .mailbox) || (overEthernet m.path && inSession s m 8)) →
    s.code part.toNat ≠ 255 → s.code part.toNat ≠ 8 →
    modelSet s part.toNat model.toNat = true → weightsOf s part.toNat model.toNat ≠ none →
    exec (.verifyWeights m part model) s =
      .next (s.modTrust fun t => { t with hashing := t.hashing ++ [(part.toNat, model.toNat, m)] })) ∧
  (∀ (p : Part) (model : Byte) (m : MHdr) (w : ModelPiece) (e : PlaceEntry) (s : State),
    s.trust.hashing = [(p.val, model.toNat, m)] → s.code p.val ≠ 8 → s.code p.val ≠ 255 →
    s.model p.val model.toNat = some w → weightsOf s p.val model.toNat = some e → onSled e = true →
    readCode s p.val e.start w.weightBytes = 0 → s.trust.bindRequired = false → s.fab.home = [] →
    (shake256 (loadBytes s p.val e.start w.weightBytes) 32 = w.digest →
      ∃ t, exec (.verifyWeightsDone p model) s = .next t ∧ trustAnswered t m 8 0 [1] ∧
        (t.part p.val).trust.verified.contains model.toNat = true ∧ t.trust.hashing = [] ∧ t.mem = s.mem) ∧
    (shake256 (loadBytes s p.val e.start w.weightBytes) 32 ≠ w.digest →
      ∃ t, exec (.verifyWeightsDone p model) s = .next t ∧ trustAnswered t m 8 0 [2] ∧
        (t.part p.val).trust.verified = (s.part p.val).trust.verified.erase model.toNat ∧
        (t.part p.val).trust.verifyFail.at model.toNat 0 = 2 ∧ t.trust.hashing = [] ∧ t.mem = s.mem)) ∧
  (∀ (m : MHdr) (part : Byte) (s : State),
    trustTaken s m (inSession s m 10 || (overEthernet m.path && inSession s m 8)) →
    s.code part.toNat ≠ 255 → s.code part.toNat ≠ 8 →
    ((s.part part.toNat).trust.twoLive = false →
      ∃ t, exec (.keyRotate m part) s = .next t ∧ trustAnswered t m 9 0 [] ∧
        (t.part part.toNat).trust.newest = (s.part part.toNat).trust.newest % 255 + 1 ∧
        (t.part part.toNat).trust.older = (s.part part.toNat).trust.newest ∧
        (t.part part.toNat).trust.tags = (s.part part.toNat).trust.tags ∧ t.mem = s.mem) ∧
    ((s.part part.toNat).trust.twoLive = true →
      ∃ t, exec (.keyRotate m part) s = .next t ∧ trustAnswered t m 9 0x0B [] ∧ t.parts = s.parts ∧
        t.mem = s.mem)) ∧
  (∀ (p : Part) (page : Nat) (x : PTrust) (s : State), (s.part p.val).trust = x → x.sweeping = true →
    x.older ≠ 0 → x.tags.at page 0 = x.older → x.stuckPages.contains page = false →
    ∀ r : SweepRead,
    (r.written = true → x.restartsAt page < 3 → exec (.sweepPageDone p page r) s =
      .next (s.setTrust p.val { x with sweepAt := page, sweepRestarts := x.restartsAt page + 1 })) ∧
    (r.written = false ∨ 3 ≤ x.restartsAt page → s.fab.home = [] →
      (placeOf s p.val (page * 65536) = .own → foundFine r.found = true → allTrusted s = true →
        badIn s (memKey p.val (page * 65536)) 65536 = [] →
        ∃ t, exec (.sweepPageDone p page r) s = .next t ∧
          (t.part p.val).trust.tags = x.tags.put page x.newest ∧ (t.part p.val).trust.newest = x.newest ∧
          (t.part p.val).trust.stuck = x.stuck ∧ t.mem = s.mem) ∧
      (placeOf s p.val (page * 65536) = .own ∧ badIn s (memKey p.val (page * 65536)) 65536 ≠ [] ∨
          (∃ d n b, placeOf s p.val (page * 65536) = .nvme d n b ∧ (r.driveOk = false ∨ (s.drive d).state ≠ 1)) →
        ∃ t, exec (.sweepPageDone p page r) s = .next t ∧ (t.part p.val).trust.tags = x.tags ∧
          (t.part p.val).trust.stuck = min 0xFFFF_FFFF (x.stuck + 1) ∧ t.mem = s.mem))) ∧
  (∀ (m : MHdr) (part : Byte) (s : State), trustTaken s m (overEthernet m.path && inSession s m 8) →
    s.code part.toNat ≠ 255 → s.code part.toNat ≠ 8 → (s.part part.toNat).trust.twoLive = true →
    (∃ t, exec (.keyRetire m part true) s = .next t ∧ trustAnswered t m 0x0A 0 [] ∧
      (t.part part.toNat).trust = { (s.part part.toNat).trust with sweeping := false, forced := true } ∧
      t.mem = s.mem) ∧
    (∃ t, exec (.keyRetire m part false) s = .next t ∧ trustAnswered t m 0x0A 0x0B [] ∧ t.parts = s.parts ∧
      t.mem = s.mem)) ∧
  (∀ (p : Part) (s : State), (s.part p.val).trust.twoLive = true →
    ((s.part p.val).trust.forced = true ∨ (s.part p.val).trust.olderPages = []) → keyReaders s p.val = 0 →
    ∃ t, exec (.generationRetired p) s = .next t ∧ (t.part p.val).trust.twoLive = false ∧
      (t.part p.val).trust.newest = (s.part p.val).trust.newest ∧
      (t.part p.val).trust.tags = (s.part p.val).trust.tags ∧ t.mem = s.mem)

/-- R432 to R434, R436, R438: REPORT, CHALLENGE and KEY_EXCHANGE wait for an identity signature, at most 64
of them; a signature carries the next index, which is used for no other; without a reservation in flash none
is given. ENDORSEMENT answers the identity key and its signature. The model's own readings that this rests
on: notes/assumptions/33.md. -/
def Obligations.IdentitySignaturesAreSpentOnce : Prop :=
  (∀ (m : MHdr) (scope : Byte) (nonce : List Byte) (s : State), trustTaken s m true → nonce.length = 32 →
    (s.trust.sigQueue.length < 64 → exec (.report m scope nonce) s = .next ((noteAddress s m).modTrust fun t =>
      { t with sigQueue := t.sigQueue ++ [{ m := m, kind := 0, body := scope :: nonce }] })) ∧
    (64 ≤ s.trust.sigQueue.length → ∃ t, exec (.report m scope nonce) s = .next t ∧
      spdmAnswered t m spdmVendor false errBusy ∧ t.trust = s.trust ∧ t.mem = s.mem)) ∧
  (∀ (m : MHdr) (nonce : List Byte) (s : State), spdmHears s m = true →
    (s.trust.sigQueue.length < 64 → exec (.challenge m nonce) s = .next ((noteAddress s m).modTrust fun t =>
      { t with sigQueue := t.sigQueue ++ [{ m := m, kind := 1, body := nonce }] })) ∧
    (64 ≤ s.trust.sigQueue.length → ∃ t, exec (.challenge m nonce) s = .next t ∧
      spdmAnswered t m spdmChallenge false errBusy ∧ t.trust = s.trust ∧ t.mem = s.mem)) ∧
  (∀ (m : MHdr) (key signature : List Byte) (s : State), spdmHears s m = true →
    (slotKey s (pathSlot m.path) = [] ∨ slotKey s (pathSlot m.path) ≠ key →
      ∃ t, exec (.keyExchange m key signature) s = .next t ∧ spdmAnswered t m spdmKeyExchange false errInvalid ∧
        t.trust = s.trust ∧ t.mem = s.mem) ∧
    (slotKey s (pathSlot m.path) = key → key ≠ [] → s.trust.sessions.length < 4 → s.trust.sigQueue.length < 64 →
      ∃ t, exec (.keyExchange m key signature) s = .next t ∧ t.mem = s.mem ∧
        (if xmssVerify key (freeBytes s.draws 48) signature = true then
          t.out = s.out ∧ t.trust = { s.trust with sigQueue := s.trust.sigQueue ++
            [{ m := m, kind := 2, body := key, slot := pathSlot m.path }] }
         else t.trust = s.trust ∧ spdmAnswered t m spdmKeyExchange false errInvalid))) ∧
  (∀ (j : SigJob) (rest : List SigJob) (ok : Bool) (s : State), s.trust.sigQueue = j :: rest → j.kind = 1 →
    (s.trust.identNext < s.trust.identLimit ∨ s.trust.identNext + 4096 ≤ 2 ^ 40 ∧ ok = true →
      ∃ t g, exec (.signatureDone ok) s = .next t ∧ spdmAnswered t j.m spdmChallenge true g ∧
        g.take 5 = (leBytes 5 s.trust.identNext).reverse ∧ t.trust.identNext = s.trust.identNext + 1 ∧
        t.trust.identNext ≤ t.trust.identLimit ∧ t.trust.sigQueue = rest ∧ t.mem = s.mem) ∧
    (s.trust.identLimit ≤ s.trust.identNext → ok = false →
      ∃ t, exec (.signatureDone ok) s = .next t ∧ spdmAnswered t j.m spdmChallenge false [0x0B] ∧
        t.trust.identNext = s.trust.identNext ∧ t.trust.sigQueue = rest ∧ t.mem = s.mem)) ∧
  (∀ (m : MHdr) (s : State), trustTaken s m true →
    ∃ t, exec (.endorsement m) s = .next t ∧
      trustAnswered t m 2 0 (identityKey ++ (List.range 2820).map Config.endorsement) ∧ t.trust = s.trust ∧
      t.mem = s.mem)

/-- R426, R435, R398: the SPDM version, capabilities and algorithms are answered and change nothing but the
count of free values; ENDORSEMENT is answered at once, REPORT, CHALLENGE and KEY_EXCHANGE with the next
identity signature (R432 to R438), KEY_EXCHANGE then opening a session; HEARTBEAT, KEY_UPDATE and
END_SESSION act on the session they come in and are refused outside one; a chunked request is gathered in
order, and a whole one that carries a trust operation runs it, a long response read in order. The model's
own readings that this rests on: notes/assumptions/32.md. -/
def Obligations.SpdmSessionsAndChunks : Prop :=
  ∀ (m : MHdr) (s : State), spdmHears s m = true →
    (∃ t, exec (.getVersion m) s = .next t ∧ spdmAnswered t m 0x84 true [0x00, 0x01, 0x00, 0x13] ∧ t.trust = s.trust ∧
      t.draws = s.draws ∧ t.mem = s.mem) ∧
    (∃ t ct sizes, exec (.getCapabilities m) s = .next t ∧
      spdmAnswered t m 0xE1 true ([0] ++ ct ++ [0, 0] ++ leBytes 4 capabilityFlags ++ sizes) ∧ t.trust = s.trust ∧
      t.draws = s.draws + 1 ∧ t.mem = s.mem) ∧
    (∃ t, exec (.negotiateAlgorithms m) s = .next t ∧
      spdmAnswered t m 0xE3 true (algorithms s.draws) ∧ t.trust = s.trust ∧
      t.draws = s.draws + 1 ∧ t.mem = s.mem) ∧
    (m.length = m.received → ∃ t, exec (.endorsement m) s = .next t ∧
      trustAnswered t m 2 0 (identityKey ++ (List.range 2820).map Config.endorsement) ∧ t.trust = s.trust ∧
      t.mem = s.mem) ∧
    (∀ ok : Bool, s.trust.sigQueue = [] → s.trust.identNext < s.trust.identLimit →
      (∀ (scope : Byte) (nonce : List Byte), m.length = m.received → nonce.length = 32 →
        ∃ t u g, exec (.report m scope nonce) s = .next t ∧ exec (.signatureDone ok) t = .next u ∧
          trustAnswered u m 1 0 (reportBody s scope.toNat nonce ++ g) ∧
          g.take 5 = (leBytes 5 s.trust.identNext).reverse ∧ u.trust.identNext = s.trust.identNext + 1 ∧
          u.trust.sigQueue = [] ∧ u.mem = s.mem) ∧
      (∀ nonce : List Byte, ∃ t u g, exec (.challenge m nonce) s = .next t ∧ exec (.signatureDone ok) t = .next u ∧
        spdmAnswered u m spdmChallenge true g ∧ g.take 5 = (leBytes 5 s.trust.identNext).reverse ∧
        u.trust.identNext = s.trust.identNext + 1 ∧ u.trust.sigQueue = [] ∧ u.mem = s.mem) ∧
      (∀ key signature : List Byte, slotKey s (pathSlot m.path) = key → key ≠ [] → s.trust.sessions = [] →
        ∃ t u, exec (.keyExchange m key signature) s = .next t ∧ exec (.signatureDone ok) t = .next u ∧
          u.mem = s.mem ∧
          (if xmssVerify key (freeBytes s.draws 48) signature = true then
            u.trust.sessions = [{ id := 1, path := m.path, slot := pathSlot m.path }] ∧
            ∃ g, spdmAnswered u m spdmKeyExchange true (leBytes 4 1 ++ g)
           else u = t ∧ u.trust = s.trust ∧ spdmAnswered u m spdmKeyExchange false errInvalid))) ∧
    (sessionOf s m = none → ∃ t u w, exec (.heartbeat m) s = .next t ∧ exec (.keyUpdate m) s = .next u ∧
      exec (.endSession m) s = .next w ∧ spdmAnswered t m 0xE8 false errInvalid ∧
      spdmAnswered u m 0xE9 false errInvalid ∧ spdmAnswered w m 0xEC false errInvalid ∧
      t.trust = s.trust ∧ u.trust = s.trust ∧ w.trust = s.trust) ∧
    (∀ x : SpdmSession, sessionOf s m = some x → s.trust.sessions = [x] →
      ∃ t u w, exec (.heartbeat m) s = .next t ∧ exec (.keyUpdate m) s = .next u ∧
        exec (.endSession m) s = .next w ∧ spdmAnswered t m 0xE8 true [] ∧ spdmAnswered u m 0xE9 true [] ∧
        spdmAnswered w m 0xEC true [] ∧ t.trust = s.trust ∧
        u.trust.sessions = [{ x with generation := x.generation + 1 }] ∧ w.trust.sessions = [] ∧
        (w.mgmt.noticeSession = none ∨ w.mgmt.noticeSession = s.mgmt.noticeSession) ∧
        w.mgmt.noticeSession ≠ some x.id) ∧
    (∀ (handle chunk : Nat) (bytes : List Byte), s.trust.chunks = [] →
      (chunk = 0 → ∃ t u, exec (.chunkSend m handle 0 false bytes) s = .next t ∧
        exec (.chunkSend m handle 0 true bytes) s = .next u ∧ spdmAnswered t m 0x85 true [] ∧
        (vendorRequest bytes = false → spdmAnswered u m 0x85 true [] ∧ u.trust.chunks = []) ∧
        (vendorRequest bytes = true → bytes.length = 21 → fld bytes 13 1 = 2 → fld bytes 17 4 = 0 →
          trustAnswered u m 2 0 (identityKey ++ (List.range 2820).map Config.endorsement)) ∧
        t.trust.chunks = [{ path := m.path, session := m.session, handle := handle, next := 1, bytes := bytes }] ∧
        t.mem = s.mem) ∧
      (chunk ≠ 0 → ∃ t, exec (.chunkSend m handle chunk false bytes) s = .next t ∧
        spdmAnswered t m 0x85 false errInvalid ∧ t.trust = s.trust)) ∧
    (∀ (c : ChunkXfer) (chunk : Nat), s.trust.chunks = [c] → sameXfer c m c.handle true = true →
      (chunk = c.next → ∃ t, exec (.chunkGet m c.handle chunk) s = .next t ∧
        spdmAnswered t m 0x86 true (slice c.bytes (4064 * chunk) 4064) ∧
        t.trust.chunks = (if c.bytes.length ≤ 4064 * (chunk + 1) then [] else [{ c with next := chunk + 1 }]) ∧
        t.mem = s.mem) ∧
      (chunk ≠ c.next → ∃ t, exec (.chunkGet m c.handle chunk) s = .next t ∧
        spdmAnswered t m 0x86 false errInvalid ∧ t.trust = s.trust))

/-- R509 to R511: STAND_IN resets an empty spare that is Open and gives it the FAB_DEVICE of the failed
device; TEARDOWN takes the composition from the module, and of one it does not have changes nothing. R425,
R450, R451, R454 to R458: a scrub that ends leaves every byte of its partition's range zero, no other
partition's range changed, and the partition Patterned; RECLAIM scrubs the partitions first, and empties the
key slots and the retained patterns; a debug unlock needs a token, is counted whether it is refused or
taken, and ends with DBG_LOCK, which lets go what a full one halted. The model's own readings that this
rests on: notes/assumptions/9.md, notes/assumptions/35.md. -/
def Obligations.SparesTeardownAndScrubs : Prop :=
  ((∀ (m : MHdr) (d : Nat) (g : ModulePiece) (s : State), recoveryTaken s m 0x53 2 → s.modulePiece = some g →
     s.faults.stoodIn.toNat ≠ d →
     (g.flags.testBit 2 = true → s.regs.state = 5 → definedParts s = [] → d < 65536 →
       ∃ t, exec (.standIn m d) s = .next t ∧ answeredWith t m 0x53 0 [] ∧ t.fab.device.toNat = d ∧
         t.faults.stoodIn.toNat = d ∧ t.regs.state = 2 ∧ t.pattern = none ∧ t.mem = [] ∧
         t.faults.rsn = m.rsn) ∧
     (g.flags.testBit 2 = false ∨ s.regs.state ≠ 5 ∨ definedParts s ≠ [] →
       ∃ t, exec (.standIn m d) s = .next t ∧ answeredWith t m 0x53 0x0B [] ∧ t.fab = s.fab ∧
         t.regs = s.regs ∧ t.pattern = s.pattern ∧ t.parts = s.parts ∧ t.mem = s.mem)) ∧
   (∀ (m : MHdr) (comp : Nat) (s : State), recoveryTaken s m 0x54 2 →
     ((s.mgmt.comps.at comp {}).live = [] →
       ∃ t, exec (.teardown m comp) s = .next t ∧ answeredWith t m 0x54 0 [] ∧ t.parts = s.parts ∧
         t.mgmt.comps = s.mgmt.comps ∧ t.mem = s.mem) ∧
     ((s.mgmt.comps.at comp {}).live ≠ [] →
       ∃ t, exec (.teardown m comp) s = .next t ∧ answeredWith t m 0x54 0 [] ∧
         t.mgmt.comps.find comp = none ∧ (∀ c, c ≠ comp → t.mgmt.comps.find c = s.mgmt.comps.find c) ∧
         t.regs.state = s.regs.state ∧ t.faults.rsn = m.rsn ∧ t.pattern = s.pattern))) ∧
  ((∀ (p : Part) (pt : Pattern) (s : State), s.code p.val = 8 → (s.part p.val).trust.scrubTo = 3 →
     s.pattern = some pt → pt.programs = [] → s.loader.waitingScrub = false → s.trust.reclaim = none →
     ∃ t, exec (.scrubDone p) s = .next t ∧ t.code p.val = 3 ∧ (t.part p.val).trust.owed = false ∧
       (∀ a, p.val * 2 ^ 48 ≤ a → a < (p.val + 1) * 2 ^ 48 → memByte t.mem a = 0) ∧
       (∀ a, a < 2 ^ 54 → (a < p.val * 2 ^ 48 ∨ (p.val + 1) * 2 ^ 48 ≤ a) → memByte t.mem a = memByte s.mem a) ∧
       t.pattern = s.pattern) ∧
   (∀ (m : MHdr) (s : State), trustTaken s m (overI3c m.path && inSession s m 9) → 2 ≤ s.regs.state →
     s.regs.state ≠ 9 → s.sled.poweringDown = false → s.trust.reclaim = none →
     (s.parts = [] → ∃ t, exec (.reclaim m) s = .next t ∧ trustAnswered t m 5 0 [] ∧ t.trust.slots = [] ∧
       t.trust.bindings = [] ∧ t.trust.bindRequired = false ∧ t.loader.slotA.kept = none ∧
       t.loader.slotB.kept = none ∧ t.loader.serialFloor = 0 ∧ t.pattern = none ∧ t.regs.state = 2) ∧
     (∀ (p : Nat) (x : PartPiece), s.piece p = some x → s.parts.find p ≠ none → s.code p ≠ 255 → s.code p ≠ 8 →
       ∃ t, exec (.reclaim m) s = .next t ∧ t.trust.reclaim = some m ∧ t.code p = 8 ∧
         t.trust.slots = s.trust.slots)) ∧
   (∀ s : State, s.regs.state ≠ 0 →
     (∃ t n, exec .dbgChallenge s = .next t ∧ t.trust.nonce = some n ∧ n.length = 32 ∧
       t.out = s.out ++ [.tap true n] ∧ t.mem = s.mem) ∧
     (∀ token signature : List Byte, ∃ t, exec (.dbgToken token signature) s = .next t ∧ t.mem = s.mem ∧
       (if tokenOk s token signature = true then
         t.trust.debugCount = min 0xFFFF_FFFF (s.trust.debugCount + 1) ∧
         t.trust.unlocks.length = s.trust.unlocks.length + 1 ∧ t.out = s.out ++ [.tap true []]
        else t.trust = { s.trust with debugRefused := min 0xFFFF_FFFF (s.trust.debugRefused + 1) } ∧
         t.parts = s.parts ∧ t.out = s.out ++ [.tap false []])) ∧
     exec .dbgLock s = .next (({ s with blocks := s.blocks.mapVals fun _ b => { b with halted := false } }.modTrust
       fun t => { t with unlocks := [] }).emit (.tap true []))))

/-- R466 to R470: each tick moves the clock of an Open partition one step of 25 MHz, down while the module
is over its cap or at 100 degrees C, and keeps it between 700 MHz and its ceiling; the loop rests under the
fast limiter, and steps once in 10 us. The estimate is K times the raw estimate, K the measured ratio within
0.9 and 1.1. The fast limiter acts on its causes and lets go 100 us after them, at half the clock. The
model's own readings that this rests on: notes/assumptions/40.md. -/
def Obligations.ClocksFollowPowerAndHeat : Prop :=
  (∀ (tMax tD inlet outlet : Nat) (s : State),
    ∃ t, exec (.clockLoopTick tMax tD inlet outlet) s = .next t ∧ t.power.tMax = tMax ∧ t.power.inlet = inlet ∧
      t.power.outlet = outlet ∧ t.mem = s.mem ∧ t.lanes = s.lanes ∧ t.counters = s.counters ∧
      (s.power.fastLimit = true ∨ s.now < s.power.loopNext → t.parts = s.parts) ∧
      (∀ p, p ∉ openParts s → t.part p = s.part p) ∧
      (∀ p, s.power.fastLimit = false → s.power.loopNext ≤ s.now → p ∈ openParts s →
        (t.part p).power.clock ≤ nextCeiling (s.part p).power ∧
        min 700 (nextCeiling (s.part p).power) ≤ (t.part p).power.clock) ∧
      (∀ p, s.power.fastLimit = false → s.power.loopNext ≤ s.now → openParts s = [p] →
        t.power.loopNext = s.now + 10 ∧
        (capInForce s < s.power.average ∨ 100 ≤ tMax →
          (t.part p).power.clock = min (max ((s.part p).power.clock - 25) 700) (nextCeiling (s.part p).power)) ∧
        (tMax < 100 → 100 * s.power.average < 98 * capInForce s → ((s.piece p).map (·.powerCap)).getD 0 = 0 →
          (t.part p).power.clock =
            min (max ((s.part p).power.clock + 25) 700) (nextCeiling (s.part p).power)))) ∧
  (∀ (raw inputW volt : Nat) (s : State),
    ∃ t, exec (.powerEstimateTick raw inputW volt []) s = .next t ∧
      t.power.estimate = s.power.gain * raw / 10000 ∧ t.power.measured = inputW ∧ t.power.voltage = volt ∧
      t.power.gain = s.power.gain ∧ t.parts = s.parts ∧ t.mem = s.mem) ∧
  (∀ (measured raw : Nat) (s : State),
    ∃ t, exec (.calibrationTick measured raw) s = .next t ∧ 9000 ≤ t.power.gain ∧ t.power.gain ≤ 11000 ∧
      (raw ≠ 0 → t.power.gain = min 11000 (max 9000 (measured * 10000 / raw))) ∧
      t.power.estimate = s.power.estimate ∧ t.parts = s.parts ∧ t.mem = s.mem) ∧
  (∀ s : State,
    (∃ t, exec (.fastLimit .comparator) s = .next t ∧ t.power.fastLimit = true ∧ t.power.overcurrent = true ∧
      t.power.causesSeen.toNat.testBit 2 = true ∧ t.power.causesSeen.toNat.testBit 3 = true ∧
      t.parts = s.parts ∧ t.mem = s.mem) ∧
    (7000 ≤ s.power.estimate → ∃ t, exec (.fastLimit .estimate) s = .next t ∧ t.power.fastLimit = true ∧
      t.power.overcurrent = s.power.overcurrent ∧ t.power.fastClearAt = none ∧ t.parts = s.parts ∧ t.mem = s.mem) ∧
    (s.power.estimate < 7000 → exec (.fastLimit .estimate) s = .next s) ∧
    (∀ a p, s.power.fastLimit = true → s.power.fastClearAt = some a → a + 100 ≤ s.now → openParts s = [p] →
      ∃ t, exec .fastLimitClear s = .next t ∧ t.power.fastLimit = false ∧ t.power.fastClearAt = none ∧
        (t.part p).power.clock =
          min (max ((s.part p).power.clock / 2 / 25 * 25) 700) (s.part p).power.ceiling ∧ t.mem = s.mem))

/-- R462, R463, R465, R471 to R473, R476, R479: the start arbiter grants the lowest block that waits, one at
a time: a block in RUN starts, another begins to wake, an idle one is GATED; a GATED block past its
partition's BLOCK_OFF time goes OFF, its benches zero and its cores' registers lost; a woken block is in
RUN. BLK_HINT, BLK_ARRIVE and BLK_PEER_DELAY set the ceilings and the step period. The model's own readings
that this rests on: notes/assumptions/40.md. -/
def Obligations.BlocksAreStartedGatedAndWoken : Prop :=
  (∀ (b : Blk) (s : State), wantsGrant s b.val = true → (∀ k, k < b.val → wantsGrant s k = false) →
    s.regs.state ≠ 9 →
    exec (.startGrant false) s = .next s ∧
    ((s.block b.val).pwr.startAsked = true → exec (.startGrant true) s =
      .next (s.setPwr b.val { (s.block b.val).pwr with
        startAsked := false
        waking := (s.block b.val).pwr.waking || decide ((s.block b.val).pwr.state ≠ 0) })) ∧
    (∀ p, (s.block b.val).pwr.startAsked = false → s.blockOwner b.val = some p → cobblerRuns s p b.val = false →
      exec (.startGrant true) s =
        .next (s.setPwr b.val { (s.block b.val).pwr with state := 1, gatedSince := s.now }))) ∧
  (∀ (b : Blk) (p : Nat) (s : State), openOwner s b.val = some p → (s.block b.val).pwr.state = 1 →
    (s.blocksOf p).head? ≠ some b.val → cobblerRuns s p b.val = false → (s.part p).power.offAfter ≠ 0 →
    (s.block b.val).pwr.waking = false → (s.block b.val).pwr.startAsked = false → blockWorks s b.val = false →
    (s.block b.val).pwr.gatedSince + (s.part p).power.offAfter ≤ s.now →
    ∃ t, exec (.blockOffTimer b) s = .next t ∧ (t.block b.val).pwr.state = 2 ∧
      (t.block b.val).eng = (s.block b.val).eng ∧
      (∀ c off, c < 1024 → off < benchSize → memByte t.mem (benchKey b.val c off) = 0) ∧
      memKeptBut s t (benchKey b.val 0 0) (2 ^ 28) ∧ (∀ c, c < 1024 → t.core b.val c = {}) ∧
      (∀ k c, k ≠ b.val → c < 1024 → t.core k c = s.core k c) ∧
      (∀ k, k ≠ b.val → t.block k = s.block k)) ∧
  (∀ (b : Blk) (s : State), (s.block b.val).pwr.waking = true →
    ∃ t, exec (.blockWakeDone b) s = .next t ∧ (t.block b.val).pwr.state = 0 ∧
      (t.block b.val).pwr.waking = false ∧ (∀ k, k ≠ b.val → t.block k = s.block k) ∧
      ((s.block b.val).pwr.state ≠ 2 → t.mem = s.mem) ∧
      ((s.block b.val).pwr.state = 2 →
        (∀ c off, c < 1024 → off < benchSize → memByte t.mem (benchKey b.val c off) = 0) ∧
        memKeptBut s t (benchKey b.val 0 0) (2 ^ 28))) ∧
  (∀ (src : Src) (p : Part) (b : Blk) (v : Word) (s : State), hostReachesBlock s src p b →
    ((v.toNat % 2048 = 0 ∨ 700 ≤ v.toNat % 2048 ∧ v.toNat % 2048 ≤ 1750) →
      exec (.blkHintWrite src b v) s =
        .next (s.setPower p.val { (s.part p.val).power with hint := v.toNat % 2048 })) ∧
    (v.toNat % 2048 ≠ 0 → v.toNat % 2048 < 700 ∨ 1750 < v.toNat % 2048 →
      exec (.blkHintWrite src b v) s = .next s) ∧
    (∃ t, exec (.blkPeerDelayWrite src b v) s = .next t ∧ (t.part p.val).power.peerDelay = v.toNat % 2 ^ 31 ∧
      (t.part p.val).power.followAt = s.now ∧
      (followSet s = true → v.toNat % 2 ^ 31 ≠ 0 → (s.part p.val).power.stepPeriod ≠ 0 →
        (t.part p.val).power.follow = some (max 700 (hintCeiling (s.part p.val).power *
          (s.part p.val).power.stepPeriod /
          ((s.part p.val).power.stepPeriod + v.toNat % 2 ^ 31) / 25 * 25))) ∧
      (followSet s = false ∨ v.toNat % 2 ^ 31 = 0 → (t.part p.val).power.follow = none) ∧ t.mem = s.mem)) ∧
  (∀ (fn : Fn) (p : Part) (b : Blk) (a : Nat) (s : State), hostReachesBlock s (.host fn) p b →
    (s.part p.val).power.arriveAt = some a →
    (a + 10 ≤ s.now → ∃ t, exec (.blkArriveRead (.host fn) b) s = .next t ∧
      (t.part p.val).power = { (s.part p.val).power with
        arriveAt := some s.now, stepPeriod := min (2 ^ 32 - 1) (s.now - a) } ∧
      t.out = s.out ++ [.readValue fn.val (arriveWord t p.val)] ∧ t.mem = s.mem) ∧
    (s.now < a + 10 → ∃ t, exec (.blkArriveRead (.host fn) b) s = .next t ∧
      (t.part p.val).power = (s.part p.val).power ∧
      t.out = s.out ++ [.readValue fn.val (arriveWord s p.val)] ∧ t.mem = s.mem)) ∧
  (∀ (p : Part) (s : State), (s.part p.val).power.follow ≠ none →
    (s.part p.val).power.followAt + 4 * (s.part p.val).power.stepPeriod ≤ s.now →
    exec (.followExpire p) s = .next (s.setPower p.val { (s.part p.val).power with follow := none }))

/-- R481 to R483, R492 to R495, R497: with the coolant gone or a junction at 115 degrees C the module enters
Cut, every partition with it; RESUME is refused, and remembered, until the coolant has been back for 1 s and
the junctions are below 85 degrees C. One check against a unit puts it in Doubt, two retire it,
DOUBT_RELEASE returns it to service; QUIESCE stops the runs of its partition, which is quiesced once it is
idle. The model's own readings that this rests on: notes/assumptions/9.md, notes/assumptions/42.md,
notes/assumptions/46.md. -/
def Obligations.CutDoubtAndQuiescing : Prop :=
  (∀ (low junction : Nat) (s : State), junction ≤ 125 →
    (canCut s = true → (5 ≤ low ∨ 115 ≤ junction) →
      ∃ t, exec (.cutEntry low junction) s = .next t ∧ t.regs.state = 9 ∧ t.regs.previous = s.regs.state ∧
        t.power.cutCause = (if 5 ≤ low then 1 else 2) ∧ t.power.pcieAOn = false ∧
        (∀ p, p ∈ definedParts s → s.code p ≠ 255 → t.code p = 9) ∧
        (∀ a, a < 2 ^ 54 → memByte t.mem a = memByte s.mem a) ∧ t.pattern = s.pattern) ∧
    (canCut s = false ∨ low < 5 ∧ junction < 115 → exec (.cutEntry low junction) s = .next s)) ∧
  (∀ (src : Src) (v : Word) (high junction : Nat) (s : State), globalReaches s src 0x2_0038 →
    s.regs.state = 9 → v.toNat.testBit 8 = true →
    (s.now < s.power.coolLowAt + 1000000 ∨ s.now - high + 1000000 > s.now ∨ 85 ≤ junction →
      ∃ t, exec (.resume src v high junction) s = .next t ∧ t.regs = s.regs ∧ t.parts = s.parts ∧
        t.power = { s.power with
          cutRefused := true
          coolLowAt := if 85 ≤ junction then s.now else max s.power.coolLowAt (s.now - high) } ∧
        t.mem = s.mem ∧ t.out = s.out) ∧
    (1000000 ≤ high → s.power.coolLowAt + 1000000 ≤ s.now → junction < 85 →
      s.faults.fencePending = false →
      (s.power.cutFrom = 3 ∨ s.power.cutFrom = 5 ∨ s.power.cutFrom = 7) →
      ∃ t, exec (.resume src v high junction) s = .next t ∧ t.regs.state = 3 ∧ t.regs.previous = 9 ∧
        t.power.cutRefused = false ∧ (∀ p, p ∈ definedParts s → s.code p ≠ 255 → t.code p = 3) ∧
        t.pattern = s.pattern)) ∧
  (∀ (u : HealthUnit) (s : State), s.regs.state ≠ 0 → s.faults.retired.contains u = false →
    (∀ mg dt : Bool, mgmtFinds s u mg = false → dataFinds (noteStall s u dt) u dt = false →
      exec (.doubtCheck u mg dt) s = .next (noteStall s u dt)) ∧
    (∀ mg dt : Bool, mgmtFinds s u mg = !dataFinds (noteStall s u dt) u dt →
      s.faults.doubt.contains u = false →
      ∃ t, exec (.doubtCheck u mg dt) s = .next t ∧ t.faults.doubt = s.faults.doubt ++ [u] ∧
        t.faults.retired = s.faults.retired ∧ t.mem = s.mem ∧ t.lanes = s.lanes) ∧
    (∀ mg dt : Bool, mgmtFinds s u mg = true → dataFinds (noteStall s u dt) u dt = true →
      ∃ t, exec (.doubtCheck u mg dt) s = .next t ∧ t.faults.retired = s.faults.retired ++ [u] ∧
        t.faults.doubt = s.faults.doubt.erase u ∧ t.mem = s.mem ∧ t.lanes = s.lanes)) ∧
  (∀ (b : Blk) (a : Nat) (s : State), (s.block b.val).stallSince = some a → blockBusy s b.val = true →
    dataFinds (noteStall s (.block b) true) (.block b) true = decide (a + s.faults.watchdog ≤ s.now) ∧
    dataFinds (noteStall s (.block b) false) (.block b) false = false ∧
    mgmtFinds s (.block b) true = decide ((s.block b.val).pwr.state ≠ 2)) ∧
  (∀ (m : MHdr) (kind action : Byte) (unit : BitVec 16) (u : HealthUnit) (s : State),
    recoveryTaken s m 0x55 4 → s.faults.doubt = [u] → unitNumbers u = (kind.toNat, unit.toNat) →
    (action = 0 → ∃ t, exec (.doubtRelease m kind action unit) s = .next t ∧ answeredWith t m 0x55 0 [] ∧
      t.faults.doubt = [] ∧ t.faults.retired = s.faults.retired ∧ t.faults.rsn = m.rsn ∧ t.mem = s.mem) ∧
    (action = 1 → ∃ t, exec (.doubtRelease m kind action unit) s = .next t ∧ answeredWith t m 0x55 0 [] ∧
      t.faults.doubt = [] ∧ t.faults.retired.contains u = true ∧ t.faults.rsn = m.rsn ∧ t.mem = s.mem)) ∧
  (∀ (src : Src) (p : Part) (v : Word) (s : State), hostReaches s src p →
    (v.toNat.testBit 0 = true → ∃ t, exec (.quiesce src p v) s = .next t ∧
      (t.part p.val).fault.quiescing = true ∧ (t.part p.val).mem.held = true ∧
      (∀ b ∈ s.blocksOf p.val, (t.block b).eng.state ≠ 1) ∧ t.mem = s.mem) ∧
    (v.toNat.testBit 0 = false → ∃ t, exec (.quiesce src p v) s = .next t ∧
      (t.part p.val).fault = { (s.part p.val).fault with
        replayLimit := (if v.toNat / 65536 % 16 = 0 then (s.part p.val).fault.replayLimit
          else v.toNat / 65536 % 16),
        faultInt := v.toNat.testBit 15, faultVector := v.toNat / 256 % 32 } ∧
      t.blocks = s.blocks ∧ t.awls = s.awls ∧ t.mem = s.mem)) ∧
  (∀ (p : Part) (s : State), (s.part p.val).fault.quiescing = true → partIdle s p.val = true →
    (s.part p.val).hold.moves = [] →
    ∃ t, exec (.quiesced p) s = .next t ∧ (t.part p.val).mem = { (s.part p.val).mem with held := false } ∧
      (t.part p.val).fault = { (s.part p.val).fault with quiesced := true, quiescing := false } ∧
      ((s.part p.val).hold.step.all (!·.replay) = true → (t.part p.val).hold = { (s.part p.val).hold with
          ctxs := (t.part p.val).hold.ctxs, blockedSince := (t.part p.val).hold.blockedSince } ∧
        t.out = s.out ∧ t.mem = s.mem ∧ t.blocks = s.blocks ∧ t.awls = s.awls) ∧
      (∀ st, (s.part p.val).hold.step = some st → st.replay = true →
        ((t.part p.val).hold.step.map fun x => (x.replay, x.start)) = some (false, s.now) ∧
        (st.streams = [] → t.mem = s.mem ∧ t.blocks = s.blocks ∧ t.awls = s.awls)))

/-- R498 to R504, R507: LEASE_RENEW restarts a running lease and answers what was left; once it has run out,
or at a FENCE, the module is Fenced with FAB_DEVICE cleared and every partition Fenced; the self-test leaves
every bench zero; REINSTATE gives FAB_DEVICE and the partitions back only to the device, boot and self-test
it names; when GRACE runs out the module is Verified and GRACE_EXPIRED stays. An RSN of 0 or an older one
does nothing. The model's own readings that this rests on: notes/assumptions/9.md, notes/assumptions/43.md. -/
def Obligations.LeaseFenceAndReinstate : Prop :=
  (∀ (m : MHdr) (s : State), requestTaken s m 0x50 (controlOk s m false) → m.length = 0 →
    (s.regs.state ≠ 6 → leaseOver s = false → (s.regs.state = 5 ∨ s.regs.state = 7) →
      ∃ t, exec (.leaseRenew m) s = .next t ∧ answeredWith t m 0x50 0 (leBytes 4 (leaseLeft s)) ∧
        t.faults.leaseRunning = true ∧ t.faults.leaseAt = s.now ∧ t.parts = s.parts ∧ t.mem = s.mem) ∧
    (s.regs.state = 6 ∨ leaseOver s = true →
      ∃ t, exec (.leaseRenew m) s = .next t ∧ answeredWith t m 0x50 0x0B [] ∧ t.faults = s.faults ∧
        t.parts = s.parts ∧ t.mem = s.mem)) ∧
  (∀ s : State,
    (leaseOver s = false → exec .leaseExpire s = .next s) ∧
    (leaseOver s = true → ∃ t, exec .leaseExpire s = .next t ∧ t.regs.state = 6 ∧ t.fab.device = 0xFFFF ∧
      t.faults.savedDevice = s.fab.device ∧ t.faults.fenceCause = 2 ∧ t.faults.leaseRunning = false ∧
      (∀ p, p ∈ definedParts s → t.code p = 6) ∧ t.pattern = s.pattern)) ∧
  (∀ (m : MHdr) (s : State), recoveryTaken s m 0x51 0 → s.regs.state ≠ 6 → s.regs.state ≠ 1 →
    s.regs.state ≠ 9 →
    ∃ t, exec (.fence m) s = .next t ∧ answeredWith t m 0x51 0 [] ∧ t.regs.state = 6 ∧
      t.fab.device = 0xFFFF ∧ t.faults.savedDevice = s.fab.device ∧ t.faults.fenceCause = 1 ∧
      (∀ p, p ∈ definedParts s → t.code p = 6) ∧ t.faults.rsn = m.rsn ∧ t.pattern = s.pattern) ∧
  (∀ (m : MHdr) (s : State), requestTaken s m 0x51 (controlOk s m false) → m.length = 0 →
    (m.rsn = 0 ∨ rsnNewer m.rsn s.faults.rsn = false ∧ m.rsn ≠ s.faults.rsn) →
    ∃ t, exec (.fence m) s = .next t ∧ answeredWith t m 0x51 0x0B [] ∧ t.faults = s.faults ∧
      t.regs = s.regs ∧ t.fab = s.fab ∧ t.parts = s.parts ∧ t.mem = s.mem) ∧
  (∀ (g : ModulePiece) (s : State), s.modulePiece = some g → s.regs.state = 6 →
    (s.faults.selfRunning = true → g.grace ≠ 0 →
      ∃ t, exec (.selftestDone []) s = .next t ∧ t.faults.selfDone = true ∧ t.faults.selfPass = true ∧
        t.faults.selfRunning = false ∧ t.regs.state = 6 ∧
        (∀ b c off, b < 80 → c < 1024 → off < benchSize → memByte t.mem (benchKey b c off) = 0) ∧
        (∀ a, a < 2 ^ 54 → memByte t.mem a = memByte s.mem a) ∧ t.parts = s.parts) ∧
    (s.faults.fencedAt + 1000000 * g.grace ≤ s.now → (g.grace ≠ 0 ∨ s.faults.selfDone = true) →
      ∃ t, exec .graceExpire s = .next t ∧ t.faults.graceExpired = true ∧ t.regs.state = 2 ∧
        t.pattern = none ∧ t.parts = [] ∧ t.mem = [] ∧ t.fab.device = 0xFFFF)) ∧
  (∀ (m : MHdr) (d : Nat) (boot : BitVec 32) (s : State), recoveryTaken s m 0x52 8 → s.regs.state = 6 →
    (boot.toNat ≠ s.mgmt.boot → ∃ t, exec (.reinstate m d boot) s = .next t ∧ answeredWith t m 0x52 0x0C [] ∧
      t.regs = s.regs ∧ t.fab = s.fab ∧ t.parts = s.parts ∧ t.mem = s.mem) ∧
    (boot.toNat = s.mgmt.boot → s.faults.graceExpired = false → s.faults.savedDevice.toNat = d →
      s.faults.selfDone = true → s.regs.previous ≠ 2 → s.regs.previous ≠ 4 →
      ∃ t, exec (.reinstate m d boot) s = .next t ∧ answeredWith t m 0x52 0 [] ∧
        t.regs.state = (if dieInDoubt s then 7 else 5) ∧ t.fab.device = s.faults.savedDevice ∧
        t.faults.leaseRunning = true ∧ t.faults.leaseAt = s.now ∧ t.faults.codesAtFence = [] ∧
        (∀ p c, s.faults.codesAtFence = [(p, c)] → c ≠ 5 → t.code p = c) ∧ t.pattern = s.pattern))

/-- R520, R528, R530 to R536: input power gives the pins their levels in Dark; entry to Kept counts a boot,
starts the local counter at 0 and boots; memory trains once a passing firmware has booted, and training done
the module is Verified when no confirmed pattern is retained; a fallen PWR_GOOD, a voltage outside its range
or MODULE_RESET_N low powers the module down: Dark, its retained state kept, everything else gone. Beyond
the absolute maxima the manual states nothing and the model stops. An overvoltage holds the module Dark
until the input has stayed below 58 V for 1,000,000 us. The model's own readings that this rests on:
notes/assumptions/1.md, notes/assumptions/9.md, notes/assumptions/45.md, notes/assumptions/46.md,
notes/assumptions/47.md. -/
def Obligations.PowerSequencesRun : Prop :=
  (∀ (mv : Nat) (good coolant resetN : Bool) (s : State), s.regs.state = 0 → s.sled.poweringDown = false →
    46000 ≤ mv → mv ≤ 66000 →
    exec (.inputPowerArrive mv good coolant resetN) s = .next (s.modSled fun x => { x with
      inputOn := true, railsGood := true, pwrGood := good, coolantOk := coolant, resetN := resetN })) ∧
  (∀ (mv held : Nat) (good coolant resetN : Bool) (s : State), 66000 < mv →
    exec (.inputPowerArrive mv good coolant resetN) s = .fault .beyondAbsoluteMaxima ∧
    exec (.inputVoltageFault mv held) s = .fault .beyondAbsoluteMaxima) ∧
  (∀ s : State, keptAllowed s = true →
    ∃ t, exec .keptEntry s = .next t ∧ t.regs.state = 1 ∧ t.now = 0 ∧
      t.mgmt.boot = (s.mgmt.boot + 1) % 2 ^ 32 ∧ t.trust.booted = true ∧ t.trust.slots = s.trust.slots ∧
      t.trust.identNext = s.trust.identLimit ∧ t.loader.slotA.kept = s.loader.slotA.kept ∧
      t.loader.slotB.kept = s.loader.slotB.kept ∧ t.pattern = none ∧ t.parts = [] ∧ t.mem = [] ∧
      t.pending = s.pending) ∧
  (∀ (dimms : List (Option Dimm)) (ids : List (List Byte)) (s : State), s.regs.state = 1 →
    s.sled.trained = false → s.sled.pwrGood = true → s.trust.booted = true → s.trust.bootFault = false →
    ∃ t, exec (.bootMemoryStart dimms ids) s = .next t ∧ t.sled.trained = true ∧ t.sled.dimms = dimms ∧
      t.sled.stackIds = ids ∧ t.power.diesOn = 0xF ∧ t.regs = s.regs ∧ t.parts = s.parts ∧ t.mem = s.mem) ∧
  (∀ s : State, s.regs.state = 1 → s.sled.trained = true → confirmedSlots s.loader = [] →
    ∃ t, exec .verifiedEntry s = .next t ∧ t.regs.state = 2 ∧ t.regs.previous = 1 ∧
      t.trust.fwDigest = firmwareDigest s ∧ t.pattern = s.pattern ∧ t.parts = s.parts ∧ t.mem = s.mem) ∧
  (∀ (n mv held : Nat) (s : State), s.regs.state ≠ 0 → s.loader.confirming = none →
    s.loader.committing = none →
    (8 ≤ n → ∃ t, exec (.pwrGoodFall n) s = .next t ∧ t.regs.state = 0 ∧ t.sled.poweringDown = true ∧
      t.sled.pwrGood = false ∧ t.trust.slots = s.trust.slots ∧ t.mgmt.boot = s.mgmt.boot ∧
      t.mgmt.events = s.mgmt.events ∧ t.loader.slotA.kept = s.loader.slotA.kept ∧ t.faults.rsn = s.faults.rsn ∧
      t.pattern = none ∧ t.parts = [] ∧ t.lanes = [] ∧ t.mem = [] ∧ t.trust.sessions = []) ∧
    (n < 8 → exec (.pwrGoodFall n) s = .next s) ∧
    (60000 < mv → mv ≤ 62000 → 10 ≤ held ∨ (∃ a, s.sled.overSince = some a ∧ a + 10 ≤ s.now) →
      ∃ t, exec (.inputVoltageFault mv held) s = .next t ∧ t.regs.state = 0 ∧ t.sled.overvoltage = true ∧
        t.trust.slots = s.trust.slots ∧ t.pattern = none ∧ t.parts = [] ∧ t.mem = []) ∧
    (20 ≤ n → ∃ t, exec (.moduleResetN false n) s = .next t ∧ t.regs.state = 0 ∧ t.sled.resetN = false ∧
      t.sled.forReset = true ∧ t.trust.slots = s.trust.slots ∧ t.faults.log = s.faults.log ∧
      t.pattern = none ∧ t.parts = [] ∧ t.mem = []) ∧
    (n < 20 → exec (.moduleResetN false n) s = .next s)) ∧
  (∀ s : State, s.sled.poweringDown = true →
    ∃ t, exec (.powerDownDone false) s = .next t ∧ t.sled.poweringDown = false ∧ t.sled.pwrGood = false ∧
      t.regs = s.regs ∧ t.parts = s.parts ∧ t.mem = s.mem) ∧
  (∀ (mv below : Nat) (s : State), s.sled.overvoltage = true → s.regs.state = 0 →
    ∃ t, exec (.overvoltageHoldExpire mv below) s = .next t ∧
      (mv < 58000 → 1000000 ≤ below → s.sled.overAt + 1000000 ≤ s.now → t.sled.overvoltage = false) ∧
      (58000 ≤ mv ∨ s.now < s.sled.overAt + 1000000 → t.sled.overvoltage = true ∧ keptAllowed t = false) ∧
      t.sled.railsGood = s.sled.railsGood ∧ t.regs = s.regs ∧ t.trust = s.trust ∧ t.loader = s.loader ∧
      t.mem = s.mem)

/-- R385, R393, R430, R454, R455, R523, R525: a seated cable powers its cage while its group has power, a
load over 2.0 A cuts it, its reset goes high 100 us after power; port B's PERST_N goes high 100 ms after its
clock; a link comes up at a rate and width it can train at while its port has power and PERST_N is high; the
debug connector answers an instruction it refuses, halts a block and reads a register as its unlock lets it,
and reads flash only after a boot fault. The model's own readings that this rests on:
notes/assumptions/46.md, notes/assumptions/48.md. -/
def Obligations.CagesLinksAndDebugConnector : Prop :=
  (∀ (g : Fin 9) (s : State), s.regs.state ≠ 0 → groupOn s g.val = true →
    (s.sled.cages.at g.val {}).latched = false → (s.sled.cages.at g.val {}).power = false →
    (s.sled.cages.at g.val {}).resetReleased = false →
    ∃ t, exec (.cabPresent g false) s = .next t ∧ (t.sled.cages.at g.val {}).power = true ∧
      (t.sled.cages.at g.val {}).presentN = false ∧ (t.sled.cages.at g.val {}).powerAt = s.now ∧
      t.out = s.out ++ [.pin (.cab3v3 g.val) true] ∧
      (∀ h, h ≠ g.val → t.sled.cages.at h {} = s.sled.cages.at h {}) ∧ t.mem = s.mem) ∧
  (∀ (g : Fin 9) (ma : Nat) (s : State), (s.sled.cages.at g.val {}).power = true →
    (2000 < ma → ∃ t, exec (.cabOvercurrent g ma) s = .next t ∧ (t.sled.cages.at g.val {}).power = false ∧
      (t.sled.cages.at g.val {}).latched = true ∧ (t.port (2 * g.val)).state = 0 ∧
      (t.port (2 * g.val + 1)).state = 0 ∧ t.mem = s.mem) ∧
    (ma ≤ 2000 → exec (.cabOvercurrent g ma) s = .next s) ∧
    ((s.sled.cages.at g.val {}).resetReleased = false → (s.sled.cages.at g.val {}).powerAt + 100 ≤ s.now →
      ∃ t, exec (.cabResetRelease g) s = .next t ∧ (t.sled.cages.at g.val {}).resetReleased = true ∧
        t.out = s.out ++ [.pin (.cabResetN g.val) true] ∧ t.mem = s.mem)) ∧
  (∀ (a : Nat) (s : State), s.sled.refclkB = some a → a + 100000 ≤ s.now → s.mgmt.perstBhigh = false →
    exec .portBPerstRelease s =
      .next ((s.modMgmt fun m => { m with perstBhigh := true }).emit (.pin .perstB true))) ∧
  (∀ (rate : Fin 7) (width : Nat) (s : State),
    (s.power.pcieAOn = true → s.mgmt.perstAlow = false → linkTrains rate width = true →
      exec (.pcieLinkTrain false true rate width) s =
        .next (s.modMgmt fun m => { m with linkA := true, rateA := rate.val, widthA := width })) ∧
    (s.power.pcieBOn = false ∨ s.mgmt.perstBhigh = false →
      exec (.pcieLinkTrain true true rate width) s = .next s) ∧
    (exec (.pcieLinkTrain true false rate width) s =
      .next (s.modMgmt fun m => { m with linkB := false, rateB := 0, widthB := 0 }))) ∧
  (∀ (up : Bool) (s : State), s.regs.state ≠ 0 →
    exec (.mgmtLinkChange 0 up) s = .next (s.modMgmt fun m => { m with mgmt0 := up }) ∧
    exec (.mgmtLinkChange 1 up) s = .next (s.modMgmt fun m => { m with mgmt1 := up })) ∧
  (∀ (i : TapInstr) (s : State), s.regs.state ≠ 0 →
    (tapAccepts s i = false → exec (.tapInstruction i) s = .next (s.emit (.tap false []))) ∧
    (tapAccepts s i = true → (∀ p acc, i ≠ .internal p acc) → ∃ t bs, exec (.tapInstruction i) s = .next t ∧ t.out = s.out ++ [.tap true bs] ∧
      t.trust.tapExternal = tapDrives i ∧ (i ≠ .idcode → bs = []) ∧ t.regs = s.regs ∧ t.mem = s.mem)) ∧
  (∀ (p : Option Part) (b : Blk) (on : Bool) (off : BitVec 26) (s : State), s.regs.state ≠ 0 →
    (tapAccepts s (.internal p (.halt b on)) = true →
      ∃ t, exec (.tapInstruction (.internal p (.halt b on))) s = .next t ∧
        t.block b.val = { s.block b.val with halted := on } ∧ (∀ k, k ≠ b.val → t.block k = s.block k) ∧
        t.out = s.out ++ [.tap true []] ∧ t.regs = s.regs ∧ t.mem = s.mem) ∧
    (tapAccepts s (.internal p (.readReg off)) = true →
      ∃ t, exec (.tapInstruction (.internal p (.readReg off))) s = .next t ∧
        t.out = s.out ++ [.tap true (leBytes 8 (registerValue (s.modTrust fun x => { x with tapExternal := false }) off.toNat))] ∧ t.regs = s.regs ∧
        t.blocks = s.blocks ∧ t.mem = s.mem)) ∧
  (∀ (kind : Fin 4) (copy : Fin 2) (off : Nat) (bytes : List Byte) (s : State),
    s.regs.state ≠ 0 → s.trust.bootFault = true →
    (∃ t, exec (.debugFlashAccess (.write kind copy off bytes)) s = .next t ∧
      slice ((t.trust.copies.at (2 * (kind.val + 1) + copy.val) {}).bytes) off bytes.length = bytes ∧
      t.trust.slots = s.trust.slots ∧ t.mem = s.mem) ∧
    (∃ t bs, exec (.debugFlashAccess (.read kind copy off bytes.length)) s = .next t ∧
      t.out = s.out ++ [.flash bs] ∧ bs.length = bytes.length ∧ t.trust = s.trust ∧ t.mem = s.mem)) ∧
  (∀ (acc : FlashAcc) (s : State), s.trust.bootFault = false → exec (.debugFlashAccess acc) s = .next s)

/-- R531, R533, R415, R5, Tables 10-12, 11-9, 17-4: right after reset the module is Kept, its counter at 0
and its first boot counted by one KEPT event; FAB_DEVICE is not assigned, no interrupt is enabled, no
pattern is committed and no partition defined. That memory then reads zero and holds no listed byte is the
model's choice (notes/assumptions/1.md, 5.md); memory has its canonical form and no lane holds more than 16
items. -/
def Obligations.ResetIsEntryToKept : Prop :=
  State.reset.regs.state = 1 ∧ State.reset.now = 0 ∧ State.reset.mgmt.boot = 1 ∧
  State.reset.mgmt.events.map (fun e => (e.seq, e.boot, e.kind)) = [(1, 1, 6)] ∧
  State.reset.fab.device = 0xFFFF ∧ State.reset.fab.hopLimit = 16 ∧ State.reset.fab.rto = 16 ∧
  State.reset.fab.targetTimeout = 2000 ∧ State.reset.regs.intEnable = 0 ∧ State.reset.pattern = none ∧
  (∀ p, State.reset.code p = 255) ∧ (∀ n, State.reset.lanes.find n = none) ∧
  (∀ a, memByte State.reset.mem a = 0) ∧ State.reset.pending = [] ∧
  State.reset.memOk = true ∧ State.reset.lanesOk = true

/-- Every step, of every command and of the clock, keeps memory in its canonical form: addresses strictly
rise, no listed byte is zero, and the uncorrectable words strictly rise; so equal memories are equal data. -/
def Obligations.EveryStepKeepsMemoryCanonical : Prop :=
  ∀ s t : State, s.memOk = true → step s = .next t → t.memOk = true

/-- R64, R65, R68: no step of any command, nor the clock, leaves a lane with more than 16 items. -/
def Obligations.EveryStepKeepsLanesWithinSixteen : Prop :=
  ∀ s t : State, s.lanesOk = true → step s = .next t → t.lanesOk = true

/-- No command changes the commands that wait behind it; only those that take the module into Kept or Dark
set the local counter (R5, R531); only those that commit, restore or drop a pattern change it (R46, R55,
R551); every other command leaves the loader, the trust state, the power registers and the cores as they
are. -/
def Obligations.CommandsKeepQueueTimeAndPattern : Prop :=
  ∀ (c : Instr) (s t : State), exec c s = .next t →
    t.pending = s.pending ∧ (mayMoveTime c = false → t.now = s.now) ∧
    (mayChangePattern c = false → t.pattern = s.pattern ∧ t.partials = s.partials) ∧
    (mayChangeLoader c = false → t.loader = s.loader) ∧
    (mayChangeTrust c = false → t.trust = s.trust) ∧
    (mayChangePower c = false → t.power = s.power) ∧
    (mayChangeCores c = false → t.cores = s.cores)

/-- Every command but those that the spec lets write memory leaves every byte and every uncorrectable word
as it is; as does one microsecond that passes. -/
def Obligations.CommandsKeepMemoryTheyDoNotWrite : Prop :=
  (∀ (c : Instr) (s t : State), exec c s = .next t → mayChangeMemory c = false →
    t.mem = s.mem ∧ t.badWords = s.badWords ∧ ∀ a, memByte t.mem a = memByte s.mem a) ∧
  (∀ s : State, (tick s).mem = s.mem ∧ (tick s).pending = s.pending ∧ (tick s).lanes = s.lanes ∧
    (tick s).now = (if s.regs.state = 0 ∧ s.sled.overvoltage = false then s.now else s.now + 1))
end

