-- ==== Sys2Proof/Laws/Maps.lean ====
section
/-! SUPPORT. The laws of maps keyed by number: a read after a write, and the rising order of keys. -/

namespace Sys2Proof.Machine

variable {α : Type}

@[simp] theorem find_nil (k : Nat) : KMap.find ([] : KMap α) k = none := rfl

/-- A read after a write to the same key gives the value written. -/
@[simp] theorem find_put_same (m : KMap α) (k : Nat) (v : α) : (m.put k v).find k = some v := by
  induction m with
  | nil => simp [KMap.put, KMap.find]
  | cons h r ih =>
    obtain ⟨j, w⟩ := h
    simp only [KMap.put]
    split
    · simp [KMap.find]
    · split
      · simp [KMap.find]
      · rename_i h1
        simp [KMap.find, h1, ih]

/-- A write leaves every other key alone. -/
@[simp] theorem find_put_ne (m : KMap α) {k n : Nat} (v : α) (h : n ≠ k) :
    (m.put k v).find n = m.find n := by
  induction m with
  | nil => simp [KMap.put, KMap.find, Ne.symm h]
  | cons e r ih =>
    obtain ⟨j, w⟩ := e
    simp only [KMap.put]
    split
    · simp [KMap.find, Ne.symm h]
    · split
      · rename_i h1
        simp [KMap.find, Ne.symm h, h1]
      · simp only [KMap.find, ih]

@[simp] theorem at_put_same (m : KMap α) (k : Nat) (v d : α) : (m.put k v).at k d = v := by
  simp [KMap.at]

@[simp] theorem at_put_ne (m : KMap α) {k n : Nat} (v d : α) (h : n ≠ k) :
    (m.put k v).at n d = m.at n d := by
  simp [KMap.at, h]

/-- Under a lower bound of all keys, a map is still sorted with that bound in front. -/
theorem sorted_cons (j : Nat) (w : α) (m : KMap α) :
    KMap.sorted ((j, w) :: m) = (m.all (fun kv => decide (j < kv.1)) && KMap.sorted m) := by
  induction m generalizing j w with
  | nil => simp [KMap.sorted]
  | cons e r ih =>
    obtain ⟨k, x⟩ := e
    have hall : ∀ a b : Nat, a < b → r.all (fun kv => decide (b < kv.1)) = true →
        r.all (fun kv => decide (a < kv.1)) = true := by
      intro a b hab hb
      rw [List.all_eq_true] at *
      intro y hy
      have := of_decide_eq_true (hb y hy)
      exact decide_eq_true (by omega)
    simp only [KMap.sorted, ih, List.all_cons]
    by_cases hjk : j < k
    · cases hb : r.all (fun kv => decide (k < kv.1))
      · simp
      · simp [hjk, hall j k hjk hb]
    · simp [hjk]

theorem mem_put (m : KMap α) (k : Nat) (v : α) (e : Nat × α) (h : e ∈ m.put k v) :
    e = (k, v) ∨ e ∈ m := by
  induction m with
  | nil => simpa [KMap.put] using h
  | cons x r ih =>
    obtain ⟨j, w⟩ := x
    simp only [KMap.put] at h
    split at h
    · simpa using h
    · split at h
      · rcases List.mem_cons.mp h with h | h
        · exact .inl h
        · exact .inr (List.mem_cons_of_mem _ h)
      · rcases List.mem_cons.mp h with h | h
        · exact .inr (by simp [h])
        · rcases ih h with h | h
          · exact .inl h
          · exact .inr (List.mem_cons_of_mem _ h)

theorem mem_del (m : KMap α) (k : Nat) (e : Nat × α) (h : e ∈ m.del k) : e ∈ m := by
  induction m with
  | nil => simp [KMap.del] at h
  | cons x r ih =>
    obtain ⟨j, w⟩ := x
    simp only [KMap.del] at h
    split at h
    · exact List.mem_cons_of_mem _ (ih h)
    · rcases List.mem_cons.mp h with h | h
      · simp [h]
      · exact List.mem_cons_of_mem _ (ih h)

/-- A removed key is absent, whatever the order of the keys. -/
@[simp] theorem find_del_same (m : KMap α) (k : Nat) : (m.del k).find k = none := by
  induction m with
  | nil => rfl
  | cons x r ih =>
    obtain ⟨j, w⟩ := x
    simp only [KMap.del]
    split
    · exact ih
    · rename_i hjk
      simp [KMap.find, hjk, ih]

/-- A removal leaves every other key alone. -/
@[simp] theorem find_del_ne (m : KMap α) {k n : Nat} (h : n ≠ k) : (m.del k).find n = m.find n := by
  induction m with
  | nil => rfl
  | cons x r ih =>
    obtain ⟨j, w⟩ := x
    simp only [KMap.del]
    split
    · rename_i hjk
      simp [KMap.find, hjk, Ne.symm h, ih]
    · simp only [KMap.find, ih]

/-- A write keeps the keys rising. -/
theorem sorted_put (m : KMap α) (k : Nat) (v : α) (h : m.sorted = true) : (m.put k v).sorted = true := by
  induction m with
  | nil => rfl
  | cons x r ih =>
    obtain ⟨j, w⟩ := x
    have hs := h
    rw [sorted_cons, Bool.and_eq_true, List.all_eq_true] at hs
    simp only [KMap.put]
    split
    · rename_i hk
      rw [sorted_cons, Bool.and_eq_true, List.all_eq_true]
      refine ⟨?_, h⟩
      intro y hy
      rcases List.mem_cons.mp hy with hy | hy
      · simp [hy, hk]
      · have := of_decide_eq_true (hs.1 y hy)
        exact decide_eq_true (by omega)
    · split
      · rename_i _ hjk
        rw [sorted_cons, Bool.and_eq_true, List.all_eq_true]
        exact ⟨fun y hy => by simpa [← hjk] using hs.1 y hy, hs.2⟩
      · rename_i h1 h2
        rw [sorted_cons, Bool.and_eq_true, List.all_eq_true]
        refine ⟨?_, ih hs.2⟩
        intro y hy
        rcases mem_put r k v y hy with hy | hy
        · simp [hy]; omega
        · exact hs.1 y hy

/-- Removing a key keeps the keys rising. -/
theorem sorted_del (m : KMap α) (k : Nat) (h : m.sorted = true) : (m.del k).sorted = true := by
  induction m with
  | nil => rfl
  | cons x r ih =>
    obtain ⟨j, w⟩ := x
    rw [sorted_cons, Bool.and_eq_true, List.all_eq_true] at h
    simp only [KMap.del]
    split
    · exact ih h.2
    · rw [sorted_cons, Bool.and_eq_true, List.all_eq_true]
      exact ⟨fun y hy => h.1 y (mem_del r k y hy), ih h.2⟩

/-- Dropping entries keeps the keys rising. -/
theorem sorted_filter (m : KMap α) (f : Nat × α → Bool) (h : m.sorted = true) :
    KMap.sorted (m.filter f) = true := by
  induction m with
  | nil => rfl
  | cons x r ih =>
    obtain ⟨j, w⟩ := x
    rw [sorted_cons, Bool.and_eq_true, List.all_eq_true] at h
    by_cases hf : f (j, w) = true
    · rw [List.filter_cons_of_pos hf, sorted_cons, Bool.and_eq_true, List.all_eq_true]
      exact ⟨fun y hy => h.1 y (List.mem_of_mem_filter hy), ih h.2⟩
    · rw [List.filter_cons_of_neg (by simpa using hf)]
      exact ih h.2

end Sys2Proof.Machine
end

