-- ==== Sys2Proof/Laws/State.lean ====
section
/-! SUPPORT. The laws of the state's accessors: what each named update changes, field by field, each true by
`rfl`, so that no proof unfolds a record update; and reads of one entry after a write to one. -/

namespace Sys2Proof.Machine

variable (s : State)

/-! `State.setPart` -/
@[simp] theorem setPart_pending (p : Nat) (x : PartState) : (s.setPart p x).pending = s.pending := rfl
@[simp] theorem setPart_out (p : Nat) (x : PartState) : (s.setPart p x).out = s.out := rfl
@[simp] theorem setPart_draws (p : Nat) (x : PartState) : (s.setPart p x).draws = s.draws := rfl
@[simp] theorem setPart_now (p : Nat) (x : PartState) : (s.setPart p x).now = s.now := rfl
@[simp] theorem setPart_sled (p : Nat) (x : PartState) : (s.setPart p x).sled = s.sled := rfl
@[simp] theorem setPart_regs (p : Nat) (x : PartState) : (s.setPart p x).regs = s.regs := rfl
@[simp] theorem setPart_loader (p : Nat) (x : PartState) : (s.setPart p x).loader = s.loader := rfl
@[simp] theorem setPart_pattern (p : Nat) (x : PartState) : (s.setPart p x).pattern = s.pattern := rfl
@[simp] theorem setPart_partials (p : Nat) (x : PartState) : (s.setPart p x).partials = s.partials := rfl
@[simp] theorem setPart_parts (p : Nat) (x : PartState) : (s.setPart p x).parts = s.parts.put p x := rfl
@[simp] theorem setPart_lanes (p : Nat) (x : PartState) : (s.setPart p x).lanes = s.lanes := rfl
@[simp] theorem setPart_counters (p : Nat) (x : PartState) : (s.setPart p x).counters = s.counters := rfl
@[simp] theorem setPart_awls (p : Nat) (x : PartState) : (s.setPart p x).awls = s.awls := rfl
@[simp] theorem setPart_blocks (p : Nat) (x : PartState) : (s.setPart p x).blocks = s.blocks := rfl
@[simp] theorem setPart_cores (p : Nat) (x : PartState) : (s.setPart p x).cores = s.cores := rfl
@[simp] theorem setPart_tolls (p : Nat) (x : PartState) : (s.setPart p x).tolls = s.tolls := rfl
@[simp] theorem setPart_roundabouts (p : Nat) (x : PartState) : (s.setPart p x).roundabouts = s.roundabouts := rfl
@[simp] theorem setPart_crossings (p : Nat) (x : PartState) : (s.setPart p x).crossings = s.crossings := rfl
@[simp] theorem setPart_mem (p : Nat) (x : PartState) : (s.setPart p x).mem = s.mem := rfl
@[simp] theorem setPart_badWords (p : Nat) (x : PartState) : (s.setPart p x).badWords = s.badWords := rfl
@[simp] theorem setPart_hbmEcc (p : Nat) (x : PartState) : (s.setPart p x).hbmEcc = s.hbmEcc := rfl
@[simp] theorem setPart_ddrEcc (p : Nat) (x : PartState) : (s.setPart p x).ddrEcc = s.ddrEcc := rfl
@[simp] theorem setPart_nvCmds (p : Nat) (x : PartState) : (s.setPart p x).nvCmds = s.nvCmds := rfl
@[simp] theorem setPart_fab (p : Nat) (x : PartState) : (s.setPart p x).fab = s.fab := rfl
@[simp] theorem setPart_mgmt (p : Nat) (x : PartState) : (s.setPart p x).mgmt = s.mgmt := rfl
@[simp] theorem setPart_trust (p : Nat) (x : PartState) : (s.setPart p x).trust = s.trust := rfl
@[simp] theorem setPart_power (p : Nat) (x : PartState) : (s.setPart p x).power = s.power := rfl
@[simp] theorem setPart_faults (p : Nat) (x : PartState) : (s.setPart p x).faults = s.faults := rfl
@[simp] theorem setPart_trace (p : Nat) (x : PartState) : (s.setPart p x).trace = s.trace := rfl

/-! `State.setLane` -/
@[simp] theorem setLane_pending (n : Nat) (x : Lane) : (s.setLane n x).pending = s.pending := rfl
@[simp] theorem setLane_out (n : Nat) (x : Lane) : (s.setLane n x).out = s.out := rfl
@[simp] theorem setLane_draws (n : Nat) (x : Lane) : (s.setLane n x).draws = s.draws := rfl
@[simp] theorem setLane_now (n : Nat) (x : Lane) : (s.setLane n x).now = s.now := rfl
@[simp] theorem setLane_sled (n : Nat) (x : Lane) : (s.setLane n x).sled = s.sled := rfl
@[simp] theorem setLane_regs (n : Nat) (x : Lane) : (s.setLane n x).regs = s.regs := rfl
@[simp] theorem setLane_loader (n : Nat) (x : Lane) : (s.setLane n x).loader = s.loader := rfl
@[simp] theorem setLane_pattern (n : Nat) (x : Lane) : (s.setLane n x).pattern = s.pattern := rfl
@[simp] theorem setLane_partials (n : Nat) (x : Lane) : (s.setLane n x).partials = s.partials := rfl
@[simp] theorem setLane_parts (n : Nat) (x : Lane) : (s.setLane n x).parts = s.parts := rfl
@[simp] theorem setLane_lanes (n : Nat) (x : Lane) : (s.setLane n x).lanes = s.lanes.put n x := rfl
@[simp] theorem setLane_counters (n : Nat) (x : Lane) : (s.setLane n x).counters = s.counters := rfl
@[simp] theorem setLane_awls (n : Nat) (x : Lane) : (s.setLane n x).awls = s.awls := rfl
@[simp] theorem setLane_blocks (n : Nat) (x : Lane) : (s.setLane n x).blocks = s.blocks := rfl
@[simp] theorem setLane_cores (n : Nat) (x : Lane) : (s.setLane n x).cores = s.cores := rfl
@[simp] theorem setLane_tolls (n : Nat) (x : Lane) : (s.setLane n x).tolls = s.tolls := rfl
@[simp] theorem setLane_roundabouts (n : Nat) (x : Lane) : (s.setLane n x).roundabouts = s.roundabouts := rfl
@[simp] theorem setLane_crossings (n : Nat) (x : Lane) : (s.setLane n x).crossings = s.crossings := rfl
@[simp] theorem setLane_mem (n : Nat) (x : Lane) : (s.setLane n x).mem = s.mem := rfl
@[simp] theorem setLane_badWords (n : Nat) (x : Lane) : (s.setLane n x).badWords = s.badWords := rfl
@[simp] theorem setLane_hbmEcc (n : Nat) (x : Lane) : (s.setLane n x).hbmEcc = s.hbmEcc := rfl
@[simp] theorem setLane_ddrEcc (n : Nat) (x : Lane) : (s.setLane n x).ddrEcc = s.ddrEcc := rfl
@[simp] theorem setLane_nvCmds (n : Nat) (x : Lane) : (s.setLane n x).nvCmds = s.nvCmds := rfl
@[simp] theorem setLane_fab (n : Nat) (x : Lane) : (s.setLane n x).fab = s.fab := rfl
@[simp] theorem setLane_mgmt (n : Nat) (x : Lane) : (s.setLane n x).mgmt = s.mgmt := rfl
@[simp] theorem setLane_trust (n : Nat) (x : Lane) : (s.setLane n x).trust = s.trust := rfl
@[simp] theorem setLane_power (n : Nat) (x : Lane) : (s.setLane n x).power = s.power := rfl
@[simp] theorem setLane_faults (n : Nat) (x : Lane) : (s.setLane n x).faults = s.faults := rfl
@[simp] theorem setLane_trace (n : Nat) (x : Lane) : (s.setLane n x).trace = s.trace := rfl

/-! `State.setCounter` -/
@[simp] theorem setCounter_pending (n : Nat) (x : Counter) : (s.setCounter n x).pending = s.pending := rfl
@[simp] theorem setCounter_out (n : Nat) (x : Counter) : (s.setCounter n x).out = s.out := rfl
@[simp] theorem setCounter_draws (n : Nat) (x : Counter) : (s.setCounter n x).draws = s.draws := rfl
@[simp] theorem setCounter_now (n : Nat) (x : Counter) : (s.setCounter n x).now = s.now := rfl
@[simp] theorem setCounter_sled (n : Nat) (x : Counter) : (s.setCounter n x).sled = s.sled := rfl
@[simp] theorem setCounter_regs (n : Nat) (x : Counter) : (s.setCounter n x).regs = s.regs := rfl
@[simp] theorem setCounter_loader (n : Nat) (x : Counter) : (s.setCounter n x).loader = s.loader := rfl
@[simp] theorem setCounter_pattern (n : Nat) (x : Counter) : (s.setCounter n x).pattern = s.pattern := rfl
@[simp] theorem setCounter_partials (n : Nat) (x : Counter) : (s.setCounter n x).partials = s.partials := rfl
@[simp] theorem setCounter_parts (n : Nat) (x : Counter) : (s.setCounter n x).parts = s.parts := rfl
@[simp] theorem setCounter_lanes (n : Nat) (x : Counter) : (s.setCounter n x).lanes = s.lanes := rfl
@[simp] theorem setCounter_counters (n : Nat) (x : Counter) : (s.setCounter n x).counters = s.counters.put n x := rfl
@[simp] theorem setCounter_awls (n : Nat) (x : Counter) : (s.setCounter n x).awls = s.awls := rfl
@[simp] theorem setCounter_blocks (n : Nat) (x : Counter) : (s.setCounter n x).blocks = s.blocks := rfl
@[simp] theorem setCounter_cores (n : Nat) (x : Counter) : (s.setCounter n x).cores = s.cores := rfl
@[simp] theorem setCounter_tolls (n : Nat) (x : Counter) : (s.setCounter n x).tolls = s.tolls := rfl
@[simp] theorem setCounter_roundabouts (n : Nat) (x : Counter) : (s.setCounter n x).roundabouts = s.roundabouts := rfl
@[simp] theorem setCounter_crossings (n : Nat) (x : Counter) : (s.setCounter n x).crossings = s.crossings := rfl
@[simp] theorem setCounter_mem (n : Nat) (x : Counter) : (s.setCounter n x).mem = s.mem := rfl
@[simp] theorem setCounter_badWords (n : Nat) (x : Counter) : (s.setCounter n x).badWords = s.badWords := rfl
@[simp] theorem setCounter_hbmEcc (n : Nat) (x : Counter) : (s.setCounter n x).hbmEcc = s.hbmEcc := rfl
@[simp] theorem setCounter_ddrEcc (n : Nat) (x : Counter) : (s.setCounter n x).ddrEcc = s.ddrEcc := rfl
@[simp] theorem setCounter_nvCmds (n : Nat) (x : Counter) : (s.setCounter n x).nvCmds = s.nvCmds := rfl
@[simp] theorem setCounter_fab (n : Nat) (x : Counter) : (s.setCounter n x).fab = s.fab := rfl
@[simp] theorem setCounter_mgmt (n : Nat) (x : Counter) : (s.setCounter n x).mgmt = s.mgmt := rfl
@[simp] theorem setCounter_trust (n : Nat) (x : Counter) : (s.setCounter n x).trust = s.trust := rfl
@[simp] theorem setCounter_power (n : Nat) (x : Counter) : (s.setCounter n x).power = s.power := rfl
@[simp] theorem setCounter_faults (n : Nat) (x : Counter) : (s.setCounter n x).faults = s.faults := rfl
@[simp] theorem setCounter_trace (n : Nat) (x : Counter) : (s.setCounter n x).trace = s.trace := rfl

/-! `State.setAwl` -/
@[simp] theorem setAwl_pending (n : Nat) (x : Awl) : (s.setAwl n x).pending = s.pending := rfl
@[simp] theorem setAwl_out (n : Nat) (x : Awl) : (s.setAwl n x).out = s.out := rfl
@[simp] theorem setAwl_draws (n : Nat) (x : Awl) : (s.setAwl n x).draws = s.draws := rfl
@[simp] theorem setAwl_now (n : Nat) (x : Awl) : (s.setAwl n x).now = s.now := rfl
@[simp] theorem setAwl_sled (n : Nat) (x : Awl) : (s.setAwl n x).sled = s.sled := rfl
@[simp] theorem setAwl_regs (n : Nat) (x : Awl) : (s.setAwl n x).regs = s.regs := rfl
@[simp] theorem setAwl_loader (n : Nat) (x : Awl) : (s.setAwl n x).loader = s.loader := rfl
@[simp] theorem setAwl_pattern (n : Nat) (x : Awl) : (s.setAwl n x).pattern = s.pattern := rfl
@[simp] theorem setAwl_partials (n : Nat) (x : Awl) : (s.setAwl n x).partials = s.partials := rfl
@[simp] theorem setAwl_parts (n : Nat) (x : Awl) : (s.setAwl n x).parts = s.parts := rfl
@[simp] theorem setAwl_lanes (n : Nat) (x : Awl) : (s.setAwl n x).lanes = s.lanes := rfl
@[simp] theorem setAwl_counters (n : Nat) (x : Awl) : (s.setAwl n x).counters = s.counters := rfl
@[simp] theorem setAwl_awls (n : Nat) (x : Awl) : (s.setAwl n x).awls = s.awls.put n x := rfl
@[simp] theorem setAwl_blocks (n : Nat) (x : Awl) : (s.setAwl n x).blocks = s.blocks := rfl
@[simp] theorem setAwl_cores (n : Nat) (x : Awl) : (s.setAwl n x).cores = s.cores := rfl
@[simp] theorem setAwl_tolls (n : Nat) (x : Awl) : (s.setAwl n x).tolls = s.tolls := rfl
@[simp] theorem setAwl_roundabouts (n : Nat) (x : Awl) : (s.setAwl n x).roundabouts = s.roundabouts := rfl
@[simp] theorem setAwl_crossings (n : Nat) (x : Awl) : (s.setAwl n x).crossings = s.crossings := rfl
@[simp] theorem setAwl_mem (n : Nat) (x : Awl) : (s.setAwl n x).mem = s.mem := rfl
@[simp] theorem setAwl_badWords (n : Nat) (x : Awl) : (s.setAwl n x).badWords = s.badWords := rfl
@[simp] theorem setAwl_hbmEcc (n : Nat) (x : Awl) : (s.setAwl n x).hbmEcc = s.hbmEcc := rfl
@[simp] theorem setAwl_ddrEcc (n : Nat) (x : Awl) : (s.setAwl n x).ddrEcc = s.ddrEcc := rfl
@[simp] theorem setAwl_nvCmds (n : Nat) (x : Awl) : (s.setAwl n x).nvCmds = s.nvCmds := rfl
@[simp] theorem setAwl_fab (n : Nat) (x : Awl) : (s.setAwl n x).fab = s.fab := rfl
@[simp] theorem setAwl_mgmt (n : Nat) (x : Awl) : (s.setAwl n x).mgmt = s.mgmt := rfl
@[simp] theorem setAwl_trust (n : Nat) (x : Awl) : (s.setAwl n x).trust = s.trust := rfl
@[simp] theorem setAwl_power (n : Nat) (x : Awl) : (s.setAwl n x).power = s.power := rfl
@[simp] theorem setAwl_faults (n : Nat) (x : Awl) : (s.setAwl n x).faults = s.faults := rfl
@[simp] theorem setAwl_trace (n : Nat) (x : Awl) : (s.setAwl n x).trace = s.trace := rfl

/-! `State.setBlock` -/
@[simp] theorem setBlock_pending (b : Nat) (x : Block) : (s.setBlock b x).pending = s.pending := rfl
@[simp] theorem setBlock_out (b : Nat) (x : Block) : (s.setBlock b x).out = s.out := rfl
@[simp] theorem setBlock_draws (b : Nat) (x : Block) : (s.setBlock b x).draws = s.draws := rfl
@[simp] theorem setBlock_now (b : Nat) (x : Block) : (s.setBlock b x).now = s.now := rfl
@[simp] theorem setBlock_sled (b : Nat) (x : Block) : (s.setBlock b x).sled = s.sled := rfl
@[simp] theorem setBlock_regs (b : Nat) (x : Block) : (s.setBlock b x).regs = s.regs := rfl
@[simp] theorem setBlock_loader (b : Nat) (x : Block) : (s.setBlock b x).loader = s.loader := rfl
@[simp] theorem setBlock_pattern (b : Nat) (x : Block) : (s.setBlock b x).pattern = s.pattern := rfl
@[simp] theorem setBlock_partials (b : Nat) (x : Block) : (s.setBlock b x).partials = s.partials := rfl
@[simp] theorem setBlock_parts (b : Nat) (x : Block) : (s.setBlock b x).parts = s.parts := rfl
@[simp] theorem setBlock_lanes (b : Nat) (x : Block) : (s.setBlock b x).lanes = s.lanes := rfl
@[simp] theorem setBlock_counters (b : Nat) (x : Block) : (s.setBlock b x).counters = s.counters := rfl
@[simp] theorem setBlock_awls (b : Nat) (x : Block) : (s.setBlock b x).awls = s.awls := rfl
@[simp] theorem setBlock_blocks (b : Nat) (x : Block) : (s.setBlock b x).blocks = s.blocks.put b x := rfl
@[simp] theorem setBlock_cores (b : Nat) (x : Block) : (s.setBlock b x).cores = s.cores := rfl
@[simp] theorem setBlock_tolls (b : Nat) (x : Block) : (s.setBlock b x).tolls = s.tolls := rfl
@[simp] theorem setBlock_roundabouts (b : Nat) (x : Block) : (s.setBlock b x).roundabouts = s.roundabouts := rfl
@[simp] theorem setBlock_crossings (b : Nat) (x : Block) : (s.setBlock b x).crossings = s.crossings := rfl
@[simp] theorem setBlock_mem (b : Nat) (x : Block) : (s.setBlock b x).mem = s.mem := rfl
@[simp] theorem setBlock_badWords (b : Nat) (x : Block) : (s.setBlock b x).badWords = s.badWords := rfl
@[simp] theorem setBlock_hbmEcc (b : Nat) (x : Block) : (s.setBlock b x).hbmEcc = s.hbmEcc := rfl
@[simp] theorem setBlock_ddrEcc (b : Nat) (x : Block) : (s.setBlock b x).ddrEcc = s.ddrEcc := rfl
@[simp] theorem setBlock_nvCmds (b : Nat) (x : Block) : (s.setBlock b x).nvCmds = s.nvCmds := rfl
@[simp] theorem setBlock_fab (b : Nat) (x : Block) : (s.setBlock b x).fab = s.fab := rfl
@[simp] theorem setBlock_mgmt (b : Nat) (x : Block) : (s.setBlock b x).mgmt = s.mgmt := rfl
@[simp] theorem setBlock_trust (b : Nat) (x : Block) : (s.setBlock b x).trust = s.trust := rfl
@[simp] theorem setBlock_power (b : Nat) (x : Block) : (s.setBlock b x).power = s.power := rfl
@[simp] theorem setBlock_faults (b : Nat) (x : Block) : (s.setBlock b x).faults = s.faults := rfl
@[simp] theorem setBlock_trace (b : Nat) (x : Block) : (s.setBlock b x).trace = s.trace := rfl

/-! `State.setCore` -/
@[simp] theorem setCore_pending (b c : Nat) (x : Core) : (s.setCore b c x).pending = s.pending := rfl
@[simp] theorem setCore_out (b c : Nat) (x : Core) : (s.setCore b c x).out = s.out := rfl
@[simp] theorem setCore_draws (b c : Nat) (x : Core) : (s.setCore b c x).draws = s.draws := rfl
@[simp] theorem setCore_now (b c : Nat) (x : Core) : (s.setCore b c x).now = s.now := rfl
@[simp] theorem setCore_sled (b c : Nat) (x : Core) : (s.setCore b c x).sled = s.sled := rfl
@[simp] theorem setCore_regs (b c : Nat) (x : Core) : (s.setCore b c x).regs = s.regs := rfl
@[simp] theorem setCore_loader (b c : Nat) (x : Core) : (s.setCore b c x).loader = s.loader := rfl
@[simp] theorem setCore_pattern (b c : Nat) (x : Core) : (s.setCore b c x).pattern = s.pattern := rfl
@[simp] theorem setCore_partials (b c : Nat) (x : Core) : (s.setCore b c x).partials = s.partials := rfl
@[simp] theorem setCore_parts (b c : Nat) (x : Core) : (s.setCore b c x).parts = s.parts := rfl
@[simp] theorem setCore_lanes (b c : Nat) (x : Core) : (s.setCore b c x).lanes = s.lanes := rfl
@[simp] theorem setCore_counters (b c : Nat) (x : Core) : (s.setCore b c x).counters = s.counters := rfl
@[simp] theorem setCore_awls (b c : Nat) (x : Core) : (s.setCore b c x).awls = s.awls := rfl
@[simp] theorem setCore_blocks (b c : Nat) (x : Core) : (s.setCore b c x).blocks = s.blocks := rfl
@[simp] theorem setCore_cores (b c : Nat) (x : Core) : (s.setCore b c x).cores = s.cores.put (coreKey b c) x := rfl
@[simp] theorem setCore_tolls (b c : Nat) (x : Core) : (s.setCore b c x).tolls = s.tolls := rfl
@[simp] theorem setCore_roundabouts (b c : Nat) (x : Core) : (s.setCore b c x).roundabouts = s.roundabouts := rfl
@[simp] theorem setCore_crossings (b c : Nat) (x : Core) : (s.setCore b c x).crossings = s.crossings := rfl
@[simp] theorem setCore_mem (b c : Nat) (x : Core) : (s.setCore b c x).mem = s.mem := rfl
@[simp] theorem setCore_badWords (b c : Nat) (x : Core) : (s.setCore b c x).badWords = s.badWords := rfl
@[simp] theorem setCore_hbmEcc (b c : Nat) (x : Core) : (s.setCore b c x).hbmEcc = s.hbmEcc := rfl
@[simp] theorem setCore_ddrEcc (b c : Nat) (x : Core) : (s.setCore b c x).ddrEcc = s.ddrEcc := rfl
@[simp] theorem setCore_nvCmds (b c : Nat) (x : Core) : (s.setCore b c x).nvCmds = s.nvCmds := rfl
@[simp] theorem setCore_fab (b c : Nat) (x : Core) : (s.setCore b c x).fab = s.fab := rfl
@[simp] theorem setCore_mgmt (b c : Nat) (x : Core) : (s.setCore b c x).mgmt = s.mgmt := rfl
@[simp] theorem setCore_trust (b c : Nat) (x : Core) : (s.setCore b c x).trust = s.trust := rfl
@[simp] theorem setCore_power (b c : Nat) (x : Core) : (s.setCore b c x).power = s.power := rfl
@[simp] theorem setCore_faults (b c : Nat) (x : Core) : (s.setCore b c x).faults = s.faults := rfl
@[simp] theorem setCore_trace (b c : Nat) (x : Core) : (s.setCore b c x).trace = s.trace := rfl

/-! `State.setToll` -/
@[simp] theorem setToll_pending (n : Nat) (x : Toll) : (s.setToll n x).pending = s.pending := rfl
@[simp] theorem setToll_out (n : Nat) (x : Toll) : (s.setToll n x).out = s.out := rfl
@[simp] theorem setToll_draws (n : Nat) (x : Toll) : (s.setToll n x).draws = s.draws := rfl
@[simp] theorem setToll_now (n : Nat) (x : Toll) : (s.setToll n x).now = s.now := rfl
@[simp] theorem setToll_sled (n : Nat) (x : Toll) : (s.setToll n x).sled = s.sled := rfl
@[simp] theorem setToll_regs (n : Nat) (x : Toll) : (s.setToll n x).regs = s.regs := rfl
@[simp] theorem setToll_loader (n : Nat) (x : Toll) : (s.setToll n x).loader = s.loader := rfl
@[simp] theorem setToll_pattern (n : Nat) (x : Toll) : (s.setToll n x).pattern = s.pattern := rfl
@[simp] theorem setToll_partials (n : Nat) (x : Toll) : (s.setToll n x).partials = s.partials := rfl
@[simp] theorem setToll_parts (n : Nat) (x : Toll) : (s.setToll n x).parts = s.parts := rfl
@[simp] theorem setToll_lanes (n : Nat) (x : Toll) : (s.setToll n x).lanes = s.lanes := rfl
@[simp] theorem setToll_counters (n : Nat) (x : Toll) : (s.setToll n x).counters = s.counters := rfl
@[simp] theorem setToll_awls (n : Nat) (x : Toll) : (s.setToll n x).awls = s.awls := rfl
@[simp] theorem setToll_blocks (n : Nat) (x : Toll) : (s.setToll n x).blocks = s.blocks := rfl
@[simp] theorem setToll_cores (n : Nat) (x : Toll) : (s.setToll n x).cores = s.cores := rfl
@[simp] theorem setToll_tolls (n : Nat) (x : Toll) : (s.setToll n x).tolls = s.tolls.put n x := rfl
@[simp] theorem setToll_roundabouts (n : Nat) (x : Toll) : (s.setToll n x).roundabouts = s.roundabouts := rfl
@[simp] theorem setToll_crossings (n : Nat) (x : Toll) : (s.setToll n x).crossings = s.crossings := rfl
@[simp] theorem setToll_mem (n : Nat) (x : Toll) : (s.setToll n x).mem = s.mem := rfl
@[simp] theorem setToll_badWords (n : Nat) (x : Toll) : (s.setToll n x).badWords = s.badWords := rfl
@[simp] theorem setToll_hbmEcc (n : Nat) (x : Toll) : (s.setToll n x).hbmEcc = s.hbmEcc := rfl
@[simp] theorem setToll_ddrEcc (n : Nat) (x : Toll) : (s.setToll n x).ddrEcc = s.ddrEcc := rfl
@[simp] theorem setToll_nvCmds (n : Nat) (x : Toll) : (s.setToll n x).nvCmds = s.nvCmds := rfl
@[simp] theorem setToll_fab (n : Nat) (x : Toll) : (s.setToll n x).fab = s.fab := rfl
@[simp] theorem setToll_mgmt (n : Nat) (x : Toll) : (s.setToll n x).mgmt = s.mgmt := rfl
@[simp] theorem setToll_trust (n : Nat) (x : Toll) : (s.setToll n x).trust = s.trust := rfl
@[simp] theorem setToll_power (n : Nat) (x : Toll) : (s.setToll n x).power = s.power := rfl
@[simp] theorem setToll_faults (n : Nat) (x : Toll) : (s.setToll n x).faults = s.faults := rfl
@[simp] theorem setToll_trace (n : Nat) (x : Toll) : (s.setToll n x).trace = s.trace := rfl

/-! `State.setRoundabout` -/
@[simp] theorem setRoundabout_pending (n : Nat) (x : Roundabout) : (s.setRoundabout n x).pending = s.pending := rfl
@[simp] theorem setRoundabout_out (n : Nat) (x : Roundabout) : (s.setRoundabout n x).out = s.out := rfl
@[simp] theorem setRoundabout_draws (n : Nat) (x : Roundabout) : (s.setRoundabout n x).draws = s.draws := rfl
@[simp] theorem setRoundabout_now (n : Nat) (x : Roundabout) : (s.setRoundabout n x).now = s.now := rfl
@[simp] theorem setRoundabout_sled (n : Nat) (x : Roundabout) : (s.setRoundabout n x).sled = s.sled := rfl
@[simp] theorem setRoundabout_regs (n : Nat) (x : Roundabout) : (s.setRoundabout n x).regs = s.regs := rfl
@[simp] theorem setRoundabout_loader (n : Nat) (x : Roundabout) : (s.setRoundabout n x).loader = s.loader := rfl
@[simp] theorem setRoundabout_pattern (n : Nat) (x : Roundabout) : (s.setRoundabout n x).pattern = s.pattern := rfl
@[simp] theorem setRoundabout_partials (n : Nat) (x : Roundabout) : (s.setRoundabout n x).partials = s.partials := rfl
@[simp] theorem setRoundabout_parts (n : Nat) (x : Roundabout) : (s.setRoundabout n x).parts = s.parts := rfl
@[simp] theorem setRoundabout_lanes (n : Nat) (x : Roundabout) : (s.setRoundabout n x).lanes = s.lanes := rfl
@[simp] theorem setRoundabout_counters (n : Nat) (x : Roundabout) : (s.setRoundabout n x).counters = s.counters := rfl
@[simp] theorem setRoundabout_awls (n : Nat) (x : Roundabout) : (s.setRoundabout n x).awls = s.awls := rfl
@[simp] theorem setRoundabout_blocks (n : Nat) (x : Roundabout) : (s.setRoundabout n x).blocks = s.blocks := rfl
@[simp] theorem setRoundabout_cores (n : Nat) (x : Roundabout) : (s.setRoundabout n x).cores = s.cores := rfl
@[simp] theorem setRoundabout_tolls (n : Nat) (x : Roundabout) : (s.setRoundabout n x).tolls = s.tolls := rfl
@[simp] theorem setRoundabout_roundabouts (n : Nat) (x : Roundabout) : (s.setRoundabout n x).roundabouts = s.roundabouts.put n x := rfl
@[simp] theorem setRoundabout_crossings (n : Nat) (x : Roundabout) : (s.setRoundabout n x).crossings = s.crossings := rfl
@[simp] theorem setRoundabout_mem (n : Nat) (x : Roundabout) : (s.setRoundabout n x).mem = s.mem := rfl
@[simp] theorem setRoundabout_badWords (n : Nat) (x : Roundabout) : (s.setRoundabout n x).badWords = s.badWords := rfl
@[simp] theorem setRoundabout_hbmEcc (n : Nat) (x : Roundabout) : (s.setRoundabout n x).hbmEcc = s.hbmEcc := rfl
@[simp] theorem setRoundabout_ddrEcc (n : Nat) (x : Roundabout) : (s.setRoundabout n x).ddrEcc = s.ddrEcc := rfl
@[simp] theorem setRoundabout_nvCmds (n : Nat) (x : Roundabout) : (s.setRoundabout n x).nvCmds = s.nvCmds := rfl
@[simp] theorem setRoundabout_fab (n : Nat) (x : Roundabout) : (s.setRoundabout n x).fab = s.fab := rfl
@[simp] theorem setRoundabout_mgmt (n : Nat) (x : Roundabout) : (s.setRoundabout n x).mgmt = s.mgmt := rfl
@[simp] theorem setRoundabout_trust (n : Nat) (x : Roundabout) : (s.setRoundabout n x).trust = s.trust := rfl
@[simp] theorem setRoundabout_power (n : Nat) (x : Roundabout) : (s.setRoundabout n x).power = s.power := rfl
@[simp] theorem setRoundabout_faults (n : Nat) (x : Roundabout) : (s.setRoundabout n x).faults = s.faults := rfl
@[simp] theorem setRoundabout_trace (n : Nat) (x : Roundabout) : (s.setRoundabout n x).trace = s.trace := rfl

/-! `State.setCrossing` -/
@[simp] theorem setCrossing_pending (n : Nat) (x : Crossing) : (s.setCrossing n x).pending = s.pending := rfl
@[simp] theorem setCrossing_out (n : Nat) (x : Crossing) : (s.setCrossing n x).out = s.out := rfl
@[simp] theorem setCrossing_draws (n : Nat) (x : Crossing) : (s.setCrossing n x).draws = s.draws := rfl
@[simp] theorem setCrossing_now (n : Nat) (x : Crossing) : (s.setCrossing n x).now = s.now := rfl
@[simp] theorem setCrossing_sled (n : Nat) (x : Crossing) : (s.setCrossing n x).sled = s.sled := rfl
@[simp] theorem setCrossing_regs (n : Nat) (x : Crossing) : (s.setCrossing n x).regs = s.regs := rfl
@[simp] theorem setCrossing_loader (n : Nat) (x : Crossing) : (s.setCrossing n x).loader = s.loader := rfl
@[simp] theorem setCrossing_pattern (n : Nat) (x : Crossing) : (s.setCrossing n x).pattern = s.pattern := rfl
@[simp] theorem setCrossing_partials (n : Nat) (x : Crossing) : (s.setCrossing n x).partials = s.partials := rfl
@[simp] theorem setCrossing_parts (n : Nat) (x : Crossing) : (s.setCrossing n x).parts = s.parts := rfl
@[simp] theorem setCrossing_lanes (n : Nat) (x : Crossing) : (s.setCrossing n x).lanes = s.lanes := rfl
@[simp] theorem setCrossing_counters (n : Nat) (x : Crossing) : (s.setCrossing n x).counters = s.counters := rfl
@[simp] theorem setCrossing_awls (n : Nat) (x : Crossing) : (s.setCrossing n x).awls = s.awls := rfl
@[simp] theorem setCrossing_blocks (n : Nat) (x : Crossing) : (s.setCrossing n x).blocks = s.blocks := rfl
@[simp] theorem setCrossing_cores (n : Nat) (x : Crossing) : (s.setCrossing n x).cores = s.cores := rfl
@[simp] theorem setCrossing_tolls (n : Nat) (x : Crossing) : (s.setCrossing n x).tolls = s.tolls := rfl
@[simp] theorem setCrossing_roundabouts (n : Nat) (x : Crossing) : (s.setCrossing n x).roundabouts = s.roundabouts := rfl
@[simp] theorem setCrossing_crossings (n : Nat) (x : Crossing) : (s.setCrossing n x).crossings = s.crossings.put n x := rfl
@[simp] theorem setCrossing_mem (n : Nat) (x : Crossing) : (s.setCrossing n x).mem = s.mem := rfl
@[simp] theorem setCrossing_badWords (n : Nat) (x : Crossing) : (s.setCrossing n x).badWords = s.badWords := rfl
@[simp] theorem setCrossing_hbmEcc (n : Nat) (x : Crossing) : (s.setCrossing n x).hbmEcc = s.hbmEcc := rfl
@[simp] theorem setCrossing_ddrEcc (n : Nat) (x : Crossing) : (s.setCrossing n x).ddrEcc = s.ddrEcc := rfl
@[simp] theorem setCrossing_nvCmds (n : Nat) (x : Crossing) : (s.setCrossing n x).nvCmds = s.nvCmds := rfl
@[simp] theorem setCrossing_fab (n : Nat) (x : Crossing) : (s.setCrossing n x).fab = s.fab := rfl
@[simp] theorem setCrossing_mgmt (n : Nat) (x : Crossing) : (s.setCrossing n x).mgmt = s.mgmt := rfl
@[simp] theorem setCrossing_trust (n : Nat) (x : Crossing) : (s.setCrossing n x).trust = s.trust := rfl
@[simp] theorem setCrossing_power (n : Nat) (x : Crossing) : (s.setCrossing n x).power = s.power := rfl
@[simp] theorem setCrossing_faults (n : Nat) (x : Crossing) : (s.setCrossing n x).faults = s.faults := rfl
@[simp] theorem setCrossing_trace (n : Nat) (x : Crossing) : (s.setCrossing n x).trace = s.trace := rfl

/-! `State.modFab` -/
@[simp] theorem modFab_pending (f : Fabric → Fabric) : (s.modFab f).pending = s.pending := rfl
@[simp] theorem modFab_out (f : Fabric → Fabric) : (s.modFab f).out = s.out := rfl
@[simp] theorem modFab_draws (f : Fabric → Fabric) : (s.modFab f).draws = s.draws := rfl
@[simp] theorem modFab_now (f : Fabric → Fabric) : (s.modFab f).now = s.now := rfl
@[simp] theorem modFab_sled (f : Fabric → Fabric) : (s.modFab f).sled = s.sled := rfl
@[simp] theorem modFab_regs (f : Fabric → Fabric) : (s.modFab f).regs = s.regs := rfl
@[simp] theorem modFab_loader (f : Fabric → Fabric) : (s.modFab f).loader = s.loader := rfl
@[simp] theorem modFab_pattern (f : Fabric → Fabric) : (s.modFab f).pattern = s.pattern := rfl
@[simp] theorem modFab_partials (f : Fabric → Fabric) : (s.modFab f).partials = s.partials := rfl
@[simp] theorem modFab_parts (f : Fabric → Fabric) : (s.modFab f).parts = s.parts := rfl
@[simp] theorem modFab_lanes (f : Fabric → Fabric) : (s.modFab f).lanes = s.lanes := rfl
@[simp] theorem modFab_counters (f : Fabric → Fabric) : (s.modFab f).counters = s.counters := rfl
@[simp] theorem modFab_awls (f : Fabric → Fabric) : (s.modFab f).awls = s.awls := rfl
@[simp] theorem modFab_blocks (f : Fabric → Fabric) : (s.modFab f).blocks = s.blocks := rfl
@[simp] theorem modFab_cores (f : Fabric → Fabric) : (s.modFab f).cores = s.cores := rfl
@[simp] theorem modFab_tolls (f : Fabric → Fabric) : (s.modFab f).tolls = s.tolls := rfl
@[simp] theorem modFab_roundabouts (f : Fabric → Fabric) : (s.modFab f).roundabouts = s.roundabouts := rfl
@[simp] theorem modFab_crossings (f : Fabric → Fabric) : (s.modFab f).crossings = s.crossings := rfl
@[simp] theorem modFab_mem (f : Fabric → Fabric) : (s.modFab f).mem = s.mem := rfl
@[simp] theorem modFab_badWords (f : Fabric → Fabric) : (s.modFab f).badWords = s.badWords := rfl
@[simp] theorem modFab_hbmEcc (f : Fabric → Fabric) : (s.modFab f).hbmEcc = s.hbmEcc := rfl
@[simp] theorem modFab_ddrEcc (f : Fabric → Fabric) : (s.modFab f).ddrEcc = s.ddrEcc := rfl
@[simp] theorem modFab_nvCmds (f : Fabric → Fabric) : (s.modFab f).nvCmds = s.nvCmds := rfl
@[simp] theorem modFab_fab (f : Fabric → Fabric) : (s.modFab f).fab = f s.fab := rfl
@[simp] theorem modFab_mgmt (f : Fabric → Fabric) : (s.modFab f).mgmt = s.mgmt := rfl
@[simp] theorem modFab_trust (f : Fabric → Fabric) : (s.modFab f).trust = s.trust := rfl
@[simp] theorem modFab_power (f : Fabric → Fabric) : (s.modFab f).power = s.power := rfl
@[simp] theorem modFab_faults (f : Fabric → Fabric) : (s.modFab f).faults = s.faults := rfl
@[simp] theorem modFab_trace (f : Fabric → Fabric) : (s.modFab f).trace = s.trace := rfl

/-! `State.modMgmt` -/
@[simp] theorem modMgmt_pending (f : Mgmt → Mgmt) : (s.modMgmt f).pending = s.pending := rfl
@[simp] theorem modMgmt_out (f : Mgmt → Mgmt) : (s.modMgmt f).out = s.out := rfl
@[simp] theorem modMgmt_draws (f : Mgmt → Mgmt) : (s.modMgmt f).draws = s.draws := rfl
@[simp] theorem modMgmt_now (f : Mgmt → Mgmt) : (s.modMgmt f).now = s.now := rfl
@[simp] theorem modMgmt_sled (f : Mgmt → Mgmt) : (s.modMgmt f).sled = s.sled := rfl
@[simp] theorem modMgmt_regs (f : Mgmt → Mgmt) : (s.modMgmt f).regs = s.regs := rfl
@[simp] theorem modMgmt_loader (f : Mgmt → Mgmt) : (s.modMgmt f).loader = s.loader := rfl
@[simp] theorem modMgmt_pattern (f : Mgmt → Mgmt) : (s.modMgmt f).pattern = s.pattern := rfl
@[simp] theorem modMgmt_partials (f : Mgmt → Mgmt) : (s.modMgmt f).partials = s.partials := rfl
@[simp] theorem modMgmt_parts (f : Mgmt → Mgmt) : (s.modMgmt f).parts = s.parts := rfl
@[simp] theorem modMgmt_lanes (f : Mgmt → Mgmt) : (s.modMgmt f).lanes = s.lanes := rfl
@[simp] theorem modMgmt_counters (f : Mgmt → Mgmt) : (s.modMgmt f).counters = s.counters := rfl
@[simp] theorem modMgmt_awls (f : Mgmt → Mgmt) : (s.modMgmt f).awls = s.awls := rfl
@[simp] theorem modMgmt_blocks (f : Mgmt → Mgmt) : (s.modMgmt f).blocks = s.blocks := rfl
@[simp] theorem modMgmt_cores (f : Mgmt → Mgmt) : (s.modMgmt f).cores = s.cores := rfl
@[simp] theorem modMgmt_tolls (f : Mgmt → Mgmt) : (s.modMgmt f).tolls = s.tolls := rfl
@[simp] theorem modMgmt_roundabouts (f : Mgmt → Mgmt) : (s.modMgmt f).roundabouts = s.roundabouts := rfl
@[simp] theorem modMgmt_crossings (f : Mgmt → Mgmt) : (s.modMgmt f).crossings = s.crossings := rfl
@[simp] theorem modMgmt_mem (f : Mgmt → Mgmt) : (s.modMgmt f).mem = s.mem := rfl
@[simp] theorem modMgmt_badWords (f : Mgmt → Mgmt) : (s.modMgmt f).badWords = s.badWords := rfl
@[simp] theorem modMgmt_hbmEcc (f : Mgmt → Mgmt) : (s.modMgmt f).hbmEcc = s.hbmEcc := rfl
@[simp] theorem modMgmt_ddrEcc (f : Mgmt → Mgmt) : (s.modMgmt f).ddrEcc = s.ddrEcc := rfl
@[simp] theorem modMgmt_nvCmds (f : Mgmt → Mgmt) : (s.modMgmt f).nvCmds = s.nvCmds := rfl
@[simp] theorem modMgmt_fab (f : Mgmt → Mgmt) : (s.modMgmt f).fab = s.fab := rfl
@[simp] theorem modMgmt_mgmt (f : Mgmt → Mgmt) : (s.modMgmt f).mgmt = f s.mgmt := rfl
@[simp] theorem modMgmt_trust (f : Mgmt → Mgmt) : (s.modMgmt f).trust = s.trust := rfl
@[simp] theorem modMgmt_power (f : Mgmt → Mgmt) : (s.modMgmt f).power = s.power := rfl
@[simp] theorem modMgmt_faults (f : Mgmt → Mgmt) : (s.modMgmt f).faults = s.faults := rfl
@[simp] theorem modMgmt_trace (f : Mgmt → Mgmt) : (s.modMgmt f).trace = s.trace := rfl

/-! `State.modRegs` -/
@[simp] theorem modRegs_pending (f : ModRegs → ModRegs) : (s.modRegs f).pending = s.pending := rfl
@[simp] theorem modRegs_out (f : ModRegs → ModRegs) : (s.modRegs f).out = s.out := rfl
@[simp] theorem modRegs_draws (f : ModRegs → ModRegs) : (s.modRegs f).draws = s.draws := rfl
@[simp] theorem modRegs_now (f : ModRegs → ModRegs) : (s.modRegs f).now = s.now := rfl
@[simp] theorem modRegs_sled (f : ModRegs → ModRegs) : (s.modRegs f).sled = s.sled := rfl
@[simp] theorem modRegs_regs (f : ModRegs → ModRegs) : (s.modRegs f).regs = f s.regs := rfl
@[simp] theorem modRegs_loader (f : ModRegs → ModRegs) : (s.modRegs f).loader = s.loader := rfl
@[simp] theorem modRegs_pattern (f : ModRegs → ModRegs) : (s.modRegs f).pattern = s.pattern := rfl
@[simp] theorem modRegs_partials (f : ModRegs → ModRegs) : (s.modRegs f).partials = s.partials := rfl
@[simp] theorem modRegs_parts (f : ModRegs → ModRegs) : (s.modRegs f).parts = s.parts := rfl
@[simp] theorem modRegs_lanes (f : ModRegs → ModRegs) : (s.modRegs f).lanes = s.lanes := rfl
@[simp] theorem modRegs_counters (f : ModRegs → ModRegs) : (s.modRegs f).counters = s.counters := rfl
@[simp] theorem modRegs_awls (f : ModRegs → ModRegs) : (s.modRegs f).awls = s.awls := rfl
@[simp] theorem modRegs_blocks (f : ModRegs → ModRegs) : (s.modRegs f).blocks = s.blocks := rfl
@[simp] theorem modRegs_cores (f : ModRegs → ModRegs) : (s.modRegs f).cores = s.cores := rfl
@[simp] theorem modRegs_tolls (f : ModRegs → ModRegs) : (s.modRegs f).tolls = s.tolls := rfl
@[simp] theorem modRegs_roundabouts (f : ModRegs → ModRegs) : (s.modRegs f).roundabouts = s.roundabouts := rfl
@[simp] theorem modRegs_crossings (f : ModRegs → ModRegs) : (s.modRegs f).crossings = s.crossings := rfl
@[simp] theorem modRegs_mem (f : ModRegs → ModRegs) : (s.modRegs f).mem = s.mem := rfl
@[simp] theorem modRegs_badWords (f : ModRegs → ModRegs) : (s.modRegs f).badWords = s.badWords := rfl
@[simp] theorem modRegs_hbmEcc (f : ModRegs → ModRegs) : (s.modRegs f).hbmEcc = s.hbmEcc := rfl
@[simp] theorem modRegs_ddrEcc (f : ModRegs → ModRegs) : (s.modRegs f).ddrEcc = s.ddrEcc := rfl
@[simp] theorem modRegs_nvCmds (f : ModRegs → ModRegs) : (s.modRegs f).nvCmds = s.nvCmds := rfl
@[simp] theorem modRegs_fab (f : ModRegs → ModRegs) : (s.modRegs f).fab = s.fab := rfl
@[simp] theorem modRegs_mgmt (f : ModRegs → ModRegs) : (s.modRegs f).mgmt = s.mgmt := rfl
@[simp] theorem modRegs_trust (f : ModRegs → ModRegs) : (s.modRegs f).trust = s.trust := rfl
@[simp] theorem modRegs_power (f : ModRegs → ModRegs) : (s.modRegs f).power = s.power := rfl
@[simp] theorem modRegs_faults (f : ModRegs → ModRegs) : (s.modRegs f).faults = s.faults := rfl
@[simp] theorem modRegs_trace (f : ModRegs → ModRegs) : (s.modRegs f).trace = s.trace := rfl

/-! `State.modLoader` -/
@[simp] theorem modLoader_pending (f : Loader → Loader) : (s.modLoader f).pending = s.pending := rfl
@[simp] theorem modLoader_out (f : Loader → Loader) : (s.modLoader f).out = s.out := rfl
@[simp] theorem modLoader_draws (f : Loader → Loader) : (s.modLoader f).draws = s.draws := rfl
@[simp] theorem modLoader_now (f : Loader → Loader) : (s.modLoader f).now = s.now := rfl
@[simp] theorem modLoader_sled (f : Loader → Loader) : (s.modLoader f).sled = s.sled := rfl
@[simp] theorem modLoader_regs (f : Loader → Loader) : (s.modLoader f).regs = s.regs := rfl
@[simp] theorem modLoader_loader (f : Loader → Loader) : (s.modLoader f).loader = f s.loader := rfl
@[simp] theorem modLoader_pattern (f : Loader → Loader) : (s.modLoader f).pattern = s.pattern := rfl
@[simp] theorem modLoader_partials (f : Loader → Loader) : (s.modLoader f).partials = s.partials := rfl
@[simp] theorem modLoader_parts (f : Loader → Loader) : (s.modLoader f).parts = s.parts := rfl
@[simp] theorem modLoader_lanes (f : Loader → Loader) : (s.modLoader f).lanes = s.lanes := rfl
@[simp] theorem modLoader_counters (f : Loader → Loader) : (s.modLoader f).counters = s.counters := rfl
@[simp] theorem modLoader_awls (f : Loader → Loader) : (s.modLoader f).awls = s.awls := rfl
@[simp] theorem modLoader_blocks (f : Loader → Loader) : (s.modLoader f).blocks = s.blocks := rfl
@[simp] theorem modLoader_cores (f : Loader → Loader) : (s.modLoader f).cores = s.cores := rfl
@[simp] theorem modLoader_tolls (f : Loader → Loader) : (s.modLoader f).tolls = s.tolls := rfl
@[simp] theorem modLoader_roundabouts (f : Loader → Loader) : (s.modLoader f).roundabouts = s.roundabouts := rfl
@[simp] theorem modLoader_crossings (f : Loader → Loader) : (s.modLoader f).crossings = s.crossings := rfl
@[simp] theorem modLoader_mem (f : Loader → Loader) : (s.modLoader f).mem = s.mem := rfl
@[simp] theorem modLoader_badWords (f : Loader → Loader) : (s.modLoader f).badWords = s.badWords := rfl
@[simp] theorem modLoader_hbmEcc (f : Loader → Loader) : (s.modLoader f).hbmEcc = s.hbmEcc := rfl
@[simp] theorem modLoader_ddrEcc (f : Loader → Loader) : (s.modLoader f).ddrEcc = s.ddrEcc := rfl
@[simp] theorem modLoader_nvCmds (f : Loader → Loader) : (s.modLoader f).nvCmds = s.nvCmds := rfl
@[simp] theorem modLoader_fab (f : Loader → Loader) : (s.modLoader f).fab = s.fab := rfl
@[simp] theorem modLoader_mgmt (f : Loader → Loader) : (s.modLoader f).mgmt = s.mgmt := rfl
@[simp] theorem modLoader_trust (f : Loader → Loader) : (s.modLoader f).trust = s.trust := rfl
@[simp] theorem modLoader_power (f : Loader → Loader) : (s.modLoader f).power = s.power := rfl
@[simp] theorem modLoader_faults (f : Loader → Loader) : (s.modLoader f).faults = s.faults := rfl
@[simp] theorem modLoader_trace (f : Loader → Loader) : (s.modLoader f).trace = s.trace := rfl

/-! `State.modPow` -/
@[simp] theorem modPow_pending (f : Power → Power) : (s.modPow f).pending = s.pending := rfl
@[simp] theorem modPow_out (f : Power → Power) : (s.modPow f).out = s.out := rfl
@[simp] theorem modPow_draws (f : Power → Power) : (s.modPow f).draws = s.draws := rfl
@[simp] theorem modPow_now (f : Power → Power) : (s.modPow f).now = s.now := rfl
@[simp] theorem modPow_sled (f : Power → Power) : (s.modPow f).sled = s.sled := rfl
@[simp] theorem modPow_regs (f : Power → Power) : (s.modPow f).regs = s.regs := rfl
@[simp] theorem modPow_loader (f : Power → Power) : (s.modPow f).loader = s.loader := rfl
@[simp] theorem modPow_pattern (f : Power → Power) : (s.modPow f).pattern = s.pattern := rfl
@[simp] theorem modPow_partials (f : Power → Power) : (s.modPow f).partials = s.partials := rfl
@[simp] theorem modPow_parts (f : Power → Power) : (s.modPow f).parts = s.parts := rfl
@[simp] theorem modPow_lanes (f : Power → Power) : (s.modPow f).lanes = s.lanes := rfl
@[simp] theorem modPow_counters (f : Power → Power) : (s.modPow f).counters = s.counters := rfl
@[simp] theorem modPow_awls (f : Power → Power) : (s.modPow f).awls = s.awls := rfl
@[simp] theorem modPow_blocks (f : Power → Power) : (s.modPow f).blocks = s.blocks := rfl
@[simp] theorem modPow_cores (f : Power → Power) : (s.modPow f).cores = s.cores := rfl
@[simp] theorem modPow_tolls (f : Power → Power) : (s.modPow f).tolls = s.tolls := rfl
@[simp] theorem modPow_roundabouts (f : Power → Power) : (s.modPow f).roundabouts = s.roundabouts := rfl
@[simp] theorem modPow_crossings (f : Power → Power) : (s.modPow f).crossings = s.crossings := rfl
@[simp] theorem modPow_mem (f : Power → Power) : (s.modPow f).mem = s.mem := rfl
@[simp] theorem modPow_badWords (f : Power → Power) : (s.modPow f).badWords = s.badWords := rfl
@[simp] theorem modPow_hbmEcc (f : Power → Power) : (s.modPow f).hbmEcc = s.hbmEcc := rfl
@[simp] theorem modPow_ddrEcc (f : Power → Power) : (s.modPow f).ddrEcc = s.ddrEcc := rfl
@[simp] theorem modPow_nvCmds (f : Power → Power) : (s.modPow f).nvCmds = s.nvCmds := rfl
@[simp] theorem modPow_fab (f : Power → Power) : (s.modPow f).fab = s.fab := rfl
@[simp] theorem modPow_mgmt (f : Power → Power) : (s.modPow f).mgmt = s.mgmt := rfl
@[simp] theorem modPow_trust (f : Power → Power) : (s.modPow f).trust = s.trust := rfl
@[simp] theorem modPow_power (f : Power → Power) : (s.modPow f).power = f s.power := rfl
@[simp] theorem modPow_faults (f : Power → Power) : (s.modPow f).faults = s.faults := rfl
@[simp] theorem modPow_trace (f : Power → Power) : (s.modPow f).trace = s.trace := rfl

/-! `State.modFlt` -/
@[simp] theorem modFlt_pending (f : Faults → Faults) : (s.modFlt f).pending = s.pending := rfl
@[simp] theorem modFlt_out (f : Faults → Faults) : (s.modFlt f).out = s.out := rfl
@[simp] theorem modFlt_draws (f : Faults → Faults) : (s.modFlt f).draws = s.draws := rfl
@[simp] theorem modFlt_now (f : Faults → Faults) : (s.modFlt f).now = s.now := rfl
@[simp] theorem modFlt_sled (f : Faults → Faults) : (s.modFlt f).sled = s.sled := rfl
@[simp] theorem modFlt_regs (f : Faults → Faults) : (s.modFlt f).regs = s.regs := rfl
@[simp] theorem modFlt_loader (f : Faults → Faults) : (s.modFlt f).loader = s.loader := rfl
@[simp] theorem modFlt_pattern (f : Faults → Faults) : (s.modFlt f).pattern = s.pattern := rfl
@[simp] theorem modFlt_partials (f : Faults → Faults) : (s.modFlt f).partials = s.partials := rfl
@[simp] theorem modFlt_parts (f : Faults → Faults) : (s.modFlt f).parts = s.parts := rfl
@[simp] theorem modFlt_lanes (f : Faults → Faults) : (s.modFlt f).lanes = s.lanes := rfl
@[simp] theorem modFlt_counters (f : Faults → Faults) : (s.modFlt f).counters = s.counters := rfl
@[simp] theorem modFlt_awls (f : Faults → Faults) : (s.modFlt f).awls = s.awls := rfl
@[simp] theorem modFlt_blocks (f : Faults → Faults) : (s.modFlt f).blocks = s.blocks := rfl
@[simp] theorem modFlt_cores (f : Faults → Faults) : (s.modFlt f).cores = s.cores := rfl
@[simp] theorem modFlt_tolls (f : Faults → Faults) : (s.modFlt f).tolls = s.tolls := rfl
@[simp] theorem modFlt_roundabouts (f : Faults → Faults) : (s.modFlt f).roundabouts = s.roundabouts := rfl
@[simp] theorem modFlt_crossings (f : Faults → Faults) : (s.modFlt f).crossings = s.crossings := rfl
@[simp] theorem modFlt_mem (f : Faults → Faults) : (s.modFlt f).mem = s.mem := rfl
@[simp] theorem modFlt_badWords (f : Faults → Faults) : (s.modFlt f).badWords = s.badWords := rfl
@[simp] theorem modFlt_hbmEcc (f : Faults → Faults) : (s.modFlt f).hbmEcc = s.hbmEcc := rfl
@[simp] theorem modFlt_ddrEcc (f : Faults → Faults) : (s.modFlt f).ddrEcc = s.ddrEcc := rfl
@[simp] theorem modFlt_nvCmds (f : Faults → Faults) : (s.modFlt f).nvCmds = s.nvCmds := rfl
@[simp] theorem modFlt_fab (f : Faults → Faults) : (s.modFlt f).fab = s.fab := rfl
@[simp] theorem modFlt_mgmt (f : Faults → Faults) : (s.modFlt f).mgmt = s.mgmt := rfl
@[simp] theorem modFlt_trust (f : Faults → Faults) : (s.modFlt f).trust = s.trust := rfl
@[simp] theorem modFlt_power (f : Faults → Faults) : (s.modFlt f).power = s.power := rfl
@[simp] theorem modFlt_faults (f : Faults → Faults) : (s.modFlt f).faults = f s.faults := rfl
@[simp] theorem modFlt_trace (f : Faults → Faults) : (s.modFlt f).trace = s.trace := rfl

/-! `State.modTrust` -/
@[simp] theorem modTrust_pending (f : Trust → Trust) : (s.modTrust f).pending = s.pending := rfl
@[simp] theorem modTrust_out (f : Trust → Trust) : (s.modTrust f).out = s.out := rfl
@[simp] theorem modTrust_draws (f : Trust → Trust) : (s.modTrust f).draws = s.draws := rfl
@[simp] theorem modTrust_now (f : Trust → Trust) : (s.modTrust f).now = s.now := rfl
@[simp] theorem modTrust_sled (f : Trust → Trust) : (s.modTrust f).sled = s.sled := rfl
@[simp] theorem modTrust_regs (f : Trust → Trust) : (s.modTrust f).regs = s.regs := rfl
@[simp] theorem modTrust_loader (f : Trust → Trust) : (s.modTrust f).loader = s.loader := rfl
@[simp] theorem modTrust_pattern (f : Trust → Trust) : (s.modTrust f).pattern = s.pattern := rfl
@[simp] theorem modTrust_partials (f : Trust → Trust) : (s.modTrust f).partials = s.partials := rfl
@[simp] theorem modTrust_parts (f : Trust → Trust) : (s.modTrust f).parts = s.parts := rfl
@[simp] theorem modTrust_lanes (f : Trust → Trust) : (s.modTrust f).lanes = s.lanes := rfl
@[simp] theorem modTrust_counters (f : Trust → Trust) : (s.modTrust f).counters = s.counters := rfl
@[simp] theorem modTrust_awls (f : Trust → Trust) : (s.modTrust f).awls = s.awls := rfl
@[simp] theorem modTrust_blocks (f : Trust → Trust) : (s.modTrust f).blocks = s.blocks := rfl
@[simp] theorem modTrust_cores (f : Trust → Trust) : (s.modTrust f).cores = s.cores := rfl
@[simp] theorem modTrust_tolls (f : Trust → Trust) : (s.modTrust f).tolls = s.tolls := rfl
@[simp] theorem modTrust_roundabouts (f : Trust → Trust) : (s.modTrust f).roundabouts = s.roundabouts := rfl
@[simp] theorem modTrust_crossings (f : Trust → Trust) : (s.modTrust f).crossings = s.crossings := rfl
@[simp] theorem modTrust_mem (f : Trust → Trust) : (s.modTrust f).mem = s.mem := rfl
@[simp] theorem modTrust_badWords (f : Trust → Trust) : (s.modTrust f).badWords = s.badWords := rfl
@[simp] theorem modTrust_hbmEcc (f : Trust → Trust) : (s.modTrust f).hbmEcc = s.hbmEcc := rfl
@[simp] theorem modTrust_ddrEcc (f : Trust → Trust) : (s.modTrust f).ddrEcc = s.ddrEcc := rfl
@[simp] theorem modTrust_nvCmds (f : Trust → Trust) : (s.modTrust f).nvCmds = s.nvCmds := rfl
@[simp] theorem modTrust_fab (f : Trust → Trust) : (s.modTrust f).fab = s.fab := rfl
@[simp] theorem modTrust_mgmt (f : Trust → Trust) : (s.modTrust f).mgmt = s.mgmt := rfl
@[simp] theorem modTrust_trust (f : Trust → Trust) : (s.modTrust f).trust = f s.trust := rfl
@[simp] theorem modTrust_power (f : Trust → Trust) : (s.modTrust f).power = s.power := rfl
@[simp] theorem modTrust_faults (f : Trust → Trust) : (s.modTrust f).faults = s.faults := rfl
@[simp] theorem modTrust_trace (f : Trust → Trust) : (s.modTrust f).trace = s.trace := rfl

/-! `State.modSled` -/
@[simp] theorem modSled_pending (f : Sled → Sled) : (s.modSled f).pending = s.pending := rfl
@[simp] theorem modSled_out (f : Sled → Sled) : (s.modSled f).out = s.out := rfl
@[simp] theorem modSled_draws (f : Sled → Sled) : (s.modSled f).draws = s.draws := rfl
@[simp] theorem modSled_now (f : Sled → Sled) : (s.modSled f).now = s.now := rfl
@[simp] theorem modSled_sled (f : Sled → Sled) : (s.modSled f).sled = f s.sled := rfl
@[simp] theorem modSled_regs (f : Sled → Sled) : (s.modSled f).regs = s.regs := rfl
@[simp] theorem modSled_loader (f : Sled → Sled) : (s.modSled f).loader = s.loader := rfl
@[simp] theorem modSled_pattern (f : Sled → Sled) : (s.modSled f).pattern = s.pattern := rfl
@[simp] theorem modSled_partials (f : Sled → Sled) : (s.modSled f).partials = s.partials := rfl
@[simp] theorem modSled_parts (f : Sled → Sled) : (s.modSled f).parts = s.parts := rfl
@[simp] theorem modSled_lanes (f : Sled → Sled) : (s.modSled f).lanes = s.lanes := rfl
@[simp] theorem modSled_counters (f : Sled → Sled) : (s.modSled f).counters = s.counters := rfl
@[simp] theorem modSled_awls (f : Sled → Sled) : (s.modSled f).awls = s.awls := rfl
@[simp] theorem modSled_blocks (f : Sled → Sled) : (s.modSled f).blocks = s.blocks := rfl
@[simp] theorem modSled_cores (f : Sled → Sled) : (s.modSled f).cores = s.cores := rfl
@[simp] theorem modSled_tolls (f : Sled → Sled) : (s.modSled f).tolls = s.tolls := rfl
@[simp] theorem modSled_roundabouts (f : Sled → Sled) : (s.modSled f).roundabouts = s.roundabouts := rfl
@[simp] theorem modSled_crossings (f : Sled → Sled) : (s.modSled f).crossings = s.crossings := rfl
@[simp] theorem modSled_mem (f : Sled → Sled) : (s.modSled f).mem = s.mem := rfl
@[simp] theorem modSled_badWords (f : Sled → Sled) : (s.modSled f).badWords = s.badWords := rfl
@[simp] theorem modSled_hbmEcc (f : Sled → Sled) : (s.modSled f).hbmEcc = s.hbmEcc := rfl
@[simp] theorem modSled_ddrEcc (f : Sled → Sled) : (s.modSled f).ddrEcc = s.ddrEcc := rfl
@[simp] theorem modSled_nvCmds (f : Sled → Sled) : (s.modSled f).nvCmds = s.nvCmds := rfl
@[simp] theorem modSled_fab (f : Sled → Sled) : (s.modSled f).fab = s.fab := rfl
@[simp] theorem modSled_mgmt (f : Sled → Sled) : (s.modSled f).mgmt = s.mgmt := rfl
@[simp] theorem modSled_trust (f : Sled → Sled) : (s.modSled f).trust = s.trust := rfl
@[simp] theorem modSled_power (f : Sled → Sled) : (s.modSled f).power = s.power := rfl
@[simp] theorem modSled_faults (f : Sled → Sled) : (s.modSled f).faults = s.faults := rfl
@[simp] theorem modSled_trace (f : Sled → Sled) : (s.modSled f).trace = s.trace := rfl

/-! `State.emit` -/
@[simp] theorem emit_pending (e : Emit) : (s.emit e).pending = s.pending := rfl
@[simp] theorem emit_out (e : Emit) : (s.emit e).out = s.out ++ [e] := rfl
@[simp] theorem emit_draws (e : Emit) : (s.emit e).draws = s.draws := rfl
@[simp] theorem emit_now (e : Emit) : (s.emit e).now = s.now := rfl
@[simp] theorem emit_sled (e : Emit) : (s.emit e).sled = s.sled := rfl
@[simp] theorem emit_regs (e : Emit) : (s.emit e).regs = s.regs := rfl
@[simp] theorem emit_loader (e : Emit) : (s.emit e).loader = s.loader := rfl
@[simp] theorem emit_pattern (e : Emit) : (s.emit e).pattern = s.pattern := rfl
@[simp] theorem emit_partials (e : Emit) : (s.emit e).partials = s.partials := rfl
@[simp] theorem emit_parts (e : Emit) : (s.emit e).parts = s.parts := rfl
@[simp] theorem emit_lanes (e : Emit) : (s.emit e).lanes = s.lanes := rfl
@[simp] theorem emit_counters (e : Emit) : (s.emit e).counters = s.counters := rfl
@[simp] theorem emit_awls (e : Emit) : (s.emit e).awls = s.awls := rfl
@[simp] theorem emit_blocks (e : Emit) : (s.emit e).blocks = s.blocks := rfl
@[simp] theorem emit_cores (e : Emit) : (s.emit e).cores = s.cores := rfl
@[simp] theorem emit_tolls (e : Emit) : (s.emit e).tolls = s.tolls := rfl
@[simp] theorem emit_roundabouts (e : Emit) : (s.emit e).roundabouts = s.roundabouts := rfl
@[simp] theorem emit_crossings (e : Emit) : (s.emit e).crossings = s.crossings := rfl
@[simp] theorem emit_mem (e : Emit) : (s.emit e).mem = s.mem := rfl
@[simp] theorem emit_badWords (e : Emit) : (s.emit e).badWords = s.badWords := rfl
@[simp] theorem emit_hbmEcc (e : Emit) : (s.emit e).hbmEcc = s.hbmEcc := rfl
@[simp] theorem emit_ddrEcc (e : Emit) : (s.emit e).ddrEcc = s.ddrEcc := rfl
@[simp] theorem emit_nvCmds (e : Emit) : (s.emit e).nvCmds = s.nvCmds := rfl
@[simp] theorem emit_fab (e : Emit) : (s.emit e).fab = s.fab := rfl
@[simp] theorem emit_mgmt (e : Emit) : (s.emit e).mgmt = s.mgmt := rfl
@[simp] theorem emit_trust (e : Emit) : (s.emit e).trust = s.trust := rfl
@[simp] theorem emit_power (e : Emit) : (s.emit e).power = s.power := rfl
@[simp] theorem emit_faults (e : Emit) : (s.emit e).faults = s.faults := rfl
@[simp] theorem emit_trace (e : Emit) : (s.emit e).trace = s.trace := rfl

/-! `State.setPort` -/
@[simp] theorem setPort_pending (n : Nat) (x : Port) : (s.setPort n x).pending = s.pending := rfl
@[simp] theorem setPort_out (n : Nat) (x : Port) : (s.setPort n x).out = s.out := rfl
@[simp] theorem setPort_draws (n : Nat) (x : Port) : (s.setPort n x).draws = s.draws := rfl
@[simp] theorem setPort_now (n : Nat) (x : Port) : (s.setPort n x).now = s.now := rfl
@[simp] theorem setPort_sled (n : Nat) (x : Port) : (s.setPort n x).sled = s.sled := rfl
@[simp] theorem setPort_regs (n : Nat) (x : Port) : (s.setPort n x).regs = s.regs := rfl
@[simp] theorem setPort_loader (n : Nat) (x : Port) : (s.setPort n x).loader = s.loader := rfl
@[simp] theorem setPort_pattern (n : Nat) (x : Port) : (s.setPort n x).pattern = s.pattern := rfl
@[simp] theorem setPort_partials (n : Nat) (x : Port) : (s.setPort n x).partials = s.partials := rfl
@[simp] theorem setPort_parts (n : Nat) (x : Port) : (s.setPort n x).parts = s.parts := rfl
@[simp] theorem setPort_lanes (n : Nat) (x : Port) : (s.setPort n x).lanes = s.lanes := rfl
@[simp] theorem setPort_counters (n : Nat) (x : Port) : (s.setPort n x).counters = s.counters := rfl
@[simp] theorem setPort_awls (n : Nat) (x : Port) : (s.setPort n x).awls = s.awls := rfl
@[simp] theorem setPort_blocks (n : Nat) (x : Port) : (s.setPort n x).blocks = s.blocks := rfl
@[simp] theorem setPort_cores (n : Nat) (x : Port) : (s.setPort n x).cores = s.cores := rfl
@[simp] theorem setPort_tolls (n : Nat) (x : Port) : (s.setPort n x).tolls = s.tolls := rfl
@[simp] theorem setPort_roundabouts (n : Nat) (x : Port) : (s.setPort n x).roundabouts = s.roundabouts := rfl
@[simp] theorem setPort_crossings (n : Nat) (x : Port) : (s.setPort n x).crossings = s.crossings := rfl
@[simp] theorem setPort_mem (n : Nat) (x : Port) : (s.setPort n x).mem = s.mem := rfl
@[simp] theorem setPort_badWords (n : Nat) (x : Port) : (s.setPort n x).badWords = s.badWords := rfl
@[simp] theorem setPort_hbmEcc (n : Nat) (x : Port) : (s.setPort n x).hbmEcc = s.hbmEcc := rfl
@[simp] theorem setPort_ddrEcc (n : Nat) (x : Port) : (s.setPort n x).ddrEcc = s.ddrEcc := rfl
@[simp] theorem setPort_nvCmds (n : Nat) (x : Port) : (s.setPort n x).nvCmds = s.nvCmds := rfl
@[simp] theorem setPort_fab (n : Nat) (x : Port) : (s.setPort n x).fab = { s.fab with ports := s.fab.ports.put n x } := rfl
@[simp] theorem setPort_mgmt (n : Nat) (x : Port) : (s.setPort n x).mgmt = s.mgmt := rfl
@[simp] theorem setPort_trust (n : Nat) (x : Port) : (s.setPort n x).trust = s.trust := rfl
@[simp] theorem setPort_power (n : Nat) (x : Port) : (s.setPort n x).power = s.power := rfl
@[simp] theorem setPort_faults (n : Nat) (x : Port) : (s.setPort n x).faults = s.faults := rfl
@[simp] theorem setPort_trace (n : Nat) (x : Port) : (s.setPort n x).trace = s.trace := rfl

/-! `State.setPeer` -/
@[simp] theorem setPeer_pending (d : Nat) (x : Peer) : (s.setPeer d x).pending = s.pending := rfl
@[simp] theorem setPeer_out (d : Nat) (x : Peer) : (s.setPeer d x).out = s.out := rfl
@[simp] theorem setPeer_draws (d : Nat) (x : Peer) : (s.setPeer d x).draws = s.draws := rfl
@[simp] theorem setPeer_now (d : Nat) (x : Peer) : (s.setPeer d x).now = s.now := rfl
@[simp] theorem setPeer_sled (d : Nat) (x : Peer) : (s.setPeer d x).sled = s.sled := rfl
@[simp] theorem setPeer_regs (d : Nat) (x : Peer) : (s.setPeer d x).regs = s.regs := rfl
@[simp] theorem setPeer_loader (d : Nat) (x : Peer) : (s.setPeer d x).loader = s.loader := rfl
@[simp] theorem setPeer_pattern (d : Nat) (x : Peer) : (s.setPeer d x).pattern = s.pattern := rfl
@[simp] theorem setPeer_partials (d : Nat) (x : Peer) : (s.setPeer d x).partials = s.partials := rfl
@[simp] theorem setPeer_parts (d : Nat) (x : Peer) : (s.setPeer d x).parts = s.parts := rfl
@[simp] theorem setPeer_lanes (d : Nat) (x : Peer) : (s.setPeer d x).lanes = s.lanes := rfl
@[simp] theorem setPeer_counters (d : Nat) (x : Peer) : (s.setPeer d x).counters = s.counters := rfl
@[simp] theorem setPeer_awls (d : Nat) (x : Peer) : (s.setPeer d x).awls = s.awls := rfl
@[simp] theorem setPeer_blocks (d : Nat) (x : Peer) : (s.setPeer d x).blocks = s.blocks := rfl
@[simp] theorem setPeer_cores (d : Nat) (x : Peer) : (s.setPeer d x).cores = s.cores := rfl
@[simp] theorem setPeer_tolls (d : Nat) (x : Peer) : (s.setPeer d x).tolls = s.tolls := rfl
@[simp] theorem setPeer_roundabouts (d : Nat) (x : Peer) : (s.setPeer d x).roundabouts = s.roundabouts := rfl
@[simp] theorem setPeer_crossings (d : Nat) (x : Peer) : (s.setPeer d x).crossings = s.crossings := rfl
@[simp] theorem setPeer_mem (d : Nat) (x : Peer) : (s.setPeer d x).mem = s.mem := rfl
@[simp] theorem setPeer_badWords (d : Nat) (x : Peer) : (s.setPeer d x).badWords = s.badWords := rfl
@[simp] theorem setPeer_hbmEcc (d : Nat) (x : Peer) : (s.setPeer d x).hbmEcc = s.hbmEcc := rfl
@[simp] theorem setPeer_ddrEcc (d : Nat) (x : Peer) : (s.setPeer d x).ddrEcc = s.ddrEcc := rfl
@[simp] theorem setPeer_nvCmds (d : Nat) (x : Peer) : (s.setPeer d x).nvCmds = s.nvCmds := rfl
@[simp] theorem setPeer_fab (d : Nat) (x : Peer) : (s.setPeer d x).fab = { s.fab with peers := s.fab.peers.put d x } := rfl
@[simp] theorem setPeer_mgmt (d : Nat) (x : Peer) : (s.setPeer d x).mgmt = s.mgmt := rfl
@[simp] theorem setPeer_trust (d : Nat) (x : Peer) : (s.setPeer d x).trust = s.trust := rfl
@[simp] theorem setPeer_power (d : Nat) (x : Peer) : (s.setPeer d x).power = s.power := rfl
@[simp] theorem setPeer_faults (d : Nat) (x : Peer) : (s.setPeer d x).faults = s.faults := rfl
@[simp] theorem setPeer_trace (d : Nat) (x : Peer) : (s.setPeer d x).trace = s.trace := rfl

/-! `State.setBank` -/
@[simp] theorem setBank_pending (b : Bool) (x : Bank) : (s.setBank b x).pending = s.pending := rfl
@[simp] theorem setBank_out (b : Bool) (x : Bank) : (s.setBank b x).out = s.out := rfl
@[simp] theorem setBank_draws (b : Bool) (x : Bank) : (s.setBank b x).draws = s.draws := rfl
@[simp] theorem setBank_now (b : Bool) (x : Bank) : (s.setBank b x).now = s.now := rfl
@[simp] theorem setBank_sled (b : Bool) (x : Bank) : (s.setBank b x).sled = s.sled := rfl
@[simp] theorem setBank_regs (b : Bool) (x : Bank) : (s.setBank b x).regs = s.regs := rfl
@[simp] theorem setBank_loader (b : Bool) (x : Bank) : (s.setBank b x).loader = s.loader := rfl
@[simp] theorem setBank_pattern (b : Bool) (x : Bank) : (s.setBank b x).pattern = s.pattern := rfl
@[simp] theorem setBank_partials (b : Bool) (x : Bank) : (s.setBank b x).partials = s.partials := rfl
@[simp] theorem setBank_parts (b : Bool) (x : Bank) : (s.setBank b x).parts = s.parts := rfl
@[simp] theorem setBank_lanes (b : Bool) (x : Bank) : (s.setBank b x).lanes = s.lanes := rfl
@[simp] theorem setBank_counters (b : Bool) (x : Bank) : (s.setBank b x).counters = s.counters := rfl
@[simp] theorem setBank_awls (b : Bool) (x : Bank) : (s.setBank b x).awls = s.awls := rfl
@[simp] theorem setBank_blocks (b : Bool) (x : Bank) : (s.setBank b x).blocks = s.blocks := rfl
@[simp] theorem setBank_cores (b : Bool) (x : Bank) : (s.setBank b x).cores = s.cores := rfl
@[simp] theorem setBank_tolls (b : Bool) (x : Bank) : (s.setBank b x).tolls = s.tolls := rfl
@[simp] theorem setBank_roundabouts (b : Bool) (x : Bank) : (s.setBank b x).roundabouts = s.roundabouts := rfl
@[simp] theorem setBank_crossings (b : Bool) (x : Bank) : (s.setBank b x).crossings = s.crossings := rfl
@[simp] theorem setBank_mem (b : Bool) (x : Bank) : (s.setBank b x).mem = s.mem := rfl
@[simp] theorem setBank_badWords (b : Bool) (x : Bank) : (s.setBank b x).badWords = s.badWords := rfl
@[simp] theorem setBank_hbmEcc (b : Bool) (x : Bank) : (s.setBank b x).hbmEcc = s.hbmEcc := rfl
@[simp] theorem setBank_ddrEcc (b : Bool) (x : Bank) : (s.setBank b x).ddrEcc = s.ddrEcc := rfl
@[simp] theorem setBank_nvCmds (b : Bool) (x : Bank) : (s.setBank b x).nvCmds = s.nvCmds := rfl
@[simp] theorem setBank_fab (b : Bool) (x : Bank) : (s.setBank b x).fab = if b then { s.fab with bank1 := x } else { s.fab with bank0 := x } := rfl
@[simp] theorem setBank_mgmt (b : Bool) (x : Bank) : (s.setBank b x).mgmt = s.mgmt := rfl
@[simp] theorem setBank_trust (b : Bool) (x : Bank) : (s.setBank b x).trust = s.trust := rfl
@[simp] theorem setBank_power (b : Bool) (x : Bank) : (s.setBank b x).power = s.power := rfl
@[simp] theorem setBank_faults (b : Bool) (x : Bank) : (s.setBank b x).faults = s.faults := rfl
@[simp] theorem setBank_trace (b : Bool) (x : Bank) : (s.setBank b x).trace = s.trace := rfl

/-! `State.setDrive` -/
@[simp] theorem setDrive_pending (d : Nat) (x : Drive) : (s.setDrive d x).pending = s.pending := rfl
@[simp] theorem setDrive_out (d : Nat) (x : Drive) : (s.setDrive d x).out = s.out := rfl
@[simp] theorem setDrive_draws (d : Nat) (x : Drive) : (s.setDrive d x).draws = s.draws := rfl
@[simp] theorem setDrive_now (d : Nat) (x : Drive) : (s.setDrive d x).now = s.now := rfl
@[simp] theorem setDrive_sled (d : Nat) (x : Drive) : (s.setDrive d x).sled = s.sled := rfl
@[simp] theorem setDrive_regs (d : Nat) (x : Drive) : (s.setDrive d x).regs = s.regs := rfl
@[simp] theorem setDrive_loader (d : Nat) (x : Drive) : (s.setDrive d x).loader = s.loader := rfl
@[simp] theorem setDrive_pattern (d : Nat) (x : Drive) : (s.setDrive d x).pattern = s.pattern := rfl
@[simp] theorem setDrive_partials (d : Nat) (x : Drive) : (s.setDrive d x).partials = s.partials := rfl
@[simp] theorem setDrive_parts (d : Nat) (x : Drive) : (s.setDrive d x).parts = s.parts := rfl
@[simp] theorem setDrive_lanes (d : Nat) (x : Drive) : (s.setDrive d x).lanes = s.lanes := rfl
@[simp] theorem setDrive_counters (d : Nat) (x : Drive) : (s.setDrive d x).counters = s.counters := rfl
@[simp] theorem setDrive_awls (d : Nat) (x : Drive) : (s.setDrive d x).awls = s.awls := rfl
@[simp] theorem setDrive_blocks (d : Nat) (x : Drive) : (s.setDrive d x).blocks = s.blocks := rfl
@[simp] theorem setDrive_cores (d : Nat) (x : Drive) : (s.setDrive d x).cores = s.cores := rfl
@[simp] theorem setDrive_tolls (d : Nat) (x : Drive) : (s.setDrive d x).tolls = s.tolls := rfl
@[simp] theorem setDrive_roundabouts (d : Nat) (x : Drive) : (s.setDrive d x).roundabouts = s.roundabouts := rfl
@[simp] theorem setDrive_crossings (d : Nat) (x : Drive) : (s.setDrive d x).crossings = s.crossings := rfl
@[simp] theorem setDrive_mem (d : Nat) (x : Drive) : (s.setDrive d x).mem = s.mem := rfl
@[simp] theorem setDrive_badWords (d : Nat) (x : Drive) : (s.setDrive d x).badWords = s.badWords := rfl
@[simp] theorem setDrive_hbmEcc (d : Nat) (x : Drive) : (s.setDrive d x).hbmEcc = s.hbmEcc := rfl
@[simp] theorem setDrive_ddrEcc (d : Nat) (x : Drive) : (s.setDrive d x).ddrEcc = s.ddrEcc := rfl
@[simp] theorem setDrive_nvCmds (d : Nat) (x : Drive) : (s.setDrive d x).nvCmds = s.nvCmds := rfl
@[simp] theorem setDrive_fab (d : Nat) (x : Drive) : (s.setDrive d x).fab = s.fab := rfl
@[simp] theorem setDrive_mgmt (d : Nat) (x : Drive) : (s.setDrive d x).mgmt = { s.mgmt with drives := s.mgmt.drives.put d x } := rfl
@[simp] theorem setDrive_trust (d : Nat) (x : Drive) : (s.setDrive d x).trust = s.trust := rfl
@[simp] theorem setDrive_power (d : Nat) (x : Drive) : (s.setDrive d x).power = s.power := rfl
@[simp] theorem setDrive_faults (d : Nat) (x : Drive) : (s.setDrive d x).faults = s.faults := rfl
@[simp] theorem setDrive_trace (d : Nat) (x : Drive) : (s.setDrive d x).trace = s.trace := rfl

/-! Reads of one entry after a write to one. -/
@[simp] theorem setPart_part_same (n : Nat) (x : PartState) : (s.setPart n x).part n = x := by
  simp [State.part]
@[simp] theorem setPart_part_ne {k n : Nat} (x : PartState) (h : n ≠ k) : (s.setPart k x).part n = s.part n := by
  simp [State.part, h]
@[simp] theorem setLane_lane_same (n : Nat) (x : Lane) : (s.setLane n x).lane n = x := by
  simp [State.lane]
@[simp] theorem setLane_lane_ne {k n : Nat} (x : Lane) (h : n ≠ k) : (s.setLane k x).lane n = s.lane n := by
  simp [State.lane, h]
@[simp] theorem setCounter_counter_same (n : Nat) (x : Counter) : (s.setCounter n x).counter n = x := by
  simp [State.counter]
@[simp] theorem setCounter_counter_ne {k n : Nat} (x : Counter) (h : n ≠ k) : (s.setCounter k x).counter n = s.counter n := by
  simp [State.counter, h]
@[simp] theorem setAwl_awl_same (n : Nat) (x : Awl) : (s.setAwl n x).awl n = x := by
  simp [State.awl]
@[simp] theorem setAwl_awl_ne {k n : Nat} (x : Awl) (h : n ≠ k) : (s.setAwl k x).awl n = s.awl n := by
  simp [State.awl, h]
@[simp] theorem setBlock_block_same (n : Nat) (x : Block) : (s.setBlock n x).block n = x := by
  simp [State.block]
@[simp] theorem setBlock_block_ne {k n : Nat} (x : Block) (h : n ≠ k) : (s.setBlock k x).block n = s.block n := by
  simp [State.block, h]
@[simp] theorem setToll_toll_same (n : Nat) (x : Toll) : (s.setToll n x).toll n = x := by
  simp [State.toll]
@[simp] theorem setToll_toll_ne {k n : Nat} (x : Toll) (h : n ≠ k) : (s.setToll k x).toll n = s.toll n := by
  simp [State.toll, h]
@[simp] theorem setRoundabout_roundabout_same (n : Nat) (x : Roundabout) : (s.setRoundabout n x).roundabout n = x := by
  simp [State.roundabout]
@[simp] theorem setRoundabout_roundabout_ne {k n : Nat} (x : Roundabout) (h : n ≠ k) : (s.setRoundabout k x).roundabout n = s.roundabout n := by
  simp [State.roundabout, h]
@[simp] theorem setCrossing_crossing_same (n : Nat) (x : Crossing) : (s.setCrossing n x).crossing n = x := by
  simp [State.crossing]
@[simp] theorem setCrossing_crossing_ne {k n : Nat} (x : Crossing) (h : n ≠ k) : (s.setCrossing k x).crossing n = s.crossing n := by
  simp [State.crossing, h]

/-! Updates that are another update: simp writes each as the update of the whole entry. -/
@[simp] theorem modPart_eq (p : Nat) (f : PartState → PartState) : s.modPart p f = s.setPart p (f (s.part p)) := rfl
@[simp] theorem setPLast_eq (p : Nat) (x : PLast) : s.setPLast p x = s.setPart p { s.part p with last := x } := rfl
@[simp] theorem modPLast_eq (p : Nat) (f : PLast → PLast) :
    s.modPLast p f = s.setPart p { s.part p with last := f (s.part p).last } := rfl
@[simp] theorem setHold_eq (p : Nat) (x : PHold) : s.setHold p x = s.setPart p { s.part p with hold := x } := rfl
@[simp] theorem modHold_eq (p : Nat) (f : PHold → PHold) :
    s.modHold p f = s.setPart p { s.part p with hold := f (s.part p).hold } := rfl
@[simp] theorem setPMem_eq (p : Nat) (x : PMem) : s.setPMem p x = s.setPart p { s.part p with mem := x } := rfl
@[simp] theorem modPMem_eq (p : Nat) (f : PMem → PMem) :
    s.modPMem p f = s.setPart p { s.part p with mem := f (s.part p).mem } := rfl
@[simp] theorem setXt_eq (p : Nat) (x : PXt) : s.setXt p x = s.setPart p { s.part p with xt := x } := rfl
@[simp] theorem modXt_eq (p : Nat) (f : PXt → PXt) :
    s.modXt p f = s.setPart p { s.part p with xt := f (s.part p).xt } := rfl
@[simp] theorem setTrust_eq (p : Nat) (x : PTrust) : s.setTrust p x = s.setPart p { s.part p with trust := x } := rfl
@[simp] theorem modPTrust_eq (p : Nat) (f : PTrust → PTrust) :
    s.modPTrust p f = s.setPart p { s.part p with trust := f (s.part p).trust } := rfl
@[simp] theorem setPower_eq (p : Nat) (x : PPower) : s.setPower p x = s.setPart p { s.part p with power := x } := rfl
@[simp] theorem modPPower_eq (p : Nat) (f : PPower → PPower) :
    s.modPPower p f = s.setPart p { s.part p with power := f (s.part p).power } := rfl
@[simp] theorem setPFault_eq (p : Nat) (x : PFault) : s.setPFault p x = s.setPart p { s.part p with fault := x } := rfl
@[simp] theorem modPFault_eq (p : Nat) (f : PFault → PFault) :
    s.modPFault p f = s.setPart p { s.part p with fault := f (s.part p).fault } := rfl
@[simp] theorem setEng_eq (b : Nat) (x : Engine) : s.setEng b x = s.setBlock b { s.block b with eng := x } := rfl
@[simp] theorem setAttn_eq (b : Nat) (x : Attn) : s.setAttn b x = s.setBlock b { s.block b with attn := x } := rfl
@[simp] theorem setPwr_eq (b : Nat) (x : BlockPower) : s.setPwr b x = s.setBlock b { s.block b with pwr := x } := rfl

@[simp] theorem setPort_port_same (n : Nat) (x : Port) : (s.setPort n x).port n = x := by
  simp [State.setPort, State.port]
@[simp] theorem setPort_port_ne {k n : Nat} (x : Port) (h : n ≠ k) : (s.setPort k x).port n = s.port n := by
  simp [State.setPort, State.port, h]
@[simp] theorem setPeer_peer_same (d : Nat) (x : Peer) : (s.setPeer d x).peer d = x := by
  simp [State.setPeer, State.peer]
@[simp] theorem setPeer_peer_ne {k d : Nat} (x : Peer) (h : d ≠ k) : (s.setPeer k x).peer d = s.peer d := by
  simp [State.setPeer, State.peer, h]
@[simp] theorem setPort_peer (n d : Nat) (x : Port) : (s.setPort n x).peer d = s.peer d := rfl
@[simp] theorem setPeer_port (n d : Nat) (x : Peer) : (s.setPeer d x).port n = s.port n := rfl
@[simp] theorem setDrive_drive_same (d : Nat) (x : Drive) : (s.setDrive d x).drive d = x := by
  simp [State.setDrive, State.drive]
@[simp] theorem setDrive_drive_ne {k d : Nat} (x : Drive) (h : d ≠ k) : (s.setDrive k x).drive d = s.drive d := by
  simp [State.setDrive, State.drive, h]

end Sys2Proof.Machine
end

