-- ==== Sys2Proof/Laws/Memory.lean ====
section
/-! SUPPORT. The laws of memory: a read after a write, what a write leaves alone, and that every operation
keeps the canonical form (09, 13). -/

namespace Sys2Proof.Machine

/-! ### One byte -/

@[simp] theorem memByte_nil (a : Nat) : memByte [] a = 0 := rfl

/-- A byte read after it is written gives what was written. -/
@[simp] theorem memByte_memPut_same (m : List Host.Cell) (k : Nat) (b : Byte) : memByte (memPut m k b) k = b := by
  unfold memByte memPut
  split <;> simp_all

/-- A byte written leaves every other byte alone. -/
@[simp] theorem memByte_memPut_ne (m : List Host.Cell) {k a : Nat} (b : Byte) (h : a ≠ k) :
    memByte (memPut m k b) a = memByte m a := by
  unfold memByte memPut
  split <;> simp [h]

/-- Memory is in canonical form exactly when its keys rise and no listed byte is zero. -/
theorem wf_iff (m : List Host.Cell) : Memory.wf m = true ↔ KMap.sorted m = true ∧ ∀ c ∈ m, c.2 ≠ 0 := by
  simp [Memory.wf]

theorem wf_nil : Memory.wf [] = true := rfl

/-- Writing a byte keeps the canonical form. -/
theorem wf_memPut (m : List Host.Cell) (k : Nat) (b : Byte) (h : Memory.wf m = true) :
    Memory.wf (memPut m k b) = true := by
  rw [wf_iff] at *
  unfold memPut
  split
  · exact ⟨sorted_del m k h.1, fun c hc => h.2 c (mem_del m k c hc)⟩
  · rename_i hb
    refine ⟨sorted_put m k b h.1, fun c hc => ?_⟩
    rcases mem_put m k b c hc with rfl | hc
    · exact hb
    · exact h.2 c hc

/-! ### Spans -/

/-- A span written leaves every byte outside it alone. -/
theorem memByte_memPuts_out (skip : Nat → Bool) (bs : List Byte) (m : List Host.Cell) (k a : Nat)
    (h : a < k ∨ k + bs.length ≤ a) : memByte (memPuts skip m k bs) a = memByte m a := by
  induction bs generalizing m k with
  | nil => rfl
  | cons b r ih =>
    simp only [List.length_cons] at h
    have hne : a ≠ k := by omega
    simp only [memPuts]
    rw [ih _ _ (by omega)]
    split
    · rfl
    · exact memByte_memPut_ne m b hne

/-- A byte inside a span written reads what was written, or what it was where the span holds it back. -/
theorem memByte_memPuts_in (skip : Nat → Bool) (bs : List Byte) (m : List Host.Cell) (k i : Nat) (h : i < bs.length) :
    memByte (memPuts skip m k bs) (k + i) = if skip (k + i) = true then memByte m (k + i) else bs[i] := by
  induction bs generalizing m k i with
  | nil => simp at h
  | cons b r ih =>
    simp only [memPuts]
    cases i with
    | zero =>
      rw [memByte_memPuts_out skip r _ (k + 1) (k + 0) (by omega)]
      by_cases hs : skip k = true <;> simp [hs]
    | succ j =>
      have hj : j < r.length := by simpa using h
      have e : k + (j + 1) = k + 1 + j := by omega
      rw [e, ih _ (k + 1) j hj]
      have hne : k + 1 + j ≠ k := by omega
      by_cases hs : skip k = true <;> simp [hs, hne]

/-- Writing a span keeps the canonical form. -/
theorem wf_memPuts (skip : Nat → Bool) (bs : List Byte) (m : List Host.Cell) (k : Nat) (h : Memory.wf m = true) :
    Memory.wf (memPuts skip m k bs) = true := by
  induction bs generalizing m k with
  | nil => exact h
  | cons b r ih =>
    simp only [memPuts]
    apply ih
    split
    · exact h
    · exact wf_memPut m k b h

/-- A lookup in the entries whose keys pass a test. -/
theorem find_filter_key {α : Type} (m : KMap α) (f : Nat → Bool) (a : Nat) :
    KMap.find (m.filter fun c => f c.1) a = if f a = true then KMap.find m a else none := by
  induction m with
  | nil => simp
  | cons x r ih =>
    obtain ⟨j, w⟩ := x
    by_cases hf : f j = true
    · rw [List.filter_cons_of_pos (by simpa using hf)]
      by_cases hj : j = a
      · subst hj; simp [KMap.find, hf]
      · simp [KMap.find, hj, ih]
    · rw [List.filter_cons_of_neg (by simpa using hf), ih]
      by_cases hj : j = a
      · subst hj; simp [hf]
      · simp [KMap.find, hj]

/-- A span zeroed reads zero, and every other byte is as it was. -/
theorem memByte_memZero (m : List Host.Cell) (lo hi a : Nat) :
    memByte (memZero m lo hi) a = if lo ≤ a ∧ a < hi then 0 else memByte m a := by
  unfold memByte memZero
  rw [find_filter_key m (fun k => decide (k < lo ∨ hi ≤ k)) a]
  by_cases h : lo ≤ a ∧ a < hi
  · have h' : ¬ (a < lo ∨ hi ≤ a) := by omega
    simp [h, h']
  · have h' : a < lo ∨ hi ≤ a := by omega
    simp [h, h']

/-- Zeroing a span keeps the canonical form. -/
theorem wf_memZero (m : List Host.Cell) (lo hi : Nat) (h : Memory.wf m = true) :
    Memory.wf (memZero m lo hi) = true := by
  rw [wf_iff] at *
  exact ⟨sorted_filter m _ h.1, fun c hc => h.2 c (List.mem_of_mem_filter hc)⟩

/-! ### Uncorrectable words -/

theorem rising_cons (a : Nat) (l : List Nat) :
    risingKeys (a :: l) = true ↔ (∀ b ∈ l, a < b) ∧ risingKeys l = true := by
  induction l generalizing a with
  | nil => simp [risingKeys]
  | cons b r ih =>
    simp only [risingKeys, Bool.and_eq_true, decide_eq_true_eq, List.forall_mem_cons]
    constructor
    · rintro ⟨h, hr⟩
      exact ⟨⟨h, fun c hc => Nat.lt_trans h (((ih b).mp hr).1 c hc)⟩, hr⟩
    · rintro ⟨⟨h, _⟩, hr⟩
      exact ⟨h, hr⟩

/-- Dropping words keeps them rising. -/
theorem rising_filter (l : List Nat) (f : Nat → Bool) (h : risingKeys l = true) : risingKeys (l.filter f) = true := by
  induction l with
  | nil => rfl
  | cons a r ih =>
    rw [rising_cons] at h
    by_cases hf : f a = true
    · rw [List.filter_cons_of_pos hf, rising_cons]
      exact ⟨fun b hb => h.1 b (List.mem_of_mem_filter hb), ih h.2⟩
    · rw [List.filter_cons_of_neg hf]
      exact ih h.2

theorem mem_insertOn {α : Type} (f : α → Nat) (x : α) (l : List α) (y : α) : y ∈ insertOn f x l ↔ y = x ∨ y ∈ l := by
  induction l with
  | nil => simp [insertOn]
  | cons z r ih =>
    simp only [insertOn]
    split
    · simp
    · simp only [List.mem_cons, ih]
      exact or_left_comm

/-- Adding a word keeps them rising. -/
theorem rising_addBad (l : List Nat) (w : Nat) (h : risingKeys l = true) : risingKeys (addBad l w) = true := by
  unfold addBad
  split
  · exact h
  · rename_i hc
    have hn : w ∉ l := by simpa using hc
    clear hc
    induction l with
    | nil => rfl
    | cons a r ih =>
      rw [List.mem_cons, not_or] at hn
      have h' := (rising_cons a r).mp h
      simp only [insertOn, id]
      split
      · rename_i hlt
        rw [rising_cons]
        refine ⟨fun b hb => ?_, h⟩
        rcases List.mem_cons.mp hb with rfl | hb
        · exact hlt
        · exact Nat.lt_trans hlt (h'.1 b hb)
      · rename_i hge
        rw [rising_cons]
        refine ⟨fun b hb => ?_, ih h'.2 hn.2⟩
        rcases (mem_insertOn id w r b).mp hb with rfl | hb
        · have := hn.1; omega
        · exact h'.1 b hb

/-! ### The operations that change memory -/

/-- The canonical form rests on memory and the uncorrectable words alone. -/
theorem memOk_iff (s : State) : s.memOk = true ↔ Memory.wf s.mem = true ∧ risingKeys s.badWords = true := by
  simp [State.memOk]

/-- Writes that leave memory and the uncorrectable words alone keep the canonical form. -/
theorem memOk_congr {s t : State} (hm : t.mem = s.mem) (hb : t.badWords = s.badWords) : t.memOk = s.memOk := by
  simp [State.memOk, hm, hb]

@[simp] theorem storeRaw_mem (s : State) (p off : Nat) (bs : List Byte) :
    (storeRaw s p off bs).mem = memPuts (fun a => (s.badWords.contains (a / 32)
      && !coversWord (memKey p off) bs.length (a / 32)) || suspectAt s p (off + (a - memKey p off))) s.mem (memKey p off) bs := by
  unfold storeRaw
  simp only []
  split <;> rfl

@[simp] theorem storeRaw_badWords (s : State) (p off : Nat) (bs : List Byte) :
    (storeRaw s p off bs).badWords = s.badWords.filter fun w =>
      !coversWord (memKey p off) bs.length w || suspectAt s p (off + (32 * w - memKey p off)) := by
  unfold storeRaw
  simp only []
  split <;> rfl

/-- Storing bytes keeps the canonical form. -/
theorem memOk_storeRaw (s : State) (p off : Nat) (bs : List Byte) (h : s.memOk = true) :
    (storeRaw s p off bs).memOk = true := by
  rw [memOk_iff] at *
  simp only [storeRaw_mem, storeRaw_badWords]
  exact ⟨wf_memPuts _ _ _ _ h.1, rising_filter _ _ h.2⟩

/-- Storing bytes changes no byte of memory outside them. -/
theorem memByte_storeRaw_out (s : State) (p off : Nat) (bs : List Byte) (a : Nat)
    (h : a < memKey p off ∨ memKey p off + bs.length ≤ a) :
    memByte (storeRaw s p off bs).mem a = memByte s.mem a := by
  rw [storeRaw_mem]
  exact memByte_memPuts_out _ _ _ _ _ h

/-- Zeroing the benches of a block keeps the canonical form. -/
theorem memOk_zeroBenches (s : State) (b : Nat) (h : s.memOk = true) : (zeroBenches s b).memOk = true := by
  rw [memOk_iff] at *
  exact ⟨wf_memZero _ _ _ h.1, rising_filter _ _ h.2⟩

/-- Zeroing the benches of a block leaves every byte outside them alone, and every bench byte zero. -/
theorem memByte_zeroBenches (s : State) (b a : Nat) :
    memByte (zeroBenches s b).mem a =
      if benchKey b 0 0 ≤ a ∧ a < benchKey (b + 1) 0 0 then 0 else memByte s.mem a :=
  memByte_memZero _ _ _ _

/-- Zeroing the range of a partition keeps the canonical form. -/
theorem memOk_zeroMemory (s : State) (p : Nat) (h : s.memOk = true) : (zeroMemory s p).memOk = true := by
  rw [memOk_iff] at *
  exact ⟨wf_memZero _ _ _ h.1, rising_filter _ _ h.2⟩

theorem memByte_zeroMemory (s : State) (p a : Nat) :
    memByte (zeroMemory s p).mem a = if p * 2 ^ 48 ≤ a ∧ a < (p + 1) * 2 ^ 48 then 0 else memByte s.mem a :=
  memByte_memZero _ _ _ _

/-- Marking an uncorrectable word keeps the canonical form. -/
theorem memOk_addBad (s : State) (w : Nat) (h : s.memOk = true) :
    ({ s with badWords := addBad s.badWords w } : State).memOk = true := by
  rw [memOk_iff] at *
  exact ⟨h.1, rising_addBad _ _ h.2⟩

end Sys2Proof.Machine
end

