-- ==== Sys2Proof/Laws/Ops.lean ====
section
/-! SUPPORT. What each shared operation can do: its frame, as one equation that names every part of the state
it may change, and from that a law for each part it leaves alone; then what it does to the parts it
changes. -/

namespace Sys2Proof.Machine

/- One theorem after another: the many threads of all at once do not fit the memory that a check allows. -/
set_option Elab.async false

variable (s : State)

/-- An event traced changes the trace port alone. -/
theorem traceEvent_frame (p : Nat) (unit : TraceUnit) (number offset : Nat) :
    traceEvent s p unit number offset = { s with trace := (traceEvent s p unit number offset).trace } := by
  unfold traceEvent
  split <;> rfl

@[simp] theorem traceEvent_pending (p : Nat) (unit : TraceUnit) (number offset : Nat) : (traceEvent s p unit number offset).pending = s.pending := by rw [traceEvent_frame]
@[simp] theorem traceEvent_out (p : Nat) (unit : TraceUnit) (number offset : Nat) : (traceEvent s p unit number offset).out = s.out := by rw [traceEvent_frame]
@[simp] theorem traceEvent_draws (p : Nat) (unit : TraceUnit) (number offset : Nat) : (traceEvent s p unit number offset).draws = s.draws := by rw [traceEvent_frame]
@[simp] theorem traceEvent_now (p : Nat) (unit : TraceUnit) (number offset : Nat) : (traceEvent s p unit number offset).now = s.now := by rw [traceEvent_frame]
@[simp] theorem traceEvent_sled (p : Nat) (unit : TraceUnit) (number offset : Nat) : (traceEvent s p unit number offset).sled = s.sled := by rw [traceEvent_frame]
@[simp] theorem traceEvent_regs (p : Nat) (unit : TraceUnit) (number offset : Nat) : (traceEvent s p unit number offset).regs = s.regs := by rw [traceEvent_frame]
@[simp] theorem traceEvent_loader (p : Nat) (unit : TraceUnit) (number offset : Nat) : (traceEvent s p unit number offset).loader = s.loader := by rw [traceEvent_frame]
@[simp] theorem traceEvent_pattern (p : Nat) (unit : TraceUnit) (number offset : Nat) : (traceEvent s p unit number offset).pattern = s.pattern := by rw [traceEvent_frame]
@[simp] theorem traceEvent_partials (p : Nat) (unit : TraceUnit) (number offset : Nat) : (traceEvent s p unit number offset).partials = s.partials := by rw [traceEvent_frame]
@[simp] theorem traceEvent_parts (p : Nat) (unit : TraceUnit) (number offset : Nat) : (traceEvent s p unit number offset).parts = s.parts := by rw [traceEvent_frame]
@[simp] theorem traceEvent_lanes (p : Nat) (unit : TraceUnit) (number offset : Nat) : (traceEvent s p unit number offset).lanes = s.lanes := by rw [traceEvent_frame]
@[simp] theorem traceEvent_counters (p : Nat) (unit : TraceUnit) (number offset : Nat) : (traceEvent s p unit number offset).counters = s.counters := by rw [traceEvent_frame]
@[simp] theorem traceEvent_awls (p : Nat) (unit : TraceUnit) (number offset : Nat) : (traceEvent s p unit number offset).awls = s.awls := by rw [traceEvent_frame]
@[simp] theorem traceEvent_blocks (p : Nat) (unit : TraceUnit) (number offset : Nat) : (traceEvent s p unit number offset).blocks = s.blocks := by rw [traceEvent_frame]
@[simp] theorem traceEvent_cores (p : Nat) (unit : TraceUnit) (number offset : Nat) : (traceEvent s p unit number offset).cores = s.cores := by rw [traceEvent_frame]
@[simp] theorem traceEvent_tolls (p : Nat) (unit : TraceUnit) (number offset : Nat) : (traceEvent s p unit number offset).tolls = s.tolls := by rw [traceEvent_frame]
@[simp] theorem traceEvent_roundabouts (p : Nat) (unit : TraceUnit) (number offset : Nat) : (traceEvent s p unit number offset).roundabouts = s.roundabouts := by rw [traceEvent_frame]
@[simp] theorem traceEvent_crossings (p : Nat) (unit : TraceUnit) (number offset : Nat) : (traceEvent s p unit number offset).crossings = s.crossings := by rw [traceEvent_frame]
@[simp] theorem traceEvent_mem (p : Nat) (unit : TraceUnit) (number offset : Nat) : (traceEvent s p unit number offset).mem = s.mem := by rw [traceEvent_frame]
@[simp] theorem traceEvent_badWords (p : Nat) (unit : TraceUnit) (number offset : Nat) : (traceEvent s p unit number offset).badWords = s.badWords := by rw [traceEvent_frame]
@[simp] theorem traceEvent_hbmEcc (p : Nat) (unit : TraceUnit) (number offset : Nat) : (traceEvent s p unit number offset).hbmEcc = s.hbmEcc := by rw [traceEvent_frame]
@[simp] theorem traceEvent_ddrEcc (p : Nat) (unit : TraceUnit) (number offset : Nat) : (traceEvent s p unit number offset).ddrEcc = s.ddrEcc := by rw [traceEvent_frame]
@[simp] theorem traceEvent_nvCmds (p : Nat) (unit : TraceUnit) (number offset : Nat) : (traceEvent s p unit number offset).nvCmds = s.nvCmds := by rw [traceEvent_frame]
@[simp] theorem traceEvent_fab (p : Nat) (unit : TraceUnit) (number offset : Nat) : (traceEvent s p unit number offset).fab = s.fab := by rw [traceEvent_frame]
@[simp] theorem traceEvent_mgmt (p : Nat) (unit : TraceUnit) (number offset : Nat) : (traceEvent s p unit number offset).mgmt = s.mgmt := by rw [traceEvent_frame]
@[simp] theorem traceEvent_trust (p : Nat) (unit : TraceUnit) (number offset : Nat) : (traceEvent s p unit number offset).trust = s.trust := by rw [traceEvent_frame]
@[simp] theorem traceEvent_power (p : Nat) (unit : TraceUnit) (number offset : Nat) : (traceEvent s p unit number offset).power = s.power := by rw [traceEvent_frame]
@[simp] theorem traceEvent_faults (p : Nat) (unit : TraceUnit) (number offset : Nat) : (traceEvent s p unit number offset).faults = s.faults := by rw [traceEvent_frame]

/-- Raising a vector changes the pending bits of its table and the boundary alone. -/
theorem raiseVector_frame (fn v : Nat) :
    raiseVector s fn v = { s with mgmt := (raiseVector s fn v).mgmt, out := (raiseVector s fn v).out } := by
  unfold raiseVector
  simp only []
  split
  · rfl
  · split <;> rfl

@[simp] theorem raiseVector_pending (fn v : Nat) : (raiseVector s fn v).pending = s.pending := by rw [raiseVector_frame]
@[simp] theorem raiseVector_draws (fn v : Nat) : (raiseVector s fn v).draws = s.draws := by rw [raiseVector_frame]
@[simp] theorem raiseVector_now (fn v : Nat) : (raiseVector s fn v).now = s.now := by rw [raiseVector_frame]
@[simp] theorem raiseVector_sled (fn v : Nat) : (raiseVector s fn v).sled = s.sled := by rw [raiseVector_frame]
@[simp] theorem raiseVector_regs (fn v : Nat) : (raiseVector s fn v).regs = s.regs := by rw [raiseVector_frame]
@[simp] theorem raiseVector_loader (fn v : Nat) : (raiseVector s fn v).loader = s.loader := by rw [raiseVector_frame]
@[simp] theorem raiseVector_pattern (fn v : Nat) : (raiseVector s fn v).pattern = s.pattern := by rw [raiseVector_frame]
@[simp] theorem raiseVector_partials (fn v : Nat) : (raiseVector s fn v).partials = s.partials := by rw [raiseVector_frame]
@[simp] theorem raiseVector_parts (fn v : Nat) : (raiseVector s fn v).parts = s.parts := by rw [raiseVector_frame]
@[simp] theorem raiseVector_lanes (fn v : Nat) : (raiseVector s fn v).lanes = s.lanes := by rw [raiseVector_frame]
@[simp] theorem raiseVector_counters (fn v : Nat) : (raiseVector s fn v).counters = s.counters := by rw [raiseVector_frame]
@[simp] theorem raiseVector_awls (fn v : Nat) : (raiseVector s fn v).awls = s.awls := by rw [raiseVector_frame]
@[simp] theorem raiseVector_blocks (fn v : Nat) : (raiseVector s fn v).blocks = s.blocks := by rw [raiseVector_frame]
@[simp] theorem raiseVector_cores (fn v : Nat) : (raiseVector s fn v).cores = s.cores := by rw [raiseVector_frame]
@[simp] theorem raiseVector_tolls (fn v : Nat) : (raiseVector s fn v).tolls = s.tolls := by rw [raiseVector_frame]
@[simp] theorem raiseVector_roundabouts (fn v : Nat) : (raiseVector s fn v).roundabouts = s.roundabouts := by rw [raiseVector_frame]
@[simp] theorem raiseVector_crossings (fn v : Nat) : (raiseVector s fn v).crossings = s.crossings := by rw [raiseVector_frame]
@[simp] theorem raiseVector_mem (fn v : Nat) : (raiseVector s fn v).mem = s.mem := by rw [raiseVector_frame]
@[simp] theorem raiseVector_badWords (fn v : Nat) : (raiseVector s fn v).badWords = s.badWords := by rw [raiseVector_frame]
@[simp] theorem raiseVector_hbmEcc (fn v : Nat) : (raiseVector s fn v).hbmEcc = s.hbmEcc := by rw [raiseVector_frame]
@[simp] theorem raiseVector_ddrEcc (fn v : Nat) : (raiseVector s fn v).ddrEcc = s.ddrEcc := by rw [raiseVector_frame]
@[simp] theorem raiseVector_nvCmds (fn v : Nat) : (raiseVector s fn v).nvCmds = s.nvCmds := by rw [raiseVector_frame]
@[simp] theorem raiseVector_fab (fn v : Nat) : (raiseVector s fn v).fab = s.fab := by rw [raiseVector_frame]
@[simp] theorem raiseVector_trust (fn v : Nat) : (raiseVector s fn v).trust = s.trust := by rw [raiseVector_frame]
@[simp] theorem raiseVector_power (fn v : Nat) : (raiseVector s fn v).power = s.power := by rw [raiseVector_frame]
@[simp] theorem raiseVector_faults (fn v : Nat) : (raiseVector s fn v).faults = s.faults := by rw [raiseVector_frame]
@[simp] theorem raiseVector_trace (fn v : Nat) : (raiseVector s fn v).trace = s.trace := by rw [raiseVector_frame]

/-- Raising a vector of a partition, the same. -/
theorem raisePart_frame (p v : Nat) :
    raisePart s p v = { s with mgmt := (raisePart s p v).mgmt, out := (raisePart s p v).out } := by
  exact raiseVector_frame s (p + 1) v

@[simp] theorem raisePart_pending (p v : Nat) : (raisePart s p v).pending = s.pending := by rw [raisePart_frame]
@[simp] theorem raisePart_draws (p v : Nat) : (raisePart s p v).draws = s.draws := by rw [raisePart_frame]
@[simp] theorem raisePart_now (p v : Nat) : (raisePart s p v).now = s.now := by rw [raisePart_frame]
@[simp] theorem raisePart_sled (p v : Nat) : (raisePart s p v).sled = s.sled := by rw [raisePart_frame]
@[simp] theorem raisePart_regs (p v : Nat) : (raisePart s p v).regs = s.regs := by rw [raisePart_frame]
@[simp] theorem raisePart_loader (p v : Nat) : (raisePart s p v).loader = s.loader := by rw [raisePart_frame]
@[simp] theorem raisePart_pattern (p v : Nat) : (raisePart s p v).pattern = s.pattern := by rw [raisePart_frame]
@[simp] theorem raisePart_partials (p v : Nat) : (raisePart s p v).partials = s.partials := by rw [raisePart_frame]
@[simp] theorem raisePart_parts (p v : Nat) : (raisePart s p v).parts = s.parts := by rw [raisePart_frame]
@[simp] theorem raisePart_lanes (p v : Nat) : (raisePart s p v).lanes = s.lanes := by rw [raisePart_frame]
@[simp] theorem raisePart_counters (p v : Nat) : (raisePart s p v).counters = s.counters := by rw [raisePart_frame]
@[simp] theorem raisePart_awls (p v : Nat) : (raisePart s p v).awls = s.awls := by rw [raisePart_frame]
@[simp] theorem raisePart_blocks (p v : Nat) : (raisePart s p v).blocks = s.blocks := by rw [raisePart_frame]
@[simp] theorem raisePart_cores (p v : Nat) : (raisePart s p v).cores = s.cores := by rw [raisePart_frame]
@[simp] theorem raisePart_tolls (p v : Nat) : (raisePart s p v).tolls = s.tolls := by rw [raisePart_frame]
@[simp] theorem raisePart_roundabouts (p v : Nat) : (raisePart s p v).roundabouts = s.roundabouts := by rw [raisePart_frame]
@[simp] theorem raisePart_crossings (p v : Nat) : (raisePart s p v).crossings = s.crossings := by rw [raisePart_frame]
@[simp] theorem raisePart_mem (p v : Nat) : (raisePart s p v).mem = s.mem := by rw [raisePart_frame]
@[simp] theorem raisePart_badWords (p v : Nat) : (raisePart s p v).badWords = s.badWords := by rw [raisePart_frame]
@[simp] theorem raisePart_hbmEcc (p v : Nat) : (raisePart s p v).hbmEcc = s.hbmEcc := by rw [raisePart_frame]
@[simp] theorem raisePart_ddrEcc (p v : Nat) : (raisePart s p v).ddrEcc = s.ddrEcc := by rw [raisePart_frame]
@[simp] theorem raisePart_nvCmds (p v : Nat) : (raisePart s p v).nvCmds = s.nvCmds := by rw [raisePart_frame]
@[simp] theorem raisePart_fab (p v : Nat) : (raisePart s p v).fab = s.fab := by rw [raisePart_frame]
@[simp] theorem raisePart_trust (p v : Nat) : (raisePart s p v).trust = s.trust := by rw [raisePart_frame]
@[simp] theorem raisePart_power (p v : Nat) : (raisePart s p v).power = s.power := by rw [raisePart_frame]
@[simp] theorem raisePart_faults (p v : Nat) : (raisePart s p v).faults = s.faults := by rw [raisePart_frame]
@[simp] theorem raisePart_trace (p v : Nat) : (raisePart s p v).trace = s.trace := by rw [raisePart_frame]

/-- Raising the vectors of sources, the same. -/
theorem raiseSources_frame (l : List Nat) :
    raiseSources s l = { s with mgmt := (raiseSources s l).mgmt, out := (raiseSources s l).out } := by
  induction l generalizing s with
  | nil => rfl
  | cons k r ih =>
    simp only [raiseSources]
    rw [ih]
    split
    · rw [raiseVector_frame]
    · rfl

@[simp] theorem raiseSources_pending (l : List Nat) : (raiseSources s l).pending = s.pending := by rw [raiseSources_frame]
@[simp] theorem raiseSources_draws (l : List Nat) : (raiseSources s l).draws = s.draws := by rw [raiseSources_frame]
@[simp] theorem raiseSources_now (l : List Nat) : (raiseSources s l).now = s.now := by rw [raiseSources_frame]
@[simp] theorem raiseSources_sled (l : List Nat) : (raiseSources s l).sled = s.sled := by rw [raiseSources_frame]
@[simp] theorem raiseSources_regs (l : List Nat) : (raiseSources s l).regs = s.regs := by rw [raiseSources_frame]
@[simp] theorem raiseSources_loader (l : List Nat) : (raiseSources s l).loader = s.loader := by rw [raiseSources_frame]
@[simp] theorem raiseSources_pattern (l : List Nat) : (raiseSources s l).pattern = s.pattern := by rw [raiseSources_frame]
@[simp] theorem raiseSources_partials (l : List Nat) : (raiseSources s l).partials = s.partials := by rw [raiseSources_frame]
@[simp] theorem raiseSources_parts (l : List Nat) : (raiseSources s l).parts = s.parts := by rw [raiseSources_frame]
@[simp] theorem raiseSources_lanes (l : List Nat) : (raiseSources s l).lanes = s.lanes := by rw [raiseSources_frame]
@[simp] theorem raiseSources_counters (l : List Nat) : (raiseSources s l).counters = s.counters := by rw [raiseSources_frame]
@[simp] theorem raiseSources_awls (l : List Nat) : (raiseSources s l).awls = s.awls := by rw [raiseSources_frame]
@[simp] theorem raiseSources_blocks (l : List Nat) : (raiseSources s l).blocks = s.blocks := by rw [raiseSources_frame]
@[simp] theorem raiseSources_cores (l : List Nat) : (raiseSources s l).cores = s.cores := by rw [raiseSources_frame]
@[simp] theorem raiseSources_tolls (l : List Nat) : (raiseSources s l).tolls = s.tolls := by rw [raiseSources_frame]
@[simp] theorem raiseSources_roundabouts (l : List Nat) : (raiseSources s l).roundabouts = s.roundabouts := by rw [raiseSources_frame]
@[simp] theorem raiseSources_crossings (l : List Nat) : (raiseSources s l).crossings = s.crossings := by rw [raiseSources_frame]
@[simp] theorem raiseSources_mem (l : List Nat) : (raiseSources s l).mem = s.mem := by rw [raiseSources_frame]
@[simp] theorem raiseSources_badWords (l : List Nat) : (raiseSources s l).badWords = s.badWords := by rw [raiseSources_frame]
@[simp] theorem raiseSources_hbmEcc (l : List Nat) : (raiseSources s l).hbmEcc = s.hbmEcc := by rw [raiseSources_frame]
@[simp] theorem raiseSources_ddrEcc (l : List Nat) : (raiseSources s l).ddrEcc = s.ddrEcc := by rw [raiseSources_frame]
@[simp] theorem raiseSources_nvCmds (l : List Nat) : (raiseSources s l).nvCmds = s.nvCmds := by rw [raiseSources_frame]
@[simp] theorem raiseSources_fab (l : List Nat) : (raiseSources s l).fab = s.fab := by rw [raiseSources_frame]
@[simp] theorem raiseSources_trust (l : List Nat) : (raiseSources s l).trust = s.trust := by rw [raiseSources_frame]
@[simp] theorem raiseSources_power (l : List Nat) : (raiseSources s l).power = s.power := by rw [raiseSources_frame]
@[simp] theorem raiseSources_faults (l : List Nat) : (raiseSources s l).faults = s.faults := by rw [raiseSources_frame]
@[simp] theorem raiseSources_trace (l : List Nat) : (raiseSources s l).trace = s.trace := by rw [raiseSources_frame]

/-- Raising the vectors of the sources that rose, the same. -/
theorem raiseRisen_frame (old : State) :
    raiseRisen old s = { s with mgmt := (raiseRisen old s).mgmt, out := (raiseRisen old s).out } := by
  exact raiseSources_frame s _

@[simp] theorem raiseRisen_pending (old : State) : (raiseRisen old s).pending = s.pending := by rw [raiseRisen_frame]
@[simp] theorem raiseRisen_draws (old : State) : (raiseRisen old s).draws = s.draws := by rw [raiseRisen_frame]
@[simp] theorem raiseRisen_now (old : State) : (raiseRisen old s).now = s.now := by rw [raiseRisen_frame]
@[simp] theorem raiseRisen_sled (old : State) : (raiseRisen old s).sled = s.sled := by rw [raiseRisen_frame]
@[simp] theorem raiseRisen_regs (old : State) : (raiseRisen old s).regs = s.regs := by rw [raiseRisen_frame]
@[simp] theorem raiseRisen_loader (old : State) : (raiseRisen old s).loader = s.loader := by rw [raiseRisen_frame]
@[simp] theorem raiseRisen_pattern (old : State) : (raiseRisen old s).pattern = s.pattern := by rw [raiseRisen_frame]
@[simp] theorem raiseRisen_partials (old : State) : (raiseRisen old s).partials = s.partials := by rw [raiseRisen_frame]
@[simp] theorem raiseRisen_parts (old : State) : (raiseRisen old s).parts = s.parts := by rw [raiseRisen_frame]
@[simp] theorem raiseRisen_lanes (old : State) : (raiseRisen old s).lanes = s.lanes := by rw [raiseRisen_frame]
@[simp] theorem raiseRisen_counters (old : State) : (raiseRisen old s).counters = s.counters := by rw [raiseRisen_frame]
@[simp] theorem raiseRisen_awls (old : State) : (raiseRisen old s).awls = s.awls := by rw [raiseRisen_frame]
@[simp] theorem raiseRisen_blocks (old : State) : (raiseRisen old s).blocks = s.blocks := by rw [raiseRisen_frame]
@[simp] theorem raiseRisen_cores (old : State) : (raiseRisen old s).cores = s.cores := by rw [raiseRisen_frame]
@[simp] theorem raiseRisen_tolls (old : State) : (raiseRisen old s).tolls = s.tolls := by rw [raiseRisen_frame]
@[simp] theorem raiseRisen_roundabouts (old : State) : (raiseRisen old s).roundabouts = s.roundabouts := by rw [raiseRisen_frame]
@[simp] theorem raiseRisen_crossings (old : State) : (raiseRisen old s).crossings = s.crossings := by rw [raiseRisen_frame]
@[simp] theorem raiseRisen_mem (old : State) : (raiseRisen old s).mem = s.mem := by rw [raiseRisen_frame]
@[simp] theorem raiseRisen_badWords (old : State) : (raiseRisen old s).badWords = s.badWords := by rw [raiseRisen_frame]
@[simp] theorem raiseRisen_hbmEcc (old : State) : (raiseRisen old s).hbmEcc = s.hbmEcc := by rw [raiseRisen_frame]
@[simp] theorem raiseRisen_ddrEcc (old : State) : (raiseRisen old s).ddrEcc = s.ddrEcc := by rw [raiseRisen_frame]
@[simp] theorem raiseRisen_nvCmds (old : State) : (raiseRisen old s).nvCmds = s.nvCmds := by rw [raiseRisen_frame]
@[simp] theorem raiseRisen_fab (old : State) : (raiseRisen old s).fab = s.fab := by rw [raiseRisen_frame]
@[simp] theorem raiseRisen_trust (old : State) : (raiseRisen old s).trust = s.trust := by rw [raiseRisen_frame]
@[simp] theorem raiseRisen_power (old : State) : (raiseRisen old s).power = s.power := by rw [raiseRisen_frame]
@[simp] theorem raiseRisen_faults (old : State) : (raiseRisen old s).faults = s.faults := by rw [raiseRisen_frame]
@[simp] theorem raiseRisen_trace (old : State) : (raiseRisen old s).trace = s.trace := by rw [raiseRisen_frame]

/-- Raising the interrupt of a lane, the same. -/
theorem raiseLane_frame (l : Lane) :
    raiseLane s l = { s with mgmt := (raiseLane s l).mgmt, out := (raiseLane s l).out } := by
  unfold raiseLane
  split
  · exact raisePart_frame s _ _
  · rfl

@[simp] theorem raiseLane_pending (l : Lane) : (raiseLane s l).pending = s.pending := by rw [raiseLane_frame]
@[simp] theorem raiseLane_draws (l : Lane) : (raiseLane s l).draws = s.draws := by rw [raiseLane_frame]
@[simp] theorem raiseLane_now (l : Lane) : (raiseLane s l).now = s.now := by rw [raiseLane_frame]
@[simp] theorem raiseLane_sled (l : Lane) : (raiseLane s l).sled = s.sled := by rw [raiseLane_frame]
@[simp] theorem raiseLane_regs (l : Lane) : (raiseLane s l).regs = s.regs := by rw [raiseLane_frame]
@[simp] theorem raiseLane_loader (l : Lane) : (raiseLane s l).loader = s.loader := by rw [raiseLane_frame]
@[simp] theorem raiseLane_pattern (l : Lane) : (raiseLane s l).pattern = s.pattern := by rw [raiseLane_frame]
@[simp] theorem raiseLane_partials (l : Lane) : (raiseLane s l).partials = s.partials := by rw [raiseLane_frame]
@[simp] theorem raiseLane_parts (l : Lane) : (raiseLane s l).parts = s.parts := by rw [raiseLane_frame]
@[simp] theorem raiseLane_lanes (l : Lane) : (raiseLane s l).lanes = s.lanes := by rw [raiseLane_frame]
@[simp] theorem raiseLane_counters (l : Lane) : (raiseLane s l).counters = s.counters := by rw [raiseLane_frame]
@[simp] theorem raiseLane_awls (l : Lane) : (raiseLane s l).awls = s.awls := by rw [raiseLane_frame]
@[simp] theorem raiseLane_blocks (l : Lane) : (raiseLane s l).blocks = s.blocks := by rw [raiseLane_frame]
@[simp] theorem raiseLane_cores (l : Lane) : (raiseLane s l).cores = s.cores := by rw [raiseLane_frame]
@[simp] theorem raiseLane_tolls (l : Lane) : (raiseLane s l).tolls = s.tolls := by rw [raiseLane_frame]
@[simp] theorem raiseLane_roundabouts (l : Lane) : (raiseLane s l).roundabouts = s.roundabouts := by rw [raiseLane_frame]
@[simp] theorem raiseLane_crossings (l : Lane) : (raiseLane s l).crossings = s.crossings := by rw [raiseLane_frame]
@[simp] theorem raiseLane_mem (l : Lane) : (raiseLane s l).mem = s.mem := by rw [raiseLane_frame]
@[simp] theorem raiseLane_badWords (l : Lane) : (raiseLane s l).badWords = s.badWords := by rw [raiseLane_frame]
@[simp] theorem raiseLane_hbmEcc (l : Lane) : (raiseLane s l).hbmEcc = s.hbmEcc := by rw [raiseLane_frame]
@[simp] theorem raiseLane_ddrEcc (l : Lane) : (raiseLane s l).ddrEcc = s.ddrEcc := by rw [raiseLane_frame]
@[simp] theorem raiseLane_nvCmds (l : Lane) : (raiseLane s l).nvCmds = s.nvCmds := by rw [raiseLane_frame]
@[simp] theorem raiseLane_fab (l : Lane) : (raiseLane s l).fab = s.fab := by rw [raiseLane_frame]
@[simp] theorem raiseLane_trust (l : Lane) : (raiseLane s l).trust = s.trust := by rw [raiseLane_frame]
@[simp] theorem raiseLane_power (l : Lane) : (raiseLane s l).power = s.power := by rw [raiseLane_frame]
@[simp] theorem raiseLane_faults (l : Lane) : (raiseLane s l).faults = s.faults := by rw [raiseLane_frame]
@[simp] theorem raiseLane_trace (l : Lane) : (raiseLane s l).trace = s.trace := by rw [raiseLane_frame]

/-- TRAY_ALERT_N is a pin: the rest of the state stays. -/
theorem trayUpdate_frame :
    trayUpdate s = { s with sled := (trayUpdate s).sled, out := (trayUpdate s).out } := by
  unfold trayUpdate
  simp only []
  split <;> rfl

@[simp] theorem trayUpdate_pending : (trayUpdate s).pending = s.pending := by rw [trayUpdate_frame]
@[simp] theorem trayUpdate_draws : (trayUpdate s).draws = s.draws := by rw [trayUpdate_frame]
@[simp] theorem trayUpdate_now : (trayUpdate s).now = s.now := by rw [trayUpdate_frame]
@[simp] theorem trayUpdate_regs : (trayUpdate s).regs = s.regs := by rw [trayUpdate_frame]
@[simp] theorem trayUpdate_loader : (trayUpdate s).loader = s.loader := by rw [trayUpdate_frame]
@[simp] theorem trayUpdate_pattern : (trayUpdate s).pattern = s.pattern := by rw [trayUpdate_frame]
@[simp] theorem trayUpdate_partials : (trayUpdate s).partials = s.partials := by rw [trayUpdate_frame]
@[simp] theorem trayUpdate_parts : (trayUpdate s).parts = s.parts := by rw [trayUpdate_frame]
@[simp] theorem trayUpdate_lanes : (trayUpdate s).lanes = s.lanes := by rw [trayUpdate_frame]
@[simp] theorem trayUpdate_counters : (trayUpdate s).counters = s.counters := by rw [trayUpdate_frame]
@[simp] theorem trayUpdate_awls : (trayUpdate s).awls = s.awls := by rw [trayUpdate_frame]
@[simp] theorem trayUpdate_blocks : (trayUpdate s).blocks = s.blocks := by rw [trayUpdate_frame]
@[simp] theorem trayUpdate_cores : (trayUpdate s).cores = s.cores := by rw [trayUpdate_frame]
@[simp] theorem trayUpdate_tolls : (trayUpdate s).tolls = s.tolls := by rw [trayUpdate_frame]
@[simp] theorem trayUpdate_roundabouts : (trayUpdate s).roundabouts = s.roundabouts := by rw [trayUpdate_frame]
@[simp] theorem trayUpdate_crossings : (trayUpdate s).crossings = s.crossings := by rw [trayUpdate_frame]
@[simp] theorem trayUpdate_mem : (trayUpdate s).mem = s.mem := by rw [trayUpdate_frame]
@[simp] theorem trayUpdate_badWords : (trayUpdate s).badWords = s.badWords := by rw [trayUpdate_frame]
@[simp] theorem trayUpdate_hbmEcc : (trayUpdate s).hbmEcc = s.hbmEcc := by rw [trayUpdate_frame]
@[simp] theorem trayUpdate_ddrEcc : (trayUpdate s).ddrEcc = s.ddrEcc := by rw [trayUpdate_frame]
@[simp] theorem trayUpdate_nvCmds : (trayUpdate s).nvCmds = s.nvCmds := by rw [trayUpdate_frame]
@[simp] theorem trayUpdate_fab : (trayUpdate s).fab = s.fab := by rw [trayUpdate_frame]
@[simp] theorem trayUpdate_mgmt : (trayUpdate s).mgmt = s.mgmt := by rw [trayUpdate_frame]
@[simp] theorem trayUpdate_trust : (trayUpdate s).trust = s.trust := by rw [trayUpdate_frame]
@[simp] theorem trayUpdate_power : (trayUpdate s).power = s.power := by rw [trayUpdate_frame]
@[simp] theorem trayUpdate_faults : (trayUpdate s).faults = s.faults := by rw [trayUpdate_frame]
@[simp] theorem trayUpdate_trace : (trayUpdate s).trace = s.trace := by rw [trayUpdate_frame]

/-- A notice changes the notice queue, TRAY_ALERT_N and the boundary. -/
theorem sendNotice_frame (i3c : Bool) (command : Nat) (payload : List Byte) :
    sendNotice s i3c command payload = { s with mgmt := (sendNotice s i3c command payload).mgmt, sled := (sendNotice s i3c command payload).sled, out := (sendNotice s i3c command payload).out } := by
  unfold sendNotice
  simp only []
  generalize hu : trayUpdate _ = u
  rw [trayUpdate_frame] at hu
  split <;> (subst hu; rfl)

@[simp] theorem sendNotice_pending (i3c : Bool) (command : Nat) (payload : List Byte) : (sendNotice s i3c command payload).pending = s.pending := by rw [sendNotice_frame]
@[simp] theorem sendNotice_draws (i3c : Bool) (command : Nat) (payload : List Byte) : (sendNotice s i3c command payload).draws = s.draws := by rw [sendNotice_frame]
@[simp] theorem sendNotice_now (i3c : Bool) (command : Nat) (payload : List Byte) : (sendNotice s i3c command payload).now = s.now := by rw [sendNotice_frame]
@[simp] theorem sendNotice_regs (i3c : Bool) (command : Nat) (payload : List Byte) : (sendNotice s i3c command payload).regs = s.regs := by rw [sendNotice_frame]
@[simp] theorem sendNotice_loader (i3c : Bool) (command : Nat) (payload : List Byte) : (sendNotice s i3c command payload).loader = s.loader := by rw [sendNotice_frame]
@[simp] theorem sendNotice_pattern (i3c : Bool) (command : Nat) (payload : List Byte) : (sendNotice s i3c command payload).pattern = s.pattern := by rw [sendNotice_frame]
@[simp] theorem sendNotice_partials (i3c : Bool) (command : Nat) (payload : List Byte) : (sendNotice s i3c command payload).partials = s.partials := by rw [sendNotice_frame]
@[simp] theorem sendNotice_parts (i3c : Bool) (command : Nat) (payload : List Byte) : (sendNotice s i3c command payload).parts = s.parts := by rw [sendNotice_frame]
@[simp] theorem sendNotice_lanes (i3c : Bool) (command : Nat) (payload : List Byte) : (sendNotice s i3c command payload).lanes = s.lanes := by rw [sendNotice_frame]
@[simp] theorem sendNotice_counters (i3c : Bool) (command : Nat) (payload : List Byte) : (sendNotice s i3c command payload).counters = s.counters := by rw [sendNotice_frame]
@[simp] theorem sendNotice_awls (i3c : Bool) (command : Nat) (payload : List Byte) : (sendNotice s i3c command payload).awls = s.awls := by rw [sendNotice_frame]
@[simp] theorem sendNotice_blocks (i3c : Bool) (command : Nat) (payload : List Byte) : (sendNotice s i3c command payload).blocks = s.blocks := by rw [sendNotice_frame]
@[simp] theorem sendNotice_cores (i3c : Bool) (command : Nat) (payload : List Byte) : (sendNotice s i3c command payload).cores = s.cores := by rw [sendNotice_frame]
@[simp] theorem sendNotice_tolls (i3c : Bool) (command : Nat) (payload : List Byte) : (sendNotice s i3c command payload).tolls = s.tolls := by rw [sendNotice_frame]
@[simp] theorem sendNotice_roundabouts (i3c : Bool) (command : Nat) (payload : List Byte) : (sendNotice s i3c command payload).roundabouts = s.roundabouts := by rw [sendNotice_frame]
@[simp] theorem sendNotice_crossings (i3c : Bool) (command : Nat) (payload : List Byte) : (sendNotice s i3c command payload).crossings = s.crossings := by rw [sendNotice_frame]
@[simp] theorem sendNotice_mem (i3c : Bool) (command : Nat) (payload : List Byte) : (sendNotice s i3c command payload).mem = s.mem := by rw [sendNotice_frame]
@[simp] theorem sendNotice_badWords (i3c : Bool) (command : Nat) (payload : List Byte) : (sendNotice s i3c command payload).badWords = s.badWords := by rw [sendNotice_frame]
@[simp] theorem sendNotice_hbmEcc (i3c : Bool) (command : Nat) (payload : List Byte) : (sendNotice s i3c command payload).hbmEcc = s.hbmEcc := by rw [sendNotice_frame]
@[simp] theorem sendNotice_ddrEcc (i3c : Bool) (command : Nat) (payload : List Byte) : (sendNotice s i3c command payload).ddrEcc = s.ddrEcc := by rw [sendNotice_frame]
@[simp] theorem sendNotice_nvCmds (i3c : Bool) (command : Nat) (payload : List Byte) : (sendNotice s i3c command payload).nvCmds = s.nvCmds := by rw [sendNotice_frame]
@[simp] theorem sendNotice_fab (i3c : Bool) (command : Nat) (payload : List Byte) : (sendNotice s i3c command payload).fab = s.fab := by rw [sendNotice_frame]
@[simp] theorem sendNotice_trust (i3c : Bool) (command : Nat) (payload : List Byte) : (sendNotice s i3c command payload).trust = s.trust := by rw [sendNotice_frame]
@[simp] theorem sendNotice_power (i3c : Bool) (command : Nat) (payload : List Byte) : (sendNotice s i3c command payload).power = s.power := by rw [sendNotice_frame]
@[simp] theorem sendNotice_faults (i3c : Bool) (command : Nat) (payload : List Byte) : (sendNotice s i3c command payload).faults = s.faults := by rw [sendNotice_frame]
@[simp] theorem sendNotice_trace (i3c : Bool) (command : Nat) (payload : List Byte) : (sendNotice s i3c command payload).trace = s.trace := by rw [sendNotice_frame]

/-- An event record changes the event log, EVENT_LOG of INT_STATUS, and what a notice changes. -/
theorem keepEvent_frame (e : EventRec) :
    keepEvent s e = { s with mgmt := (keepEvent s e).mgmt, regs := (keepEvent s e).regs, sled := (keepEvent s e).sled, out := (keepEvent s e).out } := by
  unfold keepEvent
  simp only []
  split
  · rw [sendNotice_frame]
    simp only [State.upd]
    rw [raiseRisen_frame]; rfl
  · rfl

@[simp] theorem keepEvent_pending (e : EventRec) : (keepEvent s e).pending = s.pending := by rw [keepEvent_frame]
@[simp] theorem keepEvent_draws (e : EventRec) : (keepEvent s e).draws = s.draws := by rw [keepEvent_frame]
@[simp] theorem keepEvent_now (e : EventRec) : (keepEvent s e).now = s.now := by rw [keepEvent_frame]
@[simp] theorem keepEvent_loader (e : EventRec) : (keepEvent s e).loader = s.loader := by rw [keepEvent_frame]
@[simp] theorem keepEvent_pattern (e : EventRec) : (keepEvent s e).pattern = s.pattern := by rw [keepEvent_frame]
@[simp] theorem keepEvent_partials (e : EventRec) : (keepEvent s e).partials = s.partials := by rw [keepEvent_frame]
@[simp] theorem keepEvent_parts (e : EventRec) : (keepEvent s e).parts = s.parts := by rw [keepEvent_frame]
@[simp] theorem keepEvent_lanes (e : EventRec) : (keepEvent s e).lanes = s.lanes := by rw [keepEvent_frame]
@[simp] theorem keepEvent_counters (e : EventRec) : (keepEvent s e).counters = s.counters := by rw [keepEvent_frame]
@[simp] theorem keepEvent_awls (e : EventRec) : (keepEvent s e).awls = s.awls := by rw [keepEvent_frame]
@[simp] theorem keepEvent_blocks (e : EventRec) : (keepEvent s e).blocks = s.blocks := by rw [keepEvent_frame]
@[simp] theorem keepEvent_cores (e : EventRec) : (keepEvent s e).cores = s.cores := by rw [keepEvent_frame]
@[simp] theorem keepEvent_tolls (e : EventRec) : (keepEvent s e).tolls = s.tolls := by rw [keepEvent_frame]
@[simp] theorem keepEvent_roundabouts (e : EventRec) : (keepEvent s e).roundabouts = s.roundabouts := by rw [keepEvent_frame]
@[simp] theorem keepEvent_crossings (e : EventRec) : (keepEvent s e).crossings = s.crossings := by rw [keepEvent_frame]
@[simp] theorem keepEvent_mem (e : EventRec) : (keepEvent s e).mem = s.mem := by rw [keepEvent_frame]
@[simp] theorem keepEvent_badWords (e : EventRec) : (keepEvent s e).badWords = s.badWords := by rw [keepEvent_frame]
@[simp] theorem keepEvent_hbmEcc (e : EventRec) : (keepEvent s e).hbmEcc = s.hbmEcc := by rw [keepEvent_frame]
@[simp] theorem keepEvent_ddrEcc (e : EventRec) : (keepEvent s e).ddrEcc = s.ddrEcc := by rw [keepEvent_frame]
@[simp] theorem keepEvent_nvCmds (e : EventRec) : (keepEvent s e).nvCmds = s.nvCmds := by rw [keepEvent_frame]
@[simp] theorem keepEvent_fab (e : EventRec) : (keepEvent s e).fab = s.fab := by rw [keepEvent_frame]
@[simp] theorem keepEvent_trust (e : EventRec) : (keepEvent s e).trust = s.trust := by rw [keepEvent_frame]
@[simp] theorem keepEvent_power (e : EventRec) : (keepEvent s e).power = s.power := by rw [keepEvent_frame]
@[simp] theorem keepEvent_faults (e : EventRec) : (keepEvent s e).faults = s.faults := by rw [keepEvent_frame]
@[simp] theorem keepEvent_trace (e : EventRec) : (keepEvent s e).trace = s.trace := by rw [keepEvent_frame]

/-- A composition event, the same. -/
theorem recordEvent_frame (kind part comp epoch tenant state : Nat) :
    recordEvent s kind part comp epoch tenant state = { s with mgmt := (recordEvent s kind part comp epoch tenant state).mgmt, regs := (recordEvent s kind part comp epoch tenant state).regs, sled := (recordEvent s kind part comp epoch tenant state).sled, out := (recordEvent s kind part comp epoch tenant state).out } := by
  unfold recordEvent
  simp only []
  split
  · rw [keepEvent_frame, keepEvent_frame]; rfl
  · rw [keepEvent_frame]

@[simp] theorem recordEvent_pending (kind part comp epoch tenant state : Nat) : (recordEvent s kind part comp epoch tenant state).pending = s.pending := by rw [recordEvent_frame]
@[simp] theorem recordEvent_draws (kind part comp epoch tenant state : Nat) : (recordEvent s kind part comp epoch tenant state).draws = s.draws := by rw [recordEvent_frame]
@[simp] theorem recordEvent_now (kind part comp epoch tenant state : Nat) : (recordEvent s kind part comp epoch tenant state).now = s.now := by rw [recordEvent_frame]
@[simp] theorem recordEvent_loader (kind part comp epoch tenant state : Nat) : (recordEvent s kind part comp epoch tenant state).loader = s.loader := by rw [recordEvent_frame]
@[simp] theorem recordEvent_pattern (kind part comp epoch tenant state : Nat) : (recordEvent s kind part comp epoch tenant state).pattern = s.pattern := by rw [recordEvent_frame]
@[simp] theorem recordEvent_partials (kind part comp epoch tenant state : Nat) : (recordEvent s kind part comp epoch tenant state).partials = s.partials := by rw [recordEvent_frame]
@[simp] theorem recordEvent_parts (kind part comp epoch tenant state : Nat) : (recordEvent s kind part comp epoch tenant state).parts = s.parts := by rw [recordEvent_frame]
@[simp] theorem recordEvent_lanes (kind part comp epoch tenant state : Nat) : (recordEvent s kind part comp epoch tenant state).lanes = s.lanes := by rw [recordEvent_frame]
@[simp] theorem recordEvent_counters (kind part comp epoch tenant state : Nat) : (recordEvent s kind part comp epoch tenant state).counters = s.counters := by rw [recordEvent_frame]
@[simp] theorem recordEvent_awls (kind part comp epoch tenant state : Nat) : (recordEvent s kind part comp epoch tenant state).awls = s.awls := by rw [recordEvent_frame]
@[simp] theorem recordEvent_blocks (kind part comp epoch tenant state : Nat) : (recordEvent s kind part comp epoch tenant state).blocks = s.blocks := by rw [recordEvent_frame]
@[simp] theorem recordEvent_cores (kind part comp epoch tenant state : Nat) : (recordEvent s kind part comp epoch tenant state).cores = s.cores := by rw [recordEvent_frame]
@[simp] theorem recordEvent_tolls (kind part comp epoch tenant state : Nat) : (recordEvent s kind part comp epoch tenant state).tolls = s.tolls := by rw [recordEvent_frame]
@[simp] theorem recordEvent_roundabouts (kind part comp epoch tenant state : Nat) : (recordEvent s kind part comp epoch tenant state).roundabouts = s.roundabouts := by rw [recordEvent_frame]
@[simp] theorem recordEvent_crossings (kind part comp epoch tenant state : Nat) : (recordEvent s kind part comp epoch tenant state).crossings = s.crossings := by rw [recordEvent_frame]
@[simp] theorem recordEvent_mem (kind part comp epoch tenant state : Nat) : (recordEvent s kind part comp epoch tenant state).mem = s.mem := by rw [recordEvent_frame]
@[simp] theorem recordEvent_badWords (kind part comp epoch tenant state : Nat) : (recordEvent s kind part comp epoch tenant state).badWords = s.badWords := by rw [recordEvent_frame]
@[simp] theorem recordEvent_hbmEcc (kind part comp epoch tenant state : Nat) : (recordEvent s kind part comp epoch tenant state).hbmEcc = s.hbmEcc := by rw [recordEvent_frame]
@[simp] theorem recordEvent_ddrEcc (kind part comp epoch tenant state : Nat) : (recordEvent s kind part comp epoch tenant state).ddrEcc = s.ddrEcc := by rw [recordEvent_frame]
@[simp] theorem recordEvent_nvCmds (kind part comp epoch tenant state : Nat) : (recordEvent s kind part comp epoch tenant state).nvCmds = s.nvCmds := by rw [recordEvent_frame]
@[simp] theorem recordEvent_fab (kind part comp epoch tenant state : Nat) : (recordEvent s kind part comp epoch tenant state).fab = s.fab := by rw [recordEvent_frame]
@[simp] theorem recordEvent_trust (kind part comp epoch tenant state : Nat) : (recordEvent s kind part comp epoch tenant state).trust = s.trust := by rw [recordEvent_frame]
@[simp] theorem recordEvent_power (kind part comp epoch tenant state : Nat) : (recordEvent s kind part comp epoch tenant state).power = s.power := by rw [recordEvent_frame]
@[simp] theorem recordEvent_faults (kind part comp epoch tenant state : Nat) : (recordEvent s kind part comp epoch tenant state).faults = s.faults := by rw [recordEvent_frame]
@[simp] theorem recordEvent_trace (kind part comp epoch tenant state : Nat) : (recordEvent s kind part comp epoch tenant state).trace = s.trace := by rw [recordEvent_frame]

/-- A state code changes its partition, and what an event changes. -/
theorem setCode_frame (p c : Nat) :
    setCode s p c = { s with parts := (setCode s p c).parts, mgmt := (setCode s p c).mgmt, regs := (setCode s p c).regs, sled := (setCode s p c).sled, out := (setCode s p c).out } := by
  unfold setCode
  simp only []
  split
  · rw [recordEvent_frame]; rfl
  · split
    · rw [recordEvent_frame]; rfl
    · rfl

@[simp] theorem setCode_pending (p c : Nat) : (setCode s p c).pending = s.pending := by rw [setCode_frame]
@[simp] theorem setCode_draws (p c : Nat) : (setCode s p c).draws = s.draws := by rw [setCode_frame]
@[simp] theorem setCode_now (p c : Nat) : (setCode s p c).now = s.now := by rw [setCode_frame]
@[simp] theorem setCode_loader (p c : Nat) : (setCode s p c).loader = s.loader := by rw [setCode_frame]
@[simp] theorem setCode_pattern (p c : Nat) : (setCode s p c).pattern = s.pattern := by rw [setCode_frame]
@[simp] theorem setCode_partials (p c : Nat) : (setCode s p c).partials = s.partials := by rw [setCode_frame]
@[simp] theorem setCode_lanes (p c : Nat) : (setCode s p c).lanes = s.lanes := by rw [setCode_frame]
@[simp] theorem setCode_counters (p c : Nat) : (setCode s p c).counters = s.counters := by rw [setCode_frame]
@[simp] theorem setCode_awls (p c : Nat) : (setCode s p c).awls = s.awls := by rw [setCode_frame]
@[simp] theorem setCode_blocks (p c : Nat) : (setCode s p c).blocks = s.blocks := by rw [setCode_frame]
@[simp] theorem setCode_cores (p c : Nat) : (setCode s p c).cores = s.cores := by rw [setCode_frame]
@[simp] theorem setCode_tolls (p c : Nat) : (setCode s p c).tolls = s.tolls := by rw [setCode_frame]
@[simp] theorem setCode_roundabouts (p c : Nat) : (setCode s p c).roundabouts = s.roundabouts := by rw [setCode_frame]
@[simp] theorem setCode_crossings (p c : Nat) : (setCode s p c).crossings = s.crossings := by rw [setCode_frame]
@[simp] theorem setCode_mem (p c : Nat) : (setCode s p c).mem = s.mem := by rw [setCode_frame]
@[simp] theorem setCode_badWords (p c : Nat) : (setCode s p c).badWords = s.badWords := by rw [setCode_frame]
@[simp] theorem setCode_hbmEcc (p c : Nat) : (setCode s p c).hbmEcc = s.hbmEcc := by rw [setCode_frame]
@[simp] theorem setCode_ddrEcc (p c : Nat) : (setCode s p c).ddrEcc = s.ddrEcc := by rw [setCode_frame]
@[simp] theorem setCode_nvCmds (p c : Nat) : (setCode s p c).nvCmds = s.nvCmds := by rw [setCode_frame]
@[simp] theorem setCode_fab (p c : Nat) : (setCode s p c).fab = s.fab := by rw [setCode_frame]
@[simp] theorem setCode_trust (p c : Nat) : (setCode s p c).trust = s.trust := by rw [setCode_frame]
@[simp] theorem setCode_power (p c : Nat) : (setCode s p c).power = s.power := by rw [setCode_frame]
@[simp] theorem setCode_faults (p c : Nat) : (setCode s p c).faults = s.faults := by rw [setCode_frame]
@[simp] theorem setCode_trace (p c : Nat) : (setCode s p c).trace = s.trace := by rw [setCode_frame]

/-- A module state changes the module registers and raises their interrupt. -/
theorem setModState_frame (c : Nat) :
    setModState s c = { s with regs := (setModState s c).regs, mgmt := (setModState s c).mgmt, out := (setModState s c).out } := by
  unfold setModState
  split
  · rfl
  · simp only [State.upd]
    rw [raiseRisen_frame]; rfl

@[simp] theorem setModState_pending (c : Nat) : (setModState s c).pending = s.pending := by rw [setModState_frame]
@[simp] theorem setModState_draws (c : Nat) : (setModState s c).draws = s.draws := by rw [setModState_frame]
@[simp] theorem setModState_now (c : Nat) : (setModState s c).now = s.now := by rw [setModState_frame]
@[simp] theorem setModState_sled (c : Nat) : (setModState s c).sled = s.sled := by rw [setModState_frame]
@[simp] theorem setModState_loader (c : Nat) : (setModState s c).loader = s.loader := by rw [setModState_frame]
@[simp] theorem setModState_pattern (c : Nat) : (setModState s c).pattern = s.pattern := by rw [setModState_frame]
@[simp] theorem setModState_partials (c : Nat) : (setModState s c).partials = s.partials := by rw [setModState_frame]
@[simp] theorem setModState_parts (c : Nat) : (setModState s c).parts = s.parts := by rw [setModState_frame]
@[simp] theorem setModState_lanes (c : Nat) : (setModState s c).lanes = s.lanes := by rw [setModState_frame]
@[simp] theorem setModState_counters (c : Nat) : (setModState s c).counters = s.counters := by rw [setModState_frame]
@[simp] theorem setModState_awls (c : Nat) : (setModState s c).awls = s.awls := by rw [setModState_frame]
@[simp] theorem setModState_blocks (c : Nat) : (setModState s c).blocks = s.blocks := by rw [setModState_frame]
@[simp] theorem setModState_cores (c : Nat) : (setModState s c).cores = s.cores := by rw [setModState_frame]
@[simp] theorem setModState_tolls (c : Nat) : (setModState s c).tolls = s.tolls := by rw [setModState_frame]
@[simp] theorem setModState_roundabouts (c : Nat) : (setModState s c).roundabouts = s.roundabouts := by rw [setModState_frame]
@[simp] theorem setModState_crossings (c : Nat) : (setModState s c).crossings = s.crossings := by rw [setModState_frame]
@[simp] theorem setModState_mem (c : Nat) : (setModState s c).mem = s.mem := by rw [setModState_frame]
@[simp] theorem setModState_badWords (c : Nat) : (setModState s c).badWords = s.badWords := by rw [setModState_frame]
@[simp] theorem setModState_hbmEcc (c : Nat) : (setModState s c).hbmEcc = s.hbmEcc := by rw [setModState_frame]
@[simp] theorem setModState_ddrEcc (c : Nat) : (setModState s c).ddrEcc = s.ddrEcc := by rw [setModState_frame]
@[simp] theorem setModState_nvCmds (c : Nat) : (setModState s c).nvCmds = s.nvCmds := by rw [setModState_frame]
@[simp] theorem setModState_fab (c : Nat) : (setModState s c).fab = s.fab := by rw [setModState_frame]
@[simp] theorem setModState_trust (c : Nat) : (setModState s c).trust = s.trust := by rw [setModState_frame]
@[simp] theorem setModState_power (c : Nat) : (setModState s c).power = s.power := by rw [setModState_frame]
@[simp] theorem setModState_faults (c : Nat) : (setModState s c).faults = s.faults := by rw [setModState_frame]
@[simp] theorem setModState_trace (c : Nat) : (setModState s c).trace = s.trace := by rw [setModState_frame]

/-- Telling of a fault changes the fault registers of its partition or of the module, and what a notice changes. -/
theorem tellFault_frame (r : FaultRec) :
    tellFault s r = { s with parts := (tellFault s r).parts, mgmt := (tellFault s r).mgmt, regs := (tellFault s r).regs, sled := (tellFault s r).sled, out := (tellFault s r).out } := by
  unfold tellFault
  simp only []
  split
  · simp only [State.upd]
    rw [raiseRisen_frame, sendNotice_frame]; rfl
  · split
    · rw [raisePart_frame, sendNotice_frame]; rfl
    · rw [sendNotice_frame]; rfl

@[simp] theorem tellFault_pending (r : FaultRec) : (tellFault s r).pending = s.pending := by rw [tellFault_frame]
@[simp] theorem tellFault_draws (r : FaultRec) : (tellFault s r).draws = s.draws := by rw [tellFault_frame]
@[simp] theorem tellFault_now (r : FaultRec) : (tellFault s r).now = s.now := by rw [tellFault_frame]
@[simp] theorem tellFault_loader (r : FaultRec) : (tellFault s r).loader = s.loader := by rw [tellFault_frame]
@[simp] theorem tellFault_pattern (r : FaultRec) : (tellFault s r).pattern = s.pattern := by rw [tellFault_frame]
@[simp] theorem tellFault_partials (r : FaultRec) : (tellFault s r).partials = s.partials := by rw [tellFault_frame]
@[simp] theorem tellFault_lanes (r : FaultRec) : (tellFault s r).lanes = s.lanes := by rw [tellFault_frame]
@[simp] theorem tellFault_counters (r : FaultRec) : (tellFault s r).counters = s.counters := by rw [tellFault_frame]
@[simp] theorem tellFault_awls (r : FaultRec) : (tellFault s r).awls = s.awls := by rw [tellFault_frame]
@[simp] theorem tellFault_blocks (r : FaultRec) : (tellFault s r).blocks = s.blocks := by rw [tellFault_frame]
@[simp] theorem tellFault_cores (r : FaultRec) : (tellFault s r).cores = s.cores := by rw [tellFault_frame]
@[simp] theorem tellFault_tolls (r : FaultRec) : (tellFault s r).tolls = s.tolls := by rw [tellFault_frame]
@[simp] theorem tellFault_roundabouts (r : FaultRec) : (tellFault s r).roundabouts = s.roundabouts := by rw [tellFault_frame]
@[simp] theorem tellFault_crossings (r : FaultRec) : (tellFault s r).crossings = s.crossings := by rw [tellFault_frame]
@[simp] theorem tellFault_mem (r : FaultRec) : (tellFault s r).mem = s.mem := by rw [tellFault_frame]
@[simp] theorem tellFault_badWords (r : FaultRec) : (tellFault s r).badWords = s.badWords := by rw [tellFault_frame]
@[simp] theorem tellFault_hbmEcc (r : FaultRec) : (tellFault s r).hbmEcc = s.hbmEcc := by rw [tellFault_frame]
@[simp] theorem tellFault_ddrEcc (r : FaultRec) : (tellFault s r).ddrEcc = s.ddrEcc := by rw [tellFault_frame]
@[simp] theorem tellFault_nvCmds (r : FaultRec) : (tellFault s r).nvCmds = s.nvCmds := by rw [tellFault_frame]
@[simp] theorem tellFault_fab (r : FaultRec) : (tellFault s r).fab = s.fab := by rw [tellFault_frame]
@[simp] theorem tellFault_trust (r : FaultRec) : (tellFault s r).trust = s.trust := by rw [tellFault_frame]
@[simp] theorem tellFault_power (r : FaultRec) : (tellFault s r).power = s.power := by rw [tellFault_frame]
@[simp] theorem tellFault_faults (r : FaultRec) : (tellFault s r).faults = s.faults := by rw [tellFault_frame]
@[simp] theorem tellFault_trace (r : FaultRec) : (tellFault s r).trace = s.trace := by rw [tellFault_frame]

/-- A fault record changes the fault log, and what telling of it changes. -/
theorem faultRecord_frame (cls : Nat) (code : Byte) (part unitKind unit address detail : Nat) (tag : Word) :
    faultRecord s cls code part unitKind unit address detail tag = { s with faults := (faultRecord s cls code part unitKind unit address detail tag).faults, parts := (faultRecord s cls code part unitKind unit address detail tag).parts, mgmt := (faultRecord s cls code part unitKind unit address detail tag).mgmt, regs := (faultRecord s cls code part unitKind unit address detail tag).regs, sled := (faultRecord s cls code part unitKind unit address detail tag).sled, out := (faultRecord s cls code part unitKind unit address detail tag).out } := by
  unfold faultRecord
  simp only []
  split
  · rfl
  · rw [tellFault_frame]; rfl

@[simp] theorem faultRecord_pending (cls : Nat) (code : Byte) (part unitKind unit address detail : Nat) (tag : Word) : (faultRecord s cls code part unitKind unit address detail tag).pending = s.pending := by rw [faultRecord_frame]
@[simp] theorem faultRecord_draws (cls : Nat) (code : Byte) (part unitKind unit address detail : Nat) (tag : Word) : (faultRecord s cls code part unitKind unit address detail tag).draws = s.draws := by rw [faultRecord_frame]
@[simp] theorem faultRecord_now (cls : Nat) (code : Byte) (part unitKind unit address detail : Nat) (tag : Word) : (faultRecord s cls code part unitKind unit address detail tag).now = s.now := by rw [faultRecord_frame]
@[simp] theorem faultRecord_loader (cls : Nat) (code : Byte) (part unitKind unit address detail : Nat) (tag : Word) : (faultRecord s cls code part unitKind unit address detail tag).loader = s.loader := by rw [faultRecord_frame]
@[simp] theorem faultRecord_pattern (cls : Nat) (code : Byte) (part unitKind unit address detail : Nat) (tag : Word) : (faultRecord s cls code part unitKind unit address detail tag).pattern = s.pattern := by rw [faultRecord_frame]
@[simp] theorem faultRecord_partials (cls : Nat) (code : Byte) (part unitKind unit address detail : Nat) (tag : Word) : (faultRecord s cls code part unitKind unit address detail tag).partials = s.partials := by rw [faultRecord_frame]
@[simp] theorem faultRecord_lanes (cls : Nat) (code : Byte) (part unitKind unit address detail : Nat) (tag : Word) : (faultRecord s cls code part unitKind unit address detail tag).lanes = s.lanes := by rw [faultRecord_frame]
@[simp] theorem faultRecord_counters (cls : Nat) (code : Byte) (part unitKind unit address detail : Nat) (tag : Word) : (faultRecord s cls code part unitKind unit address detail tag).counters = s.counters := by rw [faultRecord_frame]
@[simp] theorem faultRecord_awls (cls : Nat) (code : Byte) (part unitKind unit address detail : Nat) (tag : Word) : (faultRecord s cls code part unitKind unit address detail tag).awls = s.awls := by rw [faultRecord_frame]
@[simp] theorem faultRecord_blocks (cls : Nat) (code : Byte) (part unitKind unit address detail : Nat) (tag : Word) : (faultRecord s cls code part unitKind unit address detail tag).blocks = s.blocks := by rw [faultRecord_frame]
@[simp] theorem faultRecord_cores (cls : Nat) (code : Byte) (part unitKind unit address detail : Nat) (tag : Word) : (faultRecord s cls code part unitKind unit address detail tag).cores = s.cores := by rw [faultRecord_frame]
@[simp] theorem faultRecord_tolls (cls : Nat) (code : Byte) (part unitKind unit address detail : Nat) (tag : Word) : (faultRecord s cls code part unitKind unit address detail tag).tolls = s.tolls := by rw [faultRecord_frame]
@[simp] theorem faultRecord_roundabouts (cls : Nat) (code : Byte) (part unitKind unit address detail : Nat) (tag : Word) : (faultRecord s cls code part unitKind unit address detail tag).roundabouts = s.roundabouts := by rw [faultRecord_frame]
@[simp] theorem faultRecord_crossings (cls : Nat) (code : Byte) (part unitKind unit address detail : Nat) (tag : Word) : (faultRecord s cls code part unitKind unit address detail tag).crossings = s.crossings := by rw [faultRecord_frame]
@[simp] theorem faultRecord_mem (cls : Nat) (code : Byte) (part unitKind unit address detail : Nat) (tag : Word) : (faultRecord s cls code part unitKind unit address detail tag).mem = s.mem := by rw [faultRecord_frame]
@[simp] theorem faultRecord_badWords (cls : Nat) (code : Byte) (part unitKind unit address detail : Nat) (tag : Word) : (faultRecord s cls code part unitKind unit address detail tag).badWords = s.badWords := by rw [faultRecord_frame]
@[simp] theorem faultRecord_hbmEcc (cls : Nat) (code : Byte) (part unitKind unit address detail : Nat) (tag : Word) : (faultRecord s cls code part unitKind unit address detail tag).hbmEcc = s.hbmEcc := by rw [faultRecord_frame]
@[simp] theorem faultRecord_ddrEcc (cls : Nat) (code : Byte) (part unitKind unit address detail : Nat) (tag : Word) : (faultRecord s cls code part unitKind unit address detail tag).ddrEcc = s.ddrEcc := by rw [faultRecord_frame]
@[simp] theorem faultRecord_nvCmds (cls : Nat) (code : Byte) (part unitKind unit address detail : Nat) (tag : Word) : (faultRecord s cls code part unitKind unit address detail tag).nvCmds = s.nvCmds := by rw [faultRecord_frame]
@[simp] theorem faultRecord_fab (cls : Nat) (code : Byte) (part unitKind unit address detail : Nat) (tag : Word) : (faultRecord s cls code part unitKind unit address detail tag).fab = s.fab := by rw [faultRecord_frame]
@[simp] theorem faultRecord_trust (cls : Nat) (code : Byte) (part unitKind unit address detail : Nat) (tag : Word) : (faultRecord s cls code part unitKind unit address detail tag).trust = s.trust := by rw [faultRecord_frame]
@[simp] theorem faultRecord_power (cls : Nat) (code : Byte) (part unitKind unit address detail : Nat) (tag : Word) : (faultRecord s cls code part unitKind unit address detail tag).power = s.power := by rw [faultRecord_frame]
@[simp] theorem faultRecord_trace (cls : Nat) (code : Byte) (part unitKind unit address detail : Nat) (tag : Word) : (faultRecord s cls code part unitKind unit address detail tag).trace = s.trace := by rw [faultRecord_frame]

/-- An armed lane interrupt changes its lane, and what a vector changes. -/
theorem laneArmed_frame (n : Nat) :
    laneArmed s n = { s with lanes := (laneArmed s n).lanes, mgmt := (laneArmed s n).mgmt, out := (laneArmed s n).out } := by
  unfold laneArmed
  simp only []
  split
  · rw [raiseLane_frame]; rfl
  · rfl

@[simp] theorem laneArmed_pending (n : Nat) : (laneArmed s n).pending = s.pending := by rw [laneArmed_frame]
@[simp] theorem laneArmed_draws (n : Nat) : (laneArmed s n).draws = s.draws := by rw [laneArmed_frame]
@[simp] theorem laneArmed_now (n : Nat) : (laneArmed s n).now = s.now := by rw [laneArmed_frame]
@[simp] theorem laneArmed_sled (n : Nat) : (laneArmed s n).sled = s.sled := by rw [laneArmed_frame]
@[simp] theorem laneArmed_regs (n : Nat) : (laneArmed s n).regs = s.regs := by rw [laneArmed_frame]
@[simp] theorem laneArmed_loader (n : Nat) : (laneArmed s n).loader = s.loader := by rw [laneArmed_frame]
@[simp] theorem laneArmed_pattern (n : Nat) : (laneArmed s n).pattern = s.pattern := by rw [laneArmed_frame]
@[simp] theorem laneArmed_partials (n : Nat) : (laneArmed s n).partials = s.partials := by rw [laneArmed_frame]
@[simp] theorem laneArmed_parts (n : Nat) : (laneArmed s n).parts = s.parts := by rw [laneArmed_frame]
@[simp] theorem laneArmed_counters (n : Nat) : (laneArmed s n).counters = s.counters := by rw [laneArmed_frame]
@[simp] theorem laneArmed_awls (n : Nat) : (laneArmed s n).awls = s.awls := by rw [laneArmed_frame]
@[simp] theorem laneArmed_blocks (n : Nat) : (laneArmed s n).blocks = s.blocks := by rw [laneArmed_frame]
@[simp] theorem laneArmed_cores (n : Nat) : (laneArmed s n).cores = s.cores := by rw [laneArmed_frame]
@[simp] theorem laneArmed_tolls (n : Nat) : (laneArmed s n).tolls = s.tolls := by rw [laneArmed_frame]
@[simp] theorem laneArmed_roundabouts (n : Nat) : (laneArmed s n).roundabouts = s.roundabouts := by rw [laneArmed_frame]
@[simp] theorem laneArmed_crossings (n : Nat) : (laneArmed s n).crossings = s.crossings := by rw [laneArmed_frame]
@[simp] theorem laneArmed_mem (n : Nat) : (laneArmed s n).mem = s.mem := by rw [laneArmed_frame]
@[simp] theorem laneArmed_badWords (n : Nat) : (laneArmed s n).badWords = s.badWords := by rw [laneArmed_frame]
@[simp] theorem laneArmed_hbmEcc (n : Nat) : (laneArmed s n).hbmEcc = s.hbmEcc := by rw [laneArmed_frame]
@[simp] theorem laneArmed_ddrEcc (n : Nat) : (laneArmed s n).ddrEcc = s.ddrEcc := by rw [laneArmed_frame]
@[simp] theorem laneArmed_nvCmds (n : Nat) : (laneArmed s n).nvCmds = s.nvCmds := by rw [laneArmed_frame]
@[simp] theorem laneArmed_fab (n : Nat) : (laneArmed s n).fab = s.fab := by rw [laneArmed_frame]
@[simp] theorem laneArmed_trust (n : Nat) : (laneArmed s n).trust = s.trust := by rw [laneArmed_frame]
@[simp] theorem laneArmed_power (n : Nat) : (laneArmed s n).power = s.power := by rw [laneArmed_frame]
@[simp] theorem laneArmed_faults (n : Nat) : (laneArmed s n).faults = s.faults := by rw [laneArmed_frame]
@[simp] theorem laneArmed_trace (n : Nat) : (laneArmed s n).trace = s.trace := by rw [laneArmed_frame]

/-- An arrival changes the Roundabout that the lane feeds. -/
theorem raArrive_frame (n : Nat) :
    raArrive s n = { s with roundabouts := (raArrive s n).roundabouts } := by
  unfold raArrive
  split
  · rfl
  · split <;> rfl

@[simp] theorem raArrive_pending (n : Nat) : (raArrive s n).pending = s.pending := by rw [raArrive_frame]
@[simp] theorem raArrive_out (n : Nat) : (raArrive s n).out = s.out := by rw [raArrive_frame]
@[simp] theorem raArrive_draws (n : Nat) : (raArrive s n).draws = s.draws := by rw [raArrive_frame]
@[simp] theorem raArrive_now (n : Nat) : (raArrive s n).now = s.now := by rw [raArrive_frame]
@[simp] theorem raArrive_sled (n : Nat) : (raArrive s n).sled = s.sled := by rw [raArrive_frame]
@[simp] theorem raArrive_regs (n : Nat) : (raArrive s n).regs = s.regs := by rw [raArrive_frame]
@[simp] theorem raArrive_loader (n : Nat) : (raArrive s n).loader = s.loader := by rw [raArrive_frame]
@[simp] theorem raArrive_pattern (n : Nat) : (raArrive s n).pattern = s.pattern := by rw [raArrive_frame]
@[simp] theorem raArrive_partials (n : Nat) : (raArrive s n).partials = s.partials := by rw [raArrive_frame]
@[simp] theorem raArrive_parts (n : Nat) : (raArrive s n).parts = s.parts := by rw [raArrive_frame]
@[simp] theorem raArrive_lanes (n : Nat) : (raArrive s n).lanes = s.lanes := by rw [raArrive_frame]
@[simp] theorem raArrive_counters (n : Nat) : (raArrive s n).counters = s.counters := by rw [raArrive_frame]
@[simp] theorem raArrive_awls (n : Nat) : (raArrive s n).awls = s.awls := by rw [raArrive_frame]
@[simp] theorem raArrive_blocks (n : Nat) : (raArrive s n).blocks = s.blocks := by rw [raArrive_frame]
@[simp] theorem raArrive_cores (n : Nat) : (raArrive s n).cores = s.cores := by rw [raArrive_frame]
@[simp] theorem raArrive_tolls (n : Nat) : (raArrive s n).tolls = s.tolls := by rw [raArrive_frame]
@[simp] theorem raArrive_crossings (n : Nat) : (raArrive s n).crossings = s.crossings := by rw [raArrive_frame]
@[simp] theorem raArrive_mem (n : Nat) : (raArrive s n).mem = s.mem := by rw [raArrive_frame]
@[simp] theorem raArrive_badWords (n : Nat) : (raArrive s n).badWords = s.badWords := by rw [raArrive_frame]
@[simp] theorem raArrive_hbmEcc (n : Nat) : (raArrive s n).hbmEcc = s.hbmEcc := by rw [raArrive_frame]
@[simp] theorem raArrive_ddrEcc (n : Nat) : (raArrive s n).ddrEcc = s.ddrEcc := by rw [raArrive_frame]
@[simp] theorem raArrive_nvCmds (n : Nat) : (raArrive s n).nvCmds = s.nvCmds := by rw [raArrive_frame]
@[simp] theorem raArrive_fab (n : Nat) : (raArrive s n).fab = s.fab := by rw [raArrive_frame]
@[simp] theorem raArrive_mgmt (n : Nat) : (raArrive s n).mgmt = s.mgmt := by rw [raArrive_frame]
@[simp] theorem raArrive_trust (n : Nat) : (raArrive s n).trust = s.trust := by rw [raArrive_frame]
@[simp] theorem raArrive_power (n : Nat) : (raArrive s n).power = s.power := by rw [raArrive_frame]
@[simp] theorem raArrive_faults (n : Nat) : (raArrive s n).faults = s.faults := by rw [raArrive_frame]
@[simp] theorem raArrive_trace (n : Nat) : (raArrive s n).trace = s.trace := by rw [raArrive_frame]

/-- An item written changes its lane, the Roundabout that the lane feeds, and what a vector changes. -/
theorem lanePush_frame (n : Nat) (it : Item) :
    lanePush s n it = { s with lanes := (lanePush s n it).lanes, roundabouts := (lanePush s n it).roundabouts, mgmt := (lanePush s n it).mgmt, out := (lanePush s n it).out, trace := (lanePush s n it).trace } := by
  unfold lanePush
  split
  · rfl
  · simp only []
    split
    · rw [laneArmed_frame]
      split
      · rw [raArrive_frame, traceEvent_frame]; rfl
      · rw [traceEvent_frame]; rfl
    · rw [traceEvent_frame]
      split
      · rw [raiseLane_frame]; rfl
      · rfl

@[simp] theorem lanePush_pending (n : Nat) (it : Item) : (lanePush s n it).pending = s.pending := by rw [lanePush_frame]
@[simp] theorem lanePush_draws (n : Nat) (it : Item) : (lanePush s n it).draws = s.draws := by rw [lanePush_frame]
@[simp] theorem lanePush_now (n : Nat) (it : Item) : (lanePush s n it).now = s.now := by rw [lanePush_frame]
@[simp] theorem lanePush_sled (n : Nat) (it : Item) : (lanePush s n it).sled = s.sled := by rw [lanePush_frame]
@[simp] theorem lanePush_regs (n : Nat) (it : Item) : (lanePush s n it).regs = s.regs := by rw [lanePush_frame]
@[simp] theorem lanePush_loader (n : Nat) (it : Item) : (lanePush s n it).loader = s.loader := by rw [lanePush_frame]
@[simp] theorem lanePush_pattern (n : Nat) (it : Item) : (lanePush s n it).pattern = s.pattern := by rw [lanePush_frame]
@[simp] theorem lanePush_partials (n : Nat) (it : Item) : (lanePush s n it).partials = s.partials := by rw [lanePush_frame]
@[simp] theorem lanePush_parts (n : Nat) (it : Item) : (lanePush s n it).parts = s.parts := by rw [lanePush_frame]
@[simp] theorem lanePush_counters (n : Nat) (it : Item) : (lanePush s n it).counters = s.counters := by rw [lanePush_frame]
@[simp] theorem lanePush_awls (n : Nat) (it : Item) : (lanePush s n it).awls = s.awls := by rw [lanePush_frame]
@[simp] theorem lanePush_blocks (n : Nat) (it : Item) : (lanePush s n it).blocks = s.blocks := by rw [lanePush_frame]
@[simp] theorem lanePush_cores (n : Nat) (it : Item) : (lanePush s n it).cores = s.cores := by rw [lanePush_frame]
@[simp] theorem lanePush_tolls (n : Nat) (it : Item) : (lanePush s n it).tolls = s.tolls := by rw [lanePush_frame]
@[simp] theorem lanePush_crossings (n : Nat) (it : Item) : (lanePush s n it).crossings = s.crossings := by rw [lanePush_frame]
@[simp] theorem lanePush_mem (n : Nat) (it : Item) : (lanePush s n it).mem = s.mem := by rw [lanePush_frame]
@[simp] theorem lanePush_badWords (n : Nat) (it : Item) : (lanePush s n it).badWords = s.badWords := by rw [lanePush_frame]
@[simp] theorem lanePush_hbmEcc (n : Nat) (it : Item) : (lanePush s n it).hbmEcc = s.hbmEcc := by rw [lanePush_frame]
@[simp] theorem lanePush_ddrEcc (n : Nat) (it : Item) : (lanePush s n it).ddrEcc = s.ddrEcc := by rw [lanePush_frame]
@[simp] theorem lanePush_nvCmds (n : Nat) (it : Item) : (lanePush s n it).nvCmds = s.nvCmds := by rw [lanePush_frame]
@[simp] theorem lanePush_fab (n : Nat) (it : Item) : (lanePush s n it).fab = s.fab := by rw [lanePush_frame]
@[simp] theorem lanePush_trust (n : Nat) (it : Item) : (lanePush s n it).trust = s.trust := by rw [lanePush_frame]
@[simp] theorem lanePush_power (n : Nat) (it : Item) : (lanePush s n it).power = s.power := by rw [lanePush_frame]
@[simp] theorem lanePush_faults (n : Nat) (it : Item) : (lanePush s n it).faults = s.faults := by rw [lanePush_frame]

/-- Room in a lane changes the endpoints that wait for it. -/
theorem laneDrained_frame (n : Nat) (l : Lane) :
    laneDrained s n l = { s with parts := (laneDrained s n l).parts } := by
  unfold laneDrained
  split <;> rfl

@[simp] theorem laneDrained_pending (n : Nat) (l : Lane) : (laneDrained s n l).pending = s.pending := by rw [laneDrained_frame]
@[simp] theorem laneDrained_out (n : Nat) (l : Lane) : (laneDrained s n l).out = s.out := by rw [laneDrained_frame]
@[simp] theorem laneDrained_draws (n : Nat) (l : Lane) : (laneDrained s n l).draws = s.draws := by rw [laneDrained_frame]
@[simp] theorem laneDrained_now (n : Nat) (l : Lane) : (laneDrained s n l).now = s.now := by rw [laneDrained_frame]
@[simp] theorem laneDrained_sled (n : Nat) (l : Lane) : (laneDrained s n l).sled = s.sled := by rw [laneDrained_frame]
@[simp] theorem laneDrained_regs (n : Nat) (l : Lane) : (laneDrained s n l).regs = s.regs := by rw [laneDrained_frame]
@[simp] theorem laneDrained_loader (n : Nat) (l : Lane) : (laneDrained s n l).loader = s.loader := by rw [laneDrained_frame]
@[simp] theorem laneDrained_pattern (n : Nat) (l : Lane) : (laneDrained s n l).pattern = s.pattern := by rw [laneDrained_frame]
@[simp] theorem laneDrained_partials (n : Nat) (l : Lane) : (laneDrained s n l).partials = s.partials := by rw [laneDrained_frame]
@[simp] theorem laneDrained_lanes (n : Nat) (l : Lane) : (laneDrained s n l).lanes = s.lanes := by rw [laneDrained_frame]
@[simp] theorem laneDrained_counters (n : Nat) (l : Lane) : (laneDrained s n l).counters = s.counters := by rw [laneDrained_frame]
@[simp] theorem laneDrained_awls (n : Nat) (l : Lane) : (laneDrained s n l).awls = s.awls := by rw [laneDrained_frame]
@[simp] theorem laneDrained_blocks (n : Nat) (l : Lane) : (laneDrained s n l).blocks = s.blocks := by rw [laneDrained_frame]
@[simp] theorem laneDrained_cores (n : Nat) (l : Lane) : (laneDrained s n l).cores = s.cores := by rw [laneDrained_frame]
@[simp] theorem laneDrained_tolls (n : Nat) (l : Lane) : (laneDrained s n l).tolls = s.tolls := by rw [laneDrained_frame]
@[simp] theorem laneDrained_roundabouts (n : Nat) (l : Lane) : (laneDrained s n l).roundabouts = s.roundabouts := by rw [laneDrained_frame]
@[simp] theorem laneDrained_crossings (n : Nat) (l : Lane) : (laneDrained s n l).crossings = s.crossings := by rw [laneDrained_frame]
@[simp] theorem laneDrained_mem (n : Nat) (l : Lane) : (laneDrained s n l).mem = s.mem := by rw [laneDrained_frame]
@[simp] theorem laneDrained_badWords (n : Nat) (l : Lane) : (laneDrained s n l).badWords = s.badWords := by rw [laneDrained_frame]
@[simp] theorem laneDrained_hbmEcc (n : Nat) (l : Lane) : (laneDrained s n l).hbmEcc = s.hbmEcc := by rw [laneDrained_frame]
@[simp] theorem laneDrained_ddrEcc (n : Nat) (l : Lane) : (laneDrained s n l).ddrEcc = s.ddrEcc := by rw [laneDrained_frame]
@[simp] theorem laneDrained_nvCmds (n : Nat) (l : Lane) : (laneDrained s n l).nvCmds = s.nvCmds := by rw [laneDrained_frame]
@[simp] theorem laneDrained_fab (n : Nat) (l : Lane) : (laneDrained s n l).fab = s.fab := by rw [laneDrained_frame]
@[simp] theorem laneDrained_mgmt (n : Nat) (l : Lane) : (laneDrained s n l).mgmt = s.mgmt := by rw [laneDrained_frame]
@[simp] theorem laneDrained_trust (n : Nat) (l : Lane) : (laneDrained s n l).trust = s.trust := by rw [laneDrained_frame]
@[simp] theorem laneDrained_power (n : Nat) (l : Lane) : (laneDrained s n l).power = s.power := by rw [laneDrained_frame]
@[simp] theorem laneDrained_faults (n : Nat) (l : Lane) : (laneDrained s n l).faults = s.faults := by rw [laneDrained_frame]
@[simp] theorem laneDrained_trace (n : Nat) (l : Lane) : (laneDrained s n l).trace = s.trace := by rw [laneDrained_frame]

/-- An item taken changes its lane and the endpoints that wait for room in it. -/
theorem lanePop_frame (n : Nat) :
    (lanePop s n).2 = { s with lanes := (lanePop s n).2.lanes, parts := (lanePop s n).2.parts, trace := (lanePop s n).2.trace } := by
  unfold lanePop
  simp only []
  split
  · rfl
  · rw [laneDrained_frame, traceEvent_frame]; rfl

@[simp] theorem lanePop_pending (n : Nat) : (lanePop s n).2.pending = s.pending := by rw [lanePop_frame]
@[simp] theorem lanePop_out (n : Nat) : (lanePop s n).2.out = s.out := by rw [lanePop_frame]
@[simp] theorem lanePop_draws (n : Nat) : (lanePop s n).2.draws = s.draws := by rw [lanePop_frame]
@[simp] theorem lanePop_now (n : Nat) : (lanePop s n).2.now = s.now := by rw [lanePop_frame]
@[simp] theorem lanePop_sled (n : Nat) : (lanePop s n).2.sled = s.sled := by rw [lanePop_frame]
@[simp] theorem lanePop_regs (n : Nat) : (lanePop s n).2.regs = s.regs := by rw [lanePop_frame]
@[simp] theorem lanePop_loader (n : Nat) : (lanePop s n).2.loader = s.loader := by rw [lanePop_frame]
@[simp] theorem lanePop_pattern (n : Nat) : (lanePop s n).2.pattern = s.pattern := by rw [lanePop_frame]
@[simp] theorem lanePop_partials (n : Nat) : (lanePop s n).2.partials = s.partials := by rw [lanePop_frame]
@[simp] theorem lanePop_counters (n : Nat) : (lanePop s n).2.counters = s.counters := by rw [lanePop_frame]
@[simp] theorem lanePop_awls (n : Nat) : (lanePop s n).2.awls = s.awls := by rw [lanePop_frame]
@[simp] theorem lanePop_blocks (n : Nat) : (lanePop s n).2.blocks = s.blocks := by rw [lanePop_frame]
@[simp] theorem lanePop_cores (n : Nat) : (lanePop s n).2.cores = s.cores := by rw [lanePop_frame]
@[simp] theorem lanePop_tolls (n : Nat) : (lanePop s n).2.tolls = s.tolls := by rw [lanePop_frame]
@[simp] theorem lanePop_roundabouts (n : Nat) : (lanePop s n).2.roundabouts = s.roundabouts := by rw [lanePop_frame]
@[simp] theorem lanePop_crossings (n : Nat) : (lanePop s n).2.crossings = s.crossings := by rw [lanePop_frame]
@[simp] theorem lanePop_mem (n : Nat) : (lanePop s n).2.mem = s.mem := by rw [lanePop_frame]
@[simp] theorem lanePop_badWords (n : Nat) : (lanePop s n).2.badWords = s.badWords := by rw [lanePop_frame]
@[simp] theorem lanePop_hbmEcc (n : Nat) : (lanePop s n).2.hbmEcc = s.hbmEcc := by rw [lanePop_frame]
@[simp] theorem lanePop_ddrEcc (n : Nat) : (lanePop s n).2.ddrEcc = s.ddrEcc := by rw [lanePop_frame]
@[simp] theorem lanePop_nvCmds (n : Nat) : (lanePop s n).2.nvCmds = s.nvCmds := by rw [lanePop_frame]
@[simp] theorem lanePop_fab (n : Nat) : (lanePop s n).2.fab = s.fab := by rw [lanePop_frame]
@[simp] theorem lanePop_mgmt (n : Nat) : (lanePop s n).2.mgmt = s.mgmt := by rw [lanePop_frame]
@[simp] theorem lanePop_trust (n : Nat) : (lanePop s n).2.trust = s.trust := by rw [lanePop_frame]
@[simp] theorem lanePop_power (n : Nat) : (lanePop s n).2.power = s.power := by rw [lanePop_frame]
@[simp] theorem lanePop_faults (n : Nat) : (lanePop s n).2.faults = s.faults := by rw [lanePop_frame]

/-- An add changes its counter. -/
theorem ctrAdd_frame (c amount : Nat) (failed : Bool) :
    ctrAdd s c amount failed = { s with counters := (ctrAdd s c amount failed).counters, trace := (ctrAdd s c amount failed).trace } := by
  unfold ctrAdd
  split
  · rfl
  · rw [traceEvent_frame]; rfl

@[simp] theorem ctrAdd_pending (c amount : Nat) (failed : Bool) : (ctrAdd s c amount failed).pending = s.pending := by rw [ctrAdd_frame]
@[simp] theorem ctrAdd_out (c amount : Nat) (failed : Bool) : (ctrAdd s c amount failed).out = s.out := by rw [ctrAdd_frame]
@[simp] theorem ctrAdd_draws (c amount : Nat) (failed : Bool) : (ctrAdd s c amount failed).draws = s.draws := by rw [ctrAdd_frame]
@[simp] theorem ctrAdd_now (c amount : Nat) (failed : Bool) : (ctrAdd s c amount failed).now = s.now := by rw [ctrAdd_frame]
@[simp] theorem ctrAdd_sled (c amount : Nat) (failed : Bool) : (ctrAdd s c amount failed).sled = s.sled := by rw [ctrAdd_frame]
@[simp] theorem ctrAdd_regs (c amount : Nat) (failed : Bool) : (ctrAdd s c amount failed).regs = s.regs := by rw [ctrAdd_frame]
@[simp] theorem ctrAdd_loader (c amount : Nat) (failed : Bool) : (ctrAdd s c amount failed).loader = s.loader := by rw [ctrAdd_frame]
@[simp] theorem ctrAdd_pattern (c amount : Nat) (failed : Bool) : (ctrAdd s c amount failed).pattern = s.pattern := by rw [ctrAdd_frame]
@[simp] theorem ctrAdd_partials (c amount : Nat) (failed : Bool) : (ctrAdd s c amount failed).partials = s.partials := by rw [ctrAdd_frame]
@[simp] theorem ctrAdd_parts (c amount : Nat) (failed : Bool) : (ctrAdd s c amount failed).parts = s.parts := by rw [ctrAdd_frame]
@[simp] theorem ctrAdd_lanes (c amount : Nat) (failed : Bool) : (ctrAdd s c amount failed).lanes = s.lanes := by rw [ctrAdd_frame]
@[simp] theorem ctrAdd_awls (c amount : Nat) (failed : Bool) : (ctrAdd s c amount failed).awls = s.awls := by rw [ctrAdd_frame]
@[simp] theorem ctrAdd_blocks (c amount : Nat) (failed : Bool) : (ctrAdd s c amount failed).blocks = s.blocks := by rw [ctrAdd_frame]
@[simp] theorem ctrAdd_cores (c amount : Nat) (failed : Bool) : (ctrAdd s c amount failed).cores = s.cores := by rw [ctrAdd_frame]
@[simp] theorem ctrAdd_tolls (c amount : Nat) (failed : Bool) : (ctrAdd s c amount failed).tolls = s.tolls := by rw [ctrAdd_frame]
@[simp] theorem ctrAdd_roundabouts (c amount : Nat) (failed : Bool) : (ctrAdd s c amount failed).roundabouts = s.roundabouts := by rw [ctrAdd_frame]
@[simp] theorem ctrAdd_crossings (c amount : Nat) (failed : Bool) : (ctrAdd s c amount failed).crossings = s.crossings := by rw [ctrAdd_frame]
@[simp] theorem ctrAdd_mem (c amount : Nat) (failed : Bool) : (ctrAdd s c amount failed).mem = s.mem := by rw [ctrAdd_frame]
@[simp] theorem ctrAdd_badWords (c amount : Nat) (failed : Bool) : (ctrAdd s c amount failed).badWords = s.badWords := by rw [ctrAdd_frame]
@[simp] theorem ctrAdd_hbmEcc (c amount : Nat) (failed : Bool) : (ctrAdd s c amount failed).hbmEcc = s.hbmEcc := by rw [ctrAdd_frame]
@[simp] theorem ctrAdd_ddrEcc (c amount : Nat) (failed : Bool) : (ctrAdd s c amount failed).ddrEcc = s.ddrEcc := by rw [ctrAdd_frame]
@[simp] theorem ctrAdd_nvCmds (c amount : Nat) (failed : Bool) : (ctrAdd s c amount failed).nvCmds = s.nvCmds := by rw [ctrAdd_frame]
@[simp] theorem ctrAdd_fab (c amount : Nat) (failed : Bool) : (ctrAdd s c amount failed).fab = s.fab := by rw [ctrAdd_frame]
@[simp] theorem ctrAdd_mgmt (c amount : Nat) (failed : Bool) : (ctrAdd s c amount failed).mgmt = s.mgmt := by rw [ctrAdd_frame]
@[simp] theorem ctrAdd_trust (c amount : Nat) (failed : Bool) : (ctrAdd s c amount failed).trust = s.trust := by rw [ctrAdd_frame]
@[simp] theorem ctrAdd_power (c amount : Nat) (failed : Bool) : (ctrAdd s c amount failed).power = s.power := by rw [ctrAdd_frame]
@[simp] theorem ctrAdd_faults (c amount : Nat) (failed : Bool) : (ctrAdd s c amount failed).faults = s.faults := by rw [ctrAdd_frame]

/-- A set changes its counter. -/
theorem ctrSet_frame (c : Nat) (v : Word) :
    ctrSet s c v = { s with counters := (ctrSet s c v).counters, trace := (ctrSet s c v).trace } := by
  unfold ctrSet
  split
  · rfl
  · rw [traceEvent_frame]; rfl

@[simp] theorem ctrSet_pending (c : Nat) (v : Word) : (ctrSet s c v).pending = s.pending := by rw [ctrSet_frame]
@[simp] theorem ctrSet_out (c : Nat) (v : Word) : (ctrSet s c v).out = s.out := by rw [ctrSet_frame]
@[simp] theorem ctrSet_draws (c : Nat) (v : Word) : (ctrSet s c v).draws = s.draws := by rw [ctrSet_frame]
@[simp] theorem ctrSet_now (c : Nat) (v : Word) : (ctrSet s c v).now = s.now := by rw [ctrSet_frame]
@[simp] theorem ctrSet_sled (c : Nat) (v : Word) : (ctrSet s c v).sled = s.sled := by rw [ctrSet_frame]
@[simp] theorem ctrSet_regs (c : Nat) (v : Word) : (ctrSet s c v).regs = s.regs := by rw [ctrSet_frame]
@[simp] theorem ctrSet_loader (c : Nat) (v : Word) : (ctrSet s c v).loader = s.loader := by rw [ctrSet_frame]
@[simp] theorem ctrSet_pattern (c : Nat) (v : Word) : (ctrSet s c v).pattern = s.pattern := by rw [ctrSet_frame]
@[simp] theorem ctrSet_partials (c : Nat) (v : Word) : (ctrSet s c v).partials = s.partials := by rw [ctrSet_frame]
@[simp] theorem ctrSet_parts (c : Nat) (v : Word) : (ctrSet s c v).parts = s.parts := by rw [ctrSet_frame]
@[simp] theorem ctrSet_lanes (c : Nat) (v : Word) : (ctrSet s c v).lanes = s.lanes := by rw [ctrSet_frame]
@[simp] theorem ctrSet_awls (c : Nat) (v : Word) : (ctrSet s c v).awls = s.awls := by rw [ctrSet_frame]
@[simp] theorem ctrSet_blocks (c : Nat) (v : Word) : (ctrSet s c v).blocks = s.blocks := by rw [ctrSet_frame]
@[simp] theorem ctrSet_cores (c : Nat) (v : Word) : (ctrSet s c v).cores = s.cores := by rw [ctrSet_frame]
@[simp] theorem ctrSet_tolls (c : Nat) (v : Word) : (ctrSet s c v).tolls = s.tolls := by rw [ctrSet_frame]
@[simp] theorem ctrSet_roundabouts (c : Nat) (v : Word) : (ctrSet s c v).roundabouts = s.roundabouts := by rw [ctrSet_frame]
@[simp] theorem ctrSet_crossings (c : Nat) (v : Word) : (ctrSet s c v).crossings = s.crossings := by rw [ctrSet_frame]
@[simp] theorem ctrSet_mem (c : Nat) (v : Word) : (ctrSet s c v).mem = s.mem := by rw [ctrSet_frame]
@[simp] theorem ctrSet_badWords (c : Nat) (v : Word) : (ctrSet s c v).badWords = s.badWords := by rw [ctrSet_frame]
@[simp] theorem ctrSet_hbmEcc (c : Nat) (v : Word) : (ctrSet s c v).hbmEcc = s.hbmEcc := by rw [ctrSet_frame]
@[simp] theorem ctrSet_ddrEcc (c : Nat) (v : Word) : (ctrSet s c v).ddrEcc = s.ddrEcc := by rw [ctrSet_frame]
@[simp] theorem ctrSet_nvCmds (c : Nat) (v : Word) : (ctrSet s c v).nvCmds = s.nvCmds := by rw [ctrSet_frame]
@[simp] theorem ctrSet_fab (c : Nat) (v : Word) : (ctrSet s c v).fab = s.fab := by rw [ctrSet_frame]
@[simp] theorem ctrSet_mgmt (c : Nat) (v : Word) : (ctrSet s c v).mgmt = s.mgmt := by rw [ctrSet_frame]
@[simp] theorem ctrSet_trust (c : Nat) (v : Word) : (ctrSet s c v).trust = s.trust := by rw [ctrSet_frame]
@[simp] theorem ctrSet_power (c : Nat) (v : Word) : (ctrSet s c v).power = s.power := by rw [ctrSet_frame]
@[simp] theorem ctrSet_faults (c : Nat) (v : Word) : (ctrSet s c v).faults = s.faults := by rw [ctrSet_frame]

/-- A code noted for a step changes its partition. -/
theorem noteStep_frame (p : Nat) (c : Byte) :
    noteStep s p c = { s with parts := (noteStep s p c).parts } := by
  unfold noteStep
  split <;> rfl

@[simp] theorem noteStep_pending (p : Nat) (c : Byte) : (noteStep s p c).pending = s.pending := by rw [noteStep_frame]
@[simp] theorem noteStep_out (p : Nat) (c : Byte) : (noteStep s p c).out = s.out := by rw [noteStep_frame]
@[simp] theorem noteStep_draws (p : Nat) (c : Byte) : (noteStep s p c).draws = s.draws := by rw [noteStep_frame]
@[simp] theorem noteStep_now (p : Nat) (c : Byte) : (noteStep s p c).now = s.now := by rw [noteStep_frame]
@[simp] theorem noteStep_sled (p : Nat) (c : Byte) : (noteStep s p c).sled = s.sled := by rw [noteStep_frame]
@[simp] theorem noteStep_regs (p : Nat) (c : Byte) : (noteStep s p c).regs = s.regs := by rw [noteStep_frame]
@[simp] theorem noteStep_loader (p : Nat) (c : Byte) : (noteStep s p c).loader = s.loader := by rw [noteStep_frame]
@[simp] theorem noteStep_pattern (p : Nat) (c : Byte) : (noteStep s p c).pattern = s.pattern := by rw [noteStep_frame]
@[simp] theorem noteStep_partials (p : Nat) (c : Byte) : (noteStep s p c).partials = s.partials := by rw [noteStep_frame]
@[simp] theorem noteStep_lanes (p : Nat) (c : Byte) : (noteStep s p c).lanes = s.lanes := by rw [noteStep_frame]
@[simp] theorem noteStep_counters (p : Nat) (c : Byte) : (noteStep s p c).counters = s.counters := by rw [noteStep_frame]
@[simp] theorem noteStep_awls (p : Nat) (c : Byte) : (noteStep s p c).awls = s.awls := by rw [noteStep_frame]
@[simp] theorem noteStep_blocks (p : Nat) (c : Byte) : (noteStep s p c).blocks = s.blocks := by rw [noteStep_frame]
@[simp] theorem noteStep_cores (p : Nat) (c : Byte) : (noteStep s p c).cores = s.cores := by rw [noteStep_frame]
@[simp] theorem noteStep_tolls (p : Nat) (c : Byte) : (noteStep s p c).tolls = s.tolls := by rw [noteStep_frame]
@[simp] theorem noteStep_roundabouts (p : Nat) (c : Byte) : (noteStep s p c).roundabouts = s.roundabouts := by rw [noteStep_frame]
@[simp] theorem noteStep_crossings (p : Nat) (c : Byte) : (noteStep s p c).crossings = s.crossings := by rw [noteStep_frame]
@[simp] theorem noteStep_mem (p : Nat) (c : Byte) : (noteStep s p c).mem = s.mem := by rw [noteStep_frame]
@[simp] theorem noteStep_badWords (p : Nat) (c : Byte) : (noteStep s p c).badWords = s.badWords := by rw [noteStep_frame]
@[simp] theorem noteStep_hbmEcc (p : Nat) (c : Byte) : (noteStep s p c).hbmEcc = s.hbmEcc := by rw [noteStep_frame]
@[simp] theorem noteStep_ddrEcc (p : Nat) (c : Byte) : (noteStep s p c).ddrEcc = s.ddrEcc := by rw [noteStep_frame]
@[simp] theorem noteStep_nvCmds (p : Nat) (c : Byte) : (noteStep s p c).nvCmds = s.nvCmds := by rw [noteStep_frame]
@[simp] theorem noteStep_fab (p : Nat) (c : Byte) : (noteStep s p c).fab = s.fab := by rw [noteStep_frame]
@[simp] theorem noteStep_mgmt (p : Nat) (c : Byte) : (noteStep s p c).mgmt = s.mgmt := by rw [noteStep_frame]
@[simp] theorem noteStep_trust (p : Nat) (c : Byte) : (noteStep s p c).trust = s.trust := by rw [noteStep_frame]
@[simp] theorem noteStep_power (p : Nat) (c : Byte) : (noteStep s p c).power = s.power := by rw [noteStep_frame]
@[simp] theorem noteStep_faults (p : Nat) (c : Byte) : (noteStep s p c).faults = s.faults := by rw [noteStep_frame]
@[simp] theorem noteStep_trace (p : Nat) (c : Byte) : (noteStep s p c).trace = s.trace := by rw [noteStep_frame]

/-- An access recorded changes ACCESS_LOG and raises its interrupt. -/
theorem logAccess_frame (fn off : Nat) :
    logAccess s fn off = { s with regs := (logAccess s fn off).regs, mgmt := (logAccess s fn off).mgmt, out := (logAccess s fn off).out } := by
  unfold logAccess State.upd
  rw [raiseRisen_frame]; rfl

@[simp] theorem logAccess_pending (fn off : Nat) : (logAccess s fn off).pending = s.pending := by rw [logAccess_frame]
@[simp] theorem logAccess_draws (fn off : Nat) : (logAccess s fn off).draws = s.draws := by rw [logAccess_frame]
@[simp] theorem logAccess_now (fn off : Nat) : (logAccess s fn off).now = s.now := by rw [logAccess_frame]
@[simp] theorem logAccess_sled (fn off : Nat) : (logAccess s fn off).sled = s.sled := by rw [logAccess_frame]
@[simp] theorem logAccess_loader (fn off : Nat) : (logAccess s fn off).loader = s.loader := by rw [logAccess_frame]
@[simp] theorem logAccess_pattern (fn off : Nat) : (logAccess s fn off).pattern = s.pattern := by rw [logAccess_frame]
@[simp] theorem logAccess_partials (fn off : Nat) : (logAccess s fn off).partials = s.partials := by rw [logAccess_frame]
@[simp] theorem logAccess_parts (fn off : Nat) : (logAccess s fn off).parts = s.parts := by rw [logAccess_frame]
@[simp] theorem logAccess_lanes (fn off : Nat) : (logAccess s fn off).lanes = s.lanes := by rw [logAccess_frame]
@[simp] theorem logAccess_counters (fn off : Nat) : (logAccess s fn off).counters = s.counters := by rw [logAccess_frame]
@[simp] theorem logAccess_awls (fn off : Nat) : (logAccess s fn off).awls = s.awls := by rw [logAccess_frame]
@[simp] theorem logAccess_blocks (fn off : Nat) : (logAccess s fn off).blocks = s.blocks := by rw [logAccess_frame]
@[simp] theorem logAccess_cores (fn off : Nat) : (logAccess s fn off).cores = s.cores := by rw [logAccess_frame]
@[simp] theorem logAccess_tolls (fn off : Nat) : (logAccess s fn off).tolls = s.tolls := by rw [logAccess_frame]
@[simp] theorem logAccess_roundabouts (fn off : Nat) : (logAccess s fn off).roundabouts = s.roundabouts := by rw [logAccess_frame]
@[simp] theorem logAccess_crossings (fn off : Nat) : (logAccess s fn off).crossings = s.crossings := by rw [logAccess_frame]
@[simp] theorem logAccess_mem (fn off : Nat) : (logAccess s fn off).mem = s.mem := by rw [logAccess_frame]
@[simp] theorem logAccess_badWords (fn off : Nat) : (logAccess s fn off).badWords = s.badWords := by rw [logAccess_frame]
@[simp] theorem logAccess_hbmEcc (fn off : Nat) : (logAccess s fn off).hbmEcc = s.hbmEcc := by rw [logAccess_frame]
@[simp] theorem logAccess_ddrEcc (fn off : Nat) : (logAccess s fn off).ddrEcc = s.ddrEcc := by rw [logAccess_frame]
@[simp] theorem logAccess_nvCmds (fn off : Nat) : (logAccess s fn off).nvCmds = s.nvCmds := by rw [logAccess_frame]
@[simp] theorem logAccess_fab (fn off : Nat) : (logAccess s fn off).fab = s.fab := by rw [logAccess_frame]
@[simp] theorem logAccess_trust (fn off : Nat) : (logAccess s fn off).trust = s.trust := by rw [logAccess_frame]
@[simp] theorem logAccess_power (fn off : Nat) : (logAccess s fn off).power = s.power := by rw [logAccess_frame]
@[simp] theorem logAccess_faults (fn off : Nat) : (logAccess s fn off).faults = s.faults := by rw [logAccess_frame]
@[simp] theorem logAccess_trace (fn off : Nat) : (logAccess s fn off).trace = s.trace := by rw [logAccess_frame]

/-- A partition context stopped changes its partition, and what a fault record changes. -/
theorem cobblerStop_frame (p b : Nat) :
    cobblerStop s p b = { s with parts := (cobblerStop s p b).parts, blocks := (cobblerStop s p b).blocks, faults := (cobblerStop s p b).faults, mgmt := (cobblerStop s p b).mgmt, regs := (cobblerStop s p b).regs, sled := (cobblerStop s p b).sled, out := (cobblerStop s p b).out } := by
  unfold cobblerStop
  split
  · rw [faultRecord_frame]; rfl
  · rfl

@[simp] theorem cobblerStop_pending (p b : Nat) : (cobblerStop s p b).pending = s.pending := by rw [cobblerStop_frame]
@[simp] theorem cobblerStop_draws (p b : Nat) : (cobblerStop s p b).draws = s.draws := by rw [cobblerStop_frame]
@[simp] theorem cobblerStop_now (p b : Nat) : (cobblerStop s p b).now = s.now := by rw [cobblerStop_frame]
@[simp] theorem cobblerStop_loader (p b : Nat) : (cobblerStop s p b).loader = s.loader := by rw [cobblerStop_frame]
@[simp] theorem cobblerStop_pattern (p b : Nat) : (cobblerStop s p b).pattern = s.pattern := by rw [cobblerStop_frame]
@[simp] theorem cobblerStop_partials (p b : Nat) : (cobblerStop s p b).partials = s.partials := by rw [cobblerStop_frame]
@[simp] theorem cobblerStop_lanes (p b : Nat) : (cobblerStop s p b).lanes = s.lanes := by rw [cobblerStop_frame]
@[simp] theorem cobblerStop_counters (p b : Nat) : (cobblerStop s p b).counters = s.counters := by rw [cobblerStop_frame]
@[simp] theorem cobblerStop_awls (p b : Nat) : (cobblerStop s p b).awls = s.awls := by rw [cobblerStop_frame]
@[simp] theorem cobblerStop_cores (p b : Nat) : (cobblerStop s p b).cores = s.cores := by rw [cobblerStop_frame]
@[simp] theorem cobblerStop_tolls (p b : Nat) : (cobblerStop s p b).tolls = s.tolls := by rw [cobblerStop_frame]
@[simp] theorem cobblerStop_roundabouts (p b : Nat) : (cobblerStop s p b).roundabouts = s.roundabouts := by rw [cobblerStop_frame]
@[simp] theorem cobblerStop_crossings (p b : Nat) : (cobblerStop s p b).crossings = s.crossings := by rw [cobblerStop_frame]
@[simp] theorem cobblerStop_mem (p b : Nat) : (cobblerStop s p b).mem = s.mem := by rw [cobblerStop_frame]
@[simp] theorem cobblerStop_badWords (p b : Nat) : (cobblerStop s p b).badWords = s.badWords := by rw [cobblerStop_frame]
@[simp] theorem cobblerStop_hbmEcc (p b : Nat) : (cobblerStop s p b).hbmEcc = s.hbmEcc := by rw [cobblerStop_frame]
@[simp] theorem cobblerStop_ddrEcc (p b : Nat) : (cobblerStop s p b).ddrEcc = s.ddrEcc := by rw [cobblerStop_frame]
@[simp] theorem cobblerStop_nvCmds (p b : Nat) : (cobblerStop s p b).nvCmds = s.nvCmds := by rw [cobblerStop_frame]
@[simp] theorem cobblerStop_fab (p b : Nat) : (cobblerStop s p b).fab = s.fab := by rw [cobblerStop_frame]
@[simp] theorem cobblerStop_trust (p b : Nat) : (cobblerStop s p b).trust = s.trust := by rw [cobblerStop_frame]
@[simp] theorem cobblerStop_power (p b : Nat) : (cobblerStop s p b).power = s.power := by rw [cobblerStop_frame]
@[simp] theorem cobblerStop_trace (p b : Nat) : (cobblerStop s p b).trace = s.trace := by rw [cobblerStop_frame]

/-- What an access leaves besides its effect: ACCESS_LOG, or a stopped partition context. -/
theorem portGate_frame (src : Src) (owner : Option Nat) (off : Nat) :
    (portGate s src owner off).2 = { s with parts := (portGate s src owner off).2.parts, blocks := (portGate s src owner off).2.blocks, faults := (portGate s src owner off).2.faults, mgmt := (portGate s src owner off).2.mgmt, regs := (portGate s src owner off).2.regs, sled := (portGate s src owner off).2.sled, out := (portGate s src owner off).2.out } := by
  unfold portGate
  split
  · rfl
  · cases src with
    | mgmt => rfl
    | core b c => rfl
    | cobbler p b =>
      simp only []
      split
      · rfl
      · split
        · rfl
        · exact cobblerStop_frame s _ _
    | host fn =>
      simp only []
      split
      · split <;> rfl
      · split
        · rfl
        · split
          · rfl
          · rw [logAccess_frame]

@[simp] theorem portGate_pending (src : Src) (owner : Option Nat) (off : Nat) : (portGate s src owner off).2.pending = s.pending := by rw [portGate_frame]
@[simp] theorem portGate_draws (src : Src) (owner : Option Nat) (off : Nat) : (portGate s src owner off).2.draws = s.draws := by rw [portGate_frame]
@[simp] theorem portGate_now (src : Src) (owner : Option Nat) (off : Nat) : (portGate s src owner off).2.now = s.now := by rw [portGate_frame]
@[simp] theorem portGate_loader (src : Src) (owner : Option Nat) (off : Nat) : (portGate s src owner off).2.loader = s.loader := by rw [portGate_frame]
@[simp] theorem portGate_pattern (src : Src) (owner : Option Nat) (off : Nat) : (portGate s src owner off).2.pattern = s.pattern := by rw [portGate_frame]
@[simp] theorem portGate_partials (src : Src) (owner : Option Nat) (off : Nat) : (portGate s src owner off).2.partials = s.partials := by rw [portGate_frame]
@[simp] theorem portGate_lanes (src : Src) (owner : Option Nat) (off : Nat) : (portGate s src owner off).2.lanes = s.lanes := by rw [portGate_frame]
@[simp] theorem portGate_counters (src : Src) (owner : Option Nat) (off : Nat) : (portGate s src owner off).2.counters = s.counters := by rw [portGate_frame]
@[simp] theorem portGate_awls (src : Src) (owner : Option Nat) (off : Nat) : (portGate s src owner off).2.awls = s.awls := by rw [portGate_frame]
@[simp] theorem portGate_cores (src : Src) (owner : Option Nat) (off : Nat) : (portGate s src owner off).2.cores = s.cores := by rw [portGate_frame]
@[simp] theorem portGate_tolls (src : Src) (owner : Option Nat) (off : Nat) : (portGate s src owner off).2.tolls = s.tolls := by rw [portGate_frame]
@[simp] theorem portGate_roundabouts (src : Src) (owner : Option Nat) (off : Nat) : (portGate s src owner off).2.roundabouts = s.roundabouts := by rw [portGate_frame]
@[simp] theorem portGate_crossings (src : Src) (owner : Option Nat) (off : Nat) : (portGate s src owner off).2.crossings = s.crossings := by rw [portGate_frame]
@[simp] theorem portGate_mem (src : Src) (owner : Option Nat) (off : Nat) : (portGate s src owner off).2.mem = s.mem := by rw [portGate_frame]
@[simp] theorem portGate_badWords (src : Src) (owner : Option Nat) (off : Nat) : (portGate s src owner off).2.badWords = s.badWords := by rw [portGate_frame]
@[simp] theorem portGate_hbmEcc (src : Src) (owner : Option Nat) (off : Nat) : (portGate s src owner off).2.hbmEcc = s.hbmEcc := by rw [portGate_frame]
@[simp] theorem portGate_ddrEcc (src : Src) (owner : Option Nat) (off : Nat) : (portGate s src owner off).2.ddrEcc = s.ddrEcc := by rw [portGate_frame]
@[simp] theorem portGate_nvCmds (src : Src) (owner : Option Nat) (off : Nat) : (portGate s src owner off).2.nvCmds = s.nvCmds := by rw [portGate_frame]
@[simp] theorem portGate_fab (src : Src) (owner : Option Nat) (off : Nat) : (portGate s src owner off).2.fab = s.fab := by rw [portGate_frame]
@[simp] theorem portGate_trust (src : Src) (owner : Option Nat) (off : Nat) : (portGate s src owner off).2.trust = s.trust := by rw [portGate_frame]
@[simp] theorem portGate_power (src : Src) (owner : Option Nat) (off : Nat) : (portGate s src owner off).2.power = s.power := by rw [portGate_frame]
@[simp] theorem portGate_trace (src : Src) (owner : Option Nat) (off : Nat) : (portGate s src owner off).2.trace = s.trace := by rw [portGate_frame]

/-- A reply in the mailbox changes it, and what a vector changes. -/
theorem mailboxReply_frame (bs : List Byte) :
    mailboxReply s bs = { s with mgmt := (mailboxReply s bs).mgmt, out := (mailboxReply s bs).out } := by
  unfold mailboxReply State.upd
  rw [raiseRisen_frame]; rfl

@[simp] theorem mailboxReply_pending (bs : List Byte) : (mailboxReply s bs).pending = s.pending := by rw [mailboxReply_frame]
@[simp] theorem mailboxReply_draws (bs : List Byte) : (mailboxReply s bs).draws = s.draws := by rw [mailboxReply_frame]
@[simp] theorem mailboxReply_now (bs : List Byte) : (mailboxReply s bs).now = s.now := by rw [mailboxReply_frame]
@[simp] theorem mailboxReply_sled (bs : List Byte) : (mailboxReply s bs).sled = s.sled := by rw [mailboxReply_frame]
@[simp] theorem mailboxReply_regs (bs : List Byte) : (mailboxReply s bs).regs = s.regs := by rw [mailboxReply_frame]
@[simp] theorem mailboxReply_loader (bs : List Byte) : (mailboxReply s bs).loader = s.loader := by rw [mailboxReply_frame]
@[simp] theorem mailboxReply_pattern (bs : List Byte) : (mailboxReply s bs).pattern = s.pattern := by rw [mailboxReply_frame]
@[simp] theorem mailboxReply_partials (bs : List Byte) : (mailboxReply s bs).partials = s.partials := by rw [mailboxReply_frame]
@[simp] theorem mailboxReply_parts (bs : List Byte) : (mailboxReply s bs).parts = s.parts := by rw [mailboxReply_frame]
@[simp] theorem mailboxReply_lanes (bs : List Byte) : (mailboxReply s bs).lanes = s.lanes := by rw [mailboxReply_frame]
@[simp] theorem mailboxReply_counters (bs : List Byte) : (mailboxReply s bs).counters = s.counters := by rw [mailboxReply_frame]
@[simp] theorem mailboxReply_awls (bs : List Byte) : (mailboxReply s bs).awls = s.awls := by rw [mailboxReply_frame]
@[simp] theorem mailboxReply_blocks (bs : List Byte) : (mailboxReply s bs).blocks = s.blocks := by rw [mailboxReply_frame]
@[simp] theorem mailboxReply_cores (bs : List Byte) : (mailboxReply s bs).cores = s.cores := by rw [mailboxReply_frame]
@[simp] theorem mailboxReply_tolls (bs : List Byte) : (mailboxReply s bs).tolls = s.tolls := by rw [mailboxReply_frame]
@[simp] theorem mailboxReply_roundabouts (bs : List Byte) : (mailboxReply s bs).roundabouts = s.roundabouts := by rw [mailboxReply_frame]
@[simp] theorem mailboxReply_crossings (bs : List Byte) : (mailboxReply s bs).crossings = s.crossings := by rw [mailboxReply_frame]
@[simp] theorem mailboxReply_mem (bs : List Byte) : (mailboxReply s bs).mem = s.mem := by rw [mailboxReply_frame]
@[simp] theorem mailboxReply_badWords (bs : List Byte) : (mailboxReply s bs).badWords = s.badWords := by rw [mailboxReply_frame]
@[simp] theorem mailboxReply_hbmEcc (bs : List Byte) : (mailboxReply s bs).hbmEcc = s.hbmEcc := by rw [mailboxReply_frame]
@[simp] theorem mailboxReply_ddrEcc (bs : List Byte) : (mailboxReply s bs).ddrEcc = s.ddrEcc := by rw [mailboxReply_frame]
@[simp] theorem mailboxReply_nvCmds (bs : List Byte) : (mailboxReply s bs).nvCmds = s.nvCmds := by rw [mailboxReply_frame]
@[simp] theorem mailboxReply_fab (bs : List Byte) : (mailboxReply s bs).fab = s.fab := by rw [mailboxReply_frame]
@[simp] theorem mailboxReply_trust (bs : List Byte) : (mailboxReply s bs).trust = s.trust := by rw [mailboxReply_frame]
@[simp] theorem mailboxReply_power (bs : List Byte) : (mailboxReply s bs).power = s.power := by rw [mailboxReply_frame]
@[simp] theorem mailboxReply_faults (bs : List Byte) : (mailboxReply s bs).faults = s.faults := by rw [mailboxReply_frame]
@[simp] theorem mailboxReply_trace (bs : List Byte) : (mailboxReply s bs).trace = s.trace := by rw [mailboxReply_frame]

/-- The address of an I3C message changes the management state. -/
theorem noteAddress_frame (m : MHdr) :
    noteAddress s m = { s with mgmt := (noteAddress s m).mgmt } := by
  unfold noteAddress
  split <;> rfl

@[simp] theorem noteAddress_pending (m : MHdr) : (noteAddress s m).pending = s.pending := by rw [noteAddress_frame]
@[simp] theorem noteAddress_out (m : MHdr) : (noteAddress s m).out = s.out := by rw [noteAddress_frame]
@[simp] theorem noteAddress_draws (m : MHdr) : (noteAddress s m).draws = s.draws := by rw [noteAddress_frame]
@[simp] theorem noteAddress_now (m : MHdr) : (noteAddress s m).now = s.now := by rw [noteAddress_frame]
@[simp] theorem noteAddress_sled (m : MHdr) : (noteAddress s m).sled = s.sled := by rw [noteAddress_frame]
@[simp] theorem noteAddress_regs (m : MHdr) : (noteAddress s m).regs = s.regs := by rw [noteAddress_frame]
@[simp] theorem noteAddress_loader (m : MHdr) : (noteAddress s m).loader = s.loader := by rw [noteAddress_frame]
@[simp] theorem noteAddress_pattern (m : MHdr) : (noteAddress s m).pattern = s.pattern := by rw [noteAddress_frame]
@[simp] theorem noteAddress_partials (m : MHdr) : (noteAddress s m).partials = s.partials := by rw [noteAddress_frame]
@[simp] theorem noteAddress_parts (m : MHdr) : (noteAddress s m).parts = s.parts := by rw [noteAddress_frame]
@[simp] theorem noteAddress_lanes (m : MHdr) : (noteAddress s m).lanes = s.lanes := by rw [noteAddress_frame]
@[simp] theorem noteAddress_counters (m : MHdr) : (noteAddress s m).counters = s.counters := by rw [noteAddress_frame]
@[simp] theorem noteAddress_awls (m : MHdr) : (noteAddress s m).awls = s.awls := by rw [noteAddress_frame]
@[simp] theorem noteAddress_blocks (m : MHdr) : (noteAddress s m).blocks = s.blocks := by rw [noteAddress_frame]
@[simp] theorem noteAddress_cores (m : MHdr) : (noteAddress s m).cores = s.cores := by rw [noteAddress_frame]
@[simp] theorem noteAddress_tolls (m : MHdr) : (noteAddress s m).tolls = s.tolls := by rw [noteAddress_frame]
@[simp] theorem noteAddress_roundabouts (m : MHdr) : (noteAddress s m).roundabouts = s.roundabouts := by rw [noteAddress_frame]
@[simp] theorem noteAddress_crossings (m : MHdr) : (noteAddress s m).crossings = s.crossings := by rw [noteAddress_frame]
@[simp] theorem noteAddress_mem (m : MHdr) : (noteAddress s m).mem = s.mem := by rw [noteAddress_frame]
@[simp] theorem noteAddress_badWords (m : MHdr) : (noteAddress s m).badWords = s.badWords := by rw [noteAddress_frame]
@[simp] theorem noteAddress_hbmEcc (m : MHdr) : (noteAddress s m).hbmEcc = s.hbmEcc := by rw [noteAddress_frame]
@[simp] theorem noteAddress_ddrEcc (m : MHdr) : (noteAddress s m).ddrEcc = s.ddrEcc := by rw [noteAddress_frame]
@[simp] theorem noteAddress_nvCmds (m : MHdr) : (noteAddress s m).nvCmds = s.nvCmds := by rw [noteAddress_frame]
@[simp] theorem noteAddress_fab (m : MHdr) : (noteAddress s m).fab = s.fab := by rw [noteAddress_frame]
@[simp] theorem noteAddress_trust (m : MHdr) : (noteAddress s m).trust = s.trust := by rw [noteAddress_frame]
@[simp] theorem noteAddress_power (m : MHdr) : (noteAddress s m).power = s.power := by rw [noteAddress_frame]
@[simp] theorem noteAddress_faults (m : MHdr) : (noteAddress s m).faults = s.faults := by rw [noteAddress_frame]
@[simp] theorem noteAddress_trace (m : MHdr) : (noteAddress s m).trace = s.trace := by rw [noteAddress_frame]

/-- A class-0 packet originated changes the fabric. -/
theorem originate0_frame (dest : Nat) (pinned : Bool) (kind count : Nat) (data : List Byte) :
    originate0 s dest pinned kind count data = { s with fab := (originate0 s dest pinned kind count data).fab } := by
  unfold originate0
  split <;> rfl

@[simp] theorem originate0_pending (dest : Nat) (pinned : Bool) (kind count : Nat) (data : List Byte) : (originate0 s dest pinned kind count data).pending = s.pending := by rw [originate0_frame]
@[simp] theorem originate0_out (dest : Nat) (pinned : Bool) (kind count : Nat) (data : List Byte) : (originate0 s dest pinned kind count data).out = s.out := by rw [originate0_frame]
@[simp] theorem originate0_draws (dest : Nat) (pinned : Bool) (kind count : Nat) (data : List Byte) : (originate0 s dest pinned kind count data).draws = s.draws := by rw [originate0_frame]
@[simp] theorem originate0_now (dest : Nat) (pinned : Bool) (kind count : Nat) (data : List Byte) : (originate0 s dest pinned kind count data).now = s.now := by rw [originate0_frame]
@[simp] theorem originate0_sled (dest : Nat) (pinned : Bool) (kind count : Nat) (data : List Byte) : (originate0 s dest pinned kind count data).sled = s.sled := by rw [originate0_frame]
@[simp] theorem originate0_regs (dest : Nat) (pinned : Bool) (kind count : Nat) (data : List Byte) : (originate0 s dest pinned kind count data).regs = s.regs := by rw [originate0_frame]
@[simp] theorem originate0_loader (dest : Nat) (pinned : Bool) (kind count : Nat) (data : List Byte) : (originate0 s dest pinned kind count data).loader = s.loader := by rw [originate0_frame]
@[simp] theorem originate0_pattern (dest : Nat) (pinned : Bool) (kind count : Nat) (data : List Byte) : (originate0 s dest pinned kind count data).pattern = s.pattern := by rw [originate0_frame]
@[simp] theorem originate0_partials (dest : Nat) (pinned : Bool) (kind count : Nat) (data : List Byte) : (originate0 s dest pinned kind count data).partials = s.partials := by rw [originate0_frame]
@[simp] theorem originate0_parts (dest : Nat) (pinned : Bool) (kind count : Nat) (data : List Byte) : (originate0 s dest pinned kind count data).parts = s.parts := by rw [originate0_frame]
@[simp] theorem originate0_lanes (dest : Nat) (pinned : Bool) (kind count : Nat) (data : List Byte) : (originate0 s dest pinned kind count data).lanes = s.lanes := by rw [originate0_frame]
@[simp] theorem originate0_counters (dest : Nat) (pinned : Bool) (kind count : Nat) (data : List Byte) : (originate0 s dest pinned kind count data).counters = s.counters := by rw [originate0_frame]
@[simp] theorem originate0_awls (dest : Nat) (pinned : Bool) (kind count : Nat) (data : List Byte) : (originate0 s dest pinned kind count data).awls = s.awls := by rw [originate0_frame]
@[simp] theorem originate0_blocks (dest : Nat) (pinned : Bool) (kind count : Nat) (data : List Byte) : (originate0 s dest pinned kind count data).blocks = s.blocks := by rw [originate0_frame]
@[simp] theorem originate0_cores (dest : Nat) (pinned : Bool) (kind count : Nat) (data : List Byte) : (originate0 s dest pinned kind count data).cores = s.cores := by rw [originate0_frame]
@[simp] theorem originate0_tolls (dest : Nat) (pinned : Bool) (kind count : Nat) (data : List Byte) : (originate0 s dest pinned kind count data).tolls = s.tolls := by rw [originate0_frame]
@[simp] theorem originate0_roundabouts (dest : Nat) (pinned : Bool) (kind count : Nat) (data : List Byte) : (originate0 s dest pinned kind count data).roundabouts = s.roundabouts := by rw [originate0_frame]
@[simp] theorem originate0_crossings (dest : Nat) (pinned : Bool) (kind count : Nat) (data : List Byte) : (originate0 s dest pinned kind count data).crossings = s.crossings := by rw [originate0_frame]
@[simp] theorem originate0_mem (dest : Nat) (pinned : Bool) (kind count : Nat) (data : List Byte) : (originate0 s dest pinned kind count data).mem = s.mem := by rw [originate0_frame]
@[simp] theorem originate0_badWords (dest : Nat) (pinned : Bool) (kind count : Nat) (data : List Byte) : (originate0 s dest pinned kind count data).badWords = s.badWords := by rw [originate0_frame]
@[simp] theorem originate0_hbmEcc (dest : Nat) (pinned : Bool) (kind count : Nat) (data : List Byte) : (originate0 s dest pinned kind count data).hbmEcc = s.hbmEcc := by rw [originate0_frame]
@[simp] theorem originate0_ddrEcc (dest : Nat) (pinned : Bool) (kind count : Nat) (data : List Byte) : (originate0 s dest pinned kind count data).ddrEcc = s.ddrEcc := by rw [originate0_frame]
@[simp] theorem originate0_nvCmds (dest : Nat) (pinned : Bool) (kind count : Nat) (data : List Byte) : (originate0 s dest pinned kind count data).nvCmds = s.nvCmds := by rw [originate0_frame]
@[simp] theorem originate0_mgmt (dest : Nat) (pinned : Bool) (kind count : Nat) (data : List Byte) : (originate0 s dest pinned kind count data).mgmt = s.mgmt := by rw [originate0_frame]
@[simp] theorem originate0_trust (dest : Nat) (pinned : Bool) (kind count : Nat) (data : List Byte) : (originate0 s dest pinned kind count data).trust = s.trust := by rw [originate0_frame]
@[simp] theorem originate0_power (dest : Nat) (pinned : Bool) (kind count : Nat) (data : List Byte) : (originate0 s dest pinned kind count data).power = s.power := by rw [originate0_frame]
@[simp] theorem originate0_faults (dest : Nat) (pinned : Bool) (kind count : Nat) (data : List Byte) : (originate0 s dest pinned kind count data).faults = s.faults := by rw [originate0_frame]
@[simp] theorem originate0_trace (dest : Nat) (pinned : Bool) (kind count : Nat) (data : List Byte) : (originate0 s dest pinned kind count data).trace = s.trace := by rw [originate0_frame]

/-- A reply goes to the boundary or to the mailbox. -/
theorem deliver_frame (e : Emit) :
    deliver s e = { s with mgmt := (deliver s e).mgmt, fab := (deliver s e).fab, out := (deliver s e).out } := by
  unfold deliver
  simp only []
  split
  · split
    · rw [mailboxReply_frame]
    · rw [originate0_frame]
    · rfl
  · split
    · rw [mailboxReply_frame]
    · rw [originate0_frame]
    · rfl
  · split
    · rw [mailboxReply_frame]
    · rw [originate0_frame]
    · rfl
  · rfl

@[simp] theorem deliver_pending (e : Emit) : (deliver s e).pending = s.pending := by rw [deliver_frame]
@[simp] theorem deliver_draws (e : Emit) : (deliver s e).draws = s.draws := by rw [deliver_frame]
@[simp] theorem deliver_now (e : Emit) : (deliver s e).now = s.now := by rw [deliver_frame]
@[simp] theorem deliver_sled (e : Emit) : (deliver s e).sled = s.sled := by rw [deliver_frame]
@[simp] theorem deliver_regs (e : Emit) : (deliver s e).regs = s.regs := by rw [deliver_frame]
@[simp] theorem deliver_loader (e : Emit) : (deliver s e).loader = s.loader := by rw [deliver_frame]
@[simp] theorem deliver_pattern (e : Emit) : (deliver s e).pattern = s.pattern := by rw [deliver_frame]
@[simp] theorem deliver_partials (e : Emit) : (deliver s e).partials = s.partials := by rw [deliver_frame]
@[simp] theorem deliver_parts (e : Emit) : (deliver s e).parts = s.parts := by rw [deliver_frame]
@[simp] theorem deliver_lanes (e : Emit) : (deliver s e).lanes = s.lanes := by rw [deliver_frame]
@[simp] theorem deliver_counters (e : Emit) : (deliver s e).counters = s.counters := by rw [deliver_frame]
@[simp] theorem deliver_awls (e : Emit) : (deliver s e).awls = s.awls := by rw [deliver_frame]
@[simp] theorem deliver_blocks (e : Emit) : (deliver s e).blocks = s.blocks := by rw [deliver_frame]
@[simp] theorem deliver_cores (e : Emit) : (deliver s e).cores = s.cores := by rw [deliver_frame]
@[simp] theorem deliver_tolls (e : Emit) : (deliver s e).tolls = s.tolls := by rw [deliver_frame]
@[simp] theorem deliver_roundabouts (e : Emit) : (deliver s e).roundabouts = s.roundabouts := by rw [deliver_frame]
@[simp] theorem deliver_crossings (e : Emit) : (deliver s e).crossings = s.crossings := by rw [deliver_frame]
@[simp] theorem deliver_mem (e : Emit) : (deliver s e).mem = s.mem := by rw [deliver_frame]
@[simp] theorem deliver_badWords (e : Emit) : (deliver s e).badWords = s.badWords := by rw [deliver_frame]
@[simp] theorem deliver_hbmEcc (e : Emit) : (deliver s e).hbmEcc = s.hbmEcc := by rw [deliver_frame]
@[simp] theorem deliver_ddrEcc (e : Emit) : (deliver s e).ddrEcc = s.ddrEcc := by rw [deliver_frame]
@[simp] theorem deliver_nvCmds (e : Emit) : (deliver s e).nvCmds = s.nvCmds := by rw [deliver_frame]
@[simp] theorem deliver_trust (e : Emit) : (deliver s e).trust = s.trust := by rw [deliver_frame]
@[simp] theorem deliver_power (e : Emit) : (deliver s e).power = s.power := by rw [deliver_frame]
@[simp] theorem deliver_faults (e : Emit) : (deliver s e).faults = s.faults := by rw [deliver_frame]
@[simp] theorem deliver_trace (e : Emit) : (deliver s e).trace = s.trace := by rw [deliver_frame]

/-- An answer is delivered and kept for a repeat. -/
theorem answer_frame (m : MHdr) (command : Nat) (status : Byte) (payload : List Byte) :
    answer s m command status payload = { s with mgmt := (answer s m command status payload).mgmt, fab := (answer s m command status payload).fab, out := (answer s m command status payload).out } := by
  unfold answer
  simp only []
  rw [deliver_frame]
  split <;> rfl

@[simp] theorem answer_pending (m : MHdr) (command : Nat) (status : Byte) (payload : List Byte) : (answer s m command status payload).pending = s.pending := by rw [answer_frame]
@[simp] theorem answer_draws (m : MHdr) (command : Nat) (status : Byte) (payload : List Byte) : (answer s m command status payload).draws = s.draws := by rw [answer_frame]
@[simp] theorem answer_now (m : MHdr) (command : Nat) (status : Byte) (payload : List Byte) : (answer s m command status payload).now = s.now := by rw [answer_frame]
@[simp] theorem answer_sled (m : MHdr) (command : Nat) (status : Byte) (payload : List Byte) : (answer s m command status payload).sled = s.sled := by rw [answer_frame]
@[simp] theorem answer_regs (m : MHdr) (command : Nat) (status : Byte) (payload : List Byte) : (answer s m command status payload).regs = s.regs := by rw [answer_frame]
@[simp] theorem answer_loader (m : MHdr) (command : Nat) (status : Byte) (payload : List Byte) : (answer s m command status payload).loader = s.loader := by rw [answer_frame]
@[simp] theorem answer_pattern (m : MHdr) (command : Nat) (status : Byte) (payload : List Byte) : (answer s m command status payload).pattern = s.pattern := by rw [answer_frame]
@[simp] theorem answer_partials (m : MHdr) (command : Nat) (status : Byte) (payload : List Byte) : (answer s m command status payload).partials = s.partials := by rw [answer_frame]
@[simp] theorem answer_parts (m : MHdr) (command : Nat) (status : Byte) (payload : List Byte) : (answer s m command status payload).parts = s.parts := by rw [answer_frame]
@[simp] theorem answer_lanes (m : MHdr) (command : Nat) (status : Byte) (payload : List Byte) : (answer s m command status payload).lanes = s.lanes := by rw [answer_frame]
@[simp] theorem answer_counters (m : MHdr) (command : Nat) (status : Byte) (payload : List Byte) : (answer s m command status payload).counters = s.counters := by rw [answer_frame]
@[simp] theorem answer_awls (m : MHdr) (command : Nat) (status : Byte) (payload : List Byte) : (answer s m command status payload).awls = s.awls := by rw [answer_frame]
@[simp] theorem answer_blocks (m : MHdr) (command : Nat) (status : Byte) (payload : List Byte) : (answer s m command status payload).blocks = s.blocks := by rw [answer_frame]
@[simp] theorem answer_cores (m : MHdr) (command : Nat) (status : Byte) (payload : List Byte) : (answer s m command status payload).cores = s.cores := by rw [answer_frame]
@[simp] theorem answer_tolls (m : MHdr) (command : Nat) (status : Byte) (payload : List Byte) : (answer s m command status payload).tolls = s.tolls := by rw [answer_frame]
@[simp] theorem answer_roundabouts (m : MHdr) (command : Nat) (status : Byte) (payload : List Byte) : (answer s m command status payload).roundabouts = s.roundabouts := by rw [answer_frame]
@[simp] theorem answer_crossings (m : MHdr) (command : Nat) (status : Byte) (payload : List Byte) : (answer s m command status payload).crossings = s.crossings := by rw [answer_frame]
@[simp] theorem answer_mem (m : MHdr) (command : Nat) (status : Byte) (payload : List Byte) : (answer s m command status payload).mem = s.mem := by rw [answer_frame]
@[simp] theorem answer_badWords (m : MHdr) (command : Nat) (status : Byte) (payload : List Byte) : (answer s m command status payload).badWords = s.badWords := by rw [answer_frame]
@[simp] theorem answer_hbmEcc (m : MHdr) (command : Nat) (status : Byte) (payload : List Byte) : (answer s m command status payload).hbmEcc = s.hbmEcc := by rw [answer_frame]
@[simp] theorem answer_ddrEcc (m : MHdr) (command : Nat) (status : Byte) (payload : List Byte) : (answer s m command status payload).ddrEcc = s.ddrEcc := by rw [answer_frame]
@[simp] theorem answer_nvCmds (m : MHdr) (command : Nat) (status : Byte) (payload : List Byte) : (answer s m command status payload).nvCmds = s.nvCmds := by rw [answer_frame]
@[simp] theorem answer_trust (m : MHdr) (command : Nat) (status : Byte) (payload : List Byte) : (answer s m command status payload).trust = s.trust := by rw [answer_frame]
@[simp] theorem answer_power (m : MHdr) (command : Nat) (status : Byte) (payload : List Byte) : (answer s m command status payload).power = s.power := by rw [answer_frame]
@[simp] theorem answer_faults (m : MHdr) (command : Nat) (status : Byte) (payload : List Byte) : (answer s m command status payload).faults = s.faults := by rw [answer_frame]
@[simp] theorem answer_trace (m : MHdr) (command : Nat) (status : Byte) (payload : List Byte) : (answer s m command status payload).trace = s.trace := by rw [answer_frame]

/-- Bytes stored change memory and the trust state of their partition. -/
theorem storeRaw_frame (p off : Nat) (bs : List Byte) :
    storeRaw s p off bs = { s with mem := (storeRaw s p off bs).mem, badWords := (storeRaw s p off bs).badWords, parts := (storeRaw s p off bs).parts } := by
  unfold storeRaw
  simp only []
  split <;> rfl

@[simp] theorem storeRaw_pending (p off : Nat) (bs : List Byte) : (storeRaw s p off bs).pending = s.pending := by rw [storeRaw_frame]
@[simp] theorem storeRaw_out (p off : Nat) (bs : List Byte) : (storeRaw s p off bs).out = s.out := by rw [storeRaw_frame]
@[simp] theorem storeRaw_draws (p off : Nat) (bs : List Byte) : (storeRaw s p off bs).draws = s.draws := by rw [storeRaw_frame]
@[simp] theorem storeRaw_now (p off : Nat) (bs : List Byte) : (storeRaw s p off bs).now = s.now := by rw [storeRaw_frame]
@[simp] theorem storeRaw_sled (p off : Nat) (bs : List Byte) : (storeRaw s p off bs).sled = s.sled := by rw [storeRaw_frame]
@[simp] theorem storeRaw_regs (p off : Nat) (bs : List Byte) : (storeRaw s p off bs).regs = s.regs := by rw [storeRaw_frame]
@[simp] theorem storeRaw_loader (p off : Nat) (bs : List Byte) : (storeRaw s p off bs).loader = s.loader := by rw [storeRaw_frame]
@[simp] theorem storeRaw_pattern (p off : Nat) (bs : List Byte) : (storeRaw s p off bs).pattern = s.pattern := by rw [storeRaw_frame]
@[simp] theorem storeRaw_partials (p off : Nat) (bs : List Byte) : (storeRaw s p off bs).partials = s.partials := by rw [storeRaw_frame]
@[simp] theorem storeRaw_lanes (p off : Nat) (bs : List Byte) : (storeRaw s p off bs).lanes = s.lanes := by rw [storeRaw_frame]
@[simp] theorem storeRaw_counters (p off : Nat) (bs : List Byte) : (storeRaw s p off bs).counters = s.counters := by rw [storeRaw_frame]
@[simp] theorem storeRaw_awls (p off : Nat) (bs : List Byte) : (storeRaw s p off bs).awls = s.awls := by rw [storeRaw_frame]
@[simp] theorem storeRaw_blocks (p off : Nat) (bs : List Byte) : (storeRaw s p off bs).blocks = s.blocks := by rw [storeRaw_frame]
@[simp] theorem storeRaw_cores (p off : Nat) (bs : List Byte) : (storeRaw s p off bs).cores = s.cores := by rw [storeRaw_frame]
@[simp] theorem storeRaw_tolls (p off : Nat) (bs : List Byte) : (storeRaw s p off bs).tolls = s.tolls := by rw [storeRaw_frame]
@[simp] theorem storeRaw_roundabouts (p off : Nat) (bs : List Byte) : (storeRaw s p off bs).roundabouts = s.roundabouts := by rw [storeRaw_frame]
@[simp] theorem storeRaw_crossings (p off : Nat) (bs : List Byte) : (storeRaw s p off bs).crossings = s.crossings := by rw [storeRaw_frame]
@[simp] theorem storeRaw_hbmEcc (p off : Nat) (bs : List Byte) : (storeRaw s p off bs).hbmEcc = s.hbmEcc := by rw [storeRaw_frame]
@[simp] theorem storeRaw_ddrEcc (p off : Nat) (bs : List Byte) : (storeRaw s p off bs).ddrEcc = s.ddrEcc := by rw [storeRaw_frame]
@[simp] theorem storeRaw_nvCmds (p off : Nat) (bs : List Byte) : (storeRaw s p off bs).nvCmds = s.nvCmds := by rw [storeRaw_frame]
@[simp] theorem storeRaw_fab (p off : Nat) (bs : List Byte) : (storeRaw s p off bs).fab = s.fab := by rw [storeRaw_frame]
@[simp] theorem storeRaw_mgmt (p off : Nat) (bs : List Byte) : (storeRaw s p off bs).mgmt = s.mgmt := by rw [storeRaw_frame]
@[simp] theorem storeRaw_trust (p off : Nat) (bs : List Byte) : (storeRaw s p off bs).trust = s.trust := by rw [storeRaw_frame]
@[simp] theorem storeRaw_power (p off : Nat) (bs : List Byte) : (storeRaw s p off bs).power = s.power := by rw [storeRaw_frame]
@[simp] theorem storeRaw_faults (p off : Nat) (bs : List Byte) : (storeRaw s p off bs).faults = s.faults := by rw [storeRaw_frame]
@[simp] theorem storeRaw_trace (p off : Nat) (bs : List Byte) : (storeRaw s p off bs).trace = s.trace := by rw [storeRaw_frame]

/-- Zeroed benches change memory. -/
theorem zeroBenches_frame (b : Nat) :
    zeroBenches s b = { s with mem := (zeroBenches s b).mem, badWords := (zeroBenches s b).badWords } := by
  rfl

@[simp] theorem zeroBenches_pending (b : Nat) : (zeroBenches s b).pending = s.pending := by rw [zeroBenches_frame]
@[simp] theorem zeroBenches_out (b : Nat) : (zeroBenches s b).out = s.out := by rw [zeroBenches_frame]
@[simp] theorem zeroBenches_draws (b : Nat) : (zeroBenches s b).draws = s.draws := by rw [zeroBenches_frame]
@[simp] theorem zeroBenches_now (b : Nat) : (zeroBenches s b).now = s.now := by rw [zeroBenches_frame]
@[simp] theorem zeroBenches_sled (b : Nat) : (zeroBenches s b).sled = s.sled := by rw [zeroBenches_frame]
@[simp] theorem zeroBenches_regs (b : Nat) : (zeroBenches s b).regs = s.regs := by rw [zeroBenches_frame]
@[simp] theorem zeroBenches_loader (b : Nat) : (zeroBenches s b).loader = s.loader := by rw [zeroBenches_frame]
@[simp] theorem zeroBenches_pattern (b : Nat) : (zeroBenches s b).pattern = s.pattern := by rw [zeroBenches_frame]
@[simp] theorem zeroBenches_partials (b : Nat) : (zeroBenches s b).partials = s.partials := by rw [zeroBenches_frame]
@[simp] theorem zeroBenches_parts (b : Nat) : (zeroBenches s b).parts = s.parts := by rw [zeroBenches_frame]
@[simp] theorem zeroBenches_lanes (b : Nat) : (zeroBenches s b).lanes = s.lanes := by rw [zeroBenches_frame]
@[simp] theorem zeroBenches_counters (b : Nat) : (zeroBenches s b).counters = s.counters := by rw [zeroBenches_frame]
@[simp] theorem zeroBenches_awls (b : Nat) : (zeroBenches s b).awls = s.awls := by rw [zeroBenches_frame]
@[simp] theorem zeroBenches_blocks (b : Nat) : (zeroBenches s b).blocks = s.blocks := by rw [zeroBenches_frame]
@[simp] theorem zeroBenches_cores (b : Nat) : (zeroBenches s b).cores = s.cores := by rw [zeroBenches_frame]
@[simp] theorem zeroBenches_tolls (b : Nat) : (zeroBenches s b).tolls = s.tolls := by rw [zeroBenches_frame]
@[simp] theorem zeroBenches_roundabouts (b : Nat) : (zeroBenches s b).roundabouts = s.roundabouts := by rw [zeroBenches_frame]
@[simp] theorem zeroBenches_crossings (b : Nat) : (zeroBenches s b).crossings = s.crossings := by rw [zeroBenches_frame]
@[simp] theorem zeroBenches_hbmEcc (b : Nat) : (zeroBenches s b).hbmEcc = s.hbmEcc := by rw [zeroBenches_frame]
@[simp] theorem zeroBenches_ddrEcc (b : Nat) : (zeroBenches s b).ddrEcc = s.ddrEcc := by rw [zeroBenches_frame]
@[simp] theorem zeroBenches_nvCmds (b : Nat) : (zeroBenches s b).nvCmds = s.nvCmds := by rw [zeroBenches_frame]
@[simp] theorem zeroBenches_fab (b : Nat) : (zeroBenches s b).fab = s.fab := by rw [zeroBenches_frame]
@[simp] theorem zeroBenches_mgmt (b : Nat) : (zeroBenches s b).mgmt = s.mgmt := by rw [zeroBenches_frame]
@[simp] theorem zeroBenches_trust (b : Nat) : (zeroBenches s b).trust = s.trust := by rw [zeroBenches_frame]
@[simp] theorem zeroBenches_power (b : Nat) : (zeroBenches s b).power = s.power := by rw [zeroBenches_frame]
@[simp] theorem zeroBenches_faults (b : Nat) : (zeroBenches s b).faults = s.faults := by rw [zeroBenches_frame]
@[simp] theorem zeroBenches_trace (b : Nat) : (zeroBenches s b).trace = s.trace := by rw [zeroBenches_frame]

/-- A zeroed range changes memory. -/
theorem zeroMemory_frame (p : Nat) :
    zeroMemory s p = { s with mem := (zeroMemory s p).mem, badWords := (zeroMemory s p).badWords } := by
  rfl

@[simp] theorem zeroMemory_pending (p : Nat) : (zeroMemory s p).pending = s.pending := by rw [zeroMemory_frame]
@[simp] theorem zeroMemory_out (p : Nat) : (zeroMemory s p).out = s.out := by rw [zeroMemory_frame]
@[simp] theorem zeroMemory_draws (p : Nat) : (zeroMemory s p).draws = s.draws := by rw [zeroMemory_frame]
@[simp] theorem zeroMemory_now (p : Nat) : (zeroMemory s p).now = s.now := by rw [zeroMemory_frame]
@[simp] theorem zeroMemory_sled (p : Nat) : (zeroMemory s p).sled = s.sled := by rw [zeroMemory_frame]
@[simp] theorem zeroMemory_regs (p : Nat) : (zeroMemory s p).regs = s.regs := by rw [zeroMemory_frame]
@[simp] theorem zeroMemory_loader (p : Nat) : (zeroMemory s p).loader = s.loader := by rw [zeroMemory_frame]
@[simp] theorem zeroMemory_pattern (p : Nat) : (zeroMemory s p).pattern = s.pattern := by rw [zeroMemory_frame]
@[simp] theorem zeroMemory_partials (p : Nat) : (zeroMemory s p).partials = s.partials := by rw [zeroMemory_frame]
@[simp] theorem zeroMemory_parts (p : Nat) : (zeroMemory s p).parts = s.parts := by rw [zeroMemory_frame]
@[simp] theorem zeroMemory_lanes (p : Nat) : (zeroMemory s p).lanes = s.lanes := by rw [zeroMemory_frame]
@[simp] theorem zeroMemory_counters (p : Nat) : (zeroMemory s p).counters = s.counters := by rw [zeroMemory_frame]
@[simp] theorem zeroMemory_awls (p : Nat) : (zeroMemory s p).awls = s.awls := by rw [zeroMemory_frame]
@[simp] theorem zeroMemory_blocks (p : Nat) : (zeroMemory s p).blocks = s.blocks := by rw [zeroMemory_frame]
@[simp] theorem zeroMemory_cores (p : Nat) : (zeroMemory s p).cores = s.cores := by rw [zeroMemory_frame]
@[simp] theorem zeroMemory_tolls (p : Nat) : (zeroMemory s p).tolls = s.tolls := by rw [zeroMemory_frame]
@[simp] theorem zeroMemory_roundabouts (p : Nat) : (zeroMemory s p).roundabouts = s.roundabouts := by rw [zeroMemory_frame]
@[simp] theorem zeroMemory_crossings (p : Nat) : (zeroMemory s p).crossings = s.crossings := by rw [zeroMemory_frame]
@[simp] theorem zeroMemory_hbmEcc (p : Nat) : (zeroMemory s p).hbmEcc = s.hbmEcc := by rw [zeroMemory_frame]
@[simp] theorem zeroMemory_ddrEcc (p : Nat) : (zeroMemory s p).ddrEcc = s.ddrEcc := by rw [zeroMemory_frame]
@[simp] theorem zeroMemory_nvCmds (p : Nat) : (zeroMemory s p).nvCmds = s.nvCmds := by rw [zeroMemory_frame]
@[simp] theorem zeroMemory_fab (p : Nat) : (zeroMemory s p).fab = s.fab := by rw [zeroMemory_frame]
@[simp] theorem zeroMemory_mgmt (p : Nat) : (zeroMemory s p).mgmt = s.mgmt := by rw [zeroMemory_frame]
@[simp] theorem zeroMemory_trust (p : Nat) : (zeroMemory s p).trust = s.trust := by rw [zeroMemory_frame]
@[simp] theorem zeroMemory_power (p : Nat) : (zeroMemory s p).power = s.power := by rw [zeroMemory_frame]
@[simp] theorem zeroMemory_faults (p : Nat) : (zeroMemory s p).faults = s.faults := by rw [zeroMemory_frame]
@[simp] theorem zeroMemory_trace (p : Nat) : (zeroMemory s p).trace = s.trace := by rw [zeroMemory_frame]

/-- A run that ends changes its engine, its step and its counter. -/
theorem runEnds_frame (p b : Nat) (code : Byte) :
    runEnds s p b code = { s with parts := (runEnds s p b code).parts, blocks := (runEnds s p b code).blocks, counters := (runEnds s p b code).counters, trace := (runEnds s p b code).trace } := by
  unfold runEnds
  simp only []
  generalize hu : noteStep _ p code = u
  rw [noteStep_frame, traceEvent_frame] at hu
  split
  · rw [ctrAdd_frame]; subst hu; rfl
  · subst hu; rfl

@[simp] theorem runEnds_pending (p b : Nat) (code : Byte) : (runEnds s p b code).pending = s.pending := by rw [runEnds_frame]
@[simp] theorem runEnds_out (p b : Nat) (code : Byte) : (runEnds s p b code).out = s.out := by rw [runEnds_frame]
@[simp] theorem runEnds_draws (p b : Nat) (code : Byte) : (runEnds s p b code).draws = s.draws := by rw [runEnds_frame]
@[simp] theorem runEnds_now (p b : Nat) (code : Byte) : (runEnds s p b code).now = s.now := by rw [runEnds_frame]
@[simp] theorem runEnds_sled (p b : Nat) (code : Byte) : (runEnds s p b code).sled = s.sled := by rw [runEnds_frame]
@[simp] theorem runEnds_regs (p b : Nat) (code : Byte) : (runEnds s p b code).regs = s.regs := by rw [runEnds_frame]
@[simp] theorem runEnds_loader (p b : Nat) (code : Byte) : (runEnds s p b code).loader = s.loader := by rw [runEnds_frame]
@[simp] theorem runEnds_pattern (p b : Nat) (code : Byte) : (runEnds s p b code).pattern = s.pattern := by rw [runEnds_frame]
@[simp] theorem runEnds_partials (p b : Nat) (code : Byte) : (runEnds s p b code).partials = s.partials := by rw [runEnds_frame]
@[simp] theorem runEnds_lanes (p b : Nat) (code : Byte) : (runEnds s p b code).lanes = s.lanes := by rw [runEnds_frame]
@[simp] theorem runEnds_awls (p b : Nat) (code : Byte) : (runEnds s p b code).awls = s.awls := by rw [runEnds_frame]
@[simp] theorem runEnds_cores (p b : Nat) (code : Byte) : (runEnds s p b code).cores = s.cores := by rw [runEnds_frame]
@[simp] theorem runEnds_tolls (p b : Nat) (code : Byte) : (runEnds s p b code).tolls = s.tolls := by rw [runEnds_frame]
@[simp] theorem runEnds_roundabouts (p b : Nat) (code : Byte) : (runEnds s p b code).roundabouts = s.roundabouts := by rw [runEnds_frame]
@[simp] theorem runEnds_crossings (p b : Nat) (code : Byte) : (runEnds s p b code).crossings = s.crossings := by rw [runEnds_frame]
@[simp] theorem runEnds_mem (p b : Nat) (code : Byte) : (runEnds s p b code).mem = s.mem := by rw [runEnds_frame]
@[simp] theorem runEnds_badWords (p b : Nat) (code : Byte) : (runEnds s p b code).badWords = s.badWords := by rw [runEnds_frame]
@[simp] theorem runEnds_hbmEcc (p b : Nat) (code : Byte) : (runEnds s p b code).hbmEcc = s.hbmEcc := by rw [runEnds_frame]
@[simp] theorem runEnds_ddrEcc (p b : Nat) (code : Byte) : (runEnds s p b code).ddrEcc = s.ddrEcc := by rw [runEnds_frame]
@[simp] theorem runEnds_nvCmds (p b : Nat) (code : Byte) : (runEnds s p b code).nvCmds = s.nvCmds := by rw [runEnds_frame]
@[simp] theorem runEnds_fab (p b : Nat) (code : Byte) : (runEnds s p b code).fab = s.fab := by rw [runEnds_frame]
@[simp] theorem runEnds_mgmt (p b : Nat) (code : Byte) : (runEnds s p b code).mgmt = s.mgmt := by rw [runEnds_frame]
@[simp] theorem runEnds_trust (p b : Nat) (code : Byte) : (runEnds s p b code).trust = s.trust := by rw [runEnds_frame]
@[simp] theorem runEnds_power (p b : Nat) (code : Byte) : (runEnds s p b code).power = s.power := by rw [runEnds_frame]
@[simp] theorem runEnds_faults (p b : Nat) (code : Byte) : (runEnds s p b code).faults = s.faults := by rw [runEnds_frame]

/-! ### Lanes -/

theorem lane_of_find {n : Nat} {l : Lane} (h : s.lanes.find n = some l) : s.lane n = l := by
  simp [State.lane, KMap.at, h]

theorem counter_of_find {n : Nat} {k : Counter} (h : s.counters.find n = some k) : s.counter n = k := by
  simp [State.counter, KMap.at, h]

/-- The armed interrupt changes INT_ARM of its lane at most: the items stay. -/
theorem laneArmed_lane (n : Nat) :
    (laneArmed s n).lane n = { s.lane n with
      intArm := (s.lane n).intArm && ((s.lane n).items.isEmpty || !decide ((s.lane n).vector < 32)) } := by
  unfold laneArmed
  simp only []
  generalize hl : s.lane n = l
  by_cases h : l.intArm = true ∧ l.items ≠ [] ∧ l.vector < 32
  · rw [if_pos h]
    show State.lane _ n = _
    simp only [State.lane, raiseLane_lanes, setLane_lanes, at_put_same]
    have e : l.items.isEmpty = false := by simpa using h.2.1
    simp [e, h.2.2]
  · rw [if_neg h, hl]
    have e : (l.intArm && (l.items.isEmpty || !decide (l.vector < 32))) = l.intArm := by
      cases hi : l.intArm
      · rfl
      · cases hn : l.items with
        | nil => rfl
        | cons a r =>
          have : ¬ l.vector < 32 := fun hv => h ⟨hi, by simp [hn], hv⟩
          simp [this]
    rw [e]

theorem laneArmed_lane_ne {n k : Nat} (h : k ≠ n) : (laneArmed s n).lane k = s.lane k := by
  unfold laneArmed
  simp only []
  split
  · simp [State.lane, h]
  · rfl

/-- An item written to a lane with room is placed last; another lane is left alone (R65). -/
theorem lanePush_items {n : Nat} {l : Lane} (it : Item) (h : s.lanes.find n = some l) (hr : l.items.length < 16) :
    ((lanePush s n it).lane n).items = l.items ++ [it] := by
  unfold lanePush
  simp only [h, hr, if_true]
  rw [laneArmed_lane]
  simp

theorem lanePush_ne {n k : Nat} (it : Item) (h : k ≠ n) : (lanePush s n it).lane k = s.lane k := by
  unfold lanePush
  split
  · rfl
  · simp only []
    split
    · rw [laneArmed_lane_ne _ h]
      split <;> simp [State.lane, h]
    · split <;> simp [State.lane, h]

/-- An item written to a full lane is lost: OVERRUN is set and LANE_DROPS counts (R68). -/
theorem lanePush_full {n : Nat} {l : Lane} (it : Item) (h : s.lanes.find n = some l) (hf : 16 ≤ l.items.length) :
    (lanePush s n it).lane n = { l with overrun := true, drops := satAdd 0xFFFF_FFFF l.drops 1 } := by
  have h' : ¬ l.items.length < 16 := by omega
  unfold lanePush
  simp only [h, h', if_false]
  split <;> simp [State.lane]

/-- No lane comes to hold more than 16 items (R64). -/
theorem lanePush_length {n k : Nat} (it : Item) (h : ∀ k, (s.lane k).items.length ≤ 16) :
    ((lanePush s n it).lane k).items.length ≤ 16 := by
  by_cases hk : k = n
  · subst hk
    cases hl : s.lanes.find k with
    | none =>
      have e : lanePush s k it = s := by unfold lanePush; simp [hl]
      rw [e]; exact h k
    | some l =>
      by_cases hr : l.items.length < 16
      · rw [lanePush_items s it hl hr]; simp; omega
      · rw [lanePush_full s it hl (by omega)]
        have := h k
        rw [lane_of_find s hl] at this
        exact this
  · rw [lanePush_ne s it hk]; exact h k

/-- Taking the head leaves the rest in order (R65). -/
theorem lanePop_cons {n : Nat} {it : Item} {r : List Item} (h : (s.lane n).items = it :: r) :
    (lanePop s n).1 = it ∧
      (lanePop s n).2.lane n = { s.lane n with items := r, restart := s.now, fired := false } := by
  unfold lanePop
  simp only [h]
  refine ⟨trivial, ?_⟩
  rw [State.lane, laneDrained_lanes, setLane_lanes]
  simp

/-- An event traced leaves the counters as they are. -/
@[simp] theorem traceEvent_counter (p k m n : Nat) (u : TraceUnit) :
    (traceEvent s p u k m).counter n = s.counter n := by
  unfold State.counter
  rw [traceEvent_counters]

/-- An empty lane gives its idle item and changes nothing (R67). -/
theorem lanePop_nil {n : Nat} (h : (s.lane n).items = []) : lanePop s n = (idleItem n, s) := by
  simp [lanePop, h]

/-! ### Counters -/

theorem ctrAdd_same {c : Nat} {k : Counter} (a : Nat) (f : Bool) (h : s.counters.find c = some k) :
    (ctrAdd s c a f).counter c = { k with value := satAdd ctrMax k.value a, fault := k.fault || f } := by
  simp [ctrAdd, h]

theorem ctrAdd_ne {c n : Nat} (a : Nat) (f : Bool) (h : n ≠ c) : (ctrAdd s c a f).counter n = s.counter n := by
  unfold ctrAdd
  split
  · rfl
  · rw [setCounter_counter_ne _ _ h, traceEvent_counter]

theorem ctrSet_same {c : Nat} {k : Counter} (v : Word) (h : s.counters.find c = some k) :
    (ctrSet s c v).counter c = { k with value := v.toNat % 2 ^ 63, fault := v.toNat.testBit 63 } := by
  simp [ctrSet, h]

theorem ctrSet_ne {c n : Nat} (v : Word) (h : n ≠ c) : (ctrSet s c v).counter n = s.counter n := by
  unfold ctrSet
  split
  · rfl
  · rw [setCounter_counter_ne _ _ h, traceEvent_counter]

/-! ### Partitions and the module -/

theorem setCode_part_ne {p q : Nat} (c : Nat) (h : q ≠ p) : (setCode s p c).part q = s.part q := by
  unfold setCode
  simp only []
  split
  · simp [State.part, h]
  · split <;> simp [State.part, h]

theorem setCode_part (p c : Nat) : (setCode s p c).part p = { s.part p with code := c } := by
  unfold setCode
  simp only []
  split
  · simp [State.part]
  · split <;> simp [State.part]

@[simp] theorem setCode_code (p c : Nat) : (setCode s p c).code p = c := by
  show ((setCode s p c).part p).code = c
  rw [setCode_part]

@[simp] theorem setModState_state (c : Nat) : (setModState s c).regs.state = c := by
  unfold setModState
  split
  · assumption
  · unfold State.upd
    simp

@[simp] theorem tellFault_state (r : FaultRec) : (tellFault s r).regs.state = s.regs.state := by
  unfold tellFault
  simp only []
  split
  · simp [State.upd]
  · split <;> simp

@[simp] theorem tellFault_mgmt_boot (r : FaultRec) : (tellFault s r).mgmt.boot = s.mgmt.boot := by
  have hv : ∀ (u : State) (fn v : Nat), (raiseVector u fn v).mgmt.boot = u.mgmt.boot := by
    intro u fn v
    unfold raiseVector
    simp only []
    split
    · rfl
    · split <;> rfl
  have hr : ∀ (l : List Nat) (u : State), (raiseSources u l).mgmt.boot = u.mgmt.boot := by
    intro l
    induction l with
    | nil => intro u; rfl
    | cons k r ih =>
      intro u
      simp only [raiseSources]
      rw [ih]
      split <;> simp [hv]
  have hn : ∀ (u : State) (c : Nat) (q : List Byte) (i : Bool), (sendNotice u i c q).mgmt.boot = u.mgmt.boot := by
    intro u c q i
    unfold sendNotice
    simp only []
    generalize hw : trayUpdate _ = w
    have : w.mgmt.boot = u.mgmt.boot := by rw [← hw]; simp
    split <;> exact this
  unfold tellFault
  simp only []
  split
  · simp only [State.upd, raiseRisen, hr]
    simp [hn]
  · split
    · simp [raisePart, hv, hn]
    · simp [hn]

/-- A fault record changes LOG, SEQ and OVERWRITTEN of the module's fault state. -/
theorem faultRecord_faults (cls : Nat) (code : Byte) (part unitKind unit address detail : Nat) (tag : Word) :
    (faultRecord s cls code part unitKind unit address detail tag).faults = { s.faults with
      log := (faultRecord s cls code part unitKind unit address detail tag).faults.log
      seq := (faultRecord s cls code part unitKind unit address detail tag).faults.seq
      overwritten := (faultRecord s cls code part unitKind unit address detail tag).faults.overwritten } := by
  unfold faultRecord
  simp only []
  split
  · rfl
  · rw [tellFault_faults]; rfl

@[simp] theorem faultRecord_rsn (cls : Nat) (code : Byte) (part unitKind unit address detail : Nat) (tag : Word) :
    (faultRecord s cls code part unitKind unit address detail tag).faults.rsn = s.faults.rsn := by
  rw [faultRecord_faults]

@[simp] theorem faultRecord_state (cls : Nat) (code : Byte) (part unitKind unit address detail : Nat) (tag : Word) :
    (faultRecord s cls code part unitKind unit address detail tag).regs.state = s.regs.state := by
  unfold faultRecord
  simp only []
  split
  · rfl
  · simp

/-! ### Who reaches a register -/

/-- The host function of a partition, or the PF, is let through to its registers (R544 to R546). -/
theorem portGate_host {src : Src} {p : Part} (off : Nat) (h : hostReaches s src p) :
    portGate s src (some p.val) off = (true, s) := by
  obtain ⟨hw, h255, h8, hs⟩ := h
  have ha : partAnswers s p.val off = true := by simp [partAnswers, h8]
  have hv : (p.succ : Fn).val ≠ 0 := by simp
  have hp : (p.succ : Fn).val - 1 = p.val := by simp
  unfold portGate
  rcases hs with rfl | rfl
  · simp [hw, ha]
  · simp only [hw, hv, hp, h255]
    simp [ha]

theorem guarded_host {src : Src} {p : Part} (off : Nat) (f : State → State) (h : hostReaches s src p) :
    guarded s src (some p.val) off f = f s := by
  simp [guarded, portGate_host s off h]

/-- A write of a partition's register by who reaches it does what the register does. -/
theorem partWrite_host {src : Src} {p : Part} (off : Nat) (f : State → State) (h : hostReaches s src p) :
    partWrite s src p.val off f = f s := by
  have hd : s.defined p.val = some p.val := by simp [State.defined, h.2.1]
  unfold partWrite
  rw [hd]
  exact guarded_host s _ f h

/-- A write of a block's register by who reaches it does what the register does. -/
theorem blockWrite_host {src : Src} {p : Part} {b : Blk} (off : Nat) (f : State → State)
    (h : hostReachesBlock s src p b) : blockWrite s src b.val off f = f s := by
  unfold blockWrite
  rw [h.1]
  exact guarded_host s _ f h.2

/-- A write of a register outside the windows by who reaches it does what the register does. -/
theorem globalWrite_reached {src : Src} {off : Nat} (f : State → State) (h : globalReaches s src off) :
    globalWrite s src off f = f s := by
  rcases h with rfl | ⟨rfl, h⟩
  · rfl
  · simp [globalWrite, h]

/-! ### Requests -/

/-- The address that an I3C message names changes no reply kept. -/
theorem storedReply_noted (m n : MHdr) : storedReply (noteAddress s m) n = storedReply s n := by
  unfold noteAddress
  split <;> rfl

/-- A request that is taken is answered with what its handler gives (R395, R397). -/
theorem mgmtRequest_taken {m : MHdr} {command : Nat} {allowed : Bool} {len : Option Nat} (f : State → Handled)
    (h : requestTaken s m command allowed) (hl : len.any (fun n => decide (n ≠ m.length)) = false) :
    mgmtRequest s m command allowed len f =
      let r := f (noteAddress s m)
      answer r.2.2 m command r.1 r.2.1 := by
  obtain ⟨h1, h2, h3, h4⟩ := h
  unfold mgmtRequest
  rw [h4] at hl
  simp only [h1, storedReply_noted, h2, h3, h4, hl]
  simp

/-- A recovery command that is taken acts once, and its RSN, its payload and its reply are kept (R507). -/
theorem recovery_taken {m : MHdr} {command len : Nat} {payload : List Nat} (f : State → Byte × Bool × State)
    (h : recoveryTaken s m command len) :
    let r := f (noteAddress s m)
    ∃ t : State, recovery s m command payload len f = answer t m command r.1 [] ∧
      t.faults.rsn = m.rsn ∧ t.pattern = r.2.2.pattern ∧ t.mem = r.2.2.mem ∧ t.fab = r.2.2.fab ∧
      t.power = r.2.2.power ∧ t.loader = r.2.2.loader ∧ t.trust = r.2.2.trust ∧
      t.regs.state = r.2.2.regs.state ∧ t.pending = r.2.2.pending := by
  obtain ⟨ht, hl, h0, hn⟩ := h
  unfold recovery control
  rw [mgmtRequest_taken s _ ht (by simp [hl])]
  simp only [noteAddress_faults, h0, hn, if_false, if_true, plain]
  refine ⟨_, rfl, ?_⟩
  split <;> simp

/-- A trust operation that is taken is answered with what its handler gives, or later. -/
theorem trustOp_taken {m : MHdr} {op : Nat} {allowed : Bool} (f : State → Option (Byte × List Byte) × State)
    (h : trustTaken s m allowed) :
    trustOp s m op allowed f = match f (noteAddress s m) with
      | (none, t) => t
      | (some r, t) => trustAnswer t m op r.1 r.2 := by
  obtain ⟨h1, h2, h3⟩ := h
  cases hf : f (noteAddress s m) with
  | mk r t => cases r <;> simp [trustOp, h1, h2, h3, hf]

/-- A reply by the mailbox is ready in it (R400). -/
theorem mailboxReply_mailbox (bs : List Byte) :
    (mailboxReply s bs).mgmt.mbxReady = true ∧ (mailboxReply s bs).mgmt.mbxReply = replyWords bs := by
  have hv : ∀ (u : State) (fn v : Nat), (raiseVector u fn v).mgmt.mbxReady = u.mgmt.mbxReady ∧
      (raiseVector u fn v).mgmt.mbxReply = u.mgmt.mbxReply := by
    intro u fn v
    unfold raiseVector
    simp only []
    split
    · exact ⟨rfl, rfl⟩
    · split <;> exact ⟨rfl, rfl⟩
  have hr : ∀ (l : List Nat) (u : State), (raiseSources u l).mgmt.mbxReady = u.mgmt.mbxReady ∧
      (raiseSources u l).mgmt.mbxReply = u.mgmt.mbxReply := by
    intro l
    induction l with
    | nil => intro u; exact ⟨rfl, rfl⟩
    | cons k r ih =>
      intro u
      simp only [raiseSources]
      rw [(ih _).1, (ih _).2]
      split
      · exact hv _ _ _
      · exact ⟨rfl, rfl⟩
  unfold mailboxReply State.upd raiseRisen
  exact ⟨(hr _ _).1, (hr _ _).2⟩

/-- A class-0 packet originated is the last that waits for the router. -/
theorem originate0_last (d : Nat) (pinned : Bool) (kind count : Nat) (data : List Byte)
    (h : s.fab.device ≠ 0xFFFF) :
    (originate0 s d pinned kind count data).fab.ownTx.getLast?
      = some (class0Bytes (originate0 s d pinned kind count data) d pinned kind count data) := by
  unfold originate0
  rw [if_neg h]
  simp [class0Bytes, State.bank]

/-- A device number stays when a class-0 packet is originated. -/
theorem originate0_device (d : Nat) (pinned : Bool) (kind count : Nat) (data : List Byte) :
    (originate0 s d pinned kind count data).fab.device = s.fab.device := by
  unfold originate0
  split <;> rfl

/-- What is delivered goes back last, by the way its request came. -/
theorem deliver_back (m : MHdr) (e : Emit) (mctp body : List Byte)
    (h : deliver s e = match m.path, m.session with
      | .mailbox, _ => mailboxReply s body
      | .relay d, none => originate0 s d false 2 0 mctp
      | _, _ => s.emit e) : sentBack (deliver s e) m e mctp body := by
  unfold sentBack
  rw [h]
  cases hp : m.path with
  | mailbox => exact mailboxReply_mailbox s body
  | relay d =>
    cases m.session with
    | none =>
      simp only []
      rw [originate0_device]
      exact originate0_last s _ _ _ _ _
    | some x => simp [State.emit]
  | _ => simp [State.emit]

/-- What an answer leaves last is the reply. -/
theorem answer_answered (m : MHdr) (command : Nat) (c : Byte) (payload : List Byte) :
    answeredWith (answer s m command c payload) m command c payload :=
  deliver_back _ m _ _ _ rfl

/-- What the answer of a trust operation leaves last is that answer. -/
theorem trustAnswer_answered (m : MHdr) (op : Nat) (c : Byte) (payload : List Byte) :
    trustAnswered (trustAnswer s m op c payload) m op c payload :=
  deliver_back _ m _ _ _ rfl

/-- What the answer of an SPDM request leaves last is that answer. -/
theorem spdmAnswer_answered (m : MHdr) (request : Nat) (ok : Bool) (payload : List Byte) :
    spdmAnswered (spdmAnswer s m request ok payload) m request ok payload :=
  deliver_back _ m _ _ _ rfl

end Sys2Proof.Machine
end

