-- ==== Sys2Proof/WellFormed.lean ====
section
/-! DEFINITION. Which commands a sender can give: each numeric operand fits the field that the manual gives
it, and each list has the length that its table gives. `exec` is total; a command that is not well-formed
stands for nothing that a wire or a register can carry (notes/assumptions/55.md). -/

namespace Sys2Proof

/-- A completion code of Table 03-15: the codes from 0x10 on are reserved and never reported (R11, R110). -/
def okCode (c : Byte) : Bool := decide (c.toNat ≤ 0x0F)

/-- A word that a transfer found in error is named by its first byte. -/
def okFound (f : Found) : Bool := (f.map fun x => decide (x.1.toNat % 32 = 0)).getD true

/-- A device number fits its 16-bit field (Table 11-1). -/
def okDevice (d : Nat) : Bool := decide (d < 65536)

/-- A number of `n` bits. -/
def okBits (n v : Nat) : Bool := decide (v < 2 ^ n)

/-- A message relayed comes from a device (Table 12-5). -/
def MPath.wf : MPath → Bool
  | .relay device => okDevice device
  | _ => true

/-- LENGTH and the bytes that arrived fit a message (Table 12-4; trust operations: Table 13-4). -/
def MHdr.wf (m : MHdr) : Bool := m.path.wf && okBits 32 m.length && okBits 32 m.received

/-- The header of a service message (Table 05-1). -/
def SvcHdr.wf (h : SvcHdr) : Bool :=
  okBits 16 h.handoffSeq && okDevice h.fromDevice && decide (h.fromPartition < 64) && okBits 32 h.posA
    && okBits 32 h.posB && okBits 64 h.msgId && okBits 16 h.epoch && okCode h.status

/-- The transport header of a packet (Table 11-1). -/
def XtHdr.wf (x : XtHdr) : Bool :=
  okDevice x.device && decide (x.srcPart < 64) && decide (x.destPart < 64) && okBits 16 x.mapEpoch

/-- The fields of a MESSAGE packet (Table 11-3). -/
def MsgFields.wf (m : MsgFields) : Bool :=
  okBits 32 m.offset && okBits 32 m.total && okBits 16 m.destEndpoint && okBits 16 m.srcEndpoint

/-- An acknowledgement is of class 1 or 2 (Table 11-3). -/
def AckFields.wf (a : AckFields) : Bool := okDevice a.device && decide (a.cls ≠ 0) && okCode a.status

/-- One stream's result: a token for each fed position, with its mark. -/
def StreamOut.wf (x : StreamOut) : Bool := decide (x.tokens.length = x.ends.length)

/-- A codeword holds 10 units (R325). -/
def Codeword.wf : Codeword → Bool
  | .good _ units => decide (units.length = 10)
  | .uncorrectable => true

/-- A map entry (Table 12-7). -/
def MapEntry.wf (e : MapEntry) : Bool :=
  okDevice e.device && okBits 8 e.partition && okBits 8 e.role && okBits 16 e.partner

/-- A DIMM (Tables 09-9, 16-17). -/
def Dimm.wf (d : Dimm) : Bool := okBits 16 d.capacityGiB && okBits 16 d.rate && decide (d.part.length = 20)

/-- A core's command. -/
def CoreRun.wf (x : CoreRun) : Bool := okFound x.found

/-- An access through BAR4: a read of 1 to 4,096 bytes, a write of 1 to 512 (Table 12-1). -/
def Bar4Acc.wf : Bar4Acc → Bool
  | .read n found => decide (1 ≤ n ∧ n ≤ 4096) && okFound found
  | .write bs => decide (1 ≤ bs.length ∧ bs.length ≤ 512)

/-- A Cobbler access: a load or store of at most 64 bytes on its module, of at most 256 remote (R100, R221). -/
def CobAcc.wf : CobAcc → Bool
  | .load _ n found => decide (1 ≤ n ∧ n ≤ 64) && okFound found
  | .store _ bs => decide (1 ≤ bs.length ∧ bs.length ≤ 64)
  | .remoteLoad d _ n => okDevice d && decide (1 ≤ n ∧ n ≤ 256)
  | .remoteStore d _ bs => okDevice d && decide (1 ≤ bs.length ∧ bs.length ≤ 256)

/-- The header of a loader command that came by the management path. -/
def Via.wf : Via → Bool
  | .bar0 _ => true
  | .mgmt m => m.wf

/-- A command that a sender can give. -/
def Instr.wf (i : Instr) : Bool :=
  match i with
  | .patBegin via _ => via.wf
  | .patChunk via _ _ bytes => via.wf && decide (bytes.length ≤ 4064)
  | .chunkDone fetched => decide (((fetched.map List.length).getD 0) ≤ 2 ^ 20)
  | .patCommit via _ => via.wf
  | .commitFlashDone _ => true
  | .patConfirm via _ _ => via.wf
  | .confirmRecordDone _ => true
  | .confirmExpired _ => true
  | .patAbort via _ => via.wf
  | .patOpen via _ => via.wf
  | .patStop via _ => via.wf
  | .stopDrain _ => true
  | .laneWrite _ _ _ => true
  | .laneRead _ => true
  | .staleTimer _ => true
  | .hostSlotWrite _ _ _ _ => true
  | .hostSlotRead _ _ _ => true
  | .laneControlWrite _ _ _ => true
  | .outputBacklogDrain _ => true
  | .counterAdd _ _ status => okCode status
  | .counterSet _ _ _ => true
  | .ctrAddWrite _ _ _ => true
  | .ctrValueWrite _ _ _ => true
  | .ctrWaitArm _ _ _ _ => true
  | .counterWaitRelease p slot => match p, slot with
    | .host _, .slot _ => true
    | .core .., .counter .. => true
    | _, _ => false
  | .awlTailWrite _ _ _ _ => true
  | .awlRingWrite _ _ _ _ _ => true
  | .move _ _ => true
  | .fill _ _ => true
  | .tack _ _ => true
  | .awlWaitRelease _ _ => true
  | .awlRequestDone _ _ _ _ result => match result with
    | .acked found => okFound found
    | .data bytes => decide (bytes.length ≤ 131072)
    | .failed code => decide (code ≠ 0) && okCode code
  | .awlDescriptorComplete _ _ _ => true
  | .awlFlush _ _ _ _ => true
  | .admissionItemTaken _ _ => true
  | .signpostWalkDone _ _ _ buckets => decide (buckets.length ≤ 65536)
  | .tollgateRefill _ => true
  | .prefixCopyCheck _ _ _ entry => decide (((entry.map List.length).getD 64) = 64)
  | .openLast _ h => h.wf
  | .openPartner _ h len => h.wf && okBits 32 len
  | .commit _ h => h.wf
  | .commitHeldResume _ slot => okBits 24 slot
  | .release _ h => h.wf
  | .transfer _ h => h.wf
  | .query _ h _ => h.wf
  | .queryChunksDone p device part msgId => okFound p.found && okDevice device && decide (part < 64) && okBits 64 msgId
  | .handoff _ h record => h.wf && decide (record.length = 256)
  | .cancel _ h => h.wf
  | .grow _ h => h.wf
  | .serviceReply _ h _ => h.wf
  | .grantReceived _ h _ _ => h.wf
  | .transferReply _ h => h.wf
  | .handoffReply _ h => h.wf
  | .serviceTimeout _ msgId => okBits 64 msgId
  | .handoffNextDue _ _ => true
  | .lastGrowthCopyDone p slot code => okFound p.found && okBits 24 slot && okCode code
  | .lastOldFootprintFree _ slot => okBits 24 slot
  | .lastPromotionDone p slot code => okFound p.found && okBits 24 slot && okCode code
  | .lastTtlCheck _ => true
  | .lastTierMoveDone p slot code => okFound p.found && okBits 24 slot && okCode code
  | .lastRebuild _ => true
  | .cancelSubmit _ _ _ _ => true
  | .forwardingExpire _ _ => true
  | .stepBoundary _ => true
  | .stepCommit _ results => results.all StreamOut.wf
  | .queryWaitExpire _ _ layer => okBits 16 layer
  | .firstDueExpire _ _ => true
  | .contextSwapIn _ => true
  | .ctxBlockExpire _ => true
  | .swapInDone p _ code => okFound p.found && okCode code
  | .roundaboutSelect _ => true
  | .sendMessage _ => true
  | .sendRelease _ => true
  | .crossingEntryStart _ => true
  | .alignInEdge => true
  | .align fromDevice _ => okDevice fromDevice
  | .engLaunch _ _ _ => true
  | .engStop _ _ _ => true
  | .engineRunEnd _ how cycles => okBits 64 cycles && (match how with
    | .fault _ _ code => decide (code ≠ 0) && okCode code
    | _ => true)
  | .mac _ core _ _ _ _ _ scales => core.wf && decide (scales.length ≤ 16)
  | .vectorSpecial _ core _ _ _ => core.wf
  | .compact _ core _ _ srcOff dstOff => core.wf && okBits 18 srcOff && okBits 18 dstOff
  | .benchLoad _ core _ off len => core.wf && okBits 18 off && decide (1 ≤ len ∧ len ≤ 64)
  | .exchange _ core _ srcOff dstOff => core.wf && okBits 18 srcOff && okBits 18 dstOff
  | .barrier _ core => core.wf
  | .barrierRelease _ => true
  | .endRun _ core => core.wf
  | .cobblerAccessFault _ _ _ => true
  | .attnTailWrite _ _ _ => true
  | .attend b => okFound b.found
  | .attendComplete _ _ => true
  | .attnFlush _ _ _ => true
  | .migTailWrite _ _ _ => true
  | .movePages _ => true
  | .pageMoveDone p page _ => okFound p.found && okBits 32 page
  | .migrationEntryDone _ => true
  | .nvmeCompletion _ _ _ _ data => decide (data.length ≤ 131072)
  | .nvTimeout _ _ => true
  | .nvMappingWrite _ _ _ nv entry _ => !nv || decide (entry.val < 8)
  | .patrolScrub _ _ _ _ => true
  | .serdesGroupWake _ => true
  | .trainingDone _ _ => true
  | .trainingTimeout _ => true
  | .hello _ u => okBits 32 u.loopNs
  | .helloTimer _ => true
  | .helloMissing _ => true
  | .downRetrain _ => true
  | .codewordReceived _ cw => cw.wf
  | .credit _ freed => decide (freed.length = 8)
  | .creditTimer _ => true
  | .sync _ sent => decide (sent.length = 8)
  | .syncTimer _ => true
  | .packetHeader _ => true
  | .packetDelivered packet => decide (packet.length % 64 = 0 ∧ 64 ≤ packet.length ∧ packet.length ≤ 4160)
  | .portTransmit _ => true
  | .retrain _ _ _ => true
  | .disable _ _ _ => true
  | .fpCreditsWrite _ _ _ _ => true
  | .routeWrite _ _ _ _ => true
  | .fabBankWrite _ _ _ => true
  | .fabCurrentWrite _ _ => true
  | .fabDeviceWrite _ _ => true
  | .read x _ length => x.wf && okBits 16 length
  | .write x _ length bytes => x.wf && okBits 16 length && decide (bytes.length ≤ 4096)
  | .atomic x _ _ _ _ _ => x.wf
  | .squareLineFill line => okBits 50 line.line && okFound line.found
  | .message x m bytes => x.wf && m.wf && decide (bytes.length ≤ 4096)
  | .readData x status bytes => x.wf && okCode status && decide (bytes.length ≤ 256)
  | .atomicData x status _ => x.wf && okCode status
  | .ack a => a.wf
  | .ackTimer device cls => okDevice device && decide (cls ≠ 0)
  | .resendTimer device cls _ => okDevice device && decide (cls ≠ 0)
  | .targetTimeout device => okDevice device
  | .peerContextFree device => okDevice device
  | .kerbsideFetchDone _ ep => okBits 16 ep
  | .epEmptyExpire _ ep => okBits 16 ep
  | .enable _ _ _ => true
  | .epDisable _ _ _ => true
  | .epFlush _ _ _ => true
  | .srqTailWrite _ _ _ _ => true
  | .clear _ _ => true
  | .cobblerFence _ device => okDevice device
  | .hostBar4Access _ offset acc => okBits 48 offset && acc.wf
  | .perst _ => true
  | .functionLevelReset _ => true
  | .rescan _ _ found => found.all fun f => decide (f.serial.length = 20)
  | .send _ _ => true
  | .identify m => m.wf
  | .readReg m _ count => m.wf && okBits 16 count
  | .writeReg m _ values => m.wf && decide (values.length ≤ 65535)
  | .mapInstall m comp epoch total first entries =>
    m.wf && okBits 16 comp && okBits 16 epoch && okBits 16 total && okBits 16 first
      && decide (entries.length ≤ 508) && entries.all MapEntry.wf
  | .mapSwitch m comp epoch => m.wf && okBits 16 comp && okBits 16 epoch
  | .mapRetire m comp epoch => m.wf && okBits 16 comp && okBits 16 epoch
  | .mapRead m comp epoch first => m.wf && okBits 16 comp && okBits 16 epoch && okBits 16 first
  | .eventsRead m seq => m.wf && okBits 64 seq
  | .eventsAck m seq => m.wf && okBits 64 seq
  | .noticeRead m => m.wf
  | .telemetrySet m period => m.wf && okBits 32 period
  | .telemetry => true
  | .alignSet m _ fromDevice targets => m.wf && okDevice fromDevice && targets.all okDevice
  | .reset m => m.wf
  | .relay m device bytes => m.wf && okDevice device && decide (bytes.length ≤ 4096)
  | .report m _ nonce => m.wf && decide (nonce.length = 32)
  | .endorsement m => m.wf
  | .slotWrite m slot _ key _ => m.wf && okBits 8 slot && decide (key.length = 68)
  | .policySet m _ _ _ => m.wf
  | .reclaim m => m.wf
  | .fwStage m kind offset _ => m.wf && okBits 8 kind && okBits 32 offset
  | .bind m _ _ => m.wf
  | .verifyWeights m _ _ => m.wf
  | .verifyWeightsDone _ _ => true
  | .keyRotate m _ => m.wf
  | .sweepPageDone _ page r => okBits 32 page && okFound r.found
  | .keyRetire m _ _ => m.wf
  | .generationRetired _ => true
  | .signatureDone _ => true
  | .getVersion m => m.wf
  | .getCapabilities m => m.wf
  | .negotiateAlgorithms m => m.wf
  | .challenge m nonce => m.wf && decide (nonce.length = 32)
  | .keyExchange m _ _ => m.wf
  | .heartbeat m => m.wf
  | .keyUpdate m => m.wf
  | .endSession m => m.wf
  | .chunkSend m handle chunk _ _ => m.wf && okBits 8 handle && okBits 16 chunk
  | .chunkGet m handle chunk => m.wf && okBits 8 handle && okBits 16 chunk
  | .scrubDone _ => true
  | .dbgChallenge => true
  | .dbgToken token _ => decide (token.length = 64)
  | .dbgLock => true
  | .clockLoopTick tMax tMaxDistrict inlet outlet =>
    okBits 8 tMax && okBits 8 tMaxDistrict && okBits 8 inlet && okBits 8 outlet
  | .powerEstimateTick raw inputW voltage10mV parts =>
    okBits 16 raw && okBits 16 inputW && okBits 16 voltage10mV
      && parts.all fun x => decide (x.1 < 64) && okBits 16 x.2
  | .calibrationTick measured raw => okBits 16 measured && okBits 16 raw
  | .fastLimit _ => true
  | .fastLimitClear => true
  | .startGrant _ => true
  | .blockOffTimer _ => true
  | .blockWakeDone _ => true
  | .blkHintWrite _ _ _ => true
  | .blkArriveRead _ _ => true
  | .blkPeerDelayWrite _ _ _ => true
  | .followExpire _ => true
  | .cutEntry _ _ => true
  | .resume _ _ _ _ => true
  | .doubtCheck _ _ _ => true
  | .quiesce _ _ _ => true
  | .quiesced _ => true
  | .leaseExpire => true
  | .selftestDone _ => true
  | .graceExpire => true
  | .leaseRenew m => m.wf
  | .fence m => m.wf
  | .reinstate m device _ => m.wf && okDevice device
  | .standIn m device => m.wf && okDevice device
  | .teardown m comp => m.wf && okBits 16 comp
  | .doubtRelease m _ _ _ => m.wf
  | .inputPowerArrive _ _ _ _ => true
  | .keptEntry => true
  | .bootMemoryStart dimms stackIds =>
    decide (dimms.length = 16 ∧ stackIds.length = 12) && dimms.all (fun d => (d.map Dimm.wf).getD true)
      && stackIds.all fun x => decide (x.length = 26 ∨ x = [])
  | .verifiedEntry => true
  | .pwrGoodFall _ => true
  | .inputVoltageFault _ _ => true
  | .powerDownDone _ => true
  | .moduleResetN _ _ => true
  | .cabPresent _ _ => true
  | .cabOvercurrent _ _ => true
  | .modReset _ _ => true
  | .intEnableWrite _ _ => true
  | .registerWrite _ _ width _ => decide (width = 1 ∨ width = 2 ∨ width = 4 ∨ width = 8)
  | .vector _ core _ _ _ _ _ => core.wf
  | .benchStore _ core _ off len => core.wf && okBits 18 off && decide (1 ≤ len ∧ len ≤ 64)
  | .cobblerLoadStore _ _ acc => acc.wf
  | .overvoltageHoldExpire _ _ => true
  | .nvmeDriveFailed _ _ => true
  | .pcieLinkTrain _ _ _ width => okBits 5 width
  | .mgmtLinkChange _ _ => true
  | .cabResetRelease _ => true
  | .portBPerstRelease => true
  | .tapInstruction _ => true
  | .debugFlashAccess acc => match acc with
    | .read _ _ off len => okBits 32 off && okBits 32 len
    | .write _ _ off _ => okBits 32 off

end Sys2Proof
end

