-- ==== Sys2Proof/Tests/Slice0.lean ====
section
/-! SUPPORT. Tests. The small states that the tests start from, a witness for the hypotheses of each
statement (theorem witness_<statement>_<clause>, whose last conjunct runs the command on it), the refusals of
WellFormed, and checks of single rules with expected results worked out by hand from the spec. -/

namespace Sys2Proof.Tests
open Sys2Proof Sys2Proof.Machine

/- One theorem after another: the many threads of all at once do not fit the memory that a check allows. -/
set_option Elab.async false

/-- The command answers a next state that passes a check. -/
def goes (o : Out) (q : State → Bool) : Bool :=
  match o with
  | .next t => q t
  | _ => false

/-- A partition of a role with block 0, HBM channel 0, DDR5 channel 0 and model 1. -/
def wPiece (role : Nat) : PartPiece :=
  { role := role, tenant := 1, insoleMax := 0, mirror := 1, ddrMask := 1, tail := 0, powerCap := 0, blockMask := 1,
    hbmMask := 1, modelMask := 2 }

/-- Regions of partition 0: general, Lasts and weights of model 1 in HBM, general and weights in DDR5, tails in
HBM. -/
def wRegions : List PlaceEntry :=
  [{ owner := 0, tier := 1, use := 0, model := 255, pinned := false, start := 0, length := 0x10_0000 },
   { owner := 0, tier := 1, use := 3, model := 255, pinned := false, start := 0x10_0000, length := 0x100_0000 },
   { owner := 0, tier := 1, use := 1, model := 1, pinned := false, start := 0x200_0000, length := 0x1_0000 },
   { owner := 0, tier := 2, use := 0, model := 255, pinned := false, start := 0x300_0000, length := 0x2_0000 },
   { owner := 0, tier := 2, use := 1, model := 1, pinned := false, start := 0x400_0000, length := 0x1_0000 },
   { owner := 0, tier := 1, use := 2, model := 255, pinned := false, start := 0x500_0000, length := 0x10_0000 }]

def wModel : ModelPiece :=
  { owner := 0, model := 1, format := 1, draft := 255, fallback := 255, draftMax := 0, layers := 1, kvHeads := 1,
    head := 0, weightBytes := 64, digest := [] }

def wModule : ModulePiece :=
  { ports := 0x3FFFF, lease := 1000, grace := 10, powerCap := 6000, ramp := 0, flags := 0, spareGroup := 0xFFFF }

def wPattern (role : Nat) : Pattern :=
  { serial := 1, module := some wModule, parts := [(0, wPiece role)], models := [wModel],
    lastClasses := some { keyFormat := 0, valueFormat := 0, capacities := [64, 128] },
    placements := wRegions }

/-- The module Open as device 1, with partition 0 of a role Open. -/
def opened (role : Nat) : State :=
  { regs := { state := 5 }, pattern := some (wPattern role), parts := [(0, { code := 5 })], fab := { device := 1 } }

/-- The state with a lane of partition 0. -/
def withLane (s : State) (n kind : Nat) (items : List Item) : State :=
  { s with lanes := s.lanes.put n { owner := 0, kind := kind, items := items } }

/-- The state with a counter of partition 0. -/
def withCtr (s : State) (n value : Nat) : State :=
  { s with counters := s.counters.put n { owner := 0, value := value } }

/-- Bytes as cells of memory from a key on. -/
def cells (k : Nat) (bs : List Byte) : List Host.Cell :=
  (bs.zipIdx.map fun x => (k + x.2, x.1)).filter fun c => c.2 != 0

/-- A management request on Ethernet in the fabric manager's session 1, with a payload length. -/
def req (length : Nat) : MHdr :=
  { path := .ethernet 0, session := some 1, seq := 7, rsn := 1, length := length, received := length }

/-- The state with the fabric manager's session 1 and the tray controller's session 2 open. -/
def sessions (s : State) : State :=
  s.modTrust fun t => { t with sessions := [{ id := 1, path := .ethernet 0, slot := 8 },
                                            { id := 2, path := .i3c 0, slot := 9 }] }

/-! ### Steps, lanes, counters (03) -/

/-- One command is one step. -/
theorem witness_StepTakesTheFrontCommand :
    goes (step { opened 1 with pending := [.counterAdd ⟨0, .engine⟩ 1 0, .laneRead ⟨0, .engine, false⟩] })
      (fun t => decide (t.pending = [.laneRead ⟨0, .engine, false⟩])) = true ∧
    goes (step { opened 1 with pending := [], now := 4 }) (fun t => decide (t.now = 5)) = true := by
  decide +kernel

/-- A counter at one below the largest value, added to and set (R84, R87). -/
theorem witness_CounterAddAndSet :
    (withCtr (opened 1) 7 0x7FFF_FFFF_FFFF_FFFE).counters.find 7 = some { owner := 0, value := 0x7FFF_FFFF_FFFF_FFFE } ∧
    goes (exec (.counterAdd ⟨7, .engine⟩ 5 3) (withCtr (opened 1) 7 0x7FFF_FFFF_FFFF_FFFE))
      (fun t => decide (t.counter 7 = { owner := 0, value := 0x7FFF_FFFF_FFFF_FFFF, fault := true })) = true ∧
    goes (exec (.counterSet ⟨7, .engine⟩ 0x8000_0000_0000_0002 [1, 2]) (withCtr (opened 1) 7 9))
      (fun t => decide (t.counter 7 = { owner := 0, value := 5, fault := true })) = true ∧
    goes (exec (.counterSet ⟨7, .engine⟩ 2 []) (withCtr (opened 1) 7 9))
      (fun t => decide (t.counter 7 = { owner := 0, value := 2, fault := false })) = true := by
  decide +kernel

/-- Partition 0 with wait slot 2 armed at counter 0, which has reached its threshold. -/
def wWait : State :=
  (withCtr (opened 1) 0 3).modPart 0 fun x => { x with waits := [(2, { armed := true, threshold := 3 })] }

/-- The state with a run in block 0. -/
def wRuns (s : State) : State := { s with blocks := [(0, { pwr := { state := 0 }, eng := { state := 1 } })] }

/-- A host that adds to an owned counter, one that selects a counter it does not own, a wait armed and one
released; a core whose wait is met, one below its threshold, one that waits on a counter not its own. -/
theorem witness_HostCountersAndWaits :
    (hostReaches (withCtr (opened 1) 0 3) (.host 1) 0 ∧ (withCtr (opened 1) 0 3).ownsCtr 0 0 = true ∧
     goes (exec (.ctrAddWrite (.host 1) 0 4) (withCtr (opened 1) 0 3)) (fun t => decide ((t.counter 0).value = 7)) = true ∧
     goes (exec (.ctrValueWrite (.host 1) 0 4) (withCtr (opened 1) 0 3))
      (fun t => decide (t.counter 0 = { owner := 0, value := 4 })) = true) ∧
    (hostReaches (opened 1) (.host 0) 0 ∧ (opened 1).ownsCtr 0 0 = false ∧
     goes (exec (.ctrValueWrite (.host 0) 0 4) (opened 1)) (fun t => decide (t = opened 1)) = true) ∧
    goes (exec (.ctrWaitArm (.host 1) 0 7 0x9F00_0000) (withCtr (opened 1) 0 3))
      (fun t => decide ((t.part 0).waits.at 7 {} = { armed := true, vector := 31, counter := 0 })) = true ∧
    ((wWait.part 0).waits.at 2 {}).armed = true ∧
    ((wWait.part 0).waits.at 2 {}).threshold ≤ (wWait.counter ((wWait.part 0).waits.at 2 {}).counter).value ∧
    goes (exec (.counterWaitRelease (.host 0) (.slot 2)) wWait) (fun t => !((t.part 0).waits.at 2 {}).armed) = true ∧
    (coreRuns (wRuns (withCtr (opened 1) 0 3)) 0 9 = true ∧ (wRuns (withCtr (opened 1) 0 3)).blockOwner 0 = some 0 ∧
     (wRuns (withCtr (opened 1) 0 3)).ownsCtr 0 0 = true ∧
     goes (exec (.counterWaitRelease (.core 0 9 []) (.counter 0 3)) (wRuns (withCtr (opened 1) 0 3)))
      (fun t => decide ((t.core 0 9).pc = 8)) = true ∧
     goes (exec (.counterWaitRelease (.core 0 9 []) (.counter 0 4)) (wRuns (withCtr (opened 1) 0 3)))
      (fun t => decide ((t.core 0 9).pc = 0 ∧ (t.core 0 9).wait = some (0, 4))) = true ∧
     (wRuns (opened 1)).ownsCtr 0 1 = false ∧
     goes (exec (.counterSet ⟨1, .core 0 9 []⟩ 4 []) (wRuns (opened 1)))
      (fun t => decide ((t.block 0).eng.stopCode = 0x0D)) = true ∧
     coreRuns (wRuns (opened 1)) 0 9 = true ∧ (coreAt (wRuns (opened 1)) 0 ⟨9, [.branch none 0x140], none⟩).pc = 0x140 ∧
     goes (exec (.counterSet ⟨1, .core 0 9 [.branch none 0x140]⟩ 4 []) (wRuns (opened 1)))
      (fun t => decide ((t.block 0).eng.stopCode = 0x0D ∧ (t.block 0).eng.faultAt = 0x140)) = true) := by
  decide +kernel

/-- The lane in front of the sixteenth stage, full, and empty (R65, R67, R68). -/
theorem witness_LaneItemsKeepTheirOrder :
    (withLane (opened 1) 5 1 (List.replicate 15 1)).lanes.find 5 =
      some { owner := 0, kind := 1, items := List.replicate 15 1 } ∧
    goes (exec (.laneWrite 5 2 ⟨.awl, false, []⟩) (withLane (opened 1) 5 1 (List.replicate 15 1)))
      (fun t => decide ((t.lane 5).items = List.replicate 15 1 ++ [2])) = true ∧
    goes (exec (.laneWrite 5 2 ⟨.awl, false, []⟩) (withLane (opened 1) 5 1 (List.replicate 16 1)))
      (fun t => decide ((t.lane 5).items = List.replicate 16 1 ∧ (t.lane 5).overrun = true ∧ (t.lane 5).drops = 1)) = true ∧
    goes (exec (.laneRead ⟨5, .engine, false⟩) (withLane (opened 1) 5 1 [3, 4])) (fun t => decide ((t.lane 5).items = [4])) = true ∧
    (lanePop (withLane (opened 1) 0xABC 1 []) 0xABC).1.toNat = 0xABC00 ∧
    goes (exec (.laneRead ⟨5, .engine, false⟩) (withLane (opened 1) 5 1 [])) (fun t => decide ((t.lane 5).items = [])) =
      true ∧
    (List.replicate 14 (1 : Item)).length < 15 ∧
    (match exec (.laneWrite 5 2 ⟨.host, true, []⟩) (withLane (opened 1) 5 1 (List.replicate 14 1)) with
      | .next u => goes (exec (.laneWrite 5 3 ⟨.transport, false, []⟩) u)
          (fun t => decide ((t.lane 5).items = List.replicate 14 1 ++ [3, 2]))
      | _ => false) = true ∧
    (match exec (.laneRead ⟨5, .engine, true⟩) (withLane (opened 1) 5 1 (3 :: List.replicate 15 1)) with
      | .next u => goes (exec (.laneWrite 5 4 ⟨.awl, false, []⟩) u)
          (fun t => decide ((t.lane 5).items = List.replicate 15 1 ++ [4] ∧ (t.lane 5).overrun = false))
      | _ => false) = true := by
  decide +kernel

/-- A core of block 0 writes and reads a lane of its partition; one that names a lane of partition 1 stops
(R191, R201). -/
theorem witness_LaneItemsKeepTheirOrder_cores :
    (let s := wRuns (withLane (opened 1) 5 1 [3])
     coreRuns s 0 1023 = true ∧ s.blockOwner 0 = some 0 ∧ (s.lane 5).owner = 0 ∧
     goes (exec (.laneWrite 5 2 ⟨.core 0 1023, false, []⟩) s)
      (fun t => decide ((t.lane 5).items = [3, 2] ∧ (t.core 0 1023).pc = 8)) = true ∧
     goes (exec (.laneRead ⟨5, .core 0 1023 15 [], false⟩) s) (fun t => decide ((t.lane 5).items = [])) = true) ∧
    (let s := wRuns { opened 1 with lanes := [(5, { owner := 1, kind := 1, items := [3] })] }
     coreRuns s 0 1023 = true ∧ s.lanes.find 5 = some { owner := 1, kind := 1, items := [3] } ∧
     goes (exec (.laneRead ⟨5, .core 0 1023 15 [], false⟩) s)
      (fun t => decide ((t.block 0).eng.stopCode = 0x0D ∧ t.lanes = s.lanes)) = true) := by
  decide +kernel

/-- Lane 3 with a stale-tail timer of 10 us. -/
def wStale : State := { (withLane (opened 1) 3 1 [9]) with
  lanes := [(3, { owner := 0, kind := 1, stale := 10, vector := 3, items := [9], restart := 5 })], now := 15 }

/-- Three words of write slot 0 of partition 0 written. -/
def wSlot : State := (withLane (opened 1) 3 1 []).modPart 0 fun x => { x with
  hostSlots := [(0, { words := [(0, 1), (1, 2), (2, 3)] })] }

/-- The head of lane 4, which read slot 0 gives, captured. -/
def wCaptured : State := (withLane (opened 1) 4 2 [8, 9]).modPart 0 fun x => { x with
  hostSlots := [(0, { captured := some 8 })] }

/-- A timer that is due at this microsecond, the host slots, LANE_CONTROL over a lane with and without items. -/
theorem witness_LaneTimerSlotsAndControl :
    (wStale.lane 3).restart + (wStale.lane 3).stale = wStale.now ∧ (wStale.lane 3).fired = false ∧
    goes (exec (.staleTimer 3) wStale) (fun t => (t.lane 3).staleBit) = true ∧
    pageAnswers wSlot 1 = true ∧ slotLane wSlot 0 0 = some 3 ∧ (wSlot.lane 3).kind = 1 ∧
    goes (exec (.hostSlotWrite 1 0 (.aligned 2) 7) wSlot)
      (fun t => decide ((((t.part 0).hostSlots.at 0 {}).words.at 2 0) = 7)) = true ∧
    goes (exec (.hostSlotWrite 1 0 (.aligned 3) 4) wSlot)
      (fun t => decide ((t.lane 3).items = [0x4_0000000000000003_0000000000000002_0000000000000001])) = true ∧
    pageAnswers wCaptured 1 = true ∧ slotLane wCaptured 0 0 = some 4 ∧ (wCaptured.lane 4).kind = 2 ∧
    goes (exec (.hostSlotWrite 1 0 .other 4) wSlot) (fun t => decide (t = wSlot)) = true ∧
    goes (exec (.hostSlotRead 1 0 (.aligned 8)) wCaptured) (fun t => decide (t.out = [.readValue 1 2])) = true ∧
    goes (exec (.hostSlotRead 1 0 .other) wCaptured) (fun t => decide (t.out = [.unsupported 1])) = true ∧
    goes (exec (.hostSlotRead 1 0 (.aligned 4)) wCaptured) (fun t => decide (t.out = [.readValue 1 8])) = true ∧
    goes (exec (.hostSlotRead 1 0 (.aligned 7)) wCaptured) (fun t => decide ((t.lane 4).items = [9] ∧ t.out = [.readValue 1 0])) = true ∧
    hostReaches wStale (.host 1) 0 ∧ (wStale.lane 3).owner = 0 ∧
    goes (exec (.laneControlWrite (.host 1) 3 7) wStale)
      (fun t => decide ((t.lane 3).intStale = true ∧ (t.lane 3).intArm = false)) = true ∧
    goes (exec (.laneControlWrite (.host 1) 3 1) wSlot) (fun t => decide ((t.lane 3).intArm = true)) = true := by
  decide +kernel

/-- Awl 0 of block 0 with its ring, of 16 entries, almost full; and with a descriptor handed over. -/
def wAwl : State := { opened 1 with awls := [(0, { head := 0xFFFF_FFFF, tail := 0xFFFF_FFFF })] }
def wAwlBusy : State := { opened 1 with awls := [(0, { head := 3, tail := 4 })] }

/-- Tails at and one past the ring's size, across the wrap of the index; base and size of an idle and of a busy
ring (R90). -/
theorem witness_AwlRingRegisters :
    hostReachesBlock wAwl (.host 1) 0 0 ∧ dist32 15 (wAwl.awl 0).head = 2 ^ (wAwl.awl 0).size ∧
    goes (exec (.awlTailWrite (.host 1) 0 0 15) wAwl) (fun t => decide ((t.awl 0).tail = 15 ∧ (t.awl 0).tailError = false)) = true ∧
    2 ^ (wAwl.awl 0).size < dist32 16 (wAwl.awl 0).head ∧
    goes (exec (.awlTailWrite (.host 1) 0 0 16) wAwl)
      (fun t => decide ((t.awl 0).tail = 0xFFFF_FFFF ∧ (t.awl 0).tailError = true)) = true ∧
    goes (exec (.awlRingWrite (.host 1) 0 0 false 0x1_003F) wAwl) (fun t => decide ((t.awl 0).base = 0x1_0000)) = true ∧
    goes (exec (.awlRingWrite (.host 1) 0 0 true 16) wAwl) (fun t => decide ((t.awl 0).size = 16)) = true ∧
    hostReachesBlock wAwlBusy (.host 0) 0 0 ∧ (wAwlBusy.awl 0).head ≠ (wAwlBusy.awl 0).tail ∧
    goes (exec (.awlRingWrite (.host 0) 0 0 true 16) wAwlBusy) (fun t => decide (t = wAwlBusy)) = true ∧
    ringOff 0x1000 4 64 0x1_0011 = 0x1040 := by
  decide +kernel

/-- A descriptor's 64 bytes (Tables 03-10, 04-8): opcode, flags, source, destination, length, limit, rows,
strides, counters, wait value. -/
def wDescBytes (op flags src dst len limit rows sstride dstride waitc sigc wait : Nat) : List Byte :=
  leBytes 1 op ++ [0] ++ leBytes 2 flags ++ leBytes 4 0 ++ leBytes 8 src ++ leBytes 8 dst ++ leBytes 4 len
    ++ leBytes 4 limit ++ leBytes 4 rows ++ leBytes 4 sstride ++ leBytes 4 dstride ++ leBytes 2 waitc
    ++ leBytes 2 sigc ++ leBytes 8 wait ++ leBytes 8 0x77

/-- Awl 1 of block 0 with one descriptor handed over, at the last entry of its ring of 16. -/
def wRing (bs : List Byte) : State :=
  { withCtr (opened 1) 2 5 with awls := [(1, { head := 15, tail := 16 })], mem := cells (15 * 64) bs }

def wMove : State := wRing (wDescBytes 1 0 0x2000 0x1000 64 64 1 64 64 0 0 0)
def wFill : State := wRing (wDescBytes 2 1 0xAB 0x1000 64 64 1 0 64 2 0 5)
def wTack : State := { wRing (wDescBytes 3 0 0x2000 0x3000 8 1 0x1000 0 1 0 0 0) with
  mem := cells (15 * 64) (wDescBytes 3 0 0x2000 0x3000 8 1 0x1000 0 1 0 0 0) ++ [(0x3001, 0x10)] }
def wWaits : State := wRing (wDescBytes 2 1 0xAB 0x1000 64 64 1 0 64 2 0 6)
def wShort : State := wRing (wDescBytes 1 0 0x2000 0x1000 64 63 1 64 64 0 0 0)

/-- What the statements on a descriptor at its turn ask of an Awl's ring: it holds the descriptor `bs`. -/
def awlReady (s : State) (op : Nat) : Bool :=
  let a := s.awl 1
  let r := ringRead s 0 a.base a.size 64 a.head
  decide (awlPart s 1 = some 0 ∧ a.head ≠ a.tail ∧ a.waiting = none ∧ a.jobs.length < 64 ∧ a.job a.head = none
    ∧ r.1 = 0 ∧ (descOf r.2.1).opcode = op ∧ ((descOf r.2.1).ordered = false ∨ a.jobs = [])
    ∧ (s.block 0).halted = false ∧ s.fab.home = [] ∧ (s.part 0).hold.lives = [] ∧ a.owned = []) && !blockSuspect s 0

def wDesc (s : State) : Descriptor :=
  descOf (ringRead s 0 (s.awl 1).base (s.awl 1).size 64 (s.awl 1).head).2.1

/-- A MOVE, a FILL whose wait is met exactly and a TACK start; a FILL one short of its threshold waits; a MOVE one
byte over DST_LIMIT completes with 0x02. -/
theorem witness_AwlDescriptorsTakeTheirTurn :
    (awlReady wMove 1 = true ∧ descCheck wMove 0 (wDesc wMove) = 0 ∧ (wDesc wMove).waits = false ∧
     goes (exec (.move 0 1) wMove) (fun t => decide ((t.awl 1).head = 16 ∧ (t.awl 1).jobs.length = 1)) = true) ∧
    (awlReady wFill 2 = true ∧ descCheck wFill 0 (wDesc wFill) = 0 ∧
     (wFill.counter (wDesc wFill).waitCounter).fault = false ∧
     ctrMet wFill (wDesc wFill).waitCounter (wDesc wFill).waitValue = true ∧
     goes (exec (.fill 0 1) wFill) (fun t => decide ((t.awl 1).head = 16 ∧ (t.awl 1).jobs.length = 1)) = true) ∧
    (awlReady wTack 3 = true ∧ descCheck wTack 0 (wDesc wTack) = 0 ∧ (wDesc wTack).waits = false ∧
     (tackStart wTack 0 { index := 15, desc := wDesc wTack }).2.status = 0 ∧
     goes (exec (.tack 0 1) wTack)
       (fun t => decide (((t.awl 1).jobs.map fun (j : AwlJob) => j.table) = [[some 0x1000]])) = true) ∧
    (awlReady wWaits 2 = true ∧ descCheck wWaits 0 (wDesc wWaits) = 0 ∧ (wDesc wWaits).waits = true ∧
     (wWaits.counter (wDesc wWaits).waitCounter).fault = false ∧
     ctrMet wWaits (wDesc wWaits).waitCounter (wDesc wWaits).waitValue = false ∧
     goes (exec (.fill 0 1) wWaits) (fun t => decide ((t.awl 1).waiting ≠ none ∧ (t.awl 1).jobs = [])) = true) ∧
    (awlReady wShort 1 = true ∧ descCheck wShort 0 (wDesc wShort) = 2 ∧
     goes (exec (.move 0 1) wShort) (fun t => decide ((t.awl 1).lastFail = 2 ∧ (t.awl 1).done = 1)) = true) := by
  decide +kernel

def wJob : AwlJob := { index := 15, desc := wDesc wWaits }
def wWaiting (value : Nat) (fault : Bool) : State :=
  { opened 1 with counters := [(2, { owner := 0, value := value, fault := fault })],
                  awls := [(1, { head := 16, tail := 16, waiting := some wJob })] }
def wReq : AwlReq := { id := 0, read := false, row := 0, off := 0, len := 64 }
def wOneReq : State :=
  { opened 1 with awls := [(1, { head := 16, tail := 16, jobs := [{ wJob with outstanding := [wReq] }] })] }
/-- A FILL of 64 bytes with its one request outstanding. -/
def wFillJob : AwlJob := { index := 15, desc := wDesc wFill, outstanding := [wReq] }
def wFillReq : State := { opened 1 with awls := [(1, { head := 16, tail := 16, jobs := [wFillJob] })] }
def wEnded : State :=
  { withCtr (opened 1) 3 8 with awls := [(1, { jobs := [{ wJob with
      desc := { wJob.desc with flags := 2, signalCounter := 3 }, status := 4 }] })] }

/-- A wait on a faulted counter, one met, a request that fails, a descriptor that ends, a flush (R102 to R106). -/
theorem witness_AwlDescriptorsEnd :
    (awlPart (wWaiting 0 true) 1 = some 0 ∧ ((wWaiting 0 true).awl 1).waiting = some wJob ∧
     ((wWaiting 0 true).counter wJob.desc.waitCounter).fault = true ∧
     goes (exec (.awlWaitRelease 0 1) (wWaiting 0 true)) (fun t => decide ((t.awl 1).lastFail = 8)) = true) ∧
    (ctrMet (wWaiting 6 false) wJob.desc.waitCounter wJob.desc.waitValue = true ∧ wJob.desc.opcode ≠ 3 ∧
     wJob.status = 0 ∧ ((wWaiting 6 false).awl 1).job wJob.index = none ∧
     goes (exec (.awlWaitRelease 0 1) (wWaiting 6 false)) (fun t => decide ((t.awl 1).jobs.length = 1)) = true) ∧
    ((wOneReq.awl 1).jobs = [{ wJob with outstanding := [wReq] }] ∧
     goes (exec (.awlRequestDone 0 1 15 0 (.failed 3)) wOneReq)
       (fun t => decide ((t.awl 1).jobs = [{ wJob with status := 3 }])) = true) ∧
    (awlPart wFillReq 1 = some 0 ∧ (wFillReq.awl 1).jobs = [wFillJob] ∧ wFillJob.desc.opcode ≠ 3 ∧
     wReq.read = false ∧ wReq.way = .own ∧ benchReady wFillReq (reqDst wFillJob wReq) = true ∧
     sourceFailure wFillReq 0 wFillJob.desc (sourceSpans wFillJob.desc 0 0 64) = none ∧
     writeFailure wFillReq 0 (reqDst wFillJob wReq) 64 (coversPage wFillJob.desc) = none ∧
     wFillReq.badWords = [] ∧ allTrusted wFillReq = true ∧
     reqBytes wFillReq 0 { wFillJob with outstanding := [] } wReq =
       (List.replicate 8 ((0xAB : Byte) :: List.replicate 7 0)).flatten ∧
     goes (exec (.awlRequestDone 0 1 15 0 (.acked none)) wFillReq) (fun t =>
       decide ((((t.awl 1).jobs.map fun (j : AwlJob) => j.doneBytes) = [64]) ∧
         memByte t.mem (memKey 0 0x1038) = 0xAB ∧ memByte t.mem (memKey 0 0x1040) = 0)) = true) ∧
    (((wEnded.awl 1).job 15).isSome = true ∧ wEnded.ownsCtr 0 3 = true ∧
     goes (exec (.awlDescriptorComplete 0 1 15) wEnded) (fun t => decide ((t.awl 1).jobs = [] ∧ (t.awl 1).lastFail = 4 ∧
       t.counter 3 = { owner := 0, value := 9, fault := true })) = true) ∧
    (hostReachesBlock wMove (.host 1) 0 0 ∧
     goes (exec (.awlFlush (.host 1) 0 1 1) wMove)
       (fun t => decide ((t.awl 1).head = 16 ∧ (t.awl 1).lastFail = 8 ∧ t.mem = wMove.mem)) = true) := by
  decide +kernel

/-! ### Patterns (02) -/

/-- Verified, with no pattern; a full load of 32 bytes has brought its first 16, TOTAL_LENGTH 32 among them. -/
def wVerified : State := sessions { regs := { state := 2 } }
def wStaged : List Byte := [0x4C, 0x4E, 0x50, 0x41, 1, 0, 0, 255, 32, 0, 0, 0, 0, 0, 0, 0]
def wLoading : State := wVerified.modLoader fun l => { l with receiving := true, staged := wStaged, status := 1 }

/-- BEGIN and ABORT by both ways, for the module and for an undefined partition; the last chunk that fits; its
bytes (R43 to R45, R48). -/
theorem witness_PatternImagesAreLoaded :
    wVerified.loader.busy = false ∧ loaderTakes wVerified (.bar0 0) 0 = true ∧
    loaderTakes wVerified (.mgmt (req 16)) 0 = true ∧ partStopped wVerified 63 = true ∧
    goes (exec (.patBegin (.bar0 0) 255) wVerified) (fun t => decide (t.loader.receiving = true ∧ t.loader.target = 255)) = true ∧
    goes (exec (.patBegin (.mgmt (req 16)) 63) wVerified) (fun t => decide (t.loader.target = 63 ∧ t.loader.status = 1)) = true ∧
    goes (exec (.patAbort (.mgmt (req 16)) 0) wLoading)
      (fun t => decide (t.loader.staged = [] ∧ t.loader.receiving = false)) = true ∧
    wLoading.loader.receiving = true ∧ wLoading.loader.chunks = [] ∧ loaderTakes wLoading (.bar0 0) 0x18 = true ∧
    chunkOk wLoading.loader 16 16 = true ∧ chunkOk wLoading.loader 16 17 = false ∧
    goes (exec (.patChunk (.bar0 0) 16 16 []) wLoading)
      (fun t => decide (t.loader.chunks = [{ offset := 16, length := 16, bytes := none }])) = true ∧
    loaderTakes wLoading (.mgmt (req 32)) 0x18 16 = true ∧ wLoading.loader.knowsTotal = true ∧
    goes (exec (.patChunk (.mgmt (req 32)) 16 0 (List.replicate 16 9)) wLoading)
      (fun t => decide (t.loader.staged = wStaged ++ List.replicate 16 9)) = true ∧
    goes (exec (.chunkDone (some [1, 2])) (wLoading.modLoader fun l =>
        { l with chunks := [{ offset := 16, length := 2, bytes := none }] }))
      (fun t => decide (t.loader.staged = wStaged ++ [1, 2] ∧ t.loader.events.chunkDone = true)) = true := by
  decide +kernel

/-- All 32 bytes received of an image whose magic is wrong, and a commit whose flash write is under way. -/
def wReceived : State := wVerified.modLoader fun l => { l with
  receiving := true, staged := wStaged ++ List.replicate 16 0, status := 1 }
def wCommitting : State := wVerified.modLoader fun l => { l with
  committing := some (wPattern 1), staged := wStaged, status := 2, slotA := { state := 2, kept := some ⟨[], 1, 1⟩ } }

/-- COMMIT of a whole image that fails its first check; the flash write, done and failed (R46, R47, R49, R51). -/
theorem witness_PatternImagesAreCommitted :
    wReceived.loader.busy = false ∧ loaderTakes wReceived (.bar0 0) 0 = true ∧ wReceived.loader.receiving = true ∧
    wReceived.loader.knowsTotal = true ∧ wReceived.loader.received = imageTotal wReceived.loader.staged ∧
    wReceived.loader.target = 255 ∧
    goes (exec (.patCommit (.bar0 0) 255) wReceived) (fun t => decide (t.regs.state = 4 ∧ t.loader.events.failed = true ∧
      t.loader.status = 0x10 ∧ t.pattern = none)) = true ∧
    wCommitting.loader.committing = some (wPattern 1) ∧ wCommitting.loader.target = 255 ∧ wCommitting.regs.state = 2 ∧
    writeSlot wCommitting.loader = true ∧
    goes (exec (.commitFlashDone true) wCommitting) (fun t => decide (t.regs.state = 3 ∧ t.pattern = some (wPattern 1) ∧
      t.loader.slotB.state = 1 ∧ t.loader.slotA.state = 2 ∧ t.code 0 = 3 ∧ t.code 1 = 255)) = true ∧
    goes (exec (.commitFlashDone false) wCommitting) (fun t => decide (t.regs.state = 4 ∧ t.pattern = none ∧
      t.loader.slotB.state = 3 ∧ t.loader.status = 0x50)) = true := by
  decide +kernel

/-- A trial opened at 5, its window 10 ms, in slot A; Patterned; partition 0 Patterned; partition 0 stopping. -/
def wTrial (now : Nat) : State := { sessions (opened 1) with now := now, loader := { (opened 1).loader with
  arg := 9, fullTrial := some { serial := 9, window := 10, openedAt := some 5 },
  slotA := { state := 1, kept := some ⟨[], 9, 0⟩, running := true } } }
def wConfirming : State := (wTrial 6).modLoader fun l => { l with confirming := some 255 }
def wPatterned : State := { opened 1 with regs := { state := 3 }, parts := [(0, { code := 3 })], now := 77 }
def wPartPatterned : State := withCtr (withLane { opened 1 with parts := [(0, { code := 3 })] } 1 1 [5]) 2 6
def wStopping : State := { opened 1 with parts := [(0, { code := 5, stopping := true })] }

/-- CONFIRM in the window's last microsecond, its record, the window's end; OPEN of the module and of a
partition; STOP and its end (R51 to R53, R58, R62). -/
theorem witness_TrialsAreConfirmedAndPatternsOpen :
    (loaderTakes (wTrial 10004) (.bar0 0) 0 = true ∧ (wTrial 10004).loader.confirming = none ∧
     confirmOk (wTrial 10004) 255 = true ∧
     goes (exec (.patConfirm (.bar0 0) 255 0) (wTrial 10004)) (fun t => decide (t.loader.confirming = some 255)) = true ∧
     confirmOk ((wTrial 10004).modLoader fun l => { l with arg := 9 }) 255 = true ∧
     goes (exec (.patConfirm (.mgmt (req 16)) 255 9) (wTrial 10004)) (fun t => decide (t.loader.confirming = some 255)) = true) ∧
    (wConfirming.loader.confirming = some 255 ∧ wConfirming.loader.confirmWaiting = [] ∧ runningSlot wConfirming.loader = some false ∧
     goes (exec (.confirmRecordDone true) wConfirming) (fun t => decide (t.loader.slotA.state = 2 ∧
       t.loader.serialFloor = 9 ∧ t.loader.fullTrial = none)) = true) ∧
    (5 + 1000 * 10 ≤ (wTrial 10005).now ∧ (wTrial 10005).loader.confirming = none ∧ (wTrial 10005).loader.confirmWaiting = [] ∧
     goes (exec (.confirmExpired 255) (wTrial 10005)) (fun t => t.loader.events.confirmExpired) = true) ∧
    (loaderTakes wPatterned (.bar0 0) 0 = true ∧ wPatterned.regs.state = 3 ∧
     goes (exec (.patOpen (.bar0 0) 255) wPatterned) (fun t => decide (t.regs.state = 5 ∧ t.code 0 = 5 ∧
       t.faults.leaseAt = 77)) = true) ∧
    (loaderTakes wPartPatterned (.bar0 0) 0 = true ∧ wPartPatterned.regs.state = 5 ∧ wPartPatterned.code 0 = 3 ∧
     (wPartPatterned.part 0).trust.owed = false ∧
     goes (exec (.patOpen (.bar0 0) 0) wPartPatterned) (fun t => decide (t.code 0 = 5 ∧ (t.lane 1).items = [] ∧
       (t.counter 2).value = 0)) = true) ∧
    (loaderTakes (opened 1) (.bar0 0) 0 = true ∧ (opened 1).code 0 = 5 ∧
     goes (exec (.patStop (.bar0 0) 0) (opened 1)) (fun t => (t.part 0).stopping) = true) ∧
    ((wStopping.part 0).stopping = true ∧ wStopping.code 0 = 5 ∧ (wStopping.part 0).hold.step = none ∧
     goes (exec (.stopDrain 0) wStopping) (fun t => decide (t.code 0 = 3 ∧ (t.part 0).stopping = false)) = true) := by
  decide +kernel

/-! ### The Last service (04, 05) -/

/-- A service request for slot 3 from partition 3 of device 2, TAG 5. -/
def svc (op : Byte) (posA posB : Nat) (value : Word) : SvcHdr :=
  { op := op, status := 0, reply := false, discard := false, partner := false, handoffSeq := 0, tag := 5
    fromDevice := 2, fromPartition := 3, handle := mkHandle 1 0 7 3, handle2 := allOnes64
    posA := posA, posB := posB, value := value, msgId := 11, epoch := 0 }

/-- A held Last of 10 positions in class 0 (capacity 64), and the cache partition with it in slot 3. -/
def wEntry : DirEntry :=
  { state := 1, tier := 1, reuse := 7, base := 0x11_0000, length := 10, holderTag := 5, holderDevice := 2
    holderPartition := 3, layers := 1, kvHeads := 1, model := 1 }
def wCache (e : DirEntry) : State := (opened 2).modPLast 0 fun l => { l with dir := [(3, e)] }
def wIdle : DirEntry := { wEntry with state := 2, holderTag := 0, holderDevice := 0, holderPartition := 0 }

/-- The code of the one reply put on the boundary. -/
def replyCode (t : State) : Option Byte :=
  match t.out with
  | [.service _ _ r _] => some r.status
  | _ => none

/-- The cache with COMMITs held, their FROM above LENGTH. -/
def wHeld (held : List SvcHdr) : State :=
  (wCache wEntry).modPLast 0 fun l => { l with heldCommits := [(3, held)] }

/-- What COMMIT's statement asks of the sender: it is the holder of a live Last in STATE 1. -/
def holds (s : State) (h : SvcHdr) : Bool :=
  decide (serviceTaken s 0 h.op h ∧ (dirAt s 0 (handleSlot h.handle)).state = 1) && liveHandle s 0 h.handle
    && isCache s 0 && fromHolder (dirAt s 0 (handleSlot h.handle)) h

/-- COMMIT above the capacity, at LENGTH, from LENGTH, above LENGTH with three and with four held; by another
sender; a held COMMIT whose FROM is reached (R160). -/
theorem witness_CommitRaisesLengthInOrder :
    holds (wCache wEntry) (svc 2 10 65 0) = true ∧ capOf (wCache wEntry) 0 = 64 ∧
    goes (exec (.commit 0 (svc 2 10 65 0)) (wCache wEntry)) (fun t => decide (replyCode t = some 2)) = true ∧
    goes (exec (.commit 0 (svc 2 9 10 0)) (wCache wEntry)) (fun t => decide (replyCode t = some 0 ∧ dirAt t 0 3 = wEntry)) = true ∧
    goes (exec (.commit 0 (svc 2 10 64 0)) (wCache wEntry))
      (fun t => decide (replyCode t = some 0 ∧ dirAt t 0 3 = { wEntry with length := 64 })) = true ∧
    holds (wHeld (List.replicate 3 (svc 2 11 12 0))) (svc 2 11 12 0) = true ∧
    heldAbove (wHeld (List.replicate 3 (svc 2 11 12 0))) 0 3 = 3 ∧
    goes (exec (.commit 0 (svc 2 11 12 0)) (wHeld (List.replicate 3 (svc 2 11 12 0))))
      (fun t => decide (t.out = [] ∧ heldAbove t 0 3 = 4)) = true ∧
    heldAbove (wHeld (List.replicate 4 (svc 2 11 12 0))) 0 3 = 4 ∧
    goes (exec (.commit 0 (svc 2 11 12 0)) (wHeld (List.replicate 4 (svc 2 11 12 0))))
      (fun t => decide (replyCode t = some 0x0B)) = true ∧
    serviceTaken (wCache wEntry) 0 2 { svc 2 10 11 0 with fromPartition := 4 } ∧
    fromHolder (dirAt (wCache wEntry) 0 3) { svc 2 10 11 0 with fromPartition := 4 } = false ∧
    goes (exec (.commit 0 { svc 2 10 11 0 with fromPartition := 4 }) (wCache wEntry))
      (fun t => decide (replyCode t = some 0x0D)) = true ∧
    fromHolder { wEntry with state := 3 } (svc 2 11 12 0) = true ∧
    goes (exec (.commit 0 (svc 2 11 12 0)) (wCache { wEntry with state := 3 })) (fun t => decide (t.out = [] ∧
      (t.part 0).last.heldCommits.at 3 [] = [svc 2 11 12 0])) = true ∧
    rebuildRuns (wCache wEntry) 0 = false ∧
    ((wHeld [svc 2 10 12 0]).part 0).last.heldCommits.at 3 [] = [svc 2 10 12 0] ∧
    goes (exec (.commitHeldResume 0 3) (wHeld [svc 2 10 12 0]))
      (fun t => decide (replyCode t = some 0 ∧ (dirAt t 0 3).length = 12)) = true := by
  decide +kernel

/-- Shape of a Last of 1 layer, 1 KV head, D 64, model 1 (Table 05-4). -/
def wShape : Word := 0x0100_0101

/-- An allocation, an OPEN of an idle Last with exactly enough room, and the partner's OPEN (R154, R155). -/
theorem witness_OpenNamesTheHolder :
    directory (opened 2) 0 = some (256, 0x10_0000) ∧ isCache (opened 2) 0 = true ∧ partnerOf (opened 2) 0 = none ∧
    serviceTaken (opened 2) 0 1 { svc 1 65 0 wShape with handle := 0x0000_FCFF_FFFF_FFFF } ∧ isAllocation (0x0000_FCFF_FFFF_FFFF) = true ∧
    lMax (opened 2) = 128 ∧ shapeOf wShape = some (1, 1, 0, 1) ∧ freeSlot (opened 2) 0 256 = some 0 ∧
    classFor (opened 2) 65 = some 1 ∧ findRun (opened 2) 0 1 (footprint (opened 2) 1 1 1 0) = some 0x11_0000 ∧
    goes (exec (.openLast 0 { svc 1 65 0 wShape with handle := 0x0000_FCFF_FFFF_FFFF }) (opened 2))
      (fun t => decide (replyCode t = some 0 ∧ (dirAt t 0 0).cls = 1 ∧ (dirAt t 0 0).holderTag = 5)) = true ∧
    serviceTaken (wCache wIdle) 0 1 (svc 1 54 0 wShape) ∧ liveHandle (wCache wIdle) 0 (mkHandle 1 0 7 3) = true ∧
    sameShape wIdle wShape = true ∧ slotBusy (wCache wIdle) 0 3 = false ∧ wIdle.length + 54 = capOf (wCache wIdle) 0 ∧
    goes (exec (.openLast 0 (svc 1 54 0 wShape)) (wCache wIdle))
      (fun t => decide (replyCode t = some 0 ∧ (dirAt t 0 3).state = 1 ∧ (dirAt t 0 3).holderTag = 5)) = true ∧
    liveHandle (wCache wIdle) 0 (svc 1 54 0 wShape).handle = true ∧
    goes (exec (.openPartner 0 { svc 1 54 0 wShape with partner := true, handle2 := 0x4_0009 } 10) (wCache wIdle))
      (fun t => decide (replyCode t = some 0 ∧ (dirAt t 0 3).holderDevice = 9 ∧ (dirAt t 0 3).holderPartition = 4)) = true := by
  decide +kernel

/-- RELEASE, TRANSFER and GROW by the holder and by others (R166, R169, R173, R175). -/
theorem witness_ReleaseTransferAndGrow :
    holds (wCache wEntry) (svc 3 0 0 0) = true ∧
    goes (exec (.release 0 (svc 3 0 0 0)) (wCache wEntry)) (fun t => decide (replyCode t = some 0 ∧ dirAt t 0 3 = wIdle)) = true ∧
    fromHolder wEntry { svc 3 0 0 0 with tag := 6 } = false ∧
    goes (exec (.release 0 { svc 3 0 0 0 with tag := 6 }) (wCache wEntry))
      (fun t => decide (replyCode t = some 0x0B ∧ dirAt t 0 3 = wEntry)) = true ∧
    holderOf wEntry = 0x3_0002 ∧
    goes (exec (.transfer 0 { svc 4 0 0 0x3_0002 with fromDevice := 8 }) (wCache wEntry))
      (fun t => decide (replyCode t = some 0 ∧ (dirAt t 0 3).holderDevice = 8)) = true ∧
    goes (exec (.transfer 0 { svc 4 0 0 0x3_0009 with fromDevice := 8 }) (wCache wEntry))
      (fun t => decide (replyCode t = some 0x0B)) = true ∧
    holderOf wEntry ≠ (svc 4 0 0 0x3_0009).value ∧ holderOf wEntry = holderValue 2 3 ∧ wEntry.holderTag ≠ 0 ∧
    goes (exec (.transfer 0 (svc 4 0 0 0x3_0009)) (wCache wEntry))
      (fun t => decide (replyCode t = some 0 ∧ dirAt t 0 3 = wEntry)) = true ∧
    fromHolder { wEntry with state := 3 } (svc 8 65 0 0) = true ∧ lMax (wCache wEntry) = 128 ∧
    goes (exec (.grow 0 (svc 8 65 0 0)) (wCache { wEntry with state := 3 })) (fun t => decide (t.out = [] ∧
      (t.part 0).last.heldGrows.at 3 [] = [svc 8 65 0 0])) = true ∧
    slotBusy (wCache wEntry) 0 3 = false ∧ openGrows (wCache wEntry) 0 3 = [] ∧
    goes (exec (.grow 0 (svc 8 64 0 0)) (wCache wEntry)) (fun t => decide (replyCode t = some 0)) = true ∧
    holds (wCache wEntry) (svc 8 65 0 0) = true ∧ classFor (wCache wEntry) 65 = some 1 ∧
    findRun (setDir (wCache wEntry) 0 3 { wEntry with state := 3 }) 0 1 (footprint (wCache wEntry) 1 1 1 0) = some 0x12_0000 ∧
    goes (exec (.grow 0 (svc 8 65 0 0)) (wCache wEntry))
      (fun t => decide (t.out = [] ∧ (dirAt t 0 3).state = 3 ∧ (t.part 0).last.jobs.has 3 = true)) = true := by
  decide +kernel

/-- Slot 3 with a job under way. -/
def wCopying (e : DirEntry) (j : LastJob) : State := (wCache e).modPLast 0 fun l => { l with jobs := [(3, j)] }
def wGrowth : LastJob :=
  { kind := 0, newBase := 0x12_0000, newCls := 1, newTier := 1, size := 0x1_0000, waiting := some (svc 8 65 0 0) }

/-- A copy ends for GROW, for OPEN and for a downward move, and fails for GROW; the check that is due; the rebuild
of the partner (R129, R156, R176, R177, R186, R310). -/
theorem witness_LastCopiesEndAndIdleLastsAge :
    (jobCopy (wCopying { wEntry with state := 3 } wGrowth) 0 3 wGrowth 0).1 = 0 ∧
    lastWaits (wCopying { wEntry with state := 3 } wGrowth) 0 3 wGrowth = false ∧ unreachable (wCopying { wEntry with state := 3 } wGrowth) 2 = false ∧
    goes (exec (.lastGrowthCopyDone ⟨0, none⟩ 3 0) (wCopying { wEntry with state := 3 } wGrowth)) (fun t =>
      decide (replyCode t = some 0 ∧ dirAt t 0 3 = { wEntry with base := 0x12_0000, cls := 1 })) = true ∧
    goes (exec (.lastGrowthCopyDone ⟨0, none⟩ 3 4) (wCopying { wEntry with state := 3 } wGrowth)) (fun t =>
      decide (replyCode t = some 4 ∧ dirAt t 0 3 = wEntry)) = true ∧
    goes (exec (.lastPromotionDone ⟨0, none⟩ 3 0) (wCopying { wIdle with state := 4, tier := 2, base := 0x300_0000 }
        { wGrowth with kind := 2, newCls := 0, waiting := some (svc 1 54 0 wShape) })) (fun t =>
      decide (replyCode t = some 0 ∧ (dirAt t 0 3).tier = 1 ∧ (dirAt t 0 3).holderTag = 5)) = true ∧
    goes (exec (.lastTierMoveDone ⟨0, none⟩ 3 0) (wCopying { wIdle with state := 4 }
        { wGrowth with kind := 3, newBase := 0x300_0000, newCls := 0, newTier := 2, waiting := none })) (fun t =>
      decide (dirAt t 0 3 = { wIdle with base := 0x300_0000, tier := 2 })) = true ∧
    goes (exec (.lastOldFootprintFree 0 3) ((wCache wEntry).modPLast 0 fun l => { l with
        olds := [⟨3, 0x11_0000, 0x1_0000, 0⟩, ⟨3, 0x12_0000, 0x1_0000, 1⟩, ⟨4, 0x13_0000, 0x1_0000, 0⟩] })) (fun t =>
      decide ((t.part 0).last.olds.map (fun (o : OldFootprint) => o.base) = [0x12_0000, 0x13_0000])) = true := by
  decide +kernel

/-- The last microsecond of the aging of a Last whose REUSE is the largest. -/
def wAged : State := { wCache { wIdle with reuse := 65534 } with now := (ttlOf (wCache wIdle) 0).1 }

/-- The pair of two modules that keeps factor 2, its map naming partition 0 of this module 1 and of module 2. -/
def wPair : State :=
  { ((wCache wIdle).modPLast 0 fun l => { l with rebuildEpoch := 1 }) with
    pattern := some { wPattern 2 with parts := [(0, { wPiece 2 with mirror := 2 })] }
    fab := { (wCache wIdle).fab with device := 1 }
    mgmt := { comps := [(5, { current := some { epoch := 1, entries :=
      [{ device := 1, partition := 0, role := 2, partner := 1 }, { device := 2, partition := 0, role := 2, partner := 0 }] } })] } }

theorem witness_IdleLastsAge :
    wAged.code 0 = 5 ∧ isCache wAged 0 = true ∧ (wAged.part 0).last.lastCheck + 1000000 ≤ wAged.now ∧
    (ttlOf wAged 0).1 + (ttlOf wAged 0).2.1 + (ttlOf wAged 0).2.2 = wAged.now - 0 ∧
    (wAged.part 0).last.dir.find 3 = some { wIdle with reuse := 65534 } ∧ slotBusy wAged 0 3 = false ∧
    goes (exec (.lastTtlCheck 0) wAged) (fun t => decide (dirAt t 0 3 = { reuse := 0 })) = true ∧
    partnerOf wPair 0 = some (2, 0) ∧ (wPair.part 0).last.partnerLost = false ∧ (wPair.part 0).last.newcomer = false ∧
    (wPair.part 0).last.rebuildEpoch = stampEpoch wPair 0 ∧ nextRebuild wPair 0 = some 3 ∧
    unreachable wPair 2 = false ∧ heldShape wIdle = wShape ∧
    goes (exec (.lastRebuild 0) wPair) (fun t => decide ((t.part 0).last.rebuildNext = 4 ∧
      (t.part 0).last.rebuilding = [3]) && match t.out with
        | [.service 2 0 h []] => h.partner && decide (h.handle = mkHandle 2 0 7 3 ∧ h.op = 1)
        | _ => false) = true := by
  decide +kernel

/-- A QUERY of 1 token over the 10 positions of the Last in slot 3: its header of 64 bytes and its BF16 head. -/
def wQuery : List Byte := [1, 1, 0, 0] ++ List.replicate 188 0
def wQueryHdr : SvcHdr := svc 5 0 10 1
def wJobOfQuery : QueryJob := { h := wQueryHdr, payload := wQuery, slot := 3, base := 0x11_0000, cls := 0 }
def wServing : State := (wCache { wEntry with readers := 1 }).modPLast 0 fun l => { l with queries := [wJobOfQuery] }

/-- A QUERY that passes its checks up to LENGTH, one past LENGTH, and the end of its reads (R245 to R249). -/
theorem witness_QueriesAreServed :
    serviceTaken (wCache wEntry) 0 5 wQueryHdr ∧
    queryCheck (wCache wEntry) 0 wQueryHdr (queryShape wQueryHdr wQuery) wQuery.length = 0 ∧
    (queryShape wQueryHdr wQuery).queries = 1 ∧ ((wCache wEntry).part 0).last.stripeMin = 0 ∧
    goes (exec (.query 0 wQueryHdr wQuery) (wCache wEntry))
      (fun t => decide (t.out = [] ∧ (dirAt t 0 3).readers = 1 ∧ (t.part 0).last.queries = [wJobOfQuery])) = true ∧
    queryCheck (wCache wEntry) 0 { wQueryHdr with posB := 11 } (queryShape wQueryHdr wQuery) wQuery.length = 2 ∧
    goes (exec (.query 0 { wQueryHdr with posB := 11 } wQuery) (wCache wEntry))
      (fun t => decide (replyCode t = some 2 ∧ (t.part 0).last.served = 1)) = true ∧
    (wServing.part 0).last.queries = [wJobOfQuery] ∧ readCode wServing 0 0x11_0000 (10 * 256) = 0 ∧
    repairing wServing 0 3 = false ∧ unreachable wServing 2 = false ∧
    goes (exec (.queryChunksDone ⟨0, none⟩ 2 3 11) wServing)
      (fun t => decide (replyCode t = some 0 ∧ (dirAt t 0 3).readers = 0 ∧ (t.part 0).last.queries = [])) = true := by
  decide +kernel

/-! ### Holders (04, 05, 07, 08) -/

/-- A request of TAG 5 and model 1 that has been granted the Last of slot 3. -/
def wReqRec : Record :=
  { phase := 4, model := 1, tag := 5, last := mkHandle 1 0 7 3, seq := 10, length := 10, tailBase := 10
    tail := 0x500_0000, promptTokens := 10 }
def wLive : Live := { req := wReqRec, charged := true, granted := true, capacity := 64, inBatch := true }

/-- A partition of a role with its live requests and an output lane 2. -/
def holder (role : Nat) (lives : List Live) : State :=
  withLane ((opened role).modHold 0 fun h => { h with lives := lives }) 2 2 []

/-- A service request of this partition, waiting as message 21. -/
def wSent (op : Byte) (posB : Nat) : SvcSent :=
  { h := { svc op 0 posB 0 with msgId := 21, handle := mkHandle 1 0 7 3 }, toDevice := 1, toPart := 0, sentAt := 0 }
def waitsOn (s : State) (x : SvcSent) : State := s.modPLast 0 fun l => { l with sent := [(21, x)] }
def wReply (op : Byte) : SvcHdr := { svc op 10 64 0x11_0000 with msgId := 21, reply := true, handle := mkHandle 1 0 7 3 }

def wGranting : State :=
  waitsOn (holder 1 [{ wLive with granted := false, inBatch := false, req := { wReqRec with phase := 0 } }]) (wSent 1 0)
def wCommitSent : State :=
  waitsOn (holder 1 [{ wLive with commitsPrimary := [(0, 20)], req := { wReqRec with seq := 20 } }]) (wSent 2 20)
def wInStep : State := (holder 1 [wLive]).modHold 0 fun h => { h with step := some { start := 0, streams := [5] } }
def wSlotted : State := wInStep.modPLast 0 fun l => { l with cancels := [(7, { vector := 3, tag := 5 })] }
def wBacklog : State := (withLane (holder 1 []) 2 2 (List.replicate 15 1)).modHold 0 fun h => { h with backlog := [⟨8, true⟩, ⟨9, true⟩] }

/-- A request that has ended, its final item first in the backlog. -/
def wEndedLive : State := (holder 1 [{ wLive with ended := true, req := { wReqRec with phase := 5 } }]).modHold 0
  fun h => { h with backlog := [⟨tokenItem 0 true true 5 0 0, true⟩] }

/-- A GRANT, the answer to a COMMIT, cancels by message and by slot of a request in a step and of an unknown one,
the output backlog with room for one item (R69, R154, R160, R178 to R181). -/
theorem witness_GrantsCancelsAndBacklog :
    (wGranting.code 0 = 5 ∧ (wReply 1).reply = true ∧ (wReply 1).status = 0 ∧
     (wGranting.part 0).last.sent.find 21 = some (wSent 1 0) ∧ (liveOf wGranting 0 5).isSome = true ∧
     (wSent 1 0).h.handle = wReqRec.last ∧
     goes (exec (.grantReceived 0 (wReply 1) [] none) wGranting) (fun t => decide
       ((liveOf t 0 5).map (fun (l : Live) => (l.granted, l.capacity, l.req.phase, l.req.length)) = some (true, 64, 1, 10))) = true) ∧
    ((wCommitSent.part 0).last.sent.find 21 = some (wSent 2 20) ∧ wReqRec.mirror = allOnes64 ∧ (wSent 2 20).h.handle ≠ allOnes64 ∧
     goes (exec (.serviceReply 0 (wReply 2) []) wCommitSent) (fun t => decide
       ((liveOf t 0 5).map (fun (l : Live) => l.req.length) = some 20)) = true) ∧
    (serviceTaken wInStep 0 7 (svc 7 0 0 0) ∧ (wInStep.part 0).hold.step ≠ none ∧
     goes (exec (.cancel 0 (svc 7 0 0 0)) wInStep) (fun t => decide (t.out = [] ∧
       (liveOf t 0 5).map (fun (l : Live) => l.req.cancel) = some true)) = true ∧
     liveOf wInStep 0 6 = none ∧
     goes (exec (.cancel 0 { svc 7 0 0 0 with tag := 6 }) wInStep) (fun t => decide (replyCode t = some 1)) = true) ∧
    (hostReaches wSlotted (.host 1) 0 ∧ ((wSlotted.part 0).last.cancels.at 7 {}).armed = false ∧
     goes (exec (.cancelSubmit (.host 1) 0 7 0x8300_0000) wSlotted) (fun t => decide
       (((t.part 0).last.cancels.at 7 {}).armed = true ∧ (liveOf t 0 5).map (fun (l : Live) => l.req.cancel) = some true)) = true ∧
     goes (exec (.cancelSubmit (.host 1) 0 6 0x8300_0000) wSlotted) (fun t => decide
       ((t.part 0).last.cancels.at 6 {} = { armed := false, status := 1, vector := 3 })) = true) ∧
    ((wBacklog.part 0).hold.backlog = [⟨8, true⟩, ⟨9, true⟩] ∧ outputLane wBacklog 0 = some 2 ∧ (wBacklog.lane 2).items.length = 15 ∧
     goes (exec (.outputBacklogDrain 0) wBacklog) (fun t => decide ((t.lane 2).items = List.replicate 15 1 ++ [8] ∧
       (t.part 0).hold.backlog = [⟨9, true⟩])) = true) ∧
    ((recOf wEndedLive 0 5).map (·.ended) = some true ∧ liveOf wEndedLive 0 5 = none ∧
     outputLane wEndedLive 0 = some 2 ∧ (wEndedLive.lane 2).items = [] ∧
     goes (exec (.cancel 0 (svc 7 0 0 0)) wEndedLive) (fun t => decide (replyCode t = some 1)) = true ∧
     goes (exec (.outputBacklogDrain 0) wEndedLive) (fun t => decide (recOf t 0 5 = none)) = true) := by
  decide +kernel

def wTaken : Taking := { req := { wReqRec with phase := 3, tail := 0x500_0000 }, h := svc 6 0 0 0 }
def wTaking : State := (waitsOn (holder 1 []) (wSent 4 0)).modHold 0 fun h => { h with taking := [wTaken] }
def wTakingLate : State := wTaking.modHold 0 fun h => { h with step := some { start := 0, streams := [] } }
def wHanding : State := waitsOn (holder 0 [{ wLive with
  inBatch := false, handoffTo := some 2, req := { wReqRec with phase := 3, nextDue := 40 } }]) (wSent 6 0)
def wCancelSent : State := { waitsOn ((holder 0 []).modPLast 0 fun l => { l with
  cancels := [(1, { armed := true, vector := 9, tag := 5 })] }) { wSent 7 0 with slots := [1] } with now := 2000 }
def wForward : State := { (holder 0 []).modPLast 0 fun l => { l with forwards := [⟨5, 1, 0, 0⟩, ⟨5, 1, 0, 1⟩, ⟨6, 1, 0, 0⟩] } with
  now := 2000000 }

/-- The last TRANSFER reply, the HANDOFF reply, a CANCEL with no reply at HO_TIMEOUT, a request past NEXT_DUE, a
forwarding entry at its end, a HANDOFF refused and one taken (R162 to R169, R181). -/
theorem witness_HandOffsMoveRequests :
    ((wTaking.part 0).last.sent.find 21 = some (wSent 4 0) ∧ takingOf wTaking 0 5 = some wTaken ∧
     wTaken.req.mirror = allOnes64 ∧ recOf wTaking 0 5 = none ∧ (wTaking.part 0).hold.step = none ∧
     goes (exec (.transferReply 0 (wReply 4)) wTaking) (fun t => decide (replyCode t = some 0 ∧
       (liveOf t 0 5).map (fun (l : Live) => (l.inBatch, l.req.phase, l.req.tail)) = some (true, 4, 0x500_0000))) = true ∧
     goes (exec (.transferReply 0 (wReply 4)) wTakingLate) (fun t => decide (t.out = [] ∧
       takingOf t 0 5 = some { wTaken with ready := true })) = true) ∧
    ((wHanding.part 0).last.sent.find 21 = some (wSent 6 0) ∧
     goes (exec (.handoffReply 0 { wReply 6 with value := 0x4_0009 }) wHanding) (fun t => decide (liveOf t 0 5 = none ∧
       (t.part 0).last.forwards = [⟨5, 9, 4, 0⟩] ∧ (t.part 0).last.lastTarget = some 2)) = true) ∧
    (goes (exec (.serviceTimeout 0 21) wCancelSent) (fun t => decide ((t.part 0).last.sent.find 21 = none ∧
       (t.part 0).last.cancels.at 1 {} = { armed := false, vector := 9, status := 3, tag := 5 })) = true) ∧
    (wReqRec.last ≠ allOnes64 ∧ (liveOf wHanding 0 5).map (fun (l : Live) => l.copies == []) = some false ∧
     goes (exec (.handoffNextDue 0 5) { wHanding with now := 41 }) (fun t => decide
       ((liveOf t 0 5).map (fun (l : Live) => (l.releasing, l.finalCode)) = some (true, 0x0B))) = true) ∧
    goes (exec (.forwardingExpire 0 5) wForward) (fun t => decide
       ((t.part 0).last.forwards = [⟨5, 1, 0, 1⟩, ⟨6, 1, 0, 0⟩])) = true ∧
    (serviceTaken (holder 1 []) 0 6 (svc 6 0 0 0) ∧ (holder 1 []).role 0 = 1 ∧ ((holder 1 []).part 0).hold.step = none ∧
     modelSet (holder 1 []) 0 (recordOf (recordBytes { wReqRec with model := 9 })).model = false ∧
     goes (exec (.handoff 0 (svc 6 0 0 0) (recordBytes { wReqRec with model := 9 })) (holder 1 []))
       (fun t => decide (replyCode t = some 0x0B)) = true ∧
     modelSet (holder 1 []) 0 (recordOf (recordBytes wReqRec)).model = true ∧ freeTails (holder 1 []) 0 1 = 2 ∧
     fitsNoSlot (holder 1 []) 0 1 = false ∧ ((holder 1 []).part 0).hold.moves = [] ∧
     goes (exec (.handoff 0 (svc 6 0 0 0) (recordBytes wReqRec)) (holder 1 []))
       (fun t => decide ((takingOf t 0 5).isSome = true ∧ (t.part 0).last.sent.length = 1)) = true ∧
     (wInStep.part 0).hold.step ≠ none ∧ wInStep.role 0 = 1 ∧
     goes (exec (.handoff 0 (svc 6 0 0 0) (recordBytes { wReqRec with nextDue := 30 })) { wInStep with now := 70 })
       (fun t => decide (((t.part 0).hold.handoffs.map fun x => x.2.nextDue) = [100])) = true) := by
  decide +kernel

/-- A request item of TAG 5, customer 7: model and prompt length in tokens; FIRST_DUE 100. -/
def wItem (model tokens : Nat) : Item :=
  itemOf ([1] ++ leBytes 1 model ++ leBytes 2 7 ++ leBytes 6 5 ++ leBytes 8 0x0000_FCFF_FFFF_FFFF ++ leBytes 6 0
    ++ leBytes 3 tokens ++ leBytes 3 100 ++ leBytes 2 0)
def wAdmit (it : Item) : State := { (withLane ((holder 0 []).modPart 0 fun x => { x with
  trust := { x.trust with verified := [1] } }) 1 1 [it, 3]) with now := 50 }
def wCharged : State := { wAdmit (wItem 1 20) with tolls := [(7, { owner := 0, level := 20, depth := 20 })] }
def wRefill : State := { opened 0 with
  tolls := [(7, { owner := 0, level := -3, depth := 20, refill := 9, interval := 10, lastRefill := 5, pending := true
                  sDepth := 4, sRefill := 8, sInterval := 10 })], now := 15 }
def wWalking : State := holder 0 [{ wLive with walking := true, walkTable := some 0, req := { wReqRec with phase := 0, promptTokens := 1 } }]
def wPrefix (noted : Bool) (moves : Nat) : State := holder 0 [{ wLive with
  copy := some ⟨mkHandle 1 0 7 3, 0x11_0000, 0, noted, noted, 1, moves, false⟩
  base := 0x12_0000, walkMatch := 1, req := { wReqRec with phase := 1, prefixTokens := 64 } }]
/-- One with an activation region, while its block is in Doubt. -/
def wNoting : State := { (wPrefix false 0).modFlt fun f => { f with doubt := [.block 0] } with
  pattern := some { wPattern 0 with placements := wRegions ++
    [{ owner := 0, tier := 1, use := 4, model := 255, pinned := false, start := 0x600_0000, length := 0x1_0000 }] } }

/-- Items refused, taken in, and charged to the last token of a Tollgate; the refill that is due with staged
parameters; the end of a walk; a prefix copy kept and given up (R262, R266, R268, R272 to R274). -/
theorem witness_AdmissionAndWalks :
    (readsLanes (wAdmit (wItem 9 20)) 0 = true ∧ itemFld (wItem 9 20) 0 1 = 1 ∧ itemFld (wItem 9 20) 0x18 3 = 20 ∧
     modelSet (wAdmit (wItem 9 20)) 0 9 = false ∧ outputLane (wAdmit (wItem 9 20)) 0 = some 2 ∧
     goes (exec (.admissionItemTaken 0 1) (wAdmit (wItem 9 20))) (fun t => decide ((t.lane 1).items = [3] ∧
       (t.lane 2).items = [tokenItem 0x0B true true 5 0 0])) = true) ∧
    (modelSet (wAdmit (wItem 1 20)) 0 1 = true ∧ liveOf (wAdmit (wItem 1 20)) 0 5 = none ∧
     customerRefused (wAdmit (wItem 1 20)) 0 7 = false ∧ fitsNoSlot (wAdmit (wItem 1 20)) 0 1 = false ∧
     ((wAdmit (wItem 1 20)).toll 7).owner ≠ 0 ∧
     goes (exec (.admissionItemTaken 0 1) (wAdmit (wItem 1 20))) (fun t => decide ((t.lane 1).items = [3] ∧
       (liveOf t 0 5).map (fun (l : Live) => (l.charged, l.req.promptTokens, l.req.firstDue)) = some (true, 20, 150))) = true) ∧
    (customerRefused wCharged 0 7 = false ∧ (wCharged.toll 7).owner = 0 ∧ (wCharged.part 0).hold.worstCase = false ∧
     tollCharge (wCharged.toll 7) (20 + (wCharged.part 0).hold.reserve) = .go 0 ∧
     goes (exec (.admissionItemTaken 0 1) wCharged) (fun t => decide ((t.toll 7).level = 0)) = true) ∧
    ((wRefill.toll 7).lastRefill + (wRefill.toll 7).interval = wRefill.now ∧
     goes (exec (.tollgateRefill 7) wRefill) (fun t => decide ((t.toll 7).level = 4 ∧ (t.toll 7).lastRefill = 15)) = true) ∧
    ((liveOf wWalking 0 5).map (fun (l : Live) => (l.walking, l.walkTable)) = some (true, some 0) ∧
     goes (exec (.signpostWalkDone 0 5 0x99 [none]) wWalking) (fun t => decide
       ((liveOf t 0 5).map (fun (l : Live) => (l.walking, l.walkStamp, l.req.phase)) = some (false, 0x99, 0))) = true) ∧
    (goes (exec (.prefixCopyCheck 0 5 false none) (wPrefix true 0)) (fun t => decide
       ((liveOf t 0 5).map (fun (l : Live) => (l.copy, l.req.prefixTokens)) = some (none, 0))) = true ∧
     sourceOk (dirBytes wEntry) 7 = true ∧ fld (dirBytes wEntry) 8 8 = 0x11_0000 ∧ fld (dirBytes wEntry) 1 1 = 0 ∧
     goes (exec (.prefixCopyCheck 0 5 true (some (dirBytes wEntry))) (wPrefix true 0)) (fun t => decide
       ((liveOf t 0 5).map (fun (l : Live) => (l.copy, l.req.prefixTokens, l.filled)) = some (none, 64, 64))) = true ∧
     goes (exec (.prefixCopyCheck 0 5 true none) (wPrefix true 2)) (fun t => decide (t = wPrefix true 2)) = true ∧
     moveAwl wNoting 0 = none ∧
     goes (exec (.prefixCopyCheck 0 5 false (some (dirBytes wEntry))) wNoting) (fun t => decide
       ((liveOf t 0 5).bind (fun (l : Live) => l.copy.map fun (c : PrefixCopy) =>
         (c.noted, c.accepted, c.moves == (t.part 0).hold.moves.length && decide (c.moves ≠ 0))) =
         some (true, true, true))) = true) := by
  decide +kernel

/-! ### Steps and contexts (07, 08) -/

def wReady : Live := { wLive with inBatch := false, req := { wReqRec with phase := 1 } }
/-- A prefill whose COMMIT has been sent. -/
def wFilled : Live := { wReady with filled := 10, commitsPrimary := [(10, 20)]
                                    req := { wReady.req with phase := 2, seq := 20, outputCount := 0 } }
/-- One holder whose cache's device is LOST: its QUERYs, whose payloads have free lengths, wait and are not sent. -/
def wLone (l : Live) : State := (holder 1 [l]).setPeer 1 { lost := true }
def wStep (l : Live) : State := (holder 1 [l]).modHold 0 fun h => { h with step := some { start := 0, streams := [5] } }
def wChunk (filled : Nat) : State :=
  (holder 3 [{ wReady with filled := filled, stepTake := 4, commitsPrimary := [(10, 20)] }]).modHold 0 fun h => { h with
    step := some { start := 0, streams := [5] } }
def wFailed (c : Byte) : State := (holder 1 [wLive]).modHold 0 fun h => { h with
  step := some { start := 0, streams := [5], failed := true, code := c } }
def wOut : StreamOut := { tag := 5, drafts := [], tokens := [77], ends := [false], fallback := none, fallbackEnds := false }

/-- A boundary with a prefill and with a decode, the commits of both and of a chunk, the three codes that end a step (R257, R281,
R496). -/
theorem witness_StepsBeginAndCommit :
    ((wLone wReady).code 0 = 5 ∧ ((wLone wReady).part 0).hold.step = none ∧ (wLone wReady).role 0 = 1 ∧
     swappable (wLone wReady) 0 1 = false ∧ prefillReady wReady = true ∧
     ((wLone wReady).model 0 1).map (fun (m : ModelPiece) => m.layers) = some 1 ∧
     goes (exec (.stepBoundary 0) (wLone wReady)) (fun t => decide
       ((t.part 0).hold.step = some { start := 0, streams := [5] } ∧
        (t.part 0).last.sent.map (fun kv => (kv.2.h.op, kv.2.h.posA)) = [(5, 0)] ∧
        (liveOf t 0 5).map (fun (l : Live) => l.due.map fun (d : CommitDue) => (d.lo, d.hi)) = some [(10, 20)])) = true) ∧
    (canFeed (wLone wLive) 0 wLive = true ∧
     goes (exec (.stepBoundary 0) (wLone wLive)) (fun t => decide
       ((t.part 0).hold.step = some { start := 0, streams := [5] })) = true) ∧
    ((wStep wLive).code 0 = 5 ∧ liveOf (wStep wLive) 0 5 = some wLive ∧ wLive.marked = false ∧ wLive.finalToken = none ∧
     wReqRec.seq + 1 < lMax (wStep wLive) ∧ outputLane (wStep wLive) 0 = some 2 ∧
     goes (exec (.stepCommit 0 [wOut]) (wStep wLive)) (fun t => decide ((t.part 0).hold.step = none ∧
       (t.lane 2).items = [tokenItem 0 false false 5 0 77] ∧
       (liveOf t 0 5).map (fun (l : Live) => (l.req.seq, l.req.lastToken, l.req.outputCount)) = some (11, 77, 1))) = true) ∧
    (goes (exec (.stepCommit 0 [wOut]) (wStep { wReady with due := [⟨wReqRec.last, 10, 20, true⟩] })) (fun t => decide
       ((t.part 0).hold.step ≠ none)) = true ∧
     goes (exec (.stepCommit 0 [wOut]) (wStep wFilled)) (fun t => decide ((t.part 0).hold.step = none ∧ (t.lane 2).items = [] ∧
       (liveOf t 0 5).map (fun (l : Live) => (l.req.phase, l.req.lastToken)) = some (2, 77))) = true ∧
     goes (exec (.stepCommit 0 [wOut]) (wStep { wFilled with commitsPrimary := [] })) (fun t => decide
       ((t.lane 2).items = [tokenItem 0 false false 5 0 77] ∧
       (liveOf t 0 5).map (fun (l : Live) => (l.req.phase, l.inBatch, l.req.length)) = some (4, true, 20))) = true) ∧
    ((wChunk 5).role 0 = 3 ∧
     goes (exec (.stepCommit 0 [wOut]) (wChunk 5)) (fun t => decide ((t.part 0).hold.step = none ∧
       (liveOf t 0 5).map (fun (l : Live) => (l.req.phase, l.filled)) = some (1, 9))) = true ∧
     goes (exec (.stepCommit 0 [wOut]) (wChunk 6)) (fun t => decide
       ((liveOf t 0 5).map (fun (l : Live) => (l.commits, l.req.lastToken)) = some ([(10, 20)], 77))) = true) ∧
    (((wFailed 0x0D).part 0).hold.step.map (fun (x : StepRun) => (x.failed, x.code)) = some (true, 0x0D) ∧
     goes (exec (.stepCommit 0 []) (wFailed 0x0D)) (fun t => decide ((t.part 0).hold.step = none ∧
       (t.part 0).fault.lastCode = 0x0D)) = true ∧
     goes (exec (.stepCommit 0 []) (wFailed 2)) (fun t => decide ((t.part 0).fault.lastCode = 2)) = true) := by
  decide +kernel

/-- A stream that has waited for its QUERYs for exactly QUERY_WAIT. -/
def wLate : State := { waitsOn ((holder 1 [{ wLive with left := false }]).modHold 0 fun h => { h with
  step := some { start := 0, streams := [5] }, queryWait := 4 }) { wSent 5 0 with sentAt := 3 } with now := 7 }
def wDue : State := { ((holder 0 [{ wReady with req := { wReady.req with firstDue := 6 } }]).modHold 0 fun h => { h with
  firstEnd := true }) with now := 7 }

/-- Models 2 and 3 in DDR5 and one swap slot in HBM. -/
def wSwapRegions : List PlaceEntry :=
  [{ owner := 0, tier := 1, use := 1, model := 255, pinned := false, start := 0, length := 0x1_0000 },
   { owner := 0, tier := 2, use := 1, model := 2, pinned := false, start := 0x300_0000, length := 0x1_0000 },
   { owner := 0, tier := 2, use := 1, model := 3, pinned := false, start := 0x400_0000, length := 0x1_0000 }]
def wSwap (ctxs : KMap Ctx) (lives : List Live) : State :=
  let s := (holder 1 lives).modHold 0 fun h => { h with ctxs := ctxs, ctxBlockMin := 10 }
  { s with now := 10, mem := [(0x300_0001, 9)], pattern := some { wPattern 1 with
    placements := wSwapRegions, models := [{ wModel with model := 2 }, { wModel with model := 3 }] } }
def wLive2 : Live := { wReady with req := { wReady.req with model := 2 } }
def wLive3 : Live := { wReady with granted := false, req := { wReady.req with model := 3, tag := 6, phase := 0 } }
/-- Model 3 blocked in the slot for ten microseconds while model 2 could run. -/
def wBlocked : State := (waitsOn (wSwap [(2, { runnableSince := some 0 }), (3, { slot := some 0 })] [wLive2, wLive3])
  { wSent 1 0 with h := { svc 1 0 0 0 with tag := 6, msgId := 21 } }).modHold 0 fun h =>
  { h with blockedSince := some 0 }
def wSwapping : State := wSwap [(2, { swapping := some 0 })] [wLive2]

/-- QUERY_WAIT and FIRST_DUE at their last microsecond, a free slot, a forced swap, a swap that ends (R282, R285,
R288 to R290). -/
theorem witness_DeadlinesAndContexts :
    ((liveOf wLate 0 5).isSome = true ∧ streamQuery 5 { wSent 5 0 with sentAt := 3 } = true ∧
     (wLate.part 0).hold.moves = [] ∧
     goes (exec (.queryWaitExpire 0 5 0) wLate) (fun t => decide ((liveOf t 0 5).map (fun (l : Live) => l.left) = some true)) = true) ∧
    ((liveOf wDue 0 5).map (fun (l : Live) => (l.req.firstDue, l.releasing, l.charged)) = some (6, false, true) ∧
     goes (exec (.firstDueExpire 0 5) wDue) (fun t => decide
       ((liveOf t 0 5).map (fun (l : Live) => (l.req.phase, l.finalCode)) = some (5, 0x0A))) = true) ∧
    (oldestSwapped (refreshCtxs (wSwap [] [wLive2]) 0) 0 = some 2 ∧ fittingSlots (refreshCtxs (wSwap [] [wLive2]) 0) 0 2 = [0] ∧
     inSlot (refreshCtxs (wSwap [] [wLive2]) 0) 0 0 = none ∧
     goes (exec (.contextSwapIn 0) (wSwap [] [wLive2])) (fun t => decide
       (((t.part 0).hold.ctxs.at 2 {}).swapping = some 0)) = true) ∧
    (oldestSwapped (refreshCtxs wBlocked 0) 0 = some 2 ∧ (refreshCtxs wBlocked 0 |>.part 0).hold.blockedSince = some 0 ∧
     inSlot (refreshCtxs wBlocked 0) 0 0 = some 3 ∧ ((refreshCtxs wBlocked 0 |>.part 0).hold.ctxs.at 3 {}).forcedIn = false ∧
     goes (exec (.ctxBlockExpire 0) wBlocked) (fun t => decide ((t.part 0).hold.forced = 1 ∧
       ((t.part 0).hold.ctxs.at 2 {}).swapping = some 0 ∧ ((t.part 0).hold.ctxs.at 3 {}).slot = none)) = true) ∧
    (((wSwapping.part 0).hold.ctxs.at 2 {}).swapping = some 0 ∧ readCode wSwapping 0 0x300_0000 64 = 0 ∧
     writeCode wSwapping 0 (slotOff wSwapping 0 0) 64 (coversWhole (slotOff wSwapping 0 0) 64) = 0 ∧
     goes (exec (.swapInDone ⟨0, none⟩ 2 0) wSwapping) (fun t => decide (((t.part 0).hold.ctxs.at 2 {}).slot = some 0 ∧
       memByte t.mem 1 = 9)) = true) := by
  decide +kernel

/-! ### Schedulers (08) -/

/-- A send item: kind, device or Awl, endpoint, source or tail, length. -/
def wSend (kind device ep source length : Nat) : Item :=
  itemOf ([5] ++ leBytes 1 kind ++ leBytes 2 device ++ leBytes 4 0 ++ leBytes 2 ep ++ leBytes 6 source ++ leBytes 4 length
    ++ leBytes 12 0)
/-- Roundabout 0 of partition 0 with one backlogged queue on lane 6, or with an item selected. -/
def wRa (items : List Item) (sel : Option Item) : State :=
  { withLane (opened 1) 6 3 items with roundabouts := [(0, { owner := 0
                                                             queues := [{ queue := 0, lane := 6, parent := 0xFFFF, quantum := 64 }]
                                                             members := [(0, { quantum := 64, fresh := true })]
                                                             active := [(0xFFFF, [0])], selected := sel })],
                                       fab := { (opened 1).fab with device := 1 } }
def wSender (sel : Item) : State :=
  (wRa [] (some sel)).modPart 0 fun x => { x with xt := { x.xt with epCount := 4, eps := [(3, { state := 1 })], enabled := [3] } }

/-- A selection at exactly the quantum, the discard of a send from an endpoint past EP_COUNT, the first message to a
device, a release to the ring's size (R276, R368 to R370). -/
theorem witness_RoundaboutsSelectAndSend :
    (raRuns (wRa [wSend 1 2 3 0 32, 9] none) 0 = true ∧ gateOpen (wRa [wSend 1 2 3 0 32, 9] none) 0 = true ∧
     (raSelect (fun k => ((wRa [wSend 1 2 3 0 32, 9] none).lane k).items) raFuel
        ((wRa [wSend 1 2 3 0 32, 9] none).roundabout 0) raRoot).map (fun x => (x.1, x.2.1)) = some (wSend 1 2 3 0 32, 6) ∧
     itemFld (wSend 1 2 3 0 32) 0 1 = 5 ∧ sendKind (wSend 1 2 3 0 32) = 1 ∧
     goes (exec (.roundaboutSelect 0) (wRa [wSend 1 2 3 0 32, 9] none)) (fun t => decide
       ((t.roundabout 0).selected = some (wSend 1 2 3 0 32) ∧ (t.lane 6).items = [9])) = true) ∧
    (((wSender (wSend 1 2 4 0 32)).part 0).xt.epCount = sendFrom (wSend 1 2 4 0 32) ∧
     goes (exec (.sendMessage 0) (wSender (wSend 1 2 4 0 32))) (fun t => decide ((t.part 0).xt.msgDiscards = 1)) = true) ∧
    ((epOf (wSender (wSend 1 2 3 0 32)) 0 3).state = 1 ∧
     inRange (wSender (wSend 1 2 3 0 32)) 0 onSled false 0 32 = true ∧
     goes (exec (.sendMessage 0) (wSender (wSend 1 2 3 0 32))) (fun t => decide ((t.roundabout 0).selected = none ∧
       t.fab.msgNumbers.at 2 0 = 1)) = true) ∧
    (sendKind (wSend 2 7 0 16 0) = 2 ∧ (wRa [] (some (wSend 2 7 0 16 0))).blockOwner 0 = some 0 ∧
     ringOverfull 16 ((wRa [] none).awl 7).head ((wRa [] none).awl 7).size = false ∧
     goes (exec (.sendRelease 0) (wRa [] (some (wSend 2 7 0 16 0)))) (fun t => decide ((t.awl 7).tail = 16)) = true) := by
  decide +kernel

def wXEntry : XEntry := { duration := 9, opens := 1, signal := true, counter := 2 }
def wXing (align : Nat) (restart running : Bool) : State := { withCtr (opened 1) 2 5 with
  crossings := [(63, { owner := 0, align := align, entries := [{ wXEntry with signal := false }, wXEntry]
                       restart := restart, running := running })], now := 20,
  mgmt := { alignAt := some 10, alignFrom := 6 } }

/-- A list that starts and one that goes on to a signalling entry; an edge 10 us after the last and an ALIGN packet
of the sender and of another (R279, R280, R403, R521). -/
theorem witness_CrossingListsRun :
    ((wXing 0 true false).code 0 = 5 ∧
     goes (exec (.crossingEntryStart 63) (wXing 0 true false)) (fun t => decide ((t.crossing 63).running = true ∧
       (t.crossing 63).current = 0 ∧ (t.counter 2).value = 5)) = true ∧
     (wXing 0 false true).ownsCtr 0 2 = true ∧
     goes (exec (.crossingEntryStart 63) (wXing 0 false true)) (fun t => decide ((t.crossing 63).current = 1 ∧
       (t.counter 2).value = 6)) = true) ∧
    (10 + 10 ≤ (wXing 0 false true).now ∧ (wXing 0 false true).mgmt.alignAt = some 10 ∧
     goes (exec .alignInEdge (wXing 0 false true)) (fun t => decide ((t.crossing 63).restart = true ∧
       (t.crossing 63).alignments = 1 ∧ t.mgmt.alignEdges = 1)) = true) ∧
    (goes (exec (.align 6 0) (wXing 1 false true)) (fun t => (t.crossing 63).restart) = true ∧
     goes (exec (.align 7 0) (wXing 1 false true)) (fun t => decide (t = wXing 1 false true)) = true) := by
  decide +kernel

/-! ### Remote lines and messages (11) -/

/-- Device 1 in a live map of epoch 1 with partition 3 of device 2, and the context of that peer. -/
def wRemote (p : Peer) : State :=
  { opened 1 with
    fab := { (opened 1).fab with device := 1, peers := [(2, p)], lines := [0, 1, 3] }
    mgmt := { comps := [(5, { current := some { epoch := 1, entries :=
      [{ device := 1, partition := 0, role := 1, partner := 0xFFFF }, { device := 2, partition := 3, role := 1, partner := 0xFFFF }] } })] } }
def wFrom (psn : BitVec 32) : XtHdr :=
  { device := 2, srcPart := 3, destPart := 0, mapEpoch := 1, psn := psn, session := 9, ce := false }
/-- A peer whose class-2 session expects PSN 9. -/
def wPeer2 : Peer := { inUse := true, c2 := { rxStarted := true, rxSession := 9, rxCum := 9, rxNext := 9 } }
def wHome : State := { wRemote wPeer2 with mem := [(0x10, 5)] }

/-- A WRITE across two lines, a READ, ATOMICs of 4 and 8 bytes (R356, R362 to R365). -/
theorem witness_RemoteRequestsAreAppliedInOrder :
    ((wHome.peer 2).inUse = true ∧ (wHome.peer 2).c2.rxStarted = true ∧ (wHome.peer 2).c2.rxSession = (wFrom 9).session ∧
     (wHome.peer 2).c2.rxNext = (wFrom 9).psn ∧ wHome.fab.reorder = [] ∧ allTrusted wHome = true) ∧
    (homeCheck wHome (.write (wFrom 9) 0x3E 4 [1, 2, 3, 4]) = 0 ∧ badIn wHome (memKey 0 0x3E) 4 = [] ∧
     linesOf 0 0x3E 4 = [0, 1] ∧
     goes (exec (.write (wFrom 9) 0x3E 4 [1, 2, 3, 4]) wHome) (fun t => decide
       (t.mem = [(0x10, 5), (0x3E, 1), (0x3F, 2), (0x40, 3), (0x41, 4)] ∧ (t.peer 2).c2.rxNext = 10)) = true) ∧
    (homeCheck wHome (.read (wFrom 9) 0x10 2) = 0 ∧ wHome.fab.device ≠ 0xFFFF ∧ linesOf 0 0x10 2 = [0] ∧
     goes (exec (.read (wFrom 9) 0x10 2) wHome) (fun t => decide (t.mem = wHome.mem ∧ t.fab.ownTx.length = 1 ∧
       t.fab.ownTx.map (fun bs => slice bs 64 2) = [[5, 0]])) = true) ∧
    (homeCheck wHome (.atomic (wFrom 9) 0x10 0 4 0xFFFF_FFFF 0) = 0 ∧ linesOf 0 0x10 4 = [0] ∧
     goes (exec (.atomic (wFrom 9) 0x10 0 4 0xFFFF_FFFF 0) wHome) (fun t => decide (t.mem = [(0x10, 4)])) = true ∧
     homeCheck wHome (.atomic (wFrom 9) 0x10 2 8 7 5) = 0 ∧
     goes (exec (.atomic (wFrom 9) 0x10 2 8 7 5) wHome) (fun t => decide (t.mem = [(0x10, 7)])) = true ∧
     goes (exec (.atomic (wFrom 9) 0x10 2 8 7 6) wHome) (fun t => decide (t.mem = [(0x10, 5)])) = true) := by
  decide +kernel

/-- A packet not yet acknowledged, first sent at 10. -/
def wUnacked (op owner : Nat) : Unacked :=
  { pkt := { dest := 2, cls := 2, op := op, psn := 9, session := 9, fields := leBytes 8 0 ++ leBytes 2 2 }, firstAt := 10,
    lastAt := 10, interval := 16, owner := owner, ownerA := 0 }
def wJobAt (line : Nat) : HomeJob := { req := .read (wFrom 9) 0x80 2, lines := [line] }
def wIdlePeer : Peer := { inUse := true, lastRx := 7, lost := true }
def wCobbler (p : Peer) : State := { wRemote p with blocks := [(0, { cobbler := 1 })] }

/-- A request ahead of its order with room for one in the reorder store, a payload of another length, the fill of
the one line waited for; TARGET_TIMEOUT and an idle context at their last microseconds, CLEAR, fences (R352, R354,
R356, R366, R367, R381). -/
theorem witness_RemoteRequestsWaitAndPeersAreLost :
    (psnBefore 10 (wHome.peer 2).c2.rxNext = false ∧ (10 : BitVec 32) ≠ (wHome.peer 2).c2.rxNext ∧
     goes (exec (.read (wFrom 10) 0x10 2) wHome) (fun t => decide (t.fab.reorder = [.read (wFrom 10) 0x10 2])) = true) ∧
    goes (exec (.write (wFrom 9) 0x3E 4 [1]) wHome) (fun t => decide (t.fab.dropOp = 1)) = true ∧
    ((wRemote wPeer2).fab.lines.contains 2 = false ∧
     goes (exec (.squareLineFill ⟨2, none⟩) ((wRemote wPeer2).modFab fun f => { f with home := [wJobAt 2] })) (fun t => decide
       (t.fab.lines = [0, 1, 3, 2] ∧ t.fab.home = [] ∧ t.fab.ownTx.length = 1)) = true) ∧
    (let p : Peer := { inUse := true, c2 := { unacked := [wUnacked 2 0] } }
     let s := { wRemote p with now := 2010 }
     (s.peer 2).lost = false ∧ (wUnacked 2 0).firstAt + s.fab.targetTimeout ≤ s.now ∧
     goes (exec (.targetTimeout 2) s) (fun t => decide ((t.peer 2).lost = true ∧ (t.peer 2).c2.unacked = [] ∧
       t.fab.lostCount = 1)) = true) ∧
    (let s := (wRemote { wPeer2 with lost := true }).modFab fun f => { f with peerSelect := 2 }
     globalReaches s (.host 0) 0x31_0028 ∧ (0xFFFF_FFFF_FFFF_FFFF : Word).toNat.testBit 0 = true ∧
     goes (exec (.clear (.host 0) 0xFFFF_FFFF_FFFF_FFFF) s) (fun t => decide (t.peer 2 = {})) = true ∧
     goes (exec (.clear .mgmt 1) s) (fun t => decide (t.peer 2 = {})) = true) ∧
    (let s := { wRemote wIdlePeer with now := 3008 }
     (s.peer 2).lastRx + s.fab.targetTimeout + 1000 < s.now ∧
     goes (exec (.peerContextFree 2) s) (fun t => decide (t.peer 2 = { lost := true })) = true) ∧
    (cobblerRuns (wCobbler wPeer2) 0 0 = true ∧ (wCobbler wPeer2).fab.fences = [] ∧
     goes (exec (.cobblerFence 0 2) (wCobbler wPeer2)) (fun t => decide (t.out = [.cobblerFenced 0] ∧ t.fab.fences = [])) = true ∧
     psnBefore (wUnacked 2 0).pkt.psn 10 = true ∧
     goes (exec (.cobblerFence 0 2) (wCobbler { inUse := true, c2 := { nextPsn := 10, unacked := [wUnacked 2 0] } }))
       (fun t => decide (t.out = [] ∧ t.fab.fences = [(0, 2, 10)])) = true) := by
  decide +kernel

/-- A peer whose class-1 session has handled PSNs below 9. -/
def wPeer1 : Peer := { inUse := true, c1 := { rxStarted := true, rxSession := 9, rxCum := 9 } }
def wInMsg : Reasm :=
  { device := 2, srcPart := 3, number := 7, endpoint := 4, srcEndpoint := 6, buffer := 0x8000, size := 8192, cookie := 0,
    total := 5000, count := 4096, refused := false, immediate := 0 }
def wMsgF (off total : Nat) : MsgFields :=
  { number := 7, offset := off, total := total, destEndpoint := 4, srcEndpoint := 6, immediate := 0 }
/-- Endpoint 4 on chip and enabled, of a kind, with item lane 3 and notice lane 2. -/
def wEndpoint (kind : Nat) (reasm : List Reasm) : State :=
  withLane (withLane ((wRemote wPeer1).modXt 0 fun x => { x with
    epCount := 5, enabled := [4], eps := [(4, { state := 1, kind := kind, noticeLane := 2, itemLane := 3 })], reasm := reasm }) 2 2 [])
    3 1 (List.replicate 15 1)

/-- A packet too short, an item for the last stage of its lane, bytes of a message in progress up to one below its
total (R353, R374 to R376). -/
theorem witness_MessagesReachTheirEndpoint :
    (msgLengthOk (wMsgF 4096 5000) [1] = false ∧
     goes (exec (.message (wFrom 9) (wMsgF 4096 5000) [1]) (wEndpoint 0 [])) (fun t => decide (t.fab.dropOp = 1)) = true) ∧
    (msgLengthOk (wMsgF 0 32) (List.replicate 32 3) = true ∧ ((wEndpoint 1 []).peer 2).c1.seen 9 = false ∧
     mapCheck (wEndpoint 1 []) 0 1 2 3 = 0 ∧ ((wEndpoint 1 []).part 0).xt.epCount = 5 ∧
     ((wEndpoint 1 []).lane 3).items.length = 15 ∧
     goes (exec (.message (wFrom 9) (wMsgF 0 32) (List.replicate 32 3)) (wEndpoint 1 [])) (fun t => decide
       ((t.lane 3).items = List.replicate 15 1 ++ [itemOf (List.replicate 32 3)] ∧ (epOf t 0 4).received = 1)) = true) ∧
    (let m := { wInMsg with total := 5001, count := 4096 }
     let s := wEndpoint 0 [{ m with count := 904 }]
     sameMsg (wFrom 9) (wMsgF 0 5001) m = true ∧ msgLengthOk (wMsgF 0 5001) (List.replicate 4096 3) = true ∧
     904 + 4096 < 5001 ∧ inRange s 0 onSledW false 0x8000 4096 = true ∧
     writeCode s 0 0x8000 4096 (fun _ => false) = 0 ∧ allTrusted s = true) ∧
    (let s := wEndpoint 0 [{ wInMsg with total := 4099, count := 4 }]
     msgLengthOk (wMsgF 4096 4099) [1, 2, 3] = true ∧ badIn s (memKey 0 0x9000) 3 = [] ∧
     goes (exec (.message (wFrom 9) (wMsgF 4096 4099) [1, 2, 3]) s) (fun t => decide
       (t.mem = [(0x9000, 1), (0x9001, 2), (0x9002, 3)] ∧ (t.part 0).xt.reasm.map (fun (r : Reasm) => r.count) = [7])) = true) ∧
    (let m := { wMsgF 0 5000 with destEndpoint := 0 }
     let s := wEndpoint 0 []
     msgLengthOk m (List.replicate 4096 3) = true ∧ (s.peer 2).c1.rxSession = (wFrom 9).session ∧
     (s.part 0).last.arriving = [] ∧ (s.part 0).xt.reasm = [] ∧
     goes (exec (.message (wFrom 9) m (List.replicate 4096 3)) s) (fun t => decide
       ((t.part 0).last.arriving.map (fun (a : SvcIn) => (a.device, a.part, a.number, a.total)) = [(2, 3, 7, 5000)])) =
         true) := by
  decide +kernel

def wAckOf (ce : Bool) : AckFields :=
  { device := 2, cls := 2, session := 9, cum := 10, bitmap := 0, status := 0, errPsn := 0, ceEcho := ce }
/-- One class-2 packet outstanding, first sent at 10 with an interval of 16 us. -/
def wSending (u : Unacked) (w : Nat) (h : Option Nat) : State :=
  { wRemote { inUse := true, c2 := { started := true, session := 9, nextPsn := 10, unacked := [u], window := w, halvedAt := h } } with
    now := 26 }
def wAwaiting (op : Nat) : State := wRemote { inUse := true, awaiting := [wUnacked op 3] }
def wOwed : State := wRemote { inUse := true, c1 := { unreported := 3, unreportedAt := some 4, rxStarted := true } }

/-- The ACK that widens, halves or leaves the window; the data for a Cobbler core; the timer's ACK; a resend at the
last microsecond of its interval (R358 to R361, R353, R367). -/
theorem witness_AcknowledgementsAndAnswers :
    (ackCovers (wAckOf false) 9 = true ∧
     goes (exec (.ack (wAckOf false)) (wSending (wUnacked 2 0) 1024 none)) (fun t => decide ((t.peer 2).c2.unacked = [] ∧
       (t.peer 2).c2.window = 1024)) = true ∧
     goes (exec (.ack (wAckOf true)) (wSending (wUnacked 2 0) 7 (some 16))) (fun t => decide ((t.peer 2).c2.window = 4)) = true ∧
     goes (exec (.ack (wAckOf true)) (wSending (wUnacked 2 0) 7 (some 17))) (fun t => decide ((t.peer 2).c2.window = 7)) = true) ∧
    (answered (wAwaiting 1) (wFrom 9) 1 = some (wUnacked 1 3) ∧
     goes (exec (.readData (wFrom 9) 0 [7, 8]) (wAwaiting 1)) (fun t => decide (t.out = [.cobblerData 0 0 [7, 8]])) = true ∧
     answered (wAwaiting 3) (wFrom 9) 3 = some (wUnacked 3 3) ∧
     goes (exec (.atomicData (wFrom 9) 0 258) (wAwaiting 3)) (fun t => decide
       (t.out = [.cobblerData 0 0 [2, 1, 0, 0, 0, 0, 0, 0]])) = true) ∧
    (((wOwed.peer 2).sess 1).unreportedAt = some 4 ∧ wOwed.fab.device ≠ 0xFFFF ∧
     goes (exec (.ackTimer 2 1) wOwed) (fun t => decide ((t.peer 2).c1.unreported = 0 ∧ t.fab.ownTx.length = 1)) = true) ∧
    ((wUnacked 2 0).lastAt + (wUnacked 2 0).interval = (wSending (wUnacked 2 0) 4 none).now ∧
     goes (exec (.resendTimer 2 2 9) (wSending (wUnacked 2 0) 4 none)) (fun t => decide
       ((t.peer 2).c2.unacked = [{ wUnacked 2 0 with lastAt := 26, interval := 32 }] ∧ t.fab.ownTx.length = 1)) = true) := by
  decide +kernel

def wEps (e : Endpoint) : State := (wEndpoint 0 [wInMsg]).modXt 0 fun x => { x with eps := [(4, e)] }
/-- Endpoint 4 in the table at 0x1000 only: its context there has KIND 1. -/
def wTable (xt : PXt) : State := { (wEndpoint 0 []).modXt 0 fun _ => { xt with epCount := 5, tableBase := 0x1000 } with
  mem := [(0x1100, 1), (0x1101, 1)] }

/-- ENABLE from the table, DISABLE of a flushed endpoint, FLUSH, TAIL at the ring's size and past it, an endpoint
starved to its limit, a fetched context (R372, R373, R376, R377, R380). -/
theorem witness_EndpointCommands :
    (hostReaches (wTable {}) (.host 1) 0 ∧ epCheck (wTable {}) 0 4 [0] = 0 ∧
     inRange (wTable {}) 0 onSledW false (epAddr (wTable {}) 0 4) 64 = true ∧ readCode (wTable {}) 0 (epAddr (wTable {}) 0 4) 64 = 0 ∧
     goes (exec (.enable (.host 1) 0 4) (wTable {})) (fun t => decide (((t.part 0).xt.eps.find 4).map
       (fun (e : Endpoint) => (e.state, e.kind)) = some (1, 1) ∧ (t.part 0).xt.enabled = [4])) = true) ∧
    (hostReaches (wEps { state := 2 }) (.host 0) 0 ∧ epCheck (wEps { state := 2 }) 0 4 [1, 2] = 0 ∧
     goes (exec (.epDisable (.host 0) 0 4) (wEps { state := 2 })) (fun t => decide ((epOf t 0 4).state = 0 ∧
       (t.part 0).xt.reasm = [])) = true ∧
     epCheck (wEps { state := 2 }) 0 4 [2] = 0 ∧
     goes (exec (.epFlush (.host 0) 0 4) (wEps { state := 2 })) (fun t => decide ((epOf t 0 4).state = 0)) = true) ∧
    (ringOverfull 16 0 4 = false ∧ ringOverfull 17 0 4 = true ∧
     goes (exec (.srqTailWrite (.host 1) 0 15 16) (wTable {})) (fun t => decide
       ((t.part 0).xt.srqs.at 15 {} = { tail := 16 })) = true ∧
     goes (exec (.srqTailWrite (.host 1) 0 15 17) (wTable {})) (fun t => decide (t = wTable {})) = true) ∧
    (let s := { wEps { state := 1, emptySince := some 1 } with now := 10001 }
     1 + (s.part 0).xt.emptyLimit = s.now ∧ stillStarved s 0 { state := 1, emptySince := some 1 } = true ∧
     goes (exec (.epEmptyExpire 0 4) s) (fun t => decide (((t.part 0).xt.eps.find 4).map
       (fun (e : Endpoint) => (e.state, e.error)) = some (2, 7))) = true) ∧
    (let s := wTable { fetches := [4], enabled := [4] }
     (s.part 0).xt.fetches.contains 4 = true ∧ (s.part 0).xt.enabled.contains 4 = true ∧ (s.part 0).xt.parked = [] ∧
     goes (exec (.kerbsideFetchDone 0 4) s) (fun t => decide (((t.part 0).xt.eps.find 4).map
       (fun (e : Endpoint) => (e.state, e.kind)) = some (1, 1) ∧ (t.part 0).xt.fetches = [])) = true) := by
  decide +kernel

/-! ### Engines, cores and attention (06, 07) -/

/-- A program image with one entry and an engine section of 64 bytes after the header (Table 06-3). -/
def wImage : List Byte := leBytes 4 0x4C515243 ++ leBytes 2 1 ++ leBytes 2 1 ++ leBytes 8 0 ++ leBytes 8 0x50 ++ leBytes 8 0x30
  ++ List.replicate 0x58 0
/-- Block 0 of partition 0 with an engine, its program in slot 3. -/
def wEngine (e : Engine) : State :=
  { opened 1 with
    pattern := some { wPattern 1 with
      programs := [{ owner := 0, slot := 3, length := 128, digest := [], image := wImage }]
      placements := [{ owner := 0, tier := 1, use := 5, model := 255, pinned := false, start := 0x600_0000, length := 0x1_0000 }] }
    mem := cells 0x600_0000 wImage, blocks := [(0, { eng := e, pwr := { state := 0 } })] }

/-- A launch of slot 3 entry 0 after a failed run, of an entry past ENTRIES, at a running block; STOP (R198 to
R202). -/
theorem witness_EngineLaunchesAndStops :
    (hostReachesBlock (wEngine { state := 3, arg := 6 }) (.host 1) 0 0 ∧ fusedBusy (wEngine { state := 3, arg := 6 }) 0 = false ∧
     blockSuspect (wEngine { state := 3, arg := 6 }) 0 = false ∧ launchCheck (wEngine { state := 3, arg := 6 }) 0 3 0 false 0 = 0 ∧
     (copySection (wEngine { state := 3, arg := 6 }) 0 0 3).1 = 0 ∧
     goes (exec (.engLaunch (.host 1) 0 3) (wEngine { state := 3, arg := 6 })) (fun t => decide ((t.block 0).eng.state = 1 ∧
       (t.core 0 1023).scalars = [(1, 6), (2, 1023)] ∧ (t.block 0).eng.loaded = some 3)) = true) ∧
    (launchCheck (wEngine {}) 0 3 1 false 0 = 0x0B ∧
     goes (exec (.engLaunch (.host 1) 0 0x103) (wEngine {})) (fun t => decide ((t.block 0).eng.state = 3 ∧
       (t.block 0).eng.faultCode = 0x0B ∧ t.cores = [])) = true) ∧
    goes (exec (.engLaunch (.host 0) 0 3) (wEngine { state := 2 })) (fun t => decide (t = wEngine { state := 2, launchRefused := true })) = true ∧
    (goes (exec (.engStop (.host 0) 0 3) (wEngine { state := 1 })) (fun t => decide (t = wEngine { state := 2, stopCode := 8 })) = true ∧
     goes (exec (.engStop (.host 0) 0 2) (wEngine { state := 1 })) (fun t => decide (t = wEngine { state := 1 })) = true) := by
  decide +kernel

/-- The cores of block 0 all alike. -/
def wCores (c : Core) : State :=
  { wEngine { state := 1, signal := true, signalCounter := 2 } with
    cores := (List.range 1024).map fun i => (i, c), counters := [(2, { owner := 0, value := 0x7FFF_FFFF_FFFF_FFFF })] }

theorem find_range' {α : Type} (x : α) (n k m : Nat) (h : k ≤ m) (h' : m < k + n) :
    KMap.find ((List.range' k n).map fun i => (i, x)) m = some x := by
  induction n generalizing k with
  | zero => omega
  | succ n ih =>
    simp only [List.range'_succ, List.map_cons, KMap.find]
    split
    · rfl
    · exact ih (k + 1) (by omega) (by omega)

theorem wCores_core (c : Core) (n : Nat) (h : n < 1024) : (wCores c).core 0 n = c := by
  simp [State.core, KMap.at, wCores, coreKey, List.range_eq_range', find_range' c 1024 0 n (Nat.zero_le _) (by omega)]

/-- Every core at End, or at the barrier; the first fault of a core; End and Barrier of one (R201, R202). -/
theorem witness_RunsEndAndCoresMeet :
    ((wCores { ended := true }).blockOwner 0 = some 0 ∧ ((wCores { ended := true }).block 0).eng.state = 1 ∧
     (∀ c, c < 1024 → ((wCores { ended := true }).core 0 c).ended = true)) ∧
    goes (exec (.engineRunEnd 0 (.fault 1023 9 0x0D) 77) (wCores {})) (fun t => decide ((t.block 0).eng.state = 3 ∧
      (t.block 0).eng.faultCore = 1023 ∧ t.counter 2 = { owner := 0, value := 0x7FFF_FFFF_FFFF_FFFF, fault := true })) = true ∧
    (coreRuns (wEngine { state := 1 }) 0 1023 = true ∧
     goes (exec (.endRun 0 ⟨1023, [], none⟩) (wEngine { state := 1 })) (fun t => (t.core 0 1023).ended) = true ∧
     goes (exec (.barrier 0 ⟨1023, [], none⟩) (wEngine { state := 1 })) (fun t => (t.core 0 1023).atBarrier) = true) ∧
    (∀ c, c < 1024 → ((wCores { atBarrier := true }).core 0 c).atBarrier = true) :=
  ⟨⟨by decide +kernel, by decide +kernel, fun c h => by rw [wCores_core _ _ h]⟩, by decide +kernel, by decide +kernel,
   fun c h => by rw [wCores_core _ _ h]⟩

/-- Core 5 of block 0 with the vector registers v1 and v2 and accumulator 7. -/
def wCore (v1 v2 : BitVec 512) (acc : KMap (BitVec 32)) : State :=
  { wEngine { state := 1 } with cores := [(5, { vectors := [(1, v1), (2, v2)], acc := acc })] }

/-- INT8 products that saturate, -2 x 3 in BF16 added to 1, 1 + 1 and 1 x 1 + 1 in the last lane, the largest FP32
to E4M3, 1 / 2 in lane 0 while lane 8 stays (R213, R214, R216, R554). -/
theorem witness_CoresComputeLaneByLane :
    (coreRuns (wCore 0x80 0x80 [(448, 0x7FFF_FFFF)]) 0 5 = true ∧
     goes (exec (.mac 0 ⟨5, [], none⟩ 7 .int8 .int8 1 2 []) (wCore 0x80 0x80 [(448, 0x7FFF_FFFF)])) (fun t => decide
       ((t.core 0 5).accAt 7 0 0 = 0x7FFF_FFFF ∧ (t.core 0 5).sat = true)) = true) ∧
    goes (exec (.mac 0 ⟨5, [], none⟩ 7 .bf16 .bf16 1 2 []) (wCore 0xC000 0x4040 [(448, 0x3F80_0000)])) (fun t => decide
      ((t.core 0 5).accAt 7 0 0 = 0xC0A0_0000)) = true ∧
    goes (exec (.mac 0 ⟨5, [], none⟩ 7 .fp32 .fp32 1 2 []) (wCore 1 1 [])) (fun t => decide ((t.block 0).eng.stopCode = 0x0B)) = true ∧
    goes (exec (.vector 0 ⟨5, [], none⟩ .add 2 1 1 1) (wCore (0x3F80_0000 <<< 480) 0 [])) (fun t => decide
      (laneOf ((t.core 0 5).vec 2) 15 = 0x4000_0000)) = true ∧
    goes (exec (.vector 0 ⟨5, [], none⟩ .fma 2 1 1 1) (wCore (0x3F80_0000 <<< 480) 0 [])) (fun t => decide
      (laneOf ((t.core 0 5).vec 2) 15 = 0x4000_0000)) = true ∧
    (vecNarrows .toE4m3 = true ∧ (convTo .toE4m3 (fp32Val 0x7F7F_FFFF)).1 = 0x7E) ∧
    goes (exec (.vectorSpecial 0 ⟨5, [], none⟩ .rcp 2 1) (wCore (0x4000_0000 + (0x4000_0000 <<< 256)) (7 <<< 256) [])) (fun t => decide
      (laneOf ((t.core 0 5).vec 2) 0 = 0x3F00_0000 ∧ laneOf ((t.core 0 5).vec 2) 8 = 7)) = true := by
  decide +kernel

/-- The last 64 bytes of core 5's bench. -/
def wBench : State := { wCore 0x0807 0 [] with
  mem := [(benchKey 0 5 0x2_FFFF, 9)] }

/-- Bench accesses that end at the bench's end and past it, a Compact encode of a head of zeros, exchanges from
core 5 to the south and over the north edge (R191, R192, R206, R209, R201). -/
theorem witness_CoresReachTheirBench :
    (coreRuns wBench 0 5 = true ∧ benchCode wBench 0 5 0x2_FFC0 64 false = 0 ∧
     goes (exec (.benchLoad 0 ⟨5, [], none⟩ 3 0x2_FFC0 64) wBench) (fun t => decide (elem ((t.core 0 5).vec 3) 8 63 = 9)) = true) ∧
    ((benchOff 0 5 0x2_FFC0) / 32 * 32 < benchOff 0 5 0x2_FFC0 + 64 ∧
     goes (exec (.benchLoad 0 ⟨5, [], some (BitVec.ofNat 64 (benchOff 0 5 0x2_FFC0), false)⟩ 3 0x2_FFC0 64) wBench)
      (fun t => decide ((t.block 0).eng.stopCode = 4 ∧ t.mem = wBench.mem)) = true) ∧
    (benchCode wBench 0 5 0x2_FFFE 2 true = 0 ∧
     goes (exec (.benchStore 0 ⟨5, [], none⟩ 1 0x2_FFFE 2) wBench) (fun t => decide
       (t.mem = [(benchKey 0 5 0x2_FFFE, 7), (benchKey 0 5 0x2_FFFF, 8)])) = true ∧ benchSize < 0x2_FFFF + 2 ∧
     goes (exec (.benchStore 0 ⟨5, [], none⟩ 1 0x2_FFFF 2) wBench) (fun t => decide (t.mem = wBench.mem ∧ (t.block 0).eng.stopCode = 0x0D)) = true) ∧
    (benchCode wBench 0 5 0 (compactSpan .lk4Encode 0) false = 0 ∧
     (compactResult .lk4Encode 0 (benchBytes wBench 0 5 0 128)).length = 33 ∧ benchCode wBench 0 5 0x100 33 true = 0) ∧
    (neighbour 5 .south = some 37 ∧ benchCode wBench 0 5 0x2_FFE0 32 false = 0 ∧ benchCode wBench 0 37 0 32 true = 0 ∧
     goes (exec (.exchange 0 ⟨5, [], none⟩ .south 0x2_FFE0 0) wBench) (fun t => decide (memByte t.mem (benchKey 0 37 31) = 9)) = true ∧
     neighbour 5 .north = none ∧
     goes (exec (.exchange 0 ⟨5, [], none⟩ .north 0 0) wBench) (fun t => decide ((t.block 0).eng.stopCode = 0x0B)) = true) := by
  decide +kernel

def wCob : State := { wCobbler { wPeer2 with c2 := { wPeer2.c2 with started := true, nextPsn := 0xFFFF_FFFF } } with
  mem := [(0x10, 5)] }
def wCobLost : State := wCobbler { wPeer2 with lost := true }

/-- A load and a store of partition 0's range, a store to its end and past it, remote loads of a lost and of a
reachable device (R221, R296, R367). -/
theorem witness_CobblerCoresReachTheirPartition :
    (cobblerRuns wCob 0 0 = true ∧
     goes (exec (.cobblerAccessFault 0 0 3) wCob) (fun t => decide ((t.block 0).cobbler = 2)) = true) ∧
    (inRange wCob 0 (fun e => onSled e || decide (e.tier = 3)) false 0x10 2 = true ∧ placeOf wCob 0 0x10 = .own ∧ placeOf wCob 0 0x11 = .own ∧
     readCode wCob 0 0x10 2 = 0 ∧
     goes (exec (.cobblerLoadStore 0 0 (.load 0x10 2 none)) wCob) (fun t => decide (t.out = [.cobblerData 0 0 [5, 0]])) = true ∧
     goes (exec (.cobblerLoadStore 0 0 (.load 0x10 2 (some (0x11, false)))) wCob) (fun t => t.out.contains (.cobblerData 0 4 []))
       = true) ∧
    (inRange wCob 0 (fun e => (onSled e || decide (e.tier = 3)) && decide (e.use ≠ 5)) false 0x10 2 = true ∧
     writeCode wCob 0 0x10 2 (fun _ => false) = 0 ∧ badIn wCob (memKey 0 0x10) 2 = [] ∧ allTrusted wCob = true ∧
     goes (exec (.cobblerLoadStore 0 0 (.store 0x10 [0, 8])) wCob) (fun t => decide (t.mem = [(0x11, 8)])) = true ∧
     inRange wCob 0 (fun e => (onSled e || decide (e.tier = 3)) && decide (e.use ≠ 5)) false 0x110_0000 2 = false ∧
     goes (exec (.cobblerLoadStore 0 0 (.store 0x110_0000 [0, 8])) wCob) (fun t => decide ((t.block 0).cobbler = 2)) = true) ∧
    (unreachable wCobLost 2 = true ∧
     goes (exec (.cobblerLoadStore 0 0 (.remoteLoad 2 0x10 256)) wCobLost) (fun t => decide (t.out = [.cobblerData 0 3 []])) = true ∧
     unreachable wCob 2 = false ∧ (wCob.peer 2).c2.unacked.length < (wCob.peer 2).c2.window ∧
     goes (exec (.cobblerLoadStore 0 0 (.remoteLoad 2 0x10 256)) wCob) (fun t => decide ((t.peer 2).c2.nextPsn = 0 ∧
       (t.peer 2).c2.unacked.map (fun (u : Unacked) => (u.owner, u.pkt.op)) = [(3, 1)])) = true) := by
  decide +kernel

/-- One query of one head of 64 zeros over one position at 0x4000, to 0x8000 (Tables 07-1 and 07-2). -/
def wAttnBytes (opcode flags : Nat) : List Byte :=
  leBytes 1 opcode ++ [0x22] ++ leBytes 2 flags ++ [1, 1, 0, 0] ++ leBytes 4 1 ++ leBytes 4 0 ++ leBytes 8 0x2000 ++ leBytes 8 0x4000
    ++ leBytes 16 0x1_0000_0000_0000_0000_0000_0000 ++ leBytes 4 0 ++ leBytes 4 128 ++ leBytes 8 0x8000 ++ leBytes 8 0 ++ leBytes 8 2
    ++ leBytes 8 4 ++ leBytes 40 77
/-- The ring at offset 0 with that command, the value of key 0 being 1 in its first element. -/
def wAttn (opcode flags : Nat) (a : Attn) : State :=
  { wEngine {} with
    pattern := some (wPattern 1), mem := cells 0 (wAttnBytes opcode flags) ++ [(0x4040, 0x38)]
    blocks := [(0, { attn := a, pwr := { state := 0 } })], counters := [(2, { owner := 0, value := 3 }), (0, { owner := 0 })] }
def wAttnJob : AttnJob := { index := 5, cmd := attnOf (wAttnBytes 1 0x22), status := 4 }

/-- TAIL at the ring's size and past it, a flush, a failed check, a wait, a run to its OUT bytes and a completion
(R90, R227 to R232, R235). -/
theorem witness_AttentionCommandsTakeTheirTurn :
    (hostReachesBlock (wAttn 1 0x20 {}) (.host 1) 0 0 ∧
     goes (exec (.attnTailWrite (.host 1) 0 16) (wAttn 1 0x20 {})) (fun t => decide (t = wAttn 1 0x20 { tail := 16 })) = true ∧
     goes (exec (.attnTailWrite (.host 1) 0 17) (wAttn 1 0x20 {})) (fun t => decide (t = wAttn 1 0x20 { tailError := true })) = true ∧
     goes (exec (.attnFlush (.host 1) 0 1) (wAttn 1 0x20 { tail := 1 })) (fun t => decide ((t.block 0).attn.head = 1 ∧
       (t.block 0).attn.lastFail = 8)) = true) ∧
    (attnPart (wAttn 2 0x20 { tail := 1 }) 0 = some 0 ∧
     ringRead (wAttn 2 0x20 { tail := 1 }) 0 0 4 128 0 = (0, wAttnBytes 2 0x20, wAttn 2 0x20 { tail := 1 }) ∧
     attnCheck (wAttn 2 0x20 { tail := 1 }) 0 (attnOf (wAttnBytes 2 0x20)) = 0x0B ∧
     goes (exec (.attend ⟨0, none⟩) (wAttn 2 0x20 { tail := 1 })) (fun t => decide ((t.block 0).attn.lastFail = 0x0B ∧
       (t.block 0).attn.failTag = 77)) = true) ∧
    (attnCheck (wAttn 1 0x21 { tail := 1 }) 0 (attnOf (wAttnBytes 1 0x21)) = 0 ∧ (attnOf (wAttnBytes 1 0x21)).waits = true ∧
     ctrMet (wAttn 1 0x21 { tail := 1 }) 2 4 = false ∧
     goes (exec (.attend ⟨0, none⟩) (wAttn 1 0x21 { tail := 1 })) (fun t => decide ((t.block 0).attn.waiting.isSome = true)) = true) ∧
    (attnCheck (wAttn 1 0x20 { tail := 1 }) 0 (attnOf (wAttnBytes 1 0x20)) = 0 ∧
     blockSuspect (wAttn 1 0x20 { tail := 1 }) 0 = false ∧ ((wAttn 1 0x20 { tail := 1 }).part 0).insole = true ∧
     (∀ x ∈ attnReads (attnOf (wAttnBytes 1 0x20)), readCode (wAttn 1 0x20 { tail := 1 }) 0 x.1 x.2 = 0) ∧
     attnOutput (wAttn 1 0x20 { tail := 1 }) 0 (attnOf (wAttnBytes 1 0x20)) = [0x80, 0x3F] ++ List.replicate 126 0 ∧
     writeCode (wAttn 1 0x20 { tail := 1 }) 0 0x8000 128 (fun _ => false) = 0 ∧
     goes (exec (.attend ⟨0, none⟩) (wAttn 1 0x20 { tail := 1 })) (fun t => decide ((t.block 0).attn.jobs.length = 1 ∧
       memByte t.mem 0x8001 = 0x3F)) = true) ∧
    goes (exec (.attendComplete 0 5) (wAttn 1 0x20 { jobs := [wAttnJob] })) (fun t => decide ((t.block 0).attn.jobs = [] ∧
      (t.block 0).attn.lastFail = 4 ∧ (t.counter 0).fault = true)) = true := by
  decide +kernel

/-! ### Tiers (09) -/

/-- A migration entry's 32 bytes (Table 09-4): one page at 0x1_0000 to DDR5. -/
def wMigBytes (op flags : Nat) : List Byte :=
  leBytes 1 op ++ [2] ++ leBytes 2 flags ++ leBytes 4 1 ++ leBytes 8 0x1_0000 ++ leBytes 2 2 ++ leBytes 2 2 ++ leBytes 4 0 ++ leBytes 8 0
def wDimm : Dimm := { capacityGiB := 32, rate := 6400, ecc := true, manufacturer := 0, serial := 0, part := [] }
def wMig (bs : List Byte) (m : PMem) (dimms : List (Option Dimm)) : State :=
  (({ withCtr (opened 1) 2 5 with mem := cells 0 bs }).modSled fun x => { x with dimms := dimms }).modPMem 0 fun _ => m
def wMigJob (left : List Nat) (restarts : Nat) : MigJob := { entry := migOf (wMigBytes 1 2), left := left, restarts := restarts }

/-- TAIL at the ring's size and past it; an entry that starts and one of another OP; a copy that a write reached
for the third and for the fourth time, and with no DIMM; the end of an entry that failed (R303 to R309). -/
theorem witness_MigrationMovesPages :
    (goes (exec (.migTailWrite (.host 1) 0 16) (wMig [] {} [])) (fun t => decide (t = wMig [] { tail := 16 } [])) = true ∧
     goes (exec (.migTailWrite (.host 1) 0 17) (wMig [] {} [])) (fun t => decide (t = wMig [] { tailError := true } [])) = true) ∧
    (partRuns (wMig (wMigBytes 1 2) { tail := 1 } []) 0 = true ∧
     ringRead (wMig (wMigBytes 1 2) { tail := 1 } []) 0 0 4 32 0 = (0, wMigBytes 1 2, wMig (wMigBytes 1 2) { tail := 1 } []) ∧
     migCheck (wMig (wMigBytes 1 2) { tail := 1 } []) 0 (migOf (wMigBytes 1 2)) = 0 ∧ (migOf (wMigBytes 1 2)).flags.testBit 0 = false ∧
     pagesToMove (wMig (wMigBytes 1 2) { tail := 1 } [some wDimm]) 0 (migOf (wMigBytes 1 2)) = [1] ∧
     goes (exec (.movePages 0) (wMig (wMigBytes 1 2) { tail := 1 } [some wDimm])) (fun t => decide
       ((t.part 0).mem.job = some { wMigJob [1] 0 with taken := true })) = true ∧
     poolFree (wMig (wMigBytes 1 2) { tail := 1 } []) 0 2 = 0 ∧
     goes (exec (.movePages 0) (wMig (wMigBytes 1 2) { tail := 1 } [])) (fun t => decide
       ((t.part 0).mem.job = some { wMigJob [] 0 with status := 0x0B } ∧ (t.part 0).mem.failAt = 0x1_0000)) = true ∧
     migCheck (wMig (wMigBytes 2 2) { tail := 1 } []) 0 (migOf (wMigBytes 2 2)) = 0x0B ∧
     goes (exec (.movePages 0) (wMig (wMigBytes 2 2) { tail := 1 } [])) (fun t => decide ((t.part 0).mem.lastFail = 0x0B)) = true) ∧
    (poolFree (wMig [] { job := some (wMigJob [1] 2) } [some wDimm]) 0 2 ≠ 0 ∧
     goes (exec (.pageMoveDone ⟨0, none⟩ 1 true) (wMig [] { job := some (wMigJob [1] 2) } [some wDimm])) (fun t => decide
       ((t.part 0).mem.job = some (wMigJob [1] 3))) = true ∧
     badIn (wMig [] { job := some (wMigJob [1] 3) } [some wDimm]) (memKey 0 0x1_0000) 65536 = [] ∧
     goes (exec (.pageMoveDone ⟨0, none⟩ 1 true) (wMig [] { job := some (wMigJob [1] 3) } [some wDimm])) (fun t => decide
       (tierOf t 0 0x1_FFFF = 2 ∧ (t.part 0).mem.job = some (wMigJob [] 0))) = true ∧
     goes (exec (.pageMoveDone ⟨0, none⟩ 1 false) (wMig [] { job := some (wMigJob [1, 2] 0) } [])) (fun t => decide
       (tierOf t 0 0x1_0000 = 2 ∧ (t.part 0).mem.failAt = 0x2_0000 ∧
        (t.part 0).mem.job = some { wMigJob [] 0 with status := 0x0B })) = true ∧
     goes (exec (.pageMoveDone ⟨0, none⟩ 1 false) (wMig [] { job := some (wMigJob [1, 2] 0) } [some wDimm])) (fun t => decide
       ((t.part 0).mem.job = some { wMigJob [2] 0 with taken := true })) = true) ∧
    goes (exec (.migrationEntryDone 0) (wMig [] { job := some { wMigJob [] 0 with status := 4 } } [])) (fun t => decide
      ((t.part 0).mem.job = none ∧ t.counter 2 = { owner := 0, value := 6, fault := true })) = true := by
  decide +kernel

/-- NVMe command 9 of drive 3 for the one request of descriptor 5 of Awl 0. -/
def wNvCmd : NvCmd :=
  { id := 9, drive := 3, awl := 0, index := 15, req := 0, write := true, part := 0, addr := 0x1000, len := 64, sentAt := 5 }
def wNvme (now : Nat) (cache : Bool) : State :=
  { opened 1 with
    nvCmds := [wNvCmd], awls := [(0, { jobs := [{ wJob with outstanding := [{ wReq with way := .nvWrite }] }] })], now := now
    mgmt := { drives := [(3, { state := 1, cache := cache })] } }
/-- Two mapping entries may name one NVMe region at 0x700_0000. -/
def wNvMaps (m : PMem) : State :=
  ({ opened 1 with pattern := some { wPattern 1 with
    placements := [{ owner := 0, tier := 4, use := 0, model := 255, pinned := false, start := 0x700_0000, length := 0x1_0000 }] } }).modPMem 0
    fun _ => m
def wLocalWord : Word := 0x8000_0000_0700_0000

/-- Every stack and channel powered, a pass under way. -/
def wPatrol : State :=
  { opened 1 with now := 5, power := { hbmOn := 0xFFF, ddrOn := 0xF } }.modPTrust 0 fun t => { t with tags := [(15, 1)] }

/-- A command that fails, a last write with a volatile cache, NV_TIMEOUT at its last microsecond, a drive that fails, a
mapping that overlaps and one that does not, a word found bad at the end of a pass, a blank page (R299, R301, R302, R317, R392,
R444). -/
theorem witness_DrivesMappingsAndPatrol :
    (nvCmd (wNvme 6 true) 3 9 = some wNvCmd ∧ awlPart (wNvme 6 true) 0 = some 0 ∧
     goes (exec (.nvmeCompletion 3 9 false 0 []) (wNvme 6 true)) (fun t => decide (t.nvCmds = [] ∧
       (t.awl 0).jobs.map (fun (j : AwlJob) => j.status) = [4])) = true ∧
     ((wNvme 6 true).drive 3).cache = true ∧ ((wNvme 6 true).part 0).last.jobs = [] ∧ wNvCmd.last = none ∧
     nvQueueFull (wNvme 6 true) 0 3 = false ∧ wJob.cached = [] ∧
     goes (exec (.nvmeCompletion 3 9 true 0 []) (wNvme 6 true)) (fun t => decide
       (t.nvCmds.map (fun (c : NvCmd) => (c.flush, c.sentAt)) = [(true, 6)] ∧ t.out.length = 1)) = true ∧
     wNvCmd.sentAt + ((wNvme 500005 false).part 0).mem.nvTimeout = (wNvme 500005 false).now ∧
     goes (exec (.nvTimeout 3 9) (wNvme 500005 false)) (fun t => decide (t.nvCmds = [] ∧
       (t.awl 0).jobs.map (fun (j : AwlJob) => j.status) = [3])) = true) ∧
    (goes (exec (.nvmeDriveFailed 3 7) { wNvme 6 false with nvCmds := [] }) (fun t => decide ((t.drive 3).state = 2)) = true ∧
     goes (exec (.nvmeDriveFailed 4 7) (wNvme 6 false)) (fun t => decide (t = wNvme 6 false)) = true) ∧
    (goes (exec (.nvMappingWrite (.host 1) 0 0 false 15 0xFFFF_FFFF_FFFF_FFFF) (wNvMaps {})) (fun t => decide
       ((t.part 0).mem.nbLocal.at 15 0 = 0x8000_FFFF_FFFF_0000)) = true ∧
     nvOverlaps (wNvMaps { nvLocal := [(1, wLocalWord)] }) 0 0 (putMap { nvLocal := [(1, wLocalWord)] } true 0 0 wLocalWord) = true ∧
     goes (exec (.nvMappingWrite (.host 1) 0 0 true 0 wLocalWord) (wNvMaps { nvLocal := [(1, wLocalWord)] })) (fun t => decide
       ((t.part 0).mem = { nvLocal := [(1, wLocalWord)], nvOverlap := 1 })) = true ∧
     nvOverlaps (wNvMaps {}) 0 7 (putMap {} true 0 7 wLocalWord) = false ∧
     goes (exec (.nvMappingWrite (.host 1) 0 0 true 7 wLocalWord) (wNvMaps {})) (fun t => decide
       ((t.part 0).mem = { nvLocal := [(7, wLocalWord)] })) = true ∧
     goes (exec (.nvMappingWrite (.host 1) 0 0 true 7 wLocalWord) { wNvMaps {} with mgmt := { drives := [(0, { state := 1 })] } })
       (fun t => t.out.contains (.nvmeAdmin 0 (.createQueue 0))) = true) ∧
    (wPatrol.regs.scrubOff = false ∧ wPatrol.regs.scrubFrom ≤ wPatrol.now ∧ channelOn wPatrol 1 383 = true ∧
     channelSuspect wPatrol 1 383 = false ∧ channelOn wPatrol (tierOf wPatrol 0 0xF_FFE0) (channelOf wPatrol 0 0xF_FFE0) = true ∧
     goes (exec (.patrolScrub (.hbm 383) 0 true false) wPatrol) (fun t => decide (t.hbmEcc = [(383, { corrected := 1 })])) =
       true ∧ inRange (opened 1) 0 onSled false 0xF_FFE0 32 = true ∧
     suspectAt (opened 1) 0 0xF_FFE0 = false ∧ blankPage wPatrol 0 0xF_FFE0 = false ∧ tierOf (opened 1) 0 0xF_FFE0 ≠ 2 ∧
     goes (exec (.patrolScrub (.range 0) 0xF_FFFF true true) wPatrol) (fun t => decide (t.hbmEcc = [(0, { corrected := 1 })] ∧
       t.regs.scrubPasses = 1)) = true ∧
     goes (exec (.patrolScrub (.range 0) 0xF_FFFF false false) wPatrol) (fun t => decide (t.badWords = [0x7FFF])) = true ∧
     blankPage wPatrol 0 0x1_0000 = true ∧
     goes (exec (.patrolScrub (.range 0) 0x1_0000 false false) wPatrol) (fun t => decide (t.badWords = [])) = true) := by
  decide +kernel

/-! ### Fabric (10) -/

/-- Port 2 of the module Open as device 1. -/
def wPort (x : Port) : State := { opened 1 with
  now := 20000, fab := { (opened 1).fab with device := 1, ports := [(2, x), (4, { state := 4 })] } }
def wHello (serial : Word) (device : BitVec 16) : HelloUnit :=
  { echoRequest := false, echoReply := false, device := device, port := 7, state := 5, serial := serial, stamp := 0, loopNs := 0 }

theorem serial_other : Config.serial + 1 ≠ Config.serial := by bv_omega

/-- The bring-up events of port 2 at the last microsecond of their intervals (R338 to R341). -/
theorem witness_LinksAreBroughtUp :
    (portEnabled (wPort { state := 1 }) 2 = true ∧ portSuspect (wPort { state := 1 }) 2 = false ∧
     goes (exec (.serdesGroupWake 1) (wPort { state := 1 })) (fun t => decide ((t.port 2).state = 2 ∧ groupOn t 1 = true)) = true) ∧
    (goes (exec (.trainingDone 2 true) (wPort { state := 2 })) (fun t => decide ((t.port 2).state = 3)) = true ∧
     goes (exec (.trainingTimeout 2) (wPort { state := 3, enteredAt := 8000 })) (fun t => decide ((t.port 2).state = 5)) = true ∧
     goes (exec (.helloMissing 2) (wPort { state := 4, helloAt := some 19700, retrains := 255 })) (fun t => decide
       ((t.port 2).state = 5 ∧ (t.port 2).retrains = 255)) = true ∧
     goes (exec (.downRetrain 2) (wPort { state := 5, enteredAt := 19900 })) (fun t => decide ((t.port 2).state = 2)) = true ∧
     goes (exec (.helloTimer 2) (wPort { state := 3, helloSentAt := some 19900 })) (fun t => decide (t.out.length = 1 ∧
       (t.port 2).helloSentAt = some 20000)) = true) ∧
    (((wPort { state := 3, helloSentAt := some 1 }).port 2).helloSentAt ≠ none ∧ (wHello (Config.serial + 1) 0xFFFF).serial ≠ Config.serial ∧
     (wHello (Config.serial + 1) 0xFFFF).device = 0xFFFF ∧ (wHello Config.serial 2).serial = Config.serial ∧
     ((wPort { state := 4, nbSerial := Config.serial }).port 2).nbSerial ≠ (wHello (Config.serial + 1) 2).serial) ∧
    (((wPort { state := 3, helloSentAt := some 1, echoed := true }).port 2).echoed = true ∧
     ((wPort { state := 3, helloSentAt := some 1 }).port 2).echoed = false ∧ (wHello (Config.serial + 1) 2).echoReply = false) :=
  ⟨by decide +kernel, by decide +kernel, ⟨by decide +kernel, serial_other, rfl, rfl, serial_other.symm⟩, by decide +kernel, by decide +kernel, rfl⟩

/-- A header unit of one unit on VL 2. -/
def wHeader : BitVec 512 := BitVec.ofNat 512 (leNat [9, 0, 2, 0, 2, 16, 1, 0])

/-- An uncorrectable codeword one before the limit and at it, a packet of one unit, counts that wrap, the timers at
their last microseconds (R325 to R328, R335, R336, R340). -/
theorem witness_UnitsAndCreditsAreCounted :
    goes (exec (.codewordReceived 2 .uncorrectable) (wPort { state := 4, uncorrAt := List.replicate 6 19001 })) (fun t => decide
      ((t.port 2).state = 4 ∧ (t.port 2).uncorrectable = 1)) = true ∧
    goes (exec (.codewordReceived 2 .uncorrectable) (wPort { state := 4, uncorrAt := List.replicate 7 19001 })) (fun t => decide
      ((t.port 2).state = 5)) = true ∧
    (fld (bytesOf512 wHeader) 6 1 = 1 ∧
     goes (exec (.codewordReceived 2 (.good true [{ first := true, second := false, bits := wHeader }])) (wPort { state := 4 })) (fun t => decide
       ((t.port 2).rxQueue = [bytesOf512 wHeader] ∧ (t.port 2).vls.at 2 {} = { received := 1 })) = true) ∧
    goes (exec (.credit 2 (List.replicate 8 5)) (wPort { state := 4 })) (fun t => decide
      ((t.port 2).vls.at 7 {} = { peerFreed := 5 })) = true ∧
    goes (exec (.sync 2 (List.replicate 8 1)) (wPort { state := 4, vls := [(7, { received := 0xFFFF_FFFF, freed := 3 })] }))
      (fun t => decide ((t.port 2).vls.at 7 {} = { received := 1, freed := 5 })) = true ∧
    goes (exec (.creditTimer 2) (wPort { state := 4, creditAt := 19990 })) (fun t => decide (t.out.length = 1)) = true ∧
    goes (exec (.syncTimer 2) (wPort { state := 4, syncAt := 19936 })) (fun t => decide (t.out.length = 1)) = true := by
  decide +kernel

/-- A packet of one unit to a device with HOPS and PATH_EPOCH 6, and an entry that names port 4. -/
def wPacket (dest hops : Nat) : List Byte :=
  leBytes 2 dest ++ leBytes 2 2 ++ [2] ++ leBytes 1 hops ++ [1, 0] ++ leBytes 2 6 ++ leBytes 54 0
def wRouted (b : List Byte) (valid : Bool) : State :=
  (wPort { state := 4, rxQueue := [b] }).modFab fun f => { f with
    ownTx := [b], bank0 := { epoch := 6, valid := valid, routes := [(9, 0x8000_0000_0000_0004)] } }
/-- A packet for this module on a VL with its units and a CHECK; a RELAY packet of 1 byte (Table 12-8), a READ of 2
bytes, a WRITE of 1 byte and an ACK (Tables 11-1 and 11-3). -/
def wChecked (vl units : Byte) (body : List Byte) (c : BitVec 32) : List Byte :=
  [1, 0, 2, 0, vl, 16, units, 0, 6, 0, 0, 0] ++ leBytes 4 c.toNat ++ body
def wRelayOf (c : BitVec 32) : List Byte := wChecked 0 2 ([2, 0, 1, 0] ++ leBytes 44 0 ++ [7] ++ leBytes 63 0) c
def wReadOf (c : BitVec 32) : List Byte := wChecked 4 1 ([1] ++ leBytes 15 0 ++ leBytes 8 0x10 ++ leBytes 24 2) c
def wWriteOf (c : BitVec 32) : List Byte :=
  wChecked 4 2 ([2] ++ leBytes 15 0 ++ leBytes 8 0x10 ++ leBytes 24 1 ++ [9] ++ leBytes 63 0) c
def wAckPacket (c : BitVec 32) : List Byte := wChecked 6 1 ([0x12] ++ leBytes 15 0 ++ leBytes 8 0 ++ leBytes 24 0) c
def wTx : State := wPort { state := 4, txQueue := [{ input := 18, vlIn := 2, bytes := wPacket 9 3 }] }

/-- A packet for this module, one with HOPS 0, one under no valid bank, one for port 4 with HOPS 1; CHECK wrong; a
packet in its turn (R330, R337, R342 to R344). -/
theorem witness_PacketsAreRouted :
    (packetDest (wPacket 1 0) = 1 ∧
     goes (exec (.packetHeader none) (wRouted (wPacket 1 0) true)) (fun t => decide (t.out = [.localDelivery (wPacket 1 0)])) = true ∧
     goes (exec (.packetHeader (some 2)) (wRouted (wPacket 1 0) true)) (fun t => decide (t.out = [.localDelivery (wPacket 1 0)])) = true) ∧
    (packetHops (wPacket 9 0) = 0 ∧
     goes (exec (.packetHeader (some 2)) (wRouted (wPacket 9 0) true)) (fun t => decide (t.fab.dropHops = 1)) = true) ∧
    (routeEntry ((wRouted (wPacket 9 1) false).setPort 2 { state := 4 }) (wPacket 9 1) = none ∧
     goes (exec (.packetHeader (some 2)) (wRouted (wPacket 9 1) false)) (fun t => decide (t.fab.dropBank = 1)) = true) ∧
    (routeEntry ((wRouted (wPacket 9 1) true).setPort 2 { state := 4 }) (wPacket 9 1) = some (some 0x8000_0000_0000_0004) ∧
     choose ((wRouted (wPacket 9 1) true).setPort 2 { state := 4 }) 2 (wPacket 9 1) 0x8000_0000_0000_0004 = some 4 ∧
     goes (exec (.packetHeader (some 2)) (wRouted (wPacket 9 1) true)) (fun t => decide
       ((t.port 4).txQueue.map (fun (q : Queued) => packetHops q.bytes) = [0])) = true) ∧
    (((wRouted (wPacket 9 1) true).bank false).valid = true ∧ ((wRouted (wPacket 9 1) true).bank false).epoch = 6 ∧
     packetEpoch (wPacket 9 1) = 6 ∧ packetDest (wPacket 9 1) = 9 ∧
     ((wRouted (wPacket 9 1) true).bank false).routes.at 9 0 = 0x8000_0000_0000_0004 ∧
     ((wRouted (wPacket 9 1) true).port 4).state = 4 ∧ portSuspect (wRouted (wPacket 9 1) true) 4 = false) ∧
    (packetCheck (wPacket 1 0) ≠ BitVec.ofNat 32 (fld (wPacket 1 0) 12 4) ∧
     packetVl (wRelayOf 0) / 2 = 0 ∧ fld (wRelayOf 0) 0x10 1 = 2 ∧ fld (wRelayOf 0) 0x12 2 = 1 ∧
     packetLength (wRelayOf 0) = packetUnits 1 ∧ mctpPlain (slice (wRelayOf 0) 0x40 1) = false ∧ mctpPlain [0xFF] = true ∧
     heldBack (wRouted (wPacket 9 1) true) (wPacket 9 1) = false) ∧
    ((wTx.port 2).txQueue = [{ input := 18, vlIn := 2, bytes := wPacket 9 3 }] ∧
     dist32 ((wTx.port 2).vls.at 2 {}).sent ((wTx.port 2).vls.at 2 {}).peerFreed + packetLength (wPacket 9 3) ≤
       (wTx.port 2).credits.getD 2 0 ∧ packetVl (wPacket 9 3) = 2 ∧
     nextTx (wTx.port 2) = some { input := 18, vlIn := 2, bytes := wPacket 9 3 } ∧
     goes (exec (.portTransmit 2) wTx) (fun t => decide (t.out = [.forwarded 2 (wPacket 9 3)] ∧ (t.port 2).txQueue = [])) = true) := by
  decide +kernel

theorem checked_patch (v u : Byte) (b : List Byte) (c : BitVec 32) :
    patch (patch (patch (wChecked v u b c) 4 [0, 0]) 7 [0]) 12 [0, 0, 0, 0] =
    patch (patch (patch (wChecked v u b 0) 4 [0, 0]) 7 [0]) 12 [0, 0, 0, 0] := rfl

theorem checked_check (v u : Byte) (b : List Byte) (c : BitVec 32) :
    packetCheck (wChecked v u b c) = packetCheck (wChecked v u b 0) := by
  unfold packetCheck
  rw [checked_patch]

theorem checked_field (v u : Byte) (b : List Byte) (c : BitVec 32) :
    BitVec.ofNat 32 (fld (wChecked v u b c) 12 4) = c := by
  have f : fld (wChecked v u b c) 12 4 = leNat (leBytes 4 c.toNat) := rfl
  rw [f]
  apply BitVec.eq_of_toNat_eq
  simp only [leBytes, leNat, BitVec.toNat_ofNat]
  omega

/-- A packet with its own CHECK passes it: the CHECK does not cover itself (R330). -/
theorem witness_PacketsAreRouted_check (v u : Byte) (b : List Byte) :
    ∃ c : BitVec 32, packetCheck (wChecked v u b c) = BitVec.ofNat 32 (fld (wChecked v u b c) 12 4) :=
  ⟨packetCheck (wChecked v u b 0), by rw [checked_check, checked_field]⟩

/-- The lengths and operations of the READ, the WRITE and the ACK, whatever their CHECK. -/
theorem witness_PacketsAreRouted_ops (c : BitVec 32) :
    (packetVl (wReadOf c) / 2 = 2 ∧ fld (wReadOf c) 0x10 1 = 1 ∧ packetLength (wReadOf c) = 1) ∧
    (packetVl (wWriteOf c) / 2 = 2 ∧ fld (wWriteOf c) 0x10 1 = 2 ∧
      packetLength (wWriteOf c) = packetUnits (fld (wWriteOf c) 0x28 2)) ∧
    (packetVl (wAckPacket c) / 2 = 3 ∧ fld (wAckPacket c) 0x10 1 = 0x12 ∧ packetLength (wAckPacket c) = 1) :=
  ⟨⟨by rw [show packetVl (wReadOf c) = 4 from rfl], rfl, by simp [packetLength, wReadOf, wChecked, leBytes]⟩,
    ⟨by rw [show packetVl (wWriteOf c) = 4 from rfl], rfl, by
      rw [show fld (wWriteOf c) 0x28 2 = 1 from rfl]
      simp [packetLength, packetUnits, wWriteOf, wChecked, leBytes]⟩,
    ⟨by rw [show packetVl (wAckPacket c) = 6 from rfl], rfl, by simp [packetLength, wAckPacket, wChecked, leBytes]⟩⟩

/-- DISABLE and RETRAIN, credits up to 8,192 and past it, a routing entry with its reserved bits, a clash, the other
registers (R338, R342, R345). -/
theorem witness_FabricRegistersAreWritten :
    (globalReaches (wPort {}) (.host 0) (fpOff 2 8) ∧ globalReaches (wPort {}) .mgmt (fpOff 2 8) ∧
     goes (exec (.disable (.host 0) 2 3) (wPort { state := 4 })) (fun t => decide ((t.port 2).state = 0)) = true ∧
     goes (exec (.retrain .mgmt 2 2) (wPort { state := 4 })) (fun t => decide ((t.port 2).state = 5)) = true) ∧
    (goes (exec (.fpCreditsWrite (.host 0) 2 true 0x0080_0E80_0080_0080) (wPort { state := 1 })) (fun t => decide
       ((t.port 2).credits = [1024, 1024, 1024, 1024, 128, 128, 3712, 128])) = true ∧
     goes (exec (.fpCreditsWrite (.host 0) 2 true 0x0080_0E81_0080_0080) (wPort { state := 1 })) (fun t => decide
       (t = wPort { state := 1 })) = true) ∧
    goes (exec (.routeWrite (.host 0) 1 0xFFFF 0xFFFF_FFFF_FFFF_FFFF) (wPort {})) (fun t => decide
      (t.fab.bank1.routes = [(0xFFFF, 0xB000_FFFF_FFFF_FFFF)])) = true ∧
    ((wRouted [] true).fab.bank0.epoch = 6 ∧
     goes (exec (.fabBankWrite (.host 0) 1 0x8000_0000_0000_0006) (wRouted [] true)) (fun t => decide
       (t.fab.bank1 = { clash := true })) = true ∧
     goes (exec (.fabBankWrite (.host 0) 1 0x8000_0000_0000_0006) (wRouted [] false)) (fun t => decide
       (t.fab.bank1 = { epoch := 6, valid := true })) = true) ∧
    (goes (exec (.fabCurrentWrite (.host 0) 1) (wPort {})) (fun t => t.fab.current) = true ∧
     goes (exec (.fabDeviceWrite .mgmt 0x1_0002) (wPort {})) (fun t => decide (t.fab.device = 2)) = true) := by
  decide +kernel

/-! ### Host ports and management (12, 17) -/

def reqTray (length : Nat) : MHdr := { req length with path := .i3c 0, session := some 2 }
def wOpen : State := { sessions (opened 1) with fab := { (opened 1).fab with device := 1 }, now := 50 }
/-- A MAP_RETIRE of SEQ 5 and 4 payload bytes in MBX_REQUEST, and vector 7 of the PF with a message, masked and pending. -/
def wMail : State := wOpen.modMgmt fun m => { m with
  mbxRequest := [(0, 0x5_0000_0022), (1, 0x4_0000_0000), (2, 0x2_0005)]
  functions := [(0, { msix := [(14, 0xFEE0), (15, 0x1_0000_0041)], pending := 0x80 })] }
def wDrive : PciFunction := { classCode := nvmeClass, serial := [5], lba4096 := true, mdtsOk := true, writeCache := true }

/-- BAR4 up to the end of HBM and past it, PERST_N, a function-level reset, an enumeration, SEND (R386 to R388, R391,
R400). -/
theorem witness_HostPortsReachTheModule :
    (fnAnswers wHome 1 0 = true ∧ wHome.code 0 = 5 ∧
     inRange wHome 0 onSled false ((wHome.part 0).hostWindow + 0x10) 2 = true ∧ readCode wHome 0 0x10 2 = 0 ∧
     goes (exec (.hostBar4Access 1 0x10 (.read 2 none)) wHome) (fun t => decide (t.out = [.readBytes 1 [5, 0]])) = true ∧
     ((0 : Nat) < 2 ∧ (wHome.part 0).hostWindow + 0x10 + 2 ≤ benchBase) ∧
     goes (exec (.hostBar4Access 1 0x10 (.read 2 (some (0x10, false)))) wHome) (fun t => decide
       (t.out.getLast? = some (.completerAbort 1) ∧ t.mem = wHome.mem)) = true ∧
     inRange wHome 0 onSledW false 0x10F_FFFF 1 = true ∧ allTrusted wHome = true ∧
     writeCode wHome 0 0x10F_FFFF 1 (fun _ => false) = 0 ∧ badIn wHome (memKey 0 0x10F_FFFF) 1 = [] ∧
     goes (exec (.hostBar4Access 1 0x10F_FFFF (.write [7])) wHome) (fun t => decide (memByte t.mem 0x10F_FFFF = 7)) = true ∧
     inRange wHome 0 onSledW false 0x10F_FFFF 2 = false ∧
     goes (exec (.hostBar4Access 1 0x10F_FFFF (.write [7, 7])) wHome) (fun t => decide (t = wHome)) = true) ∧
    goes (exec (.hostBar4Access 0 0 (.read 1 none)) wHome) (fun t => decide (t.out = [.unsupported 0])) = true ∧
    goes (exec (.perst true) { wOpen with mgmt := { functions := [(0, { configured := true })], linkA := true } }) (fun t => decide
      (t.mgmt = { perstAlow := true })) = true ∧
    (pageAnswers wMail 0 = true ∧ pageWord 0 384 15 = .msix 15 ∧
     goes (exec (.hostSlotWrite 0 384 (.aligned 15) 0x42) wMail) (fun t => decide (t.out = [.msix 0 7 0xFEE0 0x42])) = true ∧
     goes (exec (.hostSlotWrite 0 384 (.aligned 14) 0x42) wMail) (fun t => decide (t.out = [] ∧
       (t.mgmt.functions.at 0 {}).msix.at 14 0 = 0x42)) = true) ∧
    goes (exec (.functionLevelReset 64) { wOpen with mgmt := { functions := [(0, {}), (64, {})] } }) (fun t => decide
      (t.mgmt.functions = [(0, {})])) = true ∧
    (globalReaches (wOpen.modPow fun w => { w with pcieBOn := true }) (.host 0) 0x3_0038 ∧ wOpen.mgmt.drives = [] ∧ formatOk wDrive = true ∧
     goes (exec (.rescan (.host 0) 1 [wDrive]) (wOpen.modPow fun w => { w with pcieBOn := true })) (fun t => decide
       (t.mgmt.drives = [(0, { state := 1, cache := true, serial := [5] })])) = true) ∧
    (fnAnswers wOpen 0 0x3_0000 = true ∧
     spdmInBox (mailboxBytes (wOpen.modMgmt fun m => { m with mbxRequest := [(0, 0xE110)] })) = true ∧
     goes (exec (.send 0 1) (wOpen.modMgmt fun m => { m with mbxRequest := [(0, 0xE110)] })) (fun t => t.mgmt.mbxBusy) = true ∧
     spdmInBox (mailboxBytes wMail) = false ∧ fld (mailboxBytes wMail) 2 1 % 4 = 0 ∧
     goes (exec (.send 0 1) wMail) (fun t => decide (t.mgmt.mbxBusy = false ∧ t.mgmt.mbxReady = true ∧
       (t.mgmt.mbxReply.at 0 0).toNat % 65536 = 0x22)) = true ∧
     goes (exec (.send 0 1) (wOpen.modMgmt fun m => { m with mbxBusy := true, mbxReady := true })) (fun t => t.mgmt.mbxReady) = true) := by
  decide +kernel

/-- A load that has failed, and vector 0 of the PF. -/
def wFailing (msix : KMap Word) : State :=
  { wOpen with mgmt := { functions := [(0, { msix := msix })] } }.modLoader fun l => { l with events := { failed := true } }

/-- IDENTIFY, READ_REG of 64 registers and past a block's end, WRITE_REG; writes of a wrong width, of INT_ROUTE, by a VF
outside its window, of INT_ENABLE and of MOD_RESET (R395 to R399, R543 to R553). -/
theorem witness_ManagementAndHostWriteRegisters :
    (requestTaken wOpen (req 0) 1 true ∧
     goes (exec (.identify (req 0)) wOpen) (fun t => decide (t.out.length = 1)) = true ∧
     (regOffsets 0 64).all regReach = true ∧ requestTaken wOpen (req 8) 2 true ∧
     goes (exec (.readReg (req 8) 0 64) wOpen) (fun t => decide (t.out.length = 1)) = true ∧
     (regOffsets 0xFFF8 2).all regReach = false ∧
     goes (exec (.readReg (req 8) 0xFFF8 2) wOpen) (fun t => decide (t.out = [.mgmtReply (req 8) 2 0x0D []])) = true ∧
     requestTaken wOpen (req 16) 3 (controlOk wOpen (req 16) false) ∧ regReach 0x70 = true ∧
     goes (exec (.writeReg (req 16) 0x70 [0xFF]) wOpen) (fun t => decide (t.regs.intRoute0 = 0x1F ∧
       t.out = [.mgmtReply (req 16) 3 0 []])) = true ∧ regReach 0x1_0000 = false ∧
     goes (exec (.writeReg (req 16) 0x1_0000 [0xFF]) wOpen) (fun t => decide (t.out = [.mgmtReply (req 16) 3 0x0D []])) = true) ∧
    (fnAnswers wOpen 0 0x74 = true ∧
     goes (exec (.registerWrite (.host 0) 0x74 8 7) wOpen) (fun t => decide (t.regs.accessOffset = 0x74 ∧ t.regs.accessCount = 1)) = true ∧
     goes (exec (.registerWrite (.host 0) 0x70 4 7) wOpen) (fun t => decide (t.regs.intRoute0 = 0 ∧ t.regs.accessCount = 1)) = true ∧
     goes (exec (.registerWrite (.host 0) 0x70 8 0xFFFF) wOpen) (fun t => decide (t.regs.intRoute0 = 0x1F1F)) = true ∧
     fnAnswers wOpen 1 0x4_FFF8 = true ∧
     goes (exec (.registerWrite (.host 1) 0x4_FFF8 8 7) wOpen) (fun t => decide (t.regs.accessFn = 1 ∧ t.regs.accessCount = 1)) = true) ∧
    (globalReaches wOpen .mgmt 0x68 ∧ (intStatus (wFailing [])).testBit 0 = true ∧
     goes (exec (.intEnableWrite (.host 0) 0x1) (wFailing [])) (fun t => decide
       (t.out = [] ∧ (t.mgmt.functions.at 0 {}).pending = 1 ∧ t.regs.intEnable = 1)) = true ∧
     goes (exec (.intEnableWrite (.host 0) 0x1) (wFailing [(0, 0xFEE0), (1, 0x41)])) (fun t => decide
       (t.out = [.msix 0 0 0xFEE0 0x41])) = true) ∧
    (resetRefused wOpen = false ∧
     goes (exec (.modReset (.host 0) 0x1_9640) wHome) (fun t => decide (t.regs.state = 2 ∧ t.mem = [] ∧ t.parts = [])) = true ∧
     goes (exec (.modReset (.host 0) 0x1_9641) wHome) (fun t => decide (t = wHome)) = true) := by
  decide +kernel

def wMapEntry (d p partner : Nat) : MapEntry := { device := d, partition := p, role := 1, partner := partner }
def wMap (epoch : Nat) : CompMap := { epoch := epoch, entries := [wMapEntry 1 0 0xFFFF] }
def wComp (c : Comp) : State := { wOpen with mgmt := { comps := [(5, c)] } }

/-- A first message of two, a whole map taken and one refused for its PARTNER, a switch, a retirement, a read
(R405 to R409). -/
theorem witness_MapsAreInstalledSwitchedAndRetired :
    (requestTaken wOpen (req 24) 0x20 (controlOk wOpen (req 24) false) ∧ installFields 5 65535 2 0 1 = true ∧
     (gather (wOpen.mgmt.comps.at 5 {}) 65535 2 0 [wMapEntry 1 0 0xFFFF]).length = 1 ∧
     goes (exec (.mapInstall (req 24) 5 65535 2 0 [wMapEntry 1 0 0xFFFF]) wOpen) (fun t => decide
       (t.out = [.mgmtReply (req 24) 0x20 0 [0]])) = true ∧
     installRefused wOpen 5 (wMap 65535) = false ∧
     goes (exec (.mapInstall (req 24) 5 65535 1 0 [wMapEntry 1 0 0xFFFF]) wOpen) (fun t => decide
       (t.mgmt.comps.at 5 {} = { next := [wMap 65535] })) = true ∧
     installRefused wOpen 5 { epoch := 1, entries := [wMapEntry 1 0 1] } = true ∧
     goes (exec (.mapInstall (req 24) 5 1 1 0 [wMapEntry 1 0 1]) wOpen) (fun t => decide
       (t.out = [.mgmtReply (req 24) 0x20 0x0B []])) = true) ∧
    (requestTaken (wComp { current := some (wMap 1), next := [wMap 2] }) (req 4) 0x21 (controlOk wOpen (req 4) false) ∧
     goes (exec (.mapSwitch (req 4) 5 2) (wComp { current := some (wMap 1), next := [wMap 2] })) (fun t => decide
       (t.mgmt.comps.at 5 {} = { current := some (wMap 2), previous := some (wMap 1) })) = true ∧
     goes (exec (.mapSwitch (req 4) 5 1) (wComp { current := some (wMap 1), next := [wMap 2] })) (fun t => decide
       (t.out = [.mgmtReply (req 4) 0x21 0x0B []])) = true) ∧
    (goes (exec (.mapRetire (req 4) 5 1) (wComp { current := some (wMap 2), previous := some (wMap 1) })) (fun t => decide
       (t.mgmt.comps.at 5 {} = { current := some (wMap 2) })) = true ∧
     goes (exec (.mapRetire (req 4) 5 2) (wComp { current := some (wMap 2), previous := some (wMap 1) })) (fun t => decide
       (t.out = [.mgmtReply (req 4) 0x22 0x0B []])) = true) ∧
    ((wComp { current := some (wMap 2) }).mgmt.comps.at 5 {}).live = [wMap 2] ∧
    goes (exec (.mapRead (req 8) 5 2 0) (wComp { current := some (wMap 2) })) (fun t => decide (t.out.length = 1)) = true := by
  decide +kernel

def wEvents : State := wOpen.modMgmt fun m => { m with
  events := [{ seq := 3, boot := 1, kind := 4, time := 0 }, { seq := 4, boot := 1, kind := 5, time := 0 }], eventSeq := 4
  noticeQueue := [(0x8001, [7]), (0x8001, [8])], telemetryMs := 10, noticeSession := some 1 }

/-- The event log, a notice, telemetry at both ends of its range and when it is due, ALIGN_SET, RESET taken and refused,
RELAY of the longest message (R398, R401 to R403, R415, R551, R553). -/
theorem witness_EventsTelemetryAlignmentAndReset :
    (requestTaken wEvents (req 8) 0x30 true ∧
     goes (exec (.eventsRead (req 8) 4) wEvents) (fun t => decide (t.out.length = 1 ∧ t.mgmt.events.length = 2)) = true ∧
     wEvents.mgmt.eventsLost = 0 ∧
     goes (exec (.eventsAck (req 8) 3) wEvents) (fun t => decide (t.mgmt.events.map (fun (e : EventRec) => e.seq) = [4])) = true) ∧
    goes (exec (.noticeRead (reqTray 0)) wEvents) (fun t => decide (t.mgmt.noticeQueue = [(0x8001, [8])])) = true ∧
    (requestTaken wEvents (reqTray 4) 0x40 (controlOk wEvents (reqTray 4) true) ∧
     goes (exec (.telemetrySet (reqTray 4) 60000) wEvents) (fun t => decide (t.mgmt.telemetryMs = 60000)) = true ∧
     goes (exec (.telemetrySet (reqTray 4) 9) wEvents) (fun t => decide (t.mgmt.telemetryMs = 10 ∧
       t.out = [.mgmtReply (reqTray 4) 0x40 0x0B []])) = true) ∧
    (wEvents.mgmt.telemetryAt + 1000 * wEvents.mgmt.telemetryMs = ({ wEvents with now := 10000 } : State).now ∧
     goes (exec .telemetry { wEvents with now := 10000 }) (fun t => decide (t.mgmt.telemetryAt = 10000 ∧ t.mgmt.noticeCount = 1)) = true) ∧
    goes (exec (.alignSet (req 6) 1 7 [9]) wEvents) (fun t => decide (t.mgmt.alignSource = true ∧ t.mgmt.alignTargets = [9])) = true ∧
    (requestTaken wHome (req 0) 0x60 true ∧ controlOk (sessions wHome) (req 0) true = true ∧
     goes (exec (.reset (req 0)) (sessions wHome)) (fun t => decide (t.regs.state = 2 ∧ t.mem = [])) = true ∧
     resetRefused (sessions { wHome with regs := { state := 9 } }) = true ∧
     goes (exec (.reset (req 0)) (sessions { wHome with regs := { state := 9 } })) (fun t => decide (t.mem = wHome.mem)) = true) ∧
    (mgmtHears wOpen (req 0) 0 = true ∧ wOpen.fab.device ≠ 0xFFFF ∧
     goes (exec (.relay (req 0) 2 [5]) wOpen) (fun t => decide (t.fab.ownTx.length = 1)) = true) := by
  decide +kernel

/-! ### Trust (13) -/

def wKeyed : State := wOpen.modTrust fun t => { t with
  slots := [(8, [1]), (9, [2]), (12, List.replicate 68 3)], slotCounter := 6, bootedB := [2] }
def wKey : List Byte := List.replicate 67 0 ++ [9]
/-- A binding record for serial 7, signer slot 0 (Table 13-9). -/
def wBinding : List Byte := [0x4C, 0x4E, 0x57, 0x42, 1, 0, 1, 0] ++ List.replicate 40 0 ++ leBytes 8 7

/-- Slot 12 written first over I3C; a signed write, a policy and a binding as the verifier rules; FW_STAGE past the end of
what was written (R422 to R424, R428, R439, R441). -/
theorem witness_OwnerKeysPolicyAndFirmware :
    (trustTaken wOpen (reqTray 80) true ∧ slotKey wOpen 12 = [] ∧ wKey.length = 68 ∧ wKey.all (· == 0) = false ∧
     goes (exec (.slotWrite (reqTray 80) 12 0 wKey []) wOpen) (fun t => decide (slotKey t 12 = wKey)) = true) ∧
    (trustTaken wKeyed (req 80) (managed wKeyed (req 80)) ∧ slotKey wKeyed 12 ≠ [] ∧ wKeyed.trust.slotCounter < 7) ∧
    (trustTaken wKeyed (req 80) (overEthernet (req 80).path && inSession wKeyed (req 80) 8) ∧
     goes (exec (.fwStage (req 80) 2 1 [7, 8]) wKeyed) (fun t => decide
       (slice (t.trust.copies.at 4 {}).bytes 1 2 = [7, 8])) = true ∧
     goes (exec (.fwStage (req 80) 4 0 [7, 8]) wKeyed) (fun t => decide ((t.trust.copies.at 9 {}).bytes = [7, 8])) = true) ∧
    (wBinding.length = 0x30 + 8 * fld wBinding 6 2 ∧ slice wBinding 0 6 = [0x4C, 0x4E, 0x57, 0x42, 1, 0] ∧
     fld wBinding 8 1 = 0 ∧ fld wBinding 6 2 = 1 ∧
     rising ((List.range (fld wBinding 6 2)).map fun k => fld wBinding (0x30 + 8 * k) 8) = true ∧ wKeyed.trust.bindings = []) := by
  decide +kernel

/-- Partition 0 whose model 1, 64 zero bytes of weights at 0x200_0000, has a DIGEST. -/
def wWeights (digest : List Byte) (t : PTrust) : State :=
  ({ wOpen with pattern := some { wPattern 1 with models := [{ wModel with digest := digest }] }
                trust := { wOpen.trust with hashing := [(0, 1, req 2)] } }).modPTrust 0 fun _ => t
def wSwept : PTrust := { newest := 255, older := 254, sweeping := true, tags := [(16, 254), (17, 254)] }

/-- The state with the first word of page 17 uncorrectable. -/
def wSpoiled (s : State) : State := { s with badWords := [memKey 0 (17 * 65536) / 32] }

theorem wWeights_bytes : loadBytes (wWeights [] {}) 0 0x200_0000 64 = List.replicate 64 0 := by decide +kernel

/-- The two outcomes of a hash; KEY_ROTATE past generation 255 and refused; pages swept; KEY_RETIRE; the older generation
retired (R440, R445 to R448). -/
theorem witness_WeightsAndGenerations :
    (trustTaken (wWeights [] {}) (req 2) (overEthernet (req 2).path && inSession (wWeights [] {}) (req 2) 8) ∧
     modelSet (wWeights [] {}) 0 1 = true ∧ weightsOf (wWeights [] {}) 0 1 ≠ none ∧
     goes (exec (.verifyWeights (req 2) 0 1) (wWeights [] {})) (fun t => decide (t.trust.hashing.length = 2)) = true) ∧
    ((wWeights [] {}).model 0 1 = some { wModel with digest := [] } ∧
     weightsOf (wWeights [] {}) 0 1 = some { owner := 0, tier := 1, use := 1, model := 1, pinned := false, start := 0x200_0000, length := 0x1_0000 } ∧
     readCode (wWeights [] {}) 0 0x200_0000 64 = 0 ∧ (wWeights [] {}).trust.bindRequired = false ∧ (wWeights [] {}).fab.home = [] ∧
     weightsOf (wWeights [] {}) 0 1 ≠ none ∧ (∀ e, weightsOf (wWeights [] {}) 0 1 = some e → onSled e = true)) ∧
    (((wWeights [] { newest := 255 }).part 0).trust.twoLive = false ∧
     goes (exec (.keyRotate (req 1) 0) (wWeights [] { newest := 255 })) (fun t => decide ((t.part 0).trust.newest = 1 ∧
       (t.part 0).trust.older = 255)) = true ∧
     ((wWeights [] wSwept).part 0).trust.twoLive = true ∧
     goes (exec (.keyRotate (req 1) 0) (wWeights [] wSwept)) (fun t => decide ((t.part 0).trust = wSwept)) = true) ∧
    (wSwept.tags.at 17 0 = wSwept.older ∧ placeOf (wWeights [] wSwept) 0 (17 * 65536) = .own ∧ allTrusted (wWeights [] wSwept) = true ∧
     badIn (wWeights [] wSwept) (memKey 0 (17 * 65536)) 65536 = [] ∧ (wWeights [] wSwept).fab.home = [] ∧
     goes (exec (.sweepPageDone 0 17 ⟨false, none, true⟩) (wWeights [] wSwept)) (fun t => decide ((t.part 0).trust.tags = [(16, 254), (17, 255)])) = true ∧
     goes (exec (.sweepPageDone 0 17 ⟨true, none, true⟩) (wWeights [] wSwept)) (fun t => decide ((t.part 0).trust =
       { wSwept with sweepAt := 17, sweepRestarts := 1 })) = true ∧
     badIn (wSpoiled (wWeights [] wSwept)) (memKey 0 (17 * 65536)) 65536 ≠ [] ∧
     goes (exec (.sweepPageDone 0 17 ⟨false, none, true⟩) (wSpoiled (wWeights [] wSwept))) (fun t => decide ((t.part 0).trust.stuck = 1)) = true) ∧
    (goes (exec (.keyRetire (req 2) 0 true) (wWeights [] wSwept)) (fun t => (t.part 0).trust.forced) = true ∧
     goes (exec (.keyRetire (req 2) 0 false) (wWeights [] wSwept)) (fun t => decide ((t.part 0).trust = wSwept)) = true) ∧
    (({ wSwept with tags := [] } : PTrust).olderPages = [] ∧ keyReaders (wWeights [] { wSwept with forced := true }) 0 = 0 ∧
     goes (exec (.generationRetired 0) (wWeights [] { wSwept with tags := [] })) (fun t => decide ((t.part 0).trust.older = 0)) = true ∧
     goes (exec (.generationRetired 0) (wWeights [] { wSwept with forced := true })) (fun t => (t.part 0).trust.olderRetired) = true) := by
  decide +kernel

/-- A DIGEST that is the weights' own, and one of 33 bytes, which no digest is (R440). -/
theorem witness_WeightsAndGenerations_digests :
    shake256 (loadBytes (wWeights [] {}) 0 0x200_0000 64) 32 = shake256 (List.replicate 64 0) 32 ∧
    shake256 (loadBytes (wWeights [] {}) 0 0x200_0000 64) 32 ≠ List.replicate 33 0 := by
  refine ⟨by rw [wWeights_bytes], fun h => ?_⟩
  have := congrArg List.length h
  simp [shake256, List.length_take] at this
  omega

def wJobs (n next limit : Nat) : State := wKeyed.modTrust fun t => { t with
  sigQueue := List.replicate n { m := req 0, kind := 1, body := [] }, identNext := next, identLimit := limit }

/-- The 64th and the 65th request for a signature; a requester with another key; the last index of a reservation, a new
reservation, and none (R432 to R434, R438). -/
theorem witness_IdentitySignaturesAreSpentOnce :
    (trustTaken (wJobs 63 0 0) (req 0) true ∧ (List.replicate 32 (4 : Byte)).length = 32 ∧
     goes (exec (.report (req 0) 255 (List.replicate 32 4)) (wJobs 63 0 0)) (fun t => decide (t.trust.sigQueue.length = 64)) = true ∧
     goes (exec (.report (req 0) 255 (List.replicate 32 4)) (wJobs 64 0 0)) (fun t => decide
       (t.out = [.spdmReply (req 0) spdmVendor false errBusy])) = true) ∧
    (spdmHears (wJobs 63 0 0) (req 0) = true ∧
     goes (exec (.challenge (req 0) [4]) (wJobs 63 0 0)) (fun t => decide (t.trust.sigQueue.length = 64)) = true ∧
     goes (exec (.challenge (req 0) [4]) (wJobs 64 0 0)) (fun t => decide (t.trust.sigQueue.length = 64)) = true) ∧
    (spdmHears wKeyed (req 0) = true ∧ slotKey wKeyed (pathSlot (req 0).path) = [1] ∧ slotKey wKeyed 8 ≠ [2] ∧
     wKeyed.trust.sessions.length < 4 ∧ wKeyed.trust.sigQueue.length < 64 ∧
     goes (exec (.keyExchange (req 0) [2] []) wKeyed) (fun t => decide
       (t.out = [.spdmReply (req 0) spdmKeyExchange false errInvalid])) = true) ∧
    (goes (exec (.signatureDone false) (wJobs 1 4095 4096)) (fun t => decide (t.trust.identNext = 4096 ∧ t.trust.sigQueue = [])) = true ∧
     goes (exec (.signatureDone true) (wJobs 1 (2 ^ 40 - 4096) 7)) (fun t => decide (t.trust.identLimit = 2 ^ 40)) = true ∧
     goes (exec (.signatureDone false) (wJobs 1 4096 4096)) (fun t => decide (t.trust.identNext = 4096 ∧
       t.out = [.spdmReply (req 0) spdmChallenge false [0x0B]])) = true) ∧
    goes (exec (.endorsement (req 0)) wKeyed) (fun t => decide (t.out.length = 1)) = true := by
  decide +kernel

/-! ### Sessions, spares and scrubs (13, 15) -/

def wSession : SpdmSession := { id := 1, path := .ethernet 0, slot := 8 }
def wTalk (chunks : List ChunkXfer) : State := { wOpen with
  trust := { sessions := [wSession], chunks := chunks }, mgmt := { noticeSession := some 1 } }
def wLong (n : Nat) : ChunkXfer :=
  { path := .ethernet 0, session := some 1, handle := 0, next := 0, bytes := List.replicate n 5, response := true }

/-- The module with a key in slot 8 and no signature asked for, its reservation holding indices 0 to 4. -/
def wFresh : State := wTalk [] |>.modTrust fun t => { t with sessions := [], slots := [(8, [1])], identLimit := 5 }
/-- ENDORSEMENT as a whole vendor-defined request of SPDM: the header, the vendor and the operation, no payload. -/
def wEndorse : List Byte := [0x13, 0xFE, 0, 0] ++ vendorId ++ [0, 0, 2, 0, 0, 0, 0, 0, 0, 0]

/-- SPDM answers; a session kept, renewed and ended, and asked for from outside it; a request in one chunk and a chunk out
of order; a long response that ends with its first chunk, and one that does not (R398, R426, R435). -/
theorem witness_SpdmSessionsAndChunks :
    (spdmHears (wTalk []) (req 0) = true ∧
     goes (exec (.getVersion (req 0)) (wTalk [])) (fun t => decide (t.out = [.spdmReply (req 0) 0x84 true [0, 1, 0, 0x13]])) = true) ∧
    (spdmHears wFresh (req 0) = true ∧ (req 0).length = (req 0).received ∧ (List.replicate 32 (4 : Byte)).length = 32 ∧ wFresh.trust.sigQueue = [] ∧
     wFresh.trust.identNext < wFresh.trust.identLimit ∧ slotKey wFresh (pathSlot (req 0).path) = [1] ∧ wFresh.trust.sessions = [] ∧
     goes (exec (.challenge (req 0) [4]) wFresh) (fun t => goes (exec (.signatureDone false) t) fun u => decide
       (u.trust.identNext = 1 ∧ u.trust.sigQueue = [])) = true) ∧
    (sessionOf (wTalk []) (reqTray 0) = none ∧
     goes (exec (.endSession (reqTray 0)) (wTalk [])) (fun t => decide (t.out = [.spdmReply (reqTray 0) 0xEC false errInvalid])) = true) ∧
    (sessionOf (wTalk []) (req 0) = some wSession ∧ (wTalk []).trust.sessions = [wSession] ∧
     goes (exec (.keyUpdate (req 0)) (wTalk [])) (fun t => decide (t.trust.sessions = [{ wSession with generation := 1 }])) = true ∧
     goes (exec (.endSession (req 0)) (wTalk [])) (fun t => decide (t.trust.sessions = [] ∧ t.mgmt.noticeSession = none)) = true) ∧
    ((wTalk []).trust.chunks = [] ∧
     goes (exec (.chunkSend (req 0) 3 0 true [5]) (wTalk [])) (fun t => decide (t.trust.chunks = [])) = true ∧
     vendorRequest [5] = false ∧
     goes (exec (.chunkSend (req 0) 3 1 false [5]) (wTalk [])) (fun t => decide (t.out = [.spdmReply (req 0) 0x85 false errInvalid])) = true) ∧
    (sameXfer (wLong 4064) (req 0) 0 true = true ∧
     goes (exec (.chunkGet (req 0) 0 0) (wTalk [wLong 4064])) (fun t => decide (t.trust.chunks = [])) = true ∧
     goes (exec (.chunkGet (req 0) 0 0) (wTalk [wLong 4065])) (fun t => decide (t.trust.chunks.map (fun (c : ChunkXfer) => c.next) = [1])) = true ∧
     goes (exec (.chunkGet (req 0) 0 1) (wTalk [wLong 4065])) (fun t => decide (t.out = [.spdmReply (req 0) 0x86 false errInvalid])) = true) := by
  decide +kernel

/-- An ENDORSEMENT in one chunk is a request of the vendor's (R426). -/
theorem witness_SpdmSessionsAndChunks_vendor :
    vendorRequest wEndorse = true ∧ wEndorse.length = 21 ∧ fld wEndorse 13 1 = 2 ∧ fld wEndorse 17 4 = 0 := by
  refine ⟨?_, ?_, ?_, ?_⟩ <;> simp [vendorRequest, wEndorse, vendorId, spdmVendor, fld, slice, leBytes, leNat]

def wSpare (flags : Nat) : State := { wOpen with parts := [], pattern := some { serial := 1, module := some { wModule with flags := flags } } }
def wScrubbing : State := { wPartPatterned with mem := [(0x10, 5)], parts := [(0, { code := 8, trust := { scrubTo := 3, owed := true } })] }

/-- STAND_IN of a spare and of none, TEARDOWN of a composition and of none, a scrub that ends, RECLAIM with no partition
and with one, a debug challenge, a refused token and its lock (R425, R450 to R458, R509 to R511). -/
theorem witness_SparesTeardownAndScrubs :
    (recoveryTaken (wSpare 4) (req 2) 0x53 2 ∧ (wSpare 4).modulePiece = some { wModule with flags := 4 } ∧
     (wSpare 4).faults.stoodIn.toNat ≠ 65534 ∧ (4 : Nat).testBit 2 = true ∧ definedParts (wSpare 4) = [] ∧
     goes (exec (.standIn (req 2) 65534) (wSpare 4)) (fun t => decide (t.fab.device = 65534 ∧ t.regs.state = 2)) = true ∧
     goes (exec (.standIn (req 2) 65534) (wSpare 3)) (fun t => decide (t.fab.device = 1 ∧ t.regs.state = 5)) = true) ∧
    (recoveryTaken wOpen (req 2) 0x54 2 ∧ (wOpen.mgmt.comps.at 5 {}).live = [] ∧
     goes (exec (.teardown (req 2) 5) wOpen) (fun t => decide (t.parts = wOpen.parts)) = true ∧
     recoveryTaken (wComp { current := some (wMap 2) }) (req 2) 0x54 2 ∧ ((wComp { current := some (wMap 2) }).mgmt.comps.at 5 {}).live ≠ [] ∧
     goes (exec (.teardown (req 2) 5) (wComp { current := some (wMap 2) })) (fun t => decide (t.mgmt.comps = [])) = true) ∧
    (wScrubbing.code 0 = 8 ∧ (wScrubbing.part 0).trust.scrubTo = 3 ∧ wScrubbing.pattern.isSome ∧ (wPattern 1).programs = [] ∧
     wScrubbing.loader.waitingScrub = false ∧ wScrubbing.trust.reclaim = none ∧
     goes (exec (.scrubDone 0) wScrubbing) (fun t => decide (t.code 0 = 3 ∧ t.mem = [])) = true) ∧
    (trustTaken (wSpare 0) (reqTray 0) (overI3c (reqTray 0).path && inSession (wSpare 0) (reqTray 0) 9) ∧
     (wSpare 0).parts = [] ∧ (wSpare 0).sled.poweringDown = false ∧
     goes (exec (.reclaim (reqTray 0)) (wSpare 0)) (fun t => decide (t.regs.state = 2 ∧ t.trust.slots = [])) = true ∧
     trustTaken wKeyed (reqTray 0) (overI3c (reqTray 0).path && inSession wKeyed (reqTray 0) 9) ∧
     wKeyed.piece 0 = some (wPiece 1) ∧ wKeyed.parts.find 0 ≠ none ∧
     goes (exec (.reclaim (reqTray 0)) wKeyed) (fun t => decide (t.code 0 = 8 ∧ t.trust.reclaim = some (reqTray 0))) = true) ∧
    (goes (exec .dbgChallenge wKeyed) (fun t => t.trust.nonce.isSome) = true ∧ tokenOk wKeyed [] [] = false ∧
     goes (exec (.dbgToken [] []) wKeyed) (fun t => decide (t.trust.debugRefused = 1)) = true ∧
     goes (exec .dbgLock wKeyed) (fun t => decide (t.out = [.tap true []])) = true) := by
  decide +kernel

/-! ### Power (14) -/

def wPow (average tMax : Nat) (fast : Bool) (w : PPower) : State :=
  ({ opened 1 with now := 200 }.modPow fun x => { x with average := average, tMax := tMax, fastLimit := fast }).setPower 0 w
def wPower (s : State) : PPower := (s.part 0).power

/-- A tick over the cap, at 100 degrees C, below 98 % of the cap, and in the fast limiter; the ratio held to 0.9 and to
1.1; the fast limiter taken at 7,000 W, not below, and let go after 100 us (R466 to R470). -/
theorem witness_ClocksFollowPowerAndHeat :
    (openParts (wPow 6001 0 false {}) = [0] ∧ (wPow 6001 0 false {}).power.loopNext ≤ (wPow 6001 0 false {}).now ∧
     goes (exec (.clockLoopTick 99 0 0 0) ((wPow 6001 0 false {}).modPow fun x => { x with loopNext := 201 })) (fun t => decide ((wPower t).clock = 1750)) = true ∧ capInForce (wPow 6001 0 false {}) = 6000 ∧
     goes (exec (.clockLoopTick 99 0 0 0) (wPow 6001 0 false {})) (fun t => decide ((wPower t).clock = 1725)) = true ∧
     goes (exec (.clockLoopTick 100 0 0 0) (wPow 0 0 false { clock := 700 })) (fun t => decide ((wPower t).clock = 700)) = true ∧
     (((wPow 5879 0 false {}).piece 0).map (·.powerCap)).getD 0 = 0 ∧
     goes (exec (.clockLoopTick 99 0 0 0) (wPow 5879 0 false { clock := 1700 })) (fun t => decide ((wPower t).clock = 1725)) = true ∧
     goes (exec (.clockLoopTick 99 0 0 0) (wPow 5880 0 false { clock := 1700 })) (fun t => decide ((wPower t).clock = 1700)) = true ∧
     goes (exec (.clockLoopTick 125 0 0 0) (wPow 9000 0 true {})) (fun t => decide ((wPower t).clock = 1750)) = true) ∧
    goes (exec (.powerEstimateTick 5000 4900 5400 []) (wPow 0 0 false {})) (fun t => decide (t.power.estimate = 5000 ∧
      t.power.measured = 4900)) = true ∧
    (goes (exec (.calibrationTick 1 2) (wPow 0 0 false {})) (fun t => decide (t.power.gain = 9000)) = true ∧
     goes (exec (.calibrationTick 2 1) (wPow 0 0 false {})) (fun t => decide (t.power.gain = 11000)) = true) ∧
    (goes (exec (.fastLimit .estimate) ((wPow 0 0 false {}).modPow fun w => { w with estimate := 7000 })) (fun t => t.power.fastLimit) = true ∧
     goes (exec (.fastLimit .estimate) ((wPow 0 0 false {}).modPow fun w => { w with estimate := 6999 })) (fun t => !t.power.fastLimit) = true ∧
     goes (exec (.fastLimit .comparator) (wPow 0 0 false {})) (fun t => t.power.fastLimit && t.power.overcurrent) = true ∧
     goes (exec .fastLimitClear ((wPow 0 0 true {}).modPow fun w => { w with fastClearAt := some 100 })) (fun t => decide
       (t.power.fastLimit = false ∧ (wPower t).clock = 875)) = true) := by
  decide +kernel

def wBlkPwr (x : BlockPower) (w : PPower) : State := { (wPow 0 0 false w) with blocks := [(0, { pwr := x })] }
/-- Partition 0 with blocks 0 and 1. -/
def wTwoBlocks (x : BlockPower) (off : Nat) : State := { opened 1 with
  pattern := some { wPattern 1 with parts := [(0, { wPiece 1 with blockMask := 3 })] }, blocks := [(1, { pwr := x })]
  parts := [(0, { code := 5, power := { offAfter := off } })], now := 50 }

/-- A start granted, an idle block gated, a block turned off at its last microsecond, a block woken from OFF and one from
GATED, a hint at both ends of its range, the interval of two reads, the follow ceiling and its end (R462 to R479). -/
theorem witness_BlocksAreStartedGatedAndWoken :
    (wantsGrant (wBlkPwr { startAsked := true, state := 1 } {}) 0 = true ∧
     goes (exec (.startGrant true) (wBlkPwr { startAsked := true, state := 1 } {})) (fun t => (t.block 0).pwr.waking) = true ∧
     wantsGrant (wBlkPwr { state := 0 } {}) 0 = true ∧ (wBlkPwr { state := 0 } {}).blockOwner 0 = some 0 ∧
     goes (exec (.startGrant true) (wBlkPwr { state := 0 } {})) (fun t => decide ((t.block 0).pwr.state = 1)) = true) ∧
    (openOwner (wTwoBlocks { state := 1, gatedSince := 30 } 20) 1 = some 0 ∧
     ((wTwoBlocks { state := 1 } 20).blocksOf 0).head? ≠ some 1 ∧ blockWorks (wTwoBlocks { state := 1 } 20) 1 = false ∧
     goes (exec (.blockOffTimer 1) (wTwoBlocks { state := 1, gatedSince := 30 } 20)) (fun t => decide ((t.block 1).pwr.state = 2)) = true ∧
     goes (exec (.blockOffTimer 1) (wTwoBlocks { state := 1, gatedSince := 31 } 20)) (fun t => decide ((t.block 1).pwr.state = 1)) = true) ∧
    (goes (exec (.blockWakeDone 1) (wTwoBlocks { state := 2, waking := true } 20)) (fun t => decide ((t.block 1).pwr.state = 0)) = true ∧
     goes (exec (.blockWakeDone 1) (wTwoBlocks { state := 1, waking := true } 20)) (fun t => decide ((t.block 1).pwr.state = 0)) = true) ∧
    (hostReachesBlock (wPow 0 0 false {}) (.host 1) 0 0 ∧
     goes (exec (.blkHintWrite (.host 1) 0 700) (wPow 0 0 false {})) (fun t => decide ((wPower t).hint = 700)) = true ∧
     goes (exec (.blkHintWrite (.host 1) 0 1750) (wPow 0 0 false {})) (fun t => decide ((wPower t).hint = 1750)) = true ∧
     goes (exec (.blkHintWrite (.host 1) 0 1751) (wPow 0 0 false {})) (fun t => decide ((wPower t).hint = 0)) = true ∧
     followSet (wPow 0 0 false {}) = false ∧
     goes (exec (.blkPeerDelayWrite (.host 1) 0 5) (wPow 0 0 false {})) (fun t => decide ((wPower t).peerDelay = 5)) = true) ∧
    (goes (exec (.blkArriveRead (.host 1) 0) (wPow 0 0 false { arriveAt := some 190 })) (fun t => decide ((wPower t).stepPeriod = 10)) = true ∧
     goes (exec (.blkArriveRead (.host 1) 0) (wPow 0 0 false { arriveAt := some 191 })) (fun t => decide ((wPower t).stepPeriod = 0)) = true) ∧
    goes (exec (.followExpire 0) (wPow 0 0 false { follow := some 900, followAt := 160, stepPeriod := 10 })) (fun t => decide
      ((wPower t).follow = none)) = true := by
  decide +kernel

def wFollows : State := { wPow 0 0 false { stepPeriod := 100 } with
  pattern := some { wPattern 1 with module := some { wModule with flags := 1 } } }

/-- A follower's ceiling is 1750 * 100 / 140 MHz in steps of 25 (R479). -/
theorem witness_BlocksAreStartedGatedAndWoken_follow :
    followSet wFollows = true ∧ hostReachesBlock wFollows (.host 1) 0 0 ∧
    goes (exec (.blkPeerDelayWrite (.host 1) 0 40) wFollows) (fun t => decide ((wPower t).follow = some 1250)) = true := by
  decide +kernel

/-! ### Cut, Doubt, lease and fence (14, 15) -/

def wCut (back low : Nat) : State := { wOpen with
  regs := { state := 9, previous := back }, parts := [(0, { code := 9 })], now := 1_000_000
  power := { cutFrom := back, coolLowAt := low } }
def wDoubt (doubt : List HealthUnit) : State := wOpen.modFlt fun f => { f with doubt := doubt }
/-- The state in which an access to stack 11 has had no completion for 10 us. -/
def wSilent (s : State) : State := s.modFlt fun f => { f with accessSince := [(11, 40)] }

/-- Block 0 in RUN that has completed nothing since `a`, 100,000 us after reset. -/
def wStuck (a : Nat) : State := { wOpen with
  now := 100_000, blocks := [(0, { pwr := { state := 0 }, stallSince := some a })] }
def wReplays : State := (wOpen.setPFault 0 { quiescing := true }).modHold 0 fun h => { h with
  step := some { start := 3, replay := true, streams := [] } }

/-- Cut by 5 us of low coolant and by 115 degrees C; RESUME refused and taken; one check and both; ACTION 0 and 1;
QUIESCE with bit 0 set and clear, and its end (R481 to R483, R492 to R495, R497). -/
theorem witness_CutDoubtAndQuiescing :
    (canCut wOpen = true ∧
     goes (exec (.cutEntry 5 0) wOpen) (fun t => decide (t.regs.state = 9 ∧ t.power.cutCause = 1)) = true ∧
     goes (exec (.cutEntry 4 115) wOpen) (fun t => decide (t.regs.state = 9 ∧ t.power.cutCause = 2 ∧ t.code 0 = 9)) = true ∧
     goes (exec (.cutEntry 4 114) wOpen) (fun t => decide (t.regs.state = 5)) = true) ∧
    (globalReaches (wCut 5 0) .mgmt 0x2_0038 ∧ (0x100 : Word).toNat.testBit 8 = true ∧ (wCut 5 0).faults.fencePending = false ∧
     goes (exec (.resume .mgmt 0x100 1000000 84) (wCut 5 1)) (fun t => decide (t.power.cutRefused = true ∧ t.power.coolLowAt = 1)) = true ∧
     goes (exec (.resume .mgmt 0x100 999999 84) (wCut 5 0)) (fun t => decide (t.power.cutRefused = true ∧ t.power.coolLowAt = 1)) = true ∧
     goes (exec (.resume .mgmt 0x100 1000000 85) (wCut 5 0)) (fun t => decide (t.power.cutRefused = true ∧ t.power.coolLowAt = 1_000_000)) = true ∧
     goes (exec (.resume .mgmt 0x100 1000000 84) (wCut 5 0)) (fun t => decide (t.regs.state = 3 ∧ t.code 0 = 3)) = true) ∧
    (goes (exec (.doubtCheck (.stack 11) true false) (wDoubt [])) (fun t => decide (t.faults.doubt = [.stack 11])) = true ∧
     goes (exec (.doubtCheck (.stack 11) true true) (wSilent (wDoubt [.stack 11]))) (fun t => decide (t.faults.doubt = [] ∧
       t.faults.retired = [.stack 11])) = true ∧
     goes (exec (.doubtCheck (.port 17) true true) (wDoubt [])) (fun t => decide (t = wDoubt [])) = true) ∧
    (blockBusy (wStuck 0) 0 = true ∧ ((wStuck 0).block 0).stallSince = some 0 ∧ (wStuck 0).faults.watchdog = 100_000 ∧
     goes (exec (.doubtCheck (.block 0) false true) (wStuck 0)) (fun t => decide (t.faults.doubt = [.block 0])) = true ∧
     goes (exec (.doubtCheck (.block 0) false true) (wStuck 1)) (fun t => decide (t.faults.doubt = [])) = true ∧
     goes (exec (.doubtCheck (.block 0) false false) (wStuck 0)) (fun t => decide ((t.block 0).stallSince = none)) = true) ∧
    (recoveryTaken (wDoubt [.port 17]) (req 4) 0x55 4 ∧ unitNumbers (.port 17) = (4, 17) ∧
     goes (exec (.doubtRelease (req 4) 4 0 17) (wDoubt [.port 17])) (fun t => decide (t.faults.doubt = [] ∧ t.faults.retired = [])) = true ∧
     goes (exec (.doubtRelease (req 4) 4 1 17) (wDoubt [.port 17])) (fun t => decide (t.faults.retired = [.port 17])) = true) ∧
    (hostReaches wOpen (.host 1) 0 ∧
     goes (exec (.quiesce (.host 1) 0 1) wOpen) (fun t => (t.part 0).fault.quiescing) = true ∧
     goes (exec (.quiesce (.host 1) 0 0xF9F00) wOpen) (fun t => decide ((t.part 0).fault = { replayLimit := 15, faultInt := true, faultVector := 31 })) = true) ∧
    (partIdle (wOpen.setPFault 0 { quiescing := true }) 0 = true ∧ (wOpen.part 0).hold.moves = [] ∧
     goes (exec (.quiesced 0) (wOpen.setPFault 0 { quiescing := true })) (fun t => (t.part 0).fault.quiesced) = true ∧
     (wOpen.part 0).hold.step.all (!·.replay) = true ∧ partIdle wReplays 0 = true ∧ (wReplays.part 0).hold.moves = [] ∧
     goes (exec (.quiesced 0) wReplays) (fun t => decide
       (((t.part 0).hold.step.map fun x => (x.replay, x.start)) = some (false, 50))) = true) := by
  decide +kernel

def wLease (now : Nat) : State := { wOpen with now := now, faults := { leaseRunning := true, leaseAt := 0 } }
def wFenced (now : Nat) (f : Faults) : State := { wOpen with
  now := now, regs := { state := 6, previous := 5 }, parts := [(0, { code := 6 })], faults := f
  fab := { wOpen.fab with device := 0xFFFF } }

/-- A renewal in the last microsecond and at expiry; FENCE taken and under an old RSN; a self-test that passes; GRACE at its
last microsecond; REINSTATE with a wrong boot and taken (R498 to R508). -/
theorem witness_LeaseFenceAndReinstate :
    (requestTaken (wLease 999_999) (req 0) 0x50 (controlOk (wLease 999_999) (req 0) false) ∧ leaseOver (wLease 999_999) = false ∧
     goes (exec (.leaseRenew (req 0)) (wLease 999_999)) (fun t => decide (t.faults.leaseAt = 999_999)) = true ∧
     leaseOver (wLease 1_000_000) = true ∧
     goes (exec (.leaseRenew (req 0)) (wLease 1_000_000)) (fun t => decide (t.faults.leaseAt = 0)) = true ∧
     goes (exec .leaseExpire (wLease 1_000_000)) (fun t => decide (t.regs.state = 6 ∧ t.code 0 = 6 ∧ t.fab.device = 0xFFFF)) = true) ∧
    (recoveryTaken wOpen (req 0) 0x51 0 ∧
     goes (exec (.fence (req 0)) wOpen) (fun t => decide (t.regs.state = 6 ∧ t.faults.savedDevice = 1)) = true ∧
     requestTaken (wFenced 0 { rsn := 2 }) (req 0) 0x51 (controlOk (wFenced 0 { rsn := 2 }) (req 0) false) ∧
     rsnNewer (req 0).rsn 2 = false ∧
     goes (exec (.fence (req 0)) (wFenced 0 { rsn := 2 })) (fun t => decide (t.out = [.mgmtReply (req 0) 0x51 0x0B []])) = true) ∧
    ((wFenced 0 { selfRunning := true }).modulePiece = some wModule ∧
     goes (exec (.selftestDone []) (wFenced 0 { selfRunning := true })) (fun t => t.faults.selfPass) = true ∧
     goes (exec .graceExpire (wFenced 10_000_000 {})) (fun t => decide (t.faults.graceExpired = true ∧ t.regs.state = 2)) = true ∧
     goes (exec .graceExpire (wFenced 9_999_999 {})) (fun t => decide (t.regs.state = 6)) = true) ∧
    (recoveryTaken (wFenced 0 { selfDone := true, savedDevice := 3 }) (req 8) 0x52 8 ∧
     (wFenced 0 {}).mgmt.boot = 0 ∧
     goes (exec (.reinstate (req 8) 3 1) (wFenced 0 { selfDone := true, savedDevice := 3 })) (fun t => decide (t.regs.state = 6)) = true ∧
     goes (exec (.reinstate (req 8) 3 0) (wFenced 0 { selfDone := true, savedDevice := 3, codesAtFence := [(0, 3)] })) (fun t => decide
       (t.regs.state = 5 ∧ t.fab.device = 3 ∧ t.code 0 = 3)) = true) := by
  decide +kernel

/-! ### Power sequences, pins and the debug connector (16, 13) -/

def wDark : State := { regs := { state := 0 } }
/-- Dark under an overvoltage last seen at `a`. -/
def wOver (a : Nat) : State := { wDark with now := 1_000_000, sled := { overvoltage := true, overAt := a } }
def wTrained : State := { regs := { state := 1 }, sled := { trained := true }, trust := { booted := true } }

/-- Input power at both ends of its range and past it, Kept, memory training, Verified, power-down by each cause at its
limit, its end, the overvoltage hold (R520, R528, R530 to R536). -/
theorem witness_PowerSequencesRun :
    (goes (exec (.inputPowerArrive 46000 true true true) wDark) (fun t => t.sled.inputOn) = true ∧
     goes (exec (.inputPowerArrive 66000 true true true) wDark) (fun t => t.sled.inputOn) = true ∧
     goes (exec (.inputPowerArrive 66001 true true true) wDark) (fun _ => true) = false) ∧
    keptAllowed wDark = true ∧
    (goes (exec (.bootMemoryStart [] []) { wTrained with sled := {} }) (fun t => t.sled.trained) = true ∧
     confirmedSlots wTrained.loader = [] ∧ wTrained.sled.pwrGood = true ∧ wTrained.trust.bootFault = false) ∧
    (wOpen.loader.confirming = none ∧ wOpen.loader.committing = none ∧
     goes (exec (.pwrGoodFall 8) wOpen) (fun t => decide (t.regs.state = 0 ∧ t.parts = [])) = true ∧
     goes (exec (.pwrGoodFall 7) wOpen) (fun t => decide (t.regs.state = 5)) = true ∧
     goes (exec (.inputVoltageFault 60001 10) wOpen) (fun t => decide (t.regs.state = 0 ∧ t.sled.overvoltage = true)) = true ∧
     goes (exec (.inputVoltageFault 60001 9) wOpen) (fun t => decide (t.regs.state = 5)) = true ∧
     goes (exec (.inputVoltageFault 60001 0) (wOpen.modSled fun x => { x with overSince := some 40 })) (fun t => decide (t.regs.state = 0)) = true ∧
     goes (exec (.moduleResetN false 20) wOpen) (fun t => decide (t.regs.state = 0 ∧ t.sled.forReset = true)) = true ∧
     goes (exec (.moduleResetN false 19) wOpen) (fun t => decide (t.regs.state = 5)) = true) ∧
    goes (exec (.powerDownDone false) { wDark with sled := { poweringDown := true } }) (fun t => !t.sled.poweringDown) = true ∧
    (goes (exec (.overvoltageHoldExpire 57_999 1_000_000) (wOver 0)) (fun t => !t.sled.overvoltage) = true ∧
     goes (exec (.overvoltageHoldExpire 57_999 1_000_000) (wOver 1)) (fun t => t.sled.overvoltage) = true ∧
     goes (exec (.overvoltageHoldExpire 58_000 0) (wOver 0)) (fun t => decide (t.sled.overvoltage = true ∧
       t.sled.overAt = 1_000_000 ∧ keptAllowed t = false)) = true) := by
  decide +kernel

def wGroup (c : Cage) : State := { wOpen with
  sled := { cages := [(8, c)], refclkB := some 5 }, power := { serdesOn := 0x1FF, pcieAOn := true, pcieBOn := true }, now := 100_005 }
/-- The module under an unlock of its own units at a level. -/
def wUnlocked (level : Nat) : State := wOpen.modTrust fun t => { t with unlocks := [{ level := level, scope := 0, module := true }] }

/-- A cable seated in the last cage, its load at and past 2.0 A, its reset; PERST_N of port B; a link that trains and one
that may not; a TAP instruction taken and one refused; flash (R385, R393, R430, R454, R523, R525). -/
theorem witness_CagesLinksAndDebugConnector :
    (groupOn (wGroup {}) 8 = true ∧
     goes (exec (.cabPresent 8 false) (wGroup {})) (fun t => decide ((t.sled.cages.at 8 {}).power = true)) = true) ∧
    (goes (exec (.cabOvercurrent 8 2001) (wGroup { power := true })) (fun t => (t.sled.cages.at 8 {}).latched) = true ∧
     goes (exec (.cabOvercurrent 8 2000) (wGroup { power := true })) (fun t => !(t.sled.cages.at 8 {}).latched) = true ∧
     goes (exec (.cabResetRelease 8) (wGroup { power := true, powerAt := 99_905 })) (fun t => (t.sled.cages.at 8 {}).resetReleased) = true ∧
     goes (exec (.cabResetRelease 8) (wGroup { power := true, powerAt := 99_906 })) (fun t => !(t.sled.cages.at 8 {}).resetReleased) = true) ∧
    goes (exec .portBPerstRelease (wGroup {})) (fun t => t.mgmt.perstBhigh) = true ∧
    (linkTrains 6 16 = true ∧
     goes (exec (.pcieLinkTrain false true 6 16) (wGroup {})) (fun t => decide (t.mgmt.linkA = true ∧ t.mgmt.rateA = 6)) = true ∧
     goes (exec (.pcieLinkTrain true true 6 16) (wGroup {})) (fun t => !t.mgmt.linkB) = true) ∧
    goes (exec (.mgmtLinkChange 1 true) wOpen) (fun t => t.mgmt.mgmt1) = true ∧
    (tapAccepts wOpen .extest = false ∧ tapAccepts wOpen .idcode = true ∧ tapAccepts wVerified .extest = true ∧
     goes (exec (.tapInstruction .extest) wVerified) (fun t => t.trust.tapExternal) = true ∧
     tapAccepts wOpen (.internal none (.halt 1 true)) = false ∧ tapAccepts (wUnlocked 1) (.internal none (.halt 1 true)) = false ∧
     tapAccepts (wUnlocked 2) (.internal none (.halt 1 true)) = true ∧ tapAccepts (wUnlocked 2) (.internal none (.readReg 0x70)) = true ∧
     goes (exec (.tapInstruction (.internal none (.halt 1 true))) (wUnlocked 2)) (fun t => (t.block 1).halted) = true ∧
     goes (exec (.tapInstruction (.internal none (.readReg 0x70))) (wUnlocked 2)) (fun t => decide
       (t.out = [.tap true (leBytes 8 0)])) = true) ∧
    (wOpen.trust.bootFault = false ∧
     goes (exec (.debugFlashAccess (.write 3 1 2 [7])) (wOpen.modTrust fun t => { t with bootFault := true })) (fun t => decide
       ((t.trust.copies.at 9 {}).bytes.drop 2 = [7])) = true) := by
  decide +kernel

/-! ### Every step -/

/-- A step with a command that waits, and one with none, from states in canonical form. -/
theorem witness_EveryStepKeepsMemoryCanonical :
    wHome.memOk = true ∧ goes (step { wHome with pending := [.reset (req 0)] }) (fun t => t.memOk) = true ∧
    goes (step wHome) (fun t => decide (t.now = wHome.now + 1)) = true := by
  decide +kernel

/-- A lane of 16 items takes no more. -/
theorem witness_EveryStepKeepsLanesWithinSixteen :
    (withLane (opened 1) 3 1 (List.replicate 16 9)).lanesOk = true ∧
    goes (step { withLane (opened 1) 3 1 (List.replicate 16 9) with pending := [.laneWrite 3 5 { who := .awl, more := false }] }) (fun t => t.lanesOk) = true := by
  decide +kernel

theorem witness_CommandsKeepQueueTimeAndPattern :
    goes (exec (.leaseExpire) (opened 1)) (fun _ => true) = true ∧ mayMoveTime .leaseExpire = false ∧
    mayChangePattern .leaseExpire = false ∧ mayChangeLoader .leaseExpire = false ∧ mayChangeTrust .leaseExpire = false ∧
    mayChangePower .dbgLock = false ∧ mayChangeCores .leaseExpire = false := by
  decide +kernel

theorem witness_CommandsKeepMemoryTheyDoNotWrite :
    goes (exec (.dbgLock) (opened 1)) (fun _ => true) = true ∧ mayChangeMemory .dbgLock = false := by
  decide +kernel

/-! ### WellFormed: one ill-formed command for each check, and commands at the ends of their fields -/

def bigReq : MHdr := { req 0 with length := 2 ^ 32 }
def badSvc (k : Nat) : SvcHdr :=
  let h := svc 1 0 0 0
  match k with
  | 0 => { h with handoffSeq := 65536 }
  | 1 => { h with fromDevice := 65536 }
  | 2 => { h with fromPartition := 64 }
  | 3 => { h with posA := 2 ^ 32 }
  | 4 => { h with posB := 2 ^ 32 }
  | 5 => { h with msgId := 2 ^ 64 }
  | 6 => { h with status := 0x10 }
  | _ => { h with epoch := 65536 }
def badXt (k : Nat) : XtHdr :=
  let x := wFrom 0
  match k with
  | 0 => { x with device := 65536 }
  | 1 => { x with srcPart := 64 }
  | 2 => { x with destPart := 64 }
  | _ => { x with mapEpoch := 65536 }

/-- Partition 0, and what its command read. -/
def part0 (found : Found) : PartRead := { p := 0, found := found }

/-- Core 0 with no scalar instruction before its command. -/
def wCoreRun (found : Found) : CoreRun := { core := 0, pre := [], found := found }

/-- Every command with a management header is refused when LENGTH does not fit its field (Table 12-4). -/
theorem wellformed_refuses_management_headers :
    [Instr.patBegin (.mgmt bigReq) 0, .patCommit (.mgmt bigReq) 0, .patConfirm (.mgmt bigReq) 0 0, .patAbort (.mgmt bigReq) 0,
     .patOpen (.mgmt bigReq) 0, .patStop (.mgmt bigReq) 0, .patChunk (.mgmt bigReq) 0 0 [], .identify bigReq,
     .readReg bigReq 0 1, .writeReg bigReq 0 [], .mapInstall bigReq 0 1 0 0 [], .mapSwitch bigReq 0 1, .mapRetire bigReq 0 1,
     .mapRead bigReq 0 1 0, .eventsRead bigReq 0, .eventsAck bigReq 0, .noticeRead bigReq, .telemetrySet bigReq 0,
     .alignSet bigReq 0 0 [], .reset bigReq, .relay bigReq 0 [], .report bigReq 0 (List.replicate 32 0), .endorsement bigReq,
     .slotWrite bigReq 0 0 wKey [], .policySet bigReq 0 0 [], .reclaim bigReq, .fwStage bigReq 1 0 [], .bind bigReq [] [],
     .verifyWeights bigReq 0 0, .keyRotate bigReq 0, .keyRetire bigReq 0 true, .getVersion bigReq, .getCapabilities bigReq,
     .negotiateAlgorithms bigReq, .challenge bigReq (List.replicate 32 0), .keyExchange bigReq [] [], .heartbeat bigReq,
     .keyUpdate bigReq, .endSession bigReq, .chunkSend bigReq 0 0 true [], .chunkGet bigReq 0 0, .leaseRenew bigReq,
     .fence bigReq, .reinstate bigReq 0 0, .standIn bigReq 0, .teardown bigReq 0, .doubtRelease bigReq 0 0 0].all (!·.wf) = true ∧
    Instr.wf (.identify { req 0 with received := 2 ^ 32 }) = false := by
  decide +kernel

/-- Each field of a service header and of a transport header, on every command that carries one (Tables 05-1, 11-1). -/
theorem wellformed_refuses_packet_headers :
    (List.range 8).all (fun k => !Instr.wf (.openLast 0 (badSvc k))) = true ∧
    [Instr.openPartner 0 (badSvc 1) 0, .commit 0 (badSvc 1), .release 0 (badSvc 1), .transfer 0 (badSvc 1), .query 0 (badSvc 1) [],
     .handoff 0 (badSvc 1) (List.replicate 256 0), .cancel 0 (badSvc 1), .grow 0 (badSvc 1), .serviceReply 0 (badSvc 1) [],
     .grantReceived 0 (badSvc 1) [] none, .transferReply 0 (badSvc 1), .handoffReply 0 (badSvc 1)].all (!·.wf) = true ∧
    (List.range 4).all (fun k => !Instr.wf (.read (badXt k) 0 1)) = true ∧
    [Instr.write (badXt 0) 0 0 [], .atomic (badXt 0) 0 0 0 0 0, .message (badXt 0) (wMsgF 0 0) [], .readData (badXt 0) 0 [],
     .atomicData (badXt 0) 0 0].all (!·.wf) = true ∧
    [Instr.message (wFrom 0) { wMsgF 0 0 with offset := 2 ^ 32 } [], .message (wFrom 0) { wMsgF 0 0 with total := 2 ^ 32 } [],
     .message (wFrom 0) { wMsgF 0 0 with destEndpoint := 65536 } [], .message (wFrom 0) { wMsgF 0 0 with srcEndpoint := 65536 } [],
     .ack { wAckOf false with device := 65536 }, .ack { wAckOf false with cls := 0 },
     .ack { wAckOf false with status := 0x10 }].all (!·.wf) = true := by
  decide +kernel

/-- Reserved codes from 0x10 on (R11, R110), 0 where a failure is told, and a bad word that is no word's start. -/
theorem wellformed_refuses_codes_and_words :
    [Instr.counterAdd { ctr := 7, who := .engine } 1 0x10, .awlRequestDone 0 0 0 0 (.failed 0x10), .awlRequestDone 0 0 0 0 (.failed 0),
     .lastGrowthCopyDone (part0 none) 0 0x10, .lastPromotionDone (part0 none) 0 0x10, .lastTierMoveDone (part0 none) 0 0x10, .swapInDone (part0 none) 0 0x10,
     .engineRunEnd 0 (.fault 0 0 0) 0, .engineRunEnd 0 (.fault 0 0 0x10) 0, .readData (wFrom 0) 0x10 [],
     .atomicData (wFrom 0) 0x10 0, .awlRequestDone 0 0 0 0 (.acked (some (1, true))), .mac 0 (wCoreRun (some (1, true))) 0 .fp32 .fp32 0 0 [],
     .vectorSpecial 0 (wCoreRun (some (1, true))) .rcp 0 0, .compact 0 (wCoreRun (some (1, true))) .rotateQuery 0 0 0,
     .benchLoad 0 (wCoreRun (some (1, true))) 0 0 1, .exchange 0 (wCoreRun (some (1, true))) .north 0 0,
     .barrier 0 (wCoreRun (some (1, true))), .endRun 0 (wCoreRun (some (1, true))), .attend { b := 0, found := some (31, false) },
     .squareLineFill { line := 0, found := some (33, true) }, .hostBar4Access 0 0 (.read 1 (some (1, true))),
     .cobblerLoadStore 0 0 (.load 0 1 (some (1, true))), .vector 0 (wCoreRun (some (1, true))) .add 0 0 0 0,
     .benchStore 0 (wCoreRun (some (1, true))) 0 0 1, .counterWaitRelease (.host 0) (.counter 0 0),
     .counterWaitRelease (.core 0 0 []) (.slot 0),
     .queryChunksDone (part0 (some (1, true))) 0 0 0, .lastGrowthCopyDone (part0 (some (1, true))) 0 0, .lastPromotionDone (part0 (some (1, true))) 0 0,
     .lastTierMoveDone (part0 (some (1, true))) 0 0, .swapInDone (part0 (some (1, true))) 0 0, .pageMoveDone (part0 (some (1, true))) 0 true,
     .sweepPageDone 0 0 ⟨true, some (1, true), true⟩, .identify { req 0 with path := .relay 65536 }].all (!·.wf) = true := by
  decide +kernel

/-- Numbers that do not fit their field. -/
theorem wellformed_refuses_numbers :
    [Instr.openPartner 0 (svc 1 0 0 0) (2 ^ 32), .commitHeldResume 0 (2 ^ 24), .queryChunksDone (part0 none) 65536 0 0, .queryChunksDone (part0 none) 0 64 0,
     .queryChunksDone (part0 none) 0 0 (2 ^ 64), .serviceTimeout 0 (2 ^ 64), .lastGrowthCopyDone (part0 none) (2 ^ 24) 0, .lastOldFootprintFree 0 (2 ^ 24),
     .lastPromotionDone (part0 none) (2 ^ 24) 0, .lastTierMoveDone (part0 none) (2 ^ 24) 0, .queryWaitExpire 0 0 65536, .align 65536 0,
     .engineRunEnd 0 .clean (2 ^ 64), .compact 0 (wCoreRun none) .rotateQuery 0 (2 ^ 18) 0, .compact 0 (wCoreRun none) .rotateQuery 0 0 (2 ^ 18),
     .benchLoad 0 (wCoreRun none) 0 (2 ^ 18) 1, .benchLoad 0 (wCoreRun none) 0 0 0, .benchLoad 0 (wCoreRun none) 0 0 65, .exchange 0 (wCoreRun none) .north (2 ^ 18) 0,
     .exchange 0 (wCoreRun none) .north 0 (2 ^ 18), .pageMoveDone (part0 none) (2 ^ 32) true, .nvMappingWrite (.host 0) 0 0 true 8 0,
     .hello 0 { wHello 0 0 with loopNs := 2 ^ 32 }, .read (wFrom 0) 0 65536, .write (wFrom 0) 0 65536 [], .squareLineFill { line := 2 ^ 50, found := none },
     .ackTimer 65536 1, .ackTimer 0 0, .resendTimer 65536 1 0, .resendTimer 0 0 0, .targetTimeout 65536, .peerContextFree 65536,
     .kerbsideFetchDone 0 65536, .epEmptyExpire 0 65536, .cobblerFence 0 65536, .hostBar4Access 0 (2 ^ 48) (.read 1 none),
     .readReg (req 0) 0 65536, .mapInstall (req 0) 65536 1 0 0 [], .mapInstall (req 0) 0 65536 0 0 [],
     .mapInstall (req 0) 0 1 65536 0 [], .mapInstall (req 0) 0 1 0 65536 [], .mapSwitch (req 0) 65536 1, .mapSwitch (req 0) 0 65536,
     .mapRetire (req 0) 65536 1, .mapRetire (req 0) 0 65536, .mapRead (req 0) 65536 1 0, .mapRead (req 0) 0 65536 0,
     .mapRead (req 0) 0 1 65536, .eventsRead (req 0) (2 ^ 64), .eventsAck (req 0) (2 ^ 64), .telemetrySet (req 0) (2 ^ 32),
     .alignSet (req 0) 0 65536 [], .alignSet (req 0) 0 0 [65536], .relay (req 0) 65536 [], .slotWrite (req 0) 256 0 wKey [],
     .fwStage (req 0) 256 0 [], .fwStage (req 0) 1 (2 ^ 32) [], .sweepPageDone 0 (2 ^ 32) ⟨true, none, true⟩, .chunkSend (req 0) 256 0 true [],
     .chunkSend (req 0) 0 65536 true [], .chunkGet (req 0) 256 0, .chunkGet (req 0) 0 65536, .clockLoopTick 256 0 0 0,
     .clockLoopTick 0 256 0 0, .clockLoopTick 0 0 256 0, .clockLoopTick 0 0 0 256, .powerEstimateTick 65536 0 0 [],
     .powerEstimateTick 0 65536 0 [], .powerEstimateTick 0 0 65536 [], .powerEstimateTick 0 0 0 [(64, 0)],
     .powerEstimateTick 0 0 0 [(0, 65536)], .calibrationTick 65536 0, .calibrationTick 0 65536, .reinstate (req 0) 65536 0,
     .standIn (req 0) 65536, .teardown (req 0) 65536, .registerWrite (.host 0) 0 3 0, .benchStore 0 (wCoreRun none) 0 (2 ^ 18) 1,
     .benchStore 0 (wCoreRun none) 0 0 0, .pcieLinkTrain false true 1 32, .debugFlashAccess (.read 0 0 (2 ^ 32) 0),
     .debugFlashAccess (.read 0 0 0 (2 ^ 32)), .debugFlashAccess (.write 0 0 (2 ^ 32) [])].all (!·.wf) = true := by
  decide +kernel

/-- Lists of a length that their table does not give, and entries that do not fit. -/
theorem wellformed_refuses_lists :
    [Instr.patChunk (.bar0 0) 0 0 (List.replicate 4065 0), .awlRequestDone 0 0 0 0 (.failed 0),
     .prefixCopyCheck 0 0 true (some []), .handoff 0 (svc 1 0 0 0) [], .stepCommit 0 [{ wOut with ends := [] }],
     .mac 0 (wCoreRun none) 0 .fp32 .fp32 0 0 (List.replicate 17 0), .codewordReceived 0 (.good false []), .credit 0 [], .sync 0 [],
     .packetDelivered [], .packetDelivered (List.replicate 65 0), .packetDelivered (List.replicate 4224 0),
     .write (wFrom 0) 0 0 (List.replicate 4097 0), .message (wFrom 0) (wMsgF 0 0) (List.replicate 4097 0),
     .readData (wFrom 0) 0 (List.replicate 257 0), .hostBar4Access 0 0 (.read 0 none), .hostBar4Access 0 0 (.read 4097 none),
     .hostBar4Access 0 0 (.write []), .hostBar4Access 0 0 (.write (List.replicate 513 0)), .rescan (.host 0) 1 [wDrive],
     .mapInstall (req 0) 0 1 0 0 (List.replicate 509 (wMapEntry 0 0 0)), .mapInstall (req 0) 0 1 0 0 [wMapEntry 65536 0 0],
     .mapInstall (req 0) 0 1 0 0 [wMapEntry 0 256 0], .mapInstall (req 0) 0 1 0 0 [{ wMapEntry 0 0 0 with role := 256 }],
     .mapInstall (req 0) 0 1 0 0 [wMapEntry 0 0 65536], .relay (req 0) 0 (List.replicate 4097 0), .report (req 0) 0 [],
     .slotWrite (req 0) 0 0 [] [], .challenge (req 0) [], .dbgToken [] [], .bootMemoryStart [] [],
     .bootMemoryStart (List.replicate 16 (some { wDimm with capacityGiB := 65536 })) (List.replicate 12 []),
     .bootMemoryStart (List.replicate 16 (some { wDimm with rate := 65536 })) (List.replicate 12 []),
     .bootMemoryStart (List.replicate 16 (some wDimm)) (List.replicate 12 []),
     .bootMemoryStart (List.replicate 16 none) (List.replicate 12 [0]), .cobblerLoadStore 0 0 (.load 0 65 none),
     .cobblerLoadStore 0 0 (.store 0 []), .cobblerLoadStore 0 0 (.remoteLoad 0 0 257),
     .cobblerLoadStore 0 0 (.remoteLoad 65536 0 1), .cobblerLoadStore 0 0 (.remoteStore 0 0 []),
     .cobblerLoadStore 0 0 (.remoteStore 65536 0 [0])].all (!·.wf) = true := by
  decide +kernel

/-- The long lists: a fetched chunk of at most 1 MiB, Awl and NVMe data of at most 128 KiB, 65,536 buckets, 65,535
values. -/
theorem wellformed_refuses_long_lists (bs : List Byte) (bk : List (Option (List Byte))) (vs : List Word)
    (h1 : 2 ^ 20 < bs.length) (h2 : 65536 < bk.length) (h3 : 65535 < vs.length) :
    Instr.wf (.chunkDone (some bs)) = false ∧ Instr.wf (.awlRequestDone 0 0 0 0 (.data bs)) = false ∧
    Instr.wf (.signpostWalkDone 0 0 0 bk) = false ∧ Instr.wf (.nvmeCompletion 0 0 true 0 bs) = false ∧
    Instr.wf (.writeReg (req 0) 0 vs) = false := by
  refine ⟨?_, ?_, ?_, ?_, ?_⟩ <;> simp [Instr.wf] <;> omega

/-- Commands at the ends of their fields. -/
theorem wellformed_accepts :
    [Instr.patChunk (.bar0 0) 0 4064 (List.replicate 4064 0), .openLast 0 (svc 1 0 (2 ^ 32 - 1) 0), .commitHeldResume 0 (2 ^ 24 - 1),
     .hostBar4Access 0 (2 ^ 48 - 1) (.read 4096 none), .benchLoad 0 (wCoreRun none) 15 (2 ^ 18 - 1) 64, .nvMappingWrite (.host 0) 0 0 true 7 0,
     .packetDelivered (List.replicate 4160 0), .mapInstall (req 0) 65535 65535 508 0 (List.replicate 508 (wMapEntry 65535 255 65535)),
     .bootMemoryStart (List.replicate 16 (some { wDimm with part := List.replicate 20 0 })) (List.replicate 12 (List.replicate 26 0)),
     .registerWrite (.host 0) 0 8 0, .pcieLinkTrain true true 6 16, .keptEntry, .awlRequestDone 0 0 0 0 (.failed 0x0F),
     .counterWaitRelease (.core 0 0 []) (.counter 0 0), .counterWaitRelease (.host 0) (.slot 7), .ack (wAckOf true)].all (·.wf) = true := by
  decide +kernel

end Sys2Proof.Tests
end

section
/-! # What a command leaves alone

`Safety` lists, for each of seven parts of the state, the commands that may change it (`mayMoveTime`, `mayChangePattern`
and so on). A `Scope` says which of these parts may change, `State.kept w` is what a command of scope `w` has to leave,
and each function of the model has one law: applied to `s`, it leaves what `s.kept w` holds. The hypotheses of a law name
the parts that the function may change: `ht` time, `hp` pattern, `hl` loader, `hk` trust (the keys), `hw` power (the
watts), `hc` cores, `hm` memory, `hr` all but the time. The law of a command (`execX_keeps`) is then that of the functions
it calls, and `exec_keeps` puts the commands together. -/

namespace Sys2Proof.Machine

/-- The parts of the state that a command may change, one for each list of `Safety`. -/
structure Scope where
  time : Bool
  pattern : Bool
  loader : Bool
  trust : Bool
  power : Bool
  cores : Bool
  memory : Bool

/-- The scope of a module reset: every part but the local counter may change (R55, R551). -/
structure Scope.Resets (w : Scope) : Prop where
  pattern : w.pattern = true
  loader : w.loader = true
  trust : w.trust = true
  power : w.power = true
  cores : w.cores = true
  memory : w.memory = true

/-- The scope that the lists of `Safety` give a command. -/
def scopeOf (c : Instr) : Scope where
  time := mayMoveTime c
  pattern := mayChangePattern c
  loader := mayChangeLoader c
  trust := mayChangeTrust c
  power := mayChangePower c
  cores := mayChangeCores c
  memory := mayChangeMemory c

/-- The queue and the parts of the state that the lists speak of; `none` stands for a part that may change. -/
structure Watched where
  pending : List Instr
  now : Option Nat
  pattern : Option (Option Pattern × KMap (List Byte × Nat × Nat))
  loader : Option Loader
  trust : Option Trust
  power : Option Power
  cores : Option (KMap Core)
  memory : Option (List Host.Cell × List Nat)

/-- A part of the state, unless it is free to change. -/
def unlessFree {α : Type} (free : Bool) (x : α) : Option α := if free = true then none else some x

/-- What a command of scope `w` leaves of a state: no command changes the queue. -/
def State.kept (w : Scope) (s : State) : Watched where
  pending := s.pending
  now := unlessFree w.time s.now
  pattern := unlessFree w.pattern (s.pattern, s.partials)
  loader := unlessFree w.loader s.loader
  trust := unlessFree w.trust s.trust
  power := unlessFree w.power s.power
  cores := unlessFree w.cores s.cores
  memory := unlessFree w.memory (s.mem, s.badWords)

/-- A command that answers a next state leaves what scope `w` has it leave. -/
def keeps (w : Scope) (s : State) (o : Out) : Prop := ∀ t, o = .next t → t.kept w = s.kept w

variable {w : Scope}

/-! ### What equal kept parts say -/

theorem unlessFree_inj {α : Type} {free : Bool} {x y : α} (h : unlessFree free x = unlessFree free y)
    (hf : free = false) : x = y := by
  simpa [unlessFree, hf] using h

section
variable {s t : State} (h : t.kept w = s.kept w)
include h

theorem pending_of_kept : t.pending = s.pending := congrArg Watched.pending h

theorem now_of_kept (hf : w.time = false) : t.now = s.now := unlessFree_inj (congrArg Watched.now h) hf

theorem pattern_of_kept (hf : w.pattern = false) : t.pattern = s.pattern ∧ t.partials = s.partials :=
  Prod.mk.inj (unlessFree_inj (congrArg Watched.pattern h) hf)

theorem loader_of_kept (hf : w.loader = false) : t.loader = s.loader :=
  unlessFree_inj (congrArg Watched.loader h) hf

theorem trust_of_kept (hf : w.trust = false) : t.trust = s.trust := unlessFree_inj (congrArg Watched.trust h) hf

theorem power_of_kept (hf : w.power = false) : t.power = s.power := unlessFree_inj (congrArg Watched.power h) hf

theorem cores_of_kept (hf : w.cores = false) : t.cores = s.cores := unlessFree_inj (congrArg Watched.cores h) hf

theorem memory_of_kept (hf : w.memory = false) : t.mem = s.mem ∧ t.badWords = s.badWords :=
  Prod.mk.inj (unlessFree_inj (congrArg Watched.memory h) hf)

end

/-! ### Branches, folds and record updates -/

theorem keeps_next (s t : State) : keeps w s (.next t) ↔ t.kept w = s.kept w := by simp [keeps]

theorem keeps_fault (s : State) (f : Fault) : keeps w s (.fault f) := by simp [keeps]

theorem keeps_ite (c : Prop) [Decidable c] (s : State) (a b : Out) :
    keeps w s (if c then a else b) ↔ if c then keeps w s a else keeps w s b := by
  split <;> rfl

theorem kept_ite (c : Prop) [Decidable c] (s t : State) :
    (if c then s else t).kept w = if c then s.kept w else t.kept w := apply_ite ..

/-- A fold keeps what each of its steps keeps, whatever it carries along with the state. -/
theorem foldl_proj_kept {α β : Type} (state : β → State) {f : β → α → β}
    (h : ∀ r x, (state (f r x)).kept w = (state r).kept w) (l : List α) (r : β) :
    (state (l.foldl f r)).kept w = (state r).kept w := by
  induction l generalizing r with
  | nil => rfl
  | cons x l ih => rw [List.foldl_cons, ih, h]

theorem foldl_kept {α : Type} {f : State → α → State} (h : ∀ s x, (f s x).kept w = s.kept w) (l : List α) (s : State) :
    (l.foldl f s).kept w = s.kept w :=
  foldl_proj_kept id h l s

/-- A state that an operation may not give, with the state to fall back on. -/
theorem getD_kept {o : Option State} {s d : State} (ho : ∀ t, o = some t → t.kept w = s.kept w)
    (hd : d.kept w = s.kept w) : (o.getD d).kept w = s.kept w := by
  cases o with
  | none => exact hd
  | some t => exact ho t rfl

/-- An update of parts that no list speaks of. -/
theorem kept_mk (s : State) {out draws sled regs parts lanes counters awls blocks tolls roundabouts crossings
    hbmEcc ddrEcc nvCmds fab mgmt faults trace} :
    (State.mk s.pending out draws s.now sled regs s.loader s.pattern s.partials parts lanes counters awls blocks
      s.cores tolls roundabouts crossings s.mem s.badWords hbmEcc ddrEcc nvCmds fab mgmt s.trust s.power faults
      trace).kept w = s.kept w := by
  simp only [State.kept]

/-- An update of the local counter and of parts that no list speaks of. -/
theorem kept_mk_time (s : State) (ht : w.time = true) {out draws now sled regs parts lanes counters awls blocks
    tolls roundabouts crossings hbmEcc ddrEcc nvCmds fab mgmt faults trace} :
    (State.mk s.pending out draws now sled regs s.loader s.pattern s.partials parts lanes counters awls blocks
      s.cores tolls roundabouts crossings s.mem s.badWords hbmEcc ddrEcc nvCmds fab mgmt s.trust s.power faults
      trace).kept w = s.kept w := by
  simp only [State.kept, unlessFree, ht, ↓reduceIte]

/-- An update of the pattern and of parts that no list speaks of. -/
theorem kept_mk_pattern (s : State) (hp : w.pattern = true) {out draws sled regs pattern partials parts lanes
    counters awls blocks tolls roundabouts crossings hbmEcc ddrEcc nvCmds fab mgmt faults trace} :
    (State.mk s.pending out draws s.now sled regs s.loader pattern partials parts lanes counters awls blocks
      s.cores tolls roundabouts crossings s.mem s.badWords hbmEcc ddrEcc nvCmds fab mgmt s.trust s.power faults
      trace).kept w = s.kept w := by
  simp only [State.kept, unlessFree, hp, ↓reduceIte]

/-- An update of the cores and of parts that no list speaks of. -/
theorem kept_mk_cores (s : State) (hc : w.cores = true) {out draws sled regs parts lanes counters awls blocks
    cores tolls roundabouts crossings hbmEcc ddrEcc nvCmds fab mgmt faults trace} :
    (State.mk s.pending out draws s.now sled regs s.loader s.pattern s.partials parts lanes counters awls blocks
      cores tolls roundabouts crossings s.mem s.badWords hbmEcc ddrEcc nvCmds fab mgmt s.trust s.power faults
      trace).kept w = s.kept w := by
  simp only [State.kept, unlessFree, hc, ↓reduceIte]

/-- An update of memory and of parts that no list speaks of. -/
theorem kept_mk_memory (s : State) (hm : w.memory = true) {out draws sled regs parts lanes counters awls blocks
    tolls roundabouts crossings mem badWords hbmEcc ddrEcc nvCmds fab mgmt faults trace} :
    (State.mk s.pending out draws s.now sled regs s.loader s.pattern s.partials parts lanes counters awls blocks
      s.cores tolls roundabouts crossings mem badWords hbmEcc ddrEcc nvCmds fab mgmt s.trust s.power faults
      trace).kept w = s.kept w := by
  simp only [State.kept, unlessFree, hm, ↓reduceIte]

/-- An update of the parts that a module reset empties. -/
theorem kept_mk_reset (s : State) (hr : w.Resets) {out draws sled regs pattern partials parts lanes counters
    awls blocks cores tolls roundabouts crossings mem badWords hbmEcc ddrEcc nvCmds fab mgmt faults trace} :
    (State.mk s.pending out draws s.now sled regs s.loader pattern partials parts lanes counters awls blocks
      cores tolls roundabouts crossings mem badWords hbmEcc ddrEcc nvCmds fab mgmt s.trust s.power faults
      trace).kept w = s.kept w := by
  simp only [State.kept, unlessFree, hr.pattern, hr.cores, hr.memory, ↓reduceIte]

/-! ### The setters of State and the shared operations -/

theorem setPart_kept (s : State) (p : Nat) (x : PartState) : (s.setPart p x).kept w = s.kept w := kept_mk ..

theorem modPart_kept (s : State) (p : Nat) (f : PartState → PartState) :
    (s.modPart p f).kept w = s.kept w := kept_mk ..

theorem setLane_kept (s : State) (n : Nat) (x : Lane) : (s.setLane n x).kept w = s.kept w := kept_mk ..

theorem setAwl_kept (s : State) (n : Nat) (x : Awl) : (s.setAwl n x).kept w = s.kept w := kept_mk ..

theorem setBlock_kept (s : State) (b : Nat) (x : Block) : (s.setBlock b x).kept w = s.kept w := kept_mk ..

theorem setEng_kept (s : State) (b : Nat) (x : Engine) : (s.setEng b x).kept w = s.kept w := kept_mk ..

theorem setAttn_kept (s : State) (b : Nat) (x : Attn) : (s.setAttn b x).kept w = s.kept w := kept_mk ..

theorem setPwr_kept (s : State) (b : Nat) (x : BlockPower) : (s.setPwr b x).kept w = s.kept w := kept_mk ..

theorem setCore_kept (s : State) (b c : Nat) (x : Core) (hc : w.cores = true) :
    (s.setCore b c x).kept w = s.kept w := by
  simp only [State.setCore, State.kept, unlessFree, hc, ↓reduceIte]

theorem setToll_kept (s : State) (n : Nat) (x : Toll) : (s.setToll n x).kept w = s.kept w := kept_mk ..

theorem setRoundabout_kept (s : State) (n : Nat) (x : Roundabout) :
    (s.setRoundabout n x).kept w = s.kept w := kept_mk ..

theorem setCrossing_kept (s : State) (n : Nat) (x : Crossing) :
    (s.setCrossing n x).kept w = s.kept w := kept_mk ..

theorem setPort_kept (s : State) (n : Nat) (x : Port) : (s.setPort n x).kept w = s.kept w := kept_mk ..

theorem setPeer_kept (s : State) (d : Nat) (x : Peer) : (s.setPeer d x).kept w = s.kept w := kept_mk ..

theorem setBank_kept (s : State) (b : Bool) (x : Bank) : (s.setBank b x).kept w = s.kept w := kept_mk ..

theorem setDrive_kept (s : State) (d : Nat) (x : Drive) : (s.setDrive d x).kept w = s.kept w := kept_mk ..

theorem setPMem_kept (s : State) (p : Nat) (x : PMem) : (s.setPMem p x).kept w = s.kept w := kept_mk ..

theorem setTrust_kept (s : State) (p : Nat) (x : PTrust) : (s.setTrust p x).kept w = s.kept w := kept_mk ..

theorem setPower_kept (s : State) (p : Nat) (x : PPower) : (s.setPower p x).kept w = s.kept w := kept_mk ..

theorem setPFault_kept (s : State) (p : Nat) (x : PFault) : (s.setPFault p x).kept w = s.kept w := kept_mk ..

theorem modPLast_kept (s : State) (p : Nat) (f : PLast → PLast) :
    (s.modPLast p f).kept w = s.kept w := kept_mk ..

theorem modHold_kept (s : State) (p : Nat) (f : PHold → PHold) :
    (s.modHold p f).kept w = s.kept w := kept_mk ..

theorem modPMem_kept (s : State) (p : Nat) (f : PMem → PMem) : (s.modPMem p f).kept w = s.kept w := kept_mk ..

theorem modXt_kept (s : State) (p : Nat) (f : PXt → PXt) : (s.modXt p f).kept w = s.kept w := kept_mk ..

theorem modPTrust_kept (s : State) (p : Nat) (f : PTrust → PTrust) :
    (s.modPTrust p f).kept w = s.kept w := kept_mk ..

theorem modPPower_kept (s : State) (p : Nat) (f : PPower → PPower) :
    (s.modPPower p f).kept w = s.kept w := kept_mk ..

theorem modPFault_kept (s : State) (p : Nat) (f : PFault → PFault) :
    (s.modPFault p f).kept w = s.kept w := kept_mk ..

theorem modMgmt_kept (s : State) (f : Mgmt → Mgmt) : (s.modMgmt f).kept w = s.kept w := kept_mk ..

theorem modFab_kept (s : State) (f : Fabric → Fabric) : (s.modFab f).kept w = s.kept w := kept_mk ..

theorem modRegs_kept (s : State) (f : ModRegs → ModRegs) : (s.modRegs f).kept w = s.kept w := kept_mk ..

theorem modLoader_kept (s : State) (f : Loader → Loader) (hl : w.loader = true) :
    (s.modLoader f).kept w = s.kept w := by
  simp only [State.modLoader, State.kept, unlessFree, hl, ↓reduceIte]

theorem modPow_kept (s : State) (f : Power → Power) (hw : w.power = true) :
    (s.modPow f).kept w = s.kept w := by
  simp only [State.modPow, State.kept, unlessFree, hw, ↓reduceIte]

theorem modFlt_kept (s : State) (f : Faults → Faults) : (s.modFlt f).kept w = s.kept w := kept_mk ..

theorem modTrust_kept (s : State) (f : Trust → Trust) (hk : w.trust = true) :
    (s.modTrust f).kept w = s.kept w := by
  simp only [State.modTrust, State.kept, unlessFree, hk, ↓reduceIte]

theorem modSled_kept (s : State) (f : Sled → Sled) : (s.modSled f).kept w = s.kept w := kept_mk ..

theorem emit_kept (s : State) (e : Emit) : (s.emit e).kept w = s.kept w := kept_mk ..

theorem draw_kept (s : State) : s.draw.2.kept w = s.kept w := kept_mk ..

theorem raisePart_kept (s : State) (p v : Nat) : (raisePart s p v).kept w = s.kept w := by
  rw [raisePart_frame]; rfl

theorem raiseSources_kept (s : State) (l : List Nat) : (raiseSources s l).kept w = s.kept w := by
  rw [raiseSources_frame]; rfl

theorem raiseRisen_kept (old s : State) : (raiseRisen old s).kept w = s.kept w := by
  rw [raiseRisen_frame]; rfl

theorem upd_kept (s : State) (f : State → State) (hf : ∀ s, (f s).kept w = s.kept w) :
    (s.upd f).kept w = s.kept w := by
  simp only [State.upd, raiseRisen_kept, hf]

theorem noteAddress_kept (s : State) (m : MHdr) : (noteAddress s m).kept w = s.kept w := by
  rw [noteAddress_frame]; rfl

theorem trayUpdate_kept (s : State) : (trayUpdate s).kept w = s.kept w := by
  rw [trayUpdate_frame]; rfl

theorem sendNotice_kept (s : State) (i3c : Bool) (command : Nat) (payload : List Byte) :
    (sendNotice s i3c command payload).kept w = s.kept w := by
  rw [sendNotice_frame]; rfl

theorem keepEvent_kept (s : State) (e : EventRec) : (keepEvent s e).kept w = s.kept w := by
  rw [keepEvent_frame]; rfl

theorem recordEvent_kept (s : State) (kind part comp epoch tenant state : Nat) :
    (recordEvent s kind part comp epoch tenant state).kept w = s.kept w := by
  rw [recordEvent_frame]; rfl

theorem setCode_kept (s : State) (p c : Nat) : (setCode s p c).kept w = s.kept w := by
  rw [setCode_frame]; rfl

theorem setModState_kept (s : State) (c : Nat) : (setModState s c).kept w = s.kept w := by
  rw [setModState_frame]; rfl

theorem faultRecord_kept (s : State) (cls : Nat) (code : Byte) (part unitKind unit address detail : Nat)
    (tag : Word) : (faultRecord s cls code part unitKind unit address detail tag).kept w = s.kept w := by
  rw [faultRecord_frame]; rfl

theorem raiseLane_kept (s : State) (l : Lane) : (raiseLane s l).kept w = s.kept w := by
  rw [raiseLane_frame]; rfl

theorem laneArmed_kept (s : State) (n : Nat) : (laneArmed s n).kept w = s.kept w := by
  rw [laneArmed_frame]; rfl

theorem traceEvent_kept (s : State) (p : Nat) (unit : TraceUnit) (number offset : Nat) :
    (traceEvent s p unit number offset).kept w = s.kept w := by
  rw [traceEvent_frame]; rfl

theorem lanePush_kept (s : State) (n : Nat) (it : Item) : (lanePush s n it).kept w = s.kept w := by
  rw [lanePush_frame]; rfl

theorem laneGive_kept (s : State) (n : Nat) (who : LaneWriter) (it : Item) :
    (laneGive s n who it).kept w = s.kept w := by
  simp only [laneGive, lanePush_kept, setLane_kept, kept_ite, ite_self]

theorem lanePop_kept (s : State) (n : Nat) : (lanePop s n).2.kept w = s.kept w := by
  rw [lanePop_frame]; rfl

theorem ctrAdd_kept (s : State) (c amount : Nat) (failed : Bool) :
    (ctrAdd s c amount failed).kept w = s.kept w := by
  rw [ctrAdd_frame]; rfl

theorem ctrSet_kept (s : State) (c : Nat) (v : Word) : (ctrSet s c v).kept w = s.kept w := by
  rw [ctrSet_frame]; rfl

theorem noteStep_kept (s : State) (p : Nat) (c : Byte) : (noteStep s p c).kept w = s.kept w := by
  rw [noteStep_frame]; rfl

/-! ### Accesses to registers -/

theorem logAccess_kept (s : State) (fn off : Nat) : (logAccess s fn off).kept w = s.kept w := by
  rw [logAccess_frame]; rfl

theorem cobblerStop_kept (s : State) (p b : Nat) : (cobblerStop s p b).kept w = s.kept w := by
  rw [cobblerStop_frame]; rfl

theorem notOwned_kept (s : State) (src : Src) : (notOwned s src).kept w = s.kept w := by
  unfold notOwned
  split <;> simp only [cobblerStop_kept]

theorem portGate_kept (s : State) (src : Src) (owner : Option Nat) (off : Nat) :
    (portGate s src owner off).2.kept w = s.kept w := by
  rw [portGate_frame]; rfl

theorem guarded_kept (s : State) (src : Src) (owner : Option Nat) (off : Nat) (f : State → State)
    (hf : ∀ s, (f s).kept w = s.kept w) : (guarded s src owner off f).kept w = s.kept w := by
  simp only [guarded, portGate_kept, kept_ite, ite_self, hf]

theorem partWrite_kept (s : State) (src : Src) (p off : Nat) (f : State → State)
    (hf : ∀ s, (f s).kept w = s.kept w) : (partWrite s src p off f).kept w = s.kept w := by
  simp only [partWrite, guarded_kept, implies_true, hf]

theorem blockWrite_kept (s : State) (src : Src) (b off : Nat) (f : State → State)
    (hf : ∀ s, (f s).kept w = s.kept w) : (blockWrite s src b off f).kept w = s.kept w := by
  simp only [blockWrite, guarded_kept, implies_true, hf]

theorem globalWrite_kept (s : State) (src : Src) (off : Nat) (f : State → State)
    (hf : ∀ s, (f s).kept w = s.kept w) : (globalWrite s src off f).kept w = s.kept w := by
  unfold globalWrite
  split <;> simp only [logAccess_kept, cobblerStop_kept, kept_ite, ite_self, hf]

/-! ### Memory -/

theorem countFixed_kept (s : State) (tier ch : Nat) : (countFixed s tier ch).kept w = s.kept w := by
  simp only [countFixed, kept_ite, kept_mk, ite_self]

theorem countLost_kept (s : State) (tier ch : Nat) : (countLost s tier ch).kept w = s.kept w := by
  simp only [countLost, modFlt_kept, kept_ite, kept_mk, ite_self]

theorem eccMet_kept (s : State) (p off len : Nat) (found : Found) (hm : w.memory = true) :
    (eccMet s p off len found).kept w = s.kept w := by
  unfold eccMet
  split
  · rfl
  · simp only [countFixed_kept, hm, kept_ite, kept_mk_memory, ite_self]

theorem eccMetIn_kept (s : State) (p : Nat) (spans : List (Nat × Nat)) (found : Found) (hm : w.memory = true) :
    (eccMetIn s p spans found).kept w = s.kept w := by
  simp only [eccMetIn, eccMet_kept, hm, foldl_kept, implies_true]

theorem badWordFault_kept (s : State) (p off : Nat) (tag : Word) (code : Byte) :
    (badWordFault s p off tag code).kept w = s.kept w := by
  simp only [badWordFault, faultRecord_kept, countLost_kept, kept_ite, ite_self]

theorem badWordFaults_kept (s : State) (p off len : Nat) (tag : Word) :
    (badWordFaults s p off len tag).kept w = s.kept w := by
  unfold badWordFaults
  split <;> simp only [faultRecord_kept, badWordFault_kept, foldl_kept, implies_true]

theorem transferRead_kept (s : State) (p off len : Nat) (tag : Word) :
    (transferRead s p off len tag).2.2.kept w = s.kept w := by
  simp only [transferRead, badWordFaults_kept, kept_ite, ite_self]

theorem storeRaw_kept (s : State) (p off : Nat) (bs : List Byte) (hm : w.memory = true) :
    (storeRaw s p off bs).kept w = s.kept w := by
  simp only [storeRaw, modPTrust_kept, hm, kept_ite, kept_mk_memory, ite_self]

theorem transferWrite_kept (s : State) (p off : Nat) (bs : List Byte) (covers : Nat → Bool) (tag : Word)
    (hm : w.memory = true) : (transferWrite s p off bs covers tag).2.kept w = s.kept w := by
  simp only [transferWrite]
  split <;> simp only [storeRaw_kept, badWordFaults_kept, hm, kept_ite, ite_self]

theorem ringRead_kept (s : State) (p base size bytes : Nat) (head : BitVec 32) :
    (ringRead s p base size bytes head).2.2.kept w = s.kept w := by
  simp only [ringRead]
  split <;> simp only [transferRead_kept]

/-! ### The transport's shared operations -/

theorem originate0_kept (s : State) (dest : Nat) (pinned : Bool) (kind count : Nat) (data : List Byte) :
    (originate0 s dest pinned kind count data).kept w = s.kept w := by
  rw [originate0_frame]; rfl

theorem originate_kept (s : State) (p : TxPacket) : (originate s p).kept w = s.kept w := by
  simp only [originate, modFab_kept, kept_ite, ite_self]

theorem freeContext_kept (s : State) (d : Nat) : (freeContext s d).kept w = s.kept w := by
  simp only [freeContext, setPeer_kept]

theorem withContext_kept {s : State} {d : Nat} {r : State} (ho : withContext s d = some r) :
    r.kept w = s.kept w := by
  simp only [withContext] at ho
  split at ho
  · rw [← Option.some.inj ho]
  · split at ho
    · rw [← Option.some.inj ho, setPeer_kept]
    · obtain ⟨e, -, rfl⟩ := Option.map_eq_some_iff.1 ho
      rw [setPeer_kept, freeContext_kept]

theorem sendNow_kept (s : State) (d cls : Nat) (u : Unacked) : (sendNow s d cls u).kept w = s.kept w := by
  simp only [sendNow, originate_kept, setPeer_kept]

theorem sendWaiting_kept (d cls fuel : Nat) (s : State) : (sendWaiting d cls fuel s).kept w = s.kept w := by
  induction fuel generalizing s with
  | zero => rfl
  | succ n ih =>
    simp only [sendWaiting]
    split <;> simp only [setPeer_kept, sendNow_kept, ih, kept_ite, ite_self]

theorem xtSubmit_kept {s : State} {d cls : Nat} {u : Unacked} {r : State} (ho : xtSubmit s d cls u = some r) :
    r.kept w = s.kept w := by
  simp only [xtSubmit] at ho
  split at ho
  · cases ho
  · rw [← Option.some.inj ho, sendWaiting_kept, setPeer_kept, getD_kept (fun _ => withContext_kept) rfl]

theorem sendAck_kept (s : State) (d cls : Nat) (status : Byte) (errPsn : BitVec 32) :
    (sendAck s d cls status errPsn).kept w = s.kept w := by
  simp only [sendAck, originate_kept, setPeer_kept]

theorem reportHandled_kept (s : State) (x : XtHdr) (cls : Nat) (status : Byte) (dup : Bool) :
    (reportHandled s x cls status dup).kept w = s.kept w := by
  simp only [reportHandled, setPeer_kept, sendAck_kept, kept_ite, ite_self]

theorem heard_kept {s : State} {d : Nat} {r : State} (ho : heard s d = some r) : r.kept w = s.kept w := by
  obtain ⟨t, ht, rfl⟩ := Option.map_eq_some_iff.1 ho
  rw [setPeer_kept, withContext_kept ht]

theorem dropNoPeer_kept (s : State) : (dropNoPeer s).kept w = s.kept w := by
  simp only [dropNoPeer, modFab_kept]

theorem dropParked_kept (s : State) (d : Nat) : (dropParked s d).kept w = s.kept w := by
  simp only [dropParked, kept_mk]

theorem rxContext_kept {s : State} {x : XtHdr} {cls : Nat} {r : State} (ho : rxContext s x cls = some r) :
    r.kept w = s.kept w := by
  unfold rxContext at ho
  split at ho
  · cases ho
  next t ht =>
    rw [← heard_kept ht]
    dsimp only at ho
    split at ho
    · rw [← Option.some.inj ho]
    · rw [← Option.some.inj ho]
      simp only [setPeer_kept, modFab_kept, dropParked_kept, kept_ite, ite_self]

/-! ### Service messages and the Last directory -/

theorem svcPost_kept (s : State) (p d q : Nat) (h : SvcHdr) (payload : List Byte) (waits : Bool) :
    (svcPost s p d q h payload waits).kept w = s.kept w := by
  have send (r : State) (u : Unacked) : ((xtSubmit r d 1 u).getD r).kept w = r.kept w :=
    getD_kept (fun _ => xtSubmit_kept) rfl
  simp only [svcPost, emit_kept, modFab_kept, kept_ite, ite_self, foldl_kept, implies_true, send]

theorem svcReply_kept (s : State) (p : Nat) (h r : SvcHdr) (payload : List Byte) :
    (svcReply s p h r payload).kept w = s.kept w := by
  simp only [svcReply, modPLast_kept, svcPost_kept]

theorem svcCode_kept (s : State) (p : Nat) (h : SvcHdr) (c : Byte) : (svcCode s p h c).kept w = s.kept w := by
  simp only [svcCode, svcReply_kept]

theorem svcReceive_kept (s : State) (p : Nat) (h : SvcHdr) (op : Byte) (serves : Bool) (f : State → State)
    (hf : ∀ s, (f s).kept w = s.kept w) : (svcReceive s p h op serves f).kept w = s.kept w := by
  unfold svcReceive
  split
  · rfl
  · dsimp only
    split
    · exact svcPost_kept ..
    · simp only [modPLast_kept, svcCode_kept, kept_ite, ite_self, hf]

theorem svcSend_kept (s : State) (p toDevice toPart : Nat) (h : SvcHdr) (payload : List Byte) :
    (svcSend s p toDevice toPart h payload).2.kept w = s.kept w := by
  simp only [svcSend, modMgmt_kept, modPLast_kept, svcPost_kept, kept_ite, ite_self]

theorem setDir_kept (s : State) (p slot : Nat) (e : DirEntry) (hm : w.memory = true) :
    (setDir s p slot e).kept w = s.kept w := by
  simp only [setDir]
  split <;> simp only [modPLast_kept, storeRaw_kept, hm]

theorem modDir_kept (s : State) (p slot : Nat) (f : DirEntry → DirEntry) (hm : w.memory = true) :
    (modDir s p slot f).kept w = s.kept w := by
  simp only [modDir, setDir_kept, hm]

theorem standInDir_kept (s : State) (p : Nat) (hm : w.memory = true) :
    (standInDir s p).kept w = s.kept w := by
  unfold standInDir
  split <;> simp only [setDir_kept, hm, foldl_kept, implies_true]

theorem copyPlane_kept (s : State) (p src dst len : Nat) (hm : w.memory = true) :
    (copyPlane s p src dst len).2.2.kept w = s.kept w := by
  simp only [copyPlane]
  split <;> simp only [badWordFaults_kept, transferWrite_kept, hm, kept_ite, ite_self]

theorem copyLast_kept (s : State) (p n newBase newCls : Nat) (hm : w.memory = true) :
    (copyLast s p n newBase newCls).2.2.kept w = s.kept w := by
  simp only [copyLast]
  split
  · rfl
  · refine foldl_proj_kept (fun r : Byte × Bool × State => r.2.2) (fun r k => ?_) _ _
    split
    · rfl
    · exact copyPlane_kept _ _ _ _ _ hm

theorem nvSend_kept (s : State) (c : NvCmd) (byte : Nat) (bytes : List Byte) :
    (nvSend s c byte bytes).kept w = s.kept w := by
  simp only [nvSend, emit_kept, setTrust_kept, kept_ite, kept_mk, ite_self]

theorem putJob_kept (s : State) (p n : Nat) (j : LastJob) : (putJob s p n j).kept w = s.kept w := by
  simp only [putJob, modPLast_kept]

theorem endJob_kept (s : State) (p n : Nat) : (endJob s p n).kept w = s.kept w := by
  simp only [endJob, modPLast_kept, kept_mk]

theorem freeLast_kept (s : State) (p n : Nat) (hm : w.memory = true) :
    (freeLast s p n).kept w = s.kept w := by
  simp only [freeLast, setDir_kept, endJob_kept, hm]

theorem lastCmd_kept (s : State) (p n drive nsid byte own off len : Nat) (write flush : Bool) :
    (lastCmd s p n drive nsid byte own off len write flush).kept w = s.kept w := by
  simp only [lastCmd, nvSend_kept]

theorem lastSend_kept (p n fuel : Nat) (s : State) (hm : w.memory = true) :
    (lastSend p n fuel s).kept w = s.kept w := by
  induction fuel generalizing s with
  | zero => rfl
  | succ n ih =>
    unfold lastSend
    split
    · rfl
    · dsimp only
      split
      · rfl
      · split
        · simp only [badWordFaults_kept, lastCmd_kept, putJob_kept, transferWrite_kept, ih, hm, kept_ite,
            ite_self]
        · simp only [putJob_kept]

theorem lastNext_kept (s : State) (p n : Nat) (hm : w.memory = true) :
    (lastNext s p n).kept w = s.kept w := by
  simp only [lastNext]
  split <;> simp only [lastSend_kept, lastCmd_kept, putJob_kept, hm, kept_ite, ite_self, foldl_kept,
    implies_true]

theorem lastNvme_kept (s : State) (p n nv : Nat) (hm : w.memory = true) :
    (lastNvme s p n nv).kept w = s.kept w := by
  simp only [lastNvme, lastNext_kept, modPLast_kept, hm]

theorem startDown_kept (s : State) (p n tier base : Nat) (hm : w.memory = true) :
    (startDown s p n tier base).kept w = s.kept w := by
  simp only [startDown, putJob_kept, setDir_kept, lastNvme_kept, hm, kept_ite, ite_self]

theorem waitForRoom_kept (s : State) (p : Nat) (h : SvcHdr) (what : RoomFor) (peer : Nat) (left : Nat × Nat)
    (tier n base : Nat) (hm : w.memory = true) :
    (waitForRoom s p h what peer left tier n base).kept w = s.kept w := by
  simp only [waitForRoom, modPLast_kept, startDown_kept, hm]

theorem otherBytes_kept (s : State) (p n l lo hi : Nat) : (otherBytes s p n l lo hi).2.kept w = s.kept w := by
  simp only [otherBytes]
  repeat' split
  all_goals simp only [draw_kept]

theorem takePlane_kept (s : State) (p n l lo hi : Nat) (hm : w.memory = true) :
    (takePlane s p n l lo hi).kept w = s.kept w := by
  simp only [takePlane, otherBytes_kept, storeRaw_kept, hm]

theorem takePositions_kept (s : State) (p n lo hi : Nat) (hm : w.memory = true) :
    (takePositions s p n lo hi).kept w = s.kept w := by
  simp only [takePositions, takePlane_kept, hm, foldl_kept, implies_true]

theorem levelTo_kept (s : State) (p n length : Nat) (hm : w.memory = true) :
    (levelTo s p n length).kept w = s.kept w := by
  simp only [levelTo, modDir_kept, takePositions_kept, hm, kept_ite, ite_self]

/-! ### Prefix tables -/

theorem walkerSend_kept {s : State} {p : Nat} {t : SpTable} {op off : Nat} {fields payload : List Byte}
    {f : WalkFor} {r : State} (ho : walkerSend s p t op off fields payload f = some r) :
    r.kept w = s.kept w := xtSubmit_kept ho

theorem walkerRead_kept {s : State} {p : Nat} {t : SpTable} {off len : Nat} {f : WalkFor} {r : State}
    (ho : walkerRead s p t off len f = some r) : r.kept w = s.kept w := walkerSend_kept ho

theorem walkerAdd_kept (s : State) (p : Nat) (t : SpTable) (off size v : Nat) :
    (walkerAdd s p t off size v).kept w = s.kept w := getD_kept (fun _ => walkerSend_kept) rfl

theorem walkerWrite_kept (s : State) (p : Nat) (t : SpTable) (off : Nat) (bs : List Byte) :
    (walkerWrite s p t off bs).kept w = s.kept w := getD_kept (fun _ => walkerSend_kept) rfl

theorem lowerNode_kept (s : State) (p : Nat) (t : SpTable) (node : Nat) :
    (lowerNode s p t node).kept w = s.kept w := by
  simp only [lowerNode, walkerAdd_kept]

theorem killNode_kept (s : State) (p : Nat) (t : SpTable) (node : Nat) :
    (killNode s p t node).kept w = s.kept w := by
  simp only [killNode, walkerWrite_kept]

theorem modInsert_kept (s : State) (p : Nat) (x : Insert) : (modInsert s p x).kept w = s.kept w := by
  simp only [modInsert, modHold_kept]

theorem dropInsert_kept (s : State) (p id : Nat) : (dropInsert s p id).kept w = s.kept w := by
  simp only [dropInsert, modHold_kept, kept_ite, ite_self]

theorem insertLook_kept (s : State) (p : Nat) (x : Insert) : (insertLook s p x).kept w = s.kept w := by
  unfold insertLook
  split
  · exact dropInsert_kept ..
  · exact (getD_kept (fun _ => walkerRead_kept) (dropInsert_kept ..)).trans (modInsert_kept ..)

theorem insertNext_kept (s : State) (p : Nat) (x : Insert) (at_ : Option Nat) :
    (insertNext s p x at_).kept w = s.kept w := by
  simp only [insertNext, insertLook_kept]

theorem insertStart_kept (s : State) (p table : Nat) (nodes : List InsNode) (parent : Option Nat) :
    (insertStart s p table nodes parent).kept w = s.kept w := by
  simp only [insertStart, insertLook_kept, modHold_kept]

theorem insertRead_kept (s : State) (p : Nat) (x : Insert) (bucket : List Byte) :
    (insertRead s p x bucket).kept w = s.kept w := by
  unfold insertRead
  split
  · exact dropInsert_kept ..
  · dsimp only
    split
    · simp only [walkerWrite_kept, insertNext_kept, kept_ite, ite_self]
    · split
      · exact insertNext_kept ..
      · exact (getD_kept (fun _ => walkerSend_kept) (dropInsert_kept ..)).trans (modInsert_kept ..)
    · simp only [insertNext_kept, modHold_kept, kept_ite, ite_self]

theorem insertClaimed_kept (s : State) (p : Nat) (x : Insert) (old : Nat) :
    (insertClaimed s p x old).kept w = s.kept w := by
  simp only [insertClaimed]
  repeat' split
  all_goals simp only [insertLook_kept, walkerAdd_kept, walkerWrite_kept, insertNext_kept]

theorem insertData_kept (s : State) (p id : Nat) (status : Byte) (bucket : List Byte) :
    (insertData s p id status bucket).kept w = s.kept w := by
  unfold insertData
  split <;> simp only [insertRead_kept, dropInsert_kept, kept_ite, ite_self]

theorem claimData_kept (s : State) (p id : Nat) (status : Byte) (old : Word) :
    (claimData s p id status old).kept w = s.kept w := by
  unfold claimData
  split <;> simp only [insertClaimed_kept, dropInsert_kept, kept_ite, ite_self]

/-! ### The holder -/

theorem modLive_kept (s : State) (p : Nat) (tag : BitVec 48) (f : Live → Live) :
    (modLive s p tag f).kept w = s.kept w := by
  simp only [modLive, modHold_kept]

theorem modReq_kept (s : State) (p : Nat) (tag : BitVec 48) (f : Record → Record) :
    (modReq s p tag f).kept w = s.kept w := by
  simp only [modReq, modLive_kept]

theorem dropLive_kept (s : State) (p : Nat) (tag : BitVec 48) : (dropLive s p tag).kept w = s.kept w := by
  simp only [dropLive, modHold_kept]

theorem askCopy_kept (s : State) (p : Nat) (l : Live) (op : Byte) (handle : Word) (posA posB : Nat)
    (value : Word) : (askCopy s p l op handle posA posB value).kept w = s.kept w := by
  simp only [askCopy, svcSend_kept]

theorem itemEmitted_kept (s : State) (p : Nat) (x : OutItem) : (itemEmitted s p x).kept w = s.kept w := by
  simp only [itemEmitted, dropLive_kept, modReq_kept, kept_ite, ite_self]

theorem emitItem_kept (s : State) (p : Nat) (x : OutItem) : (emitItem s p x).kept w = s.kept w := by
  unfold emitItem
  split <;> simp only [itemEmitted_kept, laneGive_kept, modHold_kept, kept_ite, ite_self]

theorem refuseItem_kept (s : State) (p : Nat) (tag : BitVec 48) (c : Byte) :
    (refuseItem s p tag c).kept w = s.kept w := by
  simp only [refuseItem, emitItem_kept]

theorem liveItem_kept (s : State) (p : Nat) (it : Item) : (liveItem s p it).kept w = s.kept w := by
  simp only [liveItem, emitItem_kept]

theorem cancelDone_kept (s : State) (p slot : Nat) (c : Byte) :
    (cancelDone s p slot c).kept w = s.kept w := by
  simp only [cancelDone, modPLast_kept, raisePart_kept, kept_ite, ite_self]

theorem cancelsEnd_kept (s : State) (p : Nat) (slots : List Nat) (msgs : List SvcHdr) (c : Byte) :
    (cancelsEnd s p slots msgs c).kept w = s.kept w := by
  simp only [cancelsEnd, svcCode_kept, cancelDone_kept, foldl_kept, implies_true]

theorem dropMoves_kept (s : State) (p : Nat) (tag : BitVec 48) : (dropMoves s p tag).kept w = s.kept w := by
  simp only [dropMoves, modHold_kept]

theorem lowerRefs_kept (s : State) (p : Nat) (l : Live) : (lowerRefs s p l).kept w = s.kept w := by
  unfold lowerRefs
  split <;> simp only [lowerNode_kept, kept_ite, ite_self]

theorem finalItem_kept (s : State) (p : Nat) (tag : BitVec 48) : (finalItem s p tag).kept w = s.kept w := by
  unfold finalItem
  split <;> simp only [cancelsEnd_kept, dropMoves_kept, lowerRefs_kept, modLive_kept, liveItem_kept]

theorem leaveHold_kept (s : State) (p : Nat) (tag : BitVec 48) : (leaveHold s p tag).kept w = s.kept w := by
  unfold leaveHold
  split <;> simp only [kept_ite, kept_mk, ite_self]

theorem endNow_kept (s : State) (p : Nat) (tag : BitVec 48) (c : Byte) :
    (endNow s p tag c).kept w = s.kept w := by
  simp only [endNow, finalItem_kept, modLive_kept, leaveHold_kept]

theorem sendReleases_kept (s : State) (p : Nat) (tag : BitVec 48) (discard : Bool) :
    (sendReleases s p tag discard).kept w = s.kept w := by
  unfold sendReleases
  split <;> simp only [modLive_kept, svcSend_kept, foldl_kept, implies_true]

theorem releaseCopies_kept (s : State) (p : Nat) (tag : BitVec 48) (discard : Bool) :
    (releaseCopies s p tag discard).kept w = s.kept w := by
  unfold releaseCopies
  split <;> simp only [finalItem_kept, modLive_kept, dropMoves_kept, sendReleases_kept, kept_ite, ite_self]

theorem endWith_kept (s : State) (p : Nat) (tag : BitVec 48) (c : Byte) (discard : Bool) :
    (endWith s p tag c discard).kept w = s.kept w := by
  unfold endWith
  split <;> simp only [releaseCopies_kept, modLive_kept, kept_ite, ite_self]

theorem endEarly_kept (s : State) (p : Nat) (tag : BitVec 48) (c : Byte) :
    (endEarly s p tag c).kept w = s.kept w := by
  unfold endEarly
  split <;> simp only [endNow_kept, modLive_kept, endWith_kept, kept_ite, ite_self]

theorem queueMoves_kept (s : State) (p : Nat) (o : MoveOwner) (ds : List Descriptor) :
    (queueMoves s p o ds).kept w = s.kept w := by
  simp only [queueMoves, modHold_kept]

theorem beginCommits_kept (s : State) (p : Nat) (tag : BitVec 48) (lo hi : Nat) :
    (beginCommits s p tag lo hi).kept w = s.kept w := by
  simp only [beginCommits, modLive_kept]

theorem sendDue_kept (s : State) (p : Nat) (tag : BitVec 48) : (sendDue s p tag).kept w = s.kept w := by
  unfold sendDue
  split <;> simp only [askCopy_kept, modLive_kept, foldl_kept, implies_true]

theorem sendGrow_kept (s : State) (p : Nat) (tag : BitVec 48) (hi : Nat) :
    (sendGrow s p tag hi).kept w = s.kept w := by
  unfold sendGrow
  split <;> simp only [modLive_kept, askCopy_kept, foldl_kept, implies_true]

theorem flushTail_kept (fuel : Nat) (s : State) (p : Nat) (tag : BitVec 48) :
    (flushTail fuel s p tag).kept w = s.kept w := by
  induction fuel generalizing s with
  | zero => rfl
  | succ n ih =>
    simp only [flushTail]
    split <;> simp only [beginCommits_kept, queueMoves_kept, sendGrow_kept, ih, kept_ite, ite_self]

theorem releaseIfDurable_kept (s : State) (p : Nat) (tag : BitVec 48) :
    (releaseIfDurable s p tag).kept w = s.kept w := by
  unfold releaseIfDurable
  split <;> simp only [releaseCopies_kept, kept_ite, ite_self]

theorem flushOn_kept (s : State) (p : Nat) (tag : BitVec 48) : (flushOn s p tag).kept w = s.kept w := by
  simp only [flushOn, releaseIfDurable_kept, sendDue_kept, flushTail_kept]

theorem finishRequest_kept (s : State) (p : Nat) (tag : BitVec 48) (c : Byte) (token : Option (BitVec 32)) :
    (finishRequest s p tag c token).kept w = s.kept w := by
  simp only [finishRequest, modLive_kept, flushOn_kept]

theorem sendOpen_kept (s : State) (p : Nat) (tag : BitVec 48) (handle : Word) :
    (sendOpen s p tag handle).kept w = s.kept w := by
  unfold sendOpen
  split <;> simp only [askCopy_kept]

theorem chargeTaken_kept (s : State) (p : Nat) (tag : BitVec 48) :
    (chargeTaken s p tag).kept w = s.kept w := by
  unfold chargeTaken
  split <;> simp only [modLive_kept, endNow_kept, sendOpen_kept, kept_ite, ite_self]

theorem postHandoff_kept (s : State) (p : Nat) (l : Live) (t : HoTarget) (id : Nat) :
    (postHandoff s p l t id).kept w = s.kept w := by
  simp only [postHandoff, modPLast_kept, svcPost_kept, kept_ite, ite_self]

theorem sendHandoff_kept (s : State) (p : Nat) (tag : BitVec 48) (i : Nat) (t : HoTarget) :
    (sendHandoff s p tag i t).kept w = s.kept w := by
  unfold sendHandoff
  split <;> simp only [postHandoff_kept, modLive_kept, modMgmt_kept, kept_ite, ite_self]

theorem nextTarget_kept (s : State) (p : Nat) (tag : BitVec 48) : (nextTarget s p tag).kept w = s.kept w := by
  simp only [nextTarget]
  repeat' split
  all_goals simp only [sendHandoff_kept]

theorem addForward_kept (s : State) (p : Nat) (tag : BitVec 48) (device part : Nat) :
    (addForward s p tag device part).kept w = s.kept w := by
  simp only [addForward, modPLast_kept]

theorem forwardCancel_kept (s : State) (p : Nat) (tag : BitVec 48) (device part : Nat) (slots : List Nat)
    (msgs : List SvcHdr) : (forwardCancel s p tag device part slots msgs).kept w = s.kept w := by
  simp only [forwardCancel, svcSend_kept, modPLast_kept]

theorem joinBatch_kept (s : State) (p : Nat) (tag : BitVec 48) : (joinBatch s p tag).kept w = s.kept w := by
  simp only [joinBatch, modLive_kept]

/-! ### Contexts of models -/

theorem refreshCtxs_kept (s : State) (p : Nat) : (refreshCtxs s p).kept w = s.kept w := by
  simp only [refreshCtxs, modHold_kept]

/-! ### Admission -/

theorem takeCharge_kept (s : State) (p : Nat) (tag : BitVec 48) (r : Record) :
    (takeCharge s p tag r).kept w = s.kept w := by
  simp only [takeCharge, chargeTaken_kept, kept_ite]
  repeat' split
  all_goals simp only [chargeTaken_kept, setToll_kept, endNow_kept, modLive_kept]

theorem walkRead_kept (s : State) (p : Nat) (tag : BitVec 48) (t : SpTable) (b : Nat) :
    (walkRead s p tag t b).kept w = s.kept w := getD_kept (fun _ => walkerRead_kept) (modLive_kept ..)

theorem walkNext_kept (s : State) (p : Nat) (tag : BitVec 48) (ok : Bool) :
    (walkNext s p tag ok).kept w = s.kept w := by
  simp only [walkNext]
  repeat' split
  all_goals simp only [walkRead_kept, modLive_kept]

theorem startWalk_kept (s : State) (p : Nat) (tag : BitVec 48) (r : Record) :
    (startWalk s p tag r).kept w = s.kept w := by
  unfold startWalk
  split <;> simp only [modHold_kept, modLive_kept, walkRead_kept, walkerAdd_kept, foldl_kept, implies_true]

theorem admitItem_kept (s : State) (p : Nat) (it : Item) : (admitItem s p it).kept w = s.kept w := by
  simp only [admitItem, refuseItem_kept, modHold_kept, draw_kept, takeCharge_kept, startWalk_kept, kept_ite,
    ite_self]

theorem execAdmissionItemTaken_keeps (p : Part) (lane : LaneNo) (s : State) :
    keeps w s (execAdmissionItemTaken p lane s) := by
  simp only [execAdmissionItemTaken, keeps_ite, keeps_next]
  repeat' split
  all_goals simp only [refreshCtxs_kept, admitItem_kept, lanePop_kept, keeps_next]

theorem serveHold_kept (c : Nat) (l : List HeldReq) (s : State) : (serveHold c l s).kept w = s.kept w := by
  induction l generalizing s with
  | nil => rfl
  | cons x r ih =>
    simp only [serveHold]
    split <;> simp only [setToll_kept, chargeTaken_kept, ih, kept_ite, ite_self]

theorem execTollgateRefill_keeps (customer : Fin 4096) (s : State) :
    keeps w s (execTollgateRefill customer s) := by
  unfold execTollgateRefill
  split <;> simp only [setToll_kept, refreshCtxs_kept, serveHold_kept, keeps_ite, keeps_next, ite_self]

theorem loadSource_kept (s : State) (p : Nat) (l : Live) (source : Word) :
    (loadSource s p l source).kept w = s.kept w := by
  unfold loadSource
  split
  · rfl
  · exact getD_kept (fun _ => walkerRead_kept) rfl

theorem copyEnds_kept (s : State) (p : Nat) (tag : BitVec 48) (ok : Bool) :
    (copyEnds s p tag ok).kept w = s.kept w := by
  simp only [copyEnds]
  repeat' split
  all_goals simp only [killNode_kept, modLive_kept, lowerRefs_kept]

theorem noteSource_kept (s : State) (p : Nat) (tag : BitVec 48) (entry : Option (List Byte)) :
    (noteSource s p tag entry).kept w = s.kept w := by
  simp only [noteSource]
  repeat' split
  all_goals simp only [copyEnds_kept, queueMoves_kept, modLive_kept]

theorem beginCopy_kept (s : State) (p : Nat) (tag : BitVec 48) (entry : Option (List Byte)) :
    (beginCopy s p tag entry).kept w = s.kept w := by
  unfold beginCopy
  split <;> simp only [loadSource_kept, modLive_kept, noteSource_kept, kept_ite, ite_self]

theorem checkCopy_kept (s : State) (p : Nat) (tag : BitVec 48) (c : PrefixCopy) (copied : Bool)
    (entry : Option (List Byte)) : (checkCopy s p tag c copied entry).kept w = s.kept w := by
  simp only [checkCopy, copyEnds_kept]

theorem walkMatched_kept (s : State) (p : Nat) (l : Live) (t : SpTable) (stamp : Word)
    (buckets : List (Option (List Byte))) : (walkMatched s p l t stamp buckets).kept w = s.kept w := by
  simp only [walkMatched]
  split <;> simp only [walkerAdd_kept, walkerWrite_kept, modLive_kept, beginCopy_kept, kept_ite, ite_self,
    foldl_kept, implies_true]

theorem walkHead_kept (s : State) (p : Nat) (l : Live) (buckets : List (Option (List Byte))) :
    (walkHead s p l buckets).kept w = s.kept w := by
  simp only [walkHead]
  repeat' split
  all_goals simp only [modReq_kept]

theorem execSignpostWalkDone_keeps (p : Part) (tag : BitVec 48) (stamp : Word)
    (buckets : List (Option (List Byte))) (s : State) :
    keeps w s (execSignpostWalkDone p tag stamp buckets s) := by
  simp only [execSignpostWalkDone]
  repeat' split
  all_goals simp only [modLive_kept, refreshCtxs_kept, walkMatched_kept, walkHead_kept, keeps_next]

theorem takeGrant_kept (s : State) (p : Nat) (l : Live) (asked : Word) (h : SvcHdr) (payload : List Byte)
    (source : Option (List Byte)) : (takeGrant s p l asked h payload source).kept w = s.kept w := by
  simp only [takeGrant, modLive_kept, beginCopy_kept, kept_ite, ite_self]

theorem openRefused_kept (s : State) (p : Nat) (l : Live) (asked : Word) (c : Byte) :
    (openRefused s p l asked c).kept w = s.kept w := by
  unfold openRefused
  split <;> simp only [sendOpen_kept, endNow_kept]

theorem insertPrefix_kept (s : State) (p : Nat) (tag : BitVec 48) :
    (insertPrefix s p tag).kept w = s.kept w := by
  simp only [insertPrefix]
  repeat' split
  all_goals simp only [insertStart_kept]

theorem updateHead_kept (s : State) (p : Nat) (l : Live) : (updateHead s p l).kept w = s.kept w := by
  unfold updateHead
  split <;> simp only [insertStart_kept]

/-! ### Program images and stitch cores -/

theorem coreFault_kept (s : State) (b c : Nat) (code : Byte) : (coreFault s b c code).kept w = s.kept w := by
  simp only [coreFault, setEng_kept]

theorem onCore_kept (s : State) (b c : Nat) (pre : List ScalarInstr) (f : State → Core → State)
    (hc : w.cores = true) (hf : ∀ s x, (f s x).kept w = s.kept w) :
    (onCore s b c pre f).kept w = s.kept w := by
  simp only [onCore, setCore_kept, hc, kept_ite, ite_self, hf]

theorem onOwned_kept (s : State) (b c : Nat) (pre : List ScalarInstr) (owned : Nat → Bool)
    (f : State → Core → State) (hc : w.cores = true) (hf : ∀ s x, (f s x).kept w = s.kept w) :
    (onOwned s b c pre owned f).kept w = s.kept w := by
  simp only [onOwned, onCore_kept, coreFault_kept, hc, kept_ite, ite_self, implies_true, hf]

theorem startCores_kept (s : State) (b : Nat) (first : BitVec 32) (hc : w.cores = true) :
    (startCores s b first).kept w = s.kept w := by
  simp only [startCores, State.kept, unlessFree, hc, ↓reduceIte]

theorem runEnds_kept (s : State) (p b : Nat) (code : Byte) : (runEnds s p b code).kept w = s.kept w := by
  rw [runEnds_frame]; rfl

theorem zeroBenches_kept (s : State) (b : Nat) (hm : w.memory = true) :
    (zeroBenches s b).kept w = s.kept w := by
  simp only [zeroBenches, State.kept, unlessFree, hm, ↓reduceIte]

theorem askStart_kept (s : State) (b : Nat) : (askStart s b).kept w = s.kept w := by
  simp only [askStart, setPwr_kept]

theorem wakeBlock_kept (s : State) (b : Nat) : (wakeBlock s b).kept w = s.kept w := by
  simp only [wakeBlock, setPwr_kept, kept_ite, ite_self]

/-! ### Remote-line requests at their home -/

theorem answerData_kept (s : State) (r : Req2) (c : Byte) (data : List Byte) :
    (answerData s r c data).kept w = s.kept w := by
  unfold answerData
  split <;> simp only [originate_kept]

theorem keepAtomic_kept (s : State) (x : XtHdr) (data : List Byte) :
    (keepAtomic s x data).kept w = s.kept w := by
  simp only [keepAtomic, setPeer_kept]

theorem homeEnd_kept (s : State) (j : HomeJob) : (homeEnd s j).kept w = s.kept w := by
  unfold homeEnd
  split <;> simp only [keepAtomic_kept, answerData_kept, reportHandled_kept, kept_ite, ite_self]

theorem applyLine_kept (s : State) (j : HomeJob) (line : Nat) (hm : w.memory = true) :
    (applyLine s j line).1.kept w = s.kept w := by
  simp only [applyLine]
  repeat' split
  all_goals simp only [transferRead_kept, transferWrite_kept, storeRaw_kept, hm]

theorem addLine_kept (s : State) (line : Nat) : (addLine s line).kept w = s.kept w := by
  simp only [addLine, modFab_kept]

theorem serveLine_kept (line : Nat) (l : List HomeJob) (s : State) (hm : w.memory = true) :
    (serveLine line l s).2.kept w = s.kept w := by
  induction l generalizing s with
  | nil => rfl
  | cons x r ih =>
    simp only [serveLine]
    split <;> simp only [applyLine_kept, homeEnd_kept, ih, hm, kept_ite, ite_self]

theorem fillLine_kept (s : State) (line : Nat) (hm : w.memory = true) :
    (fillLine s line).kept w = s.kept w := by
  simp only [fillLine, addLine_kept, serveLine_kept, modFab_kept, hm]

theorem fillWaited_kept (s : State) (pick : Nat → Bool) (hm : w.memory = true) :
    (fillWaited s pick).kept w = s.kept w := by
  simp only [fillWaited, fillLine_kept, hm, kept_ite, ite_self, foldl_kept, implies_true]

theorem settlePart_kept (s : State) (p : Nat) (hm : w.memory = true) :
    (settlePart s p).kept w = s.kept w := by
  simp only [settlePart, fillWaited_kept, hm]

theorem passSquares_kept (s : State) (p off len : Nat) (hm : w.memory = true) :
    (passSquares s p off len).kept w = s.kept w := by
  simp only [passSquares, addLine_kept, fillWaited_kept, hm, kept_ite, ite_self, foldl_kept, implies_true]

theorem homeRead_kept (s : State) (p off len : Nat) (tag : Word) (hm : w.memory = true) :
    (homeRead s p off len tag).2.2.kept w = s.kept w := by
  simp only [homeRead, transferRead_kept, passSquares_kept, hm]

theorem homeWrite_kept (s : State) (p off : Nat) (bs : List Byte) (covers : Nat → Bool) (tag : Word)
    (hm : w.memory = true) : (homeWrite s p off bs covers tag).2.kept w = s.kept w := by
  simp only [homeWrite, transferWrite_kept, passSquares_kept, hm]

theorem applyPresent_kept (s : State) (j : HomeJob) (hm : w.memory = true) :
    (applyPresent s j).1.kept w = s.kept w :=
  foldl_proj_kept Prod.fst (fun r l => applyLine_kept r.1 r.2 l hm) _ (s, j)

theorem toSquares_kept (s : State) (r : Req2) (again : Bool) (hm : w.memory = true) :
    (toSquares s r again).kept w = s.kept w := by
  simp only [toSquares, badWordFaults_kept, homeEnd_kept, applyPresent_kept, modFab_kept, hm, kept_ite,
    ite_self]

theorem deliverOrdered_kept (d fuel : Nat) (s : State) (hm : w.memory = true) :
    (deliverOrdered d fuel s).kept w = s.kept w := by
  induction fuel generalizing s with
  | zero => rfl
  | succ n ih =>
    simp only [deliverOrdered]
    split <;> simp only [modFab_kept, setPeer_kept, toSquares_kept, ih, hm]

theorem repeatRequest_kept (s : State) (r : Req2) (hm : w.memory = true) :
    (repeatRequest s r).kept w = s.kept w := by
  simp only [repeatRequest, toSquares_kept, hm, kept_ite]
  repeat' split
  all_goals simp only [toSquares_kept, reportHandled_kept, answerData_kept, hm]

theorem arrive2_kept (s : State) (r : Req2) (hm : w.memory = true) : (arrive2 s r).kept w = s.kept w := by
  unfold arrive2
  dsimp only
  split
  · rfl
  · split
    · exact dropNoPeer_kept ..
    next t ht =>
      rw [← rxContext_kept ht]
      simp only [repeatRequest_kept, setPeer_kept, deliverOrdered_kept, toSquares_kept, modFab_kept, hm,
        kept_ite, ite_self]

theorem dropLength_kept (s : State) : (dropLength s).kept w = s.kept w := by
  simp only [dropLength, modFab_kept]

theorem execRead_keeps (x : XtHdr) (addr : Word) (length : Nat) (s : State) (hm : w.memory = true) :
    keeps w s (execRead x addr length s) := by
  simp only [execRead, arrive2_kept, hm, keeps_next]

theorem execWrite_keeps (x : XtHdr) (addr : Word) (length : Nat) (bytes : List Byte) (s : State)
    (hm : w.memory = true) : keeps w s (execWrite x addr length bytes s) := by
  simp only [execWrite, arrive2_kept, dropLength_kept, hm, kept_ite, keeps_next, ite_self]

theorem execAtomic_keeps (x : XtHdr) (addr : Word) (aop size : Byte) (operand compare : Word) (s : State)
    (hm : w.memory = true) : keeps w s (execAtomic x addr aop size operand compare s) := by
  simp only [execAtomic, arrive2_kept, hm, keeps_next]

theorem execSquareLineFill_keeps (line : LineRead) (s : State) (hm : w.memory = true) :
    keeps w s (execSquareLineFill line s) := by
  simp only [execSquareLineFill, fillLine_kept, eccMet_kept, hm, keeps_ite, keeps_next, ite_self]

/-! ### The attention ring -/

theorem spoilBenches_benchSpoil_kept (s : State) (b c : Nat) (bs : List Byte) (hm : w.memory = true) :
    (spoilBenches.benchSpoil s b c bs).kept w = s.kept w := by
  simp only [spoilBenches.benchSpoil, storeRaw_kept, hm]

theorem spoilBenches_kept (s : State) (b : Nat) (hm : w.memory = true) :
    (spoilBenches s b).kept w = s.kept w := by
  simp only [spoilBenches, spoilBenches_benchSpoil_kept, draw_kept, hm, foldl_kept, implies_true]

theorem attnCompute_kept (s : State) (p : Nat) (c : AttnCmd) (found : Found) (hm : w.memory = true) :
    (attnCompute s p c found).2.kept w = s.kept w := by
  simp only [attnCompute]
  split <;> simp only [settlePart_kept, eccMetIn_kept, transferRead_kept, draw_kept, transferWrite_kept, hm]

theorem attnComplete_kept (s : State) (b p : Nat) (j : AttnJob) :
    (attnComplete s b p j).kept w = s.kept w := by
  simp only [attnComplete, setAttn_kept, traceEvent_kept, noteStep_kept, ctrAdd_kept, kept_ite, ite_self]

theorem attnUnreadable_kept (s : State) (b : Nat) (c : Byte) : (attnUnreadable s b c).kept w = s.kept w := by
  simp only [attnUnreadable, setAttn_kept]

theorem attnStart_kept (s : State) (b p : Nat) (j : AttnJob) (found : Found) (hm : w.memory = true) :
    (attnStart s b p j found).kept w = s.kept w := by
  simp only [attnStart, setAttn_kept, attnComplete_kept, wakeBlock_kept, spoilBenches_kept, hm, kept_ite,
    ite_self]
  repeat' split
  all_goals simp only [attnCompute_kept, hm]

theorem attnTurn_kept (s : State) (b p : Nat) (found : Found) (hm : w.memory = true) :
    (attnTurn s b p found).kept w = s.kept w := by
  simp only [attnTurn, kept_ite]
  repeat' split
  all_goals simp only [attnStart_kept, setAttn_kept, settlePart_kept, ringRead_kept, attnUnreadable_kept,
    attnComplete_kept, hm]

theorem attnEnds_kept (s : State) (b p : Nat) (j : AttnJob) (hm : w.memory = true) :
    (attnEnds s b p j).kept w = s.kept w := by
  simp only [attnEnds, attnComplete_kept, spoilBenches_kept, hm, kept_ite, ite_self]

theorem attnKillAll_kept (s : State) (b p : Nat) (c : Byte) (hm : w.memory = true) :
    (attnKillAll s b p c).kept w = s.kept w := by
  simp only [attnKillAll, setAttn_kept, spoilBenches_kept, attnComplete_kept, hm, kept_ite, ite_self,
    foldl_kept, implies_true]

theorem attnFlushRing_kept (b p : Nat) (c : Byte) (fuel : Nat) (s : State) :
    (attnFlushRing b p c fuel s).kept w = s.kept w := by
  induction fuel generalizing s with
  | zero => rfl
  | succ n ih =>
    simp only [attnFlushRing, setAttn_kept, attnComplete_kept, attnUnreadable_kept, ringRead_kept, ih,
      kept_ite, ite_self]

theorem attnFlushAll_kept (s : State) (b p : Nat) (c : Byte) : (attnFlushAll s b p c).kept w = s.kept w := by
  simp only [attnFlushAll, attnFlushRing_kept]
  split <;> simp only [attnComplete_kept, setAttn_kept]

theorem attnSetTail_kept (s : State) (b : Nat) (t : BitVec 32) : (attnSetTail s b t).kept w = s.kept w := by
  simp only [attnSetTail, setAttn_kept]

theorem execAttnTailWrite_keeps (src : Src) (b : Blk) (value : Word) (s : State) :
    keeps w s (execAttnTailWrite src b value s) := by
  simp only [execAttnTailWrite, blockWrite_kept, attnSetTail_kept, keeps_next, implies_true]

theorem execAttend_keeps (b : BlkRead) (s : State) (hm : w.memory = true) : keeps w s (execAttend b s) := by
  unfold execAttend
  split <;> simp only [attnTurn_kept, hm, keeps_next]

theorem execAttendComplete_keeps (b : Blk) (index : BitVec 32) (s : State) (hm : w.memory = true) :
    keeps w s (execAttendComplete b index s) := by
  simp only [execAttendComplete]
  split <;> simp only [attnEnds_kept, setAttn_kept, hm, keeps_next]

theorem execAttnFlush_keeps (src : Src) (b : Blk) (value : Word) (s : State) :
    keeps w s (execAttnFlush src b value s) := by
  refine (keeps_next ..).2 (blockWrite_kept _ _ _ _ _ fun s => ?_)
  split <;> simp only [attnFlushAll_kept, kept_ite, ite_self]

/-! ### The Last service at a cache partition -/

theorem openGrant_kept (s : State) (p n : Nat) (h : SvcHdr) (mirror : Word) (hm : w.memory = true) :
    (openGrant s p n h mirror).kept w = s.kept w := by
  simp only [openGrant, setDir_kept, svcReply_kept, hm]

theorem askPartner_kept (s : State) (p n reuse : Nat) (h : SvcHdr) (q : Nat × Nat) :
    (askPartner s p n reuse h q).kept w = s.kept w := by
  simp only [askPartner, svcSend_kept, modPLast_kept]

theorem openStep8_kept (s : State) (p n : Nat) (h : SvcHdr) (peer : Nat) (hm : w.memory = true) :
    (openStep8 s p n h peer).kept w = s.kept w := by
  unfold openStep8
  split <;> simp only [openGrant_kept, levelTo_kept, askPartner_kept, hm]

theorem startGrowth_kept (s : State) (p n need kind : Nat) (h : SvcHdr) (peer : Nat) (left : Nat × Nat)
    (hm : w.memory = true) : (startGrowth s p n need kind h peer left).1.kept w = s.kept w := by
  simp only [startGrowth]
  repeat' split
  all_goals simp only [waitForRoom_kept, putJob_kept, setDir_kept, hm]

theorem openStep7_kept (s : State) (p n : Nat) (h : SvcHdr) (left : Nat × Nat) (peer : Nat)
    (hm : w.memory = true) : (openStep7 s p n h left peer).1.kept w = s.kept w := by
  simp only [openStep7]
  split <;> simp only [startGrowth_kept, openStep8_kept, hm]

theorem openStep6_kept (s : State) (p n : Nat) (h : SvcHdr) (left : Nat × Nat) (peer : Nat)
    (hm : w.memory = true) : (openStep6 s p n h left peer).1.kept w = s.kept w := by
  simp only [openStep6]
  repeat' split
  all_goals simp only [openStep7_kept, waitForRoom_kept, putJob_kept, setDir_kept, lastNvme_kept, hm]

theorem probe_kept (s : State) (p n : Nat) (tag : BitVec 48) (reuse layer length heads head : Nat)
    (q : Nat × Nat) : (probe s p n tag reuse layer length heads head q).2.kept w = s.kept w := by
  simp only [probe, svcSend_kept]

theorem probePartner_kept (s : State) (p n : Nat) (h : SvcHdr) (q : Nat × Nat) (sh : Nat × Nat × Nat × Nat) :
    (probePartner s p n h q sh).kept w = s.kept w := by
  simp only [probePartner, probe_kept, modPLast_kept]

theorem openLost_kept (s : State) (p n : Nat) (h : SvcHdr) : (openLost s p n h).1.kept w = s.kept w := by
  simp only [openLost]
  repeat' split
  all_goals simp only [probePartner_kept, putJob_kept]

theorem openResume_kept (s : State) (p n : Nat) (h : SvcHdr) (hm : w.memory = true) :
    (openResume s p n h).1.kept w = s.kept w := by
  simp only [openResume]
  repeat' split
  all_goals simp only [openLost_kept, openStep6_kept, hm]

theorem popWaiting_kept {s : State} {p n : Nat} (hm : w.memory = true) {r : SvcHdr × State}
    (ho : popWaiting s p n = some r) : r.2.kept w = s.kept w := by
  unfold popWaiting at ho
  split at ho
  · cases ho
  · rw [← Option.some.inj ho]
    simp only [modPLast_kept, modDir_kept, hm]

theorem makeIdle_kept (s : State) (p n : Nat) (hm : w.memory = true) :
    (makeIdle s p n).kept w = s.kept w := by
  simp only [makeIdle, modDir_kept, hm]

theorem openFail_kept (fuel : Nat) (s : State) (p n : Nat) (h : SvcHdr) (c : Byte) (hm : w.memory = true) :
    (openFail fuel s p n h c).kept w = s.kept w := by
  induction fuel generalizing s h c with
  | zero => simp only [openFail, freeLast_kept, makeIdle_kept, svcCode_kept, hm, kept_ite, ite_self]
  | succ m ih =>
    unfold openFail
    simp only [freeLast_kept, svcCode_kept, hm, kept_ite]
    split
    · rfl
    · split
      · simp only [makeIdle_kept, svcCode_kept, hm]
      next h' t ht =>
        have hk : (openResume t p n h').1.kept w = s.kept w :=
          (openResume_kept t p n h' hm).trans ((popWaiting_kept hm ht).trans (svcCode_kept ..))
        split
        next q hq => rwa [hq] at hk
        next q c hq => rw [ih]; rwa [hq] at hk

theorem openEnds_kept (s : State) (p n : Nat) (h : SvcHdr) (c : Byte) (hm : w.memory = true) :
    (openEnds s p n h c).kept w = s.kept w := by
  simp only [openEnds, openFail_kept, hm]

theorem openWith_kept (p n : Nat) (h : SvcHdr) (r : State × Option Byte) (hm : w.memory = true) :
    (openWith p n h r).kept w = r.1.kept w := by
  unfold openWith
  split <;> simp only [openEnds_kept, hm]

theorem passOn_kept (s : State) (p n : Nat) (hm : w.memory = true) : (passOn s p n).kept w = s.kept w := by
  unfold passOn
  split
  · exact makeIdle_kept _ _ _ hm
  next h t ht => rw [openWith_kept _ _ _ _ hm, openResume_kept _ _ _ _ hm, popWaiting_kept hm ht]

theorem queueOpen_kept (s : State) (p n : Nat) (h : SvcHdr) (hm : w.memory = true) :
    (queueOpen s p n h).kept w = s.kept w := by
  simp only [queueOpen, modPLast_kept, modDir_kept, hm]

theorem abandonMove_kept (s : State) (p n : Nat) (hm : w.memory = true) :
    (abandonMove s p n).kept w = s.kept w := by
  simp only [abandonMove, modDir_kept, endJob_kept, hm]

theorem newLast_kept (s : State) (p n reuse cls tier base : Nat) (shape : Nat × Nat × Nat × Nat)
    (hm : w.memory = true) : (newLast s p n reuse cls tier base shape).kept w = s.kept w := by
  simp only [newLast, setDir_kept, hm]

theorem openNew_kept (s : State) (p count : Nat) (h : SvcHdr) (left : Nat × Nat) (hm : w.memory = true) :
    (openNew s p count h left).kept w = s.kept w := by
  simp only [openNew, svcCode_kept, kept_ite]
  repeat' split
  all_goals simp only [svcCode_kept, waitForRoom_kept, newLast_kept, openEnds_kept, openWith_kept,
    openStep7_kept, hm]

theorem takeOpens_kept (s : State) (p n : Nat) : (takeOpens s p n).2.kept w = s.kept w := by
  simp only [takeOpens, modPLast_kept, endJob_kept]

theorem dropOpens_kept (s : State) (p n reuse : Nat) (hm : w.memory = true) :
    (dropOpens s p n reuse).kept w = s.kept w := by
  simp only [dropOpens, takeOpens_kept, queueOpen_kept, svcCode_kept, hm, kept_ite, ite_self, foldl_kept,
    implies_true]

theorem commitAnswer_kept (s : State) (p n : Nat) (h : SvcHdr) (c : Byte) :
    (commitAnswer s p n h c).kept w = s.kept w := by
  simp only [commitAnswer, svcReply_kept]

theorem dropHeld_kept (s : State) (p n : Nat) (c : Byte) : (dropHeld s p n c).kept w = s.kept w := by
  simp only [dropHeld, commitAnswer_kept, svcCode_kept, modPLast_kept, foldl_kept, implies_true]

theorem partnerRefused_kept (s : State) (p n : Nat) (h : SvcHdr) (c : Byte) :
    (partnerRefused s p n h c).kept w = s.kept w := by
  simp only [partnerRefused, svcCode_kept, takeOpens_kept, foldl_kept, implies_true]

theorem partnerSlot_kept (s : State) (p n count : Nat) (h : SvcHdr) (peer : Nat) (left : Nat × Nat)
    (hm : w.memory = true) : (partnerSlot s p n count h peer left).kept w = s.kept w := by
  simp only [partnerSlot, svcCode_kept, kept_ite]
  repeat' split
  all_goals simp only [svcCode_kept, modPLast_kept, openWith_kept, openStep6_kept, freeLast_kept,
    dropOpens_kept, dropHeld_kept, partnerRefused_kept, waitForRoom_kept, openStep7_kept, newLast_kept, hm]

theorem recoverLast_kept (s : State) (p n : Nat) (h : SvcHdr) (reuse cls length : Nat) (left : Nat × Nat)
    (hm : w.memory = true) : (recoverLast s p n h reuse cls length left).kept w = s.kept w := by
  simp only [recoverLast]
  repeat' split
  all_goals simp only [openEnds_kept, waitForRoom_kept, levelTo_kept, newLast_kept, openWith_kept,
    openStep7_kept, hm]

theorem rebuildNow_kept (s : State) (p : Nat) : (rebuildNow s p).kept w = s.kept w := by
  simp only [rebuildNow, modPLast_kept, kept_ite, ite_self]

theorem serveOpenPartner_kept (p : Nat) (h : SvcHdr) (senderLength : Nat) (s : State) (hm : w.memory = true) :
    (serveOpenPartner p h senderLength s).kept w = s.kept w := by
  refine svcReceive_kept _ _ _ _ _ _ fun s => ?_
  split <;> simp only [svcCode_kept, modPLast_kept, rebuildNow_kept, partnerSlot_kept, hm]

theorem execOpenPartner_keeps (p : Part) (h : SvcHdr) (senderLength : Nat) (s : State) (hm : w.memory = true) :
    keeps w s (execOpenPartner p h senderLength s) := by
  simp only [execOpenPartner, serveOpenPartner_kept, hm, kept_ite, keeps_next, ite_self]

theorem probeAnswered_kept (s : State) (p n : Nat) (h : SvcHdr) (c : Byte) (hm : w.memory = true) :
    (probeAnswered s p n h c).kept w = s.kept w := by
  simp only [probeAnswered]
  split <;> simp only [endJob_kept, openEnds_kept, askPartner_kept, putJob_kept, hm, kept_ite, ite_self]

theorem partnerGrant_kept (s : State) (p n : Nat) (h r : SvcHdr) (c : Byte) (hm : w.memory = true) :
    (partnerGrant s p n h r c).kept w = s.kept w := by
  simp only [partnerGrant]
  repeat' split
  all_goals simp only [endJob_kept, openEnds_kept, recoverLast_kept, openWith_kept, startGrowth_kept,
    openGrant_kept, levelTo_kept, hm]

theorem commitTry_kept {s : State} {p n : Nat} {h : SvcHdr} (hm : w.memory = true) {r : State}
    (ho : commitTry s p n h = some r) : r.kept w = s.kept w := by
  simp only [commitTry] at ho
  repeat' split at ho
  · cases ho
  · rw [← Option.some.inj ho, commitAnswer_kept]
  · rw [← Option.some.inj ho, commitAnswer_kept]
  · rw [← Option.some.inj ho, commitAnswer_kept, setDir_kept _ _ _ _ hm]
  · cases ho

theorem sendBringUp_kept (s : State) (p n : Nat) (tag : BitVec 48) (holder : Word) (q : Nat × Nat) :
    (sendBringUp s p n tag holder q).kept w = s.kept w := by
  simp only [sendBringUp, svcSend_kept, modPLast_kept]

theorem bringUp_kept (s : State) (p n : Nat) : (bringUp s p n).kept w = s.kept w := by
  unfold bringUp
  split <;> simp only [sendBringUp_kept, modPLast_kept, kept_ite, ite_self]

theorem serveCommit_kept (p : Nat) (h : SvcHdr) (s : State) (hm : w.memory = true) :
    (serveCommit p h s).kept w = s.kept w := by
  refine svcReceive_kept _ _ _ _ _ _ fun s => ?_
  simp only [svcCode_kept, commitAnswer_kept, kept_ite]
  repeat' split
  · rfl
  · rfl
  next t ht => rw [bringUp_kept, commitTry_kept hm ht]
  · simp only [commitAnswer_kept]
  · simp only [modPLast_kept]

theorem execCommit_keeps (p : Part) (h : SvcHdr) (s : State) (hm : w.memory = true) :
    keeps w s (execCommit p h s) := by
  simp only [execCommit, serveCommit_kept, hm, keeps_next]

theorem resumeCommits_kept (p n : Nat) (l kept : List SvcHdr) (s : State) (hm : w.memory = true) :
    (resumeCommits p n l kept s).2.kept w = s.kept w := by
  induction l generalizing kept s with
  | nil => rfl
  | cons h r ih =>
    unfold resumeCommits
    dsimp only
    split
    next t ht => rw [ih, commitTry_kept hm ht]
    · split
      · rw [ih, commitAnswer_kept]
      · exact ih ..

theorem execCommitHeldResume_keeps (p : Part) (slot : Nat) (s : State) (hm : w.memory = true) :
    keeps w s (execCommitHeldResume p slot s) := by
  simp only [execCommitHeldResume, resumeCommits_kept, bringUp_kept, modPLast_kept, hm, kept_ite, keeps_next,
    ite_self]

theorem resumePartners_kept (s : State) (p n : Nat) (hm : w.memory = true) :
    (resumePartners s p n).kept w = s.kept w := by
  unfold resumePartners
  split <;> simp only [partnerSlot_kept, modPLast_kept, hm, foldl_kept, implies_true]

theorem endHold_kept (s : State) (p n : Nat) (hm : w.memory = true) : (endHold s p n).kept w = s.kept w := by
  simp only [endHold, modDir_kept, dropHeld_kept, resumePartners_kept, passOn_kept, hm]

theorem serveRelease_kept (p : Nat) (h : SvcHdr) (s : State) (hm : w.memory = true) :
    (serveRelease p h s).kept w = s.kept w := by
  refine svcReceive_kept _ _ _ _ _ _ fun s => ?_
  simp only [svcCode_kept, svcReply_kept, endHold_kept, hm, kept_ite, ite_self]

theorem execRelease_keeps (p : Part) (h : SvcHdr) (s : State) (hm : w.memory = true) :
    keeps w s (execRelease p h s) := by
  simp only [execRelease, serveRelease_kept, hm, keeps_next]

theorem serveTransfer_kept (p : Nat) (h : SvcHdr) (s : State) (hm : w.memory = true) :
    (serveTransfer p h s).kept w = s.kept w := by
  refine svcReceive_kept _ _ _ _ _ _ fun s => ?_
  simp only [svcCode_kept, setDir_kept, svcReply_kept, hm, kept_ite, ite_self]

theorem execTransfer_keeps (p : Part) (h : SvcHdr) (s : State) (hm : w.memory = true) :
    keeps w s (execTransfer p h s) := by
  simp only [execTransfer, serveTransfer_kept, hm, keeps_next]

theorem growReply_kept (s : State) (p n : Nat) (h : SvcHdr) (c : Byte) :
    (growReply s p n h c).kept w = s.kept w := by
  simp only [growReply, svcCode_kept, svcReply_kept, kept_ite, ite_self]

theorem growWith_kept (p n kind : Nat) (h : SvcHdr) (r : State × Option Byte) (hm : w.memory = true) :
    (growWith p n kind h r).kept w = r.1.kept w := by
  unfold growWith
  split <;> simp only [growReply_kept, openEnds_kept, hm, kept_ite, ite_self]

theorem growTry_kept (s : State) (p n : Nat) (h : SvcHdr) (hm : w.memory = true) :
    (growTry s p n h).kept w = s.kept w := by
  simp only [growTry, svcCode_kept, growReply_kept, modPLast_kept, growWith_kept, startGrowth_kept, hm,
    kept_ite, ite_self]

theorem serveGrow_kept (p : Nat) (h : SvcHdr) (s : State) (hm : w.memory = true) :
    (serveGrow p h s).kept w = s.kept w := by
  refine svcReceive_kept _ _ _ _ _ _ fun s => ?_
  simp only [svcCode_kept, growTry_kept, hm, kept_ite, ite_self]

theorem execGrow_keeps (p : Part) (h : SvcHdr) (s : State) (hm : w.memory = true) :
    keeps w s (execGrow p h s) := by
  simp only [execGrow, serveGrow_kept, hm, keeps_next]

theorem resumeSlot_kept (s : State) (p n : Nat) (hm : w.memory = true) :
    (resumeSlot s p n).kept w = s.kept w := by
  simp only [resumeSlot, resumePartners_kept, growTry_kept, modPLast_kept, hm, foldl_kept, implies_true]

theorem roomRetry_kept (s : State) (p : Nat) (x : RoomWait) (hm : w.memory = true) :
    (roomRetry s p x).kept w = s.kept w := by
  unfold roomRetry
  dsimp only
  split
  · split <;> simp only [svcCode_kept, openNew_kept, hm]
  · simp only [openWith_kept, openStep6_kept, hm]
  · simp only [growWith_kept, startGrowth_kept, hm]
  · split <;> simp only [svcCode_kept, partnerSlot_kept, hm]
  · simp only [recoverLast_kept, hm]

theorem resumeRoom_kept (s : State) (p n : Nat) (hm : w.memory = true) :
    (resumeRoom s p n).kept w = s.kept w := by
  rw [resumeRoom, foldl_kept (fun s x => roomRetry_kept s p x hm), modPLast_kept]

theorem openOld_kept (s : State) (p : Nat) (h : SvcHdr) (hm : w.memory = true) :
    (openOld s p h).kept w = s.kept w := by
  simp only [openOld, queueOpen_kept, svcCode_kept, hm, kept_ite]
  repeat' split
  all_goals simp only [queueOpen_kept, openLost_kept, svcCode_kept, resumeRoom_kept, resumeSlot_kept,
    openWith_kept, openStep6_kept, abandonMove_kept, hm]

theorem serveOpen_kept (p : Nat) (h : SvcHdr) (s : State) (hm : w.memory = true) :
    (serveOpen p h s).kept w = s.kept w := by
  refine svcReceive_kept _ _ _ _ _ _ fun s => ?_
  split <;> simp only [svcCode_kept, openNew_kept, openOld_kept, hm, kept_ite, ite_self]

theorem execOpenLast_keeps (p : Part) (h : SvcHdr) (s : State) (hm : w.memory = true) :
    keeps w s (execOpenLast p h s) := by
  simp only [execOpenLast, serveOpen_kept, hm, kept_ite, keeps_next, ite_self]

theorem loseLast_kept (s : State) (p n : Nat) (hm : w.memory = true) :
    (loseLast s p n).kept w = s.kept w := by
  simp only [loseLast, modDir_kept, takeOpens_kept, dropHeld_kept, partnerSlot_kept, svcCode_kept,
    openOld_kept, resumeRoom_kept, resumeSlot_kept, hm, kept_ite, ite_self, foldl_kept, implies_true]

theorem jobCopy_kept (s : State) (p n : Nat) (j : LastJob) (code : Byte) (hm : w.memory = true) :
    (jobCopy s p n j code).2.2.kept w = s.kept w := by
  simp only [jobCopy]
  repeat' split
  all_goals simp only [copyLast_kept, hm]

theorem copyMet_kept (s : State) (r : PartRead) (n : Nat) (hm : w.memory = true) :
    (copyMet s r n).kept w = s.kept w := by
  simp only [copyMet, settlePart_kept, eccMetIn_kept, hm, kept_ite, ite_self]

theorem execLastGrowthCopyDone_keeps (read : PartRead) (slot : Nat) (code : Byte) (s : State)
    (hm : w.memory = true) : keeps w s (execLastGrowthCopyDone read slot code s) := by
  simp only [execLastGrowthCopyDone]
  repeat' split
  all_goals simp only [jobCopy_kept, copyMet_kept, endJob_kept, setDir_kept, modPLast_kept, resumeSlot_kept,
    growReply_kept, openEnds_kept, openStep8_kept, hm, keeps_next]

theorem execLastOldFootprintFree_keeps (p : Part) (slot : Nat) (s : State) :
    keeps w s (execLastOldFootprintFree p slot s) := by
  simp only [execLastOldFootprintFree, modPLast_kept, keeps_next]

theorem moveEnds_kept (s : State) (p n : Nat) (j : LastJob) (c : Byte) (bad : Bool) (hm : w.memory = true) :
    (moveEnds s p n j c bad).kept w = s.kept w := by
  simp only [moveEnds, endJob_kept, setDir_kept, loseLast_kept, hm, kept_ite, ite_self]

theorem execLastPromotionDone_keeps (read : PartRead) (slot : Nat) (code : Byte) (s : State)
    (hm : w.memory = true) : keeps w s (execLastPromotionDone read slot code s) := by
  simp only [execLastPromotionDone]
  repeat' split
  all_goals simp only [jobCopy_kept, copyMet_kept, moveEnds_kept, resumeSlot_kept, svcCode_kept,
    openEnds_kept, openWith_kept, openStep7_kept, hm, keeps_next]

theorem execLastTierMoveDone_keeps (read : PartRead) (slot : Nat) (code : Byte) (s : State)
    (hm : w.memory = true) : keeps w s (execLastTierMoveDone read slot code s) := by
  simp only [execLastTierMoveDone]
  split <;> simp only [jobCopy_kept, copyMet_kept, resumeRoom_kept, resumeSlot_kept, moveEnds_kept, hm,
    keeps_ite, keeps_next, ite_self]

theorem ageLast_kept (s : State) (p n : Nat) (hm : w.memory = true) : (ageLast s p n).kept w = s.kept w := by
  simp only [ageLast, freeLast_kept, hm, kept_ite]
  repeat' split
  all_goals simp only [startDown_kept, hm]

theorem execLastTtlCheck_keeps (p : Part) (s : State) (hm : w.memory = true) :
    keeps w s (execLastTtlCheck p s) := by
  simp only [execLastTtlCheck, modPLast_kept, ageLast_kept, hm, keeps_ite, keeps_next, ite_self, foldl_kept,
    implies_true]

theorem execLastRebuild_keeps (p : Part) (s : State) : keeps w s (execLastRebuild p s) := by
  simp only [execLastRebuild]
  repeat' split
  all_goals simp only [modPLast_kept, rebuildNow_kept, sendBringUp_kept, keeps_next]

theorem rebuildEnds_kept (s : State) (p n : Nat) (hm : w.memory = true) :
    (rebuildEnds s p n).kept w = s.kept w := by
  simp only [rebuildEnds, modPLast_kept, passOn_kept, hm, kept_ite, ite_self]

theorem bringUpAnswered_kept (s : State) (p n : Nat) (x : SvcSent) (c : Byte) (hm : w.memory = true) :
    (bringUpAnswered s p n x c).kept w = s.kept w := by
  simp only [bringUpAnswered, modPLast_kept, svcSend_kept, rebuildEnds_kept, hm, kept_ite, ite_self]

theorem notePartner_kept (s : State) (p : Nat) (lost : Bool) (hm : w.memory = true) :
    (notePartner s p lost).kept w = s.kept w := by
  simp only [notePartner, modPLast_kept, rebuildEnds_kept, hm, kept_ite, ite_self, foldl_kept, implies_true]

/-! ### Queries at a cache partition -/

theorem queryAnswer_kept (s : State) (p : Nat) (h : SvcHdr) (c : Byte) (payload : List Byte) :
    (queryAnswer s p h c payload).kept w = s.kept w := by
  simp only [queryAnswer, modPLast_kept, svcReply_kept]

theorem sendStripe_kept (s : State) (p : Nat) (h : SvcHdr) (q : QueryShape) (payload : List Byte) :
    (sendStripe s p h q payload).2.kept w = s.kept w := by
  simp only [sendStripe]
  repeat' split
  all_goals simp only [svcSend_kept, modPLast_kept]

theorem serveQuery_kept (p : Nat) (h : SvcHdr) (payload : List Byte) (s : State) (hm : w.memory = true) :
    (serveQuery p h payload s).kept w = s.kept w := by
  refine svcReceive_kept _ _ _ _ _ _ fun s => ?_
  simp only [queryAnswer_kept, setDir_kept, sendStripe_kept, modPLast_kept, hm, kept_ite, ite_self]

theorem execQuery_keeps (p : Part) (h : SvcHdr) (payload : List Byte) (s : State) (hm : w.memory = true) :
    keeps w s (execQuery p h payload s) := by
  simp only [execQuery, serveQuery_kept, hm, keeps_next]

theorem lowerReaders_kept (s : State) (p : Nat) (job : QueryJob) (hm : w.memory = true) :
    (lowerReaders s p job).kept w = s.kept w := by
  simp only [lowerReaders, modDir_kept, modPLast_kept, hm]

theorem planeLost_kept (s : State) (p : Nat) (job : QueryJob) (hm : w.memory = true) :
    (planeLost s p job).kept w = s.kept w := by
  unfold planeLost
  split <;> simp only [loseLast_kept, probe_kept, modPLast_kept, hm, kept_ite, ite_self]

theorem repairAnswered_kept (s : State) (p n layer : Nat) (x : SvcHdr) (c : Byte) (hm : w.memory = true) :
    (repairAnswered s p n layer x c).kept w = s.kept w := by
  simp only [repairAnswered, takePlane_kept, loseLast_kept, hm, kept_ite, ite_self]

theorem execQueryChunksDone_keeps (read : PartRead) (fromDevice fromPartition msgId : Nat) (s : State)
    (hm : w.memory = true) : keeps w s (execQueryChunksDone read fromDevice fromPartition msgId s) := by
  simp only [execQueryChunksDone]
  split <;> simp only [homeRead_kept, eccMet_kept, modPLast_kept, queryAnswer_kept, lowerReaders_kept,
    planeLost_kept, hm, kept_ite, keeps_ite, keeps_next, ite_self]

theorem stripeEnds_kept (s : State) (p id : Nat) (c : Byte) (payload : List Byte) :
    (stripeEnds s p id c payload).kept w = s.kept w := by
  unfold stripeEnds
  split <;> simp only [modPLast_kept]

/-! ### Replies to service messages -/

theorem afterToken0_kept (s : State) (p : Nat) (tag : BitVec 48) :
    (afterToken0 s p tag).kept w = s.kept w := by
  unfold afterToken0
  split <;> simp only [finishRequest_kept, nextTarget_kept, modReq_kept, joinBatch_kept, kept_ite, ite_self]

theorem prefillCommit_kept (s : State) (p : Nat) (tag : BitVec 48) :
    (prefillCommit s p tag).kept w = s.kept w := by
  unfold prefillCommit
  split <;> simp only [insertPrefix_kept, finishRequest_kept, modReq_kept, liveItem_kept, afterToken0_kept,
    kept_ite, ite_self]

theorem commitProgress_kept (s : State) (p : Nat) (tag : BitVec 48) :
    (commitProgress s p tag).kept w = s.kept w := by
  unfold commitProgress
  split <;> simp only [prefillCommit_kept, modReq_kept, flushOn_kept, kept_ite, ite_self]

theorem growDone_kept (s : State) (p : Nat) (tag : BitVec 48) : (growDone s p tag).kept w = s.kept w := by
  unfold growDone
  split <;> simp only [flushOn_kept, modLive_kept, kept_ite, ite_self]

theorem copyLost_kept (s : State) (p : Nat) (tag : BitVec 48) (handle : Word) :
    (copyLost s p tag handle).kept w = s.kept w := by
  simp only [copyLost]
  repeat' split
  all_goals simp only [endNow_kept, modLive_kept, growDone_kept, commitProgress_kept]

theorem lostInStep_kept (s : State) (p : Nat) (tag : BitVec 48) (handle : Word) :
    (lostInStep s p tag handle).kept w = s.kept w := by
  simp only [lostInStep, copyLost_kept, noteStep_kept, kept_ite, ite_self]

theorem commitAnswered_kept (s : State) (p : Nat) (q : SvcHdr) (c : Byte) :
    (commitAnswered s p q c).kept w = s.kept w := by
  unfold commitAnswered
  split <;> simp only [modLive_kept, commitProgress_kept, lostInStep_kept, endWith_kept, kept_ite, ite_self]

theorem growAnswered_kept (s : State) (p : Nat) (q r : SvcHdr) (c : Byte) :
    (growAnswered s p q r c).kept w = s.kept w := by
  unfold growAnswered
  split <;> simp only [lostInStep_kept, endWith_kept, growDone_kept, modLive_kept, kept_ite, ite_self]

theorem handedTo_kept (s : State) (p : Nat) (tag : BitVec 48) (holder : Word) :
    (handedTo s p tag holder).kept w = s.kept w := by
  unfold handedTo
  split <;> simp only [addForward_kept, dropLive_kept, forwardCancel_kept, kept_ite, ite_self]

theorem releaseAnswered_kept (s : State) (p : Nat) (q r : SvcHdr) (c : Byte) :
    (releaseAnswered s p q r c).kept w = s.kept w := by
  simp only [releaseAnswered]
  repeat' split
  all_goals simp only [handedTo_kept, updateHead_kept, modLive_kept, finalItem_kept]

theorem releaseOn_kept (s : State) (p : Nat) (tag : BitVec 48) : (releaseOn s p tag).kept w = s.kept w := by
  simp only [releaseOn]
  repeat' split
  all_goals simp only [sendReleases_kept]

theorem flushAgain_kept (s : State) (p : Nat) (tag : BitVec 48) (d : Descriptor) :
    (flushAgain s p tag d).kept w = s.kept w := by
  unfold flushAgain
  split <;> simp only [modHold_kept, kept_ite, ite_self]

theorem copyMoved_kept (s : State) (p : Nat) (tag : BitVec 48) (c : Byte) :
    (copyMoved s p tag c).kept w = s.kept w := by
  simp only [copyMoved]
  repeat' split
  all_goals simp only [modLive_kept, loadSource_kept]

theorem prefillFailed_kept (s : State) (p : Nat) (x : BitVec 48 × Word) :
    (prefillFailed s p x).kept w = s.kept w := by
  simp only [prefillFailed, modLive_kept]

theorem writeEnded_kept (s : State) (p : Nat) (owner : MoveOwner) (d : Descriptor) (c : Byte) :
    (writeEnded s p owner d c).kept w = s.kept w := by
  unfold writeEnded
  split <;> simp only [lostInStep_kept, flushAgain_kept, endWith_kept, prefillFailed_kept, noteStep_kept,
    copyMoved_kept, releaseOn_kept, flushOn_kept, kept_ite, ite_self, foldl_kept, implies_true]

theorem modTaking_kept (s : State) (p : Nat) (tag : BitVec 48) (f : Taking → Taking) :
    (modTaking s p tag f).kept w = s.kept w := by
  simp only [modTaking, modHold_kept]

theorem dropTaking_kept (s : State) (p : Nat) (tag : BitVec 48) : (dropTaking s p tag).kept w = s.kept w := by
  simp only [dropTaking, modHold_kept]

theorem takingEnds_kept (s : State) (p : Nat) (k : Taking) (c : Byte) (holder : Word) :
    (takingEnds s p k c holder).kept w = s.kept w := by
  simp only [takingEnds, dropTaking_kept, svcReply_kept]

theorem takingAccepted_kept (s : State) (p : Nat) (k : Taking) :
    (takingAccepted s p k).kept w = s.kept w := by
  simp only [takingAccepted, modHold_kept, takingEnds_kept, kept_ite, ite_self]

theorem takingReady_kept (s : State) (p : Nat) (tag : BitVec 48) :
    (takingReady s p tag).kept w = s.kept w := by
  unfold takingReady
  split <;> simp only [modTaking_kept, takingAccepted_kept, kept_ite, ite_self]

theorem sendTransfer_kept (s : State) (p : Nat) (k : Taking) (handle : Word) :
    (sendTransfer s p k handle).kept w = s.kept w := by
  simp only [sendTransfer, askCopy_kept]

theorem transferAnswered_kept (s : State) (p : Nat) (q r : SvcHdr) (c : Byte) :
    (transferAnswered s p q r c).kept w = s.kept w := by
  unfold transferAnswered
  split <;> simp only [sendTransfer_kept, takingReady_kept, takingEnds_kept, modTaking_kept, kept_ite,
    ite_self]

theorem noteTarget_kept (s : State) (p : Nat) (target : Option Nat) (r : SvcHdr) :
    (noteTarget s p target r).kept w = s.kept w := by
  unfold noteTarget
  split <;> simp only [modPLast_kept, kept_ite, ite_self]

theorem handoffAnswered_kept (s : State) (p : Nat) (q r : SvcHdr) (c : Byte) :
    (handoffAnswered s p q r c).kept w = s.kept w := by
  unfold handoffAnswered
  split <;> simp only [noteTarget_kept, handedTo_kept, modPLast_kept, endNow_kept, endWith_kept,
    nextTarget_kept, kept_ite, ite_self]

theorem endRunning_kept (s : State) (p : Nat) (tag : BitVec 48) (c : Byte) :
    (endRunning s p tag c).kept w = s.kept w := by
  unfold endRunning
  split <;> simp only [endEarly_kept, endWith_kept, kept_ite, ite_self]

theorem queryAnswered_kept (s : State) (p : Nat) (x : SvcSent) (c : Byte) :
    (queryAnswered s p x c).kept w = s.kept w := by
  simp only [queryAnswered]
  repeat' split
  all_goals simp only [lostInStep_kept, noteStep_kept, svcSend_kept, endRunning_kept]

theorem resendAs_kept (s : State) (p id : Nat) (x : SvcSent) (epoch : Nat) :
    (resendAs s p id x epoch).kept w = s.kept w := by
  simp only [resendAs, svcSend_kept, modPLast_kept, modTaking_kept, modLive_kept]

theorem partnerAnswered_kept (s : State) (p id : Nat) (x : SvcSent) (r : SvcHdr) (c : Byte)
    (payload : List Byte) (hm : w.memory = true) :
    (partnerAnswered s p id x r c payload).kept w = s.kept w := by
  simp only [partnerAnswered]
  split <;> simp only [notePartner_kept, repairAnswered_kept, modPLast_kept, probeAnswered_kept,
    partnerGrant_kept, bringUpAnswered_kept, stripeEnds_kept, hm, kept_ite, ite_self]

theorem openAnswered_kept (s : State) (p : Nat) (x : SvcSent) (r : SvcHdr) (c : Byte) (payload : List Byte)
    (source : Option (List Byte)) : (openAnswered s p x r c payload source).kept w = s.kept w := by
  unfold openAnswered
  split <;> simp only [takeGrant_kept, releaseCopies_kept, finalItem_kept, openRefused_kept, kept_ite,
    ite_self]

theorem svcOutcome_kept (s : State) (p id : Nat) (x : SvcSent) (r : SvcHdr) (c : Byte) (payload : List Byte)
    (source : Option (List Byte)) (hm : w.memory = true) :
    (svcOutcome s p id x r c payload source).kept w = s.kept w := by
  simp only [svcOutcome, partnerAnswered_kept, hm, kept_ite]
  repeat' split
  all_goals simp only [openAnswered_kept, commitAnswered_kept, bringUpAnswered_kept, modPLast_kept,
    notePartner_kept, releaseAnswered_kept, transferAnswered_kept, queryAnswered_kept, handoffAnswered_kept,
    cancelsEnd_kept, growAnswered_kept, hm]

theorem svcEnds_kept (s : State) (p id : Nat) (x : SvcSent) (r : SvcHdr) (c : Byte) (payload : List Byte)
    (source : Option (List Byte)) (hm : w.memory = true) :
    (svcEnds s p id x r c payload source).kept w = s.kept w := by
  simp only [svcEnds, modPLast_kept, svcOutcome_kept, hm, kept_ite]
  repeat' split
  all_goals simp only [modPLast_kept, resendAs_kept, svcOutcome_kept, hm]

theorem svcReplied_kept (s : State) (p : Nat) (h : SvcHdr) (payload : List Byte) (source : Option (List Byte))
    (hm : w.memory = true) : (svcReplied s p h payload source).kept w = s.kept w := by
  simp only [svcReplied, kept_ite]
  repeat' split
  all_goals simp only [svcEnds_kept, hm]

theorem svcFailed_kept (s : State) (p id : Nat) (c : Byte) (hm : w.memory = true) :
    (svcFailed s p id c).kept w = s.kept w := by
  unfold svcFailed
  split <;> simp only [svcEnds_kept, hm]

theorem takeCancel_kept (s : State) (p : Nat) (tag : BitVec 48) : (takeCancel s p tag).kept w = s.kept w := by
  unfold takeCancel
  split <;> simp only [endEarly_kept, finishRequest_kept, endWith_kept, kept_ite, ite_self]

theorem submitCancel_kept (s : State) (p : Nat) (tag : BitVec 48) (slots : List Nat) (msgs : List SvcHdr) :
    (submitCancel s p tag slots msgs).kept w = s.kept w := by
  simp only [submitCancel]
  repeat' split
  all_goals simp only [cancelsEnd_kept, modLive_kept, takeCancel_kept, forwardCancel_kept]

/-! ### The Awls -/

theorem awlComplete_kept (s : State) (n p : Nat) (j : AwlJob) : (awlComplete s n p j).kept w = s.kept w := by
  simp only [awlComplete, setAwl_kept, traceEvent_kept, ctrAdd_kept, laneGive_kept, writeEnded_kept, kept_ite,
    ite_self]

theorem awlUnreadable_kept (s : State) (n p : Nat) (c : Byte) :
    (awlUnreadable s n p c).kept w = s.kept w := by
  simp only [awlUnreadable]
  split <;> simp only [setAwl_kept, writeEnded_kept]

theorem sourceFaults_kept (s : State) (p : Nat) (d : Descriptor) (spans : List (Nat × Nat)) (c : Byte) :
    (sourceFaults s p d spans c).kept w = s.kept w := by
  simp only [sourceFaults, badWordFaults_kept, kept_ite, ite_self, foldl_kept, implies_true]

theorem wakeFor_kept (s : State) (off : Nat) : (wakeFor s off).kept w = s.kept w := by
  simp only [wakeFor, setPwr_kept, kept_ite, ite_self]

theorem sendNvme_kept (s : State) (n p : Nat) (j : AwlJob) (q : AwlReq) (write flush : Bool)
    (drive nsid byte addr off : Nat) (bytes : List Byte) :
    (sendNvme s n p j q write flush drive nsid byte addr off bytes).kept w = s.kept w := by
  simp only [sendNvme, nvSend_kept]

theorem issueRemote_kept (s : State) (n : Nat) (j : AwlJob) (q : AwlReq) (device : Nat) (pkt : TxPacket)
    (detail : Nat) : (issueRemote s n j q device pkt detail).state.kept w = s.kept w := by
  unfold issueRemote
  split
  next t ht => exact xtSubmit_kept ht
  · rfl

theorem issueRead_kept (s : State) (n p : Nat) (j : AwlJob) (q : AwlReq) :
    (issueRead s n p j q).state.kept w = s.kept w := by
  unfold issueRead
  split <;> simp only [issueRemote_kept]

theorem passSpans_kept (s : State) (p : Nat) (d : Descriptor) (spans : List (Nat × Nat))
    (hm : w.memory = true) : (passSpans s p d spans).kept w = s.kept w := by
  simp only [passSpans, passSquares_kept, hm, foldl_kept, implies_true]

theorem readSource_kept (s : State) (p : Nat) (d : Descriptor) (q : AwlReq) (go : State → Issued)
    (hm : w.memory = true) (hf : ∀ s, (go s).state.kept w = s.kept w) :
    (readSource s p d q go).state.kept w = s.kept w := by
  simp only [readSource]
  split <;> simp only [passSpans_kept, sourceFaults_kept, hm, hf]

theorem issueOwn_kept (s : State) (n p : Nat) (j : AwlJob) (q : AwlReq) :
    (issueOwn s n p j q).state.kept w = s.kept w := by
  simp only [issueOwn]
  repeat' split
  all_goals simp only [wakeFor_kept, sendNvme_kept]

theorem issueOne_kept (s : State) (n p : Nat) (j : AwlJob) (q : AwlReq) (hm : w.memory = true) :
    (issueOne s n p j q).state.kept w = s.kept w := by
  simp only [issueOne]
  repeat' split
  all_goals simp only [sendNvme_kept, issueRead_kept, issueOwn_kept, readSource_kept, issueRemote_kept, hm,
    implies_true]

theorem grantFetches_kept (p fuel : Nat) (s : State) : (grantFetches p fuel s).kept w = s.kept w := by
  induction fuel generalizing s with
  | zero => rfl
  | succ n ih =>
    simp only [grantFetches]
    split <;> simp only [modXt_kept, ih, kept_ite, ite_self]

theorem awlIssue_kept (n p fuel : Nat) (s : State) (hm : w.memory = true) :
    (awlIssue n p fuel s).kept w = s.kept w := by
  induction fuel generalizing s with
  | zero => rfl
  | succ n ih =>
    unfold awlIssue
    repeat' split
    all_goals simp only [setAwl_kept, issueOne_kept, ih, hm, kept_ite, ite_self]

theorem tackStart_kept (s : State) (p : Nat) (j : AwlJob) (hm : w.memory = true) :
    (tackStart s p j).1.kept w = s.kept w := by
  simp only [tackStart]
  repeat' split
  all_goals simp only [settlePart_kept, badWordFaults_kept, hm]

theorem awlStart_kept (s : State) (n p : Nat) (j : AwlJob) (hm : w.memory = true) :
    (awlStart s n p j).kept w = s.kept w := by
  unfold awlStart
  split <;> simp only [tackStart_kept, awlComplete_kept, awlIssue_kept, setAwl_kept, hm, kept_ite, ite_self]

theorem awlTurn_kept (s : State) (n want : Nat) (hm : w.memory = true) :
    (awlTurn s n want).kept w = s.kept w := by
  unfold awlTurn
  split <;> simp only [settlePart_kept, ringRead_kept, awlUnreadable_kept, setAwl_kept, awlComplete_kept,
    awlStart_kept, hm, kept_ite, ite_self]

theorem postMoves_kept (p fuel : Nat) (s : State) (hm : w.memory = true) :
    (postMoves p fuel s).kept w = s.kept w := by
  induction fuel generalizing s with
  | zero => rfl
  | succ n ih =>
    simp only [postMoves]
    split <;> simp only [modHold_kept, setAwl_kept, storeRaw_kept, ih, hm, kept_ite, ite_self]

theorem holderOn_kept (s : State) (p : Nat) (hm : w.memory = true) : (holderOn s p).kept w = s.kept w := by
  simp only [holderOn, refreshCtxs_kept, postMoves_kept, hm]

theorem localWrite_kept (s : State) (p : Nat) (j : AwlJob) (q : AwlReq) (bytes : Option (List Byte))
    (hm : w.memory = true) : (localWrite s p j q bytes).1.kept w = s.kept w := by
  simp only [localWrite]
  repeat' split
  all_goals simp only [passSpans_kept, sourceFaults_kept, passSquares_kept, transferWrite_kept, hm]

theorem reqEnds_kept {s : State} {p : Nat} {j : AwlJob} {q : AwlReq} {result : ReqEnd} (hm : w.memory = true)
    {r : State × AwlJob} (ho : reqEnds s p j q result = some r) : r.1.kept w = s.kept w := by
  unfold reqEnds at ho
  dsimp only at ho
  split at ho
  · split at ho
    · cases ho
    · rw [← Option.some.inj ho]
      simp only [badWordFault_kept, kept_ite, ite_self]
  · split at ho
    · rw [← Option.some.inj ho]
    · split at ho
      · rw [← Option.some.inj ho, localWrite_kept _ _ _ _ _ hm]
      · cases ho
  · split at ho
    · cases ho
    · split at ho
      · rw [← Option.some.inj ho]
        simp only [eccMetIn_kept, hm, kept_ite, ite_self]
      · split at ho
        · cases ho
        · rw [← Option.some.inj ho, localWrite_kept _ _ _ _ _ hm, eccMetIn_kept _ _ _ _ hm]

theorem reqEnd_kept {s : State} {n p : Nat} {index : BitVec 32} {req : Nat} {result : ReqEnd}
    (hm : w.memory = true) {r : State} (ho : reqEnd s n p index req result = some r) :
    r.kept w = s.kept w := by
  unfold reqEnd at ho
  split at ho
  · cases ho
  · split at ho
    · cases ho
    · obtain ⟨x, hx, rfl⟩ := Option.map_eq_some_iff.1 ho
      rw [setAwl_kept, reqEnds_kept hm hx]

theorem slotsFree_kept (s : State) (n p : Nat) (hm : w.memory = true) :
    (slotsFree s n p).kept w = s.kept w := by
  simp only [slotsFree, awlIssue_kept, grantFetches_kept, hm]

theorem awlReqEnd_kept (s : State) (n p : Nat) (index : BitVec 32) (req : Nat) (result : ReqEnd)
    (hm : w.memory = true) : (awlReqEnd s n p index req result).kept w = s.kept w := by
  unfold awlReqEnd
  split
  · rfl
  next t ht => rw [slotsFree_kept _ _ _ hm, reqEnd_kept hm ht]

theorem awlKillAll_kept (s : State) (n p : Nat) (c : Byte) : (awlKillAll s n p c).kept w = s.kept w := by
  simp only [awlKillAll, setAwl_kept, awlComplete_kept, foldl_kept, implies_true]

theorem awlFlushRing_kept (n p : Nat) (c : Byte) (fuel : Nat) (s : State) :
    (awlFlushRing n p c fuel s).kept w = s.kept w := by
  induction fuel generalizing s with
  | zero => rfl
  | succ n ih =>
    simp only [awlFlushRing, setAwl_kept, awlComplete_kept, awlUnreadable_kept, ringRead_kept, ih, kept_ite,
      ite_self]

theorem awlFlushAll_kept (s : State) (n p : Nat) (c : Byte) : (awlFlushAll s n p c).kept w = s.kept w := by
  simp only [awlFlushAll, awlFlushRing_kept]
  split <;> simp only [awlComplete_kept, setAwl_kept]

theorem awlSetTail_kept (s : State) (n : Nat) (t : BitVec 32) : (awlSetTail s n t).kept w = s.kept w := by
  simp only [awlSetTail, setAwl_kept, kept_ite]
  repeat' split
  all_goals simp only [setAwl_kept, modHold_kept]

theorem execAwlTailWrite_keeps (src : Src) (b : Blk) (awl : Fin 8) (value : Word) (s : State)
    (hc : w.cores = true) : keeps w s (execAwlTailWrite src b awl value s) := by
  unfold execAwlTailWrite
  split <;> simp only [awlSetTail_kept, onOwned_kept, blockWrite_kept, hc, keeps_next, implies_true]

theorem execAwlRingWrite_keeps (src : Src) (b : Blk) (awl : Fin 8) (size : Bool) (value : Word) (s : State) :
    keeps w s (execAwlRingWrite src b awl size value s) := by
  simp only [execAwlRingWrite, blockWrite_kept, setAwl_kept, kept_ite, keeps_next, ite_self, implies_true]

theorem execMove_keeps (b : Blk) (awl : Fin 8) (s : State) (hm : w.memory = true) :
    keeps w s (execMove b awl s) := by
  simp only [execMove, awlTurn_kept, hm, keeps_next]

theorem execFill_keeps (b : Blk) (awl : Fin 8) (s : State) (hm : w.memory = true) :
    keeps w s (execFill b awl s) := by
  simp only [execFill, awlTurn_kept, hm, keeps_next]

theorem execTack_keeps (b : Blk) (awl : Fin 8) (s : State) (hm : w.memory = true) :
    keeps w s (execTack b awl s) := by
  simp only [execTack, awlTurn_kept, hm, keeps_next]

theorem execAwlWaitRelease_keeps (b : Blk) (awl : Fin 8) (s : State) (hm : w.memory = true) :
    keeps w s (execAwlWaitRelease b awl s) := by
  simp only [execAwlWaitRelease]
  split <;> simp only [setAwl_kept, awlComplete_kept, awlStart_kept, hm, kept_ite, keeps_ite, keeps_next,
    ite_self]

theorem execAwlRequestDone_keeps (b : Blk) (awl : Fin 8) (index : BitVec 32) (req : Nat) (result : ReqEnd)
    (s : State) (hm : w.memory = true) : keeps w s (execAwlRequestDone b awl index req result s) := by
  simp only [execAwlRequestDone]
  split <;> simp only [awlReqEnd_kept, hm, keeps_next]

theorem execAwlDescriptorComplete_keeps (b : Blk) (awl : Fin 8) (index : BitVec 32) (s : State)
    (hm : w.memory = true) : keeps w s (execAwlDescriptorComplete b awl index s) := by
  simp only [execAwlDescriptorComplete]
  split <;> simp only [holderOn_kept, awlComplete_kept, setAwl_kept, hm, keeps_ite, keeps_next, ite_self]

theorem execAwlFlush_keeps (src : Src) (b : Blk) (awl : Fin 8) (value : Word) (s : State) :
    keeps w s (execAwlFlush src b awl value s) := by
  refine (keeps_next ..).2 (blockWrite_kept _ _ _ _ _ fun s => ?_)
  dsimp only
  split <;> simp only [awlFlushAll_kept, kept_ite, ite_self]

/-! ### Engine, stitch cores and Cobbler cores -/

theorem launchFaults_kept (s : State) (p slot entry : Nat) :
    (launchFaults s p slot entry).kept w = s.kept w := by
  unfold launchFaults
  split <;> simp only [badWordFaults_kept, kept_ite, ite_self]

theorem copySection_kept (s : State) (p b slot : Nat) (hm : w.memory = true) :
    (copySection s p b slot).2.kept w = s.kept w := by
  simp only [copySection]
  repeat' split
  all_goals simp only [homeRead_kept, setEng_kept, hm]

theorem launch_kept (s : State) (p b v : Nat) (hc : w.cores = true) (hm : w.memory = true) :
    (launch s p b v).kept w = s.kept w := by
  simp only [launch, setEng_kept, modPFault_kept, modPMem_kept, runEnds_kept, launchFaults_kept,
    copySection_kept, askStart_kept, startCores_kept, hc, hm, kept_ite, ite_self]

theorem execEngLaunch_keeps (src : Src) (b : Blk) (value : Word) (s : State) (hc : w.cores = true)
    (hm : w.memory = true) : keeps w s (execEngLaunch src b value s) := by
  refine (keeps_next ..).2 (blockWrite_kept _ _ _ _ _ fun s => ?_)
  split <;> simp only [launch_kept, hc, hm]

theorem execEngStop_keeps (src : Src) (b : Blk) (value : Word) (s : State) :
    keeps w s (execEngStop src b value s) := by
  simp only [execEngStop, blockWrite_kept, setEng_kept, kept_ite, keeps_next, ite_self, implies_true]

theorem countCycles_kept (s : State) (p b cycles : Nat) : (countCycles s p b cycles).kept w = s.kept w := by
  simp only [countCycles, setEng_kept, modHold_kept, kept_ite, ite_self]

theorem execEngineRunEnd_keeps (b : Blk) (how : RunEnd) (cycles : Nat) (s : State) :
    keeps w s (execEngineRunEnd b how cycles s) := by
  simp only [execEngineRunEnd]
  repeat' split
  all_goals simp only [runEnds_kept, countCycles_kept, setEng_kept, keeps_next]

theorem execMac_keeps (b : Blk) (core : CoreRun) (acc : Fin 8) (fa fb : MacFmt) (va vb : Fin 16)
    (scales : List Byte) (s : State) (hc : w.cores = true) :
    keeps w s (execMac b core acc fa fb va vb scales s) := by
  simp only [execMac, onCore_kept, coreFault_kept, setCore_kept, hc, kept_ite, keeps_next, ite_self,
    implies_true]

theorem execVector_keeps (b : Blk) (core : CoreRun) (op : VecOp) (dst a1 a2 a3 : Fin 16) (s : State)
    (hc : w.cores = true) : keeps w s (execVector b core op dst a1 a2 a3 s) := by
  simp only [execVector, onCore_kept, setCore_kept, hc, keeps_next, implies_true]

theorem execVectorSpecial_keeps (b : Blk) (core : CoreRun) (op : SpecialOp) (dst src : Fin 16) (s : State)
    (hc : w.cores = true) : keeps w s (execVectorSpecial b core op dst src s) := by
  simp only [execVectorSpecial, onCore_kept, setCore_kept, hc, keeps_next, implies_true]

theorem benchFault_kept (s : State) (b c t off len : Nat) (code : Byte) :
    (benchFault s b c t off len code).kept w = s.kept w := by
  simp only [benchFault, badWordFaults_kept, coreFault_kept, kept_ite, ite_self]

theorem benchPut_kept (s : State) (b c off : Nat) (bs : List Byte) (hm : w.memory = true) :
    (benchPut s b c off bs).kept w = s.kept w := by
  simp only [benchPut, storeRaw_kept, hm]

theorem execBenchLoad_keeps (b : Blk) (core : CoreRun) (dst : Fin 16) (off len : Nat) (s : State)
    (hc : w.cores = true) (hm : w.memory = true) : keeps w s (execBenchLoad b core dst off len s) := by
  simp only [execBenchLoad, onCore_kept, eccMet_kept, benchFault_kept, setCore_kept, hc, hm, kept_ite,
    keeps_next, ite_self, implies_true]

theorem execBenchStore_keeps (b : Blk) (core : CoreRun) (src : Fin 16) (off len : Nat) (s : State)
    (hc : w.cores = true) (hm : w.memory = true) : keeps w s (execBenchStore b core src off len s) := by
  simp only [execBenchStore, onCore_kept, benchPut_kept, benchFault_kept, hc, hm, kept_ite, keeps_next,
    ite_self, implies_true]

theorem execCompact_keeps (b : Blk) (core : CoreRun) (op : CompactOp) (head : Fin 3) (srcOff dstOff : Nat)
    (s : State) (hc : w.cores = true) (hm : w.memory = true) :
    keeps w s (execCompact b core op head srcOff dstOff s) := by
  simp only [execCompact, onCore_kept, eccMet_kept, benchFault_kept, benchPut_kept, hc, hm, kept_ite,
    keeps_next, ite_self, implies_true]

theorem execExchange_keeps (b : Blk) (core : CoreRun) (dir : Dir) (srcOff dstOff : Nat) (s : State)
    (hc : w.cores = true) (hm : w.memory = true) : keeps w s (execExchange b core dir srcOff dstOff s) := by
  unfold execExchange
  split <;> simp only [onCore_kept, coreFault_kept, eccMet_kept, benchFault_kept, benchPut_kept, hc, hm,
    kept_ite, keeps_next, ite_self, implies_true]

theorem execBarrier_keeps (b : Blk) (core : CoreRun) (s : State) (hc : w.cores = true) :
    keeps w s (execBarrier b core s) := by
  simp only [execBarrier, onCore_kept, setCore_kept, hc, keeps_next, implies_true]

theorem execBarrierRelease_keeps (b : Blk) (s : State) (hc : w.cores = true) :
    keeps w s (execBarrierRelease b s) := by
  simp only [execBarrierRelease, hc, keeps_ite, keeps_next, kept_mk_cores, ite_self]

theorem execEndRun_keeps (b : Blk) (core : CoreRun) (s : State) (hc : w.cores = true) :
    keeps w s (execEndRun b core s) := by
  simp only [execEndRun, onCore_kept, setCore_kept, hc, keeps_next, implies_true]

theorem execCobblerAccessFault_keeps (p : Part) (b : Blk) (addr : Word) (s : State) :
    keeps w s (execCobblerAccessFault p b addr s) := by
  simp only [execCobblerAccessFault, cobblerStop_kept, keeps_next]

theorem cobblerRemote_kept (s : State) (p b device addr op owner len : Nat) (bytes : List Byte) :
    (cobblerRemote s p b device addr op owner len bytes).kept w = s.kept w := by
  unfold cobblerRemote
  split
  · exact cobblerStop_kept ..
  · dsimp only
    split
    next t ht => exact xtSubmit_kept ht
    · simp only [emit_kept, kept_ite, ite_self]

theorem cobblerLoad_kept (s : State) (p b addr len : Nat) (found : Found) (hm : w.memory = true) :
    (cobblerLoad s p b addr len found).kept w = s.kept w := by
  unfold cobblerLoad
  split <;> simp only [cobblerRemote_kept, homeRead_kept, eccMet_kept, emit_kept, hm]

theorem cobblerStore_kept (s : State) (p b addr : Nat) (bytes : List Byte) (hm : w.memory = true) :
    (cobblerStore s p b addr bytes).kept w = s.kept w := by
  unfold cobblerStore
  split <;> simp only [cobblerRemote_kept, homeWrite_kept, emit_kept, hm, kept_ite, ite_self]

theorem execCobblerLoadStore_keeps (p : Part) (b : Blk) (acc : CobAcc) (s : State) (hm : w.memory = true) :
    keeps w s (execCobblerLoadStore p b acc s) := by
  simp only [execCobblerLoadStore, keeps_ite, keeps_next]
  repeat' split
  all_goals simp only [cobblerStop_kept, cobblerLoad_kept, cobblerStore_kept, cobblerRemote_kept, hm,
    keeps_next, foldl_kept, implies_true]

/-! ### Lanes and counters -/

theorem deliverItem_kept (s : State) (it : Item) (a : LaneReader) (hc : w.cores = true) :
    (deliverItem s it a).kept w = s.kept w := by
  unfold deliverItem
  split <;> simp only [setCore_kept, emit_kept, hc]

theorem laneCycle_kept (s : State) (n : Nat) (hc : w.cores = true) : (laneCycle s n).kept w = s.kept w := by
  simp only [laneCycle]
  repeat' split
  all_goals simp only [lanePop_kept, setLane_kept, deliverItem_kept, lanePush_kept, hc]

theorem laneCycles_kept (n fuel : Nat) (s : State) (hc : w.cores = true) :
    (laneCycles n fuel s).kept w = s.kept w := by
  induction fuel generalizing s with
  | zero => rfl
  | succ n ih =>
    simp only [laneCycles, laneCycle_kept, ih, hc, kept_ite, ite_self]

theorem laneOffer_kept (s : State) (n : Nat) (more : Bool) (f : Lane → Lane) (hc : w.cores = true) :
    (laneOffer s n more f).kept w = s.kept w := by
  unfold laneOffer
  split <;> simp only [setLane_kept, laneCycles_kept, hc, kept_ite, ite_self]

theorem onCobbler_kept (s : State) (p b : Nat) (owned : Bool) (f : State → State)
    (hf : ∀ s, (f s).kept w = s.kept w) : (onCobbler s p b owned f).kept w = s.kept w := by
  simp only [onCobbler, cobblerStop_kept, kept_ite, ite_self, hf]

theorem execLaneWrite_keeps (lane : LaneNo) (item : Item) (writer : LaneOffer) (s : State)
    (hc : w.cores = true) : keeps w s (execLaneWrite lane item writer s) := by
  unfold execLaneWrite
  split <;> simp only [laneOffer_kept, onOwned_kept, onCobbler_kept, hc, keeps_next, implies_true]

theorem execLaneRead_keeps (lane : LaneTake) (s : State) (hc : w.cores = true) :
    keeps w s (execLaneRead lane s) := by
  unfold execLaneRead
  split <;> simp only [laneOffer_kept, onOwned_kept, onCobbler_kept, hc, keeps_next, implies_true]

theorem execStaleTimer_keeps (lane : LaneNo) (s : State) : keeps w s (execStaleTimer lane s) := by
  simp only [execStaleTimer, setLane_kept, raiseLane_kept, kept_ite, keeps_ite, keeps_next, ite_self]

theorem slotPut_kept (s : State) (p k word : Nat) (value : Word) :
    (slotPut s p k word value).kept w = s.kept w := by
  unfold slotPut
  split <;> simp only [modPart_kept, laneGive_kept, kept_ite, ite_self]

theorem msixPut_kept (s : State) (fn i : Nat) (value : Word) : (msixPut s fn i value).kept w = s.kept w := by
  simp only [msixPut, modMgmt_kept, emit_kept, kept_ite, ite_self]

theorem execHostSlotWrite_keeps (fn : Fn) (slot : Fin 512) (word : SlotWord) (value : Word) (s : State) :
    keeps w s (execHostSlotWrite fn slot word value s) := by
  simp only [execHostSlotWrite]
  repeat' split
  all_goals simp only [slotPut_kept, msixPut_kept, keeps_next]

theorem slotTake_kept (s : State) (p k word : Nat) : (slotTake s p k word).2.kept w = s.kept w := by
  simp only [slotTake]
  repeat' split
  all_goals simp only [lanePop_kept, modPart_kept]

theorem pageRead_kept (s : State) (fn : Nat) (a : PageWord) : (pageRead s fn a).2.kept w = s.kept w := by
  unfold pageRead
  split <;> simp only [slotTake_kept]

theorem execHostSlotRead_keeps (fn : Fn) (slot : Fin 512) (word : SlotWord) (s : State) :
    keeps w s (execHostSlotRead fn slot word s) := by
  simp only [execHostSlotRead, emit_kept, keeps_ite, keeps_next]
  repeat' split
  all_goals simp only [emit_kept, pageRead_kept, keeps_next]

theorem laneControl_kept (s : State) (n : Nat) (v : Word) : (laneControl s n v).kept w = s.kept w := by
  simp only [laneControl, laneArmed_kept, setLane_kept]

theorem execLaneControlWrite_keeps (src : Src) (lane : LaneNo) (value : Word) (s : State) :
    keeps w s (execLaneControlWrite src lane value s) := by
  simp only [execLaneControlWrite]
  repeat' split
  all_goals simp only [partWrite_kept, notOwned_kept, laneControl_kept, keeps_next, implies_true]

theorem portsPass_kept (s : State) (who : LaneWriter) (hc : w.cores = true) :
    (portsPass s who).kept w = s.kept w := by
  simp only [portsPass, laneCycles_kept, hc, foldl_kept, implies_true]

theorem byAgent_kept (s : State) (ctr : CtrRef) (f : State → State) (hc : w.cores = true)
    (hf : ∀ s, (f s).kept w = s.kept w) : (byAgent s ctr f).kept w = s.kept w := by
  unfold byAgent
  split <;> simp only [onOwned_kept, portsPass_kept, onCobbler_kept, hc, implies_true, hf]

theorem execCounterAdd_keeps (ctr : CtrRef) (amount : BitVec 63) (status : Byte) (s : State)
    (hc : w.cores = true) : keeps w s (execCounterAdd ctr amount status s) := by
  simp only [execCounterAdd, byAgent_kept, ctrAdd_kept, hc, keeps_next, implies_true]

theorem execCounterSet_keeps (ctr : CtrRef) (value : Word) (adds : List (BitVec 63)) (s : State)
    (hc : w.cores = true) : keeps w s (execCounterSet ctr value adds s) := by
  simp only [execCounterSet, byAgent_kept, ctrAdd_kept, ctrSet_kept, hc, keeps_next, foldl_kept, implies_true]

theorem execCtrAddWrite_keeps (src : Src) (p : Part) (value : Word) (s : State) :
    keeps w s (execCtrAddWrite src p value s) := by
  simp only [execCtrAddWrite, partWrite_kept, ctrAdd_kept, notOwned_kept, kept_ite, keeps_next, ite_self,
    implies_true]

theorem execCtrValueWrite_keeps (src : Src) (p : Part) (value : Word) (s : State) :
    keeps w s (execCtrValueWrite src p value s) := by
  simp only [execCtrValueWrite, partWrite_kept, ctrSet_kept, notOwned_kept, kept_ite, keeps_next, ite_self,
    implies_true]

theorem execCtrWaitArm_keeps (src : Src) (p : Part) (slot : Fin 8) (value : Word) (s : State) :
    keeps w s (execCtrWaitArm src p slot value s) := by
  simp only [execCtrWaitArm, partWrite_kept, modPart_kept, keeps_next, implies_true]

theorem hostWait_kept (s : State) (p slot : Nat) : (hostWait s p slot).kept w = s.kept w := by
  simp only [hostWait, raisePart_kept, modPart_kept, kept_ite, ite_self]

theorem coreWait_kept (s : State) (b c n threshold : Nat) (pre : List ScalarInstr) (hc : w.cores = true) :
    (coreWait s b c n threshold pre).kept w = s.kept w := by
  simp only [coreWait, setCore_kept, onOwned_kept, hc, kept_ite, ite_self, implies_true]

theorem execCounterWaitRelease_keeps (p : Waiter) (slot : WaitOn) (s : State) (hc : w.cores = true) :
    keeps w s (execCounterWaitRelease p slot s) := by
  unfold execCounterWaitRelease
  split <;> simp only [hostWait_kept, coreWait_kept, hc, keeps_next]

/-! ### Endpoints -/

theorem epWriteBack_kept (s : State) (p n : Nat) (e : Endpoint) (hm : w.memory = true) :
    (epWriteBack s p n e).kept w = s.kept w := by
  simp only [epWriteBack, storeRaw_kept, hm]

theorem modEp_kept (s : State) (p n : Nat) (f : Endpoint → Endpoint) (hm : w.memory = true) :
    (modEp s p n f).kept w = s.kept w := by
  unfold modEp
  split <;> simp only [modXt_kept, epWriteBack_kept, hm]

theorem epInstall_kept (s : State) (p n : Nat) (e : Endpoint) (hm : w.memory = true) :
    (epInstall s p n e).kept w = s.kept w := by
  simp only [epInstall, modXt_kept, kept_ite]
  repeat' split
  all_goals simp only [epWriteBack_kept, modXt_kept, hm]

theorem epRemove_kept (s : State) (p n : Nat) (hm : w.memory = true) :
    (epRemove s p n).kept w = s.kept w := by
  simp only [epRemove, epWriteBack_kept, modXt_kept, hm]

theorem srqFed_kept (s : State) (p q : Nat) : (srqFed s p q).kept w = s.kept w := by
  simp only [srqFed, modXt_kept]

theorem epFreeEntries_kept (s : State) (p n : Nat) : (epFreeEntries s p n).kept w = s.kept w := by
  simp only [epFreeEntries, modXt_kept, srqFed_kept, kept_ite, ite_self]

theorem epError_kept (s : State) (p n : Nat) (code : Byte) (hm : w.memory = true) :
    (epError s p n code).kept w = s.kept w := by
  simp only [epError, epFreeEntries_kept, modEp_kept, hm]

theorem notify_kept (s : State) (p n : Nat) (status : Byte) (it : Item) :
    (notify s p n status it).kept w = s.kept w := by
  simp only [notify, laneGive_kept, ctrAdd_kept, kept_ite, ite_self]

theorem sendDone_kept (s : State) (p : Nat) (it : Item) (status : Byte) (sent : Nat) (hm : w.memory = true) :
    (sendDone s p it status sent).kept w = s.kept w := by
  simp only [sendDone, modEp_kept, notify_kept, hm]

theorem modSend_kept (s : State) (r : Nat) (m : MsgSend) : (modSend s r m).kept w = s.kept w := by
  simp only [modSend, setRoundabout_kept]

theorem sendSettle_kept (s : State) (r : Nat) (m : MsgSend) (hm : w.memory = true) :
    (sendSettle s r m).kept w = s.kept w := by
  simp only [sendSettle, setRoundabout_kept, sendDone_kept, modSend_kept, hm, kept_ite, ite_self]

theorem sendOne_kept (s : State) (r : Nat) (m : MsgSend) (hm : w.memory = true) :
    (sendOne s r m).kept w = s.kept w := by
  unfold sendOne
  split
  · rfl
  · split
    · exact sendSettle_kept _ _ _ hm
    · dsimp only
      split
      · simp only [sendSettle_kept, passSquares_kept, badWordFaults_kept, hm, kept_ite, ite_self]
      · split
        · exact passSquares_kept _ _ _ _ hm
        next t ht => rw [modSend_kept, xtSubmit_kept ht, passSquares_kept _ _ _ _ hm]

theorem sendPump_kept (r fuel : Nat) (s : State) (hm : w.memory = true) :
    (sendPump r fuel s).kept w = s.kept w := by
  induction fuel generalizing s with
  | zero => rfl
  | succ n ih =>
    simp only [sendPump]
    split <;> simp only [setRoundabout_kept, sendOne_kept, ih, hm]

theorem sendPumps_kept (s : State) (hm : w.memory = true) : (sendPumps s).kept w = s.kept w := by
  simp only [sendPumps, sendPump_kept, hm, foldl_kept, implies_true]

theorem messagePacketEnd_kept (s : State) (r device : Nat) (number : BitVec 32) (off : Nat) (c : Byte)
    (hm : w.memory = true) : (messagePacketEnd s r device number off c).kept w = s.kept w := by
  unfold messagePacketEnd
  split <;> simp only [sendSettle_kept, hm, kept_ite, ite_self]

theorem endSends_kept (s : State) (p : Nat) (c : Byte) (pick : Item → Bool) (hm : w.memory = true) :
    (endSends s p c pick).kept w = s.kept w := by
  refine foldl_kept (fun s r => ?_) _ s
  simp only [setRoundabout_kept, sendDone_kept, hm, foldl_kept, implies_true]

/-! ### Roundabouts, sends, Crossing lists and alignment -/

theorem raServe_kept (s : State) (r : Nat) : (raServe s r).kept w = s.kept w := by
  simp only [raServe]
  split <;> simp only [setToll_kept, lanePop_kept, setRoundabout_kept, modXt_kept, kept_ite, ite_self]

theorem execRoundaboutSelect_keeps (r : Fin 16) (s : State) : keeps w s (execRoundaboutSelect r s) := by
  simp only [execRoundaboutSelect, raServe_kept, keeps_ite, keeps_next, ite_self]

theorem raTake_kept (s : State) (r : Nat) : (raTake s r).kept w = s.kept w := by
  simp only [raTake, setRoundabout_kept]

theorem execSendMessage_keeps (r : Fin 16) (s : State) (hm : w.memory = true) :
    keeps w s (execSendMessage r s) := by
  simp only [execSendMessage]
  split <;> simp only [modXt_kept, raTake_kept, sendDone_kept, modFab_kept, setRoundabout_kept, sendPump_kept,
    hm, keeps_ite, keeps_next, ite_self]

theorem execSendRelease_keeps (r : Fin 16) (s : State) : keeps w s (execSendRelease r s) := by
  simp only [execSendRelease]
  split <;> simp only [raTake_kept, awlSetTail_kept, kept_ite, keeps_ite, keeps_next, ite_self]

theorem startEntry_kept (s : State) (list e : Nat) : (startEntry s list e).kept w = s.kept w := by
  simp only [startEntry]
  split <;> simp only [setCrossing_kept, ctrAdd_kept, kept_ite, ite_self]

theorem execCrossingEntryStart_keeps (list : Fin 64) (s : State) :
    keeps w s (execCrossingEntryStart list s) := by
  simp only [execCrossingEntryStart, startEntry_kept, keeps_ite, keeps_next, ite_self]

theorem alignLists_kept (s : State) (align : Nat) : (alignLists s align).kept w = s.kept w := by
  simp only [alignLists, kept_mk]

theorem sendAligns_kept (s : State) (i : Nat) (l : List Nat) : (sendAligns s i l).kept w = s.kept w := by
  induction l generalizing s i with
  | nil => rfl
  | cons d r ih =>
    unfold sendAligns
    simp only [emit_kept, originate0_kept, ih, kept_ite, ite_self]

theorem execAlignInEdge_keeps (s : State) : keeps w s (execAlignInEdge s) := by
  simp only [execAlignInEdge, modMgmt_kept, alignLists_kept, sendAligns_kept, kept_ite, keeps_ite, keeps_next,
    ite_self]

theorem execAlign_keeps (fromDevice : Nat) (count : BitVec 32) (s : State) :
    keeps w s (execAlign fromDevice count s) := by
  simp only [execAlign, alignLists_kept, kept_ite, keeps_next, ite_self]

/-! ### The holder's commands -/

theorem execServiceReply_keeps (p : Part) (h : SvcHdr) (payload : List Byte) (s : State)
    (hm : w.memory = true) : keeps w s (execServiceReply p h payload s) := by
  simp only [execServiceReply, holderOn_kept, svcReplied_kept, hm, keeps_next]

theorem execGrantReceived_keeps (p : Part) (h : SvcHdr) (payload : List Byte) (source : Option (List Byte))
    (s : State) (hm : w.memory = true) : keeps w s (execGrantReceived p h payload source s) := by
  simp only [execGrantReceived, holderOn_kept, svcReplied_kept, hm, kept_ite, keeps_next, ite_self]

theorem execTransferReply_keeps (p : Part) (h : SvcHdr) (s : State) (hm : w.memory = true) :
    keeps w s (execTransferReply p h s) := by
  simp only [execTransferReply, holderOn_kept, svcReplied_kept, hm, kept_ite, keeps_next, ite_self]

theorem execHandoffReply_keeps (p : Part) (h : SvcHdr) (s : State) (hm : w.memory = true) :
    keeps w s (execHandoffReply p h s) := by
  simp only [execHandoffReply, holderOn_kept, svcReplied_kept, hm, kept_ite, keeps_next, ite_self]

theorem execServiceTimeout_keeps (p : Part) (msgId : Nat) (s : State) (hm : w.memory = true) :
    keeps w s (execServiceTimeout p msgId s) := by
  simp only [execServiceTimeout]
  split <;> simp only [holderOn_kept, svcFailed_kept, hm, keeps_ite, keeps_next, ite_self]

theorem execHandoffNextDue_keeps (p : Part) (tag : BitVec 48) (s : State) (hm : w.memory = true) :
    keeps w s (execHandoffNextDue p tag s) := by
  unfold execHandoffNextDue
  split <;> simp only [holderOn_kept, endWith_kept, hm, keeps_ite, keeps_next, ite_self]

theorem execForwardingExpire_keeps (p : Part) (tag : BitVec 48) (s : State) :
    keeps w s (execForwardingExpire p tag s) := by
  simp only [execForwardingExpire, modPLast_kept, keeps_next]

theorem execPrefixCopyCheck_keeps (p : Part) (tag : BitVec 48) (copied : Bool) (entry : Option (List Byte))
    (s : State) (hm : w.memory = true) : keeps w s (execPrefixCopyCheck p tag copied entry s) := by
  unfold execPrefixCopyCheck
  split <;> simp only [holderOn_kept, noteSource_kept, checkCopy_kept, hm, keeps_ite, keeps_next, ite_self]

theorem serveCancel_kept (p : Nat) (h : SvcHdr) (s : State) :
    (serveCancel p h s).kept w = s.kept w := svcReceive_kept _ _ _ _ _ _ fun _ => submitCancel_kept ..

theorem execCancel_keeps (p : Part) (h : SvcHdr) (s : State) (hm : w.memory = true) :
    keeps w s (execCancel p h s) := by
  simp only [execCancel, holderOn_kept, serveCancel_kept, hm, keeps_next]

theorem execCancelSubmit_keeps (src : Src) (p : Part) (slot : Fin 8) (value : Word) (s : State)
    (hm : w.memory = true) : keeps w s (execCancelSubmit src p slot value s) := by
  simp only [execCancelSubmit, partWrite_kept, modPLast_kept, holderOn_kept, submitCancel_kept, hm, kept_ite,
    keeps_next, ite_self, implies_true]

theorem drainBacklog_kept (s : State) (p n : Nat) (x : OutItem) (r : List OutItem) :
    (drainBacklog s p n x r).kept w = s.kept w := by
  simp only [drainBacklog]
  split <;> simp only [itemEmitted_kept, laneGive_kept, modHold_kept, afterToken0_kept, kept_ite, ite_self]

theorem execOutputBacklogDrain_keeps (p : Part) (s : State) (hm : w.memory = true) :
    keeps w s (execOutputBacklogDrain p s) := by
  unfold execOutputBacklogDrain
  split <;> simp only [holderOn_kept, drainBacklog_kept, hm, keeps_ite, keeps_next, ite_self]

/-! ### Steps -/

theorem startQuiesce_kept (s : State) (p : Nat) : (startQuiesce s p).kept w = s.kept w := by
  simp only [startQuiesce, setEng_kept, attnFlushAll_kept, awlFlushAll_kept, modPMem_kept, modPFault_kept,
    kept_ite, ite_self, foldl_kept, implies_true]

theorem endStep_kept (s : State) (p : Nat) (c : Byte) : (endStep s p c).kept w = s.kept w := by
  unfold endStep
  split
  · rfl
  · refine (foldl_kept (fun s tag => ?_) _ _).trans (modHold_kept ..)
    split <;> simp only [endRunning_kept, kept_ite, ite_self]

theorem staleQueries_kept (s : State) (p : Nat) (mine : BitVec 48 → Bool) :
    (staleQueries s p mine).kept w = s.kept w := by
  simp only [staleQueries, modPLast_kept]

theorem stepFails_kept (s : State) (p : Nat) (st : StepRun) (c : Byte) :
    (stepFails s p st c).kept w = s.kept w := by
  simp only [stepFails, setPFault_kept, modHold_kept, endStep_kept, modPFault_kept, startQuiesce_kept,
    staleQueries_kept, kept_ite, ite_self]

theorem swapInto_kept (s : State) (p m k : Nat) (forced : Bool) :
    (swapInto s p m k forced).kept w = s.kept w := by
  simp only [swapInto, modHold_kept]

theorem execContextSwapIn_keeps (p : Part) (s : State) : keeps w s (execContextSwapIn p s) := by
  simp only [execContextSwapIn, keeps_ite, keeps_next]
  repeat' split
  all_goals simp only [refreshCtxs_kept, swapInto_kept, keeps_next]

theorem execCtxBlockExpire_keeps (p : Part) (s : State) : keeps w s (execCtxBlockExpire p s) := by
  simp only [execCtxBlockExpire]
  repeat' split
  all_goals simp only [refreshCtxs_kept, swapInto_kept, modHold_kept, keeps_next]

theorem execSwapInDone_keeps (read : PartRead) (model code : Byte) (s : State) (hm : w.memory = true) :
    keeps w s (execSwapInDone read model code s) := by
  simp only [execSwapInDone]
  repeat' split
  all_goals simp only [modHold_kept, homeRead_kept, eccMet_kept, homeWrite_kept, modPTrust_kept, hm,
    keeps_next]

theorem takeHandoff_kept (s : State) (p : Nat) (h : SvcHdr) (r : Record) :
    (takeHandoff s p h r).kept w = s.kept w := by
  simp only [takeHandoff]
  split <;> simp only [svcReply_kept, modHold_kept, sendTransfer_kept]

theorem handoffTurn_kept (s : State) (p : Nat) (x : SvcHdr × Record) :
    (handoffTurn s p x).kept w = s.kept w := by
  simp only [handoffTurn, modHold_kept, takeHandoff_kept, kept_ite, ite_self]

theorem serveHandoff_kept (p : Nat) (h : SvcHdr) (record : List Byte) (s : State) :
    (serveHandoff p h record s).kept w = s.kept w := by
  refine svcReceive_kept _ _ _ _ _ _ fun s => ?_
  simp only [modHold_kept, handoffTurn_kept, kept_ite, ite_self]

theorem execHandoff_keeps (p : Part) (h : SvcHdr) (record : List Byte) (s : State) (hm : w.memory = true) :
    keeps w s (execHandoff p h record s) := by
  simp only [execHandoff, holderOn_kept, serveHandoff_kept, hm, keeps_next]

theorem sendQueries_kept (s : State) (p : Nat) (l : Live) : (sendQueries s p l).kept w = s.kept w := by
  unfold sendQueries
  split <;> simp only [svcSend_kept, draw_kept, foldl_kept, implies_true]

theorem writePrefill_kept (s : State) (p : Nat) (l : Live) (row : Nat) :
    (writePrefill s p l row).kept w = s.kept w := by
  simp only [writePrefill, beginCommits_kept, modLive_kept, sendDue_kept, queueMoves_kept, kept_ite, ite_self]

theorem runStream_kept (s : State) (p : Nat) (l : Live) (row : Nat) :
    (runStream s p l row).kept w = s.kept w := by
  simp only [runStream, sendQueries_kept, writePrefill_kept, kept_ite, ite_self]

theorem runStreams_kept (p row : Nat) (l : List Live) (s : State) :
    (runStreams p row l s).kept w = s.kept w := by
  induction l generalizing row s with
  | nil => rfl
  | cons x r ih => rw [runStreams, ih, runStream_kept]

theorem enterSteps_kept (s : State) (p : Nat) (st : List Live) : (enterSteps s p st).kept w = s.kept w := by
  simp only [enterSteps, runStreams_kept, modLive_kept, foldl_kept, implies_true]

theorem giveTail_kept (s : State) (p : Nat) (l : Live) : (giveTail s p l).kept w = s.kept w := by
  unfold giveTail
  split <;> simp only [modReq_kept]

theorem retryHandoff_kept (s : State) (p : Nat) (l : Live) : (retryHandoff s p l).kept w = s.kept w := by
  simp only [retryHandoff, nextTarget_kept, kept_ite, ite_self]

theorem betweenSteps_kept (s : State) (p : Nat) (hm : w.memory = true) :
    (betweenSteps s p).kept w = s.kept w := by
  simp only [betweenSteps, modHold_kept, takingAccepted_kept, handoffTurn_kept, takeCancel_kept,
    retryHandoff_kept, holderOn_kept, giveTail_kept, hm, foldl_kept, implies_true]

theorem execStepBoundary_keeps (p : Part) (s : State) (hm : w.memory = true) :
    keeps w s (execStepBoundary p s) := by
  simp only [execStepBoundary, betweenSteps_kept, enterSteps_kept, holderOn_kept, modHold_kept, hm, keeps_ite,
    keeps_next, ite_self]

theorem countMissed_kept (s : State) (p : Nat) (r : Record) : (countMissed s p r).kept w = s.kept w := by
  simp only [countMissed, modHold_kept, kept_ite, ite_self]

theorem emitTokens_kept (p : Nat) (tag : BitVec 48) (pos : Nat) (l : List (BitVec 32)) (s : State) :
    (emitTokens p tag pos l s).kept w = s.kept w := by
  induction l generalizing pos s with
  | nil => rfl
  | cons t r ih => rw [emitTokens, ih, liveItem_kept]

theorem prefillDone_kept (s : State) (p : Nat) (l : Live) (t : BitVec 32) (ends : Bool) :
    (prefillDone s p l t ends).kept w = s.kept w := by
  simp only [prefillDone, commitProgress_kept, modLive_kept]

theorem commitFallback_kept (s : State) (p : Nat) (l : Live) (t : BitVec 32) (ends : Bool) :
    (commitFallback s p l t ends).kept w = s.kept w := by
  simp only [commitFallback, countMissed_kept, modHold_kept, modLive_kept, liveItem_kept, kept_ite, ite_self]

theorem commitMain_kept (s : State) (p : Nat) (l : Live) (r : StreamOut) :
    (commitMain s p l r).kept w = s.kept w := by
  simp only [commitMain]
  split <;> simp only [countMissed_kept, modHold_kept, modLive_kept, emitTokens_kept, finishRequest_kept,
    flushOn_kept, kept_ite, ite_self]

theorem commitStream_kept (s : State) (p : Nat) (r : StreamOut) : (commitStream s p r).kept w = s.kept w := by
  simp only [commitStream]
  repeat' split
  all_goals simp only [modLive_kept, prefillDone_kept, commitFallback_kept, finishRequest_kept,
    commitMain_kept]

theorem execStepCommit_keeps (p : Part) (results : List StreamOut) (s : State) (hm : w.memory = true) :
    keeps w s (execStepCommit p results s) := by
  unfold execStepCommit
  split <;> simp only [holderOn_kept, stepFails_kept, modHold_kept, modPFault_kept, commitStream_kept, hm,
    keeps_ite, keeps_next, ite_self, foldl_kept, implies_true]

theorem execQueryWaitExpire_keeps (p : Part) (tag : BitVec 48) (layer : Nat) (s : State)
    (hm : w.memory = true) : keeps w s (execQueryWaitExpire p tag layer s) := by
  simp only [execQueryWaitExpire, holderOn_kept, modLive_kept, staleQueries_kept, hm, keeps_ite, keeps_next,
    ite_self]

theorem execFirstDueExpire_keeps (p : Part) (tag : BitVec 48) (s : State) (hm : w.memory = true) :
    keeps w s (execFirstDueExpire p tag s) := by
  unfold execFirstDueExpire
  split <;> simp only [holderOn_kept, endEarly_kept, hm, keeps_ite, keeps_next, ite_self]

/-! ### Transport commands -/

theorem srqNext_kept (p q fuel : Nat) (s : State) (hm : w.memory = true) :
    (srqNext p q fuel s).2.kept w = s.kept w := by
  induction fuel generalizing s with
  | zero => rfl
  | succ n ih =>
    unfold srqNext
    dsimp only
    split
    · rfl
    · split
      · simp only [settlePart_kept, hm]
      · simp only [modXt_kept, ringRead_kept, settlePart_kept, ih, hm]

theorem srqHead_kept (s : State) (p q : Nat) (hm : w.memory = true) :
    (srqHead s p q).2.kept w = s.kept w := by
  simp only [srqHead]
  split <;> simp only [srqNext_kept, hm]

theorem srqTake_kept (s : State) (p q : Nat) : (srqTake s p q).kept w = s.kept w := by
  simp only [srqTake, modXt_kept]

theorem epStarved_kept (s : State) (p n : Nat) (hm : w.memory = true) :
    (epStarved s p n).kept w = s.kept w := by
  simp only [epStarved, modEp_kept, hm]

theorem epServed_kept (s : State) (p n : Nat) : (epServed s p n).kept w = s.kept w := by
  simp only [epServed, modXt_kept]

theorem answerMsg_kept (s : State) (x : XtHdr) (again : Bool) (c : Byte) :
    (answerMsg s x again c).kept w = s.kept w := by
  simp only [answerMsg, reportHandled_kept]

theorem putReasm_kept (s : State) (p : Nat) (x : XtHdr) (m : MsgFields) (e : Option Reasm) :
    (putReasm s p x m e).kept w = s.kept w := by
  simp only [putReasm, modXt_kept]

theorem msgComplete_kept (s : State) (p : Nat) (x : XtHdr) (m : MsgFields) (cookie : BitVec 32)
    (hm : w.memory = true) : (msgComplete s p x m cookie).kept w = s.kept w := by
  simp only [msgComplete, modEp_kept, notify_kept, hm]

theorem msgPlace_kept (s : State) (p : Nat) (x : XtHdr) (m : MsgFields) (bytes : List Byte) (again : Bool)
    (r : Reasm) (hm : w.memory = true) : (msgPlace s p x m bytes again r).kept w = s.kept w := by
  simp only [msgPlace, answerMsg_kept, putReasm_kept, msgComplete_kept, hm, kept_ite, ite_self]
  repeat' split
  all_goals simp only [homeWrite_kept, hm]

theorem msgOpen_kept (s : State) (p : Nat) (x : XtHdr) (m : MsgFields) (bytes : List Byte) (again : Bool)
    (e : Endpoint) (hm : w.memory = true) : (msgOpen s p x m bytes again e).kept w = s.kept w := by
  simp only [msgOpen, modXt_kept, answerMsg_kept, epStarved_kept, laneGive_kept, msgComplete_kept,
    epServed_kept, hm, kept_ite, ite_self]
  repeat' split
  all_goals simp only [epStarved_kept, epServed_kept, srqHead_kept, srqTake_kept, msgPlace_kept,
    putReasm_kept, hm]

theorem senderLength_kept (s : State) (h : SvcHdr) : (senderLength s h).2.kept w = s.kept w := by
  unfold senderLength
  split <;> simp only [draw_kept]

theorem svcArrive_kept (s : State) (p : Nat) (bytes : List Byte) (hm : w.memory = true) :
    (svcArrive s p bytes).kept w = s.kept w := by
  unfold svcArrive
  simp only [svcReplied_kept, hm, kept_ite]
  split
  · rfl
  · repeat' split
    all_goals simp only [senderLength_kept, serveOpenPartner_kept, serveOpen_kept, serveCommit_kept,
      serveRelease_kept, serveTransfer_kept, serveQuery_kept, serveHandoff_kept, serveCancel_kept,
      serveGrow_kept, svcReceive_kept, hm, implies_true, id_eq]

theorem modEp0_kept (s : State) (p : Nat) (f : Endpoint → Endpoint) : (modEp0 s p f).kept w = s.kept w := by
  simp only [modEp0, modXt_kept]

theorem svcPlace_kept (s : State) (p : Nat) (x : XtHdr) (m : MsgFields) (bytes : List Byte) (again : Bool)
    (r : SvcIn) (hm : w.memory = true) : (svcPlace s p x m bytes again r).kept w = s.kept w := by
  simp only [svcPlace, answerMsg_kept, modPLast_kept, modEp0_kept, holderOn_kept, svcArrive_kept, hm,
    kept_ite, ite_self]

theorem svcHandle_kept (s : State) (p : Nat) (x : XtHdr) (m : MsgFields) (bytes : List Byte) (again : Bool)
    (hm : w.memory = true) : (svcHandle s p x m bytes again).kept w = s.kept w := by
  simp only [svcHandle]
  split <;> simp only [svcPlace_kept, modXt_kept, hm, kept_ite, ite_self]

theorem msgHandle_kept (s : State) (p : Nat) (x : XtHdr) (m : MsgFields) (bytes : List Byte) (again : Bool)
    (hm : w.memory = true) : (msgHandle s p x m bytes again).kept w = s.kept w := by
  simp only [msgHandle, svcHandle_kept, answerMsg_kept, modXt_kept, grantFetches_kept, hm, kept_ite, ite_self]
  repeat' split
  all_goals simp only [msgPlace_kept, epServed_kept, msgOpen_kept, hm]

theorem msgArrive_kept (s : State) (x : XtHdr) (m : MsgFields) (bytes : List Byte) (hm : w.memory = true) :
    (msgArrive s x m bytes).kept w = s.kept w := by
  simp only [msgArrive, reportHandled_kept, answerMsg_kept, msgHandle_kept, hm, kept_ite, ite_self]

theorem execMessage_keeps (x : XtHdr) (m : MsgFields) (bytes : List Byte) (s : State) (hm : w.memory = true) :
    keeps w s (execMessage x m bytes s) := by
  unfold execMessage
  split
  · simp only [keeps_next]
  · split
    · simp only [dropLength_kept, keeps_next]
    · split
      · simp only [dropNoPeer_kept, keeps_next]
      next t ht => simp only [msgArrive_kept, hm, keeps_next, rxContext_kept ht]

theorem unpark_kept (s : State) (p n : Nat) (hm : w.memory = true) : (unpark s p n).kept w = s.kept w := by
  simp only [unpark, modXt_kept, msgArrive_kept, hm, foldl_kept, implies_true]

theorem execKerbsideFetchDone_keeps (p : Part) (ep : Nat) (s : State) (hm : w.memory = true) :
    keeps w s (execKerbsideFetchDone p ep s) := by
  simp only [execKerbsideFetchDone, grantFetches_kept, modXt_kept, settlePart_kept, badWordFaults_kept,
    epInstall_kept, unpark_kept, hm, kept_ite, keeps_ite, keeps_next, ite_self]

theorem execEpEmptyExpire_keeps (p : Part) (ep : Nat) (s : State) (hm : w.memory = true) :
    keeps w s (execEpEmptyExpire p ep s) := by
  simp only [execEpEmptyExpire]
  repeat' split
  all_goals simp only [epError_kept, hm, keeps_next]

theorem settleFences_kept (s : State) : (settleFences s).kept w = s.kept w := by
  simp only [settleFences, modFab_kept, emit_kept, foldl_kept, implies_true]

theorem packetEnd_kept (s : State) (device : Nat) (u : Unacked) (c : Byte) (hm : w.memory = true) :
    (packetEnd s device u c).kept w = s.kept w := by
  simp only [packetEnd, messagePacketEnd_kept, hm, kept_ite]
  repeat' split
  all_goals simp only [awlReqEnd_kept, emit_kept, holderOn_kept, svcFailed_kept, walkNext_kept,
    dropInsert_kept, hm]

theorem svcSentOut_kept (s : State) (d : Nat) (ended : List Unacked) :
    (svcSentOut s d ended).kept w = s.kept w := by
  simp only [svcSentOut, modEp0_kept, foldl_kept, implies_true]

theorem pump_kept (s : State) (d cls : Nat) (hm : w.memory = true) : (pump s d cls).kept w = s.kept w := by
  simp only [pump, sendWaiting_kept, settleFences_kept, sendPumps_kept, hm]

theorem refreshPacket_kept (s : State) (device : Nat) (u : Unacked) (hm : w.memory = true) :
    (refreshPacket s device u).2.kept w = s.kept w := by
  simp only [refreshPacket]
  repeat' split
  all_goals simp only [homeRead_kept, passSpans_kept, setAwl_kept, sourceFaults_kept, hm]

theorem resend_kept (s : State) (d cls : Nat) (psn : BitVec 32) (hm : w.memory = true) :
    (resend s d cls psn).kept w = s.kept w := by
  simp only [resend]
  repeat' split
  all_goals simp only [refreshPacket_kept, setPeer_kept, originate_kept, hm]

theorem ackArrive_kept (s : State) (a : AckFields) (hm : w.memory = true) :
    (ackArrive s a).kept w = s.kept w := by
  simp only [ackArrive, svcSentOut_kept, setPeer_kept, packetEnd_kept, resend_kept, pump_kept, hm, kept_ite,
    ite_self, foldl_kept, implies_true]

theorem execAck_keeps (a : AckFields) (s : State) (hm : w.memory = true) : keeps w s (execAck a s) := by
  unfold execAck
  split
  · simp only [keeps_next]
  · split
    · simp only [dropNoPeer_kept, keeps_next]
    next t ht => simp only [ackArrive_kept, hm, keeps_next, heard_kept ht]

theorem takeAnswer_kept (s : State) (x : XtHdr) : (takeAnswer s x).kept w = s.kept w := by
  simp only [takeAnswer, setPeer_kept]

theorem onResponse_keeps (s : State) (x : XtHdr) (op : Nat) (f : State → Unacked → Out)
    (hf : ∀ s u, keeps w s (f s u)) : keeps w s (onResponse s x op f) := by
  unfold onResponse
  split
  · simp only [keeps_next]
  · split
    · simp only [dropNoPeer_kept, keeps_next]
    next t ht =>
      split
      · exact (keeps_next ..).2 (heard_kept ht)
      · intro r hr
        rw [hf t _ r hr, heard_kept ht]

theorem execReadData_keeps (x : XtHdr) (status : Byte) (bytes : List Byte) (s : State) (hm : w.memory = true) :
    keeps w s (execReadData x status bytes s) := by
  refine onResponse_keeps _ _ _ _ fun s u => ?_
  simp only [dropLength_kept, pump_kept, hm, kept_ite, keeps_ite, keeps_next]
  repeat' split
  all_goals simp only [takeAnswer_kept, awlReqEnd_kept, emit_kept, walkNext_kept, insertData_kept, hm]

theorem execAtomicData_keeps (x : XtHdr) (status : Byte) (old : Word) (s : State) (hm : w.memory = true) :
    keeps w s (execAtomicData x status old s) := by
  refine onResponse_keeps _ _ _ _ fun s u => ?_
  simp only [pump_kept, hm, keeps_ite, keeps_next]
  repeat' split
  all_goals simp only [takeAnswer_kept, emit_kept, claimData_kept]

theorem execAckTimer_keeps (device : Nat) (cls : Fin 3) (s : State) :
    keeps w s (execAckTimer device cls s) := by
  simp only [execAckTimer]
  split <;> simp only [sendAck_kept, keeps_ite, keeps_next, ite_self]

theorem execResendTimer_keeps (device : Nat) (cls : Fin 3) (psn : BitVec 32) (s : State)
    (hm : w.memory = true) : keeps w s (execResendTimer device cls psn s) := by
  simp only [execResendTimer]
  split <;> simp only [resend_kept, hm, keeps_ite, keeps_next, ite_self]

theorem failPeer_kept (s : State) (d : Nat) (left : Peer) (hm : w.memory = true) :
    (failPeer s d left).kept w = s.kept w := by
  simp only [failPeer, svcSentOut_kept, setPeer_kept, packetEnd_kept, settleFences_kept, sendPumps_kept, hm,
    foldl_kept, implies_true]

theorem execTargetTimeout_keeps (device : Nat) (s : State) (hm : w.memory = true) :
    keeps w s (execTargetTimeout device s) := by
  simp only [execTargetTimeout, modFab_kept, faultRecord_kept, failPeer_kept, hm, keeps_ite, keeps_next,
    ite_self]

theorem giveContexts_kept (s : State) (hm : w.memory = true) : (giveContexts s).kept w = s.kept w := by
  rw [giveContexts, sendPumps_kept _ hm]
  refine foldl_kept (fun s d => ?_) _ s
  split
  · rfl
  next t ht => rw [pump_kept _ _ _ hm, pump_kept _ _ _ hm, withContext_kept ht]

theorem execPeerContextFree_keeps (device : Nat) (s : State) (hm : w.memory = true) :
    keeps w s (execPeerContextFree device s) := by
  simp only [execPeerContextFree, giveContexts_kept, freeContext_kept, hm, keeps_ite, keeps_next, ite_self]

theorem clearPeer_kept (s : State) (d : Nat) (hm : w.memory = true) : (clearPeer s d).kept w = s.kept w := by
  simp only [clearPeer, failPeer_kept, hm]

theorem clearPut_kept (value : Word) (s : State) (hm : w.memory = true) :
    (clearPut value s).kept w = s.kept w := by
  simp only [clearPut, clearPeer_kept, hm, kept_ite, ite_self]

theorem execClear_keeps (src : Src) (value : Word) (s : State) (hm : w.memory = true) :
    keeps w s (execClear src value s) := by
  simp only [execClear, globalWrite_kept, clearPut_kept, hm, keeps_next, implies_true]

theorem execCobblerFence_keeps (b : Blk) (device : Nat) (s : State) :
    keeps w s (execCobblerFence b device s) := by
  unfold execCobblerFence
  split <;> simp only [settleFences_kept, modFab_kept, keeps_ite, keeps_next, ite_self]

theorem epCode_kept (s : State) (p : Nat) (c : Byte) : (epCode s p c).kept w = s.kept w := by
  simp only [epCode, modXt_kept]

theorem execEnable_keeps (src : Src) (p : Part) (ep : BitVec 16) (s : State) (hm : w.memory = true) :
    keeps w s (execEnable src p ep s) := by
  simp only [execEnable, partWrite_kept, epCode_kept, badWordFaults_kept, epInstall_kept, modXt_kept, hm,
    kept_ite, keeps_next, ite_self, implies_true]

theorem execEpDisable_keeps (src : Src) (p : Part) (ep : BitVec 16) (s : State) (hm : w.memory = true) :
    keeps w s (execEpDisable src p ep s) := by
  simp only [execEpDisable, partWrite_kept, epCode_kept, endSends_kept, epRemove_kept, epFreeEntries_kept, hm,
    kept_ite, keeps_next, ite_self, implies_true]

theorem execEpFlush_keeps (src : Src) (p : Part) (ep : BitVec 16) (s : State) (hm : w.memory = true) :
    keeps w s (execEpFlush src p ep s) := by
  simp only [execEpFlush, partWrite_kept, epCode_kept, modEp_kept, endSends_kept, epRemove_kept, hm, kept_ite,
    keeps_next, ite_self, implies_true]

theorem execSrqTailWrite_keeps (src : Src) (p : Part) (q : Fin 16) (value : Word) (s : State) :
    keeps w s (execSrqTailWrite src p q value s) := by
  simp only [execSrqTailWrite, partWrite_kept, modXt_kept, srqFed_kept, kept_ite, keeps_next, ite_self,
    implies_true]

/-! ### Links and routing -/

theorem cageUpdate_kept (s : State) (g : Nat) : (cageUpdate s g).kept w = s.kept w := by
  simp only [cageUpdate, emit_kept, modSled_kept, kept_ite, ite_self]

theorem setGroup_kept (s : State) (g : Nat) (on : Bool) (hw : w.power = true) :
    (setGroup s g on).kept w = s.kept w := by
  simp only [setGroup, cageUpdate_kept, modPow_kept, hw]

theorem setPortFlags_kept (s : State) (p : Nat) (x : Port) : (setPortFlags s p x).kept w = s.kept w := by
  simp only [setPortFlags, upd_kept, setPort_kept, sendNotice_kept, kept_ite, ite_self, implies_true]

theorem modVl_kept (s : State) (p v : Nat) (f : VlCounts → VlCounts) : (modVl s p v f).kept w = s.kept w := by
  simp only [modVl, setPort_kept]

theorem freeUnits_kept (s : State) (i vl units : Nat) : (freeUnits s i vl units).kept w = s.kept w := by
  simp only [freeUnits, modVl_kept, setPort_kept, kept_ite, ite_self]

theorem unitSent_kept (s : State) (p : Nat) (e : Emit) : (unitSent s p e).kept w = s.kept w := by
  simp only [unitSent, emit_kept, setPort_kept]

theorem sendCredit_kept (s : State) (p : Nat) : (sendCredit s p).kept w = s.kept w := by
  simp only [sendCredit, unitSent_kept, setPort_kept]

theorem countDrop_kept (s : State) (cause : Nat) : (countDrop s cause).kept w = s.kept w := by
  simp only [countDrop, modFab_kept]

theorem dropPacket_kept (s : State) (input : Nat) (bs : List Byte) (cause : Nat) :
    (dropPacket s input bs cause).kept w = s.kept w := by
  simp only [dropPacket, countDrop_kept, freeUnits_kept]

theorem queueOn_kept (s : State) (q : Queued) (c : Nat) : (queueOn s q c).kept w = s.kept w := by
  simp only [queueOn, setPort_kept]

theorem reoffer_kept (s : State) (q : Queued) : (reoffer s q).kept w = s.kept w := by
  unfold reoffer
  split <;> simp only [countDrop_kept, dropPacket_kept, queueOn_kept, kept_ite, ite_self]

theorem routePacket_kept (s : State) (input : Nat) (bs : List Byte) :
    (routePacket s input bs).kept w = s.kept w := by
  unfold routePacket
  split <;> simp only [freeUnits_kept, emit_kept, countDrop_kept, queueOn_kept]

theorem stopPort_kept (s : State) (p : Nat) (x : Port) : (stopPort s p x).kept w = s.kept w := by
  simp only [stopPort, setPort_kept, modFab_kept, reoffer_kept, foldl_kept, implies_true]

theorem goDown_kept (s : State) (p : Nat) : (goDown s p).kept w = s.kept w := by
  simp only [goDown, stopPort_kept, faultRecord_kept]

theorem enterTraining_kept (s : State) (p : Nat) : (enterTraining s p).kept w = s.kept w := by
  simp only [enterTraining, setPort_kept, kept_ite, ite_self]

theorem portOff_kept (s : State) (p : Nat) : (portOff s p).kept w = s.kept w := by
  simp only [portOff, stopPort_kept]

theorem portRest_kept (s : State) (p : Nat) : (portRest s p).kept w = s.kept w := by
  simp only [portRest, portOff_kept, stopPort_kept, enterTraining_kept, kept_ite, ite_self]

theorem creditArrive_kept (s : State) (p : Nat) (freed : List (BitVec 32)) :
    (creditArrive s p freed).kept w = s.kept w := by
  simp only [creditArrive, setPort_kept, modVl_kept, foldl_kept, implies_true]

theorem syncArrive_kept (s : State) (p : Nat) (sent : List (BitVec 32)) :
    (syncArrive s p sent).kept w = s.kept w := by
  simp only [syncArrive, modVl_kept, setPort_kept, foldl_kept, implies_true]

theorem helloArrive_kept (s : State) (p : Nat) (u : HelloUnit) : (helloArrive s p u).kept w = s.kept w := by
  simp only [helloArrive, setPortFlags_kept, unitSent_kept, goDown_kept, setPort_kept, sendCredit_kept,
    kept_ite, ite_self]

theorem endComing_kept (s : State) (p : Nat) (payload : List Byte) (lost : Bool) :
    (endComing s p payload lost).kept w = s.kept w := by
  simp only [endComing, modFab_kept]

theorem loseRx_kept (s : State) (p : Nat) (discarding : Bool) :
    (loseRx s p discarding).kept w = s.kept w := by
  simp only [loseRx]
  split <;> simp only [setPort_kept, freeUnits_kept, endComing_kept]

theorem rxComplete_kept (s : State) (p : Nat) : (rxComplete s p).kept w = s.kept w := by
  simp only [rxComplete]
  repeat' split
  all_goals simp only [setPort_kept, freeUnits_kept, emit_kept, endComing_kept]

theorem routeComing_kept (s : State) (p : Nat) : (routeComing s p).kept w = s.kept w := by
  simp only [routeComing]
  repeat' split
  all_goals simp only [setPort_kept, countDrop_kept, queueOn_kept]

theorem controlUnit_kept (s : State) (p : Nat) (bs : List Byte) : (controlUnit s p bs).kept w = s.kept w := by
  simp only [controlUnit, loseRx_kept, creditArrive_kept, syncArrive_kept, helloArrive_kept, draw_kept,
    setPort_kept, kept_ite, ite_self]

theorem unitArrive_kept (s : State) (p : Nat) (u : LinkUnit) : (unitArrive s p u).kept w = s.kept w := by
  simp only [unitArrive]
  repeat' split
  all_goals simp only [setPort_kept, loseRx_kept, controlUnit_kept, modVl_kept, rxComplete_kept]

theorem execSerdesGroupWake_keeps (g : Fin 9) (s : State) (hw : w.power = true) :
    keeps w s (execSerdesGroupWake g s) := by
  simp only [execSerdesGroupWake, setGroup_kept, portRest_kept, hw, keeps_ite, keeps_next, ite_self,
    foldl_kept, implies_true]

theorem execTrainingDone_keeps (port : PortNo) (reversed : Bool) (s : State) :
    keeps w s (execTrainingDone port reversed s) := by
  simp only [execTrainingDone, setPort_kept, keeps_ite, keeps_next, ite_self]

theorem execTrainingTimeout_keeps (port : PortNo) (s : State) : keeps w s (execTrainingTimeout port s) := by
  simp only [execTrainingTimeout, goDown_kept, keeps_ite, keeps_next, ite_self]

theorem execHello_keeps (port : PortNo) (u : HelloUnit) (s : State) : keeps w s (execHello port u s) := by
  simp only [execHello, helloArrive_kept, keeps_next]

theorem execHelloTimer_keeps (port : PortNo) (s : State) : keeps w s (execHelloTimer port s) := by
  simp only [execHelloTimer, draw_kept, setPort_kept, unitSent_kept, keeps_ite, keeps_next, ite_self]

theorem execHelloMissing_keeps (port : PortNo) (s : State) : keeps w s (execHelloMissing port s) := by
  simp only [execHelloMissing]
  split <;> simp only [goDown_kept, keeps_ite, keeps_next, ite_self]

theorem execDownRetrain_keeps (port : PortNo) (s : State) : keeps w s (execDownRetrain port s) := by
  simp only [execDownRetrain, enterTraining_kept, keeps_ite, keeps_next, ite_self]

theorem execCodewordReceived_keeps (port : PortNo) (cw : Codeword) (s : State) :
    keeps w s (execCodewordReceived port cw s) := by
  unfold execCodewordReceived
  split <;> simp only [setPort_kept, unitArrive_kept, loseRx_kept, goDown_kept, kept_ite, keeps_ite,
    keeps_next, ite_self, foldl_kept, implies_true]

theorem execCredit_keeps (port : PortNo) (freed : List (BitVec 32)) (s : State) :
    keeps w s (execCredit port freed s) := by
  simp only [execCredit, creditArrive_kept, kept_ite, keeps_next, ite_self]

theorem execCreditTimer_keeps (port : PortNo) (s : State) : keeps w s (execCreditTimer port s) := by
  simp only [execCreditTimer, sendCredit_kept, keeps_ite, keeps_next, ite_self]

theorem execSync_keeps (port : PortNo) (sent : List (BitVec 32)) (s : State) :
    keeps w s (execSync port sent s) := by
  simp only [execSync, syncArrive_kept, kept_ite, keeps_next, ite_self]

theorem execSyncTimer_keeps (port : PortNo) (s : State) : keeps w s (execSyncTimer port s) := by
  simp only [execSyncTimer, unitSent_kept, setPort_kept, keeps_ite, keeps_next, ite_self]

theorem execPacketHeader_keeps (port : Option PortNo) (s : State) : keeps w s (execPacketHeader port s) := by
  simp only [execPacketHeader]
  repeat' split
  all_goals simp only [routePacket_kept, modFab_kept, setPort_kept, routeComing_kept, keeps_next]

theorem transportPacket_keeps (s : State) (bs : List Byte) (hm : w.memory = true) :
    keeps w s (transportPacket s bs) := by
  simp only [transportPacket, arrive2_kept, execMessage_keeps, execReadData_keeps, execAtomicData_keeps,
    execAck_keeps, hm, keeps_ite, keeps_next, ite_self]

theorem execPortTransmit_keeps (port : PortNo) (s : State) : keeps w s (execPortTransmit port s) := by
  simp only [execPortTransmit, keeps_ite, keeps_next]
  repeat' split
  all_goals simp only [setPort_kept, modVl_kept, emit_kept, freeUnits_kept, keeps_next]

theorem fpControl_kept (value : Word) (p : Nat) (s : State) : (fpControl value p s).kept w = s.kept w := by
  simp only [fpControl, setPort_kept, portOff_kept, portRest_kept, goDown_kept, kept_ite, ite_self]

theorem execRetrain_keeps (src : Src) (port : PortNo) (value : Word) (s : State) :
    keeps w s (execRetrain src port value s) := by
  simp only [execRetrain, globalWrite_kept, fpControl_kept, keeps_next, implies_true]

theorem execDisable_keeps (src : Src) (port : PortNo) (value : Word) (s : State) :
    keeps w s (execDisable src port value s) := by
  simp only [execDisable, globalWrite_kept, fpControl_kept, keeps_next, implies_true]

theorem fpCredits_kept (hi : Bool) (value : Word) (p : Nat) (s : State) :
    (fpCredits hi value p s).kept w = s.kept w := by
  simp only [fpCredits, setPort_kept, kept_ite, ite_self]

theorem execFpCreditsWrite_keeps (src : Src) (port : PortNo) (hi : Bool) (value : Word) (s : State) :
    keeps w s (execFpCreditsWrite src port hi value s) := by
  simp only [execFpCreditsWrite, globalWrite_kept, fpCredits_kept, keeps_next, implies_true]

theorem routePut_kept (b : Bool) (dest : Nat) (value : Word) (s : State) :
    (routePut b dest value s).kept w = s.kept w := by
  simp only [routePut, setBank_kept]

theorem execRouteWrite_keeps (src : Src) (bank : Fin 2) (dest : BitVec 16) (value : Word) (s : State) :
    keeps w s (execRouteWrite src bank dest value s) := by
  simp only [execRouteWrite, globalWrite_kept, routePut_kept, keeps_next, implies_true]

theorem bankPut_kept (b : Bool) (value : Word) (s : State) : (bankPut b value s).kept w = s.kept w := by
  simp only [bankPut, setBank_kept, kept_ite, ite_self]

theorem execFabBankWrite_keeps (src : Src) (bank : Fin 2) (value : Word) (s : State) :
    keeps w s (execFabBankWrite src bank value s) := by
  simp only [execFabBankWrite, globalWrite_kept, bankPut_kept, keeps_next, implies_true]

theorem currentPut_kept (value : Word) (s : State) : (currentPut value s).kept w = s.kept w := by
  simp only [currentPut, modFab_kept]

theorem execFabCurrentWrite_keeps (src : Src) (value : Word) (s : State) :
    keeps w s (execFabCurrentWrite src value s) := by
  simp only [execFabCurrentWrite, globalWrite_kept, currentPut_kept, keeps_next, implies_true]

theorem devicePut_kept (value : Word) (s : State) : (devicePut value s).kept w = s.kept w := by
  simp only [devicePut, modFab_kept]

theorem execFabDeviceWrite_keeps (src : Src) (value : Word) (s : State) :
    keeps w s (execFabDeviceWrite src value s) := by
  simp only [execFabDeviceWrite, globalWrite_kept, devicePut_kept, keeps_next, implies_true]

/-! ### Power and clocks -/

theorem noteCauses_kept (s : State) (hw : w.power = true) : (noteCauses s).kept w = s.kept w := by
  simp only [noteCauses, upd_kept, modPow_kept, hw, implies_true]

theorem clockStep_kept (s : State) (hot : Bool) (p : Nat) : (clockStep s hot p).kept w = s.kept w := by
  simp only [clockStep, setPower_kept]

theorem execClockLoopTick_keeps (tMax tMaxDistrict inlet outlet : Nat) (s : State) (hw : w.power = true) :
    keeps w s (execClockLoopTick tMax tMaxDistrict inlet outlet s) := by
  simp only [execClockLoopTick, modPow_kept, noteCauses_kept, clockStep_kept, hw, keeps_ite, keeps_next,
    ite_self, foldl_kept, implies_true]

theorem execPowerEstimateTick_keeps (raw inputW voltage10mV : Nat) (parts : List (Nat × Nat)) (s : State)
    (hw : w.power = true) : keeps w s (execPowerEstimateTick raw inputW voltage10mV parts s) := by
  simp only [execPowerEstimateTick, modPow_kept, modPPower_kept, noteCauses_kept, hw, keeps_next, foldl_kept,
    implies_true]

theorem execCalibrationTick_keeps (measured raw : Nat) (s : State) (hw : w.power = true) :
    keeps w s (execCalibrationTick measured raw s) := by
  simp only [execCalibrationTick, draw_kept, modPow_kept, faultRecord_kept, hw, kept_ite, keeps_next,
    ite_self]

theorem execFastLimit_keeps (cause : FastCause) (s : State) (hw : w.power = true) :
    keeps w s (execFastLimit cause s) := by
  simp only [execFastLimit, noteCauses_kept, modPow_kept, hw, keeps_ite, keeps_next, ite_self]

theorem execFastLimitClear_keeps (s : State) (hw : w.power = true) : keeps w s (execFastLimitClear s) := by
  unfold execFastLimitClear
  split <;> simp only [modPow_kept, modPPower_kept, hw, keeps_ite, keeps_next, ite_self, foldl_kept,
    implies_true]

theorem execStartGrant_keeps (riseOk : Bool) (s : State) : keeps w s (execStartGrant riseOk s) := by
  simp only [execStartGrant, keeps_ite, keeps_next]
  repeat' split
  all_goals simp only [setPwr_kept, draw_kept, keeps_next]

theorem execBlockOffTimer_keeps (b : Blk) (s : State) (hc : w.cores = true) (hm : w.memory = true) :
    keeps w s (execBlockOffTimer b s) := by
  unfold execBlockOffTimer
  split
  · simp only [keeps_next]
  · simp only [zeroBenches_kept, setPwr_kept, hc, hm, keeps_ite, keeps_next, kept_mk_cores, ite_self]

theorem execBlockWakeDone_keeps (b : Blk) (s : State) (hm : w.memory = true) :
    keeps w s (execBlockWakeDone b s) := by
  simp only [execBlockWakeDone, zeroBenches_kept, setPwr_kept, hm, kept_ite, keeps_ite, keeps_next, ite_self]

theorem execBlkHintWrite_keeps (src : Src) (b : Blk) (value : Word) (s : State) :
    keeps w s (execBlkHintWrite src b value s) := by
  refine (keeps_next ..).2 (blockWrite_kept _ _ _ _ _ fun s => ?_)
  split <;> simp only [modPPower_kept, kept_ite, ite_self]

theorem countArrive_kept (s : State) (p : Nat) : (countArrive s p).kept w = s.kept w := by
  simp only [countArrive, modPPower_kept]

theorem readBack_kept (s : State) (src : Src) (v : Word) : (readBack s src v).kept w = s.kept w := by
  unfold readBack
  split <;> simp only [emit_kept]

theorem execBlkArriveRead_keeps (src : Src) (b : Blk) (s : State) :
    keeps w s (execBlkArriveRead src b s) := by
  simp only [execBlkArriveRead]
  split <;> simp only [portGate_kept, countArrive_kept, readBack_kept, keeps_next]

theorem execBlkPeerDelayWrite_keeps (src : Src) (b : Blk) (value : Word) (s : State) :
    keeps w s (execBlkPeerDelayWrite src b value s) := by
  refine (keeps_next ..).2 (blockWrite_kept _ _ _ _ _ fun s => ?_)
  split <;> simp only [modPPower_kept]

theorem execFollowExpire_keeps (p : Part) (s : State) : keeps w s (execFollowExpire p s) := by
  simp only [execFollowExpire, setPower_kept, keeps_ite, keeps_next, ite_self]

/-! ### Memory tiers -/

theorem migComplete_kept (s : State) (p : Nat) (e : MigEntry) (c : Byte) :
    (migComplete s p e c).kept w = s.kept w := by
  simp only [migComplete, modPMem_kept, noteStep_kept, ctrAdd_kept, kept_ite, ite_self]

theorem migFail_kept (s : State) (p : Nat) (j : MigJob) (page : Nat) (c : Byte) :
    (migFail s p j page c).kept w = s.kept w := by
  simp only [migFail, modPMem_kept]

theorem beginPage_kept (s : State) (p : Nat) (j : MigJob) : (beginPage s p j).kept w = s.kept w := by
  unfold beginPage
  split <;> simp only [modPMem_kept, migFail_kept, kept_ite, ite_self]

theorem migStart_kept (s : State) (p : Nat) (e : MigEntry) : (migStart s p e).kept w = s.kept w := by
  simp only [migStart, modPMem_kept, migComplete_kept, beginPage_kept, kept_ite, ite_self]

theorem execMigTailWrite_keeps (src : Src) (p : Part) (value : Word) (s : State) :
    keeps w s (execMigTailWrite src p value s) := by
  simp only [execMigTailWrite, partWrite_kept, modPMem_kept, keeps_next, implies_true]

theorem execMovePages_keeps (p : Part) (s : State) (hm : w.memory = true) :
    keeps w s (execMovePages p s) := by
  simp only [execMovePages, keeps_ite, keeps_next]
  repeat' split
  all_goals simp only [migStart_kept, ringRead_kept, settlePart_kept, modPMem_kept, migComplete_kept, hm,
    keeps_next]

theorem placePage_kept (s : State) (p page tier : Nat) : (placePage s p page tier).kept w = s.kept w := by
  simp only [placePage, modPMem_kept]

theorem execPageMoveDone_keeps (read : PartRead) (page : Nat) (written : Bool) (s : State)
    (hm : w.memory = true) : keeps w s (execPageMoveDone read page written s) := by
  simp only [execPageMoveDone]
  split <;> simp only [modPMem_kept, eccMet_kept, settlePart_kept, placePage_kept, migFail_kept,
    badWordFaults_kept, beginPage_kept, hm, keeps_ite, keeps_next, ite_self]

theorem execMigrationEntryDone_keeps (p : Part) (s : State) : keeps w s (execMigrationEntryDone p s) := by
  unfold execMigrationEntryDone
  split <;> simp only [migComplete_kept, keeps_ite, keeps_next, ite_self]

theorem resumeQueues_kept (s : State) (p : Nat) (hm : w.memory = true) :
    (resumeQueues s p).kept w = s.kept w := by
  simp only [resumeQueues, lastNext_kept, awlIssue_kept, hm, kept_ite, ite_self, foldl_kept, implies_true]

theorem noteCached_kept (s : State) (c : NvCmd) (q : AwlReq) : (noteCached s c q).kept w = s.kept w := by
  unfold noteCached
  split <;> simp only [setAwl_kept]

theorem lastCmdEnds_kept (s : State) (c : NvCmd) (n : Nat) (r : ReqEnd) (hm : w.memory = true) :
    (lastCmdEnds s c n r).kept w = s.kept w := by
  simp only [lastCmdEnds]
  repeat' split
  all_goals simp only [putJob_kept, homeWrite_kept, hm]

theorem nvEnd_kept (s : State) (c : NvCmd) (r : ReqEnd) (hm : w.memory = true) :
    (nvEnd s c r).kept w = s.kept w := by
  have ends (l : List AwlReq) (p : Nat) (g : AwlReq → ReqEnd) (s : State) :
      (l.foldl (fun s x => (reqEnd s c.awl p c.index x.id (g x)).getD s) s).kept w = s.kept w :=
    foldl_kept (fun s x => getD_kept (fun _ => reqEnd_kept hm) rfl) l s
  unfold nvEnd
  dsimp only
  split
  · simp only [resumeQueues_kept, lastCmdEnds_kept, hm, kept_mk_memory]
  · split
    · simp only [resumeQueues_kept, slotsFree_kept, noteCached_kept, hm, kept_ite, kept_mk_memory, ite_self,
        ends]
    · rfl

theorem execNvmeCompletion_keeps (drive : Fin 8) (cmd : Nat) (ok : Bool) (status : Word) (data : List Byte)
    (s : State) (hm : w.memory = true) : keeps w s (execNvmeCompletion drive cmd ok status data s) := by
  unfold execNvmeCompletion
  split <;> simp only [nvEnd_kept, hm, keeps_ite, keeps_next, ite_self]

theorem execNvTimeout_keeps (drive : Fin 8) (cmd : Nat) (s : State) (hm : w.memory = true) :
    keeps w s (execNvTimeout drive cmd s) := by
  unfold execNvTimeout
  split <;> simp only [nvEnd_kept, hm, keeps_ite, keeps_next, ite_self]

theorem driveFails_kept (s : State) (d status : Nat) (hm : w.memory = true) :
    (driveFails s d status).kept w = s.kept w := by
  simp only [driveFails, upd_kept, setDrive_kept, faultRecord_kept, nvEnd_kept, hm, foldl_kept, implies_true]

theorem execNvmeDriveFailed_keeps (drive : Fin 8) (status : Word) (s : State) (hm : w.memory = true) :
    keeps w s (execNvmeDriveFailed drive status s) := by
  simp only [execNvmeDriveFailed, driveFails_kept, hm, keeps_ite, keeps_next, ite_self]

theorem queuesFollow_kept (s : State) (p : Nat) (old new : PMem) :
    (queuesFollow s p old new).kept w = s.kept w := by
  simp only [queuesFollow, emit_kept, kept_ite, ite_self, foldl_kept, implies_true]

theorem writeMap_kept (s : State) (p : Nat) (nv : Bool) (reg i : Nat) (value : Word) :
    (writeMap s p nv reg i value).kept w = s.kept w := by
  simp only [writeMap, setPMem_kept, queuesFollow_kept, kept_ite, ite_self]

theorem execNvMappingWrite_keeps (src : Src) (p : Part) (reg : Fin 3) (nv : Bool) (entry : Fin 16)
    (value : Word) (s : State) : keeps w s (execNvMappingWrite src p reg nv entry value s) := by
  simp only [execNvMappingWrite, partWrite_kept, writeMap_kept, keeps_ite, keeps_next, ite_self, implies_true]

theorem patrolPlaced_kept (s : State) (p off : Nat) (ok : Bool) (hm : w.memory = true) :
    (patrolPlaced s p off ok).kept w = s.kept w := by
  simp only [patrolPlaced, countFixed_kept, badWordFault_kept, hm, kept_ite, kept_mk_memory, ite_self]

theorem patrolUnplaced_kept (s : State) (tier ch : Nat) (ok : Bool) :
    (patrolUnplaced s tier ch ok).kept w = s.kept w := by
  simp only [patrolUnplaced, countFixed_kept, countLost_kept, draw_kept, faultRecord_kept, kept_ite, ite_self]

theorem execPatrolScrub_keeps (p : PatrolAt) (off : Word) (correctable passEnds : Bool) (s : State)
    (hm : w.memory = true) : keeps w s (execPatrolScrub p off correctable passEnds s) := by
  simp only [execPatrolScrub, modRegs_kept, kept_ite, keeps_ite, keeps_next, ite_self]
  repeat' split
  all_goals simp only [patrolPlaced_kept, patrolUnplaced_kept, hm]

/-! ### Partitions and the module as a whole -/

theorem killWork_kept (s : State) (p : Nat) (c : Byte) (hm : w.memory = true) :
    (killWork s p c).kept w = s.kept w := by
  simp only [killWork, endSends_kept, hm, kept_mk_memory]
  split <;> simp only [runEnds_kept, attnKillAll_kept, awlKillAll_kept, migComplete_kept, hm, kept_ite,
    ite_self, foldl_kept, implies_true]

theorem killSome_kept (s : State) (c : Byte) (pick : TxPacket → Bool) (hm : w.memory = true) :
    (killSome s c pick).kept w = s.kept w := by
  rw [killSome, settleFences_kept]
  refine foldl_kept (fun s d => ?_) _ s
  simp only [setPeer_kept, packetEnd_kept, hm, foldl_kept, implies_true]

theorem killPackets_kept (s : State) (c : Byte) (hm : w.memory = true) :
    (killPackets s c).kept w = s.kept w := by
  simp only [killPackets, killSome_kept, hm]

theorem flushLanes_kept (s : State) (p : Nat) (all : Bool) : (flushLanes s p all).kept w = s.kept w := by
  simp only [flushLanes, refuseItem_kept, kept_mk, foldl_kept, implies_true]

theorem installPart_kept (s : State) (pt : Pattern) (p : Nat) : (installPart s pt p).kept w = s.kept w := by
  simp only [installPart, setToll_kept, setRoundabout_kept, setCrossing_kept, kept_mk, foldl_kept,
    implies_true]

theorem removePart_kept (s : State) (p : Nat) : (removePart s p).kept w = s.kept w := by
  simp only [removePart, kept_mk]

theorem clearBlock_kept (s : State) (b : Nat) (hc : w.cores = true) (hm : w.memory = true) :
    (clearBlock s b).kept w = s.kept w := by
  simp only [clearBlock, zeroBenches_kept, hc, hm, kept_mk_cores]

theorem markChannels_kept (s : State) (hbm ddr : Nat) (hk : w.trust = true) :
    (markChannels s hbm ddr).kept w = s.kept w := by
  simp only [markChannels, modTrust_kept, hk]

theorem startPending_kept (s : State) (hk : w.trust = true) : (startPending s).kept w = s.kept w := by
  simp only [startPending, modTrust_kept, hk]

theorem markScrub_kept (s : State) (x : PartPiece) (hk : w.trust = true) :
    (markScrub s x).kept w = s.kept w := by
  simp only [markScrub, markChannels_kept, hk]

theorem writeImages_kept (s : State) (p : Nat) (hm : w.memory = true) :
    (writeImages s p).kept w = s.kept w := by
  unfold writeImages
  split <;> simp only [storeRaw_kept, hm, foldl_kept, implies_true]

theorem enterPatterned_kept (s : State) (p : Nat) (hm : w.memory = true) :
    (enterPatterned s p).kept w = s.kept w := by
  simp only [enterPatterned, writeImages_kept, setCode_kept, modPart_kept, hm]

theorem orphanPackets_kept (s : State) (p : Nat) : (orphanPackets s p).kept w = s.kept w := by
  simp only [orphanPackets, modFab_kept]

theorem refuseHome_kept (s : State) (p : Nat) : (refuseHome s p).kept w = s.kept w := by
  simp only [refuseHome, homeEnd_kept, modFab_kept, foldl_kept, implies_true]

theorem startScrub_kept (s : State) (p next : Nat) (hk : w.trust = true) (hc : w.cores = true)
    (hm : w.memory = true) : (startScrub s p next).kept w = s.kept w := by
  simp only [startScrub]
  repeat' split
  all_goals simp only [markScrub_kept, setCode_kept, draw_kept, refuseHome_kept, orphanPackets_kept,
    modTrust_kept, removePart_kept, installPart_kept, clearBlock_kept, setPart_kept, hk, hc, hm,
    kept_mk_cores, foldl_kept, implies_true]

theorem zeroMemory_kept (s : State) (p : Nat) (hm : w.memory = true) :
    (zeroMemory s p).kept w = s.kept w := by
  simp only [zeroMemory, State.kept, unlessFree, hm, ↓reduceIte]

theorem finishFreed_kept (s : State) (p : Nat) (hk : w.trust = true) :
    (finishFreed s p).kept w = s.kept w := by
  simp only [finishFreed, modPTrust_kept, modTrust_kept, hk]

theorem finishScrub_kept (s : State) (p : Nat) (hk : w.trust = true) (hc : w.cores = true)
    (hm : w.memory = true) : (finishScrub s p).kept w = s.kept w := by
  simp only [finishScrub, clearBlock_kept, zeroMemory_kept, modPTrust_kept, modTrust_kept,
    enterPatterned_kept, hk, hc, hm, foldl_kept, implies_true]

theorem resetEndpoints_kept (s : State) (p : Nat) (hm : w.memory = true) :
    (resetEndpoints s p).kept w = s.kept w := by
  simp only [resetEndpoints, epRemove_kept, modXt_kept, hm, foldl_kept, implies_true]

theorem resetAtOpen_kept (s : State) (p : Nat) (hc : w.cores = true) (hm : w.memory = true) :
    (resetAtOpen s p).kept w = s.kept w := by
  simp only [resetAtOpen, clearBlock_kept, setBlock_kept, resetEndpoints_kept, standInDir_kept, modPart_kept,
    hc, hm, kept_ite, kept_mk_cores, ite_self, foldl_kept, implies_true]

theorem openPart_kept (s : State) (p : Nat) (hk : w.trust = true) (hc : w.cores = true) (hm : w.memory = true) :
    (openPart s p).kept w = s.kept w := by
  simp only [openPart, startScrub_kept, setCode_kept, modPTrust_kept, resetAtOpen_kept, hk, hc, hm, kept_ite,
    ite_self]

theorem setPortB_kept (s : State) (on : Bool) (hw : w.power = true) : (setPortB s on).kept w = s.kept w := by
  simp only [setPortB, modPow_kept, modSled_kept, emit_kept, modMgmt_kept, hw, kept_ite, ite_self]

theorem domainsOpen_kept (s : State) (hw : w.power = true) : (domainsOpen s).kept w = s.kept w := by
  unfold domainsOpen
  split <;> simp only [modPow_kept, setPortB_kept, hw]

theorem portsRest_kept (s : State) (hw : w.power = true) : (portsRest s).kept w = s.kept w := by
  simp only [portsRest, setGroup_kept, portRest_kept, hw, kept_ite, ite_self, foldl_kept, implies_true]

theorem enumerateAtOpen_kept (s : State) : (enumerateAtOpen s).kept w = s.kept w := by
  simp only [enumerateAtOpen, modMgmt_kept]

theorem enterOpenState_kept (s : State) : (enterOpenState s).kept w = s.kept w := by
  simp only [enterOpenState, enumerateAtOpen_kept, setModState_kept]

theorem restartLease_kept (s : State) : (restartLease s).kept w = s.kept w := by
  simp only [restartLease, modFlt_kept]

theorem openModule_kept (s : State) (hk : w.trust = true) (hw : w.power = true) (hc : w.cores = true)
    (hm : w.memory = true) : (openModule s).kept w = s.kept w := by
  simp only [openModule, domainsOpen_kept, enterOpenState_kept, openPart_kept, portsRest_kept,
    restartLease_kept, hk, hw, hc, hm, foldl_kept, implies_true]

theorem dissolve_kept (s : State) (comp : Nat) : (dissolve s comp).kept w = s.kept w := by
  simp only [dissolve, modMgmt_kept, recordEvent_kept, foldl_kept, implies_true]

theorem endHolds_kept (devices : List Nat) (s : State) (p : Nat) (hm : w.memory = true) :
    (endHolds devices s p).kept w = s.kept w := by
  simp only [endHolds, endHold_kept, hm, foldl_kept, implies_true]

theorem holdersLeave_kept (s : State) (gone : CompMap) (left : List CompMap) (hm : w.memory = true) :
    (holdersLeave s gone left).kept w = s.kept w := by
  simp only [holdersLeave, endHolds_kept, hm, foldl_kept, implies_true]

theorem moduleReset_kept (s : State) (device : BitVec 16) (flash : State → State) (hr : w.Resets)
    (hf : ∀ s, (flash s).kept w = s.kept w) : (moduleReset s device flash).kept w = s.kept w := by
  simp only [moduleReset, modLoader_kept, killPackets_kept, modFab_kept, modFlt_kept, modTrust_kept,
    portsRest_kept, setPortB_kept, trayUpdate_kept, setModState_kept, startPending_kept, hr, hr.loader,
    hr.trust, hr.power, hr.memory, kept_mk_reset]
  split <;> simp only [dissolve_kept, setCode_kept, markScrub_kept, hr.trust, kept_ite, ite_self, foldl_kept,
    implies_true, hf]

theorem fenceRecord_kept (s : State) : (fenceRecord s).kept w = s.kept w := by
  simp only [fenceRecord, faultRecord_kept]

theorem fencedEntry_kept (s : State) (cause : Nat) (hw : w.power = true) (hm : w.memory = true) :
    (fencedEntry s cause).kept w = s.kept w := by
  simp only [fencedEntry, modFlt_kept, modFab_kept, noteStep_kept, killWork_kept, killPackets_kept,
    setCode_kept, fenceRecord_kept, portsRest_kept, setModState_kept, hw, hm, kept_mk_memory, foldl_kept,
    implies_true]

/-! ### How a management request is answered -/

theorem mailboxReply_kept (s : State) (bs : List Byte) : (mailboxReply s bs).kept w = s.kept w := by
  rw [mailboxReply_frame]; rfl

theorem keepLong_kept (s : State) (m : MHdr) (bs : List Byte) (hk : w.trust = true) :
    (keepLong s m bs).kept w = s.kept w := by
  simp only [keepLong, modTrust_kept, hk, kept_ite, ite_self]

theorem deliver_kept (s : State) (e : Emit) : (deliver s e).kept w = s.kept w := by
  rw [deliver_frame]; rfl

theorem answer_kept (s : State) (m : MHdr) (command : Nat) (status : Byte) (payload : List Byte) :
    (answer s m command status payload).kept w = s.kept w := by
  rw [answer_frame]; rfl

theorem plain_kept (c : Byte) (s : State) : (plain c s).2.2.kept w = s.kept w := by
  simp only [plain]

theorem mgmtRequest_kept (s : State) (m : MHdr) (command : Nat) (allowed : Bool) (len : Option Nat)
    (f : State → Handled) (hf : ∀ s, (f s).2.2.kept w = s.kept w) :
    (mgmtRequest s m command allowed len f).kept w = s.kept w := by
  simp only [mgmtRequest, kept_ite]
  repeat' split
  all_goals simp only [noteAddress_kept, deliver_kept, answer_kept, hf]

theorem query_kept (s : State) (m : MHdr) (command : Nat) (len : Option Nat) (f : State → Handled)
    (hf : ∀ s, (f s).2.2.kept w = s.kept w) : (query s m command len f).kept w = s.kept w := by
  simp only [query, mgmtRequest_kept, implies_true, hf]

theorem control_kept (s : State) (m : MHdr) (command : Nat) (tray : Bool) (len : Option Nat)
    (f : State → Handled) (hf : ∀ s, (f s).2.2.kept w = s.kept w) :
    (control s m command tray len f).kept w = s.kept w := by
  simp only [control, mgmtRequest_kept, implies_true, hf]

theorem recovery_kept (s : State) (m : MHdr) (command : Nat) (payload : List Nat) (len : Nat)
    (f : State → Byte × Bool × State) (hf : ∀ s, (f s).2.2.kept w = s.kept w) :
    (recovery s m command payload len f).kept w = s.kept w := by
  refine control_kept _ _ _ _ _ _ fun s => ?_
  dsimp only
  repeat' split
  all_goals simp only [plain_kept, modFlt_kept, faultRecord_kept, hf]

theorem trustAnswer_kept (s : State) (m : MHdr) (op : Nat) (c : Byte) (payload : List Byte)
    (hk : w.trust = true) : (trustAnswer s m op c payload).kept w = s.kept w := by
  simp only [trustAnswer, deliver_kept, keepLong_kept, hk]

theorem trustOp_kept (s : State) (m : MHdr) (op : Nat) (allowed : Bool)
    (f : State → Option (Byte × List Byte) × State) (hk : w.trust = true)
    (hf : ∀ s, (f s).2.kept w = s.kept w) : (trustOp s m op allowed f).kept w = s.kept w := by
  unfold trustOp
  split
  · rfl
  · dsimp only
    split
    · simp only [noteAddress_kept, trustAnswer_kept, hk]
    · split
      · simp only [noteAddress_kept, trustAnswer_kept, hk]
      · have ha := hf (noteAddress s m)
        split
        next t ht => rw [ht] at ha; exact ha.trans (noteAddress_kept ..)
        next r t ht => rw [ht] at ha; rw [trustAnswer_kept _ _ _ _ _ hk]; exact ha.trans (noteAddress_kept ..)

theorem spdmAnswer_kept (s : State) (m : MHdr) (request : Nat) (ok : Bool) (payload : List Byte) :
    (spdmAnswer s m request ok payload).kept w = s.kept w := by
  simp only [spdmAnswer, deliver_kept]

/-! ### Patterns -/

theorem setStatus_kept (s : State) (c : Nat) (hl : w.loader = true) : (setStatus s c).kept w = s.kept w := by
  simp only [setStatus, modLoader_kept, hl]

theorem viaLoader_kept (s : State) (via : Via) (off : Nat) (f : State → State)
    (hf : ∀ s, (f s).kept w = s.kept w) : (viaLoader s via off f).kept w = s.kept w := by
  unfold viaLoader
  split <;> simp only [globalWrite_kept, control_kept, implies_true, hf]

theorem loadFailed_kept (s : State) (code : Nat) (at_ : Option (Nat × Nat)) (hl : w.loader = true)
    (hw : w.power = true) : (loadFailed s code at_).kept w = s.kept w := by
  simp only [loadFailed, upd_kept, modLoader_kept, portsRest_kept, setModState_kept, setCode_kept, hl, hw,
    kept_ite, ite_self, implies_true]

theorem beginLoad_kept (part : Nat) (s : State) (hl : w.loader = true) :
    (beginLoad part s).kept w = s.kept w := by
  simp only [beginLoad, setStatus_kept, modLoader_kept, hl, kept_ite, ite_self]

theorem execPatBegin_keeps (via : Via) (part : Byte) (s : State) (hl : w.loader = true) :
    keeps w s (execPatBegin via part s) := by
  simp only [execPatBegin, viaLoader_kept, beginLoad_kept, hl, keeps_next, implies_true]

theorem takeChunk_kept (s : State) (bs : List Byte) (hl : w.loader = true) (hw : w.power = true) :
    (takeChunk s bs).kept w = s.kept w := by
  simp only [takeChunk, modLoader_kept, loadFailed_kept, hl, hw, kept_ite, ite_self]

theorem drainChunks_kept (fuel : Nat) (s : State) (hl : w.loader = true) (hw : w.power = true) :
    (drainChunks fuel s).kept w = s.kept w := by
  induction fuel generalizing s with
  | zero => rfl
  | succ n ih =>
    simp only [drainChunks]
    split <;> simp only [takeChunk_kept, ih, hl, hw]

theorem chunkWrite_kept (offset length : Nat) (bytes : Option (List Byte)) (s : State) (hl : w.loader = true)
    (hw : w.power = true) : (chunkWrite offset length bytes s).kept w = s.kept w := by
  simp only [chunkWrite, setStatus_kept, loadFailed_kept, modLoader_kept, emit_kept, drainChunks_kept, hl, hw,
    kept_ite, ite_self]

theorem execPatChunk_keeps (via : Via) (offset length : BitVec 32) (bytes : List Byte) (s : State)
    (hl : w.loader = true) (hw : w.power = true) : keeps w s (execPatChunk via offset length bytes s) := by
  simp only [execPatChunk]
  repeat' split
  all_goals simp only [viaLoader_kept, chunkWrite_kept, control_kept, plain_kept, hl, hw, keeps_next,
    implies_true]

theorem execChunkDone_keeps (fetched : Option (List Byte)) (s : State) (hl : w.loader = true)
    (hw : w.power = true) : keeps w s (execChunkDone fetched s) := by
  simp only [execChunkDone]
  repeat' split
  all_goals simp only [loadFailed_kept, upd_kept, modLoader_kept, takeChunk_kept, drainChunks_kept, hl, hw,
    keeps_next, implies_true]

theorem abortLoad_kept (s : State) (hl : w.loader = true) : (abortLoad s).kept w = s.kept w := by
  simp only [abortLoad, modLoader_kept, hl, kept_ite, ite_self]

theorem execPatAbort_keeps (via : Via) (part : Byte) (s : State) (hl : w.loader = true) :
    keeps w s (execPatAbort via part s) := by
  simp only [execPatAbort, viaLoader_kept, abortLoad_kept, hl, keeps_next, implies_true]

theorem runCommit_kept (s : State) (hl : w.loader = true) (hw : w.power = true) :
    (runCommit s).kept w = s.kept w := by
  simp only [runCommit, modLoader_kept, hl, kept_ite]
  repeat' split
  all_goals simp only [modLoader_kept, loadFailed_kept, hl, hw]

theorem commitLoad_kept (s : State) (hl : w.loader = true) (hw : w.power = true) :
    (commitLoad s).kept w = s.kept w := by
  simp only [commitLoad, setStatus_kept, runCommit_kept, hl, hw, kept_ite, ite_self]

theorem execPatCommit_keeps (via : Via) (part : Byte) (s : State) (hl : w.loader = true) (hw : w.power = true) :
    keeps w s (execPatCommit via part s) := by
  simp only [execPatCommit, viaLoader_kept, commitLoad_kept, hl, hw, keeps_next, implies_true]

theorem resumeCommit_kept (s : State) (hl : w.loader = true) (hw : w.power = true) :
    (resumeCommit s).kept w = s.kept w := by
  simp only [resumeCommit, runCommit_kept, hl, hw, kept_ite, ite_self]

theorem newPart_kept (s : State) (pt : Pattern) (p : Nat) (hm : w.memory = true) :
    (newPart s pt p).kept w = s.kept w := by
  simp only [newPart, enterPatterned_kept, setPart_kept, hm]

theorem installFull_kept (s : State) (n : Pattern) (hp : w.pattern = true) (hm : w.memory = true) :
    (installFull s n).kept w = s.kept w := by
  simp only [installFull, queuesFollow_kept, installPart_kept, newPart_kept, hp, hm, kept_mk_pattern,
    foldl_kept, implies_true]

theorem zeroChannels_kept (s : State) (p hbm ddr : Nat) (hm : w.memory = true) :
    (zeroChannels s p hbm ddr).kept w = s.kept w := by
  simp only [zeroChannels, State.kept, unlessFree, hm, ↓reduceIte]

theorem releaseParts_kept (s : State) (p : Nat) (was now : Option PartPiece) (hk : w.trust = true)
    (hc : w.cores = true) (hm : w.memory = true) : (releaseParts s p was now).kept w = s.kept w := by
  simp only [releaseParts, clearBlock_kept, zeroChannels_kept, modPTrust_kept, markChannels_kept, hk, hc, hm,
    kept_ite, ite_self, foldl_kept, implies_true]

theorem installPartial_kept (s : State) (n : Pattern) (t : Nat) (hp : w.pattern = true) (hk : w.trust = true)
    (hw : w.power = true) (hc : w.cores = true) (hm : w.memory = true) :
    (installPartial s n t).kept w = s.kept w := by
  unfold installPartial
  split
  · rfl
  · dsimp only
    split
    · simp only [releaseParts_kept, removePart_kept, installPart_kept, domainsOpen_kept, newPart_kept, hp, hk,
        hw, hc, hm, kept_ite, kept_mk_pattern, ite_self]
    · simp only [releaseParts_kept, removePart_kept, installPart_kept, domainsOpen_kept, modPart_kept,
        queuesFollow_kept, startScrub_kept, enterPatterned_kept, hp, hk, hw, hc, hm, kept_ite,
        kept_mk_pattern, ite_self]

theorem committedStatus_kept (s : State) (hl : w.loader = true) : (committedStatus s).kept w = s.kept w := by
  simp only [committedStatus, upd_kept, modLoader_kept, hl, implies_true]

theorem execCommitFlashDone_keeps (ok : Bool) (s : State) (hr : w.Resets) :
    keeps w s (execCommitFlashDone ok s) := by
  unfold execCommitFlashDone
  split <;> simp only [modLoader_kept, loadFailed_kept, portsRest_kept, setModState_kept,
    committedStatus_kept, installFull_kept, installPartial_kept, hr.pattern, hr.loader, hr.trust, hr.power,
    hr.cores, hr.memory, keeps_ite, keeps_next, ite_self]

theorem confirmLoad_kept (part : Nat) (s : State) (hl : w.loader = true) :
    (confirmLoad part s).kept w = s.kept w := by
  simp only [confirmLoad, setStatus_kept, modLoader_kept, hl, kept_ite, ite_self]

theorem execPatConfirm_keeps (via : Via) (part : Byte) (arg : Word) (s : State) (hl : w.loader = true) :
    keeps w s (execPatConfirm via part arg s) := by
  unfold execPatConfirm
  split <;> simp only [viaLoader_kept, confirmLoad_kept, modLoader_kept, hl, keeps_next, implies_true]

theorem confirmFull_kept (s : State) (hl : w.loader = true) (hk : w.trust = true) :
    (confirmFull s).kept w = s.kept w := by
  unfold confirmFull
  split <;> simp only [modLoader_kept, modTrust_kept, hl, hk]

theorem confirmPartial_kept (s : State) (p : Nat) (image : Kept) (hl : w.loader = true) :
    (confirmPartial s p image).kept w = s.kept w := by
  unfold confirmPartial
  split <;> simp only [modLoader_kept, hl]

theorem confirmDone_kept (s : State) (hl : w.loader = true) (hk : w.trust = true) :
    (confirmDone s).kept w = s.kept w := by
  simp only [confirmDone]
  repeat' split
  all_goals simp only [modLoader_kept, confirmFull_kept, confirmPartial_kept, hl, hk]

theorem execConfirmRecordDone_keeps (ok : Bool) (s : State) (hl : w.loader = true) (hk : w.trust = true) :
    keeps w s (execConfirmRecordDone ok s) := by
  simp only [execConfirmRecordDone, confirmDone_kept, modLoader_kept, hl, hk, kept_ite, keeps_next, ite_self]

theorem execConfirmExpired_keeps (part : Byte) (s : State) (hl : w.loader = true) :
    keeps w s (execConfirmExpired part s) := by
  simp only [execConfirmExpired]
  split <;> simp only [upd_kept, modLoader_kept, hl, keeps_ite, keeps_next, ite_self, implies_true]

theorem startWindow_kept (s : State) (part : Nat) (hl : w.loader = true) :
    (startWindow s part).kept w = s.kept w := by
  simp only [startWindow, modLoader_kept, hl]

theorem openLoad_kept (part : Nat) (s : State) (hl : w.loader = true) (hk : w.trust = true)
    (hw : w.power = true) (hc : w.cores = true) (hm : w.memory = true) :
    (openLoad part s).kept w = s.kept w := by
  simp only [openLoad, openModule_kept, startWindow_kept, setStatus_kept, openPart_kept, hl, hk, hw, hc, hm,
    kept_ite, ite_self]

theorem execPatOpen_keeps (via : Via) (part : Byte) (s : State) (hl : w.loader = true) (hk : w.trust = true)
    (hw : w.power = true) (hc : w.cores = true) (hm : w.memory = true) :
    keeps w s (execPatOpen via part s) := by
  simp only [execPatOpen, viaLoader_kept, openLoad_kept, hl, hk, hw, hc, hm, keeps_next, implies_true]

theorem stopLoad_kept (part : Nat) (s : State) (hl : w.loader = true) :
    (stopLoad part s).kept w = s.kept w := by
  simp only [stopLoad, modPart_kept, setStatus_kept, hl, kept_ite, ite_self]

theorem execPatStop_keeps (via : Via) (part : Byte) (s : State) (hl : w.loader = true) :
    keeps w s (execPatStop via part s) := by
  simp only [execPatStop, viaLoader_kept, stopLoad_kept, hl, keeps_next, implies_true]

theorem forgetHanded_kept (s : State) (p : Nat) (l : Live) : (forgetHanded s p l).kept w = s.kept w := by
  simp only [forgetHanded, dropLive_kept, cancelsEnd_kept]

theorem endLives_kept (s : State) (p : Nat) : (endLives s p).kept w = s.kept w := by
  simp only [endLives, modHold_kept, forgetHanded_kept, endNow_kept, kept_ite, ite_self, foldl_kept,
    implies_true]

theorem execStopDrain_keeps (p : Part) (s : State) (hm : w.memory = true) :
    keeps w s (execStopDrain p s) := by
  simp only [execStopDrain, enterPatterned_kept, endLives_kept, flushLanes_kept, hm, keeps_ite, keeps_next,
    ite_self]

theorem finishFlash_kept (s : State) (hl : w.loader = true) (hk : w.trust = true) :
    (finishFlash s).kept w = s.kept w := by
  simp only [finishFlash]
  split <;> simp only [confirmDone_kept, modLoader_kept, hl, hk, kept_ite, ite_self]

theorem restorePartial_kept (s : State) (t : Nat) (k : Kept) (hp : w.pattern = true) (hk : w.trust = true)
    (hw : w.power = true) (hc : w.cores = true) (hm : w.memory = true) :
    (restorePartial s t k).kept w = s.kept w := by
  unfold restorePartial
  split <;> simp only [installPartial_kept, setCode_kept, hp, hk, hw, hc, hm, kept_ite, ite_self]

theorem restoreFrom_kept (l : List Bool) (older : Bool) (code : Nat) (s : State) (hr : w.Resets) :
    (restoreFrom l older code s).kept w = s.kept w := by
  induction l generalizing older code s with
  | nil => simp only [restoreFrom, portsRest_kept, setModState_kept, setStatus_kept, hr.loader, hr.power]
  | cons b r ih =>
    unfold restoreFrom
    split
    · exact ih ..
    · split
      · simp only [modLoader_kept, ih, hr.loader]
      · simp only [modLoader_kept, upd_kept, installFull_kept, openModule_kept, portsRest_kept,
          restorePartial_kept, setModState_kept, hr.pattern, hr.loader, hr.trust, hr.power, hr.cores,
          hr.memory, kept_ite, ite_self, foldl_kept, implies_true]

theorem restore_kept (s : State) (hr : w.Resets) : (restore s).kept w = s.kept w := by
  unfold restore
  split <;> simp only [restoreFrom_kept, hr]

/-! ### Recovery -/

theorem enterCut_kept (s : State) (cause : Nat) (hw : w.power = true) (hm : w.memory = true) :
    (enterCut s cause).kept w = s.kept w := by
  simp only [enterCut, modPow_kept, modPTrust_kept, setCode_kept, zeroBenches_kept, modMgmt_kept, modFlt_kept,
    portsRest_kept, trayUpdate_kept, setPortB_kept, setModState_kept, faultRecord_kept, hw, hm, kept_ite,
    kept_mk_memory, ite_self, foldl_kept, implies_true]

theorem execCutEntry_keeps (coolantLowUs junction : Nat) (s : State) (hw : w.power = true)
    (hm : w.memory = true) : keeps w s (execCutEntry coolantLowUs junction s) := by
  simp only [execCutEntry, enterCut_kept, hw, hm, keeps_ite, keeps_next, keeps_fault, ite_self]

theorem scrubBroken_kept (s : State) (p : Nat) : (scrubBroken s p).kept w = s.kept w := by
  simp only [scrubBroken, modPTrust_kept, kept_ite, ite_self]

theorem leaveCut_kept (s : State) (hr : w.Resets) : (leaveCut s).kept w = s.kept w := by
  simp only [leaveCut, modPow_kept, flushLanes_kept, noteStep_kept, killWork_kept, killPackets_kept,
    trayUpdate_kept, fencedEntry_kept, setCode_kept, scrubBroken_kept, portsRest_kept, setModState_kept,
    restore_kept, enterPatterned_kept, hr, hr.power, hr.memory, kept_ite, ite_self, foldl_kept, implies_true]

theorem coolSeen_kept (highUs junction : Nat) (s : State) (hw : w.power = true) :
    (coolSeen highUs junction s).kept w = s.kept w := by
  simp only [coolSeen, modPow_kept, hw]

theorem cutPut_kept (value : Word) (s : State) (hr : w.Resets) : (cutPut value s).kept w = s.kept w := by
  simp only [cutPut, leaveCut_kept, modPow_kept, hr, hr.power, kept_ite, ite_self]

theorem execResume_keeps (src : Src) (value : Word) (coolantHighUs junction : Nat) (s : State) (hr : w.Resets) :
    keeps w s (execResume src value coolantHighUs junction s) := by
  simp only [execResume, coolSeen_kept, globalWrite_kept, cutPut_kept, hr, hr.power, keeps_next, implies_true]

theorem unitRecord_kept (s : State) (cls : Nat) (u : HealthUnit) (by_ : Nat) :
    (unitRecord s cls u by_).kept w = s.kept w := by
  simp only [unitRecord, faultRecord_kept]

theorem retireUnit_kept (s : State) (u : HealthUnit) : (retireUnit s u).kept w = s.kept w := by
  simp only [retireUnit, upd_kept, modFlt_kept, implies_true]

theorem doubtState_kept (s : State) : (doubtState s).kept w = s.kept w := by
  simp only [doubtState, setModState_kept, enumerateAtOpen_kept, kept_ite, ite_self]

theorem noteAccess_kept (s : State) (key : Nat) (still : Bool) :
    (noteAccess s key still).kept w = s.kept w := by
  simp only [noteAccess, modFlt_kept]

theorem noteStall_kept (s : State) (u : HealthUnit) (still : Bool) :
    (noteStall s u still).kept w = s.kept w := by
  unfold noteStall
  split <;> simp only [setBlock_kept, noteAccess_kept]

theorem execDoubtCheck_keeps (unit : HealthUnit) (mgmtFaulty dataFaulty : Bool) (s : State) :
    keeps w s (execDoubtCheck unit mgmtFaulty dataFaulty s) := by
  simp only [execDoubtCheck, noteStall_kept, doubtState_kept, unitRecord_kept, retireUnit_kept, upd_kept,
    modFlt_kept, kept_ite, keeps_ite, keeps_next, ite_self, implies_true]

theorem execDoubtRelease_keeps (m : MHdr) (unitKind action : Byte) (unit : BitVec 16) (s : State) :
    keeps w s (execDoubtRelease m unitKind action unit s) := by
  refine (keeps_next ..).2 (recovery_kept _ _ _ _ _ _ fun s => ?_)
  split
  · rfl
  · split
    · simp only [doubtState_kept, upd_kept, modFlt_kept, implies_true]
    · split <;> simp only [doubtState_kept, retireUnit_kept]

theorem faultControlPut_kept (p : Nat) (value : Word) (s : State) :
    (faultControlPut p value s).kept w = s.kept w := by
  simp only [faultControlPut, modPFault_kept, startQuiesce_kept, kept_ite, ite_self]

theorem execQuiesce_keeps (src : Src) (p : Part) (value : Word) (s : State) :
    keeps w s (execQuiesce src p value s) := by
  simp only [execQuiesce, partWrite_kept, faultControlPut_kept, keeps_next, implies_true]

theorem replayStep_kept (s : State) (p : Nat) : (replayStep s p).kept w = s.kept w := by
  unfold replayStep
  split <;> simp only [modHold_kept, runStreams_kept, modLive_kept, kept_ite, ite_self, foldl_kept,
    implies_true]

theorem execQuiesced_keeps (p : Part) (s : State) (hm : w.memory = true) : keeps w s (execQuiesced p s) := by
  simp only [execQuiesced, modPFault_kept, holderOn_kept, replayStep_kept, modPMem_kept, hm, keeps_ite,
    keeps_next, ite_self]

theorem execLeaseExpire_keeps (s : State) (hw : w.power = true) (hm : w.memory = true) :
    keeps w s (execLeaseExpire s) := by
  simp only [execLeaseExpire, fencedEntry_kept, hw, hm, kept_ite, keeps_next, ite_self]

theorem execLeaseRenew_keeps (m : MHdr) (s : State) : keeps w s (execLeaseRenew m s) := by
  refine (keeps_next ..).2 (control_kept _ _ _ _ _ _ fun s => ?_)
  split <;> simp only [plain_kept, restartLease_kept, kept_ite, ite_self]

theorem execFence_keeps (m : MHdr) (s : State) (hw : w.power = true) (hm : w.memory = true) :
    keeps w s (execFence m s) := by
  refine (keeps_next ..).2 (recovery_kept _ _ _ _ _ _ fun s => ?_)
  repeat' split
  all_goals simp only [modFlt_kept, fencedEntry_kept, hw, hm]

theorem graceOut_kept (s : State) (hr : w.Resets) : (graceOut s).kept w = s.kept w := by
  simp only [graceOut, modFlt_kept, moduleReset_kept, fenceRecord_kept, finishFlash_kept, hr, hr.loader,
    hr.trust, implies_true]

theorem execGraceExpire_keeps (s : State) (hr : w.Resets) : keeps w s (execGraceExpire s) := by
  unfold execGraceExpire
  split <;> simp only [graceOut_kept, hr, keeps_ite, keeps_next, ite_self]

theorem execSelftestDone_keeps (failed : List HealthUnit) (s : State) (hr : w.Resets) :
    keeps w s (execSelftestDone failed s) := by
  simp only [execSelftestDone, zeroBenches_kept, unitRecord_kept, retireUnit_kept, modFlt_kept,
    fenceRecord_kept, graceOut_kept, hr, hr.memory, kept_ite, keeps_ite, keeps_next, ite_self, foldl_kept,
    implies_true]

theorem replayStopped_kept (s : State) (p : Nat) : (replayStopped s p).kept w = s.kept w := by
  unfold replayStopped
  split <;> simp only [stepFails_kept, kept_ite, ite_self]

theorem reinstateNow_kept (s : State) (device : Nat) (hw : w.power = true) :
    (reinstateNow s device).kept w = s.kept w := by
  simp only [reinstateNow, modFab_kept, modFlt_kept, setCode_kept, portsRest_kept, setModState_kept,
    replayStopped_kept, restartLease_kept, enterOpenState_kept, hw, kept_ite, ite_self, foldl_kept,
    implies_true]

theorem execReinstate_keeps (m : MHdr) (device : Nat) (boot : BitVec 32) (s : State) (hw : w.power = true) :
    keeps w s (execReinstate m device boot s) := by
  refine (keeps_next ..).2 (recovery_kept _ _ _ _ _ _ fun s => ?_)
  repeat' split
  all_goals simp only [reinstateNow_kept, hw]

theorem execStandIn_keeps (m : MHdr) (device : Nat) (s : State) (hr : w.Resets) :
    keeps w s (execStandIn m device s) := by
  refine (keeps_next ..).2 (recovery_kept _ _ _ _ _ _ fun s => ?_)
  dsimp only
  repeat' split
  all_goals simp only [moduleReset_kept, finishFlash_kept, modFlt_kept, hr, hr.loader, hr.trust, implies_true]

theorem tearPart_kept (s : State) (p : Nat) (hm : w.memory = true) : (tearPart s p).kept w = s.kept w := by
  simp only [tearPart, killWork_kept, awlFlushAll_kept, attnFlushAll_kept, killSome_kept, modHold_kept,
    endEarly_kept, endWith_kept, hm, kept_ite, ite_self, foldl_kept, implies_true]

theorem execTeardown_keeps (m : MHdr) (comp : Nat) (s : State) (hm : w.memory = true) :
    keeps w s (execTeardown m comp s) := by
  refine (keeps_next ..).2 (recovery_kept _ _ _ _ _ _ fun s => ?_)
  dsimp only
  split <;> simp only [dissolve_kept, tearPart_kept, holdersLeave_kept, hm, foldl_kept, implies_true]

/-! ### Trust -/

theorem putKey_kept (s : State) (n : Nat) (key : List Byte) (hk : w.trust = true) :
    (putKey s n key).kept w = s.kept w := by
  simp only [putKey, modTrust_kept, hk]

theorem execSlotWrite_keeps (m : MHdr) (slot : Nat) (counter : Word) (key signature : List Byte) (s : State)
    (hk : w.trust = true) : keeps w s (execSlotWrite m slot counter key signature s) := by
  refine (keeps_next ..).2 (trustOp_kept _ _ _ _ _ hk fun s => ?_)
  repeat' split
  all_goals simp only [putKey_kept, modTrust_kept, hk]

theorem execPolicySet_keeps (m : MHdr) (counter value : Word) (signature : List Byte) (s : State)
    (hk : w.trust = true) : keeps w s (execPolicySet m counter value signature s) := by
  refine (keeps_next ..).2 (trustOp_kept _ _ _ _ _ hk fun s => ?_)
  split <;> simp only [modTrust_kept, hk]

theorem finishReclaim_kept (s : State) (m : MHdr) (hr : w.Resets) :
    (finishReclaim s m).kept w = s.kept w := by
  simp only [finishReclaim, modTrust_kept, modLoader_kept, trustAnswer_kept, moduleReset_kept,
    finishFlash_kept, hr, hr.loader, hr.trust, implies_true]

theorem reclaimNext_kept (s : State) (hr : w.Resets) : (reclaimNext s).kept w = s.kept w := by
  unfold reclaimNext
  split <;> simp only [finishReclaim_kept, hr, kept_ite, ite_self]

theorem execReclaim_keeps (m : MHdr) (s : State) (hr : w.Resets) : keeps w s (execReclaim m s) := by
  refine (keeps_next ..).2 (trustOp_kept _ _ _ _ _ hr.trust fun s => ?_)
  dsimp only
  split <;> simp only [startScrub_kept, reclaimNext_kept, modTrust_kept, hr, hr.trust, hr.cores, hr.memory,
    foldl_kept, implies_true]

theorem execScrubDone_keeps (p : Part) (s : State) (hr : w.Resets) : keeps w s (execScrubDone p s) := by
  simp only [execScrubDone, finishFreed_kept, resumeCommit_kept, finishScrub_kept, openPart_kept,
    reclaimNext_kept, hr, hr.loader, hr.trust, hr.power, hr.cores, hr.memory, kept_ite, keeps_ite, keeps_next,
    ite_self]

theorem fwWrite_kept (s : State) (kind copy off : Nat) (bs : List Byte) (hk : w.trust = true) :
    (fwWrite s kind copy off bs).kept w = s.kept w := by
  simp only [fwWrite, modTrust_kept, hk]

theorem execFwStage_keeps (m : MHdr) (kind offset : Nat) (bytes : List Byte) (s : State) (hk : w.trust = true) :
    keeps w s (execFwStage m kind offset bytes s) := by
  unfold execFwStage
  split <;> simp only [trustOp_kept, fwWrite_kept, hk, keeps_next, implies_true]

theorem execBind_keeps (m : MHdr) (record signature : List Byte) (s : State) (hk : w.trust = true) :
    keeps w s (execBind m record signature s) := by
  refine (keeps_next ..).2 (trustOp_kept _ _ _ _ _ hk fun s => ?_)
  dsimp only
  repeat' split
  all_goals simp only [modTrust_kept, hk]

theorem execVerifyWeights_keeps (m : MHdr) (part model : Byte) (s : State) (hk : w.trust = true) :
    keeps w s (execVerifyWeights m part model s) := by
  refine (keeps_next ..).2 (trustOp_kept _ _ _ _ _ hk fun s => ?_)
  dsimp only
  repeat' split
  all_goals simp only [modTrust_kept, hk]

theorem verifyResult_kept (s : State) (p model : Nat) (hm : w.memory = true) :
    (verifyResult s p model).2.2.kept w = s.kept w := by
  simp only [verifyResult]
  repeat' split
  all_goals simp only [draw_kept, homeRead_kept, hm]

theorem execVerifyWeightsDone_keeps (p : Part) (model : Byte) (s : State) (hk : w.trust = true)
    (hm : w.memory = true) : keeps w s (execVerifyWeightsDone p model s) := by
  simp only [execVerifyWeightsDone]
  split <;> simp only [modTrust_kept, trustAnswer_kept, verifyResult_kept, modPTrust_kept, hk, hm, kept_ite,
    keeps_ite, keeps_next, ite_self]

theorem onPart_kept (s : State) (p : Nat) (f : State → Option (Byte × List Byte) × State)
    (hf : ∀ s, (f s).2.kept w = s.kept w) : (onPart s p f).2.kept w = s.kept w := by
  simp only [onPart]
  repeat' split
  all_goals simp only [hf]

theorem execKeyRotate_keeps (m : MHdr) (part : Byte) (s : State) (hk : w.trust = true) :
    keeps w s (execKeyRotate m part s) := by
  refine (keeps_next ..).2 (trustOp_kept _ _ _ _ _ hk fun s => onPart_kept _ _ _ fun s => ?_)
  dsimp only
  split <;> simp only [setTrust_kept, draw_kept]

theorem execSweepPageDone_keeps (p : Part) (page : Nat) (read : SweepRead) (s : State) (hm : w.memory = true) :
    keeps w s (execSweepPageDone p page read s) := by
  simp only [execSweepPageDone, setTrust_kept, settlePart_kept, badWordFaults_kept, eccMet_kept, hm, kept_ite,
    keeps_ite, keeps_next, ite_self]

theorem execKeyRetire_keeps (m : MHdr) (part : Byte) (force : Bool) (s : State) (hk : w.trust = true) :
    keeps w s (execKeyRetire m part force s) := by
  refine (keeps_next ..).2 (trustOp_kept _ _ _ _ _ hk fun s => onPart_kept _ _ _ fun s => ?_)
  dsimp only
  split <;> simp only [setTrust_kept]

theorem execGenerationRetired_keeps (p : Part) (s : State) : keeps w s (execGenerationRetired p s) := by
  simp only [execGenerationRetired, setTrust_kept, keeps_ite, keeps_next, ite_self]

theorem queueSignature_kept {s : State} {j : SigJob} (hk : w.trust = true) {r : State}
    (ho : queueSignature s j = some r) : r.kept w = s.kept w := by
  unfold queueSignature at ho
  split at ho
  · rw [← Option.some.inj ho, modTrust_kept _ _ hk]
  · cases ho

theorem execReport_keeps (m : MHdr) (scope : Byte) (nonce : List Byte) (s : State) (hk : w.trust = true) :
    keeps w s (execReport m scope nonce s) := by
  refine (keeps_next ..).2 (trustOp_kept _ _ _ _ _ hk fun s => ?_)
  split
  · rfl
  · split
    next t ht => exact queueSignature_kept hk ht
    · exact spdmAnswer_kept ..

theorem execEndorsement_keeps (m : MHdr) (s : State) (hk : w.trust = true) :
    keeps w s (execEndorsement m s) := by
  simp only [execEndorsement, trustOp_kept, hk, keeps_next, implies_true]

theorem signed_kept (sampled s : State) (j : SigJob) (signature : Option (List Byte)) (hk : w.trust = true) :
    (signed sampled s j signature).kept w = s.kept w := by
  unfold signed
  split <;> simp only [trustAnswer_kept, spdmAnswer_kept, modTrust_kept, hk, kept_ite, ite_self]

theorem execSignatureDone_keeps (flashOk : Bool) (s : State) (hk : w.trust = true) :
    keeps w s (execSignatureDone flashOk s) := by
  unfold execSignatureDone
  split <;> simp only [modTrust_kept, signed_kept, draw_kept, hk, keeps_ite, keeps_next, ite_self]

theorem spdm_kept (s : State) (m : MHdr) (f : State → State) (hf : ∀ s, (f s).kept w = s.kept w) :
    (spdm s m f).kept w = s.kept w := by
  simp only [spdm, noteAddress_kept, kept_ite, ite_self, hf]

theorem execGetVersion_keeps (m : MHdr) (s : State) : keeps w s (execGetVersion m s) := by
  simp only [execGetVersion, spdm_kept, spdmAnswer_kept, keeps_next, implies_true]

theorem execGetCapabilities_keeps (m : MHdr) (s : State) : keeps w s (execGetCapabilities m s) := by
  simp only [execGetCapabilities, spdm_kept, spdmAnswer_kept, draw_kept, keeps_next, implies_true]

theorem execNegotiateAlgorithms_keeps (m : MHdr) (s : State) : keeps w s (execNegotiateAlgorithms m s) := by
  simp only [execNegotiateAlgorithms, spdm_kept, spdmAnswer_kept, draw_kept, keeps_next, implies_true]

theorem execChallenge_keeps (m : MHdr) (nonce : List Byte) (s : State) (hk : w.trust = true) :
    keeps w s (execChallenge m nonce s) := by
  refine (keeps_next ..).2 (spdm_kept _ _ _ fun s => ?_)
  split
  next t ht => exact queueSignature_kept hk ht
  · exact spdmAnswer_kept ..

theorem execKeyExchange_keeps (m : MHdr) (requesterKey signature : List Byte) (s : State)
    (hk : w.trust = true) : keeps w s (execKeyExchange m requesterKey signature s) := by
  refine (keeps_next ..).2 (spdm_kept _ _ _ fun s => ?_)
  dsimp only
  split
  · simp only [draw_kept, spdmAnswer_kept]
  · split
    · simp only [draw_kept, spdmAnswer_kept]
    · split
      next t ht => rw [queueSignature_kept hk ht, draw_kept]
      · simp only [draw_kept, spdmAnswer_kept]

theorem withinSession_kept (s : State) (m : MHdr) (request : Nat) (f : SpdmSession → State → State)
    (hf : ∀ x s, (f x s).kept w = s.kept w) : (withinSession s m request f).kept w = s.kept w := by
  refine spdm_kept _ _ _ fun s => ?_
  split <;> simp only [spdmAnswer_kept, hf]

theorem execHeartbeat_keeps (m : MHdr) (s : State) : keeps w s (execHeartbeat m s) := by
  simp only [execHeartbeat, withinSession_kept, keeps_next, implies_true]

theorem execKeyUpdate_keeps (m : MHdr) (s : State) (hk : w.trust = true) : keeps w s (execKeyUpdate m s) := by
  simp only [execKeyUpdate, withinSession_kept, modTrust_kept, hk, keeps_next, implies_true]

theorem execEndSession_keeps (m : MHdr) (s : State) (hk : w.trust = true) :
    keeps w s (execEndSession m s) := by
  simp only [execEndSession, withinSession_kept, modTrust_kept, modMgmt_kept, hk, keeps_next, implies_true]

theorem after_kept (s : State) (o : Out) (hf : keeps w s o) : (after s o).kept w = s.kept w := by
  unfold after
  split
  · exact hf _ rfl
  · rfl

theorem trustRun_kept (m : MHdr) (vendor : List Byte) (s : State) (hr : w.Resets) :
    (trustRun m vendor s).kept w = s.kept w := by
  simp only [trustRun, after_kept, execReport_keeps, execEndorsement_keeps, execSlotWrite_keeps,
    execPolicySet_keeps, execReclaim_keeps, execFwStage_keeps, execBind_keeps, execVerifyWeights_keeps,
    execKeyRotate_keeps, execKeyRetire_keeps, trustOp_kept, hr, hr.trust, kept_ite, ite_self, implies_true]

theorem execChunkSend_keeps (m : MHdr) (handle chunk : Nat) (last : Bool) (bytes : List Byte) (s : State)
    (hr : w.Resets) : keeps w s (execChunkSend m handle chunk last bytes s) := by
  simp only [execChunkSend, spdm_kept, spdmAnswer_kept, modTrust_kept, trustRun_kept, hr, hr.trust, kept_ite,
    keeps_next, ite_self, implies_true]

theorem execChunkGet_keeps (m : MHdr) (handle chunk : Nat) (s : State) (hk : w.trust = true) :
    keeps w s (execChunkGet m handle chunk s) := by
  refine (keeps_next ..).2 (spdm_kept _ _ _ fun s => ?_)
  split <;> simp only [spdmAnswer_kept, modTrust_kept, hk, kept_ite, ite_self]

theorem execDbgChallenge_keeps (s : State) (hk : w.trust = true) : keeps w s (execDbgChallenge s) := by
  simp only [execDbgChallenge, draw_kept, emit_kept, modTrust_kept, hk, keeps_ite, keeps_next, ite_self]

theorem debugRecord_kept (s : State) (p : Nat) (r : DebugRec) : (debugRecord s p r).kept w = s.kept w := by
  simp only [debugRecord, modPTrust_kept]

theorem execDbgToken_keeps (token signature : List Byte) (s : State) (hk : w.trust = true) :
    keeps w s (execDbgToken token signature s) := by
  simp only [execDbgToken, emit_kept, modTrust_kept, debugRecord_kept, hk, keeps_ite, keeps_next, ite_self,
    foldl_kept, implies_true]

theorem execDbgLock_keeps (s : State) (hk : w.trust = true) : keeps w s (execDbgLock s) := by
  simp only [execDbgLock, emit_kept, modTrust_kept, hk, keeps_ite, keeps_next, kept_mk, ite_self]

/-! ### Register writes -/

theorem modResetPut_kept (value : Word) (s : State) (hr : w.Resets) :
    (modResetPut value s).kept w = s.kept w := by
  simp only [modResetPut, moduleReset_kept, finishFlash_kept, hr, hr.loader, hr.trust, kept_ite, ite_self,
    implies_true]

theorem execModReset_keeps (src : Src) (value : Word) (s : State) (hr : w.Resets) :
    keeps w s (execModReset src value s) := by
  simp only [execModReset, globalWrite_kept, modResetPut_kept, hr, keeps_next, implies_true]

theorem intEnablePut_kept (value : Word) (s : State) : (intEnablePut value s).kept w = s.kept w := by
  simp only [intEnablePut, raiseSources_kept, modRegs_kept]

theorem execIntEnableWrite_keeps (src : Src) (value : Word) (s : State) :
    keeps w s (execIntEnableWrite src value s) := by
  simp only [execIntEnableWrite, globalWrite_kept, intEnablePut_kept, keeps_next, implies_true]

theorem putGlobal_kept (off : Nat) (value : Word) (s : State) (hr : w.Resets) :
    (putGlobal off value s).kept w = s.kept w := by
  simp only [putGlobal, modResetPut_kept, modRegs_kept, intEnablePut_kept, hr, kept_ite, ite_self]

theorem commandPut_kept (cmd part : Nat) (s : State) (hl : w.loader = true) (hk : w.trust = true)
    (hw : w.power = true) (hc : w.cores = true) (hm : w.memory = true) :
    (commandPut cmd part s).kept w = s.kept w := by
  simp only [commandPut, beginLoad_kept, commitLoad_kept, confirmLoad_kept, abortLoad_kept, openLoad_kept,
    stopLoad_kept, hl, hk, hw, hc, hm, kept_ite, ite_self]

theorem putLoader_kept (off : Nat) (value : Word) (s : State) (hl : w.loader = true) (hk : w.trust = true)
    (hw : w.power = true) (hc : w.cores = true) (hm : w.memory = true) :
    (putLoader off value s).kept w = s.kept w := by
  simp only [putLoader, commandPut_kept, modLoader_kept, chunkWrite_kept, hl, hk, hw, hc, hm, kept_ite,
    ite_self]

theorem putPower_kept (off : Nat) (value : Word) (s : State) (hr : w.Resets) :
    (putPower off value s).kept w = s.kept w := by
  simp only [putPower, modPow_kept, noteCauses_kept, cutPut_kept, hr, hr.power, kept_ite, ite_self]

theorem sendPut_kept (value : Word) (s : State) : (sendPut value s).kept w = s.kept w := by
  simp only [sendPut, modMgmt_kept, kept_ite, ite_self]

theorem rescanPut_kept (value : Word) (s : State) : (rescanPut value s).kept w = s.kept w := by
  simp only [rescanPut, modMgmt_kept, kept_ite, ite_self]

theorem putPerger_kept (off : Nat) (value : Word) (s : State) :
    (putPerger off value s).kept w = s.kept w := by
  simp only [putPerger, sendPut_kept, rescanPut_kept, kept_ite]
  repeat' split
  all_goals simp only [modMgmt_kept]

theorem putFaults_kept (off : Nat) (value : Word) (s : State) :
    (putFaults off value s).kept w = s.kept w := by
  simp only [putFaults, modFlt_kept, kept_ite, ite_self]

theorem putPort_kept (p off : Nat) (value : Word) (s : State) :
    (putPort p off value s).kept w = s.kept w := by
  simp only [putPort, setPort_kept, fpControl_kept, fpCredits_kept, kept_ite, ite_self]

theorem putRouting_kept (off : Nat) (value : Word) (s : State) (hm : w.memory = true) :
    (putRouting off value s).kept w = s.kept w := by
  simp only [putRouting, routePut_kept, devicePut_kept, bankPut_kept, currentPut_kept, modFab_kept,
    clearPut_kept, hm, kept_ite, ite_self]

theorem putMemory_kept (off : Nat) (value : Word) (s : State) :
    (putMemory off value s).kept w = s.kept w := by
  simp only [putMemory, modRegs_kept, kept_ite, ite_self]

theorem putToll_kept (n off : Nat) (value : Word) (s : State) :
    (putToll n off value s).kept w = s.kept w := by
  simp only [putToll, setToll_kept, kept_ite, ite_self]

theorem putQuantum_kept (r q : Nat) (value : Word) (s : State) :
    (putQuantum r q value s).kept w = s.kept w := by
  simp only [putQuantum, setRoundabout_kept, kept_ite, ite_self]

theorem putRaControl_kept (r : Nat) (value : Word) (s : State) :
    (putRaControl r value s).kept w = s.kept w := by
  simp only [putRaControl, setRoundabout_kept]

theorem putSchedulers_kept (src : Src) (off : Nat) (value : Word) (s : State) :
    (putSchedulers src off value s).kept w = s.kept w := by
  unfold putSchedulers
  split <;> simp only [guarded_kept, putToll_kept, putQuantum_kept, putRaControl_kept, setCrossing_kept,
    notOwned_kept, kept_ite, ite_self, implies_true]

theorem putLane_kept (p n off : Nat) (value : Word) (s : State) :
    (putLane p n off value s).kept w = s.kept w := by
  simp only [putLane, setLane_kept, laneControl_kept, kept_ite, ite_self]

theorem putCtrRegs_kept (p off : Nat) (value : Word) (s : State) :
    (putCtrRegs p off value s).kept w = s.kept w := by
  simp only [putCtrRegs, modPart_kept, kept_ite]
  repeat' split
  all_goals simp only [modPart_kept]

theorem putHandoff_kept (p off : Nat) (value : Word) (s : State) :
    (putHandoff p off value s).kept w = s.kept w := by
  simp only [putHandoff, modPLast_kept]

theorem putService_kept (p off : Nat) (value : Word) (s : State) :
    (putService p off value s).kept w = s.kept w := by
  simp only [putService, modPLast_kept, modHold_kept, kept_ite, ite_self]

theorem putAdmission_kept (p off : Nat) (value : Word) (s : State) :
    (putAdmission p off value s).kept w = s.kept w := by
  simp only [putAdmission, modHold_kept]

theorem putPartMemory_kept (p off : Nat) (value : Word) (s : State) :
    (putPartMemory p off value s).kept w = s.kept w := by
  simp only [putPartMemory, modPMem_kept, kept_ite]
  repeat' split
  all_goals simp only [writeMap_kept]

theorem putTransport_kept (p off : Nat) (value : Word) (s : State) :
    (putTransport p off value s).kept w = s.kept w := by
  simp only [putTransport, modXt_kept]

theorem putPartition_kept (p off : Nat) (value : Word) (s : State) :
    (putPartition p off value s).kept w = s.kept w := by
  unfold putPartition
  split <;> simp only [putLane_kept, putCtrRegs_kept, modPFault_kept, faultControlPut_kept, putHandoff_kept,
    putService_kept, putAdmission_kept, putPartMemory_kept, putTransport_kept, modPart_kept, modPTrust_kept,
    modPPower_kept, kept_ite, ite_self]

theorem writePartition_kept (src : Src) (p : Part) (off : Nat) (value : Word) (s : State)
    (hm : w.memory = true) : (writePartition src p off value s).kept w = s.kept w := by
  simp only [writePartition, after_kept, execCtrValueWrite_keeps, execCtrAddWrite_keeps,
    execMigTailWrite_keeps, kept_ite]
  repeat' split
  all_goals simp only [partWrite_kept, notOwned_kept, putPartition_kept, after_kept, execEnable_keeps,
    execEpDisable_keeps, execEpFlush_keeps, execCtrWaitArm_keeps, execCancelSubmit_keeps,
    execSrqTailWrite_keeps, hm, kept_ite, ite_self, implies_true]

theorem putAttn_kept (b off : Nat) (value : Word) (s : State) :
    (putAttn b off value s).kept w = s.kept w := by
  simp only [putAttn, setAttn_kept, kept_ite, ite_self]

theorem putBlock_kept (b off : Nat) (value : Word) (s : State) :
    (putBlock b off value s).kept w = s.kept w := by
  simp only [putBlock, setEng_kept, putAttn_kept, kept_ite]
  repeat' split
  all_goals simp only [setAwl_kept]

theorem writeBlock_kept (src : Src) (b : Blk) (off : Nat) (value : Word) (s : State) (hc : w.cores = true)
    (hm : w.memory = true) : (writeBlock src b off value s).kept w = s.kept w := by
  simp only [writeBlock, after_kept, execEngLaunch_keeps, execEngStop_keeps, execAttnTailWrite_keeps,
    execAttnFlush_keeps, execBlkHintWrite_keeps, execBlkPeerDelayWrite_keeps, hc, hm, kept_ite]
  repeat' split
  all_goals simp only [blockWrite_kept, putBlock_kept, after_kept, execAwlRingWrite_keeps,
    execAwlTailWrite_keeps, execAwlFlush_keeps, hc, implies_true]

theorem registerPut_kept (s : State) (src : Src) (off : Nat) (value : Word) (hr : w.Resets) :
    (registerPut s src off value).kept w = s.kept w := by
  simp only [registerPut, globalWrite_kept, putGlobal_kept, putLoader_kept, putPower_kept, putPerger_kept,
    putFaults_kept, putPort_kept, putRouting_kept, putMemory_kept, putSchedulers_kept, writePartition_kept,
    writeBlock_kept, notOwned_kept, hr, hr.loader, hr.trust, hr.power, hr.cores, hr.memory, kept_ite,
    ite_self, implies_true]

theorem misaligned_kept (s : State) (src : Src) (off : Nat) : (misaligned s src off).kept w = s.kept w := by
  unfold misaligned
  split <;> simp only [logAccess_kept, kept_ite, ite_self]

/-! ### Host port and management -/

theorem bar4Read_kept (s : State) (fn p a len : Nat) (hm : w.memory = true) :
    (bar4Read s fn p a len).kept w = s.kept w := by
  simp only [bar4Read, emit_kept, homeRead_kept, hm, kept_ite, ite_self]

theorem bar4Write_kept (s : State) (p a : Nat) (bytes : List Byte) (hm : w.memory = true) :
    (bar4Write s p a bytes).kept w = s.kept w := by
  simp only [bar4Write, homeWrite_kept, hm, kept_ite, ite_self]

theorem refuseRead_kept (s : State) (acc : Bar4Acc) (e : Emit) : (refuseRead s acc e).kept w = s.kept w := by
  unfold refuseRead
  split <;> simp only [emit_kept]

theorem execHostBar4Access_keeps (fn : Fn) (offset : Nat) (acc : Bar4Acc) (s : State) (hm : w.memory = true) :
    keeps w s (execHostBar4Access fn offset acc s) := by
  simp only [execHostBar4Access, refuseRead_kept, keeps_ite, keeps_next]
  repeat' split
  all_goals simp only [bar4Read_kept, eccMet_kept, bar4Write_kept, hm, keeps_next]

theorem execPerst_keeps (low : Bool) (s : State) : keeps w s (execPerst low s) := by
  simp only [execPerst, modMgmt_kept, keeps_ite, keeps_next, ite_self]

theorem execFunctionLevelReset_keeps (fn : Fn) (s : State) : keeps w s (execFunctionLevelReset fn s) := by
  simp only [execFunctionLevelReset, modMgmt_kept, keeps_ite, keeps_next, ite_self]

theorem createQueues_kept (s : State) (d : Nat) : (createQueues s d).kept w = s.kept w := by
  simp only [createQueues, emit_kept, foldl_kept, implies_true]

theorem drivePresent_kept (s : State) (d : Nat) (f : PciFunction) (hm : w.memory = true) :
    (drivePresent s d f).kept w = s.kept w := by
  simp only [drivePresent, emit_kept, createQueues_kept, upd_kept, setDrive_kept, driveFails_kept, hm,
    kept_ite, ite_self, implies_true]

theorem meetFunction_kept (s : State) (f : PciFunction) (hm : w.memory = true) :
    (meetFunction s f).kept w = s.kept w := by
  simp only [meetFunction]
  repeat' split
  all_goals simp only [drivePresent_kept, upd_kept, modMgmt_kept, hm, implies_true]

theorem missDrive_kept (s : State) (d : Nat) (hm : w.memory = true) : (missDrive s d).kept w = s.kept w := by
  simp only [missDrive, driveFails_kept, upd_kept, modMgmt_kept, hm, kept_ite, ite_self, implies_true]

theorem enumerate_kept (s : State) (found : List PciFunction) (hm : w.memory = true) :
    (enumerate s found).kept w = s.kept w := by
  simp only [enumerate, modMgmt_kept, meetFunction_kept, missDrive_kept, emit_kept, hm, foldl_kept,
    implies_true]

theorem execRescan_keeps (src : Src) (value : Word) (found : List PciFunction) (s : State)
    (hm : w.memory = true) : keeps w s (execRescan src value found s) := by
  simp only [execRescan, globalWrite_kept, rescanPut_kept, enumerate_kept, hm, kept_ite, keeps_next, ite_self,
    implies_true]

theorem execIdentify_keeps (m : MHdr) (s : State) : keeps w s (execIdentify m s) := by
  simp only [execIdentify, query_kept, keeps_next, implies_true]

theorem onRegisters_kept (s : State) (off n : Nat) (f : Handled) (hf : f.2.2.kept w = s.kept w) :
    (onRegisters s off n f).2.2.kept w = s.kept w := by
  simp only [onRegisters]
  repeat' split
  all_goals simp only [plain_kept, misaligned_kept, hf]

theorem execReadReg_keeps (m : MHdr) (offset : BitVec 32) (count : Nat) (s : State) :
    keeps w s (execReadReg m offset count s) := by
  simp only [execReadReg, query_kept, onRegisters_kept, keeps_next, implies_true]

theorem execWriteReg_keeps (m : MHdr) (offset : BitVec 32) (values : List Word) (s : State) (hr : w.Resets) :
    keeps w s (execWriteReg m offset values s) := by
  refine (keeps_next ..).2 (control_kept _ _ _ _ _ _ fun s => onRegisters_kept _ _ _ _ ?_)
  simp only [registerPut_kept, hr, foldl_kept, implies_true]

theorem installMap_kept (s : State) (comp epoch total first : Nat) (entries : List MapEntry) :
    (installMap s comp epoch total first entries).2.2.kept w = s.kept w := by
  simp only [installMap]
  repeat' split
  all_goals simp only [plain_kept, modMgmt_kept]

theorem execMapInstall_keeps (m : MHdr) (comp epoch total first : Nat) (entries : List MapEntry) (s : State) :
    keeps w s (execMapInstall m comp epoch total first entries s) := by
  simp only [execMapInstall, control_kept, installMap_kept, keeps_next, implies_true]

theorem switchMap_kept (s : State) (comp epoch : Nat) : (switchMap s comp epoch).2.2.kept w = s.kept w := by
  simp only [switchMap]
  split <;> simp only [plain_kept, modMgmt_kept, recordEvent_kept, foldl_kept, implies_true]

theorem execMapSwitch_keeps (m : MHdr) (comp epoch : Nat) (s : State) :
    keeps w s (execMapSwitch m comp epoch s) := by
  simp only [execMapSwitch, control_kept, switchMap_kept, keeps_next, implies_true]

theorem retireMap_kept (s : State) (comp epoch : Nat) (hm : w.memory = true) :
    (retireMap s comp epoch).2.2.kept w = s.kept w := by
  simp only [retireMap]
  repeat' split
  all_goals simp only [plain_kept, modMgmt_kept, recordEvent_kept, holdersLeave_kept, dissolve_kept, hm,
    foldl_kept, implies_true]

theorem execMapRetire_keeps (m : MHdr) (comp epoch : Nat) (s : State) (hm : w.memory = true) :
    keeps w s (execMapRetire m comp epoch s) := by
  simp only [execMapRetire, control_kept, retireMap_kept, hm, keeps_next, implies_true]

theorem execMapRead_keeps (m : MHdr) (comp epoch first : Nat) (s : State) :
    keeps w s (execMapRead m comp epoch first s) := by
  refine (keeps_next ..).2 (query_kept _ _ _ _ _ fun s => ?_)
  split <;> simp only [plain_kept]

theorem execEventsRead_keeps (m : MHdr) (seq : Nat) (s : State) : keeps w s (execEventsRead m seq s) := by
  simp only [execEventsRead, query_kept, keeps_next, implies_true]

theorem ackEvents_kept (s : State) (seq : Nat) : (ackEvents s seq).kept w = s.kept w := by
  simp only [ackEvents, modMgmt_kept, keepEvent_kept, kept_ite, ite_self]

theorem execEventsAck_keeps (m : MHdr) (seq : Nat) (s : State) : keeps w s (execEventsAck m seq s) := by
  simp only [execEventsAck, control_kept, plain_kept, ackEvents_kept, keeps_next, implies_true]

theorem execNoticeRead_keeps (m : MHdr) (s : State) : keeps w s (execNoticeRead m s) := by
  refine (keeps_next ..).2 (query_kept _ _ _ _ _ fun s => ?_)
  split <;> simp only [plain_kept, trayUpdate_kept, modMgmt_kept]

theorem execTelemetrySet_keeps (m : MHdr) (period : Nat) (s : State) :
    keeps w s (execTelemetrySet m period s) := by
  unfold execTelemetrySet
  split <;> simp only [control_kept, plain_kept, modMgmt_kept, keeps_next, implies_true]

theorem execTelemetry_keeps (s : State) : keeps w s (execTelemetry s) := by
  simp only [execTelemetry, sendNotice_kept, modMgmt_kept, keeps_ite, keeps_next, ite_self]

theorem execAlignSet_keeps (m : MHdr) (source : Byte) (fromDevice : Nat) (targets : List Nat) (s : State) :
    keeps w s (execAlignSet m source fromDevice targets s) := by
  unfold execAlignSet
  split <;> simp only [control_kept, plain_kept, modMgmt_kept, keeps_next, implies_true]

theorem execReset_keeps (m : MHdr) (s : State) (hr : w.Resets) : keeps w s (execReset m s) := by
  refine (keeps_next ..).2 (control_kept _ _ _ _ _ _ fun s => ?_)
  split <;> simp only [plain_kept, moduleReset_kept, finishFlash_kept, hr, hr.loader, hr.trust, implies_true]

/-! ### Management messages in pieces -/

theorem mgmtPlain_kept (x : MgmtMsg) (s : State) : (mgmtPlain x s).kept w = s.kept w := by
  simp only [mgmtPlain, after_kept, execIdentify_keeps, execReadReg_keeps, execMapRead_keeps,
    execEventsRead_keeps, execNoticeRead_keeps, mgmtRequest_kept, plain_kept, kept_ite, ite_self,
    implies_true]

theorem relayOn_kept (s : State) (m : MHdr) (device : Nat) (mctp : List Byte) :
    (relayOn s m device mctp).kept w = s.kept w := by
  simp only [relayOn, modMgmt_kept, originate0_kept, kept_ite, ite_self]

theorem mgmtBytesIn_kept (s : State) (path : MPath) (bs : List Byte) :
    (mgmtBytesIn s path bs).kept w = s.kept w := by
  simp only [mgmtBytesIn, relayOn_kept, mgmtPlain_kept, kept_ite, ite_self]

theorem execRelay_keeps (m : MHdr) (device : Nat) (bytes : List Byte) (s : State) :
    keeps w s (execRelay m device bytes s) := by
  simp only [execRelay, relayOn_kept, noteAddress_kept, mgmtBytesIn_kept, keeps_ite, keeps_next, ite_self]

theorem relayIn_kept (s : State) (d : Nat) (bs : List Byte) (count : BitVec 32) :
    (relayIn s d bs count).kept w = s.kept w := by
  simp only [relayIn]
  repeat' split
  all_goals simp only [modMgmt_kept, mailboxReply_kept, originate0_kept, emit_kept, mgmtBytesIn_kept]

theorem mailboxSend_kept (s : State) : (mailboxSend s).kept w = s.kept w := by
  simp only [mailboxSend, mgmtBytesIn_kept, modMgmt_kept, kept_ite, ite_self]

theorem doorbellPut_kept (fn : Fn) (value : Word) (s : State) :
    (doorbellPut fn value s).kept w = s.kept w := by
  simp only [doorbellPut, globalWrite_kept, sendPut_kept, mailboxSend_kept, kept_ite, ite_self, implies_true]

theorem execSend_keeps (fn : Fn) (value : Word) (s : State) : keeps w s (execSend fn value s) := by
  simp only [execSend, doorbellPut_kept, keeps_next]

theorem execRegisterWrite_keeps (src : Src) (offset : BitVec 26) (width : Nat) (value : Word) (s : State)
    (hr : w.Resets) : keeps w s (execRegisterWrite src offset width value s) := by
  simp only [execRegisterWrite, misaligned_kept, keeps_ite, keeps_next]
  repeat' split
  all_goals simp only [doorbellPut_kept, registerPut_kept, hr, keeps_next]

theorem class0Packet_kept (s : State) (bs : List Byte) : (class0Packet s bs).kept w = s.kept w := by
  simp only [class0Packet, alignLists_kept, relayIn_kept, kept_ite, ite_self]

theorem execPacketDelivered_keeps (packet : List Byte) (s : State) (hm : w.memory = true) :
    keeps w s (execPacketDelivered packet s) := by
  simp only [execPacketDelivered, modFab_kept, class0Packet_kept, transportPacket_keeps, dropLength_kept, hm,
    keeps_ite, keeps_next, ite_self]

/-! ### Power sequences and pins -/

theorem runBoot_kept (s : State) (hk : w.trust = true) : (runBoot s).kept w = s.kept w := by
  simp only [runBoot, modTrust_kept, trayUpdate_kept, hk]

theorem flashAtPowerDown_kept (s : State) (hl : w.loader = true) (hk : w.trust = true) :
    (flashAtPowerDown s).kept w = s.kept w := by
  simp only [flashAtPowerDown]
  split <;> simp only [confirmDone_kept, modLoader_kept, hl, hk, kept_ite, ite_self]

theorem loseVolatile_kept (s : State) (c : Nat) (keepLog : Bool) (ht : w.time = true) (hr : w.Resets) :
    (loseVolatile s c keepLog).kept w = s.kept w := by
  simp only [loseVolatile, State.kept, unlessFree, ht, hr.pattern, hr.loader, hr.trust, hr.power, hr.cores,
    hr.memory, ↓reduceIte]

theorem pinsDown_kept (s : State) : (pinsDown s).kept w = s.kept w := by
  simp only [pinsDown, emit_kept, kept_ite, ite_self, foldl_kept, implies_true]

theorem startPowerDown_kept (s : State) (forReset : Bool) (ht : w.time = true) (hr : w.Resets) :
    (startPowerDown s forReset).kept w = s.kept w := by
  simp only [startPowerDown, loseVolatile_kept, pinsDown_kept, flashAtPowerDown_kept, modSled_kept, ht, hr,
    hr.loader, hr.trust]

theorem powerDown_kept (s : State) (forReset : Bool) (ht : w.time = true) (hr : w.Resets) :
    (powerDown s forReset).kept w = s.kept w := by
  simp only [powerDown, startPowerDown_kept, ht, hr, kept_ite, ite_self]

theorem enterKept_kept (s : State) (ht : w.time = true) (hr : w.Resets) :
    (enterKept s).kept w = s.kept w := by
  simp only [enterKept, modSled_kept, modMgmt_kept, runBoot_kept, recordEvent_kept, kept_mk_time,
    loseVolatile_kept, ht, hr, hr.trust]

theorem execKeptEntry_keeps (s : State) (ht : w.time = true) (hr : w.Resets) :
    keeps w s (execKeptEntry s) := by
  simp only [execKeptEntry, enterKept_kept, runBoot_kept, ht, hr, hr.trust, keeps_ite, keeps_next, ite_self]

theorem execInputPowerArrive_keeps (milliVolts : Nat) (pwrGood coolantOk resetN : Bool) (s : State) :
    keeps w s (execInputPowerArrive milliVolts pwrGood coolantOk resetN s) := by
  simp only [execInputPowerArrive, modSled_kept, keeps_ite, keeps_next, keeps_fault, ite_self]

theorem execBootMemoryStart_keeps (dimms : List (Option Dimm)) (stackIds : List (List Byte)) (s : State)
    (hk : w.trust = true) (hw : w.power = true) : keeps w s (execBootMemoryStart dimms stackIds s) := by
  simp only [execBootMemoryStart, runBoot_kept, modSled_kept, startPending_kept, modPow_kept, hk, hw,
    kept_ite, keeps_ite, keeps_next, ite_self]

theorem execVerifiedEntry_keeps (s : State) (hr : w.Resets) : keeps w s (execVerifiedEntry s) := by
  simp only [execVerifiedEntry, modTrust_kept, modPow_kept, restore_kept, portsRest_kept, setModState_kept,
    hr, hr.trust, hr.power, keeps_ite, keeps_next, ite_self]

theorem execPwrGoodFall_keeps (samples : Nat) (s : State) (ht : w.time = true) (hr : w.Resets) :
    keeps w s (execPwrGoodFall samples s) := by
  simp only [execPwrGoodFall, modSled_kept, powerDown_kept, ht, hr, keeps_ite, keeps_next, ite_self]

theorem noteInput_kept (s : State) (milliVolts heldUs : Nat) :
    (noteInput s milliVolts heldUs).kept w = s.kept w := by
  simp only [noteInput, modSled_kept]

theorem execInputVoltageFault_keeps (milliVolts heldUs : Nat) (s : State) (ht : w.time = true) (hr : w.Resets) :
    keeps w s (execInputVoltageFault milliVolts heldUs s) := by
  simp only [execInputVoltageFault, noteInput_kept, powerDown_kept, modSled_kept, ht, hr, keeps_ite,
    keeps_next, keeps_fault, ite_self]

theorem execPowerDownDone_keeps (pwrGood : Bool) (s : State) (ht : w.time = true) (hr : w.Resets) :
    keeps w s (execPowerDownDone pwrGood s) := by
  simp only [execPowerDownDone, modSled_kept, enterKept_kept, ht, hr, kept_ite, keeps_ite, keeps_next,
    ite_self]

theorem execModuleResetN_keeps (high : Bool) (samples : Nat) (s : State) (ht : w.time = true) (hr : w.Resets) :
    keeps w s (execModuleResetN high samples s) := by
  simp only [execModuleResetN, modSled_kept, powerDown_kept, enterKept_kept, ht, hr, kept_ite, keeps_ite,
    keeps_next, ite_self]

theorem execOvervoltageHoldExpire_keeps (milliVolts below58Us : Nat) (s : State) :
    keeps w s (execOvervoltageHoldExpire milliVolts below58Us s) := by
  simp only [execOvervoltageHoldExpire, modSled_kept, keeps_ite, keeps_next, ite_self]

theorem cagePorts_kept (s : State) (g : Nat) : (cagePorts s g).kept w = s.kept w := by
  simp only [cagePorts, portRest_kept]

theorem execCabPresent_keeps (g : Fin 9) (high : Bool) (s : State) : keeps w s (execCabPresent g high s) := by
  simp only [execCabPresent, modSled_kept, cageUpdate_kept, cagePorts_kept, kept_ite, keeps_ite, keeps_next,
    ite_self]

theorem execCabOvercurrent_keeps (g : Fin 9) (milliAmps : Nat) (s : State) :
    keeps w s (execCabOvercurrent g milliAmps s) := by
  simp only [execCabOvercurrent, modSled_kept, cagePorts_kept, cageUpdate_kept, keeps_ite, keeps_next,
    ite_self]

theorem execCabResetRelease_keeps (g : Fin 9) (s : State) : keeps w s (execCabResetRelease g s) := by
  simp only [execCabResetRelease, emit_kept, modSled_kept, keeps_ite, keeps_next, ite_self]

theorem execPortBPerstRelease_keeps (s : State) : keeps w s (execPortBPerstRelease s) := by
  unfold execPortBPerstRelease
  split <;> simp only [emit_kept, modMgmt_kept, keeps_ite, keeps_next, ite_self]

theorem execPcieLinkTrain_keeps (portB up : Bool) (rate : Fin 7) (width : Nat) (s : State) :
    keeps w s (execPcieLinkTrain portB up rate width s) := by
  simp only [execPcieLinkTrain, modMgmt_kept, keeps_ite, keeps_next, ite_self]

theorem execMgmtLinkChange_keeps (link : Fin 2) (up : Bool) (s : State) :
    keeps w s (execMgmtLinkChange link up s) := by
  simp only [execMgmtLinkChange, modMgmt_kept, keeps_ite, keeps_next, ite_self]

theorem debugAccess_kept (p : Option Part) (acc : DebugAcc) (s : State) (hr : w.Resets) :
    (debugAccess p acc s).kept w = s.kept w := by
  simp only [debugAccess]
  split <;> simp only [emit_kept, setBlock_kept, registerPut_kept, homeRead_kept, homeWrite_kept, hr,
    hr.memory]

theorem execTapInstruction_keeps (i : TapInstr) (s : State) (hr : w.Resets) :
    keeps w s (execTapInstruction i s) := by
  simp only [execTapInstruction, emit_kept, keeps_ite, keeps_next]
  repeat' split
  all_goals simp only [emit_kept, modTrust_kept, draw_kept, debugAccess_kept, hr, hr.trust, keeps_next]

theorem execDebugFlashAccess_keeps (acc : FlashAcc) (s : State) (hk : w.trust = true) :
    keeps w s (execDebugFlashAccess acc s) := by
  simp only [execDebugFlashAccess, keeps_ite, keeps_next]
  repeat' split
  all_goals simp only [emit_kept, fwWrite_kept, hk, keeps_next]

/-! ### Every command -/

/-- Every command leaves the queue, and every part of the state whose list in `Safety` does not name it. -/
theorem exec_keeps (c : Instr) (s : State) : keeps (scopeOf c) s (exec c s) := by
  cases c with
  | patBegin via part => exact execPatBegin_keeps via part s rfl
  | patChunk via offset length bytes => exact execPatChunk_keeps via offset length bytes s rfl rfl
  | chunkDone fetched => exact execChunkDone_keeps fetched s rfl rfl
  | patCommit via part => exact execPatCommit_keeps via part s rfl rfl
  | commitFlashDone ok => exact execCommitFlashDone_keeps ok s ⟨rfl, rfl, rfl, rfl, rfl, rfl⟩
  | patConfirm via part arg => exact execPatConfirm_keeps via part arg s rfl
  | confirmRecordDone ok => exact execConfirmRecordDone_keeps ok s rfl rfl
  | confirmExpired part => exact execConfirmExpired_keeps part s rfl
  | patAbort via part => exact execPatAbort_keeps via part s rfl
  | patOpen via part => exact execPatOpen_keeps via part s rfl rfl rfl rfl rfl
  | patStop via part => exact execPatStop_keeps via part s rfl
  | stopDrain p => exact execStopDrain_keeps p s rfl
  | laneWrite lane item writer => exact execLaneWrite_keeps lane item writer s rfl
  | laneRead lane => exact execLaneRead_keeps lane s rfl
  | staleTimer lane => exact execStaleTimer_keeps lane s
  | hostSlotWrite fn slot word value => exact execHostSlotWrite_keeps fn slot word value s
  | hostSlotRead fn slot word => exact execHostSlotRead_keeps fn slot word s
  | laneControlWrite src lane value => exact execLaneControlWrite_keeps src lane value s
  | outputBacklogDrain p => exact execOutputBacklogDrain_keeps p s rfl
  | counterAdd ctr amount status => exact execCounterAdd_keeps ctr amount status s rfl
  | counterSet ctr value adds => exact execCounterSet_keeps ctr value adds s rfl
  | ctrAddWrite src p value => exact execCtrAddWrite_keeps src p value s
  | ctrValueWrite src p value => exact execCtrValueWrite_keeps src p value s
  | ctrWaitArm src p slot value => exact execCtrWaitArm_keeps src p slot value s
  | counterWaitRelease p slot => exact execCounterWaitRelease_keeps p slot s rfl
  | awlTailWrite src b awl value => exact execAwlTailWrite_keeps src b awl value s rfl
  | awlRingWrite src b awl size value => exact execAwlRingWrite_keeps src b awl size value s
  | move b awl => exact execMove_keeps b awl s rfl
  | fill b awl => exact execFill_keeps b awl s rfl
  | tack b awl => exact execTack_keeps b awl s rfl
  | awlWaitRelease b awl => exact execAwlWaitRelease_keeps b awl s rfl
  | awlRequestDone b awl index req result => exact execAwlRequestDone_keeps b awl index req result s rfl
  | awlDescriptorComplete b awl index => exact execAwlDescriptorComplete_keeps b awl index s rfl
  | awlFlush src b awl value => exact execAwlFlush_keeps src b awl value s
  | admissionItemTaken p lane => exact execAdmissionItemTaken_keeps p lane s
  | signpostWalkDone p tag stamp buckets => exact execSignpostWalkDone_keeps p tag stamp buckets s
  | tollgateRefill customer => exact execTollgateRefill_keeps customer s
  | prefixCopyCheck p tag copied entry => exact execPrefixCopyCheck_keeps p tag copied entry s rfl
  | openLast p h => exact execOpenLast_keeps p h s rfl
  | openPartner p h senderLength => exact execOpenPartner_keeps p h senderLength s rfl
  | commit p h => exact execCommit_keeps p h s rfl
  | commitHeldResume p slot => exact execCommitHeldResume_keeps p slot s rfl
  | release p h => exact execRelease_keeps p h s rfl
  | transfer p h => exact execTransfer_keeps p h s rfl
  | query p h payload => exact execQuery_keeps p h payload s rfl
  | queryChunksDone p fromDevice fromPartition msgId => exact execQueryChunksDone_keeps p fromDevice fromPartition msgId s rfl
  | handoff p h record => exact execHandoff_keeps p h record s rfl
  | cancel p h => exact execCancel_keeps p h s rfl
  | grow p h => exact execGrow_keeps p h s rfl
  | serviceReply p h payload => exact execServiceReply_keeps p h payload s rfl
  | grantReceived p h payload source => exact execGrantReceived_keeps p h payload source s rfl
  | transferReply p h => exact execTransferReply_keeps p h s rfl
  | handoffReply p h => exact execHandoffReply_keeps p h s rfl
  | serviceTimeout p msgId => exact execServiceTimeout_keeps p msgId s rfl
  | handoffNextDue p tag => exact execHandoffNextDue_keeps p tag s rfl
  | lastGrowthCopyDone p slot code => exact execLastGrowthCopyDone_keeps p slot code s rfl
  | lastOldFootprintFree p slot => exact execLastOldFootprintFree_keeps p slot s
  | lastPromotionDone p slot code => exact execLastPromotionDone_keeps p slot code s rfl
  | lastTtlCheck p => exact execLastTtlCheck_keeps p s rfl
  | lastTierMoveDone p slot code => exact execLastTierMoveDone_keeps p slot code s rfl
  | lastRebuild p => exact execLastRebuild_keeps p s
  | cancelSubmit src p slot value => exact execCancelSubmit_keeps src p slot value s rfl
  | forwardingExpire p tag => exact execForwardingExpire_keeps p tag s
  | stepBoundary p => exact execStepBoundary_keeps p s rfl
  | stepCommit p results => exact execStepCommit_keeps p results s rfl
  | queryWaitExpire p tag layer => exact execQueryWaitExpire_keeps p tag layer s rfl
  | firstDueExpire p tag => exact execFirstDueExpire_keeps p tag s rfl
  | contextSwapIn p => exact execContextSwapIn_keeps p s
  | ctxBlockExpire p => exact execCtxBlockExpire_keeps p s
  | swapInDone p model code => exact execSwapInDone_keeps p model code s rfl
  | roundaboutSelect r => exact execRoundaboutSelect_keeps r s
  | sendMessage r => exact execSendMessage_keeps r s rfl
  | sendRelease r => exact execSendRelease_keeps r s
  | crossingEntryStart list => exact execCrossingEntryStart_keeps list s
  | alignInEdge => exact execAlignInEdge_keeps s
  | align fromDevice count => exact execAlign_keeps fromDevice count s
  | engLaunch src b value => exact execEngLaunch_keeps src b value s rfl rfl
  | engStop src b value => exact execEngStop_keeps src b value s
  | engineRunEnd b how cycles => exact execEngineRunEnd_keeps b how cycles s
  | mac b core acc fa fb va vb scales => exact execMac_keeps b core acc fa fb va vb scales s rfl
  | vectorSpecial b core op dst src => exact execVectorSpecial_keeps b core op dst src s rfl
  | compact b core op head srcOff dstOff => exact execCompact_keeps b core op head srcOff dstOff s rfl rfl
  | benchLoad b core dst off len => exact execBenchLoad_keeps b core dst off len s rfl rfl
  | exchange b core dir srcOff dstOff => exact execExchange_keeps b core dir srcOff dstOff s rfl rfl
  | barrier b core => exact execBarrier_keeps b core s rfl
  | barrierRelease b => exact execBarrierRelease_keeps b s rfl
  | endRun b core => exact execEndRun_keeps b core s rfl
  | cobblerAccessFault p b addr => exact execCobblerAccessFault_keeps p b addr s
  | attnTailWrite src b value => exact execAttnTailWrite_keeps src b value s
  | attend b => exact execAttend_keeps b s rfl
  | attendComplete b index => exact execAttendComplete_keeps b index s rfl
  | attnFlush src b value => exact execAttnFlush_keeps src b value s
  | migTailWrite src p value => exact execMigTailWrite_keeps src p value s
  | movePages p => exact execMovePages_keeps p s rfl
  | pageMoveDone p page written => exact execPageMoveDone_keeps p page written s rfl
  | migrationEntryDone p => exact execMigrationEntryDone_keeps p s
  | nvmeCompletion drive cmd ok status data => exact execNvmeCompletion_keeps drive cmd ok status data s rfl
  | nvTimeout drive cmd => exact execNvTimeout_keeps drive cmd s rfl
  | nvMappingWrite src p reg nv entry value => exact execNvMappingWrite_keeps src p reg nv entry value s
  | patrolScrub p off correctable passEnds => exact execPatrolScrub_keeps p off correctable passEnds s rfl
  | serdesGroupWake g => exact execSerdesGroupWake_keeps g s rfl
  | trainingDone port reversed => exact execTrainingDone_keeps port reversed s
  | trainingTimeout port => exact execTrainingTimeout_keeps port s
  | hello port u => exact execHello_keeps port u s
  | helloTimer port => exact execHelloTimer_keeps port s
  | helloMissing port => exact execHelloMissing_keeps port s
  | downRetrain port => exact execDownRetrain_keeps port s
  | codewordReceived port cw => exact execCodewordReceived_keeps port cw s
  | credit port freed => exact execCredit_keeps port freed s
  | creditTimer port => exact execCreditTimer_keeps port s
  | sync port sent => exact execSync_keeps port sent s
  | syncTimer port => exact execSyncTimer_keeps port s
  | packetHeader port => exact execPacketHeader_keeps port s
  | packetDelivered packet => exact execPacketDelivered_keeps packet s rfl
  | portTransmit port => exact execPortTransmit_keeps port s
  | retrain src port value => exact execRetrain_keeps src port value s
  | disable src port value => exact execDisable_keeps src port value s
  | fpCreditsWrite src port hi value => exact execFpCreditsWrite_keeps src port hi value s
  | routeWrite src bank dest value => exact execRouteWrite_keeps src bank dest value s
  | fabBankWrite src bank value => exact execFabBankWrite_keeps src bank value s
  | fabCurrentWrite src value => exact execFabCurrentWrite_keeps src value s
  | fabDeviceWrite src value => exact execFabDeviceWrite_keeps src value s
  | read x addr length => exact execRead_keeps x addr length s rfl
  | write x addr length bytes => exact execWrite_keeps x addr length bytes s rfl
  | atomic x addr aop size operand compare => exact execAtomic_keeps x addr aop size operand compare s rfl
  | squareLineFill line => exact execSquareLineFill_keeps line s rfl
  | message x m bytes => exact execMessage_keeps x m bytes s rfl
  | readData x status bytes => exact execReadData_keeps x status bytes s rfl
  | atomicData x status old => exact execAtomicData_keeps x status old s rfl
  | ack a => exact execAck_keeps a s rfl
  | ackTimer device cls => exact execAckTimer_keeps device cls s
  | resendTimer device cls psn => exact execResendTimer_keeps device cls psn s rfl
  | targetTimeout device => exact execTargetTimeout_keeps device s rfl
  | peerContextFree device => exact execPeerContextFree_keeps device s rfl
  | kerbsideFetchDone p ep => exact execKerbsideFetchDone_keeps p ep s rfl
  | epEmptyExpire p ep => exact execEpEmptyExpire_keeps p ep s rfl
  | enable src p ep => exact execEnable_keeps src p ep s rfl
  | epDisable src p ep => exact execEpDisable_keeps src p ep s rfl
  | epFlush src p ep => exact execEpFlush_keeps src p ep s rfl
  | srqTailWrite src p q value => exact execSrqTailWrite_keeps src p q value s
  | clear src value => exact execClear_keeps src value s rfl
  | cobblerFence b device => exact execCobblerFence_keeps b device s
  | hostBar4Access fn offset acc => exact execHostBar4Access_keeps fn offset acc s rfl
  | perst low => exact execPerst_keeps low s
  | functionLevelReset fn => exact execFunctionLevelReset_keeps fn s
  | rescan src value found => exact execRescan_keeps src value found s rfl
  | send fn value => exact execSend_keeps fn value s
  | identify m => exact execIdentify_keeps m s
  | readReg m offset count => exact execReadReg_keeps m offset count s
  | writeReg m offset values => exact execWriteReg_keeps m offset values s ⟨rfl, rfl, rfl, rfl, rfl, rfl⟩
  | mapInstall m comp epoch total first entries => exact execMapInstall_keeps m comp epoch total first entries s
  | mapSwitch m comp epoch => exact execMapSwitch_keeps m comp epoch s
  | mapRetire m comp epoch => exact execMapRetire_keeps m comp epoch s rfl
  | mapRead m comp epoch first => exact execMapRead_keeps m comp epoch first s
  | eventsRead m seq => exact execEventsRead_keeps m seq s
  | eventsAck m seq => exact execEventsAck_keeps m seq s
  | noticeRead m => exact execNoticeRead_keeps m s
  | telemetrySet m period => exact execTelemetrySet_keeps m period s
  | telemetry => exact execTelemetry_keeps s
  | alignSet m source fromDevice targets => exact execAlignSet_keeps m source fromDevice targets s
  | reset m => exact execReset_keeps m s ⟨rfl, rfl, rfl, rfl, rfl, rfl⟩
  | relay m device bytes => exact execRelay_keeps m device bytes s
  | report m scope nonce => exact execReport_keeps m scope nonce s rfl
  | endorsement m => exact execEndorsement_keeps m s rfl
  | slotWrite m slot counter key signature => exact execSlotWrite_keeps m slot counter key signature s rfl
  | policySet m counter value signature => exact execPolicySet_keeps m counter value signature s rfl
  | reclaim m => exact execReclaim_keeps m s ⟨rfl, rfl, rfl, rfl, rfl, rfl⟩
  | fwStage m kind offset bytes => exact execFwStage_keeps m kind offset bytes s rfl
  | bind m record signature => exact execBind_keeps m record signature s rfl
  | verifyWeights m part model => exact execVerifyWeights_keeps m part model s rfl
  | verifyWeightsDone p model => exact execVerifyWeightsDone_keeps p model s rfl rfl
  | keyRotate m part => exact execKeyRotate_keeps m part s rfl
  | sweepPageDone p page ok => exact execSweepPageDone_keeps p page ok s rfl
  | keyRetire m part force => exact execKeyRetire_keeps m part force s rfl
  | generationRetired p => exact execGenerationRetired_keeps p s
  | signatureDone flashOk => exact execSignatureDone_keeps flashOk s rfl
  | getVersion m => exact execGetVersion_keeps m s
  | getCapabilities m => exact execGetCapabilities_keeps m s
  | negotiateAlgorithms m => exact execNegotiateAlgorithms_keeps m s
  | challenge m nonce => exact execChallenge_keeps m nonce s rfl
  | keyExchange m requesterKey signature => exact execKeyExchange_keeps m requesterKey signature s rfl
  | heartbeat m => exact execHeartbeat_keeps m s
  | keyUpdate m => exact execKeyUpdate_keeps m s rfl
  | endSession m => exact execEndSession_keeps m s rfl
  | chunkSend m handle chunk last bytes => exact execChunkSend_keeps m handle chunk last bytes s ⟨rfl, rfl, rfl, rfl, rfl, rfl⟩
  | chunkGet m handle chunk => exact execChunkGet_keeps m handle chunk s rfl
  | scrubDone p => exact execScrubDone_keeps p s ⟨rfl, rfl, rfl, rfl, rfl, rfl⟩
  | dbgChallenge => exact execDbgChallenge_keeps s rfl
  | dbgToken token signature => exact execDbgToken_keeps token signature s rfl
  | dbgLock => exact execDbgLock_keeps s rfl
  | clockLoopTick tMax tMaxDistrict inlet outlet => exact execClockLoopTick_keeps tMax tMaxDistrict inlet outlet s rfl
  | powerEstimateTick raw inputW voltage10mV parts => exact execPowerEstimateTick_keeps raw inputW voltage10mV parts s rfl
  | calibrationTick measured raw => exact execCalibrationTick_keeps measured raw s rfl
  | fastLimit cause => exact execFastLimit_keeps cause s rfl
  | fastLimitClear => exact execFastLimitClear_keeps s rfl
  | startGrant riseOk => exact execStartGrant_keeps riseOk s
  | blockOffTimer b => exact execBlockOffTimer_keeps b s rfl rfl
  | blockWakeDone b => exact execBlockWakeDone_keeps b s rfl
  | blkHintWrite src b value => exact execBlkHintWrite_keeps src b value s
  | blkArriveRead src b => exact execBlkArriveRead_keeps src b s
  | blkPeerDelayWrite src b value => exact execBlkPeerDelayWrite_keeps src b value s
  | followExpire p => exact execFollowExpire_keeps p s
  | cutEntry coolantLowUs junction => exact execCutEntry_keeps coolantLowUs junction s rfl rfl
  | resume src value coolantHighUs junction => exact execResume_keeps src value coolantHighUs junction s ⟨rfl, rfl, rfl, rfl, rfl, rfl⟩
  | doubtCheck unit mgmtFaulty dataFaulty => exact execDoubtCheck_keeps unit mgmtFaulty dataFaulty s
  | quiesce src p value => exact execQuiesce_keeps src p value s
  | quiesced p => exact execQuiesced_keeps p s rfl
  | leaseExpire => exact execLeaseExpire_keeps s rfl rfl
  | selftestDone failed => exact execSelftestDone_keeps failed s ⟨rfl, rfl, rfl, rfl, rfl, rfl⟩
  | graceExpire => exact execGraceExpire_keeps s ⟨rfl, rfl, rfl, rfl, rfl, rfl⟩
  | leaseRenew m => exact execLeaseRenew_keeps m s
  | fence m => exact execFence_keeps m s rfl rfl
  | reinstate m device boot => exact execReinstate_keeps m device boot s rfl
  | standIn m device => exact execStandIn_keeps m device s ⟨rfl, rfl, rfl, rfl, rfl, rfl⟩
  | teardown m comp => exact execTeardown_keeps m comp s rfl
  | doubtRelease m unitKind action unit => exact execDoubtRelease_keeps m unitKind action unit s
  | inputPowerArrive milliVolts pwrGood coolantOk resetN => exact execInputPowerArrive_keeps milliVolts pwrGood coolantOk resetN s
  | keptEntry => exact execKeptEntry_keeps s rfl ⟨rfl, rfl, rfl, rfl, rfl, rfl⟩
  | bootMemoryStart dimms stackIds => exact execBootMemoryStart_keeps dimms stackIds s rfl rfl
  | verifiedEntry => exact execVerifiedEntry_keeps s ⟨rfl, rfl, rfl, rfl, rfl, rfl⟩
  | pwrGoodFall samples => exact execPwrGoodFall_keeps samples s rfl ⟨rfl, rfl, rfl, rfl, rfl, rfl⟩
  | inputVoltageFault milliVolts heldUs => exact execInputVoltageFault_keeps milliVolts heldUs s rfl ⟨rfl, rfl, rfl, rfl, rfl, rfl⟩
  | powerDownDone pwrGood => exact execPowerDownDone_keeps pwrGood s rfl ⟨rfl, rfl, rfl, rfl, rfl, rfl⟩
  | moduleResetN high samples => exact execModuleResetN_keeps high samples s rfl ⟨rfl, rfl, rfl, rfl, rfl, rfl⟩
  | cabPresent g high => exact execCabPresent_keeps g high s
  | cabOvercurrent g milliAmps => exact execCabOvercurrent_keeps g milliAmps s
  | modReset src value => exact execModReset_keeps src value s ⟨rfl, rfl, rfl, rfl, rfl, rfl⟩
  | intEnableWrite src value => exact execIntEnableWrite_keeps src value s
  | registerWrite src offset width value => exact execRegisterWrite_keeps src offset width value s ⟨rfl, rfl, rfl, rfl, rfl, rfl⟩
  | vector b core op dst a1 a2 a3 => exact execVector_keeps b core op dst a1 a2 a3 s rfl
  | benchStore b core src off len => exact execBenchStore_keeps b core src off len s rfl rfl
  | cobblerLoadStore p b acc => exact execCobblerLoadStore_keeps p b acc s rfl
  | overvoltageHoldExpire milliVolts below58Us => exact execOvervoltageHoldExpire_keeps milliVolts below58Us s
  | nvmeDriveFailed drive status => exact execNvmeDriveFailed_keeps drive status s rfl
  | pcieLinkTrain portB up rate width => exact execPcieLinkTrain_keeps portB up rate width s
  | mgmtLinkChange link up => exact execMgmtLinkChange_keeps link up s
  | cabResetRelease g => exact execCabResetRelease_keeps g s
  | portBPerstRelease => exact execPortBPerstRelease_keeps s
  | tapInstruction t => exact execTapInstruction_keeps t s ⟨rfl, rfl, rfl, rfl, rfl, rfl⟩
  | debugFlashAccess acc => exact execDebugFlashAccess_keeps acc s rfl

/-- Settles O59: the frame of every command, `exec_keeps`, read part by part. -/
theorem commandsKeepQueueTimeAndPattern : Obligations.CommandsKeepQueueTimeAndPattern := by
  intro c s t h
  have hk : t.kept (scopeOf c) = s.kept (scopeOf c) := exec_keeps c s t h
  exact ⟨pending_of_kept hk, now_of_kept hk, pattern_of_kept hk, loader_of_kept hk, trust_of_kept hk,
    power_of_kept hk, cores_of_kept hk⟩

end Sys2Proof.Machine
end

section
/-! # One step, and the state after reset -/

namespace Sys2Proof.Machine

theorem step_of_pending_nil {s : State} (h : s.pending = []) : step s = .next (tick s) := by
  unfold step
  rw [h]

theorem step_of_pending_cons {s : State} {c : Instr} {rest : List Instr} (h : s.pending = c :: rest) :
    step s = exec c { s with pending := rest } := by
  unfold step
  rw [h]

/-- Settles O1, by the two cases of a queue. -/
theorem stepTakesTheFrontCommand : Obligations.StepTakesTheFrontCommand := by
  intro c rest s
  exact ⟨step_of_pending_cons rfl, step_of_pending_nil rfl⟩

/-- No pattern is committed at reset, so it defines no partition (Table 10-12). -/
theorem reset_code (p : Nat) : State.reset.code p = 255 := rfl

/-- Settles O56: each register reads its reset value, and memory and the maps are empty. -/
theorem resetIsEntryToKept : Obligations.ResetIsEntryToKept :=
  ⟨rfl, rfl, rfl, rfl, rfl, rfl, rfl, rfl, rfl, rfl, reset_code, find_nil, memByte_nil, rfl, rfl, rfl⟩

end Sys2Proof.Machine
end

section
/-! # What opening and stopping leave alone

The OPEN of the module and of a partition, the end of a STOP and a load that fails run through most of the module, and
what is said of the module state, the fault state, the lanes and the counters rests on what the functions that they call
leave. `State.steady` holds that much of a state: the module state and the one before it, the fault state, and the lanes
and the counters unless these are free to change. As in the section on what a command leaves alone, each function has
one law; that of a function that changes lanes, or lanes and counters, speaks of `steady true c`, or of
`steady true true`. -/

namespace Sys2Proof.Machine

/-- The module state and the one before it, the fault state, and the lanes and counters that are not free to change. -/
structure Steady where
  state : Nat
  previous : Nat
  faults : Faults
  lanes : Option (KMap Lane)
  counters : Option (KMap Counter)

/-- What is steady of a state; `l` and `c` say that lanes and counters are free to change. -/
def State.steady (l c : Bool) (s : State) : Steady where
  state := s.regs.state
  previous := s.regs.previous
  faults := s.faults
  lanes := unlessFree l s.lanes
  counters := unlessFree c s.counters

variable {l c : Bool}

/-! ### What equal steady parts say -/

section
variable {s t : State} (h : t.steady l c = s.steady l c)
include h

theorem state_of_steady : t.regs.state = s.regs.state := congrArg Steady.state h

theorem previous_of_steady : t.regs.previous = s.regs.previous := congrArg Steady.previous h

theorem faults_of_steady : t.faults = s.faults := congrArg Steady.faults h

theorem lanes_of_steady (hf : l = false) : t.lanes = s.lanes := unlessFree_inj (congrArg Steady.lanes h) hf

theorem counters_of_steady (hf : c = false) : t.counters = s.counters :=
  unlessFree_inj (congrArg Steady.counters h) hf

end

/-! ### Branches, folds and record updates -/

theorem steady_ite (p : Prop) [Decidable p] (s t : State) :
    (if p then s else t).steady l c = if p then s.steady l c else t.steady l c := apply_ite ..

/-- A fold leaves what each of its steps leaves. -/
theorem foldl_leaves {α β : Type} (view : State → β) {f : State → α → State}
    (h : ∀ s x, view (f s x) = view s) (xs : List α) (s : State) : view (xs.foldl f s) = view s := by
  induction xs generalizing s with
  | nil => rfl
  | cons x xs ih => rw [List.foldl_cons, ih, h]

theorem foldl_steady {α : Type} {f : State → α → State} (h : ∀ s x, (f s x).steady l c = s.steady l c)
    (xs : List α) (s : State) : (xs.foldl f s).steady l c = s.steady l c :=
  foldl_leaves (State.steady l c) h xs s

theorem getD_steady {o : Option State} {s d : State} (ho : ∀ t, o = some t → t.steady l c = s.steady l c)
    (hd : d.steady l c = s.steady l c) : (o.getD d).steady l c = s.steady l c := by
  cases o with
  | none => exact hd
  | some t => exact ho t rfl

/-- An update of parts that `Steady` does not speak of. -/
theorem steady_mk (s : State) {pending out draws now sled loader pattern partials parts awls blocks cores tolls
    roundabouts crossings mem badWords hbmEcc ddrEcc nvCmds fab mgmt trust power trace} :
    (State.mk pending out draws now sled s.regs loader pattern partials parts s.lanes s.counters awls blocks cores
      tolls roundabouts crossings mem badWords hbmEcc ddrEcc nvCmds fab mgmt trust power s.faults trace).steady l c
      = s.steady l c := by
  simp only [State.steady]

/-- An update of the lanes and of parts that `Steady` does not speak of. -/
theorem steady_mk_lanes (s : State) {pending out draws now sled loader pattern partials parts lanes awls blocks
    cores tolls roundabouts crossings mem badWords hbmEcc ddrEcc nvCmds fab mgmt trust power trace} :
    (State.mk pending out draws now sled s.regs loader pattern partials parts lanes s.counters awls blocks cores
      tolls roundabouts crossings mem badWords hbmEcc ddrEcc nvCmds fab mgmt trust power s.faults trace).steady true c
      = s.steady true c := by
  simp only [State.steady, unlessFree, ↓reduceIte]

/-- An update of the lanes, the counters and parts that `Steady` does not speak of. -/
theorem steady_mk_both (s : State) {pending out draws now sled loader pattern partials
    parts lanes counters awls blocks cores tolls roundabouts crossings mem badWords hbmEcc ddrEcc nvCmds fab mgmt trust
    power trace} :
    (State.mk pending out draws now sled s.regs loader pattern partials parts lanes counters awls blocks cores
      tolls roundabouts crossings mem badWords hbmEcc ddrEcc nvCmds fab mgmt trust power s.faults
      trace).steady true true = s.steady true true := by
  simp only [State.steady, unlessFree, ↓reduceIte]

/-! ### The setters of State and the shared operations -/

theorem setPart_steady (s : State) (p : Nat) (x : PartState) : (s.setPart p x).steady l c = s.steady l c := steady_mk ..

theorem modPart_steady (s : State) (p : Nat) (f : PartState → PartState) :
    (s.modPart p f).steady l c = s.steady l c := steady_mk ..

theorem modPLast_steady (s : State) (p : Nat) (f : PLast → PLast) :
    (s.modPLast p f).steady l c = s.steady l c := steady_mk ..

theorem modHold_steady (s : State) (p : Nat) (f : PHold → PHold) :
    (s.modHold p f).steady l c = s.steady l c := steady_mk ..

theorem modXt_steady (s : State) (p : Nat) (f : PXt → PXt) : (s.modXt p f).steady l c = s.steady l c := steady_mk ..

theorem modPTrust_steady (s : State) (p : Nat) (f : PTrust → PTrust) :
    (s.modPTrust p f).steady l c = s.steady l c := steady_mk ..

theorem setLane_steady (s : State) (n : Nat) (x : Lane) :
    (s.setLane n x).steady true c = s.steady true c := steady_mk_lanes ..

theorem setBlock_steady (s : State) (b : Nat) (x : Block) : (s.setBlock b x).steady l c = s.steady l c := steady_mk ..

theorem setToll_steady (s : State) (n : Nat) (x : Toll) : (s.setToll n x).steady l c = s.steady l c := steady_mk ..

theorem setRoundabout_steady (s : State) (n : Nat) (x : Roundabout) :
    (s.setRoundabout n x).steady l c = s.steady l c := steady_mk ..

theorem setCrossing_steady (s : State) (n : Nat) (x : Crossing) :
    (s.setCrossing n x).steady l c = s.steady l c := steady_mk ..

theorem setPort_steady (s : State) (n : Nat) (x : Port) : (s.setPort n x).steady l c = s.steady l c := steady_mk ..

theorem setPeer_steady (s : State) (d : Nat) (x : Peer) : (s.setPeer d x).steady l c = s.steady l c := steady_mk ..

theorem modMgmt_steady (s : State) (f : Mgmt → Mgmt) : (s.modMgmt f).steady l c = s.steady l c := steady_mk ..

theorem modFab_steady (s : State) (f : Fabric → Fabric) : (s.modFab f).steady l c = s.steady l c := steady_mk ..

theorem modPow_steady (s : State) (f : Power → Power) : (s.modPow f).steady l c = s.steady l c := steady_mk ..

theorem modTrust_steady (s : State) (f : Trust → Trust) : (s.modTrust f).steady l c = s.steady l c := steady_mk ..

theorem modSled_steady (s : State) (f : Sled → Sled) : (s.modSled f).steady l c = s.steady l c := steady_mk ..

theorem emit_steady (s : State) (e : Emit) : (s.emit e).steady l c = s.steady l c := steady_mk ..

theorem draw_steady (s : State) : s.draw.2.steady l c = s.steady l c := steady_mk ..

theorem raisePart_steady (s : State) (p v : Nat) : (raisePart s p v).steady l c = s.steady l c := by
  rw [raisePart_frame]; rfl

theorem raiseRisen_steady (old s : State) : (raiseRisen old s).steady l c = s.steady l c := by
  rw [raiseRisen_frame]; rfl

theorem upd_steady (s : State) (f : State → State) (hf : ∀ s, (f s).steady l c = s.steady l c) :
    (s.upd f).steady l c = s.steady l c := by
  simp only [State.upd, raiseRisen_steady, hf]

theorem sendNotice_steady (s : State) (i3c : Bool) (command : Nat) (payload : List Byte) :
    (sendNotice s i3c command payload).steady l c = s.steady l c := by
  rw [sendNotice_frame]; rfl

theorem keepEvent_steady (s : State) (e : EventRec) : (keepEvent s e).steady l c = s.steady l c := by
  simp only [keepEvent]
  split
  · rw [sendNotice_steady, upd_steady]
    exact fun _ => rfl
  · rfl

theorem recordEvent_steady (s : State) (kind part comp epoch tenant state : Nat) :
    (recordEvent s kind part comp epoch tenant state).steady l c = s.steady l c := by
  simp only [recordEvent, keepEvent_steady, modMgmt_steady, steady_ite, ite_self]

theorem setCode_steady (s : State) (p n : Nat) : (setCode s p n).steady l c = s.steady l c := by
  simp only [setCode, recordEvent_steady, modPart_steady, steady_ite, ite_self]

theorem laneGive_steady (s : State) (n : Nat) (who : LaneWriter) (it : Item) :
    (laneGive s n who it).steady true c = s.steady true c := by
  have push : (lanePush s n it).steady true c = s.steady true c := by
    rw [lanePush_frame]
    exact steady_mk_lanes ..
  simp only [laneGive, push, setLane_steady, steady_ite, ite_self]

theorem storeRaw_steady (s : State) (p off : Nat) (bs : List Byte) :
    (storeRaw s p off bs).steady l c = s.steady l c := by
  rw [storeRaw_frame]; rfl

theorem clearBlock_steady (s : State) (b : Nat) : (clearBlock s b).steady l c = s.steady l c := steady_mk ..

/-! ### The transport and the messages of the service -/

theorem originate_steady (s : State) (p : TxPacket) : (originate s p).steady l c = s.steady l c := by
  simp only [originate, modFab_steady, steady_ite, ite_self]

theorem withContext_steady {s : State} {d : Nat} {r : State} (ho : withContext s d = some r) :
    r.steady l c = s.steady l c := by
  simp only [withContext] at ho
  split at ho
  · rw [← Option.some.inj ho]
  · split at ho
    · rw [← Option.some.inj ho, setPeer_steady]
    · obtain ⟨e, -, rfl⟩ := Option.map_eq_some_iff.1 ho
      rfl

theorem sendNow_steady (s : State) (d cls : Nat) (u : Unacked) : (sendNow s d cls u).steady l c = s.steady l c := by
  simp only [sendNow, originate_steady, setPeer_steady]

theorem sendWaiting_steady (d cls fuel : Nat) (s : State) : (sendWaiting d cls fuel s).steady l c = s.steady l c := by
  induction fuel generalizing s with
  | zero => rfl
  | succ n ih =>
    simp only [sendWaiting]
    split <;> simp only [setPeer_steady, sendNow_steady, ih, steady_ite, ite_self]

theorem xtSubmit_steady {s : State} {d cls : Nat} {u : Unacked} {r : State} (ho : xtSubmit s d cls u = some r) :
    r.steady l c = s.steady l c := by
  simp only [xtSubmit] at ho
  split at ho
  · cases ho
  · rw [← Option.some.inj ho, sendWaiting_steady, setPeer_steady, getD_steady (fun _ => withContext_steady) rfl]

theorem reportHandled_steady (s : State) (x : XtHdr) (cls : Nat) (status : Byte) (dup : Bool) :
    (reportHandled s x cls status dup).steady l c = s.steady l c := by
  simp only [reportHandled, sendAck, originate_steady, setPeer_steady, steady_ite, ite_self]

theorem homeEnd_steady (s : State) (j : HomeJob) : (homeEnd s j).steady l c = s.steady l c := by
  have answered (s : State) (data : List Byte) : (answerData s j.req j.status data).steady l c = s.steady l c := by
    unfold answerData
    split <;> simp only [originate_steady]
  simp only [homeEnd, reportHandled_steady, answered, steady_ite, ite_self]
  split <;> simp only [keepAtomic, setPeer_steady, steady_ite, ite_self]

theorem svcPost_steady (s : State) (p d q : Nat) (h : SvcHdr) (payload : List Byte) (waits : Bool) :
    (svcPost s p d q h payload waits).steady l c = s.steady l c := by
  have send (r : State) (u : Unacked) : ((xtSubmit r d 1 u).getD r).steady l c = r.steady l c :=
    getD_steady (fun _ => xtSubmit_steady) rfl
  simp only [svcPost, emit_steady, modFab_steady, steady_ite, ite_self, foldl_steady, implies_true, send]

theorem svcCode_steady (s : State) (p : Nat) (h : SvcHdr) (n : Byte) :
    (svcCode s p h n).steady l c = s.steady l c := by
  simp only [svcCode, svcReply, modPLast_steady, svcPost_steady]

/-! ### The holder's requests, ended by STOP -/

theorem modLive_steady (s : State) (p : Nat) (tag : BitVec 48) (f : Live → Live) :
    (modLive s p tag f).steady l c = s.steady l c := steady_mk ..

theorem dropLive_steady (s : State) (p : Nat) (tag : BitVec 48) :
    (dropLive s p tag).steady l c = s.steady l c := steady_mk ..

theorem itemEmitted_steady (s : State) (p : Nat) (x : OutItem) :
    (itemEmitted s p x).steady l c = s.steady l c := by
  simp only [itemEmitted, dropLive_steady, modReq, modLive_steady, steady_ite, ite_self]

theorem emitItem_steady (s : State) (p : Nat) (x : OutItem) :
    (emitItem s p x).steady true c = s.steady true c := by
  unfold emitItem
  split <;> simp only [itemEmitted_steady, laneGive_steady, modHold_steady, steady_ite, ite_self]

theorem cancelsEnd_steady (s : State) (p : Nat) (slots : List Nat) (msgs : List SvcHdr) (n : Byte) :
    (cancelsEnd s p slots msgs n).steady l c = s.steady l c := by
  have done (s : State) (k : Nat) : (cancelDone s p k n).steady l c = s.steady l c := by
    simp only [cancelDone, modPLast_steady, raisePart_steady, steady_ite, ite_self]
  simp only [cancelsEnd, svcCode_steady, done, foldl_steady, implies_true]

theorem lowerRefs_steady (s : State) (p : Nat) (x : Live) : (lowerRefs s p x).steady l c = s.steady l c := by
  have lower (t : SpTable) (node : Nat) : (lowerNode s p t node).steady l c = s.steady l c :=
    getD_steady (fun _ => xtSubmit_steady) rfl
  unfold lowerRefs
  split <;> simp only [lower, steady_ite, ite_self]

theorem finalItem_steady (s : State) (p : Nat) (tag : BitVec 48) :
    (finalItem s p tag).steady true c = s.steady true c := by
  unfold finalItem
  split <;> simp only [liveItem, emitItem_steady, modLive_steady, cancelsEnd_steady, dropMoves, modHold_steady,
    lowerRefs_steady]

theorem endNow_steady (s : State) (p : Nat) (tag : BitVec 48) (n : Byte) :
    (endNow s p tag n).steady true c = s.steady true c := by
  have leave : (leaveHold s p tag).steady true c = s.steady true c := by
    unfold leaveHold
    split <;> simp only [steady_mk, steady_ite, ite_self]
  simp only [endNow, finalItem_steady, modLive_steady, leave]

theorem endLives_steady (s : State) (p : Nat) : (endLives s p).steady true c = s.steady true c := by
  simp only [endLives, forgetHanded, modHold_steady, dropLive_steady, cancelsEnd_steady, endNow_steady, steady_ite,
    ite_self, foldl_steady, implies_true]

theorem flushLanes_steady (s : State) (p : Nat) (all : Bool) :
    (flushLanes s p all).steady true c = s.steady true c := by
  simp only [flushLanes, refuseItem, emitItem_steady, steady_mk_lanes, foldl_steady, implies_true]

/-! ### Links -/

theorem setGroup_steady (s : State) (g : Nat) (on : Bool) : (setGroup s g on).steady l c = s.steady l c := by
  simp only [setGroup, cageUpdate, emit_steady, modSled_steady, modPow_steady, steady_ite, ite_self]

theorem dropPacket_steady (s : State) (input : Nat) (bs : List Byte) (cause : Nat) :
    (dropPacket s input bs cause).steady l c = s.steady l c := by
  simp only [dropPacket, countDrop, modFab_steady, freeUnits, modVl, setPort_steady, steady_ite, ite_self]

theorem reoffer_steady (s : State) (q : Queued) : (reoffer s q).steady l c = s.steady l c := by
  unfold reoffer
  split <;> simp only [countDrop, modFab_steady, dropPacket_steady, queueOn, setPort_steady, steady_ite, ite_self]

theorem stopPort_steady (s : State) (p : Nat) (x : Port) : (stopPort s p x).steady l c = s.steady l c := by
  simp only [stopPort, setPort_steady, modFab_steady, reoffer_steady, foldl_steady, implies_true]

theorem portRest_steady (s : State) (p : Nat) : (portRest s p).steady l c = s.steady l c := by
  simp only [portRest, portOff, stopPort_steady, enterTraining, setPort_steady, steady_ite, ite_self]

theorem portsRest_steady (s : State) : (portsRest s).steady l c = s.steady l c := by
  simp only [portsRest, setGroup_steady, portRest_steady, steady_ite, ite_self, foldl_steady, implies_true]

theorem domainsOpen_steady (s : State) : (domainsOpen s).steady l c = s.steady l c := by
  unfold domainsOpen
  split <;> simp only [setPortB, modPow_steady, modSled_steady, emit_steady, modMgmt_steady, steady_ite, ite_self]

/-! ### Partitions -/

theorem installPart_steady (s : State) (pt : Pattern) (p : Nat) :
    (installPart s pt p).steady true true = s.steady true true := by
  simp only [installPart, setToll_steady, setRoundabout_steady, setCrossing_steady, steady_mk_both,
    foldl_steady, implies_true]

theorem writeImages_steady (s : State) (p : Nat) : (writeImages s p).steady l c = s.steady l c := by
  unfold writeImages
  split <;> simp only [storeRaw_steady, foldl_steady, implies_true]

theorem enterPatterned_steady (s : State) (p : Nat) : (enterPatterned s p).steady l c = s.steady l c := by
  simp only [enterPatterned, writeImages_steady, setCode_steady, modPart_steady]

theorem refuseHome_steady (s : State) (p : Nat) : (refuseHome s p).steady l c = s.steady l c := by
  simp only [refuseHome, homeEnd_steady, modFab_steady, foldl_steady, implies_true]

theorem startScrub_steady (s : State) (p next : Nat) :
    (startScrub s p next).steady true true = s.steady true true := by
  simp only [startScrub]
  repeat' split
  all_goals simp only [markScrub, markChannels, setCode_steady, draw_steady, refuseHome_steady, orphanPackets,
    modFab_steady, modTrust_steady, removePart, installPart_steady, clearBlock_steady, setPart_steady, steady_mk,
    steady_mk_both, foldl_steady, implies_true]

theorem resetEndpoints_steady (s : State) (p : Nat) : (resetEndpoints s p).steady l c = s.steady l c := by
  simp only [resetEndpoints, epRemove, epWriteBack, storeRaw_steady, modXt_steady, foldl_steady, implies_true]

theorem standInDir_steady (s : State) (p : Nat) : (standInDir s p).steady l c = s.steady l c := by
  have set (s : State) (k : Nat) (e : DirEntry) : (setDir s p k e).steady l c = s.steady l c := by
    simp only [setDir]
    split <;> simp only [modPLast_steady, storeRaw_steady]
  unfold standInDir
  split <;> simp only [set, foldl_steady, implies_true]

theorem resetAtOpen_steady (s : State) (p : Nat) :
    (resetAtOpen s p).steady l c =
      { s with
        lanes := s.lanes.mapVals fun _ x =>
          if x.owner = p then { owner := p, kind := x.kind, stale := x.stale, vector := x.vector } else x
        counters := s.counters.mapVals fun _ x => if x.owner = p then { owner := p } else x : State }.steady l c := by
  simp only [resetAtOpen, modPart_steady, standInDir_steady, resetEndpoints_steady, setBlock_steady, clearBlock_steady,
    steady_mk, steady_ite, ite_self, foldl_steady, implies_true]
  simp only [State.steady]

theorem openPart_steady (s : State) (p : Nat) : (openPart s p).steady true true = s.steady true true := by
  simp only [openPart, startScrub_steady, setCode_steady, modPTrust_steady, resetAtOpen_steady, steady_mk_both,
    steady_ite, ite_self]

end Sys2Proof.Machine
end

section
/-! # The pattern loader takes images

Both ways into the loader run one function of the loader on the state and answer at most in the management state, the
fabric and the boundary (`viaLoader_taken`). What remains is what that function does when its checks hold. -/

namespace Sys2Proof.Machine

/-! ### The two ways into the loader (R42, R399) -/

/-- PATTERN, taken: its handler acts and answers. -/
theorem control_taken {s : State} {m : MHdr} {off n : Nat} (f : State → Handled)
    (h : loaderTakes s (.mgmt m) off n = true) : control s m 0x10 true (some (16 + n)) f =
      answer (f (noteAddress s m)).2.2 m 0x10 (f (noteAddress s m)).1 (f (noteAddress s m)).2.1 := by
  obtain ⟨ht, hl⟩ := of_decide_eq_true h
  exact mgmtRequest_taken s f ht (by simp [hl])

/-- To note the address of a request and to answer it changes the management state, the fabric and the boundary. -/
theorem answer_noted (s : State) (m : MHdr) (command : Nat) (status : Byte) (payload : List Byte)
    (f : State → State) :
    ∃ noted mgmt fab out, answer (f (noteAddress s m)) m command status payload
      = { f (s.modMgmt noted) with mgmt := mgmt, fab := fab, out := out } := by
  rw [answer_frame, noteAddress_frame]
  exact ⟨fun _ => (noteAddress s m).mgmt, _, _, _, rfl⟩

/-- By its register a command that the loader takes does what the loader does, and nothing else. -/
theorem viaLoader_bar0 {s : State} {fn : Fn} {off n : Nat} (f : State → State)
    (h : loaderTakes s (.bar0 fn) off n = true) : viaLoader s (.bar0 fn) off f = f s := by
  obtain ⟨hfn, ha⟩ := Bool.and_eq_true_iff.1 h
  obtain rfl := of_decide_eq_true hfn
  exact globalWrite_reached s f (.inr ⟨rfl, ha⟩)

/-- A command that the loader takes does what the loader does, and an answer changes the management state, the fabric
and the boundary. -/
theorem viaLoader_taken {s : State} {via : Via} {off : Nat} (f : State → State) (h : loaderTakes s via off = true) :
    ∃ noted mgmt fab out, viaLoader s via off f
      = { f (s.modMgmt noted) with mgmt := mgmt, fab := fab, out := out } := by
  cases via with
  | bar0 fn => exact ⟨id, _, _, _, viaLoader_bar0 f h⟩
  | mgmt m =>
    have taken : viaLoader s (.mgmt m) off f = _ := control_taken _ h
    rw [taken]
    exact answer_noted ..

/-! ### BEGIN and ABORT (R43, R44, R48) -/

/-- The target of a BEGIN may be loaded: the module in Verified or Held, or a partition that is stopped. -/
theorem beginLoad_accepted {s : State} {part : Byte} (hb : s.loader.busy = false)
    (hp : part = 255 ∧ (s.regs.state = 2 ∨ s.regs.state = 4) ∨
      part.toNat < 64 ∧ partStopped s part.toNat = true) :
    beginLoad part.toNat s = s.modLoader fun l =>
      { l with receiving := true, target := part.toNat, staged := [], chunks := [], status := 1 } := by
  have ok : (if part.toNat = 255 then decide (s.regs.state = 2 ∨ s.regs.state = 4)
      else decide (part.toNat < 64) && partStopped s part.toNat) = true := by
    rcases hp with ⟨rfl, hs⟩ | ⟨hlt, hs⟩
    · exact decide_eq_true hs
    · rw [if_neg (by omega), hs, decide_eq_true hlt]
      rfl
  unfold beginLoad
  simp only [hb, ok, Bool.not_true, Bool.false_eq_true, if_false]

theorem abortLoad_idle {s : State} (hb : s.loader.busy = false) :
    abortLoad s = s.modLoader fun l => { l with receiving := false, staged := [], chunks := [], status := 0 } := by
  simp [abortLoad, hb]

/-! ### Chunks (R45) -/

/-- Once TOTAL_LENGTH is known, the bytes of a chunk follow those received. -/
theorem takeChunk_known {s : State} (bs : List Byte) (hk : s.loader.knowsTotal = true) :
    takeChunk s bs = s.modLoader fun l => { l with staged := l.staged ++ bs, chunks := l.chunks.drop 1 } := by
  simp [takeChunk, hk]

theorem drainChunks_nil {s : State} (h : s.loader.chunks = []) (n : Nat) : drainChunks n s = s := by
  cases n <;> simp [drainChunks, h]

/-- A chunk whose bytes are still fetched holds up those behind it. -/
theorem drainChunks_fetching {s : State} {off len : Nat} {r : List Chunk}
    (h : s.loader.chunks = { offset := off, length := len, bytes := none } :: r) (n : Nat) : drainChunks n s = s := by
  cases n <;> simp [drainChunks, h]

/-- A chunk with its bytes, the only one, is taken. -/
theorem drainChunks_single {s : State} {off len : Nat} {bs : List Byte} (hk : s.loader.knowsTotal = true)
    (h : s.loader.chunks = [{ offset := off, length := len, bytes := some bs }]) :
    drainChunks 1 s = s.modLoader fun l => { l with staged := l.staged ++ bs, chunks := [] } := by
  simp [drainChunks, h, takeChunk_known bs hk, State.modLoader]

section
variable {s : State} {off len : Nat} (hb : s.loader.busy = false) (hr : s.loader.receiving = true)
  (hc : s.loader.chunks = []) (hok : chunkOk s.loader off len = true)
include hb hr hc hok

/-- A chunk accepted by BAR0 waits for its bytes, which are asked for at PAT_CHUNK_ADDR. -/
theorem chunkWrite_fetch :
    chunkWrite off len none s = (s.modLoader fun l =>
      { l with chunks := [{ offset := off, length := len, bytes := none }] }).emit
        (.hostRead (s.loader.chunkAddr.toNat / 64 * 64) len) := by
  unfold chunkWrite
  simp only [hb, hr, hok, Bool.not_true, Bool.false_eq_true, if_false, Option.isNone_none, if_true]
  rw [drainChunks_fetching (off := off) (len := len) (r := [])]
  · simp [State.modLoader, State.emit, hc]
  · simp [State.modLoader, State.emit, hc]

/-- A chunk accepted with its bytes is received at once, where TOTAL_LENGTH is known. -/
theorem chunkWrite_bytes {bs : List Byte} (hk : s.loader.knowsTotal = true) :
    chunkWrite off len (some bs) s = s.modLoader fun l => { l with staged := l.staged ++ bs, chunks := [] } := by
  unfold chunkWrite
  simp only [hb, hr, hok, Bool.not_true, Bool.false_eq_true, if_false, Option.isNone_some]
  have h1 : (s.modLoader fun l => { l with
      chunks := l.chunks ++ [{ offset := off, length := len, bytes := some bs }] }).loader.chunks
      = [{ offset := off, length := len, bytes := some bs }] := by
    simp [State.modLoader, hc]
  rw [h1, List.length_singleton]
  exact drainChunks_single hk h1

end

/-- A chunk that PATTERN brings, of no more bytes than a message holds. -/
theorem execPatChunk_mgmt {s : State} {m : MHdr} {off len : BitVec 32} {bytes : List Byte}
    (h : loaderTakes s (.mgmt m) 0x18 bytes.length = true) (hlen : bytes.length ≤ 4064) :
    ∃ noted mgmt fab out, execPatChunk (.mgmt m) off len bytes s
      = .next { chunkWrite off.toNat bytes.length (some bytes) (s.modMgmt noted) with
          mgmt := mgmt, fab := fab, out := out } := by
  unfold execPatChunk
  dsimp only
  rw [control_taken _ h, if_neg (by omega)]
  obtain ⟨noted, mgmt, fab, out, ha⟩ := answer_noted s m 0x10 _ _ (chunkWrite off.toNat bytes.length (some bytes))
  exact ⟨noted, mgmt, fab, out, congrArg Host.Outcome.next ha⟩

/-- The bytes of the only chunk that is fetched arrive: they follow those received, and CHUNK_DONE is set. -/
theorem execChunkDone_arrived {s : State} {off : Nat} {bytes : List Byte} (hk : s.loader.knowsTotal = true)
    (hc : s.loader.chunks = [{ offset := off, length := bytes.length, bytes := none }]) :
    execChunkDone (some bytes) s = .next ((s.upd fun s => s.modLoader fun l =>
      { l with events := { l.events with chunkDone := true } }).modLoader fun l =>
        { l with staged := l.staged ++ bytes, chunks := l.chunks.drop 1 }) := by
  unfold execChunkDone
  simp only [hc, Option.filter_some, decide_true, if_true]
  rw [takeChunk_known, drainChunks_nil]
  · rw [State.upd, modLoader_loader, raiseRisen_loader, modLoader_loader, hc]
    rfl
  · rw [State.upd, raiseRisen_loader]
    exact hk

/-! ### The statement -/

/-- Settles O9: each command of a load by what the loader does for it, by both ways. -/
theorem patternImagesAreLoaded : Obligations.PatternImagesAreLoaded := by
  intro via s hb
  refine ⟨fun ht => ⟨fun part hp => ?_, fun part => ?_⟩, fun hr hc off len bytes ht => ⟨?_, ?_⟩, ?_⟩
  · obtain ⟨noted, mgmt, fab, out, hv⟩ := viaLoader_taken (beginLoad part.toNat) ht
    rw [beginLoad_accepted (s := s.modMgmt noted) hb hp] at hv
    exact ⟨_, congrArg Host.Outcome.next hv, rfl, rfl, rfl, rfl, rfl, rfl, rfl, rfl, rfl, rfl⟩
  · obtain ⟨noted, mgmt, fab, out, hv⟩ := viaLoader_taken abortLoad ht
    rw [abortLoad_idle (s := s.modMgmt noted) hb] at hv
    exact ⟨_, congrArg Host.Outcome.next hv, rfl, rfl, rfl, rfl, rfl, rfl, rfl⟩
  · rintro fn rfl hok
    have hv := viaLoader_bar0 (chunkWrite off.toNat len.toNat none) ht
    rw [chunkWrite_fetch hb hr hc hok] at hv
    exact ⟨_, congrArg Host.Outcome.next hv, rfl, rfl, rfl, rfl, rfl, rfl⟩
  · rintro m rfl hlen hok hk
    obtain ⟨noted, mgmt, fab, out, hx⟩ := execPatChunk_mgmt (off := off) (len := len) ht hlen
    rw [chunkWrite_bytes (s := s.modMgmt noted) hb hr hc hok hk] at hx
    exact ⟨_, hx, rfl, rfl, rfl, rfl, rfl⟩
  · intro off bytes hk hc
    refine ⟨_, execChunkDone_arrived hk hc, ?_⟩
    simp [State.upd, hc]

end Sys2Proof.Machine
end

section
/-! # The commit of a full pattern

COMMIT ends in one of two ways, by what `validate` finds (`runCommit_valid`, `runCommit_invalid`); so does the retained
write (`execCommitFlashDone_written`, `execCommitFlashDone_unwritten`). What these leave of the pattern, the loader and
the module state comes from what `portsRest` and `installFull` keep. -/

namespace Sys2Proof.Machine

/-- What the functions below change at most: anything but the time, the pattern and the loader. -/
def openScope : Scope where
  time := false
  pattern := false
  loader := false
  trust := true
  power := true
  cores := true
  memory := true

/-! ### Ports and partitions leave the pattern, the loader and the module state -/

@[simp] theorem portsRest_loader (s : State) : (portsRest s).loader = s.loader :=
  loader_of_kept (w := openScope) (portsRest_kept s rfl) rfl

@[simp] theorem portsRest_pattern (s : State) : (portsRest s).pattern = s.pattern :=
  (pattern_of_kept (w := openScope) (portsRest_kept s rfl) rfl).1

@[simp] theorem portsRest_state (s : State) : (portsRest s).regs.state = s.regs.state :=
  state_of_steady (l := false) (c := false) (portsRest_steady s)

@[simp] theorem installFull_loader (s : State) (n : Pattern) : (installFull s n).loader = s.loader :=
  loader_of_kept (w := { openScope with pattern := true }) (installFull_kept s n rfl rfl) rfl

/-- The partitions of a full pattern are built without the pattern being touched again. -/
theorem buildParts_kept {w : Scope} (hm : w.memory = true) (n : Pattern) (s : State) :
    (n.parts.foldl (fun s kv => newPart s n kv.1) (n.parts.foldl (fun s kv => installPart s n kv.1) s)).kept w
      = s.kept w := by
  simp only [newPart_kept, installPart_kept, hm, foldl_kept, implies_true]

@[simp] theorem installFull_pattern (s : State) (n : Pattern) : (installFull s n).pattern = some n :=
  (pattern_of_kept (w := openScope) (buildParts_kept rfl n _) rfl).1

/-! ### A load that fails (R49) -/

theorem loadFailed_loader (s : State) (code : Nat) (at_ : Option (Nat × Nat)) :
    (loadFailed s code at_).loader = { s.loader with
      receiving := false
      chunks := []
      committing := none
      waitingScrub := false
      status := code
      faultPiece := (at_.map (·.1)).getD s.loader.faultPiece
      faultOffset := (at_.map (·.2)).getD s.loader.faultOffset
      events := { s.loader.events with failed := true } } := by
  unfold loadFailed
  dsimp only
  split <;> simp [State.upd]

theorem loadFailed_pattern (s : State) (code : Nat) (at_ : Option (Nat × Nat)) :
    (loadFailed s code at_).pattern = s.pattern :=
  (pattern_of_kept (w := { openScope with loader := true }) (loadFailed_kept s code at_ rfl rfl) rfl).1

/-- A load of the module that fails leaves the module Held. -/
theorem loadFailed_state {s : State} (code : Nat) (at_ : Option (Nat × Nat)) (ht : s.loader.target = 255) :
    (loadFailed s code at_).regs.state = 4 := by
  simp [loadFailed, ht]

/-! ### COMMIT (R46, R47) -/

/-- COMMIT of an image that is received whole runs the validation. -/
theorem commitLoad_whole {s : State} (hb : s.loader.busy = false) (hr : s.loader.receiving = true)
    (hk : s.loader.knowsTotal = true) (ht : s.loader.received = imageTotal s.loader.staged) :
    commitLoad s = runCommit s := by
  simp [commitLoad, hb, hr, hk, ht]

/-- Validation reads the committed pattern, the signers' keys and the memory that the module carries, and nothing else
of the state. -/
theorem validate_congr {s t : State} (hp : t.pattern = s.pattern) (hk : t.trust = s.trust) (hd : t.sled = s.sled) :
    validate t = validate s := by
  have share : ddrShare t = ddrShare s := by
    funext pt n
    simp only [ddrShare, dimmAt, hd]
  have capacity : tierCapacity t = tierCapacity s := by
    funext pt p tier
    simp only [tierCapacity, share]
  funext bs target stopped floor
  simp only [validate, hp, hk, capacity]

theorem validate_modLoader (s : State) (f : Loader → Loader) : validate (s.modLoader f) = validate s :=
  validate_congr rfl rfl rfl

theorem validate_modMgmt (s : State) (f : Mgmt → Mgmt) : validate (s.modMgmt f) = validate s :=
  validate_congr rfl rfl rfl

theorem partStopped_modLoader (s : State) (f : Loader → Loader) (p : Nat) :
    partStopped (s.modLoader f) p = partStopped s p := rfl

section
variable {s : State} (ht : s.loader.target = 255)
include ht

/-- A full image that passes validation goes to the retained write. -/
theorem runCommit_valid {n : Pattern}
    (hv : validate s s.loader.staged 255 (partStopped s 255) (some s.loader.serialFloor) = (none, n)) :
    runCommit s = s.modLoader fun l =>
      { l with receiving := false, status := 2, waitingScrub := false, committing := some n } := by
  unfold runCommit
  simp only [ht, ne_eq, not_true_eq_false, false_and, if_false, if_true, validate_modLoader, partStopped_modLoader, hv]
  rfl

/-- A full image that fails a check ends the load with that check. -/
theorem runCommit_invalid {c : Check} {n : Pattern}
    (hv : validate s s.loader.staged 255 (partStopped s 255) (some s.loader.serialFloor) = (some c, n)) :
    runCommit s = loadFailed (s.modLoader fun l => { l with receiving := false, status := 2, waitingScrub := true })
      c.code (some (c.piece, c.off)) := by
  unfold runCommit
  simp only [ht, ne_eq, not_true_eq_false, false_and, if_false, if_true, validate_modLoader, partStopped_modLoader, hv]

end

/-! ### The slots of retained images (R54) -/

@[simp] theorem getSlot_putSlot_same (l : Loader) (b : Bool) (x : Slot) : getSlot (putSlot l b x) b = x := by
  cases b <;> rfl

@[simp] theorem getSlot_putSlot_other (l : Loader) (b : Bool) (x : Slot) :
    getSlot (putSlot l b x) (!b) = getSlot l (!b) := by
  cases b <;> rfl

/-- Which slot runs changes nothing else of a slot. -/
theorem getSlot_runSlot (l : Loader) (b d : Bool) :
    getSlot (runSlot l b) d = { getSlot l d with running := d == b } := by
  cases b <;> cases d <;> rfl

/-- A slot is all that the retained write changes. -/
theorem slotWritten_target (l : Loader) (n : Pattern) (ok : Bool) : (slotWritten l n ok).target = l.target := by
  unfold slotWritten putSlot
  dsimp only
  split <;> rfl

/-- The slot that a full commit writes, when the write has failed. -/
theorem getSlot_unwritten (l : Loader) (n : Pattern) : getSlot (slotWritten l n false) (writeSlot l) = { state := 3 } :=
  getSlot_putSlot_same ..

/-- The loader once a full image is written: its slot runs, and its pattern is on trial. -/
def onTrial (l : Loader) (n : Pattern) : Loader :=
  { runSlot (slotWritten l n true) (writeSlot l) with
    fullTrial := some { serial := n.serial, window := n.window }, partialTrials := [] }

/-- The slot that a full commit writes holds the image, a trial. -/
theorem getSlot_onTrial (l : Loader) (n : Pattern) : getSlot (onTrial l n) (writeSlot l) =
    { state := 1, kept := some { image := l.staged, serial := n.serial, count := 0 }, running := true
      floors := floorsFor l n.bodyDigest } := by
  refine (getSlot_runSlot ..).trans ?_
  rw [slotWritten, getSlot_putSlot_same, beq_self_eq_true]
  rfl

/-- The other slot keeps its image. -/
theorem getSlot_onTrial_other (l : Loader) (n : Pattern) :
    (getSlot (onTrial l n) (!writeSlot l)).kept = (getSlot l (!writeSlot l)).kept := by
  change (getSlot (runSlot (slotWritten l n true) (writeSlot l)) _).kept = _
  rw [getSlot_runSlot, slotWritten, getSlot_putSlot_other]

/-! ### The retained write (R51) -/

section
variable {n : Pattern} {s : State} (hn : s.loader.committing = some n) (ht : s.loader.target = 255)
  (hs : s.regs.state = 2 ∨ s.regs.state = 4)
include hn ht hs

/-- The retained write of a full image is done: the pattern is installed, on trial in the slot written. -/
theorem execCommitFlashDone_written :
    execCommitFlashDone true s = .next (portsRest (setModState (committedStatus (installFull (s.modLoader fun l =>
      onTrial l n) n)) 3)) := by
  unfold execCommitFlashDone
  rw [hn]
  dsimp only
  rw [if_neg (by omega), if_pos ht]
  rfl

/-- The retained write of a full image fails: so does the load, and the slot is unreadable. -/
theorem execCommitFlashDone_unwritten :
    execCommitFlashDone false s = .next (loadFailed (s.modLoader fun l => slotWritten l n false) 0x50 none) := by
  unfold execCommitFlashDone
  rw [hn]
  dsimp only
  rw [if_neg (by omega), if_pos ht]
  rfl

end

/-- What a commit that ends well leaves of the loader. -/
theorem committedStatus_loader (s : State) : (committedStatus s).loader =
    { s.loader with committing := none, status := 3, events := { s.loader.events with committed := true } } := by
  simp [committedStatus, State.upd]

@[simp] theorem committedStatus_pattern (s : State) : (committedStatus s).pattern = s.pattern := by
  simp [committedStatus, State.upd]

/-! ### The statement -/

/-- Settles O10: COMMIT by the two outcomes of the validation, the retained write by its own two. -/
theorem patternImagesAreCommitted : Obligations.PatternImagesAreCommitted := by
  refine ⟨fun via part s hb hl hr hk hw ht => ?_, fun n s hn ht hs => ⟨?_, ?_⟩⟩
  · obtain ⟨noted, mgmt, fab, out, hv⟩ := viaLoader_taken commitLoad hl
    rw [commitLoad_whole (s := s.modMgmt noted) hb hr hk hw] at hv
    rcases hc : validate s s.loader.staged 255 (partStopped s 255) (some s.loader.serialFloor) with ⟨_ | c, n⟩
    · rw [runCommit_valid (s := s.modMgmt noted) ht (by rw [validate_modMgmt]; exact hc)] at hv
      exact ⟨_, congrArg Host.Outcome.next hv, rfl, rfl, rfl, rfl, rfl, rfl⟩
    · rw [runCommit_invalid (s := s.modMgmt noted) ht (by rw [validate_modMgmt]; exact hc)] at hv
      have hx : exec (.patCommit via part) s = _ := congrArg Host.Outcome.next hv
      have kept := exec_keeps _ s _ hx
      refine ⟨_, hx, ?_, (pattern_of_kept kept rfl).1, (memory_of_kept kept rfl).1, ?_⟩
      · exact congrArg Loader.receiving (loadFailed_loader ..)
      · dsimp only
        rw [loadFailed_loader]
        exact ⟨rfl, rfl, rfl, rfl, rfl, loadFailed_state _ _ ht⟩
  · refine ⟨_, execCommitFlashDone_written hn ht hs, by simp, by simp, ?_⟩
    rw [portsRest_loader, setModState_loader, committedStatus_loader, installFull_loader, modLoader_loader]
    refine ⟨rfl, rfl, rfl, rfl, ?_, ?_, ?_⟩
    · exact congrArg Slot.state (getSlot_onTrial s.loader n)
    · exact congrArg Slot.kept (getSlot_onTrial s.loader n)
    · exact getSlot_onTrial_other s.loader n
  · refine ⟨_, execCommitFlashDone_unwritten hn ht hs, loadFailed_pattern .., loadFailed_state _ _ ?_, ?_⟩
    · exact (slotWritten_target ..).trans ht
    · rw [loadFailed_loader]
      exact ⟨rfl, rfl, congrArg Slot.state (getSlot_unwritten s.loader n)⟩

end Sys2Proof.Machine
end

section
/-! # Trials are confirmed, and patterns open and stop

Each function of the loader has one equation for a command whose checks hold. What the module's OPEN, a partition's OPEN
and the end of a STOP leave of the rest is what `State.steady` and `State.kept` hold. -/

namespace Sys2Proof.Machine

/-! ### CONFIRM (R52, R53) -/

/-- A CONFIRM that is accepted, none before it under way, starts its record. -/
theorem confirmLoad_accepted {s : State} {part : Nat} (hok : confirmOk s part = true)
    (hc : s.loader.confirming = none) (hw : s.loader.confirmWaiting = []) :
    confirmLoad part s = s.modLoader fun l =>
      { l with confirming := some part, confirmImage := trialImage s.loader part } := by
  simp [confirmLoad, hok, confirmAsked, hc, hw]

/-- The loader once the record of the full pattern in slot `b` is written. -/
def fullConfirmed (l : Loader) (b : Bool) : Loader :=
  let x := getSlot l b
  let o := getSlot l !b
  let y := putSlot l b { x with state := 2, kept := x.kept.map fun k => { k with count := l.confirmCount + 1 } }
  { putSlot y (!b) { o with floors := if o.digest == x.digest then o.floors else [] } with
    confirmCount := l.confirmCount + 1, serialFloor := x.serial, fullTrial := none, status := 4
    confirming := none, confirmImage := none }

/-- The record of the full pattern is written: its slot is confirmed, and the firmware floors rise. -/
theorem confirmDone_full {s : State} {b : Bool} (hc : s.loader.confirming = some 255)
    (hw : s.loader.confirmWaiting = []) (hb : runningSlot s.loader = some b) :
    confirmDone s = (s.modLoader fun l => fullConfirmed l b).modTrust fun t => { t with
      fwSvn := t.bootedSvn.foldl (fun m kv => m.put kv.1 (max (m.at kv.1 0) kv.2)) t.fwSvn } := by
  have next : nextConfirm s.loader = { s.loader with confirming := none, confirmImage := none } := by
    simp [nextConfirm, hw]
  have run : runningSlot (nextConfirm s.loader) = some b := by
    rw [next]
    exact hb
  simp only [confirmDone, hc, if_true, confirmFull, modLoader_loader, run]
  simp only [State.modLoader, next]
  cases b <;> rfl

/-- The window of the full trial has run out, and no CONFIRM of it has been accepted: it is expired (R52). -/
theorem execConfirmExpired_due {x : Trial} {start : Nat} {s : State} (hx : s.loader.fullTrial = some x)
    (ho : x.openedAt = some start) (he : x.expired = false) (hd : start + 1000 * x.window ≤ s.now)
    (hc : s.loader.confirming = none) (hw : s.loader.confirmWaiting = []) :
    execConfirmExpired 255 s = .next (s.upd fun s => s.modLoader fun l => { l with
      events := { l.events with confirmExpired := true }, fullTrial := some { x with expired := true } }) := by
  simp [execConfirmExpired, trialOf, hx, Trial.ends, ho, he, hd, confirmAsked, hc, hw]

/-! ### OPEN of the module (R51, R62) -/

theorem setModState_previous {s : State} {n : Nat} (h : s.regs.state ≠ n) :
    (setModState s n).regs.previous = s.regs.state := by
  simp [setModState, h, State.upd]

section
variable (s : State)

@[simp] theorem openModule_loader : (openModule s).loader = s.loader :=
  loader_of_kept (w := openScope) (openModule_kept s rfl rfl rfl rfl) rfl

@[simp] theorem openModule_pattern : (openModule s).pattern = s.pattern :=
  (pattern_of_kept (w := openScope) (openModule_kept s rfl rfl rfl rfl) rfl).1

/-- The OPEN of the module up to the lease: the module state, the domains, and every Patterned partition. -/
def partsOpened : State :=
  let u := domainsOpen (enterOpenState s)
  ((u.parts.filter fun kv => decide (kv.2.code = 3)).map (·.1)).foldl openPart u

theorem openModule_eq : openModule s = portsRest (restartLease (partsOpened s)) := rfl

theorem partsOpened_steady : (partsOpened s).steady true true = (enterOpenState s).steady true true := by
  simp only [partsOpened, openPart_steady, domainsOpen_steady, foldl_steady, implies_true]

theorem partsOpened_kept {w : Scope} (hk : w.trust = true) (hw : w.power = true) (hc : w.cores = true)
    (hm : w.memory = true) : (partsOpened s).kept w = s.kept w := by
  simp only [partsOpened, openPart_kept, domainsOpen_kept, enterOpenState_kept, hk, hw, hc, hm, foldl_kept,
    implies_true]

theorem partsOpened_now : (partsOpened s).now = s.now :=
  now_of_kept (w := openScope) (partsOpened_kept s rfl rfl rfl rfl) rfl

end

/-- The module opens from Patterned: to Open, or to Doubt while an I/O die is in Doubt, its lease running from now. -/
theorem openModule_opens {s : State} (h : s.regs.state = 3) :
    (openModule s).regs.state = (if dieInDoubt s then 7 else 5) ∧ (openModule s).regs.previous = 3 ∧
      (openModule s).faults = { s.faults with leaseRunning := true, leaseAt := s.now } := by
  have rest : (openModule s).steady true true = (restartLease (partsOpened s)).steady true true := by
    rw [openModule_eq, portsRest_steady]
  have opened := partsOpened_steady s
  have previous : (enterOpenState s).regs.previous = 3 :=
    (setModState_previous (by rw [h]; split <;> decide)).trans h
  have faults : (partsOpened s).faults = s.faults := (faults_of_steady opened).trans (setModState_faults ..)
  refine ⟨?_, ?_, ?_⟩
  · exact (state_of_steady rest).trans ((state_of_steady opened).trans (setModState_state ..))
  · exact (previous_of_steady rest).trans ((previous_of_steady opened).trans previous)
  · rw [faults_of_steady rest, ← faults, ← partsOpened_now s]
    rfl

/-! ### OPEN and STOP of a partition (R58, R62) -/

/-- A map whose values are changed holds the changed values. -/
theorem find_mapVals {α β : Type} (m : KMap α) (f : Nat → α → β) (k : Nat) :
    (m.mapVals f).find k = (m.find k).map (f k) := by
  induction m with
  | nil => rfl
  | cons e r ih =>
    obtain ⟨j, v⟩ := e
    simp only [KMap.mapVals, List.map_cons, KMap.find] at ih ⊢
    split
    · simp_all
    · exact ih

/-- A change of a partition is what is read of it. -/
theorem part_modPart (s : State) (p : Nat) (f : PartState → PartState) : (s.modPart p f).part p = f (s.part p) := by
  simp [State.modPart, State.part]

section
variable {s : State} {p : Nat} (h : (s.part p).trust.owed = false)
include h

/-- A partition that owes no scrub is reset and enters Open. -/
theorem openPart_ready :
    openPart s p = setCode ((resetAtOpen s p).modPTrust p fun t => { t with owed := false }) p 5 := by
  simp [openPart, h]

theorem openPart_code : (openPart s p).code p = 5 := by
  rw [openPart_ready h, setCode_code]

theorem openPart_ready_steady {l c : Bool} : (openPart s p).steady l c = (resetAtOpen s p).steady l c := by
  rw [openPart_ready h, setCode_steady, modPTrust_steady]

/-- Every lane of a partition that enters Open is empty (R82). -/
theorem openPart_lane {n : Nat} {x : Lane} (hx : (openPart s p).lanes.find n = some x) (ho : x.owner = p) :
    x.items = [] := by
  rw [lanes_of_steady (c := true) ((openPart_ready_steady h).trans (resetAtOpen_steady s p)) rfl, find_mapVals] at hx
  obtain ⟨y, -, rfl⟩ := Option.map_eq_some_iff.1 hx
  split at ho <;> simp_all

/-- Every counter of a partition that enters Open is zero, and has no FAULT (R83). -/
theorem openPart_counter {n : Nat} {x : Counter} (hx : (openPart s p).counters.find n = some x) (ho : x.owner = p) :
    x.value = 0 ∧ x.fault = false := by
  rw [counters_of_steady (l := true) ((openPart_ready_steady h).trans (resetAtOpen_steady s p)) rfl,
    find_mapVals] at hx
  obtain ⟨y, -, rfl⟩ := Option.map_eq_some_iff.1 hx
  split at ho <;> simp_all

end

/-- Stored bytes change nothing of a partition but its trust state. -/
theorem part_storeRaw (s : State) (p off : Nat) (bs : List Byte) (q : Nat) :
    (storeRaw s p off bs).part q = { s.part q with trust := ((storeRaw s p off bs).part q).trust } := by
  unfold storeRaw
  dsimp only
  split
  · by_cases hq : q = p
    · subst hq
      simp [State.modPTrust, State.setTrust, State.part]
    · simp [State.modPTrust, State.setTrust, State.part, hq]
  · rfl

/-- The program images that are written leave the state code of a partition, and whether it stops. -/
theorem writeImages_part (s : State) (p q : Nat) :
    ((writeImages s p).code q, ((writeImages s p).part q).stopping) = (s.code q, (s.part q).stopping) := by
  unfold writeImages
  split
  · rfl
  · refine foldl_leaves (fun u => (u.code q, (u.part q).stopping)) (fun u x => ?_) _ s
    simp only [State.code]
    rw [part_storeRaw]

/-- A partition that enters Patterned stops no more. -/
theorem enterPatterned_part (s : State) (p : Nat) :
    (enterPatterned s p).code p = 3 ∧ ((enterPatterned s p).part p).stopping = false := by
  obtain ⟨hcode, hstop⟩ := Prod.mk.inj
    (writeImages_part (setCode (s.modPart p fun x => { x with stopping := false }) p 3) p p)
  refine ⟨hcode.trans (setCode_code ..), hstop.trans ?_⟩
  rw [setCode_part, part_modPart]

/-- A partition that stops, its step ended, is drained and enters Patterned. -/
theorem execStopDrain_drained {s : State} {p : Part} (hs : (s.part p.val).stopping = true) (hc : s.code p.val = 5)
    (hn : (s.part p.val).hold.step = none) :
    execStopDrain p s = .next (enterPatterned (endLives (flushLanes s p.val true) p.val) p.val) := by
  have code : (s.part p.val).code = 5 := hc
  simp [execStopDrain, hs, code, hn]

/-- The end of a STOP leaves the counters. -/
theorem stopDrain_counters (s : State) (p : Nat) :
    (enterPatterned (endLives (flushLanes s p true) p) p).counters = s.counters := by
  refine counters_of_steady (l := true) (c := false) ?_ rfl
  rw [enterPatterned_steady, endLives_steady, flushLanes_steady]

/-! ### The statement -/

/-- OPEN of the module by the loader: what `openModule` leaves, its trial's window begun. -/
theorem openLoad_module {s : State} (h : s.regs.state = 3) :
    openLoad (255 : Byte).toNat s = openModule (startWindow s 255) := by
  simp [openLoad, h]

theorem openLoad_part {s : State} {p : Part} {part : Byte} (hp : part.toNat = p.val) (hs : s.regs.state = 5)
    (hc : s.code p.val = 3) : openLoad part.toNat s = openPart (startWindow s p.val) p.val := by
  have := p.isLt
  rw [openLoad, hp, if_neg (by omega), if_pos ⟨hs, this, hc⟩]

theorem stopLoad_open {s : State} {p : Part} {part : Byte} (hp : part.toNat = p.val) (hc : s.code p.val = 5) :
    stopLoad part.toNat s = s.modPart p.val fun x => { x with stopping := true } := by
  rw [stopLoad, hp, if_pos ⟨p.isLt, hc⟩]

/-- Settles O11: each command by what the loader or the record does for it. -/
theorem trialsAreConfirmedAndPatternsOpen : Obligations.TrialsAreConfirmedAndPatternsOpen := by
  refine ⟨⟨?_, ?_, ?_⟩, ?_, ?_, ?_⟩
  · intro via part arg s ht hc hw hok
    cases via with
    | bar0 fn =>
      obtain ⟨noted, mgmt, fab, out, hv⟩ := viaLoader_taken (confirmLoad part.toNat) ht
      rw [confirmLoad_accepted (s := s.modMgmt noted) hok hc hw] at hv
      exact ⟨_, congrArg Host.Outcome.next hv, rfl, rfl, rfl, rfl, rfl⟩
    | mgmt m =>
      obtain ⟨noted, mgmt, fab, out, hv⟩ := viaLoader_taken
        (fun s => confirmLoad part.toNat (s.modLoader fun l => { l with arg := arg })) ht
      rw [confirmLoad_accepted (s := (s.modMgmt noted).modLoader fun l => { l with arg := arg }) hok hc hw] at hv
      exact ⟨_, congrArg Host.Outcome.next hv, rfl, rfl, rfl, rfl, rfl⟩
  · intro b s hc hw hb
    refine ⟨_, congrArg Host.Outcome.next (confirmDone_full hc hw hb), ?_⟩
    cases b <;> exact ⟨rfl, rfl, rfl, rfl, rfl, rfl, rfl, rfl, rfl, rfl⟩
  · intro x start s hx ho he hd hc hw
    refine ⟨_, execConfirmExpired_due hx ho he hd hc hw, ?_⟩
    simp [State.upd]
  · intro via s ht hs
    obtain ⟨noted, mgmt, fab, out, hv⟩ := viaLoader_taken (openLoad (255 : Byte).toNat) ht
    rw [openLoad_module (s := s.modMgmt noted) hs] at hv
    obtain ⟨hstate, hprevious, hfaults⟩ := openModule_opens (s := startWindow (s.modMgmt noted) 255) hs
    have hpattern := openModule_pattern (startWindow (s.modMgmt noted) 255)
    have hstatus : (openModule (startWindow (s.modMgmt noted) 255)).loader.status = s.loader.status := by
      rw [openModule_loader]
      rfl
    generalize openModule (startWindow (s.modMgmt noted) 255) = u at hv hstate hprevious hfaults hpattern hstatus
    exact ⟨_, congrArg Host.Outcome.next hv, hstate, hprevious, congrArg Faults.leaseRunning hfaults,
      congrArg Faults.leaseAt hfaults, hpattern, hstatus⟩
  · intro via p part s hp ht hs
    refine ⟨fun hc hw => ?_, fun hc => ?_⟩
    · obtain ⟨noted, mgmt, fab, out, hv⟩ := viaLoader_taken (openLoad part.toNat) ht
      rw [openLoad_part (s := s.modMgmt noted) hp hs hc] at hv
      have ready : ((startWindow (s.modMgmt noted) p.val).part p.val).trust.owed = false := hw
      have hx : exec (.patOpen via part) s = _ := congrArg Host.Outcome.next hv
      exact ⟨_, hx, openPart_code ready, fun _ _ => openPart_lane ready, fun _ _ => openPart_counter ready,
        (pattern_of_kept (exec_keeps _ s _ hx) rfl).1⟩
    · obtain ⟨noted, mgmt, fab, out, hv⟩ := viaLoader_taken (stopLoad part.toNat) ht
      rw [stopLoad_open (s := s.modMgmt noted) hp hc] at hv
      have stopping := part_modPart (s.modMgmt noted) p.val fun x => { x with stopping := true }
      exact ⟨_, congrArg Host.Outcome.next hv, congrArg PartState.stopping stopping,
        (congrArg PartState.code stopping).trans hc, rfl, rfl, rfl⟩
  · intro p s hs hc hn
    obtain ⟨hcode, hstop⟩ := enterPatterned_part (endLives (flushLanes s p.val true) p.val) p.val
    have hx : exec (.stopDrain p) s = _ := execStopDrain_drained hs hc hn
    exact ⟨_, hx, hcode, hstop, (pattern_of_kept (exec_keeps _ s _ hx) rfl).1, stopDrain_counters s p.val⟩

end Sys2Proof.Machine
end

section
/-! # What no change ends

An invariant is a property of states that speaks of the lanes, the counters, the Awls, the blocks and the memory alone; so
whatever changes another part of the state leaves it true. `I.Free k` says that it also outlives the changes of store `k`
that the model makes: of the lanes those that overfill none, of the memory those that keep its canonical form. Each
function of the model has one law: applied to a state in which an invariant holds, it gives a state in which the invariant
holds. Its hypotheses name the stores that the function may change: `hl` the lanes, `hc` the counters, `ha` the Awls, `hb`
the blocks, `hm` the memory, `hI` any of them. The law of a command (`execX_leads`) is that of the functions it calls;
`exec_leads` puts the commands together. With `lanesFit` they say that no step overfills a lane; with `keepsLanes` and its
kin, what a function leaves unchanged. -/

namespace Sys2Proof.Machine

/-- The parts of the state of which an invariant speaks. -/
inductive Store where
  | lanes
  | counters
  | awls
  | blocks
  | memory
  deriving DecidableEq

/-- The stores of a state, but for store `k`. -/
def State.storesBut (s : State) (k : Store) :
    Option (KMap Lane) × Option (KMap Counter) × Option (KMap Awl) × Option (KMap Block) ×
      Option (List Host.Cell × List Nat) :=
  (unlessFree (k == .lanes) s.lanes, unlessFree (k == .counters) s.counters, unlessFree (k == .awls) s.awls,
    unlessFree (k == .blocks) s.blocks, unlessFree (k == .memory) (s.mem, s.badWords))

/-- All stores of a state. -/
def State.stores (s : State) :
    KMap Lane × KMap Counter × KMap Awl × KMap Block × List Host.Cell × List Nat :=
  (s.lanes, s.counters, s.awls, s.blocks, s.mem, s.badWords)

/-- A change of store `k` is sound: it overfills no lane (R68), it keeps the memory canonical. -/
def soundChange (k : Store) (s t : State) : Prop :=
  match k with
  | .lanes => s.lanesOk = true → t.lanesOk = true
  | .memory => s.memOk = true → t.memOk = true
  | _ => True

/-- A property of the stores of a state. -/
structure Invariant where
  holds : State → Prop
  other : ∀ {s t : State}, holds s → t.stores = s.stores → holds t

/-- An invariant outlives every sound change of store `k`. -/
structure Invariant.Free (I : Invariant) (k : Store) : Prop where
  change : ∀ {s t : State}, I.holds s → t.storesBut k = s.storesBut k → soundChange k s t → I.holds t

/-- Where a command ends in a next state, the invariant holds there. -/
def Invariant.leads (I : Invariant) (o : Out) : Prop := ∀ t, o = .next t → I.holds t

/-- The lanes are `m`. -/
def keepsLanes (m : KMap Lane) : Invariant where
  holds s := s.lanes = m
  other hs h := (congrArg Prod.fst h).trans hs

/-- The counters are `m`. -/
def keepsCounters (m : KMap Counter) : Invariant where
  holds s := s.counters = m
  other hs h := (congrArg (·.2.1) h).trans hs

/-- The Awls are `m`. -/
def keepsAwls (m : KMap Awl) : Invariant where
  holds s := s.awls = m
  other hs h := (congrArg (·.2.2.1) h).trans hs

/-- The blocks are `m`. -/
def keepsBlocks (m : KMap Block) : Invariant where
  holds s := s.blocks = m
  other hs h := (congrArg (·.2.2.2.1) h).trans hs

variable {I : Invariant} {s : State}

/-! ### Equal lanes, counters, Awls and blocks outlive changes of the other stores -/

theorem keepsLanes_free {m : KMap Lane} {k : Store} (hk : k ≠ .lanes) : (keepsLanes m).Free k where
  change {s t} hs h _ :=
    (unlessFree_inj (congrArg Prod.fst h) (beq_eq_false_iff_ne.2 hk) : t.lanes = s.lanes).trans hs

theorem keepsCounters_free {m : KMap Counter} {k : Store} (hk : k ≠ .counters) : (keepsCounters m).Free k where
  change {s t} hs h _ :=
    (unlessFree_inj (congrArg (·.2.1) h) (beq_eq_false_iff_ne.2 hk) : t.counters = s.counters).trans hs

theorem keepsAwls_free {m : KMap Awl} {k : Store} (hk : k ≠ .awls) : (keepsAwls m).Free k where
  change {s t} hs h _ :=
    (unlessFree_inj (congrArg (·.2.2.1) h) (beq_eq_false_iff_ne.2 hk) : t.awls = s.awls).trans hs

theorem keepsBlocks_free {m : KMap Block} {k : Store} (hk : k ≠ .blocks) : (keepsBlocks m).Free k where
  change {s t} hs h _ :=
    (unlessFree_inj (congrArg (·.2.2.2.1) h) (beq_eq_false_iff_ne.2 hk) : t.blocks = s.blocks).trans hs

/-! ### Branches and folds -/

theorem ite_holds {c : Prop} [Decidable c] {s t : State} (hs : I.holds s) (ht : I.holds t) :
    I.holds (if c then s else t) := by
  split <;> assumption

/-- A branch that goes on from the state that the other branch leaves. -/
theorem ite_self_holds {c : Prop} [Decidable c] {s t : State} (ht : I.holds s → I.holds t) (hs : I.holds s) :
    I.holds (if c then t else s) :=
  ite_holds (ht hs) hs

theorem ite_else_holds {c : Prop} [Decidable c] {s t : State} (ht : I.holds s → I.holds t) (hs : I.holds s) :
    I.holds (if c then s else t) :=
  ite_holds hs (ht hs)

theorem ite_leads {c : Prop} [Decidable c] {a b : Out} (ha : I.leads a) (hb : I.leads b) :
    I.leads (if c then a else b) := by
  split <;> assumption

theorem next_leads {t : State} (h : I.holds t) : I.leads (.next t) := by
  rintro _ ⟨⟩
  exact h

theorem fault_leads {f : Fault} : I.leads (.fault f) := by
  rintro t ⟨⟩

/-- A fold leaves an invariant true that each of its steps does, whatever it carries along with the state. -/
theorem foldl_proj_holds {α β : Type} (state : β → State) {f : β → α → β}
    (hf : ∀ r x, I.holds (state r) → I.holds (state (f r x))) {l : List α} {r : β} (h : I.holds (state r)) :
    I.holds (state (l.foldl f r)) := by
  induction l generalizing r with
  | nil => exact h
  | cons x l ih => exact ih (hf _ _ h)

theorem foldl_holds {α : Type} {f : State → α → State} (hf : ∀ s x, I.holds s → I.holds (f s x)) {l : List α}
    (hs : I.holds s) : I.holds (l.foldl f s) :=
  foldl_proj_holds id hf hs

/-- A state that an operation may not give, with the state to fall back on. -/
theorem getD_holds {o : Option State} {d : State} (ho : ∀ t, o = some t → I.holds t) (hd : I.holds d) :
    I.holds (o.getD d) := by
  cases o with
  | none => exact hd
  | some t => exact ho t rfl

/-- An update of parts that are no stores. -/
theorem mk_holds {pending out draws now sled regs loader pattern partials parts cores tolls roundabouts crossings hbmEcc
    ddrEcc nvCmds fab mgmt trust power faults trace} (hs : I.holds s) :
    I.holds (State.mk pending out draws now sled regs loader pattern partials parts s.lanes s.counters s.awls s.blocks
      cores tolls roundabouts crossings s.mem s.badWords hbmEcc ddrEcc nvCmds fab mgmt trust power faults trace) :=
  I.other hs rfl

/-! ### Lanes within their 16 stages -/

/-- A lane that no map entry gives holds nothing. -/
theorem lane_fits (h : s.lanesOk = true) (n : Nat) : (s.lane n).items.length ≤ 16 := by
  have entry (m : KMap Lane) (hm : (m.all fun kv => decide (kv.2.items.length ≤ 16)) = true) :
      (m.at n {}).items.length ≤ 16 := by
    induction m with
    | nil => exact Nat.zero_le _
    | cons kv r ih =>
      obtain ⟨j, l⟩ := kv
      obtain ⟨hl, hr⟩ := Bool.and_eq_true_iff.1 hm
      simp only [KMap.at, KMap.find] at ih ⊢
      split
      · exact of_decide_eq_true hl
      · exact ih hr
  exact entry s.lanes h

theorem lanesOk_setLane {n : Nat} {x : Lane} (hx : s.lanesOk = true → x.items.length ≤ 16) (h : s.lanesOk = true) :
    (s.setLane n x).lanesOk = true := by
  refine List.all_eq_true.2 fun e he => ?_
  obtain rfl | he := mem_put _ _ _ _ he
  · exact decide_eq_true (hx h)
  · exact List.all_eq_true.1 h e he

/-- A lane set to hold no more items than before, or at most 16. -/
theorem setLane_holds {n : Nat} {x : Lane} (hl : I.Free .lanes)
    (hx : s.lanesOk = true → x.items.length ≤ 16) (hs : I.holds s) : I.holds (s.setLane n x) :=
  hl.change hs rfl (lanesOk_setLane hx)

/-- A lane set to the items that it held. -/
theorem setLane_items_holds {n : Nat} {x : Lane} (hl : I.Free .lanes) (hx : x.items = (s.lane n).items)
    (hs : I.holds s) : I.holds (s.setLane n x) :=
  setLane_holds hl (fun h => hx ▸ lane_fits h n) hs

theorem lanesOk_filter {m : KMap Lane} {p : Nat × Lane → Bool}
    (h : (m.all fun kv => decide (kv.2.items.length ≤ 16)) = true) :
    ((m.filter p).all fun kv => decide (kv.2.items.length ≤ 16)) = true :=
  List.all_eq_true.2 fun e he => List.all_eq_true.1 h e (List.mem_filter.1 he).1

/-- A map of the lanes that lengthens none. -/
theorem lanesOk_mapVals {m : KMap Lane} {f : Nat → Lane → Lane} (hf : ∀ n l, (f n l).items.length ≤ l.items.length)
    (h : (m.all fun kv => decide (kv.2.items.length ≤ 16)) = true) :
    ((m.mapVals f).all fun kv => decide (kv.2.items.length ≤ 16)) = true := by
  refine List.all_eq_true.2 fun e he => ?_
  obtain ⟨kv, hkv, rfl⟩ := List.mem_map.1 he
  exact decide_eq_true ((hf _ _).trans (of_decide_eq_true (List.all_eq_true.1 h kv hkv)))

/-! ### Updates of stores -/

/-- An update of the lanes and of parts that are no stores. -/
theorem mk_lanes_holds {pending out draws now sled regs loader pattern partials parts lanes cores tolls roundabouts
    crossings hbmEcc ddrEcc nvCmds fab mgmt trust power faults trace} (hl : I.Free .lanes)
    (ok : s.lanesOk = true → (lanes.all fun kv => decide (kv.2.items.length ≤ 16)) = true) (hs : I.holds s) :
    I.holds (State.mk pending out draws now sled regs loader pattern partials parts lanes s.counters s.awls s.blocks
      cores tolls roundabouts crossings s.mem s.badWords hbmEcc ddrEcc nvCmds fab mgmt trust power faults trace) :=
  hl.change hs rfl ok

/-- An update of the lanes, the counters and of parts that are no stores. -/
theorem mk_lanesCounters_holds {pending out draws now sled regs loader pattern partials parts lanes counters cores tolls
    roundabouts crossings hbmEcc ddrEcc nvCmds fab mgmt trust power faults trace} (hl : I.Free .lanes)
    (hc : I.Free .counters)
    (ok : s.lanesOk = true → (lanes.all fun kv => decide (kv.2.items.length ≤ 16)) = true) (hs : I.holds s) :
    I.holds (State.mk pending out draws now sled regs loader pattern partials parts lanes counters s.awls s.blocks
      cores tolls roundabouts crossings s.mem s.badWords hbmEcc ddrEcc nvCmds fab mgmt trust power faults trace) :=
  hc.change (s := { s with lanes := lanes }) (mk_lanes_holds hl ok hs) rfl trivial

/-- An update of the Awls and of parts that are no stores. -/
theorem mk_awls_holds {pending out draws now sled regs loader pattern partials parts awls cores tolls roundabouts
    crossings hbmEcc ddrEcc nvCmds fab mgmt trust power faults trace} (ha : I.Free .awls) (hs : I.holds s) :
    I.holds (State.mk pending out draws now sled regs loader pattern partials parts s.lanes s.counters awls s.blocks
      cores tolls roundabouts crossings s.mem s.badWords hbmEcc ddrEcc nvCmds fab mgmt trust power faults trace) :=
  ha.change hs rfl trivial

/-- An update of the blocks and of parts that are no stores. -/
theorem mk_blocks_holds {pending out draws now sled regs loader pattern partials parts blocks cores tolls roundabouts
    crossings hbmEcc ddrEcc nvCmds fab mgmt trust power faults trace} (hb : I.Free .blocks) (hs : I.holds s) :
    I.holds (State.mk pending out draws now sled regs loader pattern partials parts s.lanes s.counters s.awls blocks
      cores tolls roundabouts crossings s.mem s.badWords hbmEcc ddrEcc nvCmds fab mgmt trust power faults trace) :=
  hb.change hs rfl trivial

/-- An update of the memory and of parts that are no stores. -/
theorem mk_memory_holds {pending out draws now sled regs loader pattern partials parts cores tolls roundabouts crossings
    mem badWords hbmEcc ddrEcc nvCmds fab mgmt trust power faults trace} (hm : I.Free .memory)
    (ok : s.memOk = true → Memory.wf mem = true ∧ risingKeys badWords = true) (hs : I.holds s) :
    I.holds (State.mk pending out draws now sled regs loader pattern partials parts s.lanes s.counters s.awls s.blocks
      cores tolls roundabouts crossings mem badWords hbmEcc ddrEcc nvCmds fab mgmt trust power faults trace) :=
  hm.change hs rfl fun h => (memOk_iff _).2 (ok h)

/-- An update of all stores, sound for lanes and memory. -/
theorem all_holds {t : State} (hI : ∀ k, I.Free k) (hl : s.lanesOk = true → t.lanesOk = true)
    (hm : s.memOk = true → t.memOk = true) (hs : I.holds s) : I.holds t := by
  have h₁ : I.holds { s with lanes := t.lanes } := (hI .lanes).change hs rfl hl
  have h₂ : I.holds { s with lanes := t.lanes, counters := t.counters } := (hI .counters).change h₁ rfl trivial
  have h₃ : I.holds { s with lanes := t.lanes, counters := t.counters, awls := t.awls } :=
    (hI .awls).change h₂ rfl trivial
  have h₄ : I.holds { s with lanes := t.lanes, counters := t.counters, awls := t.awls, blocks := t.blocks } :=
    (hI .blocks).change h₃ rfl trivial
  exact (hI .memory).change h₄ rfl hm

/-! ### The setters of State and the shared operations -/

theorem setPart_holds {p x} (hs : I.holds s) : I.holds (s.setPart p x) := I.other hs rfl
theorem modPart_holds {p f} (hs : I.holds s) : I.holds (s.modPart p f) := I.other hs rfl
theorem setToll_holds {n x} (hs : I.holds s) : I.holds (s.setToll n x) := I.other hs rfl
theorem setRoundabout_holds {n x} (hs : I.holds s) : I.holds (s.setRoundabout n x) := I.other hs rfl
theorem setCrossing_holds {n x} (hs : I.holds s) : I.holds (s.setCrossing n x) := I.other hs rfl
theorem setPort_holds {n x} (hs : I.holds s) : I.holds (s.setPort n x) := I.other hs rfl
theorem setPeer_holds {d x} (hs : I.holds s) : I.holds (s.setPeer d x) := I.other hs rfl
theorem setBank_holds {b x} (hs : I.holds s) : I.holds (s.setBank b x) := I.other hs rfl
theorem setDrive_holds {d x} (hs : I.holds s) : I.holds (s.setDrive d x) := I.other hs rfl
theorem setCore_holds {b c x} (hs : I.holds s) : I.holds (s.setCore b c x) := I.other hs rfl
theorem setPMem_holds {p x} (hs : I.holds s) : I.holds (s.setPMem p x) := I.other hs rfl
theorem setTrust_holds {p x} (hs : I.holds s) : I.holds (s.setTrust p x) := I.other hs rfl
theorem setPower_holds {p x} (hs : I.holds s) : I.holds (s.setPower p x) := I.other hs rfl
theorem setPFault_holds {p x} (hs : I.holds s) : I.holds (s.setPFault p x) := I.other hs rfl
theorem modPLast_holds {p f} (hs : I.holds s) : I.holds (s.modPLast p f) := I.other hs rfl
theorem modHold_holds {p f} (hs : I.holds s) : I.holds (s.modHold p f) := I.other hs rfl
theorem modPMem_holds {p f} (hs : I.holds s) : I.holds (s.modPMem p f) := I.other hs rfl
theorem modXt_holds {p f} (hs : I.holds s) : I.holds (s.modXt p f) := I.other hs rfl
theorem modPTrust_holds {p f} (hs : I.holds s) : I.holds (s.modPTrust p f) := I.other hs rfl
theorem modPPower_holds {p f} (hs : I.holds s) : I.holds (s.modPPower p f) := I.other hs rfl
theorem modPFault_holds {p f} (hs : I.holds s) : I.holds (s.modPFault p f) := I.other hs rfl
theorem modMgmt_holds {f} (hs : I.holds s) : I.holds (s.modMgmt f) := I.other hs rfl
theorem modFab_holds {f} (hs : I.holds s) : I.holds (s.modFab f) := I.other hs rfl
theorem modRegs_holds {f} (hs : I.holds s) : I.holds (s.modRegs f) := I.other hs rfl
theorem modLoader_holds {f} (hs : I.holds s) : I.holds (s.modLoader f) := I.other hs rfl
theorem modPow_holds {f} (hs : I.holds s) : I.holds (s.modPow f) := I.other hs rfl
theorem modFlt_holds {f} (hs : I.holds s) : I.holds (s.modFlt f) := I.other hs rfl
theorem modTrust_holds {f} (hs : I.holds s) : I.holds (s.modTrust f) := I.other hs rfl
theorem modSled_holds {f} (hs : I.holds s) : I.holds (s.modSled f) := I.other hs rfl
theorem emit_holds {e} (hs : I.holds s) : I.holds (s.emit e) := I.other hs rfl
theorem draw_holds (hs : I.holds s) : I.holds s.draw.2 := I.other hs rfl

theorem setAwl_holds {n x} (ha : I.Free .awls) (hs : I.holds s) : I.holds (s.setAwl n x) := ha.change hs rfl trivial
theorem setBlock_holds {b x} (hb : I.Free .blocks) (hs : I.holds s) : I.holds (s.setBlock b x) := hb.change hs rfl trivial
theorem setEng_holds {b x} (hb : I.Free .blocks) (hs : I.holds s) : I.holds (s.setEng b x) := hb.change hs rfl trivial
theorem setAttn_holds {b x} (hb : I.Free .blocks) (hs : I.holds s) : I.holds (s.setAttn b x) := hb.change hs rfl trivial
theorem setPwr_holds {b x} (hb : I.Free .blocks) (hs : I.holds s) : I.holds (s.setPwr b x) := hb.change hs rfl trivial

/-! ### The setters of State and the shared operations -/

theorem raisePart_holds {p v} (hs : I.holds s) : I.holds (raisePart s p v) := by
  rw [raisePart_frame]
  exact I.other hs rfl

theorem raiseSources_holds {l} (hs : I.holds s) : I.holds (raiseSources s l) := by
  rw [raiseSources_frame]
  exact I.other hs rfl

theorem raiseRisen_holds {old} (hs : I.holds s) : I.holds (raiseRisen old s) := by
  rw [raiseRisen_frame]
  exact I.other hs rfl

theorem upd_holds {f} (hf : ∀ s, I.holds s → I.holds (f s)) (hs : I.holds s) : I.holds (s.upd f) := by
  simp only [State.upd]
  exact raiseRisen_holds (hf _ hs)

theorem noteAddress_holds {m} (hs : I.holds s) : I.holds (noteAddress s m) := by
  rw [noteAddress_frame]
  exact I.other hs rfl

theorem trayUpdate_holds (hs : I.holds s) : I.holds (trayUpdate s) := by
  rw [trayUpdate_frame]
  exact I.other hs rfl

theorem sendNotice_holds {i3c command payload} (hs : I.holds s) : I.holds (sendNotice s i3c command payload) := by
  rw [sendNotice_frame]
  exact I.other hs rfl

theorem keepEvent_holds {e} (hs : I.holds s) : I.holds (keepEvent s e) := by
  rw [keepEvent_frame]
  exact I.other hs rfl

theorem recordEvent_holds {kind part comp epoch tenant state} (hs : I.holds s) :
    I.holds (recordEvent s kind part comp epoch tenant state) := by
  rw [recordEvent_frame]
  exact I.other hs rfl

theorem setCode_holds {p c} (hs : I.holds s) : I.holds (setCode s p c) := by
  rw [setCode_frame]
  exact I.other hs rfl

theorem setModState_holds {c} (hs : I.holds s) : I.holds (setModState s c) := by
  rw [setModState_frame]
  exact I.other hs rfl

theorem faultRecord_holds {cls code part unitKind unit address detail tag} (hs : I.holds s) :
    I.holds (faultRecord s cls code part unitKind unit address detail tag) := by
  rw [faultRecord_frame]
  exact I.other hs rfl

theorem raiseLane_holds {l} (hs : I.holds s) : I.holds (raiseLane s l) := by
  rw [raiseLane_frame]
  exact I.other hs rfl

theorem laneArmed_holds {n} (hl : I.Free .lanes) (hs : I.holds s) : I.holds (laneArmed s n) :=
  ite_holds (raiseLane_holds (setLane_items_holds hl rfl hs)) hs

theorem traceEvent_holds {p unit number offset} (hs : I.holds s) : I.holds (traceEvent s p unit number offset) := by
  rw [traceEvent_frame]
  exact I.other hs rfl

theorem raArrive_holds {n} (hs : I.holds s) : I.holds (raArrive s n) := by
  unfold raArrive
  repeat' split
  all_goals apply_rules [setRoundabout_holds]

theorem lanePush_holds {n it} (hl : I.Free .lanes) (hs : I.holds s) : I.holds (lanePush s n it) := by
  unfold lanePush
  split
  · exact hs
  next l hn =>
    have fits (h : s.lanesOk = true) : l.items.length ≤ 16 := by
      have := lane_fits h n
      rwa [lane_of_find s hn] at this
    have ht : I.holds (traceEvent s l.owner .lane n l.items.length) := traceEvent_holds hs
    dsimp only
    split
    next hroom =>
      refine laneArmed_holds hl (setLane_holds hl (fun _ => ?_) (ite_holds (raArrive_holds ht) ht))
      simpa using hroom
    · have hf : I.holds ((traceEvent s l.owner .lane n l.items.length).setLane n
          { l with overrun := true, drops := satAdd 0xFFFF_FFFF l.drops 1 }) :=
        setLane_holds hl (fun h => fits (by simpa [State.lanesOk] using h)) ht
      exact ite_holds (raiseLane_holds hf) hf

theorem laneGive_holds {n who it} (hl : I.Free .lanes) (hs : I.holds s) : I.holds (laneGive s n who it) :=
  ite_holds (lanePush_holds hl hs) (setLane_holds hl (fun h => lane_fits h n) hs)

theorem lanePop_holds {n} (hl : I.Free .lanes) (hs : I.holds s) : I.holds (lanePop s n).2 := by
  unfold lanePop
  dsimp only
  split
  · exact hs
  next it r hi =>
    have ht : I.holds (traceEvent s (s.lane n).owner .lane n 0) := traceEvent_holds hs
    refine ite_holds ?_ (modXt_holds ?_) <;> refine setLane_holds hl (fun h => ?_) ht
    all_goals
      have fits := lane_fits (s := s) (by simpa [State.lanesOk] using h) n
      rw [hi] at fits
      exact Nat.le_of_succ_le fits

theorem setCounter_holds {n x} (hc : I.Free .counters) (hs : I.holds s) : I.holds (s.setCounter n x) :=
  hc.change hs rfl trivial

theorem ctrAdd_holds {c amount failed} (hc : I.Free .counters) (hs : I.holds s) : I.holds (ctrAdd s c amount failed) := by
  unfold ctrAdd
  split <;> apply_rules [setCounter_holds, traceEvent_holds]

theorem ctrSet_holds {c v} (hc : I.Free .counters) (hs : I.holds s) : I.holds (ctrSet s c v) := by
  unfold ctrSet
  split <;> apply_rules [setCounter_holds, traceEvent_holds]

theorem noteStep_holds {p c} (hs : I.holds s) : I.holds (noteStep s p c) := by
  rw [noteStep_frame]
  exact I.other hs rfl

/-! ### Accesses to registers -/

theorem logAccess_holds {fn off} (hs : I.holds s) : I.holds (logAccess s fn off) := by
  rw [logAccess_frame]
  exact I.other hs rfl

theorem cobblerStop_holds {p b} (hb : I.Free .blocks) (hs : I.holds s) : I.holds (cobblerStop s p b) := by
  simp only [cobblerStop]
  apply_rules [ite_holds, faultRecord_holds, setBlock_holds]

theorem notOwned_holds {src} (hb : I.Free .blocks) (hs : I.holds s) : I.holds (notOwned s src) := by
  unfold notOwned
  split
  · exact cobblerStop_holds hb hs
  · exact hs

theorem portGate_holds {src owner off} (hb : I.Free .blocks) (hs : I.holds s) : I.holds (portGate s src owner off).2 := by
  unfold portGate
  repeat' split
  all_goals apply_rules [cobblerStop_holds, logAccess_holds]

theorem guarded_holds {src owner off f} (hb : I.Free .blocks) (hf : ∀ s, I.holds s → I.holds (f s)) (hs : I.holds s) :
    I.holds (guarded s src owner off f) := ite_holds (hf _ (portGate_holds hb hs)) (portGate_holds hb hs)

theorem partWrite_holds {src p off f} (hb : I.Free .blocks) (hf : ∀ s, I.holds s → I.holds (f s)) (hs : I.holds s) :
    I.holds (partWrite s src p off f) := guarded_holds hb hf hs

theorem blockWrite_holds {src b off f} (hb : I.Free .blocks) (hf : ∀ s, I.holds s → I.holds (f s)) (hs : I.holds s) :
    I.holds (blockWrite s src b off f) := guarded_holds hb hf hs

theorem globalWrite_holds {src off f} (hb : I.Free .blocks) (hf : ∀ s, I.holds s → I.holds (f s)) (hs : I.holds s) :
    I.holds (globalWrite s src off f) := by
  unfold globalWrite
  split
  · exact hf _ hs
  · exact ite_holds hs (ite_holds (hf _ hs) (logAccess_holds hs))
  · exact ite_holds (cobblerStop_holds hb hs) hs
  · exact hs

/-! ### Memory -/

theorem countFixed_holds {tier ch} (hs : I.holds s) : I.holds (countFixed s tier ch) :=
  ite_holds (mk_holds hs) (mk_holds hs)

theorem countLost_holds {tier ch} (hs : I.holds s) : I.holds (countLost s tier ch) :=
  ite_holds (mk_holds (modFlt_holds hs)) (mk_holds (modFlt_holds hs))

theorem eccMet_holds {p off len found} (hm : I.Free .memory) (hs : I.holds s) : I.holds (eccMet s p off len found) := by
  unfold eccMet
  split
  · exact hs
  · exact ite_holds hs (ite_holds (hm.change hs rfl fun h => memOk_addBad s _ h) (ite_holds hs (countFixed_holds hs)))

theorem eccMetIn_holds {p spans found} (hm : I.Free .memory) (hs : I.holds s) : I.holds (eccMetIn s p spans found) :=
  foldl_holds (fun _ _ hs => eccMet_holds hm hs) hs

theorem badWordFault_holds {p off tag code} (hs : I.holds s) : I.holds (badWordFault s p off tag code) :=
  ite_holds (faultRecord_holds hs) (faultRecord_holds (countLost_holds hs))

theorem badWordFaults_holds {p off len tag} (hs : I.holds s) : I.holds (badWordFaults s p off len tag) := by
  unfold badWordFaults
  dsimp only
  refine foldl_holds (fun _ _ hs => badWordFault_holds hs) ?_
  split
  · exact hs
  · exact faultRecord_holds hs

theorem transferRead_holds {p off len tag} (hs : I.holds s) : I.holds (transferRead s p off len tag).2.2 :=
  ite_holds (badWordFaults_holds hs) hs

theorem storeRaw_holds {p off bs} (hm : I.Free .memory) (hs : I.holds s) : I.holds (storeRaw s p off bs) := by
  refine hm.change hs ?_ (memOk_storeRaw s p off bs)
  unfold storeRaw
  dsimp only
  split <;> rfl

theorem transferWrite_holds {p off bs covers tag} (hm : I.Free .memory) (hs : I.holds s) :
    I.holds (transferWrite s p off bs covers tag).2 := by
  simp only [transferWrite]
  split
  · exact hs
  · exact mk_holds (ite_holds (badWordFaults_holds (storeRaw_holds hm hs)) (storeRaw_holds hm hs))

theorem ringRead_holds {p base size bytes head} (hs : I.holds s) : I.holds (ringRead s p base size bytes head).2.2 := by
  simp only [ringRead]
  split
  · exact transferRead_holds hs
  · exact hs

/-! ### The transport's shared operations -/

theorem originate0_holds {dest pinned kind count data} (hs : I.holds s) :
    I.holds (originate0 s dest pinned kind count data) := by
  rw [originate0_frame]
  exact I.other hs rfl

theorem originate_holds {p} (hs : I.holds s) : I.holds (originate s p) := ite_holds hs (modFab_holds hs)

theorem freeContext_holds {d} (hs : I.holds s) : I.holds (freeContext s d) := setPeer_holds hs

theorem withContext_holds {d r} (ho : withContext s d = some r) (hs : I.holds s) : I.holds r := by
  simp only [withContext] at ho
  split at ho
  · exact Option.some.inj ho ▸ hs
  · split at ho
    · exact Option.some.inj ho ▸ setPeer_holds hs
    · obtain ⟨e, -, rfl⟩ := Option.map_eq_some_iff.1 ho
      exact setPeer_holds (freeContext_holds hs)

theorem sendNow_holds {d cls u} (hs : I.holds s) : I.holds (sendNow s d cls u) := originate_holds (setPeer_holds hs)

theorem sendWaiting_holds {d cls fuel} (hs : I.holds s) : I.holds (sendWaiting d cls fuel s) := by
  induction fuel generalizing s with
  | zero => exact hs
  | succ n ih =>
    simp only [sendWaiting]
    split
    · exact hs
    · exact ite_holds hs (ih (sendNow_holds (setPeer_holds hs)))

theorem xtSubmit_holds {d cls u r} (ho : xtSubmit s d cls u = some r) (hs : I.holds s) : I.holds r := by
  simp only [xtSubmit] at ho
  split at ho
  · cases ho
  · exact Option.some.inj ho ▸ sendWaiting_holds (setPeer_holds (getD_holds (fun _ h => withContext_holds h hs) hs))

theorem sendAck_holds {d cls status errPsn} (hs : I.holds s) : I.holds (sendAck s d cls status errPsn) :=
  originate_holds (setPeer_holds hs)

theorem reportHandled_holds {x cls status dup} (hs : I.holds s) : I.holds (reportHandled s x cls status dup) :=
  ite_holds (sendAck_holds (setPeer_holds hs)) (setPeer_holds hs)

theorem heard_holds {d r} (ho : heard s d = some r) (hs : I.holds s) : I.holds r := by
  obtain ⟨t, ht, rfl⟩ := Option.map_eq_some_iff.1 ho
  exact setPeer_holds (withContext_holds ht hs)

theorem dropNoPeer_holds (hs : I.holds s) : I.holds (dropNoPeer s) := modFab_holds hs

theorem dropParked_holds {d} (hs : I.holds s) : I.holds (dropParked s d) := mk_holds hs

theorem rxContext_holds {x cls r} (ho : rxContext s x cls = some r) (hs : I.holds s) : I.holds r := by
  unfold rxContext at ho
  split at ho
  · cases ho
  next t ht =>
    dsimp only at ho
    split at ho
    · exact Option.some.inj ho ▸ heard_holds ht hs
    · obtain rfl := Option.some.inj ho
      exact ite_holds (modFab_holds (setPeer_holds (heard_holds ht hs)))
        (dropParked_holds (setPeer_holds (heard_holds ht hs)))

/-! ### Service messages and the Last directory -/

theorem svcPost_holds {p d q h payload waits} (hs : I.holds s) : I.holds (svcPost s p d q h payload waits) := by
  unfold svcPost
  refine ite_holds hs ?_
  dsimp only
  exact foldl_holds (fun _ _ hs => getD_holds (fun x h => xtSubmit_holds h hs) hs) (modFab_holds (emit_holds hs))

theorem svcReply_holds {p h r payload} (hs : I.holds s) : I.holds (svcReply s p h r payload) :=
  svcPost_holds (modPLast_holds hs)

theorem svcCode_holds {p h c} (hs : I.holds s) : I.holds (svcCode s p h c) := svcReply_holds hs

theorem svcReceive_holds {p h op serves f} (hf : ∀ s, I.holds s → I.holds (f s)) (hs : I.holds s) :
    I.holds (svcReceive s p h op serves f) := by
  unfold svcReceive
  refine ite_holds hs ?_
  dsimp only
  split
  · exact svcPost_holds hs
  · exact ite_holds hs (ite_holds (hf _ (modPLast_holds hs)) (svcCode_holds (modPLast_holds hs)))

theorem svcSend_holds {p toDevice toPart h payload} (hs : I.holds s) :
    I.holds (svcSend s p toDevice toPart h payload).2 :=
  ite_else_holds svcPost_holds (modPLast_holds (modMgmt_holds hs))

theorem setDir_holds {p slot e} (hm : I.Free .memory) (hs : I.holds s) : I.holds (setDir s p slot e) := by
  simp only [setDir]
  split
  · exact modPLast_holds hs
  · exact storeRaw_holds hm (modPLast_holds hs)

theorem modDir_holds {p slot f} (hm : I.Free .memory) (hs : I.holds s) : I.holds (modDir s p slot f) :=
  setDir_holds hm hs

theorem standInDir_holds {p} (hm : I.Free .memory) (hs : I.holds s) : I.holds (standInDir s p) := by
  unfold standInDir
  split
  · exact hs
  · exact foldl_holds (fun _ _ hs => setDir_holds hm hs) hs

theorem copyPlane_holds {p src dst len} (hm : I.Free .memory) (hs : I.holds s) :
    I.holds (copyPlane s p src dst len).2.2 := by
  simp only [copyPlane]
  split
  · exact mk_holds (ite_holds (badWordFaults_holds hs) hs)
  · exact mk_holds (transferWrite_holds hm hs)

theorem copyLast_holds {p n newBase newCls} (hm : I.Free .memory) (hs : I.holds s) :
    I.holds (copyLast s p n newBase newCls).2.2 := by
  simp only [copyLast]
  split
  · exact hs
  · refine foldl_proj_holds (fun r : Byte × Bool × State => r.2.2) (fun r k h => ?_) hs
    split
    · exact h
    · exact copyPlane_holds hm h

theorem nvSend_holds {c byte bytes} (hs : I.holds s) : I.holds (nvSend s c byte bytes) :=
  ite_holds (emit_holds (mk_holds hs)) (ite_holds (emit_holds (mk_holds (setTrust_holds hs))) (emit_holds (mk_holds
    hs)))

theorem putJob_holds {p n j} (hs : I.holds s) : I.holds (putJob s p n j) := modPLast_holds hs

theorem endJob_holds {p n} (hs : I.holds s) : I.holds (endJob s p n) := by
  simp only [endJob]
  exact modPLast_holds (mk_holds hs)

theorem freeLast_holds {p n} (hm : I.Free .memory) (hs : I.holds s) : I.holds (freeLast s p n) :=
  setDir_holds hm (endJob_holds hs)

theorem lastCmd_holds {p n drive nsid byte own off len write flush} (hs : I.holds s) :
    I.holds (lastCmd s p n drive nsid byte own off len write flush) := nvSend_holds hs

theorem lastSend_holds {p n fuel} (hm : I.Free .memory) (hs : I.holds s) : I.holds (lastSend p n fuel s) := by
  induction fuel generalizing s with
  | zero => exact hs
  | succ n ih =>
    unfold lastSend
    split
    · exact hs
    · dsimp only
      split
      · exact hs
      · split
        · exact ite_holds (ite_holds (ih (putJob_holds (transferWrite_holds hm hs))) (putJob_holds
            (transferWrite_holds hm hs))) (ite_holds (putJob_holds hs) (ite_holds hs (ite_holds (putJob_holds
            (ite_holds (badWordFaults_holds hs) hs)) (ih (lastCmd_holds (putJob_holds hs))))))
        · exact putJob_holds hs

theorem lastNext_holds {p n} (hm : I.Free .memory) (hs : I.holds s) : I.holds (lastNext s p n) := by
  simp only [lastNext]
  split
  · exact lastSend_holds hm hs
  · exact ite_holds (foldl_holds (fun _ _ hs => lastCmd_holds hs) (putJob_holds (lastSend_holds hm hs)))
      (lastSend_holds hm hs)

theorem lastNvme_holds {p n nv} (hm : I.Free .memory) (hs : I.holds s) : I.holds (lastNvme s p n nv) :=
  lastNext_holds hm (modPLast_holds hs)

theorem startDown_holds {p n tier base} (hm : I.Free .memory) (hs : I.holds s) : I.holds (startDown s p n tier base) :=
  ite_self_holds (lastNvme_holds hm) (putJob_holds (setDir_holds hm hs))

theorem waitForRoom_holds {p h what peer left tier n base} (hm : I.Free .memory) (hs : I.holds s) :
    I.holds (waitForRoom s p h what peer left tier n base) := by
  simp only [waitForRoom]
  exact modPLast_holds (startDown_holds hm hs)

theorem otherBytes_holds {p n l lo hi} (hs : I.holds s) : I.holds (otherBytes s p n l lo hi).2 := by
  simp only [otherBytes]
  split
  · exact draw_holds hs
  · split
    · exact hs
    · exact draw_holds hs

theorem takePlane_holds {p n l lo hi} (hm : I.Free .memory) (hs : I.holds s) : I.holds (takePlane s p n l lo hi) :=
  storeRaw_holds hm (otherBytes_holds hs)

theorem takePositions_holds {p n lo hi} (hm : I.Free .memory) (hs : I.holds s) : I.holds (takePositions s p n lo hi) :=
  foldl_holds (fun _ _ hs => takePlane_holds hm hs) hs

theorem levelTo_holds {p n length} (hm : I.Free .memory) (hs : I.holds s) : I.holds (levelTo s p n length) :=
  ite_holds (modDir_holds hm (takePositions_holds hm hs)) hs

/-! ### Prefix tables -/

theorem walkerSend_holds {p t op off fields payload f r} (ho : walkerSend s p t op off fields payload f = some r) (hs
    : I.holds s) :
    I.holds r :=
  xtSubmit_holds ho hs

theorem walkerRead_holds {p t off len f r} (ho : walkerRead s p t off len f = some r) (hs : I.holds s) : I.holds r :=
  walkerSend_holds ho hs

theorem walkerAdd_holds {p t off size v} (hs : I.holds s) : I.holds (walkerAdd s p t off size v) :=
  getD_holds (fun _ h => walkerSend_holds h hs) hs

theorem walkerWrite_holds {p t off bs} (hs : I.holds s) : I.holds (walkerWrite s p t off bs) :=
  getD_holds (fun _ h => walkerSend_holds h hs) hs

theorem lowerNode_holds {p t node} (hs : I.holds s) : I.holds (lowerNode s p t node) := walkerAdd_holds hs

theorem killNode_holds {p t node} (hs : I.holds s) : I.holds (killNode s p t node) := walkerWrite_holds hs

theorem modInsert_holds {p x} (hs : I.holds s) : I.holds (modInsert s p x) := modHold_holds hs

theorem dropInsert_holds {p id} (hs : I.holds s) : I.holds (dropInsert s p id) := ite_holds (modHold_holds hs) hs

theorem insertLook_holds {p x} (hs : I.holds s) : I.holds (insertLook s p x) := by
  unfold insertLook
  split
  · exact dropInsert_holds hs
  · dsimp only
    exact getD_holds (fun _ h => walkerRead_holds h (modInsert_holds hs)) (dropInsert_holds (modInsert_holds hs))

theorem insertNext_holds {p x at_} (hs : I.holds s) : I.holds (insertNext s p x at_) := insertLook_holds hs

theorem insertStart_holds {p table nodes parent} (hs : I.holds s) : I.holds (insertStart s p table nodes parent) :=
  insertLook_holds (modHold_holds hs)

theorem insertRead_holds {p x bucket} (hs : I.holds s) : I.holds (insertRead s p x bucket) := by
  unfold insertRead
  split
  · exact dropInsert_holds hs
  · dsimp only
    split
    · exact insertNext_holds (ite_holds (walkerWrite_holds hs) hs)
    · exact ite_holds (insertNext_holds hs) (getD_holds (fun _ h => walkerSend_holds h (modInsert_holds hs))
        (dropInsert_holds (modInsert_holds hs)))
    · exact ite_holds (insertNext_holds hs) (insertNext_holds (modHold_holds hs))

theorem insertClaimed_holds {p x old} (hs : I.holds s) : I.holds (insertClaimed s p x old) := by
  simp only [insertClaimed]
  split
  · refine ite_holds (insertLook_holds hs) (insertNext_holds ?_)
    split
    · refine walkerWrite_holds ?_
      split
      · exact hs
      · exact walkerAdd_holds hs
    · refine walkerAdd_holds (walkerWrite_holds ?_)
      split
      · exact hs
      · exact walkerAdd_holds hs
  · exact hs

theorem insertData_holds {p id status bucket} (hs : I.holds s) : I.holds (insertData s p id status bucket) := by
  unfold insertData
  split
  · exact hs
  · exact ite_holds (insertRead_holds hs) (dropInsert_holds hs)

theorem claimData_holds {p id status old} (hs : I.holds s) : I.holds (claimData s p id status old) := by
  unfold claimData
  split
  · exact hs
  · exact ite_holds (insertClaimed_holds hs) (dropInsert_holds hs)

/-! ### The holder -/

theorem modLive_holds {p tag f} (hs : I.holds s) : I.holds (modLive s p tag f) := modHold_holds hs

theorem modReq_holds {p tag f} (hs : I.holds s) : I.holds (modReq s p tag f) := modLive_holds hs

theorem dropLive_holds {p tag} (hs : I.holds s) : I.holds (dropLive s p tag) := modHold_holds hs

theorem askCopy_holds {p l op handle posA posB value} (hs : I.holds s) :
    I.holds (askCopy s p l op handle posA posB value) := svcSend_holds hs

theorem itemEmitted_holds {p x} (hs : I.holds s) : I.holds (itemEmitted s p x) :=
  ite_holds hs (ite_holds (dropLive_holds hs) (modReq_holds hs))

theorem emitItem_holds {p x} (hl : I.Free .lanes) (hs : I.holds s) : I.holds (emitItem s p x) := by
  unfold emitItem
  split
  · exact ite_holds (itemEmitted_holds (laneGive_holds hl hs)) (modHold_holds hs)
  · exact modHold_holds hs

theorem refuseItem_holds {p tag c} (hl : I.Free .lanes) (hs : I.holds s) : I.holds (refuseItem s p tag c) :=
  emitItem_holds hl hs

theorem liveItem_holds {p it} (hl : I.Free .lanes) (hs : I.holds s) : I.holds (liveItem s p it) :=
  emitItem_holds hl hs

theorem cancelDone_holds {p slot c} (hs : I.holds s) : I.holds (cancelDone s p slot c) :=
  ite_holds (raisePart_holds (modPLast_holds hs)) (modPLast_holds hs)

theorem cancelsEnd_holds {p slots msgs c} (hs : I.holds s) : I.holds (cancelsEnd s p slots msgs c) :=
  foldl_holds (fun _ _ hs => svcCode_holds hs) (foldl_holds (fun _ _ hs => cancelDone_holds hs) hs)

theorem dropMoves_holds {p tag} (hs : I.holds s) : I.holds (dropMoves s p tag) := modHold_holds hs

theorem lowerRefs_holds {p l} (hs : I.holds s) : I.holds (lowerRefs s p l) := by
  unfold lowerRefs
  split
  · exact ite_holds (lowerNode_holds hs) hs
  · exact hs

theorem finalItem_holds {p tag} (hl : I.Free .lanes) (hs : I.holds s) : I.holds (finalItem s p tag) := by
  unfold finalItem
  split
  · exact hs
  · dsimp only
    exact liveItem_holds hl (modLive_holds (cancelsEnd_holds (dropMoves_holds (lowerRefs_holds hs))))

theorem leaveHold_holds {p tag} (hs : I.holds s) : I.holds (leaveHold s p tag) := by
  unfold leaveHold
  split
  · exact hs
  · exact ite_holds (mk_holds hs) hs

theorem endNow_holds {p tag c} (hl : I.Free .lanes) (hs : I.holds s) : I.holds (endNow s p tag c) :=
  finalItem_holds hl (modLive_holds (leaveHold_holds hs))

theorem sendReleases_holds {p tag discard} (hs : I.holds s) : I.holds (sendReleases s p tag discard) := by
  unfold sendReleases
  split
  · exact hs
  · dsimp only
    exact foldl_holds (fun _ _ hs => svcSend_holds hs) (modLive_holds hs)

theorem releaseCopies_holds {p tag discard} (hl : I.Free .lanes) (hs : I.holds s) :
    I.holds (releaseCopies s p tag discard) := by
  unfold releaseCopies
  split
  · exact hs
  · refine ite_holds (finalItem_holds hl hs) ?_
    dsimp only
    exact ite_holds (modLive_holds (modLive_holds (dropMoves_holds hs))) (sendReleases_holds (modLive_holds
      (dropMoves_holds hs)))

theorem endWith_holds {p tag c discard} (hl : I.Free .lanes) (hs : I.holds s) : I.holds (endWith s p tag c discard) := by
  unfold endWith
  split
  · exact hs
  · exact ite_holds hs (releaseCopies_holds hl (modLive_holds hs))

theorem endEarly_holds {p tag c} (hl : I.Free .lanes) (hs : I.holds s) : I.holds (endEarly s p tag c) := by
  unfold endEarly
  split
  · exact hs
  · exact ite_holds hs (ite_holds (endNow_holds hl hs) (ite_holds (modLive_holds hs) (endWith_holds hl hs)))

theorem queueMoves_holds {p o ds} (hs : I.holds s) : I.holds (queueMoves s p o ds) := modHold_holds hs

theorem beginCommits_holds {p tag lo hi} (hs : I.holds s) : I.holds (beginCommits s p tag lo hi) := modLive_holds hs

theorem sendDue_holds {p tag} (hs : I.holds s) : I.holds (sendDue s p tag) := by
  unfold sendDue
  split
  · exact hs
  · dsimp only
    exact modLive_holds (foldl_holds (fun _ _ hs => askCopy_holds hs) hs)

theorem sendGrow_holds {p tag hi} (hs : I.holds s) : I.holds (sendGrow s p tag hi) := by
  unfold sendGrow
  split
  · exact hs
  · dsimp only
    exact foldl_holds (fun _ _ hs => askCopy_holds hs) (modLive_holds hs)

theorem flushTail_holds {fuel p tag} (hs : I.holds s) : I.holds (flushTail fuel s p tag) := by
  induction fuel generalizing s with
  | zero => exact hs
  | succ n ih =>
    simp only [flushTail]
    split
    · exact hs
    · exact ite_holds hs (ite_holds (ite_holds (sendGrow_holds hs) hs) (ih (beginCommits_holds (queueMoves_holds
        hs))))

theorem releaseIfDurable_holds {p tag} (hl : I.Free .lanes) (hs : I.holds s) : I.holds (releaseIfDurable s p tag) := by
  unfold releaseIfDurable
  split
  · exact hs
  · exact ite_holds (releaseCopies_holds hl hs) hs

theorem flushOn_holds {p tag} (hl : I.Free .lanes) (hs : I.holds s) : I.holds (flushOn s p tag) :=
  releaseIfDurable_holds hl (sendDue_holds (flushTail_holds (sendDue_holds hs)))

theorem finishRequest_holds {p tag c token} (hl : I.Free .lanes) (hs : I.holds s) :
    I.holds (finishRequest s p tag c token) := flushOn_holds hl (modLive_holds hs)

theorem sendOpen_holds {p tag handle} (hs : I.holds s) : I.holds (sendOpen s p tag handle) := by
  unfold sendOpen
  split
  · exact hs
  · exact askCopy_holds hs

theorem chargeTaken_holds {p tag} (hl : I.Free .lanes) (hs : I.holds s) : I.holds (chargeTaken s p tag) := by
  unfold chargeTaken
  split
  · exact hs
  · dsimp only
    exact ite_holds (endNow_holds hl (modLive_holds hs)) (sendOpen_holds (modLive_holds hs))

theorem postHandoff_holds {p l t id} (hs : I.holds s) : I.holds (postHandoff s p l t id) :=
  ite_holds (modPLast_holds hs) (svcPost_holds (modPLast_holds hs))

theorem sendHandoff_holds {p tag i t} (hs : I.holds s) : I.holds (sendHandoff s p tag i t) := by
  unfold sendHandoff
  split
  · exact hs
  · refine ite_holds (postHandoff_holds hs) ?_
    dsimp only
    exact postHandoff_holds (modLive_holds (modMgmt_holds hs))

theorem nextTarget_holds {p tag} (hs : I.holds s) : I.holds (nextTarget s p tag) := by
  simp only [nextTarget]
  split
  · exact hs
  · split
    · exact hs
    · exact sendHandoff_holds hs

theorem addForward_holds {p tag device part} (hs : I.holds s) : I.holds (addForward s p tag device part) :=
  modPLast_holds hs

theorem forwardCancel_holds {p tag device part slots msgs} (hs : I.holds s) :
    I.holds (forwardCancel s p tag device part slots msgs) := by
  simp only [forwardCancel]
  exact modPLast_holds (svcSend_holds hs)

theorem joinBatch_holds {p tag} (hs : I.holds s) : I.holds (joinBatch s p tag) := modLive_holds hs

/-! ### Contexts of models -/

theorem refreshCtxs_holds {p} (hs : I.holds s) : I.holds (refreshCtxs s p) := by
  simp only [refreshCtxs]
  exact modHold_holds (modHold_holds hs)

/-! ### Admission -/

theorem takeCharge_holds {p tag r} (hl : I.Free .lanes) (hs : I.holds s) : I.holds (takeCharge s p tag r) := by
  simp only [takeCharge]
  refine ite_holds (chargeTaken_holds hl hs) ?_
  split
  · exact chargeTaken_holds hl (setToll_holds hs)
  · exact endNow_holds hl hs
  · exact modLive_holds (setToll_holds hs)

theorem walkRead_holds {p tag t b} (hs : I.holds s) : I.holds (walkRead s p tag t b) :=
  getD_holds (fun _ h => walkerRead_holds h hs) (modLive_holds hs)

theorem walkNext_holds {p tag ok} (hs : I.holds s) : I.holds (walkNext s p tag ok) := by
  simp only [walkNext]
  split
  · exact hs
  · split
    · exact ite_holds (walkRead_holds (modLive_holds hs)) (modLive_holds hs)
    · exact hs

theorem startWalk_holds {p tag r} (hs : I.holds s) : I.holds (startWalk s p tag r) := by
  unfold startWalk
  split
  · exact hs
  · dsimp only
    exact foldl_holds (fun _ _ hs => walkRead_holds hs) (walkerAdd_holds (modLive_holds (modHold_holds hs)))

theorem admitItem_holds {p it} (hl : I.Free .lanes) (hs : I.holds s) : I.holds (admitItem s p it) :=
  ite_holds (refuseItem_holds hl hs) (ite_holds (refuseItem_holds hl hs) (ite_holds (refuseItem_holds hl hs)
    (ite_holds (refuseItem_holds hl hs) (ite_holds (refuseItem_holds hl hs) (takeCharge_holds hl (startWalk_holds
    (modHold_holds (draw_holds hs))))))))

theorem execAdmissionItemTaken_leads {p lane} (hl : I.Free .lanes) (hs : I.holds s) :
    I.leads (execAdmissionItemTaken p lane s) := by
  simp only [execAdmissionItemTaken]
  refine ite_leads ?_ (next_leads hs)
  split
  · exact next_leads (ite_holds (refreshCtxs_holds (admitItem_holds hl (lanePop_holds hl hs))) hs)
  · exact next_leads hs

theorem serveHold_holds {c l} (hl : I.Free .lanes) (hs : I.holds s) : I.holds (serveHold c l s) := by
  induction l generalizing s with
  | nil => exact hs
  | cons x r ih =>
    simp only [serveHold]
    split
    · exact ih (setToll_holds hs)
    · exact ite_holds (ih (chargeTaken_holds hl (setToll_holds hs))) hs

theorem execTollgateRefill_leads {customer} (hl : I.Free .lanes) (hs : I.holds s) :
    I.leads (execTollgateRefill customer s) := by
  unfold execTollgateRefill
  split
  · exact next_leads hs
  · dsimp only
    exact ite_leads (next_leads hs) (next_leads (refreshCtxs_holds (serveHold_holds hl (setToll_holds hs))))

theorem loadSource_holds {p l source} (hs : I.holds s) : I.holds (loadSource s p l source) := by
  unfold loadSource
  split
  · exact hs
  · dsimp only
    exact getD_holds (fun _ h => walkerRead_holds h hs) hs

theorem copyEnds_holds {p tag ok} (hs : I.holds s) : I.holds (copyEnds s p tag ok) := by
  simp only [copyEnds]
  split
  · exact hs
  · refine modLive_holds (lowerRefs_holds ?_)
    split
    · exact killNode_holds hs
    · exact hs

theorem noteSource_holds {p tag entry} (hs : I.holds s) : I.holds (noteSource s p tag entry) := by
  simp only [noteSource]
  split
  · exact hs
  · split
    · exact ite_holds (copyEnds_holds hs) (queueMoves_holds (modLive_holds hs))
    · exact copyEnds_holds hs
    · exact hs

theorem beginCopy_holds {p tag entry} (hs : I.holds s) : I.holds (beginCopy s p tag entry) := by
  unfold beginCopy
  split
  · exact hs
  · dsimp only
    exact ite_self_holds noteSource_holds (loadSource_holds (modLive_holds hs))

theorem checkCopy_holds {p tag c copied entry} (hs : I.holds s) : I.holds (checkCopy s p tag c copied entry) :=
  copyEnds_holds hs

theorem walkMatched_holds {p l t stamp buckets} (hs : I.holds s) : I.holds (walkMatched s p l t stamp buckets) := by
  simp only [walkMatched]
  split
  · exact hs
  · exact ite_self_holds beginCopy_holds (modLive_holds (foldl_holds (fun _ _ hs => walkerWrite_holds hs)
      (walkerAdd_holds hs)))

theorem walkHead_holds {p l buckets} (hs : I.holds s) : I.holds (walkHead s p l buckets) := by
  simp only [walkHead]
  split
  · split
    · exact hs
    · exact modReq_holds hs
  · exact hs

theorem execSignpostWalkDone_leads {p tag stamp buckets} (hs : I.holds s) :
    I.leads (execSignpostWalkDone p tag stamp buckets s) := by
  simp only [execSignpostWalkDone]
  split
  · exact next_leads hs
  · split
    · exact next_leads hs
    · exact next_leads (refreshCtxs_holds (ite_holds (modLive_holds hs) (ite_holds (walkMatched_holds (modLive_holds
        hs)) (walkHead_holds (modLive_holds hs)))))

theorem takeGrant_holds {p l asked h payload source} (hs : I.holds s) :
    I.holds (takeGrant s p l asked h payload source) :=
  ite_holds (beginCopy_holds (modLive_holds hs)) (modLive_holds hs)

theorem openRefused_holds {p l asked c} (hl : I.Free .lanes) (hs : I.holds s) : I.holds (openRefused s p l asked c) := by
  unfold openRefused
  split
  · exact sendOpen_holds hs
  · exact endNow_holds hl hs

theorem insertPrefix_holds {p tag} (hs : I.holds s) : I.holds (insertPrefix s p tag) := by
  simp only [insertPrefix]
  split
  · exact hs
  · split
    · exact hs
    · exact insertStart_holds hs

theorem updateHead_holds {p l} (hs : I.holds s) : I.holds (updateHead s p l) := by
  unfold updateHead
  split
  · exact hs
  · dsimp only
    exact insertStart_holds hs

/-! ### Program images and stitch cores -/

theorem coreFault_holds {b c code} (hb : I.Free .blocks) (hs : I.holds s) : I.holds (coreFault s b c code) :=
  setEng_holds hb hs

theorem onCore_holds {b c pre f} (hf : ∀ s x, I.holds s → I.holds (f s x)) (hs : I.holds s) :
    I.holds (onCore s b c pre f) :=
  ite_holds (ite_self_holds setCore_holds (hf _ _ (setCore_holds hs))) hs

theorem onOwned_holds {b c pre owned f} (hb : I.Free .blocks) (hf : ∀ s x, I.holds s → I.holds (f s x)) (hs : I.holds
    s) :
    I.holds (onOwned s b c pre owned f) :=
  onCore_holds (fun _ _ hs => ite_holds (hf _ _ hs) (coreFault_holds hb hs)) hs

theorem startCores_holds {b first} (hs : I.holds s) : I.holds (startCores s b first) := by
  simp only [startCores]
  exact mk_holds hs

theorem runEnds_holds {p b code} (hc : I.Free .counters) (hb : I.Free .blocks) (hs : I.holds s) :
    I.holds (runEnds s p b code) := by
  have hn : I.holds (noteStep ((traceEvent s p .command b 0).setEng b { (s.block b).eng with
      state := if code = 0 then 0 else 3, faultCode := code }) p code) :=
    noteStep_holds (setEng_holds hb (traceEvent_holds hs))
  exact ite_holds (ctrAdd_holds hc hn) hn

theorem zeroBenches_holds {b} (hm : I.Free .memory) (hs : I.holds s) : I.holds (zeroBenches s b) :=
  hm.change hs rfl (memOk_zeroBenches s b)

theorem askStart_holds {b} (hb : I.Free .blocks) (hs : I.holds s) : I.holds (askStart s b) := setPwr_holds hb hs

theorem wakeBlock_holds {b} (hb : I.Free .blocks) (hs : I.holds s) : I.holds (wakeBlock s b) :=
  ite_holds hs (setPwr_holds hb hs)

/-! ### Remote-line requests at their home -/

theorem answerData_holds {r c data} (hs : I.holds s) : I.holds (answerData s r c data) := by
  unfold answerData
  split
  · dsimp only
    exact originate_holds hs
  · exact originate_holds hs
  · exact hs

theorem keepAtomic_holds {x data} (hs : I.holds s) : I.holds (keepAtomic s x data) := setPeer_holds hs

theorem homeEnd_holds {j} (hs : I.holds s) : I.holds (homeEnd s j) := by
  unfold homeEnd
  dsimp only
  refine ite_holds (reportHandled_holds (answerData_holds ?_)) (answerData_holds ?_)
  · split
    · exact ite_holds (keepAtomic_holds hs) hs
    · exact hs
  · split
    · exact ite_holds (keepAtomic_holds hs) hs
    · exact hs

theorem applyLine_holds {j line} (hm : I.Free .memory) (hs : I.holds s) : I.holds (applyLine s j line).1 := by
  simp only [applyLine]
  split
  · split
    · exact mk_holds (transferRead_holds hs)
    · exact hs
  · split
    · exact hs
    · exact mk_holds (transferWrite_holds hm hs)
  · split
    · exact mk_holds (transferRead_holds hs)
    · exact mk_holds (storeRaw_holds hm hs)

theorem addLine_holds {line} (hs : I.holds s) : I.holds (addLine s line) := by
  simp only [addLine]
  exact modFab_holds hs

theorem serveLine_holds {line l} (hm : I.Free .memory) (hs : I.holds s) : I.holds (serveLine line l s).2 := by
  induction l generalizing s with
  | nil => exact hs
  | cons x r ih =>
    simp only [serveLine]
    split
    · exact mk_holds (ih (ite_holds (homeEnd_holds (applyLine_holds hm hs)) (applyLine_holds hm hs)))
    · exact mk_holds (ih hs)

theorem fillLine_holds {line} (hm : I.Free .memory) (hs : I.holds s) : I.holds (fillLine s line) := by
  simp only [fillLine]
  exact modFab_holds (serveLine_holds hm (modFab_holds (addLine_holds hs)))

theorem fillWaited_holds {pick} (hm : I.Free .memory) (hs : I.holds s) : I.holds (fillWaited s pick) :=
  foldl_holds (fun _ _ hs => ite_holds (fillLine_holds hm hs) hs) hs

theorem settlePart_holds {p} (hm : I.Free .memory) (hs : I.holds s) : I.holds (settlePart s p) :=
  fillWaited_holds hm hs

theorem passSquares_holds {p off len} (hm : I.Free .memory) (hs : I.holds s) : I.holds (passSquares s p off len) :=
  ite_holds hs (foldl_holds (fun _ _ hs => ite_holds hs (addLine_holds hs)) (fillWaited_holds hm hs))

theorem homeRead_holds {p off len tag} (hm : I.Free .memory) (hs : I.holds s) :
    I.holds (homeRead s p off len tag).2.2  := transferRead_holds (passSquares_holds hm hs)

theorem homeWrite_holds {p off bs covers tag} (hm : I.Free .memory) (hs : I.holds s) :
    I.holds (homeWrite s p off bs covers tag).2 := transferWrite_holds hm (passSquares_holds hm hs)

theorem applyPresent_holds {j} (hm : I.Free .memory) (hs : I.holds s) : I.holds (applyPresent s j).1 :=
  foldl_proj_holds Prod.fst (fun _ _ h => applyLine_holds hm h) hs

theorem toSquares_holds {r again} (hm : I.Free .memory) (hs : I.holds s) : I.holds (toSquares s r again) :=
  ite_holds (homeEnd_holds (ite_holds (badWordFaults_holds hs) hs)) (ite_holds (homeEnd_holds (applyPresent_holds hm
    hs)) (modFab_holds (applyPresent_holds hm hs)))

theorem deliverOrdered_holds {d fuel} (hm : I.Free .memory) (hs : I.holds s) : I.holds (deliverOrdered d fuel s) := by
  induction fuel generalizing s with
  | zero => exact hs
  | succ n ih =>
    simp only [deliverOrdered]
    split
    · exact hs
    · exact ih (toSquares_holds hm (modFab_holds (setPeer_holds hs)))

theorem repeatRequest_holds {r} (hm : I.Free .memory) (hs : I.holds s) : I.holds (repeatRequest s r) := by
  simp only [repeatRequest]
  refine ite_holds hs (ite_holds (toSquares_holds hm hs) ?_)
  split
  · exact toSquares_holds hm hs
  · exact reportHandled_holds hs
  · refine reportHandled_holds ?_
    split
    · exact hs
    · exact answerData_holds hs

theorem arrive2_holds {r} (hm : I.Free .memory) (hs : I.holds s) : I.holds (arrive2 s r) := by
  unfold arrive2
  dsimp only
  refine ite_holds hs ?_
  split
  · exact dropNoPeer_holds hs
  · exact ite_holds (ite_holds (repeatRequest_holds hm (rxContext_holds ‹_› hs)) (rxContext_holds ‹_› hs)) (ite_holds
      (deliverOrdered_holds hm (toSquares_holds hm (setPeer_holds (rxContext_holds ‹_› hs)))) (ite_holds
      (rxContext_holds ‹_› hs) (ite_holds (modFab_holds (rxContext_holds ‹_› hs)) (modFab_holds (rxContext_holds ‹_›
      hs)))))

theorem dropLength_holds (hs : I.holds s) : I.holds (dropLength s) := modFab_holds hs

theorem execRead_leads {x addr length} (hm : I.Free .memory) (hs : I.holds s) : I.leads (execRead x addr length s) :=
  next_leads (arrive2_holds hm hs)

theorem execWrite_leads {x addr length bytes} (hm : I.Free .memory) (hs : I.holds s) :
    I.leads (execWrite x addr length bytes s) :=
  next_leads (ite_holds hs (ite_holds (arrive2_holds hm hs) (dropLength_holds hs)))

theorem execAtomic_leads {x addr aop size operand compare} (hm : I.Free .memory) (hs : I.holds s) :
    I.leads (execAtomic x addr aop size operand compare s) := next_leads (arrive2_holds hm hs)

theorem execSquareLineFill_leads {line} (hm : I.Free .memory) (hs : I.holds s) : I.leads (execSquareLineFill line s) :=
  ite_leads (next_leads hs) (next_leads (fillLine_holds hm (eccMet_holds hm hs)))

/-! ### The attention ring -/

theorem spoilBenches_benchSpoil_holds {b c bs} (hm : I.Free .memory) (hs : I.holds s) :
    I.holds (spoilBenches.benchSpoil s b c bs) := by
  simp only [spoilBenches.benchSpoil]
  exact storeRaw_holds hm hs

theorem spoilBenches_holds {b} (hm : I.Free .memory) (hs : I.holds s) : I.holds (spoilBenches s b) :=
  foldl_holds (fun _ _ h => storeRaw_holds hm h) (draw_holds hs)

theorem attnCompute_holds {p c found} (hm : I.Free .memory) (hs : I.holds s) : I.holds (attnCompute s p c found).2 := by
  simp only [attnCompute]
  split
  · exact mk_holds (transferWrite_holds hm (transferRead_holds (draw_holds (eccMetIn_holds hm (settlePart_holds hm
      hs)))))
  · exact transferWrite_holds hm (draw_holds (eccMetIn_holds hm (settlePart_holds hm hs)))

theorem attnComplete_holds {b p j} (hc : I.Free .counters) (hb : I.Free .blocks) (hs : I.holds s) :
    I.holds (attnComplete s b p j) :=
  ite_self_holds (ctrAdd_holds hc) (noteStep_holds (setAttn_holds hb (traceEvent_holds hs)))

theorem attnUnreadable_holds {b c} (hb : I.Free .blocks) (hs : I.holds s) : I.holds (attnUnreadable s b c) :=
  setAttn_holds hb hs

theorem attnStart_holds {b p j found} (hI : ∀ k, I.Free k) (hs : I.holds s) : I.holds (attnStart s b p j found) := by
  simp only [attnStart]
  refine ite_holds (attnComplete_holds (hI .counters) (hI .blocks) hs) (ite_holds (setAttn_holds (hI .blocks) hs)
    (ite_holds (attnComplete_holds (hI .counters) (hI .blocks) hs) (ite_holds (setAttn_holds (hI .blocks)
    (wakeBlock_holds (hI .blocks) hs)) (ite_holds (setAttn_holds (hI .blocks) hs) (setAttn_holds (hI .blocks)
    (ite_holds (spoilBenches_holds (hI .memory) ?_) ?_))))))
  · split
    · exact hs
    · exact attnCompute_holds (hI .memory) hs
  · split
    · exact hs
    · exact attnCompute_holds (hI .memory) hs

theorem attnTurn_holds {b p found} (hI : ∀ k, I.Free k) (hs : I.holds s) : I.holds (attnTurn s b p found) := by
  simp only [attnTurn]
  refine ite_holds hs ?_
  split
  · exact attnStart_holds hI (setAttn_holds (hI .blocks) hs)
  · exact ite_holds hs (ite_holds (attnUnreadable_holds (hI .blocks) (ringRead_holds (settlePart_holds (hI .memory)
      hs))) (ite_holds (attnComplete_holds (hI .counters) (hI .blocks) (setAttn_holds (hI .blocks) (settlePart_holds
      (hI .memory) hs))) (attnStart_holds hI (setAttn_holds (hI .blocks) (settlePart_holds (hI .memory) hs)))))

theorem attnEnds_holds {b p j} (hI : ∀ k, I.Free k) (hs : I.holds s) : I.holds (attnEnds s b p j) :=
  attnComplete_holds (hI .counters) (hI .blocks) (ite_holds (spoilBenches_holds (hI .memory) hs) hs)

theorem attnKillAll_holds {b p c} (hI : ∀ k, I.Free k) (hs : I.holds s) : I.holds (attnKillAll s b p c) :=
  foldl_holds (fun _ _ hs => attnComplete_holds (hI .counters) (hI .blocks) hs) (ite_self_holds (spoilBenches_holds
    (hI .memory)) (setAttn_holds (hI .blocks) hs))

theorem attnFlushRing_holds {b p c fuel} (hc : I.Free .counters) (hb : I.Free .blocks) (hs : I.holds s) :
    I.holds (attnFlushRing b p c fuel s) := by
  induction fuel generalizing s with
  | zero => exact hs
  | succ n ih =>
    simp only [attnFlushRing]
    exact ite_holds hs (ih (ite_holds (attnUnreadable_holds hb (ringRead_holds hs)) (attnComplete_holds hc hb
      (setAttn_holds hb hs))))

theorem attnFlushAll_holds {b p c} (hc : I.Free .counters) (hb : I.Free .blocks) (hs : I.holds s) :
    I.holds (attnFlushAll s b p c) := by
  simp only [attnFlushAll]
  refine attnFlushRing_holds hc hb ?_
  split
  · exact hs
  · exact attnComplete_holds hc hb (setAttn_holds hb hs)

theorem attnSetTail_holds {b t} (hb : I.Free .blocks) (hs : I.holds s) : I.holds (attnSetTail s b t) :=
  setAttn_holds hb hs

theorem execAttnTailWrite_leads {src b value} (hb : I.Free .blocks) (hs : I.holds s) :
    I.leads (execAttnTailWrite src b value s) :=
  next_leads (blockWrite_holds hb (fun _ hs => attnSetTail_holds hb hs) hs)

theorem execAttend_leads {b} (hI : ∀ k, I.Free k) (hs : I.holds s) : I.leads (execAttend b s) := by
  unfold execAttend
  split
  · exact next_leads hs
  · exact next_leads (attnTurn_holds hI hs)

theorem execAttendComplete_leads {b index} (hI : ∀ k, I.Free k) (hs : I.holds s) :
    I.leads (execAttendComplete b index s) := by
  simp only [execAttendComplete]
  split
  · exact next_leads (attnEnds_holds hI (setAttn_holds (hI .blocks) hs))
  · exact next_leads hs

theorem execAttnFlush_leads {src b value} (hc : I.Free .counters) (hb : I.Free .blocks) (hs : I.holds s) :
    I.leads (execAttnFlush src b value s) := by
  unfold execAttnFlush
  refine next_leads (blockWrite_holds hb ?_ hs)
  intro x hs
  split
  · exact hs
  · exact ite_holds (attnFlushAll_holds hc hb hs) hs

/-! ### The Last service at a cache partition -/

theorem openGrant_holds {p n h mirror} (hm : I.Free .memory) (hs : I.holds s) : I.holds (openGrant s p n h mirror) :=
  svcReply_holds (setDir_holds hm hs)

theorem askPartner_holds {p n reuse h q} (hs : I.holds s) : I.holds (askPartner s p n reuse h q) := by
  simp only [askPartner]
  exact modPLast_holds (svcSend_holds hs)

theorem openStep8_holds {p n h peer} (hm : I.Free .memory) (hs : I.holds s) : I.holds (openStep8 s p n h peer) := by
  unfold openStep8
  split
  · exact openGrant_holds hm (levelTo_holds hm hs)
  · exact askPartner_holds hs

theorem startGrowth_holds {p n need kind h peer left} (hm : I.Free .memory) (hs : I.holds s) :
    I.holds (startGrowth s p n need kind h peer left).1 := by
  simp only [startGrowth]
  split
  · exact hs
  · split
    · exact hs
    · exact waitForRoom_holds hm hs
    · exact putJob_holds (setDir_holds hm hs)

theorem openStep7_holds {p n h left peer} (hm : I.Free .memory) (hs : I.holds s) :
    I.holds (openStep7 s p n h left peer).1 := by
  simp only [openStep7]
  split
  · exact startGrowth_holds hm hs
  · exact mk_holds (openStep8_holds hm hs)

theorem openStep6_holds {p n h left peer} (hm : I.Free .memory) (hs : I.holds s) :
    I.holds (openStep6 s p n h left peer).1 := by
  simp only [openStep6]
  split
  · exact hs
  · split
    · exact openStep7_holds hm hs
    · split
      · exact waitForRoom_holds hm hs
      · split
        · exact hs
        · exact openStep7_holds hm hs
      · exact ite_self_holds (lastNvme_holds hm) (putJob_holds (setDir_holds hm hs))

theorem probe_holds {p n tag reuse layer length heads head q} (hs : I.holds s) :
    I.holds (probe s p n tag reuse layer length heads head q).2 := svcSend_holds hs

theorem probePartner_holds {p n h q sh} (hs : I.holds s) : I.holds (probePartner s p n h q sh) := by
  simp only [probePartner]
  exact modPLast_holds (probe_holds hs)

theorem openLost_holds {p n h} (hs : I.holds s) : I.holds (openLost s p n h).1 := by
  simp only [openLost]
  split
  · exact hs
  · exact hs
  · split
    · exact hs
    · exact probePartner_holds (putJob_holds hs)

theorem openResume_holds {p n h} (hm : I.Free .memory) (hs : I.holds s) : I.holds (openResume s p n h).1 := by
  simp only [openResume]
  split
  · exact openLost_holds hs
  · split
    · exact hs
    · split
      · exact hs
      · exact openStep6_holds hm hs

theorem popWaiting_holds {p n r} (hm : I.Free .memory) (ho : popWaiting s p n = some r) (hs : I.holds s) : I.holds r.2 := by
  unfold popWaiting at ho
  split at ho
  · cases ho
  · obtain rfl := Option.some.inj ho
    dsimp only
    exact modDir_holds hm (modPLast_holds hs)

theorem makeIdle_holds {p n} (hm : I.Free .memory) (hs : I.holds s) : I.holds (makeIdle s p n) := modDir_holds hm hs

theorem openFail_holds {fuel p n h c} (hm : I.Free .memory) (hs : I.holds s) : I.holds (openFail fuel s p n h c) := by
  induction fuel generalizing s h c with
  | zero =>
    rw [openFail]
    exact ite_holds (freeLast_holds hm (svcCode_holds hs)) (makeIdle_holds hm (svcCode_holds hs))
  | succ m ih =>
    rw [openFail]
    refine ite_holds (freeLast_holds hm (svcCode_holds hs)) ?_
    split
    · exact makeIdle_holds hm (svcCode_holds hs)
    next h' t ht =>
      have hk : I.holds (openResume t p n h').1 := openResume_holds hm (popWaiting_holds hm ht (svcCode_holds hs))
      split
      next q hq => rwa [hq] at hk
      next q c hq => rw [hq] at hk; exact ih hk

theorem openEnds_holds {p n h c} (hm : I.Free .memory) (hs : I.holds s) : I.holds (openEnds s p n h c) :=
  openFail_holds hm hs

theorem openWith_holds {p n h r} (hm : I.Free .memory) (hs : I.holds r.1) : I.holds (openWith p n h r) := by
  unfold openWith
  split
  · exact hs
  · exact openEnds_holds hm hs

theorem passOn_holds {p n} (hm : I.Free .memory) (hs : I.holds s) : I.holds (passOn s p n) := by
  unfold passOn
  split
  · exact makeIdle_holds hm hs
  next ht => exact openWith_holds hm (openResume_holds hm (popWaiting_holds hm ht hs))

theorem queueOpen_holds {p n h} (hm : I.Free .memory) (hs : I.holds s) : I.holds (queueOpen s p n h) := by
  simp only [queueOpen]
  exact modDir_holds hm (modPLast_holds hs)

theorem abandonMove_holds {p n} (hm : I.Free .memory) (hs : I.holds s) : I.holds (abandonMove s p n) :=
  modDir_holds hm (endJob_holds hs)

theorem newLast_holds {p n reuse cls tier base shape} (hm : I.Free .memory) (hs : I.holds s) :
    I.holds (newLast s p n reuse cls tier base shape) := setDir_holds hm hs

theorem openNew_holds {p count h left} (hm : I.Free .memory) (hs : I.holds s) : I.holds (openNew s p count h left) := by
  simp only [openNew]
  refine ite_holds (svcCode_holds hs) ?_
  split
  · split
    · exact svcCode_holds hs
    · exact waitForRoom_holds hm hs
    · exact ite_holds (openEnds_holds hm (newLast_holds hm hs)) (openWith_holds hm (openStep7_holds hm (newLast_holds
        hm hs)))
  · exact svcCode_holds hs

theorem takeOpens_holds {p n} (hs : I.holds s) : I.holds (takeOpens s p n).2 := by
  simp only [takeOpens]
  exact modPLast_holds (endJob_holds hs)

theorem dropOpens_holds {p n reuse} (hm : I.Free .memory) (hs : I.holds s) : I.holds (dropOpens s p n reuse) :=
  foldl_holds (fun _ _ hs => ite_holds (queueOpen_holds hm hs) (svcCode_holds hs)) (takeOpens_holds hs)

theorem commitAnswer_holds {p n h c} (hs : I.holds s) : I.holds (commitAnswer s p n h c) := svcReply_holds hs

theorem dropHeld_holds {p n c} (hs : I.holds s) : I.holds (dropHeld s p n c) := by
  simp only [dropHeld]
  exact modPLast_holds (foldl_holds (fun _ _ hs => svcCode_holds hs) (foldl_holds (fun _ _ hs => commitAnswer_holds
    hs) hs))

theorem partnerRefused_holds {p n h c} (hs : I.holds s) : I.holds (partnerRefused s p n h c) :=
  foldl_holds (fun _ _ hs => svcCode_holds hs) (svcCode_holds (takeOpens_holds hs))

theorem partnerSlot_holds {p n count h peer left} (hm : I.Free .memory) (hs : I.holds s) :
    I.holds (partnerSlot s p n count h peer left) := by
  simp only [partnerSlot]
  refine ite_holds (svcCode_holds hs) ?_
  split
  · exact svcCode_holds hs
  · refine ite_holds (modPLast_holds hs) (ite_holds (ite_holds (svcCode_holds hs) (openWith_holds hm (openStep6_holds
      hm hs))) ?_)
    split
    · exact partnerRefused_holds (ite_holds hs (freeLast_holds hm (dropOpens_holds hm (dropHeld_holds hs))))
    · split
      · exact partnerRefused_holds (ite_holds hs (freeLast_holds hm (dropOpens_holds hm (dropHeld_holds hs))))
      · exact waitForRoom_holds hm (ite_holds hs (freeLast_holds hm (dropOpens_holds hm (dropHeld_holds hs))))
      · exact openWith_holds hm (openStep7_holds hm (newLast_holds hm (ite_holds hs (freeLast_holds hm
          (dropOpens_holds hm (dropHeld_holds hs))))))

theorem recoverLast_holds {p n h reuse cls length left} (hm : I.Free .memory) (hs : I.holds s) :
    I.holds (recoverLast s p n h reuse cls length left) := by
  simp only [recoverLast]
  split
  · exact openEnds_holds hm hs
  · split
    · exact openEnds_holds hm hs
    · exact waitForRoom_holds hm hs
    · exact ite_holds (openEnds_holds hm (levelTo_holds hm (newLast_holds hm hs))) (openWith_holds hm (openStep7_holds
        hm (levelTo_holds hm (newLast_holds hm hs))))

theorem rebuildNow_holds {p} (hs : I.holds s) : I.holds (rebuildNow s p) := ite_holds hs (modPLast_holds hs)

theorem serveOpenPartner_holds {p h senderLength} (hm : I.Free .memory) (hs : I.holds s) :
    I.holds (serveOpenPartner p h senderLength s) := by
  unfold serveOpenPartner
  refine svcReceive_holds ?_ hs
  intro x hs
  split
  · exact svcCode_holds hs
  · dsimp only
    exact partnerSlot_holds hm (modPLast_holds (rebuildNow_holds hs))

theorem execOpenPartner_leads {p h senderLength} (hm : I.Free .memory) (hs : I.holds s) :
    I.leads (execOpenPartner p h senderLength s) := next_leads (ite_holds (serveOpenPartner_holds hm hs) hs)

theorem probeAnswered_holds {p n h c} (hm : I.Free .memory) (hs : I.holds s) : I.holds (probeAnswered s p n h c) := by
  simp only [probeAnswered]
  split
  · exact openEnds_holds hm (endJob_holds hs)
  · exact ite_holds (askPartner_holds (putJob_holds (endJob_holds hs))) (openEnds_holds hm (endJob_holds hs))

theorem partnerGrant_holds {p n h r c} (hm : I.Free .memory) (hs : I.holds s) : I.holds (partnerGrant s p n h r c) := by
  simp only [partnerGrant]
  split
  · refine ite_holds (openEnds_holds hm (endJob_holds hs)) ?_
    split
    · exact openEnds_holds hm (endJob_holds hs)
    · exact recoverLast_holds hm (endJob_holds hs)
  · exact ite_holds (openEnds_holds hm hs) (ite_holds (openWith_holds hm (startGrowth_holds hm hs)) (openGrant_holds
      hm (levelTo_holds hm hs)))

theorem commitTry_holds {p n h r} (hm : I.Free .memory) (ho : commitTry s p n h = some r) (hs : I.holds s) : I.holds r := by
  simp only [commitTry] at ho
  repeat' split at ho
  · cases ho
  · exact Option.some.inj ho ▸ commitAnswer_holds hs
  · exact Option.some.inj ho ▸ commitAnswer_holds hs
  · exact Option.some.inj ho ▸ commitAnswer_holds (setDir_holds hm hs)
  · cases ho

theorem sendBringUp_holds {p n tag holder q} (hs : I.holds s) : I.holds (sendBringUp s p n tag holder q) := by
  simp only [sendBringUp]
  exact modPLast_holds (svcSend_holds hs)

theorem bringUp_holds {p n} (hs : I.holds s) : I.holds (bringUp s p n) := by
  unfold bringUp
  dsimp only
  split
  · exact hs
  · exact ite_holds (sendBringUp_holds (modPLast_holds hs)) hs

theorem serveCommit_holds {p h} (hm : I.Free .memory) (hs : I.holds s) : I.holds (serveCommit p h s) := by
  refine svcReceive_holds (fun s hs => ite_holds (svcCode_holds hs) (ite_holds (commitAnswer_holds hs) ?_)) hs
  split
  next ht => exact bringUp_holds (commitTry_holds hm ht hs)
  · exact ite_holds (commitAnswer_holds hs) (modPLast_holds hs)

theorem execCommit_leads {p h} (hm : I.Free .memory) (hs : I.holds s) : I.leads (execCommit p h s) :=
  next_leads (serveCommit_holds hm hs)

theorem resumeCommits_holds {p n l kept} (hm : I.Free .memory) (hs : I.holds s) :
    I.holds (resumeCommits p n l kept s).2 := by
  induction l generalizing kept s with
  | nil => exact hs
  | cons h r ih =>
    unfold resumeCommits
    dsimp only
    split
    next ht => exact ih (commitTry_holds hm ht hs)
    · split
      · exact ih (commitAnswer_holds hs)
      · exact ih hs

theorem execCommitHeldResume_leads {p slot} (hm : I.Free .memory) (hs : I.holds s) :
    I.leads (execCommitHeldResume p slot s) :=
  next_leads (ite_holds hs (bringUp_holds (modPLast_holds (resumeCommits_holds hm hs))))

theorem resumePartners_holds {p n} (hm : I.Free .memory) (hs : I.holds s) : I.holds (resumePartners s p n) := by
  unfold resumePartners
  split
  · exact hs
  · dsimp only
    exact foldl_holds (fun _ _ hs => partnerSlot_holds hm hs) (modPLast_holds hs)

theorem endHold_holds {p n} (hm : I.Free .memory) (hs : I.holds s) : I.holds (endHold s p n) :=
  resumePartners_holds hm (passOn_holds hm (modDir_holds hm (dropHeld_holds hs)))

theorem serveRelease_holds {p h} (hm : I.Free .memory) (hs : I.holds s) : I.holds (serveRelease p h s) := by
  unfold serveRelease
  refine svcReceive_holds ?_ hs
  intro x hs
  dsimp only
  exact ite_holds (svcCode_holds hs) (ite_holds (svcReply_holds hs) (endHold_holds hm (svcReply_holds hs)))

theorem execRelease_leads {p h} (hm : I.Free .memory) (hs : I.holds s) : I.leads (execRelease p h s) :=
  next_leads (serveRelease_holds hm hs)

theorem serveTransfer_holds {p h} (hm : I.Free .memory) (hs : I.holds s) : I.holds (serveTransfer p h s) := by
  unfold serveTransfer
  refine svcReceive_holds ?_ hs
  intro x hs
  dsimp only
  exact ite_holds (svcCode_holds hs) (ite_holds (svcReply_holds (setDir_holds hm hs)) (ite_holds (svcReply_holds hs)
    (svcReply_holds hs)))

theorem execTransfer_leads {p h} (hm : I.Free .memory) (hs : I.holds s) : I.leads (execTransfer p h s) :=
  next_leads (serveTransfer_holds hm hs)

theorem growReply_holds {p n h c} (hs : I.holds s) : I.holds (growReply s p n h c) :=
  ite_holds (svcCode_holds hs) (svcReply_holds hs)

theorem growWith_holds {p n kind h r} (hm : I.Free .memory) (hs : I.holds r.1) : I.holds (growWith p n kind h r) := by
  unfold growWith
  split
  · exact hs
  · exact ite_holds (growReply_holds hs) (openEnds_holds hm hs)

theorem growTry_holds {p n h} (hm : I.Free .memory) (hs : I.holds s) : I.holds (growTry s p n h) :=
  ite_holds (svcCode_holds hs) (ite_holds (svcCode_holds hs) (ite_holds (growReply_holds hs) (ite_holds
    (modPLast_holds hs) (growWith_holds hm (startGrowth_holds hm hs)))))

theorem serveGrow_holds {p h} (hm : I.Free .memory) (hs : I.holds s) : I.holds (serveGrow p h s) :=
  svcReceive_holds (fun _ hs => ite_holds (svcCode_holds hs) (growTry_holds hm hs)) hs

theorem execGrow_leads {p h} (hm : I.Free .memory) (hs : I.holds s) : I.leads (execGrow p h s) :=
  next_leads (serveGrow_holds hm hs)

theorem resumeSlot_holds {p n} (hm : I.Free .memory) (hs : I.holds s) : I.holds (resumeSlot s p n) :=
  foldl_holds (fun _ _ hs => growTry_holds hm hs) (modPLast_holds (resumePartners_holds hm hs))

theorem roomRetry_holds {p x} (hm : I.Free .memory) (hs : I.holds s) : I.holds (roomRetry s p x) := by
  unfold roomRetry
  dsimp only
  split
  · split
    · exact svcCode_holds hs
    · exact openNew_holds hm hs
  · exact openWith_holds hm (openStep6_holds hm hs)
  · exact growWith_holds hm (startGrowth_holds hm hs)
  · split
    · exact svcCode_holds hs
    · exact partnerSlot_holds hm hs
  · exact recoverLast_holds hm hs

theorem resumeRoom_holds {p n} (hm : I.Free .memory) (hs : I.holds s) : I.holds (resumeRoom s p n) := by
  unfold resumeRoom
  dsimp only
  exact foldl_holds (fun _ _ hs => roomRetry_holds hm hs) (modPLast_holds hs)

theorem openOld_holds {p h} (hm : I.Free .memory) (hs : I.holds s) : I.holds (openOld s p h) := by
  simp only [openOld]
  refine ite_holds (ite_holds (queueOpen_holds hm hs) ?_) (ite_holds (svcCode_holds hs) (ite_holds (svcCode_holds hs)
    (ite_holds (svcCode_holds hs) (ite_holds (svcCode_holds hs) ?_))))
  · split
    · exact openLost_holds hs
    · exact svcCode_holds (openLost_holds hs)
  · split
    · exact ite_holds (resumeRoom_holds hm (resumeSlot_holds hm (openWith_holds hm (openStep6_holds hm
        (abandonMove_holds hm hs))))) (queueOpen_holds hm hs)
    · exact ite_holds (queueOpen_holds hm hs) (openWith_holds hm (openStep6_holds hm hs))

theorem serveOpen_holds {p h} (hm : I.Free .memory) (hs : I.holds s) : I.holds (serveOpen p h s) := by
  unfold serveOpen
  refine svcReceive_holds ?_ hs
  intro x hs
  split
  · exact svcCode_holds hs
  · exact ite_holds (openNew_holds hm hs) (openOld_holds hm hs)

theorem execOpenLast_leads {p h} (hm : I.Free .memory) (hs : I.holds s) : I.leads (execOpenLast p h s) :=
  next_leads (ite_holds hs (serveOpen_holds hm hs))

theorem loseLast_holds {p n} (hm : I.Free .memory) (hs : I.holds s) : I.holds (loseLast s p n) :=
  resumeRoom_holds hm (resumeSlot_holds hm (foldl_holds (fun _ _ hs => ite_holds (partnerSlot_holds hm hs) (ite_holds
    (svcCode_holds hs) (openOld_holds hm hs))) (takeOpens_holds (dropHeld_holds (modDir_holds hm hs)))))

theorem jobCopy_holds {p n j code} (hm : I.Free .memory) (hs : I.holds s) : I.holds (jobCopy s p n j code).2.2 := by
  simp only [jobCopy]
  split
  · exact hs
  · split
    · exact hs
    · split
      · exact hs
      · exact copyLast_holds hm hs

theorem copyMet_holds {r n} (hm : I.Free .memory) (hs : I.holds s) : I.holds (copyMet s r n) :=
  ite_holds (settlePart_holds hm hs) (eccMetIn_holds hm (settlePart_holds hm hs))

theorem execLastGrowthCopyDone_leads {read slot code} (hm : I.Free .memory) (hs : I.holds s) :
    I.leads (execLastGrowthCopyDone read slot code s) := by
  have copied {n j} : I.holds (endJob (jobCopy (copyMet s read slot) n slot j code).2.2 n slot) :=
    endJob_holds (jobCopy_holds hm (copyMet_holds hm hs))
  have back {c : Prop} [Decidable c] {t n x y f} (ht : I.holds t) :
      I.holds (if c then setDir t n slot x else (setDir t n slot y).modPLast n f) :=
    ite_holds (setDir_holds hm ht) (modPLast_holds (setDir_holds hm ht))
  simp only [execLastGrowthCopyDone]
  split
  · exact next_leads hs
  · refine ite_leads (next_leads hs) ?_
    split
    · exact next_leads (resumeSlot_holds hm (back copied))
    · exact next_leads (resumeSlot_holds hm (ite_holds (growReply_holds (back copied))
        (ite_holds (openEnds_holds hm (back copied)) (openStep8_holds hm (back copied)))))

theorem execLastOldFootprintFree_leads {p slot} (hs : I.holds s) : I.leads (execLastOldFootprintFree p slot s) :=
  next_leads (modPLast_holds hs)

theorem moveEnds_holds {p n j c bad} (hm : I.Free .memory) (hs : I.holds s) : I.holds (moveEnds s p n j c bad) :=
  ite_holds (setDir_holds hm (endJob_holds hs)) (ite_holds (loseLast_holds hm (endJob_holds hs)) (setDir_holds hm
    (endJob_holds hs)))

theorem execLastPromotionDone_leads {read slot code} (hm : I.Free .memory) (hs : I.holds s) :
    I.leads (execLastPromotionDone read slot code s) := by
  simp only [execLastPromotionDone]
  split
  · exact next_leads hs
  · refine ite_leads (next_leads hs) ?_
    split
    · exact next_leads (resumeSlot_holds hm (moveEnds_holds hm (jobCopy_holds hm (copyMet_holds hm hs))))
    · exact next_leads (resumeSlot_holds hm (ite_holds (svcCode_holds (moveEnds_holds hm (jobCopy_holds hm
        (copyMet_holds hm hs)))) (ite_holds (openEnds_holds hm (moveEnds_holds hm (jobCopy_holds hm (copyMet_holds hm
        hs)))) (openWith_holds hm (openStep7_holds hm (moveEnds_holds hm (jobCopy_holds hm (copyMet_holds hm
        hs))))))))

theorem execLastTierMoveDone_leads {read slot code} (hm : I.Free .memory) (hs : I.holds s) :
    I.leads (execLastTierMoveDone read slot code s) := by
  simp only [execLastTierMoveDone]
  split
  · exact next_leads hs
  · exact ite_leads (next_leads hs) (next_leads (resumeRoom_holds hm (resumeSlot_holds hm (moveEnds_holds hm
      (jobCopy_holds hm (copyMet_holds hm hs))))))

theorem ageLast_holds {p n} (hm : I.Free .memory) (hs : I.holds s) : I.holds (ageLast s p n) := by
  simp only [ageLast]
  refine ite_holds hs (ite_holds (freeLast_holds hm hs) (ite_holds hs (ite_holds hs ?_)))
  split
  · exact hs
  · exact startDown_holds hm hs

theorem execLastTtlCheck_leads {p} (hm : I.Free .memory) (hs : I.holds s) : I.leads (execLastTtlCheck p s) :=
  ite_leads (next_leads hs) (next_leads (foldl_holds (fun _ _ hs => ageLast_holds hm hs) (modPLast_holds hs)))

theorem execLastRebuild_leads {p} (hs : I.holds s) : I.leads (execLastRebuild p s) := by
  simp only [execLastRebuild]
  split
  · exact next_leads hs
  · refine ite_leads (next_leads hs) (ite_leads (next_leads (modPLast_holds (rebuildNow_holds hs))) ?_)
    split
    · exact next_leads (modPLast_holds (rebuildNow_holds hs))
    · exact next_leads (sendBringUp_holds (modPLast_holds (modPLast_holds (rebuildNow_holds hs))))

theorem rebuildEnds_holds {p n} (hm : I.Free .memory) (hs : I.holds s) : I.holds (rebuildEnds s p n) :=
  ite_holds (passOn_holds hm (modPLast_holds hs)) (modPLast_holds hs)

theorem bringUpAnswered_holds {p n x c} (hm : I.Free .memory) (hs : I.holds s) : I.holds (bringUpAnswered s p n x c) :=
  ite_else_holds (fun h => ite_holds (modPLast_holds (svcSend_holds (modPLast_holds h))) (rebuildEnds_holds hm h))
    (ite_holds hs (modPLast_holds hs))

theorem notePartner_holds {p lost} (hm : I.Free .memory) (hs : I.holds s) : I.holds (notePartner s p lost) :=
  ite_holds (foldl_holds (fun _ _ hs => rebuildEnds_holds hm hs) (modPLast_holds (modPLast_holds hs))) (modPLast_holds
    hs)

/-! ### Queries at a cache partition -/

theorem queryAnswer_holds {p h c payload} (hs : I.holds s) : I.holds (queryAnswer s p h c payload) :=
  svcReply_holds (modPLast_holds hs)

theorem sendStripe_holds {p h q payload} (hs : I.holds s) : I.holds (sendStripe s p h q payload).2 := by
  simp only [sendStripe]
  split
  · split
    · dsimp only
      exact hs
    · dsimp only
      exact modPLast_holds (svcSend_holds hs)
  · dsimp only
    exact hs

theorem serveQuery_holds {p h payload} (hm : I.Free .memory) (hs : I.holds s) : I.holds (serveQuery p h payload s) := by
  unfold serveQuery
  refine svcReceive_holds ?_ hs
  intro x hs
  dsimp only
  exact ite_holds (queryAnswer_holds hs) (modPLast_holds (sendStripe_holds (setDir_holds hm hs)))

theorem execQuery_leads {p h payload} (hm : I.Free .memory) (hs : I.holds s) : I.leads (execQuery p h payload s) :=
  next_leads (serveQuery_holds hm hs)

theorem lowerReaders_holds {p job} (hm : I.Free .memory) (hs : I.holds s) : I.holds (lowerReaders s p job) := by
  simp only [lowerReaders]
  exact modPLast_holds (modDir_holds hm hs)

theorem planeLost_holds {p job} (hm : I.Free .memory) (hs : I.holds s) : I.holds (planeLost s p job) := by
  unfold planeLost
  dsimp only
  split
  · exact ite_holds (loseLast_holds hm hs) (modPLast_holds (probe_holds hs))
  · exact loseLast_holds hm hs

theorem repairAnswered_holds {p n layer x c} (hm : I.Free .memory) (hs : I.holds s) :
    I.holds (repairAnswered s p n layer x c) :=
  ite_holds hs (ite_holds (takePlane_holds hm hs) (loseLast_holds hm hs))

theorem execQueryChunksDone_leads {read fromDevice fromPartition msgId} (hm : I.Free .memory) (hs : I.holds s) :
    I.leads (execQueryChunksDone read fromDevice fromPartition msgId s) := by
  simp only [execQueryChunksDone]
  split
  · exact next_leads hs
  · exact ite_leads (next_leads hs) (next_leads (ite_self_holds (planeLost_holds hm) (queryAnswer_holds
      (lowerReaders_holds hm (modPLast_holds (homeRead_holds hm (eccMet_holds hm hs)))))))

theorem stripeEnds_holds {p id c payload} (hs : I.holds s) : I.holds (stripeEnds s p id c payload) := by
  unfold stripeEnds
  dsimp only
  split
  · exact hs
  · exact modPLast_holds hs

/-! ### Replies to service messages -/

theorem afterToken0_holds {p tag} (hl : I.Free .lanes) (hs : I.holds s) : I.holds (afterToken0 s p tag) := by
  unfold afterToken0
  split
  · exact hs
  · exact ite_holds (finishRequest_holds hl hs) (ite_holds (nextTarget_holds (modReq_holds hs)) (joinBatch_holds hs))

theorem prefillCommit_holds {p tag} (hl : I.Free .lanes) (hs : I.holds s) : I.holds (prefillCommit s p tag) := by
  unfold prefillCommit
  split
  · exact hs
  · dsimp only
    exact ite_holds (finishRequest_holds hl (modReq_holds (insertPrefix_holds hs))) (ite_holds (finishRequest_holds
      hl (insertPrefix_holds hs)) (ite_else_holds (afterToken0_holds hl) (liveItem_holds hl (modReq_holds
      (insertPrefix_holds hs)))))

theorem commitProgress_holds {p tag} (hl : I.Free .lanes) (hs : I.holds s) : I.holds (commitProgress s p tag) := by
  unfold commitProgress
  split
  · exact hs
  · exact ite_holds (prefillCommit_holds hl (modReq_holds hs)) (flushOn_holds hl hs)

theorem growDone_holds {p tag} (hl : I.Free .lanes) (hs : I.holds s) : I.holds (growDone s p tag) := by
  unfold growDone
  split
  · exact hs
  · exact ite_holds (flushOn_holds hl (modLive_holds hs)) hs

theorem copyLost_holds {p tag handle} (hl : I.Free .lanes) (hs : I.holds s) : I.holds (copyLost s p tag handle) := by
  simp only [copyLost]
  split
  · exact hs
  · refine ite_holds hs ?_
    split
    · exact endNow_holds hl hs
    · exact growDone_holds hl (commitProgress_holds hl (modLive_holds hs))

theorem lostInStep_holds {p tag handle} (hl : I.Free .lanes) (hs : I.holds s) : I.holds (lostInStep s p tag handle) :=
  ite_holds (noteStep_holds (copyLost_holds hl hs)) (copyLost_holds hl hs)

theorem commitAnswered_holds {p q c} (hl : I.Free .lanes) (hs : I.holds s) : I.holds (commitAnswered s p q c) := by
  unfold commitAnswered
  split
  · exact hs
  · refine ite_holds hs (ite_holds ?_ (ite_holds (lostInStep_holds hl hs) (endWith_holds hl hs)))
    dsimp only
    exact ite_holds (modLive_holds hs) (commitProgress_holds hl (modLive_holds hs))

theorem growAnswered_holds {p q r c} (hl : I.Free .lanes) (hs : I.holds s) : I.holds (growAnswered s p q r c) := by
  unfold growAnswered
  split
  · exact hs
  · exact ite_holds hs (ite_holds (lostInStep_holds hl hs) (ite_holds (endWith_holds hl hs) (growDone_holds hl
      (modLive_holds hs))))

theorem handedTo_holds {p tag holder} (hs : I.holds s) : I.holds (handedTo s p tag holder) := by
  unfold handedTo
  split
  · exact hs
  · dsimp only
    exact ite_else_holds forwardCancel_holds (addForward_holds (dropLive_holds hs))

theorem releaseAnswered_holds {p q r c} (hl : I.Free .lanes) (hs : I.holds s) : I.holds (releaseAnswered s p q r c) := by
  simp only [releaseAnswered]
  split
  · exact hs
  · refine ite_holds hs (ite_holds (handedTo_holds hs) ?_)
    split
    · exact modLive_holds (ite_holds (updateHead_holds hs) hs)
    · exact ite_self_holds (finalItem_holds hl) (modLive_holds (ite_holds (updateHead_holds hs) hs))

theorem releaseOn_holds {p tag} (hs : I.holds s) : I.holds (releaseOn s p tag) := by
  simp only [releaseOn]
  split
  · exact hs
  · split
    · exact hs
    · exact ite_holds hs (sendReleases_holds hs)

theorem flushAgain_holds {p tag d} (hs : I.holds s) : I.holds (flushAgain s p tag d) := by
  unfold flushAgain
  split
  · exact hs
  · exact ite_holds hs (modHold_holds hs)

theorem copyMoved_holds {p tag c} (hs : I.holds s) : I.holds (copyMoved s p tag c) := by
  simp only [copyMoved]
  split
  · exact hs
  · split
    · exact hs
    · exact ite_holds (loadSource_holds (modLive_holds hs)) (modLive_holds hs)

theorem prefillFailed_holds {p x} (hs : I.holds s) : I.holds (prefillFailed s p x) := modLive_holds hs

theorem writeEnded_holds {p owner d c} (hl : I.Free .lanes) (hs : I.holds s) : I.holds (writeEnded s p owner d c) := by
  unfold writeEnded
  dsimp only
  refine foldl_holds (fun _ _ hs => releaseOn_holds (ite_holds (flushOn_holds hl hs) hs)) ?_
  split
  · exact copyMoved_holds (ite_holds (foldl_holds (fun _ _ hs => lostInStep_holds hl hs) hs) hs)
  · refine ite_holds (foldl_holds (fun _ _ hs => lostInStep_holds hl hs) hs) ?_
    split
    · exact hs
    · exact ite_holds hs (ite_holds (flushAgain_holds hs) (endWith_holds hl hs))
    · exact ite_holds hs (foldl_holds (fun _ _ hs => prefillFailed_holds hs) (noteStep_holds hs))

theorem modTaking_holds {p tag f} (hs : I.holds s) : I.holds (modTaking s p tag f) := modHold_holds hs

theorem dropTaking_holds {p tag} (hs : I.holds s) : I.holds (dropTaking s p tag) := modHold_holds hs

theorem takingEnds_holds {p k c holder} (hs : I.holds s) : I.holds (takingEnds s p k c holder) :=
  svcReply_holds (dropTaking_holds hs)

theorem takingAccepted_holds {p k} (hs : I.holds s) : I.holds (takingAccepted s p k) :=
  takingEnds_holds (ite_holds hs (modHold_holds hs))

theorem takingReady_holds {p tag} (hs : I.holds s) : I.holds (takingReady s p tag) := by
  unfold takingReady
  split
  · exact hs
  · exact ite_holds (modTaking_holds hs) (takingAccepted_holds hs)

theorem sendTransfer_holds {p k handle} (hs : I.holds s) : I.holds (sendTransfer s p k handle) := askCopy_holds hs

theorem transferAnswered_holds {p q r c} (hs : I.holds s) : I.holds (transferAnswered s p q r c) := by
  unfold transferAnswered
  split
  · exact hs
  · dsimp only
    exact ite_holds hs (ite_holds (ite_holds (sendTransfer_holds hs) (takingReady_holds hs)) (ite_holds (ite_holds
      (takingEnds_holds hs) (ite_holds (takingReady_holds (modTaking_holds hs)) (sendTransfer_holds (modTaking_holds
      hs)))) (ite_holds (takingEnds_holds hs) (takingEnds_holds hs))))

theorem noteTarget_holds {p target r} (hs : I.holds s) : I.holds (noteTarget s p target r) := by
  unfold noteTarget
  split
  · exact hs
  · exact ite_holds hs (modPLast_holds hs)

theorem handoffAnswered_holds {p q r c} (hl : I.Free .lanes) (hs : I.holds s) : I.holds (handoffAnswered s p q r c) := by
  unfold handoffAnswered
  split
  · exact hs
  · dsimp only
    exact ite_holds (noteTarget_holds hs) (ite_holds (handedTo_holds (modPLast_holds (noteTarget_holds hs)))
      (ite_holds (endNow_holds hl (noteTarget_holds hs)) (ite_holds (endWith_holds hl (noteTarget_holds hs))
      (nextTarget_holds (noteTarget_holds hs)))))

theorem endRunning_holds {p tag c} (hl : I.Free .lanes) (hs : I.holds s) : I.holds (endRunning s p tag c) := by
  unfold endRunning
  split
  · exact hs
  · exact ite_holds (endEarly_holds hl hs) (endWith_holds hl hs)

theorem queryAnswered_holds {p x c} (hl : I.Free .lanes) (hs : I.holds s) : I.holds (queryAnswered s p x c) := by
  simp only [queryAnswered]
  split
  · exact hs
  · refine ite_holds hs (ite_holds (lostInStep_holds hl (ite_holds (noteStep_holds hs) hs)) (ite_holds hs (ite_holds
      ?_ (ite_holds (noteStep_holds (endRunning_holds hl hs)) (noteStep_holds hs)))))
    split
    · exact svcSend_holds hs
    · exact endRunning_holds hl hs

theorem resendAs_holds {p id x epoch} (hs : I.holds s) : I.holds (resendAs s p id x epoch) :=
  modTaking_holds (modLive_holds (modPLast_holds (svcSend_holds hs)))

theorem partnerAnswered_holds {p id x r c payload} (hm : I.Free .memory) (hs : I.holds s) :
    I.holds (partnerAnswered s p id x r c payload) := by
  simp only [partnerAnswered]
  split
  · exact repairAnswered_holds hm (modPLast_holds (notePartner_holds hm hs))
  · exact ite_holds (probeAnswered_holds hm (modPLast_holds (notePartner_holds hm hs))) (partnerGrant_holds hm
      (modPLast_holds (notePartner_holds hm hs)))
  · exact bringUpAnswered_holds hm (modPLast_holds (notePartner_holds hm hs))
  · exact stripeEnds_holds (notePartner_holds hm hs)

theorem openAnswered_holds {p x r c payload source} (hl : I.Free .lanes) (hs : I.holds s) :
    I.holds (openAnswered s p x r c payload source) := by
  unfold openAnswered
  split
  · exact hs
  · refine ite_holds hs (ite_holds ?_ (ite_holds (finalItem_holds hl hs) (openRefused_holds hl hs)))
    dsimp only
    exact ite_holds (releaseCopies_holds hl (takeGrant_holds hs)) (takeGrant_holds hs)

theorem svcOutcome_holds {p id x r c payload source} (hl : I.Free .lanes) (hm : I.Free .memory) (hs : I.holds s) :
    I.holds (svcOutcome s p id x r c payload source) := by
  simp only [svcOutcome]
  refine ite_holds (partnerAnswered_holds hm hs) ?_
  split
  · exact openAnswered_holds hl hs
  · exact commitAnswered_holds hl hs
  · split
    · exact bringUpAnswered_holds hm (modPLast_holds (notePartner_holds hm hs))
    · exact releaseAnswered_holds hl hs
  · exact transferAnswered_holds hs
  · exact queryAnswered_holds hl hs
  · exact handoffAnswered_holds hl hs
  · exact cancelsEnd_holds hs
  · exact growAnswered_holds hl hs
  · exact hs

theorem svcEnds_holds {p id x r c payload source} (hl : I.Free .lanes) (hm : I.Free .memory) (hs : I.holds s) :
    I.holds (svcEnds s p id x r c payload source) := by
  simp only [svcEnds]
  refine ite_holds ?_ (svcOutcome_holds hl hm (modPLast_holds hs))
  split
  · exact resendAs_holds (modPLast_holds hs)
  · exact svcOutcome_holds hl hm (modPLast_holds hs)

theorem svcReplied_holds {p h payload source} (hl : I.Free .lanes) (hm : I.Free .memory) (hs : I.holds s) :
    I.holds (svcReplied s p h payload source) := by
  simp only [svcReplied]
  refine ite_holds hs ?_
  split
  · exact hs
  · exact ite_holds hs (svcEnds_holds hl hm hs)

theorem svcFailed_holds {p id c} (hl : I.Free .lanes) (hm : I.Free .memory) (hs : I.holds s) :
    I.holds (svcFailed s p id c) := by
  unfold svcFailed
  split
  · exact hs
  · exact svcEnds_holds hl hm hs

theorem takeCancel_holds {p tag} (hl : I.Free .lanes) (hs : I.holds s) : I.holds (takeCancel s p tag) := by
  unfold takeCancel
  split
  · exact hs
  · exact ite_holds hs (ite_holds (endEarly_holds hl hs) (ite_holds (finishRequest_holds hl hs) (ite_holds
      (endWith_holds hl hs) hs)))

theorem submitCancel_holds {p tag slots msgs} (hl : I.Free .lanes) (hs : I.holds s) :
    I.holds (submitCancel s p tag slots msgs) := by
  simp only [submitCancel]
  split
  · exact ite_holds (cancelsEnd_holds hs) (ite_holds (takeCancel_holds hl (modLive_holds hs)) (modLive_holds hs))
  · split
    · exact forwardCancel_holds hs
    · exact cancelsEnd_holds hs

/-! ### The Awls -/

theorem awlComplete_holds {n p j} (hI : ∀ k, I.Free k) (hs : I.holds s) : I.holds (awlComplete s n p j) :=
  writeEnded_holds (hI .lanes) (ite_self_holds (laneGive_holds (hI .lanes)) (ite_self_holds (ctrAdd_holds (hI
    .counters)) (setAwl_holds (hI .awls) (traceEvent_holds hs))))

theorem awlUnreadable_holds {n p c} (hl : I.Free .lanes) (ha : I.Free .awls) (hs : I.holds s) :
    I.holds (awlUnreadable s n p c) := by
  simp only [awlUnreadable]
  split
  · exact setAwl_holds ha hs
  · exact writeEnded_holds hl (setAwl_holds ha hs)

theorem sourceFaults_holds {p d spans c} (hs : I.holds s) : I.holds (sourceFaults s p d spans c) :=
  ite_holds (foldl_holds (fun _ _ hs => badWordFaults_holds hs) hs) hs

theorem wakeFor_holds {off} (hb : I.Free .blocks) (hs : I.holds s) : I.holds (wakeFor s off) :=
  ite_holds hs (ite_holds hs (setPwr_holds hb hs))

theorem sendNvme_holds {n p j q write flush drive nsid byte addr off bytes} (hs : I.holds s) :
    I.holds (sendNvme s n p j q write flush drive nsid byte addr off bytes) := nvSend_holds hs

theorem issueRemote_holds {n j q device pkt detail} (hs : I.holds s) :
    I.holds (issueRemote s n j q device pkt detail).state := by
  unfold issueRemote
  split
  · exact mk_holds (xtSubmit_holds ‹_› hs)
  · exact hs

theorem issueRead_holds {n p j q} (hs : I.holds s) : I.holds (issueRead s n p j q).state := by
  unfold issueRead
  dsimp only
  split
  · exact issueRemote_holds hs
  · exact hs

theorem passSpans_holds {p d spans} (hm : I.Free .memory) (hs : I.holds s) : I.holds (passSpans s p d spans) :=
  foldl_holds (fun _ _ hs => passSquares_holds hm hs) hs

theorem readSource_holds {p d q go} (hm : I.Free .memory) (hf : ∀ s, I.holds s → I.holds (go s).state) (hs : I.holds
    s) :
    I.holds (readSource s p d q go).state := by
  simp only [readSource]
  split
  · exact mk_holds (sourceFaults_holds (passSpans_holds hm hs))
  · exact hf _ (passSpans_holds hm hs)

theorem issueOwn_holds {n p j q} (hb : I.Free .blocks) (hs : I.holds s) : I.holds (issueOwn s n p j q).state := by
  simp only [issueOwn]
  split
  · dsimp only
    exact ite_holds (wakeFor_holds hb (wakeFor_holds hb hs)) (wakeFor_holds hb hs)
  · split
    · split
      · split
        · dsimp only
          exact wakeFor_holds hb (wakeFor_holds hb hs)
        · split
          · dsimp only
            exact wakeFor_holds hb (wakeFor_holds hb hs)
          · split
            · dsimp only
              exact wakeFor_holds hb (wakeFor_holds hb hs)
            · dsimp only
              exact sendNvme_holds (wakeFor_holds hb (wakeFor_holds hb hs))
      · split
        · dsimp only
          exact wakeFor_holds hb hs
        · split
          · dsimp only
            exact wakeFor_holds hb hs
          · split
            · dsimp only
              exact wakeFor_holds hb hs
            · dsimp only
              exact sendNvme_holds (wakeFor_holds hb hs)
    · dsimp only
      exact ite_holds (wakeFor_holds hb (wakeFor_holds hb hs)) (wakeFor_holds hb hs)
    · dsimp only
      exact ite_holds (wakeFor_holds hb (wakeFor_holds hb hs)) (wakeFor_holds hb hs)

theorem issueOne_holds {n p j q} (hb : I.Free .blocks) (hm : I.Free .memory) (hs : I.holds s) :
    I.holds (issueOne s n p j q).state := by
  simp only [issueOne]
  split
  · split
    · dsimp only
      exact hs
    · dsimp only
      exact sendNvme_holds hs
  · split
    · exact issueRead_holds hs
    · split
      · exact issueOwn_holds hb hs
      · split
        · exact readSource_holds hm (fun _ hs => issueRemote_holds hs) hs
        · split
          · dsimp only
            exact hs
          · split
            · dsimp only
              exact hs
            · refine readSource_holds hm ?_ hs
              intro x hs
              dsimp only
              exact sendNvme_holds hs
        · dsimp only
          exact hs
        · exact issueOwn_holds hb hs

theorem grantFetches_holds {p fuel} (hs : I.holds s) : I.holds (grantFetches p fuel s) := by
  induction fuel generalizing s with
  | zero => exact hs
  | succ n ih =>
    simp only [grantFetches]
    split
    · exact ite_holds hs (ih (modXt_holds hs))
    · exact hs

theorem awlIssue_holds {n p fuel} (hI : ∀ k, I.Free k) (hs : I.holds s) : I.holds (awlIssue n p fuel s) := by
  induction fuel generalizing s with
  | zero => exact hs
  | succ n ih =>
    unfold awlIssue
    split
    · exact hs
    · split
      · exact hs
      · dsimp only
        exact ite_holds hs (ih (setAwl_holds (hI .awls) (issueOne_holds (hI .blocks) (hI .memory) hs)))

theorem tackStart_holds {p j} (hm : I.Free .memory) (hs : I.holds s) : I.holds (tackStart s p j).1 := by
  simp only [tackStart]
  split
  · split
    · dsimp only
      exact ite_holds (badWordFaults_holds (settlePart_holds hm hs)) (settlePart_holds hm hs)
    · split
      · dsimp only
        exact settlePart_holds hm hs
      · dsimp only
        exact settlePart_holds hm hs
  · split
    · dsimp only
      exact ite_holds (badWordFaults_holds (settlePart_holds hm hs)) (settlePart_holds hm hs)
    · split
      · dsimp only
        exact settlePart_holds hm hs
      · dsimp only
        exact settlePart_holds hm hs

theorem awlStart_holds {n p j} (hI : ∀ k, I.Free k) (hs : I.holds s) : I.holds (awlStart s n p j) := by
  unfold awlStart
  dsimp only
  refine ite_holds (awlComplete_holds hI ?_) (awlIssue_holds hI (setAwl_holds (hI .awls) ?_))
  · split
    · exact tackStart_holds (hI .memory) hs
    · exact hs
  · split
    · exact tackStart_holds (hI .memory) hs
    · exact hs

theorem awlTurn_holds {n want} (hI : ∀ k, I.Free k) (hs : I.holds s) : I.holds (awlTurn s n want) := by
  unfold awlTurn
  split
  · exact hs
  next p _ =>
    have settled : I.holds (settlePart s p) := settlePart_holds (hI .memory) hs
    have taken : I.holds ((settlePart s p).setAwl n (s.awl n).advance) := setAwl_holds (hI .awls) settled
    dsimp only
    exact ite_holds hs (ite_holds (awlUnreadable_holds (hI .lanes) (hI .awls) (ringRead_holds settled)) (ite_holds
      settled (ite_holds (awlComplete_holds hI taken) (ite_holds (ite_holds (awlComplete_holds hI taken) (ite_holds
      (awlStart_holds hI taken) (setAwl_holds (hI .awls) taken))) (awlStart_holds hI taken)))))

theorem postMoves_holds {p fuel} (ha : I.Free .awls) (hm : I.Free .memory) (hs : I.holds s) :
    I.holds (postMoves p fuel s) := by
  induction fuel generalizing s with
  | zero => exact hs
  | succ n ih =>
    simp only [postMoves]
    split
    · exact ite_holds hs (ih (setAwl_holds ha (modHold_holds (storeRaw_holds hm hs))))
    · exact hs

theorem holderOn_holds {p} (ha : I.Free .awls) (hm : I.Free .memory) (hs : I.holds s) : I.holds (holderOn s p) :=
  refreshCtxs_holds (postMoves_holds ha hm hs)

theorem localWrite_holds {p j q bytes} (hm : I.Free .memory) (hs : I.holds s) : I.holds (localWrite s p j q bytes).1  := by
  simp only [localWrite]
  split
  · exact mk_holds (sourceFaults_holds (passSpans_holds hm hs))
  · split <;> exact mk_holds (transferWrite_holds hm (passSquares_holds hm (passSpans_holds hm hs)))

theorem reqEnds_holds {p j q result r} (hm : I.Free .memory) (ho : reqEnds s p j q result = some r) (hs : I.holds s) :
    I.holds r.1 := by
  unfold reqEnds at ho
  dsimp only at ho
  split at ho
  · split at ho
    · cases ho
    · exact Option.some.inj ho ▸ ite_holds (badWordFault_holds hs) hs
  · split at ho
    · exact Option.some.inj ho ▸ hs
    · split at ho
      · exact Option.some.inj ho ▸ localWrite_holds hm hs
      · cases ho
  · split at ho
    · cases ho
    · split at ho
      · obtain rfl := Option.some.inj ho
        exact ite_holds (eccMetIn_holds hm hs) hs
      · split at ho
        · cases ho
        · exact Option.some.inj ho ▸ localWrite_holds hm (eccMetIn_holds hm hs)

theorem reqEnd_holds {n p index req result r} (ha : I.Free .awls) (hm : I.Free .memory) (ho : reqEnd s n p index req
    result = some r) (hs : I.holds s) :
    I.holds r := by
  unfold reqEnd at ho
  split at ho
  · cases ho
  · split at ho
    · cases ho
    · obtain ⟨x, hx, rfl⟩ := Option.map_eq_some_iff.1 ho
      exact setAwl_holds ha (reqEnds_holds hm hx hs)

theorem slotsFree_holds {n p} (hI : ∀ k, I.Free k) (hs : I.holds s) : I.holds (slotsFree s n p) :=
  awlIssue_holds hI (grantFetches_holds hs)

theorem awlReqEnd_holds {n p index req result} (hI : ∀ k, I.Free k) (hs : I.holds s) :
    I.holds (awlReqEnd s n p index req result) := by
  unfold awlReqEnd
  split
  · exact hs
  · exact slotsFree_holds hI (reqEnd_holds (hI .awls) (hI .memory) ‹_› hs)

theorem awlKillAll_holds {n p c} (hI : ∀ k, I.Free k) (hs : I.holds s) : I.holds (awlKillAll s n p c) :=
  foldl_holds (fun _ _ hs => awlComplete_holds hI hs) (setAwl_holds (hI .awls) hs)

theorem awlFlushRing_holds {n p c fuel} (hI : ∀ k, I.Free k) (hs : I.holds s) : I.holds (awlFlushRing n p c fuel s) := by
  induction fuel generalizing s with
  | zero => exact hs
  | succ n ih =>
    simp only [awlFlushRing]
    exact ite_holds hs (ih (ite_holds (awlUnreadable_holds (hI .lanes) (hI .awls) (ringRead_holds hs))
      (awlComplete_holds hI (setAwl_holds (hI .awls) hs))))

theorem awlFlushAll_holds {n p c} (hI : ∀ k, I.Free k) (hs : I.holds s) : I.holds (awlFlushAll s n p c) := by
  simp only [awlFlushAll]
  refine awlFlushRing_holds hI ?_
  split
  · exact hs
  · exact awlComplete_holds hI (setAwl_holds (hI .awls) hs)

theorem awlSetTail_holds {n t} (ha : I.Free .awls) (hs : I.holds s) : I.holds (awlSetTail s n t) := by
  simp only [awlSetTail]
  refine ite_holds (setAwl_holds ha hs) ?_
  split
  · exact modHold_holds (setAwl_holds ha hs)
  · exact setAwl_holds ha hs

theorem execAwlTailWrite_leads {src b awl value} (ha : I.Free .awls) (hb : I.Free .blocks) (hs : I.holds s) :
    I.leads (execAwlTailWrite src b awl value s) := by
  unfold execAwlTailWrite
  dsimp only
  refine next_leads ?_
  split
  · exact onOwned_holds hb (fun _ _ hs => awlSetTail_holds ha hs) hs
  · exact blockWrite_holds hb (fun _ hs => awlSetTail_holds ha hs) hs

theorem execAwlRingWrite_leads {src b awl size value} (ha : I.Free .awls) (hb : I.Free .blocks) (hs : I.holds s) :
    I.leads (execAwlRingWrite src b awl size value s) :=
  next_leads (blockWrite_holds hb (fun _ hs => ite_holds hs (ite_holds (ite_holds (setAwl_holds ha hs) hs)
    (setAwl_holds ha hs))) hs)

theorem execMove_leads {b awl} (hI : ∀ k, I.Free k) (hs : I.holds s) : I.leads (execMove b awl s) :=
  next_leads (awlTurn_holds hI hs)

theorem execFill_leads {b awl} (hI : ∀ k, I.Free k) (hs : I.holds s) : I.leads (execFill b awl s) :=
  next_leads (awlTurn_holds hI hs)

theorem execTack_leads {b awl} (hI : ∀ k, I.Free k) (hs : I.holds s) : I.leads (execTack b awl s) :=
  next_leads (awlTurn_holds hI hs)

theorem execAwlWaitRelease_leads {b awl} (hI : ∀ k, I.Free k) (hs : I.holds s) : I.leads (execAwlWaitRelease b awl s) := by
  simp only [execAwlWaitRelease]
  split
  · exact ite_leads (next_leads (ite_holds (awlComplete_holds hI (setAwl_holds (hI .awls) hs)) (awlStart_holds hI
      (setAwl_holds (hI .awls) hs)))) (next_leads hs)
  · exact next_leads hs

theorem execAwlRequestDone_leads {b awl index req result} (hI : ∀ k, I.Free k) (hs : I.holds s) :
    I.leads (execAwlRequestDone b awl index req result s) := by
  simp only [execAwlRequestDone]
  split
  · exact next_leads hs
  · exact next_leads (awlReqEnd_holds hI hs)

theorem execAwlDescriptorComplete_leads {b awl index} (hI : ∀ k, I.Free k) (hs : I.holds s) :
    I.leads (execAwlDescriptorComplete b awl index s) := by
  simp only [execAwlDescriptorComplete]
  split
  · exact ite_leads (next_leads (holderOn_holds (hI .awls) (hI .memory) (awlComplete_holds hI (setAwl_holds (hI .awls)
      hs)))) (next_leads hs)
  · exact next_leads hs

theorem execAwlFlush_leads {src b awl value} (hI : ∀ k, I.Free k) (hs : I.holds s) :
    I.leads (execAwlFlush src b awl value s) := by
  unfold execAwlFlush
  refine next_leads (blockWrite_holds (hI .blocks) ?_ hs)
  intro x hs
  dsimp only
  split
  · exact hs
  · exact ite_holds (awlFlushAll_holds hI hs) hs

/-! ### Engine, stitch cores and Cobbler cores -/

theorem launchFaults_holds {p slot entry} (hs : I.holds s) : I.holds (launchFaults s p slot entry) := by
  unfold launchFaults
  split
  · exact hs
  · dsimp only
    exact ite_holds (badWordFaults_holds hs) (badWordFaults_holds hs)

theorem copySection_holds {p b slot} (hb : I.Free .blocks) (hm : I.Free .memory) (hs : I.holds s) :
    I.holds (copySection s p b slot).2 := by
  simp only [copySection]
  split
  · exact hs
  · split
    · exact hs
    · split <;> exact setEng_holds hb (homeRead_holds hm hs)

theorem launch_holds {p b v} (hI : ∀ k, I.Free k) (hs : I.holds s) : I.holds (launch s p b v) :=
  ite_holds (setEng_holds (hI .blocks) hs) (ite_holds (runEnds_holds (hI .counters) (hI .blocks) (ite_self_holds
    launchFaults_holds (setEng_holds (hI .blocks) (modPMem_holds (modPFault_holds hs))))) (ite_holds (runEnds_holds
    (hI .counters) (hI .blocks) (copySection_holds (hI .blocks) (hI .memory) (setEng_holds (hI .blocks)
    (modPMem_holds (modPFault_holds hs))))) (askStart_holds (hI .blocks) (startCores_holds (copySection_holds (hI
    .blocks) (hI .memory) (setEng_holds (hI .blocks) (modPMem_holds (modPFault_holds hs))))))))

theorem execEngLaunch_leads {src b value} (hI : ∀ k, I.Free k) (hs : I.holds s) :
    I.leads (execEngLaunch src b value s) := by
  unfold execEngLaunch
  refine next_leads (blockWrite_holds (hI .blocks) ?_ hs)
  intro x hs
  split
  · exact hs
  · exact launch_holds hI hs

theorem execEngStop_leads {src b value} (hb : I.Free .blocks) (hs : I.holds s) : I.leads (execEngStop src b value s) :=
  next_leads (blockWrite_holds hb (fun _ hs => ite_holds (setEng_holds hb hs) hs) hs)

theorem countCycles_holds {p b cycles} (hb : I.Free .blocks) (hs : I.holds s) : I.holds (countCycles s p b cycles) :=
  ite_holds (modHold_holds (setEng_holds hb hs)) (setEng_holds hb hs)

theorem execEngineRunEnd_leads {b how cycles} (hc : I.Free .counters) (hb : I.Free .blocks) (hs : I.holds s) :
    I.leads (execEngineRunEnd b how cycles s) := by
  simp only [execEngineRunEnd]
  split
  · exact next_leads hs
  · refine ite_leads (next_leads (runEnds_holds hc hb (countCycles_holds hb hs))) (ite_leads ?_ (next_leads hs))
    split
    · exact next_leads (ite_holds (runEnds_holds hc hb (countCycles_holds hb hs)) hs)
    · exact ite_leads (next_leads hs) (next_leads (runEnds_holds hc hb (countCycles_holds hb (setEng_holds hb hs))))
    · exact next_leads hs

theorem execMac_leads {b core acc fa fb va vb scales} (hb : I.Free .blocks) (hs : I.holds s) :
    I.leads (execMac b core acc fa fb va vb scales s) :=
  next_leads (onCore_holds (fun _ _ hs => ite_holds (coreFault_holds hb hs) (setCore_holds hs)) hs)

theorem execVector_leads {b core op dst a1 a2 a3} (hs : I.holds s) : I.leads (execVector b core op dst a1 a2 a3 s) :=
  next_leads (onCore_holds (fun _ _ hs => setCore_holds hs) hs)

theorem execVectorSpecial_leads {b core op dst src} (hs : I.holds s) :
    I.leads (execVectorSpecial b core op dst src s) := next_leads (onCore_holds (fun _ _ hs => setCore_holds hs) hs)

theorem benchFault_holds {b c t off len code} (hb : I.Free .blocks) (hs : I.holds s) :
    I.holds (benchFault s b c t off len code) := coreFault_holds hb (ite_holds (badWordFaults_holds hs) hs)

theorem benchPut_holds {b c off bs} (hm : I.Free .memory) (hs : I.holds s) : I.holds (benchPut s b c off bs) :=
  storeRaw_holds hm hs

theorem execBenchLoad_leads {b core dst off len} (hb : I.Free .blocks) (hm : I.Free .memory) (hs : I.holds s) :
    I.leads (execBenchLoad b core dst off len s) :=
  next_leads (onCore_holds (fun _ _ hs => ite_holds (benchFault_holds hb (eccMet_holds hm hs)) (setCore_holds
    (eccMet_holds hm hs))) hs)

theorem execBenchStore_leads {b core src off len} (hb : I.Free .blocks) (hm : I.Free .memory) (hs : I.holds s) :
    I.leads (execBenchStore b core src off len s) :=
  next_leads (onCore_holds (fun _ _ hs => ite_self_holds (benchFault_holds hb) (ite_holds hs (benchPut_holds hm hs)))
    hs)

theorem execCompact_leads {b core op head srcOff dstOff} (hb : I.Free .blocks) (hm : I.Free .memory) (hs : I.holds s)
    :
    I.leads (execCompact b core op head srcOff dstOff s) :=
  next_leads (onCore_holds (fun _ _ hs => ite_holds (benchFault_holds hb (eccMet_holds hm hs)) (ite_self_holds
    (benchFault_holds hb) (ite_holds (eccMet_holds hm hs) (benchPut_holds hm (eccMet_holds hm hs))))) hs)

theorem execExchange_leads {b core dir srcOff dstOff} (hb : I.Free .blocks) (hm : I.Free .memory) (hs : I.holds s) :
    I.leads (execExchange b core dir srcOff dstOff s) := by
  unfold execExchange
  refine next_leads (onCore_holds ?_ hs)
  intro x x hs
  split
  · exact coreFault_holds hb hs
  · dsimp only
    exact ite_holds (benchFault_holds hb (eccMet_holds hm hs)) (ite_self_holds (benchFault_holds hb) (ite_holds
      (eccMet_holds hm hs) (benchPut_holds hm (eccMet_holds hm hs))))

theorem execBarrier_leads {b core} (hs : I.holds s) : I.leads (execBarrier b core s) :=
  next_leads (onCore_holds (fun _ _ hs => setCore_holds hs) hs)

theorem execBarrierRelease_leads {b} (hs : I.holds s) : I.leads (execBarrierRelease b s) :=
  ite_leads (next_leads (mk_holds hs)) (next_leads hs)

theorem execEndRun_leads {b core} (hs : I.holds s) : I.leads (execEndRun b core s) :=
  next_leads (onCore_holds (fun _ _ hs => setCore_holds hs) hs)

theorem execCobblerAccessFault_leads {p b addr} (hb : I.Free .blocks) (hs : I.holds s) :
    I.leads (execCobblerAccessFault p b addr s) := next_leads (cobblerStop_holds hb hs)

theorem cobblerRemote_holds {p b device addr op owner len bytes} (hb : I.Free .blocks) (hs : I.holds s) :
    I.holds (cobblerRemote s p b device addr op owner len bytes) := by
  unfold cobblerRemote
  refine ite_holds (cobblerStop_holds hb hs) ?_
  dsimp only
  split
  · exact xtSubmit_holds ‹_› hs
  · exact ite_holds (emit_holds hs) hs

theorem cobblerLoad_holds {p b addr len found} (hb : I.Free .blocks) (hm : I.Free .memory) (hs : I.holds s) :
    I.holds (cobblerLoad s p b addr len found) := by
  unfold cobblerLoad
  split
  · exact cobblerRemote_holds hb hs
  · dsimp only
    exact emit_holds (homeRead_holds hm (eccMet_holds hm hs))
  · exact emit_holds hs

theorem cobblerStore_holds {p b addr bytes} (hb : I.Free .blocks) (hm : I.Free .memory) (hs : I.holds s) :
    I.holds (cobblerStore s p b addr bytes) := by
  unfold cobblerStore
  split
  · exact cobblerRemote_holds hb hs
  · dsimp only
    exact ite_holds (homeWrite_holds hm hs) (emit_holds (homeWrite_holds hm hs))
  · exact emit_holds hs

theorem execCobblerLoadStore_leads {p b acc} (hb : I.Free .blocks) (hm : I.Free .memory) (hs : I.holds s) :
    I.leads (execCobblerLoadStore p b acc s) := by
  simp only [execCobblerLoadStore]
  refine ite_leads (next_leads hs) ?_
  split
  · exact ite_leads (next_leads (cobblerStop_holds hb hs)) (next_leads (foldl_holds (fun _ _ hs => cobblerLoad_holds
      hb hm hs) hs))
  · exact ite_leads (next_leads (cobblerStop_holds hb hs)) (next_leads (foldl_holds (fun _ _ hs => cobblerStore_holds
      hb hm hs) hs))
  · exact next_leads (cobblerRemote_holds hb hs)
  · exact next_leads (cobblerRemote_holds hb hs)

/-! ### Lanes and counters -/

theorem deliverItem_holds {it a} (hs : I.holds s) : I.holds (deliverItem s it a) := by
  unfold deliverItem
  split
  · exact hs
  · dsimp only
    exact setCore_holds hs
  · exact emit_holds hs

theorem laneCycle_holds {n} (hl : I.Free .lanes) (hs : I.holds s) : I.holds (laneCycle s n) := by
  have served : I.holds (match (s.lane n).portReads with
      | [] => s
      | r :: rest =>
        let x := lanePop (s.setLane n { s.lane n with portReads := rest }) n
        deliverItem x.2 x.1 r) := by
    split
    · exact hs
    · exact deliverItem_holds (lanePop_holds hl (setLane_items_holds hl rfl hs))
  simp only [laneCycle]
  split
  · exact served
  · exact lanePush_holds hl (setLane_items_holds hl rfl served)

theorem laneCycles_holds {n fuel} (hl : I.Free .lanes) (hs : I.holds s) : I.holds (laneCycles n fuel s) := by
  induction fuel generalizing s with
  | zero => exact hs
  | succ n ih =>
    simp only [laneCycles]
    exact ite_holds hs (ih (laneCycle_holds hl hs))

theorem laneOffer_holds {n more f} (hl : I.Free .lanes) (hf : ∀ l, (f l).items = l.items) (hs : I.holds s) :
    I.holds (laneOffer s n more f) := by
  unfold laneOffer
  split
  · exact hs
  next l hn =>
    have ht : I.holds (s.setLane n (f l)) :=
      setLane_items_holds hl ((hf l).trans (congrArg Lane.items (lane_of_find s hn).symm)) hs
    exact ite_holds ht (laneCycles_holds hl ht)

theorem onCobbler_holds {p b owned f} (hb : I.Free .blocks) (hf : ∀ s, I.holds s → I.holds (f s)) (hs : I.holds s) :
    I.holds (onCobbler s p b owned f) := ite_holds hs (ite_holds (hf _ hs) (cobblerStop_holds hb hs))

theorem execLaneWrite_leads {lane item writer} (hl : I.Free .lanes) (hb : I.Free .blocks) (hs : I.holds s) :
    I.leads (execLaneWrite lane item writer s) := by
  refine next_leads ?_
  split
  · exact onOwned_holds hb (fun _ _ hs => laneOffer_holds hl (fun _ => rfl) hs) hs
  · exact onCobbler_holds hb (fun _ hs => laneOffer_holds hl (fun _ => rfl) hs) hs
  · exact laneOffer_holds hl (fun _ => rfl) hs

theorem execLaneRead_leads {lane} (hl : I.Free .lanes) (hb : I.Free .blocks) (hs : I.holds s) :
    I.leads (execLaneRead lane s) := by
  refine next_leads ?_
  split
  · exact onOwned_holds hb (fun _ _ hs => laneOffer_holds hl (fun _ => rfl) hs) hs
  · exact onCobbler_holds hb (fun _ hs => laneOffer_holds hl (fun _ => rfl) hs) hs
  · exact laneOffer_holds hl (fun _ => rfl) hs

theorem execStaleTimer_leads {lane} (hl : I.Free .lanes) (hs : I.holds s) : I.leads (execStaleTimer lane s) := by
  have ht : I.holds (s.setLane lane.val { s.lane lane.val with staleBit := true, fired := true }) :=
    setLane_items_holds hl rfl hs
  exact ite_leads (next_leads (ite_holds (raiseLane_holds ht) ht)) (next_leads hs)

theorem slotPut_holds {p k word value} (hl : I.Free .lanes) (hs : I.holds s) : I.holds (slotPut s p k word value) := by
  unfold slotPut
  split
  · exact hs
  · refine ite_holds hs ?_
    dsimp only
    exact ite_holds (laneGive_holds hl (modPart_holds hs)) (modPart_holds hs)

theorem msixPut_holds {fn i value} (hs : I.holds s) : I.holds (msixPut s fn i value) :=
  ite_holds (emit_holds (modMgmt_holds hs)) (modMgmt_holds hs)

theorem execHostSlotWrite_leads {fn slot word value} (hl : I.Free .lanes) (hs : I.holds s) :
    I.leads (execHostSlotWrite fn slot word value s) := by
  simp only [execHostSlotWrite]
  split
  · exact next_leads hs
  · refine ite_leads (next_leads hs) ?_
    split
    · exact next_leads (slotPut_holds hl hs)
    · exact next_leads (msixPut_holds hs)
    · exact next_leads hs

theorem slotTake_holds {p k word} (hl : I.Free .lanes) (hs : I.holds s) : I.holds (slotTake s p k word).2 := by
  simp only [slotTake]
  split
  · dsimp only
    exact hs
  · split
    · dsimp only
      exact hs
    · dsimp only
      exact modPart_holds (ite_holds (lanePop_holds hl hs) hs)

theorem pageRead_holds {fn a} (hl : I.Free .lanes) (hs : I.holds s) : I.holds (pageRead s fn a).2 := by
  unfold pageRead
  split
  · exact slotTake_holds hl hs
  · exact hs
  · exact hs
  · exact hs
  · exact hs
  · exact hs

theorem execHostSlotRead_leads {fn slot word} (hl : I.Free .lanes) (hs : I.holds s) :
    I.leads (execHostSlotRead fn slot word s) := by
  simp only [execHostSlotRead]
  refine ite_leads (next_leads hs) (ite_leads (next_leads (emit_holds hs)) (ite_leads (next_leads (emit_holds hs))
    ?_))
  split
  · exact next_leads (emit_holds hs)
  · exact next_leads (emit_holds (pageRead_holds hl hs))

theorem laneControl_holds {n v} (hl : I.Free .lanes) (hs : I.holds s) : I.holds (laneControl s n v) :=
  laneArmed_holds hl (setLane_items_holds hl rfl hs)

theorem execLaneControlWrite_leads {src lane value} (hl : I.Free .lanes) (hb : I.Free .blocks) (hs : I.holds s) :
    I.leads (execLaneControlWrite src lane value s) := by
  simp only [execLaneControlWrite]
  split
  · refine next_leads ?_
    split
    · exact partWrite_holds hb (fun _ hs => notOwned_holds hb hs) hs
    · exact hs
  · exact next_leads (partWrite_holds hb (fun _ hs => ite_holds (laneControl_holds hl hs) (notOwned_holds hb hs)) hs)

theorem portsPass_holds {who} (hl : I.Free .lanes) (hs : I.holds s) : I.holds (portsPass s who) :=
  foldl_holds (fun _ _ hs => laneCycles_holds hl hs) hs

theorem byAgent_holds {ctr f} (hl : I.Free .lanes) (hb : I.Free .blocks) (hf : ∀ s, I.holds s → I.holds (f s)) (hs :
    I.holds s) :
    I.holds (byAgent s ctr f) := by
  unfold byAgent
  dsimp only
  split
  · exact hf _ hs
  · exact onOwned_holds hb (fun _ _ hs => hf _ (portsPass_holds hl hs)) hs
  · exact onCobbler_holds hb (fun _ hs => hf _ (portsPass_holds hl hs)) hs

theorem execCounterAdd_leads {ctr amount status} (hI : ∀ k, I.Free k) (hs : I.holds s) :
    I.leads (execCounterAdd ctr amount status s) :=
  next_leads (byAgent_holds (hI .lanes) (hI .blocks) (fun _ hs => ctrAdd_holds (hI .counters) hs) hs)

theorem execCounterSet_leads {ctr value adds} (hI : ∀ k, I.Free k) (hs : I.holds s) :
    I.leads (execCounterSet ctr value adds s) :=
  next_leads (byAgent_holds (hI .lanes) (hI .blocks) (fun _ hs => foldl_holds (fun _ _ hs => ctrAdd_holds (hI
    .counters) hs) (ctrSet_holds (hI .counters) hs)) hs)

theorem execCtrAddWrite_leads {src p value} (hc : I.Free .counters) (hb : I.Free .blocks) (hs : I.holds s) :
    I.leads (execCtrAddWrite src p value s) :=
  next_leads (partWrite_holds hb (fun _ hs => ite_holds (ctrAdd_holds hc hs) (notOwned_holds hb hs)) hs)

theorem execCtrValueWrite_leads {src p value} (hc : I.Free .counters) (hb : I.Free .blocks) (hs : I.holds s) :
    I.leads (execCtrValueWrite src p value s) :=
  next_leads (partWrite_holds hb (fun _ hs => ite_holds (ctrSet_holds hc hs) (notOwned_holds hb hs)) hs)

theorem execCtrWaitArm_leads {src p slot value} (hb : I.Free .blocks) (hs : I.holds s) :
    I.leads (execCtrWaitArm src p slot value s) := next_leads (partWrite_holds hb (fun _ hs => modPart_holds hs) hs)

theorem hostWait_holds {p slot} (hs : I.holds s) : I.holds (hostWait s p slot) :=
  ite_holds (raisePart_holds (modPart_holds hs)) hs

theorem coreWait_holds {b c n threshold pre} (hb : I.Free .blocks) (hs : I.holds s) :
    I.holds (coreWait s b c n threshold pre) :=
  onOwned_holds hb (fun _ _ hs => ite_holds (setCore_holds hs) (setCore_holds hs)) (ite_holds (setCore_holds hs) hs)

theorem execCounterWaitRelease_leads {p slot} (hb : I.Free .blocks) (hs : I.holds s) :
    I.leads (execCounterWaitRelease p slot s) := by
  unfold execCounterWaitRelease
  split
  · exact next_leads (hostWait_holds hs)
  · exact next_leads (coreWait_holds hb hs)
  · exact next_leads hs

/-! ### Endpoints -/

theorem epWriteBack_holds {p n e} (hm : I.Free .memory) (hs : I.holds s) : I.holds (epWriteBack s p n e) :=
  storeRaw_holds hm (storeRaw_holds hm (storeRaw_holds hm hs))

theorem modEp_holds {p n f} (hm : I.Free .memory) (hs : I.holds s) : I.holds (modEp s p n f) := by
  unfold modEp
  split
  · exact modXt_holds hs
  · exact epWriteBack_holds hm hs

theorem epInstall_holds {p n e} (hm : I.Free .memory) (hs : I.holds s) : I.holds (epInstall s p n e) := by
  simp only [epInstall]
  refine modXt_holds (ite_holds hs ?_)
  split
  · exact hs
  · exact modXt_holds (epWriteBack_holds hm hs)

theorem epRemove_holds {p n} (hm : I.Free .memory) (hs : I.holds s) : I.holds (epRemove s p n) := by
  simp only [epRemove]
  exact modXt_holds (epWriteBack_holds hm hs)

theorem srqFed_holds {p q} (hs : I.holds s) : I.holds (srqFed s p q) := modXt_holds hs

theorem epFreeEntries_holds {p n} (hs : I.holds s) : I.holds (epFreeEntries s p n) :=
  ite_holds (modXt_holds hs) (srqFed_holds (modXt_holds hs))

theorem epError_holds {p n code} (hm : I.Free .memory) (hs : I.holds s) : I.holds (epError s p n code) :=
  modEp_holds hm (epFreeEntries_holds hs)

theorem notify_holds {p n status it} (hl : I.Free .lanes) (hc : I.Free .counters) (hs : I.holds s) :
    I.holds (notify s p n status it) :=
  ite_self_holds (ctrAdd_holds hc) (ite_holds (laneGive_holds hl hs) hs)

theorem sendDone_holds {p it status sent} (hI : ∀ k, I.Free k) (hs : I.holds s) :
    I.holds (sendDone s p it status sent) := notify_holds (hI .lanes) (hI .counters) (modEp_holds (hI .memory) hs)

theorem modSend_holds {r m} (hs : I.holds s) : I.holds (modSend s r m) := setRoundabout_holds hs

theorem sendSettle_holds {r m} (hI : ∀ k, I.Free k) (hs : I.holds s) : I.holds (sendSettle s r m) :=
  ite_holds (sendDone_holds hI (setRoundabout_holds hs)) (modSend_holds hs)

theorem sendOne_holds {r m} (hI : ∀ k, I.Free k) (hs : I.holds s) : I.holds (sendOne s r m) := by
  unfold sendOne
  split
  · exact hs
  · refine ite_holds (sendSettle_holds hI hs) ?_
    dsimp only
    refine ite_holds (sendSettle_holds hI (ite_self_holds badWordFaults_holds (passSquares_holds (hI .memory) hs)))
      ?_
    split
    · exact passSquares_holds (hI .memory) hs
    · exact modSend_holds (xtSubmit_holds ‹_› (passSquares_holds (hI .memory) hs))

theorem sendPump_holds {r fuel} (hI : ∀ k, I.Free k) (hs : I.holds s) : I.holds (sendPump r fuel s) := by
  induction fuel generalizing s with
  | zero => exact hs
  | succ n ih =>
    simp only [sendPump]
    split
    · exact hs
    · exact ih (sendOne_holds hI (setRoundabout_holds hs))

theorem sendPumps_holds (hI : ∀ k, I.Free k) (hs : I.holds s) : I.holds (sendPumps s) :=
  foldl_holds (fun _ _ hs => sendPump_holds hI hs) hs

theorem messagePacketEnd_holds {r device number off c} (hI : ∀ k, I.Free k) (hs : I.holds s) :
    I.holds (messagePacketEnd s r device number off c) := by
  unfold messagePacketEnd
  split
  · exact hs
  · exact ite_holds (sendSettle_holds hI hs) hs

theorem endSends_holds {p c pick} (hI : ∀ k, I.Free k) (hs : I.holds s) : I.holds (endSends s p c pick) := by
  unfold endSends
  refine foldl_holds ?_ hs
  intro x x hs
  dsimp only
  exact foldl_holds (fun _ _ hs => sendDone_holds hI hs) (setRoundabout_holds hs)

/-! ### Roundabouts, sends, Crossing lists and alignment -/

theorem raServe_holds {r} (hl : I.Free .lanes) (hs : I.holds s) : I.holds (raServe s r) := by
  simp only [raServe]
  split
  · exact hs
  · exact ite_holds hs (ite_holds (setRoundabout_holds (lanePop_holds hl (ite_holds (setToll_holds hs) hs)))
      (modXt_holds (setRoundabout_holds (lanePop_holds hl (ite_holds (setToll_holds hs) hs)))))

theorem execRoundaboutSelect_leads {r} (hl : I.Free .lanes) (hs : I.holds s) : I.leads (execRoundaboutSelect r s) :=
  ite_leads (next_leads (raServe_holds hl hs)) (next_leads hs)

theorem raTake_holds {r} (hs : I.holds s) : I.holds (raTake s r) := setRoundabout_holds hs

theorem execSendMessage_leads {r} (hI : ∀ k, I.Free k) (hs : I.holds s) : I.leads (execSendMessage r s) := by
  simp only [execSendMessage]
  split
  · exact next_leads hs
  · exact ite_leads (next_leads hs) (ite_leads (next_leads (modXt_holds (raTake_holds hs))) (ite_leads (next_leads
      (sendDone_holds hI (raTake_holds hs))) (ite_leads (next_leads (sendDone_holds hI (raTake_holds hs))) (ite_leads
      (next_leads (sendDone_holds hI (raTake_holds hs))) (ite_leads (next_leads hs) (next_leads (sendPump_holds hI
      (setRoundabout_holds (modFab_holds hs)))))))))

theorem execSendRelease_leads {r} (ha : I.Free .awls) (hs : I.holds s) : I.leads (execSendRelease r s) := by
  simp only [execSendRelease]
  split
  · exact next_leads hs
  · exact ite_leads (next_leads hs) (next_leads (ite_holds (awlSetTail_holds ha (raTake_holds hs)) (raTake_holds hs)))

theorem startEntry_holds {list e} (hc : I.Free .counters) (hs : I.holds s) : I.holds (startEntry s list e) := by
  simp only [startEntry]
  split
  · exact setCrossing_holds hs
  · exact ite_holds (ctrAdd_holds hc (setCrossing_holds hs)) (setCrossing_holds hs)

theorem execCrossingEntryStart_leads {list} (hc : I.Free .counters) (hs : I.holds s) :
    I.leads (execCrossingEntryStart list s) :=
  ite_leads (next_leads hs) (ite_leads (next_leads (startEntry_holds hc hs)) (ite_leads (next_leads (startEntry_holds
    hc hs)) (next_leads hs)))

theorem alignLists_holds {align} (hs : I.holds s) : I.holds (alignLists s align) := mk_holds hs

theorem sendAligns_holds {i l} (hs : I.holds s) : I.holds (sendAligns s i l) := by
  induction l generalizing s i with
  | nil => exact hs
  | cons d r ih =>
    unfold sendAligns
    dsimp only
    exact ih (ite_holds (originate0_holds hs) (emit_holds (originate0_holds hs)))

theorem execAlignInEdge_leads (hs : I.holds s) : I.leads (execAlignInEdge s) :=
  ite_leads (next_leads hs) (next_leads (ite_self_holds sendAligns_holds (alignLists_holds (modMgmt_holds hs))))

theorem execAlign_leads {fromDevice count} (hs : I.holds s) : I.leads (execAlign fromDevice count s) :=
  next_leads (ite_holds (alignLists_holds hs) hs)

/-! ### The holder's commands -/

theorem execServiceReply_leads {p h payload} (hI : ∀ k, I.Free k) (hs : I.holds s) :
    I.leads (execServiceReply p h payload s) :=
  next_leads (holderOn_holds (hI .awls) (hI .memory) (svcReplied_holds (hI .lanes) (hI .memory) hs))

theorem execGrantReceived_leads {p h payload source} (hI : ∀ k, I.Free k) (hs : I.holds s) :
    I.leads (execGrantReceived p h payload source s) :=
  next_leads (ite_holds (holderOn_holds (hI .awls) (hI .memory) (svcReplied_holds (hI .lanes) (hI .memory) hs)) hs)

theorem execTransferReply_leads {p h} (hI : ∀ k, I.Free k) (hs : I.holds s) : I.leads (execTransferReply p h s) :=
  next_leads (ite_holds (holderOn_holds (hI .awls) (hI .memory) (svcReplied_holds (hI .lanes) (hI .memory) hs)) hs)

theorem execHandoffReply_leads {p h} (hI : ∀ k, I.Free k) (hs : I.holds s) : I.leads (execHandoffReply p h s) :=
  next_leads (ite_holds (holderOn_holds (hI .awls) (hI .memory) (svcReplied_holds (hI .lanes) (hI .memory) hs)) hs)

theorem execServiceTimeout_leads {p msgId} (hI : ∀ k, I.Free k) (hs : I.holds s) :
    I.leads (execServiceTimeout p msgId s) := by
  simp only [execServiceTimeout]
  split
  · exact next_leads hs
  · exact ite_leads (next_leads hs) (next_leads (holderOn_holds (hI .awls) (hI .memory) (svcFailed_holds (hI .lanes)
      (hI .memory) hs)))

theorem execHandoffNextDue_leads {p tag} (hI : ∀ k, I.Free k) (hs : I.holds s) : I.leads (execHandoffNextDue p tag s) := by
  unfold execHandoffNextDue
  split
  · exact next_leads hs
  · exact ite_leads (next_leads (holderOn_holds (hI .awls) (hI .memory) (endWith_holds (hI .lanes) hs))) (next_leads
      hs)

theorem execForwardingExpire_leads {p tag} (hs : I.holds s) : I.leads (execForwardingExpire p tag s) :=
  next_leads (modPLast_holds hs)

theorem execPrefixCopyCheck_leads {p tag copied entry} (ha : I.Free .awls) (hm : I.Free .memory) (hs : I.holds s) :
    I.leads (execPrefixCopyCheck p tag copied entry s) := by
  unfold execPrefixCopyCheck
  split
  · exact next_leads hs
  · exact ite_leads (next_leads (holderOn_holds ha hm (noteSource_holds hs))) (ite_leads (next_leads hs) (next_leads
      (holderOn_holds ha hm (checkCopy_holds hs))))

theorem serveCancel_holds {p h} (hl : I.Free .lanes) (hs : I.holds s) : I.holds (serveCancel p h s) :=
  svcReceive_holds (fun _ hs => submitCancel_holds hl hs) hs

theorem execCancel_leads {p h} (hI : ∀ k, I.Free k) (hs : I.holds s) : I.leads (execCancel p h s) :=
  next_leads (holderOn_holds (hI .awls) (hI .memory) (serveCancel_holds (hI .lanes) hs))

theorem execCancelSubmit_leads {src p slot value} (hI : ∀ k, I.Free k) (hs : I.holds s) :
    I.leads (execCancelSubmit src p slot value s) :=
  next_leads (partWrite_holds (hI .blocks) (fun _ hs => ite_holds hs (ite_holds (holderOn_holds (hI .awls) (hI
    .memory) (submitCancel_holds (hI .lanes) (modPLast_holds hs))) (modPLast_holds hs))) hs)

theorem drainBacklog_holds {p n x r} (hl : I.Free .lanes) (hs : I.holds s) : I.holds (drainBacklog s p n x r) := by
  simp only [drainBacklog]
  split
  · exact itemEmitted_holds (laneGive_holds hl (modHold_holds hs))
  · exact ite_self_holds (afterToken0_holds hl) (itemEmitted_holds (laneGive_holds hl (modHold_holds hs)))

theorem execOutputBacklogDrain_leads {p} (hI : ∀ k, I.Free k) (hs : I.holds s) : I.leads (execOutputBacklogDrain p s) := by
  unfold execOutputBacklogDrain
  split
  · exact ite_leads (next_leads (holderOn_holds (hI .awls) (hI .memory) (drainBacklog_holds (hI .lanes) hs)))
      (next_leads hs)
  · exact next_leads hs

/-! ### Steps -/

theorem startQuiesce_holds {p} (hI : ∀ k, I.Free k) (hs : I.holds s) : I.holds (startQuiesce s p) := by
  simp only [startQuiesce]
  exact modPFault_holds (modPMem_holds (foldl_holds (fun _ _ hs => foldl_holds (fun _ _ hs => awlFlushAll_holds hI hs)
    (attnFlushAll_holds (hI .counters) (hI .blocks) (ite_holds (setEng_holds (hI .blocks) hs) hs))) hs))

theorem endStep_holds {p c} (hl : I.Free .lanes) (hs : I.holds s) : I.holds (endStep s p c) := by
  unfold endStep
  split
  · exact hs
  · dsimp only
    refine foldl_holds ?_ (modHold_holds hs)
    intro x x hs
    split
    · exact hs
    · exact ite_holds (endRunning_holds hl hs) hs

theorem staleQueries_holds {p mine} (hs : I.holds s) : I.holds (staleQueries s p mine) := modPLast_holds hs

theorem stepFails_holds {p st c} (hI : ∀ k, I.Free k) (hs : I.holds s) : I.holds (stepFails s p st c) :=
  ite_holds (modHold_holds (setPFault_holds hs)) (ite_holds (endStep_holds (hI .lanes) (setPFault_holds hs))
    (ite_holds (endStep_holds (hI .lanes) (modPFault_holds (setPFault_holds hs))) (startQuiesce_holds hI
    (staleQueries_holds (modHold_holds (modPFault_holds (setPFault_holds hs)))))))

theorem swapInto_holds {p m k forced} (hs : I.holds s) : I.holds (swapInto s p m k forced) := by
  simp only [swapInto]
  exact modHold_holds hs

theorem execContextSwapIn_leads {p} (hs : I.holds s) : I.leads (execContextSwapIn p s) := by
  simp only [execContextSwapIn]
  refine ite_leads (next_leads hs) ?_
  split
  · exact next_leads (refreshCtxs_holds hs)
  · split
    · exact next_leads (refreshCtxs_holds hs)
    · exact next_leads (swapInto_holds (refreshCtxs_holds hs))

theorem execCtxBlockExpire_leads {p} (hs : I.holds s) : I.leads (execCtxBlockExpire p s) := by
  simp only [execCtxBlockExpire]
  split
  · refine ite_leads (next_leads (ite_holds (refreshCtxs_holds hs) hs)) ?_
    split
    · exact next_leads (ite_holds (refreshCtxs_holds hs) hs)
    · exact next_leads (modHold_holds (swapInto_holds (ite_holds (refreshCtxs_holds hs) hs)))
  · exact next_leads (ite_holds (refreshCtxs_holds hs) hs)

theorem execSwapInDone_leads {read model code} (hm : I.Free .memory) (hs : I.holds s) :
    I.leads (execSwapInDone read model code s) := by
  simp only [execSwapInDone]
  split
  · exact next_leads hs
  · split
    · exact next_leads (modHold_holds hs)
    · exact ite_leads (next_leads hs) (ite_leads (next_leads (modHold_holds hs)) (ite_leads (next_leads
        (modHold_holds (homeRead_holds hm (eccMet_holds hm hs)))) (next_leads (modHold_holds (ite_self_holds
        modPTrust_holds (homeWrite_holds hm (homeRead_holds hm (eccMet_holds hm hs))))))))

theorem takeHandoff_holds {p h r} (hs : I.holds s) : I.holds (takeHandoff s p h r) := by
  simp only [takeHandoff]
  split
  · exact svcReply_holds hs
  · exact sendTransfer_holds (modHold_holds hs)

theorem handoffTurn_holds {p x} (hs : I.holds s) : I.holds (handoffTurn s p x) :=
  ite_holds (modHold_holds hs) (takeHandoff_holds hs)

theorem serveHandoff_holds {p h record} (hs : I.holds s) : I.holds (serveHandoff p h record s) := by
  unfold serveHandoff
  refine svcReceive_holds ?_ hs
  intro x hs
  dsimp only
  exact ite_holds (modHold_holds hs) (handoffTurn_holds hs)

theorem execHandoff_leads {p h record} (ha : I.Free .awls) (hm : I.Free .memory) (hs : I.holds s) :
    I.leads (execHandoff p h record s) := next_leads (holderOn_holds ha hm (serveHandoff_holds hs))

theorem sendQueries_holds {p l} (hs : I.holds s) : I.holds (sendQueries s p l) := by
  unfold sendQueries
  split
  · exact hs
  · dsimp only
    exact foldl_holds (fun _ _ hs => svcSend_holds (draw_holds hs)) (draw_holds hs)

theorem writePrefill_holds {p l row} (hs : I.holds s) : I.holds (writePrefill s p l row) :=
  sendDue_holds (queueMoves_holds (ite_holds (beginCommits_holds hs) (modLive_holds hs)))

theorem runStream_holds {p l row} (hs : I.holds s) : I.holds (runStream s p l row) :=
  ite_holds hs (sendQueries_holds (ite_holds (writePrefill_holds hs) hs))

theorem runStreams_holds {p row l} (hs : I.holds s) : I.holds (runStreams p row l s) := by
  induction l generalizing row s with
  | nil => exact hs
  | cons x r ih => exact ih (runStream_holds hs)

theorem enterSteps_holds {p st} (hs : I.holds s) : I.holds (enterSteps s p st) :=
  runStreams_holds (foldl_holds (fun _ _ hs => modLive_holds hs) hs)

theorem giveTail_holds {p l} (hs : I.holds s) : I.holds (giveTail s p l) := by
  unfold giveTail
  split
  · exact hs
  · exact modReq_holds hs

theorem retryHandoff_holds {p l} (hs : I.holds s) : I.holds (retryHandoff s p l) := ite_holds (nextTarget_holds hs) hs

theorem betweenSteps_holds {p} (hI : ∀ k, I.Free k) (hs : I.holds s) : I.holds (betweenSteps s p) :=
  holderOn_holds (hI .awls) (hI .memory) (foldl_holds (fun _ _ hs => giveTail_holds hs) (foldl_holds (fun _ _ hs =>
    retryHandoff_holds hs) (foldl_holds (fun _ _ hs => takeCancel_holds (hI .lanes) hs) (foldl_holds (fun _ _ hs =>
    handoffTurn_holds hs) (foldl_holds (fun _ _ hs => takingAccepted_holds hs) (modHold_holds hs))))))

theorem execStepBoundary_leads {p} (hI : ∀ k, I.Free k) (hs : I.holds s) : I.leads (execStepBoundary p s) :=
  ite_leads (next_leads hs) (ite_leads (next_leads (betweenSteps_holds hI hs)) (next_leads (holderOn_holds (hI .awls)
    (hI .memory) (modHold_holds (enterSteps_holds (betweenSteps_holds hI hs))))))

theorem countMissed_holds {p r} (hs : I.holds s) : I.holds (countMissed s p r) := ite_holds (modHold_holds hs) hs

theorem emitTokens_holds {p tag pos l} (hl : I.Free .lanes) (hs : I.holds s) : I.holds (emitTokens p tag pos l s) := by
  induction l generalizing pos s with
  | nil => exact hs
  | cons t r ih => exact ih (liveItem_holds hl hs)

theorem prefillDone_holds {p l t ends} (hl : I.Free .lanes) (hs : I.holds s) : I.holds (prefillDone s p l t ends) :=
  commitProgress_holds hl (modLive_holds hs)

theorem commitFallback_holds {p l t ends} (hl : I.Free .lanes) (hs : I.holds s) :
    I.holds (commitFallback s p l t ends) :=
  ite_else_holds (liveItem_holds hl) (modLive_holds (modHold_holds (countMissed_holds hs)))

theorem commitMain_holds {p l r} (hl : I.Free .lanes) (hs : I.holds s) : I.holds (commitMain s p l r) := by
  simp only [commitMain]
  split
  · exact hs
  · exact ite_holds (finishRequest_holds hl (emitTokens_holds hl (modLive_holds (modHold_holds (countMissed_holds
      hs))))) (flushOn_holds hl (emitTokens_holds hl (modLive_holds (modHold_holds (countMissed_holds hs)))))

theorem commitStream_holds {p r} (hl : I.Free .lanes) (hs : I.holds s) : I.holds (commitStream s p r) := by
  simp only [commitStream]
  split
  · exact hs
  · refine ite_holds hs (ite_holds (ite_holds (modLive_holds hs) ?_) (ite_holds hs (ite_holds ?_ ?_)))
    · split
      · exact hs
      · exact prefillDone_holds hl hs
    · split
      · exact hs
      · exact commitFallback_holds hl hs
    · split
      · exact finishRequest_holds hl (modLive_holds hs)
      · exact commitMain_holds hl hs

theorem execStepCommit_leads {p results} (hI : ∀ k, I.Free k) (hs : I.holds s) : I.leads (execStepCommit p results s) := by
  unfold execStepCommit
  split
  · exact next_leads hs
  · refine ite_leads (next_leads hs) (ite_leads (next_leads (holderOn_holds (hI .awls) (hI .memory) (stepFails_holds
      hI hs))) (ite_leads (next_leads hs) ?_))
    dsimp only
    exact next_leads (holderOn_holds (hI .awls) (hI .memory) (foldl_holds (fun _ _ hs => commitStream_holds (hI
      .lanes) hs) (modPFault_holds (modHold_holds hs))))

theorem execQueryWaitExpire_leads {p tag layer} (ha : I.Free .awls) (hm : I.Free .memory) (hs : I.holds s) :
    I.leads (execQueryWaitExpire p tag layer s) :=
  ite_leads (next_leads (holderOn_holds ha hm (modLive_holds (staleQueries_holds hs)))) (next_leads hs)

theorem execFirstDueExpire_leads {p tag} (hI : ∀ k, I.Free k) (hs : I.holds s) : I.leads (execFirstDueExpire p tag s) := by
  unfold execFirstDueExpire
  split
  · exact next_leads hs
  · exact ite_leads (next_leads (holderOn_holds (hI .awls) (hI .memory) (endEarly_holds (hI .lanes) hs))) (next_leads
      hs)

/-! ### Transport commands -/

theorem srqNext_holds {p q fuel} (hm : I.Free .memory) (hs : I.holds s) : I.holds (srqNext p q fuel s).2 := by
  induction fuel generalizing s with
  | zero => exact hs
  | succ n ih =>
    unfold srqNext
    dsimp only
    split
    · exact hs
    · split
      · exact mk_holds (settlePart_holds hm hs)
      · exact ih (modXt_holds (ringRead_holds (settlePart_holds hm hs)))

theorem srqHead_holds {p q} (hm : I.Free .memory) (hs : I.holds s) : I.holds (srqHead s p q).2 := by
  simp only [srqHead]
  split
  · exact hs
  · exact srqNext_holds hm hs

theorem srqTake_holds {p q} (hs : I.holds s) : I.holds (srqTake s p q) := by
  simp only [srqTake]
  exact modXt_holds hs

theorem epStarved_holds {p n} (hm : I.Free .memory) (hs : I.holds s) : I.holds (epStarved s p n) := modEp_holds hm hs

theorem epServed_holds {p n} (hs : I.holds s) : I.holds (epServed s p n) := modXt_holds hs

theorem answerMsg_holds {x again c} (hs : I.holds s) : I.holds (answerMsg s x again c) := reportHandled_holds hs

theorem putReasm_holds {p x m e} (hs : I.holds s) : I.holds (putReasm s p x m e) := modXt_holds hs

theorem msgComplete_holds {p x m cookie} (hI : ∀ k, I.Free k) (hs : I.holds s) : I.holds (msgComplete s p x m cookie) :=
  notify_holds (hI .lanes) (hI .counters) (modEp_holds (hI .memory) hs)

theorem msgPlace_holds {p x m bytes again r} (hI : ∀ k, I.Free k) (hs : I.holds s) :
    I.holds (msgPlace s p x m bytes again r) := by
  simp only [msgPlace]
  refine ite_holds (answerMsg_holds (putReasm_holds hs)) (ite_holds (answerMsg_holds hs) (ite_holds (answerMsg_holds
    ?_) (answerMsg_holds (ite_holds (msgComplete_holds hI (putReasm_holds ?_)) (putReasm_holds ?_)))))
  · split
    · exact homeWrite_holds (hI .memory) hs
    · exact hs
  · split
    · exact homeWrite_holds (hI .memory) hs
    · exact hs
  · split
    · exact homeWrite_holds (hI .memory) hs
    · exact hs

theorem msgOpen_holds {p x m bytes again e} (hI : ∀ k, I.Free k) (hs : I.holds s) :
    I.holds (msgOpen s p x m bytes again e) := by
  simp only [msgOpen]
  refine ite_holds (modXt_holds hs) (ite_holds (ite_holds (answerMsg_holds hs) (ite_holds (answerMsg_holds hs)
    (ite_holds (epStarved_holds (hI .memory) hs) (answerMsg_holds (msgComplete_holds hI (epServed_holds
    (laneGive_holds (hI .lanes) hs))))))) ?_)
  split
  · exact epStarved_holds (hI .memory) (srqHead_holds (hI .memory) hs)
  · exact msgPlace_holds hI (putReasm_holds (epServed_holds (ite_else_holds srqTake_holds (srqHead_holds (hI
      .memory) hs))))

theorem senderLength_holds {h} (hs : I.holds s) : I.holds (senderLength s h).2 := by
  unfold senderLength
  split
  · exact hs
  · exact draw_holds hs

theorem svcArrive_holds {p bytes} (hl : I.Free .lanes) (hm : I.Free .memory) (hs : I.holds s) :
    I.holds (svcArrive s p bytes) := by
  refine ite_holds (svcReplied_holds hl hm hs) ?_
  split
  · exact ite_holds (serveOpenPartner_holds hm (senderLength_holds hs)) (serveOpen_holds hm hs)
  · exact serveCommit_holds hm hs
  · exact serveRelease_holds hm hs
  · exact serveTransfer_holds hm hs
  · exact serveQuery_holds hm hs
  · exact serveHandoff_holds hs
  · exact serveCancel_holds hl hs
  · exact serveGrow_holds hm hs
  · exact svcReceive_holds (fun _ hs => hs) hs

theorem modEp0_holds {p f} (hs : I.holds s) : I.holds (modEp0 s p f) := modXt_holds hs

theorem svcPlace_holds {p x m bytes again r} (hI : ∀ k, I.Free k) (hs : I.holds s) :
    I.holds (svcPlace s p x m bytes again r) :=
  ite_holds (answerMsg_holds hs) (ite_self_holds (fun h => holderOn_holds (hI .awls) (hI .memory) (svcArrive_holds (hI
    .lanes) (hI .memory) h)) (ite_self_holds modEp0_holds (answerMsg_holds (modPLast_holds hs))))

theorem svcHandle_holds {p x m bytes again} (hI : ∀ k, I.Free k) (hs : I.holds s) :
    I.holds (svcHandle s p x m bytes again) := by
  simp only [svcHandle]
  split
  · exact svcPlace_holds hI hs
  · exact ite_holds (modXt_holds hs) (svcPlace_holds hI hs)

theorem msgHandle_holds {p x m bytes again} (hI : ∀ k, I.Free k) (hs : I.holds s) :
    I.holds (msgHandle s p x m bytes again) := by
  simp only [msgHandle]
  refine ite_holds (svcHandle_holds hI hs) (ite_holds (answerMsg_holds hs) (ite_holds (ite_holds (modXt_holds hs)
    (grantFetches_holds (modXt_holds hs))) ?_))
  split
  · exact msgPlace_holds hI (epServed_holds hs)
  · exact msgOpen_holds hI hs

theorem msgArrive_holds {x m bytes} (hI : ∀ k, I.Free k) (hs : I.holds s) : I.holds (msgArrive s x m bytes) :=
  ite_holds (reportHandled_holds hs) (ite_holds (answerMsg_holds hs) (msgHandle_holds hI hs))

theorem execMessage_leads {x m bytes} (hI : ∀ k, I.Free k) (hs : I.holds s) : I.leads (execMessage x m bytes s) := by
  unfold execMessage
  refine ite_leads (next_leads hs) (ite_leads (next_leads (dropLength_holds hs)) ?_)
  split
  · exact next_leads (dropNoPeer_holds hs)
  · exact next_leads (msgArrive_holds hI (rxContext_holds ‹_› hs))

theorem unpark_holds {p n} (hI : ∀ k, I.Free k) (hs : I.holds s) : I.holds (unpark s p n) :=
  foldl_holds (fun _ _ hs => msgArrive_holds hI hs) (modXt_holds hs)

theorem execKerbsideFetchDone_leads {p ep} (hI : ∀ k, I.Free k) (hs : I.holds s) :
    I.leads (execKerbsideFetchDone p ep s) :=
  ite_leads (next_leads hs) (next_leads (unpark_holds hI (ite_else_holds (epInstall_holds (hI .memory))
    (ite_self_holds badWordFaults_holds (grantFetches_holds (modXt_holds (settlePart_holds (hI .memory) hs)))))))

theorem execEpEmptyExpire_leads {p ep} (hm : I.Free .memory) (hs : I.holds s) : I.leads (execEpEmptyExpire p ep s) := by
  simp only [execEpEmptyExpire]
  split
  · exact next_leads hs
  · split
    · exact next_leads hs
    · exact ite_leads (next_leads (epError_holds hm hs)) (next_leads hs)

theorem settleFences_holds (hs : I.holds s) : I.holds (settleFences s) :=
  foldl_holds (fun _ _ hs => emit_holds hs) (modFab_holds hs)

theorem packetEnd_holds {device u c} (hI : ∀ k, I.Free k) (hs : I.holds s) : I.holds (packetEnd s device u c) := by
  simp only [packetEnd]
  refine ite_holds ?_ (ite_holds (messagePacketEnd_holds hI hs) (ite_holds hs ?_))
  · split
    · exact hs
    · exact ite_holds (awlReqEnd_holds hI hs) (ite_holds hs (awlReqEnd_holds hI hs))
  · split
    · exact emit_holds hs
    · exact ite_holds hs (holderOn_holds (hI .awls) (hI .memory) (svcFailed_holds (hI .lanes) (hI .memory) hs))
    · exact walkNext_holds hs
    · exact dropInsert_holds hs
    · exact dropInsert_holds hs
    · exact hs

theorem svcSentOut_holds {d ended} (hs : I.holds s) : I.holds (svcSentOut s d ended) :=
  foldl_holds (fun _ _ hs => modEp0_holds hs) hs

theorem pump_holds {d cls} (hI : ∀ k, I.Free k) (hs : I.holds s) : I.holds (pump s d cls) :=
  settleFences_holds (sendPumps_holds hI (sendWaiting_holds hs))

theorem refreshPacket_holds {device u} (ha : I.Free .awls) (hm : I.Free .memory) (hs : I.holds s) :
    I.holds (refreshPacket s device u).2 := by
  simp only [refreshPacket]
  split
  · split
    · exact hs
    · exact mk_holds (homeRead_holds hm hs)
  · split
    · split
      · split
        · exact hs
        · split
          · exact mk_holds (setAwl_holds ha (sourceFaults_holds (passSpans_holds hm hs)))
          · exact mk_holds (passSpans_holds hm hs)
      · exact hs
    · exact hs

theorem resend_holds {d cls psn} (ha : I.Free .awls) (hm : I.Free .memory) (hs : I.holds s) :
    I.holds (resend s d cls psn) := by
  simp only [resend]
  split
  · exact hs
  · split
    · exact refreshPacket_holds ha hm (setPeer_holds hs)
    · exact originate_holds (refreshPacket_holds ha hm (setPeer_holds hs))

theorem ackArrive_holds {a} (hI : ∀ k, I.Free k) (hs : I.holds s) : I.holds (ackArrive s a) :=
  ite_holds hs (pump_holds hI (foldl_holds (fun _ _ hs => resend_holds (hI .awls) (hI .memory) hs) (foldl_holds (fun _
    _ hs => packetEnd_holds hI hs) (svcSentOut_holds (setPeer_holds hs)))))

theorem execAck_leads {a} (hI : ∀ k, I.Free k) (hs : I.holds s) : I.leads (execAck a s) := by
  unfold execAck
  refine ite_leads (next_leads hs) ?_
  split
  · exact next_leads (dropNoPeer_holds hs)
  · exact next_leads (ackArrive_holds hI (heard_holds ‹_› hs))

theorem takeAnswer_holds {x} (hs : I.holds s) : I.holds (takeAnswer s x) := setPeer_holds hs

theorem onResponse_leads {x op f} (hf : ∀ s u, I.holds s → I.leads (f s u)) (hs : I.holds s) :
    I.leads (onResponse s x op f) := by
  unfold onResponse
  split
  · exact next_leads hs
  · split
    · exact next_leads (dropNoPeer_holds hs)
    next ht =>
      split
      · exact next_leads (heard_holds ht hs)
      · exact hf _ _ (heard_holds ht hs)

theorem execReadData_leads {x status bytes} (hI : ∀ k, I.Free k) (hs : I.holds s) :
    I.leads (execReadData x status bytes s) := by
  unfold execReadData
  refine onResponse_leads ?_ hs
  intro x x hs
  dsimp only
  refine ite_leads (next_leads hs) (ite_leads (next_leads (dropLength_holds hs)) (next_leads (pump_holds hI (ite_holds
    ?_ ?_))))
  · split
    · exact takeAnswer_holds hs
    · exact awlReqEnd_holds hI (takeAnswer_holds hs)
  · split
    · exact emit_holds (takeAnswer_holds hs)
    · exact walkNext_holds (takeAnswer_holds hs)
    · exact insertData_holds (takeAnswer_holds hs)
    · exact takeAnswer_holds hs

theorem execAtomicData_leads {x status old} (hI : ∀ k, I.Free k) (hs : I.holds s) :
    I.leads (execAtomicData x status old s) := by
  unfold execAtomicData
  refine onResponse_leads ?_ hs
  intro x x hs
  refine ite_leads (next_leads hs) ?_
  dsimp only
  refine next_leads (pump_holds hI ?_)
  split
  · exact emit_holds (takeAnswer_holds hs)
  · exact claimData_holds (takeAnswer_holds hs)
  · exact takeAnswer_holds hs

theorem execAckTimer_leads {device cls} (hs : I.holds s) : I.leads (execAckTimer device cls s) := by
  simp only [execAckTimer]
  split
  · exact next_leads hs
  · exact ite_leads (next_leads hs) (next_leads (sendAck_holds hs))

theorem execResendTimer_leads {device cls psn} (ha : I.Free .awls) (hm : I.Free .memory) (hs : I.holds s) :
    I.leads (execResendTimer device cls psn s) := by
  simp only [execResendTimer]
  split
  · exact next_leads hs
  · exact ite_leads (next_leads hs) (next_leads (resend_holds ha hm hs))

theorem failPeer_holds {d left} (hI : ∀ k, I.Free k) (hs : I.holds s) : I.holds (failPeer s d left) :=
  settleFences_holds (sendPumps_holds hI (foldl_holds (fun _ _ hs => packetEnd_holds hI hs) (svcSentOut_holds
    (setPeer_holds hs))))

theorem execTargetTimeout_leads {device} (hI : ∀ k, I.Free k) (hs : I.holds s) : I.leads (execTargetTimeout device s) :=
  ite_leads (next_leads hs) (next_leads (faultRecord_holds (failPeer_holds hI (modFab_holds hs))))

theorem giveContexts_holds (hI : ∀ k, I.Free k) (hs : I.holds s) : I.holds (giveContexts s) := by
  refine sendPumps_holds hI (foldl_holds (fun s d hs => ?_) hs)
  split
  · exact hs
  next ht => exact pump_holds hI (pump_holds hI (withContext_holds ht hs))

theorem execPeerContextFree_leads {device} (hI : ∀ k, I.Free k) (hs : I.holds s) :
    I.leads (execPeerContextFree device s) :=
  ite_leads (next_leads (giveContexts_holds hI (freeContext_holds hs))) (next_leads hs)

theorem clearPeer_holds {d} (hI : ∀ k, I.Free k) (hs : I.holds s) : I.holds (clearPeer s d) := failPeer_holds hI hs

theorem clearPut_holds {value} (hI : ∀ k, I.Free k) (hs : I.holds s) : I.holds (clearPut value s) :=
  ite_holds (clearPeer_holds hI hs) hs

theorem execClear_leads {src value} (hI : ∀ k, I.Free k) (hs : I.holds s) : I.leads (execClear src value s) :=
  next_leads (globalWrite_holds (hI .blocks) (fun _ hs => clearPut_holds hI hs) hs)

theorem execCobblerFence_leads {b device} (hs : I.holds s) : I.leads (execCobblerFence b device s) := by
  unfold execCobblerFence
  split
  · exact next_leads hs
  · refine ite_leads (next_leads hs) ?_
    dsimp only
    exact next_leads (settleFences_holds (modFab_holds hs))

theorem epCode_holds {p c} (hs : I.holds s) : I.holds (epCode s p c) := modXt_holds hs

theorem execEnable_leads {src p ep} (hb : I.Free .blocks) (hm : I.Free .memory) (hs : I.holds s) :
    I.leads (execEnable src p ep s) :=
  next_leads (partWrite_holds hb (fun _ hs => ite_holds (epCode_holds hs) (ite_holds (epCode_holds hs) (epCode_holds
    (modXt_holds (epInstall_holds hm (ite_holds (badWordFaults_holds hs) hs)))))) hs)

theorem execEpDisable_leads {src p ep} (hI : ∀ k, I.Free k) (hs : I.holds s) : I.leads (execEpDisable src p ep s) :=
  next_leads (partWrite_holds (hI .blocks) (fun _ hs => ite_holds (epCode_holds hs) (epCode_holds (epRemove_holds (hI
    .memory) (epFreeEntries_holds (endSends_holds hI hs))))) hs)

theorem execEpFlush_leads {src p ep} (hI : ∀ k, I.Free k) (hs : I.holds s) : I.leads (execEpFlush src p ep s) :=
  next_leads (partWrite_holds (hI .blocks) (fun _ hs => ite_holds (epCode_holds hs) (epCode_holds (epRemove_holds (hI
    .memory) (endSends_holds hI (modEp_holds (hI .memory) hs))))) hs)

theorem execSrqTailWrite_leads {src p q value} (hb : I.Free .blocks) (hs : I.holds s) :
    I.leads (execSrqTailWrite src p q value s) :=
  next_leads (partWrite_holds hb (fun _ hs => ite_holds hs (ite_holds (modXt_holds hs) (srqFed_holds (modXt_holds
    hs)))) hs)

/-! ### Links and routing -/

theorem cageUpdate_holds {g} (hs : I.holds s) : I.holds (cageUpdate s g) :=
  ite_holds hs (ite_self_holds emit_holds (emit_holds (modSled_holds hs)))

theorem setGroup_holds {g on} (hs : I.holds s) : I.holds (setGroup s g on) := cageUpdate_holds (modPow_holds hs)

theorem setPortFlags_holds {p x} (hs : I.holds s) : I.holds (setPortFlags s p x) :=
  ite_self_holds sendNotice_holds (upd_holds (fun _ hs => setPort_holds hs) hs)

theorem modVl_holds {p v f} (hs : I.holds s) : I.holds (modVl s p v f) := setPort_holds hs

theorem freeUnits_holds {i vl units} (hs : I.holds s) : I.holds (freeUnits s i vl units) :=
  ite_holds hs (setPort_holds (modVl_holds hs))

theorem unitSent_holds {p e} (hs : I.holds s) : I.holds (unitSent s p e) := emit_holds (setPort_holds hs)

theorem sendCredit_holds {p} (hs : I.holds s) : I.holds (sendCredit s p) := unitSent_holds (setPort_holds hs)

theorem countDrop_holds {cause} (hs : I.holds s) : I.holds (countDrop s cause) := modFab_holds hs

theorem dropPacket_holds {input bs cause} (hs : I.holds s) : I.holds (dropPacket s input bs cause) :=
  countDrop_holds (freeUnits_holds hs)

theorem queueOn_holds {q c} (hs : I.holds s) : I.holds (queueOn s q c) := setPort_holds hs

theorem reoffer_holds {q} (hs : I.holds s) : I.holds (reoffer s q) := by
  unfold reoffer
  split
  · exact ite_holds (countDrop_holds hs) (dropPacket_holds hs)
  · exact queueOn_holds hs

theorem routePacket_holds {input bs} (hs : I.holds s) : I.holds (routePacket s input bs) := by
  unfold routePacket
  dsimp only
  split
  · exact emit_holds (freeUnits_holds hs)
  · exact freeUnits_holds hs
  · exact countDrop_holds (freeUnits_holds hs)
  · exact queueOn_holds hs

theorem stopPort_holds {p x} (hs : I.holds s) : I.holds (stopPort s p x) :=
  foldl_holds (fun _ _ hs => reoffer_holds hs) (modFab_holds (setPort_holds hs))

theorem goDown_holds {p} (hs : I.holds s) : I.holds (goDown s p) := faultRecord_holds (stopPort_holds hs)

theorem enterTraining_holds {p} (hs : I.holds s) : I.holds (enterTraining s p) := ite_holds hs (setPort_holds hs)

theorem portOff_holds {p} (hs : I.holds s) : I.holds (portOff s p) := stopPort_holds hs

theorem portRest_holds {p} (hs : I.holds s) : I.holds (portRest s p) :=
  ite_else_holds (fun h => ite_holds (ite_holds hs (stopPort_holds hs)) (ite_holds (ite_holds (enterTraining_holds hs)
    hs) h)) (ite_holds hs (portOff_holds hs))

theorem creditArrive_holds {p freed} (hs : I.holds s) : I.holds (creditArrive s p freed) :=
  foldl_holds (fun _ _ hs => modVl_holds hs) (setPort_holds hs)

theorem syncArrive_holds {p sent} (hs : I.holds s) : I.holds (syncArrive s p sent) :=
  setPort_holds (foldl_holds (fun _ _ hs => modVl_holds hs) hs)

theorem helloArrive_holds {p u} (hs : I.holds s) : I.holds (helloArrive s p u) :=
  ite_holds hs (ite_holds (goDown_holds (ite_holds (unitSent_holds (setPortFlags_holds hs)) (setPortFlags_holds hs)))
    (ite_holds (setPort_holds (ite_holds (unitSent_holds (setPortFlags_holds hs)) (setPortFlags_holds hs)))
    (ite_self_holds (fun h => sendCredit_holds (setPort_holds h)) (ite_holds (unitSent_holds (setPortFlags_holds
    hs)) (setPortFlags_holds hs)))))

theorem endComing_holds {p payload lost} (hs : I.holds s) : I.holds (endComing s p payload lost) := modFab_holds hs

theorem loseRx_holds {p discarding} (hs : I.holds s) : I.holds (loseRx s p discarding) := by
  simp only [loseRx]
  split
  · exact setPort_holds hs
  · exact freeUnits_holds (endComing_holds (setPort_holds hs))

theorem rxComplete_holds {p} (hs : I.holds s) : I.holds (rxComplete s p) := by
  simp only [rxComplete]
  split
  · exact hs
  · refine ite_holds ?_ hs
    split
    · exact setPort_holds (setPort_holds hs)
    · exact emit_holds (freeUnits_holds (setPort_holds hs))
    · exact freeUnits_holds (setPort_holds hs)
    · exact ite_holds (endComing_holds (setPort_holds hs)) (freeUnits_holds (setPort_holds hs))

theorem routeComing_holds {p} (hs : I.holds s) : I.holds (routeComing s p) := by
  simp only [routeComing]
  split
  · refine ite_holds hs ?_
    split
    · exact setPort_holds hs
    · exact setPort_holds hs
    · exact setPort_holds (countDrop_holds hs)
    · exact setPort_holds (queueOn_holds hs)
  · exact hs

theorem controlUnit_holds {p bs} (hs : I.holds s) : I.holds (controlUnit s p bs) :=
  ite_holds (loseRx_holds hs) (ite_holds (creditArrive_holds (loseRx_holds hs)) (ite_holds (syncArrive_holds
    (loseRx_holds hs)) (ite_holds (helloArrive_holds (draw_holds (loseRx_holds hs))) (setPort_holds (loseRx_holds
    hs)))))

theorem unitArrive_holds {p u} (hs : I.holds s) : I.holds (unitArrive s p u) := by
  simp only [unitArrive]
  split
  · exact loseRx_holds (setPort_holds hs)
  · exact controlUnit_holds (setPort_holds hs)
  · exact rxComplete_holds (setPort_holds (modVl_holds (loseRx_holds (setPort_holds hs))))
  · split
    · exact setPort_holds hs
    · exact ite_holds (setPort_holds hs) (rxComplete_holds (setPort_holds (modVl_holds (setPort_holds hs))))

theorem execSerdesGroupWake_leads {g} (hs : I.holds s) : I.leads (execSerdesGroupWake g s) :=
  ite_leads (next_leads (foldl_holds (fun _ _ hs => portRest_holds hs) (setGroup_holds hs))) (next_leads hs)

theorem execTrainingDone_leads {port reversed} (hs : I.holds s) : I.leads (execTrainingDone port reversed s) :=
  ite_leads (next_leads (setPort_holds hs)) (next_leads hs)

theorem execTrainingTimeout_leads {port} (hs : I.holds s) : I.leads (execTrainingTimeout port s) :=
  ite_leads (next_leads (goDown_holds hs)) (next_leads hs)

theorem execHello_leads {port u} (hs : I.holds s) : I.leads (execHello port u s) := next_leads (helloArrive_holds hs)

theorem execHelloTimer_leads {port} (hs : I.holds s) : I.leads (execHelloTimer port s) :=
  ite_leads (next_leads (unitSent_holds (setPort_holds (draw_holds hs)))) (next_leads hs)

theorem execHelloMissing_leads {port} (hs : I.holds s) : I.leads (execHelloMissing port s) := by
  simp only [execHelloMissing]
  split
  · exact next_leads hs
  · exact ite_leads (next_leads (goDown_holds hs)) (next_leads hs)

theorem execDownRetrain_leads {port} (hs : I.holds s) : I.leads (execDownRetrain port s) :=
  ite_leads (next_leads (enterTraining_holds hs)) (next_leads hs)

theorem execCodewordReceived_leads {port cw} (hs : I.holds s) : I.leads (execCodewordReceived port cw s) := by
  unfold execCodewordReceived
  dsimp only
  refine ite_leads (next_leads hs) ?_
  split
  · exact next_leads (foldl_holds (fun _ _ hs => ite_holds (unitArrive_holds hs) hs) (ite_holds (setPort_holds hs)
      hs))
  · exact next_leads (ite_self_holds goDown_holds (loseRx_holds (setPort_holds hs)))

theorem execCredit_leads {port freed} (hs : I.holds s) : I.leads (execCredit port freed s) :=
  next_leads (ite_holds (creditArrive_holds hs) hs)

theorem execCreditTimer_leads {port} (hs : I.holds s) : I.leads (execCreditTimer port s) :=
  ite_leads (next_leads (sendCredit_holds hs)) (next_leads hs)

theorem execSync_leads {port sent} (hs : I.holds s) : I.leads (execSync port sent s) :=
  next_leads (ite_holds (syncArrive_holds hs) hs)

theorem execSyncTimer_leads {port} (hs : I.holds s) : I.leads (execSyncTimer port s) :=
  ite_leads (next_leads (unitSent_holds (setPort_holds hs))) (next_leads hs)

theorem execPacketHeader_leads {port} (hs : I.holds s) : I.leads (execPacketHeader port s) := by
  simp only [execPacketHeader]
  split
  · split
    · exact next_leads hs
    · exact next_leads (routePacket_holds (modFab_holds hs))
  · refine ite_leads (next_leads hs) ?_
    split
    · exact next_leads (routePacket_holds (setPort_holds hs))
    · exact next_leads (ite_holds hs (routeComing_holds hs))

theorem transportPacket_leads {bs} (hI : ∀ k, I.Free k) (hs : I.holds s) : I.leads (transportPacket s bs) :=
  ite_leads (next_leads (arrive2_holds (hI .memory) hs)) (ite_leads (next_leads (arrive2_holds (hI .memory) hs))
    (ite_leads (next_leads (arrive2_holds (hI .memory) hs)) (ite_leads (execMessage_leads hI hs) (ite_leads
    (execReadData_leads hI hs) (ite_leads (execAtomicData_leads hI hs) (execAck_leads hI hs))))))

theorem execPortTransmit_leads {port} (hs : I.holds s) : I.leads (execPortTransmit port s) := by
  simp only [execPortTransmit]
  refine ite_leads (next_leads hs) ?_
  split
  · exact next_leads hs
  · exact next_leads (emit_holds (ite_else_holds freeUnits_holds (modVl_holds (setPort_holds hs))))

theorem fpControl_holds {value p} (hs : I.holds s) : I.holds (fpControl value p s) :=
  ite_holds (ite_holds (setPort_holds hs) (portOff_holds (setPort_holds hs))) (ite_holds (portRest_holds
    (setPort_holds hs)) (ite_holds (goDown_holds (setPort_holds hs)) (setPort_holds hs)))

theorem execRetrain_leads {src port value} (hb : I.Free .blocks) (hs : I.holds s) :
    I.leads (execRetrain src port value s) := next_leads (globalWrite_holds hb (fun _ hs => fpControl_holds hs) hs)

theorem execDisable_leads {src port value} (hb : I.Free .blocks) (hs : I.holds s) :
    I.leads (execDisable src port value s) := next_leads (globalWrite_holds hb (fun _ hs => fpControl_holds hs) hs)

theorem fpCredits_holds {hi value p} (hs : I.holds s) : I.holds (fpCredits hi value p s) :=
  ite_holds (setPort_holds hs) hs

theorem execFpCreditsWrite_leads {src port hi value} (hb : I.Free .blocks) (hs : I.holds s) :
    I.leads (execFpCreditsWrite src port hi value s) :=
  next_leads (globalWrite_holds hb (fun _ hs => fpCredits_holds hs) hs)

theorem routePut_holds {b dest value} (hs : I.holds s) : I.holds (routePut b dest value s) := setBank_holds hs

theorem execRouteWrite_leads {src bank dest value} (hb : I.Free .blocks) (hs : I.holds s) :
    I.leads (execRouteWrite src bank dest value s) :=
  next_leads (globalWrite_holds hb (fun _ hs => routePut_holds hs) hs)

theorem bankPut_holds {b value} (hs : I.holds s) : I.holds (bankPut b value s) :=
  ite_holds (setBank_holds hs) (setBank_holds hs)

theorem execFabBankWrite_leads {src bank value} (hb : I.Free .blocks) (hs : I.holds s) :
    I.leads (execFabBankWrite src bank value s) := next_leads (globalWrite_holds hb (fun _ hs => bankPut_holds hs) hs)

theorem currentPut_holds {value} (hs : I.holds s) : I.holds (currentPut value s) := modFab_holds hs

theorem execFabCurrentWrite_leads {src value} (hb : I.Free .blocks) (hs : I.holds s) :
    I.leads (execFabCurrentWrite src value s) :=
  next_leads (globalWrite_holds hb (fun _ hs => currentPut_holds hs) hs)

theorem devicePut_holds {value} (hs : I.holds s) : I.holds (devicePut value s) := modFab_holds hs

theorem execFabDeviceWrite_leads {src value} (hb : I.Free .blocks) (hs : I.holds s) :
    I.leads (execFabDeviceWrite src value s) := next_leads (globalWrite_holds hb (fun _ hs => devicePut_holds hs) hs)

/-! ### Power and clocks -/

theorem noteCauses_holds (hs : I.holds s) : I.holds (noteCauses s) := upd_holds (fun _ hs => modPow_holds hs) hs

theorem clockStep_holds {hot p} (hs : I.holds s) : I.holds (clockStep s hot p) := setPower_holds hs

theorem execClockLoopTick_leads {tMax tMaxDistrict inlet outlet} (hs : I.holds s) :
    I.leads (execClockLoopTick tMax tMaxDistrict inlet outlet s) :=
  ite_leads (next_leads (noteCauses_holds (modPow_holds hs))) (next_leads (foldl_holds (fun _ _ hs => clockStep_holds
    hs) (modPow_holds (noteCauses_holds (modPow_holds hs)))))

theorem execPowerEstimateTick_leads {raw inputW voltage10mV parts} (hs : I.holds s) :
    I.leads (execPowerEstimateTick raw inputW voltage10mV parts s) :=
  next_leads (noteCauses_holds (foldl_holds (fun _ _ hs => modPPower_holds hs) (modPow_holds hs)))

theorem execCalibrationTick_leads {measured raw} (hs : I.holds s) : I.leads (execCalibrationTick measured raw s) :=
  next_leads (ite_self_holds faultRecord_holds (modPow_holds (ite_holds (draw_holds hs) hs)))

theorem execFastLimit_leads {cause} (hs : I.holds s) : I.leads (execFastLimit cause s) :=
  ite_leads (next_leads hs) (next_leads (noteCauses_holds (modPow_holds hs)))

theorem execFastLimitClear_leads (hs : I.holds s) : I.leads (execFastLimitClear s) := by
  unfold execFastLimitClear
  split
  · exact next_leads hs
  · refine ite_leads (next_leads hs) ?_
    dsimp only
    exact next_leads (foldl_holds (fun _ _ hs => modPPower_holds hs) (modPow_holds hs))

theorem execStartGrant_leads {riseOk} (hb : I.Free .blocks) (hs : I.holds s) : I.leads (execStartGrant riseOk s) := by
  simp only [execStartGrant]
  refine ite_leads (next_leads hs) ?_
  split
  · exact next_leads hs
  · exact ite_leads (next_leads (setPwr_holds hb hs)) (next_leads (ite_else_holds (setPwr_holds hb) (ite_holds
      (draw_holds hs) hs)))

theorem execBlockOffTimer_leads {b} (hb : I.Free .blocks) (hm : I.Free .memory) (hs : I.holds s) :
    I.leads (execBlockOffTimer b s) := by
  unfold execBlockOffTimer
  split
  · exact next_leads hs
  · dsimp only
    exact ite_leads (next_leads (mk_holds (zeroBenches_holds hm (setPwr_holds hb hs)))) (next_leads hs)

theorem execBlockWakeDone_leads {b} (hb : I.Free .blocks) (hm : I.Free .memory) (hs : I.holds s) :
    I.leads (execBlockWakeDone b s) :=
  ite_leads (next_leads (setPwr_holds hb (ite_holds (zeroBenches_holds hm hs) hs))) (next_leads hs)

theorem execBlkHintWrite_leads {src b value} (hb : I.Free .blocks) (hs : I.holds s) :
    I.leads (execBlkHintWrite src b value s) := by
  unfold execBlkHintWrite
  dsimp only
  refine next_leads (blockWrite_holds hb ?_ hs)
  intro x hs
  split
  · exact hs
  · exact ite_holds (modPPower_holds hs) hs

theorem countArrive_holds {p} (hs : I.holds s) : I.holds (countArrive s p) := modPPower_holds hs

theorem readBack_holds {src v} (hs : I.holds s) : I.holds (readBack s src v) := by
  unfold readBack
  split
  · exact emit_holds hs
  · exact emit_holds hs
  · exact hs
  · exact hs

theorem execBlkArriveRead_leads {src b} (hb : I.Free .blocks) (hs : I.holds s) : I.leads (execBlkArriveRead src b s) := by
  simp only [execBlkArriveRead]
  split
  · exact next_leads (readBack_holds (countArrive_holds (portGate_holds hb hs)))
  · exact next_leads (readBack_holds (portGate_holds hb hs))

theorem execBlkPeerDelayWrite_leads {src b value} (hb : I.Free .blocks) (hs : I.holds s) :
    I.leads (execBlkPeerDelayWrite src b value s) := by
  unfold execBlkPeerDelayWrite
  dsimp only
  refine next_leads (blockWrite_holds hb ?_ hs)
  intro x hs
  split
  · exact hs
  · exact modPPower_holds hs

theorem execFollowExpire_leads {p} (hs : I.holds s) : I.leads (execFollowExpire p s) :=
  ite_leads (next_leads (setPower_holds hs)) (next_leads hs)

/-! ### Memory tiers -/

theorem migComplete_holds {p e c} (hc : I.Free .counters) (hs : I.holds s) : I.holds (migComplete s p e c) :=
  ite_self_holds (ctrAdd_holds hc) (noteStep_holds (modPMem_holds hs))

theorem migFail_holds {p j page c} (hs : I.holds s) : I.holds (migFail s p j page c) := modPMem_holds hs

theorem beginPage_holds {p j} (hs : I.holds s) : I.holds (beginPage s p j) := by
  unfold beginPage
  split
  · exact modPMem_holds hs
  · exact ite_holds (migFail_holds hs) (modPMem_holds hs)

theorem migStart_holds {p e} (hc : I.Free .counters) (hs : I.holds s) : I.holds (migStart s p e) :=
  ite_holds (modPMem_holds hs) (ite_holds (migComplete_holds hc hs) (beginPage_holds (modPMem_holds hs)))

theorem execMigTailWrite_leads {src p value} (hb : I.Free .blocks) (hs : I.holds s) :
    I.leads (execMigTailWrite src p value s) := next_leads (partWrite_holds hb (fun _ hs => modPMem_holds hs) hs)

theorem execMovePages_leads {p} (hc : I.Free .counters) (hm : I.Free .memory) (hs : I.holds s) :
    I.leads (execMovePages p s) := by
  simp only [execMovePages]
  refine ite_leads (next_leads hs) ?_
  split
  · exact next_leads (ite_holds (migStart_holds hc hs) hs)
  · exact ite_leads (next_leads hs) (ite_leads (next_leads (modPMem_holds (modPMem_holds (ringRead_holds
      (settlePart_holds hm hs))))) (next_leads (ite_holds (migComplete_holds hc (modPMem_holds (ringRead_holds
      (settlePart_holds hm hs)))) (migStart_holds hc (modPMem_holds (ringRead_holds (settlePart_holds hm hs)))))))

theorem placePage_holds {p page tier} (hs : I.holds s) : I.holds (placePage s p page tier) := modPMem_holds hs

theorem execPageMoveDone_leads {read page written} (hm : I.Free .memory) (hs : I.holds s) :
    I.leads (execPageMoveDone read page written s) := by
  simp only [execPageMoveDone]
  split
  · exact next_leads hs
  · exact ite_leads (next_leads hs) (ite_leads (next_leads (modPMem_holds hs)) (ite_leads (next_leads (migFail_holds
      (badWordFaults_holds (eccMet_holds hm (settlePart_holds hm hs))))) (ite_leads (next_leads (migFail_holds
      (eccMet_holds hm (settlePart_holds hm hs)))) (next_leads (beginPage_holds (modPMem_holds (placePage_holds
      (eccMet_holds hm (settlePart_holds hm hs)))))))))

theorem execMigrationEntryDone_leads {p} (hc : I.Free .counters) (hs : I.holds s) :
    I.leads (execMigrationEntryDone p s) := by
  unfold execMigrationEntryDone
  split
  · exact next_leads hs
  · exact ite_leads (next_leads hs) (next_leads (migComplete_holds hc hs))

theorem resumeQueues_holds {p} (hI : ∀ k, I.Free k) (hs : I.holds s) : I.holds (resumeQueues s p) :=
  foldl_holds (fun _ _ hs => ite_holds (awlIssue_holds hI hs) hs) (foldl_holds (fun _ _ hs => lastNext_holds (hI
    .memory) hs) hs)

theorem noteCached_holds {c q} (ha : I.Free .awls) (hs : I.holds s) : I.holds (noteCached s c q) := by
  unfold noteCached
  split
  · exact hs
  · dsimp only
    exact setAwl_holds ha hs

theorem lastCmdEnds_holds {c n r} (hm : I.Free .memory) (hs : I.holds s) : I.holds (lastCmdEnds s c n r) := by
  simp only [lastCmdEnds]
  split
  · exact hs
  · split
    · exact putJob_holds hs
    · exact ite_holds (homeWrite_holds hm hs) (putJob_holds (homeWrite_holds hm hs))
    · exact hs

theorem nvEnd_holds {c r} (hI : ∀ k, I.Free k) (hs : I.holds s) : I.holds (nvEnd s c r) := by
  have hd : I.holds { s with nvCmds := s.nvCmds.filter fun x => decide (x.id ≠ c.id) } := mk_holds hs
  have ends {f : AwlReq → ReqEnd} {p} {l : List AwlReq} {s} (hs : I.holds s) :
      I.holds (l.foldl (fun s x => (reqEnd s c.awl p c.index x.id (f x)).getD s) s) :=
    foldl_holds (fun s x hs => getD_holds (fun _ h => reqEnd_holds (hI .awls) (hI .memory) h hs) hs) hs
  unfold nvEnd
  dsimp only
  split
  · exact resumeQueues_holds hI (lastCmdEnds_holds (hI .memory) hd)
  · split
    · exact resumeQueues_holds hI (slotsFree_holds hI (ite_holds (ends hd) (noteCached_holds (hI .awls) (ends hd))))
    · exact hd

theorem execNvmeCompletion_leads {drive cmd ok status data} (hI : ∀ k, I.Free k) (hs : I.holds s) :
    I.leads (execNvmeCompletion drive cmd ok status data s) := by
  unfold execNvmeCompletion
  split
  · exact next_leads hs
  · exact ite_leads (next_leads (nvEnd_holds hI hs)) (next_leads (nvEnd_holds hI hs))

theorem execNvTimeout_leads {drive cmd} (hI : ∀ k, I.Free k) (hs : I.holds s) : I.leads (execNvTimeout drive cmd s) := by
  unfold execNvTimeout
  split
  · exact next_leads hs
  · exact ite_leads (next_leads (nvEnd_holds hI hs)) (next_leads hs)

theorem driveFails_holds {d status} (hI : ∀ k, I.Free k) (hs : I.holds s) : I.holds (driveFails s d status) :=
  foldl_holds (fun _ _ hs => nvEnd_holds hI hs) (faultRecord_holds (upd_holds (fun _ hs => setDrive_holds hs) hs))

theorem execNvmeDriveFailed_leads {drive status} (hI : ∀ k, I.Free k) (hs : I.holds s) :
    I.leads (execNvmeDriveFailed drive status s) := ite_leads (next_leads hs) (next_leads (driveFails_holds hI hs))

theorem queuesFollow_holds {p old new} (hs : I.holds s) : I.holds (queuesFollow s p old new) :=
  foldl_holds (fun _ _ hs => ite_holds hs (emit_holds hs)) hs

theorem writeMap_holds {p nv reg i value} (hs : I.holds s) : I.holds (writeMap s p nv reg i value) :=
  ite_holds (setPMem_holds hs) (queuesFollow_holds (setPMem_holds hs))

theorem execNvMappingWrite_leads {src p reg nv entry value} (hb : I.Free .blocks) (hs : I.holds s) :
    I.leads (execNvMappingWrite src p reg nv entry value s) :=
  ite_leads (next_leads hs) (next_leads (partWrite_holds hb (fun _ hs => writeMap_holds hs) hs))

theorem patrolPlaced_holds {p off ok} (hm : I.Free .memory) (hs : I.holds s) : I.holds (patrolPlaced s p off ok) :=
  ite_holds hs (ite_holds (countFixed_holds hs) (badWordFault_holds (hm.change hs rfl fun h => memOk_addBad s _ h)))

theorem patrolUnplaced_holds {tier ch ok} (hs : I.holds s) : I.holds (patrolUnplaced s tier ch ok) :=
  ite_holds hs (ite_holds (countFixed_holds hs) (faultRecord_holds (countLost_holds (draw_holds hs))))

theorem execPatrolScrub_leads {p off correctable passEnds} (hm : I.Free .memory) (hs : I.holds s) :
    I.leads (execPatrolScrub p off correctable passEnds s) := by
  simp only [execPatrolScrub]
  refine ite_leads (next_leads hs) (next_leads (ite_holds (modRegs_holds ?_) ?_))
  · split
    · exact patrolPlaced_holds hm hs
    · exact patrolUnplaced_holds hs
    · exact patrolUnplaced_holds hs
  · split
    · exact patrolPlaced_holds hm hs
    · exact patrolUnplaced_holds hs
    · exact patrolUnplaced_holds hs

/-! ### Partitions and the module as a whole -/

theorem killWork_holds {p c} (hI : ∀ k, I.Free k) (hs : I.holds s) : I.holds (killWork s p c) := by
  simp only [killWork]
  refine endSends_holds hI (mk_holds ?_)
  split
  · exact foldl_holds (fun _ _ hs => foldl_holds (fun _ _ hs => awlKillAll_holds hI hs) (attnKillAll_holds hI
      (ite_holds (runEnds_holds (hI .counters) (hI .blocks) hs) hs))) hs
  · exact migComplete_holds (hI .counters) (foldl_holds (fun _ _ hs => foldl_holds (fun _ _ hs => awlKillAll_holds hI
      hs) (attnKillAll_holds hI (ite_holds (runEnds_holds (hI .counters) (hI .blocks) hs) hs))) hs)

theorem killSome_holds {c pick} (hI : ∀ k, I.Free k) (hs : I.holds s) : I.holds (killSome s c pick) := by
  unfold killSome
  refine settleFences_holds (foldl_holds ?_ hs)
  intro x x hs
  dsimp only
  exact foldl_holds (fun _ _ hs => packetEnd_holds hI hs) (setPeer_holds hs)

theorem killPackets_holds {c} (hI : ∀ k, I.Free k) (hs : I.holds s) : I.holds (killPackets s c) :=
  killSome_holds hI hs

theorem flushLanes_holds {p all} (hl : I.Free .lanes) (hs : I.holds s) : I.holds (flushLanes s p all) := by
  refine foldl_holds (fun _ _ h => refuseItem_holds hl h) (mk_lanes_holds hl (lanesOk_mapVals fun n l => ?_) hs)
  split
  · exact List.length_filter_le ..
  · exact le_rfl

theorem lanesOk_foldl_put {f : LaneEntry → Nat} {g : LaneEntry → Lane} {l : List LaneEntry} {m : KMap Lane} (hg : ∀ e,
    (g e).items = []) (h : (m.all fun kv => decide (kv.2.items.length ≤ 16)) = true) : ((l.foldl (fun m e => m.put (f
    e) (g e)) m).all fun kv => decide (kv.2.items.length ≤ 16)) = true := by
  induction l generalizing m with
  | nil => exact h
  | cons e l ih =>
    refine ih (List.all_eq_true.2 fun x hx => ?_)
    obtain rfl | hx := mem_put _ _ _ _ hx
    · simp [hg]
    · exact List.all_eq_true.1 h x hx

theorem installPart_holds {pt p} (hl : I.Free .lanes) (hc : I.Free .counters) (hs : I.holds s) :
    I.holds (installPart s pt p) :=
  foldl_holds (fun _ _ h => setCrossing_holds h) (foldl_holds (fun _ _ h => setRoundabout_holds h)
    (foldl_holds (fun _ _ h => setToll_holds h)
      (mk_lanesCounters_holds hl hc (lanesOk_foldl_put fun _ => rfl) hs)))

theorem removePart_holds {p} (hl : I.Free .lanes) (hc : I.Free .counters) (hs : I.holds s) : I.holds (removePart s p) :=
  mk_lanesCounters_holds hl hc lanesOk_filter hs

theorem clearBlock_holds {b} (hI : ∀ k, I.Free k) (hs : I.holds s) : I.holds (clearBlock s b) :=
  mk_awls_holds (hI .awls) (s := { zeroBenches s b with blocks := (zeroBenches s b).blocks.del b })
    (mk_blocks_holds (hI .blocks) (zeroBenches_holds (hI .memory) hs))

theorem markChannels_holds {hbm ddr} (hs : I.holds s) : I.holds (markChannels s hbm ddr) := by
  simp only [markChannels]
  exact modTrust_holds hs

theorem startPending_holds (hs : I.holds s) : I.holds (startPending s) := modTrust_holds hs

theorem markScrub_holds {x} (hs : I.holds s) : I.holds (markScrub s x) := markChannels_holds hs

theorem writeImages_holds {p} (hm : I.Free .memory) (hs : I.holds s) : I.holds (writeImages s p) := by
  unfold writeImages
  split
  · exact hs
  · exact foldl_holds (fun _ _ hs => storeRaw_holds hm hs) hs

theorem enterPatterned_holds {p} (hm : I.Free .memory) (hs : I.holds s) : I.holds (enterPatterned s p) :=
  writeImages_holds hm (setCode_holds (modPart_holds hs))

theorem orphanPackets_holds {p} (hs : I.holds s) : I.holds (orphanPackets s p) := by
  simp only [orphanPackets]
  exact modFab_holds hs

theorem refuseHome_holds {p} (hs : I.holds s) : I.holds (refuseHome s p) :=
  foldl_holds (fun _ _ hs => homeEnd_holds hs) (modFab_holds hs)

theorem startScrub_holds {p next} (hI : ∀ k, I.Free k) (hs : I.holds s) : I.holds (startScrub s p next) := by
  simp only [startScrub]
  split
  · exact hs
  · refine setPart_holds (mk_holds (foldl_holds (fun _ _ hs => clearBlock_holds hI hs) ?_))
    split
    · exact removePart_holds (hI .lanes) (hI .counters) (modTrust_holds (markScrub_holds (setCode_holds (draw_holds
        (refuseHome_holds (orphanPackets_holds hs))))))
    · exact installPart_holds (hI .lanes) (hI .counters) (removePart_holds (hI .lanes) (hI .counters) (modTrust_holds
        (markScrub_holds (setCode_holds (draw_holds (refuseHome_holds (orphanPackets_holds hs)))))))

theorem zeroMemory_holds {p} (hm : I.Free .memory) (hs : I.holds s) : I.holds (zeroMemory s p) :=
  hm.change hs rfl (memOk_zeroMemory s p)

theorem finishFreed_holds {p} (hs : I.holds s) : I.holds (finishFreed s p) := by
  simp only [finishFreed]
  exact modPTrust_holds (modTrust_holds hs)

theorem finishScrub_holds {p} (hI : ∀ k, I.Free k) (hs : I.holds s) : I.holds (finishScrub s p) :=
  enterPatterned_holds (hI .memory) (modTrust_holds (modPTrust_holds (foldl_holds (fun _ _ hs => clearBlock_holds hI
    hs) (zeroMemory_holds (hI .memory) hs))))

theorem resetEndpoints_holds {p} (hm : I.Free .memory) (hs : I.holds s) : I.holds (resetEndpoints s p) := by
  simp only [resetEndpoints]
  exact modXt_holds (foldl_holds (fun _ _ hs => epRemove_holds hm hs) hs)

theorem emptiedLane_fits (p : Nat) (l : Lane) :
    (if l.owner = p then { owner := p, kind := l.kind, stale := l.stale, vector := l.vector } else l).items.length ≤
      l.items.length := by
  split
  · exact Nat.zero_le _
  · exact le_rfl

theorem resetAtOpen_holds {p} (hI : ∀ k, I.Free k) (hs : I.holds s) : I.holds (resetAtOpen s p) := by
  unfold resetAtOpen
  have cleared {s b} (hs : I.holds s) : I.holds (if (s.block b).pwr.state = 2 then clearBlock s b
      else { s with awls := s.awls.filter fun kv => decide (kv.1 / 8 ≠ b) }) :=
    ite_holds (clearBlock_holds hI hs) (mk_awls_holds (hI .awls) hs)
  dsimp only
  refine modPart_holds ?_
  have blocks {c s} {l : List Nat} (hs : I.holds s) : I.holds (resetEndpoints (l.foldl (fun s b =>
      let t := if (s.block b).pwr.state = 2 then clearBlock s b
        else { s with awls := s.awls.filter fun kv => decide (kv.1 / 8 ≠ b) }
      t.setBlock b { pwr := { state := 1, gatedSince := t.now }, cobbler := c }) s) p) :=
    resetEndpoints_holds (hI .memory) (foldl_holds (fun _ _ h => setBlock_holds (hI .blocks) (cleared h)) hs)
  refine ite_holds (standInDir_holds (hI .memory) (blocks ?_)) (blocks ?_)
  all_goals
    exact mk_lanesCounters_holds (hI .lanes) (hI .counters) (lanesOk_mapVals fun _ => emptiedLane_fits p) hs

theorem openPart_holds {p} (hI : ∀ k, I.Free k) (hs : I.holds s) : I.holds (openPart s p) :=
  ite_holds (startScrub_holds hI hs) (setCode_holds (modPTrust_holds (resetAtOpen_holds hI hs)))

theorem setPortB_holds {on} (hs : I.holds s) : I.holds (setPortB s on) :=
  ite_holds hs (ite_self_holds (fun h => emit_holds (modMgmt_holds h)) (modSled_holds (modPow_holds hs)))

theorem domainsOpen_holds (hs : I.holds s) : I.holds (domainsOpen s) := by
  unfold domainsOpen
  split
  · exact hs
  · dsimp only
    exact setPortB_holds (modPow_holds hs)

theorem portsRest_holds (hs : I.holds s) : I.holds (portsRest s) :=
  foldl_holds (fun _ _ hs => portRest_holds hs) (foldl_holds (fun _ _ hs => ite_holds hs (setGroup_holds hs)) hs)

theorem enumerateAtOpen_holds (hs : I.holds s) : I.holds (enumerateAtOpen s) := modMgmt_holds hs

theorem enterOpenState_holds (hs : I.holds s) : I.holds (enterOpenState s) :=
  enumerateAtOpen_holds (setModState_holds hs)

theorem restartLease_holds (hs : I.holds s) : I.holds (restartLease s) := modFlt_holds hs

theorem openModule_holds (hI : ∀ k, I.Free k) (hs : I.holds s) : I.holds (openModule s) := by
  simp only [openModule]
  exact portsRest_holds (restartLease_holds (foldl_holds (fun _ _ hs => openPart_holds hI hs) (domainsOpen_holds
    (enterOpenState_holds hs))))

theorem dissolve_holds {comp} (hs : I.holds s) : I.holds (dissolve s comp) :=
  foldl_holds (fun _ _ hs => recordEvent_holds hs) (modMgmt_holds hs)

theorem endHolds_holds {devices p} (hm : I.Free .memory) (hs : I.holds s) : I.holds (endHolds devices s p) :=
  foldl_holds (fun _ _ hs => endHold_holds hm hs) hs

theorem holdersLeave_holds {gone left} (hm : I.Free .memory) (hs : I.holds s) : I.holds (holdersLeave s gone left) :=
  foldl_holds (fun _ _ hs => endHolds_holds hm hs) hs

theorem moduleReset_holds {device flash} (hI : ∀ k, I.Free k) (hs : I.holds s) : I.holds (moduleReset s device flash) := by
  unfold moduleReset
  dsimp only
  refine portsRest_holds (setPortB_holds (trayUpdate_holds (setModState_holds (startPending_holds (modTrust_holds
    (modFlt_holds (modFab_holds (killPackets_holds hI (modLoader_holds ?_)))))))))
  exact all_holds hI (fun _ => rfl) (fun _ => rfl) hs

theorem fenceRecord_holds (hs : I.holds s) : I.holds (fenceRecord s) := faultRecord_holds hs

theorem fencedEntry_holds {cause} (hI : ∀ k, I.Free k) (hs : I.holds s) : I.holds (fencedEntry s cause) := by
  have killed {l : KMap PartState} {s} (hs : I.holds s) :
      I.holds (l.foldl (fun s kv => noteStep (killWork s kv.1 8) kv.1 8) s) :=
    foldl_holds (fun _ _ h => noteStep_holds (killWork_holds hI h)) hs
  have coded {l : KMap PartState} {s} (hs : I.holds s) : I.holds (l.foldl (fun s kv => setCode s kv.1 6) s) :=
    foldl_holds (fun _ _ h => setCode_holds h) hs
  exact fenceRecord_holds (portsRest_holds (setModState_holds (coded (mk_blocks_holds (hI .blocks)
    (killPackets_holds hI (killed (modFab_holds (modFlt_holds hs))))))))

/-! ### How a management request is answered -/

theorem mailboxReply_holds {bs} (hs : I.holds s) : I.holds (mailboxReply s bs) := by
  rw [mailboxReply_frame]
  exact I.other hs rfl

theorem keepLong_holds {m bs} (hs : I.holds s) : I.holds (keepLong s m bs) := ite_holds hs (modTrust_holds hs)

theorem deliver_holds {e} (hs : I.holds s) : I.holds (deliver s e) := by
  rw [deliver_frame]
  exact I.other hs rfl

theorem answer_holds {m command status payload} (hs : I.holds s) : I.holds (answer s m command status payload) := by
  rw [answer_frame]
  exact I.other hs rfl

theorem plain_holds {c} (hs : I.holds s) : I.holds (plain c s).2.2 := hs

theorem mgmtRequest_holds {m command allowed len f} (hf : ∀ s, I.holds s → I.holds (f s).2.2) (hs : I.holds s) :
    I.holds (mgmtRequest s m command allowed len f) := by
  simp only [mgmtRequest]
  refine ite_holds hs ?_
  split
  · exact deliver_holds (noteAddress_holds hs)
  · exact ite_holds (answer_holds (noteAddress_holds hs)) (ite_holds (answer_holds (noteAddress_holds hs))
      (answer_holds (hf _ (noteAddress_holds hs))))

theorem query_holds {m command len f} (hf : ∀ s, I.holds s → I.holds (f s).2.2) (hs : I.holds s) :
    I.holds (query s m command len f) := mgmtRequest_holds hf hs

theorem control_holds {m command tray len f} (hf : ∀ s, I.holds s → I.holds (f s).2.2) (hs : I.holds s) :
    I.holds (control s m command tray len f) := mgmtRequest_holds hf hs

theorem recovery_holds {m command payload len f} (hf : ∀ s, I.holds s → I.holds (f s).2.2) (hs : I.holds s) :
    I.holds (recovery s m command payload len f) := by
  unfold recovery
  refine control_holds ?_ hs
  intro x hs
  dsimp only
  split
  · exact plain_holds hs
  · split
    · exact plain_holds (ite_holds (faultRecord_holds (modFlt_holds (hf _ hs))) (modFlt_holds (hf _ hs)))
    · split
      · split <;> exact plain_holds hs
      · exact plain_holds hs

theorem trustAnswer_holds {m op c payload} (hs : I.holds s) : I.holds (trustAnswer s m op c payload) := by
  simp only [trustAnswer]
  exact deliver_holds (keepLong_holds hs)

theorem trustOp_holds {m op allowed f} (hf : ∀ s, I.holds s → I.holds (f s).2) (hs : I.holds s) :
    I.holds (trustOp s m op allowed f) := by
  unfold trustOp
  split
  · exact hs
  · dsimp only
    split
    · exact trustAnswer_holds (noteAddress_holds hs)
    · split
      · exact trustAnswer_holds (noteAddress_holds hs)
      · have ha := hf (noteAddress s m) (noteAddress_holds hs)
        split
        next ht => rwa [ht] at ha
        next ht => rw [ht] at ha; exact trustAnswer_holds ha

theorem spdmAnswer_holds {m request ok payload} (hs : I.holds s) : I.holds (spdmAnswer s m request ok payload) :=
  deliver_holds hs

/-! ### Patterns -/

theorem setStatus_holds {c} (hs : I.holds s) : I.holds (setStatus s c) := modLoader_holds hs

theorem viaLoader_holds {via off f} (hb : I.Free .blocks) (hf : ∀ s, I.holds s → I.holds (f s)) (hs : I.holds s) :
    I.holds (viaLoader s via off f) := by
  unfold viaLoader
  split
  · exact globalWrite_holds hb hf hs
  · refine control_holds ?_ hs
    intro x hs
    dsimp only
    exact hf _ hs

theorem loadFailed_holds {code at_} (hs : I.holds s) : I.holds (loadFailed s code at_) :=
  ite_holds (portsRest_holds (setModState_holds (upd_holds (fun _ hs => modLoader_holds hs) hs))) (setCode_holds
    (upd_holds (fun _ hs => modLoader_holds hs) hs))

theorem beginLoad_holds {part} (hs : I.holds s) : I.holds (beginLoad part s) :=
  ite_holds hs (ite_holds (setStatus_holds hs) (modLoader_holds hs))

theorem execPatBegin_leads {via part} (hb : I.Free .blocks) (hs : I.holds s) : I.leads (execPatBegin via part s) :=
  next_leads (viaLoader_holds hb (fun _ hs => beginLoad_holds hs) hs)

theorem takeChunk_holds {bs} (hs : I.holds s) : I.holds (takeChunk s bs) :=
  ite_holds (loadFailed_holds (modLoader_holds hs)) (modLoader_holds hs)

theorem drainChunks_holds {fuel} (hs : I.holds s) : I.holds (drainChunks fuel s) := by
  induction fuel generalizing s with
  | zero => exact hs
  | succ n ih =>
    simp only [drainChunks]
    split
    · exact ih (takeChunk_holds hs)
    · exact hs

theorem chunkWrite_holds {offset length bytes} (hs : I.holds s) : I.holds (chunkWrite offset length bytes s) :=
  ite_holds hs (ite_holds (setStatus_holds hs) (ite_holds (loadFailed_holds hs) (drainChunks_holds (ite_holds
    (emit_holds (modLoader_holds hs)) (modLoader_holds hs)))))

theorem execPatChunk_leads {via offset length bytes} (hb : I.Free .blocks) (hs : I.holds s) :
    I.leads (execPatChunk via offset length bytes s) := by
  simp only [execPatChunk]
  split
  · exact next_leads (viaLoader_holds hb (fun _ hs => chunkWrite_holds hs) hs)
  · refine next_leads (control_holds ?_ hs)
    intro x hs
    split
    · exact plain_holds hs
    · exact mk_holds (chunkWrite_holds hs)

theorem execChunkDone_leads {fetched} (hs : I.holds s) : I.leads (execChunkDone fetched s) := by
  simp only [execChunkDone]
  split
  · split
    · exact next_leads (loadFailed_holds hs)
    · exact next_leads (drainChunks_holds (takeChunk_holds (upd_holds (fun _ hs => modLoader_holds hs) hs)))
  · exact next_leads hs

theorem abortLoad_holds (hs : I.holds s) : I.holds (abortLoad s) := ite_holds hs (modLoader_holds hs)

theorem execPatAbort_leads {via part} (hb : I.Free .blocks) (hs : I.holds s) : I.leads (execPatAbort via part s) :=
  next_leads (viaLoader_holds hb (fun _ hs => abortLoad_holds hs) hs)

theorem runCommit_holds (hs : I.holds s) : I.holds (runCommit s) := by
  simp only [runCommit]
  refine ite_holds (modLoader_holds hs) ?_
  split
  · exact loadFailed_holds (modLoader_holds hs)
  · exact modLoader_holds (modLoader_holds hs)

theorem commitLoad_holds (hs : I.holds s) : I.holds (commitLoad s) :=
  ite_holds hs (ite_holds (setStatus_holds hs) (ite_holds (setStatus_holds hs) (runCommit_holds hs)))

theorem execPatCommit_leads {via part} (hb : I.Free .blocks) (hs : I.holds s) : I.leads (execPatCommit via part s) :=
  next_leads (viaLoader_holds hb (fun _ hs => commitLoad_holds hs) hs)

theorem resumeCommit_holds (hs : I.holds s) : I.holds (resumeCommit s) := ite_holds (runCommit_holds hs) hs

theorem newPart_holds {pt p} (hm : I.Free .memory) (hs : I.holds s) : I.holds (newPart s pt p) :=
  enterPatterned_holds hm (setPart_holds hs)

theorem installFull_holds {n} (hI : ∀ k, I.Free k) (hs : I.holds s) : I.holds (installFull s n) :=
  foldl_holds (fun _ _ hs => newPart_holds (hI .memory) hs) (foldl_holds (fun _ _ hs => installPart_holds (hI .lanes)
    (hI .counters) hs) (mk_holds (foldl_holds (fun _ _ hs => queuesFollow_holds hs) hs)))

theorem zeroChannels_holds {p hbm ddr} (hm : I.Free .memory) (hs : I.holds s) : I.holds (zeroChannels s p hbm ddr) := by
  refine mk_memory_holds hm (fun h => ?_) hs
  obtain ⟨hmem, hbad⟩ := (memOk_iff s).1 h
  obtain ⟨hsorted, hnz⟩ := (wf_iff _).1 hmem
  exact ⟨(wf_iff _).2 ⟨sorted_filter _ _ hsorted, fun c hc => hnz c (List.mem_of_mem_filter hc)⟩, rising_filter _ _ hbad⟩

theorem releaseParts_holds {p was now} (hI : ∀ k, I.Free k) (hs : I.holds s) : I.holds (releaseParts s p was now) :=
  ite_holds (ite_else_holds (zeroChannels_holds (hI .memory)) (foldl_holds (fun _ _ hs => clearBlock_holds hI hs) hs))
    (modPTrust_holds (markChannels_holds (ite_holds (foldl_holds (fun _ _ hs => clearBlock_holds hI hs) hs)
    (zeroChannels_holds (hI .memory) (foldl_holds (fun _ _ hs => clearBlock_holds hI hs) hs)))))

theorem installPartial_holds {n t} (hI : ∀ k, I.Free k) (hs : I.holds s) : I.holds (installPartial s n t) := by
  unfold installPartial
  split
  · exact hs
  · dsimp only
    split
    · exact newPart_holds (hI .memory) (ite_self_holds domainsOpen_holds (installPart_holds (hI .lanes) (hI
        .counters) (mk_holds (releaseParts_holds hI (removePart_holds (hI .lanes) (hI .counters) hs)))))
    · exact ite_holds (startScrub_holds hI (modPart_holds (queuesFollow_holds (ite_self_holds domainsOpen_holds
        (installPart_holds (hI .lanes) (hI .counters) (mk_holds (releaseParts_holds hI (removePart_holds (hI .lanes)
        (hI .counters) hs)))))))) (enterPatterned_holds (hI .memory) (modPart_holds (queuesFollow_holds
        (ite_self_holds domainsOpen_holds (installPart_holds (hI .lanes) (hI .counters) (mk_holds
        (releaseParts_holds hI (removePart_holds (hI .lanes) (hI .counters) hs))))))))

theorem committedStatus_holds (hs : I.holds s) : I.holds (committedStatus s) :=
  upd_holds (fun _ hs => modLoader_holds hs) hs

theorem execCommitFlashDone_leads {ok} (hI : ∀ k, I.Free k) (hs : I.holds s) : I.leads (execCommitFlashDone ok s) := by
  unfold execCommitFlashDone
  split
  · exact next_leads hs
  · dsimp only
    exact ite_leads (next_leads hs) (ite_leads (ite_leads (next_leads (loadFailed_holds (modLoader_holds hs)))
      (next_leads (portsRest_holds (setModState_holds (committedStatus_holds (installFull_holds hI (modLoader_holds
      (modLoader_holds hs)))))))) (ite_leads (next_leads (loadFailed_holds hs)) (next_leads (installPartial_holds hI
      (committedStatus_holds (modLoader_holds hs))))))

theorem confirmLoad_holds {part} (hs : I.holds s) : I.holds (confirmLoad part s) :=
  ite_holds (setStatus_holds hs) (ite_holds hs (ite_holds (modLoader_holds hs) (modLoader_holds hs)))

theorem execPatConfirm_leads {via part arg} (hb : I.Free .blocks) (hs : I.holds s) :
    I.leads (execPatConfirm via part arg s) := by
  unfold execPatConfirm
  split
  · exact next_leads (viaLoader_holds hb (fun _ hs => confirmLoad_holds hs) hs)
  · exact next_leads (viaLoader_holds hb (fun _ hs => confirmLoad_holds (modLoader_holds hs)) hs)

theorem confirmFull_holds (hs : I.holds s) : I.holds (confirmFull s) := by
  unfold confirmFull
  split
  · exact hs
  · dsimp only
    exact modTrust_holds (modLoader_holds hs)

theorem confirmPartial_holds {p image} (hs : I.holds s) : I.holds (confirmPartial s p image) := by
  unfold confirmPartial
  split
  · exact hs
  · exact modLoader_holds hs

theorem confirmDone_holds (hs : I.holds s) : I.holds (confirmDone s) := by
  simp only [confirmDone]
  split
  · exact hs
  · refine ite_holds (confirmFull_holds (modLoader_holds hs)) ?_
    split
    · exact modLoader_holds hs
    · exact confirmPartial_holds (modLoader_holds hs)

theorem execConfirmRecordDone_leads {ok} (hs : I.holds s) : I.leads (execConfirmRecordDone ok s) :=
  next_leads (ite_holds (confirmDone_holds hs) (modLoader_holds hs))

theorem execConfirmExpired_leads {part} (hs : I.holds s) : I.leads (execConfirmExpired part s) := by
  simp only [execConfirmExpired]
  split
  · exact next_leads hs
  · exact ite_leads (next_leads (upd_holds (fun _ hs => modLoader_holds hs) hs)) (next_leads hs)

theorem startWindow_holds {part} (hs : I.holds s) : I.holds (startWindow s part) := modLoader_holds hs

theorem openLoad_holds {part} (hI : ∀ k, I.Free k) (hs : I.holds s) : I.holds (openLoad part s) :=
  ite_holds (ite_holds (openModule_holds hI (startWindow_holds hs)) (setStatus_holds hs)) (ite_holds (openPart_holds
    hI (startWindow_holds hs)) (setStatus_holds hs))

theorem execPatOpen_leads {via part} (hI : ∀ k, I.Free k) (hs : I.holds s) : I.leads (execPatOpen via part s) :=
  next_leads (viaLoader_holds (hI .blocks) (fun _ hs => openLoad_holds hI hs) hs)

theorem stopLoad_holds {part} (hs : I.holds s) : I.holds (stopLoad part s) :=
  ite_holds (modPart_holds hs) (setStatus_holds hs)

theorem execPatStop_leads {via part} (hb : I.Free .blocks) (hs : I.holds s) : I.leads (execPatStop via part s) :=
  next_leads (viaLoader_holds hb (fun _ hs => stopLoad_holds hs) hs)

theorem forgetHanded_holds {p l} (hs : I.holds s) : I.holds (forgetHanded s p l) :=
  dropLive_holds (cancelsEnd_holds hs)

theorem endLives_holds {p} (hl : I.Free .lanes) (hs : I.holds s) : I.holds (endLives s p) :=
  modHold_holds (foldl_holds (fun _ _ hs => ite_holds (forgetHanded_holds hs) (endNow_holds hl hs)) hs)

theorem execStopDrain_leads {p} (hl : I.Free .lanes) (hm : I.Free .memory) (hs : I.holds s) :
    I.leads (execStopDrain p s) :=
  ite_leads (next_leads (enterPatterned_holds hm (endLives_holds hl (flushLanes_holds hl hs)))) (next_leads hs)

theorem finishFlash_holds (hs : I.holds s) : I.holds (finishFlash s) := by
  simp only [finishFlash]
  split
  · exact confirmDone_holds hs
  · exact ite_holds (modLoader_holds (confirmDone_holds hs)) (confirmDone_holds hs)

theorem restorePartial_holds {t k} (hI : ∀ k, I.Free k) (hs : I.holds s) : I.holds (restorePartial s t k) := by
  unfold restorePartial
  split
  · exact installPartial_holds hI hs
  · exact ite_holds hs (setCode_holds hs)

theorem restoreFrom_holds {l older code} (hI : ∀ k, I.Free k) (hs : I.holds s) : I.holds (restoreFrom l older code s) := by
  induction l generalizing older code s with
  | nil => exact portsRest_holds (setModState_holds (setStatus_holds hs))
  | cons b r ih =>
    unfold restoreFrom
    split
    · exact ih hs
    · split
      · exact ih (modLoader_holds hs)
      · have restored {image} {l : List (Nat × Kept)} : I.holds (l.foldl (fun s x => restorePartial s x.1 x.2)
            (installFull (s.upd fun s => s.modLoader fun l => { runSlot l b with
              events := { l.events with restoredOlder := l.events.restoredOlder || older } }) image)) :=
          foldl_holds (fun _ _ hs => restorePartial_holds hI hs)
            (installFull_holds hI (upd_holds (fun _ hs => modLoader_holds hs) hs))
        exact ite_holds (openModule_holds hI (portsRest_holds (setModState_holds restored)))
          (portsRest_holds (setModState_holds restored))

theorem restore_holds (hI : ∀ k, I.Free k) (hs : I.holds s) : I.holds (restore s) := by
  unfold restore
  split
  · exact hs
  · exact restoreFrom_holds hI hs

/-! ### Recovery -/

theorem enterCut_holds {cause} (hb : I.Free .blocks) (hm : I.Free .memory) (hs : I.holds s) :
    I.holds (enterCut s cause) := by
  have coded {l : List Nat} {s} (hs : I.holds s) : I.holds (l.foldl (fun (s : State) p =>
      setCode (if s.code p = 8 then s.modPTrust p fun t => { t with owed := true } else s) p 9) s) :=
    foldl_holds (fun _ _ h => setCode_holds (ite_holds (modPTrust_holds h) h)) hs
  unfold enterCut
  dsimp only
  exact faultRecord_holds (portsRest_holds (trayUpdate_holds (setPortB_holds (setModState_holds (modFlt_holds
    (modMgmt_holds (mk_blocks_holds hb (foldl_holds (fun _ _ h => zeroBenches_holds hm h)
      (coded (modPow_holds hs))))))))))

theorem execCutEntry_leads {coolantLowUs junction} (hb : I.Free .blocks) (hm : I.Free .memory) (hs : I.holds s) :
    I.leads (execCutEntry coolantLowUs junction s) :=
  ite_leads fault_leads (ite_leads (next_leads (enterCut_holds hb hm hs)) (ite_leads (next_leads (enterCut_holds hb hm
    hs)) (next_leads hs)))

theorem scrubBroken_holds {p} (hs : I.holds s) : I.holds (scrubBroken s p) := ite_holds (modPTrust_holds hs) hs

theorem leaveCut_holds (hI : ∀ k, I.Free k) (hs : I.holds s) : I.holds (leaveCut s) :=
  ite_holds (trayUpdate_holds (fencedEntry_holds hI (foldl_holds (fun _ _ hs => setCode_holds (scrubBroken_holds hs))
    (killPackets_holds hI (foldl_holds (fun _ _ hs => flushLanes_holds (hI .lanes) (noteStep_holds (killWork_holds
    hI hs))) (modPow_holds hs)))))) (ite_holds (ite_self_holds (restore_holds hI) (trayUpdate_holds (portsRest_holds
    (setModState_holds (killPackets_holds hI (foldl_holds (fun _ _ hs => flushLanes_holds (hI .lanes)
    (noteStep_holds (killWork_holds hI hs))) (modPow_holds hs))))))) (trayUpdate_holds (portsRest_holds
    (setModState_holds (foldl_holds (fun _ _ hs => enterPatterned_holds (hI .memory) (scrubBroken_holds hs))
    (killPackets_holds hI (foldl_holds (fun _ _ hs => flushLanes_holds (hI .lanes) (noteStep_holds (killWork_holds
    hI hs))) (modPow_holds hs))))))))

theorem coolSeen_holds {highUs junction} (hs : I.holds s) : I.holds (coolSeen highUs junction s) := modPow_holds hs

theorem cutPut_holds {value} (hI : ∀ k, I.Free k) (hs : I.holds s) : I.holds (cutPut value s) :=
  ite_holds hs (ite_holds (leaveCut_holds hI hs) (modPow_holds hs))

theorem execResume_leads {src value coolantHighUs junction} (hI : ∀ k, I.Free k) (hs : I.holds s) :
    I.leads (execResume src value coolantHighUs junction s) :=
  next_leads (globalWrite_holds (hI .blocks) (fun _ hs => cutPut_holds hI hs) (coolSeen_holds hs))

theorem unitRecord_holds {cls u by_} (hs : I.holds s) : I.holds (unitRecord s cls u by_) := faultRecord_holds hs

theorem retireUnit_holds {u} (hs : I.holds s) : I.holds (retireUnit s u) := upd_holds (fun _ hs => modFlt_holds hs) hs

theorem doubtState_holds (hs : I.holds s) : I.holds (doubtState s) :=
  ite_holds (setModState_holds hs) (ite_holds (enumerateAtOpen_holds (setModState_holds hs)) hs)

theorem noteAccess_holds {key still} (hs : I.holds s) : I.holds (noteAccess s key still) := modFlt_holds hs

theorem noteStall_holds {u still} (hb : I.Free .blocks) (hs : I.holds s) : I.holds (noteStall s u still) := by
  unfold noteStall
  split
  · dsimp only
    exact setBlock_holds hb hs
  · exact noteAccess_holds hs
  · exact noteAccess_holds hs
  · exact hs

theorem execDoubtCheck_leads {unit mgmtFaulty dataFaulty} (hb : I.Free .blocks) (hs : I.holds s) :
    I.leads (execDoubtCheck unit mgmtFaulty dataFaulty s) :=
  ite_leads (next_leads (ite_holds hs (noteStall_holds hb hs))) (ite_leads (next_leads (doubtState_holds
    (unitRecord_holds (retireUnit_holds (ite_holds hs (noteStall_holds hb hs)))))) (ite_leads (next_leads (ite_holds
    hs (noteStall_holds hb hs))) (next_leads (doubtState_holds (unitRecord_holds (upd_holds (fun _ hs =>
    modFlt_holds hs) (ite_holds hs (noteStall_holds hb hs))))))))

theorem execDoubtRelease_leads {m unitKind action unit} (hs : I.holds s) :
    I.leads (execDoubtRelease m unitKind action unit s) := by
  unfold execDoubtRelease
  refine next_leads (recovery_holds ?_ hs)
  intro x hs
  split
  · exact hs
  · split
    · exact mk_holds (doubtState_holds (upd_holds (fun _ hs => modFlt_holds hs) hs))
    · split
      · exact mk_holds (doubtState_holds (retireUnit_holds hs))
      · exact hs

theorem faultControlPut_holds {p value} (hI : ∀ k, I.Free k) (hs : I.holds s) : I.holds (faultControlPut p value s) :=
  ite_holds (startQuiesce_holds hI (modPFault_holds hs)) (modPFault_holds hs)

theorem execQuiesce_leads {src p value} (hI : ∀ k, I.Free k) (hs : I.holds s) : I.leads (execQuiesce src p value s) :=
  next_leads (partWrite_holds (hI .blocks) (fun _ hs => faultControlPut_holds hI hs) hs)

theorem replayStep_holds {p} (hs : I.holds s) : I.holds (replayStep s p) := by
  unfold replayStep
  split
  · exact hs
  · refine ite_holds hs ?_
    dsimp only
    exact runStreams_holds (foldl_holds (fun _ _ hs => modLive_holds hs) (modHold_holds hs))

theorem execQuiesced_leads {p} (ha : I.Free .awls) (hm : I.Free .memory) (hs : I.holds s) :
    I.leads (execQuiesced p s) :=
  ite_leads (next_leads (holderOn_holds ha hm (replayStep_holds (modPMem_holds (modPFault_holds hs))))) (next_leads
    hs)

theorem execLeaseExpire_leads (hI : ∀ k, I.Free k) (hs : I.holds s) : I.leads (execLeaseExpire s) :=
  next_leads (ite_holds (fencedEntry_holds hI hs) hs)

theorem execLeaseRenew_leads {m} (hs : I.holds s) : I.leads (execLeaseRenew m s) := by
  unfold execLeaseRenew
  refine next_leads (control_holds ?_ hs)
  intro x hs
  split
  · exact plain_holds hs
  · dsimp only
    exact ite_holds (restartLease_holds hs) hs

theorem execFence_leads {m} (hI : ∀ k, I.Free k) (hs : I.holds s) : I.leads (execFence m s) := by
  unfold execFence
  refine next_leads (recovery_holds ?_ hs)
  intro x hs
  split
  · dsimp only
    exact hs
  · split
    · dsimp only
      exact hs
    · split
      · dsimp only
        exact modFlt_holds hs
      · dsimp only
        exact fencedEntry_holds hI hs

theorem graceOut_holds (hI : ∀ k, I.Free k) (hs : I.holds s) : I.holds (graceOut s) := by
  simp only [graceOut]
  exact moduleReset_holds hI (fenceRecord_holds (modFlt_holds hs))

theorem execGraceExpire_leads (hI : ∀ k, I.Free k) (hs : I.holds s) : I.leads (execGraceExpire s) := by
  unfold execGraceExpire
  split
  · exact next_leads hs
  · exact ite_leads (next_leads (graceOut_holds hI hs)) (next_leads hs)

theorem execSelftestDone_leads {failed} (hI : ∀ k, I.Free k) (hs : I.holds s) : I.leads (execSelftestDone failed s) :=
  ite_leads (next_leads hs) (next_leads (ite_self_holds (graceOut_holds hI) (fenceRecord_holds (modFlt_holds
    (foldl_holds (fun _ _ hs => unitRecord_holds (retireUnit_holds hs)) (foldl_holds (fun _ _ hs =>
    zeroBenches_holds (hI .memory) hs) hs))))))

theorem replayStopped_holds {p} (hI : ∀ k, I.Free k) (hs : I.holds s) : I.holds (replayStopped s p) := by
  unfold replayStopped
  split
  · exact hs
  · exact ite_holds (stepFails_holds hI hs) hs

theorem reinstateNow_holds {device} (hI : ∀ k, I.Free k) (hs : I.holds s) : I.holds (reinstateNow s device) :=
  ite_holds (portsRest_holds (setModState_holds (foldl_holds (fun _ _ hs => setCode_holds hs) (modFlt_holds
    (modFab_holds hs))))) (portsRest_holds (restartLease_holds (enterOpenState_holds (foldl_holds (fun _ _ hs =>
    replayStopped_holds hI hs) (foldl_holds (fun _ _ hs => setCode_holds hs) (modFlt_holds (modFab_holds hs)))))))

theorem execReinstate_leads {m device boot} (hI : ∀ k, I.Free k) (hs : I.holds s) :
    I.leads (execReinstate m device boot s) := by
  unfold execReinstate
  refine next_leads (recovery_holds ?_ hs)
  intro x hs
  split
  · exact hs
  · split
    · exact hs
    · split
      · exact hs
      · exact mk_holds (reinstateNow_holds hI hs)

theorem execStandIn_leads {m device} (hI : ∀ k, I.Free k) (hs : I.holds s) : I.leads (execStandIn m device s) := by
  unfold execStandIn
  refine next_leads (recovery_holds ?_ hs)
  intro x hs
  dsimp only
  split
  · dsimp only
    exact hs
  · split
    · dsimp only
      exact hs
    · dsimp only
      exact modFlt_holds (moduleReset_holds hI hs)

theorem tearPart_holds {p} (hI : ∀ k, I.Free k) (hs : I.holds s) : I.holds (tearPart s p) :=
  foldl_holds (fun _ _ hs => ite_holds (endEarly_holds (hI .lanes) hs) (endWith_holds (hI .lanes) hs)) (modHold_holds
    (killSome_holds hI (foldl_holds (fun _ _ hs => foldl_holds (fun _ _ hs => awlFlushAll_holds hI hs)
    (attnFlushAll_holds (hI .counters) (hI .blocks) hs)) (killWork_holds hI hs))))

theorem execTeardown_leads {m comp} (hI : ∀ k, I.Free k) (hs : I.holds s) : I.leads (execTeardown m comp s) := by
  unfold execTeardown
  refine next_leads (recovery_holds ?_ hs)
  intro x hs
  dsimp only
  split
  · exact hs
  · exact mk_holds (foldl_holds (fun _ _ hs => holdersLeave_holds (hI .memory) hs) (dissolve_holds (foldl_holds (fun _
      _ hs => tearPart_holds hI hs) hs)))

/-! ### Trust -/

theorem putKey_holds {n key} (hs : I.holds s) : I.holds (putKey s n key) := modTrust_holds hs

theorem execSlotWrite_leads {m slot counter key signature} (hs : I.holds s) :
    I.leads (execSlotWrite m slot counter key signature s) := by
  unfold execSlotWrite
  dsimp only
  refine next_leads (trustOp_holds ?_ hs)
  intro x hs
  split
  · dsimp only
    exact hs
  · split
    · dsimp only
      exact putKey_holds hs
    · split
      · dsimp only
        exact hs
      · dsimp only
        exact modTrust_holds (putKey_holds hs)

theorem execPolicySet_leads {m counter value signature} (hs : I.holds s) :
    I.leads (execPolicySet m counter value signature s) := by
  unfold execPolicySet
  refine next_leads (trustOp_holds ?_ hs)
  intro x hs
  split
  · dsimp only
    exact hs
  · dsimp only
    exact modTrust_holds hs

theorem finishReclaim_holds {m} (hI : ∀ k, I.Free k) (hs : I.holds s) : I.holds (finishReclaim s m) :=
  trustAnswer_holds (moduleReset_holds hI (modLoader_holds (modTrust_holds hs)))

theorem reclaimNext_holds (hI : ∀ k, I.Free k) (hs : I.holds s) : I.holds (reclaimNext s) := by
  unfold reclaimNext
  split
  · exact hs
  · exact ite_holds (finishReclaim_holds hI hs) hs

theorem execReclaim_leads {m} (hI : ∀ k, I.Free k) (hs : I.holds s) : I.leads (execReclaim m s) := by
  unfold execReclaim
  refine next_leads (trustOp_holds ?_ hs)
  intro x hs
  split
  · exact hs
  · dsimp only
    exact reclaimNext_holds hI (modTrust_holds (foldl_holds (fun _ _ hs => startScrub_holds hI hs) hs))

theorem execScrubDone_leads {p} (hI : ∀ k, I.Free k) (hs : I.holds s) : I.leads (execScrubDone p s) :=
  ite_leads (next_leads (resumeCommit_holds (finishFreed_holds hs))) (next_leads (reclaimNext_holds hI
    (resumeCommit_holds (ite_self_holds (openPart_holds hI) (finishScrub_holds hI (finishFreed_holds hs))))))

theorem fwWrite_holds {kind copy off bs} (hs : I.holds s) : I.holds (fwWrite s kind copy off bs) := by
  simp only [fwWrite]
  exact modTrust_holds hs

theorem execFwStage_leads {m kind offset bytes} (hs : I.holds s) : I.leads (execFwStage m kind offset bytes s) := by
  unfold execFwStage
  refine next_leads (trustOp_holds ?_ hs)
  intro x hs
  split
  · exact hs
  · exact fwWrite_holds hs

theorem execBind_leads {m record signature} (hs : I.holds s) : I.leads (execBind m record signature s) := by
  unfold execBind
  refine next_leads (trustOp_holds ?_ hs)
  intro x hs
  dsimp only
  split
  · dsimp only
    exact hs
  · split
    · dsimp only
      exact hs
    · dsimp only
      exact modTrust_holds hs

theorem execVerifyWeights_leads {m part model} (hs : I.holds s) : I.leads (execVerifyWeights m part model s) := by
  unfold execVerifyWeights
  dsimp only
  refine next_leads (trustOp_holds ?_ hs)
  intro x hs
  split
  · dsimp only
    exact hs
  · split
    · dsimp only
      exact hs
    · dsimp only
      exact modTrust_holds hs

theorem verifyResult_holds {p model} (hm : I.Free .memory) (hs : I.holds s) : I.holds (verifyResult s p model).2.2 := by
  simp only [verifyResult]
  split
  · split
    · split
      · exact homeRead_holds hm hs
      · split
        · exact homeRead_holds hm hs
        · split <;> exact homeRead_holds hm hs
    · split
      · exact draw_holds hs
      · split
        · exact draw_holds hs
        · split <;> exact draw_holds hs
  · exact hs

theorem execVerifyWeightsDone_leads {p model} (hm : I.Free .memory) (hs : I.holds s) :
    I.leads (execVerifyWeightsDone p model s) := by
  simp only [execVerifyWeightsDone]
  split
  · exact next_leads hs
  · exact ite_leads (next_leads (trustAnswer_holds (modTrust_holds hs))) (next_leads (trustAnswer_holds
      (ite_else_holds modPTrust_holds (verifyResult_holds hm (modTrust_holds hs)))))

theorem onPart_holds {p f} (hf : ∀ s, I.holds s → I.holds (f s).2) (hs : I.holds s) : I.holds (onPart s p f).2 := by
  simp only [onPart]
  split
  · exact hs
  · split
    · exact hs
    · exact hf _ hs

theorem execKeyRotate_leads {m part} (hs : I.holds s) : I.leads (execKeyRotate m part s) := by
  unfold execKeyRotate
  dsimp only
  refine next_leads (trustOp_holds ?_ hs)
  intro x hs
  refine onPart_holds ?_ hs
  intro x hs
  split
  · exact hs
  · exact setTrust_holds (draw_holds hs)

theorem execSweepPageDone_leads {p page read} (hm : I.Free .memory) (hs : I.holds s) :
    I.leads (execSweepPageDone p page read s) :=
  ite_leads (next_leads hs) (ite_leads (next_leads (setTrust_holds hs)) (next_leads (setTrust_holds (ite_holds
    (badWordFaults_holds (eccMet_holds hm (settlePart_holds hm hs))) (settlePart_holds hm hs)))))

theorem execKeyRetire_leads {m part force} (hs : I.holds s) : I.leads (execKeyRetire m part force s) := by
  unfold execKeyRetire
  dsimp only
  refine next_leads (trustOp_holds ?_ hs)
  intro x hs
  refine onPart_holds ?_ hs
  intro x hs
  split
  · exact hs
  · exact setTrust_holds hs

theorem execGenerationRetired_leads {p} (hs : I.holds s) : I.leads (execGenerationRetired p s) :=
  ite_leads (next_leads (setTrust_holds hs)) (next_leads hs)

theorem queueSignature_holds {j r} (ho : queueSignature s j = some r) (hs : I.holds s) : I.holds r := by
  unfold queueSignature at ho
  split at ho
  · exact Option.some.inj ho ▸ modTrust_holds hs
  · cases ho

theorem execReport_leads {m scope nonce} (hs : I.holds s) : I.leads (execReport m scope nonce s) := by
  unfold execReport
  refine next_leads (trustOp_holds ?_ hs)
  intro x hs
  split
  · exact hs
  · split
    · exact mk_holds (queueSignature_holds ‹_› hs)
    · exact mk_holds (spdmAnswer_holds hs)

theorem execEndorsement_leads {m} (hs : I.holds s) : I.leads (execEndorsement m s) :=
  next_leads (trustOp_holds (fun _ hs => hs) hs)

theorem signed_holds {sampled j signature} (hs : I.holds s) : I.holds (signed sampled s j signature) := by
  unfold signed
  split
  · dsimp only
    exact trustAnswer_holds hs
  · exact trustAnswer_holds hs
  · exact spdmAnswer_holds hs
  · exact spdmAnswer_holds hs
  · refine ite_holds (spdmAnswer_holds hs) ?_
    dsimp only
    exact spdmAnswer_holds (modTrust_holds hs)
  · exact spdmAnswer_holds hs

theorem execSignatureDone_leads {flashOk} (hs : I.holds s) : I.leads (execSignatureDone flashOk s) := by
  unfold execSignatureDone
  split
  · exact next_leads hs
  · dsimp only
    exact ite_leads (next_leads (signed_holds (modTrust_holds hs))) (next_leads (signed_holds (modTrust_holds
      (draw_holds (modTrust_holds hs)))))

theorem spdm_holds {m f} (hf : ∀ s, I.holds s → I.holds (f s)) (hs : I.holds s) : I.holds (spdm s m f) :=
  ite_holds (hf _ (noteAddress_holds hs)) hs

theorem execGetVersion_leads {m} (hs : I.holds s) : I.leads (execGetVersion m s) :=
  next_leads (spdm_holds (fun _ hs => spdmAnswer_holds hs) hs)

theorem execGetCapabilities_leads {m} (hs : I.holds s) : I.leads (execGetCapabilities m s) :=
  next_leads (spdm_holds (fun _ hs => spdmAnswer_holds (draw_holds hs)) hs)

theorem execNegotiateAlgorithms_leads {m} (hs : I.holds s) : I.leads (execNegotiateAlgorithms m s) :=
  next_leads (spdm_holds (fun _ hs => spdmAnswer_holds (draw_holds hs)) hs)

theorem execChallenge_leads {m nonce} (hs : I.holds s) : I.leads (execChallenge m nonce s) := by
  unfold execChallenge
  refine next_leads (spdm_holds ?_ hs)
  intro x hs
  split
  · exact queueSignature_holds ‹_› hs
  · exact spdmAnswer_holds hs

theorem execKeyExchange_leads {m requesterKey signature} (hs : I.holds s) :
    I.leads (execKeyExchange m requesterKey signature s) := by
  unfold execKeyExchange
  refine next_leads (spdm_holds ?_ hs)
  intro x hs
  dsimp only
  refine ite_holds (spdmAnswer_holds (draw_holds hs)) (ite_holds (spdmAnswer_holds (draw_holds hs)) ?_)
  split
  · exact queueSignature_holds ‹_› (draw_holds hs)
  · exact spdmAnswer_holds (draw_holds hs)

theorem withinSession_holds {m request f} (hf : ∀ x s, I.holds s → I.holds (f x s)) (hs : I.holds s) :
    I.holds (withinSession s m request f) := by
  unfold withinSession
  refine spdm_holds ?_ hs
  intro x hs
  split
  · exact spdmAnswer_holds hs
  · exact spdmAnswer_holds (hf _ _ hs)

theorem execHeartbeat_leads {m} (hs : I.holds s) : I.leads (execHeartbeat m s) :=
  next_leads (withinSession_holds (fun _ _ hs => hs) hs)

theorem execKeyUpdate_leads {m} (hs : I.holds s) : I.leads (execKeyUpdate m s) :=
  next_leads (withinSession_holds (fun _ _ hs => modTrust_holds hs) hs)

theorem execEndSession_leads {m} (hs : I.holds s) : I.leads (execEndSession m s) :=
  next_leads (withinSession_holds (fun _ _ hs => modMgmt_holds (modTrust_holds hs)) hs)

theorem after_holds {o} (ho : I.leads o) (hs : I.holds s) : I.holds (after s o) := by
  unfold after
  split
  · exact ho _ rfl
  · exact hs

theorem trustRun_holds {m vendor} (hI : ∀ k, I.Free k) (hs : I.holds s) : I.holds (trustRun m vendor s) :=
  ite_holds (after_holds (execReport_leads hs) hs) (ite_holds (after_holds (execEndorsement_leads hs) hs) (ite_holds
    (after_holds (execSlotWrite_leads hs) hs) (ite_holds (after_holds (execPolicySet_leads hs) hs) (ite_holds
    (after_holds (execReclaim_leads hI hs) hs) (ite_holds (after_holds (execFwStage_leads hs) hs) (ite_holds
    (after_holds (execBind_leads hs) hs) (ite_holds (after_holds (execVerifyWeights_leads hs) hs) (ite_holds
    (after_holds (execKeyRotate_leads hs) hs) (ite_holds (after_holds (execKeyRetire_leads hs) hs) (trustOp_holds
    (fun _ hs => hs) hs))))))))))

theorem execChunkSend_leads {m handle chunk last bytes} (hI : ∀ k, I.Free k) (hs : I.holds s) :
    I.leads (execChunkSend m handle chunk last bytes s) :=
  next_leads (spdm_holds (fun _ hs => ite_holds (spdmAnswer_holds hs) (ite_holds (trustRun_holds hI (modTrust_holds
    hs)) (spdmAnswer_holds (modTrust_holds hs)))) hs)

theorem execChunkGet_leads {m handle chunk} (hs : I.holds s) : I.leads (execChunkGet m handle chunk s) := by
  unfold execChunkGet
  refine next_leads (spdm_holds ?_ hs)
  intro x hs
  split
  · exact spdmAnswer_holds hs
  · refine ite_holds (spdmAnswer_holds hs) ?_
    dsimp only
    exact spdmAnswer_holds (modTrust_holds hs)

theorem execDbgChallenge_leads (hs : I.holds s) : I.leads (execDbgChallenge s) :=
  ite_leads (next_leads hs) (next_leads (emit_holds (modTrust_holds (draw_holds hs))))

theorem debugRecord_holds {p r} (hs : I.holds s) : I.holds (debugRecord s p r) := modPTrust_holds hs

theorem execDbgToken_leads {token signature} (hs : I.holds s) : I.leads (execDbgToken token signature s) :=
  ite_leads (next_leads hs) (ite_leads (next_leads (emit_holds (modTrust_holds hs))) (next_leads (emit_holds
    (foldl_holds (fun _ _ hs => debugRecord_holds hs) (modTrust_holds hs)))))

theorem execDbgLock_leads (hb : I.Free .blocks) (hs : I.holds s) : I.leads (execDbgLock s) :=
  ite_leads (next_leads hs) (next_leads (emit_holds (modTrust_holds (mk_blocks_holds hb hs))))

/-! ### Register writes -/

theorem modResetPut_holds {value} (hI : ∀ k, I.Free k) (hs : I.holds s) : I.holds (modResetPut value s) :=
  ite_holds (moduleReset_holds hI hs) hs

theorem execModReset_leads {src value} (hI : ∀ k, I.Free k) (hs : I.holds s) : I.leads (execModReset src value s) :=
  next_leads (globalWrite_holds (hI .blocks) (fun _ hs => modResetPut_holds hI hs) hs)

theorem intEnablePut_holds {value} (hs : I.holds s) : I.holds (intEnablePut value s) :=
  raiseSources_holds (modRegs_holds hs)

theorem execIntEnableWrite_leads {src value} (hb : I.Free .blocks) (hs : I.holds s) :
    I.leads (execIntEnableWrite src value s) :=
  next_leads (globalWrite_holds hb (fun _ hs => intEnablePut_holds hs) hs)

theorem putGlobal_holds {off value} (hI : ∀ k, I.Free k) (hs : I.holds s) : I.holds (putGlobal off value s) :=
  ite_holds (modResetPut_holds hI hs) (ite_holds (modRegs_holds hs) (ite_holds (intEnablePut_holds hs) (ite_holds
    (modRegs_holds hs) (ite_holds (modRegs_holds hs) hs))))

theorem commandPut_holds {cmd part} (hI : ∀ k, I.Free k) (hs : I.holds s) : I.holds (commandPut cmd part s) :=
  ite_holds (beginLoad_holds hs) (ite_holds (commitLoad_holds hs) (ite_holds (confirmLoad_holds hs) (ite_holds
    (abortLoad_holds hs) (ite_holds (openLoad_holds hI hs) (ite_holds (stopLoad_holds hs) hs)))))

theorem putLoader_holds {off value} (hI : ∀ k, I.Free k) (hs : I.holds s) : I.holds (putLoader off value s) :=
  ite_holds (commandPut_holds hI hs) (ite_holds (modLoader_holds hs) (ite_holds (modLoader_holds hs) (ite_holds
    (chunkWrite_holds hs) (ite_holds (modLoader_holds hs) hs))))

theorem putPower_holds {off value} (hI : ∀ k, I.Free k) (hs : I.holds s) : I.holds (putPower off value s) :=
  ite_holds (modPow_holds hs) (ite_holds (modPow_holds hs) (ite_holds (noteCauses_holds (modPow_holds hs)) (ite_holds
    (cutPut_holds hI hs) hs)))

theorem sendPut_holds {value} (hs : I.holds s) : I.holds (sendPut value s) := ite_holds (modMgmt_holds hs) hs

theorem rescanPut_holds {value} (hs : I.holds s) : I.holds (rescanPut value s) := ite_holds (modMgmt_holds hs) hs

theorem putPerger_holds {off value} (hs : I.holds s) : I.holds (putPerger off value s) := by
  simp only [putPerger]
  refine ite_holds (sendPut_holds hs) (ite_holds (rescanPut_holds hs) ?_)
  split
  · exact modMgmt_holds hs
  · exact hs

theorem putFaults_holds {off value} (hs : I.holds s) : I.holds (putFaults off value s) :=
  ite_holds (modFlt_holds hs) (ite_holds (modFlt_holds hs) (ite_holds (modFlt_holds hs) (ite_holds (modFlt_holds hs)
    hs)))

theorem putPort_holds {p off value} (hs : I.holds s) : I.holds (putPort p off value s) :=
  ite_holds (setPort_holds hs) (ite_holds (fpControl_holds hs) (ite_holds (fpCredits_holds hs) (ite_holds
    (fpCredits_holds hs) hs)))

theorem putRouting_holds {off value} (hI : ∀ k, I.Free k) (hs : I.holds s) : I.holds (putRouting off value s) :=
  ite_holds (routePut_holds hs) (ite_holds (devicePut_holds hs) (ite_holds (bankPut_holds hs) (ite_holds
    (bankPut_holds hs) (ite_holds (currentPut_holds hs) (ite_holds (modFab_holds hs) (ite_holds (modFab_holds hs)
    (ite_holds (modFab_holds hs) (ite_holds (modFab_holds hs) (ite_holds (modFab_holds hs) (ite_holds (modFab_holds
    hs) (ite_holds (modFab_holds hs) (ite_holds (modFab_holds hs) (ite_holds (clearPut_holds hI hs) hs)))))))))))))

theorem putMemory_holds {off value} (hs : I.holds s) : I.holds (putMemory off value s) :=
  ite_holds (modRegs_holds hs) hs

theorem putToll_holds {n off value} (hs : I.holds s) : I.holds (putToll n off value s) :=
  ite_holds (setToll_holds hs) (ite_holds (setToll_holds hs) (ite_holds (setToll_holds hs) hs))

theorem putQuantum_holds {r q value} (hs : I.holds s) : I.holds (putQuantum r q value s) :=
  ite_holds (setRoundabout_holds hs) hs

theorem putRaControl_holds {r value} (hs : I.holds s) : I.holds (putRaControl r value s) := setRoundabout_holds hs

theorem putSchedulers_holds {src off value} (hb : I.Free .blocks) (hs : I.holds s) :
    I.holds (putSchedulers src off value s) := by
  unfold putSchedulers
  dsimp only
  split
  · exact guarded_holds hb (fun _ hs => putToll_holds hs) hs
  · exact guarded_holds hb (fun _ hs => ite_holds (putQuantum_holds hs) hs) hs
  · exact guarded_holds hb (fun _ hs => putRaControl_holds hs) hs
  · exact guarded_holds hb (fun _ hs => ite_holds (setCrossing_holds hs) hs) hs
  · exact notOwned_holds hb hs

theorem putLane_holds {p n off value} (hl : I.Free .lanes) (hs : I.holds s) : I.holds (putLane p n off value s) :=
  ite_holds hs (ite_holds (setLane_items_holds hl rfl hs) (ite_holds (laneControl_holds hl hs) hs))

theorem putCtrRegs_holds {p off value} (hs : I.holds s) : I.holds (putCtrRegs p off value s) := by
  simp only [putCtrRegs]
  refine ite_holds (modPart_holds hs) ?_
  split
  · exact modPart_holds hs
  · exact hs

theorem putHandoff_holds {p off value} (hs : I.holds s) : I.holds (putHandoff p off value s) := by
  simp only [putHandoff]
  exact modPLast_holds hs

theorem putService_holds {p off value} (hs : I.holds s) : I.holds (putService p off value s) :=
  ite_holds (ite_holds (modPLast_holds hs) hs) (ite_holds (modHold_holds hs) hs)

theorem putAdmission_holds {p off value} (hs : I.holds s) : I.holds (putAdmission p off value s) := by
  simp only [putAdmission]
  exact modHold_holds hs

theorem putPartMemory_holds {p off value} (hs : I.holds s) : I.holds (putPartMemory p off value s) := by
  simp only [putPartMemory]
  refine ite_holds (modPMem_holds hs) (ite_holds (modPMem_holds hs) (ite_holds (modPMem_holds hs) (ite_holds
    (modPMem_holds hs) (ite_holds (modPMem_holds hs) ?_))))
  split
  · exact writeMap_holds hs
  · exact writeMap_holds hs
  · exact hs

theorem putTransport_holds {p off value} (hs : I.holds s) : I.holds (putTransport p off value s) := by
  simp only [putTransport]
  exact modXt_holds hs

theorem putPartition_holds {p off value} (hI : ∀ k, I.Free k) (hs : I.holds s) : I.holds (putPartition p off value s) := by
  unfold putPartition
  dsimp only
  split
  · exact putLane_holds (hI .lanes) hs
  · exact ite_holds (putCtrRegs_holds hs) (ite_holds (modPFault_holds hs) (ite_holds (faultControlPut_holds hI hs)
      (ite_holds (putHandoff_holds hs) (ite_holds (putService_holds hs) (ite_holds (putAdmission_holds hs) (ite_holds
      (putPartMemory_holds hs) (ite_holds (putTransport_holds hs) (ite_holds (modPart_holds hs) (ite_holds
      (modPTrust_holds hs) (ite_holds (modPPower_holds hs) hs))))))))))

theorem writePartition_holds {src p off value} (hI : ∀ k, I.Free k) (hs : I.holds s) :
    I.holds (writePartition src p off value s) := by
  simp only [writePartition]
  refine ite_holds (after_holds (execCtrValueWrite_leads (hI .counters) (hI .blocks) hs) hs) (ite_holds (after_holds
    (execCtrAddWrite_leads (hI .counters) (hI .blocks) hs) hs) (ite_holds (after_holds (execMigTailWrite_leads (hI
    .blocks) hs) hs) (ite_holds ?_ ?_)))
  · split
    · exact after_holds (execEnable_leads (hI .blocks) (hI .memory) hs) hs
    · exact after_holds (execEpDisable_leads hI hs) hs
    · exact after_holds (execEpFlush_leads hI hs) hs
    · exact partWrite_holds (hI .blocks) (fun _ hs => ite_holds (notOwned_holds (hI .blocks) hs) (putPartition_holds
        hI hs)) hs
  · split
    · exact after_holds (execCtrWaitArm_leads (hI .blocks) hs) hs
    · exact after_holds (execCancelSubmit_leads hI hs) hs
    · exact after_holds (execSrqTailWrite_leads (hI .blocks) hs) hs
    · exact partWrite_holds (hI .blocks) (fun _ hs => ite_holds (notOwned_holds (hI .blocks) hs) (putPartition_holds
        hI hs)) hs

theorem putAttn_holds {b off value} (hb : I.Free .blocks) (hs : I.holds s) : I.holds (putAttn b off value s) :=
  ite_holds (setAttn_holds hb hs) (ite_holds (setAttn_holds hb hs) (ite_holds (setAttn_holds hb hs) hs))

theorem putBlock_holds {b off value} (ha : I.Free .awls) (hb : I.Free .blocks) (hs : I.holds s) :
    I.holds (putBlock b off value s) := by
  simp only [putBlock]
  refine ite_holds (setEng_holds hb hs) (ite_holds (setEng_holds hb hs) (ite_holds (putAttn_holds hb hs) ?_))
  split
  · exact setAwl_holds ha hs
  · exact hs

theorem writeBlock_holds {src b off value} (hI : ∀ k, I.Free k) (hs : I.holds s) :
    I.holds (writeBlock src b off value s) := by
  simp only [writeBlock]
  refine ite_holds (after_holds (execEngLaunch_leads hI hs) hs) (ite_holds (after_holds (execEngStop_leads (hI
    .blocks) hs) hs) (ite_holds (after_holds (execAttnTailWrite_leads (hI .blocks) hs) hs) (ite_holds (after_holds
    (execAttnFlush_leads (hI .counters) (hI .blocks) hs) hs) (ite_holds (after_holds (execBlkHintWrite_leads (hI
    .blocks) hs) hs) (ite_holds (after_holds (execBlkPeerDelayWrite_leads (hI .blocks) hs) hs) ?_)))))
  split
  · exact after_holds (execAwlRingWrite_leads (hI .awls) (hI .blocks) hs) hs
  · exact after_holds (execAwlRingWrite_leads (hI .awls) (hI .blocks) hs) hs
  · exact after_holds (execAwlTailWrite_leads (hI .awls) (hI .blocks) hs) hs
  · exact after_holds (execAwlFlush_leads hI hs) hs
  · exact blockWrite_holds (hI .blocks) (fun _ hs => putBlock_holds (hI .awls) (hI .blocks) hs) hs

theorem registerPut_holds {src off value} (hI : ∀ k, I.Free k) (hs : I.holds s) :
    I.holds (registerPut s src off value) :=
  ite_holds (globalWrite_holds (hI .blocks) (fun _ hs => putGlobal_holds hI hs) hs) (ite_holds (globalWrite_holds (hI
    .blocks) (fun _ hs => putLoader_holds hI hs) hs) (ite_holds (globalWrite_holds (hI .blocks) (fun _ hs =>
    putPower_holds hI hs) hs) (ite_holds (globalWrite_holds (hI .blocks) (fun _ hs => putPerger_holds hs) hs)
    (ite_holds (globalWrite_holds (hI .blocks) (fun _ hs => putFaults_holds hs) hs) (ite_holds (globalWrite_holds
    (hI .blocks) (fun _ hs => putPort_holds hs) hs) (ite_holds (globalWrite_holds (hI .blocks) (fun _ hs =>
    putRouting_holds hI hs) hs) (ite_holds (globalWrite_holds (hI .blocks) (fun _ hs => putMemory_holds hs) hs)
    (ite_holds (putSchedulers_holds (hI .blocks) hs) (ite_holds (writePartition_holds hI hs) (ite_holds
    (writeBlock_holds hI hs) (notOwned_holds (hI .blocks) hs)))))))))))

theorem misaligned_holds {src off} (hs : I.holds s) : I.holds (misaligned s src off) := by
  unfold misaligned
  split
  · exact ite_holds (logAccess_holds hs) hs
  · exact logAccess_holds hs
  · exact ite_holds (logAccess_holds hs) hs
  · exact hs

/-! ### Host port and management -/

theorem bar4Read_holds {fn p a len} (hm : I.Free .memory) (hs : I.holds s) : I.holds (bar4Read s fn p a len) :=
  ite_holds (emit_holds hs) (ite_holds (emit_holds (homeRead_holds hm hs)) (emit_holds (homeRead_holds hm hs)))

theorem bar4Write_holds {p a bytes} (hm : I.Free .memory) (hs : I.holds s) : I.holds (bar4Write s p a bytes) :=
  ite_holds (homeWrite_holds hm hs) hs

theorem refuseRead_holds {acc e} (hs : I.holds s) : I.holds (refuseRead s acc e) := by
  unfold refuseRead
  split
  · exact emit_holds hs
  · exact hs

theorem execHostBar4Access_leads {fn offset acc} (hm : I.Free .memory) (hs : I.holds s) :
    I.leads (execHostBar4Access fn offset acc s) := by
  simp only [execHostBar4Access]
  refine ite_leads (next_leads (refuseRead_holds hs)) (ite_leads (next_leads (refuseRead_holds hs)) ?_)
  split
  · exact next_leads (bar4Read_holds hm (eccMet_holds hm hs))
  · exact next_leads (bar4Write_holds hm hs)

theorem execPerst_leads {low} (hs : I.holds s) : I.leads (execPerst low s) :=
  ite_leads (next_leads hs) (next_leads (modMgmt_holds hs))

theorem execFunctionLevelReset_leads {fn} (hs : I.holds s) : I.leads (execFunctionLevelReset fn s) :=
  ite_leads (next_leads hs) (next_leads (modMgmt_holds hs))

theorem createQueues_holds {d} (hs : I.holds s) : I.holds (createQueues s d) :=
  foldl_holds (fun _ _ hs => emit_holds hs) hs

theorem drivePresent_holds {d f} (hI : ∀ k, I.Free k) (hs : I.holds s) : I.holds (drivePresent s d f) :=
  ite_else_holds (driveFails_holds hI) (upd_holds (fun _ hs => setDrive_holds hs) (ite_self_holds createQueues_holds
    (emit_holds (emit_holds hs))))

theorem meetFunction_holds {f} (hI : ∀ k, I.Free k) (hs : I.holds s) : I.holds (meetFunction s f) := by
  simp only [meetFunction]
  split
  · exact drivePresent_holds hI hs
  · split
    · exact drivePresent_holds hI hs
    · exact upd_holds (fun _ hs => modMgmt_holds hs) hs

theorem missDrive_holds {d} (hI : ∀ k, I.Free k) (hs : I.holds s) : I.holds (missDrive s d) :=
  ite_holds (driveFails_holds hI hs) (ite_holds hs (upd_holds (fun _ hs => modMgmt_holds hs) hs))

theorem enumerate_holds {found} (hI : ∀ k, I.Free k) (hs : I.holds s) : I.holds (enumerate s found) :=
  emit_holds (modMgmt_holds (foldl_holds (fun _ _ hs => meetFunction_holds hI hs) (foldl_holds (fun _ _ hs =>
    missDrive_holds hI hs) (modMgmt_holds hs))))

theorem execRescan_leads {src value found} (hI : ∀ k, I.Free k) (hs : I.holds s) :
    I.leads (execRescan src value found s) :=
  next_leads (ite_self_holds (enumerate_holds hI) (globalWrite_holds (hI .blocks) (fun _ hs => rescanPut_holds hs)
    hs))

theorem execIdentify_leads {m} (hs : I.holds s) : I.leads (execIdentify m s) :=
  next_leads (query_holds (fun _ hs => hs) hs)

theorem onRegisters_holds {off n f} (hf : I.holds f.2.2) (hs : I.holds s) : I.holds (onRegisters s off n f).2.2 := by
  unfold onRegisters
  split
  · exact hs
  · split
    · exact plain_holds (misaligned_holds hs)
    · split
      · exact hf
      · exact hs

theorem execReadReg_leads {m offset count} (hs : I.holds s) : I.leads (execReadReg m offset count s) :=
  next_leads (query_holds (fun _ hs => onRegisters_holds hs hs) hs)

theorem execWriteReg_leads {m offset values} (hI : ∀ k, I.Free k) (hs : I.holds s) :
    I.leads (execWriteReg m offset values s) :=
  next_leads (control_holds (fun _ hs => onRegisters_holds (foldl_holds (fun _ _ h => registerPut_holds hI h) hs) hs) hs)

theorem installMap_holds {comp epoch total first entries} (hs : I.holds s) :
    I.holds (installMap s comp epoch total first entries).2.2 := by
  simp only [installMap]
  split
  · exact plain_holds hs
  · split
    · dsimp only
      exact modMgmt_holds hs
    · split
      · exact plain_holds (modMgmt_holds hs)
      · dsimp only
        exact modMgmt_holds hs

theorem execMapInstall_leads {m comp epoch total first entries} (hs : I.holds s) :
    I.leads (execMapInstall m comp epoch total first entries s) :=
  next_leads (control_holds (fun _ hs => installMap_holds hs) hs)

theorem switchMap_holds {comp epoch} (hs : I.holds s) : I.holds (switchMap s comp epoch).2.2 := by
  simp only [switchMap]
  split
  · exact plain_holds hs
  · exact plain_holds (foldl_holds (fun _ _ hs => recordEvent_holds hs) (recordEvent_holds (modMgmt_holds hs)))

theorem execMapSwitch_leads {m comp epoch} (hs : I.holds s) : I.leads (execMapSwitch m comp epoch s) :=
  next_leads (control_holds (fun _ hs => switchMap_holds hs) hs)

theorem retireMap_holds {comp epoch} (hm : I.Free .memory) (hs : I.holds s) : I.holds (retireMap s comp epoch).2.2 := by
  simp only [retireMap]
  split
  · split
    · exact plain_holds hs
    · exact plain_holds (holdersLeave_holds hm (foldl_holds (fun _ _ hs => recordEvent_holds hs) (modMgmt_holds hs)))
  · split
    · exact plain_holds hs
    · exact plain_holds (holdersLeave_holds hm (dissolve_holds hs))
  · exact plain_holds hs

theorem execMapRetire_leads {m comp epoch} (hm : I.Free .memory) (hs : I.holds s) :
    I.leads (execMapRetire m comp epoch s) := next_leads (control_holds (fun _ hs => retireMap_holds hm hs) hs)

theorem execMapRead_leads {m comp epoch first} (hs : I.holds s) : I.leads (execMapRead m comp epoch first s) := by
  unfold execMapRead
  refine next_leads (query_holds ?_ hs)
  intro x hs
  split
  · exact plain_holds hs
  · exact hs

theorem execEventsRead_leads {m seq} (hs : I.holds s) : I.leads (execEventsRead m seq s) :=
  next_leads (query_holds (fun _ hs => hs) hs)

theorem ackEvents_holds {seq} (hs : I.holds s) : I.holds (ackEvents s seq) :=
  ite_holds (modMgmt_holds hs) (keepEvent_holds (modMgmt_holds (modMgmt_holds hs)))

theorem execEventsAck_leads {m seq} (hs : I.holds s) : I.leads (execEventsAck m seq s) :=
  next_leads (control_holds (fun _ hs => plain_holds (ackEvents_holds hs)) hs)

theorem execNoticeRead_leads {m} (hs : I.holds s) : I.leads (execNoticeRead m s) := by
  unfold execNoticeRead
  refine next_leads (query_holds ?_ hs)
  intro x hs
  split
  · exact plain_holds hs
  · exact mk_holds (trayUpdate_holds (modMgmt_holds hs))

theorem execTelemetrySet_leads {m period} (hs : I.holds s) : I.leads (execTelemetrySet m period s) := by
  unfold execTelemetrySet
  refine next_leads (control_holds ?_ hs)
  intro x hs
  split
  · exact plain_holds hs
  · exact plain_holds (modMgmt_holds hs)

theorem execTelemetry_leads (hs : I.holds s) : I.leads (execTelemetry s) :=
  ite_leads (next_leads hs) (next_leads (sendNotice_holds (modMgmt_holds hs)))

theorem execAlignSet_leads {m source fromDevice targets} (hs : I.holds s) :
    I.leads (execAlignSet m source fromDevice targets s) := by
  unfold execAlignSet
  refine next_leads (control_holds ?_ hs)
  intro x hs
  split
  · exact plain_holds hs
  · exact plain_holds (modMgmt_holds hs)

theorem execReset_leads {m} (hI : ∀ k, I.Free k) (hs : I.holds s) : I.leads (execReset m s) := by
  unfold execReset
  refine next_leads (control_holds ?_ hs)
  intro x hs
  split
  · exact plain_holds hs
  · exact plain_holds (moduleReset_holds hI hs)

/-! ### Management messages in pieces -/

theorem mgmtPlain_holds {x} (hs : I.holds s) : I.holds (mgmtPlain x s) :=
  ite_holds (after_holds (execIdentify_leads hs) hs) (ite_holds (after_holds (execReadReg_leads hs) hs) (ite_holds
    (after_holds (execMapRead_leads hs) hs) (ite_holds (after_holds (execEventsRead_leads hs) hs) (ite_holds
    (after_holds (execNoticeRead_leads hs) hs) (mgmtRequest_holds (fun _ hs => plain_holds hs) hs)))))

theorem relayOn_holds {m device mctp} (hs : I.holds s) : I.holds (relayOn s m device mctp) :=
  ite_holds hs (modMgmt_holds (originate0_holds hs))

theorem mgmtBytesIn_holds {path bs} (hs : I.holds s) : I.holds (mgmtBytesIn s path bs) :=
  ite_holds hs (ite_holds (relayOn_holds hs) (mgmtPlain_holds hs))

theorem execRelay_leads {m device bytes} (hs : I.holds s) : I.leads (execRelay m device bytes s) :=
  ite_leads (next_leads hs) (ite_leads (next_leads (relayOn_holds (noteAddress_holds hs))) (ite_leads (next_leads
    (mgmtBytesIn_holds hs)) (next_leads hs)))

theorem relayIn_holds {d bs count} (hs : I.holds s) : I.holds (relayIn s d bs count) := by
  simp only [relayIn]
  split
  · split
    · exact mailboxReply_holds (modMgmt_holds hs)
    · exact originate0_holds (modMgmt_holds hs)
    · exact emit_holds (modMgmt_holds hs)
  · exact ite_holds (mgmtBytesIn_holds hs) (emit_holds hs)

theorem mailboxSend_holds (hs : I.holds s) : I.holds (mailboxSend s) :=
  ite_holds hs (ite_holds (modMgmt_holds (mgmtBytesIn_holds hs)) (mgmtBytesIn_holds hs))

theorem doorbellPut_holds {fn value} (hb : I.Free .blocks) (hs : I.holds s) : I.holds (doorbellPut fn value s) :=
  ite_holds (mailboxSend_holds (globalWrite_holds hb (fun _ hs => sendPut_holds hs) hs)) (globalWrite_holds hb (fun _
    hs => sendPut_holds hs) hs)

theorem execSend_leads {fn value} (hb : I.Free .blocks) (hs : I.holds s) : I.leads (execSend fn value s) :=
  next_leads (doorbellPut_holds hb hs)

theorem execRegisterWrite_leads {src offset width value} (hI : ∀ k, I.Free k) (hs : I.holds s) :
    I.leads (execRegisterWrite src offset width value s) := by
  simp only [execRegisterWrite]
  refine ite_leads (next_leads (misaligned_holds hs)) ?_
  split
  · exact next_leads (ite_holds (doorbellPut_holds (hI .blocks) hs) (registerPut_holds hI hs))
  · exact next_leads (registerPut_holds hI hs)

theorem class0Packet_holds {bs} (hs : I.holds s) : I.holds (class0Packet s bs) :=
  ite_holds (ite_holds (alignLists_holds hs) hs) (ite_holds (relayIn_holds hs) hs)

theorem execPacketDelivered_leads {packet} (hI : ∀ k, I.Free k) (hs : I.holds s) :
    I.leads (execPacketDelivered packet s) :=
  ite_leads (next_leads hs) (ite_leads (next_leads (modFab_holds hs)) (ite_leads (next_leads (class0Packet_holds hs))
    (ite_leads (transportPacket_leads hI hs) (next_leads (dropLength_holds hs)))))

/-! ### Power sequences and pins -/

theorem runBoot_holds (hs : I.holds s) : I.holds (runBoot s) := trayUpdate_holds (modTrust_holds hs)

theorem flashAtPowerDown_holds (hs : I.holds s) : I.holds (flashAtPowerDown s) := by
  simp only [flashAtPowerDown]
  split
  · exact confirmDone_holds hs
  · exact ite_holds (modLoader_holds (confirmDone_holds hs)) (confirmDone_holds hs)

theorem loseVolatile_holds {c keepLog} (hI : ∀ k, I.Free k) (hs : I.holds s) : I.holds (loseVolatile s c keepLog) :=
  all_holds hI (fun _ => rfl) (fun _ => rfl) hs

theorem pinsDown_holds (hs : I.holds s) : I.holds (pinsDown s) :=
  foldl_holds (fun _ _ hs => ite_self_holds emit_holds (ite_holds (emit_holds hs) hs)) (ite_self_holds emit_holds
    (ite_holds hs (emit_holds hs)))

theorem startPowerDown_holds {forReset} (hI : ∀ k, I.Free k) (hs : I.holds s) : I.holds (startPowerDown s forReset) := by
  simp only [startPowerDown]
  exact modSled_holds (loseVolatile_holds hI (pinsDown_holds (flashAtPowerDown_holds hs)))

theorem powerDown_holds {forReset} (hI : ∀ k, I.Free k) (hs : I.holds s) : I.holds (powerDown s forReset) :=
  ite_holds hs (startPowerDown_holds hI hs)

theorem enterKept_holds (hI : ∀ k, I.Free k) (hs : I.holds s) : I.holds (enterKept s) :=
  runBoot_holds (recordEvent_holds (modMgmt_holds (modSled_holds (mk_holds (loseVolatile_holds hI hs)))))

theorem execKeptEntry_leads (hI : ∀ k, I.Free k) (hs : I.holds s) : I.leads (execKeptEntry s) :=
  ite_leads (next_leads (enterKept_holds hI hs)) (ite_leads (next_leads (runBoot_holds hs)) (next_leads hs))

theorem execInputPowerArrive_leads {milliVolts pwrGood coolantOk resetN} (hs : I.holds s) :
    I.leads (execInputPowerArrive milliVolts pwrGood coolantOk resetN s) :=
  ite_leads fault_leads (ite_leads (next_leads hs) (next_leads (modSled_holds hs)))

theorem execBootMemoryStart_leads {dimms stackIds} (hs : I.holds s) : I.leads (execBootMemoryStart dimms stackIds s) :=
  ite_leads (next_leads hs) (ite_leads (next_leads (ite_holds hs (runBoot_holds hs))) (next_leads (startPending_holds
    (modPow_holds (modSled_holds (ite_holds hs (runBoot_holds hs)))))))

theorem execVerifiedEntry_leads (hI : ∀ k, I.Free k) (hs : I.holds s) : I.leads (execVerifiedEntry s) :=
  ite_leads (next_leads hs) (next_leads (restore_holds hI (portsRest_holds (setModState_holds (modPow_holds
    (modTrust_holds hs))))))

theorem execPwrGoodFall_leads {samples} (hI : ∀ k, I.Free k) (hs : I.holds s) : I.leads (execPwrGoodFall samples s) :=
  ite_leads (next_leads hs) (next_leads (modSled_holds (powerDown_holds hI hs)))

theorem noteInput_holds {milliVolts heldUs} (hs : I.holds s) : I.holds (noteInput s milliVolts heldUs) := by
  simp only [noteInput]
  exact modSled_holds hs

theorem execInputVoltageFault_leads {milliVolts heldUs} (hI : ∀ k, I.Free k) (hs : I.holds s) :
    I.leads (execInputVoltageFault milliVolts heldUs s) :=
  ite_leads fault_leads (ite_leads (next_leads (modSled_holds (powerDown_holds hI (noteInput_holds hs)))) (ite_leads
    (next_leads (modSled_holds (powerDown_holds hI (noteInput_holds hs)))) (next_leads (noteInput_holds hs))))

theorem execPowerDownDone_leads {pwrGood} (hI : ∀ k, I.Free k) (hs : I.holds s) :
    I.leads (execPowerDownDone pwrGood s) :=
  ite_leads (next_leads hs) (next_leads (ite_holds (enterKept_holds hI (modSled_holds hs)) (modSled_holds hs)))

theorem execModuleResetN_leads {high samples} (hI : ∀ k, I.Free k) (hs : I.holds s) :
    I.leads (execModuleResetN high samples s) :=
  ite_leads (next_leads hs) (next_leads (ite_self_holds (enterKept_holds hI) (modSled_holds (ite_holds hs
    (powerDown_holds hI hs)))))

theorem execOvervoltageHoldExpire_leads {milliVolts below58Us} (hs : I.holds s) :
    I.leads (execOvervoltageHoldExpire milliVolts below58Us s) :=
  ite_leads (next_leads hs) (next_leads (modSled_holds hs))

theorem cagePorts_holds {g} (hs : I.holds s) : I.holds (cagePorts s g) := portRest_holds (portRest_holds hs)

theorem execCabPresent_leads {g high} (hs : I.holds s) : I.leads (execCabPresent g high s) :=
  ite_leads (next_leads (modSled_holds hs)) (next_leads (ite_self_holds cagePorts_holds (cageUpdate_holds
    (modSled_holds hs))))

theorem execCabOvercurrent_leads {g milliAmps} (hs : I.holds s) : I.leads (execCabOvercurrent g milliAmps s) :=
  ite_leads (next_leads hs) (next_leads (cagePorts_holds (cageUpdate_holds (modSled_holds hs))))

theorem execCabResetRelease_leads {g} (hs : I.holds s) : I.leads (execCabResetRelease g s) :=
  ite_leads (next_leads (emit_holds (modSled_holds hs))) (next_leads hs)

theorem execPortBPerstRelease_leads (hs : I.holds s) : I.leads (execPortBPerstRelease s) := by
  unfold execPortBPerstRelease
  split
  · exact next_leads hs
  · exact ite_leads (next_leads (emit_holds (modMgmt_holds hs))) (next_leads hs)

theorem execPcieLinkTrain_leads {portB up rate width} (hs : I.holds s) :
    I.leads (execPcieLinkTrain portB up rate width s) := ite_leads (next_leads hs) (next_leads (modMgmt_holds hs))

theorem execMgmtLinkChange_leads {link up} (hs : I.holds s) : I.leads (execMgmtLinkChange link up s) :=
  ite_leads (next_leads hs) (next_leads (modMgmt_holds hs))

theorem debugAccess_holds {p acc} (hI : ∀ k, I.Free k) (hs : I.holds s) : I.holds (debugAccess p acc s) := by
  simp only [debugAccess]
  split
  · exact emit_holds hs
  · exact emit_holds (setBlock_holds (hI .blocks) hs)
  · exact emit_holds hs
  · exact emit_holds (registerPut_holds hI hs)
  · exact emit_holds (homeRead_holds (hI .memory) hs)
  · exact emit_holds (homeWrite_holds (hI .memory) hs)

theorem execTapInstruction_leads {i} (hI : ∀ k, I.Free k) (hs : I.holds s) : I.leads (execTapInstruction i s) := by
  simp only [execTapInstruction]
  refine ite_leads (next_leads hs) (ite_leads (next_leads (emit_holds hs)) ?_)
  split
  · exact next_leads (emit_holds (draw_holds (modTrust_holds hs)))
  · exact next_leads (debugAccess_holds hI (modTrust_holds hs))
  · exact next_leads (emit_holds (modTrust_holds hs))

theorem execDebugFlashAccess_leads {acc} (hs : I.holds s) : I.leads (execDebugFlashAccess acc s) := by
  simp only [execDebugFlashAccess]
  refine ite_leads (next_leads hs) ?_
  split
  · exact next_leads (emit_holds hs)
  · exact next_leads (fwWrite_holds hs)

/-! ### Every command -/

/-- Every command leaves true what no sound change ends. -/
theorem exec_leads (c : Instr) (hI : ∀ k, I.Free k) (hs : I.holds s) : I.leads (exec c s) := by
  cases c with
  | patBegin => exact execPatBegin_leads (hI .blocks) hs
  | patChunk => exact execPatChunk_leads (hI .blocks) hs
  | chunkDone => exact execChunkDone_leads hs
  | patCommit _ part => exact execPatCommit_leads (part := part) (hI .blocks) hs
  | commitFlashDone => exact execCommitFlashDone_leads hI hs
  | patConfirm => exact execPatConfirm_leads (hI .blocks) hs
  | confirmRecordDone => exact execConfirmRecordDone_leads hs
  | confirmExpired => exact execConfirmExpired_leads hs
  | patAbort _ part => exact execPatAbort_leads (part := part) (hI .blocks) hs
  | patOpen => exact execPatOpen_leads hI hs
  | patStop => exact execPatStop_leads (hI .blocks) hs
  | stopDrain => exact execStopDrain_leads (hI .lanes) (hI .memory) hs
  | laneWrite => exact execLaneWrite_leads (hI .lanes) (hI .blocks) hs
  | laneRead => exact execLaneRead_leads (hI .lanes) (hI .blocks) hs
  | staleTimer => exact execStaleTimer_leads (hI .lanes) hs
  | hostSlotWrite => exact execHostSlotWrite_leads (hI .lanes) hs
  | hostSlotRead => exact execHostSlotRead_leads (hI .lanes) hs
  | laneControlWrite => exact execLaneControlWrite_leads (hI .lanes) (hI .blocks) hs
  | outputBacklogDrain => exact execOutputBacklogDrain_leads hI hs
  | counterAdd => exact execCounterAdd_leads hI hs
  | counterSet => exact execCounterSet_leads hI hs
  | ctrAddWrite => exact execCtrAddWrite_leads (hI .counters) (hI .blocks) hs
  | ctrValueWrite => exact execCtrValueWrite_leads (hI .counters) (hI .blocks) hs
  | ctrWaitArm => exact execCtrWaitArm_leads (hI .blocks) hs
  | counterWaitRelease => exact execCounterWaitRelease_leads (hI .blocks) hs
  | awlTailWrite => exact execAwlTailWrite_leads (hI .awls) (hI .blocks) hs
  | awlRingWrite => exact execAwlRingWrite_leads (hI .awls) (hI .blocks) hs
  | move => exact execMove_leads hI hs
  | fill => exact execFill_leads hI hs
  | tack => exact execTack_leads hI hs
  | awlWaitRelease => exact execAwlWaitRelease_leads hI hs
  | awlRequestDone => exact execAwlRequestDone_leads hI hs
  | awlDescriptorComplete => exact execAwlDescriptorComplete_leads hI hs
  | awlFlush => exact execAwlFlush_leads hI hs
  | admissionItemTaken => exact execAdmissionItemTaken_leads (hI .lanes) hs
  | signpostWalkDone => exact execSignpostWalkDone_leads hs
  | tollgateRefill => exact execTollgateRefill_leads (hI .lanes) hs
  | prefixCopyCheck => exact execPrefixCopyCheck_leads (hI .awls) (hI .memory) hs
  | openLast => exact execOpenLast_leads (hI .memory) hs
  | openPartner => exact execOpenPartner_leads (hI .memory) hs
  | commit => exact execCommit_leads (hI .memory) hs
  | commitHeldResume => exact execCommitHeldResume_leads (hI .memory) hs
  | release => exact execRelease_leads (hI .memory) hs
  | transfer => exact execTransfer_leads (hI .memory) hs
  | query => exact execQuery_leads (hI .memory) hs
  | queryChunksDone => exact execQueryChunksDone_leads (hI .memory) hs
  | handoff => exact execHandoff_leads (hI .awls) (hI .memory) hs
  | cancel => exact execCancel_leads hI hs
  | grow => exact execGrow_leads (hI .memory) hs
  | serviceReply => exact execServiceReply_leads hI hs
  | grantReceived => exact execGrantReceived_leads hI hs
  | transferReply => exact execTransferReply_leads hI hs
  | handoffReply => exact execHandoffReply_leads hI hs
  | serviceTimeout => exact execServiceTimeout_leads hI hs
  | handoffNextDue => exact execHandoffNextDue_leads hI hs
  | lastGrowthCopyDone => exact execLastGrowthCopyDone_leads (hI .memory) hs
  | lastOldFootprintFree => exact execLastOldFootprintFree_leads hs
  | lastPromotionDone => exact execLastPromotionDone_leads (hI .memory) hs
  | lastTtlCheck => exact execLastTtlCheck_leads (hI .memory) hs
  | lastTierMoveDone => exact execLastTierMoveDone_leads (hI .memory) hs
  | lastRebuild => exact execLastRebuild_leads hs
  | cancelSubmit => exact execCancelSubmit_leads hI hs
  | forwardingExpire => exact execForwardingExpire_leads hs
  | stepBoundary => exact execStepBoundary_leads hI hs
  | stepCommit => exact execStepCommit_leads hI hs
  | queryWaitExpire => exact execQueryWaitExpire_leads (hI .awls) (hI .memory) hs
  | firstDueExpire => exact execFirstDueExpire_leads hI hs
  | contextSwapIn => exact execContextSwapIn_leads hs
  | ctxBlockExpire => exact execCtxBlockExpire_leads hs
  | swapInDone => exact execSwapInDone_leads (hI .memory) hs
  | roundaboutSelect => exact execRoundaboutSelect_leads (hI .lanes) hs
  | sendMessage => exact execSendMessage_leads hI hs
  | sendRelease => exact execSendRelease_leads (hI .awls) hs
  | crossingEntryStart => exact execCrossingEntryStart_leads (hI .counters) hs
  | alignInEdge => exact execAlignInEdge_leads hs
  | align _ count => exact execAlign_leads (count := count) hs
  | engLaunch => exact execEngLaunch_leads hI hs
  | engStop => exact execEngStop_leads (hI .blocks) hs
  | engineRunEnd => exact execEngineRunEnd_leads (hI .counters) (hI .blocks) hs
  | mac => exact execMac_leads (hI .blocks) hs
  | vectorSpecial => exact execVectorSpecial_leads hs
  | compact => exact execCompact_leads (hI .blocks) (hI .memory) hs
  | benchLoad => exact execBenchLoad_leads (hI .blocks) (hI .memory) hs
  | exchange => exact execExchange_leads (hI .blocks) (hI .memory) hs
  | barrier => exact execBarrier_leads hs
  | barrierRelease => exact execBarrierRelease_leads hs
  | endRun => exact execEndRun_leads hs
  | cobblerAccessFault _ _ addr => exact execCobblerAccessFault_leads (addr := addr) (hI .blocks) hs
  | attnTailWrite => exact execAttnTailWrite_leads (hI .blocks) hs
  | attend => exact execAttend_leads hI hs
  | attendComplete => exact execAttendComplete_leads hI hs
  | attnFlush => exact execAttnFlush_leads (hI .counters) (hI .blocks) hs
  | migTailWrite => exact execMigTailWrite_leads (hI .blocks) hs
  | movePages => exact execMovePages_leads (hI .counters) (hI .memory) hs
  | pageMoveDone => exact execPageMoveDone_leads (hI .memory) hs
  | migrationEntryDone => exact execMigrationEntryDone_leads (hI .counters) hs
  | nvmeCompletion _ _ _ status _ => exact execNvmeCompletion_leads (status := status) hI hs
  | nvTimeout => exact execNvTimeout_leads hI hs
  | nvMappingWrite => exact execNvMappingWrite_leads (hI .blocks) hs
  | patrolScrub => exact execPatrolScrub_leads (hI .memory) hs
  | serdesGroupWake => exact execSerdesGroupWake_leads hs
  | trainingDone => exact execTrainingDone_leads hs
  | trainingTimeout => exact execTrainingTimeout_leads hs
  | hello => exact execHello_leads hs
  | helloTimer => exact execHelloTimer_leads hs
  | helloMissing => exact execHelloMissing_leads hs
  | downRetrain => exact execDownRetrain_leads hs
  | codewordReceived => exact execCodewordReceived_leads hs
  | credit => exact execCredit_leads hs
  | creditTimer => exact execCreditTimer_leads hs
  | sync => exact execSync_leads hs
  | syncTimer => exact execSyncTimer_leads hs
  | packetHeader => exact execPacketHeader_leads hs
  | packetDelivered => exact execPacketDelivered_leads hI hs
  | portTransmit => exact execPortTransmit_leads hs
  | retrain => exact execRetrain_leads (hI .blocks) hs
  | disable => exact execDisable_leads (hI .blocks) hs
  | fpCreditsWrite => exact execFpCreditsWrite_leads (hI .blocks) hs
  | routeWrite => exact execRouteWrite_leads (hI .blocks) hs
  | fabBankWrite => exact execFabBankWrite_leads (hI .blocks) hs
  | fabCurrentWrite => exact execFabCurrentWrite_leads (hI .blocks) hs
  | fabDeviceWrite => exact execFabDeviceWrite_leads (hI .blocks) hs
  | read => exact execRead_leads (hI .memory) hs
  | write => exact execWrite_leads (hI .memory) hs
  | atomic => exact execAtomic_leads (hI .memory) hs
  | squareLineFill => exact execSquareLineFill_leads (hI .memory) hs
  | message => exact execMessage_leads hI hs
  | readData => exact execReadData_leads hI hs
  | atomicData => exact execAtomicData_leads hI hs
  | ack => exact execAck_leads hI hs
  | ackTimer => exact execAckTimer_leads hs
  | resendTimer => exact execResendTimer_leads (hI .awls) (hI .memory) hs
  | targetTimeout => exact execTargetTimeout_leads hI hs
  | peerContextFree => exact execPeerContextFree_leads hI hs
  | kerbsideFetchDone => exact execKerbsideFetchDone_leads hI hs
  | epEmptyExpire => exact execEpEmptyExpire_leads (hI .memory) hs
  | enable => exact execEnable_leads (hI .blocks) (hI .memory) hs
  | epDisable => exact execEpDisable_leads hI hs
  | epFlush => exact execEpFlush_leads hI hs
  | srqTailWrite => exact execSrqTailWrite_leads (hI .blocks) hs
  | clear => exact execClear_leads hI hs
  | cobblerFence => exact execCobblerFence_leads hs
  | hostBar4Access => exact execHostBar4Access_leads (hI .memory) hs
  | perst => exact execPerst_leads hs
  | functionLevelReset => exact execFunctionLevelReset_leads hs
  | rescan => exact execRescan_leads hI hs
  | send => exact execSend_leads (hI .blocks) hs
  | identify => exact execIdentify_leads hs
  | readReg => exact execReadReg_leads hs
  | writeReg => exact execWriteReg_leads hI hs
  | mapInstall => exact execMapInstall_leads hs
  | mapSwitch => exact execMapSwitch_leads hs
  | mapRetire => exact execMapRetire_leads (hI .memory) hs
  | mapRead => exact execMapRead_leads hs
  | eventsRead => exact execEventsRead_leads hs
  | eventsAck => exact execEventsAck_leads hs
  | noticeRead => exact execNoticeRead_leads hs
  | telemetrySet => exact execTelemetrySet_leads hs
  | telemetry => exact execTelemetry_leads hs
  | alignSet => exact execAlignSet_leads hs
  | reset => exact execReset_leads hI hs
  | relay => exact execRelay_leads hs
  | report => exact execReport_leads hs
  | endorsement => exact execEndorsement_leads hs
  | slotWrite => exact execSlotWrite_leads hs
  | policySet => exact execPolicySet_leads hs
  | reclaim => exact execReclaim_leads hI hs
  | fwStage => exact execFwStage_leads hs
  | bind => exact execBind_leads hs
  | verifyWeights => exact execVerifyWeights_leads hs
  | verifyWeightsDone => exact execVerifyWeightsDone_leads (hI .memory) hs
  | keyRotate => exact execKeyRotate_leads hs
  | sweepPageDone => exact execSweepPageDone_leads (hI .memory) hs
  | keyRetire => exact execKeyRetire_leads hs
  | generationRetired => exact execGenerationRetired_leads hs
  | signatureDone => exact execSignatureDone_leads hs
  | getVersion => exact execGetVersion_leads hs
  | getCapabilities => exact execGetCapabilities_leads hs
  | negotiateAlgorithms => exact execNegotiateAlgorithms_leads hs
  | challenge => exact execChallenge_leads hs
  | keyExchange => exact execKeyExchange_leads hs
  | heartbeat => exact execHeartbeat_leads hs
  | keyUpdate => exact execKeyUpdate_leads hs
  | endSession => exact execEndSession_leads hs
  | chunkSend => exact execChunkSend_leads hI hs
  | chunkGet => exact execChunkGet_leads hs
  | scrubDone => exact execScrubDone_leads hI hs
  | dbgChallenge => exact execDbgChallenge_leads hs
  | dbgToken => exact execDbgToken_leads hs
  | dbgLock => exact execDbgLock_leads (hI .blocks) hs
  | clockLoopTick => exact execClockLoopTick_leads hs
  | powerEstimateTick => exact execPowerEstimateTick_leads hs
  | calibrationTick => exact execCalibrationTick_leads hs
  | fastLimit => exact execFastLimit_leads hs
  | fastLimitClear => exact execFastLimitClear_leads hs
  | startGrant => exact execStartGrant_leads (hI .blocks) hs
  | blockOffTimer => exact execBlockOffTimer_leads (hI .blocks) (hI .memory) hs
  | blockWakeDone => exact execBlockWakeDone_leads (hI .blocks) (hI .memory) hs
  | blkHintWrite => exact execBlkHintWrite_leads (hI .blocks) hs
  | blkArriveRead => exact execBlkArriveRead_leads (hI .blocks) hs
  | blkPeerDelayWrite => exact execBlkPeerDelayWrite_leads (hI .blocks) hs
  | followExpire => exact execFollowExpire_leads hs
  | cutEntry => exact execCutEntry_leads (hI .blocks) (hI .memory) hs
  | resume => exact execResume_leads hI hs
  | doubtCheck => exact execDoubtCheck_leads (hI .blocks) hs
  | quiesce => exact execQuiesce_leads hI hs
  | quiesced => exact execQuiesced_leads (hI .awls) (hI .memory) hs
  | leaseExpire => exact execLeaseExpire_leads hI hs
  | selftestDone => exact execSelftestDone_leads hI hs
  | graceExpire => exact execGraceExpire_leads hI hs
  | leaseRenew => exact execLeaseRenew_leads hs
  | fence => exact execFence_leads hI hs
  | reinstate => exact execReinstate_leads hI hs
  | standIn => exact execStandIn_leads hI hs
  | teardown => exact execTeardown_leads hI hs
  | doubtRelease => exact execDoubtRelease_leads hs
  | inputPowerArrive => exact execInputPowerArrive_leads hs
  | keptEntry => exact execKeptEntry_leads hI hs
  | bootMemoryStart => exact execBootMemoryStart_leads hs
  | verifiedEntry => exact execVerifiedEntry_leads hI hs
  | pwrGoodFall => exact execPwrGoodFall_leads hI hs
  | inputVoltageFault => exact execInputVoltageFault_leads hI hs
  | powerDownDone => exact execPowerDownDone_leads hI hs
  | moduleResetN => exact execModuleResetN_leads hI hs
  | cabPresent => exact execCabPresent_leads hs
  | cabOvercurrent => exact execCabOvercurrent_leads hs
  | modReset => exact execModReset_leads hI hs
  | intEnableWrite => exact execIntEnableWrite_leads (hI .blocks) hs
  | registerWrite => exact execRegisterWrite_leads hI hs
  | vector => exact execVector_leads hs
  | benchStore => exact execBenchStore_leads (hI .blocks) (hI .memory) hs
  | cobblerLoadStore => exact execCobblerLoadStore_leads (hI .blocks) (hI .memory) hs
  | overvoltageHoldExpire => exact execOvervoltageHoldExpire_leads hs
  | nvmeDriveFailed => exact execNvmeDriveFailed_leads hI hs
  | pcieLinkTrain => exact execPcieLinkTrain_leads hs
  | mgmtLinkChange => exact execMgmtLinkChange_leads hs
  | cabResetRelease => exact execCabResetRelease_leads hs
  | portBPerstRelease => exact execPortBPerstRelease_leads hs
  | tapInstruction => exact execTapInstruction_leads hI hs
  | debugFlashAccess => exact execDebugFlashAccess_leads hs

/-- A step leaves true what no sound change ends. -/
theorem step_leads (hI : ∀ k, I.Free k) (hs : I.holds s) : I.leads (step s) := by
  cases h : s.pending with
  | nil =>
    rw [step_of_pending_nil h]
    exact next_leads (ite_holds hs (mk_holds hs))
  | cons c rest =>
    rw [step_of_pending_cons h]
    exact exec_leads c hI (mk_holds hs)

/-! ### The statement on lanes -/

/-- No lane holds more than 16 items. -/
def lanesFit : Invariant where
  holds s := s.lanesOk = true
  other hs h := by
    have hlanes : _ = _ := congrArg Prod.fst h
    exact (congrArg (fun m : KMap Lane => m.all fun kv => decide (kv.2.items.length ≤ 16)) hlanes).trans hs

theorem lanesFit_free (k : Store) : lanesFit.Free k where
  change {s t} hs h ok := by
    by_cases hk : k = .lanes
    · subst hk
      exact ok hs
    · have hlanes : t.lanes = s.lanes := (keepsLanes_free hk).change (s := s) rfl h ok
      exact (congrArg (fun m : KMap Lane => m.all fun kv => decide (kv.2.items.length ≤ 16)) hlanes).trans hs

/-- Settles O58: `lanesFit` is an invariant that outlives every sound change. -/
theorem everyStepKeepsLanesWithinSixteen : Obligations.EveryStepKeepsLanesWithinSixteen :=
  fun _ t hs h => step_leads lanesFit_free hs t h

end Sys2Proof.Machine
end

section
/-! # Completion counters -/

namespace Sys2Proof.Machine

variable {s : State}

/-! ### Adds and sets (R84, R87) -/

theorem ctrAdd_find {c a : Nat} {f : Bool} {k : Counter} (h : s.counters.find c = some k) :
    (ctrAdd s c a f).counters.find c =
      some { k with value := satAdd ctrMax k.value a, fault := k.fault || f } := by
  simp [ctrAdd, h]

theorem ctrSet_find {c : Nat} {v : Word} {k : Counter} (h : s.counters.find c = some k) :
    (ctrSet s c v).counters.find c = some { k with value := v.toNat % 2 ^ 63, fault := v.toNat.testBit 63 } := by
  simp [ctrSet, h]

/-- The adds of one cycle, one after the other. -/
def ctrAdds (s : State) (c : Nat) (adds : List (BitVec 63)) : State :=
  adds.foldl (fun s a => ctrAdd s c a.toNat false) s

/-- VALUE after the adds of one cycle: a sum that stops at the largest value at each step stops there at its end. -/
theorem ctrAdds_find {c : Nat} {k : Counter} {adds : List (BitVec 63)} (h : s.counters.find c = some k) :
    (ctrAdds s c adds).counters.find c = some { k with
      value := if adds = [] then k.value else min ctrMax (k.value + (adds.map (·.toNat)).sum) } := by
  induction adds generalizing s k with
  | nil => simpa [ctrAdds] using h
  | cons a r ih =>
    refine (ih (ctrAdd_find h)).trans ?_
    by_cases hr : r = []
    · simp [hr, satAdd]
    · simp [hr, satAdd]
      omega

theorem ctrAdds_leaves {c : Nat} {adds : List (BitVec 63)} :
    (∀ n, n ≠ c → (ctrAdds s c adds).counter n = s.counter n) ∧ (ctrAdds s c adds).lanes = s.lanes ∧
      (ctrAdds s c adds).parts = s.parts ∧ (ctrAdds s c adds).mem = s.mem := by
  induction adds generalizing s with
  | nil => exact ⟨fun _ _ => rfl, rfl, rfl, rfl⟩
  | cons a r ih =>
    obtain ⟨hctr, hlanes, hparts, hmem⟩ := @ih (ctrAdd s c a.toNat false)
    exact ⟨fun n hn => (hctr n hn).trans (ctrAdd_ne s _ _ hn), hlanes.trans (ctrAdd_lanes ..),
      hparts.trans (ctrAdd_parts ..), hmem.trans (ctrAdd_mem ..)⟩

/-- Settles O2: an add is `ctrAdd`, a set is `ctrSet` and the adds after it. -/
theorem counterAddAndSet : Obligations.CounterAddAndSet := by
  intro c k s hk
  refine ⟨fun a st => ⟨_, rfl, ctrAdd_same s _ _ hk, fun n hn => ctrAdd_ne s _ _ hn, ctrAdd_lanes .., ctrAdd_parts ..,
    ctrAdd_mem ..⟩, fun v adds => ?_⟩
  obtain ⟨hctr, hlanes, hparts, hmem⟩ := ctrAdds_leaves (s := ctrSet s c.val v) (c := c.val) (adds := adds)
  have hset := counter_of_find _ (ctrAdds_find (adds := adds) (ctrSet_find (v := v) hk))
  refine ⟨ctrAdds (ctrSet s c.val v) c.val adds, rfl, congrArg Counter.value hset, congrArg Counter.fault hset,
    (congrArg Counter.owner hset :), fun n hn => (hctr n hn).trans (ctrSet_ne s _ hn), hlanes.trans (ctrSet_lanes ..),
    hparts.trans (ctrSet_parts ..), hmem.trans (ctrSet_mem ..)⟩

end Sys2Proof.Machine
end

section
/-! # A lane with two entries

A port pass walks the entries of the lane map and serves the lanes that they name. Nothing in O3 keeps the map from
holding two entries of one lane: the items at the port of the second are not found, and yet a core's add serves the lane
for their sake, which takes the read that waits at the first. -/

namespace Sys2Proof.Machine

/-- A core of partition 0 runs, and lane 0 has a second entry, at whose port an item of that core waits. -/
def shadowedOffer : State := { Sys2Proof.Tests.opened 1 with
  blocks := [(0, { eng := { state := 1 }, pwr := { state := 0 } })]
  counters := [(0, { owner := 0 })]
  lanes := [(0, { portReads := [.engine], items := [0] }), (0, { portWrites := [(.core 0 0, 0)] })] }

theorem shadowedOffer_hidden (m : Nat) (l : Lane) (h : shadowedOffer.lanes.find m = some l) : l.portWrites = [] := by
  simp only [shadowedOffer, KMap.find] at h
  split at h
  · exact Option.some.inj h ▸ rfl
  · cases h

/-- Refutes O3: the add takes the item of `shadowedOffer`'s lane 0, though no entry that is found offers anything. -/
theorem not_hostCountersAndWaits : ¬ Obligations.HostCountersAndWaits := by
  intro h
  obtain ⟨-, -, -, -, hcores⟩ := h (.host 0) 0 shadowedOffer
  obtain ⟨howned, -⟩ := hcores 0 { core := 0, pre := [], found := none } 0 0 (by decide) (by decide)
  obtain ⟨-, hadd⟩ := howned (by decide)
  obtain ⟨t, ht, -, -, -, hlanes, -⟩ := hadd shadowedOffer_hidden 0 0
  cases ht
  exact absurd (congrArg (fun m : KMap Lane => (m.at 0 {}).items) hlanes) (by decide)

end Sys2Proof.Machine
end

section
/-! # Lanes -/

namespace Sys2Proof.Machine

variable {s : State}

/-! ### An instruction of a stitch core (R196, R197) -/

theorem setCore_core_same {b c : Nat} {x : Core} : (s.setCore b c x).core b c = x := by
  simp [State.core]

theorem coreRuns_state {b c : Nat} (h : coreRuns s b c = true) : (s.block b).eng.state = 1 := by
  simp only [coreRuns, Bool.and_eq_true, decide_eq_true_eq] at h
  exact h.1.1.1.1.1.1

/-- A core of the partition that owns what the instruction names runs it and goes on to the next. -/
theorem onOwned_owner {b c p : Nat} {pre : List ScalarInstr} {owned : Nat → Bool} {f : State → Core → State}
    (hr : coreRuns s b c = true) (hb : s.blockOwner b = some p) (ho : owned p = true)
    (hf : ∀ k, (f (s.setCore b c k) k).block b = s.block b) :
    onOwned s b c pre owned f =
      let k := pre.foldl runScalar (s.core b c)
      let t := f (s.setCore b c k) k
      t.setCore b c ((t.core b c).goTo false 0) := by
  have hb' (k : Core) : (s.setCore b c k).blockOwner b = some p := hb
  have hstate (k : Core) : ((f (s.setCore b c k) k).block b).eng.state = 1 := by rw [hf, coreRuns_state hr]
  simp only [onOwned, onCore, hr, hb', Option.any_some, ho, hstate, if_true]

/-- A core of any other partition stops its run there with 0x0D (R197). -/
theorem onOwned_refused {b c p : Nat} {pre : List ScalarInstr} {owned : Nat → Bool} {f : State → Core → State}
    (hr : coreRuns s b c = true) (hb : s.blockOwner b = some p) (ho : owned p = false) :
    onOwned s b c pre owned f = coreFault (s.setCore b c (pre.foldl runScalar (s.core b c))) b c 0x0D := by
  have hb' (k : Core) : (s.setCore b c k).blockOwner b = some p := hb
  have hstate (t : State) : ((coreFault t b c 0x0D).block b).eng.state ≠ 1 := by simp [coreFault]
  simp only [onOwned, onCore, hr, hb', Option.any_some, ho, hstate, if_true, if_false, Bool.false_eq_true]

/-- The registers that a core's fault writes (R197). -/
theorem coreFault_eng {b c : Nat} {code : Byte} : ((coreFault s b c code).block b).eng =
    { (s.block b).eng with state := 2, faultCore := c, faultAt := (s.core b c).pc, stopCode := code } := by
  simp [coreFault]

/-- What a refused instruction of a core leaves: the run stopped with 0x0D there, and no counter or lane or byte of
memory changed. -/
theorem onOwned_refused_leaves {b c p : Nat} {pre : List ScalarInstr} {owned : Nat → Bool}
    {f : State → Core → State} (hr : coreRuns s b c = true) (hb : s.blockOwner b = some p) (ho : owned p = false) :
    let t := onOwned s b c pre owned f
    (t.block b).eng.state = 2 ∧ (t.block b).eng.stopCode = 0x0D ∧
      (t.block b).eng.faultAt = (pre.foldl runScalar (s.core b c)).pc ∧ t.counters = s.counters ∧
      t.lanes = s.lanes ∧ t.mem = s.mem := by
  simp only [onOwned_refused hr hb ho, coreFault_eng, setCore_core_same]
  exact ⟨trivial, trivial, trivial, rfl, rfl, rfl⟩

/-! ### One cycle at a lane (R66, R70) -/

/-- The state in which an offer is served: lane `n` is `l` again, its port clear, and all else is as in `s`. -/
structure PortServed (s : State) (n : Nat) (l : Lane) (u : State) : Prop where
  find : u.lanes.find n = some l
  ne : ∀ m, m ≠ n → u.lane m = s.lane m
  rest : { u with lanes := s.lanes } = s

theorem portServed_setLane {n : Nat} {l a : Lane} : PortServed s n l ((s.setLane n a).setLane n l) :=
  ⟨by simp, fun m hm => by simp [hm], rfl⟩

section
variable {n : Nat} {l : Lane} {u : State} (h : PortServed s n l u)
include h

theorem PortServed.lane : u.lane n = l := lane_of_find u h.find
theorem PortServed.counters : u.counters = s.counters := (congrArg State.counters h.rest :)
theorem PortServed.parts : u.parts = s.parts := (congrArg State.parts h.rest :)
theorem PortServed.mem : u.mem = s.mem := (congrArg State.mem h.rest :)
theorem PortServed.blocks : u.blocks = s.blocks := (congrArg State.blocks h.rest :)
theorem PortServed.cores : u.cores = s.cores := (congrArg State.cores h.rest :)
theorem PortServed.out : u.out = s.out := (congrArg State.out h.rest :)

end

section
variable {n : Nat} {l : Lane} (h : s.lanes.find n = some l) (hr : l.portReads = []) (hw : l.portWrites = [])
include h hr hw

/-- An item that alone is offered is written. -/
theorem laneOffer_write (x : LaneWriter × Item) : ∃ u, PortServed s n l u ∧
    laneOffer s n false (fun l => { l with portWrites := l.portWrites ++ [x] }) = lanePush u n x.2 := by
  refine ⟨(s.setLane n { l with portWrites := [x] }).setLane n l, portServed_setLane, ?_⟩
  obtain ⟨⟩ := l
  simp_all [laneOffer, laneCycles, laneCycle, takeOffer, sortOn, insertOn]

/-- A read that alone is offered is served. -/
theorem laneOffer_read (r : LaneReader) : ∃ u, PortServed s n l u ∧
    laneOffer s n false (fun l => { l with portReads := l.portReads ++ [r] }) =
      deliverItem (lanePop u n).2 (lanePop u n).1 r := by
  refine ⟨(s.setLane n { l with portReads := [r] }).setLane n l, portServed_setLane, ?_⟩
  obtain ⟨⟩ := l
  simp_all [laneOffer, laneCycles, laneCycle, takeOffer, sortOn]

end

/-- A write leaves what waits at the port. -/
theorem lanePush_ports {n : Nat} {it : Item} : ((lanePush s n it).lane n).portReads = (s.lane n).portReads ∧
    ((lanePush s n it).lane n).portWrites = (s.lane n).portWrites := by
  unfold lanePush
  split
  · exact ⟨rfl, rfl⟩
  next l hl =>
    rw [lane_of_find s hl]
    dsimp only
    split
    · rw [laneArmed_lane]
      exact ⟨by rw [setLane_lane_same], by rw [setLane_lane_same]⟩
    · split <;> simp [State.lane]

theorem lanePush_setLane_lane {n : Nat} {a : Lane} {it : Item} (room : a.items.length < 16) :
    ((lanePush (s.setLane n a) n it).lane n).items = a.items ++ [it] ∧
      ((lanePush (s.setLane n a) n it).lane n).portReads = a.portReads ∧
      ((lanePush (s.setLane n a) n it).lane n).portWrites = a.portWrites := by
  obtain ⟨hreads, hwrites⟩ := lanePush_ports (s := s.setLane n a) (n := n) (it := it)
  rw [setLane_lane_same] at hreads hwrites
  exact ⟨lanePush_items _ _ (find_put_same ..) room, hreads, hwrites⟩

/-- Of two writers the transport comes first; the host's item stays at the port (R66). -/
theorem laneCycle_ranked {n : Nat} {x y : Item} (hr : (s.lane n).portReads = [])
    (hw : (s.lane n).portWrites = [(.host, x), (.transport, y)]) (room : (s.lane n).items.length < 16) :
    ((laneCycle s n).lane n).items = (s.lane n).items ++ [y] ∧ ((laneCycle s n).lane n).portReads = [] ∧
      ((laneCycle s n).lane n).portWrites = [(.host, x)] := by
  have e : laneCycle s n = lanePush (s.setLane n { s.lane n with portWrites := [(.host, x)] }) n y := by
    simp [laneCycle, hr, hw, takeOffer, sortOn, insertOn, writerRank]
  rw [e]
  obtain ⟨hitems, hreads, hwrites⟩ :=
    lanePush_setLane_lane (s := s) (n := n) (it := y) (a := { s.lane n with portWrites := [(.host, x)] }) room
  exact ⟨hitems, hreads.trans hr, hwrites⟩

theorem laneCycle_write {n : Nat} {x : LaneWriter × Item} (hr : (s.lane n).portReads = [])
    (hw : (s.lane n).portWrites = [x]) (room : (s.lane n).items.length < 16) :
    ((laneCycle s n).lane n).items = (s.lane n).items ++ [x.2] := by
  have e : laneCycle s n = lanePush (s.setLane n { s.lane n with portWrites := [] }) n x.2 := by
    simp [laneCycle, hr, hw, takeOffer, sortOn, insertOn]
  rw [e]
  exact (lanePush_setLane_lane (a := { s.lane n with portWrites := [] }) room).1

/-- A read is served before a write of its cycle (R70). -/
theorem laneCycle_readWrite {n : Nat} {x : LaneWriter × Item} {it : Item} {rest : List Item}
    (hr : (s.lane n).portReads = [.engine]) (hw : (s.lane n).portWrites = [x]) (hi : (s.lane n).items = it :: rest)
    (fits : (s.lane n).items.length ≤ 16) :
    ((laneCycle s n).lane n).items = rest ++ [x.2] ∧ ((laneCycle s n).lane n).portReads = [] ∧
      ((laneCycle s n).lane n).portWrites = [] := by
  have e : laneCycle s n =
      let t := (lanePop (s.setLane n { s.lane n with portReads := [] }) n).2
      lanePush (t.setLane n { t.lane n with portWrites := [] }) n x.2 := by
    simp [laneCycle, hr, hw, takeOffer, sortOn, insertOn, deliverItem]
  obtain ⟨-, hpop⟩ := lanePop_cons (s.setLane n { s.lane n with portReads := [] }) (n := n) (it := it) (r := rest)
    (by rw [setLane_lane_same]; exact hi)
  rw [setLane_lane_same] at hpop
  rw [e]
  simp only [hpop]
  exact lanePush_setLane_lane (by rw [hi] at fits; exact fits)

theorem laneCycles_succ {n k : Nat} (h : ¬ ((s.lane n).portReads = [] ∧ (s.lane n).portWrites = [])) :
    laneCycles n (k + 1) s = laneCycles n k (laneCycle s n) := by
  simp [laneCycles, h]

theorem laneCycles_idle {n k : Nat} (h : (s.lane n).portReads = [] ∧ (s.lane n).portWrites = []) :
    laneCycles n k s = s := by
  cases k <;> simp [laneCycles, h]

/-- A read leaves every other lane alone. -/
theorem lanePop_ne {n k : Nat} (h : k ≠ n) : (lanePop s n).2.lane k = s.lane k := by
  unfold lanePop
  dsimp only
  split
  · rfl
  · rw [State.lane, laneDrained_lanes, setLane_lanes, traceEvent_lanes, at_put_ne _ _ _ h]
    rfl

/-- A read of a lane with room says nothing to the endpoints that the lane feeds (R376). -/
theorem lanePop_parts {n : Nat} (h : (s.lane n).items.length < 16) : (lanePop s n).2.parts = s.parts := by
  unfold lanePop
  dsimp only
  split
  · rfl
  · simp [laneDrained, h]

/-- A read of a full lane makes room: the endpoints that it feeds are starved no more (R376). -/
theorem lanePop_endpoints {n k : Nat} {e : Endpoint} (h : 16 ≤ (s.lane n).items.length)
    (he : ((lanePop s n).2.part (s.lane n).owner).xt.eps.find k = some e) (hk : e.kind = 1) (hn : e.itemLane = n) :
    e.emptySince = none := by
  unfold lanePop at he
  dsimp only at he
  split at he
  next hi => simp [hi] at h
  next it r hi =>
    simp only [laneDrained, Nat.not_lt.2 h, if_false, modXt_eq, setPart_part_same, find_mapVals,
      Option.map_eq_some_iff] at he
    obtain ⟨e', -, rfl⟩ := he
    split at hk <;> simp_all

theorem idleItem_toNat (n : LaneNo) : (idleItem n.val).toNat = 256 * n.val := by
  have := n.isLt
  simp [idleItem, itemOf, leBytes, leNat]
  omega

theorem deliverItem_lanes {it : Item} {r : LaneReader} : (deliverItem s it r).lanes = s.lanes := by
  cases r <;> rfl

/-! ### The clauses of O4, over a lane at whose port nothing waits -/

section
variable {n : Nat} {l : Lane} (h : s.lanes.find n = some l) (hr : l.portReads = []) (hw : l.portWrites = [])
include h hr hw

theorem laneOffer_write_room {x : LaneWriter × Item} (room : l.items.length < 16) :
    let t := laneOffer s n false fun l => { l with portWrites := l.portWrites ++ [x] }
    (t.lane n).items = l.items ++ [x.2] ∧ (∀ m, m ≠ n → t.lane m = s.lane m) ∧ t.counters = s.counters ∧
      t.parts = s.parts ∧ t.mem = s.mem ∧ t.blocks = s.blocks ∧ t.cores = s.cores := by
  obtain ⟨u, hu, e⟩ := laneOffer_write h hr hw x
  rw [e]
  exact ⟨lanePush_items u x.2 hu.find room, fun m hm => (lanePush_ne u x.2 hm).trans (hu.ne m hm),
    (lanePush_counters ..).trans hu.counters, (lanePush_parts ..).trans hu.parts, (lanePush_mem ..).trans hu.mem,
    (lanePush_blocks ..).trans hu.blocks, (lanePush_cores ..).trans hu.cores⟩

theorem laneOffer_write_full {x : LaneWriter × Item} (full : 16 ≤ l.items.length) :
    let t := laneOffer s n false fun l => { l with portWrites := l.portWrites ++ [x] }
    (t.lane n).items = l.items ∧ (t.lane n).overrun = true ∧ (t.lane n).drops = min 0xFFFF_FFFF (l.drops + 1) ∧
      ∀ m, m ≠ n → t.lane m = s.lane m := by
  obtain ⟨u, hu, e⟩ := laneOffer_write h hr hw x
  have hp := lanePush_full u x.2 hu.find full
  rw [e]
  exact ⟨(congrArg Lane.items hp :), (congrArg Lane.overrun hp :), (congrArg Lane.drops hp :), fun m hm => (lanePush_ne u x.2 hm).trans (hu.ne m hm)⟩

theorem laneOffer_read_head {r : LaneReader} {it : Item} {rest : List Item} (hi : l.items = it :: rest) :
    let t := laneOffer s n false fun l => { l with portReads := l.portReads ++ [r] }
    (t.lane n).items = rest ∧ (∀ m, m ≠ n → t.lane m = s.lane m) ∧ t.counters = s.counters ∧ t.mem = s.mem ∧
      t.blocks = s.blocks := by
  obtain ⟨u, hu, e⟩ := laneOffer_read h hr hw r
  obtain ⟨-, hlane⟩ := lanePop_cons u (hu.lane.symm ▸ hi)
  have hl (m : Nat) : (deliverItem (lanePop u n).2 (lanePop u n).1 r).lane m = (lanePop u n).2.lane m :=
    congrArg (·.at m {}) deliverItem_lanes
  rw [e]
  refine ⟨by rw [hl, hlane], fun m hm => by rw [hl, lanePop_ne hm, hu.ne m hm], ?_, ?_, ?_⟩
  · exact (by cases r <;> rfl : _ = (lanePop u n).2.counters).trans ((lanePop_counters ..).trans hu.counters)
  · exact (by cases r <;> rfl : _ = (lanePop u n).2.mem).trans ((lanePop_mem ..).trans hu.mem)
  · exact (by cases r <;> rfl : _ = (lanePop u n).2.blocks).trans ((lanePop_blocks ..).trans hu.blocks)

/-- The engine's read of a lane that holds an item: nothing else is told, but endpoints that a full lane starved. -/
theorem laneOffer_read_engine :
    let t := laneOffer s n false fun l => { l with portReads := l.portReads ++ [.engine] }
    t.out = s.out ∧ (l.items.length < 16 → t.parts = s.parts) ∧
      (16 ≤ l.items.length → ∀ k e, (t.part l.owner).xt.eps.find k = some e → e.kind = 1 → e.itemLane = n →
        e.emptySince = none) := by
  obtain ⟨u, hu, e⟩ := laneOffer_read h hr hw .engine
  rw [e]
  refine ⟨(lanePop_out ..).trans hu.out, fun room => (lanePop_parts (hu.lane ▸ room)).trans hu.parts,
    fun full k e he hk hn => ?_⟩
  exact lanePop_endpoints (hu.lane ▸ full) (by rw [hu.lane]; exact he) hk hn

theorem laneOffer_read_idle (hi : l.items = []) :
    let t := laneOffer s n false fun l => { l with portReads := l.portReads ++ [.engine] }
    t.lane n = l ∧ (∀ m, m ≠ n → t.lane m = s.lane m) ∧ t.counters = s.counters ∧ t.parts = s.parts ∧
      t.mem = s.mem ∧ t.out = s.out := by
  obtain ⟨u, hu, e⟩ := laneOffer_read h hr hw .engine
  rw [e, lanePop_nil u (hu.lane.symm ▸ hi)]
  exact ⟨hu.lane, hu.ne, hu.counters, hu.parts, hu.mem, hu.out⟩

/-- Two writes of one cycle: the transport's item comes before the host's (R66). -/
theorem laneOffer_ranked {x y : Item} (room : l.items.length < 15) :
    ((laneOffer (laneOffer s n true fun l => { l with portWrites := l.portWrites ++ [(.host, x)] }) n false fun l =>
      { l with portWrites := l.portWrites ++ [(.transport, y)] }).lane n).items = l.items ++ [y, x] := by
  have served (u : State) (hu : u.lane n = { l with portWrites := [(.host, x), (.transport, y)] }) :
      ((laneCycles n 2 u).lane n).items = l.items ++ [y, x] := by
    obtain ⟨hitems, hreads, hwrites⟩ := laneCycle_ranked (s := u) (n := n) (x := x) (y := y) (by rw [hu, hr])
      (by rw [hu]) (by rw [hu]; exact Nat.lt_succ_of_lt room)
    rw [hu] at hitems
    rw [laneCycles_succ (by rw [hu]; simp), laneCycles_succ (by simp [hwrites]), laneCycles,
      laneCycle_write hreads hwrites (by simp [hitems]; omega), hitems]
    simp
  simpa [laneOffer, h, hr, hw] using served _ (setLane_lane_same ..)

theorem laneOffer_readWrite {it x : Item} {rest : List Item} (hi : l.items = it :: rest) (fits : l.items.length ≤ 16) :
    ((laneOffer (laneOffer s n true fun l => { l with portReads := l.portReads ++ [.engine] }) n false fun l =>
      { l with portWrites := l.portWrites ++ [(.awl, x)] }).lane n).items = rest ++ [x] := by
  have served (u : State) (hu : u.lane n = { l with portReads := [.engine], portWrites := [(.awl, x)] }) :
      ((laneCycles n 2 u).lane n).items = rest ++ [x] := by
    obtain ⟨hitems, hreads, hwrites⟩ := laneCycle_readWrite (s := u) (n := n) (x := (.awl, x)) (it := it)
      (rest := rest) (by rw [hu]) (by rw [hu]) (by rw [hu]; exact hi) (by rw [hu]; exact fits)
    rw [laneCycles_succ (by rw [hu]; simp), laneCycles_idle ⟨hreads, hwrites⟩, hitems]
  simpa [laneOffer, h, hr, hw] using served _ (setLane_lane_same ..)

end

/-! ### A stitch core at a lane (R201) -/

section
variable {n : LaneNo} {l : Lane} {b : Blk} {c : CoreRun} {p : Part} (h : s.lanes.find n.val = some l)
  (hrun : coreRuns s b.val c.core.val = true) (hb : s.blockOwner b.val = some p.val)
include h hrun hb

theorem core_laneWrite {x : Item} (hr : l.portReads = []) (hw : l.portWrites = []) (ho : l.owner = p.val)
    (room : l.items.length < 16) :
    ∃ t, exec (.laneWrite n x ⟨.core b c.core, false, c.pre⟩) s = .next t ∧ (t.lane n.val).items = l.items ++ [x] ∧
      (t.core b.val c.core.val).pc = (coreAt s b c).pc + 8 ∧ (∀ m, m ≠ n.val → t.lane m = s.lane m) ∧
      t.counters = s.counters ∧ t.mem = s.mem := by
  have offered (k : Core) := laneOffer_write_room (s := s.setCore b.val c.core.val k) (x := (.core b c.core, x)) h hr hw
    room
  have e := onOwned_owner (pre := c.pre) (owned := fun p => s.ownsLane p n.val) (f := fun s _ => laneOffer s n.val false
    fun l => { l with portWrites := l.portWrites ++ [(.core b c.core, x)] }) hrun hb (by simp [State.ownsLane, h, ho])
    fun k => by
      obtain ⟨-, -, -, -, -, hblocks, -⟩ := offered k
      exact congrArg (·.at b.val {}) hblocks
  obtain ⟨hitems, hne, hctrs, -, hmem, -, hcores⟩ := offered (coreAt s b c)
  have hcore : (laneOffer (s.setCore b.val c.core.val (coreAt s b c)) n.val false fun l =>
      { l with portWrites := l.portWrites ++ [(.core b c.core, x)] }).core b.val c.core.val = coreAt s b c := by
    rw [State.core, hcores]
    exact setCore_core_same
  refine ⟨_, congrArg Host.Outcome.next e, hitems, ?_, hne, hctrs, hmem⟩
  exact (congrArg Core.pc setCore_core_same).trans (congrArg (·.pc + 8) hcore)

theorem core_laneRead {d : Fin 16} {it : Item} {rest : List Item} (hr : l.portReads = []) (hw : l.portWrites = [])
    (ho : l.owner = p.val) (hi : l.items = it :: rest) :
    ∃ t, exec (.laneRead ⟨n, .core b c.core d c.pre, false⟩) s = .next t ∧ (t.lane n.val).items = rest ∧
      (∀ m, m ≠ n.val → t.lane m = s.lane m) ∧ t.counters = s.counters ∧ t.mem = s.mem := by
  have offered (k : Core) := laneOffer_read_head (s := s.setCore b.val c.core.val k) (r := .core b c.core d c.pre) h hr
    hw hi
  have e := onOwned_owner (pre := c.pre) (owned := fun p => s.ownsLane p n.val) (f := fun s _ => laneOffer s n.val false
    fun l => { l with portReads := l.portReads ++ [.core b c.core d c.pre] }) hrun hb
    (by simp [State.ownsLane, h, ho]) fun k => by
      obtain ⟨-, -, -, -, hblocks⟩ := offered k
      exact congrArg (·.at b.val {}) hblocks
  obtain ⟨hitems, hne, hctrs, hmem, -⟩ := offered (coreAt s b c)
  exact ⟨_, congrArg Host.Outcome.next e, hitems, hne, hctrs, hmem⟩

/-- A core of another partition stops its run at the instruction (R197). -/
theorem core_lane_refused {x : Item} {i : Instr} (ho : l.owner ≠ p.val)
    (hi : i = .laneWrite n x ⟨.core b c.core, false, c.pre⟩ ∨
      ∃ d, i = .laneRead ⟨n, .core b c.core d c.pre, false⟩) :
    ∃ t, exec i s = .next t ∧ t.lanes = s.lanes ∧ (t.block b.val).eng.state = 2 ∧
      (t.block b.val).eng.stopCode = 0x0D ∧ (t.block b.val).eng.faultAt = (coreAt s b c).pc ∧
      t.counters = s.counters ∧ t.mem = s.mem := by
  have refused (f : State → Core → State) := onOwned_refused_leaves (pre := c.pre) (f := f) hrun hb
    (owned := fun p => s.ownsLane p n.val) (by simp [State.ownsLane, h, ho])
  rcases hi with rfl | ⟨d, rfl⟩
  all_goals
    refine ⟨_, rfl, ?_⟩
    obtain ⟨hstate, hstop, hat, hctrs, hlanes, hmem⟩ := refused _
    exact ⟨hlanes, hstate, hstop, hat, hctrs, hmem⟩

end

/-- Settles O4: each clause is the offer of one item or read at a lane whose port is clear, or of two of one cycle. -/
theorem laneItemsKeepTheirOrder : Obligations.LaneItemsKeepTheirOrder := by
  intro n s l h hr hw
  refine ⟨?_, ?_, ?_, ?_, ?_, ?_, ?_⟩
  · rintro room it w (rfl | rfl | rfl)
    all_goals
      obtain ⟨hitems, hne, hctrs, hparts, hmem, -, -⟩ := laneOffer_write_room h hr hw (x := (_, it)) room
      exact ⟨_, rfl, hitems, hne, hctrs, hparts, hmem⟩
  · rintro full it w (rfl | rfl | rfl)
    all_goals exact ⟨_, rfl, laneOffer_write_full h hr hw (x := (_, it)) full⟩
  · intro it r hi
    obtain ⟨hitems, hne, hctrs, hmem, -⟩ := laneOffer_read_head h hr hw (r := .engine) hi
    obtain ⟨hout, hparts, hstarved⟩ := laneOffer_read_engine h hr hw
    exact ⟨_, rfl, hitems, hne, hctrs, hmem, hout, hparts, hstarved⟩
  · intro hi
    exact ⟨lanePop_nil s (lane_of_find s h ▸ hi), idleItem_toNat n, _, rfl, laneOffer_read_idle h hr hw hi⟩
  · intro room x y
    exact ⟨_, _, rfl, rfl, laneOffer_ranked h hr hw room⟩
  · intro it x r hi fits
    exact ⟨_, _, rfl, rfl, laneOffer_readWrite h hr hw hi fits⟩
  · intro b c p x hrun hb
    exact ⟨core_laneWrite h hrun hb hr hw, fun ho it r d => core_laneRead h hrun hb hr hw ho,
      fun ho i => core_lane_refused h hrun hb ho⟩

end Sys2Proof.Machine
end

section
/-! # The stale-tail timer, doorbell slots and LANE_CONTROL -/

namespace Sys2Proof.Machine

variable {s : State}

/-! ### The timer and LANE_CONTROL (R71, R81) -/

theorem staleTimer_due {n : LaneNo} {l : Lane} (h : s.lanes.find n.val = some l) (hdue : staleDue s l = true) :
    ∃ t, exec (.staleTimer n) s = .next t ∧ (t.lane n.val).staleBit = true ∧ (t.lane n.val).fired = true ∧
      (t.lane n.val).items = l.items ∧ ∀ m, m ≠ n.val → t.lane m = s.lane m := by
  let u := s.setLane n.val { l with staleBit := true, fired := true }
  let t := if l.intStale ∧ ¬ l.staleBit then raiseLane u l else u
  have ht : exec (.staleTimer n) s = .next t := by
    show execStaleTimer n s = _
    simp only [execStaleTimer, lane_of_find s h, hdue, if_true, t, u]
  have hlanes : t.lanes = u.lanes := by
    simp only [t]
    split
    · exact raiseLane_lanes ..
    · rfl
  have hlane (m : Nat) : t.lane m = u.lane m := by rw [State.lane, hlanes]; rfl
  refine ⟨t, ht, ?_, ?_, ?_, fun m hm => by rw [hlane, setLane_lane_ne _ _ hm]⟩ <;> rw [hlane, setLane_lane_same]

theorem laneControl_lane {n : Nat} {v : Word} : (laneControl s n v).lane n = { s.lane n with
    intArm := v.toNat.testBit 0 && ((s.lane n).items.isEmpty || !decide ((s.lane n).vector < 32))
    intOverrun := v.toNat.testBit 1
    intStale := v.toNat.testBit 2 } := by
  simp only [laneControl, laneArmed_lane, setLane_lane_same]

theorem laneControlWrite_host {src : Src} {p : Part} {n : LaneNo} {v : Word} {l : Lane} (hp : hostReaches s src p)
    (h : s.lanes.find n.val = some l) (ho : l.owner = p.val) :
    exec (.laneControlWrite src n v) s = .next (laneControl s n.val v) := by
  have put : partWrite s src p.val (0x1_0008 + 0x20 * n.val) (fun s => laneControl s n.val v) = laneControl s n.val v :=
    partWrite_host s _ _ hp
  show execLaneControlWrite src n v s = _
  obtain ⟨-, -, -, rfl | rfl⟩ := id hp
  all_goals simpa [execLaneControlWrite, h, ho] using put

/-! ### Doorbell slots (R79, R80, R389) -/

theorem slotPut_word {p k n w : Nat} {l : Lane} {v : Word} (hk : slotLane s p k = some n)
    (h : s.lanes.find n = some l) (hkind : l.kind = 1) (hw : w < 3) :
    (((slotPut s p k w v).part p).hostSlots.at k {}).words.at w 0 = v ∧ (slotPut s p k w v).lanes = s.lanes ∧
      (slotPut s p k w v).counters = s.counters ∧ (slotPut s p k w v).mem = s.mem := by
  have h3 : w ≠ 3 := by omega
  simp [slotPut, hk, lane_of_find s h, hkind, h3]

/-- The fourth word commits the four words last written. -/
theorem slotPut_commit {p k n : Nat} {l : Lane} {v : Word} (hk : slotLane s p k = some n)
    (h : s.lanes.find n = some l) (hkind : l.kind = 1) (hr : l.portReads = []) (hw : l.portWrites = [])
    (room : l.items.length < 16) :
    let words := ((s.part p).hostSlots.at k {}).words
    let t := slotPut s p k 3 v
    (t.lane n).items = l.items ++ [itemOf (leBytes 8 (words.at 0 0).toNat ++ leBytes 8 (words.at 1 0).toNat ++
      leBytes 8 (words.at 2 0).toNat ++ leBytes 8 v.toNat)] ∧
    (∀ m, m ≠ n → t.lane m = s.lane m) ∧ t.counters = s.counters ∧ t.mem = s.mem := by
  let u := s.modPart p fun x => { x with hostSlots := x.hostSlots.put k { (s.part p).hostSlots.at k {} with
    words := ((s.part p).hostSlots.at k {}).words.put 3 v } }
  have e : slotPut s p k 3 v = lanePush u n (itemOf (leBytes 8 (((s.part p).hostSlots.at k {}).words.at 0 0).toNat ++
      leBytes 8 (((s.part p).hostSlots.at k {}).words.at 1 0).toNat ++
      leBytes 8 (((s.part p).hostSlots.at k {}).words.at 2 0).toNat ++ leBytes 8 v.toNat)) := by
    have hl : u.lane n = l := lane_of_find s h
    simp [slotPut, hk, hkind, laneGive, hr, hw, List.range_succ, u, State.lane, KMap.at, h]
  rw [e]
  exact ⟨lanePush_items u _ h room, fun m hm => lanePush_ne u _ hm, lanePush_counters .., lanePush_mem ..⟩

theorem pageWord_writeSlot {p : Part} {k : Fin 512} {w : Nat} (hk : k.val < 256) (hw : w < 4) :
    pageWord p.succ.val k.val w = .writeSlot k.val w := by
  have h1 : ¬ (384 ≤ k.val ∧ k.val < 388) := by omega
  have h2 : ¬ (k.val = 416 ∧ w = 0) := by omega
  have h3 : ¬ (p.succ.val = 0 ∨ 256 ≤ k.val) := by simp; omega
  rw [pageWord, if_neg h1, if_neg h2, if_neg h3, if_pos hw]

theorem pageWord_readSlot {p : Part} {k : Fin 512} {w : Nat} (hk : k.val < 256) (hw : w < 4) :
    pageWord p.succ.val k.val (4 + w) = .readSlot k.val w := by
  have h1 : ¬ (384 ≤ k.val ∧ k.val < 388) := by omega
  have h2 : ¬ (k.val = 416 ∧ 4 + w = 0) := by omega
  have h3 : ¬ (p.succ.val = 0 ∨ 256 ≤ k.val) := by simp; omega
  have h4 : ¬ 4 + w < 4 := by omega
  have h5 : 4 + w < 8 := by omega
  rw [pageWord, if_neg h1, if_neg h2, if_neg h3, if_neg h4, if_pos h5, Nat.add_sub_cancel_left]

theorem pageWord_level {p : Part} {k : Fin 512} (hk : k.val < 256) : pageWord p.succ.val k.val 8 = .level k.val := by
  have h1 : ¬ (384 ≤ k.val ∧ k.val < 388) := by omega
  have h2 : ¬ (k.val = 416 ∧ 8 = 0) := by omega
  have h3 : ¬ (p.succ.val = 0 ∨ 256 ≤ k.val) := by simp; omega
  rw [pageWord, if_neg h1, if_neg h2, if_neg h3]
  rfl

theorem hostSlotWrite_aligned {p : Part} {k : Fin 512} {w : Fin 16} {v : Word} (ha : pageAnswers s (p.val + 1) = true)
    (hk : k.val < 256) (hw : w.val < 4) :
    exec (.hostSlotWrite p.succ k (.aligned w) v) s = .next (slotPut s p.val k.val w.val v) := by
  have ha' : pageAnswers s p.succ.val = true := ha
  show execHostSlotWrite p.succ k (.aligned w) v s = _
  simp only [execHostSlotWrite, pageWord_writeSlot hk hw, ha', Bool.true_eq_false, if_false]
  rfl

/-- A page that answers is neither dark nor of a partition that is being scrubbed. -/
theorem pageAnswers_reached {p : Part} (ha : pageAnswers s (p.val + 1) = true) :
    ¬ (s.regs.state = 0 ∨ s.regs.state = 9) ∧ s.code p.val ≠ 8 := by
  simp [pageAnswers] at ha
  omega

theorem hostSlotRead_other {p : Part} {k : Fin 512} (ha : pageAnswers s (p.val + 1) = true) :
    exec (.hostSlotRead p.succ k .other) s = .next (s.emit (.unsupported (p.val + 1))) := by
  obtain ⟨hstate, hcode⟩ := pageAnswers_reached ha
  show execHostSlotRead p.succ k .other s = _
  simp [execHostSlotRead, hstate, hcode, ha]

theorem hostSlotRead_aligned {p : Part} {k : Fin 512} {w : Fin 16} (ha : pageAnswers s (p.val + 1) = true) :
    exec (.hostSlotRead p.succ k (.aligned w)) s =
      let r := pageRead s (p.val + 1) (pageWord p.succ.val k.val w.val)
      .next (r.2.emit (.readValue (p.val + 1) r.1)) := by
  obtain ⟨hstate, hcode⟩ := pageAnswers_reached ha
  show execHostSlotRead p.succ k (.aligned w) s = _
  simp [execHostSlotRead, hstate, hcode, ha]

section
variable {p : Part} {k : Fin 512} {n : Nat} {l : Lane} (ha : pageAnswers s (p.val + 1) = true) (hk : k.val < 256)
  (hn : slotLane s p.val k.val = some n) (h : s.lanes.find n = some l)
include ha hk hn h

theorem hostSlotRead_level : exec (.hostSlotRead p.succ k (.aligned 8)) s =
    .next (s.emit (.readValue (p.val + 1) (BitVec.ofNat 64 l.items.length))) := by
  have e := hostSlotRead_aligned (k := k) (w := 8) ha
  have hw : pageWord p.succ.val k.val (8 : Fin 16).val = .level k.val := pageWord_level hk
  rw [hw] at e
  rw [e]
  simp [pageRead, hn, lane_of_find s h]

variable (hkind : l.kind = 2) {it : Item} {r : List Item} (hi : l.items = it :: r)
include hkind hi

/-- The first word of a read slot captures the head. -/
theorem hostSlotRead_first : ∃ t, exec (.hostSlotRead p.succ k (.aligned 4)) s = .next t ∧
    ((t.part p.val).hostSlots.at k.val {}).captured = some it ∧
    t.out = s.out ++ [.readValue (p.val + 1) (itemWord it 0)] ∧ t.lanes = s.lanes ∧ t.mem = s.mem := by
  have e := hostSlotRead_aligned (k := k) (w := 4) ha
  have hw : pageWord p.succ.val k.val (4 : Fin 16).val = .readSlot k.val 0 := pageWord_readSlot (w := 0) hk (by omega)
  rw [hw] at e
  refine ⟨_, e, ?_⟩
  simp [pageRead, slotTake, hn, lane_of_find s h, hkind, hi, State.part, State.emit]

/-- The fourth word removes the captured item while it is still the head. -/
theorem hostSlotRead_fourth (hidle : it ≠ idleItem n)
    (hc : ((s.part p.val).hostSlots.at k.val {}).captured = some it)
    (ht : ((s.part p.val).hostSlots.at k.val {}).taken = false) :
    ∃ t, exec (.hostSlotRead p.succ k (.aligned 7)) s = .next t ∧ (t.lane n).items = r ∧
      t.out = s.out ++ [.readValue (p.val + 1) (itemWord it 3)] ∧ (∀ m, m ≠ n → t.lane m = s.lane m) ∧
      t.counters = s.counters ∧ t.mem = s.mem := by
  have e := hostSlotRead_aligned (k := k) (w := 7) ha
  have hw : pageWord p.succ.val k.val (7 : Fin 16).val = .readSlot k.val 3 := pageWord_readSlot (w := 3) hk (by omega)
  rw [hw] at e
  have hl : (s.lane n).items = it :: r := by rw [lane_of_find s h, hi]
  obtain ⟨-, hpop⟩ := lanePop_cons s hl
  let slot : HostSlot := { (s.part p.val).hostSlots.at k.val {} with taken := true }
  let u := (lanePop s n).2.modPart p.val fun x => { x with hostSlots := x.hostSlots.put k.val slot }
  have htake : slotTake s p.val k.val 3 = (itemWord it 3, u) := by
    simp [slotTake, hn, lane_of_find s h, hkind, hi, hc, ht, hidle, u, slot]
  have hlane (m : Nat) : u.lane m = (lanePop s n).2.lane m := rfl
  have e' : exec (.hostSlotRead p.succ k (.aligned 7)) s = .next (u.emit (.readValue (p.val + 1) (itemWord it 3))) := by
    rw [e]
    simp [pageRead, htake]
  refine ⟨_, e', ?_, ?_, fun m hm => lanePop_ne hm, lanePop_counters .., lanePop_mem ..⟩
  · exact congrArg Lane.items hpop
  · exact congrArg (· ++ _) (lanePop_out ..)

end

/-- Settles O5, clause by clause. -/
theorem laneTimerSlotsAndControl : Obligations.LaneTimerSlotsAndControl := by
  refine ⟨?_, ?_, ?_, ?_⟩
  · intro n s l h hstale hi hf hdue
    exact staleTimer_due h (by simp [staleDue, hstale, hi, hf, hdue])
  · intro p k n s l ha hk hn h hkind hr hw v
    refine ⟨rfl, fun w hw3 => ?_, fun room => ?_⟩
    · exact ⟨_, hostSlotWrite_aligned ha hk (by omega), slotPut_word hn h hkind hw3⟩
    · exact ⟨_, hostSlotWrite_aligned ha hk (by decide), slotPut_commit hn h hkind hr hw room⟩
  · intro p k n s l ha hk hn h hkind
    exact ⟨hostSlotRead_level ha hk hn h, hostSlotRead_other ha, fun it r hi => hostSlotRead_first ha hk hn h hkind hi,
      fun it r hi => hostSlotRead_fourth ha hk hn h hkind hi⟩
  · intro src p n v s l hp h ho
    refine ⟨_, laneControlWrite_host hp h ho, ?_⟩
    have hlane := laneControl_lane (s := s) (n := n.val) (v := v)
    rw [lane_of_find s h] at hlane
    refine ⟨congrArg Lane.intOverrun hlane, congrArg Lane.intStale hlane, ?_, (congrArg Lane.items hlane :), fun m hm => ?_,
      laneArmed_counters .., laneArmed_parts .., laneArmed_mem ..⟩
    · have hvec : (!decide (l.vector < 32)) = decide (32 ≤ l.vector) := by simp only [← decide_not, Nat.not_lt]
      rw [hlane, ← hvec]
    · rw [laneControl, laneArmed_lane_ne _ hm, setLane_lane_ne _ _ hm]

end Sys2Proof.Machine
end

section
/-! # The ring registers of an Awl -/

namespace Sys2Proof.Machine

variable {s : State}

/-! ### TAIL (R90) -/

/-- A TAIL that the ring holds is taken; the entries of the holder's that it takes back leave OWNED. -/
theorem awlSetTail_awls {n : Nat} {v : BitVec 32} (h : dist32 v (s.awl n).head ≤ 2 ^ (s.awl n).size) :
    ∃ o, (awlSetTail s n v).awls = (s.setAwl n { s.awl n with tail := v, owned := o }).awls ∧
      (awlSetTail s n v).mem = s.mem := by
  have hfull : ringOverfull v (s.awl n).head (s.awl n).size = false := by
    simp [ringOverfull, Nat.not_lt.2 h]
  simp only [awlSetTail, hfull, Bool.false_eq_true, if_false]
  split <;> exact ⟨_, rfl, rfl⟩

theorem awlSetTail_taken {n : Nat} {v : BitVec 32} (h : dist32 v (s.awl n).head ≤ 2 ^ (s.awl n).size) :
    let t := awlSetTail s n v
    (t.awl n).tail = v ∧ (t.awl n).head = (s.awl n).head ∧ (t.awl n).tailError = (s.awl n).tailError ∧
      (t.awl n).jobs = (s.awl n).jobs ∧ (∀ m, m ≠ n → t.awl m = s.awl m) ∧ t.mem = s.mem := by
  obtain ⟨o, hawls, hmem⟩ := awlSetTail_awls h
  have hawl (m : Nat) : (awlSetTail s n v).awl m = (s.setAwl n { s.awl n with tail := v, owned := o }).awl m := by
    rw [State.awl, hawls]
    rfl
  simp only [hawl, setAwl_awl_same]
  exact ⟨trivial, trivial, trivial, trivial, fun m hm => setAwl_awl_ne _ _ hm, hmem⟩

theorem awlSetTail_own {n : Nat} {v : BitVec 32} (h : dist32 v (s.awl n).head ≤ 2 ^ (s.awl n).size)
    (ho : (s.awl n).owned = []) : awlSetTail s n v = s.setAwl n { s.awl n with tail := v } := by
  have hfull : ringOverfull v (s.awl n).head (s.awl n).size = false := by
    simp [ringOverfull, Nat.not_lt.2 h]
  simp [awlSetTail, hfull, ho]

theorem awlSetTail_refused {n : Nat} {v : BitVec 32} (h : 2 ^ (s.awl n).size < dist32 v (s.awl n).head) :
    awlSetTail s n v = s.setAwl n { s.awl n with tailError := true } := by
  simp [awlSetTail, ringOverfull, h]

theorem awlTailWrite_host {src : Src} {p : Part} {b : Blk} {i : Fin 8} {v : Word} (hp : hostReachesBlock s src p b) :
    exec (.awlTailWrite src b i v) s = .next (awlSetTail s (8 * b.val + i.val) (v.setWidth 32)) := by
  have put := blockWrite_host s (0x1_0010 + 0x40 * i.val) (fun s => awlSetTail s (8 * b.val + i.val) (v.setWidth 32)) hp
  show execAwlTailWrite src b i v s = _
  obtain ⟨-, -, -, -, rfl | rfl⟩ := id hp <;> exact congrArg Host.Outcome.next put

/-! ### RING_BASE and RING_SIZE (Table 03-16) -/

theorem awlRingWrite_host {src : Src} {p : Part} {b : Blk} {i : Fin 8} {size : Bool} {v : Word}
    (hp : hostReachesBlock s src p b) : exec (.awlRingWrite src b i size v) s =
      let n := 8 * b.val + i.val
      .next (if (s.awl n).head ≠ (s.awl n).tail ∨ (s.awl n).jobs ≠ [] then s
        else if size then
          if 4 ≤ v.toNat % 32 ∧ v.toNat % 32 ≤ 16 then s.setAwl n { s.awl n with size := v.toNat % 32 } else s
        else s.setAwl n { s.awl n with base := v.toNat / 64 * 64 }) := by
  show execAwlRingWrite src b i size v s = _
  simp only [execAwlRingWrite, blockWrite_host s _ _ hp]
  simp [bitsOf]

/-- Settles O6. -/
theorem awlRingRegisters : Obligations.AwlRingRegisters := by
  intro src p b i v s hp
  refine ⟨fun h => ⟨⟨_, awlTailWrite_host hp, awlSetTail_taken h⟩, fun ho => ?_⟩, fun h => ?_, fun hempty hidle => ⟨?_, ?_⟩,
    fun hbusy size => ?_, fun base size k => rfl⟩
  · rw [awlTailWrite_host hp, awlSetTail_own h ho]
  · rw [awlTailWrite_host hp, awlSetTail_refused h]
  · rw [awlRingWrite_host hp]
    simp [hempty, hidle]
  · intro hlo hhi
    rw [awlRingWrite_host hp]
    simp [hempty, hidle, hlo, hhi]
  · rw [awlRingWrite_host hp]
    simp only [if_pos hbusy]

end Sys2Proof.Machine
end

section
/-! # Descriptors at the head of an Awl's ring -/

namespace Sys2Proof.Machine

variable {s : State}

/-- The memory, with its uncorrectable words, is `m`. -/
def keepsMemory (m : List Host.Cell × List Nat) : Invariant where
  holds s := (s.mem, s.badWords) = m
  other hs h := (congrArg (·.2.2.2.2) h).trans hs

theorem keepsMemory_free {m : List Host.Cell × List Nat} {k : Store} (hk : k ≠ .memory) : (keepsMemory m).Free k where
  change {s t} hs h _ :=
    (unlessFree_inj (congrArg (·.2.2.2.2) h) (beq_eq_false_iff_ne.2 hk) : (t.mem, t.badWords) = (s.mem, s.badWords)).trans hs

/-! ### What an Awl's operations leave of the Awls and of memory -/

theorem awl_of_awls {t : State} {n : Nat} (h : t.awls = s.awls) : t.awl n = s.awl n := by
  rw [State.awl, h]
  rfl

theorem writeEnded_awls {p : Nat} {o : MoveOwner} {d : Descriptor} {c : Byte} :
    (writeEnded s p o d c).awls = s.awls :=
  writeEnded_holds (I := keepsAwls s.awls) (keepsAwls_free (by decide)) rfl

theorem issueOne_awls {n p : Nat} {j : AwlJob} {q : AwlReq} : (issueOne s n p j q).state.awls = s.awls :=
  issueOne_holds (I := keepsAwls s.awls) (keepsAwls_free (by decide)) (keepsAwls_free (by decide)) rfl

theorem tackStart_awls {p : Nat} {j : AwlJob} : (tackStart s p j).1.awls = s.awls :=
  tackStart_holds (I := keepsAwls s.awls) (keepsAwls_free (by decide)) rfl

/-- Work at home waits on no line: there is nothing to settle (R98). -/
theorem settlePart_idle {p : Nat} (h : s.fab.home = []) : settlePart s p = s := by
  simp [settlePart, fillWaited, h]

/-! ### A descriptor completes (R102, R103) -/

/-- A completion is counted, keeps the code of a failure in LAST_FAIL, and leaves the other fields of its Awl. -/
theorem awlComplete_awl {n p : Nat} {j : AwlJob} : (awlComplete s n p j).awl n = { s.awl n with
    done := satAdd (2 ^ 64 - 1) (s.awl n).done 1
    lastFail := if j.status = 0 then (s.awl n).lastFail else j.status } := by
  let t := (traceEvent s p .awl n j.index.toNat).setAwl n { s.awl n with
    done := satAdd (2 ^ 64 - 1) (s.awl n).done 1
    lastFail := if j.status = 0 then (s.awl n).lastFail else j.status }
  have h : (awlComplete s n p j).awls = t.awls :=
    writeEnded_awls.trans (ite_holds (I := keepsAwls t.awls)
      (laneGive_holds (keepsAwls_free (by decide)) (ite_self_holds (ctrAdd_holds (keepsAwls_free (by decide))) rfl))
      (ite_self_holds (ctrAdd_holds (keepsAwls_free (by decide))) rfl))
  exact (awl_of_awls h).trans (setAwl_awl_same ..)

theorem awlComplete_mem {n p : Nat} {j : AwlJob} : (awlComplete s n p j).mem = s.mem := by
  have free {k : Store} (hk : k ≠ .memory) : (keepsMemory (s.mem, s.badWords)).Free k := keepsMemory_free hk
  have ht : (keepsMemory (s.mem, s.badWords)).holds (awlComplete s n p j) :=
    writeEnded_holds (free (by decide)) (ite_self_holds (laneGive_holds (free (by decide)))
      (ite_self_holds (ctrAdd_holds (free (by decide))) (setAwl_holds (free (by decide)) (traceEvent_holds rfl))))
  exact congrArg Prod.fst ht

/-! ### A descriptor in progress (R98, R99) -/

/-- Awl `n` has a job of index `i`, each such job is of descriptor `d`, and HEAD and the descriptor that waits are as
in `a`. -/
structure InProgress (s : State) (n : Nat) (a : Awl) (i : BitVec 32) (d : Descriptor) : Prop where
  head : (s.awl n).head = a.head
  waiting : (s.awl n).waiting = a.waiting
  desc : ∀ j ∈ (s.awl n).jobs, j.index = i → j.desc = d
  job : ∃ j ∈ (s.awl n).jobs, j.index = i

variable {n p : Nat} {a : Awl} {i : BitVec 32} {d : Descriptor}

theorem InProgress.found (h : InProgress s n a i d) : ∃ j ∈ (s.awl n).jobs, j.index = i ∧ j.desc = d := by
  obtain ⟨j, hj, hi⟩ := h.job
  exact ⟨j, hj, hi, h.desc j hj hi⟩

/-- A job put in the place of its own keeps the others, and its index and descriptor. -/
theorem InProgress.setJob {t : State} {j j' : AwlJob} (h : InProgress s n a i d) (ht : t.awls = s.awls)
    (hj : j ∈ (s.awl n).jobs) (hi : j'.index = j.index) (hd : j'.desc = j.desc) :
    InProgress (t.setAwl n ((t.awl n).setJob j')) n a i d := by
  rw [awl_of_awls ht]
  constructor <;> rw [setAwl_awl_same]
  · exact h.head
  · exact h.waiting
  · intro x hx hxi
    obtain ⟨y, hy, rfl⟩ := List.mem_map.1 hx
    by_cases hyj : y.index = j'.index
    · rw [if_pos hyj] at hxi ⊢
      exact hd.trans (h.desc j hj (hi ▸ hxi))
    · rw [if_neg hyj] at hxi ⊢
      exact h.desc y hy hxi
  · obtain ⟨x, hx, hxi⟩ := h.job
    refine ⟨_, List.mem_map_of_mem hx, ?_⟩
    split
    next hxj => exact hxj ▸ hxi
    · exact hxi

theorem awlIssue_inProgress {fuel : Nat} (h : InProgress s n a i d) : InProgress (awlIssue n p fuel s) n a i d := by
  induction fuel generalizing s with
  | zero => exact h
  | succ k ih =>
    unfold awlIssue
    split
    · exact h
    next j hj =>
      split
      · exact h
      · dsimp only
        split
        · exact h
        · refine ih (h.setJob issueOne_awls (List.mem_of_find?_eq_some hj) ?_ ?_)
          all_goals
            split
            · rfl
            · unfold AwlJob.fail
              split <;> rfl

theorem tackStart_job {j : AwlJob} : (tackStart s p j).2.index = j.index ∧ (tackStart s p j).2.desc = j.desc := by
  unfold tackStart
  dsimp only
  repeat' split
  all_goals exact ⟨rfl, rfl⟩

/-- A descriptor that starts is a job of its Awl. -/
theorem awlStart_inProgress {j : AwlJob} (hnew : (s.awl n).job j.index = none)
    (hok : (if j.desc.opcode = 3 then (tackStart s p j).2.status else j.status) = 0) :
    InProgress (awlStart s n p j) n (s.awl n) j.index j.desc := by
  have placed (t : State) (x : AwlJob) (ht : t.awls = s.awls) (hi : x.index = j.index) (hd : x.desc = j.desc) :
      InProgress (awlIssue n p 512 (t.setAwl n { t.awl n with jobs := (t.awl n).jobs ++ [x] })) n (s.awl n) j.index
        j.desc := by
    refine awlIssue_inProgress ?_
    rw [awl_of_awls ht]
    constructor <;> rw [setAwl_awl_same]
    · intro y hy hyi
      rcases List.mem_append.1 hy with hy | hy
      · exact absurd (decide_eq_true hyi) (List.find?_eq_none.1 hnew y hy)
      · rw [List.mem_singleton.1 hy, hd]
    · exact ⟨x, List.mem_append_right _ (List.mem_singleton_self x), hi⟩
  unfold awlStart
  by_cases h3 : j.desc.opcode = 3
  · rw [if_pos h3] at hok
    simp only [if_pos h3, hok, ne_eq, not_true_eq_false, if_false]
    exact placed _ _ tackStart_awls tackStart_job.1 tackStart_job.2
  · rw [if_neg h3] at hok
    simp only [if_neg h3, hok, ne_eq, not_true_eq_false, if_false]
    exact placed _ _ rfl rfl rfl

/-! ### The turn of the descriptor at the head (R97) -/

/-- Reading an index table says the same of it whatever the Awl's registers and whosever the descriptor. -/
theorem tackStart_status {j : AwlJob} {x : Awl} {o : MoveOwner} (hh : s.fab.home = []) :
    (tackStart (s.setAwl n x) p { j with owner := o }).2.status = (tackStart s p j).2.status := by
  have hx : settlePart (s.setAwl n x) p = s.setAwl n x := settlePart_idle hh
  unfold tackStart
  dsimp only
  rw [settlePart_idle hh, hx]
  have hc : readCode (s.setAwl n x) p = readCode s p := rfl
  have hl : loadBytes (s.setAwl n x) p = loadBytes s p := rfl
  rw [hc, hl]
  simp only [apply_ite Prod.snd, apply_ite AwlJob.status]

/-- What the turn of an Awl does to the descriptor at its head, once it has been read and its opcode is the one wanted. -/
def turnOf (s : State) (n p : Nat) (d : Descriptor) : State :=
  let j : AwlJob := { index := (s.awl n).head, desc := d, owner := (s.awl n).maker }
  let t := s.setAwl n (s.awl n).advance
  if descCheck s p d ≠ 0 then awlComplete t n p { j with status := descCheck s p d }
  else if d.waits then
    if (s.counter d.waitCounter).fault then awlComplete t n p { j with status := 8 }
    else if ctrMet s d.waitCounter d.waitValue then awlStart t n p j
    else t.setAwl n { (s.awl n).advance with waiting := some j }
  else awlStart t n p j

/-- The head of a ring that is read well takes its turn. -/
theorem awlTurn_head {bs : List Byte} {op : Nat} (hp : awlPart s n = some p) (hne : (s.awl n).head ≠ (s.awl n).tail)
    (hw : (s.awl n).waiting = none) (hj : (s.awl n).jobs.length < 64)
    (hread : (ringRead s p (s.awl n).base (s.awl n).size 64 (s.awl n).head).1 = 0)
    (hbs : (ringRead s p (s.awl n).base (s.awl n).size 64 (s.awl n).head).2.1 = bs) (hop : (descOf bs).opcode = op)
    (hord : (descOf bs).ordered = false ∨ (s.awl n).jobs = []) (hsus : blockSuspect s (n / 8) = false)
    (hhalt : (s.block (n / 8)).halted = false) (hh : s.fab.home = []) :
    awlTurn s n op = turnOf s n p (descOf bs) := by
  have hsus' : blockSuspect (s.setAwl n (s.awl n).advance) (n / 8) = false := hsus
  have hcheck : descCheck (s.setAwl n (s.awl n).advance) p (descOf bs) = descCheck s p (descOf bs) := rfl
  have hturn : ¬ ((s.awl n).head = (s.awl n).tail ∨ (s.awl n).waiting.isSome = true ∨ 64 ≤ (s.awl n).jobs.length ∨
      (s.block (n / 8)).halted = true) := by
    simp [hne, hw, hhalt, hj]
  have hnow : ¬ ((descOf bs).opcode ≠ op ∧ 1 ≤ (descOf bs).opcode ∧ (descOf bs).opcode ≤ 3 ∨
      (descOf bs).ordered = true ∧ (s.awl n).jobs ≠ []) := by
    rcases hord with h | h <;> simp [hop, h]
  unfold awlTurn
  simp only [hp, if_neg hturn, settlePart_idle hh, hread, hbs, hnow, hsus', hcheck, ne_eq, not_true_eq_false, if_false,
    Bool.false_eq_true]
  simp only [turnOf, setAwl_awl_same]
  rfl

/-! ### The clauses of O7 -/

section
variable (hcheck : descCheck s p d = 0)
include hcheck

theorem turnOf_starts (hh : s.fab.home = []) (hnew : (s.awl n).job (s.awl n).head = none)
    (hw : d.waits = false ∨ ((s.counter d.waitCounter).fault = false ∧ ctrMet s d.waitCounter d.waitValue = true))
    (htack : d.opcode = 3 → (tackStart s p { index := (s.awl n).head, desc := d }).2.status = 0) :
    InProgress (turnOf s n p d) n (s.awl n).advance (s.awl n).head d := by
  let j : AwlJob := { index := (s.awl n).head, desc := d, owner := (s.awl n).maker }
  have starts : InProgress (awlStart (s.setAwl n (s.awl n).advance) n p j) n (s.awl n).advance (s.awl n).head d := by
    have h := awlStart_inProgress (s := s.setAwl n (s.awl n).advance) (n := n) (p := p) (j := j)
    rw [setAwl_awl_same] at h
    refine h hnew ?_
    split
    next h3 => exact (tackStart_status (j := { index := (s.awl n).head, desc := d }) hh).trans (htack h3)
    · rfl
  have e : turnOf s n p d = awlStart (s.setAwl n (s.awl n).advance) n p j := by
    rcases hw with hw | ⟨hf, hm⟩
    · simp [turnOf, hcheck, hw, j]
    · simp [turnOf, hcheck, hf, hm, j]
  exact e ▸ starts

theorem turnOf_waits (hw : d.waits = true) (hf : (s.counter d.waitCounter).fault = false)
    (hm : ctrMet s d.waitCounter d.waitValue = false) :
    (turnOf s n p d).awl n = { (s.awl n).advance with
      waiting := some { index := (s.awl n).head, desc := d, owner := (s.awl n).maker } } := by
  simp [turnOf, hcheck, hw, hf, hm]

end

theorem turnOf_fails {code : Byte} (hcheck : descCheck s p d = code) (hne : code ≠ 0) :
    turnOf s n p d = awlComplete (s.setAwl n (s.awl n).advance) n p
      { index := (s.awl n).head, desc := d, owner := (s.awl n).maker, status := code } := by
  subst hcheck
  exact if_pos hne

/-- Settles O7: the three outcomes of `turnOf`. -/
theorem awlDescriptorsTakeTheirTurn : Obligations.AwlDescriptorsTakeTheirTurn := by
  intro b i p s bs op c hc hp hne hw hj hnew hread hbs hop hord hsus hhalt hh
  have hb : (8 * b.val + i.val) / 8 = b.val := by omega
  have hexec : exec c s = .next (turnOf s (8 * b.val + i.val) p (descOf bs)) := by
    rw [← awlTurn_head hp hne hw hj hread hbs hop hord (hb.symm ▸ hsus) (hb.symm ▸ hhalt) hh]
    rcases hc with ⟨rfl, rfl⟩ | ⟨rfl, rfl⟩ | ⟨rfl, rfl⟩ <;> rfl
  refine ⟨fun hcheck hwait htack => ⟨_, hexec, ?_⟩, fun hcheck hwait hf hm => ⟨_, hexec, ?_⟩,
    fun code hcheck hcode => ⟨_, hexec, ?_⟩⟩
  · have h := turnOf_starts (n := 8 * b.val + i.val) hcheck hh hnew hwait fun h3 => htack (hop.symm.trans h3)
    exact ⟨h.head, h.found⟩
  · rw [turnOf_waits hcheck hwait hf hm]
    exact ⟨rfl, _, rfl, rfl, rfl, rfl⟩
  · rw [turnOf_fails hcheck hcode, awlComplete_awl, awlComplete_mem, setAwl_awl_same]
    exact ⟨rfl, if_neg hcode, rfl, rfl, fun _ => rfl⟩

end Sys2Proof.Machine
end

section
/-! # How descriptors of an Awl end -/

namespace Sys2Proof.Machine

variable {s : State} {n p : Nat}

/-! ### A completion where no request is held -/

theorem liveOf_none {tag : BitVec 48} (h : (s.part p).hold.lives = []) : liveOf s p tag = none := by
  simp [liveOf, recOf, h]

/-- The end of a descriptor that no request waits for is at most noted on the step. -/
theorem writeEnded_noLives {o : MoveOwner} {d : Descriptor} {c : Byte} (h : (s.part p).hold.lives = []) :
    writeEnded s p o d c = s ∨ writeEnded s p o d c = noteStep s p c := by
  have hc : writtenCopies s p d = [] := by simp [writtenCopies, livesOf, h]
  by_cases h0 : c = 0#8 <;> cases o <;> simp [writeEnded, hc, copyMoved, endWith, flushAgain, liveOf_none h, h0]

theorem noteStep_moves {c : Byte} : ((noteStep s p c).part p).hold.moves = (s.part p).hold.moves := by
  unfold noteStep
  split <;> simp

theorem laneGive_parts {m : Nat} {who : LaneWriter} {it : Item} : (laneGive s m who it).parts = s.parts := by
  unfold laneGive
  dsimp only
  split <;> simp

/-- What a completion does before the end of its write is told to the requests. -/
def awlCounted (s : State) (n p : Nat) (j : AwlJob) : State :=
  let s := (traceEvent s p .awl n j.index.toNat).setAwl n { s.awl n with
    done := satAdd (2 ^ 64 - 1) (s.awl n).done 1
    lastFail := if j.status = 0 then (s.awl n).lastFail else j.status }
  let s := if j.desc.signals ∧ s.ownsCtr p j.desc.signalCounter then
      ctrAdd s j.desc.signalCounter 1 (j.status != 0) else s
  if j.desc.item ∧ s.ownsLane p j.desc.doneLane then laneGive s j.desc.doneLane .awl (awlItem n j) else s

theorem awlComplete_eq {j : AwlJob} :
    awlComplete s n p j = writeEnded (awlCounted s n p j) p j.owner j.desc j.status := rfl

theorem awlCounted_parts {j : AwlJob} : (awlCounted s n p j).parts = s.parts := by
  simp only [awlCounted, apply_ite State.parts, laneGive_parts, ctrAdd_parts, setAwl_parts, traceEvent_parts, ite_self]

/-- A completion posts no move of its own where no request is held. -/
theorem awlComplete_moves {j : AwlJob} (hl : (s.part p).hold.lives = []) :
    ((awlComplete s n p j).part p).hold.moves = (s.part p).hold.moves := by
  have hp : (awlCounted s n p j).part p = s.part p := by rw [State.part, awlCounted_parts]; rfl
  rw [awlComplete_eq]
  rcases writeEnded_noLives (o := j.owner) (d := j.desc) (c := j.status) (hp ▸ hl) with h | h
  · rw [h, hp]
  · rw [h, noteStep_moves, hp]

/-- An add to a counter that the partition owns (R84). -/
theorem ctrAdd_owned {c a : Nat} {f : Bool} (ho : s.ownsCtr p c = true) : (ctrAdd s c a f).counter c =
    { s.counter c with value := satAdd ctrMax (s.counter c).value a, fault := (s.counter c).fault || f } := by
  cases hk : s.counters.find c with
  | none => simp [State.ownsCtr, hk] at ho
  | some k =>
    rw [counter_of_find _ hk]
    exact counter_of_find _ (ctrAdd_find hk)

theorem counter_of_counters {t : State} {c : Nat} (h : t.counters = s.counters) : t.counter c = s.counter c := by
  rw [State.counter, h]
  rfl

/-- A completion that signals adds one to its counter, and faults it when the descriptor failed (R102). -/
theorem awlComplete_counter {j : AwlJob} (hs : j.desc.signals = true)
    (ho : s.ownsCtr p j.desc.signalCounter = true) :
    (awlComplete s n p j).counter j.desc.signalCounter = { s.counter j.desc.signalCounter with
      value := satAdd ctrMax (s.counter j.desc.signalCounter).value 1
      fault := (s.counter j.desc.signalCounter).fault || (j.status != 0) } := by
  let t := (traceEvent s p .awl n j.index.toNat).setAwl n { s.awl n with
    done := satAdd (2 ^ 64 - 1) (s.awl n).done 1
    lastFail := if j.status = 0 then (s.awl n).lastFail else j.status }
  have htc : t.counters = s.counters := by simp [t]
  have hto : j.desc.signals ∧ t.ownsCtr p j.desc.signalCounter := ⟨hs, by rw [State.ownsCtr, htc]; exact ho⟩
  have he : (awlComplete s n p j).counters = (ctrAdd t j.desc.signalCounter 1 (j.status != 0)).counters := by
    rw [awlComplete_eq]
    refine writeEnded_holds (I := keepsCounters _) (keepsCounters_free (by decide)) ?_
    unfold awlCounted
    dsimp only
    rw [if_pos hto]
    exact ite_self_holds (I := keepsCounters _) (laneGive_holds (keepsCounters_free (by decide))) rfl
  rw [counter_of_counters he, ctrAdd_owned hto.2, counter_of_counters htc]

/-! ### Requests end (R99, R100) -/

theorem awlIssue_idle {fuel : Nat} (h : ∀ j ∈ (s.awl n).jobs, j.issue = []) : awlIssue n p fuel s = s := by
  cases fuel with
  | zero => rfl
  | succ k =>
    have hn : ((s.awl n).jobs.find? fun j => !j.issue.isEmpty) = none :=
      List.find?_eq_none.2 fun j hj => by simp [h j hj]
    simp only [awlIssue, hn]

/-- Request slots that fall free start no request where nothing is left to issue. -/
theorem slotsFree_idle (h : ∀ j ∈ (s.awl n).jobs, j.issue = []) :
    (slotsFree s n p).awls = s.awls ∧ (slotsFree s n p).mem = s.mem := by
  have ha : (grantFetches p 64 s).awls = s.awls := grantFetches_holds (I := keepsAwls s.awls) rfl
  have hm : (grantFetches p 64 s).mem = s.mem :=
    congrArg Prod.fst (grantFetches_holds (I := keepsMemory (s.mem, s.badWords)) rfl)
  rw [slotsFree, awlIssue_idle fun j hj => h j (awl_of_awls ha ▸ hj)]
  exact ⟨ha, hm⟩

/-- The last request of the one descriptor in progress ends: the descriptor keeps what `reqEnds` makes of it. -/
theorem awlReqEnd_last {j j' : AwlJob} {q : AwlReq} {result : ReqEnd} {t : State} (hj : (s.awl n).jobs = [j])
    (hq : j.outstanding = [q]) (ht : reqEnds s p { j with outstanding := [] } q result = some (t, j'))
    (ha : t.awls = s.awls) (hi : j'.index = j.index) (hn : j'.issue = []) :
    ((awlReqEnd s n p j.index q.id result).awl n).jobs = [j'] ∧
      (awlReqEnd s n p j.index q.id result).mem = t.mem := by
  have hjobs : ((t.awl n).setJob j').jobs = [j'] := by simp [Awl.setJob, awl_of_awls ha, hj, hi]
  have he : reqEnd s n p j.index q.id result = some (t.setAwl n ((t.awl n).setJob j')) := by
    simp [reqEnd, Awl.job, hj, hq, ht]
  have hs := slotsFree_idle (s := t.setAwl n ((t.awl n).setJob j')) (n := n) (p := p)
    (by simp only [setAwl_awl_same, hjobs, List.mem_singleton, forall_eq, hn])
  rw [awlReqEnd, he]
  exact ⟨by rw [awl_of_awls hs.1, setAwl_awl_same, hjobs], hs.2⟩

/-- The state with `L` for the lines that its squares hold. -/
def withLines (s : State) (L : List Nat) : State := s.modFab fun f => { f with lines := L }

/-- Work at home waits on no line: a read or write passes the squares, and only the lines they hold change. -/
theorem passSquares_idle {off len : Nat} (h : s.fab.home = []) :
    ∃ L, passSquares s p off len = withLines s L := by
  have added (ls : List Nat) (t : State) (ht : ∃ L, t = withLines s L) :
      ∃ L, ls.foldl (fun s l => if s.fab.lines.contains l then s else addLine s l) t
        = withLines s L := by
    induction ls generalizing t with
    | nil => exact ht
    | cons l r ih =>
      obtain ⟨L, rfl⟩ := ht
      refine ih _ ?_
      dsimp only
      split
      · exact ⟨L, rfl⟩
      · exact ⟨_, rfl⟩
  unfold passSquares
  split
  · exact ⟨s.fab.lines, rfl⟩
  · refine added _ _ ⟨s.fab.lines, ?_⟩
    simp [fillWaited, h]
    rfl

theorem passSpans_idle {d : Descriptor} {spans : List (Nat × Nat)} (h : s.fab.home = []) :
    ∃ L, passSpans s p d spans = withLines s L := by
  unfold passSpans
  generalize ownSpans s p d spans = xs
  induction xs generalizing s with
  | nil => exact ⟨s.fab.lines, rfl⟩
  | cons x r ih =>
    obtain ⟨L, hL⟩ := passSquares_idle (s := s) (p := p) (off := x.1) (len := x.2) h
    simp only [List.foldl_cons, hL]
    exact ih (s := withLines s L) h

/-- A write at home that fails no check stores its bytes and is counted. -/
theorem localWrite_stores {j : AwlJob} {q : AwlReq} (h : s.fab.home = [])
    (hsrc : sourceFailure s p j.desc (sourceSpans j.desc q.row q.off q.len) = none)
    (hdst : writeFailure s p (reqDst j q) (reqBytes s p j q).length (coversPage j.desc) = none) :
    ∃ L, localWrite s p j q none =
      (storeRaw (withLines s L) p (reqDst j q) (reqBytes s p j q), j.credit q) := by
  obtain ⟨L, hL⟩ := passSpans_idle (s := s) (p := p) (d := j.desc) (spans := sourceSpans j.desc q.row q.off q.len) h
  obtain ⟨M, hM⟩ := passSquares_idle (s := withLines s L) (p := p) (off := reqDst j q)
    (len := (reqBytes s p j q).length) h
  have hsrc' : sourceFailure (withLines s L) p j.desc
      (sourceSpans j.desc q.row q.off q.len) = none := hsrc
  have hdst' : writeFailure (withLines s M) p (reqDst j q) (reqBytes s p j q).length
      (coversPage j.desc) = none := hdst
  have hbytes : reqBytes (withLines s L) p j q = reqBytes s p j q := rfl
  have hcode : writeCode (withLines s M) p (reqDst j q) (reqBytes s p j q).length
      (coversPage j.desc) = 0 := by rw [writeCode, hdst']; rfl
  refine ⟨M, ?_⟩
  simp only [localWrite, Option.isSome_none, Bool.false_eq_true, if_false, hL, hsrc', Option.getD_none, hbytes, hM]
  have hmm : (withLines (withLines s L) M) =
      withLines s M := rfl
  rw [hmm, hdst', transferWrite, hcode]
  rfl

/-! ### A flush (R106) -/

theorem awlUnreadable_awl {c : Byte} : (awlUnreadable s n p c).awl n =
    { (s.awl n).advance with done := satAdd (2 ^ 64 - 1) (s.awl n).done 1, lastFail := c } := by
  unfold awlUnreadable
  dsimp only
  split
  · exact setAwl_awl_same ..
  · rw [awl_of_awls writeEnded_awls, setAwl_awl_same]

theorem awlUnreadable_mem {c : Byte} : (awlUnreadable s n p c).mem = s.mem := by
  have free {k : Store} (hk : k ≠ .memory) : (keepsMemory (s.mem, s.badWords)).Free k := keepsMemory_free hk
  exact congrArg Prod.fst (awlUnreadable_holds (free (by decide)) (free (by decide)) rfl)

/-- A flush completes the descriptor at the head, and leaves TAIL, what waits, what is in progress and memory. -/
theorem awlFlushRing_succ {c : Byte} {fuel : Nat} (hne : (s.awl n).head ≠ (s.awl n).tail) :
    ∃ t, awlFlushRing n p c (fuel + 1) s = awlFlushRing n p c fuel t ∧ (t.awl n).head = (s.awl n).head + 1 ∧
      (t.awl n).tail = (s.awl n).tail ∧ (t.awl n).waiting = (s.awl n).waiting ∧ (t.awl n).jobs = (s.awl n).jobs ∧
      t.mem = s.mem := by
  refine ⟨_, (by simp only [awlFlushRing, if_neg hne]; rfl), ?_⟩
  split
  · have hr : (ringRead s p (s.awl n).base (s.awl n).size 64 (s.awl n).head).2.2.awls = s.awls :=
      ringRead_holds (I := keepsAwls s.awls) rfl
    have hm : (ringRead s p (s.awl n).base (s.awl n).size 64 (s.awl n).head).2.2.mem = s.mem :=
      congrArg Prod.fst (ringRead_holds (I := keepsMemory (s.mem, s.badWords)) rfl)
    rw [awlUnreadable_awl, awlUnreadable_mem, awl_of_awls hr]
    exact ⟨rfl, rfl, rfl, rfl, hm⟩
  · rw [awlComplete_awl, awlComplete_mem, setAwl_awl_same]
    exact ⟨rfl, rfl, rfl, rfl, rfl⟩

theorem dist32_succ {a b : BitVec 32} {k : Nat} (h : dist32 a b = k + 1) : dist32 a (b + 1) = k := by
  unfold dist32 at *
  bv_omega

/-- A flush of the whole ring leaves HEAD at TAIL. -/
theorem awlFlushRing_ends {c : Byte} {fuel : Nat} (hf : dist32 (s.awl n).tail (s.awl n).head = fuel) :
    ((awlFlushRing n p c fuel s).awl n).head = (s.awl n).tail ∧
      ((awlFlushRing n p c fuel s).awl n).tail = (s.awl n).tail ∧
      ((awlFlushRing n p c fuel s).awl n).waiting = (s.awl n).waiting ∧
      ((awlFlushRing n p c fuel s).awl n).jobs = (s.awl n).jobs ∧ (awlFlushRing n p c fuel s).mem = s.mem := by
  induction fuel generalizing s with
  | zero =>
    have h : (s.awl n).head = (s.awl n).tail := by
      unfold dist32 at hf
      bv_omega
    exact ⟨h, rfl, rfl, rfl, rfl⟩
  | succ k ih =>
    have hne : (s.awl n).head ≠ (s.awl n).tail := fun h => by simp [dist32, h] at hf
    obtain ⟨t, e, hh, ht, hw, hj, hm⟩ := awlFlushRing_succ (p := p) (c := c) (fuel := k) hne
    rw [e, ← ht, ← hw, ← hj, ← hm]
    exact ih (by rw [ht, hh]; exact dist32_succ hf)

theorem awlFlushAll_ends {c : Byte} : ((awlFlushAll s n p c).awl n).head = (s.awl n).tail ∧
    ((awlFlushAll s n p c).awl n).tail = (s.awl n).tail ∧ ((awlFlushAll s n p c).awl n).waiting = none ∧
    ((awlFlushAll s n p c).awl n).jobs = (s.awl n).jobs ∧ (awlFlushAll s n p c).mem = s.mem := by
  unfold awlFlushAll
  dsimp only
  split
  next hw => exact hw ▸ awlFlushRing_ends rfl
  next j hw =>
    have ha := awlComplete_awl (s := s.setAwl n { s.awl n with waiting := none }) (n := n) (p := p)
      (j := { j with status := c })
    have hm := awlComplete_mem (s := s.setAwl n { s.awl n with waiting := none }) (n := n) (p := p)
      (j := { j with status := c })
    rw [setAwl_awl_same] at ha
    have h := awlFlushRing_ends (n := n) (p := p) (c := c) (s := awlComplete (s.setAwl n { s.awl n with waiting := none }) n
      p { j with status := c }) (fuel := dist32 (s.awl n).tail (s.awl n).head) (by rw [ha])
    rwa [ha, hm] at h

/-! ### The clauses of O8 -/

variable {b : Blk} {i : Fin 8}

theorem execAwlWaitRelease_met {j : AwlJob} (hp : awlPart s (8 * b.val + i.val) = some p)
    (hw : (s.awl (8 * b.val + i.val)).waiting = some j) (hs : blockSuspect s b.val = false)
    (hm : ctrMet s j.desc.waitCounter j.desc.waitValue = true) :
    exec (.awlWaitRelease b i) s = .next (
      if (s.counter j.desc.waitCounter).fault then
        awlComplete (s.setAwl (8 * b.val + i.val) { s.awl (8 * b.val + i.val) with waiting := none }) (8 * b.val + i.val) p
          { j with status := 8 }
      else awlStart (s.setAwl (8 * b.val + i.val) { s.awl (8 * b.val + i.val) with waiting := none }) (8 * b.val + i.val) p
        j) := by
  have hs' : blockSuspect (s.setAwl (8 * b.val + i.val) { s.awl (8 * b.val + i.val) with waiting := none }) b.val = false :=
    hs
  show execAwlWaitRelease b i s = _
  simp [execAwlWaitRelease, hp, hw, hm, hs']
  rfl

theorem execAwlRequestDone_part {index : BitVec 32} {req : Nat} {result : ReqEnd}
    (hp : awlPart s (8 * b.val + i.val) = some p) :
    exec (.awlRequestDone b i index req result) s = .next (awlReqEnd s (8 * b.val + i.val) p index req result) := by
  show execAwlRequestDone b i index req result s = _
  simp [execAwlRequestDone, hp]

/-- A failed request stops its descriptor and changes no byte of memory. -/
theorem awlReqEnd_failed {j : AwlJob} {q : AwlReq} {c : Byte} (hj : (s.awl n).jobs = [j]) (hq : j.outstanding = [q])
    (h0 : j.status = 0) (hc : c ≠ 0) (hd : codeDefined c = true) :
    (∃ x, ((awlReqEnd s n p j.index q.id (.failed c)).awl n).jobs = [x] ∧ x.index = j.index ∧ x.desc = j.desc ∧
      x.status = c ∧ x.outstanding = [] ∧ x.doneBytes = j.doneBytes) ∧
      (awlReqEnd s n p j.index q.id (.failed c)).mem = s.mem := by
  obtain ⟨t, ht, ha, hm⟩ : ∃ t, reqEnds s p { j with outstanding := [] } q (.failed c) = some (t,
      AwlJob.fail { j with outstanding := [] } c (failedAt s p { j with outstanding := [] } q)) ∧
      t.awls = s.awls ∧ t.mem = s.mem :=
    ⟨_, by simp only [reqEnds, hc, hd, Bool.not_true, Bool.false_eq_true, or_self, if_false]; rfl,
      ite_self_holds (I := keepsAwls s.awls) badWordFault_holds rfl,
      congrArg Prod.fst (ite_self_holds (I := keepsMemory (s.mem, s.badWords)) badWordFault_holds rfl)⟩
  have hf (x : Nat) : AwlJob.fail { j with outstanding := [] } c x =
      { j with outstanding := [], status := c, detail := x, issue := [] } := if_pos h0
  rw [hf] at ht
  obtain ⟨hjobs, hmem⟩ := awlReqEnd_last hj hq ht ha rfl rfl
  exact ⟨⟨_, hjobs, rfl, rfl, rfl, rfl, rfl⟩, hmem.trans hm⟩

/-- An acknowledged write of the module's own memory is counted, and its bytes are stored. -/
theorem awlReqEnd_acked {j : AwlJob} {q : AwlReq} (hj : (s.awl n).jobs = [j]) (hq : j.outstanding = [q])
    (hi : j.issue = []) (h3 : j.desc.opcode ≠ 3) (hread : q.read = false) (hway : q.way = .own) (hh : s.fab.home = [])
    (hready : benchReady s (reqDst j q) = true)
    (hsrc : sourceFailure s p j.desc (sourceSpans j.desc q.row q.off q.len) = none)
    (hdst : writeFailure s p (reqDst j q) (reqBytes s p { j with outstanding := [] } q).length (coversPage j.desc) = none) :
    ((awlReqEnd s n p j.index q.id (.acked none)).awl n).jobs =
        [{ j with outstanding := [], doneBytes := j.doneBytes + q.len }] ∧
      ∃ L, (awlReqEnd s n p j.index q.id (.acked none)).mem =
        (storeRaw (withLines s L) p (reqDst j q) (reqBytes s p { j with outstanding := [] } q)).mem := by
  have hecc (xs : List (Nat × Nat)) : eccMetIn s p xs none = s := by
    induction xs with
    | nil => rfl
    | cons x r ih => exact ih
  obtain ⟨L, hL⟩ := localWrite_stores (j := { j with outstanding := [] }) (q := q) hh hsrc hdst
  have ht : reqEnds s p { j with outstanding := [] } q (.acked none) =
      some (localWrite s p { j with outstanding := [] } q none) := by
    have hready' : benchReady s (reqDst { j with outstanding := [] } q) = true := hready
    simp [reqEnds, hread, hway, hready', hecc]
  have hcredit : AwlJob.credit { j with outstanding := [] } q =
      { j with outstanding := [], doneBytes := j.doneBytes + q.len } := if_neg h3
  rw [hL, hcredit] at ht
  obtain ⟨hjobs, hmem⟩ := awlReqEnd_last hj hq ht (storeRaw_awls ..) rfl hi
  exact ⟨hjobs, L, hmem⟩

/-- Where all the memory of the module is trusted and has no uncorrectable word, a store holds every byte. -/
theorem memByte_storeRaw_in {off : Nat} {bs : List Byte} (hb : s.badWords = []) (ht : allTrusted s = true) {k : Nat}
    (h : k < bs.length) : memByte (storeRaw s p off bs).mem (memKey p off + k) = bs[k] := by
  rw [storeRaw_mem, memByte_memPuts_in _ _ _ _ _ h]
  simp [hb, suspectAt, ht]

theorem execAwlDescriptorComplete_done {j : AwlJob} (hp : awlPart s (8 * b.val + i.val) = some p)
    (hj : (s.awl (8 * b.val + i.val)).job j.index = some j) (hi : j.issue = []) (ho : j.outstanding = []) :
    exec (.awlDescriptorComplete b i j.index) s = .next (holderOn (awlComplete (s.setAwl (8 * b.val + i.val)
      { s.awl (8 * b.val + i.val) with
        jobs := (s.awl (8 * b.val + i.val)).jobs.filter fun x => decide (x.index ≠ j.index) }) (8 * b.val + i.val) p j) p) := by
  show execAwlDescriptorComplete b i j.index s = _
  simp [execAwlDescriptorComplete, hp, hj, hi, ho]

/-- Without a move to post, the firmware notes its contexts and touches nothing else. -/
theorem holderOn_noMoves (h : (s.part p).hold.moves = []) :
    (holderOn s p).awls = s.awls ∧ (holderOn s p).counters = s.counters ∧ (holderOn s p).mem = s.mem := by
  have e : holderOn s p = refreshCtxs s p := by simp [holderOn, h, postMoves]
  rw [e]
  exact ⟨refreshCtxs_holds (p := p) (I := keepsAwls s.awls) rfl, refreshCtxs_holds (p := p) (I := keepsCounters s.counters) rfl,
    congrArg Prod.fst (refreshCtxs_holds (p := p) (I := keepsMemory (s.mem, s.badWords)) rfl)⟩

/-- Settles O8: a wait released, a request ended, a descriptor completed, a ring flushed. -/
theorem awlDescriptorsEnd : Obligations.AwlDescriptorsEnd := by
  intro b i p s
  refine ⟨fun j hp hw hs => ⟨fun hf => ?_, fun hf hm h3 h0 hnew => ?_⟩,
    fun j q c hp hj hq hi h0 => ⟨fun hc hd => ?_, ?_⟩, fun j hp hj hi ho hmv hl => ?_, fun q src v hq hv => ?_⟩
  · have hm : ctrMet s j.desc.waitCounter j.desc.waitValue = true := by simp [ctrMet, hf]
    refine ⟨_, execAwlWaitRelease_met hp hw hs hm, ?_⟩
    rw [if_pos hf, awlComplete_awl, setAwl_awl_same]
    exact ⟨rfl, rfl, rfl⟩
  · refine ⟨_, execAwlWaitRelease_met hp hw hs hm, ?_⟩
    rw [hf, if_neg Bool.false_ne_true]
    have h := awlStart_inProgress (p := p) (n := 8 * b.val + i.val) (j := j)
      (s := s.setAwl (8 * b.val + i.val) { s.awl (8 * b.val + i.val) with waiting := none })
      (by rw [setAwl_awl_same]; exact hnew) (by rw [if_neg h3]; exact h0)
    exact ⟨h.waiting.trans (by rw [setAwl_awl_same]), h.found⟩
  · obtain ⟨⟨x, hx, hxi, hxd, hxs, hxo, hxb⟩, hm⟩ := awlReqEnd_failed (p := p) hj hq h0 hc hd
    exact ⟨_, execAwlRequestDone_part hp, x, hx, hxi, hxd, hxs, hxo, hxb, hm⟩
  · rintro bs rfl h3 hread hway hh hready hsrc hdst
    obtain ⟨hjobs, L, hmem⟩ := awlReqEnd_acked hj hq hi h3 hread hway hh hready hsrc hdst
    refine ⟨_, execAwlRequestDone_part hp, ⟨_, hjobs, rfl, rfl, h0, rfl, rfl⟩, fun a ha => ?_, fun hb ht k hk => ?_⟩
    · rw [hmem]
      exact memByte_storeRaw_out _ _ _ _ _ ha
    · rw [hmem]
      exact memByte_storeRaw_in (s := withLines s L) hb ht hk
  · let a : Awl := { s.awl (8 * b.val + i.val) with
      jobs := (s.awl (8 * b.val + i.val)).jobs.filter fun x => decide (x.index ≠ j.index) }
    have ha := awlComplete_awl (s := s.setAwl (8 * b.val + i.val) a) (n := 8 * b.val + i.val) (p := p) (j := j)
    have hc := awlComplete_counter (s := s.setAwl (8 * b.val + i.val) a) (n := 8 * b.val + i.val) (p := p) (j := j)
    have hm := awlComplete_mem (s := s.setAwl (8 * b.val + i.val) a) (n := 8 * b.val + i.val) (p := p) (j := j)
    obtain ⟨hAwls, hCtrs, hMem⟩ := holderOn_noMoves (p := p)
      ((awlComplete_moves (s := s.setAwl (8 * b.val + i.val) a) (n := 8 * b.val + i.val) (j := j) hl).trans hmv)
    refine ⟨_, execAwlDescriptorComplete_done hp hj hi ho, ?_⟩
    rw [awl_of_awls hAwls, ha, setAwl_awl_same]
    refine ⟨?_, rfl, rfl, fun hsig hown => ?_, hMem.trans hm⟩
    · refine List.find?_eq_none.2 fun x hx => ?_
      simpa using (List.mem_filter.1 hx).2
    · have hctr := hc hsig hown
      rw [counter_of_counters hCtrs, hctr]
      exact ⟨rfl, rfl⟩
  · obtain ⟨hh, ht, hw, hj, hm⟩ := awlFlushAll_ends (s := s) (n := 8 * b.val + i.val) (p := q.val) (c := 8)
    refine ⟨awlFlushAll s (8 * b.val + i.val) q.val 8, ?_, hh, ht, hw, hj, fun _ => hm⟩
    show execAwlFlush src b i v s = _
    simp [execAwlFlush, blockWrite_host s _ _ hq, hq.1, hv]

end Sys2Proof.Machine
end

section
/-! # Replies, cancels and the output backlog -/

namespace Sys2Proof.Machine

variable {s : State} {p : Nat} {tag : BitVec 48}

/-! ### Messages (R147, R154): what sending one leaves as it was -/

/-- The transport changes nothing but the fabric. -/
def onlyFab (s t : State) : Prop := t = { s with fab := t.fab }

theorem onlyFab.trans {t u : State} (h : onlyFab s t) (h' : onlyFab t u) : onlyFab s u := by
  rw [onlyFab] at *
  rw [h', h]

theorem onlyFab_ite {c : Prop} [Decidable c] {t u : State} (ht : onlyFab s t) (hu : onlyFab s u) :
    onlyFab s (if c then t else u) := by
  split
  · exact ht
  · exact hu

theorem setPeer_onlyFab {d : Nat} {x : Peer} : onlyFab s (s.setPeer d x) := rfl

theorem originate_onlyFab {x : TxPacket} : onlyFab s (originate s x) := by
  unfold originate
  split <;> rfl

theorem sendNow_onlyFab {d cls : Nat} {u : Unacked} : onlyFab s (sendNow s d cls u) :=
  setPeer_onlyFab.trans originate_onlyFab

theorem sendWaiting_onlyFab {d cls fuel : Nat} : onlyFab s (sendWaiting d cls fuel s) := by
  induction fuel generalizing s with
  | zero => rfl
  | succ n ih =>
    simp only [sendWaiting]
    split
    · rfl
    · exact onlyFab_ite rfl (setPeer_onlyFab.trans (sendNow_onlyFab.trans ih))

theorem withContext_onlyFab {d : Nat} {r : State} (h : withContext s d = some r) : onlyFab s r := by
  simp only [withContext] at h
  split at h
  · exact Option.some.inj h ▸ rfl
  · split at h
    · exact Option.some.inj h ▸ rfl
    · obtain ⟨e, -, rfl⟩ := Option.map_eq_some_iff.1 h
      rfl

theorem xtSubmit_onlyFab {d cls : Nat} {u : Unacked} {r : State} (h : xtSubmit s d cls u = some r) : onlyFab s r := by
  have hc : onlyFab s ((withContext s d).getD s) := by
    cases hw : withContext s d with
    | none => rfl
    | some t => exact withContext_onlyFab hw
  simp only [xtSubmit] at h
  split at h
  · exact absurd h (by simp)
  · exact Option.some.inj h ▸ hc.trans (setPeer_onlyFab.trans sendWaiting_onlyFab)

/-- A message to a device that can be reached goes out once, and the fabric carries it. -/
theorem svcPost_eq {d q : Nat} {h : SvcHdr} {payload : List Byte} {waits : Bool} (hu : unreachable s d = false) :
    onlyFab (s.emit (.service d q h payload)) (svcPost s p d q h payload waits) := by
  have posted (xs : List Nat) (f : Nat → Unacked) (t : State) : onlyFab t
      (xs.foldl (fun s i => (xtSubmit s d 1 (f i)).getD s) t) := by
    induction xs generalizing t with
    | nil => rfl
    | cons i r ih =>
      refine onlyFab.trans ?_ (ih _)
      show onlyFab t ((xtSubmit t d 1 (f i)).getD t)
      cases hx : xtSubmit t d 1 (f i) with
      | none => rfl
      | some u => exact xtSubmit_onlyFab hx
  simp only [svcPost, hu, Bool.false_eq_true, if_false]
  exact onlyFab.trans (t := State.modFab _ _) rfl (posted _ _ _)

/-- An answer with a code, to a device that can be reached. -/
theorem svcCode_replies {h : SvcHdr} {c : Byte} (hu : unreachable s h.fromDevice = false) :
    repliesWith s (svcCode s p h c) h c ∧ (svcCode s p h c).mem = s.mem ∧
      ((svcCode s p h c).part p).hold = (s.part p).hold := by
  unfold svcCode svcReply
  rw [svcPost_eq (s := s.modPLast p _) (p := p) hu]
  refine ⟨⟨replyHdr s p h c, [], rfl, rfl, rfl, rfl, rfl, rfl⟩, rfl, ?_⟩
  simp [State.emit, State.part]

/-! ### The records of the requests -/

theorem recOf_of_lives {t : State} (h : (t.part p).hold.lives = (s.part p).hold.lives) : recOf t p tag = recOf s p tag := by
  rw [recOf, h]
  rfl

theorem liveOf_of_lives {t : State} (h : (t.part p).hold.lives = (s.part p).hold.lives) : liveOf t p tag = liveOf s p tag := by
  rw [liveOf, recOf_of_lives h]
  rfl

theorem recOf_of_liveOf {l : Live} (h : liveOf s p tag = some l) : recOf s p tag = some l ∧ l.ended = false := by
  simpa [liveOf, Option.filter_eq_some_iff] using h

theorem recOf_tag {l : Live} (h : recOf s p tag = some l) : l.req.tag = tag := by
  simpa using List.find?_some h

/-- The record of a request whose change keeps its tag is the changed one. -/
theorem recOf_modLive {f : Live → Live} (hf : ∀ l, (f l).req.tag = l.req.tag) :
    recOf (modLive s p tag f) p tag = (recOf s p tag).map f := by
  have hkeeps : ((fun l : Live => decide (l.req.tag = tag)) ∘ fun l => if l.req.tag = tag then f l else l) =
      fun l => decide (l.req.tag = tag) := by
    funext l
    by_cases h : l.req.tag = tag <;> simp [h, hf]
  simp only [recOf, modLive, modHold_eq, setPart_part_same, List.find?_map, hkeeps]
  exact Option.map_congr fun l hl => if_pos (recOf_tag hl)

theorem liveOf_modLive {f : Live → Live} {l : Live} (hl : liveOf s p tag = some l) (hf : ∀ l, (f l).req.tag = l.req.tag)
    (he : (f l).ended = l.ended) : liveOf (modLive s p tag f) p tag = some (f l) := by
  obtain ⟨hr, hend⟩ := recOf_of_liveOf hl
  simp [liveOf, recOf_modLive hf, hr, he, hend]

theorem recOf_modReq {f : Record → Record} (hf : ∀ r, (f r).tag = r.tag) :
    recOf (modReq s p tag f) p tag = (recOf s p tag).map fun l => { l with req := f l.req } :=
  recOf_modLive fun l => hf l.req

theorem liveOf_modReq {f : Record → Record} {y : Live}
    (h : liveOf (modReq s p tag f) p tag = some y) (hf : ∀ r, (f r).tag = r.tag) : ∃ z, liveOf s p tag = some z ∧ y.req = f z.req := by
  obtain ⟨hr, he⟩ := recOf_of_liveOf h
  rw [recOf_modReq hf] at hr
  obtain ⟨z, hz, rfl⟩ := Option.map_eq_some_iff.1 hr
  exact ⟨z, by simpa [liveOf, hz] using he, rfl⟩

/-! ### The end of an operation of the holder's firmware -/

/-- What the notes that the firmware takes of its contexts leave as it was. -/
structure SameRequests (s t : State) (p : Nat) : Prop where
  lives : (t.part p).hold.lives = (s.part p).hold.lives
  backlog : (t.part p).hold.backlog = (s.part p).hold.backlog
  last : (t.part p).last = (s.part p).last
  lanes : t.lanes = s.lanes
  out : t.out = s.out
  mem : t.mem = s.mem

/-- Without a move to post, the firmware notes its contexts and nothing else changes. -/
theorem holderOn_idle (h : (s.part p).hold.moves = []) : SameRequests s (holderOn s p) p := by
  have e : holderOn s p = refreshCtxs s p := by simp [holderOn, h, postMoves]
  rw [e]
  constructor <;> simp [refreshCtxs]

/-! ### Replies to requests (R147, R154, R160, R161, R170) -/

/-- The state without the request `id` among those of partition `p` that wait for a reply. -/
def withoutSent (s : State) (p id : Nat) : State := s.modPLast p fun l => { l with sent := l.sent.del id }

theorem withoutSent_part {id : Nat} : (withoutSent s p id).part p =
    { s.part p with last := { (s.part p).last with sent := (s.part p).last.sent.del id } } := by
  simp [withoutSent]

theorem svcReplied_taken {h : SvcHdr} {payload : List Byte} {source : Option (List Byte)} {x : SvcSent}
    (hd : s.fab.device ≠ 0xFFFF) (h5 : s.code p = 5) (hr : h.reply = true) (h0 : h.status = 0)
    (hx : (s.part p).last.sent.find h.msgId = some x) (ho : x.h.op = h.op) :
    svcReplied s p h payload source = svcOutcome (withoutSent s p h.msgId) p h.msgId x h 0 payload source := by
  simp only [svcReplied, hd, hr, h5, Bool.not_true, Bool.false_eq_true, ne_eq, not_true_eq_false, if_false, hx, ho,
    svcEnds, h0]
  exact if_neg (by decide)

/-- At most the records of the requests of partition `p`, and what no clause here speaks of, changed. -/
structure RecordsOnly (s t : State) (p : Nat) : Prop where
  last : (t.part p).last = (s.part p).last
  moves : (t.part p).hold.moves = (s.part p).hold.moves
  backlog : (t.part p).hold.backlog = (s.part p).hold.backlog
  lanes : t.lanes = s.lanes
  mem : t.mem = s.mem

theorem RecordsOnly.trans {t u : State} (h : RecordsOnly s t p) (h' : RecordsOnly t u p) : RecordsOnly s u p :=
  ⟨h'.last.trans h.last, h'.moves.trans h.moves, h'.backlog.trans h.backlog, h'.lanes.trans h.lanes, h'.mem.trans h.mem⟩

theorem modLive_recordsOnly {f : Live → Live} : RecordsOnly s (modLive s p tag f) p := by
  constructor <;> simp [modLive]

theorem onlyFab.recordsOnly {t : State} (h : onlyFab s t) : RecordsOnly s t p := by
  rw [onlyFab] at h
  rw [h]
  exact ⟨rfl, rfl, rfl, rfl, rfl⟩

theorem onlyFab.liveOf {t : State} (h : onlyFab s t) : liveOf t p tag = liveOf s p tag := by
  rw [onlyFab] at h
  rw [h]
  rfl

/-- Reading the directory entry of a copy's source sends a message and changes nothing else. -/
theorem loadSource_onlyFab {l : Live} {w : Word} : onlyFab s (loadSource s p l w) := by
  unfold loadSource
  split
  · rfl
  next i _ =>
    dsimp only
    cases hx : walkerRead s p (spTableAt s p i) ((spTableAt s p i).dirBase + 64 * handleSlot w) 64 .none with
    | none => rfl
    | some t => exact xtSubmit_onlyFab hx

/-- A grant is entered in the record of its request; beside it at most a copy begins. -/
theorem takeGrant_live {l : Live} {asked : Word} {h : SvcHdr} {payload : List Byte} {source : Option (List Byte)}
    (hl : liveOf s p tag = some l) (hs : source = none ∨ l.walkMatch = 0) :
    RecordsOnly s (takeGrant s p l asked h payload source) p ∧
      ∃ c, liveOf (takeGrant s p l asked h payload source) p tag = some { l.withGrant asked h payload with copy := c } := by
  obtain rfl : l.req.tag = tag := recOf_tag (recOf_of_liveOf hl).1
  have htag (x : Live) : (x.withGrant asked h payload).req.tag = x.req.tag := by
    unfold Live.withGrant
    dsimp only
    split <;> rfl
  have hg := liveOf_modLive (f := fun x => x.withGrant asked h payload) hl htag rfl
  unfold takeGrant
  dsimp only
  split
  next hw =>
    obtain rfl := hs.resolve_right hw.2.1
    unfold beginCopy
    rw [hg]
    refine ⟨modLive_recordsOnly.trans (modLive_recordsOnly.trans loadSource_onlyFab.recordsOnly), _,
      loadSource_onlyFab.liveOf.trans (liveOf_modLive hg (fun _ => rfl) rfl)⟩
  · exact ⟨modLive_recordsOnly, l.copy, hg⟩

/-- Without a COMMIT to send, the record of the request stays as it is. -/
theorem sendDue_idle {l : Live} (hl : liveOf s p tag = some l) (hdue : l.due = []) :
    RecordsOnly s (sendDue s p tag) p ∧ liveOf (sendDue s p tag) p tag = some l := by
  unfold sendDue
  simp only [hl, hdue, List.filter_nil, List.foldl_nil]
  refine ⟨modLive_recordsOnly, (liveOf_modLive hl (fun x => ?_) rfl).trans ?_⟩
  · dsimp only
    split <;> rfl
  · simp [hdue]
    rw [← hdue]

/-- A tail shorter than the next 64 positions is not flushed yet. -/
theorem flushTail_short {l : Live} {fuel : Nat} (hl : liveOf s p tag = some l) (h4 : l.req.phase = 4)
    (hs : l.req.seq < l.flushedTo + 64) : flushTail fuel s p tag = s := by
  cases fuel with
  | zero => rfl
  | succ n => simp [flushTail, hl, h4, hs]

/-- A request that decodes, with no COMMIT to send and a short tail, sends nothing. -/
theorem commitProgress_idle {l : Live} (hl : liveOf s p tag = some l) (h4 : l.req.phase = 4) (hdue : l.due = [])
    (hs : l.req.seq < l.flushedTo + 64) :
    RecordsOnly s (commitProgress s p tag) p ∧ liveOf (commitProgress s p tag) p tag = some l := by
  have hpre : l.prefilled = false := by simp [Live.prefilled, h4]
  obtain ⟨hr, hl1⟩ := sendDue_idle hl hdue
  obtain ⟨hr', hl2⟩ := sendDue_idle hl1 hdue
  have e : commitProgress s p tag = sendDue (sendDue s p tag) p tag := by
    simp [commitProgress, hl, hpre, flushOn, flushTail_short hl1 h4 hs, releaseIfDurable, hl2, h4]
  rw [e]
  exact ⟨hr.trans hr', hl2⟩

theorem settle_tag {l l' : Live} : (settle l l').req.tag = l'.req.tag := by
  unfold settle
  dsimp only
  split <;> rfl

/-- The record after the COMMIT `q` has been answered well. -/
def committed (q : SvcHdr) (l : Live) : Live :=
  settle l (
    if q.handle = l.req.mirror then { l with commitsMirror := l.commitsMirror.erase (q.posA, q.posB) }
    else { l with commitsPrimary := l.commitsPrimary.erase (q.posA, q.posB) })

theorem committed_tag {q : SvcHdr} {l : Live} : (committed q l).req.tag = l.req.tag := by
  rw [committed, settle_tag]
  split <;> rfl

theorem svcOutcome_grant {id : Nat} {x : SvcSent} {h : SvcHdr} {payload : List Byte} {source : Option (List Byte)} {l : Live}
    (h1 : x.h.op = 1) (hp : x.h.partner = false) (hl : liveOf s p x.h.tag = some l) (hg : l.granted = false)
    (hr : l.releasing = false) :
    svcOutcome s p id x h 0 payload source = takeGrant s p l x.h.handle h payload source := by
  have hto : toPartner x = false := by simp [toPartner, h1, hp]
  simp [svcOutcome, hto, h1, openAnswered, hl, hg, hr]

theorem svcOutcome_commit {id : Nat} {x : SvcSent} {h : SvcHdr} {payload : List Byte} {source : Option (List Byte)}
    (h2 : x.h.op = 2) : svcOutcome s p id x h 0 payload source = commitAnswered s p x.h 0 := by
  have hto : toPartner x = false := by simp [toPartner, h2]
  simp [svcOutcome, hto, h2]

/-- The one COMMIT of a request is answered: its positions are durable, and nothing more is flushed. -/
theorem commitAnswered_durable {q : SvcHdr} {l : Live} (hl : liveOf s p q.tag = some l) (h4 : l.req.phase = 4)
    (hm : l.req.mirror = allOnes64) (hon : l.req.onMirror = false) (hq : q.handle = l.req.last)
    (hlast : l.req.last ≠ allOnes64) (hcp : l.commitsPrimary = [(q.posA, q.posB)]) (hcm : l.commitsMirror = [])
    (hdue : l.due = []) (hseq : l.req.seq < max l.req.length q.posB + 64) :
    RecordsOnly s (commitAnswered s p q 0) p ∧ ∃ l', liveOf (commitAnswered s p q 0) p q.tag = some l' ∧
      l'.req.length = max l.req.length q.posB ∧ l'.commitsPrimary = [] := by
  have hF : committed q l = { l with commitsPrimary := [], req := { l.req with length := max l.req.length q.posB } } := by
    have hne : ¬ q.handle = l.req.mirror := by rw [hq, hm]; exact hlast
    simp [committed, hne, settle, Live.commits, hcp, hcm, h4, Live.flushedTo]
  have hl1 : liveOf (modLive s p q.tag (committed q)) p q.tag = _ := liveOf_modLive hl (fun _ => committed_tag) (by rw [hF])
  rw [hF] at hl1
  have e : commitAnswered s p q 0 =
      if l.releasing then modLive s p q.tag (committed q) else commitProgress (modLive s p q.tag (committed q)) p q.tag := by
    have hmem : l.copies.contains q.handle = true := by simp [Live.copies, hon, hq]
    simp only [commitAnswered, hl, hmem, Bool.not_true, Bool.false_eq_true, if_false, if_true]
    rfl
  rw [e]
  split
  · exact ⟨modLive_recordsOnly, _, hl1, rfl, rfl⟩
  · obtain ⟨hr, hl2⟩ := commitProgress_idle hl1 h4 hdue (by simpa [Live.flushedTo, Live.commits, hcm] using hseq)
    exact ⟨modLive_recordsOnly.trans hr, _, hl2, rfl, rfl⟩

/-! ### Cancels (R178 to R181) -/

/-- A cancel of a request in hand, while a step runs, is noted on its record. -/
theorem submitCancel_live {l : Live} {slots : List Nat} {msgs : List SvcHdr} (hl : liveOf s p tag = some l)
    (h5 : l.req.phase < 5) (hstep : (s.part p).hold.step ≠ none) : ∃ F : Live → Live,
      submitCancel s p tag slots msgs = modLive s p tag F ∧
      liveOf (modLive s p tag F) p tag = some { l with
        cancelSlots := l.cancelSlots ++ slots, cancelMsgs := l.cancelMsgs ++ msgs, req := { l.req with cancel := true } } := by
  obtain ⟨hr, he⟩ := recOf_of_liveOf hl
  refine ⟨_, (by simp [submitCancel, hr, he, modLive, hstep]; rfl), ?_⟩
  refine (liveOf_modLive hl (fun x => ?_) rfl).trans ?_
  · dsimp only
    split <;> rfl
  · simp [h5]

theorem submitCancel_ended {l : Live} {slots : List Nat} {msgs : List SvcHdr} (hr : recOf s p tag = some l)
    (he : l.ended = true) : submitCancel s p tag slots msgs = cancelsEnd s p slots msgs l.cancelCode := by
  simp [submitCancel, hr, he]

theorem submitCancel_unknown {slots : List Nat} {msgs : List SvcHdr} (hr : recOf s p tag = none)
    (hf : ((s.part p).last.forwards.find? fun f => decide (f.tag = tag)) = none) :
    submitCancel s p tag slots msgs = cancelsEnd s p slots msgs 1 := by
  simp [submitCancel, hr, hf]

/-- A message that partition `p` takes is noted as received, and served. -/
theorem svcReceive_taken {h : SvcHdr} {op : Byte} {f : State → State} (ht : serviceTaken s p op h) :
    svcReceive s p h op true f = f (s.modPLast p fun l => { l with received := l.received ++ [h] }) := by
  obtain ⟨hu, h5, hr, ho, ha, hn⟩ := ht
  have hd : s.fab.device ≠ 0xFFFF#16 := fun h => by simp [unreachable, h] at hu
  simp [svcReceive, hd, h5, hr, ho, ha, hn]

/-- The slot of a cancel that ended shows its code. -/
theorem cancelDone_slot {k : Nat} {c : Byte} :
    ((cancelDone s p k c).part p).last.cancels.at k {} =
      { (s.part p).last.cancels.at k {} with armed := false, status := c } ∧
    ((cancelDone s p k c).part p).hold = (s.part p).hold ∧ (cancelDone s p k c).mem = s.mem := by
  unfold cancelDone
  dsimp only
  split <;> simp [raisePart, State.part]

/-! ### The output backlog (R69) -/

theorem recOf_dropLive : recOf (dropLive s p tag) p tag = none := by
  simp [recOf, dropLive]

/-- An item that leaves for the lane changes the record of its request: a final one frees it. -/
theorem itemEmitted_records {x : OutItem} : RecordsOnly s (itemEmitted s p x) p ∧
    (x.mine = true → (itemFld x.item 2 1).testBit 0 = true → recOf (itemEmitted s p x) p (itemTag x.item) = none) := by
  unfold itemEmitted
  dsimp only
  split
  next hm => exact ⟨⟨rfl, rfl, rfl, rfl, rfl⟩, fun h => by simp [h] at hm⟩
  · split
    · exact ⟨by constructor <;> simp [dropLive], fun _ _ => recOf_dropLive⟩
    next hf => exact ⟨modLive_recordsOnly, fun _ h => absurd h hf⟩

theorem itemEmitted_phase {x : OutItem} {y : Live} (h : liveOf (itemEmitted s p x) p (itemTag x.item) = some y) :
    ∃ z, liveOf s p (itemTag x.item) = some z ∧ y.req.phase = z.req.phase := by
  revert h
  unfold itemEmitted
  dsimp only
  split
  · exact fun h => ⟨y, h, rfl⟩
  · split
    · simp [liveOf, recOf_dropLive]
    · intro h
      obtain ⟨z, hz, hy⟩ := liveOf_modReq h fun _ => rfl
      exact ⟨z, hz, by rw [hy]⟩

/-- The state with `r` for the output backlog of partition `p`. -/
def withBacklog (s : State) (p : Nat) (r : List OutItem) : State := s.modHold p fun h => { h with backlog := r }

theorem withBacklog_part {r : List OutItem} :
    (withBacklog s p r).part p = { s.part p with hold := { (s.part p).hold with backlog := r } } := by
  simp [withBacklog]

/-- The item goes to the lane and leaves the backlog; no request of a first token waits behind it. -/
theorem drainBacklog_eq {n : Nat} {x : OutItem} {r : List OutItem} {l : Lane} (hn : s.lanes.find n = some l)
    (hpr : l.portReads = []) (hpw : l.portWrites = [])
    (hlive : ∀ y, liveOf s p (itemTag x.item) = some y → x.mine = true → y.req.phase ≠ 2) :
    drainBacklog s p n x r = itemEmitted (lanePush (withBacklog s p r) n x.item) p x := by
  have hl : (withBacklog s p r).lane n = l := lane_of_find s hn
  have hgive : laneGive (withBacklog s p r) n (holderWriter p) x.item = lanePush (withBacklog s p r) n x.item := by
    rw [laneGive, hl]
    exact if_pos ⟨hpw, hpr⟩
  unfold drainBacklog
  rw [← withBacklog, hgive]
  dsimp only
  split
  · rfl
  next y hy =>
    obtain ⟨z, hz, hyz⟩ := itemEmitted_phase hy
    have hs : liveOf (lanePush (withBacklog s p r) n x.item) p (itemTag x.item) = liveOf s p (itemTag x.item) :=
      liveOf_of_lives (by rw [State.part, lanePush_parts, ← State.part, withBacklog_part])
    exact if_neg fun h => hlive z (hs ▸ hz) h.1 (hyz ▸ h.2.1)

/-! ### The clauses of O17 -/

/-- The reply to a request that waits is taken: its outcome, then the firmware's notes. -/
theorem replied_notes {h : SvcHdr} {u : State} (hm : (s.part p).hold.moves = [])
    (hr : RecordsOnly (withoutSent s p h.msgId) u p) :
    (∀ tag, liveOf (holderOn u p) p tag = liveOf u p tag) ∧
      ((holderOn u p).part p).last.sent = (s.part p).last.sent.del h.msgId ∧ (holderOn u p).mem = s.mem ∧
      (holderOn u p).lanes = s.lanes := by
  have hnote := holderOn_idle (hr.moves.trans (by rw [withoutSent_part]; exact hm))
  refine ⟨fun _ => liveOf_of_lives hnote.lives, ?_, hnote.mem.trans hr.mem, hnote.lanes.trans hr.lanes⟩
  rw [hnote.last, hr.last, withoutSent_part]

theorem withGrant_fields {l : Live} {h : SvcHdr} {payload : List Byte} (hp : l.req.phase = 0) :
    l.withGrant l.req.last h payload = { l with
      granted := true, capacity := h.posB, mirrorCapacity := h.posB, base := h.value
      mirrorBase := BitVec.ofNat 64 (fld payload 0 8)
      req := { l.req with
        phase := 1, epoch := h.epoch, seq := h.posA, length := h.posA, last := h.handle, mirror := h.handle2
        onMirror := false, newLast := l.req.newLast || isAllocation l.req.last } } := by
  simp [Live.withGrant, hp]

section
variable {q : Part} {h : SvcHdr} {x : SvcSent} {l : Live} (hd : s.fab.device ≠ 0xFFFF) (h5 : s.code q.val = 5)
  (hr : h.reply = true) (h0 : h.status = 0) (hx : (s.part q.val).last.sent.find h.msgId = some x) (ho : x.h.op = h.op)
  (hl : liveOf s q.val x.h.tag = some l) (hm : (s.part q.val).hold.moves = [])
include hd h5 hr h0 hx ho hl hm

theorem grantReceived_taken {payload : List Byte} {source : Option (List Byte)} (h1 : h.op = 1)
    (hp : x.h.partner = false) (hla : x.h.handle = l.req.last) (hph : l.req.phase = 0) (hg : l.granted = false)
    (hrel : l.releasing = false) (hs : source = none ∨ l.walkMatch = 0) :
    ∃ t l', exec (.grantReceived q h payload source) s = .next t ∧ liveOf t q.val x.h.tag = some l' ∧
      l'.granted = true ∧ l'.capacity = h.posB ∧ l'.base = h.value ∧ l'.req.phase = 1 ∧
      l'.req.seq = h.posA ∧ l'.req.length = h.posA ∧ l'.req.last = h.handle ∧ l'.req.mirror = h.handle2 ∧
      l'.req.epoch = h.epoch ∧ (t.part q.val).last.sent = (s.part q.val).last.sent.del h.msgId ∧
      t.mem = s.mem ∧ t.lanes = s.lanes := by
  have hl1 : liveOf (withoutSent s q.val h.msgId) q.val x.h.tag = some l :=
    (liveOf_of_lives (by rw [withoutSent_part])).trans hl
  obtain ⟨hrec, c, hl2⟩ := takeGrant_live (asked := x.h.handle) (h := h) (payload := payload) hl1 hs
  obtain ⟨hlive, hsent, hmem, hlanes⟩ := replied_notes hm hrec
  rw [hla, withGrant_fields hph] at hl2
  refine ⟨_, _, ?_, (hlive _).trans (hla.symm ▸ hl2), rfl, rfl, rfl, rfl, rfl, rfl, rfl, rfl, rfl, hsent, hmem, hlanes⟩
  show execGrantReceived q h payload source s = _
  rw [execGrantReceived, if_pos h1, svcReplied_taken hd h5 hr h0 hx ho, svcOutcome_grant (ho.trans h1) hp hl1 hg hrel]

theorem commitReply_taken {payload : List Byte} (h2 : h.op = 2) (h4 : l.req.phase = 4) (hmi : l.req.mirror = allOnes64)
    (hon : l.req.onMirror = false) (hla : x.h.handle = l.req.last) (hne : l.req.last ≠ allOnes64)
    (hcp : l.commitsPrimary = [(x.h.posA, x.h.posB)]) (hcm : l.commitsMirror = []) (hdue : l.due = [])
    (hseq : l.req.seq < max l.req.length x.h.posB + 64) :
    ∃ t l', exec (.serviceReply q h payload) s = .next t ∧ liveOf t q.val x.h.tag = some l' ∧
      l'.req.length = max l.req.length x.h.posB ∧ l'.commitsPrimary = [] ∧ t.mem = s.mem ∧ t.lanes = s.lanes := by
  have hl1 : liveOf (withoutSent s q.val h.msgId) q.val x.h.tag = some l :=
    (liveOf_of_lives (by rw [withoutSent_part])).trans hl
  obtain ⟨hrec, l', hl2, hlen, hcp'⟩ := commitAnswered_durable hl1 h4 hmi hon hla hne hcp hcm hdue hseq
  obtain ⟨hlive, -, hmem, hlanes⟩ := replied_notes hm hrec
  refine ⟨_, l', ?_, (hlive _).trans hl2, hlen, hcp', hmem, hlanes⟩
  show execServiceReply q h payload s = _
  rw [execServiceReply, svcReplied_taken hd h5 hr h0 hx ho, svcOutcome_commit (ho.trans h2)]

end

/-- The state with the message `h` among those that partition `p` has received. -/
def withReceived (s : State) (p : Nat) (h : SvcHdr) : State :=
  s.modPLast p fun l => { l with received := l.received ++ [h] }

theorem withReceived_part {h : SvcHdr} : (withReceived s p h).part p =
    { s.part p with last := { (s.part p).last with received := (s.part p).last.received ++ [h] } } := by
  simp [withReceived]

section
variable {q : Part} {h : SvcHdr} (ht : serviceTaken s q.val 7 h) (hm : (s.part q.val).hold.moves = [])
include ht

theorem exec_cancel : exec (.cancel q h) s =
    .next (holderOn (submitCancel (withReceived s q.val h) q.val h.tag [] [h]) q.val) := by
  show execCancel q h s = _
  rw [execCancel, serveCancel, svcReceive_taken ht, withReceived]

include hm

theorem cancel_noted {l : Live} (hl : liveOf s q.val h.tag = some l) (h5 : l.req.phase < 5)
    (hstep : (s.part q.val).hold.step ≠ none) :
    ∃ t l', exec (.cancel q h) s = .next t ∧ t.out = s.out ∧ liveOf t q.val h.tag = some l' ∧
      l'.req.cancel = true ∧ l'.cancelMsgs = l.cancelMsgs ++ [h] ∧ l'.req.phase = l.req.phase ∧ t.mem = s.mem := by
  have hl1 : liveOf (withReceived s q.val h) q.val h.tag = some l :=
    (liveOf_of_lives (by rw [withReceived_part])).trans hl
  obtain ⟨F, he, hF⟩ := submitCancel_live (slots := []) (msgs := [h]) hl1 h5 (by rw [withReceived_part]; exact hstep)
  have hr := modLive_recordsOnly (s := withReceived s q.val h) (p := q.val) (tag := h.tag) (f := F)
  have hnote := holderOn_idle (hr.moves.trans (by rw [withReceived_part]; exact hm))
  exact ⟨_, _, (exec_cancel ht).trans (by rw [he]), hnote.out, (liveOf_of_lives hnote.lives).trans hF, rfl, rfl, rfl,
    hnote.mem.trans hr.mem⟩

/-- A cancel that completes at once is answered, and touches no record. -/
theorem cancel_answered {c : Byte}
    (he : submitCancel (withReceived s q.val h) q.val h.tag [] [h] = cancelsEnd (withReceived s q.val h) q.val [] [h] c) :
    ∃ t, exec (.cancel q h) s = .next t ∧ repliesWith s t h c ∧
      (t.part q.val).hold.lives = (s.part q.val).hold.lives ∧ t.mem = s.mem := by
  obtain ⟨hrep, hmem, hhold⟩ := svcCode_replies (s := withReceived s q.val h) (p := q.val) (h := h) (c := c) ht.1
  rw [withReceived_part] at hhold
  have hnote := holderOn_idle ((congrArg PHold.moves hhold).trans hm)
  refine ⟨_, (exec_cancel ht).trans (by rw [he]; rfl), ?_, hnote.lives.trans (congrArg PHold.lives hhold),
    hnote.mem.trans hmem⟩
  rw [repliesWith, hnote.out]
  exact hrep

end

/-- The state with `c` for cancel slot `k` of partition `p`. -/
def withCancel (s : State) (p k : Nat) (c : CancelSlot) : State :=
  s.modPLast p fun l => { l with cancels := l.cancels.put k c }

theorem withCancel_part {k : Nat} {c : CancelSlot} : (withCancel s p k c).part p =
    { s.part p with last := { (s.part p).last with cancels := (s.part p).last.cancels.put k c } } := by
  simp [withCancel]

section
variable {src : Src} {q : Part} {k : Fin 8} {v : Word} {c : CancelSlot} (hh : hostReaches s src q)
  (hc : (s.part q.val).last.cancels.at k.val {} = c) (ha : c.armed = false) (hv : v.toNat.testBit 31 = true)
  (hm : (s.part q.val).hold.moves = [])
include hh hc ha hv

theorem exec_cancelSubmit : exec (.cancelSubmit src q k v) s = .next (holderOn (submitCancel
    (withCancel s q.val k.val { c with armed := true, vector := v.toNat / 2 ^ 24 % 32 }) q.val c.tag [k.val] []) q.val) := by
  show execCancelSubmit src q k v s = _
  rw [execCancelSubmit, partWrite_host s _ _ hh]
  simp only [hc, ha, Bool.false_eq_true, if_false, hv, if_true]
  rfl

include hm

theorem cancelSubmit_noted {l : Live} (hl : liveOf s q.val c.tag = some l) (h5 : l.req.phase < 5)
    (hstep : (s.part q.val).hold.step ≠ none) :
    ∃ t l', exec (.cancelSubmit src q k v) s = .next t ∧ liveOf t q.val c.tag = some l' ∧
      l'.req.cancel = true ∧ l'.cancelSlots = l.cancelSlots ++ [k.val] ∧
      ((t.part q.val).last.cancels.at k.val {}) = { c with armed := true, vector := v.toNat / 2 ^ 24 % 32 } ∧
      t.mem = s.mem := by
  let s1 := withCancel s q.val k.val { c with armed := true, vector := v.toNat / 2 ^ 24 % 32 }
  have hl1 : liveOf s1 q.val c.tag = some l := (liveOf_of_lives (by rw [withCancel_part])).trans hl
  obtain ⟨F, he, hF⟩ := submitCancel_live (slots := [k.val]) (msgs := []) hl1 h5 (by rw [withCancel_part]; exact hstep)
  have hr := modLive_recordsOnly (s := s1) (p := q.val) (tag := c.tag) (f := F)
  have hnote := holderOn_idle (hr.moves.trans (by rw [withCancel_part]; exact hm))
  refine ⟨_, _, (exec_cancelSubmit hh hc ha hv).trans (by rw [he]), (liveOf_of_lives hnote.lives).trans hF, rfl, rfl, ?_,
    hnote.mem.trans hr.mem⟩
  rw [hnote.last, hr.last, withCancel_part]
  simp

theorem cancelSubmit_ended (hr : recOf s q.val c.tag = none)
    (hf : ((s.part q.val).last.forwards.find? fun f => decide (f.tag = c.tag)) = none) :
    ∃ t, exec (.cancelSubmit src q k v) s = .next t ∧
      ((t.part q.val).last.cancels.at k.val {}) =
        { c with armed := false, status := 1, vector := v.toNat / 2 ^ 24 % 32 } ∧ t.mem = s.mem := by
  let s1 := withCancel s q.val k.val { c with armed := true, vector := v.toNat / 2 ^ 24 % 32 }
  have hr1 : recOf s1 q.val c.tag = none := (recOf_of_lives (by rw [withCancel_part])).trans hr
  have he : submitCancel s1 q.val c.tag [k.val] [] = cancelDone s1 q.val k.val 1 :=
    submitCancel_unknown hr1 (by rw [withCancel_part]; exact hf)
  obtain ⟨hslot, hhold, hmem⟩ := cancelDone_slot (s := s1) (p := q.val) (k := k.val) (c := 1)
  rw [withCancel_part] at hhold hslot
  have hnote := holderOn_idle ((congrArg PHold.moves hhold).trans hm)
  refine ⟨_, (exec_cancelSubmit hh hc ha hv).trans (by rw [he]), ?_, hnote.mem.trans hmem⟩
  rw [hnote.last, hslot]
  simp

end

theorem outputBacklogDrain_drains {q : Part} {n : Nat} {x : OutItem} {r : List OutItem} {l : Lane}
    (hb : (s.part q.val).hold.backlog = x :: r) (hlane : outputLane s q.val = some n) (hn : s.lanes.find n = some l)
    (hpr : l.portReads = []) (hpw : l.portWrites = []) (hroom : l.items.length < 16)
    (hm : (s.part q.val).hold.moves = [])
    (hlive : ∀ y, liveOf s q.val (itemTag x.item) = some y → x.mine = true → y.req.phase ≠ 2) :
    ∃ t, exec (.outputBacklogDrain q) s = .next t ∧ (t.lane n).items = l.items ++ [x.item] ∧
      (t.part q.val).hold.backlog = r ∧ (∀ m, m ≠ n → t.lane m = s.lane m) ∧
      (x.mine = true → (itemFld x.item 2 1).testBit 0 = true → recOf t q.val (itemTag x.item) = none) ∧
      t.mem = s.mem := by
  let s1 := lanePush (withBacklog s q.val r) n x.item
  have hpart : s1.part q.val = { s.part q.val with hold := { (s.part q.val).hold with backlog := r } } := by
    rw [State.part, lanePush_parts, ← State.part, withBacklog_part]
  obtain ⟨hrec, hfree⟩ := itemEmitted_records (s := s1) (p := q.val) (x := x)
  have hnote := holderOn_idle (hrec.moves.trans (by rw [hpart]; exact hm))
  have hlanes := hnote.lanes.trans hrec.lanes
  have hat (m : Nat) : (holderOn (itemEmitted s1 q.val x) q.val).lane m = s1.lane m := by
    rw [State.lane, hlanes]
    rfl
  refine ⟨holderOn (itemEmitted s1 q.val x) q.val, ?_, ?_, ?_, fun m hmn => ?_, fun h h' => ?_, ?_⟩
  · show execOutputBacklogDrain q s = _
    have hfree : laneFree s n = true := by simp [laneFree, lane_of_find s hn, hpw, hroom]
    simp only [execOutputBacklogDrain, hb, hlane, hfree, if_true, drainBacklog_eq hn hpr hpw hlive]
    rfl
  · rw [hat]
    exact lanePush_items (s := withBacklog s q.val r) x.item hn hroom
  · rw [hnote.backlog, hrec.backlog, hpart]
  · rw [hat]
    exact lanePush_ne (s := withBacklog s q.val r) x.item hmn
  · exact (recOf_of_lives hnote.lives).trans (hfree h h')
  · exact hnote.mem.trans (hrec.mem.trans (lanePush_mem ..))

/-- Settles O17: the replies taken, the cancels noted or answered, the backlog drained. -/
theorem grantsCancelsAndBacklog : Obligations.GrantsCancelsAndBacklog := by
  refine ⟨fun q h x l s hd h5 hr h0 hx ho hl hm => ⟨fun payload source => grantReceived_taken hd h5 hr h0 hx ho hl hm,
    fun payload => commitReply_taken hd h5 hr h0 hx ho hl hm⟩,
    fun q h s ht hm => ⟨fun l => cancel_noted ht hm, fun l hr he => cancel_answered ht hm ?_,
      fun hr hf => cancel_answered ht hm ?_⟩,
    fun src q k v c s hh hc ha hv hm => ⟨fun l => cancelSubmit_noted hh hc ha hv hm, cancelSubmit_ended hh hc ha hv hm⟩,
    fun q n x r l s => outputBacklogDrain_drains⟩
  · exact submitCancel_ended ((recOf_of_lives (by rw [withReceived_part])).trans hr) he
  · exact submitCancel_unknown ((recOf_of_lives (by rw [withReceived_part])).trans hr) (by rw [withReceived_part]; exact hf)

end Sys2Proof.Machine
end

section
/-! # Attention commands -/

namespace Sys2Proof.Machine

variable {s : State} {b p : Nat}

/-! ### What an attention command's operations leave of the blocks and of memory -/

theorem block_of_blocks {t : State} (h : t.blocks = s.blocks) : t.block b = s.block b := by
  rw [State.block, h]
  rfl

/-- Of the block whose attention unit acts, the ring's TAIL, the command that waits and those in progress are in `t` as
in `s`; so are the other blocks and memory. -/
structure AttnRest (s t : State) (b : Nat) : Prop where
  tail : (t.block b).attn.tail = (s.block b).attn.tail
  waiting : (t.block b).attn.waiting = (s.block b).attn.waiting
  jobs : (t.block b).attn.jobs = (s.block b).attn.jobs
  others : ∀ n, n ≠ b → t.block n = s.block n
  mem : t.mem = s.mem

theorem AttnRest.trans {t u : State} (h : AttnRest s t b) (h' : AttnRest t u b) : AttnRest s u b :=
  ⟨h'.tail.trans h.tail, h'.waiting.trans h.waiting, h'.jobs.trans h.jobs,
    fun n hn => (h'.others n hn).trans (h.others n hn), h'.mem.trans h.mem⟩

/-! ### A command completes (R232, R235) -/

/-- The state with the completion of `j` in the registers of block `b`. -/
def attnCounted (s : State) (b p : Nat) (j : AttnJob) : State :=
  (traceEvent s p .command b j.index.toNat).setAttn b { (s.block b).attn with
    done := satAdd (2 ^ 64 - 1) (s.block b).attn.done 1
    lastFail := if j.status != 0 then j.status else (s.block b).attn.lastFail
    failTag := if j.status != 0 then j.cmd.tag else (s.block b).attn.failTag }

/-- After the registers, a completion is noted on the step and in its counter alone. -/
theorem attnComplete_of_counted {I : Invariant} {j : AttnJob} (hc : I.Free .counters) (hs : I.holds (attnCounted s b p j)) :
    I.holds (attnComplete s b p j) :=
  ite_self_holds (ctrAdd_holds hc) (noteStep_holds hs)

theorem attnComplete_attn {j : AttnJob} : ((attnComplete s b p j).block b).attn = { (s.block b).attn with
    done := satAdd (2 ^ 64 - 1) (s.block b).attn.done 1
    lastFail := if j.status != 0 then j.status else (s.block b).attn.lastFail
    failTag := if j.status != 0 then j.cmd.tag else (s.block b).attn.failTag } := by
  have h : (attnComplete s b p j).blocks = (attnCounted s b p j).blocks :=
    attnComplete_of_counted (I := keepsBlocks (attnCounted s b p j).blocks) (keepsBlocks_free (by decide)) rfl
  rw [block_of_blocks h, attnCounted, setAttn_eq, setBlock_block_same]

theorem attnComplete_rest {j : AttnJob} : AttnRest s (attnComplete s b p j) b := by
  have h : (attnComplete s b p j).blocks = (attnCounted s b p j).blocks :=
    attnComplete_of_counted (I := keepsBlocks (attnCounted s b p j).blocks) (keepsBlocks_free (by decide)) rfl
  have hm : (keepsMemory (s.mem, s.badWords)).holds (attnComplete s b p j) :=
    attnComplete_of_counted (keepsMemory_free (by decide)) (setAttn_holds (keepsMemory_free (by decide)) (traceEvent_holds rfl))
  refine ⟨?_, ?_, ?_, fun n hn => ?_, congrArg Prod.fst hm⟩
  · rw [attnComplete_attn]
  · rw [attnComplete_attn]
  · rw [attnComplete_attn]
  · rw [block_of_blocks h, attnCounted, setAttn_eq, setBlock_block_ne _ _ hn]
    exact block_of_blocks (traceEvent_blocks ..)

theorem attnComplete_lanes {j : AttnJob} : (attnComplete s b p j).lanes = s.lanes :=
  attnComplete_of_counted (I := keepsLanes s.lanes) (keepsLanes_free (by decide))
    (setAttn_holds (keepsLanes_free (by decide)) (traceEvent_holds rfl))

/-- A completion that signals adds one to its counter, and faults it when the command failed. -/
theorem attnComplete_counter {j : AttnJob} (hs : j.cmd.signals = true) (ho : s.ownsCtr p j.cmd.signalCounter = true) :
    (attnComplete s b p j).counter j.cmd.signalCounter = { s.counter j.cmd.signalCounter with
      value := satAdd ctrMax (s.counter j.cmd.signalCounter).value 1
      fault := (s.counter j.cmd.signalCounter).fault || (j.status != 0) } := by
  have hc : (noteStep (attnCounted s b p j) p j.status).counters = s.counters :=
    noteStep_holds (I := keepsCounters s.counters) (setAttn_holds (keepsCounters_free (by decide)) (traceEvent_holds rfl))
  have hown : j.cmd.signals ∧ (noteStep (attnCounted s b p j) p j.status).ownsCtr p j.cmd.signalCounter :=
    ⟨hs, by rw [State.ownsCtr, hc]; exact ho⟩
  have e : attnComplete s b p j = ctrAdd (noteStep (attnCounted s b p j) p j.status) j.cmd.signalCounter 1
      (j.status != 0) := if_pos hown
  rw [e, ctrAdd_owned hown.2, counter_of_counters hc]

/-! ### A flush (R90) -/

theorem attnUnreadable_attn {c : Byte} : ((attnUnreadable s b c).block b).attn = { (s.block b).attn with
    head := (s.block b).attn.head + 1, done := satAdd (2 ^ 64 - 1) (s.block b).attn.done 1, lastFail := c } := by
  simp [attnUnreadable]

theorem setAttn_rest {a : Attn} (ht : a.tail = (s.block b).attn.tail) (hw : a.waiting = (s.block b).attn.waiting)
    (hj : a.jobs = (s.block b).attn.jobs) : AttnRest s (s.setAttn b a) b := by
  refine ⟨?_, ?_, ?_, fun n hn => ?_, rfl⟩
  · simpa using ht
  · simpa using hw
  · simpa using hj
  · simp [hn]

/-- The state with the command at the head of the attention ring taken. -/
def attnPastHead (s : State) (b : Nat) : State :=
  s.setAttn b { (s.block b).attn with head := (s.block b).attn.head + 1 }

theorem attnPastHead_attn : ((attnPastHead s b).block b).attn =
    { (s.block b).attn with head := (s.block b).attn.head + 1 } := by
  rw [attnPastHead, setAttn_eq, setBlock_block_same]

theorem attnPastHead_rest : AttnRest s (attnPastHead s b) b :=
  setAttn_rest (a := { (s.block b).attn with head := (s.block b).attn.head + 1 }) rfl rfl rfl

theorem attnUnreadable_rest {c : Byte} : AttnRest s (attnUnreadable s b c) b :=
  setAttn_rest (a := { (s.block b).attn with
    head := (s.block b).attn.head + 1, done := satAdd (2 ^ 64 - 1) (s.block b).attn.done 1, lastFail := c }) rfl rfl rfl

theorem ringRead_rest {base size bytes : Nat} {head : BitVec 32} :
    (ringRead s p base size bytes head).2.2.blocks = s.blocks ∧ (ringRead s p base size bytes head).2.2.mem = s.mem :=
  ⟨ringRead_holds (I := keepsBlocks s.blocks) rfl,
    congrArg Prod.fst (ringRead_holds (I := keepsMemory (s.mem, s.badWords)) rfl)⟩

theorem rest_of_blocks {t : State} (hb : t.blocks = s.blocks) (hm : t.mem = s.mem) : AttnRest s t b := by
  have h (n : Nat) : t.block n = s.block n := block_of_blocks hb
  exact ⟨by rw [h], by rw [h], by rw [h], fun n _ => h n, hm⟩

/-- A flush completes the command at the head. -/
theorem attnFlushRing_succ {c : Byte} {fuel : Nat} (hne : (s.block b).attn.head ≠ (s.block b).attn.tail) :
    ∃ t, attnFlushRing b p c (fuel + 1) s = attnFlushRing b p c fuel t ∧
      (t.block b).attn.head = (s.block b).attn.head + 1 ∧ AttnRest s t b := by
  refine ⟨_, (by simp only [attnFlushRing, if_neg hne]; rfl), ?_⟩
  obtain ⟨hb, hm⟩ := ringRead_rest (s := s) (p := p) (base := (s.block b).attn.base) (size := (s.block b).attn.size)
    (bytes := 128) (head := (s.block b).attn.head)
  split
  · rw [attnUnreadable_attn, block_of_blocks hb]
    exact ⟨rfl, (rest_of_blocks hb hm).trans attnUnreadable_rest⟩
  · rw [← attnPastHead, attnComplete_attn, attnPastHead_attn]
    exact ⟨rfl, attnPastHead_rest.trans attnComplete_rest⟩

/-- A flush of the whole ring leaves HEAD at TAIL. -/
theorem attnFlushRing_ends {c : Byte} {fuel : Nat} (hf : dist32 (s.block b).attn.tail (s.block b).attn.head = fuel) :
    ((attnFlushRing b p c fuel s).block b).attn.head = (s.block b).attn.tail ∧
      AttnRest s (attnFlushRing b p c fuel s) b := by
  induction fuel generalizing s with
  | zero =>
    have h : (s.block b).attn.head = (s.block b).attn.tail := by
      unfold dist32 at hf
      bv_omega
    exact ⟨h, rest_of_blocks rfl rfl⟩
  | succ k ih =>
    have hne : (s.block b).attn.head ≠ (s.block b).attn.tail := fun h => by simp [dist32, h] at hf
    obtain ⟨t, e, hh, hr⟩ := attnFlushRing_succ (p := p) (c := c) (fuel := k) hne
    obtain ⟨hhead, hrest⟩ := ih (s := t) (by rw [hr.tail, hh]; exact dist32_succ hf)
    rw [e]
    exact ⟨hhead.trans hr.tail, hr.trans hrest⟩

theorem attnFlushAll_ends {c : Byte} : ((attnFlushAll s b p c).block b).attn.head = (s.block b).attn.tail ∧
    ((attnFlushAll s b p c).block b).attn.tail = (s.block b).attn.tail ∧
    ((attnFlushAll s b p c).block b).attn.waiting = none ∧
    ((attnFlushAll s b p c).block b).attn.jobs = (s.block b).attn.jobs ∧
    (∀ n, n ≠ b → (attnFlushAll s b p c).block n = s.block n) ∧ (attnFlushAll s b p c).mem = s.mem := by
  unfold attnFlushAll
  dsimp only
  split
  next hw =>
    obtain ⟨hh, hr⟩ := attnFlushRing_ends (s := s) (b := b) (p := p) (c := c) rfl
    exact ⟨hh, hr.tail, hr.waiting.trans hw, hr.jobs, hr.others, hr.mem⟩
  next j hw =>
    let u := s.setAttn b { (s.block b).attn with waiting := none }
    have hu : (u.block b).attn = { (s.block b).attn with waiting := none } := by simp [u]
    have hc := attnComplete_rest (s := u) (b := b) (p := p) (j := { j with status := c })
    obtain ⟨hh, hr⟩ := attnFlushRing_ends (s := attnComplete u b p { j with status := c }) (b := b) (p := p) (c := c)
      (fuel := dist32 (s.block b).attn.tail (s.block b).attn.head) (by rw [attnComplete_attn, hu])
    have hall := hc.trans hr
    refine ⟨hh.trans (hc.tail.trans ?_), hall.tail.trans ?_, hall.waiting.trans ?_, hall.jobs.trans ?_, fun n hn => ?_,
      hall.mem⟩
    · rw [hu]
    · rw [hu]
    · rw [hu]
    · rw [hu]
    · exact (hall.others n hn).trans (by simp [u, hn])

/-! ### The command at the head (R227 to R231) -/

/-- The turn of a block's attention unit, once the command at the head of its ring has been read well. -/
theorem attnTurn_head {bs : List Byte} {found : Found} (hj : (s.block b).attn.jobs.length < 4)
    (hw : (s.block b).attn.waiting = none) (hh : (s.block b).halted = false) (hf : s.fab.home = [])
    (hne : (s.block b).attn.head ≠ (s.block b).attn.tail)
    (hr : (ringRead s p (s.block b).attn.base (s.block b).attn.size 128 (s.block b).attn.head).1 = 0)
    (hbs : (ringRead s p (s.block b).attn.base (s.block b).attn.size 128 (s.block b).attn.head).2.1 = bs) :
    attnTurn s b p found =
      if attnCheck s p (attnOf bs) ≠ 0 then
        attnComplete (attnPastHead s b) b p
          { index := (s.block b).attn.head, cmd := attnOf bs, status := attnCheck s p (attnOf bs) }
      else attnStart (attnPastHead s b) b p { index := (s.block b).attn.head, cmd := attnOf bs } found := by
  have hturn : ¬ (4 ≤ (s.block b).attn.jobs.length ∨ (s.block b).halted = true) := by simp [hh, hj]
  unfold attnTurn
  dsimp only
  rw [if_neg hturn]
  split
  next j hj => exact absurd (hw.symm.trans hj) (by simp)
  · rw [if_neg hne, settlePart_idle hf, hr, hbs]
    rfl

theorem attnStart_waits {j : AttnJob} {found : Found} (hs : blockSuspect s b = false) (hw : j.cmd.waits = true)
    (hr : j.released = false) (hm : ctrMet s j.cmd.waitCounter j.cmd.waitValue = false) :
    attnStart s b p j found = s.setAttn b { (s.block b).attn with waiting := some j } := by
  simp [attnStart, hs, hw, hr, hm]

/-! ### A command runs (R231, R556) -/

/-- Words that were found well are at most counted as corrected. -/
theorem eccMetIn_fine {xs : List (Nat × Nat)} {found : Found} (hf : foundFine found = true) :
    ∃ H D, eccMetIn s p xs found = { s with hbmEcc := H, ddrEcc := D } := by
  have met (t : State) (x : Nat × Nat) : ∃ H D, eccMet t p x.1 x.2 found = { t with hbmEcc := H, ddrEcc := D } := by
    unfold eccMet
    split
    · exact ⟨_, _, rfl⟩
    next word ok =>
      obtain rfl : ok = true := by simpa [foundFine] using hf
      dsimp only
      split
      · exact ⟨_, _, rfl⟩
      · split
        next h => exact absurd h (by simp)
        · split
          · exact ⟨_, _, rfl⟩
          · unfold countFixed
            split <;> exact ⟨_, _, rfl⟩
  unfold eccMetIn
  induction xs generalizing s with
  | nil => exact ⟨_, _, rfl⟩
  | cons x r ih =>
    obtain ⟨H, D, h⟩ := met s x
    rw [List.foldl_cons, h]
    exact ih (s := { s with hbmEcc := H, ddrEcc := D })

/-- What a command that runs well does: its output is stored, once a word is drawn and words are counted. -/
theorem attnCompute_stores {c : AttnCmd} {found : Found} (hf : s.fab.home = []) (hfound : foundFine found = true)
    (hread : ∀ x ∈ attnReads c, readCode s p x.1 x.2 = 0)
    (hw : writeCode s p c.out (attnOutput s p c).length (fun _ => false) = 0) :
    ∃ H D, attnCompute s p c found =
      (0, storeRaw { s with hbmEcc := H, ddrEcc := D, draws := s.draws + 1 } p c.out (attnOutput s p c)) := by
  obtain ⟨H, D, he⟩ := eccMetIn_fine (s := s) (p := p) (xs := attnReads c) hfound
  refine ⟨H, D, ?_⟩
  have hnone : ((attnReads c).find? fun x => decide (readCode { s with hbmEcc := H, ddrEcc := D } p x.1 x.2 ≠ 0)) = none :=
    List.find?_eq_none.2 fun x hx => by
      have h : readCode { s with hbmEcc := H, ddrEcc := D } p x.1 x.2 = 0 := hread x hx
      simp [h]
  have hw' : writeCode { s with hbmEcc := H, ddrEcc := D, draws := s.draws + 1 } p c.out (attnOutput s p c).length
      (fun _ => false) = 0 := hw
  simp only [attnCompute, settlePart_idle hf, he, hnone]
  show transferWrite { s with hbmEcc := H, ddrEcc := D, draws := s.draws + 1 } p c.out (attnOutput s p c) (fun _ => false)
    c.tag = _
  rw [transferWrite, hw']
  rfl

/-- A byte that lies in a span lies in a word of it. -/
theorem mem_wordsOf {k len i : Nat} (h : i < len) : (k + i) / 32 ∈ wordsOf k len := by
  have hn : len ≠ 0 := by omega
  simp only [wordsOf, hn, if_false, upFrom, List.mem_map, List.mem_range]
  exact ⟨(k + i) / 32 - k / 32, by omega, by omega⟩

/-- Where a span has no uncorrectable word and the memory is trusted, a store holds every byte. -/
theorem memByte_storeRaw_span {off : Nat} {bs : List Byte} (hb : badIn s (memKey p off) bs.length = [])
    (ht : allTrusted s = true) {i : Nat} (h : i < bs.length) :
    memByte (storeRaw s p off bs).mem (memKey p off + i) = bs.getD i 0 := by
  have hc : s.badWords.contains ((memKey p off + i) / 32) = false := by
    simpa using List.filter_eq_nil_iff.1 hb _ (mem_wordsOf h)
  rw [storeRaw_mem, memByte_memPuts_in _ _ _ _ _ h, hc]
  simp [suspectAt, ht, h]

/-- A command whose block is awake and whose partition keeps the insole runs at once. -/
theorem attnStart_runs {j : AttnJob} {found : Found} (hs : blockSuspect s b = false) (hw : j.cmd.waits = false)
    (hp : (s.block b).pwr.state = 0) (hi : (s.part p).insole = true) (hq : j.cmd.queries ≠ 0) :
    attnStart s b p j found = (attnCompute s p j.cmd found).2.setAttn b {
      ((attnCompute s p j.cmd found).2.block b).attn with
      jobs := ((attnCompute s p j.cmd found).2.block b).attn.jobs ++ [{ j with
        released := true, status := (attnCompute s p j.cmd found).1
        gens := ((attnReads j.cmd).flatMap fun x => spanGens s p x.1 x.2).eraseDups }] } := by
  simp [attnStart, hs, hw, hp, fusedAt, hi, hq]

/-! ### The benches after a fused command (R225) -/

/-- A store to the top of a core's bench lies in the benches of its block, and leaves the rest of memory. -/
theorem memByte_storeRaw_bench {c a : Nat} {bs : List Byte} (hc : c < 1024) (hbs : bs.length = 65536)
    (h : a < benchKey b 0 0 ∨ benchKey b 1024 0 ≤ a) :
    memByte (storeRaw s 0 (benchOff b c 0x2_0000) bs).mem a = memByte s.mem a := by
  have hk : memKey 0 (benchOff b c 0x2_0000) = benchKey b c 0x2_0000 := by
    unfold memKey benchOff benchKey
    split <;> omega
  refine memByte_storeRaw_out _ _ _ _ _ ?_
  rw [hk, hbs]
  unfold benchKey at *
  omega

/-- For each core of a list, `bytes` stored at the top of its bench. -/
def benchTopsStored (b : Nat) (bytes : Nat → List Byte) (cs : List Nat) (s : State) : State :=
  cs.foldl (fun s c => storeRaw s 0 (benchOff b c 0x2_0000) (bytes c)) s

theorem benchTopsStored_holds {I : Invariant} (hm : I.Free .memory) {bytes : Nat → List Byte} {cs : List Nat}
    (hs : I.holds s) : I.holds (benchTopsStored b bytes cs s) :=
  foldl_holds (fun _ _ hs => storeRaw_holds hm hs) hs

theorem memByte_benchTopsStored {bytes : Nat → List Byte} {cs : List Nat} {a : Nat}
    (hb : ∀ c, (bytes c).length = 65536) (hcs : ∀ c ∈ cs, c < 1024) (h : a < benchKey b 0 0 ∨ benchKey b 1024 0 ≤ a) :
    memByte (benchTopsStored b bytes cs s).mem a = memByte s.mem a := by
  induction cs generalizing s with
  | nil => rfl
  | cons c r ih =>
    rw [benchTopsStored, List.foldl_cons, ← benchTopsStored, ih fun x hx => hcs x (List.mem_cons_of_mem _ hx)]
    exact memByte_storeRaw_bench (hcs c List.mem_cons_self) (hb c) h

theorem spoilBenches_eq : spoilBenches s b = benchTopsStored b
    (fun c => (List.range 65536).map fun i => Config.freeByte s.draws (65536 * c + i)) (List.range 1024) s.draw.2 := by
  unfold spoilBenches benchTopsStored spoilBenches.benchSpoil
  rfl

/-- Spoiling the benches of a block changes their bytes and the uncorrectable words alone. -/
theorem spoilBenches_leaves : (spoilBenches s b).blocks = s.blocks ∧ (spoilBenches s b).lanes = s.lanes ∧
    (spoilBenches s b).counters = s.counters ∧
    ∀ a, (a < benchKey b 0 0 ∨ benchKey b 1024 0 ≤ a) → memByte (spoilBenches s b).mem a = memByte s.mem a := by
  rw [spoilBenches_eq]
  refine ⟨benchTopsStored_holds (I := keepsBlocks s.blocks) (keepsBlocks_free (by decide)) rfl,
    benchTopsStored_holds (I := keepsLanes s.lanes) (keepsLanes_free (by decide)) rfl,
    benchTopsStored_holds (I := keepsCounters s.counters) (keepsCounters_free (by decide)) rfl, fun a ha => ?_⟩
  exact (memByte_benchTopsStored (s := s.draw.2) (fun c => by rw [List.length_map, List.length_range])
    (fun c hc => List.mem_range.1 hc) ha).trans rfl

/-- The benches of block `b`, when the command of partition `p` was a fused one. -/
def afterFused (s : State) (b p : Nat) : State := if fusedAt s p then spoilBenches s b else s

theorem afterFused_leaves : (afterFused s b p).blocks = s.blocks ∧ (afterFused s b p).lanes = s.lanes ∧
    (afterFused s b p).counters = s.counters ∧ ((s.part p).insole = true → (afterFused s b p).mem = s.mem) ∧
    ∀ a, (a < benchKey b 0 0 ∨ benchKey b 1024 0 ≤ a) → memByte (afterFused s b p).mem a = memByte s.mem a := by
  unfold afterFused
  split
  next h =>
    obtain ⟨hblocks, hlanes, hctrs, hmem⟩ := spoilBenches_leaves (s := s) (b := b)
    exact ⟨hblocks, hlanes, hctrs, fun hi => by simp [fusedAt, hi] at h, hmem⟩
  · exact ⟨rfl, rfl, rfl, fun _ => rfl, fun _ _ => rfl⟩

/-! ### The clauses of O34 -/

section
variable {blk : Blk}

theorem exec_attnTailWrite {src : Src} {q : Part} {v : Word} (h : hostReachesBlock s src q blk) :
    exec (.attnTailWrite src blk v) s = .next (attnSetTail s blk.val (v.setWidth 32)) := by
  show execAttnTailWrite src blk v s = _
  rw [execAttnTailWrite, blockWrite_host s _ _ h]

theorem exec_attnFlush {src : Src} {q : Part} {v : Word} (h : hostReachesBlock s src q blk)
    (hv : v.toNat.testBit 0 = true) : exec (.attnFlush src blk v) s = .next (attnFlushAll s blk.val q.val 8) := by
  show execAttnFlush src blk v s = _
  rw [execAttnFlush, blockWrite_host s _ _ h]
  simp only [h.1, hv, if_true]

theorem attnAddJob_afterHead {w : State} {x : AttnJob} (hw : ∀ n, w.block n = (attnPastHead s b).block n) :
    ((w.setAttn b { (w.block b).attn with jobs := (w.block b).attn.jobs ++ [x] }).block b).attn.jobs =
        (s.block b).attn.jobs ++ [x] ∧
      ((w.setAttn b { (w.block b).attn with jobs := (w.block b).attn.jobs ++ [x] }).block b).attn.head =
        (s.block b).attn.head + 1 ∧
      ∀ n, n ≠ b → (w.setAttn b { (w.block b).attn with jobs := (w.block b).attn.jobs ++ [x] }).block n = s.block n := by
  rw [setAttn_eq, setBlock_block_same, hw, attnPastHead_attn]
  exact ⟨rfl, rfl, fun n hn => by rw [setBlock_block_ne _ _ hn, hw]; exact attnPastHead_rest.others n hn⟩

/-- A command of the block's own unit that runs stores its output and is in progress. -/
theorem attnTurn_runs {bs : List Byte} {found : Found} {t : State}
    (hturn : attnTurn s b p found =
      attnStart (attnPastHead s b) b p { index := (s.block b).attn.head, cmd := attnOf bs } found)
    (hs : blockSuspect s b = false) (hf : s.fab.home = []) (hw : (attnOf bs).waits = false)
    (hp : (s.block b).pwr.state = 0) (hi : (s.part p).insole = true) (hq : (attnOf bs).queries ≠ 0)
    (hread : ∀ x ∈ attnReads (attnOf bs), readCode s p x.1 x.2 = 0) (hfound : foundFine found = true)
    (hbad : badIn s (memKey p (attnOf bs).out) (attnOutput s p (attnOf bs)).length = [])
    (hwrite : writeCode s p (attnOf bs).out (attnOutput s p (attnOf bs)).length (fun _ => false) = 0)
    (htrust : allTrusted s = true) (ht : attnTurn s b p found = t) :
    (t.block b).attn.jobs = (s.block b).attn.jobs ++
        [{ index := (s.block b).attn.head, cmd := attnOf bs, status := 0, released := true,
           gens := ((attnReads (attnOf bs)).flatMap fun x => spanGens s p x.1 x.2).eraseDups }] ∧
      (t.block b).attn.head = (s.block b).attn.head + 1 ∧
      (∀ i, i < (attnOutput s p (attnOf bs)).length →
        memByte t.mem (memKey p (attnOf bs).out + i) = (attnOutput s p (attnOf bs)).getD i 0) ∧
      memKeptBut s t (memKey p (attnOf bs).out) (attnOutput s p (attnOf bs)).length ∧
      (∀ n, n ≠ b → t.block n = s.block n) ∧ t.counters = s.counters ∧ t.lanes = s.lanes := by
  have hp1 : ((attnPastHead s b).block b).pwr.state = 0 := by simpa [attnPastHead] using hp
  obtain ⟨H, D, hrun⟩ := attnCompute_stores (s := attnPastHead s b) (p := p) (c := attnOf bs) hf hfound hread hwrite
  have ho : attnOutput (attnPastHead s b) p (attnOf bs) = attnOutput s p (attnOf bs) := rfl
  rw [hturn, attnStart_runs (s := attnPastHead s b) hs hw hp1 hi hq, hrun, ho] at ht
  generalize hu : ({ attnPastHead s b with hbmEcc := H, ddrEcc := D, draws := (attnPastHead s b).draws + 1 } : State) = u
    at ht
  have hub : u.badWords = s.badWords ∧ u.mem = s.mem ∧ u.faults = s.faults ∧ u.lanes = s.lanes ∧
      u.counters = s.counters ∧ u.blocks = (attnPastHead s b).blocks := hu ▸ ⟨rfl, rfl, rfl, rfl, rfl, rfl⟩
  obtain ⟨hbw, hmem, hfaults, hlanes, hctrs, hblocks⟩ := hub
  have hblock (n : Nat) : (storeRaw u p (attnOf bs).out (attnOutput s p (attnOf bs))).block n =
      (attnPastHead s b).block n := block_of_blocks ((storeRaw_blocks ..).trans hblocks)
  obtain ⟨hjobs, hhead, hothers⟩ := attnAddJob_afterHead hblock (x :=
    { index := (s.block b).attn.head, cmd := attnOf bs, status := 0, released := true
      gens := ((attnReads (attnOf bs)).flatMap fun x => spanGens s p x.1 x.2).eraseDups })
  subst ht
  refine ⟨hjobs, hhead, fun i h => ?_, fun a ha => ?_, hothers, (storeRaw_counters ..).trans hctrs,
    (storeRaw_lanes ..).trans hlanes⟩
  · exact memByte_storeRaw_span (s := u) (by rw [badIn, hbw]; exact hbad) (by rw [allTrusted, hfaults]; exact htrust) h
  · exact (memByte_storeRaw_out u p _ _ a ha).trans (by rw [hmem])

/-- The job of a command, when it completes, leaves the list of those in progress. -/
def withoutJob (s : State) (b : Nat) (i : BitVec 32) : State :=
  s.setAttn b { (s.block b).attn with jobs := (s.block b).attn.jobs.filter fun x => decide (x.index ≠ i) }

theorem exec_attendComplete {j : AttnJob} (hp : attnPart s blk.val = some p) (hj : (s.block blk.val).attn.jobs = [j]) :
    exec (.attendComplete blk j.index) s = .next (attnComplete (afterFused (withoutJob s blk.val j.index) blk.val p)
      blk.val p j) := by
  have hfind : ((s.block blk.val).attn.jobs.find? fun x => decide (x.index = j.index)) = some j := by simp [hj]
  show execAttendComplete blk j.index s = _
  simp only [execAttendComplete, hp, hfind]
  rfl


/-- A completed command has left the list; its counter, the registers and the benches of a fused one change. -/
theorem attendComplete_ends {j : AttnJob} (hp : attnPart s blk.val = some p) (hj : (s.block blk.val).attn.jobs = [j]) :
    ∃ t, exec (.attendComplete blk j.index) s = .next t ∧ (t.block blk.val).attn.jobs = [] ∧
      (t.block blk.val).attn.done = min (2 ^ 64 - 1) ((s.block blk.val).attn.done + 1) ∧
      (t.block blk.val).attn.lastFail = (if j.status = 0 then (s.block blk.val).attn.lastFail else j.status) ∧
      (j.cmd.signals = true → s.ownsCtr p j.cmd.signalCounter = true →
        (t.counter j.cmd.signalCounter).value =
          min 0x7FFF_FFFF_FFFF_FFFF ((s.counter j.cmd.signalCounter).value + 1) ∧
        (t.counter j.cmd.signalCounter).fault = ((s.counter j.cmd.signalCounter).fault || (j.status != 0))) ∧
      ((s.part p).insole = true → t.mem = s.mem) ∧
      (∀ a, (a < benchKey blk.val 0 0 ∨ benchKey blk.val 1024 0 ≤ a) → memByte t.mem a = memByte s.mem a) ∧
      (∀ n, n ≠ blk.val → t.block n = s.block n) ∧ t.lanes = s.lanes := by
  have hout : ((withoutJob s blk.val j.index).block blk.val).attn = { (s.block blk.val).attn with jobs := [] } := by
    simp [withoutJob, hj]
  obtain ⟨hblocks, hlanes, hctrs, hmem, hbench⟩ := afterFused_leaves (s := withoutJob s blk.val j.index) (b := blk.val)
    (p := p)
  have hrest := attnComplete_rest (s := afterFused (withoutJob s blk.val j.index) blk.val p) (b := blk.val) (p := p) (j := j)
  have hattn := attnComplete_attn (s := afterFused (withoutJob s blk.val j.index) blk.val p) (b := blk.val) (p := p) (j := j)
  rw [block_of_blocks hblocks, hout] at hattn
  refine ⟨_, exec_attendComplete hp hj, ?_, ?_, ?_, fun hs ho => ?_, fun hi => ?_, fun a ha => ?_, fun n hn => ?_, ?_⟩
  · rw [hattn]
  · rw [hattn]
    rfl
  · rw [hattn]
    by_cases h : j.status = 0 <;> simp [h]
  · have hown : (afterFused (withoutJob s blk.val j.index) blk.val p).ownsCtr p j.cmd.signalCounter = true := by
      rw [State.ownsCtr, hctrs]
      exact ho
    have hsame : (afterFused (withoutJob s blk.val j.index) blk.val p).counter j.cmd.signalCounter =
        s.counter j.cmd.signalCounter := counter_of_counters hctrs
    rw [attnComplete_counter hs hown, hsame]
    exact ⟨rfl, rfl⟩
  · exact hrest.mem.trans (hmem hi)
  · rw [hrest.mem]
    exact hbench a ha
  · rw [hrest.others n hn, block_of_blocks hblocks]
    simp [withoutJob, hn]
  · exact attnComplete_lanes.trans hlanes

/-- A command that fails a check completes with that check's code. -/
theorem attnComplete_failed {c : AttnCmd} {code : Byte} (hne : code ≠ 0) {t : State}
    (ht : attnComplete (attnPastHead s b) b p { index := (s.block b).attn.head, cmd := c, status := code } = t) :
    (t.block b).attn.head = (s.block b).attn.head + 1 ∧ (t.block b).attn.lastFail = code ∧
      (t.block b).attn.failTag = c.tag ∧
      (t.block b).attn.done = min (2 ^ 64 - 1) ((s.block b).attn.done + 1) ∧
      (t.block b).attn.jobs = (s.block b).attn.jobs ∧ (∀ n, n ≠ b → t.block n = s.block n) ∧ t.mem = s.mem := by
  subst ht
  have hrest := attnPastHead_rest.trans (attnComplete_rest (s := attnPastHead s b) (b := b) (p := p)
    (j := { index := (s.block b).attn.head, cmd := c, status := code }))
  refine ⟨?_, ?_, ?_, ?_, hrest.jobs, hrest.others, hrest.mem⟩
  all_goals rw [attnComplete_attn, attnPastHead_attn]
  · simpa using fun h : code = 0 => absurd h hne
  · simpa using fun h : code = 0 => absurd h hne
  · rfl

/-- Settles O34: the ring's registers and its flush, the turn of the head, the completion. -/
theorem attentionCommandsTakeTheirTurn : Obligations.AttentionCommandsTakeTheirTurn := by
  refine ⟨fun src q b v s hq => ⟨fun hle => ?_, fun hgt => ?_, fun hv => ⟨_, exec_attnFlush hq hv, attnFlushAll_ends⟩⟩,
    fun b r p bs s hr hp hj hw hh hf hne hread hbs => ?_, fun b p j s hp hj => attendComplete_ends hp hj⟩
  · have hfit : ringOverfull (v.setWidth 32) (s.block b.val).attn.head (s.block b.val).attn.size = false :=
      decide_eq_false (Nat.not_lt.2 hle)
    rw [exec_attnTailWrite hq, attnSetTail, hfit]
    rfl
  · have hover : ringOverfull (v.setWidth 32) (s.block b.val).attn.head (s.block b.val).attn.size = true :=
      decide_eq_true hgt
    rw [exec_attnTailWrite hq, attnSetTail, hover]
    rfl
  · subst hr
    have hexec : exec (.attend r) s = .next (attnTurn s r.b.val p r.found) := by
      show execAttend r s = _
      simp only [execAttend, hp]
    have hturn := attnTurn_head (found := r.found) hj hw hh hf hne hread hbs
    refine ⟨fun code hcheck hcode => ⟨_, hexec, ?_⟩, fun hcheck hs => ⟨fun hwait hmet => ⟨_, hexec, ?_⟩,
      fun out hwait hpwr hi hq hreads hfound hout hbad hwrite htrust => ⟨_, hexec, ?_⟩⟩⟩
    · subst hcheck
      rw [if_pos hcode] at hturn
      exact attnComplete_failed hcode hturn.symm
    · rw [if_neg (not_not_intro hcheck), attnStart_waits (s := attnPastHead s r.b.val)
        (j := { index := (s.block r.b.val).attn.head, cmd := attnOf bs }) hs hwait rfl hmet] at hturn
      rw [hturn, setAttn_eq, setBlock_block_same, attnPastHead_attn]
      exact ⟨rfl, rfl, rfl⟩
    · rw [if_neg (not_not_intro hcheck)] at hturn
      subst hout
      exact attnTurn_runs hturn hs hf hwait hpwr hi hq hreads hfound hbad hwrite htrust rfl

end

end Sys2Proof.Machine
end

section
/-! # Copies of Lasts that end, and idle Lasts

A copy of a Last that has ended stores bytes and then changes the Last service of its partition alone (`LastSet`); where
nothing waits for the slot, its request is answered and that is all. The aging of one slot leaves the entries and the jobs
of the other slots (`slotOnly`), so that a Last that is due is still due when its turn comes. -/

namespace Sys2Proof.Machine

variable {s t u : State} {p n : Nat}

/-! ### Maps -/

/-- Of two writes under one key the second stands. -/
theorem put_put {α : Type} (m : KMap α) (k : Nat) (a b : α) : (m.put k a).put k b = m.put k b := by
  induction m with
  | nil => simp [KMap.put]
  | cons x r ih =>
    obtain ⟨j, w⟩ := x
    by_cases hlt : k < j
    · simp [KMap.put, hlt]
    · by_cases hj : j = k
      · simp [KMap.put, hj]
      · simp [KMap.put, hlt, hj, ih]

/-- What a map holds under a key is among its entries. -/
theorem mem_of_find {α : Type} {m : KMap α} {k : Nat} {v : α} (h : m.find k = some v) : (k, v) ∈ m := by
  induction m with
  | nil => simp at h
  | cons x r ih =>
    obtain ⟨j, w⟩ := x
    by_cases hj : j = k
    · obtain rfl : w = v := by simpa [KMap.find, hj] using h
      simp [hj]
    · exact List.mem_cons_of_mem _ (ih (by simpa [KMap.find, hj] using h))

/-! ### What faults and stored bytes leave of the Last service -/

/-- An update of a partition that leaves its Last service leaves every partition's. -/
theorem setPart_last {x : PartState} {q : Nat} (hx : x.last = (s.part p).last) :
    ((s.setPart p x).part q).last = (s.part q).last := by
  by_cases h : q = p
  · rw [h, setPart_part_same, hx]
  · rw [setPart_part_ne _ _ h]

theorem setPFault_last {f : PFault} {q : Nat} : ((s.setPFault p f).part q).last = (s.part q).last :=
  setPart_last (x := { s.part p with fault := f }) rfl

theorem part_of_parts {q : Nat} (h : t.parts = s.parts) : t.part q = s.part q := by
  rw [State.part, h]
  rfl

theorem faultRecord_last {cls part unitKind unit address detail q : Nat} {code : Byte} {tag : Word} :
    ((faultRecord s cls code part unitKind unit address detail tag).part q).last = (s.part q).last := by
  have told (s : State) (r : FaultRec) : ((tellFault s r).part q).last = (s.part q).last := by
    have hn : (sendNotice s (faultForTray r.cls) 0x8004 (faultBytes r)).part q = s.part q :=
      part_of_parts (sendNotice_parts ..)
    unfold tellFault
    dsimp only
    split
    · rw [State.upd, part_of_parts (raiseRisen_parts ..)]
      exact congrArg PartState.last hn
    · split
      · rw [part_of_parts (raisePart_parts ..)]
        exact setPFault_last.trans (congrArg PartState.last hn)
      · exact setPFault_last.trans (congrArg PartState.last hn)
  unfold faultRecord
  dsimp only
  split
  · rfl
  · exact told _ _

theorem badWordFaults_last {off len q : Nat} {tag : Word} :
    ((badWordFaults s p off len tag).part q).last = (s.part q).last := by
  have lost (s : State) (tier ch : Nat) : (countLost s tier ch).part q = s.part q := by
    unfold countLost
    dsimp only
    split <;> rfl
  have one (s : State) (w : Nat) : ((badWordFault s p w tag).part q).last = (s.part q).last := by
    unfold badWordFault
    dsimp only
    split
    · exact faultRecord_last
    · rw [faultRecord_last, lost]
  unfold badWordFaults
  dsimp only
  rw [foldl_leaves (fun s : State => (s.part q).last) fun s w => one s _]
  split
  · rfl
  · exact faultRecord_last

theorem storeRaw_last {off q : Nat} {bs : List Byte} : ((storeRaw s p off bs).part q).last = (s.part q).last := by
  unfold storeRaw
  dsimp only
  split
  · exact setPart_last rfl
  · rfl

theorem transferWrite_last {off q : Nat} {bs : List Byte} {covers : Nat → Bool} {tag : Word} :
    ((transferWrite s p off bs covers tag).2.part q).last = (s.part q).last := by
  unfold transferWrite
  dsimp only
  split
  · rfl
  · dsimp only
    split
    · rw [badWordFaults_last, storeRaw_last]
    · exact storeRaw_last

/-! ### What becomes of the Last service of a partition -/

/-- From `s` to `t` the Last service of partition `p` changed by `f`; of the rest of the state, what answers and the map of
a partition rest on is as it was. -/
structure LastSet (s t : State) (p : Nat) (f : PLast → PLast) : Prop where
  out : t.out = s.out
  fab : t.fab = s.fab
  mgmt : t.mgmt = s.mgmt
  pattern : t.pattern = s.pattern
  faults : t.faults = s.faults
  last : (t.part p).last = f (s.part p).last

theorem LastSet.refl : LastSet s s p id := ⟨rfl, rfl, rfl, rfl, rfl, rfl⟩

theorem LastSet.trans {f g : PLast → PLast} (h : LastSet s t p f) (h' : LastSet t u p g) :
    LastSet s u p fun l => g (f l) :=
  ⟨h'.out.trans h.out, h'.fab.trans h.fab, h'.mgmt.trans h.mgmt, h'.pattern.trans h.pattern, h'.faults.trans h.faults,
    h'.last.trans (congrArg g h.last)⟩

theorem modPLast_set {f : PLast → PLast} : LastSet s (s.modPLast p f) p f :=
  ⟨rfl, rfl, rfl, rfl, rfl, by simp⟩

theorem storeRaw_set {off : Nat} {bs : List Byte} : LastSet s (storeRaw s p off bs) p id :=
  ⟨by simp, by simp, by simp, by simp, by simp, storeRaw_last⟩

theorem setDir_set {e : DirEntry} : LastSet s (setDir s p n e) p fun l => { l with dir := l.dir.put n e } := by
  unfold setDir
  dsimp only
  split
  · exact modPLast_set
  · exact modPLast_set.trans storeRaw_set

theorem endJob_set : LastSet s (endJob s p n) p fun l => { l with jobs := l.jobs.del n } := by
  refine ⟨rfl, rfl, rfl, rfl, rfl, ?_⟩
  simp only [endJob, modPLast_eq, setPart_part_same]
  rfl

section
variable {f : PLast → PLast} (h : LastSet s t p f)
include h

theorem LastSet.dirAt {m : Nat} : dirAt t p m = (f (s.part p).last).dir.at m {} := by
  rw [Machine.dirAt, h.last]

theorem LastSet.unreachable {d : Nat} : unreachable t d = unreachable s d := by
  simp [Machine.unreachable, State.peer, h.fab]

theorem LastSet.capOf {c : Nat} : capOf t c = capOf s c := by
  simp [Machine.capOf, State.lastClasses, h.pattern]

theorem LastSet.directory : directory t p = directory s p := by
  simp [Machine.directory, lastRegions, State.regions, State.lastClasses, footprint, Machine.capOf, unitOf, compactLasts,
    h.pattern]

theorem LastSet.partnerOf : partnerOf t p = partnerOf s p := by
  simp [Machine.partnerOf, State.piece, ownMap, mapDevice, h.fab, h.mgmt, h.pattern, h.faults]

end

/-! ### Copies (R129, R310) -/

theorem transferWrite_done {off : Nat} {bs : List Byte} {covers : Nat → Bool} {tag : Word}
    (h : (transferWrite s p off bs covers tag).1 = 0) : LastSet s (transferWrite s p off bs covers tag).2 p id := by
  unfold transferWrite at h ⊢
  dsimp only at h ⊢
  split at h
  · exact absurd (show (5 : Byte) = 0 from h) (by decide)
  next h5 =>
    dsimp only at h
    rw [if_neg h5, h]
    exact storeRaw_set

/-- A copy that has met no failure: no word of its source is at fault, and bytes were stored. -/
def copiedWell (s : State) (p : Nat) (r : Byte × Bool × State) : Prop :=
  r.1 = 0 → r.2.1 = false ∧ LastSet s r.2.2 p id

theorem copyPlane_copied {src dst len : Nat} : copiedWell s p (copyPlane s p src dst len) := by
  unfold copyPlane
  dsimp only
  split
  next hc => exact fun h => absurd h hc
  · exact fun h => ⟨rfl, transferWrite_done h⟩

theorem copiedWell_self : copiedWell s p (0, false, s) := fun _ => ⟨rfl, .refl⟩

/-- Copies one after another, of which the first that fails is the last. -/
theorem foldl_copied {f : Byte × Bool × State → Nat → Byte × Bool × State} (hstop : ∀ r l, r.1 ≠ 0 → f r l = r)
    (hcopy : ∀ r l, r.1 = 0 → copiedWell r.2.2 p (f r l)) {xs : List Nat} {r : Byte × Bool × State}
    (h : copiedWell s p r) : copiedWell s p (xs.foldl f r) := by
  induction xs generalizing r with
  | nil => exact h
  | cons l xs ih =>
    refine ih fun h0 => ?_
    by_cases hr : r.1 = 0
    · obtain ⟨hbad, hset⟩ := hcopy r l hr h0
      exact ⟨hbad, (h hr).2.trans hset⟩
    · exact absurd (hstop r l hr ▸ h0) hr

theorem copyLast_copied {base cls : Nat} : copiedWell s p (copyLast s p n base cls) := by
  unfold copyLast
  dsimp only
  split
  · exact copiedWell_self
  · refine foldl_copied (fun r l hr => if_pos hr) (fun r l hr => ?_) copiedWell_self
    rw [if_neg (not_not_intro hr)]
    exact copyPlane_copied

/-- Copies that have met no failure stored bytes at most. -/
theorem jobCopy_done {j : LastJob} (h0 : (jobCopy s p n j 0).1 = 0) :
    ∃ u, jobCopy s p n j 0 = (0, false, u) ∧ LastSet s u p id := by
  have hcopied : copiedWell s p (jobCopy s p n j 0) := by
    unfold jobCopy
    dsimp only
    rw [if_neg (by decide)]
    split
    next hnv => exact fun h => absurd h hnv
    · split
      · exact copiedWell_self
      · exact copyLast_copied
  obtain ⟨hbad, hset⟩ := hcopied h0
  exact ⟨_, Prod.ext h0 (Prod.ext hbad rfl), hset⟩

/-- Without a failure to report and behind no remote request, a copy's source is as it was (R364). -/
theorem copyMet_idle {r : PartRead} (hh : s.fab.home = []) (hr : r.found = none) : copyMet s r n = s := by
  have met (xs : List (Nat × Nat)) : eccMetIn s r.p.val xs r.found = s := by
    rw [hr]
    induction xs with
    | nil => rfl
    | cons x xs ih => exact ih
  unfold copyMet
  dsimp only
  rw [settlePart_idle hh, met, ite_self]

/-- A word in error that is met touches neither memory nor the Last service. -/
theorem eccMet_set {off len : Nat} {found : Found} :
    LastSet s (eccMet s p off len found) p id ∧ (eccMet s p off len found).mem = s.mem := by
  unfold eccMet
  split
  · exact ⟨.refl, rfl⟩
  · dsimp only
    split
    · exact ⟨.refl, rfl⟩
    · split
      · exact ⟨⟨rfl, rfl, rfl, rfl, rfl, rfl⟩, rfl⟩
      · split
        · exact ⟨.refl, rfl⟩
        · unfold countFixed
          split <;> exact ⟨⟨rfl, rfl, rfl, rfl, rfl, rfl⟩, rfl⟩

/-- What a copy finds of words in error touches neither memory nor the Last service. -/
theorem copyMet_set {r : PartRead} (hh : s.fab.home = []) :
    LastSet s (copyMet s r n) r.p.val id ∧ (copyMet s r n).mem = s.mem := by
  have met (xs : List (Nat × Nat)) (s : State) : LastSet s (eccMetIn s r.p.val xs r.found) r.p.val id ∧
      (eccMetIn s r.p.val xs r.found).mem = s.mem := by
    unfold eccMetIn
    induction xs generalizing s with
    | nil => exact ⟨.refl, rfl⟩
    | cons x xs ih =>
      obtain ⟨hset, hmem⟩ := eccMet_set (s := s) (p := r.p.val) (off := x.1) (len := x.2) (found := r.found)
      obtain ⟨hset', hmem'⟩ := ih (eccMet s r.p.val x.1 x.2 r.found)
      exact ⟨hset.trans hset', hmem'.trans hmem⟩
  unfold copyMet
  dsimp only
  rw [settlePart_idle hh]
  split
  · exact ⟨.refl, rfl⟩
  · exact met _ _

/-! ### The entry's bytes (Table 04-6) -/

theorem dirBytes_length {e : DirEntry} : (dirBytes e).length = 64 := by
  simp [dirBytes, leBytes]

/-- Writing an entry stores its 64 bytes alone. -/
theorem setDir_mem {e : DirEntry} : memKeptButEntry s (setDir s p n e) p n := by
  have hdir : directory (s.modPLast p fun l => { l with dir := l.dir.put n e }) p = directory s p := rfl
  unfold memKeptButEntry setDir
  dsimp only
  rw [hdir]
  cases directory s p with
  | none => rfl
  | some d => exact fun a ha => memByte_storeRaw_out _ _ _ _ a (by rwa [dirBytes_length])

/-! ### Answers, and what goes on after a copy (R155, R173) -/

theorem onlyFab.rest (h : onlyFab s t) : t.out = s.out ∧ t.mem = s.mem ∧ t.parts = s.parts := by
  rw [onlyFab] at h
  rw [h]
  exact ⟨rfl, rfl, rfl⟩

/-- `t` is `s` after a reply with code `c` to the request `h`. -/
def repliedTo (s t : State) (p : Nat) (h : SvcHdr) (c : Byte) : Prop :=
  ∃ r payload, t = svcReply s p h r payload ∧ r.op = h.op ∧ r.msgId = h.msgId ∧ r.tag = h.tag ∧ r.reply = true ∧
    r.status = c

theorem growReply_repliedTo {h : SvcHdr} {c : Byte} : repliedTo s (growReply s p n h c) p h c := by
  unfold growReply
  dsimp only
  split
  · exact ⟨_, _, rfl, rfl, rfl, rfl, rfl, rfl⟩
  next h0 =>
    rw [not_ne_iff.1 h0]
    exact ⟨_, _, rfl, rfl, rfl, rfl, rfl, rfl⟩

/-- The entry of a Last granted to the sender of `h` (R154 step 9). -/
def grantedEntry (s : State) (p n : Nat) (h : SvcHdr) : DirEntry := { dirAt s p n with
  state := 1, holderTag := h.tag, holderDevice := h.fromDevice, holderPartition := h.fromPartition
  partner := mirrorHandle s p n (dirAt s p n).reuse }

/-- A GRANT names the holder in the entry, and is the answer. -/
theorem openGrant_repliedTo {h : SvcHdr} {mirror : Word} (hp : h.partner = false) :
    repliedTo (setDir s p n (grantedEntry s p n h)) (openGrant s p n h mirror) p h 0 := by
  simp only [openGrant, hp]
  exact ⟨_, _, rfl, rfl, rfl, rfl, rfl, rfl⟩

/-- An answer goes out once; the Last service notes it, and memory is as it was. -/
theorem svcReply_sends {h r : SvcHdr} {payload : List Byte} (hu : unreachable s h.fromDevice = false) :
    (svcReply s p h r payload).out = s.out ++ [.service h.fromDevice h.fromPartition r payload] ∧
      (svcReply s p h r payload).mem = s.mem ∧
      ∃ received answers, ((svcReply s p h r payload).part p).last =
        { (s.part p).last with received := received, answers := answers } := by
  obtain ⟨hout, hmem, hparts⟩ := (svcPost_eq (s := s.modPLast p _) hu).rest
  have hlast := congrArg PartState.last (part_of_parts (q := p) hparts)
  rw [show State.part (State.emit _ _) p = _ from part_of_parts (emit_parts ..), modPLast_set.last] at hlast
  exact ⟨hout, hmem, _, _, hlast⟩

/-- Where nothing waits for the slot, the end of its copy lets nothing go on. -/
theorem resumeSlot_idle (hw : (s.part p).last.partnerWaiting.at n [] = [])
    (hg : (s.part p).last.heldGrows.at n [] = []) :
    (resumeSlot s p n).mem = s.mem ∧ ∃ partners : PLast → KMap (List (SvcHdr × Nat)),
      LastSet s (resumeSlot s p n) p fun l => { l with partnerWaiting := partners l, heldGrows := l.heldGrows.del n } := by
  have hp : (resumePartners s p n).mem = s.mem ∧ ∃ partners : PLast → KMap (List (SvcHdr × Nat)),
      LastSet s (resumePartners s p n) p fun l => { l with partnerWaiting := partners l } := by
    unfold resumePartners
    split
    · exact ⟨rfl, fun l => l.partnerWaiting, .refl⟩
    · rw [hw]
      exact ⟨rfl, _, modPLast_set⟩
  obtain ⟨hmem, partners, hset⟩ := hp
  have hg' : ((resumePartners s p n).part p).last.heldGrows.at n [] = [] := by rw [hset.last]; exact hg
  unfold resumeSlot
  dsimp only
  rw [hg']
  exact ⟨hmem, partners, hset.trans modPLast_set⟩

/-- Where nothing waits for the slot, a copy that has set its entry to `e` ends with the answer to its request. -/
theorem repliedTo_resumes {v : State} {f : PLast → PLast} {e : DirEntry} {h : SvcHdr} {c : Byte} (hset : LastSet s v p f)
    (hdir : (f (s.part p).last).dir = (s.part p).last.dir.put n e)
    (hw : (f (s.part p).last).partnerWaiting.at n [] = []) (hg : (f (s.part p).last).heldGrows.at n [] = [])
    (hu : unreachable s h.fromDevice = false) (ha : repliedTo v t p h c) :
    repliesWith s (resumeSlot t p n) h c ∧ dirAt (resumeSlot t p n) p n = e ∧
      (∀ m, m ≠ n → dirAt (resumeSlot t p n) p m = dirAt s p m) ∧ (resumeSlot t p n).mem = v.mem := by
  obtain ⟨r, payload, rfl, hr⟩ := ha
  obtain ⟨hout, hmem, received, answers, hlast⟩ := svcReply_sends (p := p) (r := r) (payload := payload)
    (hset.unreachable.trans hu)
  rw [hset.last] at hlast
  obtain ⟨hmem', partners, hidle⟩ := resumeSlot_idle (s := svcReply v p h r payload) (p := p) (n := n)
    (by rw [hlast]; exact hw) (by rw [hlast]; exact hg)
  have hat (m : Nat) :
      dirAt (resumeSlot (svcReply v p h r payload) p n) p m = ((s.part p).last.dir.put n e).at m {} := by
    rw [hidle.dirAt, hlast, ← hdir]
  refine ⟨⟨r, payload, ?_, hr⟩, ?_, fun m hm => ?_, hmem'.trans hmem⟩
  · rw [hidle.out, hout, hset.out]
  · rw [hat, at_put_same]
  · rw [hat, at_put_ne _ _ _ hm]
    rfl

/-! ### The ends of copies -/

theorem oldFootprint_frees {q : Part} : ∃ t, exec (.lastOldFootprintFree q n) s = .next t ∧
    (∀ o, o ∈ (t.part q.val).last.olds ↔ o ∈ (s.part q.val).last.olds ∧ (o.slot ≠ n ∨ o.readers ≠ 0)) ∧
    (∀ m, dirAt t q.val m = dirAt s q.val m) ∧ t.mem = s.mem ∧ t.out = s.out := by
  have hset := modPLast_set (s := s) (p := q.val) (f := fun l => { l with
    olds := l.olds.filter fun o => decide (o.slot ≠ n ∨ o.readers ≠ 0) })
  refine ⟨_, rfl, fun o => ?_, fun m => hset.dirAt, rfl, rfl⟩
  rw [hset.last, List.mem_filter, decide_eq_true_iff]

/-- The footprint that slot `n` leaves at the switch to a new one, with the reads that go on in it (R129, R130). -/
def oldFootprint (s : State) (e : DirEntry) (l : PLast) (n : Nat) : OldFootprint where
  slot := n
  base := e.base
  size := e.size s
  readers := (l.queries.filter fun q => decide (q.slot = n ∧ q.base = e.base)).length

/-- The state in which a growth for GROW has ended with code `c`, from the state `u` that its copy left; `e` was the entry
of slot `n` before. -/
def growthEnded (u : State) (p n : Nat) (j : LastJob) (e : DirEntry) (c : Byte) : State :=
  if c ≠ 0 then setDir (endJob u p n) p n { e with state := 1 }
  else
    let s := setDir (endJob u p n) p n { e with state := 1, base := j.newBase, cls := j.newCls, tier := j.newTier }
    s.modPLast p fun l => { l with olds := l.olds ++ [oldFootprint s e l n] }

theorem growthEnded_good {j : LastJob} {e : DirEntry} : ∃ old : PLast → OldFootprint,
    LastSet u (growthEnded u p n j e 0) p fun l => { l with
      jobs := l.jobs.del n
      dir := l.dir.put n { e with state := 1, base := j.newBase, cls := j.newCls, tier := j.newTier }
      olds := l.olds ++ [old l] } :=
  ⟨_, endJob_set.trans (setDir_set.trans (modPLast_set (f := fun l => { l with
    olds := l.olds ++ [oldFootprint _ e l n] })))⟩

theorem growthEnded_failed {j : LastJob} {e : DirEntry} {c : Byte} (hc : c ≠ 0) :
    LastSet u (growthEnded u p n j e c) p (fun l => { l with
      jobs := l.jobs.del n, dir := l.dir.put n { e with state := 1 } }) ∧
    memKeptButEntry u (growthEnded u p n j e c) p n := by
  rw [growthEnded, if_pos hc]
  exact ⟨endJob_set.trans setDir_set, setDir_mem (s := endJob u p n)⟩

/-- A move that has ended well: the entry names the destination (R310 step 4). -/
theorem moveEnds_good {j : LastJob} {bad : Bool} : LastSet u (moveEnds u p n j 0 bad) p fun l => { l with
    jobs := l.jobs.del n
    dir := l.dir.put n { dirAt u p n with state := 2, base := j.newBase, tier := j.newTier } } :=
  endJob_set.trans setDir_set

/-- No request that waits for room goes on where none waits for this move. -/
theorem resumeRoom_idle (hr : ∀ w ∈ (s.part p).last.room, w.moving ≠ n) : LastSet s (resumeRoom s p n) p fun l =>
    { l with room := l.room.filter fun w => decide (w.moving ≠ n) } := by
  have hnone : ((s.part p).last.room.filter fun w => decide (w.moving = n)) = [] := by simpa using hr
  unfold resumeRoom
  dsimp only
  rw [hnone]
  exact modPLast_set

theorem levelTo_zero : levelTo s p n 0 = s := rfl

/-- A Last without a partner and with room for what the OPEN asks is granted (R154 steps 7 to 9). -/
theorem openStep7_grants {h : SvcHdr} (hp : h.partner = false) (hq : partnerOf s p = none)
    (hc : (dirAt s p n).length + h.posA ≤ capOf s (dirAt s p n).cls) {left : Nat × Nat} :
    openWith p n h (openStep7 s p n h left 0) = openGrant s p n h allOnes64 := by
  simp [openStep7, Nat.not_lt.2 hc, openStep8, hp, hq, openWith, levelTo_zero]

section
variable {q : Part} {j : LastJob} {h : SvcHdr} (hj : (s.part q.val).last.jobs.find n = some j)
include hj

theorem exec_growthCopyDone {found : Found} {c : Byte} {r : Byte × Bool × State} (hk : j.kind = 0)
    (hc : codeDefined c = true) (hwt : j.waiting = some h) (hr : jobCopy (copyMet s ⟨q, found⟩ n) q.val n j c = r) :
    exec (.lastGrowthCopyDone ⟨q, found⟩ n c) s = .next (resumeSlot
      (growReply (growthEnded r.2.2 q.val n j (dirAt s q.val n) r.1) q.val n h r.1) q.val n) := by
  show execLastGrowthCopyDone ⟨q, found⟩ n c s = _
  subst hr
  simp only [execLastGrowthCopyDone, hj, hk, hc, hwt]
  rfl

variable (hw : (s.part q.val).last.partnerWaiting.at n [] = []) (hg : (s.part q.val).last.heldGrows.at n [] = [])
  (hh : s.fab.home = [])
include hw hg hh

/-- A growth that failed leaves the entry where it was, and its GROW is answered with the code (R131). -/
theorem growthCopy_fails {found : Found} {c : Byte} (hk : j.kind = 0) (hwt : j.waiting = some h)
    (hu : unreachable s h.fromDevice = false) (hc : c ≠ 0) (hd : codeDefined c = true) :
    ∃ t, exec (.lastGrowthCopyDone ⟨q, found⟩ n c) s = .next t ∧ repliesWith s t h c ∧
      dirAt t q.val n = { dirAt s q.val n with state := 1 } ∧
      (∀ m, m ≠ n → dirAt t q.val m = dirAt s q.val m) ∧ memKeptButEntry s t q.val n := by
  obtain ⟨hmet, hmem⟩ := copyMet_set (s := s) (n := n) (r := ⟨q, found⟩) hh
  have hcopy : jobCopy (copyMet s ⟨q, found⟩ n) q.val n j c =
      (c, _, copyMet s ⟨q, found⟩ n) := if_pos hc
  obtain ⟨hend, hkept⟩ := growthEnded_failed (u := copyMet s ⟨q, found⟩ n) (p := q.val) (n := n) (j := j)
    (e := dirAt s q.val n) hc
  obtain ⟨hrep, hentry, hothers, hmem'⟩ := repliedTo_resumes (hmet.trans hend) rfl hw hg hu
    (growReply_repliedTo (n := n) (h := h) (c := c))
  refine ⟨_, exec_growthCopyDone hj hk hd hwt hcopy, hrep, hentry, hothers, ?_⟩
  unfold memKeptButEntry memKeptBut at hkept ⊢
  rwa [hmem', ← hmem, ← hmet.directory]

variable (h0 : (jobCopy s q.val n j 0).1 = 0)
include h0

/-- After a growth the entry names the new footprint, and its GROW is answered (R129). -/
theorem growthCopy_ends (hk : j.kind = 0) (hwt : j.waiting = some h) (hu : unreachable s h.fromDevice = false) :
    ∃ t, exec (.lastGrowthCopyDone ⟨q, none⟩ n 0) s = .next t ∧ repliesWith s t h 0 ∧
      dirAt t q.val n = { dirAt s q.val n with state := 1, base := j.newBase, cls := j.newCls, tier := j.newTier } ∧
      ∀ m, m ≠ n → dirAt t q.val m = dirAt s q.val m := by
  obtain ⟨u, hcopy, hset⟩ := jobCopy_done h0
  obtain ⟨old, hend⟩ := growthEnded_good (u := u) (p := q.val) (n := n) (j := j) (e := dirAt s q.val n)
  obtain ⟨hrep, hentry, hothers, -⟩ := repliedTo_resumes (hset.trans hend) rfl hw hg hu
    (growReply_repliedTo (n := n) (h := h) (c := 0))
  have hexec := exec_growthCopyDone (r := (0, false, u)) (found := none) (c := 0) hj hk (by decide) hwt
    (by rw [copyMet_idle hh rfl, hcopy])
  exact ⟨_, hexec, hrep, hentry, hothers⟩

variable (hwait : lastWaits s q.val n j = false)
include hwait

/-- After a promotion the OPEN that waited for it is granted (R156). -/
theorem promotion_ends (hk : j.kind = 2) (hwt : j.waiting = some h) (hu : unreachable s h.fromDevice = false)
    (hpe : j.peer = 0) (hp : h.partner = false) (hq : partnerOf s q.val = none)
    (hcap : (dirAt s q.val n).length + h.posA ≤ capOf s (dirAt s q.val n).cls) :
    ∃ t, exec (.lastPromotionDone ⟨q, none⟩ n 0) s = .next t ∧ repliesWith s t h 0 ∧
      (dirAt t q.val n).state = 1 ∧ (dirAt t q.val n).base = j.newBase ∧ (dirAt t q.val n).tier = j.newTier ∧
      (dirAt t q.val n).holderTag = h.tag ∧ ∀ m, m ≠ n → dirAt t q.val m = dirAt s q.val m := by
  obtain ⟨u, hcopy, hcopied⟩ := jobCopy_done h0
  have hset := hcopied.trans (moveEnds_good (n := n) (j := j) (bad := false))
  have hentry : dirAt (moveEnds u q.val n j 0 false) q.val n =
      { dirAt s q.val n with state := 2, base := j.newBase, tier := j.newTier } := by
    rw [hset.dirAt, hcopied.dirAt]
    exact at_put_same ..
  have hexec : exec (.lastPromotionDone ⟨q, none⟩ n 0) s =
      .next (resumeSlot (openGrant (moveEnds u q.val n j 0 false) q.val n h allOnes64) q.val n) := by
    show execLastPromotionDone ⟨q, none⟩ n 0 s = _
    have hd : codeDefined 0 = true := by decide
    rw [← openStep7_grants (left := roomMoves) hp (hset.partnerOf.trans hq) (by rw [hentry, hset.capOf]; exact hcap)]
    simp only [execLastPromotionDone, hj, hk, hwait, hd, copyMet_idle hh, hcopy, hwt, hpe]
    rfl
  obtain ⟨hrep, hn, hothers, -⟩ := repliedTo_resumes
    (hset.trans (setDir_set (e := grantedEntry (moveEnds u q.val n j 0 false) q.val n h))) (put_put ..) hw hg hu
    (openGrant_repliedTo hp)
  refine ⟨_, hexec, hrep, ?_⟩
  rw [hn, grantedEntry, hentry]
  exact ⟨rfl, rfl, rfl, rfl, hothers⟩

/-- After a downward move the entry names the destination, and nothing is sent (R310). -/
theorem tierMove_ends (hk : j.kind = 3) (hroom : ∀ w ∈ (s.part q.val).last.room, w.moving ≠ n) :
    ∃ t, exec (.lastTierMoveDone ⟨q, none⟩ n 0) s = .next t ∧ t.out = s.out ∧
      dirAt t q.val n = { dirAt s q.val n with state := 2, base := j.newBase, tier := j.newTier } ∧
      ∀ m, m ≠ n → dirAt t q.val m = dirAt s q.val m := by
  obtain ⟨u, hcopy, hcopied⟩ := jobCopy_done h0
  have hset := hcopied.trans (moveEnds_good (n := n) (j := j) (bad := false))
  obtain ⟨-, partners, hidle⟩ := resumeSlot_idle (s := moveEnds u q.val n j 0 false) (p := q.val) (n := n)
    (by rw [hset.last]; exact hw) (by rw [hset.last]; exact hg)
  have hend := hset.trans (hidle.trans (resumeRoom_idle (n := n) (by rw [hidle.last, hset.last]; exact hroom)))
  refine ⟨_, ?_, hend.out, ?_, fun m hm => ?_⟩
  · show execLastTierMoveDone ⟨q, none⟩ n 0 s = _
    have hd : codeDefined 0 = true := by decide
    simp only [execLastTierMoveDone, hj, hk, hwait, hd, copyMet_idle hh, hcopy]
    rfl
  · rw [hend.dirAt]
    refine (at_put_same ..).trans ?_
    rw [hcopied.dirAt]
    rfl
  · rw [hend.dirAt]
    exact at_put_ne _ _ _ hm

end

/-! ### Aging (R176, R177) -/

theorem lastCmd_last {drive nsid byte own off len q : Nat} {write flush : Bool} :
    ((lastCmd s p n drive nsid byte own off len write flush).part q).last = (s.part q).last := by
  unfold lastCmd nvSend
  dsimp only
  split
  · rfl
  · split
    · exact setPart_last rfl
    · rfl

/-- Of the Last service of partition `p` at most the entry and the job of slot `n` changed. -/
def slotOnly (s t : State) (p n : Nat) : Prop := ∃ dir jobs,
  (t.part p).last = { (s.part p).last with dir := dir, jobs := jobs } ∧
    ∀ k, k ≠ n → dir.find k = (s.part p).last.dir.find k ∧ jobs.find k = (s.part p).last.jobs.find k

theorem slotOnly.of_last (h : (t.part p).last = (s.part p).last) : slotOnly s t p n :=
  ⟨_, _, h, fun _ _ => ⟨rfl, rfl⟩⟩

theorem slotOnly.trans (h : slotOnly s t p n) (h' : slotOnly t u p n) : slotOnly s u p n := by
  obtain ⟨dir, jobs, hl, hk⟩ := h
  obtain ⟨dir', jobs', hl', hk'⟩ := h'
  rw [hl] at hl' hk'
  exact ⟨dir', jobs', hl', fun k hne => ⟨(hk' k hne).1.trans (hk k hne).1, (hk' k hne).2.trans (hk k hne).2⟩⟩

theorem slotOnly.ite {c : Prop} [Decidable c] (ht : slotOnly s t p n) (hu : slotOnly s u p n) :
    slotOnly s (if c then t else u) p n := by
  split
  · exact ht
  · exact hu

theorem setDir_slotOnly {e : DirEntry} : slotOnly s (setDir s p n e) p n :=
  ⟨_, _, setDir_set.last, fun _ hne => ⟨find_put_ne _ _ hne, rfl⟩⟩

theorem putJob_slotOnly {j : LastJob} : slotOnly s (putJob s p n j) p n :=
  ⟨_, _, modPLast_set.last, fun _ hne => ⟨rfl, find_put_ne _ _ hne⟩⟩

theorem endJob_slotOnly : slotOnly s (endJob s p n) p n :=
  ⟨_, _, endJob_set.last, fun _ hne => ⟨rfl, find_del_ne _ hne⟩⟩

theorem lastSend_slotOnly {fuel : Nat} : slotOnly s (lastSend p n fuel s) p n := by
  induction fuel generalizing s with
  | zero => exact .of_last rfl
  | succ fuel ih =>
    unfold lastSend
    split
    · exact .of_last rfl
    · dsimp only
      split
      · exact .of_last rfl
      · split
        · have faulty {c : Prop} [Decidable c] {off len : Nat} :
              slotOnly s (if c then badWordFaults s p off len 0 else s) p n :=
            .ite (.of_last badWordFaults_last) (.of_last rfl)
          exact .ite
            (.ite (.trans (.of_last transferWrite_last) (putJob_slotOnly.trans ih))
              (.trans (.of_last transferWrite_last) putJob_slotOnly))
            (.ite putJob_slotOnly (.ite (.of_last rfl) (.ite (faulty.trans putJob_slotOnly)
              (putJob_slotOnly.trans (.trans (.of_last lastCmd_last) ih)))))
        · exact putJob_slotOnly

theorem lastNvme_slotOnly {nv : Nat} : slotOnly s (lastNvme s p n nv) p n := by
  have goesOn (s : State) : slotOnly s (lastNext s p n) p n := by
    unfold lastNext
    dsimp only
    split
    · exact lastSend_slotOnly
    · exact .ite (lastSend_slotOnly.trans (putJob_slotOnly.trans
        (.of_last (foldl_leaves (fun s : State => (s.part p).last) (fun _ _ => lastCmd_last) _ _)))) lastSend_slotOnly
  refine slotOnly.trans ⟨_, _, modPLast_set.last, fun k hne => ⟨rfl, ?_⟩⟩ (goesOn _)
  rw [find_mapVals]
  simp [hne]

theorem ageLast_slotOnly : slotOnly s (ageLast s p n) p n := by
  have down (tier base : Nat) : slotOnly s (startDown s p n tier base) p n :=
    .ite (setDir_slotOnly.trans (putJob_slotOnly.trans lastNvme_slotOnly)) (setDir_slotOnly.trans putJob_slotOnly)
  unfold ageLast
  dsimp only
  refine .ite (.of_last rfl) (.ite (endJob_slotOnly.trans setDir_slotOnly) (.ite (.of_last rfl) (.ite (.of_last rfl) ?_)))
  split
  · exact .of_last rfl
  · exact down _ _

/-- The scope of aging: memory alone is free to change, of the parts that a scope speaks of. -/
def agingScope : Scope where
  time := false
  pattern := false
  loader := false
  trust := false
  power := false
  cores := false
  memory := true

theorem ageLast_keeps_now : (ageLast s p n).now = s.now :=
  now_of_kept (ageLast_kept (w := agingScope) s p n rfl) rfl

theorem ageLast_keeps_pattern : (ageLast s p n).pattern = s.pattern :=
  (pattern_of_kept (ageLast_kept (w := agingScope) s p n rfl) rfl).1

/-- The Last of slot `n` is idle past the sum of every threshold: entry `e` is freed at its turn (R176, R177). -/
structure AgedOut (s : State) (p n : Nat) (e : DirEntry) : Prop where
  entry : (s.part p).last.dir.find n = some e
  idle : e.state = 2
  free : slotBusy s p n = false
  due : (ttlOf s p).1 + (ttlOf s p).2.1 + (ttlOf s p).2.2 ≤ s.now - e.idleSince

theorem AgedOut.dirAt {e : DirEntry} (h : AgedOut s p n e) : dirAt s p n = e := by
  rw [Machine.dirAt, KMap.at, h.entry]
  rfl

/-- At its turn an aged out Last is freed and its REUSE rises. -/
theorem ageLast_frees {e : DirEntry} (h : AgedOut s p n e) :
    dirAt (ageLast s p n) p n = { reuse := (e.reuse + 1) % 65535 } := by
  have hage : ageLast s p n = freeLast s p n := by
    simp [ageLast, h.dirAt, h.idle, h.free, h.due]
  rw [hage, freeLast, setDir_set.dirAt, h.dirAt]
  exact at_put_same ..

/-- The aging of another slot leaves an aged out Last for its own turn. -/
theorem ageLast_leaves_agedOut {m : Nat} {e : DirEntry} (h : AgedOut s p n e) (hm : n ≠ m) :
    AgedOut (ageLast s p m) p n e := by
  obtain ⟨dir, jobs, hlast, hothers⟩ := ageLast_slotOnly (s := s) (p := p) (n := m)
  obtain ⟨hdir, hjobs⟩ := hothers n hm
  have httl : ttlOf (ageLast s p m) p = ttlOf s p := by
    simp [ttlOf, lastRegions, State.regions, ageLast_keeps_pattern, hlast]
  refine ⟨by rw [hlast]; exact hdir.trans h.entry, h.idle, ?_, ?_⟩
  · rw [← h.free]
    simp [slotBusy, hlast, KMap.has, hjobs]
  · rw [httl, ageLast_keeps_now]
    exact h.due

/-- A free slot does not age. -/
theorem ageLast_leaves_freed {m : Nat} (h : (dirAt s p n).state = 0) : dirAt (ageLast s p m) p n = dirAt s p n := by
  by_cases hm : n = m
  · subst hm
    simp [ageLast, h]
  · obtain ⟨dir, jobs, hlast, hothers⟩ := ageLast_slotOnly (s := s) (p := p) (n := m)
    rw [dirAt, dirAt, KMap.at, KMap.at, hlast, (hothers n hm).1]

theorem agings_leave_freed {xs : List Nat} (h : (dirAt s p n).state = 0) :
    dirAt (xs.foldl (fun s m => ageLast s p m) s) p n = dirAt s p n := by
  induction xs generalizing s with
  | nil => rfl
  | cons m xs ih =>
    have hm := ageLast_leaves_freed (m := m) h
    exact (ih (hm ▸ h)).trans hm

/-- A check of slots frees an aged out Last among them. -/
theorem agings_free {xs : List Nat} {e : DirEntry} (h : AgedOut s p n e) (hn : n ∈ xs) :
    dirAt (xs.foldl (fun s m => ageLast s p m) s) p n = { reuse := (e.reuse + 1) % 65535 } := by
  induction xs generalizing s with
  | nil => simp at hn
  | cons m xs ih =>
    by_cases hm : n = m
    · subst hm
      rw [List.foldl_cons, agings_leave_freed (by rw [ageLast_frees h]), ageLast_frees h]
    · exact ih (ageLast_leaves_agedOut h hm) ((List.mem_cons.1 hn).resolve_left hm)

/-- At the check that is due an aged out Last is freed (R176, R177). -/
theorem ttlCheck_frees {q : Part} {e : DirEntry} (h5 : s.code q.val = 5) (hc : isCache s q.val = true)
    (hdue : (s.part q.val).last.lastCheck + 1000000 ≤ s.now) (h : AgedOut s q.val n e) :
    ∃ t, exec (.lastTtlCheck q) s = .next t ∧ (t.part q.val).last.lastCheck = s.now ∧
      dirAt t q.val n = { reuse := (e.reuse + 1) % 65535 } := by
  let v := s.modPLast q.val fun l => { l with lastCheck := s.now }
  have hv : (v.part q.val).last = { (s.part q.val).last with lastCheck := s.now } := modPLast_set.last
  have hout : AgedOut v q.val n e := by
    refine ⟨by rw [hv]; exact h.entry, h.idle, ?_, ?_⟩
    · rw [← h.free]
      simp [slotBusy, hv]
    · rw [show ttlOf v q.val = ttlOf s q.val by unfold ttlOf; rw [hv]; rfl]
      exact h.due
  have hcheck (t : State) (m : Nat) :
      ((ageLast t q.val m).part q.val).last.lastCheck = (t.part q.val).last.lastCheck := by
    obtain ⟨dir, jobs, hlast, -⟩ := ageLast_slotOnly (s := t) (p := q.val) (n := m)
    rw [hlast]
  refine ⟨((s.part q.val).last.dir.map (·.1)).foldl (fun s m => ageLast s q.val m) v, ?_, ?_, ?_⟩
  · show execLastTtlCheck q s = _
    simp only [execLastTtlCheck]
    rw [if_neg (by simp [h5, hc, hdue])]
  · rw [foldl_leaves (fun s : State => (s.part q.val).last.lastCheck) hcheck, hv]
  · exact agings_free hout (List.mem_map.2 ⟨_, mem_of_find h.entry, rfl⟩)

/-! ### Rebuilding of the partner (R186) -/

/-- A request to a device that can be reached goes out once under the next MSG_ID, and is remembered (R149). -/
theorem svcSend_sends {d r : Nat} {h : SvcHdr} {payload : List Byte} (hu : unreachable s d = false) :
    (svcSend s p d r h payload).2.out =
        s.out ++ [.service d r { h with msgId := s.mgmt.nextMsgId + 1 } payload] ∧
      (svcSend s p d r h payload).2.mem = s.mem ∧ ∃ sent,
        ((svcSend s p d r h payload).2.part p).last = { (s.part p).last with sent := sent } := by
  let v := (s.modMgmt fun m => { m with nextMsgId := s.mgmt.nextMsgId + 1 }).modPLast p fun l => { l with
    sent := l.sent.put (s.mgmt.nextMsgId + 1) {
      h := { h with msgId := s.mgmt.nextMsgId + 1 }, toDevice := d, toPart := r, sentAt := s.now, payload := payload } }
  have hpost : (svcSend s p d r h payload).2 = svcPost v p d r { h with msgId := s.mgmt.nextMsgId + 1 } payload true :=
    if_neg (Bool.eq_false_iff.1 hu)
  obtain ⟨hout, hmem, hparts⟩ := (svcPost_eq (s := v) (p := p) (q := r)
    (h := { h with msgId := s.mgmt.nextMsgId + 1 }) (payload := payload) (waits := true) hu).rest
  have hlast := congrArg PartState.last (part_of_parts (q := p) hparts)
  rw [show State.part (State.emit v _) p = v.part p from part_of_parts (emit_parts ..), modPLast_set.last] at hlast
  rw [hpost]
  exact ⟨hout, hmem, _, hlast⟩

/-- The OPEN with PARTNER set that brings slot `n` up at the partner names it and its shape (R155, R186). -/
theorem sendBringUp_sends {x : Nat × Nat} {tag : BitVec 48} {holder : Word} (hu : unreachable s x.1 = false) :
    (∃ h : SvcHdr, (sendBringUp s p n tag holder x).out = s.out ++ [.service x.1 x.2 h []] ∧ h.op = 1 ∧
      h.partner = true ∧ h.handle = mkHandle x.1 x.2 (dirAt s p n).reuse n ∧ h.value = heldShape (dirAt s p n)) ∧
    (sendBringUp s p n tag holder x).mem = s.mem ∧
    ((sendBringUp s p n tag holder x).part p).last.rebuildNext = (s.part p).last.rebuildNext ∧
    ((sendBringUp s p n tag holder x).part p).last.rebuilding = (s.part p).last.rebuilding := by
  obtain ⟨hout, hmem, sent, hlast⟩ := svcSend_sends (s := s) (p := p) (r := x.2) (payload := []) hu
    (h := { requestHdr s p 1 tag (mkHandle x.1 x.2 (dirAt s p n).reuse n) with
      partner := true, handle2 := holder, value := heldShape (dirAt s p n) })
  refine ⟨⟨_, hout, rfl, rfl, rfl, rfl⟩, hmem, ?_, ?_⟩ <;>
    simp only [sendBringUp, modPLast_eq, setPart_part_same, hlast]

/-- While the partner rebuilds, the next idle Last goes to it (R186). -/
theorem rebuild_sends {q : Part} {x : Nat × Nat} (h5 : s.code q.val = 5) (hx : partnerOf s q.val = some x)
    (hlost : (s.part q.val).last.partnerLost = false) (hnew : (s.part q.val).last.newcomer = false)
    (hep : (s.part q.val).last.rebuildEpoch = stampEpoch s q.val) (h8 : (s.part q.val).last.rebuilding.length < 8)
    (hn : nextRebuild s q.val = some n) (hu : unreachable s x.1 = false) :
    ∃ t, exec (.lastRebuild q) s = .next t ∧ (t.part q.val).last.rebuildNext = n + 1 ∧
      (t.part q.val).last.rebuilding = (s.part q.val).last.rebuilding ++ [n] ∧ t.mem = s.mem ∧
      ∃ h : SvcHdr, t.out = s.out ++ [.service x.1 x.2 h []] ∧ h.op = 1 ∧ h.partner = true ∧
        h.handle = mkHandle x.1 x.2 (dirAt s q.val n).reuse n ∧ h.value = heldShape (dirAt s q.val n) := by
  let v := s.modPLast q.val fun l => { l with rebuildOn := true }
  let w := v.modPLast q.val fun l => { l with rebuildNext := n + 1, rebuilding := l.rebuilding ++ [n] }
  have hv : LastSet s v q.val _ := modPLast_set
  have hw : LastSet s w q.val _ := hv.trans modPLast_set
  have hnext : nextRebuild v q.val = some n := by
    rw [← hn]
    simp [nextRebuild, slotBusy, hv.last]
  have h8' : ¬ 8 ≤ (v.part q.val).last.rebuilding.length := by
    rw [hv.last]
    exact Nat.not_le.2 h8
  obtain ⟨⟨h, hout, hop, hpa, hha, hva⟩, hmem, hnextSlot, hflight⟩ := sendBringUp_sends (s := w) (p := q.val) (n := n)
    (tag := 0) (holder := holderValue w.fab.device.toNat q.val) (hw.unreachable.trans hu)
  rw [hw.last] at hnextSlot hflight
  rw [hw.dirAt] at hha hva
  refine ⟨_, ?_, hnextSlot, hflight, hmem, h, hout, hop, hpa, hha, hva⟩
  have hnow : rebuildNow s q.val = s := if_pos hep
  show execLastRebuild q s = _
  unfold execLastRebuild
  rw [hx]
  dsimp only
  rw [if_neg (by simp [h5, hlost, hnew]), hnow, if_neg h8', show nextRebuild (s.modPLast q.val _) q.val = _ from hnext]

/-- Settles O15: the ends of growths, promotions and moves, then the idle Last that ages and the one that is rebuilt. -/
theorem lastCopiesEndAndIdleLastsAge : Obligations.LastCopiesEndAndIdleLastsAge := by
  refine ⟨⟨fun p n s => oldFootprint_frees, fun p n s j hj hw hg hh hu => ⟨fun h0 hwait => ⟨?_, ?_, ?_⟩, ?_⟩⟩,
    fun p n e s h5 hc hdue hn hidle hfree hage => ttlCheck_frees h5 hc hdue ⟨hn, hidle, hfree, hage⟩, ?_⟩
  · exact fun h hk hwt => growthCopy_ends hj hw hg hh h0 hk hwt (hu h hwt)
  · exact fun h hk hwt hpe hp hq hcap => promotion_ends hj hw hg hh h0 hwait hk hwt (hu h hwt) hpe hp hq hcap
  · exact fun hk hroom => tierMove_ends hj hw hg hh h0 hwait hk hroom
  · exact fun h c found hk hwt hc hd => growthCopy_fails hj hw hg hh hk hwt (hu h hwt) hc hd
  · rintro p x n e s h5 hx hlost hnew hep h8 hn rfl hu
    exact rebuild_sends h5 hx hlost hnew hep h8 hn hu

end Sys2Proof.Machine
end

section
/-! # A region that runs on into the bench window

A remote request is applied line by line, each line at its own offset, and from the start of the bench window on an offset
names a bench. Nothing in O24 keeps a placement region from running on past that start: the bytes of a WRITE that lie
there go to the bench, and those that the request names stay as they were. -/

namespace Sys2Proof.Machine

/-- Partition 0 has one region, which ends 64 bytes into the bench window; the line before the start of the window and the
line after it are in the buffers. -/
def benchCrossing : State := { Sys2Proof.Tests.wHome with
  pattern := some { Sys2Proof.Tests.wPattern 1 with placements :=
    [{ owner := 0, tier := 1, use := 0, model := 255, pinned := false, start := benchBase - 64, length := 128 }] }
  fab := { Sys2Proof.Tests.wHome.fab with lines := [benchBase / 64 - 1, benchBase / 64] } }

/-- Refutes O24: of two bytes written across the start of the bench window in `benchCrossing` the second is not stored where
the request names it. -/
theorem not_remoteRequestsAreAppliedInOrder : ¬ Obligations.RemoteRequestsAreAppliedInOrder := by
  intro h
  obtain ⟨hwrite, -, -⟩ := h (Sys2Proof.Tests.wFrom 9) (BitVec.ofNat 64 (benchBase - 1)) benchCrossing
    (by decide) (by decide) (by decide) (by decide) (by decide) (by decide) (by decide)
  obtain ⟨t, ht, hbytes, -⟩ := hwrite [1, 2] (by decide) (by decide) (by decide)
  cases ht
  exact absurd (hbytes 1 (by decide)) (by decide)

end Sys2Proof.Machine
end
section
/-! # The Last service answers the holders of a Last

Each operation acts on the state in which its message is noted as received (`withReceived`): it writes at most the entry of
one slot, with the Last service's own notes beside it (`EntryOnly`), and sends at most one answer, which leaves all that the
service keeps of its Lasts (`svcReply_leaves`). -/

namespace Sys2Proof.Machine

variable {s t u : State} {p n : Nat} {h : SvcHdr}

/-! ### What one answer leaves (R147, R148) -/

/-- What the Last service notes of an answer `r` to the request `h`. -/
def answerNoted (s : State) (h r : SvcHdr) (payload : List Byte) (l : PLast) : PLast := { l with
  received := l.received.filter fun x => !sameRequest x h
  answers := (l.answers.filter fun a => decide (s.now ≤ a.at_ + 100000) && !sameRequest a.h h)
    ++ [{ h := { r with fromDevice := h.fromDevice, fromPartition := h.fromPartition }, payload := payload, at_ := s.now }] }

/-- An answer to a device that can be reached: the note of it, the message, and what the fabric makes of it. -/
theorem svcReply_onlyFab {r : SvcHdr} {payload : List Byte} (hu : unreachable s h.fromDevice = false) :
    onlyFab ((s.modPLast p (answerNoted s h r payload)).emit (.service h.fromDevice h.fromPartition r payload))
      (svcReply s p h r payload) :=
  svcPost_eq (s := s.modPLast p (answerNoted s h r payload)) hu

theorem onlyFab.elsewhere (h : onlyFab s t) :
    t.pattern = s.pattern ∧ t.mgmt = s.mgmt ∧ t.faults = s.faults ∧ t.now = s.now := by
  rw [onlyFab] at h
  rw [h]
  exact ⟨rfl, rfl, rfl, rfl⟩

theorem directory_of_pattern (hp : t.pattern = s.pattern) : directory t p = directory s p := by
  simp [directory, lastRegions, State.regions, State.lastClasses, footprint, capOf, unitOf, compactLasts, hp]

/-- An answer is the one message that goes out; it leaves memory, the directory and what the service keeps of its Lasts. -/
theorem svcReply_leaves {r : SvcHdr} {payload : List Byte} {f : PLast → PLast} (hset : LastSet s u p f)
    (hu : unreachable s h.fromDevice = false) :
    (svcReply u p h r payload).out = s.out ++ [.service h.fromDevice h.fromPartition r payload] ∧
      (svcReply u p h r payload).mem = u.mem ∧
      ∀ m, dirAt (svcReply u p h r payload) p m = (f (s.part p).last).dir.at m {} := by
  obtain ⟨hout, hmem, received, answers, hlast⟩ := svcReply_sends (s := u) (p := p) (r := r) (payload := payload)
    (hset.unreachable.trans hu)
  refine ⟨by rw [hout, hset.out], hmem, fun m => ?_⟩
  rw [dirAt, hlast, hset.last]

/-! ### The device number outlives every message (R342) -/

theorem originate_device {x : TxPacket} : (originate s x).fab.device = s.fab.device := by
  unfold originate
  split <;> rfl

theorem sendNow_device {d cls : Nat} {x : Unacked} : (sendNow s d cls x).fab.device = s.fab.device :=
  originate_device (s := State.setPeer _ _ _)

theorem sendWaiting_device {d cls fuel : Nat} : (sendWaiting d cls fuel s).fab.device = s.fab.device := by
  induction fuel generalizing s with
  | zero => rfl
  | succ fuel ih =>
    unfold sendWaiting
    dsimp only
    split
    · rfl
    · rw [apply_ite State.fab, apply_ite Fabric.device, ih, sendNow_device]
      exact ite_self _

theorem withContext_device {d : Nat} {r : State} (h : withContext s d = some r) : r.fab.device = s.fab.device := by
  simp only [withContext] at h
  split at h
  · exact Option.some.inj h ▸ rfl
  · split at h
    · exact Option.some.inj h ▸ rfl
    · obtain ⟨e, -, rfl⟩ := Option.map_eq_some_iff.1 h
      rfl

theorem xtSubmit_device {d cls : Nat} {x : Unacked} : ((xtSubmit s d cls x).getD s).fab.device = s.fab.device := by
  unfold xtSubmit
  split
  · rfl
  · refine (sendWaiting_device (s := State.setPeer _ _ _)).trans ?_
    show ((withContext s d).getD s).fab.device = _
    cases hw : withContext s d with
    | none => rfl
    | some t => exact withContext_device hw

theorem svcPost_device {d q : Nat} {payload : List Byte} {waits : Bool} :
    (svcPost s p d q h payload waits).fab.device = s.fab.device := by
  have posted (xs : List Nat) (f : Nat → Unacked) (t : State) :
      (xs.foldl (fun s i => (xtSubmit s d 1 (f i)).getD s) t).fab.device = t.fab.device :=
    foldl_leaves (fun s : State => s.fab.device) (fun _ _ => xtSubmit_device) xs t
  simp only [svcPost]
  split
  · rfl
  · exact (posted _ _ _).trans rfl

/-! ### One entry written -/

theorem memKeptButEntry_of_mem (hm : t.mem = s.mem) : memKeptButEntry s t p n := by
  unfold memKeptButEntry
  cases directory s p with
  | none => exact hm
  | some d => exact fun a _ => congrArg (memByte · a) hm

theorem memKeptButEntry.trans (h : memKeptButEntry s u p n) (h' : memKeptButEntry u t p n)
    (hd : directory u p = directory s p) : memKeptButEntry s t p n := by
  unfold memKeptButEntry at *
  rw [hd] at h'
  cases hs : directory s p with
  | none => rw [hs] at h h'; exact h'.trans h
  | some d => rw [hs] at h h'; exact fun a ha => (h' a ha).trans (h a ha)

/-- From `s` to `t` the Last service of partition `p` changed by `f`, and of memory the bytes of entry `n` at most. -/
structure EntryOnly (s t : State) (p n : Nat) (f : PLast → PLast) : Prop extends LastSet s t p f where
  mem : memKeptButEntry s t p n

theorem EntryOnly.trans {f g : PLast → PLast} (h : EntryOnly s u p n f) (h' : EntryOnly u t p n g) :
    EntryOnly s t p n fun l => g (f l) :=
  ⟨h.toLastSet.trans h'.toLastSet, h.mem.trans h'.mem h.toLastSet.directory⟩

theorem modPLast_entryOnly {f : PLast → PLast} : EntryOnly s (s.modPLast p f) p n f :=
  ⟨modPLast_set, memKeptButEntry_of_mem rfl⟩

theorem setDir_entryOnly {e : DirEntry} : EntryOnly s (setDir s p n e) p n fun l => { l with dir := l.dir.put n e } :=
  ⟨setDir_set, setDir_mem⟩

/-- An answer after the entry of slot `n` has been set to `e`. -/
theorem entryReplied {r : SvcHdr} {payload : List Byte} {f : PLast → PLast} {e : DirEntry} (hset : EntryOnly s u p n f)
    (hdir : (f (s.part p).last).dir = (s.part p).last.dir.put n e) (hu : unreachable s h.fromDevice = false) :
    (svcReply u p h r payload).out = s.out ++ [.service h.fromDevice h.fromPartition r payload] ∧
      dirAt (svcReply u p h r payload) p n = e ∧
      (∀ m, m ≠ n → dirAt (svcReply u p h r payload) p m = dirAt s p m) ∧
      memKeptButEntry s (svcReply u p h r payload) p n := by
  obtain ⟨hout, hmem, hat⟩ := svcReply_leaves (r := r) (payload := payload) hset.toLastSet hu
  refine ⟨hout, ?_, fun m hm => ?_, hset.mem.trans (memKeptButEntry_of_mem hmem) hset.toLastSet.directory⟩
  · rw [hat, hdir, at_put_same]
  · rw [hat, hdir, at_put_ne _ _ _ hm]
    rfl

/-! ### A message noted as received -/

theorem withReceived_set : LastSet s (withReceived s p h) p fun l => { l with received := l.received ++ [h] } :=
  modPLast_set

theorem withReceived_entryOnly : EntryOnly s (withReceived s p h) p n fun l => { l with received := l.received ++ [h] } :=
  modPLast_entryOnly

@[simp] theorem dirAt_withReceived : dirAt (withReceived s p h) p n = dirAt s p n := withReceived_set.dirAt

@[simp] theorem liveHandle_withReceived {w : Word} : liveHandle (withReceived s p h) p w = liveHandle s p w := by
  simp [liveHandle]

@[simp] theorem capOf_withReceived {c : Nat} : capOf (withReceived s p h) c = capOf s c := rfl

@[simp] theorem heldAbove_withReceived : heldAbove (withReceived s p h) p n = heldAbove s p n := by
  simp [heldAbove, withReceived_part]

/-- A Last service takes a message that is its own: it is noted and served. -/
theorem svcReceive_serves {op : Byte} {f : State → State} (ht : serviceTaken s p op h) (hc : isCache s p = true) :
    svcReceive s p h op (isCache s p) f = f (withReceived s p h) := by
  rw [hc]
  exact svcReceive_taken ht

/-- The rebuild of the partner goes on where its notes are as they were. -/
theorem LastSet.rebuildRuns {f : PLast → PLast} (h : LastSet s t p f)
    (hf : (f (s.part p).last).rebuildEpoch = (s.part p).last.rebuildEpoch ∧
      (f (s.part p).last).rebuildOn = (s.part p).last.rebuildOn ∧
      (f (s.part p).last).partnerLost = (s.part p).last.partnerLost) : rebuildRuns t p = rebuildRuns s p := by
  obtain ⟨hepoch, hon, hlost⟩ := hf
  simp [Machine.rebuildRuns, stampEpoch, ownMap, mapDevice, h.last, h.mgmt, h.fab, h.faults, hepoch, hon, hlost]

/-! ### The clauses of O12 (R160) -/

/-- A COMMIT held until LENGTH has reached its FROM. -/
def holdCommit (s : State) (p n : Nat) (h : SvcHdr) : State :=
  s.modPLast p fun l => { l with heldCommits := l.heldCommits.put n (l.heldCommits.at n [] ++ [h]) }

theorem holdCommit_leaves : (holdCommit s p n h).out = s.out ∧ (holdCommit s p n h).mem = s.mem ∧
    ((holdCommit s p n h).part p).last.heldCommits.at n [] = (s.part p).last.heldCommits.at n [] ++ [h] :=
  ⟨rfl, rfl, by simp [holdCommit]⟩

/-- A slot is brought up in the partner only while a rebuild runs (R186). -/
theorem bringUp_idle (hr : rebuildRuns s p = false) : bringUp s p n = s := by
  unfold bringUp
  dsimp only
  split
  · rfl
  · simp [hr]

section
variable (ht : serviceTaken s p 2 h) (hc : isCache s p = true) (hl : liveHandle s p h.handle = true)
include ht hc hl

theorem serveCommit_stranger (hf : fromHolder (dirAt s p (handleSlot h.handle)) h = false) :
    serveCommit p h s = commitAnswer (withReceived s p h) p (handleSlot h.handle) h 0x0D := by
  rw [serveCommit, svcReceive_serves ht hc]
  simp [hl, hf]

theorem serveCommit_done {r : State} (hf : fromHolder (dirAt s p (handleSlot h.handle)) h = true)
    (hr : commitTry (withReceived s p h) p (handleSlot h.handle) h = some r) :
    serveCommit p h s = bringUp r p (handleSlot h.handle) := by
  rw [serveCommit, svcReceive_serves ht hc]
  simp [hl, hf, hr]

theorem serveCommit_waits (hf : fromHolder (dirAt s p (handleSlot h.handle)) h = true)
    (hr : commitTry (withReceived s p h) p (handleSlot h.handle) h = none) :
    serveCommit p h s =
      if ¬ ((dirAt s p (handleSlot h.handle)).state = 3 ∨ (dirAt s p (handleSlot h.handle)).state = 4) ∧
          4 ≤ heldAbove s p (handleSlot h.handle) then
        commitAnswer (withReceived s p h) p (handleSlot h.handle) h 0x0B
      else holdCommit (withReceived s p h) p (handleSlot h.handle) h := by
  rw [serveCommit, svcReceive_serves ht hc]
  simp [hl, hf, hr, holdCommit]

end

/-- Whether a rebuild of the partner runs is not for an answer to change. -/
theorem rebuildRuns_svcReply {r : SvcHdr} {payload : List Byte} (hu : unreachable s h.fromDevice = false) :
    rebuildRuns (svcReply s p h r payload) p = rebuildRuns s p := by
  obtain ⟨-, -, received, answers, hlast⟩ := svcReply_sends (s := s) (p := p) (r := r) (payload := payload) hu
  have hdev : (svcReply s p h r payload).fab.device = s.fab.device := svcPost_device
  obtain ⟨-, hmgmt, hfaults, -⟩ := (svcReply_onlyFab (p := p) (r := r) (payload := payload) hu).elsewhere
  simp [rebuildRuns, stampEpoch, ownMap, mapDevice, hlast, hdev, hmgmt, hfaults]

/-- An answer to a COMMIT that changes no entry. -/
theorem commitAnswer_leaves {c : Byte} (hu : unreachable s h.fromDevice = false) :
    repliesWith s (commitAnswer (withReceived s p h) p n h c) h c ∧
      (commitAnswer (withReceived s p h) p n h c).mem = s.mem ∧
      ∀ m, dirAt (commitAnswer (withReceived s p h) p n h c) p m = dirAt s p m := by
  obtain ⟨hout, hmem, hat⟩ := svcReply_leaves (payload := []) (withReceived_set (s := s) (p := p) (h := h)) hu
    (r := { replyHdr (withReceived s p h) p h c with posA := (dirAt (withReceived s p h) p n).length })
  exact ⟨⟨_, _, hout, rfl, rfl, rfl, rfl, rfl⟩, hmem, hat⟩

/-- The entry of slot `n` of which LENGTH is the TO of a COMMIT. -/
def raisedTo (s : State) (p n : Nat) (h : SvcHdr) : DirEntry := { dirAt s p n with length := h.posB }

/-- A COMMIT whose FROM LENGTH has reached raises it in one entry write, and is answered (R160). -/
theorem commitTry_raises (h1 : (dirAt s p n).state = 1) (hcap : h.posB ≤ capOf s (dirAt s p n).cls)
    (hto : (dirAt s p n).length < h.posB) (hfrom : h.posA ≤ (dirAt s p n).length) :
    commitTry s p n h = some (commitAnswer (setDir s p n (raisedTo s p n h)) p n h 0) := by
  unfold commitTry
  rw [if_neg (by simp [h1]), if_neg (Nat.not_lt.2 hcap), if_neg (Nat.not_le.2 hto), if_pos hfrom]
  rfl

/-- What the COMMIT that raises LENGTH leaves, from a state with other notes of the Last service. -/
theorem raise_leaves {f : PLast → PLast} (hset : LastSet s u p f) (hmem : u.mem = s.mem)
    (hd : (f (s.part p).last).dir = (s.part p).last.dir) (hu : unreachable s h.fromDevice = false) :
    repliesWith s (commitAnswer (setDir u p n (raisedTo u p n h)) p n h 0) h 0 ∧
      dirAt (commitAnswer (setDir u p n (raisedTo u p n h)) p n h 0) p n = raisedTo s p n h ∧
      (∀ m, m ≠ n → dirAt (commitAnswer (setDir u p n (raisedTo u p n h)) p n h 0) p m = dirAt s p m) ∧
      memKeptButEntry s (commitAnswer (setDir u p n (raisedTo u p n h)) p n h 0) p n ∧
      rebuildRuns (commitAnswer (setDir u p n (raisedTo u p n h)) p n h 0) p = rebuildRuns u p := by
  have hentry : raisedTo u p n h = raisedTo s p n h := by rw [raisedTo, hset.dirAt, hd]; rfl
  have hall : EntryOnly s (setDir u p n (raisedTo u p n h)) p n _ :=
    EntryOnly.trans ⟨hset, memKeptButEntry_of_mem hmem⟩ setDir_entryOnly
  obtain ⟨hout, hn, hothers, hkept⟩ := entryReplied (payload := []) hall (by rw [hd]) hu
    (r := { replyHdr (setDir u p n (raisedTo u p n h)) p h 0 with
      posA := (dirAt (setDir u p n (raisedTo u p n h)) p n).length })
  refine ⟨⟨_, _, hout, rfl, rfl, rfl, rfl, rfl⟩, hn.trans hentry, hothers, hkept, ?_⟩
  rw [commitAnswer, rebuildRuns_svcReply (hall.toLastSet.unreachable.trans hu)]
  exact setDir_set.rebuildRuns ⟨rfl, rfl, rfl⟩

theorem commitTry_answers {c : Byte} (h1 : (dirAt s p n).state = 1)
    (hc : capOf s (dirAt s p n).cls < h.posB ∧ c = 2 ∨
      h.posB ≤ capOf s (dirAt s p n).cls ∧ h.posB ≤ (dirAt s p n).length ∧ c = 0) :
    commitTry s p n h = some (commitAnswer s p n h c) := by
  obtain ⟨hcap, rfl⟩ | ⟨hcap, hto, rfl⟩ := hc
  · simp [commitTry, h1, hcap]
  · simp [commitTry, h1, Nat.not_lt.2 hcap, hto]

theorem commitTry_waits (hw : (dirAt s p n).state = 3 ∨ (dirAt s p n).state = 4 ∨
      h.posB ≤ capOf s (dirAt s p n).cls ∧ (dirAt s p n).length < h.posA ∧ h.posA < h.posB) :
    commitTry s p n h = none := by
  obtain h3 | h4 | ⟨hcap, hfrom, hto⟩ := hw
  · simp [commitTry, h3]
  · simp [commitTry, h4]
  · simp [commitTry, Nat.not_lt.2 hcap, Nat.not_le.2 hfrom, Nat.not_le.2 (hfrom.trans hto)]

section
variable {q : Part} (hr : rebuildRuns s q.val = false) (ht : serviceTaken s q.val 2 h) (hc : isCache s q.val = true)
  (hl : liveHandle s q.val h.handle = true) (hn : n = handleSlot h.handle)

include ht hc hl hn

theorem commit_stranger (hf : fromHolder (dirAt s q.val n) h = false) :
    ∃ t, exec (.commit q h) s = .next t ∧ repliesWith s t h 0x0D ∧ t.mem = s.mem ∧
      ∀ m, dirAt t q.val m = dirAt s q.val m := by
  subst hn
  exact ⟨_, congrArg Host.Outcome.next (serveCommit_stranger ht hc hl hf), commitAnswer_leaves ht.1⟩

variable (hf : fromHolder (dirAt s q.val n) h = true)
include hf

theorem commit_held (hw : commitTry (withReceived s q.val h) q.val n h = none)
    (hlow : (dirAt s q.val n).state = 3 ∨ (dirAt s q.val n).state = 4 ∨ heldAbove s q.val n < 4) :
    ∃ t, exec (.commit q h) s = .next t ∧ t.out = s.out ∧ t.mem = s.mem ∧
      (t.part q.val).last.heldCommits.at n [] = (s.part q.val).last.heldCommits.at n [] ++ [h] := by
  subst hn
  have hheld := holdCommit_leaves (s := withReceived s q.val h) (p := q.val) (n := handleSlot h.handle) (h := h)
  rw [withReceived_part] at hheld
  refine ⟨_, congrArg Host.Outcome.next ((serveCommit_waits ht hc hl hf hw).trans (if_neg ?_)), hheld⟩
  rintro ⟨hs, h4⟩
  exact hs (by omega)

theorem commit_fifth (hw : commitTry (withReceived s q.val h) q.val n h = none) (h1 : (dirAt s q.val n).state = 1)
    (h4 : 4 ≤ heldAbove s q.val n) :
    ∃ t, exec (.commit q h) s = .next t ∧ repliesWith s t h 0x0B ∧ t.mem = s.mem := by
  subst hn
  obtain ⟨hrep, hmem, -⟩ := commitAnswer_leaves (p := q.val) (n := handleSlot h.handle) (c := 0x0B) ht.1
  refine ⟨_, congrArg Host.Outcome.next ((serveCommit_waits ht hc hl hf hw).trans (if_pos ⟨?_, h4⟩)), hrep, hmem⟩
  rw [h1]
  decide

include hr

theorem commit_answered {c : Byte}
    (hw : commitTry (withReceived s q.val h) q.val n h = some (commitAnswer (withReceived s q.val h) q.val n h c)) :
    ∃ t, exec (.commit q h) s = .next t ∧ repliesWith s t h c ∧ t.mem = s.mem ∧
      ∀ m, dirAt t q.val m = dirAt s q.val m := by
  subst hn
  refine ⟨_, congrArg Host.Outcome.next ((serveCommit_done ht hc hl hf hw).trans (bringUp_idle ?_)), commitAnswer_leaves ht.1⟩
  rw [commitAnswer, rebuildRuns_svcReply (withReceived_set.unreachable.trans ht.1)]
  exact (withReceived_set.rebuildRuns ⟨rfl, rfl, rfl⟩).trans hr

theorem commit_raises (h1 : (dirAt s q.val n).state = 1) (hcap : h.posB ≤ capOf s (dirAt s q.val n).cls)
    (hto : (dirAt s q.val n).length < h.posB) (hfrom : h.posA ≤ (dirAt s q.val n).length) :
    ∃ t, exec (.commit q h) s = .next t ∧ repliesWith s t h 0 ∧ dirAt t q.val n = raisedTo s q.val n h ∧
      (∀ m, m ≠ n → dirAt t q.val m = dirAt s q.val m) ∧ memKeptButEntry s t q.val n := by
  subst hn
  have hw := commitTry_raises (s := withReceived s q.val h) (p := q.val) (n := handleSlot h.handle) (h := h) (by simpa)
    (by simpa) (by simpa) (by simpa)
  obtain ⟨hrep, hentry, hothers, hmem, hruns⟩ := raise_leaves (n := handleSlot h.handle)
    (withReceived_set (s := s) (p := q.val) (h := h)) rfl rfl ht.1
  refine ⟨_, congrArg Host.Outcome.next ((serveCommit_done ht hc hl hf hw).trans (bringUp_idle ?_)), hrep, hentry, hothers,
    hmem⟩
  rw [hruns]
  exact (withReceived_set.rebuildRuns ⟨rfl, rfl, rfl⟩).trans hr

end

/-- A held COMMIT whose FROM LENGTH has reached is handled, and held no more. -/
theorem commitHeldResume_raises {q : Part} (hr : rebuildRuns s q.val = false)
    (hh : (s.part q.val).last.heldCommits.at n [] = [h]) (h1 : (dirAt s q.val n).state = 1)
    (hu : unreachable s h.fromDevice = false) (hcap : h.posB ≤ capOf s (dirAt s q.val n).cls)
    (hfrom : h.posA ≤ (dirAt s q.val n).length) (hto : (dirAt s q.val n).length < h.posB) :
    ∃ t, exec (.commitHeldResume q n) s = .next t ∧ repliesWith s t h 0 ∧ dirAt t q.val n = raisedTo s q.val n h ∧
      (t.part q.val).last.heldCommits.at n [] = [] ∧ memKeptButEntry s t q.val n := by
  obtain ⟨hrep, hentry, -, hmem, hruns⟩ := raise_leaves (n := n) (h := h) (LastSet.refl (s := s) (p := q.val)) rfl rfl hu
  have hdel := modPLast_set (s := commitAnswer (setDir s q.val n (raisedTo s q.val n h)) q.val n h 0) (p := q.val)
    (f := fun l => { l with heldCommits := l.heldCommits.del n })
  refine ⟨State.modPLast (commitAnswer (setDir s q.val n (raisedTo s q.val n h)) q.val n h 0) q.val
      fun l => { l with heldCommits := l.heldCommits.del n },
    ?_, hrep, hdel.dirAt.trans hentry, by rw [hdel.last]; simp [KMap.at], hmem⟩
  have hx : resumeCommits q.val n [h] [] s =
      ([], commitAnswer (setDir s q.val n (raisedTo s q.val n h)) q.val n h 0) := by
    simp [resumeCommits, commitTry_raises h1 hcap hto hfrom]
  show execCommitHeldResume q n s = _
  unfold execCommitHeldResume
  simp only [hh, hx]
  refine congrArg Host.Outcome.next (bringUp_idle ?_)
  exact (hdel.rebuildRuns ⟨rfl, rfl, rfl⟩).trans (hruns.trans hr)

/-- Settles O12: a COMMIT by what `commitTry` makes of it, and a held one in its turn. -/
theorem commitRaisesLengthInOrder : Obligations.CommitRaisesLengthInOrder := by
  refine fun q h s hc hr => ⟨fun ht hl => ⟨commit_stranger ht hc hl rfl, fun hf hs => ?_, fun hf h1 => ⟨fun hcap => ?_,
    fun hcap hto => ?_, fun hcap hto hfrom => commit_raises hr ht hc hl rfl hf h1 hcap hto hfrom, fun hcap hfrom hto =>
      ⟨fun h4 => ?_, fun h4 => ?_⟩⟩⟩, fun n hh h1 hu hcap hfrom hto => commitHeldResume_raises hr hh h1 hu hcap hfrom hto⟩
  · exact commit_held ht hc hl rfl hf (commitTry_waits (by simp; omega)) (by omega)
  · exact commit_answered hr ht hc hl rfl hf (commitTry_answers (by simpa) (.inl ⟨by simpa, rfl⟩))
  · exact commit_answered hr ht hc hl rfl hf (commitTry_answers (by simpa) (.inr ⟨by simpa, by simpa, rfl⟩))
  · exact commit_held ht hc hl rfl hf (commitTry_waits (by simp; omega)) (by omega)
  · exact commit_fifth ht hc hl rfl hf (commitTry_waits (by simp; omega)) h1 h4


/-! ### The clauses of O13 (R154, R155) -/

@[simp] theorem lMax_withReceived : lMax (withReceived s p h) = lMax s := rfl
@[simp] theorem classFor_withReceived {k : Nat} : classFor (withReceived s p h) k = classFor s k := rfl
@[simp] theorem partnerOf_withReceived : partnerOf (withReceived s p h) p = partnerOf s p := withReceived_set.partnerOf
@[simp] theorem directory_withReceived : directory (withReceived s p h) p = directory s p := withReceived_set.directory

@[simp] theorem freeSlot_withReceived {count : Nat} : freeSlot (withReceived s p h) p count = freeSlot s p count := by
  simp only [freeSlot, partnerOf_withReceived, dirAt_withReceived, withReceived_part]
  rfl

@[simp] theorem findRun_withReceived {tier size : Nat} :
    findRun (withReceived s p h) p tier size = findRun s p tier size := by
  simp only [findRun, usedSpans, directory_withReceived, withReceived_part]
  rfl

@[simp] theorem slotBusy_withReceived : slotBusy (withReceived s p h) p n = slotBusy s p n := by
  simp [slotBusy, withReceived_part]

/-- A class that `classFor` names has the capacity asked for. -/
theorem le_capOf_classFor {k c : Nat} (hc : classFor s k = some c) : k ≤ capOf s c := by
  obtain ⟨hlt, hle, -⟩ := List.findIdx?_eq_some_iff_getElem.1 hc
  rw [capOf, List.getD_eq_getElem _ _ hlt]
  exact of_decide_eq_true hle

/-- A run in HBM is taken where there is one. -/
theorem seekRoom_hbm {a : RoomAsk} {size base : Nat} {left : Nat × Nat} {but : Option Nat} (ha : a.hbm = true)
    (hrun : findRun s p 1 size = some base) : seekRoom s p a size left but = .found 1 base := by
  simp [seekRoom, ha, hrun]

/-- The entry of a Last granted for the OPEN `h`, whose holder the partner's OPEN names in HANDLE2. -/
def openedEntry (s : State) (p n : Nat) (h : SvcHdr) : DirEntry := { dirAt s p n with
  state := 1
  holderTag := h.tag
  holderDevice := if h.partner then bitsOf h.handle2.toNat 0 16 else h.fromDevice
  holderPartition := if h.partner then bitsOf h.handle2.toNat 16 8 else h.fromPartition
  partner := mirrorHandle s p n (dirAt s p n).reuse }

/-- From `s` to `t` the OPEN `h` is granted and answered: entry `n` is `e`, and no other entry changes. -/
def granted (s t : State) (p n : Nat) (h : SvcHdr) (e : DirEntry) : Prop :=
  repliesWith s t h 0 ∧ dirAt t p n = e ∧ (∀ m, m ≠ n → dirAt t p m = dirAt s p m) ∧ memKeptButEntry s t p n

theorem openGrant_granted {mirror : Word} {f : PLast → PLast} (hset : EntryOnly s u p n f)
    (hothers : ∀ m, m ≠ n → dirAt u p m = dirAt s p m) (hu : unreachable s h.fromDevice = false) :
    granted s (openGrant u p n h mirror) p n h (openedEntry u p n h) := by
  have hall := hset.trans (setDir_entryOnly (e := openedEntry u p n h))
  have answered (r : SvcHdr) (payload : List Byte) := svcReply_leaves (r := r) (payload := payload) hall.toLastSet hu
  obtain ⟨hout, hmem, hat⟩ := answered _ _
  refine ⟨⟨_, _, hout, rfl, rfl, rfl, rfl, rfl⟩, (hat n).trans (at_put_same ..), fun m hm => ?_,
    hall.mem.trans (memKeptButEntry_of_mem hmem) hall.toLastSet.directory⟩
  exact (hat m).trans ((at_put_ne _ _ _ hm).trans (hset.toLastSet.dirAt.symm.trans (hothers m hm)))

/-- A copy with no fewer positions than the other has none to take. -/
theorem levelTo_idle {k : Nat} (hk : k ≤ (dirAt s p n).length) : levelTo s p n k = s := if_neg (Nat.not_lt.2 hk)

/-- An OPEN with room in the class of its Last, and no partner to ask, is granted at once. -/
theorem openStep7_opens {left : Nat × Nat} {k : Nat} (hp : h.partner = false → partnerOf s p = none)
    (hk : k ≤ (dirAt s p n).length) (hc : (dirAt s p n).length + h.posA ≤ capOf s (dirAt s p n).cls) :
    openWith p n h (openStep7 s p n h left k) = openGrant s p n h allOnes64 := by
  have hasked : (if h.partner then none else partnerOf s p) = none := by
    split
    · rfl
    next hq => exact hp (by simpa using hq)
  simp [openStep7, Nat.max_eq_left hk, Nat.not_lt.2 hc, openStep8, hasked, openWith, levelTo_idle hk]

theorem openStep6_opens {left : Nat × Nat} {k : Nat} (h5 : (dirAt s p n).state ≠ 5) (h1 : (dirAt s p n).tier = 1)
    (hp : h.partner = false → partnerOf s p = none) (hk : k ≤ (dirAt s p n).length)
    (hc : (dirAt s p n).length + h.posA ≤ capOf s (dirAt s p n).cls) :
    openWith p n h (openStep6 s p n h left k) = openGrant s p n h allOnes64 := by
  rw [openStep6]
  simp only [h5, h1, if_false, if_true]
  exact openStep7_opens hp hk hc

theorem mirrorHandle_lonely {k : Nat} (hq : partnerOf s p = none) : mirrorHandle s p n k = allOnes64 := by
  simp [mirrorHandle, hq]

theorem lonely_of_partnerOf (hq : partnerOf s p = none) : lonely s p = false := by simp [lonely, hq]


/-- An allocation with a run in HBM makes the entry of a new Last and grants it (R154). -/
theorem openNew_allocates {left : Nat × Nat} {count layers kvHeads head model c base : Nat}
    (hq : partnerOf s p = none) (hlen : h.posA ≤ lMax s) (hsh : shapeOf h.value = some (layers, kvHeads, head, model))
    (hn : freeSlot s p count = some n) (hc : classFor s h.posA = some c)
    (hrun : findRun s p 1 (footprint s c layers kvHeads head) = some base) :
    openNew s p count h left =
      openGrant (newLast s p n (dirAt s p n).reuse c 1 base (layers, kvHeads, head, model)) p n h allOnes64 := by
  have hset : LastSet s (newLast s p n (dirAt s p n).reuse c 1 base (layers, kvHeads, head, model)) p _ := setDir_set
  have hq' := hset.partnerOf.trans hq
  have hat := hset.dirAt.trans (at_put_same ..)
  unfold openNew
  rw [if_neg (Nat.not_lt.2 hlen), hsh, hn, hc]
  dsimp only
  rw [seekRoom_hbm (a := allocAsk) rfl hrun]
  dsimp only
  rw [lonely_of_partnerOf hq']
  refine openStep7_opens (fun _ => hq') (Nat.zero_le _) ?_
  rw [hat, hset.capOf]
  simpa using le_capOf_classFor hc

/-- An idle Last in HBM that nothing is under way on is granted (R154). -/
theorem openOld_opens (hq : partnerOf s p = none) (hl : liveHandle s p h.handle = true)
    (hsh : sameShape (dirAt s p (handleSlot h.handle)) h.value = true)
    (hlen : (dirAt s p (handleSlot h.handle)).length + h.posA ≤ lMax s)
    (h2 : (dirAt s p (handleSlot h.handle)).state = 2) (hb : slotBusy s p (handleSlot h.handle) = false)
    (h1 : (dirAt s p (handleSlot h.handle)).tier = 1)
    (hc : (dirAt s p (handleSlot h.handle)).length + h.posA ≤ capOf s (dirAt s p (handleSlot h.handle)).cls) :
    openOld s p h = openGrant s p (handleSlot h.handle) h allOnes64 := by
  have hreuse : (dirAt s p (handleSlot h.handle)).reuse = handleReuse h.handle := (of_decide_eq_true hl).2.2
  have hjob : (s.part p).last.jobs.find (handleSlot h.handle) = none := by
    have := hb
    simp only [slotBusy, Bool.or_eq_false_iff, KMap.has] at this
    simpa using this.1.1.1
  have hgo := openStep6_opens (left := roomMoves) (by simp [h2]) h1 (fun _ => hq) (Nat.zero_le _) hc
  simp [openOld, h2, hreuse, hsh, Nat.not_lt.2 hlen, lonely_of_partnerOf hq, hjob, hb, hgo]

/-- The partner's OPEN of a Last in HBM that is held or idle here (R155). -/
theorem partnerSlot_opens {left : Nat × Nat} {count k : Nat} (hp : h.partner = true) (hn : n < count)
    (hs : (dirAt s p n).state = 1 ∨ (dirAt s p n).state = 2) (hreuse : (dirAt s p n).reuse = handleReuse h.handle)
    (hsh : sameShape (dirAt s p n) h.value = true) (hk : k ≤ (dirAt s p n).length) (h1 : (dirAt s p n).tier = 1)
    (hc : (dirAt s p n).length + h.posA ≤ capOf s (dirAt s p n).cls) :
    partnerSlot s p n count h k left = openGrant s p n h allOnes64 := by
  have hgo := openStep6_opens (s := s) (p := p) (n := n) (h := h) (left := left) (by omega) h1
    (fun hq => absurd hq (by simp [hp])) hk hc
  obtain ⟨sh, hdef⟩ : ∃ sh, shapeOf h.value = some sh := by
    unfold sameShape at hsh
    split at hsh
    · exact absurd hsh (by decide)
    next hdef => exact ⟨_, hdef⟩
  have hbusy : ¬ ((dirAt s p n).state = 3 ∨ (dirAt s p n).state = 4) := by omega
  have hhere : (dirAt s p n).state ≠ 0 ∧ (dirAt s p n).state ≠ 5 ∧ (dirAt s p n).reuse = handleReuse h.handle :=
    ⟨by omega, by omega, hreuse⟩
  unfold partnerSlot
  dsimp only
  rw [if_neg (Nat.not_le.2 hn), hdef]
  dsimp only
  rw [if_neg hbusy, if_pos hhere, hsh]
  exact hgo

/-- What the partner's OPEN of slot `n` leaves before the slot is opened: the rebuild and what has been brought up. -/
def openPartnerNoted (s : State) (p n : Nat) : State :=
  (rebuildNow s p).modPLast p fun l => { l with brought := if l.brought.contains n then l.brought else n :: l.brought }

theorem openPartnerNoted_set : ∃ f : PLast → PLast, EntryOnly s (openPartnerNoted s p n) p n f ∧ ∀ l, (f l).dir = l.dir := by
  have hnow : ∃ f : PLast → PLast, EntryOnly s (rebuildNow s p) p n f ∧ ∀ l, (f l).dir = l.dir := by
    unfold rebuildNow
    dsimp only
    split
    · exact ⟨id, ⟨.refl, memKeptButEntry_of_mem rfl⟩, fun _ => rfl⟩
    · exact ⟨_, modPLast_entryOnly, fun _ => rfl⟩
  obtain ⟨f, hset, hdir⟩ := hnow
  exact ⟨_, hset.trans modPLast_entryOnly, hdir⟩

section
variable {q : Part} {count dirBase : Nat} (ht : serviceTaken s q.val 1 h) (hc : isCache s q.val = true)
  (hd : directory s q.val = some (count, dirBase))
include ht hc hd

theorem exec_openLast (hp : h.partner = false) : exec (.openLast q h) s = .next
    (if isAllocation h.handle then openNew (withReceived s q.val h) q.val count h roomMoves
     else openOld (withReceived s q.val h) q.val h) := by
  show execOpenLast q h s = _
  rw [execOpenLast, hp, serveOpen, svcReceive_serves ht hc, directory_withReceived, hd]
  rfl

theorem open_allocation {layers kvHeads head model c base : Nat} (hp : h.partner = false)
    (hq : partnerOf s q.val = none) (ha : isAllocation h.handle = true) (hlen : h.posA ≤ lMax s)
    (hsh : shapeOf h.value = some (layers, kvHeads, head, model)) (hn : freeSlot s q.val count = some n)
    (hw : (s.part q.val).last.waiting.at n [] = []) (hcls : classFor s h.posA = some c)
    (hrun : findRun s q.val 1 (footprint s c layers kvHeads head) = some base) :
    ∃ t, exec (.openLast q h) s = .next t ∧ granted s t q.val n h
      { state := 1, cls := c, tier := 1, reuse := (dirAt s q.val n).reuse, base := base, holderTag := h.tag
        holderDevice := h.fromDevice, holderPartition := h.fromPartition, idleSince := s.now, layers := layers
        kvHeads := kvHeads, head := head, model := model } := by
  have hnew := openNew_allocates (s := withReceived s q.val h) (left := roomMoves) (hq := by simpa) (hlen := by simpa)
    (hsh := hsh) (hn := by simpa) (hc := by simpa) (hrun := by rw [findRun_withReceived]; exact hrun)
  refine ⟨_, exec_openLast ht hc hd hp, ?_⟩
  rw [if_pos ha, hnew]
  have hmade : EntryOnly s (newLast (withReceived s q.val h) q.val n (dirAt (withReceived s q.val h) q.val n).reuse c 1 base
      (layers, kvHeads, head, model)) q.val n _ := withReceived_entryOnly.trans setDir_entryOnly
  have hgrant := openGrant_granted (mirror := allOnes64) hmade
    (fun m hm => hmade.toLastSet.dirAt.trans (at_put_ne _ _ _ hm)) ht.1
  rw [openedEntry, hmade.toLastSet.dirAt.trans (at_put_same ..), mirrorHandle_lonely (hmade.toLastSet.partnerOf.trans hq),
    hp] at hgrant
  simp only [mirrorHere, partnerOf_withReceived, hq, waitersOf, withReceived_part, hw, dirAt_withReceived] at hgrant ⊢
  exact hgrant

theorem open_idle (hp : h.partner = false) (hq : partnerOf s q.val = none) (ha : isAllocation h.handle = false)
    (hl : liveHandle s q.val h.handle = true) (hn : n = handleSlot h.handle)
    (hsh : sameShape (dirAt s q.val n) h.value = true)
    (hlen : (dirAt s q.val n).length + h.posA ≤ lMax s)
    (h2 : (dirAt s q.val n).state = 2) (hb : slotBusy s q.val n = false)
    (h1 : (dirAt s q.val n).tier = 1)
    (hcap : (dirAt s q.val n).length + h.posA ≤ capOf s (dirAt s q.val n).cls) :
    ∃ t, exec (.openLast q h) s = .next t ∧ granted s t q.val n h { dirAt s q.val n with
      state := 1, holderTag := h.tag, holderDevice := h.fromDevice, holderPartition := h.fromPartition
      partner := allOnes64 } := by
  subst hn
  refine ⟨_, exec_openLast ht hc hd hp, ?_⟩
  rw [ha, if_neg (by decide), openOld_opens (by simpa) (by simpa) (by simpa) (by simpa) (by simpa) (by simpa) (by simpa)
    (by simpa)]
  have hgrant := openGrant_granted (mirror := allOnes64) (withReceived_entryOnly (h := h) (p := q.val) (n := handleSlot h.handle))
    (fun m _ => dirAt_withReceived) ht.1
  rw [openedEntry, mirrorHandle_lonely (by simpa), hp] at hgrant
  simpa using hgrant

theorem open_partner {k : Nat} (hp : h.partner = true) (hn : n = handleSlot h.handle) (hlt : n < count)
    (hl : liveHandle s q.val h.handle = true) (hs : (dirAt s q.val n).state = 1 ∨ (dirAt s q.val n).state = 2)
    (hsh : sameShape (dirAt s q.val n) h.value = true) (hk : k ≤ (dirAt s q.val n).length)
    (h1 : (dirAt s q.val n).tier = 1)
    (hcap : (dirAt s q.val n).length + h.posA ≤ capOf s (dirAt s q.val n).cls) :
    ∃ t e, exec (.openPartner q h k) s = .next t ∧ granted s t q.val n h e ∧ e.state = 1 ∧ e.holderTag = h.tag ∧
      e.holderDevice = bitsOf h.handle2.toNat 0 16 ∧ e.holderPartition = bitsOf h.handle2.toNat 16 8 ∧
      e.length = (dirAt s q.val n).length := by
  obtain ⟨f, hset, hdir⟩ := openPartnerNoted_set (s := withReceived s q.val h) (p := q.val) (n := n)
  have hall := withReceived_entryOnly.trans hset
  have hat (m : Nat) : dirAt (openPartnerNoted (withReceived s q.val h) q.val n) q.val m = dirAt s q.val m := by
    rw [hall.toLastSet.dirAt, hdir]
    rfl
  have hopen := partnerSlot_opens (left := roomMoves) (k := k) hp hlt (by rwa [hat])
    (by rw [hat, hn]; exact (of_decide_eq_true hl).2.2) (by rwa [hat]) (by rwa [hat]) (by rwa [hat])
    (by rwa [hat, hall.toLastSet.capOf])
  refine ⟨_, _, ?_, openGrant_granted (mirror := allOnes64) hall (fun m _ => hat m) ht.1, rfl, rfl, if_pos hp, if_pos hp,
    show (dirAt _ q.val n).length = _ from congrArg DirEntry.length (hat n)⟩
  show execOpenPartner q h k s = _
  rw [execOpenPartner, if_pos hp, serveOpenPartner, svcReceive_serves ht hc, directory_withReceived, hd, ← hn]
  dsimp only
  exact congrArg Host.Outcome.next hopen

end

/-- Settles O13: whichever OPEN it is, it comes to one GRANT (`openGrant_granted`). -/
theorem openNamesTheHolder : Obligations.OpenNamesTheHolder := by
  refine fun q h s count dirBase ht hc hd => ⟨fun hp hq => ⟨?_, ?_⟩, ?_⟩
  · exact fun layers kvHeads head model n c base ha hlen hsh hn hw hcls hrun =>
      open_allocation ht hc hd hp hq ha hlen hsh hn hw hcls hrun
  · exact fun ha hl hsh hlen h2 hb h1 hcap => open_idle ht hc hd hp hq ha hl rfl hsh hlen h2 hb h1 hcap
  · intro k hp hlt hl hs _ hsh hk h1 hcap
    obtain ⟨t, e, hex, ⟨hrep, hent, hothers, hmem⟩, hstate, htag, hdev, hpart, hlength⟩ :=
      open_partner ht hc hd hp rfl hlt hl hs hsh hk h1 hcap
    subst hent
    refine ⟨t, hex, hrep, hstate, htag, hdev.trans ?_, hpart.trans ?_, hlength, hothers, hmem⟩
    · simp [bitsOf]
    · simp [bitsOf]

/-! ### The clauses of O14 (R166, R169, R173, R175) -/

/-- An answer to a message just noted: no entry and no byte changes. -/
theorem answer_leaves {r : SvcHdr} {payload : List Byte} {c : Byte} {is : SvcHdr → Prop}
    (hu : unreachable s h.fromDevice = false)
    (hr : r.op = h.op ∧ r.msgId = h.msgId ∧ r.tag = h.tag ∧ r.handle = h.handle ∧ r.reply = true ∧ r.status = c ∧ is r) :
    repliesThat s (svcReply (withReceived s p h) p h r payload) h c is ∧
      (∀ m, dirAt (svcReply (withReceived s p h) p h r payload) p m = dirAt s p m) ∧
      (svcReply (withReceived s p h) p h r payload).mem = s.mem := by
  obtain ⟨hout, hmem, hat⟩ := svcReply_leaves (withReceived_set (p := p) (h := h)) hu
  exact ⟨⟨_, _, hout, hr⟩, hat, hmem⟩

/-- Nothing is held back for slot `n`, nothing waits for it, and no OPEN with PARTNER set does. -/
def nothingWaits (s : State) (p n : Nat) : Prop :=
  (s.part p).last.heldCommits.at n [] = [] ∧ openGrows s p n = [] ∧ (s.part p).last.partnerWaiting.at n [] = [] ∧
    (s.part p).last.waiting.at n [] = []

theorem dropHeld_idle {c : Byte} (hcommits : (s.part p).last.heldCommits.at n [] = []) (hgrows : openGrows s p n = []) :
    ∃ f : PLast → PLast, dropHeld s p n c = s.modPLast p f ∧
      ∀ l, (f l).dir = l.dir ∧ (f l).waiting = l.waiting ∧ (f l).partnerWaiting = l.partnerWaiting := by
  unfold dropHeld
  rw [hcommits, hgrows]
  exact ⟨_, rfl, fun _ => ⟨rfl, rfl, rfl⟩⟩

theorem passOn_idle (hw : (s.part p).last.waiting.at n [] = []) : passOn s p n = makeIdle s p n := by
  simp [passOn, popWaiting, hw]

theorem resumePartners_idle (hw : (s.part p).last.partnerWaiting.at n [] = []) :
    ∃ f : PLast → PLast, EntryOnly s (resumePartners s p n) p n f ∧ ∀ l, (f l).dir = l.dir := by
  unfold resumePartners
  split
  · exact ⟨id, ⟨.refl, memKeptButEntry_of_mem rfl⟩, fun _ => rfl⟩
  · rw [hw]
    exact ⟨_, modPLast_entryOnly, fun _ => rfl⟩

/-- The entry of a Last that nobody holds from `now` on. -/
def idleEntry (e : DirEntry) (now : Nat) : DirEntry :=
  { e with state := 2, holderTag := 0, holderDevice := 0, holderPartition := 0, idleSince := now }

theorem setDir_now {e : DirEntry} : (setDir s p n e).now = s.now := by
  unfold setDir
  dsimp only
  split
  · rfl
  · simp

/-- The entry of a Last whose hold has ended. -/
def unheldEntry (e : DirEntry) : DirEntry := { e with state := 2, holderTag := 0, holderDevice := 0, holderPartition := 0 }

theorem makeIdle_unheld {e : DirEntry} :
    makeIdle (setDir s p n (unheldEntry e)) p n = setDir (setDir s p n (unheldEntry e)) p n (idleEntry e s.now) := by
  rw [makeIdle, modDir, setDir_set.dirAt, at_put_same, setDir_now]
  rfl

/-- Where nothing waits, the end of a hold leaves the Last idle from now on (R175). -/
theorem endHold_idle (hw : nothingWaits s p n) (h5 : (dirAt s p n).state ≠ 5) :
    ∃ f : PLast → PLast, EntryOnly s (endHold s p n) p n f ∧
      ∀ l, (f l).dir = l.dir.put n (idleEntry (dirAt s p n) s.now) := by
  obtain ⟨hcommits, hgrows, hpartners, hwaiting⟩ := hw
  obtain ⟨f, hdrop, hf⟩ := dropHeld_idle (c := 0x0B) hcommits hgrows
  obtain ⟨hdir, hfw, hfp⟩ := hf (s.part p).last
  have hd : dirAt (s.modPLast p f) p n = dirAt s p n := by rw [modPLast_set.dirAt, hdir]; rfl
  have hunheld : EntryOnly s (setDir (s.modPLast p f) p n (unheldEntry (dirAt s p n))) p n _ :=
    modPLast_entryOnly.trans setDir_entryOnly
  have hidle := hunheld.trans (setDir_entryOnly (e := idleEntry (dirAt s p n) s.now))
  obtain ⟨g, hresume, hg⟩ := resumePartners_idle (n := n) (by rw [hidle.last]; dsimp only; rw [hfp]; exact hpartners)
  have heq : endHold s p n = resumePartners (setDir (setDir (s.modPLast p f) p n (unheldEntry (dirAt s p n))) p n
      (idleEntry (dirAt s p n) s.now)) p n := by
    rw [endHold, hdrop, modDir, hd, if_neg h5]
    have hpass := passOn_idle (s := setDir (s.modPLast p f) p n (unheldEntry (dirAt s p n))) (n := n)
      (by rw [hunheld.last]; exact hfw ▸ hwaiting)
    exact congrArg (resumePartners · p n) (hpass.trans makeIdle_unheld)
  rw [heq]
  refine ⟨_, hidle.trans hresume, fun l => ?_⟩
  rw [hg]
  dsimp only
  rw [put_put, (hf l).1]

/-- The entry of a Last that a TRANSFER names the sender of `h` the holder of. -/
def transferredEntry (e : DirEntry) (h : SvcHdr) : DirEntry :=
  { e with holderDevice := h.fromDevice, holderPartition := h.fromPartition }

/-- The answer, then the end of the hold: a RELEASE from the holder where nothing waits (R169, R175). -/
theorem release_leaves {r : SvcHdr} (hu : unreachable s h.fromDevice = false) (hw : nothingWaits s p n)
    (h5 : (dirAt s p n).state ≠ 5) :
    (endHold (svcReply (withReceived s p h) p h r []) p n).out = s.out ++ [.service h.fromDevice h.fromPartition r []] ∧
      dirAt (endHold (svcReply (withReceived s p h) p h r []) p n) p n = idleEntry (dirAt s p n) s.now ∧
      (∀ m, m ≠ n → dirAt (endHold (svcReply (withReceived s p h) p h r []) p n) p m = dirAt s p m) ∧
      memKeptButEntry s (endHold (svcReply (withReceived s p h) p h r []) p n) p n := by
  obtain ⟨hout, hmem, hat⟩ := svcReply_leaves (r := r) (payload := []) (withReceived_set (p := p) (h := h)) hu
  obtain ⟨hpattern, -, -, hnow⟩ := (svcReply_onlyFab (s := withReceived s p h) (p := p) (r := r) (payload := []) hu).elsewhere
  obtain ⟨-, -, received, answers, hlast⟩ := svcReply_sends (s := withReceived s p h) (p := p) (r := r) (payload := []) hu
  have hw' : nothingWaits (svcReply (withReceived s p h) p h r []) p n := by
    unfold nothingWaits openGrows at hw ⊢
    rw [hlast, withReceived_part]
    exact hw
  obtain ⟨f, hset, hdir⟩ := endHold_idle hw' (by rwa [hat])
  have hentry : dirAt (svcReply (withReceived s p h) p h r []) p n = dirAt s p n := hat n
  rw [hentry, hnow] at hdir
  refine ⟨hset.toLastSet.out.trans hout, ?_, fun m hm => ?_,
    (memKeptButEntry_of_mem hmem).trans hset.mem (directory_of_pattern hpattern)⟩
  · rw [hset.toLastSet.dirAt, hdir, at_put_same]
    rfl
  · rw [hset.toLastSet.dirAt, hdir, at_put_ne _ _ _ hm]
    exact hat m

/-- The copy of a growth for the GROW `h` into the run at `base`. -/
def growthJob (s : State) (e : DirEntry) (h : SvcHdr) (c base : Nat) : LastJob :=
  { kind := 0, newBase := base, newCls := c, newTier := 1, size := footprint s c e.layers e.kvHeads e.head
    waiting := some h }

/-- A growth that finds a run in HBM begins: STATE 3, and the copy is under way (R128, R129). -/
theorem startGrowth_begins {k c base : Nat} (h1 : (dirAt s p n).tier = 1) (hc : classFor s k = some c)
    (hrun : findRun s p 1 (footprint s c (dirAt s p n).layers (dirAt s p n).kvHeads (dirAt s p n).head) = some base) :
    startGrowth s p n k 0 h 0 roomMoves =
      (putJob (setDir s p n { dirAt s p n with state := 3 }) p n (growthJob s (dirAt s p n) h c base), none) := by
  unfold startGrowth
  dsimp only
  rw [hc]
  dsimp only
  rw [seekRoom_hbm (a := { hbm := decide ((dirAt s p n).tier = 1), ddr := true, ddrMoves := true }) (by simpa) hrun]
  rfl

section
variable {q : Part} (hc : isCache s q.val = true) (hl : liveHandle s q.val h.handle = true) (hn : n = handleSlot h.handle)
include hc hl hn

theorem release_idle (ht : serviceTaken s q.val 3 h) (hf : fromHolder (dirAt s q.val n) h = true)
    (hw : nothingWaits s q.val n) :
    ∃ t, exec (.release q h) s = .next t ∧ repliesThat s t h 0 (fun r => r.posA = (dirAt s q.val n).length) ∧
      dirAt t q.val n = idleEntry (dirAt s q.val n) s.now ∧
      (∀ m, m ≠ n → dirAt t q.val m = dirAt s q.val m) ∧ memKeptButEntry s t q.val n := by
  subst hn
  have hstate := (of_decide_eq_true hf).1
  obtain ⟨hout, hrest⟩ := release_leaves (p := q.val) (h := h)
    (r := { replyHdr (withReceived s q.val h) q.val h 0 with posA := (dirAt s q.val (handleSlot h.handle)).length }) ht.1 hw
    (by omega)
  refine ⟨_, ?_, ⟨_, _, hout, rfl, rfl, rfl, rfl, rfl, rfl, rfl⟩, hrest⟩
  show execRelease q h s = _
  rw [execRelease, serveRelease, svcReceive_serves ht hc]
  simp [hl, hf]

theorem release_stranger (ht : serviceTaken s q.val 3 h) (hf : fromHolder (dirAt s q.val n) h = false) :
    ∃ t, exec (.release q h) s = .next t ∧ repliesThat s t h 0x0B (fun r => r.value = holderOf (dirAt s q.val n)) ∧
      (∀ m, dirAt t q.val m = dirAt s q.val m) ∧ t.mem = s.mem := by
  subst hn
  refine ⟨svcReply (withReceived s q.val h) q.val h { replyHdr (withReceived s q.val h) q.val h 0x0B with
    posA := (dirAt s q.val (handleSlot h.handle)).length, value := holderOf (dirAt s q.val (handleSlot h.handle)) } [], ?_,
    answer_leaves ht.1 ⟨rfl, rfl, rfl, rfl, rfl, rfl, rfl⟩⟩
  show execRelease q h s = _
  rw [execRelease, serveRelease, svcReceive_serves ht hc]
  simp [hl, hf]

theorem transfer_names (ht : serviceTaken s q.val 4 h) (h1 : (dirAt s q.val n).state = 1)
    (htag : (dirAt s q.val n).holderTag = h.tag) (hv : holderOf (dirAt s q.val n) = h.value) :
    ∃ t, exec (.transfer q h) s = .next t ∧
      repliesThat s t h 0 (fun r => r.value = holderValue h.fromDevice h.fromPartition) ∧
      dirAt t q.val n = transferredEntry (dirAt s q.val n) h ∧
      (∀ m, m ≠ n → dirAt t q.val m = dirAt s q.val m) ∧ memKeptButEntry s t q.val n := by
  subst hn
  have hset := (withReceived_entryOnly (s := s) (p := q.val) (h := h)).trans
    (setDir_entryOnly (n := handleSlot h.handle) (e := transferredEntry (dirAt s q.val (handleSlot h.handle)) h))
  obtain ⟨hout, hrest⟩ := entryReplied (payload := []) hset rfl ht.1
    (r := { replyHdr (setDir (withReceived s q.val h) q.val (handleSlot h.handle)
      (transferredEntry (dirAt s q.val (handleSlot h.handle)) h)) q.val h 0 with
        value := holderValue h.fromDevice h.fromPartition })
  refine ⟨_, ?_, ⟨_, _, hout, rfl, rfl, rfl, rfl, rfl, rfl, rfl⟩, hrest⟩
  show execTransfer q h s = _
  rw [execTransfer, serveTransfer, svcReceive_serves ht hc]
  simp [hl, h1, htag, hv, transferredEntry]

theorem transfer_named (ht : serviceTaken s q.val 4 h) (hv : holderOf (dirAt s q.val n) ≠ h.value)
    (hme : holderOf (dirAt s q.val n) = holderValue h.fromDevice h.fromPartition)
    (htag : (dirAt s q.val n).holderTag ≠ 0) :
    ∃ t, exec (.transfer q h) s = .next t ∧ repliesThat s t h 0 (fun r => r.value = holderOf (dirAt s q.val n)) ∧
      (∀ m, dirAt t q.val m = dirAt s q.val m) ∧ t.mem = s.mem := by
  subst hn
  refine ⟨svcReply (withReceived s q.val h) q.val h { replyHdr (withReceived s q.val h) q.val h 0 with
    value := holderValue h.fromDevice h.fromPartition } [], ?_,
    answer_leaves ht.1 ⟨rfl, rfl, rfl, rfl, rfl, rfl, hme.symm⟩⟩
  have hne : holderValue h.fromDevice h.fromPartition ≠ h.value := hme ▸ hv
  show execTransfer q h s = _
  rw [execTransfer, serveTransfer, svcReceive_serves ht hc]
  simp only [dirAt_withReceived, liveHandle_withReceived, hl, hme]
  rw [if_neg (by decide), if_neg fun hv => hne hv.2.2, if_pos ⟨trivial, htag⟩]

theorem transfer_refused (ht : serviceTaken s q.val 4 h) (hv : holderOf (dirAt s q.val n) ≠ h.value)
    (hme : holderOf (dirAt s q.val n) ≠ holderValue h.fromDevice h.fromPartition) :
    ∃ t, exec (.transfer q h) s = .next t ∧ repliesThat s t h 0x0B (fun r => r.value = holderOf (dirAt s q.val n)) ∧
      (∀ m, dirAt t q.val m = dirAt s q.val m) ∧ t.mem = s.mem := by
  subst hn
  refine ⟨svcReply (withReceived s q.val h) q.val h { replyHdr (withReceived s q.val h) q.val h 0x0B with
    value := holderOf (dirAt s q.val (handleSlot h.handle)) } [], ?_,
    answer_leaves ht.1 ⟨rfl, rfl, rfl, rfl, rfl, rfl, rfl⟩⟩
  show execTransfer q h s = _
  rw [execTransfer, serveTransfer, svcReceive_serves ht hc]
  simp [hl, hv, hme]

section
variable (ht : serviceTaken s q.val 8 h) (hf : fromHolder (dirAt s q.val n) h = true) (hlen : h.posA ≤ lMax s)
include ht hf hlen

/-- A GROW from the holder is answered, waits, or begins a growth (R173). -/
theorem exec_grow : exec (.grow q h) s = .next
    (if h.posA ≤ capOf s (dirAt s q.val n).cls then growReply (withReceived s q.val h) q.val n h 0
     else if (dirAt s q.val n).state ≠ 1 ∨ slotBusy s q.val n then
       (withReceived s q.val h).modPLast q.val fun l => { l with
         heldGrows := l.heldGrows.put n (l.heldGrows.at n [] ++ [h]) }
     else growWith q.val n 0 h (startGrowth (withReceived s q.val h) q.val n h.posA 0 h 0 roomMoves)) := by
  subst hn
  show execGrow q h s = _
  rw [execGrow, serveGrow, svcReceive_serves ht hc]
  simp [hl, growTry, hf, Nat.not_lt.2 hlen]

theorem grow_within (hcap : h.posA ≤ capOf s (dirAt s q.val n).cls) :
    ∃ t, exec (.grow q h) s = .next t ∧
      repliesThat s t h 0 (fun r => r.posB = capOf s (dirAt s q.val n).cls ∧
        r.value = lineAddress q.val (dirAt s q.val n).base) ∧
      (∀ m, dirAt t q.val m = dirAt s q.val m) ∧ t.mem = s.mem := by
  refine ⟨_, (exec_grow hc hl hn ht hf hlen).trans (congrArg _ (if_pos hcap)), ?_⟩
  exact answer_leaves ht.1 ⟨rfl, rfl, rfl, rfl, rfl, rfl, by simp, by simp⟩

variable (hcap : capOf s (dirAt s q.val n).cls < h.posA)
include hcap

theorem grow_waits (h1 : (dirAt s q.val n).state ≠ 1) :
    ∃ t, exec (.grow q h) s = .next t ∧ t.out = s.out ∧
      (t.part q.val).last.heldGrows.at n [] = (s.part q.val).last.heldGrows.at n [] ++ [h] ∧
      (∀ m, dirAt t q.val m = dirAt s q.val m) ∧ t.mem = s.mem := by
  have hset := (withReceived_set (s := s) (p := q.val) (h := h)).trans (modPLast_set
    (f := fun l => { l with heldGrows := l.heldGrows.put n (l.heldGrows.at n [] ++ [h]) }))
  refine ⟨_, (exec_grow hc hl hn ht hf hlen).trans (congrArg _ ((if_neg (Nat.not_le.2 hcap)).trans (if_pos (.inl h1)))),
    hset.out, ?_, fun m => hset.dirAt, rfl⟩
  rw [hset.last]
  exact at_put_same ..

theorem grow_begins {c base : Nat} (h1 : (dirAt s q.val n).tier = 1) (hs : (dirAt s q.val n).state = 1)
    (hb : slotBusy s q.val n = false) (hcls : classFor s h.posA = some c)
    (hrun : findRun s q.val 1 (footprint s c (dirAt s q.val n).layers (dirAt s q.val n).kvHeads (dirAt s q.val n).head) =
      some base) :
    ∃ t, exec (.grow q h) s = .next t ∧ t.out = s.out ∧ dirAt t q.val n = { dirAt s q.val n with state := 3 } ∧
      (t.part q.val).last.jobs.find n = some (growthJob s (dirAt s q.val n) h c base) ∧
      (∀ m, m ≠ n → dirAt t q.val m = dirAt s q.val m) ∧ memKeptButEntry s t q.val n := by
  have hgo := startGrowth_begins (s := withReceived s q.val h) (p := q.val) (n := n) (h := h) (by simpa) (by simpa)
    (by rw [dirAt_withReceived]; exact findRun_withReceived.trans hrun)
  rw [dirAt_withReceived] at hgo
  have hset := ((withReceived_entryOnly (s := s) (p := q.val) (h := h)).trans
    (setDir_entryOnly (n := n) (e := { dirAt s q.val n with state := 3 }))).trans
    (modPLast_entryOnly (f := fun l => { l with jobs := l.jobs.put n (growthJob s (dirAt s q.val n) h c base) }))
  refine ⟨_, (exec_grow hc hl hn ht hf hlen).trans (congrArg _ ((if_neg (Nat.not_le.2 hcap)).trans
    ((if_neg (by simp [hs, hb])).trans (congrArg (growWith q.val n 0 h) hgo)))), hset.toLastSet.out, ?_, ?_, fun m hm => ?_,
    hset.mem⟩
  · exact hset.toLastSet.dirAt.trans (at_put_same ..)
  · exact (congrArg (fun l : PLast => l.jobs.find n) hset.toLastSet.last).trans (find_put_same ..)
  · exact hset.toLastSet.dirAt.trans (at_put_ne _ _ _ hm)

end

end

/-- Settles O14: each operation writes the entry of its slot at most, and answers. -/
theorem releaseTransferAndGrow : Obligations.ReleaseTransferAndGrow := by
  rintro q h s n e op ht hc hn rfl hl
  refine ⟨?_, ?_, ?_, ?_, ?_, ?_, ?_, ?_⟩
  · rintro rfl hf hcommits hgrows hpartners - hwaiting
    exact release_idle hc hl hn ht hf ⟨hcommits, hgrows, hpartners, hwaiting⟩
  · rintro rfl hf
    exact release_stranger hc hl hn ht hf
  · rintro rfl h1 htag hv
    exact transfer_names hc hl hn ht h1 htag hv
  · rintro rfl hv hme htag
    exact transfer_named hc hl hn ht hv hme htag
  · rintro rfl hv hme
    exact transfer_refused hc hl hn ht hv hme
  · rintro rfl hf hlen hcap
    exact grow_within hc hl hn ht hf hlen hcap
  · rintro rfl hf hlen hcap h1
    exact grow_waits hc hl hn ht hf hlen hcap h1
  · rintro c base rfl hf hlen hcap h1 hs hb hcls hrun
    exact grow_begins hc hl hn ht hf hlen hcap h1 hs hb hcls hrun

end Sys2Proof.Machine
end
section
/-! # Messages that reach their endpoint

A packet whose session goes on and whose PSN is new changes the peer context alone (`heardFrom`) before its endpoint handles
it; the answer to it changes the fabric alone. -/

namespace Sys2Proof.Machine

variable {s t : State} {p d n : Nat} {x : XtHdr} {m : MsgFields} {bytes : List Byte}

/-! ### The packet's session (R355 to R358) -/

/-- The device `d` has just been heard. -/
def heardFrom (s : State) (d : Nat) : State := s.setPeer d { s.peer d with lastRx := s.now }

theorem heardFrom_peer : (heardFrom s d).peer d = { s.peer d with lastRx := s.now } := by
  simp [heardFrom, State.setPeer, State.peer]

/-- The session that the packet belongs to is open, and its PSN is new. -/
def newInSession (s : State) (x : XtHdr) : Prop :=
  (s.peer x.device).inUse = true ∧ (s.peer x.device).c1.rxStarted = true ∧
    (s.peer x.device).c1.rxSession = x.session ∧ (s.peer x.device).c1.seen x.psn = false

theorem rxContext_goesOn (h : newInSession s x) : rxContext s x 1 = some (heardFrom s x.device) := by
  obtain ⟨huse, hstarted, hsession, -⟩ := h
  have hheard : heard s x.device = some (heardFrom s x.device) := by simp [heard, withContext, huse, heardFrom]
  simp [rxContext, hheard, heardFrom_peer, Peer.sess, hstarted, hsession]

/-- A packet that is new and passes the map check is its endpoint's to handle. -/
theorem exec_message (hlen : msgLengthOk m bytes = true) (h : newInSession s x)
    (hmap : mapCheck s x.destPart x.mapEpoch x.device x.srcPart = 0) (hdev : s.fab.device ≠ 0xFFFF) :
    exec (.message x m bytes) s = .next (msgHandle (heardFrom s x.device) x.destPart x m bytes false) := by
  have hseen : ((heardFrom s x.device).peer x.device).c1.seen x.psn = false := by rw [heardFrom_peer]; exact h.2.2.2
  have hmap' : mapCheck (heardFrom s x.device) x.destPart x.mapEpoch x.device x.srcPart = 0 := hmap
  show execMessage x m bytes s = _
  simp only [execMessage, if_neg hdev, hlen, rxContext_goesOn h, msgArrive, hseen, hmap']
  rfl

theorem sendAck_onlyFab {cls : Nat} {status : Byte} {psn : BitVec 32} : onlyFab s (sendAck s d cls status psn) :=
  setPeer_onlyFab.trans originate_onlyFab

theorem answerMsg_onlyFab {again : Bool} {c : Byte} : onlyFab s (answerMsg s x again c) :=
  onlyFab_ite (setPeer_onlyFab.trans sendAck_onlyFab) setPeer_onlyFab

theorem onlyFab.stores (h : onlyFab s t) : t.lanes = s.lanes ∧ t.counters = s.counters := by
  rw [onlyFab] at h
  rw [h]
  exact ⟨rfl, rfl⟩

/-! ### Packets of a wrong length, and endpoint 0 (R144, R353) -/

theorem message_discarded (hlen : msgLengthOk m bytes = false) (hdev : s.fab.device ≠ 0xFFFF) :
    exec (.message x m bytes) s = .next (dropLength s) := by
  show execMessage x m bytes s = _
  rw [execMessage, if_neg hdev, hlen]
  rfl

/-- The service message that a first packet begins. -/
def begunMessage (x : XtHdr) (m : MsgFields) (bytes : List Byte) : SvcIn :=
  { device := x.device, part := x.srcPart, number := m.number, total := m.total, got := [(m.offset, bytes)] }

/-- A first packet of several for endpoint 0 begins a message of its sender. -/
theorem svcHandle_begins (ha : (s.part p).last.arriving = []) (hr : (s.part p).xt.reasm = [])
    (hpart : bytes.length < m.total) :
    ((svcHandle s p x m bytes false).part p).last.arriving = [begunMessage x m bytes] ∧
      (svcHandle s p x m bytes false).out = s.out ∧ (svcHandle s p x m bytes false).mem = s.mem ∧
      (svcHandle s p x m bytes false).lanes = s.lanes := by
  have hnew : svcHandle s p x m bytes false =
      answerMsg (s.modPLast p fun l => { l with arriving := [begunMessage x m bytes] }) x false 0 := by
    simp [svcHandle, ha, hr, svcPlace, Nat.not_le.2 hpart, begunMessage]
  have hfab : onlyFab (s.modPLast p fun l => { l with arriving := [begunMessage x m bytes] })
    (svcHandle s p x m bytes false) := hnew ▸ answerMsg_onlyFab
  obtain ⟨hout, hmem, hparts⟩ := hfab.rest
  refine ⟨?_, hout, hmem, hfab.stores.1⟩
  rw [part_of_parts hparts]
  simp

/-! ### An item endpoint (R374 to R376) -/

/-- The lane takes the item, and no other state of the module changes but its Roundabouts and interrupts. -/
theorem laneGive_mem {who : LaneWriter} {it : Item} : (laneGive s n who it).mem = s.mem := by
  unfold laneGive
  dsimp only
  split
  · simp
  · rfl

theorem laneGive_room {l : Lane} {who : LaneWriter} {it : Item} (hl : s.lanes.find n = some l) (hlen : l.items.length < 16)
    (hr : l.portReads = []) (hw : l.portWrites = []) : ((laneGive s n who it).lane n).items = l.items ++ [it] := by
  rw [laneGive]
  simp only [lane_of_find s hl, hr, hw, and_self, if_true]
  exact lanePush_items s it hl hlen

theorem laneGive_ne {who : LaneWriter} {it : Item} {k : Nat} (h : k ≠ n) : (laneGive s n who it).lane k = s.lane k := by
  unfold laneGive
  dsimp only
  split
  · exact lanePush_ne s it h
  · simp [State.lane, h]

/-- The state once the notice lane of endpoint `n`, where it is the partition's, has been given the notice. -/
def noticeGiven (s : State) (p n : Nat) (it : Item) : State :=
  if s.ownsLane p (epOf s p n).noticeLane then laneGive s (epOf s p n).noticeLane .transport it else s

theorem noticeGiven_leaves {it : Item} {k : Nat} (hk : k ≠ (epOf s p n).noticeLane) :
    (noticeGiven s p n it).lane k = s.lane k ∧ (noticeGiven s p n it).mem = s.mem ∧
      (noticeGiven s p n it).parts = s.parts := by
  unfold noticeGiven
  split
  · exact ⟨laneGive_ne hk, laneGive_mem, laneGive_parts⟩
  · exact ⟨rfl, rfl, rfl⟩

/-- A notice changes the notice lane and the endpoint's counter alone (R375). -/
theorem notify_leaves {status : Byte} {it : Item} {k : Nat} (hk : k ≠ (epOf s p n).noticeLane) :
    (notify s p n status it).lane k = s.lane k ∧ (notify s p n status it).mem = s.mem ∧
      (notify s p n status it).parts = s.parts := by
  obtain ⟨hlane, hmem, hparts⟩ := noticeGiven_leaves (it := it) hk
  have hnotify : notify s p n status it = if (epOf s p n).signal ∧ (noticeGiven s p n it).ownsCtr p (epOf s p n).counter
      then ctrAdd (noticeGiven s p n it) (epOf s p n).counter 1 (status != 0) else noticeGiven s p n it := rfl
  rw [hnotify]
  split
  · refine ⟨?_, (ctrAdd_mem ..).trans hmem, (ctrAdd_parts ..).trans hparts⟩
    rw [← hlane]
    simp [State.lane]
  · exact ⟨hlane, hmem, hparts⟩

theorem epOf_find {e : Endpoint} (h : (s.part p).xt.eps.find n = some e) : epOf s p n = e := by
  simp [epOf, h]

/-- A message of 32 bytes has its one packet at offset 0. -/
theorem length_of_item (hlen : msgLengthOk m bytes = true) (h32 : m.total = 32) : bytes.length = 32 := by
  obtain ⟨halign, hoff, hbytes⟩ := of_decide_eq_true hlen
  omega

/-- A message of an item endpoint is delivered whole: the item, then RECEIVED and the notice. -/
theorem msgComplete_leaves {c : BitVec 32} {e : Endpoint} {k : Nat} (he : (s.part p).xt.eps.find m.destEndpoint = some e)
    (hk : k ≠ e.noticeLane) :
    (msgComplete s p x m c).lane k = s.lane k ∧ (msgComplete s p x m c).mem = s.mem ∧
      ((msgComplete s p x m c).part p).xt.eps.find m.destEndpoint = some { e with received := e.received + 1 } := by
  have hep : modEp s p m.destEndpoint (fun e => { e with received := e.received + 1 }) =
      s.modXt p fun y => { y with eps := y.eps.put m.destEndpoint { e with received := e.received + 1 } } := by
    simp [modEp, he]
  have hfind : ((s.modXt p fun y => { y with
      eps := y.eps.put m.destEndpoint { e with received := e.received + 1 } }).part p).xt.eps.find m.destEndpoint =
        some { e with received := e.received + 1 } := by simp
  rw [msgComplete, hep]
  obtain ⟨hlane, hmem, hparts⟩ := notify_leaves (status := 0)
    (it := noticeItem 0 false x.srcPart m.destEndpoint x.device m.srcEndpoint m.total c.toNat m.immediate)
    (s := s.modXt p fun y => { y with eps := y.eps.put m.destEndpoint { e with received := e.received + 1 } }) (p := p)
    (n := m.destEndpoint) (k := k) (by rw [epOf_find hfind]; exact hk)
  exact ⟨hlane, hmem, by rw [part_of_parts hparts]; exact hfind⟩

/-- An endpoint that is served was used last, and starves no more. -/
def servedEp (s : State) (p : Nat) (e : Endpoint) : Endpoint :=
  { e with used := (s.part p).xt.clock + 1, emptySince := none }

theorem epServed_find {e : Endpoint} (he : (s.part p).xt.eps.find n = some e) :
    ((epServed s p n).part p).xt.eps.find n = some (servedEp s p e) := by
  simp [epServed, he, servedEp]

theorem epServed_reasm : ((epServed s p n).part p).xt.reasm = (s.part p).xt.reasm := by
  simp only [epServed, modXt_eq, setPart_part_same]
  split <;> rfl

/-- An item endpoint whose lane has room takes the 32 bytes as an item (R375). -/
theorem msgOpen_item {e : Endpoint} {l : Lane} (he : (s.part p).xt.eps.find m.destEndpoint = some e)
    (ha : (s.part p).last.arriving = []) (hr : (s.part p).xt.reasm = []) (hk : e.kind = 1) (h32 : m.total = 32)
    (hl : s.lanes.find e.itemLane = some l) (ho : l.owner = p) (hroom : l.items.length < 16)
    (hother : e.noticeLane ≠ e.itemLane) (hreads : l.portReads = []) (hwrites : l.portWrites = []) :
    ((msgOpen s p x m bytes false e).lane e.itemLane).items = l.items ++ [itemOf bytes] ∧
      (((msgOpen s p x m bytes false e).part p).xt.eps.at m.destEndpoint {}).received = e.received + 1 ∧
      (msgOpen s p x m bytes false e).mem = s.mem := by
  have hfree : laneFree s e.itemLane = true := by simp [laneFree, lane_of_find s hl, hwrites, hroom]
  have howns : s.ownsLane p e.itemLane = true := by simp [State.ownsLane, hl, ho]
  have hopen : msgOpen s p x m bytes false e =
      answerMsg (msgComplete (epServed (laneGive s e.itemLane .transport (itemOf bytes)) p m.destEndpoint) p x m 0)
        x false 0 := by
    simp [msgOpen, hr, ha, hk, h32, howns, hfree]
  have hgiven : ((laneGive s e.itemLane .transport (itemOf bytes)).part p).xt.eps.find m.destEndpoint = some e := by
    rw [part_of_parts laneGive_parts]
    exact he
  obtain ⟨hlane, hmem, hfind⟩ := msgComplete_leaves (x := x) (c := 0) (k := e.itemLane) (epServed_find hgiven) hother.symm
  have hfab : onlyFab _ (msgOpen s p x m bytes false e) := hopen ▸ answerMsg_onlyFab
  obtain ⟨-, hmem', hparts⟩ := hfab.rest
  refine ⟨?_, ?_, hmem'.trans (hmem.trans laneGive_mem)⟩
  · rw [State.lane, hfab.stores.1]
    exact (congrArg Lane.items hlane).trans (laneGive_room hl hroom hreads hwrites)
  · rw [part_of_parts hparts, KMap.at, hfind]
    rfl

/-! ### A message in progress (R374 to R376) -/

section
variable {a k : Nat} {r : Reasm}

theorem storeRaw_xt : ((storeRaw s p a bytes).part p).xt = (s.part p).xt := by
  unfold storeRaw
  dsimp only
  split
  · simp only [modPTrust_eq, setPart_part_same]
    rfl
  · rfl

/-- How a write would end is no matter of the endpoints. -/
theorem writeCode_epServed {covers : Nat → Bool} (ht : allTrusted s = true) :
    writeCode (epServed s p n) p a k covers = writeCode s p a k covers := by
  have htrust : ((epServed s p n).part p).trust = (s.part p).trust := by simp [epServed]
  have hsuspect : suspectIn (epServed s p n) p a k = suspectIn s p a k := by
    have ht' : allTrusted (epServed s p n) = true := ht
    simp [suspectIn, ht, ht']
  simp only [writeCode, writeFailure, retiredPage, htrust, hsuspect]
  rfl

/-- A write that meets nothing stores its bytes, and of the fabric the lines that the squares hold change. -/
theorem homeWrite_stores {covers : Nat → Bool} {tag : Word} (hh : s.fab.home = [])
    (hw : writeCode s p a bytes.length covers = 0) :
    ∃ L, homeWrite s p a bytes covers tag = (0, storeRaw (withLines s L) p a bytes) := by
  obtain ⟨L, hL⟩ := passSquares_idle (p := p) (off := a) (len := bytes.length) hh
  have hw' : writeCode (withLines s L) p a bytes.length covers = 0 := hw
  refine ⟨L, ?_⟩
  rw [homeWrite, hL]
  simp [transferWrite, hw']

/-- A packet of a message in progress: its bytes lie in the buffer, and the entry counts them. -/
theorem msgPlace_stores (hr : r.refused = false) (ht : r.total = m.total) (hn : r.count + bytes.length < r.total)
    (hrange : inRange s p onSledW false (r.buffer + m.offset) bytes.length = true)
    (hw : writeCode s p (r.buffer + m.offset) bytes.length (fun _ => false) = 0) (hh : s.fab.home = []) :
    ∃ L, msgPlace s p x m bytes false r = answerMsg (putReasm (storeRaw (withLines s L) p (r.buffer + m.offset) bytes) p x m
      (some { r with count := r.count + bytes.length })) x false 0 := by
  obtain ⟨L, hL⟩ := homeWrite_stores (tag := 0) hh hw
  refine ⟨L, ?_⟩
  unfold msgPlace
  rw [hr, if_neg (by decide), if_neg (not_not_intro ht.symm)]
  dsimp only
  rw [if_pos hrange, hL]
  dsimp only
  rw [if_neg (by decide), if_neg (Nat.not_le.2 hn)]

/-- The entry of a message in progress once it has counted the packet. -/
def countedReasm (r : Reasm) (bytes : List Byte) : Reasm := { r with count := r.count + bytes.length }

theorem msgHandle_places {e : Endpoint} (h0 : m.destEndpoint ≠ 0) (hlt : m.destEndpoint < (s.part p).xt.epCount)
    (he : (s.part p).xt.eps.find m.destEndpoint = some e) (h1 : e.state = 1) (hreasm : (s.part p).xt.reasm = [r])
    (hsame : sameMsg x m r = true) :
    msgHandle s p x m bytes false = msgPlace (epServed s p m.destEndpoint) p x m bytes false r := by
  simp [msgHandle, h0, Nat.not_le.2 hlt, epOf_find he, h1, KMap.has, he, hreasm, hsame]

theorem msgHandle_opens {e : Endpoint} (h0 : m.destEndpoint ≠ 0) (hlt : m.destEndpoint < (s.part p).xt.epCount)
    (he : (s.part p).xt.eps.find m.destEndpoint = some e) (h1 : e.state = 1) (hreasm : (s.part p).xt.reasm = []) :
    msgHandle s p x m bytes false = msgOpen s p x m bytes false e := by
  simp [msgHandle, h0, Nat.not_le.2 hlt, epOf_find he, h1, KMap.has, he, hreasm]

/-- What a packet of a message in progress leaves of memory and of the entry. -/
theorem msgPlace_leaves (hreasm : (s.part p).xt.reasm = [r]) (hsame : sameMsg x m r = true) (hr : r.refused = false)
    (ht : r.total = m.total) (hn : r.count + bytes.length < r.total)
    (hrange : inRange s p onSledW false (r.buffer + m.offset) bytes.length = true)
    (hw : writeCode s p (r.buffer + m.offset) bytes.length (fun _ => false) = 0)
    (hbad : badIn s (memKey p (r.buffer + m.offset)) bytes.length = []) (htrust : allTrusted s = true)
    (hh : s.fab.home = []) :
    (∀ i, i < bytes.length → memByte (msgPlace s p x m bytes false r).mem (memKey p (r.buffer + m.offset) + i) =
        bytes.getD i 0) ∧
      memKeptBut s (msgPlace s p x m bytes false r) (memKey p (r.buffer + m.offset)) bytes.length ∧
      ((msgPlace s p x m bytes false r).part p).xt.reasm = [countedReasm r bytes] ∧
      (msgPlace s p x m bytes false r).lanes = s.lanes ∧ (msgPlace s p x m bytes false r).counters = s.counters := by
  obtain ⟨L, hplace⟩ := msgPlace_stores (x := x) (m := m) hr ht hn hrange hw hh
  have hfab : onlyFab _ (msgPlace s p x m bytes false r) := hplace ▸ answerMsg_onlyFab
  obtain ⟨-, hmem, hparts⟩ := hfab.rest
  obtain ⟨hlanes, hcounters⟩ := hfab.stores
  refine ⟨fun i hi => ?_, fun a ha => ?_, ?_, ?_, ?_⟩
  · rw [hmem]
    exact memByte_storeRaw_span (s := withLines s L) hbad htrust hi
  · rw [hmem]
    exact memByte_storeRaw_out (withLines s L) _ _ _ a ha
  · rw [part_of_parts hparts]
    have hgone : ([r].filter fun r => !sameMsg x m r) = [] := by simp [hsame]
    simp only [putReasm, modXt_eq, setPart_part_same]
    rw [storeRaw_xt, show (withLines s L).part p = s.part p from rfl, hreasm, hgone]
    rfl
  · exact hlanes.trans (storeRaw_lanes (s := withLines s L) ..)
  · exact hcounters.trans (storeRaw_counters (s := withLines s L) ..)

end

/-- Settles O26: a packet comes to its endpoint unchanged, and each endpoint does its one thing with it. -/
theorem messagesReachTheirEndpoint : Obligations.MessagesReachTheirEndpoint := by
  refine ⟨fun x m bytes s hlen hdev => ⟨_, message_discarded hlen hdev, rfl, rfl, rfl⟩,
    fun x m bytes e s hlen huse hstarted hsession hseen hmap harriving hdev => ?_⟩
  have hexec := exec_message hlen ⟨huse, hstarted, hsession, hseen⟩ hmap hdev
  refine ⟨fun h0 hreasm hpart => ?_, fun h0 hlt he h1 => ⟨fun l hreasm hk h32 hl ho hroom hother hreads hwrites => ?_,
    fun r hreasm hsame hr ht hn hrange hw hbad htrust hhome => ?_⟩⟩
  · have hplaces : msgHandle (heardFrom s x.device) x.destPart x m bytes false =
        svcHandle (heardFrom s x.device) x.destPart x m bytes false := by simp [msgHandle, h0]
    exact ⟨_, hexec.trans (congrArg _ hplaces), svcHandle_begins harriving hreasm hpart⟩
  · exact ⟨_, hexec.trans (congrArg _ (msgHandle_opens (s := heardFrom s x.device) h0 hlt he h1 hreasm)),
      msgOpen_item (s := heardFrom s x.device) he harriving hreasm hk h32 hl ho hroom hother hreads hwrites⟩
  · exact ⟨_, hexec.trans (congrArg _ (msgHandle_places (s := heardFrom s x.device) h0 hlt he h1 hreasm hsame)),
      msgPlace_leaves (epServed_reasm.trans hreasm) hsame hr ht hn hrange ((writeCode_epServed htrust).trans hw) hbad htrust hhome⟩

end Sys2Proof.Machine
end
section
/-! # What a holder's messages leave as they were

Whether the other end can be reached or not, a message changes of the partition that sends it only what the Last service
notes of its requests and answers (`Messaged`). -/

namespace Sys2Proof.Machine

variable {s t u : State} {p d q : Nat} {tag : BitVec 48} {h r : SvcHdr} {payload : List Byte}

/-- A partition with other notes of the messages that its Last service received, answered and sent. -/
def PartState.noting (x : PartState) (received : List SvcHdr) (answers : List SvcAnswer) (sent : KMap SvcSent) : PartState :=
  { x with last := { x.last with received := received, answers := answers, sent := sent } }

/-- From `s` to `t` messages went out: of partition `p` the notes of its requests and answers changed at most. -/
structure Messaged (s t : State) (p : Nat) : Prop where
  part : ∃ received answers sent, t.part p = (s.part p).noting received answers sent
  mem : t.mem = s.mem
  lanes : t.lanes = s.lanes
  now : t.now = s.now
  pattern : t.pattern = s.pattern
  faults : t.faults = s.faults

theorem Messaged.refl : Messaged s s p := ⟨⟨_, _, _, rfl⟩, rfl, rfl, rfl, rfl, rfl⟩

theorem Messaged.trans (h : Messaged s u p) (h' : Messaged u t p) : Messaged s t p := by
  obtain ⟨_, _, _, hpart⟩ := h.part
  obtain ⟨received, answers, sent, hpart'⟩ := h'.part
  refine ⟨⟨received, answers, sent, ?_⟩, h'.mem.trans h.mem, h'.lanes.trans h.lanes, h'.now.trans h.now,
    h'.pattern.trans h.pattern, h'.faults.trans h.faults⟩
  rw [hpart', hpart]
  rfl

theorem Messaged.hold (h : Messaged s t p) : (t.part p).hold = (s.part p).hold := by
  obtain ⟨_, _, _, hpart⟩ := h.part
  rw [hpart]
  rfl

/-- What else the Last service keeps is as it was. -/
theorem Messaged.kept (h : Messaged s t p) {α : Type} {f : PLast → α}
    (hf : ∀ l received answers sent, f { l with received := received, answers := answers, sent := sent } = f l) :
    f (t.part p).last = f (s.part p).last := by
  obtain ⟨_, _, _, hpart⟩ := h.part
  rw [hpart]
  exact hf ..

/-- Messages one after another. -/
theorem foldl_messaged {α : Type} {f : State → α → State} (hf : ∀ s a, Messaged s (f s a) p) (xs : List α) :
    Messaged s (xs.foldl f s) p := by
  induction xs generalizing s with
  | nil => exact .refl
  | cons a xs ih => exact (hf s a).trans ih

/-- What the transport is given changes the fabric, and shows on the boundary. -/
theorem svcPost_transports {waits : Bool} : svcPost s p d q h payload waits =
    { s with fab := (svcPost s p d q h payload waits).fab, out := (svcPost s p d q h payload waits).out } := by
  by_cases hu : unreachable s d = true
  · rw [svcPost, if_pos hu]
  · have hfab := svcPost_eq (p := p) (q := q) (h := h) (payload := payload) (waits := waits) (by simpa using hu)
    rw [onlyFab] at hfab
    rw [hfab]
    rfl

theorem svcPost_messaged {waits : Bool} : Messaged s (svcPost s p d q h payload waits) p := by
  rw [svcPost_transports]
  exact ⟨⟨_, _, _, rfl⟩, rfl, rfl, rfl, rfl, rfl⟩

theorem svcPost_parts {waits : Bool} : (svcPost s p d q h payload waits).parts = s.parts := by
  rw [svcPost_transports]

/-- An answer: what has been sent and waits for its reply is as it was. -/
theorem svcReply_messaged : Messaged s (svcReply s p h r payload) p ∧
    ((svcReply s p h r payload).part p).last.sent = (s.part p).last.sent := by
  unfold svcReply
  dsimp only
  refine ⟨.trans ⟨⟨_, _, _, setPart_part_same ..⟩, rfl, rfl, rfl, rfl, rfl⟩ svcPost_messaged, ?_⟩
  rw [part_of_parts svcPost_parts]
  simp

theorem svcCode_messaged {c : Byte} : Messaged s (svcCode s p h c) p ∧
    ((svcCode s p h c).part p).last.sent = (s.part p).last.sent := svcReply_messaged

/-- The request `h` as it is sent to partition `q` of device `d`: under the next MSG_ID. -/
def sentRequest (s : State) (d q : Nat) (h : SvcHdr) (payload : List Byte) : SvcSent :=
  { h := { h with msgId := s.mgmt.nextMsgId + 1 }, toDevice := d, toPart := q, sentAt := s.now, payload := payload }

/-- The state in which the request is noted, and has not gone out yet. -/
def sendNoted (s : State) (p d q : Nat) (h : SvcHdr) (payload : List Byte) : State :=
  (s.modMgmt fun m => { m with nextMsgId := s.mgmt.nextMsgId + 1 }).modPLast p fun l => { l with
    sent := l.sent.put (s.mgmt.nextMsgId + 1) (sentRequest s d q h payload) }

theorem svcSend_eq : (svcSend s p d q h payload).2 =
    svcPost (sendNoted s p d q h payload) p d q (sentRequest s d q h payload).h payload true := by
  show (if unreachable (sendNoted s p d q h payload) d then sendNoted s p d q h payload else _) = _
  split
  next hu => exact (if_pos hu).symm
  · rfl

/-- A request: it waits for its reply under the next MSG_ID. -/
theorem svcSend_messaged : Messaged s (svcSend s p d q h payload).2 p ∧
    ((svcSend s p d q h payload).2.part p).last.sent =
      (s.part p).last.sent.put (s.mgmt.nextMsgId + 1) (sentRequest s d q h payload) ∧
    (svcSend s p d q h payload).2.mgmt = { s.mgmt with nextMsgId := s.mgmt.nextMsgId + 1 } := by
  have hnoted : (sendNoted s p d q h payload).part p = (s.part p).noting (s.part p).last.received (s.part p).last.answers
      ((s.part p).last.sent.put (s.mgmt.nextMsgId + 1) (sentRequest s d q h payload)) := by
    simp only [sendNoted, modPLast_eq, setPart_part_same]
    rfl
  rw [svcSend_eq]
  refine ⟨.trans ⟨⟨_, _, _, hnoted⟩, rfl, rfl, rfl, rfl, rfl⟩ svcPost_messaged, ?_, ?_⟩
  · rw [part_of_parts svcPost_parts, hnoted]
    rfl
  · rw [svcPost_transports]
    rfl

/-! ### The holder's notes at the end of an operation -/

theorem setPart_setPart {x y : PartState} : (s.setPart p x).setPart p y = s.setPart p y := by
  simp [State.setPart, put_put]

theorem modHold_modHold {f g : PHold → PHold} : (s.modHold p f).modHold p g = s.modHold p fun h => g (f h) := by
  rw [modHold_eq, modHold_eq, setPart_part_same, setPart_setPart]
  rfl

/-- Without a move to post, the firmware notes its contexts and nothing else changes. -/
theorem holderOn_notes (h : (s.part p).hold.moves = []) : ∃ (ctxs : KMap Ctx) (blocked : PHold → Option Nat), holderOn s p =
    s.modHold p fun h => { h with ctxs := ctxs, blockedSince := blocked h } := by
  have he : holderOn s p = refreshCtxs s p := by simp [holderOn, h, postMoves]
  rw [he, refreshCtxs]
  exact ⟨_, _, modHold_modHold⟩

/-- The records being taken, and the HANDOFFs that wait, are as they were. -/
theorem holderOn_taking (h : (s.part p).hold.moves = []) :
    takingOf (holderOn s p) p tag = takingOf s p tag ∧
      ((holderOn s p).part p).hold.handoffs = (s.part p).hold.handoffs := by
  obtain ⟨ctxs, blocked, he⟩ := holderOn_notes h
  simp [he, takingOf]

end Sys2Proof.Machine
end

section
/-! # Requests handed from one pool to another -/

namespace Sys2Proof.Machine

variable {s t u : State} {p : Nat} {tag : BitVec 48} {h : SvcHdr} {x : SvcSent} {k : Taking} {l : Live}

/-! ### The TRANSFER reply (R166, R167) -/

/-- The request that a record becomes when this partition accepts it. -/
def acceptedLive (s : State) (p : Nat) (k : Taking) : Live := Live.joined s p
  { req := { k.req with holderDevice := s.fab.device.toNat, holderPartition := p }, charged := true, granted := true }

/-- The TRANSFER of the one copy is answered well: the record can be accepted. -/
theorem transferAnswered_ready (hk : takingOf s p h.tag = some k) (hready : k.ready = false) (hm : k.req.mirror = allOnes64)
    {r : SvcHdr} : transferAnswered s p h r 0 = takingReady s p h.tag := by
  simp [transferAnswered, hk, hready, hm]

theorem takingOf_tag (hk : takingOf s p tag = some k) : k.req.tag = tag := by simpa using List.find?_some hk

/-- The state in which the request `l` is in hand. -/
def withLive (s : State) (p : Nat) (l : Live) : State := s.modHold p fun y => { y with lives := y.lives ++ [l] }

/-- The answer 0x00 to the HANDOFF of a record: the partition names itself the holder. -/
def acceptance (s : State) (p : Nat) (k : Taking) : SvcHdr := { replyHdr s p k.h 0 with
  posA := freeTails s p k.req.model, value := holderValue s.fab.device.toNat p }

/-- Between steps the record becomes a request of the batch, and its HANDOFF is answered. -/
theorem takingReady_accepts (hk : takingOf s p tag = some k) (hstep : (s.part p).hold.step = none)
    (hr : recOf s p tag = none) : takingReady s p tag =
      svcReply (dropTaking (withLive s p (acceptedLive s p k)) p tag) p k.h
        (acceptance (dropTaking (withLive s p (acceptedLive s p k)) p tag) p k) [] := by
  have hnone : (recOf s p k.req.tag).isSome = false := by rw [takingOf_tag hk, hr]; rfl
  have haccepted : takingAccepted s p k =
      takingEnds (withLive s p (acceptedLive s p k)) p k 0 (holderValue s.fab.device.toNat p) := by
    show takingEnds (if (recOf s p k.req.tag).isSome then s else withLive s p (acceptedLive s p k)) p k 0 _ = _
    rw [hnone, if_neg (by decide)]
    rfl
  have hready : takingReady s p tag = takingAccepted s p k := by simp [takingReady, hk, hstep]
  rw [hready, haccepted, takingEnds, takingOf_tag hk]
  rfl

theorem recOf_withLive (hr : recOf s p tag = none) (hl : l.req.tag = tag) : recOf (withLive s p l) p tag = some l := by
  simp only [recOf] at hr ⊢
  simp [withLive, hr, hl]

theorem takingOf_dropTaking : takingOf (dropTaking s p tag) p tag = none := by
  simp [takingOf, dropTaking]

/-- While a step runs the record waits for its end. -/
theorem takingReady_waits (hk : takingOf s p tag = some k) (hstep : (s.part p).hold.step ≠ none) :
    takingReady s p tag = modTaking s p tag fun k => { k with ready := true } := by
  simp [takingReady, hk, Option.isSome_iff_ne_none.2 hstep]

theorem takingOf_modTaking {f : Taking → Taking} (hk : takingOf s p tag = some k) (hf : ∀ k, (f k).req = k.req) :
    takingOf (modTaking s p tag f) p tag = some (f k) := by
  have hkeeps : ((fun k : Taking => decide (k.req.tag = tag)) ∘ fun k => if k.req.tag = tag then f k else k) =
      fun k => decide (k.req.tag = tag) := by
    funext k
    by_cases h : k.req.tag = tag <;> simp [h, hf]
  simp only [takingOf] at hk
  simp only [takingOf, modTaking, modHold_eq, setPart_part_same, List.find?_map, hkeeps, hk, Option.map_some]
  exact congrArg some (if_pos (takingOf_tag hk))

section
variable {q : Part} {id : Nat} (hd : s.fab.device ≠ 0xFFFF) (h5 : s.code q.val = 5) (hr : h.reply = true)
  (h0 : h.status = 0) (hx : (s.part q.val).last.sent.find h.msgId = some x) (ho : x.h.op = h.op)
include hd h5 hr h0 hx ho

theorem exec_transferReply (h4 : h.op = 4) : exec (.transferReply q h) s =
    .next (holderOn (transferAnswered (withoutSent s q.val h.msgId) q.val x.h h 0) q.val) := by
  have hto : toPartner x = false := by simp [toPartner, ho, h4]
  show execTransferReply q h s = _
  rw [execTransferReply, if_pos h4, svcReplied_taken hd h5 hr h0 hx ho, svcOutcome, hto, if_neg (by decide), ho, h4]
  rfl

variable (hm : (s.part q.val).hold.moves = [])
include hm

theorem transferReply_accepts (h4 : h.op = 4) (hk : takingOf s q.val x.h.tag = some k) (hready : k.ready = false)
    (hmirror : k.req.mirror = allOnes64) (hstep : (s.part q.val).hold.step = none) (hrec : recOf s q.val x.h.tag = none)
    (hu : unreachable s k.h.fromDevice = false) :
    ∃ t l', exec (.transferReply q h) s = .next t ∧
      repliesThat s t k.h 0 (fun r => r.value = holderValue s.fab.device.toNat q.val) ∧
      liveOf t q.val x.h.tag = some l' ∧ l'.inBatch = true ∧ l'.req.phase = 4 ∧ l'.req.holderPartition = q.val ∧
      l'.req.tail = k.req.tail ∧ takingOf t q.val x.h.tag = none ∧ t.mem = s.mem := by
  let v := withoutSent s q.val h.msgId
  have hhold : (v.part q.val).hold = (s.part q.val).hold := by rw [withoutSent_part]
  have hk' : takingOf v q.val x.h.tag = some k := by rw [takingOf, hhold]; exact hk
  let u := dropTaking (withLive v q.val (acceptedLive v q.val k)) q.val x.h.tag
  have hans : transferAnswered v q.val x.h h 0 = svcReply u q.val k.h (acceptance u q.val k) [] :=
    (transferAnswered_ready hk' hready hmirror).trans
      (takingReady_accepts hk' (by rwa [hhold]) ((recOf_of_lives (congrArg PHold.lives hhold)).trans hrec))
  obtain ⟨hout, hmem, -⟩ := svcReply_sends (s := u) (p := q.val) (r := acceptance u q.val k) (payload := []) hu
  obtain ⟨hmsg, -⟩ := svcReply_messaged (s := u) (p := q.val) (h := k.h) (r := acceptance u q.val k) (payload := [])
  have hmoves : ((svcReply u q.val k.h (acceptance u q.val k) []).part q.val).hold.moves = [] := by
    rw [hmsg.hold]
    exact (by simp [u, dropTaking, withLive, hhold] : (u.part q.val).hold.moves = _).trans hm
  have hnote := holderOn_idle hmoves
  have hrec' : recOf u q.val x.h.tag = some (acceptedLive v q.val k) :=
    (recOf_of_lives (by simp [u, dropTaking])).trans
      (recOf_withLive ((recOf_of_lives (congrArg PHold.lives hhold)).trans hrec) (takingOf_tag hk))
  refine ⟨_, acceptedLive v q.val k, (exec_transferReply hd h5 hr h0 hx ho h4).trans (by rw [hans]),
    ⟨_, _, hnote.out.trans hout, rfl, rfl, rfl, rfl, rfl, rfl, rfl⟩, ?_, rfl, rfl, rfl, rfl, ?_, hnote.mem.trans hmem⟩
  · refine (liveOf_of_lives (hnote.lives.trans (congrArg PHold.lives hmsg.hold))).trans ?_
    rw [liveOf, hrec']
    rfl
  · rw [(holderOn_taking hmoves).1, takingOf, hmsg.hold]
    exact takingOf_dropTaking

theorem transferReply_waits (h4 : h.op = 4) (hk : takingOf s q.val x.h.tag = some k) (hready : k.ready = false)
    (hmirror : k.req.mirror = allOnes64) (hstep : (s.part q.val).hold.step ≠ none) :
    ∃ t, exec (.transferReply q h) s = .next t ∧ t.out = s.out ∧
      takingOf t q.val x.h.tag = some { k with ready := true } ∧
      (t.part q.val).hold.lives = (s.part q.val).hold.lives ∧ t.mem = s.mem := by
  let v := withoutSent s q.val h.msgId
  have hhold : (v.part q.val).hold = (s.part q.val).hold := by rw [withoutSent_part]
  have hk' : takingOf v q.val x.h.tag = some k := by rw [takingOf, hhold]; exact hk
  have hans : transferAnswered v q.val x.h h 0 = modTaking v q.val x.h.tag fun k => { k with ready := true } :=
    (transferAnswered_ready hk' hready hmirror).trans (takingReady_waits hk' (by rwa [hhold]))
  have hmoves : ((modTaking v q.val x.h.tag fun k => { k with ready := true }).part q.val).hold.moves = [] := by
    simp [modTaking, hhold, hm]
  have hnote := holderOn_idle hmoves
  refine ⟨_, (exec_transferReply hd h5 hr h0 hx ho h4).trans (by rw [hans]), hnote.out, ?_, hnote.lives.trans ?_, hnote.mem⟩
  · rw [(holderOn_taking hmoves).1]
    exact takingOf_modTaking hk' fun _ => rfl
  · simp [modTaking, hhold]

end

/-! ### The HANDOFF reply (R168, R181) -/

/-- What is noted of a target is neither of the requests nor of memory. -/
theorem noteTarget_leaves {i : Option Nat} : ((noteTarget s p i h).part p).hold = (s.part p).hold ∧
    (noteTarget s p i h).mem = s.mem ∧ (noteTarget s p i h).now = s.now := by
  unfold noteTarget
  split
  · exact ⟨rfl, rfl, rfl⟩
  · split
    · exact ⟨rfl, rfl, rfl⟩
    · exact ⟨by simp, rfl, rfl⟩

/-- The state in which the record of `tag` is freed and a forwarding entry names the new holder. -/
def forwarded (s : State) (p : Nat) (tag : BitVec 48) (w : Word) : State :=
  addForward (dropLive s p tag) p tag (bitsOf w.toNat 0 16) (bitsOf w.toNat 16 8)

theorem forwardCancel_messaged {dev part : Nat} {slots : List Nat} {msgs : List SvcHdr} :
    Messaged s (forwardCancel s p tag dev part slots msgs) p :=
  svcSend_messaged.1.trans ⟨⟨_, _, _, setPart_part_same ..⟩, rfl, rfl, rfl, rfl, rfl⟩

/-- Beside the forwarding entry, cancels taken meanwhile are sent on. -/
theorem handedTo_messaged {w : Word} (hl : liveOf s p tag = some l) :
    Messaged (forwarded s p tag w) (handedTo s p tag w) p := by
  simp only [handedTo, hl]
  split
  · exact .refl
  · exact forwardCancel_messaged

theorem forwarded_leaves {w : Word} : recOf (forwarded s p tag w) p tag = none ∧
    ((forwarded s p tag w).part p).hold.moves = (s.part p).hold.moves ∧
    ((forwarded s p tag w).part p).last.lastTarget = (s.part p).last.lastTarget ∧
    (∃ f ∈ ((forwarded s p tag w).part p).last.forwards, f.tag = tag ∧ f.device = w.toNat % 65536 ∧
      f.partition = w.toNat / 65536 % 256 ∧ f.at_ = s.now) ∧ (forwarded s p tag w).mem = s.mem := by
  refine ⟨(recOf_of_lives (s := dropLive s p tag) ?_).trans recOf_dropLive, ?_, ?_,
    ⟨{ tag := tag, device := bitsOf w.toNat 0 16, partition := bitsOf w.toNat 16 8, at_ := s.now }, ?_, rfl,
      by simp [bitsOf], rfl, rfl⟩, rfl⟩
  · simp [forwarded, addForward]
  · simp [forwarded, addForward, dropLive]
  · simp [forwarded, addForward, dropLive]
  · simp [forwarded, addForward, dropLive]

theorem handoffReply_accepted {q : Part} (hd : s.fab.device ≠ 0xFFFF) (h5 : s.code q.val = 5) (hr : h.reply = true)
    (h0 : h.status = 0) (hx : (s.part q.val).last.sent.find h.msgId = some x) (ho : x.h.op = h.op)
    (hm : (s.part q.val).hold.moves = []) (h6 : h.op = 6) (hl : liveOf s q.val x.h.tag = some l)
    (hphase : l.req.phase = 3) (hrel : l.releasing = false) :
    ∃ t, exec (.handoffReply q h) s = .next t ∧ liveOf t q.val x.h.tag = none ∧
      (∃ f ∈ (t.part q.val).last.forwards, f.tag = x.h.tag ∧ f.device = h.value.toNat % 65536 ∧
        f.partition = h.value.toNat / 65536 % 256 ∧ f.at_ = s.now) ∧
      (t.part q.val).last.lastTarget = l.handoffTo ∧ t.mem = s.mem := by
  have hto : toPartner x = false := by simp [toPartner, ho, h6]
  have hex : exec (.handoffReply q h) s =
      .next (holderOn (handoffAnswered (withoutSent s q.val h.msgId) q.val x.h h 0) q.val) := by
    show execHandoffReply q h s = _
    rw [execHandoffReply, if_pos h6, svcReplied_taken hd h5 hr h0 hx ho, svcOutcome, hto, if_neg (by decide), ho, h6]
    rfl
  let v := withoutSent s q.val h.msgId
  have hhold : (v.part q.val).hold = (s.part q.val).hold := by rw [withoutSent_part]
  have hl' : liveOf v q.val x.h.tag = some l := (liveOf_of_lives (congrArg PHold.lives hhold)).trans hl
  obtain ⟨hnoted, hmem, hnow⟩ := noteTarget_leaves (s := v) (p := q.val) (h := h) (i := l.handoffTo)
  let u := (noteTarget v q.val l.handoffTo h).modPLast q.val fun y => { y with lastTarget := l.handoffTo }
  have huhold : (u.part q.val).hold = (s.part q.val).hold := by
    refine Eq.trans ?_ (hnoted.trans hhold)
    simp [u]
  have hans : handoffAnswered v q.val x.h h 0 = handedTo u q.val x.h.tag h.value := by
    simp [handoffAnswered, hl', hphase, hrel]
    rfl
  have hmsg := handedTo_messaged (w := h.value) ((liveOf_of_lives (congrArg PHold.lives huhold)).trans hl)
  obtain ⟨hgone, hmoves, hlast, ⟨f, hf, htag, hdev, hpart, hat⟩, hfmem⟩ := forwarded_leaves (s := u) (p := q.val) (tag := x.h.tag) (w := h.value)
  have hidle : ((handedTo u q.val x.h.tag h.value).part q.val).hold.moves = [] := by
    rw [hmsg.hold, hmoves, huhold, hm]
  have hnote := holderOn_idle hidle
  refine ⟨_, hex.trans (by rw [hans]), ?_, ⟨f, ?_, htag, hdev, hpart, hat.trans hnow⟩, ?_, hnote.mem.trans (hmsg.mem.trans (hfmem.trans hmem))⟩
  · rw [liveOf, recOf_of_lives (hnote.lives.trans (congrArg PHold.lives hmsg.hold)), hgone]
    rfl
  · rw [hnote.last, hmsg.kept (f := PLast.forwards) fun _ _ _ _ => rfl]
    exact hf
  · rw [hnote.last, hmsg.kept (f := PLast.lastTarget) fun _ _ _ _ => rfl, hlast]
    simp [u]

/-! ### No reply in HO_TIMEOUT (R149) -/

/-- Cancel slot `k` shows the code `c`, and waits for nothing. -/
def slotEnded (s : State) (p k : Nat) (c : Byte) : Prop :=
  ((s.part p).last.cancels.at k {}).status = c ∧ ((s.part p).last.cancels.at k {}).armed = false

theorem cancelDone_leaves {k : Nat} {c : Byte} :
    slotEnded (cancelDone s p k c) p k c ∧ (∀ j, slotEnded s p j c → slotEnded (cancelDone s p k c) p j c) ∧
      ((cancelDone s p k c).part p).hold = (s.part p).hold ∧
      ((cancelDone s p k c).part p).last.sent = (s.part p).last.sent ∧ (cancelDone s p k c).mem = s.mem := by
  have hlast : ((cancelDone s p k c).part p).last = { (s.part p).last with
      cancels := (s.part p).last.cancels.put k { (s.part p).last.cancels.at k {} with armed := false, status := c } } := by
    unfold cancelDone
    dsimp only
    split
    · rw [part_of_parts (raisePart_parts ..)]
      exact modPLast_set.last
    · exact modPLast_set.last
  obtain ⟨hslot, hhold, hmem⟩ := cancelDone_slot (s := s) (p := p) (k := k) (c := c)
  have hended : slotEnded (cancelDone s p k c) p k c := by rw [slotEnded, hslot]; exact ⟨rfl, rfl⟩
  refine ⟨hended, fun j hj => ?_, hhold, by rw [hlast], hmem⟩
  by_cases hjk : j = k
  · exact hjk ▸ hended
  · rw [slotEnded, hlast, at_put_ne _ _ _ hjk]
    exact hj

/-- Every slot of a cancel that ends shows its code. -/
theorem cancelDones_leave {c : Byte} (slots : List Nat) :
    (∀ k, k ∈ slots ∨ slotEnded s p k c → slotEnded (slots.foldl (fun s k => cancelDone s p k c) s) p k c) ∧
      ((slots.foldl (fun s k => cancelDone s p k c) s).part p).hold = (s.part p).hold ∧
      ((slots.foldl (fun s k => cancelDone s p k c) s).part p).last.sent = (s.part p).last.sent ∧
      (slots.foldl (fun s k => cancelDone s p k c) s).mem = s.mem := by
  induction slots generalizing s with
  | nil => exact ⟨fun k hk => hk.resolve_left (by simp), rfl, rfl, rfl⟩
  | cons j slots ih =>
    obtain ⟨hended, hkeeps, hhold, hsent, hmem⟩ := cancelDone_leaves (s := s) (p := p) (k := j) (c := c)
    obtain ⟨hall, hhold', hsent', hmem'⟩ := ih (s := cancelDone s p j c)
    refine ⟨fun k hk => hall k ?_, hhold'.trans hhold, hsent'.trans hsent, hmem'.trans hmem⟩
    rcases hk with hk | hk
    · rcases List.mem_cons.1 hk with rfl | hk
      · exact .inr hended
      · exact .inl hk
    · exact .inr (hkeeps k hk)

/-- The messages of a cancel that ends are answered one after another. -/
theorem svcCodes_message {c : Byte} (msgs : List SvcHdr) : Messaged s (msgs.foldl (fun s h => svcCode s p h c) s) p ∧
    ((msgs.foldl (fun s h => svcCode s p h c) s).part p).last.sent = (s.part p).last.sent :=
  ⟨foldl_messaged (fun _ _ => svcCode_messaged.1) msgs,
    foldl_leaves (fun s : State => (s.part p).last.sent) (fun _ _ => svcCode_messaged.2) msgs s⟩

theorem serviceTimeout_ends {q : Part} {id : Nat} (hx : (s.part q.val).last.sent.find id = some x) (h7 : x.h.op = 7)
    (hat : x.sentAt + (s.part q.val).last.hoTimeout ≤ s.now) (hm : (s.part q.val).hold.moves = []) :
    ∃ t, exec (.serviceTimeout q id) s = .next t ∧
      (t.part q.val).last.sent = (s.part q.val).last.sent.del id ∧
      (∀ k ∈ x.slots, slotEnded t q.val k 3) ∧ t.mem = s.mem := by
  let v := withoutSent s q.val id
  have hex : exec (.serviceTimeout q id) s = .next (holderOn (cancelsEnd v q.val x.slots x.msgs 3) q.val) := by
    have hto : toPartner x = false := by simp [toPartner, h7]
    have hq : queues x = false := by simp [queues, h7]
    show execServiceTimeout q id s = _
    simp only [execServiceTimeout, hx, Nat.not_lt.2 hat, hq, svcFailed, svcEnds, svcOutcome, hto, h7]
    rfl
  obtain ⟨hslots, hhold, hsent, hmem⟩ := cancelDones_leave (s := v) (p := q.val) (c := 3) x.slots
  obtain ⟨hmsg, hsent'⟩ := svcCodes_message (s := x.slots.foldl (fun s k => cancelDone s q.val k 3) v) (p := q.val) (c := 3)
    x.msgs
  have hmoves : ((cancelsEnd v q.val x.slots x.msgs 3).part q.val).hold.moves = [] := by
    rw [cancelsEnd, hmsg.hold, hhold, withoutSent_part, hm]
  have hnote := holderOn_idle hmoves
  refine ⟨_, hex, ?_, fun k hk => ?_, hnote.mem.trans (hmsg.mem.trans hmem)⟩
  · rw [hnote.last, cancelsEnd, hsent', hsent, withoutSent_part]
  · have hended := hslots k (.inl hk)
    rw [slotEnded, hnote.last, cancelsEnd, hmsg.kept (f := PLast.cancels) fun _ _ _ _ => rfl]
    exact hended

/-! ### PHASE 0x03 past NEXT_DUE (R168, R174) -/

/-- The record of a request in PHASE 0x03 that ends. -/
def endedLive (l : Live) (c : Byte) : Live := { l with
  req := l.req.finish, handing := decide (l.req.phase = 3), finalCode := c
  finalNoToken := if l.req.phase = 5 then l.finalNoToken else true }

/-- The record of a request whose copies are being released. -/
def releasingLive (l : Live) : Live :=
  { l with releasing := true, due := [], flushTo := none, awaits := [], inBatch := false }

theorem sendReleases_leaves {discard : Bool} (hl : liveOf s p tag = some l) :
    Messaged (modLive s p tag fun l => { l with releaseDue := none, awaits := l.copies }) (sendReleases s p tag discard) p := by
  simp only [sendReleases, hl]
  exact foldl_messaged (fun _ _ => svcSend_messaged.1) l.copies

theorem finish_fields {r : Record} : r.finish.tag = r.tag ∧ r.finish.phase = 5 ∧ r.finish.last = r.last ∧
    r.finish.mirror = r.mirror ∧ r.finish.onMirror = r.onMirror := by
  unfold Record.finish
  split <;> exact ⟨rfl, rfl, rfl, rfl, rfl⟩

theorem endedLive_copies {c : Byte} : (endedLive l c).copies = l.copies := by
  obtain ⟨-, -, hlast, hmirror, hon⟩ := finish_fields (r := l.req)
  simp [Live.copies, endedLive, hlast, hmirror, hon]

/-- The state in which the copies of the request `tag`, which has ended, are being released. -/
def releasingState (s : State) (p : Nat) (tag : BitVec 48) (c : Byte) : State :=
  modLive (dropMoves (modLive s p tag fun l => endedLive l c) p tag) p tag releasingLive

theorem liveOf_releasingState {c : Byte} (hl : liveOf s p tag = some l) :
    liveOf (releasingState s p tag c) p tag = some (releasingLive (endedLive l c)) :=
  liveOf_modLive ((liveOf_of_lives (by simp [dropMoves])).trans
    (liveOf_modLive (f := fun l => endedLive l c) hl (fun _ => finish_fields.1) rfl)) (fun _ => rfl) rfl

/-- A granted request that ends releases its copies, once its writes in progress have ended. -/
theorem endWith_releases {c : Byte} {discard : Bool} (hl : liveOf s p tag = some l) (hrel : l.releasing = false)
    (hg : l.granted = true) (hcopies : l.copies ≠ []) :
    ∃ t l', endWith s p tag c discard = t ∧ liveOf t p tag = some l' ∧ l'.releasing = true ∧ l'.req.phase = 5 ∧
      l'.finalCode = c ∧ l'.finalNoToken = (endedLive l c).finalNoToken ∧
      ((s.part p).hold.moves = [] → (t.part p).hold.moves = []) ∧ t.mem = s.mem ∧ t.lanes = s.lanes := by
  have hended := liveOf_modLive (f := fun l => endedLive l c) hl (fun _ => finish_fields.1) rfl
  have hreleasing := liveOf_releasingState (c := c) hl
  have hcopies' : (endedLive l c).copies ≠ [] := by rwa [endedLive_copies]
  have hend : endWith s p tag c discard = releaseCopies (modLive s p tag fun l => endedLive l c) p tag discard := by
    simp only [endWith, hl, hrel]
    rfl
  have hrelease : releaseCopies (modLive s p tag fun l => endedLive l c) p tag discard =
      if writing (releasingState s p tag c) p (endedLive l c) then
        modLive (releasingState s p tag c) p tag fun l => { l with releaseDue := some discard }
      else sendReleases (releasingState s p tag c) p tag discard := by
    unfold releaseCopies
    rw [hended]
    dsimp only
    rw [if_neg (not_or.2 ⟨by simp [endedLive, hg], hcopies'⟩)]
    rfl
  have hmoves : (s.part p).hold.moves = [] → ((releasingState s p tag c).part p).hold.moves = [] := fun hm => by
    simp [releasingState, modLive, dropMoves, hm]
  rw [hend, hrelease]
  split
  · exact ⟨_, _, rfl, liveOf_modLive hreleasing (fun _ => rfl) rfl, rfl, finish_fields.2.1, rfl, rfl,
      fun hm => by simpa [modLive] using hmoves hm, rfl, rfl⟩
  · have hmsg := sendReleases_leaves (discard := discard) hreleasing
    refine ⟨_, _, rfl, (liveOf_of_lives (congrArg PHold.lives hmsg.hold)).trans
      (liveOf_modLive hreleasing (fun _ => rfl) rfl), rfl, finish_fields.2.1, rfl, rfl, fun hm => ?_, hmsg.mem, hmsg.lanes⟩
    rw [hmsg.hold]
    simpa [modLive] using hmoves hm

theorem handoffNextDue_releases {q : Part} (hl : liveOf s q.val tag = some l) (hphase : l.req.phase = 3)
    (hrel : l.releasing = false) (hg : l.granted = true) (hcopies : l.copies ≠ []) (hdue : l.req.nextDue < s.now)
    (hm : (s.part q.val).hold.moves = []) :
    ∃ t l', exec (.handoffNextDue q tag) s = .next t ∧ liveOf t q.val tag = some l' ∧ l'.releasing = true ∧
      l'.req.phase = 5 ∧ l'.finalCode = (if l.req.cancel then 0 else 0x0B) ∧ l'.finalNoToken = true ∧
      t.mem = s.mem ∧ t.lanes = s.lanes := by
  obtain ⟨t, l', hend, hl', hrel', h5, hcode, hfinal, hmoves, hmem, hlanes⟩ := endWith_releases
    (c := if l.req.cancel then 0 else 0x0B) (discard := l.req.cancel) hl hrel hg hcopies
  have hnote := holderOn_idle (hmoves hm)
  refine ⟨_, l', ?_, (liveOf_of_lives hnote.lives).trans hl', hrel', h5, hcode, hfinal.trans (by simp [endedLive, hphase]),
    hnote.mem.trans hmem, hnote.lanes.trans hlanes⟩
  show execHandoffNextDue q tag s = _
  simp only [execHandoffNextDue, hl, hphase, hrel, hdue, and_self, if_true, hend]

/-! ### Forwarding entries (R181) -/

theorem forwardingExpire_expires {q : Part} : ∃ t, exec (.forwardingExpire q tag) s = .next t ∧
    (∀ f, f ∈ (t.part q.val).last.forwards ↔
      f ∈ (s.part q.val).last.forwards ∧ (f.tag ≠ tag ∨ s.now < f.at_ + 2000000)) ∧ t.out = s.out ∧ t.mem = s.mem :=
  ⟨_, rfl, fun f => by simp, rfl, rfl⟩

/-! ### HANDOFF (R162 to R165) -/

/-- The record of a HANDOFF as it arrives: NEXT_DUE is a value of this module's counter (R15, R164). -/
def arrivedRecord (s : State) (record : List Byte) : Record :=
  { recordOf record with nextDue := fromRemaining s (recordOf record).nextDue }

/-- The record that a HANDOFF brings, with tail `a` reserved for it. -/
def reservedTaking (h : SvcHdr) (r : Record) (a : Nat) : Taking :=
  { req := { r with tail := BitVec.ofNat 64 a, firstDue := 0xFFFF_FFFF_FFFF_FFFF }, h := h }

/-- The state in which the record `k` is being taken. -/
def withTaking (s : State) (p : Nat) (k : Taking) : State := s.modHold p fun y => { y with taking := y.taking ++ [k] }

@[simp] theorem usedTails_withReceived : usedTails (withReceived s p h) p = usedTails s p := by
  simp only [usedTails, withReceived_part]
  rfl

@[simp] theorem freeTails_withReceived {m : Nat} : freeTails (withReceived s p h) p m = freeTails s p m := by
  simp only [freeTails, usedTails_withReceived]
  rfl

@[simp] theorem freeTail_withReceived {m : Nat} : freeTail (withReceived s p h) p m = freeTail s p m := by
  simp only [freeTail, usedTails_withReceived]
  rfl

@[simp] theorem fitsNoSlot_withReceived {m : Nat} : fitsNoSlot (withReceived s p h) p m = fitsNoSlot s p m := rfl

theorem modelSet_eq {m : Nat} : modelSet s p m = (((s.piece p).map PartPiece.modelMask).getD 0).testBit m := by
  unfold modelSet
  cases s.piece p <;> simp

/-- The answer 0x0B to a HANDOFF: the free tails of its model. -/
def refusal (s : State) (p : Nat) (h : SvcHdr) (m : Nat) : SvcHdr :=
  { replyHdr s p h 0x0B with posA := freeTails s p m }

theorem takeHandoff_refuses {r : Record} (hmodel : modelSet s p r.model = false) :
    takeHandoff s p h r = svcReply s p h (refusal s p h r.model) [] := by
  unfold takeHandoff
  dsimp only
  rw [← modelSet_eq, hmodel, if_neg (by simp)]
  rfl

theorem takeHandoff_reserves {r : Record} {a : Nat} (hmodel : modelSet s p r.model = true)
    (hfits : fitsNoSlot s p r.model = false) (ha : freeTail s p r.model = some a) :
    takeHandoff s p h r = sendTransfer (withTaking s p (reservedTaking h r a)) p (reservedTaking h r a)
      (if r.onMirror then r.mirror else r.last) := by
  unfold takeHandoff
  dsimp only
  rw [← modelSet_eq, hmodel, hfits, if_pos (by decide), ha]
  rfl

/-- The TRANSFER of the copy `w`: it names the sender of the HANDOFF as the holder expected (R165). -/
def transferRequest (s : State) (p : Nat) (k : Taking) (w : Word) : SvcHdr := { requestHdr s p 4 k.req.tag w with
  handoffSeq := k.req.handoffSeq, value := holderValue k.h.fromDevice k.h.fromPartition }

theorem sendTransfer_eq {w : Word} : sendTransfer s p k w =
    (svcSend s p (handleDevice w) (handlePart w) (transferRequest s p k w) []).2 := rfl

theorem sendTransfer_sends {w : Word} : Messaged s (sendTransfer s p k w) p ∧
    ∃ id y, ((sendTransfer s p k w).part p).last.sent.find id = some y ∧ y.h.op = 4 ∧
      y.h.value = holderValue k.h.fromDevice k.h.fromPartition := by
  rw [sendTransfer_eq]
  refine ⟨svcSend_messaged.1, s.mgmt.nextMsgId + 1,
    sentRequest s (handleDevice w) (handlePart w) (transferRequest s p k w) [], ?_, rfl, rfl⟩
  rw [svcSend_messaged.2.1]
  exact find_put_same ..

section
variable {q : Part} {record : List Byte} (ht : serviceTaken s q.val 6 h) (h1 : s.role q.val = 1)
  (hm : (s.part q.val).hold.moves = [])
include ht h1

theorem exec_handoff : exec (.handoff q h record) s = .next (holderOn
    (if (s.part q.val).hold.step.isSome then
      (withReceived s q.val h).modHold q.val fun y => { y with handoffs := y.handoffs ++ [(h, arrivedRecord s record)] }
    else handoffTurn (withReceived s q.val h) q.val (h, arrivedRecord s record)) q.val) := by
  have hserves : decide (s.role q.val = 1) = true := by simp [h1]
  show execHandoff q h record s = _
  rw [execHandoff, serveHandoff, hserves, svcReceive_taken ht, ← withReceived]
  dsimp only
  rw [withReceived_part]
  rfl

/-- Between steps, and with no other record of the tag being taken, a HANDOFF is taken at once. -/
theorem exec_handoff_takes (hstep : (s.part q.val).hold.step = none)
    (hk : takingOf s q.val (recordOf record).tag = none) : exec (.handoff q h record) s =
    .next (holderOn (takeHandoff (withReceived s q.val h) q.val h (arrivedRecord s record)) q.val) := by
  have hfree : (takingOf (withReceived s q.val h) q.val (recordOf record).tag).isSome = false := by
    rw [takingOf, withReceived_part]
    exact congrArg Option.isSome hk
  rw [exec_handoff ht h1, hstep]
  simp only [Option.isSome_none, Bool.false_eq_true, if_false, handoffTurn]
  rw [if_neg (by rw [show (arrivedRecord s record).tag = (recordOf record).tag from rfl, hfree]; decide)]

include hm

theorem handoff_waits (hstep : (s.part q.val).hold.step ≠ none) :
    ∃ t r, exec (.handoff q h record) s = .next t ∧ t.out = s.out ∧
      (t.part q.val).hold.handoffs = (s.part q.val).hold.handoffs ++ [(h, r)] ∧ r = arrivedRecord s record ∧
      t.mem = s.mem := by
  have hmoves : (((withReceived s q.val h).modHold q.val fun y => { y with
      handoffs := y.handoffs ++ [(h, arrivedRecord s record)] }).part q.val).hold.moves = [] := by
    simp [withReceived_part, hm]
  have hnote := holderOn_idle hmoves
  refine ⟨_, _, (exec_handoff ht h1).trans (by rw [if_pos (Option.isSome_iff_ne_none.2 hstep)]), hnote.out, ?_, rfl, hnote.mem⟩
  rw [(holderOn_taking (tag := 0) hmoves).2]
  simp [withReceived_part]

variable (hstep : (s.part q.val).hold.step = none) (hk : takingOf s q.val (recordOf record).tag = none)
include hstep hk

theorem handoff_refused (hmodel : modelSet s q.val (recordOf record).model = false) :
    ∃ t, exec (.handoff q h record) s = .next t ∧
      repliesThat s t h 0x0B (fun r => r.posA = freeTails s q.val (recordOf record).model) ∧
      (t.part q.val).hold.lives = (s.part q.val).hold.lives ∧ t.mem = s.mem := by
  have htake := takeHandoff_refuses (s := withReceived s q.val h) (h := h) (r := arrivedRecord s record) hmodel
  obtain ⟨hout, hmem, -⟩ := svcReply_sends (s := withReceived s q.val h) (p := q.val) (payload := [])
    (r := refusal (withReceived s q.val h) q.val h (recordOf record).model) ht.1
  obtain ⟨hmsg, -⟩ := svcReply_messaged (s := withReceived s q.val h) (p := q.val) (h := h) (payload := [])
    (r := refusal (withReceived s q.val h) q.val h (recordOf record).model)
  have hhold := hmsg.hold
  rw [withReceived_part] at hhold
  have hnote := holderOn_idle ((congrArg PHold.moves hhold).trans hm)
  exact ⟨_, (exec_handoff_takes ht h1 hstep hk).trans (by rw [htake]; rfl),
    ⟨_, _, hnote.out.trans hout, rfl, rfl, rfl, rfl, rfl, rfl, freeTails_withReceived⟩,
    hnote.lives.trans (congrArg PHold.lives hhold), hnote.mem.trans hmem⟩

theorem handoff_taken {a : Nat} (hmodel : modelSet s q.val (recordOf record).model = true)
    (ha : freeTail s q.val (recordOf record).model = some a)
    (hfits : fitsNoSlot s q.val (recordOf record).model = false) :
    ∃ t k, exec (.handoff q h record) s = .next t ∧
      takingOf t q.val (recordOf record).tag = some k ∧ k.h = h ∧ k.req.tail = BitVec.ofNat 64 a ∧
      k.req.nextDue = fromRemaining s (recordOf record).nextDue ∧
      (t.part q.val).hold.lives = (s.part q.val).hold.lives ∧
      (∃ id y, (t.part q.val).last.sent.find id = some y ∧ y.h.op = 4 ∧
        y.h.value = holderValue h.fromDevice h.fromPartition) ∧ t.mem = s.mem := by
  let v := withTaking (withReceived s q.val h) q.val (reservedTaking h (arrivedRecord s record) a)
  have htake := takeHandoff_reserves (s := withReceived s q.val h) (p := q.val) (h := h) (r := arrivedRecord s record)
    (a := a) hmodel ((fitsNoSlot_withReceived).trans hfits) (freeTail_withReceived.trans ha)
  obtain ⟨hmsg, id, y, hsent, h4, hvalue⟩ := sendTransfer_sends (s := v) (p := q.val)
    (k := reservedTaking h (arrivedRecord s record) a)
    (w := if (recordOf record).onMirror then (recordOf record).mirror else (recordOf record).last)
  have hhold : (v.part q.val).hold = { (s.part q.val).hold with
      taking := (s.part q.val).hold.taking ++ [reservedTaking h (arrivedRecord s record) a] } := by
    simp [v, withTaking, withReceived_part]
  rw [← hmsg.hold] at hhold
  have hmoves := (congrArg PHold.moves hhold).trans hm
  have hnote := holderOn_idle hmoves
  refine ⟨_, reservedTaking h (arrivedRecord s record) a, (exec_handoff_takes ht h1 hstep hk).trans (by rw [htake]; rfl), ?_,
    rfl, rfl, rfl, hnote.lives.trans (by rw [hhold]), ⟨id, y, hnote.last ▸ hsent, h4, hvalue⟩,
    hnote.mem.trans hmsg.mem⟩
  rw [(holderOn_taking hmoves).1, takingOf, hhold]
  rw [takingOf] at hk
  simp [hk, reservedTaking, arrivedRecord]

end

/-- Settles O18: each clause by what its message or its time brings about. -/
theorem handOffsMoveRequests : Obligations.HandOffsMoveRequests := by
  refine ⟨fun q h x s hd h5 hr h0 hx ho hm => ⟨fun k h4 hk hready hmirror =>
      ⟨transferReply_accepts hd h5 hr h0 hx ho hm h4 hk hready hmirror,
        transferReply_waits hd h5 hr h0 hx ho hm h4 hk hready hmirror⟩,
      fun l => handoffReply_accepted hd h5 hr h0 hx ho hm⟩,
    fun q id x s => serviceTimeout_ends, fun q tag l s => handoffNextDue_releases, fun q tag s => forwardingExpire_expires,
    fun q h record s ht h1 hm => ⟨handoff_waits ht h1 hm, fun hstep hk => ⟨handoff_refused ht h1 hm hstep hk,
      fun a hmodel ha hfits => handoff_taken ht h1 hm hstep hk hmodel ha hfits⟩⟩⟩

end Sys2Proof.Machine
end
section
/-! # Steps that fail

Nothing that ends a request touches the step in flight, the partition's fault registers, or, where it has none, the
descriptors that wait for a ring (`RunKept`). -/

namespace Sys2Proof.Machine

variable {s t u : State} {p : Nat} {tag : BitVec 48} {l : Live}

/-- From `s` to `t` the step in flight and the fault registers of partition `p` are as they were, and no descriptor came to
wait for a ring where none did. -/
structure RunKept (s t : State) (p : Nat) : Prop where
  step : (t.part p).hold.step = (s.part p).hold.step
  fault : (t.part p).fault = (s.part p).fault
  moves : (s.part p).hold.moves = [] → (t.part p).hold.moves = []

theorem RunKept.refl : RunKept s s p := ⟨rfl, rfl, id⟩

theorem RunKept.trans (h : RunKept s u p) (h' : RunKept u t p) : RunKept s t p :=
  ⟨h'.step.trans h.step, h'.fault.trans h.fault, fun hm => h'.moves (h.moves hm)⟩

theorem runKept_of_part (h : (t.part p).hold = (s.part p).hold) (hf : (t.part p).fault = (s.part p).fault) :
    RunKept s t p := ⟨by rw [h], hf, fun hm => by rw [h, hm]⟩

theorem runKept_of_parts (h : t.parts = s.parts) : RunKept s t p := by
  have hpart := part_of_parts (q := p) h
  exact runKept_of_part (by rw [hpart]) (by rw [hpart])

theorem Messaged.runKept (h : Messaged s t p) : RunKept s t p := by
  obtain ⟨_, _, _, hpart⟩ := h.part
  exact runKept_of_part (by rw [hpart]; rfl) (by rw [hpart]; rfl)

theorem modHold_runKept {f : PHold → PHold} (hstep : (f (s.part p).hold).step = (s.part p).hold.step)
    (hmoves : (s.part p).hold.moves = [] → (f (s.part p).hold).moves = []) : RunKept s (s.modHold p f) p :=
  ⟨by simpa using hstep, by simp, fun hm => by simpa using hmoves hm⟩

theorem modLive_runKept {f : Live → Live} : RunKept s (modLive s p tag f) p := modHold_runKept rfl id

theorem dropMoves_runKept : RunKept s (dropMoves s p tag) p := modHold_runKept rfl fun h => by simp [h]

theorem foldl_runKept {α : Type} {f : State → α → State} (hf : ∀ s a, RunKept s (f s a) p) (xs : List α) :
    RunKept s (xs.foldl f s) p := by
  induction xs generalizing s with
  | nil => exact .refl
  | cons a xs ih => exact (hf s a).trans ih

/-! ### What ends a request (R170, R174, R179) -/

theorem cancelDone_runKept {k : Nat} {c : Byte} : RunKept s (cancelDone s p k c) p := by
  have hparts : RunKept s (s.modPLast p fun l => { l with
      cancels := l.cancels.put k { (s.part p).last.cancels.at k {} with armed := false, status := c } }) p :=
    runKept_of_part (by simp) (by simp)
  unfold cancelDone
  dsimp only
  split
  · exact hparts.trans (runKept_of_parts (raisePart_parts ..))
  · exact hparts

theorem cancelsEnd_runKept {slots : List Nat} {msgs : List SvcHdr} {c : Byte} :
    RunKept s (cancelsEnd s p slots msgs c) p :=
  (foldl_runKept (fun _ _ => cancelDone_runKept) slots).trans
    (foldl_runKept (fun _ _ => svcCode_messaged.1.runKept) msgs)

theorem itemEmitted_runKept {x : OutItem} : RunKept s (itemEmitted s p x) p := by
  unfold itemEmitted
  dsimp only
  split
  · exact .refl
  · split
    · exact modHold_runKept rfl id
    · exact modLive_runKept

theorem liveItem_runKept {it : Item} : RunKept s (liveItem s p it) p := by
  unfold liveItem emitItem
  split
  · split
    · exact (runKept_of_parts laneGive_parts).trans itemEmitted_runKept
    · exact modHold_runKept rfl id
  · exact modHold_runKept rfl id

/-- Lowering the references of a node sends a request, and changes nothing else. -/
theorem lowerRefs_onlyFab : onlyFab s (lowerRefs s p l) := by
  unfold lowerRefs
  split
  next i n _ _ =>
    split
    · unfold lowerNode walkerAdd walkerSend
      cases hx : xtSubmit s (spTableAt s p i).device 2 _ with
      | none => rfl
      | some t => exact xtSubmit_onlyFab hx
    · rfl
  · rfl

theorem finalItem_runKept : RunKept s (finalItem s p tag) p := by
  unfold finalItem
  split
  · exact .refl
  next l _ =>
    have hlower : RunKept s (lowerRefs s p l) p := runKept_of_parts lowerRefs_onlyFab.rest.2.2
    exact hlower.trans (dropMoves_runKept.trans (cancelsEnd_runKept.trans (modLive_runKept.trans liveItem_runKept)))

theorem releaseCopies_runKept {discard : Bool} : RunKept s (releaseCopies s p tag discard) p := by
  have sends (s : State) : RunKept s (sendReleases s p tag discard) p := by
    unfold sendReleases
    split
    · exact .refl
    · exact modLive_runKept.trans (foldl_runKept (fun _ _ => svcSend_messaged.1.runKept) _)
  unfold releaseCopies
  split
  · exact .refl
  · split
    · exact finalItem_runKept
    · dsimp only
      split
      · exact dropMoves_runKept.trans (modLive_runKept.trans modLive_runKept)
      · exact dropMoves_runKept.trans (modLive_runKept.trans (sends _))

theorem endWith_runKept {c : Byte} {discard : Bool} : RunKept s (endWith s p tag c discard) p := by
  unfold endWith
  split
  · exact .refl
  · split
    · exact .refl
    · exact modLive_runKept.trans releaseCopies_runKept

theorem endNow_runKept {c : Byte} : RunKept s (endNow s p tag c) p := by
  have hleave : (leaveHold s p tag).parts = s.parts := by
    unfold leaveHold
    split
    · rfl
    · split <;> rfl
  exact (runKept_of_parts hleave).trans (modLive_runKept.trans finalItem_runKept)

theorem endEarly_runKept {c : Byte} : RunKept s (endEarly s p tag c) p := by
  unfold endEarly
  split
  · exact .refl
  · split
    · exact .refl
    · split
      · exact endNow_runKept
      · split
        · exact modLive_runKept
        · exact endWith_runKept

theorem endRunning_runKept {c : Byte} : RunKept s (endRunning s p tag c) p := by
  unfold endRunning
  split
  · exact .refl
  · split
    · exact endEarly_runKept
    · exact endWith_runKept

/-! ### The end of the step (R496) -/

theorem holderOn_runKept (h : (s.part p).hold.moves = []) : RunKept s (holderOn s p) p := by
  obtain ⟨ctxs, blocked, he⟩ := holderOn_notes h
  rw [he]
  exact modHold_runKept rfl id

theorem endStep_ends {c : Byte} {st : StepRun} (hst : (s.part p).hold.step = some st) :
    ((endStep s p c).part p).hold.step = none ∧ ((endStep s p c).part p).fault = (s.part p).fault ∧
      ((s.part p).hold.moves = [] → ((endStep s p c).part p).hold.moves = []) := by
  unfold endStep
  rw [hst]
  have hall := foldl_runKept (s := s.modHold p fun h => { h with step := none }) (p := p)
    (f := fun s tag => match liveOf s p tag with
      | none => s
      | some l => if l.req.phase ≤ 4 then endRunning s p tag c else s) (fun s tag => by
        split
        · exact .refl
        · split
          · exact endRunning_runKept
          · exact .refl) st.streams
  exact ⟨hall.step.trans (by simp), hall.fault.trans (by simp), fun hm => hall.moves (by simpa using hm)⟩

/-- The state in which the fault registers hold the code of a step that failed. -/
def failNoted (s : State) (p : Nat) (c : Byte) : State :=
  s.setPFault p { (s.part p).fault with lastCode := c, replayRun := (s.part p).fault.replayRun + 1 }

theorem stepFails_ends {st : StepRun} {c : Byte} (hc : c = 2 ∨ c = 0x0B ∨ c = 0x0D) :
    stepFails s p st c = endStep (failNoted s p c) p c := by
  have hne : c ≠ 0x0F := by
    rintro rfl
    exact absurd hc (by decide)
  unfold stepFails
  dsimp only
  rw [if_neg hne, if_pos hc]
  rfl

theorem endStep_mem {c : Byte} : (endStep s p c).mem = s.mem :=
  congrArg Prod.fst (endStep_holds (I := keepsMemory (s.mem, s.badWords)) (keepsMemory_free (by decide)) rfl)

theorem stepCommit_fails {q : Part} {st : StepRun} (h5 : s.code q.val = 5) (hst : (s.part q.val).hold.step = some st)
    (hfailed : st.failed = true) (hreplay : st.replay = false) (hm : (s.part q.val).hold.moves = [])
    (hc : st.code = 2 ∨ st.code = 0x0B ∨ st.code = 0x0D) :
    ∃ t, exec (.stepCommit q []) s = .next t ∧ (t.part q.val).hold.step = none ∧
      (t.part q.val).fault.lastCode = st.code ∧ t.mem = s.mem := by
  have hst' : ((failNoted s q.val st.code).part q.val).hold.step = some st := by simpa [failNoted] using hst
  obtain ⟨hstep, hfault, hmoves⟩ := endStep_ends (c := st.code) hst'
  have hidle := hmoves (by simpa [failNoted] using hm)
  have hnotes := holderOn_runKept hidle
  have hex : exec (.stepCommit q []) s = .next (holderOn (endStep (failNoted s q.val st.code) q.val st.code) q.val) := by
    show execStepCommit q [] s = _
    simp [execStepCommit, hst, h5, hreplay, hfailed, stepFails_ends hc]
  refine ⟨_, hex, hnotes.step.trans hstep, ?_, (holderOn_idle hidle).mem.trans endStep_mem⟩
  rw [hnotes.fault, hfault]
  simp [failNoted]

end Sys2Proof.Machine
end
section
/-! # Steps that commit

What a step brings about is in the records of the requests and in the output lane; the rest of the state is as it was
(`SameRun` for what touches no lane). -/

namespace Sys2Proof.Machine

variable {s t u : State} {p : Nat} {tag : BitVec 48} {l : Live} {st : StepRun} {x : BitVec 32}

/-- From `s` to `t` nothing changed but what partition `p` keeps, and there neither the step in flight nor what waits for
a ring or for the output lane. -/
structure SameRun (s t : State) (p : Nat) : Prop where
  rest : t = { s with parts := t.parts }
  step : (t.part p).hold.step = (s.part p).hold.step
  moves : (t.part p).hold.moves = (s.part p).hold.moves
  backlog : (t.part p).hold.backlog = (s.part p).hold.backlog

theorem SameRun.refl : SameRun s s p := ⟨rfl, rfl, rfl, rfl⟩

theorem SameRun.trans (h : SameRun s u p) (h' : SameRun u t p) : SameRun s t p := by
  refine ⟨?_, h'.step.trans h.step, h'.moves.trans h.moves, h'.backlog.trans h.backlog⟩
  rw [h'.rest, h.rest]

theorem SameRun.fields (h : SameRun s t p) : t.lanes = s.lanes ∧ t.mem = s.mem ∧ t.out = s.out ∧ t.pattern = s.pattern := by
  rw [h.rest]
  exact ⟨rfl, rfl, rfl, rfl⟩

theorem modHold_sameRun {f : PHold → PHold} (hstep : (f (s.part p).hold).step = (s.part p).hold.step)
    (hmoves : (f (s.part p).hold).moves = (s.part p).hold.moves)
    (hbacklog : (f (s.part p).hold).backlog = (s.part p).hold.backlog) : SameRun s (s.modHold p f) p :=
  ⟨rfl, by simpa using hstep, by simpa using hmoves, by simpa using hbacklog⟩

theorem modLive_sameRun {f : Live → Live} : SameRun s (modLive s p tag f) p := modHold_sameRun rfl rfl rfl

/-! ### A tail with nothing to send (R136, R172) -/

/-- Without a COMMIT to send, the record of the request stays as it is. -/
theorem sendDue_none (hl : liveOf s p tag = some l) (hdue : l.due = []) :
    SameRun s (sendDue s p tag) p ∧ liveOf (sendDue s p tag) p tag = some l := by
  refine ⟨?_, (sendDue_idle hl hdue).2⟩
  unfold sendDue
  simp only [hl, hdue, List.filter_nil, List.foldl_nil]
  exact modLive_sameRun

/-- A tail shorter than the next 64 positions is not flushed, and before PHASE 0x04 there is none. -/
theorem flushTail_none {fuel : Nat} (hl : liveOf s p tag = some l) (h5 : l.req.phase ≠ 5)
    (hs : l.req.phase = 4 → l.req.seq < l.flushedTo + 64) : flushTail fuel s p tag = s := by
  by_cases h4 : l.req.phase = 4
  · exact flushTail_short hl h4 (hs h4)
  · cases fuel with
    | zero => rfl
    | succ n => simp [flushTail, hl, h4, h5]

theorem flushOn_none (hl : liveOf s p tag = some l) (h5 : l.req.phase ≠ 5) (hdue : l.due = [])
    (hs : l.req.phase = 4 → l.req.seq < l.flushedTo + 64) :
    SameRun s (flushOn s p tag) p ∧ liveOf (flushOn s p tag) p tag = some l := by
  obtain ⟨hrun, hl1⟩ := sendDue_none hl hdue
  obtain ⟨hrun', hl2⟩ := sendDue_none hl1 hdue
  have he : flushOn s p tag = sendDue (sendDue s p tag) p tag := by
    simp [flushOn, flushTail_none hl1 h5 hs, releaseIfDurable, hl2, h5]
  rw [he]
  exact ⟨hrun.trans hrun', hl2⟩

/-! ### An item of a request for the output lane (R69) -/

/-- A change of the records of one tag is seen in the record of any. -/
theorem recOf_modLive_any {tag' : BitVec 48} {f : Live → Live} (hf : ∀ l, (f l).req.tag = l.req.tag) :
    recOf (modLive s p tag' f) p tag = (recOf s p tag).map fun l => if l.req.tag = tag' then f l else l := by
  have hkeeps : ((fun l : Live => decide (l.req.tag = tag)) ∘ fun l => if l.req.tag = tag' then f l else l) =
      fun l => decide (l.req.tag = tag) := by
    funext l
    by_cases h : l.req.tag = tag' <;> simp [h, hf]
  simp only [recOf, modLive, modHold_eq, setPart_part_same, List.find?_map, hkeeps]

theorem liveOf_modReq_any {tag' : BitVec 48} {f : Record → Record} (hl : liveOf s p tag = some l)
    (hf : ∀ r, (f r).tag = r.tag) :
    liveOf (modReq s p tag' f) p tag = some (if l.req.tag = tag' then { l with req := f l.req } else l) := by
  obtain ⟨hr, hend⟩ := recOf_of_liveOf hl
  rw [liveOf, modReq, recOf_modLive_any fun l => hf l.req, hr, Option.map_some]
  split <;> simp [hend]

/-- The record once an item of its request has left at `now`. -/
def restartDue (now : Nat) (r : Record) : Record :=
  { r with nextDue := if r.nextLimit = 0 then 0xFFFF_FFFF_FFFF_FFFF else now + r.nextLimit }

/-- An item that is not final, written to the lane, starts NEXT_DUE of its request again. -/
theorem itemEmitted_goesOn {it : Item} (hl : liveOf s p tag = some l) (hf : (itemFld it 2 1).testBit 0 = false) :
    SameRun s (itemEmitted s p { item := it, mine := true }) p ∧ ∃ due,
      liveOf (itemEmitted s p { item := it, mine := true }) p tag = some { l with req := { l.req with nextDue := due } } := by
  have he : itemEmitted s p { item := it, mine := true } = modReq s p (itemTag it) (restartDue s.now) := by
    simp only [itemEmitted, Bool.not_true, Bool.false_eq_true, if_false, hf]
    rfl
  rw [he, liveOf_modReq_any (f := restartDue s.now) hl fun _ => rfl]
  refine ⟨modLive_sameRun, ?_⟩
  split
  · exact ⟨_, rfl⟩
  · exact ⟨l.req.nextDue, rfl⟩

/-- The output lane `o` of partition `p` is `ol`, it has room, and nothing waits for it. -/
structure LaneOpen (s : State) (p o : Nat) (ol : Lane) : Prop where
  lane : outputLane s p = some o
  found : s.lanes.find o = some ol
  room : ol.items.length < 16
  reads : ol.portReads = []
  writes : ol.portWrites = []
  backlog : (s.part p).hold.backlog = []

theorem SameRun.laneOpen {o : Nat} {ol : Lane} (h : SameRun s t p) (ho : LaneOpen s p o ol) : LaneOpen t p o ol := by
  obtain ⟨hlanes, -, -, -⟩ := h.fields
  refine ⟨?_, hlanes ▸ ho.found, ho.room, ho.reads, ho.writes, h.backlog.trans ho.backlog⟩
  rw [outputLane, State.lanesOfKind, hlanes]
  exact ho.lane

theorem laneGive_pattern {n : Nat} {who : LaneWriter} {it : Item} : (laneGive s n who it).pattern = s.pattern := by
  unfold laneGive
  dsimp only
  split
  · simp
  · rfl

/-- An item of a request goes to its open lane at once; the request goes on. -/
theorem liveItem_emits {o : Nat} {ol : Lane} {it : Item} (ho : LaneOpen s p o ol) (hl : liveOf s p tag = some l)
    (hf : (itemFld it 2 1).testBit 0 = false) :
    ((liveItem s p it).lane o).items = ol.items ++ [it] ∧ (liveItem s p it).mem = s.mem ∧
      (liveItem s p it).pattern = s.pattern ∧
      ((liveItem s p it).part p).hold.step = (s.part p).hold.step ∧
      ((liveItem s p it).part p).hold.moves = (s.part p).hold.moves ∧
      ((liveItem s p it).part p).hold.backlog = (s.part p).hold.backlog ∧ ∃ due,
      liveOf (liveItem s p it) p tag = some { l with req := { l.req with nextDue := due } } := by
  let u := laneGive s o (holderWriter p) it
  have hfree : laneFree s o = true := by simp [laneFree, lane_of_find s ho.found, ho.writes, ho.room]
  have he : liveItem s p it = itemEmitted u p { item := it, mine := true } := by
    simp [liveItem, emitItem, ho.lane, ho.backlog, hfree]
    rfl
  have hpart : u.part p = s.part p := part_of_parts laneGive_parts
  have hlu : liveOf u p tag = some l := (liveOf_of_lives (by rw [hpart])).trans hl
  obtain ⟨hrun, hlive⟩ := itemEmitted_goesOn hlu hf
  obtain ⟨hlanes, hmem, -, hpattern⟩ := hrun.fields
  rw [he]
  refine ⟨?_, hmem.trans laneGive_mem, hpattern.trans ?_, by rw [hrun.step, hpart], by rw [hrun.moves, hpart],
    by rw [hrun.backlog, hpart], hlive⟩
  · rw [State.lane, hlanes]
    exact laneGive_room ho.found ho.room ho.reads ho.writes
  · exact laneGive_pattern

/-- Byte 2 of an item is the third of the bytes that it is made of. -/
theorem itemFld_third {a b c : Byte} {bs : List Byte} : itemFld (itemOf (a :: b :: c :: bs)) 2 1 = c.toNat := by
  have ha := a.isLt
  have hb := b.isLt
  have hc := c.isLt
  simp only [itemFld, itemOf, bitsOf, leNat, BitVec.toNat_ofNat]
  omega

/-- A token item that is not the final one has FINAL clear (Table 03-4). -/
theorem tokenItem_goesOn {n k : Nat} {c : Byte} : (itemFld (tokenItem c false false tag n k) 2 1).testBit 0 = false := by
  rw [show tokenItem c false false tag n k = itemOf (_ :: _ :: 0 :: _) from rfl, itemFld_third]
  decide

/-! ### A token of the main model (R257) -/

/-- What a stream without drafts yields: one token, which ends nothing. -/
def oneToken (tag : BitVec 48) (x : BitVec 32) : StreamOut :=
  { tag := tag, drafts := [], tokens := [x], ends := [false], fallback := none, fallbackEnds := false }

/-- The record of a request that has taken one token. -/
def mainTaken (s : State) (p : Nat) (l : Live) (x : BitVec 32) (y : Live) : Live := { y with
  unfed := []
  req := { adjustDraft (pieceDraftMax s p l.req.model) 0 0 y.req with
    seq := l.req.seq + 1, lastToken := x, outputCount := y.req.outputCount + 1, step := y.req.step + 1
    fallback := false, atLimit := y.req.atLimit } }

/-- The state in which a stream without drafts has been counted. -/
def mainCounted (s : State) (p : Nat) (l : Live) : State :=
  (countMissed s p l.req).modHold p fun h => { h with drafted := h.drafted, accepted := h.accepted }

theorem commitMain_one (hu : l.unfed = []) (hroom : l.req.seq + 1 < lMax s) :
    commitMain s p l (oneToken l.req.tag x) = flushOn (liveItem
      (modLive (mainCounted s p l) p l.req.tag (mainTaken (mainCounted s p l) p l x)) p
      (tokenItem 0 false false l.req.tag l.req.outputCount x.toNat)) p l.req.tag := by
  obtain ⟨room, hone⟩ : ∃ room, lMax s - l.req.seq = room + 1 := ⟨lMax s - l.req.seq - 1, by omega⟩
  have hlimit : decide (lMax s ≤ l.req.seq + 1) = false := decide_eq_false (Nat.not_le.2 hroom)
  have hend : (List.range [x].length).find? (fun i => [false].getD i false) = none := rfl
  simp only [commitMain, oneToken, hu, List.length_nil, List.drop_zero, List.take_nil, acceptedCount, Nat.zero_min,
    Nat.sub_zero, hone, List.take_succ_cons, Nat.add_zero, hend, List.getLast?_singleton]
  have hgoes : ¬ (false || [false].getD (1 - 1) false) = true := by decide
  rw [List.length_singleton, hlimit, if_neg hgoes, if_neg hgoes, emitTokens, emitTokens]
  simp only [Bool.or_false]
  rfl

end Sys2Proof.Machine
end
section
/-! # A step that commits (R257, R161, R170) -/

namespace Sys2Proof.Machine

variable {s t u v : State} {p : Nat} {tag : BitVec 48} {l l' : Live} {st : StepRun} {x : BitVec 32}

/-! ### The end of a step of one stream -/

/-- The state in which the step in flight is over, and what it brings about is still to come. -/
def stepDone (s : State) (p : Nat) (st : StepRun) : State :=
  let models := st.streams.filterMap fun tag => (liveOf s p tag).map (·.req.model)
  (s.modHold p fun h => { h with
    step := none
    durations := (h.durations ++ [s.now - st.start]).drop (h.durations.length + 1 - 16)
    ctxs := h.ctxs.mapVals fun m c => if models.contains m then { c with forcedIn := false } else c }).modPFault p
    fun f => { f with replayRun := 0 }

/-- A step over the one request `l` is in flight in partition `q`, and it did not fail. -/
structure CommitReady (s : State) (q : Part) (st : StepRun) (l : Live) : Prop where
  code : s.code q.val = 5
  step : (s.part q.val).hold.step = some st
  sound : st.failed = false
  replay : st.replay = false
  streams : st.streams = [l.req.tag]
  live : liveOf s q.val l.req.tag = some l
  stays : l.left = false
  kept : l.releasing = false
  moves : (s.part q.val).hold.moves = []

/-- While writes of the prefill are open, the step has nothing to commit. -/
theorem CommitReady.waits {q : Part} {rs : List StreamOut} (h : CommitReady s q st l) (h1 : l.req.phase = 1)
    (hopen : l.due ≠ [] ∨ makerOpen s q.val (.prefill l.req.tag) = true) : exec (.stepCommit q rs) s = .next s := by
  have hwaits : prefillWaits s q.val l.req.tag = true := by
    rcases hopen with hdue | hmaker
    · simp [prefillWaits, h.live, h1, h.stays, h.kept, hdue]
    · simp [prefillWaits, h.live, h1, h.stays, h.kept, hmaker]
  show execStepCommit q rs s = _
  simp [execStepCommit, h.step, h.code, h.replay, h.sound, h.streams, hwaits]

theorem CommitReady.commits {q : Part} (h : CommitReady s q st l) (hdue : l.due = [])
    (hmaker : makerOpen s q.val (.prefill l.req.tag) = false) : exec (.stepCommit q [oneToken l.req.tag x]) s =
      .next (holderOn (commitStream (stepDone s q.val st) q.val (oneToken l.req.tag x)) q.val) := by
  have hwaits : prefillWaits s q.val l.req.tag = false := by simp [prefillWaits, h.live, hdue, hmaker]
  have hmine : [oneToken l.req.tag x].filter (fun r => st.streams.contains r.tag) = [oneToken l.req.tag x] := by
    simp [h.streams, oneToken]
  have hany : st.streams.any (prefillWaits s q.val) = false := by simp [h.streams, hwaits]
  show execStepCommit q _ s = _
  unfold execStepCommit
  rw [h.step]
  dsimp only
  rw [if_neg (by simp [h.code, h.replay]), h.sound, if_neg Bool.false_ne_true, hany, if_neg Bool.false_ne_true, hmine]
  rfl

/-- From `s` to `v` the step in flight ended, and the descriptors that wait for a ring are as they were. -/
structure StepOver (s v : State) (p : Nat) : Prop where
  step : (v.part p).hold.step = none
  moves : (v.part p).hold.moves = (s.part p).hold.moves

theorem stepDone_over : StepOver s (stepDone s p st) p := ⟨by simp [stepDone], by simp [stepDone]⟩

theorem liveOf_stepDone : liveOf (stepDone s p st) p tag = liveOf s p tag := liveOf_of_lives (by simp [stepDone])

theorem stepDone_laneOpen {o : Nat} {ol : Lane} (ho : LaneOpen s p o ol) : LaneOpen (stepDone s p st) p o ol :=
  ⟨ho.lane, ho.found, ho.room, ho.reads, ho.writes, by simpa [stepDone] using ho.backlog⟩

theorem StepOver.sameRun (h : StepOver s u p) (h' : SameRun u v p) : StepOver s v p :=
  ⟨h'.step.trans h.step, h'.moves.trans h.moves⟩

/-- What the step brought about stands once the firmware has noted its contexts. -/
theorem CommitReady.ends {q : Part} (h : CommitReady s q st l) (hdue : l.due = [])
    (hmaker : makerOpen s q.val (.prefill l.req.tag) = false)
    (hv : commitStream (stepDone s q.val st) q.val (oneToken l.req.tag x) = v) (hover : StepOver s v q.val)
    (hl : liveOf v q.val l.req.tag = some l') : ∃ t, exec (.stepCommit q [oneToken l.req.tag x]) s = .next t ∧
      (t.part q.val).hold.step = none ∧ liveOf t q.val l.req.tag = some l' ∧ t.lanes = v.lanes ∧ t.mem = v.mem ∧
      t.out = v.out := by
  have hidle := hover.moves.trans h.moves
  have hnotes := holderOn_idle hidle
  exact ⟨_, hv ▸ h.commits hdue hmaker, (holderOn_runKept hidle).step.trans hover.step,
    (liveOf_of_lives hnotes.lives).trans hl, hnotes.lanes, hnotes.mem, hnotes.out⟩

/-! ### A token of the main model (R257) -/

/-- The draft length of a request is all that a step without drafts adjusts. -/
theorem adjustDraft_only {n : Nat} {r : Record} : ∃ a b c, adjustDraft n 0 0 r =
    { r with draftPause := a, draftLen := b, rejectRun := c } := by
  unfold adjustDraft
  split
  · exact ⟨_, _, r.rejectRun, rfl⟩
  · exact ⟨r.draftPause, r.draftLen, r.rejectRun, rfl⟩

theorem mainCounted_sameRun : SameRun s (mainCounted s p l) p := by
  have hmissed : SameRun s (countMissed s p l.req) p := by
    unfold countMissed
    split
    · exact modHold_sameRun rfl rfl rfl
    · exact .refl
  exact hmissed.trans (modHold_sameRun rfl rfl rfl)

theorem liveOf_mainCounted : liveOf (mainCounted s p l) p tag = liveOf s p tag := by
  refine liveOf_of_lives ?_
  unfold mainCounted countMissed
  split <;> simp

/-- What the record of a request is once its token is taken, but for its draft length. -/
theorem mainTaken_only {y : Live} : ∃ a b c, mainTaken s p l x y = { y with
    unfed := []
    req := { y.req with
      draftPause := a, draftLen := b, rejectRun := c, seq := l.req.seq + 1, lastToken := x
      outputCount := y.req.outputCount + 1, step := y.req.step + 1, fallback := false } } := by
  obtain ⟨a, b, c, he⟩ := adjustDraft_only (n := pieceDraftMax s p l.req.model) (r := y.req)
  exact ⟨a, b, c, by rw [mainTaken, he]⟩

theorem mainTaken_tag {y : Live} : (mainTaken s p l x y).req.tag = y.req.tag := by
  obtain ⟨_, _, _, he⟩ := mainTaken_only (s := s) (p := p) (l := l) (x := x) (y := y)
  rw [he]

/-- A stream that decodes without drafts takes the main model's token, which leaves as an item. -/
theorem commitMain_takes {o : Nat} {ol : Lane} (hl : liveOf s p l.req.tag = some l) (h4 : l.req.phase = 4)
    (hu : l.unfed = []) (hdue : l.due = []) (hroom : l.req.seq + 1 < lMax s) (hs : l.req.seq + 1 < l.flushedTo + 64)
    (ho : LaneOpen s p o ol) : ∃ v l', commitMain s p l (oneToken l.req.tag x) = v ∧
      (v.part p).hold.step = (s.part p).hold.step ∧ (v.part p).hold.moves = (s.part p).hold.moves ∧
      liveOf v p l.req.tag = some l' ∧ l'.req.seq = l.req.seq + 1 ∧ l'.req.lastToken = x ∧
      l'.req.outputCount = l.req.outputCount + 1 ∧
      (v.lane o).items = ol.items ++ [tokenItem 0 false false l.req.tag l.req.outputCount x.toNat] ∧ v.mem = s.mem := by
  have hrun : SameRun s (modLive (mainCounted s p l) p l.req.tag (mainTaken (mainCounted s p l) p l x)) p :=
    mainCounted_sameRun.trans modLive_sameRun
  have hl1 := liveOf_modLive (f := mainTaken (mainCounted s p l) p l x) ((liveOf_mainCounted (l := l)).trans hl)
    (fun _ => mainTaken_tag) rfl
  obtain ⟨hitems, hmem, -, hstep, hmoves, -, due, hl2⟩ := liveItem_emits
    (it := tokenItem 0 false false l.req.tag l.req.outputCount x.toNat) (hrun.laneOpen ho) hl1 tokenItem_goesOn
  obtain ⟨_, _, _, he⟩ := mainTaken_only (s := mainCounted s p l) (p := p) (l := l) (x := x) (y := l)
  rw [he] at hl2
  obtain ⟨hflush, hl3⟩ := flushOn_none hl2 (by show l.req.phase ≠ 5; omega) hdue fun _ => hs
  obtain ⟨hlanes, hmem', -, -⟩ := hflush.fields
  refine ⟨_, _, commitMain_one hu hroom, hflush.step.trans (hstep.trans hrun.step),
    hflush.moves.trans (hmoves.trans hrun.moves), hl3, rfl, rfl, rfl, ?_, (hmem'.trans hmem).trans hrun.fields.2.1⟩
  rw [State.lane, hlanes]
  exact hitems

theorem CommitReady.decodes {q : Part} {o : Nat} {ol : Lane} (h : CommitReady s q st l) (hdue : l.due = [])
    (hmaker : makerOpen s q.val (.prefill l.req.tag) = false) (h4 : l.req.phase = 4) (hmarked : l.marked = false)
    (hfinal : l.finalToken = none) (hu : l.unfed = []) (hroom : l.req.seq + 1 < lMax s)
    (hs : l.req.seq + 1 < l.flushedTo + 64) (ho : LaneOpen s q.val o ol) :
    ∃ t l', exec (.stepCommit q [oneToken l.req.tag x]) s = .next t ∧ (t.part q.val).hold.step = none ∧
      liveOf t q.val l.req.tag = some l' ∧ l'.req.seq = l.req.seq + 1 ∧ l'.req.lastToken = x ∧
      l'.req.outputCount = l.req.outputCount + 1 ∧
      (t.lane o).items = ol.items ++ [tokenItem 0 false false l.req.tag l.req.outputCount x.toNat] ∧ t.mem = s.mem := by
  have hl : liveOf (stepDone s q.val st) q.val l.req.tag = some l := liveOf_stepDone.trans h.live
  have hstream : commitStream (stepDone s q.val st) q.val (oneToken l.req.tag x) =
      commitMain (stepDone s q.val st) q.val l (oneToken l.req.tag x) := by
    simp [commitStream, oneToken, hl, h.stays, h.kept, Live.prefilling, h4, hmarked, hfinal]
  obtain ⟨v, l', hv, hstep, hmoves, hl', hseq, hlast, hcount, hitems, hmem⟩ :=
    commitMain_takes (x := x) hl h4 hu hdue hroom hs (stepDone_laneOpen ho)
  obtain ⟨t, hex, hstep', hlive, hlanes, hmem', -⟩ := h.ends hdue hmaker (hstream.trans hv)
    ⟨hstep.trans stepDone_over.step, hmoves.trans stepDone_over.moves⟩ hl'
  refine ⟨t, l', hex, hstep', hlive, hseq, hlast, hcount, ?_, hmem'.trans hmem⟩
  rw [State.lane, hlanes]
  exact hitems

/-! ### A chunk of the prompt (R287) -/

theorem CommitReady.chunk {q : Part} (h : CommitReady s q st l) (hdue : l.due = [])
    (hmaker : makerOpen s q.val (.prefill l.req.tag) = false) (hp : l.prefilling = true) (h3 : s.role q.val = 3)
    (hmore : l.filled + l.stepTake < l.req.promptTokens) :
    ∃ t l', exec (.stepCommit q [oneToken l.req.tag x]) s = .next t ∧ (t.part q.val).hold.step = none ∧
      liveOf t q.val l.req.tag = some l' ∧ l' = { l with filled := l.filled + l.stepTake } ∧ t.lanes = s.lanes ∧
      t.mem = s.mem ∧ t.out = s.out := by
  have hl : liveOf (stepDone s q.val st) q.val l.req.tag = some l := liveOf_stepDone.trans h.live
  have h3' : (stepDone s q.val st).role q.val = 3 := h3
  have hstream : commitStream (stepDone s q.val st) q.val (oneToken l.req.tag x) =
      modLive (stepDone s q.val st) q.val l.req.tag fun l => { l with filled := l.filled + l.stepTake } := by
    simp [commitStream, oneToken, hl, h.stays, h.kept, hp, h3', hmore]
  obtain ⟨t, hex, hstep, hlive, hrest⟩ := h.ends hdue hmaker hstream (stepDone_over.sameRun modLive_sameRun)
    (liveOf_modLive hl (fun _ => rfl) rfl)
  exact ⟨t, _, hex, hstep, hlive, rfl, hrest⟩

/-! ### Token 0 (R161, R170) -/

/-- The record of a request whose prefill has yielded token 0, which ends nothing. -/
def yielded (x : BitVec 32) (y : Live) : Live := { y with
  finalToken := none
  req := { y.req with lastToken := x, step := y.req.step + 1 } }

theorem commitStream_prefillDone (hl : liveOf s p l.req.tag = some l) (hstays : l.left = false)
    (hkept : l.releasing = false) (hp : l.prefilling = true)
    (hwhole : s.role p = 3 → l.req.promptTokens ≤ l.filled + l.stepTake) :
    commitStream s p (oneToken l.req.tag x) =
      commitProgress (modLive s p l.req.tag (yielded x)) p l.req.tag := by
  have hnot : ¬ (s.role p = 3 ∧ l.filled + l.stepTake < l.req.promptTokens) := fun h => by
    have := hwhole h.1
    omega
  simp only [commitStream, oneToken, hl, hstays, hkept, hp, hnot]
  rfl

theorem Live.prefilling_phase (hp : l.prefilling = true) : (l.req.phase = 1 ∨ l.req.phase = 2) ∧ l.req.step = 0 := by
  simpa [Live.prefilling] using hp

/-- Until every copy has answered COMMIT, token 0 stays. -/
theorem CommitReady.keepsToken {q : Part} (h : CommitReady s q st l) (hdue : l.due = [])
    (hmaker : makerOpen s q.val (.prefill l.req.tag) = false) (hp : l.prefilling = true)
    (hwhole : s.role q.val = 3 → l.req.promptTokens ≤ l.filled + l.stepTake) (hcommits : l.commits ≠ []) :
    ∃ t l', exec (.stepCommit q [oneToken l.req.tag x]) s = .next t ∧ (t.part q.val).hold.step = none ∧
      liveOf t q.val l.req.tag = some l' ∧ l'.req.phase = l.req.phase ∧ l'.req.lastToken = x ∧
      l'.commits = l.commits ∧ t.out = s.out ∧ t.lanes = s.lanes ∧ t.mem = s.mem := by
  obtain ⟨hphase, -⟩ := Live.prefilling_phase hp
  have hl : liveOf (stepDone s q.val st) q.val l.req.tag = some l := liveOf_stepDone.trans h.live
  have hl1 : liveOf (modLive (stepDone s q.val st) q.val l.req.tag (yielded x)) q.val l.req.tag = some (yielded x l) :=
    liveOf_modLive hl (fun _ => rfl) rfl
  have hopen : (yielded x l).commits ≠ [] := hcommits
  have hstream : commitStream (stepDone s q.val st) q.val (oneToken l.req.tag x) =
      flushOn (modLive (stepDone s q.val st) q.val l.req.tag (yielded x)) q.val l.req.tag := by
    rw [commitStream_prefillDone hl h.stays h.kept hp hwhole]
    simp [commitProgress, hl1, hopen]
  obtain ⟨hflush, hl2⟩ := flushOn_none hl1 (by show l.req.phase ≠ 5; omega) hdue
    (by show l.req.phase = 4 → _; omega)
  have hrun := modLive_sameRun.trans hflush
  obtain ⟨t, hex, hstep, hlive, hlanes, hmem, hout⟩ := h.ends hdue hmaker hstream (stepDone_over.sameRun hrun) hl2
  obtain ⟨hlanes', hmem', hout', -⟩ := hrun.fields
  exact ⟨t, _, hex, hstep, hlive, rfl, rfl, rfl, hout.trans hout', hlanes.trans hlanes', hmem.trans hmem'⟩

/-- The record of a request whose prefill has committed. -/
def prefillSettled (r : Record) : Record := { r with length := r.seq }

/-- The record of a request whose token 0 leaves. -/
def tokenCounted (r : Record) : Record := { r with outputCount := 1, tailOrigin := r.seq, tailBase := r.seq }

theorem insertPrefix_old (hl : liveOf s p tag = some l) (hnew : l.req.newLast = false) : insertPrefix s p tag = s := by
  simp [insertPrefix, hl, hnew]

theorem prefillCommit_emits (hl : liveOf s p tag = some l) (hnew : l.req.newLast = false) (hroom : l.req.seq < lMax s)
    (hfinal : l.finalToken = none) (hx : l.req.lastToken = x)
    (hback : ((liveItem (modReq s p tag tokenCounted) p
      (tokenItem 0 false false tag 0 x.toNat)).part p).hold.backlog = []) : prefillCommit s p tag =
    afterToken0 (liveItem (modReq s p tag tokenCounted) p (tokenItem 0 false false tag 0 x.toNat)) p tag := by
  have hquiet : backlogged (liveItem (modReq s p tag tokenCounted) p
      (tokenItem 0 false false tag 0 x.toNat)) p tag = false := by rw [backlogged, hback]; rfl
  unfold prefillCommit
  rw [hl]
  dsimp only
  rw [insertPrefix_old hl hnew, if_neg (Nat.not_le.2 hroom), hfinal, hx, Option.isSome_none, if_neg Bool.false_ne_true]
  exact if_neg (hquiet.trans_ne Bool.false_ne_true)

theorem afterToken0_joins (hl : liveOf s p tag = some l) (hcancel : l.req.cancel = false) (h0 : s.role p ≠ 0) :
    afterToken0 s p tag = joinBatch s p tag := by
  simp [afterToken0, hl, hcancel, h0]

theorem role_of_pattern (h : t.pattern = s.pattern) : t.role p = s.role p := by
  rw [State.role, State.piece, h]
  rfl

/-- Once every copy has answered COMMIT, token 0 leaves and the request joins the batch. -/
theorem CommitReady.joins {q : Part} {o : Nat} {ol : Lane} (h : CommitReady s q st l) (hdue : l.due = [])
    (hmaker : makerOpen s q.val (.prefill l.req.tag) = false) (hp : l.prefilling = true)
    (hwhole : s.role q.val = 3 → l.req.promptTokens ≤ l.filled + l.stepTake) (h2 : l.req.phase = 2)
    (hcommits : l.commits = []) (hcount : l.req.outputCount = 0) (hroom : l.req.seq < lMax s)
    (hnew : l.req.newLast = false) (hcancel : l.req.cancel = false) (h0 : s.role q.val ≠ 0)
    (ho : LaneOpen s q.val o ol) :
    ∃ t l', exec (.stepCommit q [oneToken l.req.tag x]) s = .next t ∧ (t.part q.val).hold.step = none ∧
      liveOf t q.val l.req.tag = some l' ∧ l'.req.phase = 4 ∧ l'.inBatch = true ∧ l'.req.length = l.req.seq ∧
      l'.req.lastToken = x ∧ l'.req.outputCount = 1 ∧
      (t.lane o).items = ol.items ++ [tokenItem 0 false false l.req.tag 0 x.toNat] ∧ t.mem = s.mem := by
  let u := stepDone s q.val st
  let a := modLive u q.val l.req.tag (yielded x)
  let b := modReq a q.val l.req.tag prefillSettled
  let c := modReq b q.val l.req.tag tokenCounted
  let v := liveItem c q.val (tokenItem 0 false false l.req.tag 0 x.toNat)
  have hl : liveOf u q.val l.req.tag = some l := liveOf_stepDone.trans h.live
  have hla : liveOf a q.val l.req.tag = some (yielded x l) := liveOf_modLive hl (fun _ => rfl) rfl
  have hlb : liveOf b q.val l.req.tag = some { yielded x l with req := prefillSettled (yielded x l).req } :=
    liveOf_modLive hla (fun _ => rfl) rfl
  have hlc : liveOf c q.val l.req.tag =
      some { yielded x l with req := tokenCounted (prefillSettled (yielded x l).req) } :=
    liveOf_modLive hlb (fun _ => rfl) rfl
  have hrun : SameRun u c q.val := (modLive_sameRun.trans modLive_sameRun).trans modLive_sameRun
  obtain ⟨hitems, hmem, hpattern, hstep, hmoves, hback, due, hlv⟩ := liveItem_emits
    (it := tokenItem 0 false false l.req.tag 0 x.toNat) (hrun.laneOpen (stepDone_laneOpen ho)) hlc tokenItem_goesOn
  have hyielded : (yielded x l).prefilled = true := by simp [Live.prefilled, yielded, h2, hcount]
  have hnone : (yielded x l).commits = [] ∧ (yielded x l).due = [] := ⟨hcommits, hdue⟩
  have hprogress : commitProgress a q.val l.req.tag = prefillCommit b q.val l.req.tag := by
    simp only [commitProgress, hla, hyielded, hnone.1, hnone.2]
    rfl
  have hempty : (v.part q.val).hold.backlog = [] :=
    hback.trans (hrun.backlog.trans (stepDone_laneOpen (st := st) ho).backlog)
  have hemits : prefillCommit b q.val l.req.tag = afterToken0 v q.val l.req.tag :=
    prefillCommit_emits hlb hnew hroom rfl rfl hempty
  have hrole : v.role q.val = s.role q.val := role_of_pattern (hpattern.trans hrun.fields.2.2.2)
  have hjoins := afterToken0_joins hlv hcancel (hrole.trans_ne h0)
  have hstream : commitStream u q.val (oneToken l.req.tag x) = joinBatch v q.val l.req.tag := by
    rw [commitStream_prefillDone hl h.stays h.kept hp hwhole, hprogress, hemits, hjoins]
  have hlj : liveOf (joinBatch v q.val l.req.tag) q.val l.req.tag = _ := liveOf_modLive hlv (fun _ => rfl) rfl
  have hover : StepOver s v q.val :=
    ⟨hstep.trans (stepDone_over.sameRun hrun).step, hmoves.trans (stepDone_over.sameRun hrun).moves⟩
  obtain ⟨t, hex, hstep', hlive, hlanes, hmem', -⟩ := h.ends hdue hmaker hstream (hover.sameRun modLive_sameRun) hlj
  refine ⟨t, _, hex, hstep', hlive, rfl, rfl, rfl, rfl, rfl, ?_, hmem'.trans (hmem.trans hrun.fields.2.1)⟩
  rw [State.lane, hlanes]
  exact hitems

end Sys2Proof.Machine
end
section
/-! # What a step sends (R158, R159, R281)

A step's QUERYs and COMMITs stay among the requests of the partition that wait for a reply (`HasSent`): each goes under a
MSG_ID of its own. -/

namespace Sys2Proof.Machine

variable {s t u v : State} {p : Nat} {tag : BitVec 48} {l l' : Live}

/-- A request like `P` has gone out of partition `p` and waits for its reply. -/
def HasSent (s : State) (p : Nat) (P : SvcHdr → Prop) : Prop :=
  ∃ id y, id ≤ s.mgmt.nextMsgId ∧ (s.part p).last.sent.find id = some y ∧ P y.h

/-- The requests of partition `p` that wait for a reply are as they were. -/
structure SameSent (s t : State) (p : Nat) : Prop where
  sent : (t.part p).last.sent = (s.part p).last.sent
  ids : t.mgmt.nextMsgId = s.mgmt.nextMsgId

theorem HasSent.sameSent {P : SvcHdr → Prop} (h : HasSent s p P) (hs : SameSent s t p) : HasSent t p P := by
  obtain ⟨id, y, hid, hy, hP⟩ := h
  exact ⟨id, y, hs.ids ▸ hid, hs.sent ▸ hy, hP⟩

theorem HasSent.svcSend {P : SvcHdr → Prop} {d q : Nat} {h : SvcHdr} {payload : List Byte} (hs : HasSent s p P) :
    HasSent (svcSend s p d q h payload).2 p P := by
  obtain ⟨id, y, hid, hy, hP⟩ := hs
  obtain ⟨-, hsent, hmgmt⟩ := svcSend_messaged (s := s) (p := p) (d := d) (q := q) (h := h) (payload := payload)
  refine ⟨id, y, by rw [hmgmt]; exact Nat.le_succ_of_le hid, ?_, hP⟩
  rw [hsent, find_put_ne _ _ (by omega), hy]

theorem hasSent_svcSend {P : SvcHdr → Prop} {d q : Nat} {h : SvcHdr} {payload : List Byte}
    (hP : P { h with msgId := s.mgmt.nextMsgId + 1 }) : HasSent (svcSend s p d q h payload).2 p P := by
  obtain ⟨-, hsent, hmgmt⟩ := svcSend_messaged (s := s) (p := p) (d := d) (q := q) (h := h) (payload := payload)
  exact ⟨s.mgmt.nextMsgId + 1, sentRequest s d q h payload, by rw [hmgmt], by rw [hsent, find_put_same], hP⟩

theorem foldl_hasSent {α : Type} {f : State → α → State} {P : SvcHdr → Prop}
    (hkeeps : ∀ s a, HasSent s p P → HasSent (f s a) p P) {xs : List α} (h : HasSent s p P) :
    HasSent (xs.foldl f s) p P := by
  induction xs generalizing s with
  | nil => exact h
  | cons a xs ih => exact ih (hkeeps s a h)

/-- What one element of a list sends is sent when all are. -/
theorem foldl_sends {α : Type} {f : State → α → State} {P : SvcHdr → Prop} {a : α}
    (hkeeps : ∀ s a, HasSent s p P → HasSent (f s a) p P) (hsends : ∀ s, HasSent (f s a) p P) {xs : List α}
    (ha : a ∈ xs) : HasSent (xs.foldl f s) p P := by
  induction xs generalizing s with
  | nil => cases ha
  | cons b xs ih =>
    rw [List.foldl_cons]
    rcases List.mem_cons.1 ha with rfl | ha
    · exact foldl_hasSent hkeeps (hsends s)
    · exact ih ha

/-! ### The QUERYs of a stream (R281) -/

theorem queryCounts_ne_nil {n q : Nat} : queryCounts (n + 1) q ≠ [] := by
  unfold queryCounts
  split <;> simp

/-- The vectors of a QUERY: what the engine computes. -/
def queryBody (s : State) (m : ModelPiece) (g q : Nat) : List Byte :=
  leBytes 1 m.kvHeads ++ leBytes 1 g ++ leBytes 1 m.head ++ [0] ++ leBytes 4 0
    ++ freeBytes s.draws 4 ++ leBytes 52 0 ++ (freeBytes s.draws (4 + q * m.kvHeads * g * 2 * headDim m.head)).drop 4

/-- The header of the QUERY of a layer. -/
def queryHdr (s : State) (p : Nat) (l : Live) (posB layer q : Nat) : SvcHdr :=
  { requestHdr s p 5 l.req.tag l.readHandle with
    handoffSeq := l.req.handoffSeq, posA := layer, posB := posB, value := BitVec.ofNat 64 q }

/-- The QUERY for the layer `x.1` of `x.2` queries goes out. -/
def sendQuery (p : Nat) (l : Live) (m : ModelPiece) (posB g : Nat) (s : State) (x : Nat × Nat) : State :=
  (svcSend s.draw.2 p (handleDevice l.readHandle) (handlePart l.readHandle) (queryHdr s p l posB x.1 x.2)
    (queryBody s m g x.2)).2

theorem sendQueries_eq {m : ModelPiece} (hm : s.model p l.req.model = some m) : ∃ posB g n,
    sendQueries s p l = ((List.range m.layers).flatMap fun layer => (queryCounts 260 n).map fun q => (layer, q)).foldl
      (sendQuery p l m posB g) s.draw.2 := by
  unfold sendQueries
  rw [hm]
  exact ⟨_, _, _, rfl⟩

theorem draw_messaged : Messaged s s.draw.2 p := ⟨⟨_, _, _, rfl⟩, rfl, rfl, rfl, rfl, rfl⟩

theorem draw_sameSent : SameSent s s.draw.2 p := ⟨rfl, rfl⟩

theorem sendQuery_messaged {m : ModelPiece} {posB g : Nat} {x : Nat × Nat} :
    Messaged s (sendQuery p l m posB g s x) p := draw_messaged.trans svcSend_messaged.1

theorem sendQueries_messaged : Messaged s (sendQueries s p l) p := by
  cases hm : s.model p l.req.model with
  | none =>
    rw [sendQueries, hm]
    exact .refl
  | some m =>
    obtain ⟨_, _, _, he⟩ := sendQueries_eq hm
    rw [he]
    exact draw_messaged.trans (foldl_messaged (fun _ _ => sendQuery_messaged) _)

theorem sendQuery_keeps {m : ModelPiece} {posB g : Nat} {x : Nat × Nat} {P : SvcHdr → Prop} (h : HasSent s p P) :
    HasSent (sendQuery p l m posB g s x) p P := (h.sameSent draw_sameSent).svcSend

/-- What has been sent before stays sent. -/
theorem HasSent.sendQueries {P : SvcHdr → Prop} (h : HasSent s p P) : HasSent (sendQueries s p l) p P := by
  cases hm : s.model p l.req.model with
  | none =>
    rw [Machine.sendQueries, hm]
    exact h
  | some m =>
    obtain ⟨_, _, _, he⟩ := sendQueries_eq hm
    rw [he]
    exact foldl_hasSent (fun _ _ => sendQuery_keeps) (h.sameSent draw_sameSent)

/-- Every layer has its QUERY. -/
theorem sendQueries_sends {m : ModelPiece} {k : Nat} (hm : s.model p l.req.model = some m) (hk : k < m.layers) :
    HasSent (sendQueries s p l) p fun h => h.op = 5 ∧ h.tag = l.req.tag ∧ h.posA = k := by
  obtain ⟨posB, g, n, he⟩ := sendQueries_eq hm
  obtain ⟨q, hq⟩ := List.exists_mem_of_ne_nil _ (queryCounts_ne_nil (n := 259) (q := n))
  rw [he]
  refine foldl_sends (a := (k, q)) (fun _ _ => sendQuery_keeps) (fun s => hasSent_svcSend ⟨rfl, rfl, rfl⟩) ?_
  exact List.mem_flatMap.2 ⟨k, List.mem_range.2 hk, List.mem_map.2 ⟨q, hq, rfl⟩⟩

end Sys2Proof.Machine
end
section
/-! # A stream of a step runs (R158, R159, R281) -/

namespace Sys2Proof.Machine

variable {s t u v : State} {p : Nat} {tag : BitVec 48} {l l' : Live} {c : Word} {lo hi : Nat}

/-- What no message, and nothing that a partition keeps of its requests, bears on. -/
structure SameWorld (s t : State) : Prop where
  mem : t.mem = s.mem
  lanes : t.lanes = s.lanes
  now : t.now = s.now
  pattern : t.pattern = s.pattern
  faults : t.faults = s.faults

theorem SameWorld.refl : SameWorld s s := ⟨rfl, rfl, rfl, rfl, rfl⟩

theorem SameWorld.trans (h : SameWorld s u) (h' : SameWorld u t) : SameWorld s t :=
  ⟨h'.mem.trans h.mem, h'.lanes.trans h.lanes, h'.now.trans h.now, h'.pattern.trans h.pattern, h'.faults.trans h.faults⟩

theorem Messaged.world (h : Messaged s t p) : SameWorld s t := ⟨h.mem, h.lanes, h.now, h.pattern, h.faults⟩

theorem modHold_world {f : PHold → PHold} : SameWorld s (s.modHold p f) := ⟨rfl, rfl, rfl, rfl, rfl⟩

theorem modHold_sameSent {f : PHold → PHold} : SameSent s (s.modHold p f) p := ⟨by simp, rfl⟩

/-! ### COMMITs (R159) -/

/-- A COMMIT of the positions from `lo` to `hi` of the copy `c`. -/
def isCommit (c : Word) (lo hi : Nat) (h : SvcHdr) : Prop := h.op = 2 ∧ h.handle = c ∧ h.posA = lo ∧ h.posB = hi

/-- The COMMIT `x` goes out. -/
def sendCommit (p : Nat) (l : Live) (s : State) (x : CommitDue) : State := askCopy s p l 2 x.copy x.lo x.hi 0

theorem sendCommit_messaged {x : CommitDue} : Messaged s (sendCommit p l s x) p := svcSend_messaged.1

theorem sendCommit_keeps {x : CommitDue} {P : SvcHdr → Prop} (h : HasSent s p P) : HasSent (sendCommit p l s x) p P :=
  h.svcSend

theorem sendCommit_sends {x : CommitDue} : HasSent (sendCommit p l s x) p (isCommit x.copy x.lo x.hi) :=
  hasSent_svcSend ⟨rfl, rfl, rfl, rfl⟩

/-- The record of a request of whose COMMITs `go` have gone out. -/
def dueSent (go : List CommitDue) (y : Live) : Live :=
  let left := y.due.filter fun x => !go.contains x
  { y with
    due := left
    req := if y.req.phase = 1 ∧ y.due ≠ [] ∧ left = [] then
        { y.req with phase := 2, seq := y.req.length + y.req.promptTokens } else y.req }

theorem dueSent_tag {go : List CommitDue} {y : Live} : (dueSent go y).req.tag = y.req.tag := by
  unfold dueSent
  dsimp only
  split <;> rfl

theorem sendDue_eq (hl : liveOf s p tag = some l) :
    ∃ go, sendDue s p tag = modLive (go.foldl (sendCommit p l) s) p tag (dueSent go) := by
  unfold sendDue
  rw [hl]
  exact ⟨_, rfl⟩

theorem sendDue_world : SameWorld s (sendDue s p tag) ∧
    ((sendDue s p tag).part p).hold.moves = (s.part p).hold.moves := by
  cases hl : liveOf s p tag with
  | none =>
    rw [sendDue, hl]
    exact ⟨.refl, rfl⟩
  | some l =>
    obtain ⟨go, he⟩ := sendDue_eq hl
    have hsent : Messaged s (go.foldl (sendCommit p l) s) p := foldl_messaged (fun _ _ => sendCommit_messaged) _
    rw [he]
    exact ⟨hsent.world.trans modHold_world, by simp [modLive, hsent.hold]⟩

theorem HasSent.sendDue {P : SvcHdr → Prop} (h : HasSent s p P) : HasSent (sendDue s p tag) p P := by
  cases hl : liveOf s p tag with
  | none =>
    rw [Machine.sendDue, hl]
    exact h
  | some l =>
    obtain ⟨go, he⟩ := sendDue_eq hl
    rw [he]
    exact (foldl_hasSent (fun _ _ => sendCommit_keeps) h).sameSent modHold_sameSent

/-- A COMMIT that is due stays due, or goes out. -/
theorem sendDue_due (hl : liveOf s p tag = some l) : ∃ l', liveOf (sendDue s p tag) p tag = some l' ∧
    ∀ x ∈ l.due, x ∈ l'.due ∨ HasSent (sendDue s p tag) p (isCommit x.copy x.lo x.hi) := by
  obtain ⟨go, he⟩ := sendDue_eq hl
  have hsent : Messaged s (go.foldl (sendCommit p l) s) p := foldl_messaged (fun _ _ => sendCommit_messaged) _
  have hlive : liveOf (go.foldl (sendCommit p l) s) p tag = some l := (liveOf_of_lives (by rw [hsent.hold])).trans hl
  refine ⟨dueSent go l, ?_, fun x hx => ?_⟩
  · rw [he]
    exact liveOf_modLive hlive (fun _ => dueSent_tag) rfl
  · by_cases hgo : x ∈ go
    · refine .inr ?_
      rw [he]
      exact (foldl_sends (fun _ _ => sendCommit_keeps) (fun _ => sendCommit_sends) hgo).sameSent modHold_sameSent
    · exact .inl (by simp [dueSent, hx, hgo])

/-! ### The chunk that a prefill writes (R158) -/

theorem beginCommits_world : SameWorld s (beginCommits s p tag lo hi) := ⟨rfl, rfl, rfl, rfl, rfl⟩

theorem writePrefill_world {row : Nat} : SameWorld s (writePrefill s p l row) := by
  refine .trans ?_ sendDue_world.1
  refine .trans ?_ modHold_world
  split
  · exact beginCommits_world
  · exact modHold_world

/-- With the last chunk a COMMIT of the prompt is begun for every copy. -/
theorem writePrefill_due {row : Nat} (hl : liveOf s p l.req.tag = some l) (hdue : l.due = [])
    (hlast : l.req.promptTokens ≤ l.filled + l.stepTake) (hc : c ∈ l.copies) :
    ∃ l', liveOf (writePrefill s p l row) p l.req.tag = some l' ∧
      ((∃ d ∈ l'.due, d.copy = c ∧ d.lo = l.req.length ∧ d.hi = l.req.length + l.req.promptTokens) ∨
        HasSent (writePrefill s p l row) p (isCommit c l.req.length (l.req.length + l.req.promptTokens))) := by
  let a := beginCommits s p l.req.tag l.req.length (l.req.length + l.req.promptTokens)
  let b := queueMoves a p (.prefill l.req.tag) (prefillMoves a p l l.copies (l.req.length + l.filled) l.stepTake row)
  have he : writePrefill s p l row = sendDue b p l.req.tag := by
    unfold writePrefill
    simp only [hdue, hlast]
    rfl
  have hla : liveOf a p l.req.tag = some _ := liveOf_modLive hl (fun _ => rfl) rfl
  have hlb := (liveOf_of_lives (t := b) (p := p) (tag := l.req.tag) (by simp [b, queueMoves])).trans hla
  obtain ⟨l', hl', hdues⟩ := sendDue_due hlb
  rw [he]
  refine ⟨l', hl', (hdues ⟨c, l.req.length, l.req.length + l.req.promptTokens, false⟩ ?_).imp ?_ id⟩
  · simp [hdue, hc]
  · exact fun hd => ⟨_, hd, rfl, rfl, rfl⟩

end Sys2Proof.Machine
end
section
/-! # A step begins (R281) -/

namespace Sys2Proof.Machine

variable {s t u v : State} {p : Nat} {tag : BitVec 48} {l l' : Live} {c : Word} {lo hi : Nat}

theorem runStream_world {row : Nat} : SameWorld s (runStream s p l row) := by
  unfold runStream
  split
  · exact .refl
  · refine .trans ?_ sendQueries_messaged.world
    split
    · exact writePrefill_world
    · exact .refl

/-- Only a prefill of an allocation has descriptors for a ring. -/
theorem runStream_moves {row : Nat} (h1 : l.req.phase ≠ 1) :
    ((runStream s p l row).part p).hold.moves = (s.part p).hold.moves := by
  unfold runStream
  rw [if_neg h1]
  split
  · rfl
  · rw [sendQueries_messaged.hold]

/-! ### Descriptors go to a ring (R89 to R91) -/

/-- From `s` to `t` descriptors left partition `p` for a ring. -/
structure Posted (s t : State) (p : Nat) : Prop where
  lanes : t.lanes = s.lanes
  last : (t.part p).last = (s.part p).last
  step : (t.part p).hold.step = (s.part p).hold.step
  lives : (t.part p).hold.lives = (s.part p).hold.lives

theorem Posted.refl : Posted s s p := ⟨rfl, rfl, rfl, rfl⟩

theorem Posted.trans (h : Posted s u p) (h' : Posted u t p) : Posted s t p :=
  ⟨h'.lanes.trans h.lanes, h'.last.trans h.last, h'.step.trans h.step, h'.lives.trans h.lives⟩

theorem storeRaw_hold {off : Nat} {bs : List Byte} : ((storeRaw s p off bs).part p).hold = (s.part p).hold := by
  unfold storeRaw
  dsimp only
  split
  · simp only [modPTrust_eq, setPart_part_same]
    rfl
  · rfl

theorem storeRaw_posted {off : Nat} {bs : List Byte} : Posted s (storeRaw s p off bs) p :=
  ⟨storeRaw_lanes .., storeRaw_last, by rw [storeRaw_hold], by rw [storeRaw_hold]⟩

theorem modHold_posted {f : PHold → PHold} (hstep : (f (s.part p).hold).step = (s.part p).hold.step)
    (hlives : (f (s.part p).hold).lives = (s.part p).hold.lives) : Posted s (s.modHold p f) p :=
  ⟨rfl, by simp, by simpa using hstep, by simpa using hlives⟩

theorem setAwl_posted {n : Nat} {a : Awl} : Posted s (s.setAwl n a) p := ⟨rfl, rfl, rfl, rfl⟩

/-- The descriptor `x` stands in the ring of Awl `n`, and `rest` waits on. -/
def descriptorPosted (s : State) (p n : Nat) (x : MoveOwner × Descriptor) (rest : List (MoveOwner × Descriptor)) : State :=
  let a := s.awl n
  ((storeRaw s p (ringOff a.base a.size 64 a.tail) (descBytes x.2)).modHold p fun h => { h with moves := rest }).setAwl n
    { a with tail := a.tail + 1, owned := a.owned.put a.tail.toNat x }

theorem descriptorPosted_posted {n : Nat} {x : MoveOwner × Descriptor} {rest : List (MoveOwner × Descriptor)} :
    Posted s (descriptorPosted s p n x rest) p :=
  storeRaw_posted.trans ((modHold_posted rfl rfl).trans setAwl_posted)

theorem postMoves_posted {fuel : Nat} : Posted s (postMoves p fuel s) p := by
  induction fuel generalizing s with
  | zero => exact .refl
  | succ n ih =>
    unfold postMoves
    split
    next owner d rest k hmoves hawl =>
      dsimp only
      split
      · exact .refl
      · exact descriptorPosted_posted.trans (ih (s := descriptorPosted s p k (owner, d) rest))
    · exact .refl

/-- Without a descriptor, or without an Awl that takes it, nothing is written. -/
theorem postMoves_none {fuel : Nat} (h : (s.part p).hold.moves = [] ∨ moveAwl s p = none) : postMoves p fuel s = s := by
  cases fuel with
  | zero => rfl
  | succ n =>
    unfold postMoves
    rcases h with h | h
    · rw [h]
    · rw [h]
      split <;> simp_all

theorem refreshCtxs_posted : Posted s (refreshCtxs s p) p := by
  constructor <;> simp [refreshCtxs]

theorem holderOn_posted : Posted s (holderOn s p) p := postMoves_posted.trans refreshCtxs_posted

theorem holderOn_mem (h : (s.part p).hold.moves = [] ∨ moveAwl s p = none) : (holderOn s p).mem = s.mem := by
  rw [holderOn, postMoves_none h]
  simp [refreshCtxs]

theorem moveAwl_world (h : SameWorld s t) : moveAwl t p = moveAwl s p := by
  simp only [moveAwl, State.blocksOf, State.piece, blockSuspect, unitSuspect, h.pattern, h.faults]

/-! ### Between two steps (R165, R179) -/

/-- The record of a request that may have been given a tail. -/
def withTail (l : Live) (w : Word) : Live := { l with req := { l.req with tail := w } }

theorem takeCancel_none (hl : liveOf s p tag = some l) (hc : l.req.cancel = false) : takeCancel s p tag = s := by
  simp [takeCancel, hl, hc]

theorem retryHandoff_none (h3 : l.req.phase ≠ 3) : retryHandoff s p l = s := by
  simp [retryHandoff, h3]

theorem liveOf_one (hl : (s.part p).hold.lives = [l]) (he : l.ended = false) : liveOf s p l.req.tag = some l := by
  simp [liveOf, recOf, hl, he]

theorem livesOf_one (hl : (s.part p).hold.lives = [l]) (he : l.ended = false) : livesOf s p = [l] := by
  simp [livesOf, hl, he]

theorem giveTail_one (hl : (s.part p).hold.lives = [l]) : SameRun s (giveTail s p l) p ∧
    ∃ w, ((giveTail s p l).part p).hold.lives = [withTail l w] ∧ (w ≠ l.req.tail → l.req.tail = allOnes64) := by
  unfold giveTail
  split
  · exact ⟨.refl, l.req.tail, hl, fun h => absurd rfl h⟩
  next w hw =>
    have hfull : l.inBatch = true ∧ l.req.tail = allOnes64 := by
      by_contra hno
      rw [if_neg hno] at hw
      cases hw
    refine ⟨modLive_sameRun, BitVec.ofNat 64 w, ?_, fun _ => hfull.2⟩
    simp [modReq, modLive, hl]
    rfl

/-- A partition of one request that hands nothing off and that nobody cancels gives it a tail at most. -/
theorem betweenSteps_one (hl : (s.part p).hold.lives = [l]) (he : l.ended = false) (hcancel : l.req.cancel = false)
    (h3 : l.req.phase ≠ 3) (htaking : (s.part p).hold.taking = []) (hhandoffs : (s.part p).hold.handoffs = [])
    (hmoves : (s.part p).hold.moves = []) : SameRun s (betweenSteps s p) p ∧
    ∃ w, ((betweenSteps s p).part p).hold.lives = [withTail l w] ∧ (w ≠ l.req.tail → l.req.tail = allOnes64) := by
  let a := s.modHold p fun h => { h.boundary with handoffs := [] }
  have hrun : SameRun s a p := modHold_sameRun rfl rfl rfl
  have hla : (a.part p).hold.lives = [l] := by simpa [a, PHold.boundary] using hl
  have heq : betweenSteps s p = holderOn (giveTail a p l) p := by
    have hcancels : takeCancel a p l.req.tag = a := takeCancel_none (liveOf_one hla he) hcancel
    unfold betweenSteps
    simp only [htaking, hhandoffs, List.filter_nil, List.foldl_nil]
    rw [show livesOf (s.modHold p fun h => { h.boundary with handoffs := [] }) p = [l] from livesOf_one hla he]
    simp only [List.map_cons, List.map_nil, List.foldl_cons, List.foldl_nil]
    rw [hcancels, livesOf_one hla he, List.foldl_cons, List.foldl_nil, retryHandoff_none h3, livesOf_one hla he,
      List.foldl_cons, List.foldl_nil]
  obtain ⟨hgive, w, hlives, hw⟩ := giveTail_one (s := a) (p := p) hla
  obtain ⟨ctxs, blocked, hnotes⟩ := holderOn_notes (hgive.moves.trans (hrun.moves.trans hmoves))
  rw [heq]
  refine ⟨hrun.trans (hgive.trans ?_), w, ?_, hw⟩
  · rw [hnotes]
    exact modHold_sameRun rfl rfl rfl
  · rw [hnotes]
    simpa using hlives

end Sys2Proof.Machine
end
section
/-! # Steps of one request (R171, R257, R281, R287, R496) -/

namespace Sys2Proof.Machine

variable {s t u v : State} {p : Nat} {tag : BitVec 48} {l l' : Live} {c : Word} {lo hi : Nat}

/-! ### The stream enters the step -/

theorem tailRoom_only {w n fuel : Nat} {r : Record} : ∃ b, tailRoom w r n fuel = { r with tailBase := b } := by
  induction fuel generalizing r with
  | zero => exact ⟨r.tailBase, rfl⟩
  | succ k ih =>
    unfold tailRoom
    split
    · exact ⟨r.tailBase, rfl⟩
    · exact ih

/-- The record `y` of the request `l` as it enters a step: of a prefill at a partition that is not combined all that is
left of the prompt is taken. -/
structure Enters (l y : Live) : Prop where
  req : ∃ w b, y.req = { l.req with tail := w, tailBase := b }
  due : y.due = l.due
  ended : y.ended = l.ended
  unmarked : l.req.phase ≠ 4 → y.marked = false
  last : l.req.phase = 1 → y.req.promptTokens ≤ y.filled + y.stepTake

theorem marks_phase (h4 : l.req.phase ≠ 4) : marks s p l = false := by
  simp [marks, h4]

theorem entered_req : ∃ b, (l.entered s p).req = { l.req with tailBase := b } := by
  unfold Live.entered
  dsimp only
  split
  · exact ⟨_, rfl⟩
  · exact tailRoom_only

theorem entered_enters {w : Word} (h3 : s.role p ≠ 3) : Enters l ((withTail l w).entered s p) := by
  obtain ⟨b, hreq⟩ := entered_req (s := s) (p := p) (l := withTail l w)
  refine ⟨⟨w, b, hreq⟩, rfl, rfl, fun h4 => marks_phase h4, fun h1 => ?_⟩
  have htake : ((withTail l w).entered s p).stepTake = l.req.promptTokens - l.filled := by
    unfold Live.entered
    dsimp only
    rw [if_pos (show (withTail l w).req.phase = 1 from h1)]
    exact if_neg fun h => h3 h.1
  rw [hreq, htake]
  show l.req.promptTokens ≤ l.filled + (l.req.promptTokens - l.filled)
  omega

theorem prefillReady_phase (h : prefillReady l = true) : l.req.phase = 1 ∨ l.req.phase = 2 := by
  have hp : l.prefilling = true := by
    revert h
    unfold prefillReady
    cases l.prefilling <;> simp
  exact (Live.prefilling_phase hp).1

theorem canFeed_phase (h : canFeed s p l = true) : l.req.phase = 4 ∧ l.req.tail ≠ allOnes64 := by
  unfold canFeed at h
  simp only [Bool.and_eq_true, decide_eq_true_eq] at h
  exact ⟨h.1.1.1, h.1.1.2.1⟩

/-- At a partition that is not combined, the one request that can run is the stream of the step. -/
theorem stepStreams_one (hl : livesOf s p = [l]) (h3 : s.role p ≠ 3) (hres : residentModel s p l.req.model = true)
    (hruns : prefillReady l = true ∨ canFeed s p l = true) : stepStreams s p = [l] := by
  unfold stepStreams
  simp only [hl, hres, List.filter_cons, List.filter_nil, Bool.and_true]
  rcases hruns with hready | hfeed
  · have hphase := prefillReady_phase hready
    have hfeed : canFeed s p l = false := by
      by_contra hno
      have := canFeed_phase (Bool.of_not_eq_false hno)
      omega
    simp [hready, hfeed, marks_phase (l := l) (by omega), h3]
  · obtain ⟨h4, -⟩ := canFeed_phase hfeed
    have hready : prefillReady l = false := by
      by_contra hno
      have := prefillReady_phase (Bool.of_not_eq_false hno)
      omega
    simp [hready, hfeed, h3]

theorem Enters.sameTag {y : Live} (h : Enters l y) : y.req.tag = l.req.tag := by
  obtain ⟨_, _, hreq⟩ := h.req
  rw [hreq]

/-- The one record is replaced. -/
theorem liveOf_set {x y : Live} (hl : (s.part p).hold.lives = [x]) (htag : x.req.tag = y.req.tag) (he : y.ended = false) :
    liveOf (modLive s p y.req.tag fun _ => y) p y.req.tag = some y :=
  liveOf_one (by simp [modLive, hl, htag]) he

/-! ### The boundary -/

theorem SameRun.world (h : SameRun s t p) : SameWorld s t := by
  rw [h.rest]
  exact ⟨rfl, rfl, rfl, rfl, rfl⟩

theorem swappable_of_pattern {m : Nat} (h : t.pattern = s.pattern) : swappable t p m = swappable s p m := by
  simp only [swappable, State.regions, h]

theorem canFeed_of_pattern (h : t.pattern = s.pattern) (hback : (t.part p).hold.backlog = (s.part p).hold.backlog) :
    canFeed t p l = canFeed s p l := by
  have hwindow : tailWindow t p = tailWindow s p := by
    rw [tailWindow, State.piece, h]
    rfl
  have hmax : lMax t = lMax s := by
    rw [lMax, State.lastClasses, h]
    rfl
  have hwaits : backlogged t p l.req.tag = backlogged s p l.req.tag := by rw [backlogged, hback, backlogged]
  rw [canFeed, hwindow, hmax, hwaits, canFeed]

/-- Partition `q` is at a boundary, and the one request `l` can run. -/
structure BoundaryReady (s : State) (q : Part) (l : Live) : Prop where
  code : s.code q.val = 5
  state : s.regs.state = 5 ∨ s.regs.state = 7
  step : (s.part q.val).hold.step = none
  stays : (s.part q.val).stopping = false
  handoffs : (s.part q.val).hold.handoffs = []
  lives : (s.part q.val).hold.lives = [l]
  live : l.ended = false
  taking : (s.part q.val).hold.taking = []
  moves : (s.part q.val).hold.moves = []
  cancel : l.req.cancel = false
  role : s.role q.val ≠ 3
  pinned : swappable s q.val l.req.model = false
  runs : prefillReady l = true ∨ canFeed s q.val l = true

theorem BoundaryReady.phase {q : Part} (h : BoundaryReady s q l) : l.req.phase = 1 ∨ l.req.phase = 2 ∨ l.req.phase = 4 := by
  rcases h.runs with hready | hfeed
  · have := prefillReady_phase hready
    omega
  · exact .inr (.inr (canFeed_phase hfeed).1)

/-- The state in which the step of the streams `st` is in flight. -/
def stepStarted (s : State) (p : Nat) (st : List Live) : State :=
  let models := st.map (·.req.model)
  s.modHold p fun h => { h with
    step := some { start := s.now, streams := st.map (·.req.tag) }
    chunkNext := decide (s.role p = 3) && st.any fun l => decide (l.req.phase = 4)
    ctxs := h.ctxs.mapVals fun m c => if models.contains m then { c with lastRun := s.now } else c }

theorem BoundaryReady.stepBoundary {q : Part} {y : Live} (h : BoundaryReady s q l)
    (hst : stepStreams (betweenSteps s q.val) q.val = [y]) : exec (.stepBoundary q) s =
      .next (holderOn (stepStarted (enterSteps (betweenSteps s q.val) q.val [y]) q.val [y]) q.val) := by
  show execStepBoundary q s = _
  unfold execStepBoundary
  rw [if_neg (by simp [h.code, h.state, h.step, h.stays])]
  dsimp only
  rw [hst, if_neg (List.cons_ne_nil _ _)]
  rfl

theorem enterSteps_one : enterSteps s p [l] =
    runStream (modLive s p (l.entered s p).req.tag fun _ => l.entered s p) p (l.entered s p) 0 := rfl

/-- A step begins for the one request, which enters it as `y`. -/
theorem BoundaryReady.begins {q : Part} (h : BoundaryReady s q l) : ∃ u y,
    SameWorld s u ∧ (u.part q.val).hold.moves = [] ∧ Enters l y ∧ liveOf u q.val l.req.tag = some y ∧ ∃ w,
      exec (.stepBoundary q) s = .next (holderOn (stepStarted (runStream u q.val y 0) q.val [withTail l w]) q.val) := by
  have hphase := h.phase
  obtain ⟨hrun, w, hlives, hw⟩ := betweenSteps_one h.lives h.live h.cancel (by omega) h.taking h.handoffs h.moves
  have hpattern := hrun.fields.2.2.2
  have hrole : (betweenSteps s q.val).role q.val ≠ 3 := (role_of_pattern hpattern).trans_ne h.role
  have hpinned : swappable (betweenSteps s q.val) q.val l.req.model = false :=
    (swappable_of_pattern hpattern).trans h.pinned
  have hres : residentModel (betweenSteps s q.val) q.val (withTail l w).req.model = true := by
    rw [residentModel, show (withTail l w).req.model = l.req.model from rfl, hpinned]
    rfl
  have hruns : prefillReady (withTail l w) = true ∨ canFeed (betweenSteps s q.val) q.val (withTail l w) = true := by
    refine h.runs.imp id fun hfeed => ?_
    have htail : w = l.req.tail := by
      by_contra hne
      exact (canFeed_phase hfeed).2 (hw hne)
    subst htail
    exact (canFeed_of_pattern hpattern hrun.backlog).trans hfeed
  have hstreams := stepStreams_one (livesOf_one hlives h.live) hrole hres hruns
  have henters : Enters l ((withTail l w).entered (betweenSteps s q.val) q.val) := entered_enters hrole
  have hset := hrun.trans (modLive_sameRun (tag := ((withTail l w).entered (betweenSteps s q.val) q.val).req.tag)
    (f := fun _ => (withTail l w).entered (betweenSteps s q.val) q.val))
  refine ⟨_, _, hset.world, hset.moves.trans h.moves, henters, ?_, w, ?_⟩
  · rw [← henters.sameTag]
    exact liveOf_set hlives henters.sameTag.symm (henters.ended.trans h.live)
  · rw [h.stepBoundary hstreams, enterSteps_one]

/-- The step is in flight, no lane changed, and memory changed only where a prefill's descriptors went to a ring. -/
theorem BoundaryReady.inFlight {q : Part} (h : BoundaryReady s q l) : ∃ t, exec (.stepBoundary q) s = .next t ∧
    (t.part q.val).hold.step = some { start := s.now, streams := [l.req.tag] } ∧ t.lanes = s.lanes ∧
    (l.req.phase ≠ 1 ∨ moveAwl s q.val = none → t.mem = s.mem) := by
  obtain ⟨u, y, hu, hmoves, henters, -, w, hex⟩ := h.begins
  have hrun : SameWorld s (runStream u q.val y 0) := hu.trans runStream_world
  have hposted := holderOn_posted (s := stepStarted (runStream u q.val y 0) q.val [withTail l w]) (p := q.val)
  refine ⟨_, hex, hposted.step.trans ?_, hposted.lanes.trans hrun.lanes, fun hquiet => ?_⟩
  · simp [stepStarted, withTail, hrun.now]
  · refine (holderOn_mem (hquiet.imp (fun h1 => ?_) fun hawl => ?_)).trans hrun.mem
    · obtain ⟨_, _, hreq⟩ := henters.req
      have hrest := (runStream_moves (s := u) (p := q.val) (l := y) (row := 0) (by rw [hreq]; exact h1)).trans hmoves
      simpa [stepStarted] using hrest
    · exact (moveAwl_world (hrun.trans modHold_world)).trans hawl

/-! ### What a prefill asks for (R158, R159, R281) -/

theorem model_of_pattern {m : Nat} (h : t.pattern = s.pattern) : t.model p m = s.model p m := by
  rw [State.model, h, State.model]

theorem stepStarted_sameSent {st : List Live} : SameSent v (stepStarted v p st) p := ⟨by simp [stepStarted], rfl⟩

/-- What has been sent is still noted when the firmware's descriptors have gone to a ring. -/
theorem HasSent.noted {P : SvcHdr → Prop} {st : List Live} (h : HasSent v p P) :
    ∃ id y, ((holderOn (stepStarted v p st) p).part p).last.sent.find id = some y ∧ P y.h := by
  obtain ⟨id, y, -, hy, hP⟩ := h.sameSent (stepStarted_sameSent (st := st))
  exact ⟨id, y, by rw [holderOn_posted.last]; exact hy, hP⟩

theorem liveOf_noted {st : List Live} : liveOf (holderOn (stepStarted v p st) p) p tag = liveOf v p tag :=
  (liveOf_of_lives holderOn_posted.lives).trans (liveOf_of_lives (by simp [stepStarted]))

theorem runStream_prefill {row : Nat} (hm : l.marked = false) :
    runStream s p l row = sendQueries (if l.req.phase = 1 then writePrefill s p l row else s) p l := by
  rw [runStream, hm]
  rfl

/-- A prefill asks one QUERY per layer, and begins a COMMIT of the whole prompt for every copy. -/
theorem BoundaryReady.asks {q : Part} {m : ModelPiece} (h : BoundaryReady s q l) (hready : prefillReady l = true)
    (hm : s.model q.val l.req.model = some m) : ∃ t, exec (.stepBoundary q) s = .next t ∧
    (∀ k, k < m.layers →
      ∃ id y, (t.part q.val).last.sent.find id = some y ∧ y.h.op = 5 ∧ y.h.tag = l.req.tag ∧ y.h.posA = k) ∧
    (l.req.phase = 1 → l.due = [] → ∀ c ∈ l.copies,
      (∃ l', liveOf t q.val l.req.tag = some l' ∧ ∃ d ∈ l'.due, d.copy = c ∧ d.lo = l.req.length ∧
        d.hi = l.req.length + l.req.promptTokens) ∨
      (∃ id y, (t.part q.val).last.sent.find id = some y ∧ y.h.op = 2 ∧ y.h.handle = c ∧
        y.h.posA = l.req.length ∧ y.h.posB = l.req.length + l.req.promptTokens)) := by
  obtain ⟨u, y, hu, -, henters, hl, w, hex⟩ := h.begins
  obtain ⟨tail, base, hreq⟩ := henters.req
  have hphase := prefillReady_phase hready
  have hrun := runStream_prefill (s := u) (p := q.val) (row := 0) (henters.unmarked (by omega))
  refine ⟨_, hex, fun k hk =>
    HasSent.noted (P := fun h => h.op = 5 ∧ h.tag = l.req.tag ∧ h.posA = k) ?_, fun h1 hdue c hc => ?_⟩
  · have hworld : SameWorld s (if y.req.phase = 1 then writePrefill u q.val y 0 else u) := by
      split
      · exact hu.trans writePrefill_world
      · exact hu
    have hmodel : (if y.req.phase = 1 then writePrefill u q.val y 0 else u).model q.val y.req.model = some m := by
      rw [model_of_pattern hworld.pattern, hreq]
      exact hm
    rw [hrun, ← henters.sameTag]
    exact sendQueries_sends hmodel hk
  · have hy1 : y.req.phase = 1 := by rw [hreq]; exact h1
    have hcopies : c ∈ y.copies := by rw [Live.copies, hreq]; exact hc
    have hlength : y.req.length = l.req.length ∧ y.req.promptTokens = l.req.promptTokens := by rw [hreq]; exact ⟨rfl, rfl⟩
    rw [← henters.sameTag] at hl
    obtain ⟨l', hl', hout⟩ := writePrefill_due (row := 0) hl (henters.due.trans hdue) (henters.last h1) hcopies
    rw [hlength.1, hlength.2] at hout
    rw [hrun, if_pos hy1]
    refine hout.imp (fun hd => ⟨l', ?_, hd⟩) fun hsent => hsent.sendQueries.noted
    rw [liveOf_noted, ← henters.sameTag]
    exact (liveOf_of_lives (by rw [sendQueries_messaged.hold])).trans hl'

/-- Settles O20: a step begins for the one request that can run, and commits what it yields or ends with its code. -/
theorem stepsBeginAndCommit : Obligations.StepsBeginAndCommit := by
  unfold Obligations.StepsBeginAndCommit
  refine ⟨fun q l s hcode hstate hstep hstays hhandoffs hlives hlive htaking hmoves hcancel hrole hpinned => ?_,
    fun q st l x s hcode hstep hsound hreplay hstreams hlive hstays hkept hmoves => ?_,
    fun q st s hcode hstep hfailed hreplay hmoves hc => stepCommit_fails hcode hstep hfailed hreplay hmoves hc⟩
  · have hready (hruns) : BoundaryReady s q l :=
      ⟨hcode, hstate, hstep, hstays, hhandoffs, hlives, hlive, htaking, hmoves, hcancel, hrole, hpinned, hruns⟩
    exact ⟨fun hruns => (hready hruns).inFlight, fun m hprefill hm => (hready (.inl hprefill)).asks hprefill hm⟩
  · have hready : CommitReady s q st l := ⟨hcode, hstep, hsound, hreplay, hstreams, hlive, hstays, hkept, hmoves⟩
    refine ⟨fun h1 hopen rs => hready.waits h1 hopen, fun hdue hmaker => ⟨?_, ?_, ?_⟩⟩
    · intro o ol h4 hmarked hfinal hunfed hroom hshort hlane hfound hitems hreads hwrites hback
      exact hready.decodes hdue hmaker h4 hmarked hfinal hunfed hroom hshort ⟨hlane, hfound, hitems, hreads, hwrites, hback⟩
    · exact hready.chunk hdue hmaker
    · refine fun hp hwhole => ⟨hready.keepsToken hdue hmaker hp hwhole, ?_⟩
      intro o ol h2 hcommits hcount hroom hnew hcancel h0 hlane hfound hitems hreads hwrites hback
      exact hready.joins hdue hmaker hp hwhole h2 hcommits hcount hroom hnew hcancel h0
        ⟨hlane, hfound, hitems, hreads, hwrites, hback⟩

end Sys2Proof.Machine
end

section
/-! # An instruction of a stitch core

A core comes to the instruction of a command behind its scalar instructions (`comesTo`). One that does not fault goes on to the
next instruction (`GoesOn`); one that faults stops the run and leaves the core at it. -/

namespace Sys2Proof.Machine

variable {s t u : State} {b : Blk} {r : CoreRun}

/-! ### The registers of one core -/

theorem core_of_cores {n k : Nat} (h : t.cores = s.cores) : t.core n k = s.core n k := by
  rw [State.core, h]
  rfl

theorem setCore_core_ne {n k m c : Nat} (x : Core) (hk : k < 1024) (hc : c < 1024) (h : n ≠ m ∨ k ≠ c) :
    (s.setCore m c x).core n k = s.core n k :=
  at_put_ne _ _ _ (by unfold coreKey; omega)

theorem coresKept_of_cores (hk : coresKept s t b r) (h : u.cores = t.cores) : coresKept s u b r :=
  fun n k hn hne => (core_of_cores h).trans (hk n k hn hne)

theorem coresKept_setCore {x : Core} (h : coresKept s t b r) : coresKept s (t.setCore b.val r.core.val x) b r :=
  fun n k hk hne => (setCore_core_ne x hk r.core.isLt hne).trans (h n k hk hne)

/-! ### One instruction (R194, R201) -/

/-- The state in which the core of a command comes to its instruction. -/
def comesTo (s : State) (b : Blk) (r : CoreRun) : State := s.setCore b.val r.core.val (coreAt s b r)

theorem comesTo_core : (comesTo s b r).core b.val r.core.val = coreAt s b r := setCore_core_same

theorem comesTo_kept : coresKept s (comesTo s b r) b r := coresKept_setCore fun _ _ _ _ => rfl

/-- From `s` to `t` the core of a command took its instruction, which left it as `k`, and went on to the next; no other core
and no block changed. -/
structure GoesOn (s t : State) (b : Blk) (r : CoreRun) (k : Core) : Prop where
  core : t.core b.val r.core.val = { k with pc := k.pc + 8 }
  others : coresKept s t b r
  blocks : t.blocks = s.blocks

theorem onCore_goesOn {f : State → Core → State} {k : Core} (hr : coreRuns s b.val r.core.val = true)
    (hf : f (comesTo s b r) (coreAt s b r) = u) (hcore : u.core b.val r.core.val = k) (hkept : coresKept s u b r)
    (hblocks : u.blocks = s.blocks) : GoesOn s (onCore s b.val r.core.val r.pre f) b r k ∧
      (onCore s b.val r.core.val r.pre f).mem = u.mem ∧ (onCore s b.val r.core.val r.pre f).counters = u.counters := by
  have hstate : (u.block b.val).eng.state = 1 := by rw [block_of_blocks hblocks, coreRuns_state hr]
  have hu : onCore s b.val r.core.val r.pre f = u.setCore b.val r.core.val (k.goTo false 0) := by
    subst hf hcore
    exact (if_pos hr).trans (if_pos hstate)
  rw [hu]
  exact ⟨⟨setCore_core_same, coresKept_setCore hkept, hblocks⟩, rfl, rfl⟩

/-- From `s` to `t` the core of a command came to its instruction and stopped the run there with `code`; no byte of memory
changed. -/
structure StopsAt (s t : State) (b : Blk) (r : CoreRun) (code : Byte) : Prop where
  state : (t.block b.val).eng.state = 2
  stopCode : (t.block b.val).eng.stopCode = code
  core : t.core b.val r.core.val = coreAt s b r
  mem : t.mem = s.mem

/-- What a fault leaves, behind operations that change no core and no byte of memory. -/
theorem coreFault_stopsAt {code : Byte} (hcores : u.cores = (comesTo s b r).cores) (hmem : u.mem = s.mem) :
    StopsAt s (coreFault u b.val r.core.val code) b r code :=
  ⟨by rw [coreFault_eng], by rw [coreFault_eng], (core_of_cores hcores).trans comesTo_core, hmem⟩

theorem onCore_stopsAt {f : State → Core → State} {code : Byte} (hr : coreRuns s b.val r.core.val = true)
    (hf : StopsAt s (f (comesTo s b r) (coreAt s b r)) b r code) :
    StopsAt s (onCore s b.val r.core.val r.pre f) b r code := by
  have he : onCore s b.val r.core.val r.pre f = f (comesTo s b r) (coreAt s b r) :=
    (if_pos hr).trans (if_neg fun h1 => absurd (hf.state.symm.trans h1) (by decide))
  rwa [he]

/-! ### End and Barrier (R201, R202) -/

/-- An instruction that changes the registers of its core alone. -/
theorem onCore_setCore {g : Core → Core} (hr : coreRuns s b.val r.core.val = true) :
    ∃ t, Host.Outcome.next (onCore s b.val r.core.val r.pre fun s c => s.setCore b.val r.core.val (g c)) = (.next t : Out) ∧
      GoesOn s t b r (g (coreAt s b r)) ∧ t.mem = s.mem ∧ t.counters = s.counters :=
  ⟨_, rfl, onCore_goesOn (u := (comesTo s b r).setCore b.val r.core.val (g (coreAt s b r))) hr rfl setCore_core_same
    (coresKept_setCore comesTo_kept) rfl⟩

theorem exec_endRun (hr : coreRuns s b.val r.core.val = true) : ∃ t, exec (.endRun b r) s = .next t ∧
    GoesOn s t b r { coreAt s b r with ended := true } ∧ t.mem = s.mem ∧ t.counters = s.counters :=
  onCore_setCore (g := fun c => { c with ended := true }) hr

theorem exec_barrier (hr : coreRuns s b.val r.core.val = true) : ∃ t, exec (.barrier b r) s = .next t ∧
    GoesOn s t b r { coreAt s b r with atBarrier := true } ∧ t.mem = s.mem ∧ t.counters = s.counters :=
  onCore_setCore (g := fun c => { c with atBarrier := true }) hr

/-- A core that waits at the barrier has registers of its own. -/
theorem find_of_atBarrier {n k : Nat} (h : (s.core n k).atBarrier = true) :
    s.cores.find (coreKey n k) = some (s.core n k) := by
  cases hc : s.cores.find (coreKey n k) with
  | none => simp [State.core, KMap.at, hc] at h
  | some x => simp [State.core, KMap.at, hc]

theorem exec_barrierRelease (h1 : (s.block b.val).eng.state = 1)
    (hall : ∀ c, c < 1024 → (s.core b.val c).atBarrier = true) : ∃ t, exec (.barrierRelease b) s = .next t ∧
    (∀ c, c < 1024 → t.core b.val c = { s.core b.val c with atBarrier := false }) ∧
    (∀ k c, k ≠ b.val → c < 1024 → t.core k c = s.core k c) ∧ t.blocks = s.blocks ∧ t.mem = s.mem ∧
    t.counters = s.counters := by
  have hcond : (s.block b.val).eng.state = 1 ∧ allCores s b.val (·.atBarrier) = true :=
    ⟨h1, List.all_eq_true.2 fun c hc => hall c (List.mem_range.1 hc)⟩
  refine ⟨_, if_pos hcond, fun c hc => ?_, fun k c hk hc => ?_, rfl, rfl, rfl⟩
  · have hin : 1024 * b.val ≤ coreKey b.val c ∧ coreKey b.val c < 1024 * b.val + 1024 := by unfold coreKey; omega
    rw [State.core, KMap.at, find_mapVals, find_of_atBarrier (hall c hc)]
    exact if_pos hin
  · have hout : ¬(1024 * b.val ≤ coreKey k c ∧ coreKey k c < 1024 * b.val + 1024) := by unfold coreKey; omega
    rw [State.core, KMap.at, find_mapVals]
    simp only [hout, if_false, Option.map_id']
    rfl

end Sys2Proof.Machine
end

section
/-! # The benches of the stitch cores -/

namespace Sys2Proof.Machine

variable {s t : State} {b : Blk} {r : CoreRun}

/-! ### Bytes (R7) -/

theorem memGet_length {m : List Host.Cell} {k n : Nat} : (memGet m k n).length = n := by
  induction n generalizing k with
  | zero => rfl
  | succ n ih => rw [memGet, List.length_cons, ih]

theorem memGet_getD {m : List Host.Cell} {k n i : Nat} (h : i < n) : (memGet m k n).getD i 0 = memByte m (k + i) := by
  induction n generalizing k i with
  | zero => exact absurd h (Nat.not_lt_zero i)
  | succ n ih =>
    cases i with
    | zero => rfl
    | succ i =>
      rw [memGet, List.getD_cons_succ, ih (Nat.lt_of_succ_lt_succ h), Nat.add_assoc, Nat.add_comm 1 i]

/-- Byte `i` of a number spelled by bytes. -/
theorem bitsOf_leNat {bs : List Byte} {i : Nat} : bitsOf (leNat bs) (8 * i) 8 = (bs.getD i 0).toNat := by
  unfold bitsOf
  induction bs generalizing i with
  | nil => simp [leNat]
  | cons x rest ih =>
    have hx := x.isLt
    cases i with
    | zero =>
      simp only [leNat, List.getD_cons_zero]
      omega
    | succ i =>
      have hdrop : (x.toNat + 256 * leNat rest) / 2 ^ 8 = leNat rest := by omega
      rw [leNat, List.getD_cons_succ, ← ih, show 8 * (i + 1) = 8 + 8 * i by ring, pow_add, ← Nat.div_div_eq_div_mul, hdrop]

/-- Byte `i` of the bytes that spell a number. -/
theorem leBytes_getD {n v i : Nat} (h : i < n) : ((leBytes n v).getD i 0).toNat = bitsOf v (8 * i) 8 := by
  unfold bitsOf
  induction n generalizing v i with
  | zero => exact absurd h (Nat.not_lt_zero i)
  | succ n ih =>
    cases i with
    | zero => simp [leBytes]
    | succ i =>
      rw [leBytes, List.getD_cons_succ, ih (Nat.lt_of_succ_lt_succ h), Nat.div_div_eq_div_mul,
        show 8 * (i + 1) = 8 + 8 * i by ring, pow_add]
      rfl

/-- Bits of a number below the width of the word that holds it. -/
theorem bitsOf_ofNat {v lo n m : Nat} (h : lo + n ≤ m) : bitsOf (BitVec.ofNat m v).toNat lo n = bitsOf v lo n := by
  have hsplit : 2 ^ m = 2 ^ lo * (2 ^ n * 2 ^ (m - lo - n)) := by
    rw [← pow_add, ← pow_add]
    congr 1
    omega
  rw [BitVec.toNat_ofNat, bitsOf, bitsOf, hsplit, Nat.mod_mul_right_div_self, Nat.mod_mul_right_mod]

/-- An element of a vector register that holds the bits of a number. -/
theorem elem_ofNat {v w i : Nat} (h : w * i + w ≤ 512) : elem (BitVec.ofNat 512 v) w i = bitsOf v (w * i) w :=
  bitsOf_ofNat h

/-- The bytes of a vector register, of which a store takes the first ones. -/
theorem bytesOf512_take_getD {v : BitVec 512} {n i : Nat} (hn : n ≤ 64) (h : i < n) :
    (((bytesOf512 v).take n).getD i 0).toNat = elem v 8 i := by
  rw [List.getD_eq_getElem?_getD, List.getElem?_take_of_lt h, ← List.getD_eq_getElem?_getD]
  exact leBytes_getD (by omega)

theorem bytesOf512_take_length {v : BitVec 512} {n : Nat} (hn : n ≤ 64) : ((bytesOf512 v).take n).length = n := by
  have leBytes_length (n v : Nat) : (leBytes n v).length = n := by
    induction n generalizing v with
    | zero => rfl
    | succ n ih => rw [leBytes, List.length_cons, ih]
  rw [List.length_take, bytesOf512, leBytes_length]
  omega

theorem setVec_vec_same {k : Core} {v : Nat} {x : BitVec 512} : (k.setVec v x).vec v = x := at_put_same ..

theorem setVec_vec_ne {k : Core} {v w : Nat} {x : BitVec 512} (h : w ≠ v) : (k.setVec v x).vec w = k.vec w :=
  at_put_ne _ _ _ h

/-! ### Where a bench lies (R295) -/

theorem memKey_benchOff {p n c off : Nat} : memKey p (benchOff n c off) = benchKey n c off := by
  unfold memKey benchOff benchKey benchBase
  split <;> omega

theorem benchKey_add {n c off i : Nat} : benchKey n c (off + i) = benchKey n c off + i := (Nat.add_assoc ..).symm

theorem benchBase_le_benchOff {n c off : Nat} : benchBase ≤ benchOff n c off := by
  unfold benchOff
  omega

/-- No channel of a memory stands behind a bench. -/
theorem suspectAt_bench {p off : Nat} (h : benchBase ≤ off) : suspectAt s p off = false := by
  simp [suspectAt, Nat.not_lt.2 h]

/-! ### The checks of an access (R192, R201, R318) -/

section
variable {n c off len : Nat}

theorem benchCode_beyond {store : Bool} (h : benchSize < off + len) : benchCode s n c off len store = 0x0D := if_pos h

/-- A load that finds an uncorrectable word within the bench. -/
theorem benchCode_bad (hin : off + len ≤ benchSize) {w : Nat} (hw : w ∈ badIn s (benchKey n c off) len) :
    benchCode s n c off len false = 4 := by
  rw [benchCode, if_neg (Nat.not_lt.2 hin), if_pos]
  exact List.any_eq_true.2 ⟨w, hw, rfl⟩

/-- A store that passes its checks covers each uncorrectable word that it meets. -/
theorem covers_of_benchCode (h : benchCode s n c off len true = 0) {w : Nat} (hw : w ∈ badIn s (benchKey n c off) len) :
    coversWord (benchKey n c off) len w = true := by
  unfold benchCode at h
  split at h
  · exact absurd h (by decide)
  · split at h
    · exact absurd h (by decide)
    next hnone =>
      rw [List.any_eq_true] at hnone
      by_contra hc
      exact hnone ⟨w, hw, by simp [hc]⟩

/-! ### Bytes stored in a bench (R196) -/

theorem memByte_benchPut {bs : List Byte} {i : Nat} (h : benchCode s n c off bs.length true = 0) (hi : i < bs.length) :
    memByte (benchPut s n c off bs).mem (benchKey n c (off + i)) = bs.getD i 0 := by
  have hheld : (s.badWords.contains ((benchKey n c off + i) / 32) &&
      !coversWord (benchKey n c off) bs.length ((benchKey n c off + i) / 32)) = false := by
    cases hb : s.badWords.contains ((benchKey n c off + i) / 32) with
    | false => rfl
    | true =>
      have hw : (benchKey n c off + i) / 32 ∈ badIn s (benchKey n c off) bs.length := List.mem_filter.2 ⟨mem_wordsOf hi, hb⟩
      rw [covers_of_benchCode h hw]
      rfl
  have hsound : suspectAt s 0 (benchOff n c off + (benchKey n c off + i - benchKey n c off)) = false :=
    suspectAt_bench (Nat.le_add_right_of_le benchBase_le_benchOff)
  rw [benchPut, storeRaw_mem, memKey_benchOff, benchKey_add,
    memByte_memPuts_in _ _ _ _ _ hi, hheld, hsound]
  simp [hi]

theorem benchPut_memKept {bs : List Byte} : memKeptBut s (benchPut s n c off bs) (benchKey n c off) bs.length :=
  fun a ha => memByte_storeRaw_out s 0 (benchOff n c off) bs a (by rwa [memKey_benchOff])

theorem benchPut_blocks {bs : List Byte} : (benchPut s n c off bs).blocks = s.blocks := storeRaw_blocks ..

theorem benchPut_cores {bs : List Byte} : (benchPut s n c off bs).cores = s.cores := storeRaw_cores ..

end
end Sys2Proof.Machine
end

section
/-! # Bench accesses of the stitch cores

Bench load fills a register; Bench store, Compact and the exchange store bytes in a bench (`Stores`); each of them stops the run
where its access fails. -/

namespace Sys2Proof.Machine

variable {s t u : State} {b : Blk} {r : CoreRun}

/-! ### Words in error (R316 to R320) -/

/-- The state with these marks and counts of words in error. -/
def withErrors (s : State) (bad : List Nat) (hbm ddr : KMap Ecc) : State :=
  { s with badWords := bad, hbmEcc := hbm, ddrEcc := ddr }

/-- A transfer that meets a word in error marks and counts it at most. -/
theorem eccMet_errors {p off len : Nat} {found : Found} : ∃ L H D, eccMet s p off len found = withErrors s L H D := by
  unfold eccMet
  split
  · exact ⟨_, _, _, rfl⟩
  · dsimp only
    split
    · exact ⟨_, _, _, rfl⟩
    · split
      · exact ⟨_, _, _, rfl⟩
      · split
        · exact ⟨_, _, _, rfl⟩
        · unfold countFixed
          split <;> exact ⟨_, _, _, rfl⟩

/-- A word that was found well is at most counted as corrected. -/
theorem eccMet_fine {p off len : Nat} {found : Found} (h : foundFine found = true) :
    ∃ H D, eccMet s p off len found = withErrors s s.badWords H D :=
  eccMetIn_fine (xs := [(off, len)]) h

theorem mem_addBad {l : List Nat} {w : Nat} : w ∈ addBad l w := by
  unfold addBad
  split
  next h => simpa using h
  · exact (mem_insertOn ..).2 (.inl rfl)

/-- The word at key `a` is among those of a span that it overlaps. -/
theorem mem_wordsOf_of_overlap {k len a : Nat} (hlen : 0 < len) (ha : 32 ∣ a) (hlo : a < k + len) (hhi : k < a + 32) :
    a / 32 ∈ wordsOf k len := by
  simp only [wordsOf, Nat.pos_iff_ne_zero.1 hlen, if_false, upFrom, List.mem_map, List.mem_range]
  exact ⟨a / 32 - k / 32, by omega, by omega⟩

/-- A word found uncorrectable under a transfer is an uncorrectable one of its span from then on (R318). -/
theorem eccMet_marks {p off len : Nat} {w : Word} (hlen : 0 < len) (hlo : w.toNat / 32 * 32 < off + len)
    (hhi : off < w.toNat / 32 * 32 + 32)
    (hword : memKey p (w.toNat / 32 * 32) / 32 ∈ wordsOf (memKey p off) len) :
    memKey p (w.toNat / 32 * 32) / 32 ∈ badIn (eccMet s p off len (some (w, false))) (memKey p off) len := by
  refine List.mem_filter.2 ⟨hword, List.contains_iff_mem.2 ?_⟩
  simp only [eccMet]
  split
  next h =>
    rcases h with h | h | h | h
    · omega
    · omega
    · omega
    · exact List.contains_iff_mem.1 h
  · exact mem_addBad

theorem badWordFaults_mem {p off len : Nat} {tag : Word} : (badWordFaults s p off len tag).mem = s.mem :=
  (memory_of_kept (w := ⟨false, false, false, false, false, false, false⟩) (badWordFaults_kept ..) rfl).1

theorem badWordFaults_cores {p off len : Nat} {tag : Word} : (badWordFaults s p off len tag).cores = s.cores :=
  cores_of_kept (w := ⟨false, false, false, false, false, false, false⟩) (badWordFaults_kept ..) rfl

/-- An access that fails stops the run at the core that made it. -/
theorem benchFault_stopsAt {k off len : Nat} {code : Byte} (hcores : u.cores = (comesTo s b r).cores) (hmem : u.mem = s.mem) :
    StopsAt s (benchFault u b.val r.core.val k off len code) b r code := by
  unfold benchFault
  dsimp only
  split
  · exact coreFault_stopsAt (badWordFaults_cores.trans hcores) (badWordFaults_mem.trans hmem)
  · exact coreFault_stopsAt hcores hmem

/-! ### Bench load (R192) -/

/-- A register whose first `len` bytes a load takes from a bench, the others being those of `old`. -/
def loadedVec (s : State) (n c off len : Nat) (old : BitVec 512) : BitVec 512 :=
  BitVec.ofNat 512 (leNat (benchBytes s n c off len ++ (bytesOf512 old).drop len))

theorem loadedVec_elem {n c off len i : Nat} {old : BitVec 512} (hlen : len ≤ 64) (hi : i < len) :
    elem (loadedVec s n c off len old) 8 i = (memByte s.mem (benchKey n c (off + i))).toNat := by
  have hlong : i < (benchBytes s n c off len).length := by rwa [benchBytes, memGet_length]
  rw [loadedVec, elem_ofNat (by omega), bitsOf_leNat, List.getD_append _ _ _ _ hlong, benchBytes, memGet_getD hi, benchKey_add]

theorem exec_benchLoad {dst : Fin 16} {off len : Nat} (hr : coreRuns s b.val r.core.val = true) (hlen : len ≤ 64)
    (hcode : benchCode s b.val r.core.val off len false = 0) (hfound : foundFine r.found = true) :
    ∃ t, exec (.benchLoad b r dst off len) s = .next t ∧ GoesOn s t b r ((coreAt s b r).setVec dst.val
      (loadedVec s b.val r.core.val off len ((coreAt s b r).vec dst.val))) ∧ t.mem = s.mem := by
  obtain ⟨H, D, hecc⟩ := eccMet_fine (s := comesTo s b r) (p := ((comesTo s b r).blockOwner b.val).getD 255)
    (off := benchOff b.val r.core.val off) (len := len) hfound
  let u := withErrors (comesTo s b r) (comesTo s b r).badWords H D
  have hcode' : ¬benchCode u b.val r.core.val off len false ≠ 0 := not_not_intro hcode
  refine ⟨_, rfl, And.imp_right And.left (onCore_goesOn (u := u.setCore ..) hr ?_ setCore_core_same
    (coresKept_setCore (t := u) comesTo_kept) rfl)⟩
  dsimp only
  rw [Nat.min_eq_left hlen, hecc, if_neg hcode']
  rfl

/-- A load that meets an uncorrectable word (R201, R318). -/
theorem exec_benchLoad_lost {dst : Fin 16} {off len : Nat} {w : Word} (hr : coreRuns s b.val r.core.val = true)
    (hlen : len ≤ 64) (hfound : r.found = some (w, false)) (hpos : 0 < len) (hin : off + len ≤ benchSize)
    (hlo : w.toNat / 32 * 32 < benchOff b.val r.core.val off + len)
    (hhi : benchOff b.val r.core.val off < w.toNat / 32 * 32 + 32) :
    ∃ t, exec (.benchLoad b r dst off len) s = .next t ∧ StopsAt s t b r 4 := by
  obtain ⟨L, H, D, hecc⟩ := eccMet_errors (s := comesTo s b r) (p := ((comesTo s b r).blockOwner b.val).getD 255)
    (off := benchOff b.val r.core.val off) (len := len) (found := some (w, false))
  have hword : memKey (((comesTo s b r).blockOwner b.val).getD 255) (w.toNat / 32 * 32) / 32 ∈
      wordsOf (memKey (((comesTo s b r).blockOwner b.val).getD 255) (benchOff b.val r.core.val off)) len := by
    have hbase := benchBase_le_benchOff (n := b.val) (c := r.core.val) (off := off)
    have hkey (a : Nat) (ha : benchBase ≤ a) (p : Nat) : memKey p a = 2 ^ 54 + (a - benchBase) := if_neg (Nat.not_lt.2 ha)
    have haligned : benchBase = 32 * 0x780_0000_0000 := rfl
    rw [hkey _ hbase, hkey _ (by omega)]
    exact mem_wordsOf_of_overlap hpos (by omega) (by omega) (by omega)
  have hcode : benchCode (withErrors (comesTo s b r) L H D) b.val r.core.val off len false = 4 := by
    have hbad := eccMet_marks (s := comesTo s b r) hpos hlo hhi hword
    rw [hecc, memKey_benchOff (off := off)] at hbad
    exact benchCode_bad hin hbad
  refine ⟨_, rfl, onCore_stopsAt hr ?_⟩
  dsimp only
  rw [Nat.min_eq_left hlen, hfound, hecc, hcode, if_pos (by decide)]
  exact benchFault_stopsAt rfl rfl

/-- A load past the bench's end (R201). -/
theorem exec_benchLoad_beyond {dst : Fin 16} {off len : Nat} (hr : coreRuns s b.val r.core.val = true) (hlen : len ≤ 64)
    (hbeyond : benchSize < off + len) : ∃ t, exec (.benchLoad b r dst off len) s = .next t ∧ StopsAt s t b r 0x0D := by
  refine ⟨_, rfl, onCore_stopsAt hr ?_⟩
  obtain ⟨L, H, D, hecc⟩ := eccMet_errors (s := comesTo s b r) (p := ((comesTo s b r).blockOwner b.val).getD 255)
    (off := benchOff b.val r.core.val off) (len := len) (found := r.found)
  dsimp only
  rw [Nat.min_eq_left hlen, hecc, benchCode_beyond hbeyond, if_pos (by decide)]
  exact benchFault_stopsAt rfl rfl

/-! ### Stores in a bench (R191, R196, R206 to R211) -/

/-- From `s` to `t` the core of a command stored `bs` from byte `off` of the bench of core `c` of its block on, and went on. -/
structure Stores (s t : State) (b : Blk) (r : CoreRun) (c off : Nat) (bs : List Byte) : Prop where
  goesOn : GoesOn s t b r (coreAt s b r)
  bytes : ∀ i, i < bs.length → memByte t.mem (benchKey b.val c (off + i)) = bs.getD i 0
  kept : memKeptBut s t (benchKey b.val c off) bs.length

/-- An instruction whose store in a bench passes its checks. -/
theorem onCore_stores {f : State → Core → State} {c off : Nat} {bs : List Byte} {H D : KMap Ecc}
    (hr : coreRuns s b.val r.core.val = true) (hcode : benchCode s b.val c off bs.length true = 0)
    (hf : f (comesTo s b r) (coreAt s b r) =
      benchPut (withErrors (comesTo s b r) (comesTo s b r).badWords H D) b.val c off bs) :
    Stores s (onCore s b.val r.core.val r.pre f) b r c off bs := by
  obtain ⟨hgo, hmem, -⟩ := onCore_goesOn hr hf ((core_of_cores benchPut_cores).trans comesTo_core)
    (coresKept_of_cores comesTo_kept benchPut_cores) benchPut_blocks
  refine ⟨hgo, fun i hi => ?_, fun a ha => ?_⟩
  · rw [hmem]
    exact memByte_benchPut hcode hi
  · rw [hmem]
    exact benchPut_memKept a ha

theorem exec_benchStore {src : Fin 16} {off len : Nat} (hr : coreRuns s b.val r.core.val = true) (hlen : len ≤ 64)
    (hcode : benchCode s b.val r.core.val off len true = 0) : ∃ t, exec (.benchStore b r src off len) s = .next t ∧
      Stores s t b r r.core.val off ((bytesOf512 ((coreAt s b r).vec src.val)).take len) := by
  refine ⟨_, rfl, onCore_stores (H := s.hbmEcc) (D := s.ddrEcc) hr (by rwa [bytesOf512_take_length hlen]) ?_⟩
  have hcode' : benchCode (comesTo s b r) b.val r.core.val off len true = 0 := hcode
  dsimp only
  rw [Nat.min_eq_left hlen, hcode', if_neg (by decide), if_neg (by decide)]
  rfl

/-- A store past the bench's end (R201). -/
theorem exec_benchStore_beyond {src : Fin 16} {off len : Nat} (hr : coreRuns s b.val r.core.val = true) (hlen : len ≤ 64)
    (hbeyond : benchSize < off + len) : ∃ t, exec (.benchStore b r src off len) s = .next t ∧ StopsAt s t b r 0x0D := by
  refine ⟨_, rfl, onCore_stopsAt hr ?_⟩
  dsimp only
  rw [Nat.min_eq_left hlen, benchCode_beyond hbeyond, if_pos rfl, if_pos (by decide)]
  exact benchFault_stopsAt rfl rfl

/-- COMPACT takes a head from the bench and stores its conversion there (R206 to R211). -/
theorem exec_compact {op : CompactOp} {head : Fin 3} {a d : Nat} {bs : List Byte} (hr : coreRuns s b.val r.core.val = true)
    (hsrc : benchCode s b.val r.core.val a (compactSpan op head.val) false = 0)
    (hbs : compactResult op head.val (benchBytes s b.val r.core.val a (compactSpan op head.val)) = bs)
    (hdst : benchCode s b.val r.core.val d bs.length true = 0) (hfound : foundFine r.found = true) :
    ∃ t, exec (.compact b r op head a d) s = .next t ∧ Stores s t b r r.core.val d bs := by
  obtain ⟨H, D, hecc⟩ := eccMet_fine (s := comesTo s b r) (p := ((comesTo s b r).blockOwner b.val).getD 255)
    (off := benchOff b.val r.core.val a) (len := compactSpan op head.val) hfound
  let u := withErrors (comesTo s b r) (comesTo s b r).badWords H D
  have hsrc' : benchCode u b.val r.core.val a (compactSpan op head.val) false = 0 := hsrc
  have hbs' : compactResult op head.val (benchBytes u b.val r.core.val a (compactSpan op head.val)) = bs := hbs
  have hdst' : benchCode u b.val r.core.val d bs.length true = 0 := hdst
  refine ⟨_, rfl, onCore_stores (H := H) (D := D) hr hdst ?_⟩
  dsimp only
  rw [hecc, hsrc', if_neg (by decide), hbs', hdst', if_neg (by decide), if_neg (by decide)]

/-- EXCHANGE stores 32 bytes in the bench of the neighbour (R191). -/
theorem exec_exchange {dir : Dir} {a d n : Nat} (hr : coreRuns s b.val r.core.val = true)
    (hn : neighbour r.core.val dir = some n) (hsrc : benchCode s b.val r.core.val a 32 false = 0)
    (hdst : benchCode s b.val n d 32 true = 0) (hfound : foundFine r.found = true) :
    ∃ t, exec (.exchange b r dir a d) s = .next t ∧ Stores s t b r n d (benchBytes s b.val r.core.val a 32) := by
  obtain ⟨H, D, hecc⟩ := eccMet_fine (s := comesTo s b r) (p := ((comesTo s b r).blockOwner b.val).getD 255)
    (off := benchOff b.val r.core.val a) (len := 32) hfound
  let u := withErrors (comesTo s b r) (comesTo s b r).badWords H D
  have hsrc' : benchCode u b.val r.core.val a 32 false = 0 := hsrc
  have hdst' : benchCode u b.val n d 32 true = 0 := hdst
  refine ⟨_, rfl, onCore_stores (H := H) (D := D) hr (by rwa [benchBytes, memGet_length]) ?_⟩
  rw [hn]
  dsimp only
  rw [hecc, hsrc', if_neg (by decide), hdst', if_neg (by decide), if_neg (by decide)]
  rfl

/-- At the edge of the grid there is no neighbour (R201). -/
theorem exec_exchange_edge {dir : Dir} {a d : Nat} (hr : coreRuns s b.val r.core.val = true)
    (hn : neighbour r.core.val dir = none) :
    ∃ t, exec (.exchange b r dir a d) s = .next t ∧ StopsAt s t b r 0x0B := by
  refine ⟨_, rfl, onCore_stopsAt hr ?_⟩
  rw [hn]
  exact coreFault_stopsAt rfl rfl

/-- Settles O32: what each instruction stores or loads, and where it stops the run. -/
theorem coresReachTheirBench : Obligations.CoresReachTheirBench := by
  rintro b r c k s rfl hr rfl
  refine ⟨fun dst off len hlen => ⟨fun hcode hfound => ?_, fun w hfound hpos hin hlo hhi => ?_⟩,
    fun src off len hlen => ⟨fun hcode => ?_, fun hbeyond => ?_⟩,
    fun op head a d hsrc bs hbs hdst hfound => ?_,
    fun dir a d => ⟨fun n hn hsrc hdst hfound => ?_, fun hn => ?_⟩⟩
  · obtain ⟨t, ht, hgo, hmem⟩ := exec_benchLoad (dst := dst) hr hlen hcode hfound
    refine ⟨t, ht, fun i hi => ?_, fun x hx => ?_, by rw [hgo.core]; rfl, hgo.others, hgo.blocks, hmem⟩
    · rw [hgo.core, ← loadedVec_elem hlen hi]
      exact congrArg (elem · 8 i) setVec_vec_same
    · rw [hgo.core]
      exact setVec_vec_ne hx
  · obtain ⟨t, ht, hstop⟩ := exec_benchLoad_lost (dst := dst) hr hlen hfound hpos hin hlo hhi
    exact ⟨t, ht, hstop.state, hstop.stopCode, hstop.core, hstop.mem⟩
  · obtain ⟨t, ht, hstores⟩ := exec_benchStore (src := src) hr hlen hcode
    obtain ⟨hgo, hbytes, hkept⟩ := hstores
    rw [bytesOf512_take_length hlen] at hbytes hkept
    exact ⟨t, ht, fun i hi => by rw [hbytes i hi, bytesOf512_take_getD hlen hi], hkept, hgo.core, hgo.others, hgo.blocks⟩
  · obtain ⟨t, ht, hstore⟩ := exec_benchStore_beyond (src := src) hr hlen hbeyond
    obtain ⟨u, hu, hload⟩ := exec_benchLoad_beyond (dst := src) hr hlen hbeyond
    exact ⟨t, u, ht, hu, hstore.mem, hload.mem, hstore.core, hload.core, hstore.state, hstore.stopCode, hload.state,
      hload.stopCode⟩
  · obtain ⟨t, ht, hgo, hbytes, hkept⟩ := exec_compact hr hsrc hbs hdst hfound
    exact ⟨t, ht, hbytes, hkept, hgo.core, hgo.others, hgo.blocks⟩
  · obtain ⟨t, ht, hgo, hbytes, hkept⟩ := exec_exchange hr hn hsrc hdst hfound
    rw [benchBytes, memGet_length] at hbytes hkept
    exact ⟨t, ht, fun i hi => by rw [hbytes i hi, memGet_getD hi, benchKey_add], hkept, hgo.core, hgo.others, hgo.blocks⟩
  · obtain ⟨t, ht, hstop⟩ := exec_exchange_edge (a := a) (d := d) hr hn
    exact ⟨t, ht, hstop.stopCode, hstop.mem, hstop.core⟩

end Sys2Proof.Machine
end

section
/-! # The end of a run -/

namespace Sys2Proof.Machine

variable {s t u : State} {b p : Nat} {e : Engine}

/-- From `s` to `t`, of the blocks, cores, counters, lanes and memory nothing changed but block `b`, whose engine is `e`. -/
structure EngineSet (s t : State) (b : Nat) (e : Engine) : Prop where
  eng : (t.block b).eng = e
  others : ∀ n, n ≠ b → t.block n = s.block n
  counters : t.counters = s.counters
  cores : t.cores = s.cores
  mem : t.mem = s.mem
  lanes : t.lanes = s.lanes

theorem EngineSet.refl : EngineSet s s b (s.block b).eng := ⟨rfl, fun _ _ => rfl, rfl, rfl, rfl, rfl⟩

theorem EngineSet.setEng {e' : Engine} (h : EngineSet s u b e) : EngineSet s (u.setEng b e') b e' :=
  ⟨by simp, fun n hn => by simp [hn, h.others n hn], h.counters, h.cores, h.mem, h.lanes⟩

/-- What changes none of these parts leaves the engine set. -/
theorem EngineSet.of_same (h : EngineSet s u b e) (hblocks : t.blocks = u.blocks) (hcounters : t.counters = u.counters)
    (hcores : t.cores = u.cores) (hmem : t.mem = u.mem) (hlanes : t.lanes = u.lanes) : EngineSet s t b e :=
  ⟨by rw [block_of_blocks hblocks, h.eng], fun n hn => by rw [block_of_blocks hblocks, h.others n hn],
    hcounters.trans h.counters, hcores.trans h.cores, hmem.trans h.mem, hlanes.trans h.lanes⟩

/-- ENG_CYCLES of a run that ends (R286). -/
theorem EngineSet.countCycles {n : Nat} (h : EngineSet s u b e) :
    EngineSet s (countCycles u p b n) b { e with cycles := min n (2 ^ 64 - 1) } := by
  have hset : EngineSet s (u.setEng b { (u.block b).eng with cycles := min n (2 ^ 64 - 1) }) b
      { e with cycles := min n (2 ^ 64 - 1) } := by
    rw [h.eng]
    exact h.setEng
  unfold Machine.countCycles
  dsimp only
  split
  · exact hset.of_same rfl rfl rfl rfl rfl
  · exact hset

/-- The engine `e` once its run has ended with `code`. -/
def Engine.endedWith (e : Engine) (code : Byte) : Engine := { e with state := if code = 0 then 0 else 3, faultCode := code }

/-- From `s` to `t` the run of block `b`, whose engine was `e`, ended with `code`, and the counter of a run with SIGNAL took
one, with FAULT for a code other than 0x00 (R201). -/
structure RunEnded (s t : State) (p b : Nat) (e : Engine) (code : Byte) : Prop where
  eng : (t.block b).eng = e.endedWith code
  others : ∀ n, n ≠ b → t.block n = s.block n
  signalled : e.signal = true → s.ownsCtr p e.signalCounter = true → t.counter e.signalCounter =
    { s.counter e.signalCounter with
      value := satAdd ctrMax (s.counter e.signalCounter).value 1
      fault := (s.counter e.signalCounter).fault || (code != 0) }
  silent : e.signal = false → t.counters = s.counters
  cores : t.cores = s.cores
  mem : t.mem = s.mem
  lanes : t.lanes = s.lanes

/-- What the end of a run does before its counter is told. -/
def runClosed (s : State) (p b : Nat) (code : Byte) : State :=
  noteStep ((traceEvent s p .command b 0).setEng b ((s.block b).eng.endedWith code)) p code

theorem runEnds_eq {code : Byte} : runEnds s p b code =
    if (s.block b).eng.signal = true ∧ (runClosed s p b code).ownsCtr p (s.block b).eng.signalCounter = true then
      ctrAdd (runClosed s p b code) (s.block b).eng.signalCounter 1 (code != 0)
    else runClosed s p b code := rfl

theorem EngineSet.runClosed {code : Byte} (h : EngineSet s u b e) :
    EngineSet s (runClosed u p b code) b (e.endedWith code) := by
  have htrace : EngineSet s (traceEvent u p .command b 0) b e := h.of_same (by simp) (by simp) (by simp) (by simp) (by simp)
  unfold Machine.runClosed
  rw [h.eng]
  exact htrace.setEng.of_same (by simp) (by simp) (by simp) (by simp) (by simp)

theorem EngineSet.runEnds {code : Byte} (h : EngineSet s u b e) : RunEnded s (runEnds u p b code) p b e code := by
  have hset := h.runClosed (p := p) (code := code)
  have howns : (Machine.runClosed u p b code).ownsCtr p e.signalCounter = s.ownsCtr p e.signalCounter := by
    rw [State.ownsCtr, hset.counters]
    rfl
  rw [runEnds_eq, h.eng]
  split
  next hsig =>
    obtain ⟨hsignal, how⟩ := hsig
    refine ⟨?_, fun n hn => ?_, fun _ _ => ?_, fun hno => ?_, by simpa using hset.cores, by simpa using hset.mem,
      by simpa using hset.lanes⟩
    · rw [block_of_blocks (ctrAdd_blocks ..), hset.eng]
    · rw [block_of_blocks (ctrAdd_blocks ..), hset.others n hn]
    · rw [ctrAdd_owned how, counter_of_counters hset.counters]
    · exact absurd (hsignal.symm.trans hno) (by decide)
  next hsig =>
    exact ⟨hset.eng, hset.others, fun h1 h2 => absurd ⟨h1, howns.trans h2⟩ hsig, fun _ => hset.counters, hset.cores,
      hset.mem, hset.lanes⟩

/-! ### ENGINE_RUN_END (R201, R286) -/

section
variable {blk : Blk} {n : Nat}

theorem exec_runEnd_clean (hb : s.blockOwner blk.val = some p) (h1 : (s.block blk.val).eng.state = 1)
    (hall : ∀ c, c < 1024 → (s.core blk.val c).ended = true) : ∃ t, exec (.engineRunEnd blk .clean n) s = .next t ∧
      RunEnded s t p blk.val { (s.block blk.val).eng with cycles := min n (2 ^ 64 - 1) } 0 := by
  have hended : allCores s blk.val (·.ended) = true := List.all_eq_true.2 fun c hc => hall c (List.mem_range.1 hc)
  refine ⟨runEnds (countCycles s p blk.val n) p blk.val 0, ?_, EngineSet.refl.countCycles.runEnds⟩
  show execEngineRunEnd blk .clean n s = _
  simp [execEngineRunEnd, hb, h1, hended]

theorem exec_runEnd_fault {core : Fin 1024} {at_ : BitVec 32} {code : Byte} (hb : s.blockOwner blk.val = some p)
    (h1 : (s.block blk.val).eng.state = 1) (hcode : runFaultCode code = true) :
    ∃ t, exec (.engineRunEnd blk (.fault core at_ code) n) s = .next t ∧ RunEnded s t p blk.val
      { (s.block blk.val).eng with faultCore := core.val, faultAt := at_, cycles := min n (2 ^ 64 - 1) } code := by
  refine ⟨runEnds (countCycles (s.setEng blk.val { (s.block blk.val).eng with faultCore := core.val, faultAt := at_ })
    p blk.val n) p blk.val code, ?_, (EngineSet.refl.setEng).countCycles.runEnds⟩
  show execEngineRunEnd blk (.fault core at_ code) n s = _
  simp [execEngineRunEnd, hb, h1, hcode]

end

/-- Settles O30: how a run ends (`RunEnded`), and the cores at End and at the barrier. -/
theorem runsEndAndCoresMeet : Obligations.RunsEndAndCoresMeet := by
  refine ⟨fun b p n s hb h1 hall => ?_, fun b core at_ code p n s hb h1 hcode => ?_, fun b r s hr => ?_,
    fun b s h1 hall => exec_barrierRelease h1 hall⟩
  · obtain ⟨t, ht, hend⟩ := exec_runEnd_clean (n := n) hb h1 hall
    refine ⟨t, ht, congrArg Engine.state hend.eng, congrArg Engine.faultCode hend.eng, congrArg Engine.cycles hend.eng,
      fun hsig howns => ?_, hend.silent, hend.others, hend.cores, hend.mem, hend.lanes⟩
    rw [hend.signalled hsig howns]
    simp [satAdd, ctrMax]
  · obtain ⟨t, ht, hend⟩ := exec_runEnd_fault (n := n) (core := core) (at_ := at_) hb h1 hcode
    have h0 : code ≠ 0 := by
      rintro rfl
      exact absurd hcode (by decide)
    refine ⟨t, ht, (congrArg Engine.state hend.eng).trans (if_neg h0), congrArg Engine.faultCode hend.eng,
      congrArg Engine.faultCore hend.eng, congrArg Engine.faultAt hend.eng, fun hsig howns => ?_, hend.others,
      hend.cores, hend.mem, hend.lanes⟩
    rw [hend.signalled hsig howns]
    exact Bool.or_eq_true_iff.2 (.inr (bne_iff_ne.2 h0))
  · obtain ⟨t, ht, hend, hmem, hcounters⟩ := exec_endRun hr
    obtain ⟨u, hu, hbar, hmem', hcounters'⟩ := exec_barrier hr
    exact ⟨t, u, ht, hu, hend.core, hbar.core, hend.others, hbar.others, hend.blocks, hbar.blocks, hmem, hmem', hcounters,
      hcounters'⟩

end Sys2Proof.Machine
end

section
/-! # Launches of engine runs -/

namespace Sys2Proof.Machine

variable {s t u : State} {p b : Nat} {e : Engine}

/-! ### What a read of a partition rests on -/

/-- From `s` to `t` nothing changed that a read of partition `p`, or a check of a launch, looks at. -/
structure ReadsAlike (s t : State) (p : Nat) : Prop where
  pattern : t.pattern = s.pattern
  faults : t.faults = s.faults
  badWords : t.badWords = s.badWords
  mem : t.mem = s.mem
  counters : t.counters = s.counters
  trust : (t.part p).trust = (s.part p).trust
  pageTier : (t.part p).mem.pageTier = (s.part p).mem.pageTier

namespace ReadsAlike

variable (h : ReadsAlike s t p) {slot entry off len : Nat}
include h

theorem regionAt : Machine.regionAt t p off = Machine.regionAt s p off := by
  unfold Machine.regionAt State.regions
  rw [h.pattern]

theorem tierOf : Machine.tierOf t p off = Machine.tierOf s p off := by
  rw [Machine.tierOf, h.pageTier, h.regionAt]
  rfl

theorem channelOf : Machine.channelOf t p off = Machine.channelOf s p off := by
  have hddr : t.ddrOf p = s.ddrOf p := by
    unfold State.ddrOf State.piece
    rw [h.pattern]
  have hhbm : t.hbmOf p = s.hbmOf p := by
    unfold State.hbmOf State.piece
    rw [h.pattern]
  rw [Machine.channelOf, h.tierOf, h.regionAt, hddr, hhbm]
  rfl

theorem allTrusted : Machine.allTrusted t = Machine.allTrusted s := by
  rw [Machine.allTrusted, h.faults]
  rfl

theorem suspectAt : Machine.suspectAt t p off = Machine.suspectAt s p off := by
  simp only [Machine.suspectAt, channelSuspect, unitSuspect, h.allTrusted, h.tierOf, h.channelOf, h.faults]

theorem suspectIn : Machine.suspectIn t p off len = Machine.suspectIn s p off len := by
  simp only [Machine.suspectIn, h.suspectAt, h.allTrusted]

theorem readCode : Machine.readCode t p off len = Machine.readCode s p off len := by
  simp only [Machine.readCode, readFailure, retiredPage, badIn, h.suspectIn, h.trust, h.badWords]

theorem loadBytes : Machine.loadBytes t p off len = Machine.loadBytes s p off len := by
  rw [Machine.loadBytes, h.mem]
  rfl

theorem programAt : Machine.programAt t p slot = Machine.programAt s p slot := by
  unfold Machine.programAt
  rw [h.pattern]

theorem imageOff : Machine.imageOff t p slot = Machine.imageOff s p slot := by
  rw [Machine.imageOff, h.programAt]
  rfl

theorem entryFirst : Machine.entryFirst t p off entry = Machine.entryFirst s p off entry := by
  rw [Machine.entryFirst, h.loadBytes]
  rfl

theorem launchCheck {signal : Bool} {counter : Nat} :
    Machine.launchCheck t p slot entry signal counter = Machine.launchCheck s p slot entry signal counter := by
  have howns : t.ownsCtr p counter = s.ownsCtr p counter := by
    unfold State.ownsCtr
    rw [h.counters]
  simp only [Machine.launchCheck, h.programAt, h.readCode, h.loadBytes, howns]

end ReadsAlike

/-- A read passes the squares, and reports the uncorrectable words it meets; it waits on no request (R362). -/
theorem homeRead_idle {off len : Nat} {tag : Word} (h : s.fab.home = []) : ∃ L, homeRead s p off len tag =
    (readCode s p off len, loadBytes s p off len,
      if readCode s p off len = 4 then badWordFaults (withLines s L) p off len tag else withLines s L) := by
  obtain ⟨L, hL⟩ := passSquares_idle (p := p) (off := off) (len := len) h
  refine ⟨L, ?_⟩
  rw [homeRead, hL]
  rfl

theorem homeRead_code {off len : Nat} {tag : Word} (h : s.fab.home = []) :
    (homeRead s p off len tag).1 = readCode s p off len := by
  obtain ⟨L, hL⟩ := homeRead_idle (p := p) (off := off) (len := len) (tag := tag) h
  rw [hL]

/-! ### The copy of the engine section (R200) -/

theorem EngineSet.badWordFaults {off len : Nat} {tag : Word} (h : EngineSet s u b e) :
    EngineSet s (badWordFaults u p off len tag) b e :=
  h.of_same (badWordFaults_holds (I := keepsBlocks u.blocks) rfl) (badWordFaults_holds (I := keepsCounters u.counters) rfl)
    badWordFaults_cores badWordFaults_mem (badWordFaults_holds (I := keepsLanes u.lanes) rfl)

theorem EngineSet.launchFaults {slot entry : Nat} (h : EngineSet s u b e) : EngineSet s (launchFaults u p slot entry) b e := by
  unfold Machine.launchFaults
  split
  · exact h
  · dsimp only
    split <;> exact h.badWordFaults

theorem EngineSet.homeRead {off len : Nat} {tag : Word} (h : EngineSet s u b e) (hu : u.fab.home = []) :
    EngineSet s (homeRead u p off len tag).2.2 b e := by
  obtain ⟨L, hL⟩ := homeRead_idle (p := p) (off := off) (len := len) (tag := tag) hu
  have hlines : EngineSet s (withLines u L) b e := h.of_same rfl rfl rfl rfl rfl
  rw [hL]
  dsimp only
  split
  · exact hlines.badWordFaults
  · exact hlines

/-- The code of a copy is that of the read of the section. -/
theorem copySection_code {slot : Nat} (h : ReadsAlike s t p) (hloaded : (t.block b).eng.loaded = (s.block b).eng.loaded)
    (hs : s.fab.home = []) (ht : t.fab.home = []) : (copySection t p b slot).1 = (copySection s p b slot).1 := by
  unfold copySection
  dsimp only
  rw [h.programAt]
  split
  · rfl
  · simp only [apply_ite Prod.fst, hloaded, h.loadBytes, homeRead_code hs, homeRead_code ht, h.readCode]

/-- Whatever its code, a copy sets the engine alone. -/
theorem EngineSet.copySection_any {slot : Nat} (h : EngineSet s u b e) (hu : u.fab.home = []) :
    ∃ e', EngineSet s (copySection u p b slot).2 b e' := by
  unfold copySection
  dsimp only
  split
  · exact ⟨e, h⟩
  · split
    · exact ⟨e, h⟩
    · split
      · exact ⟨_, (h.homeRead hu).setEng⟩
      · exact ⟨_, (h.homeRead hu).setEng⟩

/-- After a copy the instruction store holds the section of the slot. -/
theorem EngineSet.copySection {slot : Nat} (h : EngineSet s u b e) (hu : u.fab.home = [])
    (h0 : (copySection u p b slot).1 = 0) :
    ∃ S, EngineSet s (copySection u p b slot).2 b { e with store := S, loaded := some slot } := by
  unfold Machine.copySection at h0 ⊢
  dsimp only at h0 ⊢
  rw [h.eng] at h0 ⊢
  split at h0
  · exact absurd (show (0x0B : Byte) = 0 from h0) (by decide)
  next x off hx =>
    split at h0
    next hloaded =>
      rw [if_pos hloaded, ← hloaded]
      exact ⟨e.store, h⟩
    next hloaded =>
      split at h0
      next hne => exact absurd h0 hne
      next hread =>
        rw [if_neg hloaded, if_neg hread]
        exact ⟨_, (h.homeRead hu).setEng⟩

/-! ### The cores at the start of a run (R194, R202, R215) -/

/-- Where one map follows another, a key is looked up in the first one first. -/
theorem find_append {α : Type} (m n : KMap α) (k : Nat) : KMap.find (m ++ n) k = (m.find k).or (n.find k) := by
  induction m with
  | nil => rfl
  | cons x r ih =>
    obtain ⟨j, v⟩ := x
    simp only [List.cons_append, KMap.find]
    split
    · rfl
    · exact ih

theorem find_coreKeys {α : Type} {f : Nat → α} {l : List Nat} {c : Nat} (h : c ∈ l) :
    KMap.find (l.map fun c => (coreKey b c, f c)) (coreKey b c) = some (f c) := by
  induction l with
  | nil => exact absurd h (List.not_mem_nil)
  | cons x r ih =>
    simp only [List.map_cons, KMap.find, coreKey, Nat.add_left_cancel_iff]
    split
    next hx => rw [hx]
    next hx => exact ih ((List.mem_cons.1 h).resolve_left fun hc => hx hc.symm)

theorem core_of_find {n k : Nat} {x : Core} (h : s.cores.find (coreKey n k) = some x) : s.core n k = x := by
  rw [State.core, KMap.at, h]
  rfl

/-- A core at the start of a run, with ENG_ARG and its number in s1 and s2. -/
def startedCore (arg : Word) (first : BitVec 32) (c : Nat) : Core :=
  { scalars := [(1, arg), (2, BitVec.ofNat 64 c)], pc := first, began := some c }

theorem startCores_cores {first : BitVec 32} : (startCores s b first).cores =
    s.cores.filter (fun kv => decide (kv.1 < 1024 * b)) ++
      (List.range 1024).map (fun c => (coreKey b c, startedCore (s.block b).eng.arg first c)) ++
      s.cores.filter fun kv => decide (1024 * b + 1024 ≤ kv.1) := rfl

theorem startCores_core {first : BitVec 32} {c : Nat} (hc : c < 1024) :
    (startCores s b first).core b c = startedCore (s.block b).eng.arg first c := by
  have hlo : ¬coreKey b c < 1024 * b := by
    unfold coreKey
    omega
  have hbefore : KMap.find (s.cores.filter fun kv => decide (kv.1 < 1024 * b)) (coreKey b c) = none := by
    rw [find_filter_key s.cores fun k => decide (k < 1024 * b)]
    simp [hlo]
  refine core_of_find ?_
  rw [startCores_cores, find_append, find_append, hbefore, Option.none_or, find_coreKeys (List.mem_range.2 hc), Option.some_or]

/-- What a core that has written nothing since its run began reads (R215). -/
theorem startedCore_scalar {arg : Word} {first : BitVec 32} {c r : Nat} (hr : 3 ≤ r) :
    (startedCore arg first c).scalar r = Config.startScalar c r := by
  have h0 : r ≠ 0 := by omega
  have h1 : 1 ≠ r := by omega
  have h2 : 2 ≠ r := by omega
  simp [startedCore, Core.scalar, KMap.at, KMap.find, h0, h1, h2]

/-! ### ENG_LAUNCH (R198 to R201) -/

/-- What a launch notes of the partition: its blocks are at rest no more. -/
def unrested (s : State) (p : Nat) : State :=
  let s := s.modPFault p fun f => { f with quiesced := false }
  s.modPMem p fun m => { m with held := m.held && (s.part p).fault.quiescing }

/-- The engine of block `b` with the fields of ENG_LAUNCH. -/
def launchEngine (s : State) (p b v : Nat) : Engine :=
  { (s.block b).eng with
    state := 1, slot := bitsOf v 0 8, entry := bitsOf v 8 8, cycles := 0, signal := v.testBit 32
    signalCounter := bitsOf v 48 16, bound := entryBoundAt s p (imageOff s p (bitsOf v 0 8)) (bitsOf v 8 8), stopCode := 0 }

/-- The state in which a launch is checked. -/
def launching (s : State) (p b v : Nat) : State := (unrested s p).setEng b (launchEngine s p b v)

theorem launching_set {v : Nat} : EngineSet s (launching s p b v) b (launchEngine s p b v) :=
  (EngineSet.of_same (u := s) (t := unrested s p) .refl rfl rfl rfl rfl rfl).setEng

theorem launching_readsAlike {v : Nat} : ReadsAlike s (launching s p b v) p := by
  have hpart : (launching s p b v).part p = (unrested s p).part p := rfl
  refine ⟨rfl, rfl, rfl, rfl, rfl, ?_, ?_⟩
  · rw [hpart]
    simp [unrested]
  · rw [hpart]
    simp [unrested]

/-- The code with which the checks of a launch end. -/
def launchCode (s : State) (p b v : Nat) : Byte :=
  if blockSuspect s b then 8 else launchCheck s p (bitsOf v 0 8) (bitsOf v 8 8) (v.testBit 32) (bitsOf v 48 16)

theorem launchCode_launching {v : Nat} (h : blockSuspect s b = false) : launchCode (launching s p b v) p b v =
    launchCheck s p (bitsOf v 0 8) (bitsOf v 8 8) (v.testBit 32) (bitsOf v 48 16) := by
  have h' : ¬blockSuspect (launching s p b v) b = true := by
    rw [show blockSuspect (launching s p b v) b = blockSuspect s b from rfl, h]
    decide
  rw [launchCode, if_neg h', launching_readsAlike.launchCheck]

/-- A launch at an idle block goes by its checks and by the copy of the engine section. -/
theorem launch_idle {v : Nat} (hstate : (s.block b).eng.state = 0 ∨ (s.block b).eng.state = 3) (hcode : s.code p = 5)
    (hfused : fusedBusy s b = false) : launch s p b v =
      let u := launching s p b v
      let c := launchCode u p b v
      if c ≠ 0 then runEnds (if c = 4 then launchFaults u p (bitsOf v 0 8) (bitsOf v 8 8) else u) p b c
      else
        let r := copySection u p b (bitsOf v 0 8)
        if r.1 ≠ 0 then runEnds r.2 p b r.1
        else askStart (startCores r.2 b (entryFirst u p (imageOff u p (bitsOf v 0 8)) (bitsOf v 8 8))) b := by
  have hidle : ¬(((s.block b).eng.state ≠ 0 ∧ (s.block b).eng.state ≠ 3) ∨ s.code p ≠ 5 ∨ fusedBusy s b = true) := by
    rintro (⟨h0, h3⟩ | hne | hbusy)
    · exact hstate.elim h0 h3
    · exact hne hcode
    · exact absurd (hbusy.symm.trans hfused) (by decide)
  exact if_neg hidle

theorem askStart_block : (askStart s b).block b = { s.block b with pwr := { (s.block b).pwr with startAsked := true } } :=
  setBlock_block_same ..

section
variable {v : Nat} (hstate : (s.block b).eng.state = 0 ∨ (s.block b).eng.state = 3) (hcode : s.code p = 5)
  (hfused : fusedBusy s b = false) (hsuspect : blockSuspect s b = false) (hhome : s.fab.home = [])
include hstate hcode hfused hsuspect hhome

theorem launch_fails {c : Byte} (hc : c ≠ 0)
    (hfails : launchCheck s p (bitsOf v 0 8) (bitsOf v 8 8) (v.testBit 32) (bitsOf v 48 16) = c ∨
      launchCheck s p (bitsOf v 0 8) (bitsOf v 8 8) (v.testBit 32) (bitsOf v 48 16) = 0 ∧
        (copySection s p b (bitsOf v 0 8)).1 = c) : ∃ e', RunEnded s (launch s p b v) p b e' c := by
  have hset := launching_set (s := s) (p := p) (b := b) (v := v)
  have hcopied : (copySection (launching s p b v) p b (bitsOf v 0 8)).1 = (copySection s p b (bitsOf v 0 8)).1 :=
    copySection_code launching_readsAlike (by rw [hset.eng]; rfl) hhome hhome
  rw [launch_idle hstate hcode hfused]
  dsimp only
  rw [launchCode_launching hsuspect]
  rcases hfails with hcheck | ⟨hcheck, hcopy⟩
  · rw [hcheck, if_pos hc]
    refine ⟨_, EngineSet.runEnds (e := launchEngine s p b v) ?_⟩
    split
    · exact hset.launchFaults
    · exact hset
  · rw [hcheck, if_neg (by decide), hcopied, hcopy, if_pos hc]
    obtain ⟨e', he'⟩ := hset.copySection_any (p := p) (slot := bitsOf v 0 8) hhome
    exact ⟨e', he'.runEnds⟩

/-- From `s` to `t` the launch `v` started a run on block `b`, at the first instruction of its entry in every core. -/
structure RunStarted (s t : State) (p b v : Nat) : Prop where
  eng : ∃ S, (t.block b).eng = { launchEngine s p b v with store := S, loaded := some (bitsOf v 0 8) }
  asked : (t.block b).pwr.startAsked = true
  core : ∀ c, c < 1024 → t.core b c = startedCore (s.block b).eng.arg
    (entryFirst s p (imageOff s p (bitsOf v 0 8)) (bitsOf v 8 8)) c
  others : ∀ n, n ≠ b → t.block n = s.block n
  mem : t.mem = s.mem
  lanes : t.lanes = s.lanes
  counters : t.counters = s.counters

theorem launch_starts (hcheck : launchCheck s p (bitsOf v 0 8) (bitsOf v 8 8) (v.testBit 32) (bitsOf v 48 16) = 0)
    (hcopy : (copySection s p b (bitsOf v 0 8)).1 = 0) : RunStarted s (launch s p b v) p b v := by
  have hset := launching_set (s := s) (p := p) (b := b) (v := v)
  have hreads := launching_readsAlike (s := s) (p := p) (b := b) (v := v)
  have hcopied : (copySection (launching s p b v) p b (bitsOf v 0 8)).1 = 0 :=
    (copySection_code hreads (by rw [hset.eng]; rfl) hhome hhome).trans hcopy
  obtain ⟨S, hcopy⟩ := hset.copySection hhome hcopied
  rw [launch_idle hstate hcode hfused]
  dsimp only
  rw [launchCode_launching hsuspect, hcheck, if_neg (by decide), hcopied, if_neg (by decide), hreads.imageOff, hreads.entryFirst]
  generalize (copySection (launching s p b v) p b (bitsOf v 0 8)).2 = u at hcopy
  have harg : (u.block b).eng.arg = (s.block b).eng.arg := by rw [hcopy.eng]; rfl
  refine ⟨⟨S, ?_⟩, ?_, fun c hc => ?_, fun n hn => ?_, hcopy.mem, hcopy.lanes, hcopy.counters⟩
  · rw [← hcopy.eng, askStart_block]
    rfl
  · rw [askStart_block]
  · rw [← harg]
    exact startCores_core hc
  · exact (setBlock_block_ne _ _ hn).trans (hcopy.others n hn)

end

/-- Settles O29: the engine that a launch leaves, whatever becomes of it, and that of STOP. -/
theorem engineLaunchesAndStops : Obligations.EngineLaunchesAndStops := by
  intro src p b v s hreach
  have hlaunch : exec (.engLaunch src b v) s = .next (launch s p.val b.val v.toNat) := by
    show execEngLaunch src b v s = _
    rw [execEngLaunch, blockWrite_host s 0 _ hreach, hreach.1]
  have hslot : v.toNat % 256 = bitsOf v.toNat 0 8 := by simp [bitsOf]
  have hctr : v.toNat / 2 ^ 48 = bitsOf v.toNat 48 16 := by
    have := v.isLt
    unfold bitsOf
    omega
  refine ⟨fun hstate => ?_, fun hstate hcode hfused hsuspect hhome => ?_, fun h1 hbit => ?_, fun hkeeps => ?_⟩
  · rw [hlaunch]
    have hbusy : (s.block b.val).eng.state ≠ 0 ∧ (s.block b.val).eng.state ≠ 3 := by omega
    exact congrArg Host.Outcome.next (if_pos (.inl hbusy))
  · rw [hslot, hctr, show v.toNat / 256 % 256 = bitsOf v.toNat 8 8 from rfl]
    refine ⟨fun hcheck hcopy => ?_, fun code hfails hne => ?_⟩
    · obtain ⟨⟨S, heng⟩, hasked, hcore, hothers, hmem, hlanes, hcounters⟩ :=
        launch_starts hstate hcode hfused hsuspect hhome hcheck hcopy
      refine ⟨_, hlaunch, by rw [heng]; rfl, by rw [heng]; rfl, by rw [heng]; rfl, by rw [heng]; rfl, by rw [heng]; rfl,
        by rw [heng], hasked, fun c hc => ?_, hothers, hmem, hlanes, hcounters⟩
      rw [hcore c hc]
      exact ⟨rfl, rfl, rfl, rfl, rfl, rfl, rfl, fun _ => rfl, fun _ hr => startedCore_scalar hr⟩
    · obtain ⟨e', hend⟩ := launch_fails hstate hcode hfused hsuspect hhome hne hfails
      exact ⟨_, hlaunch, (congrArg Engine.state hend.eng).trans (if_neg hne), congrArg Engine.faultCode hend.eng, hend.cores,
        hend.others, hend.mem, hend.lanes⟩
  · show execEngStop src b v s = _
    rw [execEngStop, blockWrite_host s _ _ hreach]
    exact congrArg Host.Outcome.next (if_pos ⟨hbit, h1⟩)
  · show execEngStop src b v s = _
    rw [execEngStop, blockWrite_host s _ _ hreach]
    refine congrArg Host.Outcome.next (if_neg fun h => ?_)
    rcases hkeeps with h1 | h0
    · exact h1 h.2
    · exact absurd (h.1.symm.trans h0) (by decide)

end Sys2Proof.Machine
end

section
/-! # Accesses of the Cobbler cores -/

namespace Sys2Proof.Machine

variable {s t : State} {p b d : Nat}

/-! ### A partition context that stops (R221) -/

theorem cobblerStop_block (h : cobblerRuns s p b = true) :
    ((cobblerStop s p b).block b).cobbler = 2 ∧ ∀ n, n ≠ b → (cobblerStop s p b).block n = s.block n := by
  rw [cobblerStop, if_pos h]
  constructor
  · rw [block_of_blocks (faultRecord_blocks ..), setBlock_block_same]
  · intro n hn
    rw [block_of_blocks (faultRecord_blocks ..), setBlock_block_ne _ _ hn]

/-! ### Accesses whose bytes all lie on this module (R296) -/

/-- Each piece of a cut span ends within the span. -/
theorem cutAt_within {l : List (Nat × Nat)} {o n : Nat} (h : ∀ x ∈ l, 0 < x.2 ∧ x.1 + x.2 ≤ n) :
    ∀ x ∈ cutAt l o, 0 < x.2 ∧ x.1 + x.2 ≤ n := by
  intro y hy
  obtain ⟨x, hx, hy⟩ := List.mem_flatMap.1 hy
  obtain ⟨hpos, hend⟩ := h x hx
  split at hy
  · rcases List.mem_pair.1 hy with rfl | rfl <;> dsimp only <;> omega
  · rw [List.mem_singleton.1 hy]
    exact ⟨hpos, hend⟩

/-- The runs of an access start within it. -/
theorem runsOf_lt {a n : Nat} {x : Nat × Nat} (h : x ∈ runsOf s p false a n) : x.1 < n := by
  have within (cuts : List Nat) (l : List (Nat × Nat)) (hl : ∀ x ∈ l, 0 < x.2 ∧ x.1 + x.2 ≤ n) :
      ∀ x ∈ cuts.foldl cutAt l, 0 < x.2 ∧ x.1 + x.2 ≤ n := by
    induction cuts generalizing l with
    | nil => exact hl
    | cons o r ih => exact ih _ (cutAt_within hl)
  unfold runsOf at h
  split at h
  · exact absurd h List.not_mem_nil
  next hn =>
    rw [if_neg (by decide)] at h
    have := within _ [(0, n)] (by simpa using Nat.pos_of_ne_zero hn) x h
    omega

theorem spansOf_own {a n : Nat} (h : ∀ i, i < n → placeOf s p (a + i) = .own) : spansOf s p a n = [(0, n)] :=
  if_pos (List.all_eq_true.2 fun _ hx => decide_eq_true (h _ (runsOf_lt hx)))

/-! ### Loads (R296, R318) -/

theorem cobblerLoad_own {a n : Nat} {found : Found} (h : placeOf s p a = .own) : cobblerLoad s p b a n found =
    let r := homeRead (eccMet s p a n found) p a n 0
    r.2.2.emit (.cobblerData b r.1 (if r.1 = 0 then r.2.1 else [])) := by
  rw [cobblerLoad, h]

/-- A load that meets nothing gives the bytes, and changes of the rest the lines in the squares alone. -/
theorem cobblerLoad_gives {a n : Nat} (h : placeOf s p a = .own) (hread : readCode s p a n = 0) (hhome : s.fab.home = []) :
    ∃ L, cobblerLoad s p b a n none = (withLines s L).emit (.cobblerData b 0 (loadBytes s p a n)) := by
  obtain ⟨L, hL⟩ := homeRead_idle (p := p) (off := a) (len := n) (tag := 0) hhome
  refine ⟨L, ?_⟩
  have hnone : eccMet s p a n none = s := rfl
  rw [cobblerLoad_own h]
  simp only [hnone, hL, hread, if_true]
  rfl

/-- A span of sound pages with an uncorrectable word reads with 0x04. -/
theorem readCode_bad {off len w : Nat} (hpages : ∀ g ∈ pagesOf off len, retiredPage s p (g * 65536) = false)
    (hw : w ∈ badIn s (memKey p off) len) : readCode s p off len = 4 := by
  have hnone : (pagesOf off len).find? (fun g => retiredPage s p (g * 65536)) = none :=
    List.find?_eq_none.2 fun g hg => by simp [hpages g hg]
  obtain ⟨x, r, hbad⟩ := List.exists_cons_of_ne_nil (List.ne_nil_of_mem hw)
  rw [readCode, readFailure, hnone, hbad]
  cases suspectIn s p off len <;> rfl

theorem pages_of_readCode {off len : Nat} (h : readCode s p off len = 0) :
    ∀ g ∈ pagesOf off len, retiredPage s p (g * 65536) = false := by
  intro g hg
  unfold readCode readFailure at h
  split at h
  · exact absurd (show (5 : Byte) = 0 from h) (by decide)
  next hnone => simpa using List.find?_eq_none.1 hnone g hg

/-- A load that finds an uncorrectable word gives no byte of it. -/
theorem cobblerLoad_lost {a n : Nat} {w : Word} (h : placeOf s p a = .own) (hread : readCode s p a n = 0)
    (hhome : s.fab.home = []) (hpos : 0 < n) (hbase : a + n ≤ benchBase) (hlo : w.toNat / 32 * 32 < a + n)
    (hhi : a < w.toNat / 32 * 32 + 32) :
    .cobblerData b 4 [] ∈ (cobblerLoad s p b a n (some (w, false))).out ∧
      (cobblerLoad s p b a n (some (w, false))).mem = s.mem := by
  obtain ⟨K, H, D, hecc⟩ := eccMet_errors (s := s) (p := p) (off := a) (len := n) (found := some (w, false))
  have hkey (x : Nat) (hx : x < benchBase) : memKey p x = p * 2 ^ 48 + x := if_pos hx
  have hword : memKey p (w.toNat / 32 * 32) / 32 ∈ wordsOf (memKey p a) n := by
    rw [hkey _ (by omega), hkey _ (by omega)]
    exact mem_wordsOf_of_overlap hpos (by omega) (by omega) (by omega)
  have hbad := eccMet_marks (s := s) hpos hlo hhi hword
  rw [hecc] at hbad
  have hcode : readCode (withErrors s K H D) p a n = 4 :=
    readCode_bad (s := withErrors s K H D) (pages_of_readCode (s := s) hread) hbad
  obtain ⟨L, hL⟩ := homeRead_idle (s := withErrors s K H D) (p := p) (off := a) (len := n) (tag := 0) hhome
  rw [cobblerLoad_own h, hecc]
  dsimp only
  rw [hL, hcode]
  exact ⟨List.mem_append_right _ (List.mem_singleton.2 rfl), badWordFaults_mem⟩

/-! ### Stores (R221, R296) -/

/-- A store that meets nothing stores its bytes, and changes of the fabric the lines in the squares alone. -/
theorem cobblerStore_stores {a : Nat} {bytes : List Byte} (h : placeOf s p a = .own) (hhome : s.fab.home = [])
    (hw : writeCode s p a bytes.length (fun _ => false) = 0) :
    ∃ L, cobblerStore s p b a bytes = storeRaw (withLines s L) p a bytes := by
  obtain ⟨L, hL⟩ := homeWrite_stores (tag := 0) hhome hw
  refine ⟨L, ?_⟩
  rw [cobblerStore, h]
  simp only [hL, if_true]

/-! ### Remote loads (R355, R360, R367) -/

theorem originate_peer {x : TxPacket} : (originate s x).peer d = s.peer d := by
  unfold originate
  split <;> rfl

/-- `u` as the class-2 session `x` numbers it. -/
def numbered (s : State) (x : Session) (u : Unacked) : Unacked :=
  { u with pkt := { u.pkt with psn := x.nextPsn, session := x.session }, firstAt := s.now, lastAt := s.now,
           interval := s.fab.rto }

theorem Peer.sess_two {x : Peer} : x.sess 2 = x.c2 := rfl

theorem Peer.setSess_two {x : Peer} {y : Session} : x.setSess 2 y = { x with c2 := y } := rfl

theorem sendNow_c2 {u : Unacked} (h : (s.peer d).c2.started = true) : ((sendNow s d 2 u).peer d).c2 =
    { (s.peer d).c2 with
      nextPsn := (s.peer d).c2.nextPsn + 1, unacked := (s.peer d).c2.unacked ++ [numbered s (s.peer d).c2 u] } := by
  unfold sendNow
  simp only [originate_peer, setPeer_peer_same, Peer.sess_two, Peer.setSess_two, h, if_true, numbered]
  split <;> rfl

/-- The state in which the packets `l` wait at the class-2 session to `d`. -/
def withWaiting (s : State) (d : Nat) (l : List Unacked) : State :=
  s.setPeer d { s.peer d with c2 := { (s.peer d).c2 with waiting := l } }

theorem withWaiting_c2 {l : List Unacked} : ((withWaiting s d l).peer d).c2 = { (s.peer d).c2 with waiting := l } := by
  rw [withWaiting, setPeer_peer_same]

/-- A packet to a device whose class-2 session goes on and has room is sent and kept (R359, R360). -/
theorem xtSubmit_sends {u : Unacked} (hreach : unreachable s d = false) (hwaiting : (s.peer d).c2.waiting = [])
    (huse : (s.peer d).inUse = true) (hstarted : (s.peer d).c2.started = true)
    (hroom : (s.peer d).c2.unacked.length < (s.peer d).c2.window) (hop : u.pkt.op = 1) :
    ∃ t, xtSubmit s d 2 u = some t ∧ (t.peer d).c2 = { (s.peer d).c2 with
      nextPsn := (s.peer d).c2.nextPsn + 1, unacked := (s.peer d).c2.unacked ++ [numbered s (s.peer d).c2 u] } := by
  have hcontext : withContext s d = some s := if_pos huse
  have hsubmit : xtSubmit s d 2 u = some (sendWaiting d 2 1 (withWaiting s d [u])) := by
    rw [xtSubmit, if_neg (by rw [hreach]; decide), hcontext]
    simp only [Option.getD_some, Peer.sess_two, hwaiting]
    rfl
  have hsends : sendWaiting d 2 1 (withWaiting s d [u]) = sendNow (withWaiting (withWaiting s d [u]) d []) d 2 u := by
    have hpeer : (withWaiting s d [u]).peer d = { s.peer d with c2 := { (s.peer d).c2 with waiting := [u] } } :=
      setPeer_peer_same ..
    have hwaits : (((withWaiting s d [u]).peer d).sess 2).waiting = [u] := by rw [hpeer]; rfl
    unfold sendWaiting
    dsimp only
    rw [hwaits]
    refine if_neg ?_
    simp [hpeer, Peer.sess_two, hstarted, hop, huse, Nat.not_le.2 hroom]
  have hc2 : ((withWaiting (withWaiting s d [u]) d []).peer d).c2 = (s.peer d).c2 := by
    rw [withWaiting_c2, withWaiting_c2, ← hwaiting]
  refine ⟨_, hsubmit, ?_⟩
  rw [hsends, sendNow_c2 (by rw [hc2]; exact hstarted), hc2]
  rfl

/-! ### COBBLER_LOAD_STORE (R221, R296, R367) -/

section
variable {q : Part} {blk : Blk} (hr : cobblerRuns s q.val blk.val = true)
include hr

/-- A load of bytes that all lie on this module is one read. -/
theorem exec_cobblerLoad {a : Word} {n : Nat} {found : Found}
    (hin : inRange s q.val (fun e => onSled e || decide (e.tier = 3)) false a.toNat n = true)
    (hown : ∀ i, i < n → placeOf s q.val (a.toNat + i) = .own) :
    exec (.cobblerLoadStore q blk (.load a n found)) s = .next (cobblerLoad s q.val blk.val a.toNat n found) := by
  show execCobblerLoadStore q blk (.load a n found) s = _
  simp only [execCobblerLoadStore, hr, hin, spansOf_own hown]
  rfl

theorem exec_cobblerStore {a : Word} {bytes : List Byte}
    (hin : inRange s q.val (fun e => (onSled e || decide (e.tier = 3)) && decide (e.use ≠ 5)) false a.toNat
      bytes.length = true)
    (hown : ∀ i, i < bytes.length → placeOf s q.val (a.toNat + i) = .own) :
    exec (.cobblerLoadStore q blk (.store a bytes)) s = .next (cobblerStore s q.val blk.val a.toNat bytes) := by
  show execCobblerLoadStore q blk (.store a bytes) s = _
  have hwhole : slice bytes 0 bytes.length = bytes := by simp [slice]
  simp only [execCobblerLoadStore, hr, hin, spansOf_own hown, List.foldl_cons, hwhole]
  rfl

/-- A store outside the partition's regions stops the partition context. -/
theorem exec_cobblerStore_refused {a : Word} {bytes : List Byte}
    (hin : inRange s q.val (fun e => (onSled e || decide (e.tier = 3)) && decide (e.use ≠ 5)) false a.toNat
      bytes.length = false) :
    exec (.cobblerLoadStore q blk (.store a bytes)) s = .next (cobblerStop s q.val blk.val) := by
  show execCobblerLoadStore q blk (.store a bytes) s = _
  simp only [execCobblerLoadStore, hr, hin]
  rfl

/-- A remote load that Table 11-3 can hold goes to the transport. -/
theorem exec_cobblerRemoteLoad {a : Word} {n : Nat} (hpos : 0 < n) (hlen : n ≤ 256) (hend : a.toNat + n ≤ 2 ^ 54) :
    exec (.cobblerLoadStore q blk (.remoteLoad d a n)) s = .next
      ((xtSubmit s d 2 (unsent (lineRequest s q.val 1 d a.toNat (leBytes 2 n) []) 3 blk.val 0 0)).getD
        (s.emit (.cobblerData blk.val 3 []))) := by
  have hfits : ¬(2 ^ 54 < a.toNat + n ∨ n = 0 ∨ 256 < n) := by omega
  show execCobblerLoadStore q blk (.remoteLoad d a n) s = _
  simp only [execCobblerLoadStore, hr, cobblerRemote]
  rw [if_neg (by decide), if_neg hfits]
  cases xtSubmit s d 2 (unsent (lineRequest s q.val 1 d a.toNat (leBytes 2 n) []) 3 blk.val 0 0) <;> rfl

end

/-- Settles O33: a load or store within the partition's regions on this module, one outside them, and a remote load. -/
theorem cobblerCoresReachTheirPartition : Obligations.CobblerCoresReachTheirPartition := by
  intro p b s hr
  refine ⟨fun a => ?_, fun a n hin hplace hown hread hhome => ⟨?_, fun w hpos hbase hlo hhi => ?_⟩,
    fun a bytes hne => ⟨fun hin hown hhome hw hbad htrusted => ?_, fun hin => ?_⟩,
    fun d a n hpos hlen hend => ⟨fun hlost => ?_, fun hreach hwaiting huse hstarted hroom => ?_⟩⟩
  · obtain ⟨hstop, hothers⟩ := cobblerStop_block hr
    exact ⟨_, rfl, hstop, cobblerStop_mem .., cobblerStop_lanes .., cobblerStop_counters .., hothers⟩
  · obtain ⟨L, hL⟩ := cobblerLoad_gives (b := b.val) hplace hread hhome
    exact ⟨_, (exec_cobblerLoad hr hin hown).trans (congrArg _ hL), rfl, rfl, rfl⟩
  · exact ⟨_, exec_cobblerLoad hr hin hown, cobblerLoad_lost hplace hread hhome hpos hbase hlo hhi⟩
  · have hplace : placeOf s p.val a.toNat = .own := hown 0 (List.length_pos_iff.2 hne)
    obtain ⟨L, hL⟩ := cobblerStore_stores (b := b.val) hplace hhome hw
    refine ⟨_, (exec_cobblerStore hr hin hown).trans (congrArg _ hL), fun i hi => ?_, fun x hx => ?_, ?_, ?_⟩
    · exact memByte_storeRaw_span (s := withLines s L) hbad htrusted hi
    · exact memByte_storeRaw_out (withLines s L) _ _ _ x hx
    · exact storeRaw_out (s := withLines s L) ..
    · exact storeRaw_lanes (s := withLines s L) ..
  · exact ⟨_, exec_cobblerStore_refused hr hin, (cobblerStop_block hr).1, cobblerStop_mem .., cobblerStop_lanes ..⟩
  · rw [exec_cobblerRemoteLoad hr hpos hlen hend, xtSubmit, if_pos hlost]
    rfl
  · obtain ⟨t, ht, hc2⟩ := xtSubmit_sends
      (u := unsent (lineRequest s p.val 1 d a.toNat (leBytes 2 n) []) 3 b.val 0 0) hreach hwaiting huse hstarted hroom rfl
    obtain ⟨-, hmem, -⟩ := (xtSubmit_onlyFab ht).rest
    obtain ⟨hlanes, -⟩ := (xtSubmit_onlyFab ht).stores
    refine ⟨t, _, ?_, congrArg Session.unacked hc2, rfl, rfl, rfl, rfl, congrArg Session.nextPsn hc2, hmem, hlanes⟩
    rw [exec_cobblerRemoteLoad hr hpos hlen hend, ht]
    rfl

end Sys2Proof.Machine
end
